-- ==== Sys2Proof/Word.lean ====
section
/-! DEFINITION. The word types of the Z7 (R5, R13) and their plainest readings. -/
namespace Sys2Proof
set_option Elab.async false

/-- A byte of memory. -/
abbrev Byte := BitVec 8
/-- A 64-bit scalar register or address. -/
abbrev Word := BitVec 64
/-- One lane of a vector register, and an instruction word. -/
abbrev Word32 := BitVec 32
/-- One lane of an accumulator, in format A96 (R17). -/
abbrev Acc := BitVec 96

end Sys2Proof
end

