-- ==== Sys2Proof/Syntax.lean ====
section
/-! DEFINITION. The abstract syntax of the Z7 (Exanauz 1.0): one constructor of `Instr` for each row of
spec/opcode_table.json, the 190 instruction words first (R77, R83), then the 119 device events that the table lists
beside them. Register numbers stay bit vectors of the width of their fields (R61), every other code is an inductive
type of its own, so that no reserved code can be written down. -/
namespace Sys2Proof
set_option Elab.async false

/-- A 6-bit scalar register index (R61). -/
abbrev SReg := BitVec 6
/-- A 7-bit vector register index (R61). -/
abbrev VReg := BitVec 7
/-- A 4-bit predicate index (R61). -/
abbrev PReg := BitVec 4
/-- The guard field G (R59). -/
abbrev Guard := BitVec 2
/-- A column, c0 to c63 (R2). -/
abbrev ColId := Fin 64
/-- A compute core by its global identifier 4c + k (R2). -/
abbrev CoreId := Fin 256
/-- A group slot of a core (R224). -/
abbrev SlotId := Fin 32
/-- A launch-signal line of a column (R219). -/
abbrev LineId := Fin 8
/-- A context (R310). -/
abbrev CtxId := Fin 64
/-- A journal: 0 to 63 by context, 64 the management journal (R313). -/
abbrev JournalId := Fin 65
/-- A base die (R1). -/
abbrev DieId := Fin 4
/-- A UCIe pair: d0–d1, d0–d2, d1–d3, d2–d3 (R365). -/
abbrev PairId := Fin 4
/-- A UALink port (R366). -/
abbrev PortId := Fin 64
/-- A UALink accelerator identifier (R367). -/
abbrev PeerId := Fin 1024

/-- Selector of FLCLR (R101, R103): which half of FL it writes. -/
inductive FlSel where
  | flags | arm | both
  deriving DecidableEq, Repr

/-- The code of each `FlSel` in an instruction word. -/
def FlSel.code : FlSel → Nat
  | .flags => 1
  | .arm => 2
  | .both => 3

/-- The `FlSel` of a code; `none` for a code the spec does not list. -/
def FlSel.ofCode? : Nat → Option FlSel
  | 1 => some .flags
  | 2 => some .arm
  | 3 => some .both
  | _ => none

/-- A special register of R31, by its selector. -/
inductive Sel where
  | lane | group | team | role | gridx | gridy | gridz | column | core | live | depth | tcause | taddr | tmask | tpc | tstep | tmd | spillbase | gstat | evt | clk | ptptime
  deriving DecidableEq, Repr

/-- The code of each `Sel` in an instruction word. -/
def Sel.code : Sel → Nat
  | .lane => 0
  | .group => 1
  | .team => 2
  | .role => 3
  | .gridx => 4
  | .gridy => 5
  | .gridz => 6
  | .column => 7
  | .core => 8
  | .live => 9
  | .depth => 10
  | .tcause => 16
  | .taddr => 17
  | .tmask => 18
  | .tpc => 19
  | .tstep => 20
  | .tmd => 21
  | .spillbase => 24
  | .gstat => 25
  | .evt => 32
  | .clk => 33
  | .ptptime => 34

/-- The `Sel` of a code; `none` for a code the spec does not list. -/
def Sel.ofCode? : Nat → Option Sel
  | 0 => some .lane
  | 1 => some .group
  | 2 => some .team
  | 3 => some .role
  | 4 => some .gridx
  | 5 => some .gridy
  | 6 => some .gridz
  | 7 => some .column
  | 8 => some .core
  | 9 => some .live
  | 10 => some .depth
  | 16 => some .tcause
  | 17 => some .taddr
  | 18 => some .tmask
  | 19 => some .tpc
  | 20 => some .tstep
  | 21 => some .tmd
  | 24 => some .spillbase
  | 25 => some .gstat
  | 32 => some .evt
  | 33 => some .clk
  | 34 => some .ptptime
  | _ => none

/-- An element type of MD.TYPE (R16, R20). -/
inductive EType where
  | i32 | n32 | i16x2 | n16x2 | i8x4 | n8x4 | f32 | f16x2 | bf16x2 | f64
  deriving DecidableEq, Repr

/-- The code of each `EType` in an instruction word. -/
def EType.code : EType → Nat
  | .i32 => 0
  | .n32 => 1
  | .i16x2 => 2
  | .n16x2 => 3
  | .i8x4 => 4
  | .n8x4 => 5
  | .f32 => 6
  | .f16x2 => 7
  | .bf16x2 => 8
  | .f64 => 9

/-- The `EType` of a code; `none` for a code the spec does not list. -/
def EType.ofCode? : Nat → Option EType
  | 0 => some .i32
  | 1 => some .n32
  | 2 => some .i16x2
  | 3 => some .n16x2
  | 4 => some .i8x4
  | 5 => some .n8x4
  | 6 => some .f32
  | 7 => some .f16x2
  | 8 => some .bf16x2
  | 9 => some .f64
  | _ => none

/-- A condition of VCMP (R121). -/
inductive VCond where
  | eq | ne | lt | le | gt | ge
  deriving DecidableEq, Repr

/-- The code of each `VCond` in an instruction word. -/
def VCond.code : VCond → Nat
  | .eq => 0
  | .ne => 1
  | .lt => 2
  | .le => 3
  | .gt => 4
  | .ge => 5

/-- The `VCond` of a code; `none` for a code the spec does not list. -/
def VCond.ofCode? : Nat → Option VCond
  | 0 => some .eq
  | 1 => some .ne
  | 2 => some .lt
  | 3 => some .le
  | 4 => some .gt
  | 5 => some .ge
  | _ => none

/-- A condition of FCMP (R121). -/
inductive FCond where
  | eq | ne | lt | le | gt | ge | un | ord
  deriving DecidableEq, Repr

/-- The code of each `FCond` in an instruction word. -/
def FCond.code : FCond → Nat
  | .eq => 0
  | .ne => 1
  | .lt => 2
  | .le => 3
  | .gt => 4
  | .ge => 5
  | .un => 6
  | .ord => 7

/-- The `FCond` of a code; `none` for a code the spec does not list. -/
def FCond.ofCode? : Nat → Option FCond
  | 0 => some .eq
  | 1 => some .ne
  | 2 => some .lt
  | 3 => some .le
  | 4 => some .gt
  | 5 => some .ge
  | 6 => some .un
  | 7 => some .ord
  | _ => none

/-- An operation of VRED and VSCAN (R77). -/
inductive RedOp where
  | add | min | max | and | or | xor
  deriving DecidableEq, Repr

/-- The code of each `RedOp` in an instruction word. -/
def RedOp.code : RedOp → Nat
  | .add => 0
  | .min => 1
  | .max => 2
  | .and => 3
  | .or => 4
  | .xor => 5

/-- The `RedOp` of a code; `none` for a code the spec does not list. -/
def RedOp.ofCode? : Nat → Option RedOp
  | 0 => some .add
  | 1 => some .min
  | 2 => some .max
  | 3 => some .and
  | 4 => some .or
  | 5 => some .xor
  | _ => none

/-- An operation of the atomics and reductions (R77). -/
inductive AOp where
  | add | swap | and | or | xor | min | max | minn | maxn
  deriving DecidableEq, Repr

/-- The code of each `AOp` in an instruction word. -/
def AOp.code : AOp → Nat
  | .add => 0
  | .swap => 1
  | .and => 2
  | .or => 3
  | .xor => 4
  | .min => 5
  | .max => 6
  | .minn => 7
  | .maxn => 8

/-- The `AOp` of a code; `none` for a code the spec does not list. -/
def AOp.ofCode? : Nat → Option AOp
  | 0 => some .add
  | 1 => some .swap
  | 2 => some .and
  | 3 => some .or
  | 4 => some .xor
  | 5 => some .min
  | 6 => some .max
  | 7 => some .minn
  | 8 => some .maxn
  | _ => none

/-- A per-lane access size of the MV format (R68). -/
inductive Size where
  | b1 | b2 | b4 | b8
  deriving DecidableEq, Repr

/-- The code of each `Size` in an instruction word. -/
def Size.code : Size → Nat
  | .b1 => 0
  | .b2 => 1
  | .b4 => 2
  | .b8 => 3

/-- The `Size` of a code; `none` for a code the spec does not list. -/
def Size.ofCode? : Nat → Option Size
  | 0 => some .b1
  | 1 => some .b2
  | 2 => some .b4
  | 3 => some .b8
  | _ => none

/-- A space that PREF accepts (R82). -/
inductive PrefSpace where
  | global | vault
  deriving DecidableEq, Repr

/-- The code of each `PrefSpace` in an instruction word. -/
def PrefSpace.code : PrefSpace → Nat
  | .global => 0
  | .vault => 2

/-- The `PrefSpace` of a code; `none` for a code the spec does not list. -/
def PrefSpace.ofCode? : Nat → Option PrefSpace
  | 0 => some .global
  | 2 => some .vault
  | _ => none

/-- A scope code (R80). -/
inductive Scope where
  | grp | team | core | col | die | dev | sys
  deriving DecidableEq, Repr

/-- The code of each `Scope` in an instruction word. -/
def Scope.code : Scope → Nat
  | .grp => 0
  | .team => 1
  | .core => 2
  | .col => 3
  | .die => 4
  | .dev => 5
  | .sys => 6

/-- The `Scope` of a code; `none` for a code the spec does not list. -/
def Scope.ofCode? : Nat → Option Scope
  | 0 => some .grp
  | 1 => some .team
  | 2 => some .core
  | 3 => some .col
  | 4 => some .die
  | 5 => some .dev
  | 6 => some .sys
  | _ => none

/-- An order code (R80). -/
inductive Order where
  | relaxed | acq | rel | ar | sc
  deriving DecidableEq, Repr

/-- The code of each `Order` in an instruction word. -/
def Order.code : Order → Nat
  | .relaxed => 0
  | .acq => 1
  | .rel => 2
  | .ar => 3
  | .sc => 4

/-- The `Order` of a code; `none` for a code the spec does not list. -/
def Order.ofCode? : Nat → Option Order
  | 0 => some .relaxed
  | 1 => some .acq
  | 2 => some .rel
  | 3 => some .ar
  | 4 => some .sc
  | _ => none

/-- Bytes per lane of COPYV (R176). -/
inductive PieceSize where
  | p4 | p8 | p16 | p32
  deriving DecidableEq, Repr

/-- The code of each `PieceSize` in an instruction word. -/
def PieceSize.code : PieceSize → Nat
  | .p4 => 0
  | .p8 => 1
  | .p16 => 2
  | .p32 => 3

/-- The `PieceSize` of a code; `none` for a code the spec does not list. -/
def PieceSize.ofCode? : Nat → Option PieceSize
  | 0 => some .p4
  | 1 => some .p8
  | 2 => some .p16
  | 3 => some .p32
  | _ => none

/-- A form of SLCFG (R200). -/
inductive SlcfgForm where
  | resize | query
  deriving DecidableEq, Repr

/-- The code of each `SlcfgForm` in an instruction word. -/
def SlcfgForm.code : SlcfgForm → Nat
  | .resize => 1
  | .query => 2

/-- The `SlcfgForm` of a code; `none` for a code the spec does not list. -/
def SlcfgForm.ofCode? : Nat → Option SlcfgForm
  | 1 => some .resize
  | 2 => some .query
  | _ => none

/-- A form of TLBINV (R200). -/
inductive TlbForm where
  | page | core | dev
  deriving DecidableEq, Repr

/-- The code of each `TlbForm` in an instruction word. -/
def TlbForm.code : TlbForm → Nat
  | .page => 0
  | .core => 1
  | .dev => 2

/-- The `TlbForm` of a code; `none` for a code the spec does not list. -/
def TlbForm.ofCode? : Nat → Option TlbForm
  | 0 => some .page
  | 1 => some .core
  | 2 => some .dev
  | _ => none

/-- A form of CACHECL (R200): the operation and the reach. -/
inductive CacheForm where
  | clCore | cliCore | clCol | cliCol | clDev | cliDev
  deriving DecidableEq, Repr

/-- The code of each `CacheForm` in an instruction word. -/
def CacheForm.code : CacheForm → Nat
  | .clCore => 0
  | .cliCore => 1
  | .clCol => 2
  | .cliCol => 3
  | .clDev => 4
  | .cliDev => 5

/-- The `CacheForm` of a code; `none` for a code the spec does not list. -/
def CacheForm.ofCode? : Nat → Option CacheForm
  | 0 => some .clCore
  | 1 => some .cliCore
  | 2 => some .clCol
  | 3 => some .cliCol
  | 4 => some .clDev
  | 5 => some .cliDev
  | _ => none

/-- A conversion code of CVT and CVT.FROM (R79): an MD.TYPE code or a format slot. -/
inductive ConvCode where
  | type (t : EType)
  | slot (k : BitVec 3)
  deriving DecidableEq, Repr

/-- The code of a conversion operand (R79). -/
def ConvCode.code : ConvCode → Nat
  | .type t => t.code
  | .slot k => 64 + k.toNat

/-- The conversion operand of a code: 0x00 to 0x09 types, 0x40 to 0x47 slots (R79). -/
def ConvCode.ofCode? (n : Nat) : Option ConvCode :=
  if n < 10 then (EType.ofCode? n).map .type
  else if 64 ≤ n ∧ n < 72 then some (.slot (BitVec.ofNat 3 n))
  else none

/-- What a peer answers to a read that a group waits for (R142, R367, R373). -/
inductive PeerReply where
  /-- The bytes, for every lane of the access in ascending lane order. -/
  | data (bytes : List (BitVec 8))
  /-- The owner refuses the request (R367). -/
  | refused
  deriving DecidableEq, Repr

/-- What an agent outside the cores asks of memory: a host core, a DMC, the CXL host, a peer (R253, R256, R307, R341, R366). Acquire and
release act at system scope. -/
inductive MemRequest where
  /-- A read of as many bytes as the access has. -/
  | read (acquire : Bool)
  | write (data : List (BitVec 8)) (release : Bool)
  /-- A read-modify-write of a word: operation, element type (none: a 64-bit word), operand, the value it compares with if it is a
  compare-and-swap, whether it answers the old value. -/
  | atomic (op : AOp) (type : Option EType) (operand : Nat) (compare : Option Nat) (answers acquire release : Bool)
  /-- A FENCE of a host core or DMC. -/
  | fence (acquire release : Bool)
  deriving DecidableEq, Repr

/-- A host core, or the DMC of a base die (R362). -/
inductive HostAgent where
  | core (col : ColId)
  | dmc (die : DieId)
  deriving DecidableEq, Repr

/-- How a retired store fails (R196), and whose it is: the team, the group's index in it, and the context. -/
inductive StoreFailHow where
  /-- An error-correction read-modify-write that cannot be reconstructed, or a poisoned granule (R354). -/
  | sector (team index : Nat) (ctx : CtxId)
  /-- A peer write refused by its owner or cut off by its fence (R367, R373). -/
  | peer (team index : Nat) (ctx : CtxId)
  deriving DecidableEq, Repr

/-- What the error-correcting code finds in a sector it reads (R353, R354). -/
inductive EccFinding where
  | clean
  /-- An error in the named symbol. -/
  | correctable (symbol : BitVec 8)
  | uncorrectable
  deriving DecidableEq, Repr

/-- Why a column is fenced (R339; the codes of COLUMN_FENCED in R390). -/
inductive FenceCause where
  | vaultBank (bank : Fin 16) | tsvBundle | computeCore | cracked
  deriving DecidableEq, Repr

/-- How a boot step ends on its units (R374, R375). -/
inductive BootOutcome where
  /-- Every die reports the step. -/
  | done
  /-- A unit fails with a detail code: a stack, a column, a port, or 0xFF for the device. -/
  | failed (unit : BitVec 8) (detail : BitVec 32)
  deriving DecidableEq, Repr

/-- Why an instruction fetch fails (R92, R192, R324). -/
inductive FetchFault where
  /-- The page is absent and recoverable, found at a table level. -/
  | recoverable (level : Nat)
  /-- The word stands in a poisoned sector (R354). -/
  | poisoned
  /-- The page lies in a peer window and the owner has not answered (R367). -/
  | peer
  /-- Any other failure. -/
  | access
  deriving DecidableEq, Repr

/-- The state of the TDI (R377). -/
inductive TdispState where
  | unlocked | locked | run
  deriving DecidableEq, Repr

/-- What a secured message that loads a key slot says of the slot's mode (R356), and whether it comes through an IDE stream (R377). -/
structure KeyMessage where
  xts : Bool
  ide : Bool
  deriving DecidableEq, Repr

/-- The instructions and events of spec/opcode_table.json, one constructor per row. -/
inductive Instr where
  /-- R91: Unconditional branch to PC plus four times the signed 24-bit word offset. -/
  | branch (off : BitVec 24)
  /-- R91: Pushes PC+4 on the return stack, spilling under R29 if full, and branches to PC plus the offset. -/
  | call (off : BitVec 24)
  /-- R96: Does nothing and advances PC by 4. -/
  | nop 
  /-- R93: Checks the target in s[sa], pushes PC+4 and jumps to it. -/
  | calls (a : SReg)
  /-- R93: Pops the return stack, refilling from the spill area under R30 if needed, and jumps to the popped address. -/
  | ret 
  /-- R93: Checks the target in s[sa] and jumps to it. -/
  | jmps (a : SReg)
  /-- R95: Marks a legal indirect-transfer target and has no effect when executed. -/
  | land 
  /-- R97: Stops the group for good, writes GROUP_HALTED and puts the context in the error state, or re-dispatches an uncommitted versioned team. -/
  | halt 
  /-- R98: Becomes a blocking point with an immediate wake condition when a pre-emption request is pending, and otherwise does nothing. -/
  | poll 
  /-- R99: Makes the group the least preferred of its role class and keeps it from being selected for 16 cycles. -/
  | yield 
  /-- R100: Waits for the group's asynchronous operations to complete and then finishes the group. -/
  | endGroup 
  /-- R91: Branches when s[t] is zero. -/
  | bz (t : SReg) (off : BitVec 18)
  /-- R91: Branches when s[t] is nonzero. -/
  | bnz (t : SReg) (off : BitVec 18)
  /-- R91: Branches when any LIVE lane of the predicate is set. -/
  | bany (t : PReg) (off : BitVec 18)
  /-- R91: Branches when every LIVE lane of the predicate is set. -/
  | ball (t : PReg) (off : BitVec 18)
  /-- R91: Branches when no LIVE lane of the predicate is set. -/
  | bnone (t : PReg) (off : BitVec 18)
  /-- R94: Checks that all LIVE lanes hold the same 64-bit target, then checks and jumps to it. -/
  | jmpv (a : VReg)
  /-- R84: Scalar add modulo 2^64. -/
  | add (d a b : SReg)
  /-- R84: Scalar subtract modulo 2^64. -/
  | sub (d a b : SReg)
  /-- R84: Scalar bitwise AND. -/
  | and (d a b : SReg)
  /-- R84: Scalar bitwise OR. -/
  | or (d a b : SReg)
  /-- R84: Scalar bitwise XOR. -/
  | xor (d a b : SReg)
  /-- R84: Scalar logical shift left by b[5:0]. -/
  | sll (d a b : SReg)
  /-- R84: Scalar logical shift right by b[5:0]. -/
  | srl (d a b : SReg)
  /-- R84: Scalar arithmetic shift right by b[5:0]. -/
  | sra (d a b : SReg)
  /-- R84: Low 64 bits of the scalar product. -/
  | mul (d a b : SReg)
  /-- R84: High 64 bits of the signed scalar product. -/
  | mulh (d a b : SReg)
  /-- R84: High 64 bits of the unsigned scalar product. -/
  | mulhn (d a b : SReg)
  /-- R85: Signed scalar division truncating toward zero, with fixed results for the exceptional cases. -/
  | div (d a b : SReg)
  /-- R85: Unsigned scalar division, with all ones for division by zero. -/
  | divn (d a b : SReg)
  /-- R85: Signed scalar remainder taking the sign of the dividend. -/
  | rem (d a b : SReg)
  /-- R85: Unsigned scalar remainder. -/
  | remn (d a b : SReg)
  /-- R84: Sets 1 when the signed a is less than the signed b. -/
  | slt (d a b : SReg)
  /-- R84: Sets 1 when the unsigned a is less than the unsigned b. -/
  | sltn (d a b : SReg)
  /-- R84: Signed scalar minimum. -/
  | min (d a b : SReg)
  /-- R84: Signed scalar maximum. -/
  | max (d a b : SReg)
  /-- R84: Unsigned scalar minimum. -/
  | minn (d a b : SReg)
  /-- R84: Unsigned scalar maximum. -/
  | maxn (d a b : SReg)
  /-- R84: Sets 1 when a equals b. -/
  | seq (d a b : SReg)
  /-- R84: Counts the leading zero bits of the scalar. -/
  | clz (d a : SReg)
  /-- R84: Counts the trailing zero bits of the scalar. -/
  | ctz (d a : SReg)
  /-- R84: Counts the 1 bits of the scalar. -/
  | popc (d a : SReg)
  /-- R86: Adds the sign-extended 12-bit immediate. -/
  | addi (d a : SReg) (imm : BitVec 12)
  /-- R86: ANDs with the sign-extended immediate. -/
  | andi (d a : SReg) (imm : BitVec 12)
  /-- R86: ORs with the sign-extended immediate. -/
  | ori (d a : SReg) (imm : BitVec 12)
  /-- R111: Checks the glyph entry and the placeholder kinds, then issues the glyph's steps in order with the parameters substituted. -/
  | glyph (gi : BitVec 8) (pA pB : BitVec 7) (kinds : BitVec 2)
  /-- R109: Reads and checks a glyph body image and replaces the glyph store entry. -/
  | glyld (a : SReg) (gi : BitVec 8)
  /-- R86: XORs with the sign-extended immediate. -/
  | xori (d a : SReg) (imm : BitVec 12)
  /-- R86: Scalar logical shift left by an immediate count. -/
  | slli (d a : SReg) (cnt : BitVec 6)
  /-- R86: Scalar logical shift right by an immediate count. -/
  | srli (d a : SReg) (cnt : BitVec 6)
  /-- R86: Scalar arithmetic shift right by an immediate count. -/
  | srai (d a : SReg) (cnt : BitVec 6)
  /-- R86: Sets 1 when the signed a is less than the immediate. -/
  | slti (d a : SReg) (imm : BitVec 12)
  /-- R87: Loads a 16-bit immediate into halfword hw and zeroes the other bits. -/
  | liz (d : SReg) (hw : BitVec 2) (imm : BitVec 16)
  /-- R87: Replaces halfword hw with the immediate and keeps the other bits. -/
  | lik (d : SReg) (hw : BitVec 2) (imm : BitVec 16)
  /-- R89: Loads 8 bytes from a global address into a scalar register, after the checks of R89. -/
  | ld (d a : SReg) (imm : BitVec 12)
  /-- R89: Stores 8 bytes of a scalar register to a global address, after the checks of R89. -/
  | st (d a : SReg) (imm : BitVec 12)
  /-- R90: Loads 8 bytes through the constant cache. -/
  | ldk (d a : SReg) (imm : BitVec 12)
  /-- R102: Writes the masked fields of MD after a legality check and returns the old MD. -/
  | mode (d a : SReg) (mask : BitVec 8)
  /-- R101: Reads MD into a scalar register. -/
  | mdr (d : SReg)
  /-- R101: Reads FL into a scalar register after earlier MMAs have written their flags. -/
  | flr (d : SReg)
  /-- R103: Returns the old FL, clears the selected flags and/or rewrites the arm bits. -/
  | flclr (d a : SReg) (sel : FlSel)
  /-- R104: Copies a special register into a scalar register. -/
  | sreadScalar (d : SReg) (sel : Sel)
  /-- R105: Writes SPILLBASE, or a trap register while in the handler, with the checks of R32. -/
  | swrite (a : SReg) (sel : Sel)
  /-- R104: Writes the lane index, or a special register's low word, into the active lanes. -/
  | sreadVector (g : Guard) (d : VReg) (sel : Sel)
  /-- R106: Lane-wise AND of two predicates. -/
  | pand (g : Guard) (d a b : PReg)
  /-- R106: Lane-wise OR of two predicates. -/
  | por (g : Guard) (d a b : PReg)
  /-- R106: Lane-wise XOR of two predicates. -/
  | pxor (g : Guard) (d a b : PReg)
  /-- R106: Copies a predicate in the active lanes. -/
  | pmov (g : Guard) (d a : PReg)
  /-- R106: Sets predicate lanes from the bits of a scalar register. -/
  | pset (g : Guard) (d : PReg) (a : SReg)
  /-- R107: Copies all 64 bits of a predicate into a scalar register. -/
  | pget (d : SReg) (a : PReg)
  /-- R107: Counts the LIVE set lanes of a predicate. -/
  | pcnt (d : SReg) (a : PReg)
  /-- R107: Gives the lowest LIVE set lane of a predicate, or 64. -/
  | pfirst (d : SReg) (a : PReg)
  /-- R124: Converts elements from MD.TYPE into the format of the conversion code. -/
  | cvt (g : Guard) (d a : VReg) (c : ConvCode)
  /-- R124: Converts elements from the format of the conversion code into MD.TYPE. -/
  | cvtFrom (g : Guard) (d a : VReg) (c : ConvCode)
  /-- R126: Quantises a 32-value block per lane into an e8m0 scale and narrow codes under R53. -/
  | quant (g : Guard) (d a : VReg) (slot : BitVec 3)
  /-- R126: Dequantises a block of narrow codes with its e8m0 scale into MD.TYPE. -/
  | deq (g : Guard) (d a : VReg) (slot : BitVec 3)
  /-- R118: Writes the immediate value into every element of the active lanes. -/
  | vmovi (g : Guard) (d : VReg) (imm : BitVec 10)
  /-- R116: Vector integer add modulo 2^w. -/
  | vadd (g : Guard) (d a b : VReg)
  /-- R116: Vector integer subtract modulo 2^w. -/
  | vsub (g : Guard) (d a b : VReg)
  /-- R116: Vector integer multiply modulo 2^w. -/
  | vmul (g : Guard) (d a b : VReg)
  /-- R116: High half of the vector integer product. -/
  | vmulh (g : Guard) (d a b : VReg)
  /-- R116: Vector integer minimum. -/
  | vmin (g : Guard) (d a b : VReg)
  /-- R116: Vector integer maximum. -/
  | vmax (g : Guard) (d a b : VReg)
  /-- R116: Absolute difference as an unsigned pattern. -/
  | vabsd (g : Guard) (d a b : VReg)
  /-- R116: Rounded-up average of two elements. -/
  | vavg (g : Guard) (d a b : VReg)
  /-- R116: Bitwise AND of lane words. -/
  | vand (g : Guard) (d a b : VReg)
  /-- R116: Bitwise OR of lane words. -/
  | vor (g : Guard) (d a b : VReg)
  /-- R116: Bitwise XOR of lane words. -/
  | vxor (g : Guard) (d a b : VReg)
  /-- R116: Bitwise a AND NOT b of lane words. -/
  | vandn (g : Guard) (d a b : VReg)
  /-- R116: Vector logical shift left by a per-element count. -/
  | vsll (g : Guard) (d a b : VReg)
  /-- R116: Vector logical shift right. -/
  | vsrl (g : Guard) (d a b : VReg)
  /-- R116: Vector arithmetic shift right. -/
  | vsra (g : Guard) (d a b : VReg)
  /-- R116: Counts the 1 bits of each element. -/
  | vpopc (g : Guard) (d a : VReg)
  /-- R116: Saturating vector add, setting SAT when clamped. -/
  | vadds (g : Guard) (d a b : VReg)
  /-- R116: Saturating vector subtract. -/
  | vsubs (g : Guard) (d a b : VReg)
  /-- R116: Vector integer multiply-add into the destination. -/
  | vmad (g : Guard) (d a b : VReg)
  /-- R116: Adds the four-byte dot product to the lane word. -/
  | vdot4 (g : Guard) (d a b : VReg)
  /-- R117: Element-wise integer division with fixed exceptional results. -/
  | vdiv (g : Guard) (d a b : VReg)
  /-- R117: Element-wise integer remainder. -/
  | vrem (g : Guard) (d a b : VReg)
  /-- R116: Counts the leading zeros of each element. -/
  | vclz (g : Guard) (d a : VReg)
  /-- R116: Absolute value of each element, saturating the most negative value. -/
  | vabs (g : Guard) (d a : VReg)
  /-- R118: Adds the immediate to each element. -/
  | vaddi (g : Guard) (d a : VReg) (imm : BitVec 10)
  /-- R118: Vector logical shift left by an immediate count. -/
  | vslli (g : Guard) (d a : VReg) (cnt : BitVec 5)
  /-- R118: Vector logical shift right by an immediate count. -/
  | vsrli (g : Guard) (d a : VReg) (cnt : BitVec 5)
  /-- R118: Vector arithmetic shift right by an immediate count. -/
  | vsrai (g : Guard) (d a : VReg) (cnt : BitVec 5)
  /-- R119: Vector float add, rounded under MD.ROUND. -/
  | fadd (g : Guard) (d a b : VReg)
  /-- R119: Vector float subtract. -/
  | fsub (g : Guard) (d a b : VReg)
  /-- R119: Vector float multiply. -/
  | fmul (g : Guard) (d a b : VReg)
  /-- R119: Vector float minimum with minimumNumber NaN handling. -/
  | fmin (g : Guard) (d a b : VReg)
  /-- R119: Vector float maximum with maximumNumber NaN handling. -/
  | fmax (g : Guard) (d a b : VReg)
  /-- R119: Vector float absolute value. -/
  | fabs (g : Guard) (d a : VReg)
  /-- R119: Vector float negation. -/
  | fneg (g : Guard) (d a : VReg)
  /-- R119: Magnitude of a with the sign bit of b. -/
  | fsgnj (g : Guard) (d a b : VReg)
  /-- R119: Fused a·b + d with one rounding. -/
  | fma (g : Guard) (d a b : VReg)
  /-- R119: Fused a·b − d with one rounding. -/
  | fms (g : Guard) (d a b : VReg)
  /-- R119: Fused −(a·b) + d with one rounding. -/
  | fnma (g : Guard) (d a b : VReg)
  /-- R120: Vector float division, correctly rounded, with the special cases of R120. -/
  | fdiv (g : Guard) (d a b : VReg)
  /-- R43: Correctly rounded square root. -/
  | fsqrt (g : Guard) (d a : VReg)
  /-- R43: Correctly rounded reciprocal square root. -/
  | frsq (g : Guard) (d a : VReg)
  /-- R43: Base-2 exponential, faithfully rounded. -/
  | fexp2 (g : Guard) (d a : VReg)
  /-- R43: Base-2 logarithm, faithfully rounded. -/
  | flog2 (g : Guard) (d a : VReg)
  /-- R121: Integer compare of element 0, writing the true lanes to pd and the false lanes to pe. -/
  | vcmp (g : Guard) (c : VCond) (pd pe : PReg) (a b : VReg)
  /-- R121: Float compare of element 0 with NaN rules, writing the true lanes to pd and the false lanes to pe. -/
  | fcmp (g : Guard) (c : FCond) (pd pe : PReg) (a b : VReg)
  /-- R122: Selects va or vb per lane by a predicate. -/
  | vsel (g : Guard) (d a b : VReg) (p : PReg)
  /-- R123: Copies lane words, or pairs under f64. -/
  | vmov (g : Guard) (d a : VReg)
  /-- R123: Broadcasts a scalar register into the active lanes. -/
  | vbcast (g : Guard) (d : VReg) (a : SReg)
  /-- R129: Reads each lane from the lane given in vb. -/
  | shfl (g : Guard) (d a b : VReg)
  /-- R129: Reads each lane from the lane L XOR s[sb]. -/
  | shflx (g : Guard) (d a : VReg) (b : SReg)
  /-- R129: Reads each lane from lane L − d where that lane exists. -/
  | shflu (g : Guard) (d a : VReg) (b : SReg)
  /-- R129: Reads each lane from lane L + d where that lane exists. -/
  | shfld (g : Guard) (d a : VReg) (b : SReg)
  /-- R130: Extracts lane j of a vector into a scalar register. -/
  | vextr (g : Guard) (d : SReg) (a : VReg) (b : SReg)
  /-- R130: Inserts a scalar into lane j of a vector. -/
  | vins (g : Guard) (d : VReg) (a b : SReg)
  /-- R131: Packs the active lanes to the bottom and zeroes the rest of LIVE. -/
  | vcompact (g : Guard) (d a : VReg)
  /-- R132: Reduces the active lanes in a fixed tree and writes the result into every active lane. -/
  | vred (g : Guard) (d a : VReg) (f : RedOp)
  /-- R133: Inclusive prefix over the active lanes in ascending order. -/
  | vscan (g : Guard) (d a : VReg) (f : RedOp)
  /-- R181: Streams A from vector registers against inkwell B and accumulates into a quarter under R57. -/
  | mma (g : Guard) (q : BitVec 2) (a : VReg) (mg : BitVec 6) (fa fb : BitVec 3)
  /-- R183: Writes +0 into the 16 accumulators of a quarter. -/
  | azero (g : Guard) (q : BitVec 2)
  /-- R127: Converts a quarter of accumulators into MD.TYPE vector registers. -/
  | cvta (g : Guard) (q : BitVec 2) (d : VReg)
  /-- R180: Restores an inkwell macro to its admission state. -/
  | inkz (mg : BitVec 6)
  /-- R137: Per-lane load from global memory. -/
  | vld (g : Guard) (d a : VReg) (b : SReg) (sz : Size)
  /-- R137: Per-lane load from the team's scratchpad. -/
  | spld (g : Guard) (d a : VReg) (b : SReg) (sz : Size)
  /-- R137: Per-lane load from the vault-local window. -/
  | vtld (g : Guard) (d a : VReg) (b : SReg) (sz : Size)
  /-- R137: Per-lane load from the column's slice scratch. -/
  | slld (g : Guard) (d a : VReg) (b : SReg) (sz : Size)
  /-- R137: Per-lane store to global memory. -/
  | vst (g : Guard) (d a : VReg) (b : SReg) (sz : Size)
  /-- R137: Per-lane store to the scratchpad. -/
  | spst (g : Guard) (d a : VReg) (b : SReg) (sz : Size)
  /-- R137: Per-lane store to the vault-local window. -/
  | vtst (g : Guard) (d a : VReg) (b : SReg) (sz : Size)
  /-- R137: Per-lane store to slice scratch. -/
  | slst (g : Guard) (d a : VReg) (b : SReg) (sz : Size)
  /-- R143: Contiguous vector load from global memory. -/
  | vldc (g : Guard) (d : VReg) (b : SReg) (imm : BitVec 11)
  /-- R143: Contiguous vector store to global memory. -/
  | vstc (g : Guard) (d : VReg) (b : SReg) (imm : BitVec 11)
  /-- R144: Prefetches lines into the L1, or opens vault rows, and never traps at step 8. -/
  | pref (g : Guard) (a : VReg) (b : SReg) (sp : PrefSpace)
  /-- R147: Per-lane returning atomic on a 4- or 8-byte word, lanes in ascending order. -/
  | amov (g : Guard) (d a : VReg) (sc : Scope) (od : Order) (f : AOp)
  /-- R149: Per-lane compare-and-swap of a 4-byte word. -/
  | casv (g : Guard) (d a : VReg) (sc : Scope) (od : Order)
  /-- R152: Per-lane non-returning reduction that may rest in the combining buffer. -/
  | redv (g : Guard) (d a : VReg) (sc : Scope) (od : Order) (f : AOp)
  /-- R160: One take granting the longest prefix of active lanes whose amounts fit. -/
  | altakev (g : Guard) (d : PReg) (a : VReg) (b : SReg)
  /-- R176: Gathers one piece per lane from global memory into the scratchpad, counted into a point. -/
  | copyv (g : Guard) (n : BitVec 7) (a b : VReg) (sz : PieceSize)
  /-- R151: Scalar returning 64-bit atomic. -/
  | amos (d a : SReg) (sc : Scope) (od : Order) (f : AOp)
  /-- R152: Scalar non-returning 64-bit reduction. -/
  | reds (d a : SReg) (sc : Scope) (od : Order) (f : AOp)
  /-- R151: Scalar 8-byte compare-and-swap with a register pair. -/
  | cass (d a : SReg) (sc : Scope) (od : Order)
  /-- R154: 8-byte acquire load. -/
  | lda (d a : SReg) (sc : Scope) (od : Order)
  /-- R154: 8-byte release store. -/
  | strl (d a : SReg) (sc : Scope) (od : Order)
  /-- R155: Release and/or acquire fence at the given scope. -/
  | fence (sc : Scope) (od : Order)
  /-- R156: Makes acquired scratchpad bytes visible to the nib-buffer reads of later MMAS. -/
  | fenceo 
  /-- R158: Registers an allowance object with its total, batch and cap. -/
  | alinit (d a b : SReg)
  /-- R159: Takes n units from an allowance object, or fails. -/
  | altake (d a b : SReg)
  /-- R161: Gives n units to the column allowance and the home. -/
  | algive (d a b : SReg)
  /-- R162: Recalls every allowance and returns the exact value. -/
  | alread (d a : SReg)
  /-- R163: Recalls, returns the exact value, writes the line and unregisters the object. -/
  | alfree (d a : SReg)
  /-- R168: Sets EXPECTED and EXT of an idle point and clears its error. -/
  | rdvinit (pt : BitVec 5) (a b : SReg)
  /-- R169: Returns the current phase as a token and counts one arrival. -/
  | arrive (pt : BitVec 5) (a : SReg)
  /-- R169: Adds externally delivered bytes to the point's pending counter. -/
  | expect (pt : BitVec 5) (a : SReg)
  /-- R170: Tests the armed flags, then completes or blocks until the phase differs from the token. -/
  | waitp (pt : BitVec 5) (a : SReg)
  /-- R170: Continues at a continuation when the phase differs, or leaves the issue pool until the flip. -/
  | waity (pt : BitVec 5) (a b : SReg)
  /-- R169: Tests the armed flags, arrives, and waits on the phase it held before arriving. -/
  | arwait (pt : BitVec 5)
  /-- R171: Reads a snapshot of the point's status word and ERRADDR. -/
  | rdvstat (pt : BitVec 5) (a b : SReg)
  /-- R172: Leader's device-scope release and arrival at a grid point, waiting for the previous arrival if needed. -/
  | garrive (pt : BitVec 5)
  /-- R172: Waits until the grid point's completed phases equal the team's arrivals. -/
  | gwait (pt : BitVec 5)
  /-- R188: GARRIVE and GWAIT with a tile report and a schedule-table selection. -/
  | phase (pt : BitVec 5) (a b : SReg)
  /-- R174: Adds LEN to a point and starts an asynchronous linear copy between spaces. -/
  | copy (pt : BitVec 5) (a b : SReg)
  /-- R175: Reads a tensor region record and starts an asynchronous box copy. -/
  | copyt (pt : BitVec 5) (a b : SReg)
  /-- R179: Sets the macro's format record and starts loading and converting a B tile from the scratchpad into the macro. -/
  | ink (pt : BitVec 5) (a b : SReg)
  /-- R182: Starts an asynchronous matrix product with A read from the scratchpad, counted into a point. -/
  | mmas (pt : BitVec 5) (a b : SReg)
  /-- R187: Offers one record per active lane to the column's spawn bin and reports the accepted prefix. -/
  | spawn (g : Guard) (d : PReg) (a : VReg) (b : SReg)
  /-- R186: Releases, then queues a child launch record on a launch-signal line and reports the outcome. -/
  | launch (d a b : SReg)
  /-- R195: Raises SOFTWARE_TRAP with the immediate in TADDR. -/
  | trap (imm : BitVec 20)
  /-- R198: Sends a request record to the column host core and blocks until its reply. -/
  | hcall (g : Guard) (d a : VReg) (b : SReg)
  /-- R194: Restores MD from TMD, clears HND and returns to TPC. -/
  | eret 
  /-- R201: Resizes the column slice between cache and slice scratch, or queries its state. -/
  | slcfg (d a : SReg) (form : SlcfgForm)
  /-- R202: Removes translations of the issuing context from the core or the device. -/
  | tlbinv (a : SReg) (form : TlbForm)
  /-- R203: Cleans, or cleans and invalidates, one line at the named reach. -/
  | cachecl (a : SReg) (form : CacheForm)
  /-- R204: Reads EVT and clears its PEND bit. -/
  | evrd (d : SReg)
  /-- Event, R142: A load in flight returns its data and writes its destination registers. -/
  | loadDataReturn (core : CoreId) (slot : SlotId) (reply : PeerReply)
  /-- Event, R181: A retired MMA finishes and writes its accumulators and flags. -/
  | mmaComplete (core : CoreId) (slot : SlotId)
  /-- Event, R182: An MMAS writes its accumulators, ORs its flags and subtracts its bytes from its point. -/
  | mmasComplete (op : Nat)
  /-- Event, R179: An INK writes the last cell of the macro and subtracts its bytes from its point. -/
  | inkComplete (op : Nat)
  /-- Event, R173: The copy engine writes a destination sector and subtracts its bytes from the point. -/
  | copySectorWritten (op : Nat)
  /-- Event, R170: A group blocked at a point is woken by the flip and continues. -/
  | waitWake (core : CoreId) (slot : SlotId)
  /-- Event, R220: An 8-byte store to a launch-signal line queues a record address or is refused. -/
  | launchSignalStore (ctx : CtxId) (col : ColId) (line : LineId) (size off : Nat) (value : BitVec 64)
  /-- Event, R221: A port takes a queued address, reads the record and checks it. -/
  | launchPortRead (col : ColId) (line : LineId)
  /-- Event, R223: The port re-reads an unsatisfied dependence word. -/
  | dependencePoll (grid : Nat)
  /-- Event, R224: Placement finds a core whose capacities meet the team's need and reserves everything at once. -/
  | teamAdmission (grid : Nat)
  /-- Event, R229: A team whose groups, operations and children have finished retires. -/
  | teamRetirement (team : Nat)
  /-- Event, R230: A grid retires: it cleans its lines, writes its completion signal and notifies its parent. -/
  | gridRetirement (grid : Nat)
  /-- Event, R234: Once every group of a team has ended or stands at a blocking point, the team is saved and freed. -/
  | teamSave (team : Nat)
  /-- Event, R271: A REQ reaches the home, adds its units and joins the queue, possibly starting a recall round. -/
  | allowanceReq (col home : ColId)
  /-- Event, R274: A GIVE reaches the home and its units are added to the residual. -/
  | allowanceGive (col home : ColId)
  /-- Event, R271: A FLUSH reaches the home and its units are added to the residual. -/
  | allowanceFlush (col home : ColId)
  /-- Event, R272: A GRANT reaches the column, tops up the allowance with a cap and delivers the result. -/
  | allowanceGrant (home col : ColId)
  /-- Event, R273: A RECALL reaches a column, which marks its entry RECALLED and sends its units in an ACK. -/
  | allowanceRecall (home col : ColId)
  /-- Event, R273: An ACK reaches the home; the last one moves the home to DRAIN. -/
  | allowanceAck (col home : ColId)
  /-- Event, R273: A RELEASE reaches a column, which returns its entry to HOLD or drops it. -/
  | allowanceRelease (home col : ColId)
  /-- Event, R273: The home serves one queued request in DRAIN. -/
  | allowanceDrainServe (obj : Nat)
  /-- Event, R274: The home's reply with the accepted count reaches the column, completing the ALGIVE and writing s[sd]. -/
  | giveReply (home col : ColId)
  /-- Event, R337: A waiting versioned team becomes the oldest uncommitted team of its column and commits. -/
  | earlyCommit (team : Nat)
  /-- Event, R313: Journal command that stores a record address to a launch-signal line. -/
  | journalLaunch (j : JournalId)
  /-- Event, R313: Journal command that copies bytes, optionally notifying a team's point and writing a done word. -/
  | journalCopy (j : JournalId)
  /-- Event, R313: A journal copy writes a sector and, with NOTIFY, subtracts it from the named point. -/
  | journalCopySector (op : Nat)
  /-- Event, R313: Journal command that stores or adds a value with system-scope release. -/
  | journalSignal (j : JournalId)
  /-- Event, R313: Journal command that completes when every earlier command has completed. -/
  | journalBarrier (j : JournalId)
  /-- Event, R75: Issue of a word whose major, minor, guard or reserved fields are not allocated traps ILLEGAL_ENCODING with no effect. -/
  | illegalEncoding (check : BitVec 3) (word : BitVec 32)
  /-- Event, R92: The fetch of the next instruction fails translation or execute permission, parking the group or trapping ACCESS_FAULT at the target. -/
  | instructionFetchFault (why : FetchFault) (va : BitVec 64)
  /-- Event, R344: A parity controller queues a write's delta, and the write is acknowledged. -/
  | parityDeltaAccept (write : Nat)
  /-- Event, R344: A parity controller applies a queued delta and the data is written. -/
  | parityDeltaApply (stripe : Nat)
  /-- Event, R187: A spawn bin's timer expires and the bin forms a team from its oldest records. -/
  | spawnBinTimer (col : ColId) (bin : Nat)
  /-- Event, R7: A write to any other register field. -/
  | registerWrite (off : BitVec 24) (value : BitVec 64) (ide : Bool)
  /-- Event, R380: An entry condition raises a column's governor level, which is a throttle event. -/
  | levelRise (col : ColId)
  /-- Event, R380: A level whose condition has been false for 1 ms falls by one. -/
  | levelFall (col : ColId)
  /-- Event, R370: The owner's PTP time passes E + 100 ns and the held write is performed. -/
  | leaseHoldExpiry (line : Nat)
  /-- Event, R369: A requester drops its L copy when its PTP time reaches E. -/
  | leaseExpiry (col : ColId) (line : Nat)
  /-- Event, R381: Once no team holds the requested units, the window takes its size and is cleared. -/
  | pinwinApply (core : CoreId)
  /-- Event, R196: A retired store fails, writes an incident, sets the error state and marks IMPRECISE_STORE pending. -/
  | storeFailure (core : CoreId) (slot : SlotId) (va pa : BitVec 64) (how : StoreFailHow)
  /-- Event, R225: After 20 µs without admission in the preferred column, the team may be admitted to another column. -/
  | placementDiversionTimeout (grid : Nat)
  /-- Event, R226: After a head team has waited 100 µs, the core admits no other team and holds freed resources for it. -/
  | headTeamHold (core : CoreId)
  /-- Event, R227: A group ready for 8 cycles without issuing becomes aged. -/
  | groupAged (core : CoreId) (slot : SlotId)
  /-- Event, R99: The 16 cycles after a YIELD end and the group may be selected again. -/
  | yieldHoldExpiry (core : CoreId) (slot : SlotId)
  /-- Event, R234: The pre-emption deadline passes and the context is stopped. -/
  | preemptDeadline (ctx : CtxId)
  /-- Event, R236: The watchdog interval passes with no issue, and the context is stopped or reported idle. -/
  | deadlockWatchdog (ctx : CtxId)
  /-- Event, R262: 4,096 cycles after a narrow release mark, the holder's release is promoted to device scope. -/
  | scopeMarkPromotion (line : Nat)
  /-- Event, R247: A page read often enough by a column starts to be copied into a replica frame. -/
  | promotionStart (col : ColId) (ctx : CtxId) (va : BitVec 64) (frame : Nat)
  /-- Event, R247: A replica copy ends and is committed or abandoned by its generation. -/
  | promotionCommit (col : ColId) (frame : Nat)
  /-- Event, R328: A promotion not committed within 100 µs is abandoned. -/
  | promotionAbandon (col : ColId) (frame : Nat)
  /-- Event, R314: A write to SUBMIT posts journal commands, or is ignored or reported as an overrun. -/
  | submitWrite (j : JournalId) (value : BitVec 64)
  /-- Event, R314: A write to AJCONS frees accepted-journal entries. -/
  | ajconsWrite (j : JournalId) (value : BitVec 64)
  /-- Event, R315: The Z7 re-reads a command entry whose SEQ differs, every 1 µs up to 100 µs. -/
  | seqMismatchReread (j : JournalId)
  /-- Event, R312: Checks a context table entry and makes the context RUNNING. -/
  | ctxCreate 
  /-- Event, R312: Re-reads a context's driver-written fields. -/
  | ctxSet 
  /-- Event, R312: Starts saving a running context, or saves a stopped one. -/
  | ctxPreempt 
  /-- Event, R336: Restores and readmits a saved context's grids, bins and teams. -/
  | ctxResume 
  /-- Event, R312: Discards a context's work and clears its error state. -/
  | ctxReset 
  /-- Event, R312: Resets a context and makes it FREE. -/
  | ctxDestroy 
  /-- Event, R313: Stops a running or saving context at once. -/
  | ctxStop 
  /-- Event, R320: The host core names a replied HCALL slot, and the Z7 completes the HCALL. -/
  | hreplyWrite (col : ColId) (value : BitVec 64)
  /-- Event, R319: The host core advances HQHEAD, making room in the HCALL queue. -/
  | hqheadWrite (col : ColId) (value : BitVec 64)
  /-- Event, R331: The host core names a served fault slot, and each waiter translates again or receives the refusal. -/
  | fqdoneWrite (col : ColId) (value : BitVec 64)
  /-- Event, R329: The host core advances FQHEAD, making room in the fault queue. -/
  | fqheadWrite (col : ColId) (value : BitVec 64)
  /-- Event, R326: Write of KIND 0: removes one page of one context. -/
  | tlbShootdownPage (vpn : BitVec 39) (ctx : CtxId)
  /-- Event, R326: Write of KIND 1: removes every translation of one context. -/
  | tlbShootdownContext (ctx : CtxId)
  /-- Event, R326: Write of KIND 2: removes one page in every context. -/
  | tlbShootdownAllContexts (vpn : BitVec 39)
  /-- Event, R327: A shootdown takes full effect and DONE advances. -/
  | shootdownComplete 
  /-- Event, R347: A controller declares its stack lost and the memory mode changes. -/
  | stackLost (stack : Fin 12)
  /-- Event, R350: A write of START requests restriping, which is refused or begins. -/
  | restripeStart 
  /-- Event, R350: One restriped location is written and the watermark moves down, finishing at RESTRIPED. -/
  | restripeStripeDone 
  /-- Event, R354: The patrol scrubber reads a sector and settles it under R354. -/
  | patrolScrub (sector : Nat) (finding : EccFinding)
  /-- Event, R357: A refresh command refreshes 8 rows of a vault bank at the band's interval. -/
  | vaultRefresh (col : ColId) (bank : Fin 16)
  /-- Event, R358: A bank's tRFC ends and merged buffer writes are written back. -/
  | refreshEnd (col : ColId) (bank : Fin 16)
  /-- Event, R359: The DMC renews the vault's refresh lease and takes ownership of the schedule. -/
  | renew (col : ColId) (value : BitVec 64)
  /-- Event, R359: 1.25 ms pass without renewal and the hardware sequencer takes over. -/
  | refreshLeaseLapse (col : ColId)
  /-- Event, R361: Starts copying the whole memory image to the destination, or is refused. -/
  | checkpointSave 
  /-- Event, R361: Starts restoring memory from an image, or is refused. -/
  | checkpointRestore 
  /-- Event, R361: A save or restore finishes or fails, with its incident. -/
  | checkpointComplete (fault : Bool)
  /-- Event, R339: A column failure fences the column and moves or loses its work. -/
  | columnFence (col : ColId) (cause : FenceCause)
  /-- Event, R379: A column's droop shortfall persists for 10 ms and the column is fenced. -/
  | suspectedCrackedConnection (col : ColId) (sensor : Fin 32)
  /-- Event, R379: A die-wide droop shortfall holds the die at T3. -/
  | regulatorDroop (die : DieId) (mv : BitVec 32)
  /-- Event, R381: Writing the key value resets the device with cause DRIVER_REQUEST. -/
  | devreset (value : BitVec 64)
  /-- Event, R381: A write to WAYS resizes the slice as SLCFG.resize for the named context. -/
  | columnWaysWrite (col : ColId) (value : BitVec 64)
  /-- Event, R381: A write to PINWIN requests a new core-pinned window size. -/
  | pinwinWrite (core : CoreId) (value : BitVec 64)
  /-- Event, R380: A write of FORCE holds the column at T3 or releases it. -/
  | govForce (col : ColId) (value : BitVec 64)
  /-- Event, R386: The host consumes device log records, letting reserved records be written. -/
  | logconsWrite (value : BitVec 64)
  /-- Event, R374: Power-on reset starts the boot sequence. -/
  | powerOn 
  /-- Event, R374: A boot step completes on all dies, or fails and takes its alternate path or stops boot. -/
  | bootStep (outcome : BootOutcome)
  /-- Event, R392: A fundamental or hot reset from the host resets the device. -/
  | pcieReset 
  /-- Event, R392: A PLDM reset from the platform management controller resets the device. -/
  | managementRequest 
  /-- Event, R392: A DMC that stops answering for 100 ms resets the device. -/
  | dmcWatchdog (die : DieId)
  /-- Event, R392: A junction above 115 °C resets the device. -/
  | thermalTrip (die : DieId) (celsius : BitVec 8)
  /-- Event, R392: An interposer regulator leaving its tolerance resets the device. -/
  | regulatorFault 
  /-- Event, R365: A flit failing its CRC is retried at link level. -/
  | ucieFlitRetry (pair : PairId) (mod : Fin 16)
  /-- Event, R365: A failed lane is repaired onto a spare. -/
  | ucieLaneRepaired (pair : PairId) (lane : BitVec 16)
  /-- Event, R365: An unrepairable or retry-prone module is disabled. -/
  | ucieModuleDisabled (pair : PairId) (mod : Fin 16)
  /-- Event, R365: A pair's last module is disabled; traffic is re-routed, or the device resets if a second pair is lost. -/
  | dieLinkLost (pair : PairId)
  /-- Event, R366: A UALink port trains in the 200G mode and identifies its partner. -/
  | ualinkPortTraining (port : PortId) (partnerIsZ7 : Bool) (peer : PeerId)
  /-- Event, R366: Both partners' offers retrain the port at the double rate, or it falls back. -/
  | doubleRateOffer (port : PortId) (trained : Bool)
  /-- Event, R369: An owner receives a leased read and grants a lease. -/
  | peerReadRequest (peer : PeerId) (pa : BitVec 64) (len : Nat) (lease : BitVec 8)
  /-- Event, R370: A write to a leased line is held at the owner until the lease expiry plus 100 ns. -/
  | peerWriteRequest (peer : PeerId) (pa : BitVec 64) (data : MemRequest)
  /-- Event, R370: Loss of PTP lock stops leases and lengthens write holds. -/
  | ptpUnlocked (offset : BitVec 64)
  /-- Event, R372: The DMC sends heartbeats every 50 µs and declares a peer dead after three misses. -/
  | heartbeat (peer : PeerId)
  /-- Event, R368: Writing GO clears the fence of a restarted peer. -/
  | goWrite (value : BitVec 64)
  /-- Event, R364: The CXL host answers a back-invalidate snoop and the held device write is performed. -/
  | backInvalidateResponse (line : Nat)
  /-- Event, R377: The SPDM responder returns the measurement blocks. -/
  | spdmGetMeasurements (block : Nat)
  /-- Event, R377: A secured vendor-defined SPDM message loads a memory-encryption key slot. -/
  | keySlotLoad (slot : BitVec 7) (msg : KeyMessage) (k1 k2 : BitVec 256)
  /-- Event, R393: A PLDM request returns a sensor's reading. -/
  | pldmGetSensorReading (sensor : BitVec 16)
  /-- Event, R394: An unacknowledged PlatformEventMessage is retried once after 1 s. -/
  | platformEventRetry (acked : Bool)
  /-- Event, R364: A CXL.mem read or write from the external host reaches HBM, with host-filter tracking, parity update and coherence with device caches. -/
  | cxlMemRequest (pa : BitVec 64) (data : MemRequest) (len : Nat)
  /-- Event, R362: A host core or DMC load, store or atomic reaches device memory or the vault aperture as a die caching agent. -/
  | hostCoreMemoryAccess (agent : HostAgent) (pa : BitVec 64) (data : MemRequest) (len : Nat)
  /-- Event, R366: A UALink port loses its link, leaving the live-port set and writing UALINK_PORT_DOWN. -/
  | ualinkPortDown (port : PortId)
  /-- Event, R370: PTP lock returns within the 50 ns bound and the device resumes granting leases and normal write holds. -/
  | ptpLockRegained 
  /-- Event, R372: A peer's heartbeat arrives, is answered, and sets the peer's PEERLIVE bit after GO. -/
  | peerHeartbeat (peer : PeerId)
  /-- Event, R357: A vault bank's temperature crosses 85, 95 or 105 °C, raising or lowering its refresh band floor and VSTAT.THROTTLE. -/
  | vaultHot (col : ColId) (bank : Fin 16) (celsius : BitVec 8)
  /-- Event, R379: A die-wide droop shortfall ends and the die is no longer held at T3. -/
  | regulatorDroopCleared (die : DieId)
  /-- Event, R386: Once per second, the DMC writes one LOG_RECORDS_MERGED summary per class, code and column of the records it replaced. -/
  | logMergeSummary (cls code : BitVec 8) (col : BitVec 8)
  /-- Event, R377: A TDISP message moves the TDI to or from LOCKED or RUN, changing which register and key-slot writes are refused. -/
  | tdispStateChange (tdi : TdispState)
  deriving DecidableEq, Repr

/-- An instruction with every vector register field and every scalar register field replaced (R73). The 7-bit fields
that hold a scalar index count as scalar fields; predicates, points, orders, codes and immediates stay. The parameters
of GLYPH are no register fields, and no body may hold one (R110). -/
def Instr.mapRegs (fv : VReg → VReg) (fs : SReg → SReg) : Instr → Instr
  | .branch off => .branch off
  | .call off => .call off
  | .nop => .nop
  | .calls a => .calls (fs a)
  | .ret => .ret
  | .jmps a => .jmps (fs a)
  | .land => .land
  | .halt => .halt
  | .poll => .poll
  | .yield => .yield
  | .endGroup => .endGroup
  | .bz t off => .bz (fs t) off
  | .bnz t off => .bnz (fs t) off
  | .bany t off => .bany t off
  | .ball t off => .ball t off
  | .bnone t off => .bnone t off
  | .jmpv a => .jmpv (fv a)
  | .add d a b => .add (fs d) (fs a) (fs b)
  | .sub d a b => .sub (fs d) (fs a) (fs b)
  | .and d a b => .and (fs d) (fs a) (fs b)
  | .or d a b => .or (fs d) (fs a) (fs b)
  | .xor d a b => .xor (fs d) (fs a) (fs b)
  | .sll d a b => .sll (fs d) (fs a) (fs b)
  | .srl d a b => .srl (fs d) (fs a) (fs b)
  | .sra d a b => .sra (fs d) (fs a) (fs b)
  | .mul d a b => .mul (fs d) (fs a) (fs b)
  | .mulh d a b => .mulh (fs d) (fs a) (fs b)
  | .mulhn d a b => .mulhn (fs d) (fs a) (fs b)
  | .div d a b => .div (fs d) (fs a) (fs b)
  | .divn d a b => .divn (fs d) (fs a) (fs b)
  | .rem d a b => .rem (fs d) (fs a) (fs b)
  | .remn d a b => .remn (fs d) (fs a) (fs b)
  | .slt d a b => .slt (fs d) (fs a) (fs b)
  | .sltn d a b => .sltn (fs d) (fs a) (fs b)
  | .min d a b => .min (fs d) (fs a) (fs b)
  | .max d a b => .max (fs d) (fs a) (fs b)
  | .minn d a b => .minn (fs d) (fs a) (fs b)
  | .maxn d a b => .maxn (fs d) (fs a) (fs b)
  | .seq d a b => .seq (fs d) (fs a) (fs b)
  | .clz d a => .clz (fs d) (fs a)
  | .ctz d a => .ctz (fs d) (fs a)
  | .popc d a => .popc (fs d) (fs a)
  | .addi d a imm => .addi (fs d) (fs a) imm
  | .andi d a imm => .andi (fs d) (fs a) imm
  | .ori d a imm => .ori (fs d) (fs a) imm
  | .glyph gi pA pB kinds => .glyph gi pA pB kinds
  | .glyld a gi => .glyld (fs a) gi
  | .xori d a imm => .xori (fs d) (fs a) imm
  | .slli d a cnt => .slli (fs d) (fs a) cnt
  | .srli d a cnt => .srli (fs d) (fs a) cnt
  | .srai d a cnt => .srai (fs d) (fs a) cnt
  | .slti d a imm => .slti (fs d) (fs a) imm
  | .liz d hw imm => .liz (fs d) hw imm
  | .lik d hw imm => .lik (fs d) hw imm
  | .ld d a imm => .ld (fs d) (fs a) imm
  | .st d a imm => .st (fs d) (fs a) imm
  | .ldk d a imm => .ldk (fs d) (fs a) imm
  | .mode d a mask => .mode (fs d) (fs a) mask
  | .mdr d => .mdr (fs d)
  | .flr d => .flr (fs d)
  | .flclr d a sel => .flclr (fs d) (fs a) sel
  | .sreadScalar d sel => .sreadScalar (fs d) sel
  | .swrite a sel => .swrite (fs a) sel
  | .sreadVector g d sel => .sreadVector g (fv d) sel
  | .pand g d a b => .pand g d a b
  | .por g d a b => .por g d a b
  | .pxor g d a b => .pxor g d a b
  | .pmov g d a => .pmov g d a
  | .pset g d a => .pset g d (fs a)
  | .pget d a => .pget (fs d) a
  | .pcnt d a => .pcnt (fs d) a
  | .pfirst d a => .pfirst (fs d) a
  | .cvt g d a c => .cvt g (fv d) (fv a) c
  | .cvtFrom g d a c => .cvtFrom g (fv d) (fv a) c
  | .quant g d a slot => .quant g (fv d) (fv a) slot
  | .deq g d a slot => .deq g (fv d) (fv a) slot
  | .vmovi g d imm => .vmovi g (fv d) imm
  | .vadd g d a b => .vadd g (fv d) (fv a) (fv b)
  | .vsub g d a b => .vsub g (fv d) (fv a) (fv b)
  | .vmul g d a b => .vmul g (fv d) (fv a) (fv b)
  | .vmulh g d a b => .vmulh g (fv d) (fv a) (fv b)
  | .vmin g d a b => .vmin g (fv d) (fv a) (fv b)
  | .vmax g d a b => .vmax g (fv d) (fv a) (fv b)
  | .vabsd g d a b => .vabsd g (fv d) (fv a) (fv b)
  | .vavg g d a b => .vavg g (fv d) (fv a) (fv b)
  | .vand g d a b => .vand g (fv d) (fv a) (fv b)
  | .vor g d a b => .vor g (fv d) (fv a) (fv b)
  | .vxor g d a b => .vxor g (fv d) (fv a) (fv b)
  | .vandn g d a b => .vandn g (fv d) (fv a) (fv b)
  | .vsll g d a b => .vsll g (fv d) (fv a) (fv b)
  | .vsrl g d a b => .vsrl g (fv d) (fv a) (fv b)
  | .vsra g d a b => .vsra g (fv d) (fv a) (fv b)
  | .vpopc g d a => .vpopc g (fv d) (fv a)
  | .vadds g d a b => .vadds g (fv d) (fv a) (fv b)
  | .vsubs g d a b => .vsubs g (fv d) (fv a) (fv b)
  | .vmad g d a b => .vmad g (fv d) (fv a) (fv b)
  | .vdot4 g d a b => .vdot4 g (fv d) (fv a) (fv b)
  | .vdiv g d a b => .vdiv g (fv d) (fv a) (fv b)
  | .vrem g d a b => .vrem g (fv d) (fv a) (fv b)
  | .vclz g d a => .vclz g (fv d) (fv a)
  | .vabs g d a => .vabs g (fv d) (fv a)
  | .vaddi g d a imm => .vaddi g (fv d) (fv a) imm
  | .vslli g d a cnt => .vslli g (fv d) (fv a) cnt
  | .vsrli g d a cnt => .vsrli g (fv d) (fv a) cnt
  | .vsrai g d a cnt => .vsrai g (fv d) (fv a) cnt
  | .fadd g d a b => .fadd g (fv d) (fv a) (fv b)
  | .fsub g d a b => .fsub g (fv d) (fv a) (fv b)
  | .fmul g d a b => .fmul g (fv d) (fv a) (fv b)
  | .fmin g d a b => .fmin g (fv d) (fv a) (fv b)
  | .fmax g d a b => .fmax g (fv d) (fv a) (fv b)
  | .fabs g d a => .fabs g (fv d) (fv a)
  | .fneg g d a => .fneg g (fv d) (fv a)
  | .fsgnj g d a b => .fsgnj g (fv d) (fv a) (fv b)
  | .fma g d a b => .fma g (fv d) (fv a) (fv b)
  | .fms g d a b => .fms g (fv d) (fv a) (fv b)
  | .fnma g d a b => .fnma g (fv d) (fv a) (fv b)
  | .fdiv g d a b => .fdiv g (fv d) (fv a) (fv b)
  | .fsqrt g d a => .fsqrt g (fv d) (fv a)
  | .frsq g d a => .frsq g (fv d) (fv a)
  | .fexp2 g d a => .fexp2 g (fv d) (fv a)
  | .flog2 g d a => .flog2 g (fv d) (fv a)
  | .vcmp g c pd pe a b => .vcmp g c pd pe (fv a) (fv b)
  | .fcmp g c pd pe a b => .fcmp g c pd pe (fv a) (fv b)
  | .vsel g d a b p => .vsel g (fv d) (fv a) (fv b) p
  | .vmov g d a => .vmov g (fv d) (fv a)
  | .vbcast g d a => .vbcast g (fv d) (fs a)
  | .shfl g d a b => .shfl g (fv d) (fv a) (fv b)
  | .shflx g d a b => .shflx g (fv d) (fv a) (fs b)
  | .shflu g d a b => .shflu g (fv d) (fv a) (fs b)
  | .shfld g d a b => .shfld g (fv d) (fv a) (fs b)
  | .vextr g d a b => .vextr g (fs d) (fv a) (fs b)
  | .vins g d a b => .vins g (fv d) (fs a) (fs b)
  | .vcompact g d a => .vcompact g (fv d) (fv a)
  | .vred g d a f => .vred g (fv d) (fv a) f
  | .vscan g d a f => .vscan g (fv d) (fv a) f
  | .mma g q a mg fa fb => .mma g q (fv a) mg fa fb
  | .azero g q => .azero g q
  | .cvta g q d => .cvta g q (fv d)
  | .inkz mg => .inkz mg
  | .vld g d a b sz => .vld g (fv d) (fv a) (fs b) sz
  | .spld g d a b sz => .spld g (fv d) (fv a) (fs b) sz
  | .vtld g d a b sz => .vtld g (fv d) (fv a) (fs b) sz
  | .slld g d a b sz => .slld g (fv d) (fv a) (fs b) sz
  | .vst g d a b sz => .vst g (fv d) (fv a) (fs b) sz
  | .spst g d a b sz => .spst g (fv d) (fv a) (fs b) sz
  | .vtst g d a b sz => .vtst g (fv d) (fv a) (fs b) sz
  | .slst g d a b sz => .slst g (fv d) (fv a) (fs b) sz
  | .vldc g d b imm => .vldc g (fv d) (fs b) imm
  | .vstc g d b imm => .vstc g (fv d) (fs b) imm
  | .pref g a b sp => .pref g (fv a) (fs b) sp
  | .amov g d a sc od f => .amov g (fv d) (fv a) sc od f
  | .casv g d a sc od => .casv g (fv d) (fv a) sc od
  | .redv g d a sc od f => .redv g (fv d) (fv a) sc od f
  | .altakev g d a b => .altakev g d (fv a) (fs b)
  | .copyv g n a b sz => .copyv g n (fv a) (fv b) sz
  | .amos d a sc od f => .amos (fs d) (fs a) sc od f
  | .reds d a sc od f => .reds (fs d) (fs a) sc od f
  | .cass d a sc od => .cass (fs d) (fs a) sc od
  | .lda d a sc od => .lda (fs d) (fs a) sc od
  | .strl d a sc od => .strl (fs d) (fs a) sc od
  | .fence sc od => .fence sc od
  | .fenceo => .fenceo
  | .alinit d a b => .alinit (fs d) (fs a) (fs b)
  | .altake d a b => .altake (fs d) (fs a) (fs b)
  | .algive d a b => .algive (fs d) (fs a) (fs b)
  | .alread d a => .alread (fs d) (fs a)
  | .alfree d a => .alfree (fs d) (fs a)
  | .rdvinit pt a b => .rdvinit pt (fs a) (fs b)
  | .arrive pt a => .arrive pt (fs a)
  | .expect pt a => .expect pt (fs a)
  | .waitp pt a => .waitp pt (fs a)
  | .waity pt a b => .waity pt (fs a) (fs b)
  | .arwait pt => .arwait pt
  | .rdvstat pt a b => .rdvstat pt (fs a) (fs b)
  | .garrive pt => .garrive pt
  | .gwait pt => .gwait pt
  | .phase pt a b => .phase pt (fs a) (fs b)
  | .copy pt a b => .copy pt (fs a) (fs b)
  | .copyt pt a b => .copyt pt (fs a) (fs b)
  | .ink pt a b => .ink pt (fs a) (fs b)
  | .mmas pt a b => .mmas pt (fs a) (fs b)
  | .spawn g d a b => .spawn g d (fv a) (fs b)
  | .launch d a b => .launch (fs d) (fs a) (fs b)
  | .trap imm => .trap imm
  | .hcall g d a b => .hcall g (fv d) (fv a) (fs b)
  | .eret => .eret
  | .slcfg d a form => .slcfg (fs d) (fs a) form
  | .tlbinv a form => .tlbinv (fs a) form
  | .cachecl a form => .cachecl (fs a) form
  | .evrd d => .evrd (fs d)
  | .loadDataReturn core slot reply => .loadDataReturn core slot reply
  | .mmaComplete core slot => .mmaComplete core slot
  | .mmasComplete op => .mmasComplete op
  | .inkComplete op => .inkComplete op
  | .copySectorWritten op => .copySectorWritten op
  | .waitWake core slot => .waitWake core slot
  | .launchSignalStore ctx col line size off value => .launchSignalStore ctx col line size off value
  | .launchPortRead col line => .launchPortRead col line
  | .dependencePoll grid => .dependencePoll grid
  | .teamAdmission grid => .teamAdmission grid
  | .teamRetirement team => .teamRetirement team
  | .gridRetirement grid => .gridRetirement grid
  | .teamSave team => .teamSave team
  | .allowanceReq col home => .allowanceReq col home
  | .allowanceGive col home => .allowanceGive col home
  | .allowanceFlush col home => .allowanceFlush col home
  | .allowanceGrant home col => .allowanceGrant home col
  | .allowanceRecall home col => .allowanceRecall home col
  | .allowanceAck col home => .allowanceAck col home
  | .allowanceRelease home col => .allowanceRelease home col
  | .allowanceDrainServe obj => .allowanceDrainServe obj
  | .giveReply home col => .giveReply home col
  | .earlyCommit team => .earlyCommit team
  | .journalLaunch j => .journalLaunch j
  | .journalCopy j => .journalCopy j
  | .journalCopySector op => .journalCopySector op
  | .journalSignal j => .journalSignal j
  | .journalBarrier j => .journalBarrier j
  | .illegalEncoding check word => .illegalEncoding check word
  | .instructionFetchFault why va => .instructionFetchFault why va
  | .parityDeltaAccept write => .parityDeltaAccept write
  | .parityDeltaApply stripe => .parityDeltaApply stripe
  | .spawnBinTimer col bin => .spawnBinTimer col bin
  | .registerWrite off value ide => .registerWrite off value ide
  | .levelRise col => .levelRise col
  | .levelFall col => .levelFall col
  | .leaseHoldExpiry line => .leaseHoldExpiry line
  | .leaseExpiry col line => .leaseExpiry col line
  | .pinwinApply core => .pinwinApply core
  | .storeFailure core slot va pa how => .storeFailure core slot va pa how
  | .placementDiversionTimeout grid => .placementDiversionTimeout grid
  | .headTeamHold core => .headTeamHold core
  | .groupAged core slot => .groupAged core slot
  | .yieldHoldExpiry core slot => .yieldHoldExpiry core slot
  | .preemptDeadline ctx => .preemptDeadline ctx
  | .deadlockWatchdog ctx => .deadlockWatchdog ctx
  | .scopeMarkPromotion line => .scopeMarkPromotion line
  | .promotionStart col ctx va frame => .promotionStart col ctx va frame
  | .promotionCommit col frame => .promotionCommit col frame
  | .promotionAbandon col frame => .promotionAbandon col frame
  | .submitWrite j value => .submitWrite j value
  | .ajconsWrite j value => .ajconsWrite j value
  | .seqMismatchReread j => .seqMismatchReread j
  | .ctxCreate => .ctxCreate
  | .ctxSet => .ctxSet
  | .ctxPreempt => .ctxPreempt
  | .ctxResume => .ctxResume
  | .ctxReset => .ctxReset
  | .ctxDestroy => .ctxDestroy
  | .ctxStop => .ctxStop
  | .hreplyWrite col value => .hreplyWrite col value
  | .hqheadWrite col value => .hqheadWrite col value
  | .fqdoneWrite col value => .fqdoneWrite col value
  | .fqheadWrite col value => .fqheadWrite col value
  | .tlbShootdownPage vpn ctx => .tlbShootdownPage vpn ctx
  | .tlbShootdownContext ctx => .tlbShootdownContext ctx
  | .tlbShootdownAllContexts vpn => .tlbShootdownAllContexts vpn
  | .shootdownComplete => .shootdownComplete
  | .stackLost stack => .stackLost stack
  | .restripeStart => .restripeStart
  | .restripeStripeDone => .restripeStripeDone
  | .patrolScrub sector finding => .patrolScrub sector finding
  | .vaultRefresh col bank => .vaultRefresh col bank
  | .refreshEnd col bank => .refreshEnd col bank
  | .renew col value => .renew col value
  | .refreshLeaseLapse col => .refreshLeaseLapse col
  | .checkpointSave => .checkpointSave
  | .checkpointRestore => .checkpointRestore
  | .checkpointComplete fault => .checkpointComplete fault
  | .columnFence col cause => .columnFence col cause
  | .suspectedCrackedConnection col sensor => .suspectedCrackedConnection col sensor
  | .regulatorDroop die mv => .regulatorDroop die mv
  | .devreset value => .devreset value
  | .columnWaysWrite col value => .columnWaysWrite col value
  | .pinwinWrite core value => .pinwinWrite core value
  | .govForce col value => .govForce col value
  | .logconsWrite value => .logconsWrite value
  | .powerOn => .powerOn
  | .bootStep outcome => .bootStep outcome
  | .pcieReset => .pcieReset
  | .managementRequest => .managementRequest
  | .dmcWatchdog die => .dmcWatchdog die
  | .thermalTrip die celsius => .thermalTrip die celsius
  | .regulatorFault => .regulatorFault
  | .ucieFlitRetry pair mod => .ucieFlitRetry pair mod
  | .ucieLaneRepaired pair lane => .ucieLaneRepaired pair lane
  | .ucieModuleDisabled pair mod => .ucieModuleDisabled pair mod
  | .dieLinkLost pair => .dieLinkLost pair
  | .ualinkPortTraining port partnerIsZ7 peer => .ualinkPortTraining port partnerIsZ7 peer
  | .doubleRateOffer port trained => .doubleRateOffer port trained
  | .peerReadRequest peer pa len lease => .peerReadRequest peer pa len lease
  | .peerWriteRequest peer pa data => .peerWriteRequest peer pa data
  | .ptpUnlocked offset => .ptpUnlocked offset
  | .heartbeat peer => .heartbeat peer
  | .goWrite value => .goWrite value
  | .backInvalidateResponse line => .backInvalidateResponse line
  | .spdmGetMeasurements block => .spdmGetMeasurements block
  | .keySlotLoad slot msg k1 k2 => .keySlotLoad slot msg k1 k2
  | .pldmGetSensorReading sensor => .pldmGetSensorReading sensor
  | .platformEventRetry acked => .platformEventRetry acked
  | .cxlMemRequest pa data len => .cxlMemRequest pa data len
  | .hostCoreMemoryAccess col pa data len => .hostCoreMemoryAccess col pa data len
  | .ualinkPortDown port => .ualinkPortDown port
  | .ptpLockRegained => .ptpLockRegained
  | .peerHeartbeat peer => .peerHeartbeat peer
  | .vaultHot col bank celsius => .vaultHot col bank celsius
  | .regulatorDroopCleared die => .regulatorDroopCleared die
  | .logMergeSummary cls code col => .logMergeSummary cls code col
  | .tdispStateChange tdi => .tdispStateChange tdi

/-- The vector register fields of an instruction, in the order of its operands (R73). -/
def Instr.vFields : Instr → List VReg
  | .branch _ => []
  | .call _ => []
  | .nop => []
  | .calls _ => []
  | .ret => []
  | .jmps _ => []
  | .land => []
  | .halt => []
  | .poll => []
  | .yield => []
  | .endGroup => []
  | .bz _ _ => []
  | .bnz _ _ => []
  | .bany _ _ => []
  | .ball _ _ => []
  | .bnone _ _ => []
  | .jmpv a => [a]
  | .add _ _ _ => []
  | .sub _ _ _ => []
  | .and _ _ _ => []
  | .or _ _ _ => []
  | .xor _ _ _ => []
  | .sll _ _ _ => []
  | .srl _ _ _ => []
  | .sra _ _ _ => []
  | .mul _ _ _ => []
  | .mulh _ _ _ => []
  | .mulhn _ _ _ => []
  | .div _ _ _ => []
  | .divn _ _ _ => []
  | .rem _ _ _ => []
  | .remn _ _ _ => []
  | .slt _ _ _ => []
  | .sltn _ _ _ => []
  | .min _ _ _ => []
  | .max _ _ _ => []
  | .minn _ _ _ => []
  | .maxn _ _ _ => []
  | .seq _ _ _ => []
  | .clz _ _ => []
  | .ctz _ _ => []
  | .popc _ _ => []
  | .addi _ _ _ => []
  | .andi _ _ _ => []
  | .ori _ _ _ => []
  | .glyph _ _ _ _ => []
  | .glyld _ _ => []
  | .xori _ _ _ => []
  | .slli _ _ _ => []
  | .srli _ _ _ => []
  | .srai _ _ _ => []
  | .slti _ _ _ => []
  | .liz _ _ _ => []
  | .lik _ _ _ => []
  | .ld _ _ _ => []
  | .st _ _ _ => []
  | .ldk _ _ _ => []
  | .mode _ _ _ => []
  | .mdr _ => []
  | .flr _ => []
  | .flclr _ _ _ => []
  | .sreadScalar _ _ => []
  | .swrite _ _ => []
  | .sreadVector _ d _ => [d]
  | .pand _ _ _ _ => []
  | .por _ _ _ _ => []
  | .pxor _ _ _ _ => []
  | .pmov _ _ _ => []
  | .pset _ _ _ => []
  | .pget _ _ => []
  | .pcnt _ _ => []
  | .pfirst _ _ => []
  | .cvt _ d a _ => [d, a]
  | .cvtFrom _ d a _ => [d, a]
  | .quant _ d a _ => [d, a]
  | .deq _ d a _ => [d, a]
  | .vmovi _ d _ => [d]
  | .vadd _ d a b => [d, a, b]
  | .vsub _ d a b => [d, a, b]
  | .vmul _ d a b => [d, a, b]
  | .vmulh _ d a b => [d, a, b]
  | .vmin _ d a b => [d, a, b]
  | .vmax _ d a b => [d, a, b]
  | .vabsd _ d a b => [d, a, b]
  | .vavg _ d a b => [d, a, b]
  | .vand _ d a b => [d, a, b]
  | .vor _ d a b => [d, a, b]
  | .vxor _ d a b => [d, a, b]
  | .vandn _ d a b => [d, a, b]
  | .vsll _ d a b => [d, a, b]
  | .vsrl _ d a b => [d, a, b]
  | .vsra _ d a b => [d, a, b]
  | .vpopc _ d a => [d, a]
  | .vadds _ d a b => [d, a, b]
  | .vsubs _ d a b => [d, a, b]
  | .vmad _ d a b => [d, a, b]
  | .vdot4 _ d a b => [d, a, b]
  | .vdiv _ d a b => [d, a, b]
  | .vrem _ d a b => [d, a, b]
  | .vclz _ d a => [d, a]
  | .vabs _ d a => [d, a]
  | .vaddi _ d a _ => [d, a]
  | .vslli _ d a _ => [d, a]
  | .vsrli _ d a _ => [d, a]
  | .vsrai _ d a _ => [d, a]
  | .fadd _ d a b => [d, a, b]
  | .fsub _ d a b => [d, a, b]
  | .fmul _ d a b => [d, a, b]
  | .fmin _ d a b => [d, a, b]
  | .fmax _ d a b => [d, a, b]
  | .fabs _ d a => [d, a]
  | .fneg _ d a => [d, a]
  | .fsgnj _ d a b => [d, a, b]
  | .fma _ d a b => [d, a, b]
  | .fms _ d a b => [d, a, b]
  | .fnma _ d a b => [d, a, b]
  | .fdiv _ d a b => [d, a, b]
  | .fsqrt _ d a => [d, a]
  | .frsq _ d a => [d, a]
  | .fexp2 _ d a => [d, a]
  | .flog2 _ d a => [d, a]
  | .vcmp _ _ _ _ a b => [a, b]
  | .fcmp _ _ _ _ a b => [a, b]
  | .vsel _ d a b _ => [d, a, b]
  | .vmov _ d a => [d, a]
  | .vbcast _ d _ => [d]
  | .shfl _ d a b => [d, a, b]
  | .shflx _ d a _ => [d, a]
  | .shflu _ d a _ => [d, a]
  | .shfld _ d a _ => [d, a]
  | .vextr _ _ a _ => [a]
  | .vins _ d _ _ => [d]
  | .vcompact _ d a => [d, a]
  | .vred _ d a _ => [d, a]
  | .vscan _ d a _ => [d, a]
  | .mma _ _ a _ _ _ => [a]
  | .azero _ _ => []
  | .cvta _ _ d => [d]
  | .inkz _ => []
  | .vld _ d a _ _ => [d, a]
  | .spld _ d a _ _ => [d, a]
  | .vtld _ d a _ _ => [d, a]
  | .slld _ d a _ _ => [d, a]
  | .vst _ d a _ _ => [d, a]
  | .spst _ d a _ _ => [d, a]
  | .vtst _ d a _ _ => [d, a]
  | .slst _ d a _ _ => [d, a]
  | .vldc _ d _ _ => [d]
  | .vstc _ d _ _ => [d]
  | .pref _ a _ _ => [a]
  | .amov _ d a _ _ _ => [d, a]
  | .casv _ d a _ _ => [d, a]
  | .redv _ d a _ _ _ => [d, a]
  | .altakev _ _ a _ => [a]
  | .copyv _ _ a b _ => [a, b]
  | .amos _ _ _ _ _ => []
  | .reds _ _ _ _ _ => []
  | .cass _ _ _ _ => []
  | .lda _ _ _ _ => []
  | .strl _ _ _ _ => []
  | .fence _ _ => []
  | .fenceo => []
  | .alinit _ _ _ => []
  | .altake _ _ _ => []
  | .algive _ _ _ => []
  | .alread _ _ => []
  | .alfree _ _ => []
  | .rdvinit _ _ _ => []
  | .arrive _ _ => []
  | .expect _ _ => []
  | .waitp _ _ => []
  | .waity _ _ _ => []
  | .arwait _ => []
  | .rdvstat _ _ _ => []
  | .garrive _ => []
  | .gwait _ => []
  | .phase _ _ _ => []
  | .copy _ _ _ => []
  | .copyt _ _ _ => []
  | .ink _ _ _ => []
  | .mmas _ _ _ => []
  | .spawn _ _ a _ => [a]
  | .launch _ _ _ => []
  | .trap _ => []
  | .hcall _ d a _ => [d, a]
  | .eret => []
  | .slcfg _ _ _ => []
  | .tlbinv _ _ => []
  | .cachecl _ _ => []
  | .evrd _ => []
  | .loadDataReturn _ _ _ => []
  | .mmaComplete _ _ => []
  | .mmasComplete _ => []
  | .inkComplete _ => []
  | .copySectorWritten _ => []
  | .waitWake _ _ => []
  | .launchSignalStore _ _ _ _ _ _ => []
  | .launchPortRead _ _ => []
  | .dependencePoll _ => []
  | .teamAdmission _ => []
  | .teamRetirement _ => []
  | .gridRetirement _ => []
  | .teamSave _ => []
  | .allowanceReq _ _ => []
  | .allowanceGive _ _ => []
  | .allowanceFlush _ _ => []
  | .allowanceGrant _ _ => []
  | .allowanceRecall _ _ => []
  | .allowanceAck _ _ => []
  | .allowanceRelease _ _ => []
  | .allowanceDrainServe _ => []
  | .giveReply _ _ => []
  | .earlyCommit _ => []
  | .journalLaunch _ => []
  | .journalCopy _ => []
  | .journalCopySector _ => []
  | .journalSignal _ => []
  | .journalBarrier _ => []
  | .illegalEncoding _ _ => []
  | .instructionFetchFault _ _ => []
  | .parityDeltaAccept _ => []
  | .parityDeltaApply _ => []
  | .spawnBinTimer _ _ => []
  | .registerWrite _ _ _ => []
  | .levelRise _ => []
  | .levelFall _ => []
  | .leaseHoldExpiry _ => []
  | .leaseExpiry _ _ => []
  | .pinwinApply _ => []
  | .storeFailure _ _ _ _ _ => []
  | .placementDiversionTimeout _ => []
  | .headTeamHold _ => []
  | .groupAged _ _ => []
  | .yieldHoldExpiry _ _ => []
  | .preemptDeadline _ => []
  | .deadlockWatchdog _ => []
  | .scopeMarkPromotion _ => []
  | .promotionStart _ _ _ _ => []
  | .promotionCommit _ _ => []
  | .promotionAbandon _ _ => []
  | .submitWrite _ _ => []
  | .ajconsWrite _ _ => []
  | .seqMismatchReread _ => []
  | .ctxCreate => []
  | .ctxSet => []
  | .ctxPreempt => []
  | .ctxResume => []
  | .ctxReset => []
  | .ctxDestroy => []
  | .ctxStop => []
  | .hreplyWrite _ _ => []
  | .hqheadWrite _ _ => []
  | .fqdoneWrite _ _ => []
  | .fqheadWrite _ _ => []
  | .tlbShootdownPage _ _ => []
  | .tlbShootdownContext _ => []
  | .tlbShootdownAllContexts _ => []
  | .shootdownComplete => []
  | .stackLost _ => []
  | .restripeStart => []
  | .restripeStripeDone => []
  | .patrolScrub _ _ => []
  | .vaultRefresh _ _ => []
  | .refreshEnd _ _ => []
  | .renew _ _ => []
  | .refreshLeaseLapse _ => []
  | .checkpointSave => []
  | .checkpointRestore => []
  | .checkpointComplete _ => []
  | .columnFence _ _ => []
  | .suspectedCrackedConnection _ _ => []
  | .regulatorDroop _ _ => []
  | .devreset _ => []
  | .columnWaysWrite _ _ => []
  | .pinwinWrite _ _ => []
  | .govForce _ _ => []
  | .logconsWrite _ => []
  | .powerOn => []
  | .bootStep _ => []
  | .pcieReset => []
  | .managementRequest => []
  | .dmcWatchdog _ => []
  | .thermalTrip _ _ => []
  | .regulatorFault => []
  | .ucieFlitRetry _ _ => []
  | .ucieLaneRepaired _ _ => []
  | .ucieModuleDisabled _ _ => []
  | .dieLinkLost _ => []
  | .ualinkPortTraining _ _ _ => []
  | .doubleRateOffer _ _ => []
  | .peerReadRequest _ _ _ _ => []
  | .peerWriteRequest _ _ _ => []
  | .ptpUnlocked _ => []
  | .heartbeat _ => []
  | .goWrite _ => []
  | .backInvalidateResponse _ => []
  | .spdmGetMeasurements _ => []
  | .keySlotLoad _ _ _ _ => []
  | .pldmGetSensorReading _ => []
  | .platformEventRetry _ => []
  | .cxlMemRequest _ _ _ => []
  | .hostCoreMemoryAccess _ _ _ _ => []
  | .ualinkPortDown _ => []
  | .ptpLockRegained => []
  | .peerHeartbeat _ => []
  | .vaultHot _ _ _ => []
  | .regulatorDroopCleared _ => []
  | .logMergeSummary _ _ _ => []
  | .tdispStateChange _ => []

/-- The scalar register fields of an instruction, in the order of its operands (R73). -/
def Instr.sFields : Instr → List SReg
  | .branch _ => []
  | .call _ => []
  | .nop => []
  | .calls a => [a]
  | .ret => []
  | .jmps a => [a]
  | .land => []
  | .halt => []
  | .poll => []
  | .yield => []
  | .endGroup => []
  | .bz t _ => [t]
  | .bnz t _ => [t]
  | .bany _ _ => []
  | .ball _ _ => []
  | .bnone _ _ => []
  | .jmpv _ => []
  | .add d a b => [d, a, b]
  | .sub d a b => [d, a, b]
  | .and d a b => [d, a, b]
  | .or d a b => [d, a, b]
  | .xor d a b => [d, a, b]
  | .sll d a b => [d, a, b]
  | .srl d a b => [d, a, b]
  | .sra d a b => [d, a, b]
  | .mul d a b => [d, a, b]
  | .mulh d a b => [d, a, b]
  | .mulhn d a b => [d, a, b]
  | .div d a b => [d, a, b]
  | .divn d a b => [d, a, b]
  | .rem d a b => [d, a, b]
  | .remn d a b => [d, a, b]
  | .slt d a b => [d, a, b]
  | .sltn d a b => [d, a, b]
  | .min d a b => [d, a, b]
  | .max d a b => [d, a, b]
  | .minn d a b => [d, a, b]
  | .maxn d a b => [d, a, b]
  | .seq d a b => [d, a, b]
  | .clz d a => [d, a]
  | .ctz d a => [d, a]
  | .popc d a => [d, a]
  | .addi d a _ => [d, a]
  | .andi d a _ => [d, a]
  | .ori d a _ => [d, a]
  | .glyph _ _ _ _ => []
  | .glyld a _ => [a]
  | .xori d a _ => [d, a]
  | .slli d a _ => [d, a]
  | .srli d a _ => [d, a]
  | .srai d a _ => [d, a]
  | .slti d a _ => [d, a]
  | .liz d _ _ => [d]
  | .lik d _ _ => [d]
  | .ld d a _ => [d, a]
  | .st d a _ => [d, a]
  | .ldk d a _ => [d, a]
  | .mode d a _ => [d, a]
  | .mdr d => [d]
  | .flr d => [d]
  | .flclr d a _ => [d, a]
  | .sreadScalar d _ => [d]
  | .swrite a _ => [a]
  | .sreadVector _ _ _ => []
  | .pand _ _ _ _ => []
  | .por _ _ _ _ => []
  | .pxor _ _ _ _ => []
  | .pmov _ _ _ => []
  | .pset _ _ a => [a]
  | .pget d _ => [d]
  | .pcnt d _ => [d]
  | .pfirst d _ => [d]
  | .cvt _ _ _ _ => []
  | .cvtFrom _ _ _ _ => []
  | .quant _ _ _ _ => []
  | .deq _ _ _ _ => []
  | .vmovi _ _ _ => []
  | .vadd _ _ _ _ => []
  | .vsub _ _ _ _ => []
  | .vmul _ _ _ _ => []
  | .vmulh _ _ _ _ => []
  | .vmin _ _ _ _ => []
  | .vmax _ _ _ _ => []
  | .vabsd _ _ _ _ => []
  | .vavg _ _ _ _ => []
  | .vand _ _ _ _ => []
  | .vor _ _ _ _ => []
  | .vxor _ _ _ _ => []
  | .vandn _ _ _ _ => []
  | .vsll _ _ _ _ => []
  | .vsrl _ _ _ _ => []
  | .vsra _ _ _ _ => []
  | .vpopc _ _ _ => []
  | .vadds _ _ _ _ => []
  | .vsubs _ _ _ _ => []
  | .vmad _ _ _ _ => []
  | .vdot4 _ _ _ _ => []
  | .vdiv _ _ _ _ => []
  | .vrem _ _ _ _ => []
  | .vclz _ _ _ => []
  | .vabs _ _ _ => []
  | .vaddi _ _ _ _ => []
  | .vslli _ _ _ _ => []
  | .vsrli _ _ _ _ => []
  | .vsrai _ _ _ _ => []
  | .fadd _ _ _ _ => []
  | .fsub _ _ _ _ => []
  | .fmul _ _ _ _ => []
  | .fmin _ _ _ _ => []
  | .fmax _ _ _ _ => []
  | .fabs _ _ _ => []
  | .fneg _ _ _ => []
  | .fsgnj _ _ _ _ => []
  | .fma _ _ _ _ => []
  | .fms _ _ _ _ => []
  | .fnma _ _ _ _ => []
  | .fdiv _ _ _ _ => []
  | .fsqrt _ _ _ => []
  | .frsq _ _ _ => []
  | .fexp2 _ _ _ => []
  | .flog2 _ _ _ => []
  | .vcmp _ _ _ _ _ _ => []
  | .fcmp _ _ _ _ _ _ => []
  | .vsel _ _ _ _ _ => []
  | .vmov _ _ _ => []
  | .vbcast _ _ a => [a]
  | .shfl _ _ _ _ => []
  | .shflx _ _ _ b => [b]
  | .shflu _ _ _ b => [b]
  | .shfld _ _ _ b => [b]
  | .vextr _ d _ b => [d, b]
  | .vins _ _ a b => [a, b]
  | .vcompact _ _ _ => []
  | .vred _ _ _ _ => []
  | .vscan _ _ _ _ => []
  | .mma _ _ _ _ _ _ => []
  | .azero _ _ => []
  | .cvta _ _ _ => []
  | .inkz _ => []
  | .vld _ _ _ b _ => [b]
  | .spld _ _ _ b _ => [b]
  | .vtld _ _ _ b _ => [b]
  | .slld _ _ _ b _ => [b]
  | .vst _ _ _ b _ => [b]
  | .spst _ _ _ b _ => [b]
  | .vtst _ _ _ b _ => [b]
  | .slst _ _ _ b _ => [b]
  | .vldc _ _ b _ => [b]
  | .vstc _ _ b _ => [b]
  | .pref _ _ b _ => [b]
  | .amov _ _ _ _ _ _ => []
  | .casv _ _ _ _ _ => []
  | .redv _ _ _ _ _ _ => []
  | .altakev _ _ _ b => [b]
  | .copyv _ _ _ _ _ => []
  | .amos d a _ _ _ => [d, a]
  | .reds d a _ _ _ => [d, a]
  | .cass d a _ _ => [d, a]
  | .lda d a _ _ => [d, a]
  | .strl d a _ _ => [d, a]
  | .fence _ _ => []
  | .fenceo => []
  | .alinit d a b => [d, a, b]
  | .altake d a b => [d, a, b]
  | .algive d a b => [d, a, b]
  | .alread d a => [d, a]
  | .alfree d a => [d, a]
  | .rdvinit _ a b => [a, b]
  | .arrive _ a => [a]
  | .expect _ a => [a]
  | .waitp _ a => [a]
  | .waity _ a b => [a, b]
  | .arwait _ => []
  | .rdvstat _ a b => [a, b]
  | .garrive _ => []
  | .gwait _ => []
  | .phase _ a b => [a, b]
  | .copy _ a b => [a, b]
  | .copyt _ a b => [a, b]
  | .ink _ a b => [a, b]
  | .mmas _ a b => [a, b]
  | .spawn _ _ _ b => [b]
  | .launch d a b => [d, a, b]
  | .trap _ => []
  | .hcall _ _ _ b => [b]
  | .eret => []
  | .slcfg d a _ => [d, a]
  | .tlbinv a _ => [a]
  | .cachecl a _ => [a]
  | .evrd d => [d]
  | .loadDataReturn _ _ _ => []
  | .mmaComplete _ _ => []
  | .mmasComplete _ => []
  | .inkComplete _ => []
  | .copySectorWritten _ => []
  | .waitWake _ _ => []
  | .launchSignalStore _ _ _ _ _ _ => []
  | .launchPortRead _ _ => []
  | .dependencePoll _ => []
  | .teamAdmission _ => []
  | .teamRetirement _ => []
  | .gridRetirement _ => []
  | .teamSave _ => []
  | .allowanceReq _ _ => []
  | .allowanceGive _ _ => []
  | .allowanceFlush _ _ => []
  | .allowanceGrant _ _ => []
  | .allowanceRecall _ _ => []
  | .allowanceAck _ _ => []
  | .allowanceRelease _ _ => []
  | .allowanceDrainServe _ => []
  | .giveReply _ _ => []
  | .earlyCommit _ => []
  | .journalLaunch _ => []
  | .journalCopy _ => []
  | .journalCopySector _ => []
  | .journalSignal _ => []
  | .journalBarrier _ => []
  | .illegalEncoding _ _ => []
  | .instructionFetchFault _ _ => []
  | .parityDeltaAccept _ => []
  | .parityDeltaApply _ => []
  | .spawnBinTimer _ _ => []
  | .registerWrite _ _ _ => []
  | .levelRise _ => []
  | .levelFall _ => []
  | .leaseHoldExpiry _ => []
  | .leaseExpiry _ _ => []
  | .pinwinApply _ => []
  | .storeFailure _ _ _ _ _ => []
  | .placementDiversionTimeout _ => []
  | .headTeamHold _ => []
  | .groupAged _ _ => []
  | .yieldHoldExpiry _ _ => []
  | .preemptDeadline _ => []
  | .deadlockWatchdog _ => []
  | .scopeMarkPromotion _ => []
  | .promotionStart _ _ _ _ => []
  | .promotionCommit _ _ => []
  | .promotionAbandon _ _ => []
  | .submitWrite _ _ => []
  | .ajconsWrite _ _ => []
  | .seqMismatchReread _ => []
  | .ctxCreate => []
  | .ctxSet => []
  | .ctxPreempt => []
  | .ctxResume => []
  | .ctxReset => []
  | .ctxDestroy => []
  | .ctxStop => []
  | .hreplyWrite _ _ => []
  | .hqheadWrite _ _ => []
  | .fqdoneWrite _ _ => []
  | .fqheadWrite _ _ => []
  | .tlbShootdownPage _ _ => []
  | .tlbShootdownContext _ => []
  | .tlbShootdownAllContexts _ => []
  | .shootdownComplete => []
  | .stackLost _ => []
  | .restripeStart => []
  | .restripeStripeDone => []
  | .patrolScrub _ _ => []
  | .vaultRefresh _ _ => []
  | .refreshEnd _ _ => []
  | .renew _ _ => []
  | .refreshLeaseLapse _ => []
  | .checkpointSave => []
  | .checkpointRestore => []
  | .checkpointComplete _ => []
  | .columnFence _ _ => []
  | .suspectedCrackedConnection _ _ => []
  | .regulatorDroop _ _ => []
  | .devreset _ => []
  | .columnWaysWrite _ _ => []
  | .pinwinWrite _ _ => []
  | .govForce _ _ => []
  | .logconsWrite _ => []
  | .powerOn => []
  | .bootStep _ => []
  | .pcieReset => []
  | .managementRequest => []
  | .dmcWatchdog _ => []
  | .thermalTrip _ _ => []
  | .regulatorFault => []
  | .ucieFlitRetry _ _ => []
  | .ucieLaneRepaired _ _ => []
  | .ucieModuleDisabled _ _ => []
  | .dieLinkLost _ => []
  | .ualinkPortTraining _ _ _ => []
  | .doubleRateOffer _ _ => []
  | .peerReadRequest _ _ _ _ => []
  | .peerWriteRequest _ _ _ => []
  | .ptpUnlocked _ => []
  | .heartbeat _ => []
  | .goWrite _ => []
  | .backInvalidateResponse _ => []
  | .spdmGetMeasurements _ => []
  | .keySlotLoad _ _ _ _ => []
  | .pldmGetSensorReading _ => []
  | .platformEventRetry _ => []
  | .cxlMemRequest _ _ _ => []
  | .hostCoreMemoryAccess _ _ _ _ => []
  | .ualinkPortDown _ => []
  | .ptpLockRegained => []
  | .peerHeartbeat _ => []
  | .vaultHot _ _ _ => []
  | .regulatorDroopCleared _ => []
  | .logMergeSummary _ _ _ => []
  | .tdispStateChange _ => []

end Sys2Proof
end

