-- ==== Sys2Proof/WellFormed.lean ====
section
/-! DEFINITION. Well-formed instructions: the field values that step 5 of R75 (and, for two forms, step 4) admits. -/
namespace Sys2Proof
set_option Elab.async false

/-- A rendezvous point of the team: rv0 to rv23 (R66). -/
def teamPoint (pt : BitVec 5) : Bool := pt.toNat < 24

/-- A grid point: 24 to 27 name gv0 to gv3 (R66). -/
def gridPoint (pt : BitVec 5) : Bool := 24 ≤ pt.toNat && pt.toNat < 28

/-- REDS and REDV allow relaxed and release (R80). -/
def Order.reduction (o : Order) : Bool := o == .relaxed || o == .rel
/-- LDA allows acquire and sc (R80). -/
def Order.load (o : Order) : Bool := o == .acq || o == .sc
/-- STRL allows release and sc (R80). -/
def Order.store (o : Order) : Bool := o == .rel || o == .sc
/-- FENCE allows every order but relaxed (R80). -/
def Order.fence (o : Order) : Bool := o != .relaxed

/-- The field values of an instruction are in their legal sets (R64, R66, R68, R73, R79, R80, R101, R200). -/
def Instr.wf : Instr → Bool
  | .branch _ => true
  | .call _ => true
  | .nop => true
  | .calls _ => true
  | .ret => true
  | .jmps _ => true
  | .land => true
  | .halt => true
  | .poll => true
  | .yield => true
  | .endGroup => true
  | .bz _ _ => true
  | .bnz _ _ => true
  | .bany _ _ => true
  | .ball _ _ => true
  | .bnone _ _ => true
  | .jmpv _ => true
  | .add _ _ _ => true
  | .sub _ _ _ => true
  | .and _ _ _ => true
  | .or _ _ _ => true
  | .xor _ _ _ => true
  | .sll _ _ _ => true
  | .srl _ _ _ => true
  | .sra _ _ _ => true
  | .mul _ _ _ => true
  | .mulh _ _ _ => true
  | .mulhn _ _ _ => true
  | .div _ _ _ => true
  | .divn _ _ _ => true
  | .rem _ _ _ => true
  | .remn _ _ _ => true
  | .slt _ _ _ => true
  | .sltn _ _ _ => true
  | .min _ _ _ => true
  | .max _ _ _ => true
  | .minn _ _ _ => true
  | .maxn _ _ _ => true
  | .seq _ _ _ => true
  | .clz _ _ => true
  | .ctz _ _ => true
  | .popc _ _ => true
  | .addi _ _ _ => true
  | .andi _ _ _ => true
  | .ori _ _ _ => true
  | .glyph _ pA pB kinds => (!kinds.getLsbD 0 || pA.toNat < 64) && (!kinds.getLsbD 1 || pB.toNat < 64)
  | .glyld _ _ => true
  | .xori _ _ _ => true
  | .slli _ _ _ => true
  | .srli _ _ _ => true
  | .srai _ _ _ => true
  | .slti _ _ _ => true
  | .liz _ _ _ => true
  | .lik _ _ _ => true
  | .ld _ _ _ => true
  | .st _ _ _ => true
  | .ldk _ _ _ => true
  | .mode _ _ mask => 0 < mask.toNat && mask.toNat < 64
  | .mdr _ => true
  | .flr _ => true
  | .flclr _ _ _ => true
  | .sreadScalar _ sel => sel != .lane
  | .swrite _ _ => true
  | .sreadVector _ _ _ => true
  | .pand _ _ _ _ => true
  | .por _ _ _ _ => true
  | .pxor _ _ _ _ => true
  | .pmov _ _ _ => true
  | .pset _ _ _ => true
  | .pget _ _ => true
  | .pcnt _ _ => true
  | .pfirst _ _ => true
  | .cvt _ _ _ _ => true
  | .cvtFrom _ _ _ _ => true
  | .quant _ _ _ _ => true
  | .deq _ _ _ _ => true
  | .vmovi _ _ _ => true
  | .vadd _ _ _ _ => true
  | .vsub _ _ _ _ => true
  | .vmul _ _ _ _ => true
  | .vmulh _ _ _ _ => true
  | .vmin _ _ _ _ => true
  | .vmax _ _ _ _ => true
  | .vabsd _ _ _ _ => true
  | .vavg _ _ _ _ => true
  | .vand _ _ _ _ => true
  | .vor _ _ _ _ => true
  | .vxor _ _ _ _ => true
  | .vandn _ _ _ _ => true
  | .vsll _ _ _ _ => true
  | .vsrl _ _ _ _ => true
  | .vsra _ _ _ _ => true
  | .vpopc _ _ _ => true
  | .vadds _ _ _ _ => true
  | .vsubs _ _ _ _ => true
  | .vmad _ _ _ _ => true
  | .vdot4 _ _ _ _ => true
  | .vdiv _ _ _ _ => true
  | .vrem _ _ _ _ => true
  | .vclz _ _ _ => true
  | .vabs _ _ _ => true
  | .vaddi _ _ _ _ => true
  | .vslli _ _ _ _ => true
  | .vsrli _ _ _ _ => true
  | .vsrai _ _ _ _ => true
  | .fadd _ _ _ _ => true
  | .fsub _ _ _ _ => true
  | .fmul _ _ _ _ => true
  | .fmin _ _ _ _ => true
  | .fmax _ _ _ _ => true
  | .fabs _ _ _ => true
  | .fneg _ _ _ => true
  | .fsgnj _ _ _ _ => true
  | .fma _ _ _ _ => true
  | .fms _ _ _ _ => true
  | .fnma _ _ _ _ => true
  | .fdiv _ _ _ _ => true
  | .fsqrt _ _ _ => true
  | .frsq _ _ _ => true
  | .fexp2 _ _ _ => true
  | .flog2 _ _ _ => true
  | .vcmp _ _ pd pe _ _ => pd != pe || pd == 0
  | .fcmp _ _ pd pe _ _ => pd != pe || pd == 0
  | .vsel _ _ _ _ _ => true
  | .vmov _ _ _ => true
  | .vbcast _ _ _ => true
  | .shfl _ _ _ _ => true
  | .shflx _ _ _ _ => true
  | .shflu _ _ _ _ => true
  | .shfld _ _ _ _ => true
  | .vextr _ _ _ _ => true
  | .vins _ _ _ _ => true
  | .vcompact _ _ _ => true
  | .vred _ _ _ _ => true
  | .vscan _ _ _ _ => true
  | .mma _ _ _ _ _ _ => true
  | .azero _ _ => true
  | .cvta _ _ _ => true
  | .inkz _ => true
  | .vld _ _ _ _ _ => true
  | .spld _ _ _ _ _ => true
  | .vtld _ _ _ _ _ => true
  | .slld _ _ _ _ _ => true
  | .vst _ _ _ _ _ => true
  | .spst _ _ _ _ _ => true
  | .vtst _ _ _ _ _ => true
  | .slst _ _ _ _ _ => true
  | .vldc _ _ _ _ => true
  | .vstc _ _ _ _ => true
  | .pref _ _ _ _ => true
  | .amov _ _ _ _ _ f => f.code < 7
  | .casv _ _ _ _ _ => true
  | .redv _ _ _ _ od f => od.reduction && f != .swap && f.code < 7
  | .altakev _ _ _ _ => true
  | .copyv _ n _ _ _ => n.toNat < 24
  | .amos _ _ _ _ _ => true
  | .reds _ _ _ od f => od.reduction && f != .swap
  | .cass _ _ _ _ => true
  | .lda _ _ _ od => od.load
  | .strl _ _ _ od => od.store
  | .fence _ od => od.fence
  | .fenceo => true
  | .alinit _ _ _ => true
  | .altake _ _ _ => true
  | .algive _ _ _ => true
  | .alread _ _ => true
  | .alfree _ _ => true
  | .rdvinit pt _ _ => teamPoint pt
  | .arrive pt _ => teamPoint pt
  | .expect pt _ => teamPoint pt
  | .waitp pt _ => teamPoint pt
  | .waity pt _ _ => teamPoint pt
  | .arwait pt => teamPoint pt
  | .rdvstat pt _ _ => teamPoint pt
  | .garrive pt => gridPoint pt
  | .gwait pt => gridPoint pt
  | .phase pt _ _ => gridPoint pt
  | .copy pt _ _ => teamPoint pt
  | .copyt pt _ _ => teamPoint pt
  | .ink pt _ _ => teamPoint pt
  | .mmas pt _ _ => teamPoint pt
  | .spawn _ _ _ _ => true
  | .launch _ _ _ => true
  | .trap _ => true
  | .hcall _ _ _ _ => true
  | .eret => true
  | .slcfg _ a form => form != .query || a == 0
  | .tlbinv a form => form != .core || a == 0
  | .cachecl _ _ => true
  | .evrd _ => true
  | .loadDataReturn _ _ _ => true
  | .mmaComplete _ _ => true
  | .mmasComplete _ => true
  | .inkComplete _ => true
  | .copySectorWritten _ => true
  | .waitWake _ _ => true
  | .launchSignalStore _ _ _ _ _ _ => true
  | .launchPortRead _ _ => true
  | .dependencePoll _ => true
  | .teamAdmission _ => true
  | .teamRetirement _ => true
  | .gridRetirement _ => true
  | .teamSave _ => true
  | .allowanceReq _ _ => true
  | .allowanceGive _ _ => true
  | .allowanceFlush _ _ => true
  | .allowanceGrant _ _ => true
  | .allowanceRecall _ _ => true
  | .allowanceAck _ _ => true
  | .allowanceRelease _ _ => true
  | .allowanceDrainServe _ => true
  | .giveReply _ _ => true
  | .earlyCommit _ => true
  | .journalLaunch _ => true
  | .journalCopy _ => true
  | .journalCopySector _ => true
  | .journalSignal _ => true
  | .journalBarrier _ => true
  | .illegalEncoding _ _ => true
  | .instructionFetchFault _ _ => true
  | .parityDeltaAccept _ => true
  | .parityDeltaApply _ => true
  | .spawnBinTimer _ _ => true
  | .registerWrite _ _ _ => true
  | .levelRise _ => true
  | .levelFall _ => true
  | .leaseHoldExpiry _ => true
  | .leaseExpiry _ _ => true
  | .pinwinApply _ => true
  | .storeFailure _ _ _ _ _ => true
  | .placementDiversionTimeout _ => true
  | .headTeamHold _ => true
  | .groupAged _ _ => true
  | .yieldHoldExpiry _ _ => true
  | .preemptDeadline _ => true
  | .deadlockWatchdog _ => true
  | .scopeMarkPromotion _ => true
  | .promotionStart _ _ _ _ => true
  | .promotionCommit _ _ => true
  | .promotionAbandon _ _ => true
  | .submitWrite _ _ => true
  | .ajconsWrite _ _ => true
  | .seqMismatchReread _ => true
  | .ctxCreate => true
  | .ctxSet => true
  | .ctxPreempt => true
  | .ctxResume => true
  | .ctxReset => true
  | .ctxDestroy => true
  | .ctxStop => true
  | .hreplyWrite _ _ => true
  | .hqheadWrite _ _ => true
  | .fqdoneWrite _ _ => true
  | .fqheadWrite _ _ => true
  | .tlbShootdownPage _ _ => true
  | .tlbShootdownContext _ => true
  | .tlbShootdownAllContexts _ => true
  | .shootdownComplete => true
  | .stackLost _ => true
  | .restripeStart => true
  | .restripeStripeDone => true
  | .patrolScrub _ _ => true
  | .vaultRefresh _ _ => true
  | .refreshEnd _ _ => true
  | .renew _ _ => true
  | .refreshLeaseLapse _ => true
  | .checkpointSave => true
  | .checkpointRestore => true
  | .checkpointComplete _ => true
  | .columnFence _ _ => true
  | .suspectedCrackedConnection _ _ => true
  | .regulatorDroop _ _ => true
  | .devreset _ => true
  | .columnWaysWrite _ _ => true
  | .pinwinWrite _ _ => true
  | .govForce _ _ => true
  | .logconsWrite _ => true
  | .powerOn => true
  | .bootStep _ => true
  | .pcieReset => true
  | .managementRequest => true
  | .dmcWatchdog _ => true
  | .thermalTrip _ _ => true
  | .regulatorFault => true
  | .ucieFlitRetry _ _ => true
  | .ucieLaneRepaired _ _ => true
  | .ucieModuleDisabled _ _ => true
  | .dieLinkLost _ => true
  | .ualinkPortTraining _ _ _ => true
  | .doubleRateOffer _ _ => true
  | .peerReadRequest _ _ _ _ => true
  | .peerWriteRequest _ _ _ => true
  | .ptpUnlocked _ => true
  | .heartbeat _ => true
  | .goWrite _ => true
  | .backInvalidateResponse _ => true
  | .spdmGetMeasurements _ => true
  | .keySlotLoad _ _ _ _ => true
  | .pldmGetSensorReading _ => true
  | .platformEventRetry _ => true
  | .cxlMemRequest _ _ _ => true
  | .hostCoreMemoryAccess _ _ _ _ => true
  | .ualinkPortDown _ => true
  | .ptpLockRegained => true
  | .peerHeartbeat _ => true
  | .vaultHot _ _ _ => true
  | .regulatorDroopCleared _ => true
  | .logMergeSummary _ _ _ => true
  | .tdispStateChange _ => true

/-- The rows of the table that are steps of the device and have no instruction word. -/
def Instr.isEvent : Instr → Bool
  | .branch _ => false
  | .call _ => false
  | .nop => false
  | .calls _ => false
  | .ret => false
  | .jmps _ => false
  | .land => false
  | .halt => false
  | .poll => false
  | .yield => false
  | .endGroup => false
  | .bz _ _ => false
  | .bnz _ _ => false
  | .bany _ _ => false
  | .ball _ _ => false
  | .bnone _ _ => false
  | .jmpv _ => false
  | .add _ _ _ => false
  | .sub _ _ _ => false
  | .and _ _ _ => false
  | .or _ _ _ => false
  | .xor _ _ _ => false
  | .sll _ _ _ => false
  | .srl _ _ _ => false
  | .sra _ _ _ => false
  | .mul _ _ _ => false
  | .mulh _ _ _ => false
  | .mulhn _ _ _ => false
  | .div _ _ _ => false
  | .divn _ _ _ => false
  | .rem _ _ _ => false
  | .remn _ _ _ => false
  | .slt _ _ _ => false
  | .sltn _ _ _ => false
  | .min _ _ _ => false
  | .max _ _ _ => false
  | .minn _ _ _ => false
  | .maxn _ _ _ => false
  | .seq _ _ _ => false
  | .clz _ _ => false
  | .ctz _ _ => false
  | .popc _ _ => false
  | .addi _ _ _ => false
  | .andi _ _ _ => false
  | .ori _ _ _ => false
  | .glyph _ _ _ _ => false
  | .glyld _ _ => false
  | .xori _ _ _ => false
  | .slli _ _ _ => false
  | .srli _ _ _ => false
  | .srai _ _ _ => false
  | .slti _ _ _ => false
  | .liz _ _ _ => false
  | .lik _ _ _ => false
  | .ld _ _ _ => false
  | .st _ _ _ => false
  | .ldk _ _ _ => false
  | .mode _ _ _ => false
  | .mdr _ => false
  | .flr _ => false
  | .flclr _ _ _ => false
  | .sreadScalar _ _ => false
  | .swrite _ _ => false
  | .sreadVector _ _ _ => false
  | .pand _ _ _ _ => false
  | .por _ _ _ _ => false
  | .pxor _ _ _ _ => false
  | .pmov _ _ _ => false
  | .pset _ _ _ => false
  | .pget _ _ => false
  | .pcnt _ _ => false
  | .pfirst _ _ => false
  | .cvt _ _ _ _ => false
  | .cvtFrom _ _ _ _ => false
  | .quant _ _ _ _ => false
  | .deq _ _ _ _ => false
  | .vmovi _ _ _ => false
  | .vadd _ _ _ _ => false
  | .vsub _ _ _ _ => false
  | .vmul _ _ _ _ => false
  | .vmulh _ _ _ _ => false
  | .vmin _ _ _ _ => false
  | .vmax _ _ _ _ => false
  | .vabsd _ _ _ _ => false
  | .vavg _ _ _ _ => false
  | .vand _ _ _ _ => false
  | .vor _ _ _ _ => false
  | .vxor _ _ _ _ => false
  | .vandn _ _ _ _ => false
  | .vsll _ _ _ _ => false
  | .vsrl _ _ _ _ => false
  | .vsra _ _ _ _ => false
  | .vpopc _ _ _ => false
  | .vadds _ _ _ _ => false
  | .vsubs _ _ _ _ => false
  | .vmad _ _ _ _ => false
  | .vdot4 _ _ _ _ => false
  | .vdiv _ _ _ _ => false
  | .vrem _ _ _ _ => false
  | .vclz _ _ _ => false
  | .vabs _ _ _ => false
  | .vaddi _ _ _ _ => false
  | .vslli _ _ _ _ => false
  | .vsrli _ _ _ _ => false
  | .vsrai _ _ _ _ => false
  | .fadd _ _ _ _ => false
  | .fsub _ _ _ _ => false
  | .fmul _ _ _ _ => false
  | .fmin _ _ _ _ => false
  | .fmax _ _ _ _ => false
  | .fabs _ _ _ => false
  | .fneg _ _ _ => false
  | .fsgnj _ _ _ _ => false
  | .fma _ _ _ _ => false
  | .fms _ _ _ _ => false
  | .fnma _ _ _ _ => false
  | .fdiv _ _ _ _ => false
  | .fsqrt _ _ _ => false
  | .frsq _ _ _ => false
  | .fexp2 _ _ _ => false
  | .flog2 _ _ _ => false
  | .vcmp _ _ _ _ _ _ => false
  | .fcmp _ _ _ _ _ _ => false
  | .vsel _ _ _ _ _ => false
  | .vmov _ _ _ => false
  | .vbcast _ _ _ => false
  | .shfl _ _ _ _ => false
  | .shflx _ _ _ _ => false
  | .shflu _ _ _ _ => false
  | .shfld _ _ _ _ => false
  | .vextr _ _ _ _ => false
  | .vins _ _ _ _ => false
  | .vcompact _ _ _ => false
  | .vred _ _ _ _ => false
  | .vscan _ _ _ _ => false
  | .mma _ _ _ _ _ _ => false
  | .azero _ _ => false
  | .cvta _ _ _ => false
  | .inkz _ => false
  | .vld _ _ _ _ _ => false
  | .spld _ _ _ _ _ => false
  | .vtld _ _ _ _ _ => false
  | .slld _ _ _ _ _ => false
  | .vst _ _ _ _ _ => false
  | .spst _ _ _ _ _ => false
  | .vtst _ _ _ _ _ => false
  | .slst _ _ _ _ _ => false
  | .vldc _ _ _ _ => false
  | .vstc _ _ _ _ => false
  | .pref _ _ _ _ => false
  | .amov _ _ _ _ _ _ => false
  | .casv _ _ _ _ _ => false
  | .redv _ _ _ _ _ _ => false
  | .altakev _ _ _ _ => false
  | .copyv _ _ _ _ _ => false
  | .amos _ _ _ _ _ => false
  | .reds _ _ _ _ _ => false
  | .cass _ _ _ _ => false
  | .lda _ _ _ _ => false
  | .strl _ _ _ _ => false
  | .fence _ _ => false
  | .fenceo => false
  | .alinit _ _ _ => false
  | .altake _ _ _ => false
  | .algive _ _ _ => false
  | .alread _ _ => false
  | .alfree _ _ => false
  | .rdvinit _ _ _ => false
  | .arrive _ _ => false
  | .expect _ _ => false
  | .waitp _ _ => false
  | .waity _ _ _ => false
  | .arwait _ => false
  | .rdvstat _ _ _ => false
  | .garrive _ => false
  | .gwait _ => false
  | .phase _ _ _ => false
  | .copy _ _ _ => false
  | .copyt _ _ _ => false
  | .ink _ _ _ => false
  | .mmas _ _ _ => false
  | .spawn _ _ _ _ => false
  | .launch _ _ _ => false
  | .trap _ => false
  | .hcall _ _ _ _ => false
  | .eret => false
  | .slcfg _ _ _ => false
  | .tlbinv _ _ => false
  | .cachecl _ _ => false
  | .evrd _ => false
  | .loadDataReturn _ _ _ => true
  | .mmaComplete _ _ => true
  | .mmasComplete _ => true
  | .inkComplete _ => true
  | .copySectorWritten _ => true
  | .waitWake _ _ => true
  | .launchSignalStore _ _ _ _ _ _ => true
  | .launchPortRead _ _ => true
  | .dependencePoll _ => true
  | .teamAdmission _ => true
  | .teamRetirement _ => true
  | .gridRetirement _ => true
  | .teamSave _ => true
  | .allowanceReq _ _ => true
  | .allowanceGive _ _ => true
  | .allowanceFlush _ _ => true
  | .allowanceGrant _ _ => true
  | .allowanceRecall _ _ => true
  | .allowanceAck _ _ => true
  | .allowanceRelease _ _ => true
  | .allowanceDrainServe _ => true
  | .giveReply _ _ => true
  | .earlyCommit _ => true
  | .journalLaunch _ => true
  | .journalCopy _ => true
  | .journalCopySector _ => true
  | .journalSignal _ => true
  | .journalBarrier _ => true
  | .illegalEncoding _ _ => true
  | .instructionFetchFault _ _ => true
  | .parityDeltaAccept _ => true
  | .parityDeltaApply _ => true
  | .spawnBinTimer _ _ => true
  | .registerWrite _ _ _ => true
  | .levelRise _ => true
  | .levelFall _ => true
  | .leaseHoldExpiry _ => true
  | .leaseExpiry _ _ => true
  | .pinwinApply _ => true
  | .storeFailure _ _ _ _ _ => true
  | .placementDiversionTimeout _ => true
  | .headTeamHold _ => true
  | .groupAged _ _ => true
  | .yieldHoldExpiry _ _ => true
  | .preemptDeadline _ => true
  | .deadlockWatchdog _ => true
  | .scopeMarkPromotion _ => true
  | .promotionStart _ _ _ _ => true
  | .promotionCommit _ _ => true
  | .promotionAbandon _ _ => true
  | .submitWrite _ _ => true
  | .ajconsWrite _ _ => true
  | .seqMismatchReread _ => true
  | .ctxCreate => true
  | .ctxSet => true
  | .ctxPreempt => true
  | .ctxResume => true
  | .ctxReset => true
  | .ctxDestroy => true
  | .ctxStop => true
  | .hreplyWrite _ _ => true
  | .hqheadWrite _ _ => true
  | .fqdoneWrite _ _ => true
  | .fqheadWrite _ _ => true
  | .tlbShootdownPage _ _ => true
  | .tlbShootdownContext _ => true
  | .tlbShootdownAllContexts _ => true
  | .shootdownComplete => true
  | .stackLost _ => true
  | .restripeStart => true
  | .restripeStripeDone => true
  | .patrolScrub _ _ => true
  | .vaultRefresh _ _ => true
  | .refreshEnd _ _ => true
  | .renew _ _ => true
  | .refreshLeaseLapse _ => true
  | .checkpointSave => true
  | .checkpointRestore => true
  | .checkpointComplete _ => true
  | .columnFence _ _ => true
  | .suspectedCrackedConnection _ _ => true
  | .regulatorDroop _ _ => true
  | .devreset _ => true
  | .columnWaysWrite _ _ => true
  | .pinwinWrite _ _ => true
  | .govForce _ _ => true
  | .logconsWrite _ => true
  | .powerOn => true
  | .bootStep _ => true
  | .pcieReset => true
  | .managementRequest => true
  | .dmcWatchdog _ => true
  | .thermalTrip _ _ => true
  | .regulatorFault => true
  | .ucieFlitRetry _ _ => true
  | .ucieLaneRepaired _ _ => true
  | .ucieModuleDisabled _ _ => true
  | .dieLinkLost _ => true
  | .ualinkPortTraining _ _ _ => true
  | .doubleRateOffer _ _ => true
  | .peerReadRequest _ _ _ _ => true
  | .peerWriteRequest _ _ _ => true
  | .ptpUnlocked _ => true
  | .heartbeat _ => true
  | .goWrite _ => true
  | .backInvalidateResponse _ => true
  | .spdmGetMeasurements _ => true
  | .keySlotLoad _ _ _ _ => true
  | .pldmGetSensorReading _ => true
  | .platformEventRetry _ => true
  | .cxlMemRequest _ _ _ => true
  | .hostCoreMemoryAccess _ _ _ _ => true
  | .ualinkPortDown _ => true
  | .ptpLockRegained => true
  | .peerHeartbeat _ => true
  | .vaultHot _ _ _ => true
  | .regulatorDroopCleared _ => true
  | .logMergeSummary _ _ _ => true
  | .tdispStateChange _ => true

end Sys2Proof
end

