-- ==== Sys2Proof/Decode.lean ====
section
/-! DEFINITION. Decoding and encoding of instruction words (R59 to R82): the fields of a word, the fourteen formats of R61, the
checks of R75 steps 1 to 5 in their order, and the encoder written from the same tables. -/
namespace Sys2Proof
set_option Elab.async false

/-- A field of a word: the bits from `lo` upward, as many as the type says (R61). -/
def fld (n lo : Nat) {w : Nat} : BitVec w := BitVec.ofNat w (n / 2 ^ lo)

/-- The checks of R75 that a word can fail before its operands are looked at. -/
inductive DecodeError where
  /-- Step 1: the major opcode is not allocated. -/
  | op
  /-- Step 2: the minor code is not allocated. -/
  | minor
  /-- Step 3: the guard must be 0b00. -/
  | guard
  /-- Step 4: an unused field is not zero. -/
  | unused
  /-- Step 5: a field value is outside its legal set. -/
  | value
  deriving DecidableEq, Repr

/-- The number of the R75 step, as TADDR[39:32] shows it. -/
def DecodeError.step : DecodeError → Nat
  | .op => 1
  | .minor => 2
  | .guard => 3
  | .unused => 4
  | .value => 5

/-- Steps 3 to 5 of R75 for an allocated word: `lane` when the guard may take any value (R69), `zeros` the unused fields
as (lowest bit, width), `r` the instruction that the field values name, if they are in their sets. -/
def settle (n : Nat) (lane : Bool) (zeros : List (Nat × Nat)) (r : Option Instr) : Except DecodeError Instr :=
  if !lane && n / 2 ^ 24 % 4 != 0 then .error .guard
  else if zeros.any fun z => n / 2 ^ z.1 % 2 ^ z.2 != 0 then .error .unused
  else match r with
    | none => .error .value
    | some i => if i.wf then .ok i else .error .value

/-- A word of the format VR: vector register–register (R61). -/
def encVR (op g d a b fn : Nat) : Nat :=
  op * 2 ^ 26 + g * 2 ^ 24 + d * 2 ^ 17 + a * 2 ^ 10 + b * 2 ^ 3 + fn

/-- A word of the format VI: vector immediate (R61). -/
def encVI (op g d a imm : Nat) : Nat :=
  op * 2 ^ 26 + g * 2 ^ 24 + d * 2 ^ 17 + a * 2 ^ 10 + imm

/-- A word of the format SR: scalar register–register (R61). -/
def encSR (op d a b fn : Nat) : Nat :=
  op * 2 ^ 26 + d * 2 ^ 18 + a * 2 ^ 12 + b * 2 ^ 6 + fn

/-- A word of the format SI: scalar immediate (R61). -/
def encSI (op d a imm : Nat) : Nat :=
  op * 2 ^ 26 + d * 2 ^ 18 + a * 2 ^ 12 + imm

/-- A word of the format SL: scalar long immediate (R61). -/
def encSL (op d hw imm : Nat) : Nat :=
  op * 2 ^ 26 + d * 2 ^ 18 + hw * 2 ^ 16 + imm

/-- A word of the format BR: conditional branch (R61). -/
def encBR (op t off : Nat) : Nat :=
  op * 2 ^ 26 + t * 2 ^ 18 + off

/-- A word of the format J: jump and call (R61). -/
def encJ (op off : Nat) : Nat :=
  op * 2 ^ 26 + off

/-- A word of the format MV: vector memory (R61). -/
def encMV (op g d a b fn : Nat) : Nat :=
  op * 2 ^ 26 + g * 2 ^ 24 + d * 2 ^ 17 + a * 2 ^ 10 + b * 2 ^ 4 + fn

/-- A word of the format MC: contiguous vector memory (R61). -/
def encMC (op g d b imm : Nat) : Nat :=
  op * 2 ^ 26 + g * 2 ^ 24 + d * 2 ^ 17 + b * 2 ^ 11 + imm

/-- A word of the format PC: predicate compare (R61). -/
def encPC (op g pd pe a b fn : Nat) : Nat :=
  op * 2 ^ 26 + g * 2 ^ 24 + pd * 2 ^ 20 + pe * 2 ^ 16 + a * 2 ^ 9 + b * 2 ^ 2 + fn

/-- A word of the format X: matrix (R61). -/
def encX (op g q a mg fa fb fn : Nat) : Nat :=
  op * 2 ^ 26 + g * 2 ^ 24 + q * 2 ^ 22 + a * 2 ^ 15 + mg * 2 ^ 9 + fa * 2 ^ 6 + fb * 2 ^ 3 + fn

/-- A word of the format Y: synchronisation and asynchronous (R61). -/
def encY (op pt a b fn : Nat) : Nat :=
  op * 2 ^ 26 + pt * 2 ^ 19 + a * 2 ^ 13 + b * 2 ^ 7 + fn

/-- A word of the format G: glyph call (R61). -/
def encG (op gi pA pB kinds : Nat) : Nat :=
  op * 2 ^ 26 + gi * 2 ^ 16 + pA * 2 ^ 9 + pB * 2 ^ 2 + kinds

/-- A word of the format SS: system, sub-form SS (R61). -/
def encSS (op d a sel fn : Nat) : Nat :=
  op * 2 ^ 26 + d * 2 ^ 18 + a * 2 ^ 12 + sel * 2 ^ 4 + fn

/-- A word of the format SV: system, sub-form SV (R61). -/
def encSV (op g d a b fn : Nat) : Nat :=
  op * 2 ^ 26 + g * 2 ^ 24 + d * 2 ^ 17 + a * 2 ^ 10 + b * 2 ^ 4 + fn

/-- A word of the format SM: system, sub-form SM (R61). -/
def encSM (op imm fn : Nat) : Nat :=
  op * 2 ^ 26 + imm * 2 ^ 4 + fn

/-- The word of an instruction (R77 to R82); the events of the device have none. -/
def encode : Instr → Option (BitVec 32)
  | .branch off => some (BitVec.ofNat 32 (encJ 0x01 off.toNat))
  | .call off => some (BitVec.ofNat 32 (encJ 0x02 off.toNat))
  | .nop => some (BitVec.ofNat 32 (encSR 0x03 0 0 0 0))
  | .calls a => some (BitVec.ofNat 32 (encSR 0x03 0 a.toNat 0 0x1))
  | .ret => some (BitVec.ofNat 32 (encSR 0x03 0 0 0 0x2))
  | .jmps a => some (BitVec.ofNat 32 (encSR 0x03 0 a.toNat 0 0x3))
  | .land => some (BitVec.ofNat 32 (encSR 0x03 0 0 0 0x4))
  | .halt => some (BitVec.ofNat 32 (encSR 0x03 0 0 0 0x5))
  | .poll => some (BitVec.ofNat 32 (encSR 0x03 0 0 0 0x6))
  | .yield => some (BitVec.ofNat 32 (encSR 0x03 0 0 0 0x7))
  | .endGroup => some (BitVec.ofNat 32 (encSR 0x03 0 0 0 0x8))
  | .bz t off => some (BitVec.ofNat 32 (encBR 0x04 t.toNat off.toNat))
  | .bnz t off => some (BitVec.ofNat 32 (encBR 0x05 t.toNat off.toNat))
  | .bany t off => some (BitVec.ofNat 32 (encBR 0x06 t.toNat off.toNat))
  | .ball t off => some (BitVec.ofNat 32 (encBR 0x07 t.toNat off.toNat))
  | .bnone t off => some (BitVec.ofNat 32 (encBR 0x08 t.toNat off.toNat))
  | .jmpv a => some (BitVec.ofNat 32 (encVR 0x09 0 0 a.toNat 0 0))
  | .add d a b => some (BitVec.ofNat 32 (encSR 0x0A d.toNat a.toNat b.toNat 0))
  | .sub d a b => some (BitVec.ofNat 32 (encSR 0x0A d.toNat a.toNat b.toNat 0x1))
  | .and d a b => some (BitVec.ofNat 32 (encSR 0x0A d.toNat a.toNat b.toNat 0x2))
  | .or d a b => some (BitVec.ofNat 32 (encSR 0x0A d.toNat a.toNat b.toNat 0x3))
  | .xor d a b => some (BitVec.ofNat 32 (encSR 0x0A d.toNat a.toNat b.toNat 0x4))
  | .sll d a b => some (BitVec.ofNat 32 (encSR 0x0A d.toNat a.toNat b.toNat 0x5))
  | .srl d a b => some (BitVec.ofNat 32 (encSR 0x0A d.toNat a.toNat b.toNat 0x6))
  | .sra d a b => some (BitVec.ofNat 32 (encSR 0x0A d.toNat a.toNat b.toNat 0x7))
  | .mul d a b => some (BitVec.ofNat 32 (encSR 0x0A d.toNat a.toNat b.toNat 0x8))
  | .mulh d a b => some (BitVec.ofNat 32 (encSR 0x0A d.toNat a.toNat b.toNat 0x9))
  | .mulhn d a b => some (BitVec.ofNat 32 (encSR 0x0A d.toNat a.toNat b.toNat 0xA))
  | .div d a b => some (BitVec.ofNat 32 (encSR 0x0A d.toNat a.toNat b.toNat 0xB))
  | .divn d a b => some (BitVec.ofNat 32 (encSR 0x0A d.toNat a.toNat b.toNat 0xC))
  | .rem d a b => some (BitVec.ofNat 32 (encSR 0x0A d.toNat a.toNat b.toNat 0xD))
  | .remn d a b => some (BitVec.ofNat 32 (encSR 0x0A d.toNat a.toNat b.toNat 0xE))
  | .slt d a b => some (BitVec.ofNat 32 (encSR 0x0A d.toNat a.toNat b.toNat 0xF))
  | .sltn d a b => some (BitVec.ofNat 32 (encSR 0x0A d.toNat a.toNat b.toNat 0x10))
  | .min d a b => some (BitVec.ofNat 32 (encSR 0x0A d.toNat a.toNat b.toNat 0x11))
  | .max d a b => some (BitVec.ofNat 32 (encSR 0x0A d.toNat a.toNat b.toNat 0x12))
  | .minn d a b => some (BitVec.ofNat 32 (encSR 0x0A d.toNat a.toNat b.toNat 0x13))
  | .maxn d a b => some (BitVec.ofNat 32 (encSR 0x0A d.toNat a.toNat b.toNat 0x14))
  | .seq d a b => some (BitVec.ofNat 32 (encSR 0x0A d.toNat a.toNat b.toNat 0x15))
  | .clz d a => some (BitVec.ofNat 32 (encSR 0x0A d.toNat a.toNat 0 0x16))
  | .ctz d a => some (BitVec.ofNat 32 (encSR 0x0A d.toNat a.toNat 0 0x17))
  | .popc d a => some (BitVec.ofNat 32 (encSR 0x0A d.toNat a.toNat 0 0x18))
  | .addi d a imm => some (BitVec.ofNat 32 (encSI 0x0B d.toNat a.toNat imm.toNat))
  | .andi d a imm => some (BitVec.ofNat 32 (encSI 0x0C d.toNat a.toNat imm.toNat))
  | .ori d a imm => some (BitVec.ofNat 32 (encSI 0x0D d.toNat a.toNat imm.toNat))
  | .glyph gi pA pB kinds => some (BitVec.ofNat 32 (encG 0x0E gi.toNat pA.toNat pB.toNat kinds.toNat))
  | .glyld a gi => some (BitVec.ofNat 32 (encSI 0x0F 0 a.toNat gi.toNat))
  | .xori d a imm => some (BitVec.ofNat 32 (encSI 0x10 d.toNat a.toNat imm.toNat))
  | .slli d a cnt => some (BitVec.ofNat 32 (encSI 0x11 d.toNat a.toNat cnt.toNat))
  | .srli d a cnt => some (BitVec.ofNat 32 (encSI 0x11 d.toNat a.toNat (cnt.toNat + 0x40)))
  | .srai d a cnt => some (BitVec.ofNat 32 (encSI 0x11 d.toNat a.toNat (cnt.toNat + 0x80)))
  | .slti d a imm => some (BitVec.ofNat 32 (encSI 0x12 d.toNat a.toNat imm.toNat))
  | .liz d hw imm => some (BitVec.ofNat 32 (encSL 0x13 d.toNat hw.toNat imm.toNat))
  | .lik d hw imm => some (BitVec.ofNat 32 (encSL 0x14 d.toNat hw.toNat imm.toNat))
  | .ld d a imm => some (BitVec.ofNat 32 (encSI 0x15 d.toNat a.toNat imm.toNat))
  | .st d a imm => some (BitVec.ofNat 32 (encSI 0x16 d.toNat a.toNat imm.toNat))
  | .ldk d a imm => some (BitVec.ofNat 32 (encSI 0x17 d.toNat a.toNat imm.toNat))
  | .mode d a mask => some (BitVec.ofNat 32 (encSS 0x18 d.toNat a.toNat mask.toNat 0))
  | .mdr d => some (BitVec.ofNat 32 (encSS 0x18 d.toNat 0 0 0x1))
  | .flr d => some (BitVec.ofNat 32 (encSS 0x18 d.toNat 0 0 0x2))
  | .flclr d a sel => some (BitVec.ofNat 32 (encSS 0x18 d.toNat a.toNat sel.code 0x3))
  | .sreadScalar d sel => some (BitVec.ofNat 32 (encSS 0x18 d.toNat 0 sel.code 0x4))
  | .swrite a sel => some (BitVec.ofNat 32 (encSS 0x18 0 a.toNat sel.code 0x5))
  | .sreadVector g d sel => some (BitVec.ofNat 32 (encSV 0x18 g.toNat d.toNat sel.code 0 0x6))
  | .pand g d a b => some (BitVec.ofNat 32 (encVR 0x19 g.toNat d.toNat a.toNat b.toNat 0))
  | .por g d a b => some (BitVec.ofNat 32 (encVR 0x19 g.toNat d.toNat a.toNat b.toNat 0x1))
  | .pxor g d a b => some (BitVec.ofNat 32 (encVR 0x19 g.toNat d.toNat a.toNat b.toNat 0x2))
  | .pmov g d a => some (BitVec.ofNat 32 (encVR 0x19 g.toNat d.toNat a.toNat 0 0x3))
  | .pset g d a => some (BitVec.ofNat 32 (encVR 0x19 g.toNat d.toNat a.toNat 0 0x4))
  | .pget d a => some (BitVec.ofNat 32 (encVR 0x19 0 d.toNat a.toNat 0 0x5))
  | .pcnt d a => some (BitVec.ofNat 32 (encVR 0x19 0 d.toNat a.toNat 0 0x6))
  | .pfirst d a => some (BitVec.ofNat 32 (encVR 0x19 0 d.toNat a.toNat 0 0x7))
  | .cvt g d a c => some (BitVec.ofNat 32 (encVR 0x1A g.toNat d.toNat a.toNat c.code 0))
  | .cvtFrom g d a c => some (BitVec.ofNat 32 (encVR 0x1A g.toNat d.toNat a.toNat c.code 0x1))
  | .quant g d a slot => some (BitVec.ofNat 32 (encVR 0x1B g.toNat d.toNat a.toNat slot.toNat 0))
  | .deq g d a slot => some (BitVec.ofNat 32 (encVR 0x1B g.toNat d.toNat a.toNat slot.toNat 0x1))
  | .vmovi g d imm => some (BitVec.ofNat 32 (encVI 0x1C g.toNat d.toNat 0 imm.toNat))
  | .vadd g d a b => some (BitVec.ofNat 32 (encVR 0x1D g.toNat d.toNat a.toNat b.toNat 0))
  | .vsub g d a b => some (BitVec.ofNat 32 (encVR 0x1D g.toNat d.toNat a.toNat b.toNat 0x1))
  | .vmul g d a b => some (BitVec.ofNat 32 (encVR 0x1D g.toNat d.toNat a.toNat b.toNat 0x2))
  | .vmulh g d a b => some (BitVec.ofNat 32 (encVR 0x1D g.toNat d.toNat a.toNat b.toNat 0x3))
  | .vmin g d a b => some (BitVec.ofNat 32 (encVR 0x1D g.toNat d.toNat a.toNat b.toNat 0x4))
  | .vmax g d a b => some (BitVec.ofNat 32 (encVR 0x1D g.toNat d.toNat a.toNat b.toNat 0x5))
  | .vabsd g d a b => some (BitVec.ofNat 32 (encVR 0x1D g.toNat d.toNat a.toNat b.toNat 0x6))
  | .vavg g d a b => some (BitVec.ofNat 32 (encVR 0x1D g.toNat d.toNat a.toNat b.toNat 0x7))
  | .vand g d a b => some (BitVec.ofNat 32 (encVR 0x1E g.toNat d.toNat a.toNat b.toNat 0))
  | .vor g d a b => some (BitVec.ofNat 32 (encVR 0x1E g.toNat d.toNat a.toNat b.toNat 0x1))
  | .vxor g d a b => some (BitVec.ofNat 32 (encVR 0x1E g.toNat d.toNat a.toNat b.toNat 0x2))
  | .vandn g d a b => some (BitVec.ofNat 32 (encVR 0x1E g.toNat d.toNat a.toNat b.toNat 0x3))
  | .vsll g d a b => some (BitVec.ofNat 32 (encVR 0x1E g.toNat d.toNat a.toNat b.toNat 0x4))
  | .vsrl g d a b => some (BitVec.ofNat 32 (encVR 0x1E g.toNat d.toNat a.toNat b.toNat 0x5))
  | .vsra g d a b => some (BitVec.ofNat 32 (encVR 0x1E g.toNat d.toNat a.toNat b.toNat 0x6))
  | .vpopc g d a => some (BitVec.ofNat 32 (encVR 0x1E g.toNat d.toNat a.toNat 0 0x7))
  | .vadds g d a b => some (BitVec.ofNat 32 (encVR 0x1F g.toNat d.toNat a.toNat b.toNat 0))
  | .vsubs g d a b => some (BitVec.ofNat 32 (encVR 0x1F g.toNat d.toNat a.toNat b.toNat 0x1))
  | .vmad g d a b => some (BitVec.ofNat 32 (encVR 0x1F g.toNat d.toNat a.toNat b.toNat 0x2))
  | .vdot4 g d a b => some (BitVec.ofNat 32 (encVR 0x1F g.toNat d.toNat a.toNat b.toNat 0x3))
  | .vdiv g d a b => some (BitVec.ofNat 32 (encVR 0x1F g.toNat d.toNat a.toNat b.toNat 0x4))
  | .vrem g d a b => some (BitVec.ofNat 32 (encVR 0x1F g.toNat d.toNat a.toNat b.toNat 0x5))
  | .vclz g d a => some (BitVec.ofNat 32 (encVR 0x1F g.toNat d.toNat a.toNat 0 0x6))
  | .vabs g d a => some (BitVec.ofNat 32 (encVR 0x1F g.toNat d.toNat a.toNat 0 0x7))
  | .vaddi g d a imm => some (BitVec.ofNat 32 (encVI 0x20 g.toNat d.toNat a.toNat imm.toNat))
  | .vslli g d a cnt => some (BitVec.ofNat 32 (encVI 0x21 g.toNat d.toNat a.toNat cnt.toNat))
  | .vsrli g d a cnt => some (BitVec.ofNat 32 (encVI 0x21 g.toNat d.toNat a.toNat (cnt.toNat + 0x20)))
  | .vsrai g d a cnt => some (BitVec.ofNat 32 (encVI 0x21 g.toNat d.toNat a.toNat (cnt.toNat + 0x40)))
  | .fadd g d a b => some (BitVec.ofNat 32 (encVR 0x22 g.toNat d.toNat a.toNat b.toNat 0))
  | .fsub g d a b => some (BitVec.ofNat 32 (encVR 0x22 g.toNat d.toNat a.toNat b.toNat 0x1))
  | .fmul g d a b => some (BitVec.ofNat 32 (encVR 0x22 g.toNat d.toNat a.toNat b.toNat 0x2))
  | .fmin g d a b => some (BitVec.ofNat 32 (encVR 0x22 g.toNat d.toNat a.toNat b.toNat 0x3))
  | .fmax g d a b => some (BitVec.ofNat 32 (encVR 0x22 g.toNat d.toNat a.toNat b.toNat 0x4))
  | .fabs g d a => some (BitVec.ofNat 32 (encVR 0x22 g.toNat d.toNat a.toNat 0 0x5))
  | .fneg g d a => some (BitVec.ofNat 32 (encVR 0x22 g.toNat d.toNat a.toNat 0 0x6))
  | .fsgnj g d a b => some (BitVec.ofNat 32 (encVR 0x22 g.toNat d.toNat a.toNat b.toNat 0x7))
  | .fma g d a b => some (BitVec.ofNat 32 (encVR 0x23 g.toNat d.toNat a.toNat b.toNat 0))
  | .fms g d a b => some (BitVec.ofNat 32 (encVR 0x23 g.toNat d.toNat a.toNat b.toNat 0x1))
  | .fnma g d a b => some (BitVec.ofNat 32 (encVR 0x23 g.toNat d.toNat a.toNat b.toNat 0x2))
  | .fdiv g d a b => some (BitVec.ofNat 32 (encVR 0x23 g.toNat d.toNat a.toNat b.toNat 0x3))
  | .fsqrt g d a => some (BitVec.ofNat 32 (encVR 0x23 g.toNat d.toNat a.toNat 0 0x4))
  | .frsq g d a => some (BitVec.ofNat 32 (encVR 0x23 g.toNat d.toNat a.toNat 0 0x5))
  | .fexp2 g d a => some (BitVec.ofNat 32 (encVR 0x23 g.toNat d.toNat a.toNat 0 0x6))
  | .flog2 g d a => some (BitVec.ofNat 32 (encVR 0x23 g.toNat d.toNat a.toNat 0 0x7))
  | .vcmp g c pd pe a b => some (BitVec.ofNat 32 (encPC (0x24 + c.code / 4) g.toNat pd.toNat pe.toNat a.toNat b.toNat (c.code % 4)))
  | .fcmp g c pd pe a b => some (BitVec.ofNat 32 (encPC (0x26 + c.code / 4) g.toNat pd.toNat pe.toNat a.toNat b.toNat (c.code % 4)))
  | .vsel g d a b p => some (BitVec.ofNat 32 (encVR (0x28 + p.toNat / 8) g.toNat d.toNat a.toNat b.toNat (p.toNat % 8)))
  | .vmov g d a => some (BitVec.ofNat 32 (encVR 0x2A g.toNat d.toNat a.toNat 0 0))
  | .vbcast g d a => some (BitVec.ofNat 32 (encVR 0x2A g.toNat d.toNat a.toNat 0 0x1))
  | .shfl g d a b => some (BitVec.ofNat 32 (encVR 0x2B g.toNat d.toNat a.toNat b.toNat 0))
  | .shflx g d a b => some (BitVec.ofNat 32 (encVR 0x2B g.toNat d.toNat a.toNat b.toNat 0x1))
  | .shflu g d a b => some (BitVec.ofNat 32 (encVR 0x2B g.toNat d.toNat a.toNat b.toNat 0x2))
  | .shfld g d a b => some (BitVec.ofNat 32 (encVR 0x2B g.toNat d.toNat a.toNat b.toNat 0x3))
  | .vextr g d a b => some (BitVec.ofNat 32 (encVR 0x2B g.toNat d.toNat a.toNat b.toNat 0x4))
  | .vins g d a b => some (BitVec.ofNat 32 (encVR 0x2B g.toNat d.toNat a.toNat b.toNat 0x5))
  | .vcompact g d a => some (BitVec.ofNat 32 (encVR 0x2B g.toNat d.toNat a.toNat 0 0x6))
  | .vred g d a f => some (BitVec.ofNat 32 (encVR 0x2C g.toNat d.toNat a.toNat 0 f.code))
  | .vscan g d a f => some (BitVec.ofNat 32 (encVR 0x2D g.toNat d.toNat a.toNat 0 f.code))
  | .mma g q a mg fa fb => some (BitVec.ofNat 32 (encX 0x2E g.toNat q.toNat a.toNat mg.toNat fa.toNat fb.toNat 0))
  | .azero g q => some (BitVec.ofNat 32 (encX 0x2E g.toNat q.toNat 0 0 0 0 0x1))
  | .cvta g q d => some (BitVec.ofNat 32 (encX 0x2E g.toNat q.toNat d.toNat 0 0 0 0x2))
  | .inkz mg => some (BitVec.ofNat 32 (encX 0x2E 0 0 0 mg.toNat 0 0 0x3))
  | .vld g d a b sz => some (BitVec.ofNat 32 (encMV 0x2F g.toNat d.toNat a.toNat b.toNat (sz.code * 4)))
  | .spld g d a b sz => some (BitVec.ofNat 32 (encMV 0x2F g.toNat d.toNat a.toNat b.toNat (sz.code * 4 + 0x1)))
  | .vtld g d a b sz => some (BitVec.ofNat 32 (encMV 0x2F g.toNat d.toNat a.toNat b.toNat (sz.code * 4 + 0x2)))
  | .slld g d a b sz => some (BitVec.ofNat 32 (encMV 0x2F g.toNat d.toNat a.toNat b.toNat (sz.code * 4 + 0x3)))
  | .vst g d a b sz => some (BitVec.ofNat 32 (encMV 0x30 g.toNat d.toNat a.toNat b.toNat (sz.code * 4)))
  | .spst g d a b sz => some (BitVec.ofNat 32 (encMV 0x30 g.toNat d.toNat a.toNat b.toNat (sz.code * 4 + 0x1)))
  | .vtst g d a b sz => some (BitVec.ofNat 32 (encMV 0x30 g.toNat d.toNat a.toNat b.toNat (sz.code * 4 + 0x2)))
  | .slst g d a b sz => some (BitVec.ofNat 32 (encMV 0x30 g.toNat d.toNat a.toNat b.toNat (sz.code * 4 + 0x3)))
  | .vldc g d b imm => some (BitVec.ofNat 32 (encMC 0x31 g.toNat d.toNat b.toNat imm.toNat))
  | .vstc g d b imm => some (BitVec.ofNat 32 (encMC 0x32 g.toNat d.toNat b.toNat imm.toNat))
  | .pref g a b sp => some (BitVec.ofNat 32 (encMV 0x33 g.toNat 0 a.toNat b.toNat sp.code))
  | .amov g d a sc od f => some (BitVec.ofNat 32 (encVR 0x34 g.toNat d.toNat a.toNat (sc.code * 8 + od.code) f.code))
  | .casv g d a sc od => some (BitVec.ofNat 32 (encVR 0x34 g.toNat d.toNat a.toNat (sc.code * 8 + od.code) 0x7))
  | .redv g d a sc od f => some (BitVec.ofNat 32 (encVR 0x35 g.toNat d.toNat a.toNat (sc.code * 8 + od.code) f.code))
  | .altakev g d a b => some (BitVec.ofNat 32 (encVR 0x36 g.toNat d.toNat a.toNat b.toNat 0))
  | .copyv g n a b sz => some (BitVec.ofNat 32 (encVR 0x37 g.toNat n.toNat a.toNat b.toNat sz.code))
  | .amos d a sc od f => some (BitVec.ofNat 32 (encSR 0x38 d.toNat a.toNat (sc.code * 8 + od.code) f.code))
  | .reds d a sc od f => some (BitVec.ofNat 32 (encSR 0x38 d.toNat a.toNat (sc.code * 8 + od.code) (f.code + 0x10)))
  | .cass d a sc od => some (BitVec.ofNat 32 (encSR 0x38 d.toNat a.toNat (sc.code * 8 + od.code) 0x20))
  | .lda d a sc od => some (BitVec.ofNat 32 (encSR 0x38 d.toNat a.toNat (sc.code * 8 + od.code) 0x28))
  | .strl d a sc od => some (BitVec.ofNat 32 (encSR 0x38 d.toNat a.toNat (sc.code * 8 + od.code) 0x29))
  | .fence sc od => some (BitVec.ofNat 32 (encSR 0x38 0 0 (sc.code * 8 + od.code) 0x30))
  | .fenceo => some (BitVec.ofNat 32 (encSR 0x38 0 0 0 0x31))
  | .alinit d a b => some (BitVec.ofNat 32 (encSR 0x39 d.toNat a.toNat b.toNat 0))
  | .altake d a b => some (BitVec.ofNat 32 (encSR 0x39 d.toNat a.toNat b.toNat 0x1))
  | .algive d a b => some (BitVec.ofNat 32 (encSR 0x39 d.toNat a.toNat b.toNat 0x2))
  | .alread d a => some (BitVec.ofNat 32 (encSR 0x39 d.toNat a.toNat 0 0x3))
  | .alfree d a => some (BitVec.ofNat 32 (encSR 0x39 d.toNat a.toNat 0 0x4))
  | .rdvinit pt a b => some (BitVec.ofNat 32 (encY 0x3A pt.toNat a.toNat b.toNat 0))
  | .arrive pt a => some (BitVec.ofNat 32 (encY 0x3A pt.toNat a.toNat 0 0x1))
  | .expect pt a => some (BitVec.ofNat 32 (encY 0x3A pt.toNat a.toNat 0 0x2))
  | .waitp pt a => some (BitVec.ofNat 32 (encY 0x3A pt.toNat a.toNat 0 0x3))
  | .waity pt a b => some (BitVec.ofNat 32 (encY 0x3A pt.toNat a.toNat b.toNat 0x4))
  | .arwait pt => some (BitVec.ofNat 32 (encY 0x3A pt.toNat 0 0 0x5))
  | .rdvstat pt a b => some (BitVec.ofNat 32 (encY 0x3A pt.toNat a.toNat b.toNat 0x6))
  | .garrive pt => some (BitVec.ofNat 32 (encY 0x3A pt.toNat 0 0 0x7))
  | .gwait pt => some (BitVec.ofNat 32 (encY 0x3A pt.toNat 0 0 0x8))
  | .phase pt a b => some (BitVec.ofNat 32 (encY 0x3A pt.toNat a.toNat b.toNat 0x9))
  | .copy pt a b => some (BitVec.ofNat 32 (encY 0x3B pt.toNat a.toNat b.toNat 0))
  | .copyt pt a b => some (BitVec.ofNat 32 (encY 0x3B pt.toNat a.toNat b.toNat 0x1))
  | .ink pt a b => some (BitVec.ofNat 32 (encY 0x3B pt.toNat a.toNat b.toNat 0x2))
  | .mmas pt a b => some (BitVec.ofNat 32 (encY 0x3B pt.toNat a.toNat b.toNat 0x3))
  | .spawn g d a b => some (BitVec.ofNat 32 (encVR 0x3C g.toNat d.toNat a.toNat b.toNat 0))
  | .launch d a b => some (BitVec.ofNat 32 (encSR 0x3D d.toNat a.toNat b.toNat 0))
  | .trap imm => some (BitVec.ofNat 32 (encSM 0x3E imm.toNat 0))
  | .hcall g d a b => some (BitVec.ofNat 32 (encSV 0x3E g.toNat d.toNat a.toNat b.toNat 0x1))
  | .eret => some (BitVec.ofNat 32 (encSS 0x3E 0 0 0 0x2))
  | .slcfg d a form => some (BitVec.ofNat 32 (encSS 0x3E d.toNat a.toNat form.code 0x3))
  | .tlbinv a form => some (BitVec.ofNat 32 (encSS 0x3E 0 a.toNat form.code 0x4))
  | .cachecl a form => some (BitVec.ofNat 32 (encSS 0x3E 0 a.toNat form.code 0x5))
  | .evrd d => some (BitVec.ofNat 32 (encSS 0x3E d.toNat 0 0 0x6))
  | .loadDataReturn _ _ _ => none
  | .mmaComplete _ _ => none
  | .mmasComplete _ => none
  | .inkComplete _ => none
  | .copySectorWritten _ => none
  | .waitWake _ _ => none
  | .launchSignalStore _ _ _ _ _ _ => none
  | .launchPortRead _ _ => none
  | .dependencePoll _ => none
  | .teamAdmission _ => none
  | .teamRetirement _ => none
  | .gridRetirement _ => none
  | .teamSave _ => none
  | .allowanceReq _ _ => none
  | .allowanceGive _ _ => none
  | .allowanceFlush _ _ => none
  | .allowanceGrant _ _ => none
  | .allowanceRecall _ _ => none
  | .allowanceAck _ _ => none
  | .allowanceRelease _ _ => none
  | .allowanceDrainServe _ => none
  | .giveReply _ _ => none
  | .earlyCommit _ => none
  | .journalLaunch _ => none
  | .journalCopy _ => none
  | .journalCopySector _ => none
  | .journalSignal _ => none
  | .journalBarrier _ => none
  | .illegalEncoding _ _ => none
  | .instructionFetchFault _ _ => none
  | .parityDeltaAccept _ => none
  | .parityDeltaApply _ => none
  | .spawnBinTimer _ _ => none
  | .registerWrite _ _ _ => none
  | .levelRise _ => none
  | .levelFall _ => none
  | .leaseHoldExpiry _ => none
  | .leaseExpiry _ _ => none
  | .pinwinApply _ => none
  | .storeFailure _ _ _ _ _ => none
  | .placementDiversionTimeout _ => none
  | .headTeamHold _ => none
  | .groupAged _ _ => none
  | .yieldHoldExpiry _ _ => none
  | .preemptDeadline _ => none
  | .deadlockWatchdog _ => none
  | .scopeMarkPromotion _ => none
  | .promotionStart _ _ _ _ => none
  | .promotionCommit _ _ => none
  | .promotionAbandon _ _ => none
  | .submitWrite _ _ => none
  | .ajconsWrite _ _ => none
  | .seqMismatchReread _ => none
  | .ctxCreate => none
  | .ctxSet => none
  | .ctxPreempt => none
  | .ctxResume => none
  | .ctxReset => none
  | .ctxDestroy => none
  | .ctxStop => none
  | .hreplyWrite _ _ => none
  | .hqheadWrite _ _ => none
  | .fqdoneWrite _ _ => none
  | .fqheadWrite _ _ => none
  | .tlbShootdownPage _ _ => none
  | .tlbShootdownContext _ => none
  | .tlbShootdownAllContexts _ => none
  | .shootdownComplete => none
  | .stackLost _ => none
  | .restripeStart => none
  | .restripeStripeDone => none
  | .patrolScrub _ _ => none
  | .vaultRefresh _ _ => none
  | .refreshEnd _ _ => none
  | .renew _ _ => none
  | .refreshLeaseLapse _ => none
  | .checkpointSave => none
  | .checkpointRestore => none
  | .checkpointComplete _ => none
  | .columnFence _ _ => none
  | .suspectedCrackedConnection _ _ => none
  | .regulatorDroop _ _ => none
  | .devreset _ => none
  | .columnWaysWrite _ _ => none
  | .pinwinWrite _ _ => none
  | .govForce _ _ => none
  | .logconsWrite _ => none
  | .powerOn => none
  | .bootStep _ => none
  | .pcieReset => none
  | .managementRequest => none
  | .dmcWatchdog _ => none
  | .thermalTrip _ _ => none
  | .regulatorFault => none
  | .ucieFlitRetry _ _ => none
  | .ucieLaneRepaired _ _ => none
  | .ucieModuleDisabled _ _ => none
  | .dieLinkLost _ => none
  | .ualinkPortTraining _ _ _ => none
  | .doubleRateOffer _ _ => none
  | .peerReadRequest _ _ _ _ => none
  | .peerWriteRequest _ _ _ => none
  | .ptpUnlocked _ => none
  | .heartbeat _ => none
  | .goWrite _ => none
  | .backInvalidateResponse _ => none
  | .spdmGetMeasurements _ => none
  | .keySlotLoad _ _ _ _ => none
  | .pldmGetSensorReading _ => none
  | .platformEventRetry _ => none
  | .cxlMemRequest _ _ _ => none
  | .hostCoreMemoryAccess _ _ _ _ => none
  | .ualinkPortDown _ => none
  | .ptpLockRegained => none
  | .peerHeartbeat _ => none
  | .vaultHot _ _ _ => none
  | .regulatorDroopCleared _ => none
  | .logMergeSummary _ _ _ => none
  | .tdispStateChange _ => none

/-- Steps 2 to 5 of R75 for major opcode 0x03 (R77 to R82). -/
def major03 (n : Nat) : Except DecodeError Instr :=
  match n % 64 with
  | 0 => settle n false [(6, 6), (12, 6), (18, 6)] (some .nop)
  | 1 => settle n false [(6, 6), (18, 6)] (some (.calls (fld n 12)))
  | 2 => settle n false [(6, 6), (12, 6), (18, 6)] (some .ret)
  | 3 => settle n false [(6, 6), (18, 6)] (some (.jmps (fld n 12)))
  | 4 => settle n false [(6, 6), (12, 6), (18, 6)] (some .land)
  | 5 => settle n false [(6, 6), (12, 6), (18, 6)] (some .halt)
  | 6 => settle n false [(6, 6), (12, 6), (18, 6)] (some .poll)
  | 7 => settle n false [(6, 6), (12, 6), (18, 6)] (some .yield)
  | 8 => settle n false [(6, 6), (12, 6), (18, 6)] (some .endGroup)
  | _ => .error .minor

/-- Steps 2 to 5 of R75 for major opcode 0x09 (R77 to R82). -/
def major09 (n : Nat) : Except DecodeError Instr :=
  match n % 8 with
  | 0 => settle n false [(3, 7), (17, 7)] (some (.jmpv (fld n 10)))
  | _ => .error .minor

/-- Steps 2 to 5 of R75 for major opcode 0x0A (R77 to R82). -/
def major0A (n : Nat) : Except DecodeError Instr :=
  match n % 64 with
  | 0 => settle n false [] (some (.add (fld n 18) (fld n 12) (fld n 6)))
  | 1 => settle n false [] (some (.sub (fld n 18) (fld n 12) (fld n 6)))
  | 2 => settle n false [] (some (.and (fld n 18) (fld n 12) (fld n 6)))
  | 3 => settle n false [] (some (.or (fld n 18) (fld n 12) (fld n 6)))
  | 4 => settle n false [] (some (.xor (fld n 18) (fld n 12) (fld n 6)))
  | 5 => settle n false [] (some (.sll (fld n 18) (fld n 12) (fld n 6)))
  | 6 => settle n false [] (some (.srl (fld n 18) (fld n 12) (fld n 6)))
  | 7 => settle n false [] (some (.sra (fld n 18) (fld n 12) (fld n 6)))
  | 8 => settle n false [] (some (.mul (fld n 18) (fld n 12) (fld n 6)))
  | 9 => settle n false [] (some (.mulh (fld n 18) (fld n 12) (fld n 6)))
  | 10 => settle n false [] (some (.mulhn (fld n 18) (fld n 12) (fld n 6)))
  | 11 => settle n false [] (some (.div (fld n 18) (fld n 12) (fld n 6)))
  | 12 => settle n false [] (some (.divn (fld n 18) (fld n 12) (fld n 6)))
  | 13 => settle n false [] (some (.rem (fld n 18) (fld n 12) (fld n 6)))
  | 14 => settle n false [] (some (.remn (fld n 18) (fld n 12) (fld n 6)))
  | 15 => settle n false [] (some (.slt (fld n 18) (fld n 12) (fld n 6)))
  | 16 => settle n false [] (some (.sltn (fld n 18) (fld n 12) (fld n 6)))
  | 17 => settle n false [] (some (.min (fld n 18) (fld n 12) (fld n 6)))
  | 18 => settle n false [] (some (.max (fld n 18) (fld n 12) (fld n 6)))
  | 19 => settle n false [] (some (.minn (fld n 18) (fld n 12) (fld n 6)))
  | 20 => settle n false [] (some (.maxn (fld n 18) (fld n 12) (fld n 6)))
  | 21 => settle n false [] (some (.seq (fld n 18) (fld n 12) (fld n 6)))
  | 22 => settle n false [(6, 6)] (some (.clz (fld n 18) (fld n 12)))
  | 23 => settle n false [(6, 6)] (some (.ctz (fld n 18) (fld n 12)))
  | 24 => settle n false [(6, 6)] (some (.popc (fld n 18) (fld n 12)))
  | _ => .error .minor

/-- Steps 2 to 5 of R75 for major opcode 0x11 (R77 to R82). -/
def major11 (n : Nat) : Except DecodeError Instr :=
  match n / 2 ^ 6 % 4 with
  | 0 => settle n false [(8, 4)] (some (.slli (fld n 18) (fld n 12) (fld n 0)))
  | 1 => settle n false [(8, 4)] (some (.srli (fld n 18) (fld n 12) (fld n 0)))
  | 2 => settle n false [(8, 4)] (some (.srai (fld n 18) (fld n 12) (fld n 0)))
  | _ => .error .minor

/-- Steps 2 to 5 of R75 for major opcode 0x18 (R77 to R82). -/
def major18 (n : Nat) : Except DecodeError Instr :=
  match n % 16 with
  | 0 => settle n false [] (some (.mode (fld n 18) (fld n 12) (fld n 4)))
  | 1 => settle n false [(12, 6)] (if n / 2 ^ 4 % 256 = 0 then some (.mdr (fld n 18)) else none)
  | 2 => settle n false [(12, 6)] (if n / 2 ^ 4 % 256 = 0 then some (.flr (fld n 18)) else none)
  | 3 => settle n false [] ((FlSel.ofCode? (n / 2 ^ 4 % 256)).bind fun sel => some (.flclr (fld n 18) (fld n 12) sel))
  | 4 => settle n false [(12, 6)] ((Sel.ofCode? (n / 2 ^ 4 % 256)).bind fun sel => some (.sreadScalar (fld n 18) sel))
  | 5 => settle n false [(18, 6)] ((Sel.ofCode? (n / 2 ^ 4 % 256)).bind fun sel => some (.swrite (fld n 12) sel))
  | 6 => settle n true [(4, 6), (16, 1)] ((Sel.ofCode? (n / 2 ^ 10 % 64)).bind fun sel => some (.sreadVector (fld n 24) (fld n 17) sel))
  | _ => .error .minor

/-- Steps 2 to 5 of R75 for major opcode 0x19 (R77 to R82). -/
def major19 (n : Nat) : Except DecodeError Instr :=
  match n % 8 with
  | 0 => settle n true [(7, 3), (14, 3), (21, 3)] (some (.pand (fld n 24) (fld n 17) (fld n 10) (fld n 3)))
  | 1 => settle n true [(7, 3), (14, 3), (21, 3)] (some (.por (fld n 24) (fld n 17) (fld n 10) (fld n 3)))
  | 2 => settle n true [(7, 3), (14, 3), (21, 3)] (some (.pxor (fld n 24) (fld n 17) (fld n 10) (fld n 3)))
  | 3 => settle n true [(3, 7), (14, 3), (21, 3)] (some (.pmov (fld n 24) (fld n 17) (fld n 10)))
  | 4 => settle n true [(3, 7), (16, 1), (21, 3)] (some (.pset (fld n 24) (fld n 17) (fld n 10)))
  | 5 => settle n false [(3, 7), (14, 3), (23, 1)] (some (.pget (fld n 17) (fld n 10)))
  | 6 => settle n false [(3, 7), (14, 3), (23, 1)] (some (.pcnt (fld n 17) (fld n 10)))
  | 7 => settle n false [(3, 7), (14, 3), (23, 1)] (some (.pfirst (fld n 17) (fld n 10)))
  | _ => .error .minor

/-- Steps 2 to 5 of R75 for major opcode 0x1A (R77 to R82). -/
def major1A (n : Nat) : Except DecodeError Instr :=
  match n % 8 with
  | 0 => settle n true [] ((ConvCode.ofCode? (n / 2 ^ 3 % 128)).bind fun c => some (.cvt (fld n 24) (fld n 17) (fld n 10) c))
  | 1 => settle n true [] ((ConvCode.ofCode? (n / 2 ^ 3 % 128)).bind fun c => some (.cvtFrom (fld n 24) (fld n 17) (fld n 10) c))
  | _ => .error .minor

/-- Steps 2 to 5 of R75 for major opcode 0x1B (R77 to R82). -/
def major1B (n : Nat) : Except DecodeError Instr :=
  match n % 8 with
  | 0 => settle n true [(6, 4)] (some (.quant (fld n 24) (fld n 17) (fld n 10) (fld n 3)))
  | 1 => settle n true [(6, 4)] (some (.deq (fld n 24) (fld n 17) (fld n 10) (fld n 3)))
  | _ => .error .minor

/-- Steps 2 to 5 of R75 for major opcode 0x1D (R77 to R82). -/
def major1D (n : Nat) : Except DecodeError Instr :=
  match n % 8 with
  | 0 => settle n true [] (some (.vadd (fld n 24) (fld n 17) (fld n 10) (fld n 3)))
  | 1 => settle n true [] (some (.vsub (fld n 24) (fld n 17) (fld n 10) (fld n 3)))
  | 2 => settle n true [] (some (.vmul (fld n 24) (fld n 17) (fld n 10) (fld n 3)))
  | 3 => settle n true [] (some (.vmulh (fld n 24) (fld n 17) (fld n 10) (fld n 3)))
  | 4 => settle n true [] (some (.vmin (fld n 24) (fld n 17) (fld n 10) (fld n 3)))
  | 5 => settle n true [] (some (.vmax (fld n 24) (fld n 17) (fld n 10) (fld n 3)))
  | 6 => settle n true [] (some (.vabsd (fld n 24) (fld n 17) (fld n 10) (fld n 3)))
  | 7 => settle n true [] (some (.vavg (fld n 24) (fld n 17) (fld n 10) (fld n 3)))
  | _ => .error .minor

/-- Steps 2 to 5 of R75 for major opcode 0x1E (R77 to R82). -/
def major1E (n : Nat) : Except DecodeError Instr :=
  match n % 8 with
  | 0 => settle n true [] (some (.vand (fld n 24) (fld n 17) (fld n 10) (fld n 3)))
  | 1 => settle n true [] (some (.vor (fld n 24) (fld n 17) (fld n 10) (fld n 3)))
  | 2 => settle n true [] (some (.vxor (fld n 24) (fld n 17) (fld n 10) (fld n 3)))
  | 3 => settle n true [] (some (.vandn (fld n 24) (fld n 17) (fld n 10) (fld n 3)))
  | 4 => settle n true [] (some (.vsll (fld n 24) (fld n 17) (fld n 10) (fld n 3)))
  | 5 => settle n true [] (some (.vsrl (fld n 24) (fld n 17) (fld n 10) (fld n 3)))
  | 6 => settle n true [] (some (.vsra (fld n 24) (fld n 17) (fld n 10) (fld n 3)))
  | 7 => settle n true [(3, 7)] (some (.vpopc (fld n 24) (fld n 17) (fld n 10)))
  | _ => .error .minor

/-- Steps 2 to 5 of R75 for major opcode 0x1F (R77 to R82). -/
def major1F (n : Nat) : Except DecodeError Instr :=
  match n % 8 with
  | 0 => settle n true [] (some (.vadds (fld n 24) (fld n 17) (fld n 10) (fld n 3)))
  | 1 => settle n true [] (some (.vsubs (fld n 24) (fld n 17) (fld n 10) (fld n 3)))
  | 2 => settle n true [] (some (.vmad (fld n 24) (fld n 17) (fld n 10) (fld n 3)))
  | 3 => settle n true [] (some (.vdot4 (fld n 24) (fld n 17) (fld n 10) (fld n 3)))
  | 4 => settle n true [] (some (.vdiv (fld n 24) (fld n 17) (fld n 10) (fld n 3)))
  | 5 => settle n true [] (some (.vrem (fld n 24) (fld n 17) (fld n 10) (fld n 3)))
  | 6 => settle n true [(3, 7)] (some (.vclz (fld n 24) (fld n 17) (fld n 10)))
  | 7 => settle n true [(3, 7)] (some (.vabs (fld n 24) (fld n 17) (fld n 10)))
  | _ => .error .minor

/-- Steps 2 to 5 of R75 for major opcode 0x21 (R77 to R82). -/
def major21 (n : Nat) : Except DecodeError Instr :=
  match n / 2 ^ 5 % 4 with
  | 0 => settle n true [(7, 3)] (some (.vslli (fld n 24) (fld n 17) (fld n 10) (fld n 0)))
  | 1 => settle n true [(7, 3)] (some (.vsrli (fld n 24) (fld n 17) (fld n 10) (fld n 0)))
  | 2 => settle n true [(7, 3)] (some (.vsrai (fld n 24) (fld n 17) (fld n 10) (fld n 0)))
  | _ => .error .minor

/-- Steps 2 to 5 of R75 for major opcode 0x22 (R77 to R82). -/
def major22 (n : Nat) : Except DecodeError Instr :=
  match n % 8 with
  | 0 => settle n true [] (some (.fadd (fld n 24) (fld n 17) (fld n 10) (fld n 3)))
  | 1 => settle n true [] (some (.fsub (fld n 24) (fld n 17) (fld n 10) (fld n 3)))
  | 2 => settle n true [] (some (.fmul (fld n 24) (fld n 17) (fld n 10) (fld n 3)))
  | 3 => settle n true [] (some (.fmin (fld n 24) (fld n 17) (fld n 10) (fld n 3)))
  | 4 => settle n true [] (some (.fmax (fld n 24) (fld n 17) (fld n 10) (fld n 3)))
  | 5 => settle n true [(3, 7)] (some (.fabs (fld n 24) (fld n 17) (fld n 10)))
  | 6 => settle n true [(3, 7)] (some (.fneg (fld n 24) (fld n 17) (fld n 10)))
  | 7 => settle n true [] (some (.fsgnj (fld n 24) (fld n 17) (fld n 10) (fld n 3)))
  | _ => .error .minor

/-- Steps 2 to 5 of R75 for major opcode 0x23 (R77 to R82). -/
def major23 (n : Nat) : Except DecodeError Instr :=
  match n % 8 with
  | 0 => settle n true [] (some (.fma (fld n 24) (fld n 17) (fld n 10) (fld n 3)))
  | 1 => settle n true [] (some (.fms (fld n 24) (fld n 17) (fld n 10) (fld n 3)))
  | 2 => settle n true [] (some (.fnma (fld n 24) (fld n 17) (fld n 10) (fld n 3)))
  | 3 => settle n true [] (some (.fdiv (fld n 24) (fld n 17) (fld n 10) (fld n 3)))
  | 4 => settle n true [(3, 7)] (some (.fsqrt (fld n 24) (fld n 17) (fld n 10)))
  | 5 => settle n true [(3, 7)] (some (.frsq (fld n 24) (fld n 17) (fld n 10)))
  | 6 => settle n true [(3, 7)] (some (.fexp2 (fld n 24) (fld n 17) (fld n 10)))
  | 7 => settle n true [(3, 7)] (some (.flog2 (fld n 24) (fld n 17) (fld n 10)))
  | _ => .error .minor

/-- Steps 2 to 5 of R75 for major opcodes 0x24 and 0x25 (R77 to R82). -/
def major24 (n : Nat) : Except DecodeError Instr :=
  match VCond.ofCode? (n / 2 ^ 26 % 2 * 4 + n % 4) with
  | some c => settle n true [] (some (.vcmp (fld n 24) c (fld n 20) (fld n 16) (fld n 9) (fld n 2)))
  | none => .error .minor

/-- Steps 2 to 5 of R75 for major opcodes 0x26 and 0x27 (R77 to R82). -/
def major26 (n : Nat) : Except DecodeError Instr :=
  match FCond.ofCode? (n / 2 ^ 26 % 2 * 4 + n % 4) with
  | some c => settle n true [] (some (.fcmp (fld n 24) c (fld n 20) (fld n 16) (fld n 9) (fld n 2)))
  | none => .error .minor

/-- Steps 2 to 5 of R75 for major opcode 0x2A (R77 to R82). -/
def major2A (n : Nat) : Except DecodeError Instr :=
  match n % 8 with
  | 0 => settle n true [(3, 7)] (some (.vmov (fld n 24) (fld n 17) (fld n 10)))
  | 1 => settle n true [(3, 7), (16, 1)] (some (.vbcast (fld n 24) (fld n 17) (fld n 10)))
  | _ => .error .minor

/-- Steps 2 to 5 of R75 for major opcode 0x2B (R77 to R82). -/
def major2B (n : Nat) : Except DecodeError Instr :=
  match n % 8 with
  | 0 => settle n true [] (some (.shfl (fld n 24) (fld n 17) (fld n 10) (fld n 3)))
  | 1 => settle n true [(9, 1)] (some (.shflx (fld n 24) (fld n 17) (fld n 10) (fld n 3)))
  | 2 => settle n true [(9, 1)] (some (.shflu (fld n 24) (fld n 17) (fld n 10) (fld n 3)))
  | 3 => settle n true [(9, 1)] (some (.shfld (fld n 24) (fld n 17) (fld n 10) (fld n 3)))
  | 4 => settle n true [(9, 1), (23, 1)] (some (.vextr (fld n 24) (fld n 17) (fld n 10) (fld n 3)))
  | 5 => settle n true [(9, 1), (16, 1)] (some (.vins (fld n 24) (fld n 17) (fld n 10) (fld n 3)))
  | 6 => settle n true [(3, 7)] (some (.vcompact (fld n 24) (fld n 17) (fld n 10)))
  | _ => .error .minor

/-- Steps 2 to 5 of R75 for major opcode 0x2C (R77 to R82). -/
def major2C (n : Nat) : Except DecodeError Instr :=
  match RedOp.ofCode? (n % 8) with
  | some f => settle n true [(3, 7)] (some (.vred (fld n 24) (fld n 17) (fld n 10) f))
  | none => .error .minor

/-- Steps 2 to 5 of R75 for major opcode 0x2D (R77 to R82). -/
def major2D (n : Nat) : Except DecodeError Instr :=
  match RedOp.ofCode? (n % 8) with
  | some f => settle n true [(3, 7)] (some (.vscan (fld n 24) (fld n 17) (fld n 10) f))
  | none => .error .minor

/-- Steps 2 to 5 of R75 for major opcode 0x2E (R77 to R82). -/
def major2E (n : Nat) : Except DecodeError Instr :=
  match n % 8 with
  | 0 => settle n true [] (some (.mma (fld n 24) (fld n 22) (fld n 15) (fld n 9) (fld n 6) (fld n 3)))
  | 1 => settle n true [(3, 3), (6, 3), (9, 6), (15, 7)] (some (.azero (fld n 24) (fld n 22)))
  | 2 => settle n true [(3, 3), (6, 3), (9, 6)] (some (.cvta (fld n 24) (fld n 22) (fld n 15)))
  | 3 => settle n false [(3, 3), (6, 3), (15, 7), (22, 2)] (some (.inkz (fld n 9)))
  | _ => .error .minor

/-- Steps 2 to 5 of R75 for major opcode 0x2F (R77 to R82). -/
def major2F (n : Nat) : Except DecodeError Instr :=
  match n % 4 with
  | 0 => settle n true [] ((Size.ofCode? (n / 2 ^ 2 % 4)).bind fun sz => some (.vld (fld n 24) (fld n 17) (fld n 10) (fld n 4) sz))
  | 1 => settle n true [] ((Size.ofCode? (n / 2 ^ 2 % 4)).bind fun sz => some (.spld (fld n 24) (fld n 17) (fld n 10) (fld n 4) sz))
  | 2 => settle n true [] ((Size.ofCode? (n / 2 ^ 2 % 4)).bind fun sz => some (.vtld (fld n 24) (fld n 17) (fld n 10) (fld n 4) sz))
  | 3 => settle n true [] ((Size.ofCode? (n / 2 ^ 2 % 4)).bind fun sz => some (.slld (fld n 24) (fld n 17) (fld n 10) (fld n 4) sz))
  | _ => .error .minor

/-- Steps 2 to 5 of R75 for major opcode 0x30 (R77 to R82). -/
def major30 (n : Nat) : Except DecodeError Instr :=
  match n % 4 with
  | 0 => settle n true [] ((Size.ofCode? (n / 2 ^ 2 % 4)).bind fun sz => some (.vst (fld n 24) (fld n 17) (fld n 10) (fld n 4) sz))
  | 1 => settle n true [] ((Size.ofCode? (n / 2 ^ 2 % 4)).bind fun sz => some (.spst (fld n 24) (fld n 17) (fld n 10) (fld n 4) sz))
  | 2 => settle n true [] ((Size.ofCode? (n / 2 ^ 2 % 4)).bind fun sz => some (.vtst (fld n 24) (fld n 17) (fld n 10) (fld n 4) sz))
  | 3 => settle n true [] ((Size.ofCode? (n / 2 ^ 2 % 4)).bind fun sz => some (.slst (fld n 24) (fld n 17) (fld n 10) (fld n 4) sz))
  | _ => .error .minor

/-- Steps 2 to 5 of R75 for major opcode 0x34 (R77 to R82). -/
def major34 (n : Nat) : Except DecodeError Instr :=
  match n % 8 with
  | 7 => settle n true [(9, 1)] ((Scope.ofCode? (n / 2 ^ 6 % 8)).bind fun sc => (Order.ofCode? (n / 2 ^ 3 % 8)).bind fun od => some (.casv (fld n 24) (fld n 17) (fld n 10) sc od))
  | k =>
    match AOp.ofCode? k with
    | some f => settle n true [(9, 1)] ((Scope.ofCode? (n / 2 ^ 6 % 8)).bind fun sc => (Order.ofCode? (n / 2 ^ 3 % 8)).bind fun od => some (.amov (fld n 24) (fld n 17) (fld n 10) sc od f))
    | none => .error .minor

/-- Steps 2 to 5 of R75 for major opcode 0x35 (R77 to R82). -/
def major35 (n : Nat) : Except DecodeError Instr :=
  match n % 8 with
  | 1 => .error .minor
  | 7 => .error .minor
  | k =>
    match AOp.ofCode? k with
    | some f => settle n true [(9, 1)] ((Scope.ofCode? (n / 2 ^ 6 % 8)).bind fun sc => (Order.ofCode? (n / 2 ^ 3 % 8)).bind fun od => some (.redv (fld n 24) (fld n 17) (fld n 10) sc od f))
    | none => .error .minor

/-- Steps 2 to 5 of R75 for major opcode 0x36 (R77 to R82). -/
def major36 (n : Nat) : Except DecodeError Instr :=
  match n % 8 with
  | 0 => settle n true [(9, 1), (21, 3)] (some (.altakev (fld n 24) (fld n 17) (fld n 10) (fld n 3)))
  | _ => .error .minor

/-- Steps 2 to 5 of R75 for major opcode 0x37 (R77 to R82). -/
def major37 (n : Nat) : Except DecodeError Instr :=
  match n / 2 ^ 2 % 2 with
  | 0 => settle n true [] ((PieceSize.ofCode? (n % 4)).bind fun sz => some (.copyv (fld n 24) (fld n 17) (fld n 10) (fld n 3) sz))
  | _ => .error .minor

/-- Steps 2 to 5 of R75 for major opcode 0x38 (R77 to R82). -/
def major38 (n : Nat) : Except DecodeError Instr :=
  match n / 16 % 4 with
  | 0 =>
    match AOp.ofCode? (n % 16) with
    | some f => settle n false [] ((Scope.ofCode? (n / 2 ^ 9 % 8)).bind fun sc => (Order.ofCode? (n / 2 ^ 6 % 8)).bind fun od => some (.amos (fld n 18) (fld n 12) sc od f))
    | none => .error .minor
  | 1 =>
    if n % 16 = 1 then .error .minor
    else match AOp.ofCode? (n % 16) with
    | some f => settle n false [] ((Scope.ofCode? (n / 2 ^ 9 % 8)).bind fun sc => (Order.ofCode? (n / 2 ^ 6 % 8)).bind fun od => some (.reds (fld n 18) (fld n 12) sc od f))
    | none => .error .minor
  | _ =>
    match n % 64 with
    | 0x20 => settle n false [] ((Scope.ofCode? (n / 2 ^ 9 % 8)).bind fun sc => (Order.ofCode? (n / 2 ^ 6 % 8)).bind fun od => some (.cass (fld n 18) (fld n 12) sc od))
    | 0x28 => settle n false [] ((Scope.ofCode? (n / 2 ^ 9 % 8)).bind fun sc => (Order.ofCode? (n / 2 ^ 6 % 8)).bind fun od => some (.lda (fld n 18) (fld n 12) sc od))
    | 0x29 => settle n false [] ((Scope.ofCode? (n / 2 ^ 9 % 8)).bind fun sc => (Order.ofCode? (n / 2 ^ 6 % 8)).bind fun od => some (.strl (fld n 18) (fld n 12) sc od))
    | 0x30 => settle n false [(12, 6), (18, 6)] ((Scope.ofCode? (n / 2 ^ 9 % 8)).bind fun sc => (Order.ofCode? (n / 2 ^ 6 % 8)).bind fun od => some (.fence sc od))
    | 0x31 => settle n false [(6, 6), (12, 6), (18, 6)] (some .fenceo)
    | _ => .error .minor

/-- Steps 2 to 5 of R75 for major opcode 0x39 (R77 to R82). -/
def major39 (n : Nat) : Except DecodeError Instr :=
  match n % 64 with
  | 0 => settle n false [] (some (.alinit (fld n 18) (fld n 12) (fld n 6)))
  | 1 => settle n false [] (some (.altake (fld n 18) (fld n 12) (fld n 6)))
  | 2 => settle n false [] (some (.algive (fld n 18) (fld n 12) (fld n 6)))
  | 3 => settle n false [(6, 6)] (some (.alread (fld n 18) (fld n 12)))
  | 4 => settle n false [(6, 6)] (some (.alfree (fld n 18) (fld n 12)))
  | _ => .error .minor

/-- Steps 2 to 5 of R75 for major opcode 0x3A (R77 to R82). -/
def major3A (n : Nat) : Except DecodeError Instr :=
  match n % 128 with
  | 0 => settle n false [] (some (.rdvinit (fld n 19) (fld n 13) (fld n 7)))
  | 1 => settle n false [(7, 6)] (some (.arrive (fld n 19) (fld n 13)))
  | 2 => settle n false [(7, 6)] (some (.expect (fld n 19) (fld n 13)))
  | 3 => settle n false [(7, 6)] (some (.waitp (fld n 19) (fld n 13)))
  | 4 => settle n false [] (some (.waity (fld n 19) (fld n 13) (fld n 7)))
  | 5 => settle n false [(7, 6), (13, 6)] (some (.arwait (fld n 19)))
  | 6 => settle n false [] (some (.rdvstat (fld n 19) (fld n 13) (fld n 7)))
  | 7 => settle n false [(7, 6), (13, 6)] (some (.garrive (fld n 19)))
  | 8 => settle n false [(7, 6), (13, 6)] (some (.gwait (fld n 19)))
  | 9 => settle n false [] (some (.phase (fld n 19) (fld n 13) (fld n 7)))
  | _ => .error .minor

/-- Steps 2 to 5 of R75 for major opcode 0x3B (R77 to R82). -/
def major3B (n : Nat) : Except DecodeError Instr :=
  match n % 128 with
  | 0 => settle n false [] (some (.copy (fld n 19) (fld n 13) (fld n 7)))
  | 1 => settle n false [] (some (.copyt (fld n 19) (fld n 13) (fld n 7)))
  | 2 => settle n false [] (some (.ink (fld n 19) (fld n 13) (fld n 7)))
  | 3 => settle n false [] (some (.mmas (fld n 19) (fld n 13) (fld n 7)))
  | _ => .error .minor

/-- Steps 2 to 5 of R75 for major opcode 0x3C (R77 to R82). -/
def major3C (n : Nat) : Except DecodeError Instr :=
  match n % 8 with
  | 0 => settle n true [(9, 1), (21, 3)] (some (.spawn (fld n 24) (fld n 17) (fld n 10) (fld n 3)))
  | _ => .error .minor

/-- Steps 2 to 5 of R75 for major opcode 0x3D (R77 to R82). -/
def major3D (n : Nat) : Except DecodeError Instr :=
  match n % 64 with
  | 0 => settle n false [] (some (.launch (fld n 18) (fld n 12) (fld n 6)))
  | _ => .error .minor

/-- Steps 2 to 5 of R75 for major opcode 0x3E (R77 to R82). -/
def major3E (n : Nat) : Except DecodeError Instr :=
  match n % 16 with
  | 0 => settle n false [] (some (.trap (fld n 4)))
  | 1 => settle n true [] (some (.hcall (fld n 24) (fld n 17) (fld n 10) (fld n 4)))
  | 2 => settle n false [(4, 20)] (some .eret)
  | 3 => settle n false (if n / 2 ^ 4 % 256 = 2 then [(12, 6)] else []) ((SlcfgForm.ofCode? (n / 2 ^ 4 % 256)).bind fun form => some (.slcfg (fld n 18) (fld n 12) form))
  | 4 => settle n false (if n / 2 ^ 4 % 256 = 1 then [(12, 6), (18, 6)] else [(18, 6)]) ((TlbForm.ofCode? (n / 2 ^ 4 % 256)).bind fun form => some (.tlbinv (fld n 12) form))
  | 5 => settle n false [(18, 6)] ((CacheForm.ofCode? (n / 2 ^ 4 % 256)).bind fun form => some (.cachecl (fld n 12) form))
  | 6 => settle n false [(12, 6)] (if n / 2 ^ 4 % 256 = 0 then some (.evrd (fld n 18)) else none)
  | _ => .error .minor

/-- The instruction of a word, or the R75 step it fails. Total on every word. -/
def decodeNat (n : Nat) : Except DecodeError Instr :=
  match n / 2 ^ 26 % 64 with
  | 0x01 => settle n false [] (some (.branch (fld n 0)))
  | 0x02 => settle n false [] (some (.call (fld n 0)))
  | 0x03 => major03 n
  | 0x04 => settle n false [] (some (.bz (fld n 18) (fld n 0)))
  | 0x05 => settle n false [] (some (.bnz (fld n 18) (fld n 0)))
  | 0x06 => settle n false [(22, 2)] (some (.bany (fld n 18) (fld n 0)))
  | 0x07 => settle n false [(22, 2)] (some (.ball (fld n 18) (fld n 0)))
  | 0x08 => settle n false [(22, 2)] (some (.bnone (fld n 18) (fld n 0)))
  | 0x09 => major09 n
  | 0x0A => major0A n
  | 0x0B => settle n false [] (some (.addi (fld n 18) (fld n 12) (fld n 0)))
  | 0x0C => settle n false [] (some (.andi (fld n 18) (fld n 12) (fld n 0)))
  | 0x0D => settle n false [] (some (.ori (fld n 18) (fld n 12) (fld n 0)))
  | 0x0E => settle n false [] (some (.glyph (fld n 16) (fld n 9) (fld n 2) (fld n 0)))
  | 0x0F => settle n false [(8, 4), (18, 6)] (some (.glyld (fld n 12) (fld n 0)))
  | 0x10 => settle n false [] (some (.xori (fld n 18) (fld n 12) (fld n 0)))
  | 0x11 => major11 n
  | 0x12 => settle n false [] (some (.slti (fld n 18) (fld n 12) (fld n 0)))
  | 0x13 => settle n false [] (some (.liz (fld n 18) (fld n 16) (fld n 0)))
  | 0x14 => settle n false [] (some (.lik (fld n 18) (fld n 16) (fld n 0)))
  | 0x15 => settle n false [] (some (.ld (fld n 18) (fld n 12) (fld n 0)))
  | 0x16 => settle n false [] (some (.st (fld n 18) (fld n 12) (fld n 0)))
  | 0x17 => settle n false [] (some (.ldk (fld n 18) (fld n 12) (fld n 0)))
  | 0x18 => major18 n
  | 0x19 => major19 n
  | 0x1A => major1A n
  | 0x1B => major1B n
  | 0x1C => settle n true [(10, 7)] (some (.vmovi (fld n 24) (fld n 17) (fld n 0)))
  | 0x1D => major1D n
  | 0x1E => major1E n
  | 0x1F => major1F n
  | 0x20 => settle n true [] (some (.vaddi (fld n 24) (fld n 17) (fld n 10) (fld n 0)))
  | 0x21 => major21 n
  | 0x22 => major22 n
  | 0x23 => major23 n
  | 0x24 | 0x25 => major24 n
  | 0x26 | 0x27 => major26 n
  | 0x28 | 0x29 => settle n true [] (some (.vsel (fld n 24) (fld n 17) (fld n 10) (fld n 3) (BitVec.ofNat 4 (n / 2 ^ 26 % 2 * 8 + n % 8))))
  | 0x2A => major2A n
  | 0x2B => major2B n
  | 0x2C => major2C n
  | 0x2D => major2D n
  | 0x2E => major2E n
  | 0x2F => major2F n
  | 0x30 => major30 n
  | 0x31 => settle n true [] (some (.vldc (fld n 24) (fld n 17) (fld n 11) (fld n 0)))
  | 0x32 => settle n true [] (some (.vstc (fld n 24) (fld n 17) (fld n 11) (fld n 0)))
  | 0x33 => settle n true [(17, 7)] ((PrefSpace.ofCode? (n % 16)).bind fun sp => some (.pref (fld n 24) (fld n 10) (fld n 4) sp))
  | 0x34 => major34 n
  | 0x35 => major35 n
  | 0x36 => major36 n
  | 0x37 => major37 n
  | 0x38 => major38 n
  | 0x39 => major39 n
  | 0x3A => major3A n
  | 0x3B => major3B n
  | 0x3C => major3C n
  | 0x3D => major3D n
  | 0x3E => major3E n
  | _ => .error .op

/-- The instruction of a 32-bit word. -/
def decodeWord (x : Word32) : Except DecodeError Instr := decodeNat x.toNat

/-- A 32-bit word from its four bytes, the least significant at the lowest address (R59). -/
def wordOfBytes (b0 b1 b2 b3 : Byte) : Word32 :=
  BitVec.ofNat 32 (b0.toNat + b1.toNat * 2 ^ 8 + b2.toNat * 2 ^ 16 + b3.toNat * 2 ^ 24)

/-- The four bytes of a word, the least significant first (R59). -/
def bytesOfWord (x : Word32) : List Byte :=
  [.ofNat 8 x.toNat, .ofNat 8 (x.toNat / 2 ^ 8), .ofNat 8 (x.toNat / 2 ^ 16), .ofNat 8 (x.toNat / 2 ^ 24)]

/-- What a string of bytes holds at its start. -/
inductive Fetched where
  /-- Fewer than four bytes. -/
  | short
  /-- A word that fails a check of R75. -/
  | illegal (e : DecodeError) (word : Word32) (rest : List Byte)
  /-- An instruction. -/
  | instr (i : Instr) (rest : List Byte)
  deriving DecidableEq, Repr

/-- The first instruction of a string of bytes, and the bytes after it. -/
def decodeBytes : List Byte → Fetched
  | b0 :: b1 :: b2 :: b3 :: rest =>
    match decodeWord (wordOfBytes b0 b1 b2 b3) with
    | .ok i => .instr i rest
    | .error e => .illegal e (wordOfBytes b0 b1 b2 b3) rest
  | _ => .short

/-- The instruction that the decoder reads from a table word of `nbits` bits, laid out as the Z7 stores it. -/
def decodeTableWord (nbits w : Nat) : Option Instr :=
  match decodeBytes (bytesOfWord (BitVec.ofNat 32 (w % 2 ^ nbits))) with
  | .instr i _ => some i
  | _ => none

end Sys2Proof
end

