-- ==== Sys2Proof/Machine/FlashImage.lean ====
section
/-! DEFINITION. What the management flash and the fuses of `State.reset` hold (R376): the keys and signatures of an image without a body.
DESIGN CHOICE (log entry 120): the spec gives no contents of theirs before the first boot. -/
namespace Sys2Proof.Machine
set_option Elab.async false

/-- The bytes of a number, the most significant first, `k` of them. -/
def bytesBE : Nat → Nat → List Byte
  | 0, _ => []
  | k + 1, n => BitVec.ofNat 8 (n / 256 ^ k) :: bytesBE k n

/-- The SHA-384 digest of nothing. -/
def emptyDigest : List Byte :=
  bytesBE 48 0x38B060A751AC96384CD9327EB1B1E36A21FDB71114BE07434C0CC7BF63F6E1DA274EDEBFE76F65FBD51AD2F14898B95B

/-- The ECDSA public key, and the signature of the image. -/
def resetEcdsaKey : List Byte :=
  bytesBE 48 0x41E358F980D0228A8FFD2C5CBBD701B2AB6972C572C9EBFC2D5FADA595995A688D1B55A384A27139BC74001D0A3F9671 ++
  bytesBE 48 0x9B61D275D211614F130B20F6FC81440DFB34C78A9F848005280283AA0BB54132C0080BE86578CD6FFAFF1CACD0E41800

def resetEcdsa : List Byte :=
  bytesBE 48 0x1582CE71E0ACDB6E2441C6E6052C76D20F1F35211EB901CCB349D6060312620BB5CBC1CC1C69CF95C4B0774FB1C424F0 ++
  bytesBE 48 0xEC33A1C6ECE5B40530F6A90CEE9E1BA761ABC583DADF1871CE26A647D0AF2D61A2B7B1806741C90A7B86C5AF025DC43E

/-- The LMS public key: both types, the identifier, the root of the tree (RFC 8554). -/
def resetLmsKey : List Byte :=
  bytesBE 4 6 ++ bytesBE 4 3 ++ bytesBE 16 0x4F0122A9869CDF08C0D02886126F8DC7 ++
  bytesBE 32 0x79519317EA374E20EF93D3DA6945FE2449BDC211597B2925D68C3C8321DCF3DB

/-- The random string of the LMS signature and the ends of its chains so far. -/
def resetChains : List Nat :=
  [0xACCF2542E11AA5D6CFF0DD67EDF3DF2B5D794617E9F7124DF1EA9BC3CF3095AA, 0x0BB961EE4965DAB1F4F09241713B5D83150A1A2ED7D942031E936E08D816A9E7] ++
  [0x9694432CF9F044D2F18680CB06E6C0FBFCFAC7A0AA43C0E22C877A1C2E67F71C, 0x78136AA1EB0382431A6B89FE555A777F6480D0450473BD7421B12992AF72821B] ++
  [0x64469C7457DCAF11FF233C5E6C902FA4F7AAB6890535AA36F5A4A27CAAB6048B, 0x8339EE559F05C215A4ABE30903CC18C7D033867C8DD58C6D87058109405ABEC8] ++
  [0xF6D534BBEF536C430AAAACC55AAE7DBD609B70E5DE8B6741338D07DBE8F566C3, 0x20E977BA8ADB46C655D9DD040FE79952D0E068657F76C8D7C3A15162CE149119] ++
  [0x3AEF7B5E14B3FA398E4F14E5520DC1D6F6D4375AD95831572A87EA72F4B28133, 0xACEECF07F6E0270EB65441EF636A1A6196B54EEC87DB4E3C395F26D89424DBA3] ++
  [0xD81E0B677FF3C5D5760EEE10E669A218FCE067481BC38F99169CC2E548339D74, 0xCB3686D6A7F36166711D010BFC106975A9B0B662370745912917C7F014835646] ++
  [0xE114567B73A9E2955F85BEC417AA0D4D4A4B8758D36EBE03CBC4CA5A2E5231DC, 0x85B96BFAB7591D0F587F5F6DE602542C0B683895B558330BB57BB08B0EADD05A] ++
  [0xED563BACCD04A85690A26FDED212F03ACE3D077ACEB6EDC9121E86B5E4663C98, 0x3A993E2041FF610B1EAB12C8223ADCF79EE786A5115340134AB04E6CFE584FD0] ++
  [0xE14AC8FF30D7015EF17458ED5E5928C196FFF6D698D01F181B76D8605B31CB30, 0x54B64192B492A996E5925BE25C65F7AF2D4C237E5EBB19EC23975B9C3ECA82EF] ++
  [0x288CA47E2DB145321F2D602CF224AB1E1CE0C8789B1675007A68A4FC35C87C79, 0xACBF317E6CC0ECC54B6C34B936D57BA03E32C13CEC33767238EA678AD8244606] ++
  [0xE1E47CBB1ACF02A93585B032CB66361F522A515711611D87DFA648C9E8C9912E, 0x15E77F6B6FC2C391CC64694766A5D7ABD00A4D21FD6969096E0FCD2D81DDEF58] ++
  [0x9EB642859E69072850E726E4ED7541A51D34AABE8F82B96ABCA89BA16B247E3D, 0xBB35CC9B1E0D6FD1726B5DE604BEDFF389AA8F527822990F36C51A26DE50A4A8] ++
  [0x05A0C20465766E8E1B0822BF9498232FB9D42606D901B8AA4024E75C33113C64, 0x4FD2D746840B211F191D99A00AC82D549C2F541A4131183D08E7398BEC68CC6E] ++
  [0x4279576300794906EB6FB2349BAC0B0928BE03EA7D0546E1EFC41C4609F31E21, 0xF4EC737671676B167FC87920DB4C9BF4E27C317F6DBEFE63F20E766BF9DAE30A] ++
  [0x20A35FFC8B7D9C77DB01D67963587C8E6D7B684486A47B92E0B3AF99C8E9F285, 0x4E4E6D981342577E04CB73941E2D402244DECE2EBAC03278F4EC595B1AD6E171] ++
  [0x3D43DA3BC6114CD6D849472068127029F05408594998DD43FF3F13E51E59DDDD, 0x90007C9D034DAA25B87FA8BFEB1B40DEF3F169373A778455B4C73E189EB644F1] ++
  [0xD0128BD1B2FA6AB63B5086C94A9995AC203AE34D6EB2A512064CA00BB19A756E, 0x2CB85A995997DDC61E8C2009738B158F08B0A6BF49F3F8637B1C5212118F9A81] ++
  [0x72AFF311555B3E3654CF6FBEEFDDBF2F914669C4DC08AD13FE51680DC676F414, 0xF82BA3D6775B250B8EA7013850D9E63D5C5FCA28616B8C1F3BC7D49D58EFBEED] ++
  [0x5192B0060B8120A10C546BC5ED004932FDDD70D4639F5DA90D447788809C2028, 0xD29C72E3B27CF212398C72A3D3D7B2B9AB95B36F7C08DAD9650C3ACAA62ED77E] ++
  [0xFE4EC4E9BA8829478BFD8F5B5382B24E4188CF3BC7902A6481AF8A4E6D042F93, 0xDBE5EB389147A2FD3E94A1CA914860F95B16C0B94D3981C9E5625DCE275289C0] ++
  [0x86B112177FC463238FF4403E239AA2ABA8E655FDA0C2460C6EFE9066F7B8307C, 0x6BBEBFECD9013AC5DE8186A69C0A45BC8D775C28FA18F18631349662E290C92C] ++
  [0x9C07A54C17C103234FF1EF7C03C5AC280CFDBEDF5911DF47622BEFD904EEEFE0, 0x70DFBCB6E1D073A315798BE1F9746E2E988360C05778A724A31270366F35438B] ++
  [0xE6436A10BEFBF223B2C9DC71A9CFFE537E635D7DEA7EDA9E7F2E5C68D5F8B621, 0x5F509B418E549B76E74CD6D0A07C3FD0AA34A6DC0363BBC93B5BC3A36924CF86] ++
  [0x5EB1C0257C6876A33CC493FCF4C98CA3CC0EFC351496ECCF8E1AAD1578A4EF13, 0x811AC1F5F445EC1159B2623A4FB97ED801A9D4B3D277EBBEF225E06F7B52352D] ++
  [0x5D56882943887DD44952FA0BB73A1B3CB6D4D1C4FD0978617278AC05BAB6FCDB, 0x1A56D018345BB16ABB9E01A8D44F38D14BA4760EDB88A41CD1AB995C474E68CA] ++
  [0x057300DD339DBF3B6C2F3D40F36FEE85E48A78A72E46FF3A594BB331774273CE, 0x04C26060C2BE24E4069E554B84A7191CF0A474B775F9D133D23024A9101C504C] ++
  [0x8175530A7F6248C9D5F4BDE6B2C70A1DCAA8572FC4F8017480B3A6D4D2E40BFE, 0x0321B095C853A0F8EDAB8861B1EABD8947F6ADC1DFD73E5D4791D8045A01ED66] ++
  [0x69348C460E76B3CD4F0593E3BECA2C431D93A0BC14FDDBCDDFE1B375BE3270D5, 0x6C75F00F397F8BDC1E4E4E416F618F08F262F87968C27C97F745B399D76E79D8] ++
  [0xF8248F8DBEAAC3E3F39AF620825141507EE9FE1E05094B4D0914DCD962F81F56, 0x42AA53DAADFE2324293282507DEA87DA54AC91C5C310AD3011A50A9CAFE0FCD8] ++
  [0xF247B75F13831A0FACA3D1127A0B80DF1D27AF7D2CC47D69434D4B6A015E805C, 0xFFBB95773329C4C4AA67D69C4E3DC26C621EAEA62C037F12F63D3D9E1C842F84] ++
  [0xF96DAD963BF7D69A8E1BF53CF8F61C366A61DBB0747E1380447545B871229227, 0x636C212B45B7C681A770652C1DE0CD70C0B2718B797C89022126DA251FF9A6A8] ++
  [0x9778E9681C82D84CF4611CB85224A63A10A8A063629D62AE29AE8269579711D8, 0x9F659E5FD8028A2156D02A612CF5978FDA80C26BAEC35E46B18529D49418F2BD] ++
  [0x166E4C0C6F43E957221AB531CB515F728E468286FAF6C13AD6BF9F955C8C3F95, 0x8DE3B8C13EDD86ED73F7557CF590AEA47C27314DF1907F3CBE58199F8CB76825] ++
  [0xBC4A305B7225877A52647C8C91DB2A5612063591F4C422FEF0F280F4C3AF3056, 0x5C6461527BA390D3E8912F202142F1A45FF6AFE63E2B6B9A669AADFF10453C3A]

/-- The authentication path of its leaf. -/
def resetPath : List Nat :=
  [0xD84C8FBC01F456ABF3B3B79334593055823BC8E917D96BCC5245FF0E16C846C1, 0x6AEEB9C4E5BE5E40A9D98260CBBE653D0DFC52E38489FA94BF9C2DF80825EE48] ++
  [0x291269A165671CB6064B74D93E1F0073877F2897002E5CC525ACEDA0B39ACBC7, 0x85AA979DDE7974E4BB0DEE2F71782AACCA53A5C603040ABA046901D3E5B47327] ++
  [0x38C164E9C06CB0BE9A67488EFB032FDE46E4958D15CE3B6337994F05E729EB6C, 0xE94FD7E836A8E56D0EBA5FD6256937A89132C0B6D46207D86798FF1031C17030] ++
  [0xE360C057CA77D7E613E7F99F0382E68D2B351BFEA425333ABA8A2587ED76E9BF, 0x943D5556A377BF021E34FBF2877EEF924112DE1C439610532C3A7E404B5410BE] ++
  [0x1D467488C6038DFF712B5B2CF9C63C569E3D429A411A40D01C6A59BDC705C1D2, 0xFE66FD6F445528ECCC6E830E33CE02E30353EAEDAEED6B447505B9CAAAAD0E1A]

/-- The LMS signature of the image, under leaf 0. -/
def resetLms : List Byte :=
  bytesBE 4 0 ++ bytesBE 4 3 ++ (resetChains.map (bytesBE 32)).flatten ++ bytesBE 4 6 ++ (resetPath.map (bytesBE 32)).flatten

/-- The hashes of both keys, in the fuses. -/
def resetEcdsaHash : List Byte :=
  bytesBE 48 0x7ED1DBFCE7D1A45E0A7DF2054CDCA625990673C01D212B4F07F4A5B18CE6AD377A9693664F4B556BFF06BA30597BA979

def resetLmsHash : List Byte :=
  bytesBE 48 0x2A96A1389176C98BF6F8C1B35DC3CA7FF9588AEE96E454B772E3F4B666071834A241E893CA655B62274DE9E96E174305

end Sys2Proof.Machine
end

