-- ==== Sys2Proof/Machine/State.lean ====
section
/-! DEFINITION. The state of the whole device as plain data: the group whose instruction is issued, every other group,
team and grid, the cores, columns, contexts and journals, the memories, and the registers of the device (R13 to R35 and
the register tables of the other chapters). A field marked MODEL is the model's own, not the spec's. -/
namespace Sys2Proof.Machine
set_option Elab.async false

/-- Reasons a step stops with a fault. -/
inductive Fault where
  /-- Raised by `step` when the schedule of the environment names a group slot that holds no group: the environment asked
  for a move the machine does not have. Safe: no instruction meets it. -/
  | noSuchGroup
  deriving DecidableEq, Repr

/-- Reasons a step is refused. -/
inductive Refusal where
  /-- Raised by an arm of `exec` that has no meaning yet, by the mnemonic of the opcode table. Safe. -/
  | notModelled (mnemonic : String)
  deriving DecidableEq, Repr

/-! ### Groups -/

/-- The role of a group (R18). -/
inductive Role where
  | copy | matrix | epilogue | general
  deriving DecidableEq, Repr

/-- The stage of a group that waits at a grid point (R172, R188). -/
inductive GridStage where
  /-- GARRIVE: waits for the previous arrival of its team, then arrives. -/
  | arrive
  /-- GWAIT. -/
  | wait
  /-- PHASE before its arrival, with the tiles it reports. -/
  | phaseArrive (tiles : Nat)
  /-- PHASE after its arrival. -/
  | phaseWait
  deriving DecidableEq, Repr

/-- A wake condition (R233, R335). -/
inductive Wake where
  /-- POLL under a pre-emption request, or a stop. -/
  | immediate
  /-- Saved by a stop at a blocking point: its wake condition is saved as "immediate", and the instruction, which has issued, waits on
  (R312, R336). -/
  | stopped (w : Wake)
  /-- WAITP or ARWAIT: the point and the token. -/
  | point (pt : Nat) (token : Bool)
  /-- WAITY: the point, the token and the continuation. -/
  | waity (pt : Nat) (token : Bool) (cont : Word)
  /-- GARRIVE, GWAIT or PHASE at a grid point; `sb` is the register PHASE writes. -/
  | gridPoint (gv : Nat) (stage : GridStage) (sb : SReg)
  /-- HCALL whose record is not sent, for want of room. -/
  | hcallSend
  /-- HCALL whose record has the given number. -/
  | hcallReply (record : Nat)
  /-- A load or LDA at a peer window. -/
  | peerLoad
  /-- The fetch of an instruction from a peer window. -/
  | peerFetch
  /-- A recoverable translation fault; the fault itself is the group's kept fault. -/
  | fault
  /-- An early commit of a VERSIONED team. -/
  | earlyCommit
  deriving DecidableEq, Repr

/-- The result a group that stalls at an allowance instruction waits for (R157 to R163, R272). -/
inductive AlWait where
  /-- ALTAKE: the register that receives 1 or 0. -/
  | take (d : SReg)
  /-- ALTAKEV: the predicate, the Active lanes and their amounts. -/
  | vtake (d : PReg) (active : Word) (amounts : List (Nat × Nat))
  /-- ALGIVE: the register, and the units already taken in at the column. -/
  | give (d : SReg) (taken : Nat)
  /-- ALREAD. -/
  | read (d : SReg)
  /-- ALFREE. -/
  | free (d : SReg)
  /-- ALINIT. -/
  | init (d : SReg)
  /-- A plain read of the object by a load: the load is issued again with the value. -/
  | plain
  deriving DecidableEq, Repr

/-- What a group is doing. -/
inductive Status where
  /-- MODEL: no group stands here. -/
  | absent
  | ready
  /-- At a blocking point (R233). -/
  | blocked (w : Wake)
  /-- Stalled at an allowance instruction, or a load of an object (R157): object, address, and what it waits for. -/
  | allowance (obj : Nat) (va : Word) (w : AlWait)
  /-- Held at issue until something drains: a fence, a scope mark, SLCFG, END (R100, R155, R201, R229, R262). -/
  | stalled
  /-- Finished by END (R100). -/
  | ended
  /-- Halted (R97, R191, R192). -/
  | halted
  deriving DecidableEq, Repr

/-- A glyph in progress: the body as it stood at issue, the next step and the parameters (R111). -/
structure GlyphRun where
  body : List Word32
  k : Nat
  pA : BitVec 7
  pB : BitVec 7
  kinds : BitVec 2
  deriving DecidableEq, Repr

/-- An uncorrectable error in a register: file (0 vector, 1 accumulator, 2 scalar, 3 predicate), index and lanes (R197). -/
structure BadReg where
  file : Nat
  index : Nat
  lanes : Word
  deriving DecidableEq, Repr

/-- An MMA that has retired and not yet written its accumulators (R181): its operands as read at issue. -/
structure MmaOp where
  id : Nat
  q : BitVec 2
  mg : Nat
  slotA : Word32
  slotB : Word32
  active : Word
  regs : List (Vector Word32 64)
  /-- Errors in those registers at issue (R58). -/
  bad : List BadReg
  deriving DecidableEq, Repr

/-- Values that an MMAS may start a quarter from (R182): the lanes in which they were written, the accumulators, and which of them were in
error (R197). -/
structure MmasStart where
  lanes : Word
  accs : List (Vector Acc 64)
  bad : List BadReg
  deriving DecidableEq, Repr

/-- An MMAS that its group has not seen complete (R134, R182): quarter, point, operation, and whether the point has flipped after the
completion. -/
structure Unseen where
  q : Nat
  point : Nat
  op : Nat
  /-- While it runs, what the quarter held at its issue, and then after each write since (R182); empty once it has finished. -/
  starts : List MmasStart
  flipped : Bool
  deriving DecidableEq, Repr

/-- A recoverable translation fault that is kept until it is served (R331, R335). -/
structure KeptFault where
  va : Word
  access : Nat
  level : Nat
  record : Option Nat
  /-- The host core refused it (R331): the access that meets it again gets the outcome that is not recoverable. -/
  refused : Bool
  deriving DecidableEq, Repr

/-- The HCALL of a group: service, Active mask, requests, and the reply once it is held (R198, R335). -/
structure HcallRec where
  d : VReg
  service : Word32
  mask : Word
  requests : Vector Word 64
  reply : Option (Word32 × List Word32)
  deriving DecidableEq, Repr

/-! ### What an instruction in progress keeps -/

/-- Where a translated address lies. -/
inductive Site where
  /-- A location of HBM, a vault, a slice scratch or a core-pinned window. -/
  | mem (loc : Nat)
  /-- A peer window: the peer and the device physical address (R367). -/
  | peer (k : PeerId) (pa : Nat)
  /-- A launch-signal frame: column and offset in its 64 KiB (R308). -/
  | signal (col : ColId) (off : Nat)
  /-- A vault of a fenced column (R242). -/
  | lost (loc : Nat)
  deriving DecidableEq, Repr

/-- A settled translation: the site, the home, the key slot, the generation. -/
structure Xlat where
  site : Site
  home : Nat
  key : Nat
  gen : BitVec 12
  promote : Bool
  deriving DecidableEq, Repr

/-- A piece of a lane access within one page: lane, address, length, place in the lane's bytes, translation (R138). -/
structure Part where
  lane : Nat
  va : Nat
  len : Nat
  off : Nat
  x : Xlat
  deriving DecidableEq, Repr

/-- An AMOV or CASV that has performed some of its lanes, in ascending lane order (R150): every part, the old values of those lanes, what is
left of the answers of peers, and the scope of its acquire, as widened so far (R263). -/
structure AtomRun where
  parts : List Part
  vals : List (Nat × Nat)
  sent : List Byte
  scope : Scope
  deriving DecidableEq, Repr

/-- A load that is performed after its issue (R157): the instruction, its address, and its base register as it was. -/
structure LateLoad where
  instr : Instr
  pc : Word
  base : Word
  deriving DecidableEq, Repr

/-- One group: the register files of R13, the trap registers, and what the scheduler knows of it. -/
structure Group where
  core : CoreId
  slot : SlotId
  team : Nat
  index : Nat
  role : Role
  /-- Vector and accumulator budgets of the role (R18, R19). -/
  vBud : Nat
  aBud : Nat
  s : Vector Word 64
  p : Vector Word 16
  v : Vector (Vector Word32 64) 128
  a : Vector (Vector Acc 64) 64
  md : Word32
  fl : Word32
  pc : Word
  live : Word
  /-- The return stack, oldest first (R28). -/
  rs : List Word
  spilled : BitVec 16
  spillBase : Word
  hnd : Bool
  tcause : Word
  taddr : Word
  tmask : Word
  tpc : Word
  tstep : Word
  tmd : Word
  status : Status
  glyph : Option GlyphRun
  /-- The step at which a GLYPH at this address goes on when it issues again (R111, R112, R194). -/
  glyphResume : Option (Word × Nat)
  /-- Set at trap entry until the handler's first fetch (R192). -/
  firstFetch : Bool
  mmas : List MmaOp
  /-- MMAS that the group has not seen complete (R134, R182). -/
  unseen : List Unseen
  /-- IMPRECISE_STORE pending, with the first failing address (R196). -/
  imprecise : Option Word
  /-- The faults it is parked on (R331): it issues again when one of them is served. -/
  kept : List KeptFault
  hcall : Option HcallRec
  /-- Exact values of allowance objects that the load about to issue again has received (R162). -/
  alReads : List (Nat × Word)
  /-- What peers have answered to the access about to issue again (R142). -/
  peerData : Option PeerReply
  /-- What they have been asked for it, in order: device physical address and length of each piece; and the bytes that came before a
  refusal (R367). -/
  peerFor : List (Nat × Nat)
  peerOld : List Byte
  /-- The AMOV or CASV that is between two of its lanes (R150). -/
  atom : Option AtomRun
  /-- The environment's choice: how many lanes the next AMOV or CASV performs before another agent may come between, 0 for all. MODEL. -/
  split : Nat
  /-- A load that has issued and is performed later, after the allowance instructions that follow it (R157); and the environment's choice that
  the next load is to be one. MODEL. -/
  late : Option LateLoad
  defer : Bool
  /-- The word that a peer has sent for the instruction about to issue (R367). -/
  fetched : Option PeerReply
  bad : List BadReg
  aged : Bool
  yieldHold : Bool
  /-- When the group last issued, as a count of issues, and since when it has been ready without issue (R227). -/
  lastIssue : Nat
  readyAt : Option Nat
  deriving DecidableEq, Repr

/-! ### Contexts -/

/-- STATE[2:0] of a context (R312). -/
inductive CtxPhase where
  | free | running | saving | saved | stopped
  deriving DecidableEq, Repr

/-- A context: the entry as last read (R310), its state (R312), and the watch on it (R234, R236). -/
structure Ctx where
  ptroot : Word
  handler : Word
  iring : Word
  iringN : Nat
  colmask : Word
  vlwin : Word
  keyBase : Nat
  keyCount : Nat
  prio : Nat
  roleOrd : Byte
  capSlice : Bool
  capTlbDev : Bool
  wdog : Nat
  pdl : Nat
  phase : CtxPhase
  error : Bool
  errSeq : Word
  irHead : Word
  /-- PTP time of the last issue of one of its groups, and of its creation or resumption (R236). -/
  issuedAt : Nat
  /-- The last issue of its groups when it was last reported CONTEXT_IDLE_EXTERNAL (R236). -/
  idleStamp : Option Nat
  deriving DecidableEq, Repr

/-! ### Teams and grids -/

/-- A rendezvous point (R164). -/
structure Point where
  expected : Nat
  arrivals : Nat
  pending : Nat
  ext : Bool
  err : Bool
  phase : Bool
  errcode : Nat
  erraddr : Word
  deriving DecidableEq, Repr

/-- What one K-block column of a macro keeps beside its cells (R57, R177, R179). -/
structure KCol where
  eB : Int
  scale : Byte
  nan : Bool
  deriving DecidableEq, Repr

/-- What a macro held before the INK that loaded it last, for the groups that have not seen that INK complete (R185): cells,
K-block columns, the point, whether it has flipped since, and the groups that have. -/
structure MacroOld where
  cells : List Int
  cols : List KCol
  badCells : List Nat
  badCols : List Nat
  point : Nat
  flipped : Bool
  seen : List Nat
  deriving DecidableEq, Repr

/-- An inkwell macro (R177): the format record, the integer of each cell by element index, and the K-block columns. A cell
beyond the list is 0, a K-block column beyond it is clear. -/
structure Macro where
  fmt : Option (BitVec 8 × Bool)
  cells : List Int
  cols : List KCol
  /-- Cells and K-block columns that hold an uncorrectable error (R58), by index. -/
  badCells : List Nat
  badCols : List Nat
  /-- The loads that some group of the team has not observed, the last first (R185). -/
  old : List MacroOld
  deriving DecidableEq, Repr

/-- Where a team stands. -/
inductive Place where
  /-- Formed, and waiting for admission (kinds 1 and 2 of R334 too). -/
  | waiting
  | resident
  /-- Its groups have ended and its resources are free, its children still run (R229). -/
  | pendingRetire
  /-- Saved with its context (R334). -/
  | saved
  deriving DecidableEq, Repr

/-- A line of a version (R267): its key slot, and the virtual address of the line and the index of the group of its last write. -/
structure VersionLine where
  line : Nat
  key : Nat
  va : Nat
  index : Nat
  deriving DecidableEq, Repr

/-- A group as an agent of the order of memory: its core, slot and team (R256, R262). -/
structure Releaser where
  core : CoreId
  slot : SlotId
  team : Nat
  deriving DecidableEq, Repr

/-- An agent that takes part in the order of memory (R253, R256): a group, the host core of a column, the DMC of a die, the CXL host,
a peer. -/
inductive Party where
  | group (r : Releaser)
  | hostCore (col : ColId)
  | dmc (die : DieId)
  | cxl
  | peer (k : PeerId)
  deriving DecidableEq, Repr

/-- A team of a grid (R164, R172, R177, R229, R231, R334). -/
structure Team where
  id : Nat
  ctx : CtxId
  /-- The context's entry under which it was admitted, where CTX_SET has changed it since (R312). -/
  kept : Option Ctx
  grid : Nat
  /-- The TEAM value of R31. -/
  value : Word
  spawned : Bool
  /-- The spawn records of a spawned team: entry and payloads, oldest first (R187, R340). -/
  entry : Word
  payloads : List (List Word32)
  col : ColId
  core : CoreId
  place : Place
  /-- Restarts from the start at its admission, as kinds 1 and 2 of R334 do. -/
  fresh : Bool
  /-- It was saved, and is admitted again in its column only (R234). -/
  bound : Bool
  /-- It was dropped to start again, kind 2 of R334. -/
  again : Bool
  /-- It was saved and its context resumed: it is admitted again also in the error state (R312, R336). -/
  readmit : Bool
  points : List Point
  macros : List Macro
  /-- The scratchpad units it holds (R224). -/
  units : List Nat
  /-- A of R172 for gv0 to gv3. -/
  gvA : List Nat
  /-- Re-dispatches after a halt (R338). -/
  redispatch : Nat
  /-- The uncommitted version of a VERSIONED team, as cells of global memory (R267, R337); `none` once committed. -/
  version : Option (List Host.Cell)
  /-- By whom, and under which translation, its lines were written last. -/
  versionLines : List VersionLine
  /-- The agents of the release writes that its version holds, byte by byte (R263). -/
  versionRels : List (Nat × Party)
  /-- The order of admission to the column (R337). -/
  age : Nat
  children : Nat
  /-- A group of the team halted (R193, R229). -/
  haltSeen : Bool
  /-- Twenty microseconds have passed without admission in the preferred column (R225). -/
  diverted : Bool
  /-- The groups saved with it (R335). -/
  groups : List Group
  deriving DecidableEq, Repr

/-- The fields of a launch record (R209). -/
structure Launch where
  entry : Word
  args : Word
  x : Nat
  y : Nat
  z : Nat
  timer : Nat
  /-- Groups of roles 0 to 3. -/
  groups : List Nat
  macros : Nat
  flags : Byte
  points : Nat
  scratch : Nat
  vBud : List Nat
  aBud : List Nat
  slots : List Word32
  deps : List (Word × Word)
  doneAddr : Word
  doneValue : Word
  affinity : Word
  prio : Nat
  sched : List (BitVec 128)
  glyphs : Word
  deriving DecidableEq, Repr

/-- An arrival at a grid point in the phase in progress (R188): team, column, tiles, time, and whether by PHASE. -/
structure Arrival where
  team : Nat
  col : ColId
  tiles : Nat
  time : Nat
  byPhase : Bool
  deriving DecidableEq, Repr

/-- A grid point: arrivals in the phase, completed phases, and who arrived (R172, R188). -/
structure GridPoint where
  count : Nat
  done : Nat
  arrived : List Arrival
  deriving DecidableEq, Repr

/-- The selector of a grid (R188): the current table, its prediction as a fraction of nanoseconds per tile (none when it
is infinite), the first flip, its time base, the columns whose throttle events were counted, and the column times measured last (R334). -/
structure Selector where
  table : Nat
  predicted : Option (Nat × Nat)
  first : Bool
  base : Nat
  throttled : List ColId
  measured : List (ColId × Nat)
  deriving DecidableEq, Repr

/-- Where a grid stands between its port and its retirement (R221, R223, R230). -/
inductive GridPhase where
  /-- Checked and held for its dependences. -/
  | held
  /-- Offered for placement until every launched team is admitted. -/
  | offered
  | placed
  /-- Retired but for a completion store that waits for a fault (R230). -/
  | completing
  deriving DecidableEq, Repr

/-- A grid (R209, R221 to R230). -/
structure Grid where
  id : Nat
  ctx : CtxId
  record : Word
  launch : Launch
  /-- The accepting port, whose queue entry the grid holds until it retires. -/
  col : ColId
  line : LineId
  depth : Nat
  parent : Option Nat
  stage : GridPhase
  depsOk : List Bool
  /-- Dependences held on a recoverable fault (R223), and the completion store held on one (R230). -/
  depWait : List (Nat × KeptFault)
  doneWait : Option KeptFault
  /-- Its glyph table, held on a recoverable fault: for the column of its port, at an admission, or for a core that loads it (R221). -/
  loadWait : List (Option CoreId × KeptFault)
  /-- Order of acceptance (R223). -/
  accepted : Nat
  /-- The next launched team to be placed (R225). -/
  next : Nat
  diverted : Bool
  spawnSerial : Nat
  gvs : List GridPoint
  selector : Selector
  haltSeen : Bool
  deriving DecidableEq, Repr

/-! ### Engines -/

/-- The bytes a copy moves (R173 to R176, R313): a run, a box, or one piece per lane. Spaces are the codes of R68. -/
inductive CopyShape where
  | run (dst src : Nat) (dspace sspace : Nat)
  | box (dst src : Nat) (dspace sspace : Nat) (esz : Nat) (extents : List Nat) (strides : List Int)
  | pieces (size : Nat) (list : List (Nat × Nat))
  deriving DecidableEq, Repr

/-- What an operation of an engine does. -/
inductive EngineKind where
  | copy (shape : CopyShape)
  /-- A copy of the command journal: journal, sequence number, CORR, done word; the notified team if any, by record and index, and whether
  its absence has been reported (R313). -/
  | journalCopy (shape : CopyShape) (j : JournalId) (seq : Nat) (corr : Word32) (notify : Option (Word × Nat × Bool))
      (doneAddr doneValue : Word)
  /-- An INK; whether an INKZ of its macro has issued meanwhile (R180). -/
  | ink (off : Nat) (mg : Nat) (slot : Word32) (zeroed : Bool)
  /-- An MMAS, with the bytes of its tile that it may read as they were (R156): location and old byte. -/
  | mmas (off : Nat) (q : BitVec 2) (mg : Nat) (slotA slotB : Word32) (old : List (Nat × Byte))
  deriving DecidableEq, Repr

/-- An operation in flight (R173, R179, R182, R313): who issued it, its point, bytes in all and bytes done. -/
structure EngineOp where
  id : Nat
  ctx : CtxId
  col : ColId
  team : Nat
  core : CoreId
  slot : SlotId
  /-- The index of the issuing group in its team (R196). -/
  index : Nat
  /-- Where the instruction that issued it stands (R330). -/
  pc : Word
  point : Nat
  total : Nat
  pos : Nat
  kind : EngineKind
  /-- Held on a recoverable fault (R173). -/
  held : Option KeptFault
  /-- Exact values of allowance objects already recalled for this copy (R173), and the one it waits for. -/
  alReads : List (Nat × Word)
  alWait : Option Nat
  /-- Source bytes that the engine has read ahead of their turn, by number (R173, R179, R182). -/
  ahead : List (Nat × Byte)
  deriving DecidableEq, Repr

/-! ### Cores and columns -/

/-- The group that made an access, as what is left of the access remembers it (R196): its core, its team, its index and its context. -/
structure Origin where
  core : CoreId
  team : Nat
  index : Nat
  ctx : CtxId
  deriving DecidableEq, Repr

/-- A cached translation (R325): its context, the level of the entry, the address bits that index it, and the entry. -/
structure TlbEntry where
  ctx : CtxId
  level : Nat
  page : Nat
  pte : Word
  deriving DecidableEq, Repr

/-- A byte that an L1 line holds (R239): offset in the line, value, for a dirty byte the group that wrote it and the virtual address of the
line for that group (R196), and the agent of the release write that it holds, if it holds one (R263). -/
structure L1Byte where
  off : Nat
  val : Byte
  by' : Option (Origin × Nat)
  rel : Option Party
  deriving DecidableEq, Repr

/-- The byte is dirty. -/
def L1Byte.dirty (b : L1Byte) : Bool := b.by'.isSome

/-- A line of an L1 (R239): line number of the physical address, key slot, every context and virtual address by which it was reached
(R327), and the bytes present. The lines of an L1 stand most recently used first. -/
structure L1Line where
  line : Nat
  key : Nat
  tags : List (CtxId × Nat)
  bytes : List L1Byte
  deriving DecidableEq, Repr

/-- An entry of a combining buffer or of an update-only copy (R152, R251): the location and width of a word, operation,
element type and partial. -/
structure CombEntry where
  loc : Nat
  size : Nat
  op : AOp
  type : EType
  scalar : Bool
  val : Word
  /-- Who issued it, for the failure of R196. -/
  who : Origin
  va : Word
  key : Nat
  home : Nat
  /-- Who issued the partials that have joined it. -/
  more : List Origin
  deriving DecidableEq, Repr

/-- A glyph entry with n > 0 (R108). -/
structure GlyphEntry where
  gi : BitVec 8
  owner : CtxId
  body : List Word32
  deriving DecidableEq, Repr

/-- The head team of a core (R226): the next launched team of a grid, a formed team that waits, a COHORT grid as a whole. -/
inductive HeadTeam where
  | launched (grid i : Nat)
  | waiting (team : Nat)
  | cohort (grid : Nat)
  deriving DecidableEq, Repr

/-- A compute core (R13, R31, R108, R204, R239, R243, R325). -/
structure CoreState where
  /-- EVT: the level of the column, throttle events modulo 256, PEND. -/
  evtLevel : BitVec 2
  evtCount : Byte
  evtPend : Bool
  clk : Word
  /-- Tenths of a cycle that have passed beyond CLK (R31, R380). -/
  clkPart : Nat
  glyphs : List GlyphEntry
  l1 : List L1Line
  comb : List CombEntry
  /-- Words that the constant cache holds (R90): location, key slot, value. -/
  consts : List (Nat × Nat × Word)
  /-- PINWIN and the size that waits (R381). -/
  pinwin : Nat
  pinPend : Option Nat
  fetchTlb : List TlbEntry
  dataTlb : List TlbEntry
  /-- The head team for which the core holds freed resources (R226). -/
  headHold : Option HeadTeam
  /-- Grids whose glyph table has been loaded here, with their context (R108). -/
  loaded : List (CtxId × Nat)
  /-- Who held each scratchpad unit last: unit, context, team, and its place among the team's units (R224). -/
  holders : List (Nat × CtxId × Nat × Nat)
  deriving DecidableEq, Repr

/-- A record address in the queue of a launch-signal line (R220, R222). -/
structure QueueEntry where
  /-- MODEL: tells entries apart that hold the same address. -/
  id : Nat
  record : Word
  ctx : CtxId
  depth : Nat
  parent : Option Nat
  /-- The reservation entry it occupies, if not one of the line's own. -/
  reserved : Option Nat
  /-- The grid it has become, once taken and accepted. -/
  grid : Option Nat
  /-- Held for a recoverable fault of the port (R221). -/
  held : Option KeptFault
  /-- The record as the port has read it, when its glyph table is still to be checked (R221). -/
  bytes : List Byte
  deriving DecidableEq, Repr

/-- A launch-signal line (R219). -/
structure LaunchLine where
  queue : List QueueEntry
  dropped : BitVec 16
  rejected : BitVec 16
  deriving DecidableEq, Repr

/-- A spawn bin (R187): key and records, oldest first. -/
structure SpawnBin where
  id : Nat
  ctx : CtxId
  grid : Nat
  entry : Word
  records : List (List Word32)
  deriving DecidableEq, Repr

/-- An entry of an allowance table (R269): object, a_c, and RECALLED. Entries stand most recently used first. -/
structure AlEntry where
  obj : Nat
  units : Nat
  recalled : Bool
  deriving DecidableEq, Repr

/-- An entry of a replica table (R247): frame, page, context, generation, valid, whether the page is being copied, and the PTP time of
its last use. -/
structure Replica where
  frame : Nat
  page : Nat
  ctx : CtxId
  gen : BitVec 12
  valid : Bool
  copying : Bool
  used : Nat
  deriving DecidableEq, Repr

/-- The sectors of a page that the cores of a column have read past its slice, each with the PTP time of its last such read (R247). -/
structure PageReads where
  ctx : CtxId
  page : Nat
  sectors : List (Nat × Nat)
  deriving DecidableEq, Repr

/-- An outstanding record of a fault queue, or a fault that waits for room (R330, R331). -/
structure FaultRec where
  record : Option Nat
  ctx : CtxId
  page : Nat
  access : Nat
  waiters : Nat
  done : Bool
  deriving DecidableEq, Repr

/-- A record of an HCALL queue whose reply is not delivered (R320). -/
structure HqRec where
  record : Nat
  team : Nat
  index : Nat
  deriving DecidableEq, Repr

/-- The vault of a column: registers of R359, temperatures, row pointers, banks in tRFC (R357, R358). -/
structure Vault where
  band : Word32
  temps : List Byte
  /-- The floor of each bank's band (R357). -/
  floors : List Nat
  /-- The rows of the refresh buffer, the last activated first, at most two of a bank: bank, row (R358). -/
  buffer : List (Nat × Nat)
  /-- Sectors that banks have poisoned: bank and PTP time (R354). -/
  errors : List (Nat × Nat)
  lapses : Word32
  throttle : Bool
  /-- OWNER: 0 DMC schedule, 1 hardware sequencer. -/
  owner : Bool
  rows : List Nat
  busy : List Nat
  /-- PTP time at which the lease ends. -/
  leaseEnd : Nat
  /-- Trained conservatively: band 2 until the first RENEW (R374). -/
  conservative : Bool
  deriving DecidableEq, Repr

/-- The governor of a column (R380, R381). -/
structure Governor where
  level : BitVec 2
  force : Bool
  jtemp : Byte
  /-- The power of the base die, in watts. -/
  power : Nat
  /-- PTP time of the last change, if there has been one. -/
  lastChange : Option Nat
  /-- Since when the conditions of T1, T2 and T3 have been false; none where one holds. -/
  since : List (Option Nat)
  deriving DecidableEq, Repr

/-- The droop sensors of a column (R379): their 32 readings and the minimum that its DMC predicts, in mV; since when the minimum has lain
more than 30 mV below the prediction without a break, and since when it has done so while no neighbour lay more than 10 mV below its own. -/
structure Droop where
  readings : List Nat
  predicted : Nat
  low : Option Nat
  alone : Option Nat
  deriving DecidableEq, Repr

/-- A request for a resize of a slice (R201, R381). -/
inductive WaysReq where
  /-- A write to WAYS: the context and the ways. -/
  | write (ctx : CtxId) (ways : Nat)
  /-- An SLCFG: its group's core, slot and team, and the ways. -/
  | slcfg (core : CoreId) (slot : SlotId) (team ways : Nat)
  deriving DecidableEq, Repr

/-- A column (R2, R219, R222, R229, R244, R247, R269, R319, R329, R381). -/
structure ColState where
  lines : Vector LaunchLine 8
  /-- Reservation entries occupied, by group slot of the column 0 to 127 (R222). -/
  reserved : List Nat
  bins : List SpawnBin
  /-- Slice: cache ways, grant, and the WAYS register's CTX and REFUSED, the size of the resize in progress, while BUSY, the core, slot and team
  of the SLCFG that asked for it, or none for a write to WAYS, and what waits behind it (R201, R381). -/
  ways : Nat
  grant : Option CtxId
  waysCtx : CtxId
  waysRefused : Bool
  waysPend : Option Nat
  waysBy : Option (CoreId × SlotId × Nat)
  waysQueue : List WaysReq
  alTable : List AlEntry
  /-- Objects whose round the column has acknowledged without an entry, until the RELEASE (R273). -/
  alRounds : List Nat
  replBase : BitVec 13
  replN : BitVec 11
  replicas : List Replica
  pageReads : List PageReads
  stlb : List TlbEntry
  /-- HCALL queue (R319). -/
  hqBase : BitVec 42
  hqLog : BitVec 4
  hqTail : Word32
  hqHead : Word32
  hq : List HqRec
  /-- Fault queue (R329). -/
  fqBase : BitVec 46
  fqLog : BitVec 4
  fqTail : Word32
  fqHead : Word32
  fq : List FaultRec
  vault : Vault
  gov : Governor
  droop : Droop
  fenced : Bool
  /-- Teams with a pending-retire record (R229). -/
  retiring : List Nat
  /-- Incoming identities of the host core's IMSIC not yet taken: 1 HCALL, 2 fault, 3 throttle, 4 incident (R318). -/
  imsic : List Nat
  deriving DecidableEq, Repr

/-! ### Journals -/

/-- A journal and its doorbell page (R313, R314). -/
structure Journal where
  base : Word
  entries : Nat
  accBase : Word
  accEntries : Nat
  submit : Word
  accepted : Word
  ajcons : Word
  pend : Bool
  /-- Times the next entry has been read with a wrong SEQ (R315). -/
  rereads : Nat
  /-- A SIGNAL held: its address and value, KIND, CORR, and the recoverable fault on which it is held (R317), or none where a scope mark
  stands on an entry of the walk (R262). -/
  signal : Option (Word × Word × Bool × Word32 × Option KeptFault)
  deriving DecidableEq, Repr

/-! ### Allowance homes -/

/-- A request in the queue of a home (R271, R272). -/
inductive AlKind where
  | take (n : Nat)
  | vtake (amounts : List (Nat × Nat))
  | read
  /-- ALFREE, with the key slot of the page. -/
  | free (key : Nat)
  | init
  deriving DecidableEq, Repr

/-- Who waits for the result of a request: a group of a team, a copy by its operation, or the host core of a column (R275); nobody any more,
where the group that waited has been dropped (R338). -/
inductive AlAgent where
  | group (core : CoreId) (slot : SlotId) (team : Nat)
  | nobody
  | engine (op : Nat)
  | hostCore (col : ColId)
  deriving DecidableEq, Repr

/-- A request at a home: column, agent, kind. -/
structure AlReq where
  col : ColId
  agent : AlAgent
  kind : AlKind
  deriving DecidableEq, Repr

/-- NORMAL, RECALLING with the columns whose ACK is out, or DRAIN (R269, R273). -/
inductive AlMode where
  | normal
  | recalling (missing : List ColId)
  | drain
  deriving DecidableEq, Repr

/-- The home state of a registered object (R269). -/
structure AlObject where
  obj : Nat
  ctx : CtxId
  h : Nat
  b : Nat
  c : Nat
  mode : AlMode
  queue : List AlReq
  deriving DecidableEq, Repr

/-- The result that a GRANT carries. -/
inductive AlResult where
  | granted
  | failed
  | lanes (mask : Word)
  | value (n : Nat)
  | status (n : Nat)
  /-- The object was freed before the request was served (R163). -/
  | unregistered
  deriving DecidableEq, Repr

/-- What a message carries (R271, R274). -/
inductive AlBody where
  | req (r : AlReq) (units : Nat)
  /-- Units for the home. -/
  | give (agent : AlAgent) (n : Nat)
  | flush (units : Nat)
  | grant (agent : AlAgent) (result : AlResult) (topUp cap : Nat)
  | recall
  | ack (units : Nat)
  | release (freed : Bool)
  | giveReply (agent : AlAgent) (accepted : Nat)
  deriving DecidableEq, Repr

/-- The message goes from a column to a home. -/
def AlBody.toHome : AlBody → Bool
  | .req _ _ | .give _ _ | .flush _ | .ack _ => true
  | .grant _ _ _ _ | .recall | .release _ | .giveReply _ _ => false

/-- A message in flight between a column and the home of an object (R271). -/
structure AlMsg where
  src : ColId
  dst : ColId
  obj : Nat
  body : AlBody
  deriving DecidableEq, Repr

/-! ### Memory -/

/-- What unlisted locations hold. -/
inductive Blank where
  /-- Zero, at the start. -/
  | zero
  /-- Free values, named by a number (R361, R392). -/
  | free (name : Nat)
  /-- What a restore leaves (R361): the vaults of a mask, and HBM from an address on, hold what they held before. -/
  | kept (old new : Blank) (vaults : Word) (top : Nat)
  /-- In the parity blocks, the XOR of so many data blocks of which nothing is listed (R344). -/
  | parity (data : Blank) (blocks : Nat)
  deriving DecidableEq, Repr

/-- A release narrower than device scope marks the line it writes (R262); the time is PTP time. The later releases of other groups of the
holder's core, each with its scope, admit the agents that they include. -/
structure ScopeMark where
  line : Nat
  holder : Releaser
  scope : Scope
  time : Word
  also : List (Releaser × Scope)
  /-- An agent outside the device waits for it. -/
  outside : Bool
  deriving DecidableEq, Repr

/-- How far a write to HBM is (R344): not acknowledged, or accepted into its stripe's FIFO. -/
inductive WriteStage where
  | buffered | sent | accepted
  deriving DecidableEq, Repr

/-- A write to HBM on its way to parity: the bytes as address, old and new value (R344), and the group whose releases wait for its
acknowledgement (R345). -/
structure PendWrite where
  id : Nat
  who : Option Origin
  stripe : Nat
  bytes : List (Nat × Byte × Byte)
  stage : WriteStage
  deriving DecidableEq, Repr

/-- A contention predictor at its home (R250): line, state, run count, last far column, and the columns whose slices have performed an
atomic on the line, each with the time of its last. -/
structure Predictor where
  line : Nat
  state : BitVec 2
  run : Nat
  far : Option ColId
  near : List (ColId × Nat)
  deriving DecidableEq, Repr

/-- A write of a byte that some readers may not see yet (R156, R173): what the byte held before it, the team of the writer, and the group
that stored it, by index, or none for a copy. Of the writes of one byte the last stands first. -/
structure OldByte where
  loc : Nat
  old : Byte
  team : Nat
  writer : Option Nat
  /-- A copy that no one is known to see yet: operation, issuing group and point. -/
  copy : Option (Nat × Nat × Nat)
  /-- Another group has observed the flip: only the issuing group may still meet what the byte held before (R173). -/
  only : Bool
  /-- The byte is one of the team's version (R267). -/
  version : Bool
  /-- The writer has made a release since, or the point of the copy has flipped after it. -/
  released : Bool
  /-- Groups of the team that have acquired the write, and those whose FENCEO has followed, by index. -/
  acquired : List Nat
  fenced : List Nat
  deriving DecidableEq, Repr

/-- States of a HOME 0 line in a column slice or in the cache of a host core (R363); in I there is no line, and the copies in U and L
stand elsewhere. -/
inductive LineState where
  | s | e | o | m
  deriving DecidableEq, Repr

/-- A line that a column's slice, or the cache of its host core, holds (R363), with the bytes that HBM still holds where the line is
dirty. -/
structure SliceLine where
  col : ColId
  host : Bool
  line : Nat
  state : LineState
  was : List (Nat × Byte)
  deriving DecidableEq, Repr

/-- An entry of a presence directory (R364): line, the dies of P, the owner die. -/
structure DirEntry where
  line : Nat
  dies : List DieId
  owner : Option DieId
  deriving DecidableEq, Repr

/-- An update-only copy of a line in a column slice (R251). -/
structure UpdateCopy where
  col : ColId
  line : Nat
  words : List CombEntry
  deriving DecidableEq, Repr

/-- A key slot's contents (R356). -/
structure KeySlot where
  xts : Bool
  k1 : BitVec 256
  k2 : BitVec 256
  deriving DecidableEq, Repr

/-- Memory modes (R349). -/
inductive MemMode where
  | normal | degraded | restriping | restriped | restripedDegraded | failed
  deriving DecidableEq, Repr

/-- The stacks that are lost in FAILED and the layout that it was entered from (R348): mode, watermark, first lost stack, and every
lost stack. -/
structure LostStacks where
  mode : MemMode
  watermark : Nat
  one : Nat
  all : List Nat
  deriving DecidableEq, Repr

/-- Stripes of FAILED that are still to be reported (R348, R389): the next block to look at, the loss that has been reported before, and the
first record of the chain. -/
structure StripeJob where
  next : Nat
  before : Option LostStacks
  root : Word
  deriving DecidableEq, Repr

/-- The memories: every byte by location, and what stands beside the bytes (R237, R262, R344 to R356). -/
structure Memory where
  /-- What unlisted locations hold, and what unlisted bytes of the parity blocks are. -/
  base : Blank
  parityBase : Blank
  /-- Listed stored bytes, addresses strictly rising, none equal to what an unlisted location reads as: after encryption
  where the key slot of the write encrypts (R356). -/
  cells : List Host.Cell
  /-- Poisoned sectors by location ÷ 32, rising. -/
  poison : List Nat
  /-- Bytes of the scratchpads, slice scratches and core-pinned windows with an uncorrectable error (R58, R138). -/
  badBytes : List Nat
  /-- The blocks that FAILED has lost (R348). -/
  dead : Option LostStacks
  stripeJobs : List StripeJob
  marks : List ScopeMark
  /-- The agent of the release write that a byte holds, for the widening of R263. -/
  releasers : List (Nat × Party)
  writes : List PendWrite
  /-- The parity blocks by 256·location + byte, in the form of `cells`, and the locations whose parity block fails its code. -/
  parity : List Host.Cell
  badParity : List Nat
  /-- Blocks of 128 bytes of HBM whose last write was encrypted: no compression (R352). -/
  cipherBlocks : List Nat
  /-- Uncorrectable sectors that stacks have returned: stack and PTP time (R347). -/
  stackErrors : List (Nat × Nat)
  predictors : List Predictor
  copies : List UpdateCopy
  /-- Lines of the slices and of the host cores' caches, the most recently used first (R363). -/
  slices : List SliceLine
  /-- The presence directories of the HBM controllers, the most recently used entry first, and the controllers that have failed (R364). -/
  dir : List DirEntry
  deadControllers : List Nat
  /-- Lines that the CXL host caches, the oldest first, and lines whose entry was evicted and whose back-invalidation is not answered
  (R364). -/
  hostFilter : List Nat
  hostSnoops : List Nat
  olds : List OldByte
  deriving DecidableEq, Repr

/-! ### The device -/

/-- A shootdown in flight (R326): the page, or all of the context, or the page in every context. -/
inductive Shootdown where
  | page (vpn : Nat) (ctx : CtxId)
  | context (ctx : CtxId)
  | everywhere (vpn : Nat)
  deriving DecidableEq, Repr

/-- States of the checkpoint engine (R360). -/
inductive CkState where
  | idle | saving | restoring | done | error
  deriving DecidableEq, Repr

/-- The configuration space (R378). -/
structure ConfigSpace where
  vendor : BitVec 16
  device : BitVec 16
  classCode : BitVec 24
  revision : Byte
  subsystem : BitVec 16
  deriving DecidableEq, Repr

/-- A checkpoint image at a peer (R360): CKDST, the header's HBM bytes, fenced columns, MODE and PTP time, the stored bytes of HBM and of
the vaults, and the poisoned sectors. -/
structure CkImage where
  dst : Nat
  capacity : Nat
  fenced : List ColId
  mode : MemMode
  time : Word
  base : Blank
  cells : List Host.Cell
  poison : List Nat
  deriving DecidableEq, Repr

/-- An IDE stream of the PCIe link (R307, R377): its number, and whether it is a selective one. -/
structure IdeStream where
  id : Byte
  selective : Bool
  deriving DecidableEq, Repr

/-- The registers of the device block (R309, R326, R333, R349, R360, R368, R381, R386). -/
structure Device where
  ctxtbl : BitVec 38
  mjlog : BitVec 5
  majlog : BitVec 5
  sdIssued : Word32
  sdDone : Word32
  sdRefused : BitVec 16
  shootdowns : List Shootdown
  saveBase : BitVec 36
  saveSz : BitVec 14
  lost : Option (Fin 12)
  lost2 : Option (Fin 12)
  rserr : BitVec 4
  mode : MemMode
  /-- The mode from which FAILED was entered. -/
  failedFrom : MemMode
  maxpa : BitVec 36
  share : BitVec 3
  watermark : Nat
  scrubh : Byte
  ckdst : BitVec 40
  ckState : CkState
  ckErr : BitVec 4
  ckBytes : BitVec 56
  leaseEn : Bool
  uaid : BitVec 10
  maxGrant : Byte
  defLease : Byte
  peerLive : List Nat
  peerFenced : List Nat
  logBase : BitVec 46
  logLog : BitVec 5
  logHead : Word
  logCons : Word
  merged : Word
  logPend : Bool
  bootFail : Bool
  bootStepNo : BitVec 4
  running : Bool
  resetCause : Byte
  /-- Bytes of HBM that the CXL HDM decoder exposes, in GiB (R307, R350). -/
  hdm : Nat
  tdisp : TdispState
  /-- The IDE streams whose keys have been exchanged (R377). -/
  ideStreams : List IdeStream
  /-- The PCIe link runs at the Gen 5 rate, 32 GT/s (R374). -/
  gen5 : Bool
  /-- Dies held at T3 for a regulator fault (R379). -/
  droop : List DieId
  config : ConfigSpace
  deriving DecidableEq, Repr

/-- An incident record before it is written (R382). -/
structure Incident where
  sev : Nat
  cls : Nat
  code : Nat
  act : Nat
  engine : Nat
  die : Nat
  col : Nat
  core : Nat
  port : Nat
  group : Nat
  ctx : Nat
  corr : Word32
  va : Word
  pa : Word
  coord : Word
  detail : Word
  time : Word
  seq : Word
  deriving DecidableEq, Repr

/-- Records of a class, code and column (R386): the PTP times of those seen within the last second, how many replaced ones await their
summary, and the time of the first of these. -/
structure MergeCount where
  cls : Nat
  code : Nat
  col : Nat
  seen : List Nat
  replaced : Nat
  since : Nat
  deriving DecidableEq, Repr

/-- What the machine has still to write for a context, in order (R385): a record to its incident ring, and the STATE, ERRSEQ and IRHEAD of
its table entry, with the message that follows a record. -/
inductive DevWrite where
  | ring (i : Incident)
  | table (c : CtxId) (msi : Bool)
  deriving DecidableEq, Repr

/-- A progress record of the boot (R375). -/
structure BootRec where
  serial : Word
  step : Nat
  kind : Nat
  unit : Byte
  detail : Word32
  /-- DMC cycles since reset, and the CRC-64 of what stands before it. -/
  cycles : Word
  crc : Word
  deriving DecidableEq, Repr

/-- An entry of the device log (R375, R386): an incident record, or the copy of a progress record of the boot. -/
inductive LogRec where
  | incident (i : Incident)
  | boot (r : BootRec)
  deriving DecidableEq, Repr

/-- A PlatformEventMessage that is not acknowledged (R394): its record, when it was sent, and whether it was sent again. -/
structure PlatformEvent where
  record : Incident
  sent : Nat
  retried : Bool
  deriving DecidableEq, Repr

/-- The incident machinery of the DMC of d0 (R385 to R387, R394). -/
structure IncidentLog where
  bootSerial : Word
  /-- Records of this boot. -/
  count : Nat
  /-- Records that wait for room in the device log, oldest first, at most 4,096. -/
  reserve : List LogRec
  merges : List MergeCount
  /-- Writes to rings and table entries that wait for a line held back, the oldest first (R364, R370, R385). -/
  writes : List DevWrite
  /-- The PlatformEventMessages not acknowledged, the oldest first (R394). -/
  events : List PlatformEvent
  /-- Reset causes of action 7 within the last 24 hours (R392). -/
  causes : List (Byte × Nat)
  /-- The first record of the chain whose steps the machine is taking (R387); none between two turns. MODEL. -/
  root : Option Word
  deriving DecidableEq, Repr

/-- The image of a DMC in the management flash (R376): the fields of its header, its body, the public keys that its signatures are checked
with, and the fuse-raise bit. -/
structure DmcImage where
  magic : Word32
  version : Word32
  bodyLength : Word
  security : Word32
  digest : List Byte
  ecdsa : List Byte
  lms : List Byte
  body : List Byte
  ecdsaKey : List Byte
  lmsKey : List Byte
  raise : Bool
  deriving DecidableEq, Repr

/-- Management flash and fuses (R375, R376). -/
structure Flash where
  /-- The images of the two banks, for the DMCs of d0 to d3 in each. -/
  images : List (List DmcImage)
  /-- The SHA-384 hashes of both public keys, in the fuses. -/
  ecdsaHash : List Byte
  lmsHash : List Byte
  records : List BootRec
  /-- The step in progress: 0 before the first, 10 after the last. -/
  step : Nat
  /-- Units whose step runs on its alternate path in this boot: step, unit. -/
  alternate : List (Nat × Byte)
  floor : Word32
  bank : Bool
  deriving DecidableEq, Repr

/-- A UALink port (R366). -/
structure UaPort where
  up : Bool
  peer : Option PeerId
  double : Bool
  /-- The double rate has failed since the port came up. -/
  fellBack : Bool
  /-- PTP times of its retrainings at the double rate. -/
  retrains : List Nat
  deriving DecidableEq, Repr

/-- A lease of a line at its owner (R369): line, expiry E. -/
structure Lease where
  line : Nat
  expiry : Nat
  deriving DecidableEq, Repr

/-- A write that an agent waits for: the completion word of a grid (R230), the word of a command of a journal (R313), bytes of a copy
(R173), the commit of a version (R267), a later access of the same agent outside the cores (R254), also of a read-modify-write with the
value that it compares with, and whether it answers (R366). -/
inductive WriteTag where
  | completion (grid : Nat)
  | journal (j : JournalId) (corr : Word32)
  | copy (op : Nat)
  | commit (team : Nat)
  | outside (who : Party)
  | atomic (who : Party) (compare : Option Nat) (answers : Bool)
  deriving DecidableEq, Repr

/-- A write, or a reduction, held behind the leases and the host's copy of its line (R364, R370): location, page home, bytes, the PTP time
until which leases hold it, whether the host's answer is awaited, who wrote it, and whether the writer's L1 held it, so that its whole
core has seen it. An entry without bytes and reduction keeps the place
of an access that waits; one that nothing holds any longer keeps it until its access has been made, so that no lease comes between. -/
structure HeldWrite where
  loc : Nat
  key : Nat
  home : Nat
  bytes : List Byte
  red : Option CombEntry
  due : Option Nat
  host : Bool
  who : Option Origin
  shared : Bool
  va : Word
  /-- A release of order .sc (R258). -/
  sc : Bool
  /-- Whose release write it is, if it is one (R263). -/
  party : Option Party
  tag : Option WriteTag
  deriving DecidableEq, Repr

/-- A line of a peer held in state L by a column slice (R363, R369): address, bytes, E, owner. -/
structure LLine where
  col : ColId
  line : Nat
  bytes : List Byte
  expiry : Nat
  peer : PeerId
  deriving DecidableEq, Repr

/-- A write or atomic sent to a peer and not acknowledged (R367). -/
structure PeerWrite where
  peer : PeerId
  pa : Nat
  bytes : List Byte
  /-- The operation, where the bytes are the operand of a reduction. -/
  op : Option AOp
  /-- The group that waits for it, if one does. -/
  who : Option Origin
  va : Word
  sc : Bool
  tag : Option WriteTag
  deriving DecidableEq, Repr

/-- The links and peers (R365 to R373). -/
structure Links where
  /-- Live modules of each UCIe pair. -/
  modules : List (List Nat)
  /-- Link-level retries: pair, module, time. -/
  retries : List (Nat × Nat × Nat)
  lostPairs : List PairId
  /-- The record with which the last module of a pair was disabled (R365, R387). -/
  disabledBy : List (PairId × Word)
  ports : Vector UaPort 64
  leases : List Lease
  held : List HeldWrite
  llines : List LLine
  peerWrites : List PeerWrite
  /-- Heartbeats in a row that a peer has missed. -/
  misses : List (Nat × Nat)
  ptpLocked : Bool
  deriving DecidableEq, Repr

/-- One choice of the environment: what happens next. MODEL. -/
inductive Turn where
  /-- The named group issues its next instruction. -/
  | issue (core : CoreId) (slot : SlotId)
  /-- An event of the opcode table. -/
  | event (i : Instr)
  /-- Nanoseconds pass. -/
  | elapse (ns : Nat)
  /-- A core's L1 takes a line (R239). -/
  | l1Fill (core : CoreId) (line : Nat)
  /-- A core's L1 gives up a line, writing its dirty bytes to the slice (R239, R264). -/
  | l1Evict (core : CoreId) (line : Nat)
  /-- A core caches the translation of a page, for fetches or for data, or a slice does (R325). -/
  | tlbFill (core : CoreId) (fetch : Bool) (ctx : CtxId) (va : Word)
  | stlbFill (col : ColId) (ctx : CtxId) (va : Word)
  /-- The combining buffer of a core sends an entry on (R152). -/
  | combDrain (core : CoreId)
  /-- A register of a group takes an uncorrectable error (R197). -/
  | upset (core : CoreId) (slot : SlotId) (bad : BadReg)
  /-- A register of a saved group, by team and index, takes one in the save area (R197, R335). -/
  | savedUpset (team index : Nat) (bad : BadReg)
  /-- A cell, or a K-block column, of a macro of a team takes an uncorrectable error (R58). -/
  | cellUpset (team mg : Nat) (column : Bool) (index : Nat)
  /-- The constant cache of a core takes or gives up a word (R90). -/
  | constFill (core : CoreId) (loc key : Nat)
  | constEvict (core : CoreId) (loc : Nat)
  /-- A column slice gives up its update-only copy of a line (R251). -/
  | copyEvict (col : ColId) (line : Nat)
  /-- An operation of an engine reads a source byte of its own, by number, ahead of its turn (R173, R179, R182). -/
  | engineRead (op k : Nat)
  /-- Symbols of 16 bits of a sector, or of a byte of a memory without sectors, are in error where a read meets them (R138, R353,
  R354). -/
  | memUpset (loc : Nat) (symbols : List Nat)
  /-- The parity block of a location is in error; the patrol, or any other read, finds it so (R344, R354). -/
  | parityUpset (stripe : Nat)
  | parityScrub (stripe : Nat)
  /-- The next lost stripe of FAILED is reported (R348, R389). -/
  | stripeReport
  /-- The difference of a write is on its way to the parity stack (R344). -/
  | deltaSent (write : Nat)
  /-- The controller of a stack fails (R347, R364). -/
  | controllerFailure (stack : Fin 12)
  /-- A bank of a vault misses a refresh deadline (R354). -/
  | refreshMissed (col : ColId) (bank : Fin 16)
  /-- The junction reading of a column moves, and the power of its die, in watts (R380). -/
  | reading (col : ColId) (jtemp : Byte) (power : Nat)
  /-- A sample of the droop sensors of a column, with the prediction of its DMC, in mV (R379). -/
  | droopSample (col : ColId) (readings : List Nat) (predicted : Nat)
  /-- A resize of a slice that has waited is performed (R201, R381). -/
  | waysApply (col : ColId)
  /-- A column slice takes a line of a peer under a lease that ends at the time given (R369). -/
  | leaseFill (col : ColId) (peer : PeerId) (line : Nat) (bytes : List Byte) (expiry : Nat)
  /-- A peer acknowledges the oldest write to it (R367). -/
  | peerAck (peer : PeerId)
  /-- A refresh of a bank ends (R358), and a pair of dies whose modules are all disabled has lost its link (R365): events of the table that
  come by themselves. -/
  | refreshEnds (col : ColId) (bank : Nat)
  | linkLost (pair : PairId)
  /-- The host programs the HDM decoder to expose so many GiB (R307, R350). -/
  | hdmDecoder (gib : Nat)
  /-- The keys of an IDE stream are exchanged by IDE_KM, or the stream ends (R377). -/
  | ideKeys (stream : IdeStream) (on : Bool)
  /-- A controller acknowledges the PlatformEventMessage of a record, by its SEQ (R394). -/
  | eventAck (seq : Word)
  /-- The next AMOV or CASV of a group performs so many lanes before another agent may come between (R150). -/
  | splitAtomic (core : CoreId) (slot : SlotId) (lanes : Nat)
  /-- The next load of a group is performed after the allowance instructions that follow it, or the one that waits is performed now (R157). -/
  | lateLoad (core : CoreId) (slot : SlotId)
  /-- A unit of the boot step in progress ends well (R375). -/
  | bootUnitDone (unit : Byte)
  /-- Symbols of 16 bits of a sector of a parity block are in error where a read meets them (R353, R354). -/
  | paritySymbols (stripe : Nat) (sector : Fin 8) (symbols : List Nat)
  deriving DecidableEq, Repr

/-- The state of the Z7. -/
structure State where
  /-- The group whose instruction is issued. -/
  g : Group
  others : List Group
  teams : List Team
  grids : List Grid
  cores : Vector CoreState 256
  cols : Vector ColState 64
  ctxs : Vector Ctx 64
  jrns : Vector Journal 65
  mem : Memory
  objs : List AlObject
  msgs : List AlMsg
  ops : List EngineOp
  dev : Device
  log : IncidentLog
  flash : Flash
  links : Links
  keys : Vector KeySlot 128
  /-- Bins saved with their contexts, with their columns (R231, R334). -/
  savedBins : List (ColId × SpawnBin)
  /-- Images that the checkpoint engine has written to peers (R360). -/
  images : List CkImage
  /-- IEEE 1588 time in nanoseconds (R31). -/
  ptp : Word
  /-- MSI-X messages sent and not taken by the host, by vector (R318). MODEL. -/
  msix : List Nat
  /-- What the last read of an agent outside the groups returned: host core, CXL host, peer, sensor. MODEL. -/
  answer : List Byte
  /-- The choices of the environment still to come. MODEL. -/
  turns : List Turn
  /-- Counts the free values used. MODEL. -/
  tick : Nat
  /-- The next identifier of a team, grid, operation or write, and the next issue stamp. MODEL. -/
  fresh : Nat
  deriving DecidableEq, Repr

/-! ### Reset -/

/-- A group slot that holds no group; every register is zero but MD, which has its reset value (R20, R33). -/
def Group.reset : Group where
  core := 0
  slot := 0
  team := 0
  index := 0
  role := .general
  vBud := 0
  aBud := 0
  s := Vector.replicate 64 0
  p := Vector.replicate 16 0
  v := Vector.replicate 128 (Vector.replicate 64 0)
  a := Vector.replicate 64 (Vector.replicate 64 0)
  md := 0x000C4100
  fl := 0
  pc := 0
  live := 0
  rs := []
  spilled := 0
  spillBase := 0
  hnd := false
  tcause := 0
  taddr := 0
  tmask := 0
  tpc := 0
  tstep := 0
  tmd := 0
  status := .absent
  glyph := none
  glyphResume := none
  firstFetch := false
  mmas := []
  unseen := []
  imprecise := none
  kept := []
  hcall := none
  alReads := []
  peerData := none
  peerFor := []
  peerOld := []
  atom := none
  split := 0
  late := none
  defer := false
  fetched := none
  bad := []
  aged := false
  yieldHold := false
  lastIssue := 0
  readyAt := none

/-- A rendezvous point at admission (R164). -/
def Point.reset : Point := ⟨0, 0, 0, false, false, false, 0, 0⟩

/-- A K-block column at admission: eB 0, scale 0x7F (R177). -/
def KCol.reset : KCol := ⟨0, 0x7F, false⟩

/-- A macro at admission (R177). -/
def Macro.reset : Macro := ⟨none, [], [], [], [], []⟩

/-- A compute core at reset: no glyph, no cached line or translation, no window (R31, R108, R381). -/
def CoreState.reset : CoreState where
  evtLevel := 0
  evtCount := 0
  evtPend := false
  clk := 0
  clkPart := 0
  glyphs := []
  l1 := []
  comb := []
  consts := []
  pinwin := 0
  pinPend := none
  fetchTlb := []
  dataTlb := []
  headHold := none
  loaded := []
  holders := []

/-- A launch-signal line at device reset (R219). -/
def LaunchLine.reset : LaunchLine := ⟨[], 0, 0⟩

/-- A vault at reset: every band 2, the hardware sequencer the owner (R359). -/
def Vault.reset : Vault where
  band := 0xAAAAAAAA
  temps := List.replicate 16 0
  floors := List.replicate 16 0
  buffer := []
  errors := []
  lapses := 0
  throttle := false
  owner := true
  rows := List.replicate 16 0
  busy := []
  leaseEnd := 0
  conservative := false

/-- A column at reset: 16 cache ways, no grant, its queues disabled (R319, R329, R381). -/
def ColState.reset : ColState where
  lines := Vector.replicate 8 LaunchLine.reset
  reserved := []
  bins := []
  ways := 16
  grant := none
  waysCtx := 0
  waysRefused := false
  waysPend := none
  waysBy := none
  waysQueue := []
  alTable := []
  alRounds := []
  replBase := 0
  replN := 0
  replicas := []
  pageReads := []
  stlb := []
  hqBase := 0
  hqLog := 0
  hqTail := 0
  hqHead := 0
  hq := []
  fqBase := 0
  fqLog := 0
  fqTail := 0
  fqHead := 0
  fq := []
  vault := Vault.reset
  gov := ⟨0, false, 0, 0, none, [some 0, some 0, some 0]⟩
  droop := ⟨List.replicate 32 0, 0, none, none⟩
  fenced := false
  retiring := []
  imsic := []

/-- A FREE context (R312). -/
def Ctx.reset : Ctx where
  ptroot := 0
  handler := 0
  iring := 0
  iringN := 0
  colmask := 0
  vlwin := 0
  keyBase := 0
  keyCount := 0
  prio := 0
  roleOrd := 0xE1
  capSlice := false
  capTlbDev := false
  wdog := 0
  pdl := 0
  phase := .free
  error := false
  errSeq := 0
  irHead := 0
  issuedAt := 0
  idleStamp := none

/-- A doorbell page at reset (R314). -/
def Journal.reset : Journal where
  base := 0
  entries := 0
  accBase := 0
  accEntries := 0
  submit := 0
  accepted := 0
  ajcons := 0
  pend := false
  rereads := 0
  signal := none

/-- The memories with nothing listed. -/
def Memory.reset : Memory where
  base := .zero
  parityBase := .zero
  cells := []
  poison := []
  badBytes := []
  dead := none
  stripeJobs := []
  marks := []
  releasers := []
  writes := []
  parity := []
  badParity := []
  cipherBlocks := []
  stackErrors := []
  predictors := []
  copies := []
  slices := []
  dir := []
  deadControllers := []
  hostFilter := []
  hostSnoops := []
  olds := []

/-- The device block at reset (R309, R326, R333, R349, R360, R368, R378, R381, R386). -/
def Device.reset : Device where
  ctxtbl := 0
  mjlog := 0
  majlog := 0
  sdIssued := 0
  sdDone := 0
  sdRefused := 0
  shootdowns := []
  saveBase := 0
  saveSz := 0
  lost := none
  lost2 := none
  rserr := 0
  mode := .normal
  failedFrom := .normal
  maxpa := 0xB00000
  share := 7
  watermark := 0
  scrubh := 24
  ckdst := 0
  ckState := .idle
  ckErr := 0
  ckBytes := 0
  leaseEn := true
  uaid := 0
  maxGrant := 200
  defLease := 20
  peerLive := []
  peerFenced := []
  logBase := 0
  logLog := 0
  logHead := 0
  logCons := 0
  merged := 0
  logPend := false
  bootFail := false
  bootStepNo := 0
  running := false
  resetCause := 0
  hdm := 0
  tdisp := .unlocked
  ideStreams := []
  gen5 := false
  droop := []
  config := ⟨0x1EA7, 0x07A1, 0x120000, 0x10, 0x0007⟩

/-- The links at reset: every module live, every port down, no peer known. -/
def Links.reset : Links where
  modules := List.replicate 4 (List.range 16)
  retries := []
  lostPairs := []
  disabledBy := []
  ports := Vector.replicate 64 ⟨false, none, false, false, []⟩
  leases := []
  held := []
  llines := []
  peerWrites := []
  misses := []
  ptpLocked := true

/-- An image without a body, signed. DESIGN CHOICE (log entry 120): what the flash and the fuses hold before anything has been written to them. -/
def DmcImage.reset : DmcImage where
  magic := 0x5A371A9E
  version := 0
  bodyLength := 0
  security := 0
  digest := emptyDigest
  ecdsa := resetEcdsa
  lms := resetLms
  body := []
  ecdsaKey := resetEcdsaKey
  lmsKey := resetLmsKey
  raise := false

/-- The management flash and the fuses before the first boot: two banks of empty images, no progress record. -/
def Flash.reset : Flash where
  images := List.replicate 2 (List.replicate 4 DmcImage.reset)
  ecdsaHash := resetEcdsaHash
  lmsHash := resetLmsHash
  records := []
  step := 0
  alternate := []
  floor := 0
  bank := false

/-- The machine right after reset: nothing resident, every context FREE, boot not yet run, memory with nothing listed. -/
def State.reset : State where
  g := Group.reset
  others := []
  teams := []
  grids := []
  cores := Vector.replicate 256 CoreState.reset
  cols := Vector.replicate 64 ColState.reset
  ctxs := Vector.replicate 64 Ctx.reset
  jrns := Vector.replicate 65 Journal.reset
  mem := Memory.reset
  objs := []
  msgs := []
  ops := []
  dev := Device.reset
  log := ⟨0, 0, [], [], [], [], [], none⟩
  flash := Flash.reset
  links := Links.reset
  keys := Vector.replicate 128 ⟨false, 0, 0⟩
  savedBins := []
  images := []
  ptp := 0
  msix := []
  answer := []
  turns := []
  tick := 0
  fresh := 1

end Sys2Proof.Machine
end

