-- ==== Sys2Proof/Machine/Bits.lean ====
section
/-! DEFINITION. Tables over lanes, bit fields, sign extension and byte order: the helpers that every meaning uses. -/
namespace Sys2Proof.Machine
set_option Elab.async false

/-- The list `f i, f (i+1), …` of `k` entries. -/
def tabList {α : Type} (f : Nat → α) : Nat → Nat → List α
  | _, 0 => []
  | i, k + 1 => f i :: tabList f (i + 1) k

theorem tabList_length {α : Type} (f : Nat → α) (i k : Nat) : (tabList f i k).length = k := by
  induction k generalizing i with
  | zero => rfl
  | succ k ih => simp [tabList, ih]

/-- The table of a function on the first `n` numbers. -/
def tab {α : Type} (n : Nat) (f : Nat → α) : Vector α n :=
  ⟨(tabList f 0 n).toArray, by simp [tabList_length]⟩

/-- An entry of a table of bit vectors; zero beyond its end. -/
def at0 {n w : Nat} (x : Vector (BitVec w) n) (i : Nat) : BitVec w :=
  if h : i < n then x[i] else 0

/-- An entry of a table, or a default beyond its end. -/
def atD {α : Type} {n : Nat} (x : Vector α n) (i : Nat) (d : α) : α :=
  if h : i < n then x[i] else d

/-- A table with one entry replaced; unchanged when the index lies beyond its end. -/
def put {α : Type} {n : Nat} (x : Vector α n) (i : Nat) (a : α) : Vector α n :=
  if h : i < n then x.set i a else x

/-- Lane or bit `i` of a mask. -/
def bit (m : Word) (i : Nat) : Bool := m.getLsbD i

/-- The mask of the lanes below 64 that satisfy `f`. -/
def maskOf (f : Nat → Bool) : Word :=
  BitVec.ofNat 64 ((tabList f 0 64).foldr (fun b n => (if b then 1 else 0) + 2 * n) 0)

/-- The lanes of a mask in ascending order. -/
def lanesOf (m : Word) : List Nat := (tabList id 0 64).filter fun i => bit m i

/-- The number of bits set in a mask. -/
def popCount {w : Nat} (x : BitVec w) : Nat := ((tabList (fun i => x.getLsbD i) 0 w).filter id).length

/-- The low `k` bits set (0 ≤ k ≤ 64). -/
def lowMask (k : Nat) : Word := maskOf (· < k)

/-- A bit vector as a signed integer of a narrower width: sign extension to 64 bits (R70). -/
def sext64 {w : Nat} (x : BitVec w) : Word := x.signExtend 64

/-- Zero extension to 64 bits. -/
def zext64 {w : Nat} (x : BitVec w) : Word := x.zeroExtend 64

/-- The field of `k` bits from bit `lo` of a number. -/
def field (n lo k : Nat) : Nat := n / 2 ^ lo % 2 ^ k

/-- The little-endian bytes of a number, `k` of them (R5). -/
def leBytes : Nat → Nat → List Byte
  | 0, _ => []
  | k + 1, n => BitVec.ofNat 8 n :: leBytes k (n / 256)

/-- The number of a little-endian string of bytes (R5). -/
def leNat : List Byte → Nat
  | [] => 0
  | b :: r => b.toNat + 256 * leNat r

/-- A number saturated to a bound. -/
def satNat (n bound : Nat) : Nat := if n ≤ bound then n else bound

/-- The first index at which a list of numbers reaches its least entry. -/
def leastNat : List Nat → Option Nat
  | [] => none
  | x :: r => match leastNat r with
    | none => some x
    | some y => some (if x ≤ y then x else y)

/-- A list with every entry that satisfies `p` passed through `f`. -/
def updWhere {α : Type} (p : α → Bool) (f : α → α) : List α → List α
  | [] => []
  | x :: r => (if p x then f x else x) :: updWhere p f r

/-- A list without its first entry that satisfies `p`. -/
def dropFirst {α : Type} (p : α → Bool) : List α → List α
  | [] => []
  | x :: r => if p x then r else x :: dropFirst p r

end Sys2Proof.Machine
end

