-- ==== Sys2Proof/Machine/Fp.lean ====
section
/-! DEFINITION. Exact numbers, rounding and the float formats (R38 to R43): every operation forms its exact result and rounds it
once. -/
namespace Sys2Proof.Machine
set_option Elab.async false

/-- Flags of FL[6:0] (R23). -/
abbrev Flags := BitVec 7
def flInv : Flags := 1
def flOvf : Flags := 2
def flUnf : Flags := 4
def flInx : Flags := 8
def flSat : Flags := 16
def flOpz : Flags := 32
def flScaleNan : Flags := 64

/-- A flag where a condition holds. -/
def flIf (b : Bool) (f : Flags) : Flags := if b then f else 0

/-- A value read from a format: a NaN (signalling or not, with its sign), an infinity, or (−1)^neg · m · 2^e. -/
inductive Num where
  | nan (signalling neg : Bool)
  | inf (neg : Bool)
  | fin (neg : Bool) (m : Nat) (e : Int)
  deriving DecidableEq, Repr

def Num.isNan : Num → Bool
  | .nan _ _ => true
  | _ => false

def Num.isSnan : Num → Bool
  | .nan s _ => s
  | _ => false

def Num.isInf : Num → Bool
  | .inf _ => true
  | _ => false

def Num.isZero : Num → Bool
  | .fin _ m _ => m == 0
  | _ => false

def Num.neg : Num → Bool
  | .nan _ n => n
  | .inf n => n
  | .fin n _ _ => n

def Num.negate : Num → Num
  | .nan s n => .nan s n
  | .inf n => .inf (!n)
  | .fin n m e => .fin (!n) m e

/-- The exponent of the binade of m · 2^e, m > 0. -/
def binade (m : Nat) (e : Int) : Int := (Nat.log2 m : Int) + e

/-- A power of two as a natural number: 2^k, 1 for a negative k. -/
def pow2 (k : Int) : Nat := 2 ^ k.toNat

/-- Whether a magnitude between k and k + 1 quanta goes up: r is the remainder below 2^d (R40). Mode 5, away from zero, is
the model's own, for the two neighbours of R43. -/
def roundsUp (mode : Nat) (neg : Bool) (k r d : Nat) : Bool :=
  let half := 2 ^ (d - 1)
  if r = 0 then false
  else if mode = 0 then half < r || (r == half && k % 2 == 1)
  else if mode = 1 then false
  else if mode = 2 then !neg
  else if mode = 3 then neg
  else if mode = 4 then half ≤ r
  else true

/-- m · 2^e as a whole number of quanta 2^q under a mode, and whether it is inexact (R40). -/
def roundTo (mode : Nat) (neg : Bool) (m : Nat) (e q : Int) : Nat × Bool :=
  if q ≤ e then (m * pow2 (e - q), false)
  else
    let d := (q - e).toNat
    let k := m / 2 ^ d
    let r := m % 2 ^ d
    (if roundsUp mode neg k r d then k + 1 else k, r != 0)

/-- An IEEE format by the widths of its exponent and fraction (R38). -/
structure Fmt where
  eb : Nat
  fb : Nat
  deriving DecidableEq, Repr

def f16 : Fmt := ⟨5, 10⟩
def bf16 : Fmt := ⟨8, 7⟩
def f32 : Fmt := ⟨8, 23⟩
def f64 : Fmt := ⟨11, 52⟩

/-- The bias, and the exponents of the smallest and the largest normal binade. -/
def Fmt.bias (F : Fmt) : Nat := 2 ^ (F.eb - 1) - 1
def Fmt.emin (F : Fmt) : Int := 1 - (F.bias : Int)
def Fmt.emax (F : Fmt) : Int := F.bias

/-- Bits of the format, its sign bit, infinity and canonical NaN (R39). -/
def Fmt.width (F : Fmt) : Nat := 1 + F.eb + F.fb
def Fmt.signBit (F : Fmt) (neg : Bool) : Nat := if neg then 2 ^ (F.eb + F.fb) else 0
def Fmt.infBits (F : Fmt) (neg : Bool) : Nat := F.signBit neg + (2 ^ F.eb - 1) * 2 ^ F.fb
def Fmt.maxBits (F : Fmt) (neg : Bool) : Nat := F.infBits neg - 1
def Fmt.nanBits (F : Fmt) : Nat := (2 ^ F.eb - 1) * 2 ^ F.fb + 2 ^ (F.fb - 1)

/-- The value of a pattern; under `ftz` a subnormal is a zero of its sign (R38, R42). -/
def Fmt.decode (F : Fmt) (ftz : Bool) (x : Nat) : Num :=
  let neg := field x (F.eb + F.fb) 1 == 1
  let ex := field x F.fb F.eb
  let fr := field x 0 F.fb
  if ex = 2 ^ F.eb - 1 then (if fr = 0 then .inf neg else .nan (fr < 2 ^ (F.fb - 1)) neg)
  else if ex = 0 then .fin neg (if ftz then 0 else fr) (F.emin - F.fb)
  else .fin neg (fr + 2 ^ F.fb) ((ex : Int) - F.bias - F.fb)

/-- k quanta of 2^q, k ≤ 2^(fb+1), as a pattern without its sign. -/
def Fmt.pack (F : Fmt) (k : Nat) (q : Int) : Nat :=
  if k < 2 ^ F.fb then k
  else if k = 2 ^ (F.fb + 1) then ((q + 1 + F.fb + F.bias).toNat) * 2 ^ F.fb
  else (q + F.fb + F.bias).toNat * 2 ^ F.fb + (k - 2 ^ F.fb)

/-- The overflow results of R41. -/
def Fmt.overflow (F : Fmt) (mode : Nat) (neg : Bool) : Nat :=
  if mode = 1 || (mode == 2 && neg) || (mode == 3 && !neg) then F.maxBits neg else F.infBits neg

/-- (−1)^neg · m · 2^e rounded into a format under `mode`, overflowing under `omode` (R40 to R42). -/
def Fmt.roundWith (F : Fmt) (mode omode : Nat) (ftz neg : Bool) (m : Nat) (e : Int) : Nat × Flags :=
  if m = 0 then (F.signBit neg, 0)
  else
    let E := binade m e
    let qu := E - F.fb
    let (ku, iu) := roundTo mode neg m e qu
    let Eu := if ku = 2 ^ (F.fb + 1) then E + 1 else E
    if F.emax < Eu then (F.overflow omode neg, flOvf ||| flInx)
    else if F.emin ≤ E then (F.signBit neg + F.pack ku qu, flIf iu flInx)
    else
      let q := F.emin - F.fb
      let (k, i) := roundTo mode neg m e q
      if ftz && k != 0 && k < 2 ^ F.fb then (F.signBit neg, flUnf ||| flInx)
      else (F.signBit neg + F.pack k q, flIf i (flInx ||| flIf (Eu < F.emin) flUnf))

/-- Rounding under one mode. -/
def Fmt.round (F : Fmt) (mode : Nat) (ftz neg : Bool) (m : Nat) (e : Int) : Nat × Flags := F.roundWith mode mode ftz neg m e

/-- A value already exact, rounded into a format; a NaN gives the canonical one (R39, R51). -/
def Fmt.encode (F : Fmt) (mode : Nat) (ftz : Bool) : Num → Nat × Flags
  | .nan s _ => (F.nanBits, flIf s flInv)
  | .inf n => (F.infBits n, 0)
  | .fin n m e => F.round mode ftz n m e

/-- The canonical NaN and INV: an invalid operation (R41). -/
def Fmt.invalid (F : Fmt) : Nat × Flags := (F.nanBits, flInv)

/-- The exact sum of two finite values, as sign, magnitude and exponent; an exact zero of opposite signs is −0 only under RDN
(R41). -/
def exactAdd (mode : Nat) (na : Bool) (ma : Nat) (ea : Int) (nb : Bool) (mb : Nat) (eb : Int) : Bool × Nat × Int :=
  let e := if ea ≤ eb then ea else eb
  let a := ma * pow2 (ea - e)
  let b := mb * pow2 (eb - e)
  if na = nb then (na, a + b, e)
  else if a = b then (mode == 3, 0, e)
  else if b < a then (na, a - b, e)
  else (nb, b - a, e)

/-- Round(a + b) (R41, R119). -/
def Fmt.addNum (F : Fmt) (mode : Nat) (ftz : Bool) (a b : Num) : Nat × Flags :=
  match a, b with
  | .nan s _, y => (F.nanBits, flIf (s || y.isSnan) flInv)
  | _, .nan s _ => (F.nanBits, flIf s flInv)
  | .inf x, .inf y => if x = y then (F.infBits x, 0) else F.invalid
  | .inf x, .fin _ _ _ => (F.infBits x, 0)
  | .fin _ _ _, .inf y => (F.infBits y, 0)
  | .fin na ma ea, .fin nb mb eb =>
    let (n, m, e) := exactAdd mode na ma ea nb mb eb
    F.round mode ftz n m e

/-- The exact product; `none` is 0 · ∞. NaNs are settled before. -/
def Num.times (a b : Num) : Option Num :=
  match a, b with
  | .inf x, .inf y => some (.inf (x != y))
  | .inf x, .fin y m _ => if m = 0 then none else some (.inf (x != y))
  | .fin x m _, .inf y => if m = 0 then none else some (.inf (x != y))
  | .fin x m e, .fin y k f => some (.fin (x != y) (m * k) (e + f))
  | _, _ => some (.nan false false)

/-- Round(a · b) (R119). -/
def Fmt.mulNum (F : Fmt) (mode : Nat) (ftz : Bool) (a b : Num) : Nat × Flags :=
  if a.isNan || b.isNan then (F.nanBits, flIf (a.isSnan || b.isSnan) flInv)
  else match a.times b with
    | none => F.invalid
    | some p => F.encode mode ftz p

/-- Round(a · b + d): 0 · ∞ is invalid whatever d holds (R119). -/
def Fmt.fmaNum (F : Fmt) (mode : Nat) (ftz : Bool) (a b d : Num) : Nat × Flags :=
  let product := if a.isNan || b.isNan then some (.nan false false) else a.times b
  match product with
  | none => F.invalid
  | some p =>
    if a.isNan || b.isNan || d.isNan then (F.nanBits, flIf (a.isSnan || b.isSnan || d.isSnan) flInv)
    else F.addNum mode ftz p d

/-- The quotient of two positive magnitudes with k + 4 bits or more, and a last bit that is 1 when more would follow. -/
def quotJam (ma mb k : Nat) : Nat × Int :=
  let s := k + 4 + Nat.log2 mb
  let n := ma * 2 ^ s
  (2 * (n / mb) + (if n % mb = 0 then 0 else 1), -(s : Int) - 1)

/-- Round(a / b) (R120). -/
def Fmt.divNum (F : Fmt) (mode : Nat) (ftz : Bool) (a b : Num) : Nat × Flags :=
  match a, b with
  | .nan s _, y => (F.nanBits, flIf (s || y.isSnan) flInv)
  | _, .nan s _ => (F.nanBits, flIf s flInv)
  | .inf _, .inf _ => F.invalid
  | .inf x, .fin y _ _ => (F.infBits (x != y), 0)
  | .fin x _ _, .inf y => (F.signBit (x != y), 0)
  | .fin x ma ea, .fin y mb eb =>
    if mb = 0 then (if ma = 0 then F.invalid else (F.infBits (x != y), 0))
    else if ma = 0 then (F.signBit (x != y), 0)
    else
      let (m, e) := quotJam ma mb F.fb
      F.round mode ftz (x != y) m (e + ea - eb)

/-- The integer square root built bit by bit from bit `i` downward. -/
def isqrtFrom (n : Nat) : Nat → Nat → Nat
  | 0, r => if (r + 1) * (r + 1) ≤ n then r + 1 else r
  | i + 1, r => isqrtFrom n i (if (r + 2 ^ (i + 1)) * (r + 2 ^ (i + 1)) ≤ n then r + 2 ^ (i + 1) else r)

/-- Floor(√n). -/
def isqrt (n : Nat) : Nat := isqrtFrom n (Nat.log2 n / 2 + 1) 0

/-- √(m · 2^e), m > 0, with k + 3 bits or more and a last bit that is 1 when more would follow. -/
def sqrtJam (m : Nat) (e : Int) (k : Nat) : Nat × Int :=
  let s := 2 * (k + 4) + (if (e - (2 * (k + 4) : Nat)) % 2 = 0 then 0 else 1)
  let n := m * 2 ^ s
  let r := isqrt n
  (2 * r + (if r * r = n then 0 else 1), (e - s) / 2 - 1)

/-- 1 / √(m · 2^e), m > 0, likewise. -/
def rsqrtJam (m : Nat) (e : Int) (k : Nat) : Nat × Int :=
  let odd := e % 2 ≠ 0
  let M := if odd then 2 * m else m
  let h := (if odd then e - 1 else e) / 2
  let t := k + 4 + Nat.log2 M
  let n := 2 ^ (2 * t) / M
  let r := isqrt n
  (2 * r + (if r * r * M = 2 ^ (2 * t) then 0 else 1), -(t : Int) - h - 1)

/-- FSQRT (R43). -/
def Fmt.sqrtNum (F : Fmt) (mode : Nat) (ftz : Bool) : Num → Nat × Flags
  | .nan s _ => (F.nanBits, flIf s flInv)
  | .inf n => if n then F.invalid else (F.infBits false, 0)
  | .fin n m e =>
    if m = 0 then (F.signBit n, 0)
    else if n then F.invalid
    else
      let (r, x) := sqrtJam m e F.fb
      F.round mode ftz false r x

/-- FRSQ (R43). -/
def Fmt.rsqrtNum (F : Fmt) (mode : Nat) (ftz : Bool) : Num → Nat × Flags
  | .nan s _ => (F.nanBits, flIf s flInv)
  | .inf n => if n then F.invalid else (F.signBit false, 0)
  | .fin n m e =>
    if m = 0 then (F.infBits n, 0)
    else if n then F.invalid
    else
      let (r, x) := rsqrtJam m e F.fb
      F.round mode ftz false r x

/-- 2^f for the fraction f of bits `b` (most significant first), as a number of 2^(−p): each bit multiplies by the root that
halving the exponent gives. `c` is 2^(2^(−i)) at bit i. -/
def exp2Frac (p : Nat) : List Bool → Nat → Nat → Nat
  | [], _, acc => acc
  | b :: r, c, acc =>
    let root := isqrt (c * 2 ^ p)
    exp2Frac p r root (if b then acc * root / 2 ^ p else acc)

/-- The bits of a fraction of n bits, most significant first. -/
def fracBits : Nat → Nat → List Bool
  | 0, _ => []
  | n + 1, x => (x / 2 ^ n % 2 == 1) :: fracBits n x

/-- FEXP2 (R43): the exact result, or the neighbour that `up` chooses. -/
def Fmt.exp2Num (F : Fmt) (mode : Nat) (ftz up : Bool) : Num → Nat × Flags
  | .nan s _ => (F.nanBits, flIf s flInv)
  | .inf n => if n then (F.signBit false, 0) else (F.infBits false, 0)
  | .fin n m e =>
    let pick := if up then 5 else 1
    let E := if m = 0 then -100000 else binade m e
    if m = 0 then F.round mode ftz false 1 0
    else if 14 ≤ E then
      if n then F.roundWith pick mode ftz false 1 (F.emin - F.fb - 3) else F.round mode ftz false 1 (F.emax + 2)
    else if E < -(F.fb : Int) - 4 then
      let tiny := 2 * F.fb + 8
      if n then F.roundWith pick mode ftz false (2 ^ tiny - 1) (-(tiny : Int)) else F.roundWith pick mode ftz false (2 ^ tiny + 1) (-(tiny : Int))
    else
      let d := (-e).toNat
      let a : Int := if n then -(m * pow2 e : Nat) else (m * pow2 e : Nat)
      let whole := a / (2 ^ d : Nat)
      let frac := (a % (2 ^ d : Nat)).toNat
      if frac = 0 then F.roundWith pick mode ftz false 1 whole
      else
        let p := 256
        let y := exp2Frac p (fracBits d frac) (2 ^ (p + 1)) (2 ^ p)
        F.roundWith pick mode ftz false (2 * y + 1) (whole - p - 1)

/-- The first n bits of log₂(y · 2^(−p)), 1 ≤ y · 2^(−p) < 2, by repeated squaring. -/
def log2Bits (p : Nat) : Nat → Nat → Nat → Nat
  | 0, _, acc => acc
  | n + 1, y, acc =>
    let z := y * y / 2 ^ p
    if 2 ^ (p + 1) ≤ z then log2Bits p n (z / 2) (2 * acc + 1) else log2Bits p n z (2 * acc)

/-- FLOG2 (R43). -/
def Fmt.log2Num (F : Fmt) (mode : Nat) (ftz up : Bool) : Num → Nat × Flags
  | .nan s _ => (F.nanBits, flIf s flInv)
  | .inf n => if n then F.invalid else (F.infBits false, 0)
  | .fin n m e =>
    if m = 0 then (F.infBits true, 0)
    else if n then F.invalid
    else
      let E := binade m e
      if m = 2 ^ Nat.log2 m then F.round mode ftz (E < 0) E.natAbs 0
      else
        let w := 2 * F.fb + 80
        let p := 2 * w + 64
        let bits := log2Bits p w (m * 2 ^ (p - Nat.log2 m)) 0
        let v : Int := E * (2 ^ w : Nat) + bits
        let pick := if up then 5 else 1
        if E < 0 then F.roundWith pick mode ftz true (2 * (v.natAbs - 1) + 1) (-(w : Int) - 1)
        else F.roundWith pick mode ftz false (2 * v.natAbs + 1) (-(w : Int) - 1)

/-- The order of two values that are no NaN, with −0 below +0 when `signed` (R119, R121). -/
def Num.less (signedZero : Bool) (a b : Num) : Bool :=
  match a, b with
  | .inf x, .inf y => x && !y
  | .inf x, _ => x
  | _, .inf y => !y
  | .fin x m e, .fin y k f =>
    let lo := if e ≤ f then e else f
    let p := m * pow2 (e - lo)
    let q := k * pow2 (f - lo)
    if p = 0 && q = 0 then signedZero && x && !y
    else if x && !y then true
    else if !x && y then false
    else if x then q < p
    else p < q
  | _, _ => false

/-- FMIN and FMAX: minimumNumber and maximumNumber with canonical NaNs, INV for a signalling one (R39, R119). -/
def Fmt.minMax (F : Fmt) (max : Bool) (ftz : Bool) (x y : Nat) : Nat × Flags :=
  let a := F.decode ftz x
  let b := F.decode ftz y
  let bits := fun (v : Num) => (F.encode 0 false v).1
  if a.isSnan || b.isSnan then F.invalid
  else if a.isNan && b.isNan then (F.nanBits, 0)
  else if a.isNan then (bits b, 0)
  else if b.isNan then (bits a, 0)
  else if (a.less true b) != max then (bits a, 0) else (bits b, 0)

end Sys2Proof.Machine
end

