-- ==== Sys2Proof/Machine/Narrow.lean ====
section
/-! DEFINITION. Element formats and their conversions (R36, R44 to R54, R124), and the accumulator format A96 (R49, R50). -/
namespace Sys2Proof.Machine
set_option Elab.async false

/-- An element format: an integer type, an IEEE format, a narrow format, or an MXINT8 element. -/
inductive Elem where
  | int (signed : Bool) (w : Nat)
  | ieee (F : Fmt)
  | e2m1 | e4m3 | e5m2 | c8 | mx8
  deriving DecidableEq, Repr

/-- Bits of an element. -/
def Elem.width : Elem → Nat
  | .int _ w => w
  | .ieee F => F.width
  | .e2m1 => 4
  | .e4m3 | .e5m2 | .c8 | .mx8 => 8

/-- The element of a TYPE (R16). -/
def elemOf : EType → Elem
  | .i32 => .int true 32
  | .n32 => .int false 32
  | .i16x2 => .int true 16
  | .n16x2 => .int false 16
  | .i8x4 => .int true 8
  | .n8x4 => .int false 8
  | .f32 => .ieee f32
  | .f16x2 => .ieee f16
  | .bf16x2 => .ieee bf16
  | .f64 => .ieee f64

/-- The element that a format code names (R55, R211); `none` for a code that no slot may hold. -/
def elemOfFormat (code : Nat) : Option Elem :=
  match code with
  | 0x10 => some (.int true 4)
  | 0x11 => some (.int true 8)
  | 0x12 => some (.int false 8)
  | 0x20 => some .e2m1
  | 0x21 => some .e4m3
  | 0x22 => some .e5m2
  | 0x23 => some .c8
  | 0x30 => some (.ieee f16)
  | 0x31 => some (.ieee bf16)
  | 0x32 => some (.ieee f32)
  | _ => none

/-- The range of an integer type (R36). -/
def intLo (signed : Bool) (w : Nat) : Int := if signed then -(2 ^ (w - 1) : Nat) else 0
def intHi (signed : Bool) (w : Nat) : Int := if signed then (2 ^ (w - 1) : Nat) - 1 else (2 ^ w : Nat) - 1

/-- A pattern of w bits read as signed or unsigned. -/
def readInt (signed : Bool) (w x : Nat) : Int :=
  if signed && field x (w - 1) 1 == 1 then (field x 0 w : Int) - (2 ^ w : Nat) else (field x 0 w : Int)

/-- An integer as a pattern of w bits. -/
def intBits (w : Nat) (n : Int) : Nat := (n % (2 ^ w : Nat)).toNat

/-- An integer clamped to a range, and whether the clamp changed it (R37). -/
def clampInt (lo hi n : Int) : Int × Bool := if n < lo then (lo, true) else if hi < n then (hi, true) else (n, false)

/-- An integer as a number. -/
def numOfInt (n : Int) : Num := .fin (n < 0) n.natAbs 0

/-- The value of a narrow code with e exponent bits, f fraction bits and a bias (R44), specials apart. -/
def miniValue (e f bias x : Nat) : Num :=
  let neg := field x (e + f) 1 == 1
  let ex := field x f e
  let fr := field x 0 f
  if ex = 0 then .fin neg fr (1 - (bias : Int) - f) else .fin neg (fr + 2 ^ f) ((ex : Int) - bias - f)

/-- C8Value (R47). -/
def c8Value (c : Nat) : Num :=
  let neg := field c 7 1 == 1
  let m := field c 0 7
  if m = 0 then (if neg then .nan false true else .fin false 0 0)
  else
    let b := 6 - Nat.log2 m
    let w := 6 - b
    let eb := Nat.min 2 w
    let fb := w - eb
    let bias := [2, 6, 10, 14, 18, 20, 21].getD b 0
    .fin neg (2 ^ fb + field m 0 fb) ((field m fb eb : Int) - bias - fb)

/-- The exact value of a pattern; FTZ reads IEEE subnormals as zeros (R42). -/
def Elem.decode (el : Elem) (ftz : Bool) (x : Nat) : Num :=
  match el with
  | .int s w => numOfInt (readInt s w x)
  | .ieee F => F.decode ftz x
  | .e2m1 => miniValue 2 1 1 x
  | .e4m3 => if field x 0 7 = 0x7F then .nan false (field x 7 1 == 1) else miniValue 4 3 7 x
  | .e5m2 =>
    if field x 2 5 = 31 then (if field x 0 2 = 0 then .inf (field x 7 1 == 1) else .nan false (field x 7 1 == 1))
    else miniValue 5 2 15 x
  | .c8 => c8Value x
  | .mx8 => .fin (readInt true 8 x < 0) (readInt true 8 x).natAbs (-6)

/-- A float into an integer type: the row of R51. -/
def toInteger (signed : Bool) (w mode : Nat) : Num → Nat × Flags
  | .nan _ _ => (0, flInv)
  | .inf n => (intBits w (if n then intLo signed w else intHi signed w), flSat ||| flInv)
  | .fin n m e =>
    let (k, inexact) := roundTo mode n m e 0
    let v : Int := if n then -(k : Int) else k
    let (c, out) := clampInt (intLo signed w) (intHi signed w) v
    (intBits w c, if out then flSat ||| flInv else flIf inexact flInx)

/-- A value into e4m3, e5m2 or e2m1 (R51, R52): e and f bits, bias, the code of the largest finite value, what a NaN and an
infinity give. -/
def toMini (e f bias top : Nat) (onNan : Bool → Nat) (onInf : Bool → Nat × Flags) : Num → Nat × Flags
  | .nan _ n => (onNan n, flInv)
  | .inf n => onInf n
  | .fin n m x =>
    let sign := if n then 2 ^ (e + f) else 0
    if m = 0 then (sign, 0)
    else
      let E := binade m x
      let emin : Int := 1 - (bias : Int)
      let (ku, _) := roundTo 0 n m x (E - f)
      let q := (if E < emin then emin else E) - f
      let (k, inexact) := roundTo 0 n m x q
      let F : Fmt := ⟨e, f⟩
      let mag := if k < 2 ^ f then k
        else if k = 2 ^ (f + 1) then (q + 1 + f + bias).toNat * 2 ^ f
        else (q + f + bias).toNat * 2 ^ f + (k - 2 ^ f)
      let large := match miniValue e f bias top with
        | .fin _ mt et => Num.less false (.fin false mt et) (.fin false m x)
        | _ => false
      if large then (sign + top, flSat ||| flInx)
      else
        let tiny := (if ku = 2 ^ (F.fb + 1) then E + 1 else E) < emin
        (sign + mag, flIf inexact (flInx ||| flIf tiny flUnf))

/-- The code of a magnitude in c8: the nearest of the codes from `c` down, ties to the even code (R48). `best` is the code
above. -/
def c8Search (m : Nat) (x : Int) : Nat → Nat
  | 0 => 0
  | c + 1 =>
    let here := c8Value (c + 1)
    let below := c8Value c
    match here, below with
    | .fin _ mh eh, .fin _ ml el =>
      let lo := if x ≤ eh then (if x ≤ el then x else el) else (if eh ≤ el then eh else el)
      let h := mh * pow2 (eh - lo)
      let l := ml * pow2 (el - lo)
      let v := m * pow2 (x - lo)
      if l ≤ v then
        (if 2 * v < h + l then c else if h + l < 2 * v then c + 1 else if c % 2 = 0 then c else c + 1)
      else c8Search m x c
    | _, _ => 0

/-- A value into c8 (R48). -/
def toC8 : Num → Nat × Flags
  | .nan _ _ => (0x80, flInv)
  | .inf n => (if n then 0xFF else 0x7F, flSat ||| flInx)
  | .fin n m x =>
    if m = 0 then (0, 0)
    else if Num.less false (.fin false 31 (-3)) (.fin false m x) then (if n then 0xFF else 0x7F, flSat ||| flInx)
    else
      let c := c8Search m x 0x7F
      let same := match c8Value c with
        | .fin _ k f => !(Num.less false (.fin false k f) (.fin false m x)) && !(Num.less false (.fin false m x) (.fin false k f))
        | _ => false
      (if c = 0 then 0 else (if n then 0x80 else 0) + c,
       flIf (!same) (flInx ||| flIf (Num.less false (.fin false m x) (.fin false 1 (-21))) flUnf))

/-- A value into an MXINT8 element (R45, R51). DEDUCED (log entry 25): SAT is judged on the integer that rounding gives, as R51 defines
"out of range" for its rows into an integer. -/
def toMx8 : Num → Nat × Flags
  | .nan _ _ => (0, flInv)
  | .inf n => (if n then 0x81 else 0x7F, flSat ||| flInx)
  | .fin n m x =>
    let (k, inexact) := roundTo 0 n m (x + 6) 0
    if 127 < k then (if n then 0x81 else 0x7F, flSat ||| flInx)
    else (intBits 8 (if n then -(k : Int) else k), flIf inexact flInx)

/-- A value into a format, under MD.ROUND and FTZ where its row of R51 uses them. DESIGN CHOICE (log entry 85): of the two patterns that
R51 allows a NaN or a NaR in e4m3, the one with the sign of the NaN, 0xFF for a NaR. DESIGN CHOICE (log entry 115): a value that saturates in
e4m3, e2m1 or MXINT8, an infinity too, sets SAT and INX. -/
def Elem.encode (el : Elem) (mode : Nat) (ftz : Bool) (v : Num) : Nat × Flags :=
  match el with
  | .int s w => toInteger s w mode v
  | .ieee F => F.encode mode ftz v
  | .e2m1 => toMini 2 1 1 7 (fun _ => 0) (fun n => ((if n then 8 else 0) + 7, flSat ||| flInx)) v
  | .e4m3 => toMini 4 3 7 0x7E (fun n => if n then 0xFF else 0x7F) (fun n => ((if n then 0x80 else 0) + 0x7E, flSat ||| flInx)) v
  | .e5m2 => toMini 5 2 15 0x7B (fun _ => 0x7E) (fun n => ((if n then 0x80 else 0) + 0x7C, 0)) v
  | .c8 => toC8 v
  | .mx8 => toMx8 v

/-- The value of a code of a format whose conversion is withheld from FTZ. -/
def Elem.value (el : Elem) (x : Nat) : Num := el.decode false x

/-- Convert (R51, R124): one element from a format to another. -/
def convert (src tgt : Elem) (mode : Nat) (ftz : Bool) (x : Nat) : Nat × Flags :=
  if src = tgt then (x, 0)
  else match src, tgt with
    | .int s w, .int t u =>
      let (c, out) := clampInt (intLo t u) (intHi t u) (readInt s w x)
      (intBits u c, flIf out flSat)
    | _, .ieee _ => tgt.encode mode ftz (src.decode ftz x)
    | _, _ => tgt.encode mode false (src.decode false x)

/-! ### The quantiser (R53, R54) -/

/-- An exact dyadic number: m · 2^e. -/
structure Dyadic where
  m : Int
  e : Int
  deriving DecidableEq, Repr

def Dyadic.add (a b : Dyadic) : Dyadic :=
  let e := if a.e ≤ b.e then a.e else b.e
  ⟨a.m * pow2 (a.e - e) + b.m * pow2 (b.e - e), e⟩

def Dyadic.square (a : Dyadic) : Dyadic := ⟨a.m * a.m, 2 * a.e⟩

/-- a < b. -/
def Dyadic.lt (a b : Dyadic) : Bool :=
  let e := if a.e ≤ b.e then a.e else b.e
  a.m * pow2 (a.e - e) < b.m * pow2 (b.e - e)

/-- A finite number as a dyadic; anything else as zero. -/
def Num.dyadic : Num → Dyadic
  | .fin n m e => ⟨if n then -(m : Int) else m, e⟩
  | _ => ⟨0, 0⟩

/-- A number scaled by 2^k. -/
def Num.scale (k : Int) : Num → Num
  | .fin n m e => .fin n m (e + k)
  | x => x

/-- k[T] (R54). -/
def quantBinade : Elem → Int
  | .e4m3 => 8
  | .e2m1 => 2
  | .c8 => 1
  | _ => 0

/-- The codes of a block at a scale, with their flags and their exact error. -/
def quantAt (t : Elem) (s : Int) (xs : List Num) : List Nat × Flags × Dyadic :=
  let q := xs.map fun x => t.encode 0 false (x.scale (-s))
  let err := (xs.zip q).foldl (fun acc p =>
    let d := p.1.dyadic.add ⟨-((t.value p.2.1).scale s).dyadic.m, ((t.value p.2.1).scale s).dyadic.e⟩
    acc.add d.square) ⟨0, 0⟩
  (q.map (·.1), (q.foldl (fun f p => f ||| p.2) 0), err)

/-- The greatest binade of the non-zero elements. -/
def maxBinade : List Num → Option Int
  | [] => none
  | .fin _ m e :: r =>
    if m = 0 then maxBinade r
    else match maxBinade r with
      | none => some (binade m e)
      | some b => some (if b ≤ binade m e then binade m e else b)
  | _ :: r => maxBinade r

/-- Quantise (R53): scale code, element codes, flags. -/
def quantise (t : Elem) (xs : List Num) : Nat × List Nat × Flags :=
  if xs.any fun x => x.isNan || x.isInf then (0xFF, xs.map fun _ => 0, flInv)
  else match maxBinade xs with
    | none => (0x7F, xs.map fun x => (t.encode 0 false x).1, 0)
    | some top =>
      let base := top - quantBinade t
      let candidates := ([base - 1, base, base + 1]).filter fun s => 0 ≤ s + 127 && s + 127 ≤ 254
      let pick := candidates.foldl (fun best s =>
        let now := quantAt t s xs
        match best with
        | none => some (s, now)
        | some (s0, old) => if old.2.2.lt now.2.2 then some (s0, old) else some (s, now))
        (none : Option (Int × List Nat × Flags × Dyadic))
      match pick with
      | some (s, q, f, _) => ((s + 127).toNat, q, f)
      | none =>
        let s : Int := if 127 < base then 127 else -127
        let now := quantAt t s xs
        ((s + 127).toNat, now.1, now.2.1)

/-! ### A96 (R49, R50) -/

/-- The canonical NaN of A96. -/
def a96Nan : Acc := BitVec.ofNat 96 (511 * 2 ^ 86 + 2 ^ 85)

/-- The value of an accumulator (R49). -/
def a96Value (x : Acc) : Num :=
  let n := x.toNat
  let neg := field n 95 1 == 1
  let e := field n 86 9
  let f := field n 0 86
  if e = 511 then .nan false neg
  else if e = 0 then .fin neg f (-340)
  else .fin neg (f + 2 ^ 86) ((e : Int) - 341)

/-- A pattern of A96 from a magnitude of k quanta 2^q, k ≤ 2^87. -/
def a96Pack (neg : Bool) (k : Nat) (q : Int) : Acc :=
  let s := if neg then 2 ^ 95 else 0
  if k < 2 ^ 86 then BitVec.ofNat 96 (s + k)
  else if k = 2 ^ 87 then BitVec.ofNat 96 (s + (q + 342).toNat * 2 ^ 86)
  else BitVec.ofNat 96 (s + (q + 341).toNat * 2 ^ 86 + (k - 2 ^ 86))

/-- RoundA96 of an exact value (R50). -/
def roundA96 (neg : Bool) (m : Nat) (e : Int) : Acc × Flags :=
  if m = 0 then (0, 0)
  else
    let E := binade m e
    let q := (if E < -254 then -254 else E) - 86
    let (k, inexact) := roundTo 0 neg m e q
    if 255 < (if k = 2 ^ 87 then q + 87 else q + 86) then
      (BitVec.ofNat 96 ((if neg then 2 ^ 95 else 0) + 510 * 2 ^ 86 + (2 ^ 86 - 1)), flSat)
    else (a96Pack neg k q, flIf (inexact && k < 2 ^ 86) flUnf)

/-- An accumulator plus D · 2^T, rounded once (R57); a NaN stays. -/
def a96Add (x : Acc) (d : Int) (t : Int) : Acc × Flags :=
  match a96Value x with
  | .fin n m e =>
    let (s, k, f) := exactAdd 0 n m e (d < 0) d.natAbs t
    roundA96 s k f
  | _ => (x, 0)

end Sys2Proof.Machine
end

