-- ==== Sys2Proof/Machine/AtMemory.lean ====
section
/-! DEFINITION. The elements of a lane (R16, R115), and the arithmetic of atomics and reductions on one word (R147, R148, R151). -/
namespace Sys2Proof.Machine
set_option Elab.async false

/-- Elements of a lane under a TYPE (R16). -/
def elemCount : EType → Nat
  | .i32 | .n32 | .f32 | .f64 => 1
  | .i16x2 | .n16x2 | .f16x2 | .bf16x2 => 2
  | .i8x4 | .n8x4 => 4

/-- The width of an element under a TYPE. -/
def elemWidth (t : EType) : Nat := (elemOf t).width

/-- A signed integer TYPE. -/
def signedType : EType → Bool
  | .i32 | .i16x2 | .i8x4 => true
  | _ => false

/-- The first k results of elements of width w, put together, with their flags. -/
def joinElems (w : Nat) (f : Nat → Nat × Flags) : Nat → Nat × Flags
  | 0 => (0, 0)
  | k + 1 => ((joinElems w f k).1 + (f k).1 % 2 ^ w * 2 ^ (w * k), (joinElems w f k).2 ||| (f k).2)

/-- A lane computed element by element (R115). -/
def perElem (t : EType) (f : Nat → Nat × Flags) : Nat × Flags := joinElems (elemWidth t) f (elemCount t)

/-- Element j of a lane under a TYPE. -/
def elemAt (t : EType) (x j : Nat) : Nat := field x (elemWidth t * j) (elemWidth t)

/-- An atomic or reduction on one operand, of a scalar 64-bit word or of a lane under its TYPE (R147, R148, R151). -/
def aopApply (scalar : Bool) (t : EType) (op : AOp) (m x : Nat) : Nat :=
  let w := if scalar then 64 else elemWidth t
  let signed := scalar || signedType t
  let int := fun (f : Int → Int → Int) (p q : Nat) => intBits w (f (readInt signed w p) (readInt signed w q))
  let each := fun (f : Nat → Nat → Nat) =>
    if scalar then f m x % 2 ^ 64 else (perElem t fun j => (f (elemAt t m j) (elemAt t x j), 0)).1
  let float := match elemOf t with
    | .ieee F => if scalar then none else some F
    | _ => none
  match op with
  | .swap => x
  | .and => Nat.land m x
  | .or => Nat.lor m x
  | .xor => Nat.xor m x
  | .add => match float with
    | some F => each fun p q => (F.addNum 0 false (F.decode false p) (F.decode false q)).1
    | none => each (int fun p q => p + q)
  | .min => match float with
    | some F => each fun p q => (F.minMax false false p q).1
    | none => each (int fun p q => if q < p then q else p)
  | .max => match float with
    | some F => each fun p q => (F.minMax true false p q).1
    | none => each (int fun p q => if p < q then q else p)
  | .minn => each fun p q => if q < p then q else p
  | .maxn => each fun p q => if p < q then q else p

end Sys2Proof.Machine
end

