-- ==== Sys2Proof/Config.lean ====
section
/-! DEFINITION. The values that the spec leaves open and under which the machine goes on. Each is a constant without a body,
applied to the count of free values used so far (`State.tick`) and to the place of the value, so that nothing can be proved
of one but what holds of every value. -/
namespace Sys2Proof.Config
set_option Elab.async false

/-- Which of the two representable neighbours of an inexact result FEXP2 or FLOG2 delivers (R43): the upper one if true. Tick,
lane, element. -/
opaque upperNeighbour : Nat → Nat → Nat → Bool

/-- The accumulator pattern that a CVTA meets while an MMAS over it is not observed (R134). Tick, accumulator, lane. -/
opaque unsettledAcc : Nat → Nat → Nat → BitVec 96

/-- Which of the values that an accumulator element has held since the issue of an MMAS the MMAS starts from (R182). Tick, accumulator,
lane. -/
opaque startChoice : Nat → Nat → Nat → Nat

/-- Whether an accumulator element that an instruction has written while an MMAS over it ran keeps that value (R182); else it holds the
result of the MMAS. Tick, accumulator, lane. -/
opaque keepsWrite : Nat → Nat → Nat → Bool

/-- Whether a read of a byte passes over the k-th last write that it need not see yet (R156, R173). Tick, location, k. -/
opaque readsOld : Nat → Nat → Nat → Bool

/-- Whether the bytes of a sector before the one at which a copy stops are written (R173). Tick. -/
opaque movesPrefix : Nat → Bool

/-- Whether an MMA or MMAS reads the new content of a cell, or of the metadata of a K-block column, while an INK of its macro
is not observed (R185). Tick, macro, index (columns from 4,096 on, and from 8,192·k on for the k-th choice). -/
opaque newCell : Nat → Nat → Nat → Bool

/-- The key slot that a vault-local access uses (R356 names one for pages only), by context: a slot below 128, or none. -/
opaque vaultKey : Nat → Nat

/-- A byte that memory holds where the spec gives it no value. Tick, location. -/
opaque lostByte : Nat → Nat → Byte

/-- A byte of a peer's memory that a copy reads (R173, R367). Tick, peer, device physical address. -/
opaque peerByte : Nat → Nat → Nat → Byte

/-- Whether a peer refuses a read of a line by a copy or by an agent outside the cores (R367). Tick, peer, line. -/
opaque peerRefuses : Nat → Nat → Nat → Bool

/-- Whether a copy that will stop at a later byte writes nothing more before it does (R173). Tick. -/
opaque stopsEarly : Nat → Bool

/-- ERRCODE of a copy whose write meets a poisoned granule that it does not cover whole (R173 names a code for no such
failure, R196 sends it to the point). Tick. -/
opaque poisonedTargetCode : Nat → Nat

/-- Whether a byte of a scratchpad unit keeps, at the admission of a team, what an earlier team of its context left (R224); else it
reads zero. Tick, location. -/
opaque keepsByte : Nat → Nat → Bool

/-- A byte of HBM or of a vault after a restore (R361) or a reset of the device (R392), which the spec does not give. The number that names
the occasion, location. -/
opaque imageByte : Nat → Nat → Byte

/-- How many bytes the encoded form of a block of 128 bytes takes (R352). -/
opaque encodedSize : List Byte → Nat

/-- The 30 check bits of a sector: its 32 bytes and META (R353). -/
opaque eccCheck : List Byte → BitVec 2 → BitVec 30

/-- Whether a checkpoint image holds the new bytes of a sector that is written during the SAVE (R361). Tick, sector. -/
opaque imagesNew : Nat → Nat → Bool

/-- The poisoned sectors, by location ÷ 32, that the image of a restore lists (R360). Tick. -/
opaque imagePoison : Nat → List Nat

/-- A byte of a save record whose place or value the spec does not give (R334, R335). Tick, offset in the save area. -/
opaque saveByte : Nat → Nat → Byte

/-- The CRC-64 of bytes of a boot record, whose polynomial the spec does not give (R375). -/
opaque crc64 : List Byte → Word

/-- A word that a sensor, a fuse, an image or a boot record holds and the spec does not give. Tick, which. -/
opaque fact : Nat → Nat → Nat

end Sys2Proof.Config
end

