-- ==== Sys2Proof/Machine/Aes.lean ====
section
/-! DEFINITION. AES-256 in XTS mode on one 32-byte sector (R356, which names the mode; the cipher is that of FIPS 197 and
IEEE 1619). Used only for sectors written or read under a key slot in that mode. -/
namespace Sys2Proof.Machine
set_option Elab.async false

/-- Doubling in the field of AES. -/
def aesDouble (x : Byte) : Byte := if x.getLsbD 7 then (x <<< 1) ^^^ 0x1B else x <<< 1

/-- Multiplication in the field of AES, by the lowest `k` bits of the second factor. -/
def aesMulGo : Nat → Byte → Byte → Byte
  | 0, _, _ => 0
  | k + 1, x, y => (if y.getLsbD 0 then x else 0) ^^^ aesMulGo k (aesDouble x) (y >>> 1)

/-- Multiplication in the field of AES. -/
def aesMul (x y : Byte) : Byte := aesMulGo 8 x y

/-- The inverse in the field of AES (zero of zero): the 254th power. -/
def aesInv (x : Byte) : Byte :=
  let x2 := aesMul x x
  let x4 := aesMul x2 x2
  let x8 := aesMul x4 x4
  let x16 := aesMul x8 x8
  let x32 := aesMul x16 x16
  let x64 := aesMul x32 x32
  let x128 := aesMul x64 x64
  aesMul x128 (aesMul x64 (aesMul x32 (aesMul x16 (aesMul x8 (aesMul x4 x2)))))

/-- The S-box. -/
def aesSub (x : Byte) : Byte :=
  let y := aesInv x
  y ^^^ y.rotateLeft 1 ^^^ y.rotateLeft 2 ^^^ y.rotateLeft 3 ^^^ y.rotateLeft 4 ^^^ 0x63

/-- The inverse S-box. -/
def aesUnsub (x : Byte) : Byte :=
  aesInv (x.rotateLeft 1 ^^^ x.rotateLeft 3 ^^^ x.rotateLeft 6 ^^^ 0x05)

/-- Sixteen bytes in columns: entry `4c + r` is row r of column c. -/
abbrev AesBlock := List Byte

/-- Entry of a block. -/
def aesAt (b : AesBlock) (i : Nat) : Byte := b.getD i 0

/-- Bytewise exclusive or. -/
def xorBytes (x y : List Byte) : List Byte := List.zipWith (· ^^^ ·) x y

/-- Row r moves left by r columns. -/
def aesShift (b : AesBlock) : AesBlock := tabList (fun i => aesAt b ((i + 4 * (i % 4)) % 16)) 0 16

/-- The inverse of `aesShift`. -/
def aesUnshift (b : AesBlock) : AesBlock := tabList (fun i => aesAt b ((i + 16 - 4 * (i % 4)) % 16)) 0 16

/-- Each column times the circulant of the four coefficients. -/
def aesMixBy (c0 c1 c2 c3 : Byte) (b : AesBlock) : AesBlock :=
  tabList (fun i =>
    let base := i / 4 * 4
    let at' := fun k => aesAt b (base + (i + k) % 4)
    aesMul c0 (at' 0) ^^^ aesMul c1 (at' 1) ^^^ aesMul c2 (at' 2) ^^^ aesMul c3 (at' 3)) 0 16

/-- The round keys: words of four bytes, each made from the one before it and the one eight back. -/
def aesExpandGo : Nat → Nat → Byte → List (List Byte) → List (List Byte)
  | 0, _, _, acc => acc
  | k + 1, i, rcon, acc =>
    let prev := acc.getD 0 []
    let back := acc.getD 7 []
    let t :=
      if i % 8 = 0 then
        xorBytes [aesSub (aesAt prev 1), aesSub (aesAt prev 2), aesSub (aesAt prev 3), aesSub (aesAt prev 0)] [rcon, 0, 0, 0]
      else if i % 8 = 4 then prev.map aesSub
      else prev
    aesExpandGo k (i + 1) (if i % 8 = 0 then aesDouble rcon else rcon) (xorBytes back t :: acc)

/-- The 15 round keys of a 256-bit key, whose byte i is bits [8i+7:8i]. -/
def aesKeys (key : BitVec 256) : List AesBlock :=
  let bytes := leBytes 32 key.toNat
  let first := tabList (fun w => tabList (fun r => aesAt bytes (4 * w + r)) 0 4) 0 8
  let words := (aesExpandGo 52 8 1 first.reverse).reverse
  tabList (fun r => ((words.drop (4 * r)).take 4).flatten) 0 15

/-- One block enciphered. -/
def aesEncrypt (key : BitVec 256) (b : AesBlock) : AesBlock :=
  match aesKeys key with
  | [] => b
  | k0 :: ks =>
    let mid := (ks.take 13).foldl (fun x k => xorBytes (aesMixBy 2 3 1 1 (aesShift (x.map aesSub))) k) (xorBytes b k0)
    xorBytes (aesShift (mid.map aesSub)) (ks.getD 13 [])

/-- One block deciphered. -/
def aesDecrypt (key : BitVec 256) (b : AesBlock) : AesBlock :=
  match (aesKeys key).reverse with
  | [] => b
  | k14 :: ks =>
    let x0 := (aesUnshift (xorBytes b k14)).map aesUnsub
    let mid := (ks.take 13).foldl (fun x k => (aesUnshift (aesMixBy 14 11 13 9 (xorBytes x k))).map aesUnsub) x0
    xorBytes mid (ks.getD 13 [])

/-- The tweak times the generator of the XTS field. -/
def xtsNext (t : AesBlock) : AesBlock :=
  let n := leNat t
  leBytes 16 (if n / 2 ^ 127 % 2 = 1 then (n * 2 % 2 ^ 128) ^^^ 0x87 else n * 2)

/-- One 32-byte data unit through XTS, by the given block cipher. -/
def xtsUnit (f : BitVec 256 → AesBlock → AesBlock) (k : KeySlot) (tweak : Nat) (bytes : List Byte) : List Byte :=
  let t0 := aesEncrypt k.k2 (leBytes 16 tweak)
  let t1 := xtsNext t0
  xorBytes (f k.k1 (xorBytes (bytes.take 16) t0)) t0 ++ xorBytes (f k.k1 (xorBytes (bytes.drop 16) t1)) t1

/-- The stored bytes of a sector whose plain bytes are given (R356). -/
def keyStore (k : KeySlot) (tweak : Nat) (bytes : List Byte) : List Byte :=
  if k.xts then xtsUnit aesEncrypt k tweak bytes else bytes

/-- The plain bytes of a sector whose stored bytes are given (R356). -/
def keyLoad (k : KeySlot) (tweak : Nat) (bytes : List Byte) : List Byte :=
  if k.xts then xtsUnit aesDecrypt k tweak bytes else bytes

end Sys2Proof.Machine
end

