-- ==== Sys2Proof/Machine/Ops.lean ====
section
/-! DEFINITION. The named operations over registers and memory, incident records, and taking an exception. -/
namespace Sys2Proof.Machine
set_option Elab.async false

/-! ### Registers -/

/-- A read of a scalar register; s0 reads zero (R14). -/
def Group.sReg (g : Group) (r : SReg) : Word := if r = 0 then 0 else at0 g.s r.toNat

/-- The errors left after the lanes of a register have been written: what is written is sound again (R197). -/
def healed (file index : Nat) (lanes : Word) : List BadReg → List BadReg
  | [] => []
  | b :: r =>
    if b.file = file ∧ b.index = index then
      if b.lanes &&& ~~~lanes = 0 then healed file index lanes r
      else { b with lanes := b.lanes &&& ~~~lanes } :: healed file index lanes r
    else b :: healed file index lanes r

/-- A write of a scalar register; a write to s0 is discarded (R14). -/
def Group.setS (g : Group) (r : SReg) (x : Word) : Group :=
  if r = 0 then g else { g with s := put g.s r.toNat x, bad := healed 2 r.toNat (BitVec.allOnes 64) g.bad }

/-- A read of a predicate; p0 reads 1 in all 64 lanes (R15). -/
def Group.pReg (g : Group) (r : PReg) : Word := if r = 0 then BitVec.allOnes 64 else at0 g.p r.toNat

/-- A predicate written in the lanes of a mask; a write to p0 is discarded (R15). -/
def Group.setP (g : Group) (r : PReg) (mask x : Word) : Group :=
  if r = 0 then g
  else { g with p := put g.p r.toNat ((g.pReg r &&& ~~~mask) ||| (x &&& mask)), bad := healed 3 r.toNat mask g.bad }

/-- The lanes of a vector register, by number. -/
def Group.vReg (g : Group) (i : Nat) : Vector Word32 64 := atD g.v i (Vector.replicate 64 0)

/-- One lane of a vector register. -/
def Group.lane (g : Group) (i L : Nat) : Word32 := at0 (g.vReg i) L

/-- The lane pair of a 64-bit operand: low word in register i, high word in i + 1 (R16). -/
def Group.lane64 (g : Group) (i L : Nat) : Word := (g.lane (i + 1) L).append (g.lane i L)

/-- A vector register written in the lanes of a mask (R22). -/
def Group.setV (g : Group) (i : Nat) (mask : Word) (f : Nat → Word32) : Group :=
  { g with v := put g.v i (tab 64 fun L => if bit mask L then f L else g.lane i L), bad := healed 0 i mask g.bad }

/-- A register pair written in the lanes of a mask (R16). -/
def Group.setV64 (g : Group) (i : Nat) (mask : Word) (f : Nat → Word) : Group :=
  (g.setV i mask fun L => (f L).extractLsb' 0 32).setV (i + 1) mask fun L => (f L).extractLsb' 32 32

/-- One element of an accumulator. -/
def Group.acc (g : Group) (i L : Nat) : Acc := at0 (atD g.a i (Vector.replicate 64 0)) L

/-- An accumulator written in the lanes of a mask. -/
def Group.setA (g : Group) (i : Nat) (mask : Word) (f : Nat → Acc) : Group :=
  { g with a := put g.a i (tab 64 fun L => if bit mask L then f L else g.acc i L), bad := healed 1 i mask g.bad }

/-- The guard mask of a guard slot (R22). -/
def Group.guardMask (g : Group) (G : Guard) : Word :=
  let pick := fun (idxLo negBit : Nat) =>
    let m := g.pReg (g.md.extractLsb' idxLo 4)
    if g.md.getLsbD negBit then ~~~m else m
  if G = 0 then g.pReg 0
  else if G = 1 then pick 8 12
  else if G = 2 then pick 13 17
  else pick 18 22

/-- The predicate index that a guard slot reads (R20, R22). -/
def Group.guardIdx (g : Group) (G : Guard) : PReg :=
  if G = 0 then 0
  else if G = 1 then g.md.extractLsb' 8 4
  else if G = 2 then g.md.extractLsb' 13 4
  else g.md.extractLsb' 18 4

/-- The lanes on which a lane-wise instruction acts (R22). -/
def Group.active (g : Group) (G : Guard) : Word := g.live &&& g.guardMask G

/-- MD.TYPE as a number (R20). -/
def Group.typeCode (g : Group) : Nat := g.md.toNat % 16

/-- MD.TYPE; R21 keeps it legal, and an illegal code would read as i32. -/
def Group.ety (g : Group) : EType := (EType.ofCode? g.typeCode).getD .i32

/-- MD.ROUND (R20). -/
def Group.round (g : Group) : Nat := g.md.toNat / 16 % 8

/-- MD.FTZ (R20). -/
def Group.ftz (g : Group) : Bool := g.md.getLsbD 7

/-- Flags ORed into FL[6:0] (R23). -/
def Group.orFlags (g : Group) (f : BitVec 7) : Group := { g with fl := g.fl ||| f.zeroExtend 32 }

/-- The code of a role (R18). -/
def Role.code : Role → Nat
  | .copy => 0
  | .matrix => 1
  | .epilogue => 2
  | .general => 3

/-- The role of a code (R18). -/
def Role.ofCode : Nat → Role
  | 0 => .copy
  | 1 => .matrix
  | 2 => .epilogue
  | _ => .general

/-! ### Groups, teams, cores, columns -/

/-- The column of a core (R2). -/
def coreCol (c : CoreId) : ColId := ⟨c.val / 4, by have := c.isLt; omega⟩

/-- The base die of a column (R2). -/
def colDie (c : ColId) : DieId := ⟨c.val / 16, by have := c.isLt; omega⟩

/-- Core k of a column (R2). -/
def colCore (c : ColId) (k : Fin 4) : CoreId := ⟨4 * c.val + k.val, by have := c.isLt; have := k.isLt; omega⟩

/-- A group stands in the slot. -/
def Group.present (g : Group) : Bool := g.status != .absent

/-- The group stands on the slot of the core. -/
def Group.isAt (g : Group) (core : CoreId) (slot : SlotId) : Bool :=
  g.present && g.core == core && g.slot == slot

/-- Every group of the machine. -/
def State.groups (s : State) : List Group := (s.g :: s.others).filter Group.present

/-- The group on a slot of a core. -/
def State.groupAt (s : State) (core : CoreId) (slot : SlotId) : Option Group :=
  s.groups.find? fun g => g.isAt core slot

/-- One group changed, wherever it stands. -/
def State.modGroup (s : State) (core : CoreId) (slot : SlotId) (f : Group → Group) : State :=
  { s with g := if s.g.isAt core slot then f s.g else s.g
           others := updWhere (fun g => g.isAt core slot) f s.others }

/-- Every group that satisfies `p` changed. -/
def State.modGroups (s : State) (p : Group → Bool) (f : Group → Group) : State :=
  { s with g := if s.g.present && p s.g then f s.g else s.g
           others := updWhere (fun g => g.present && p g) f s.others }

/-- The group of a slot made the one whose instruction is issued. -/
def State.focus (s : State) (core : CoreId) (slot : SlotId) : Option State :=
  if s.g.isAt core slot then some s
  else match s.others.find? fun g => g.isAt core slot with
    | none => none
    | some g =>
      let rest := dropFirst (fun x => x.isAt core slot) s.others
      some { s with g := g, others := if s.g.present then s.g :: rest else rest }

/-- The launch record of a machine without grids. -/
def Launch.none : Launch :=
  ⟨0, 0, 1, 1, 1, 0, [0, 0, 0, 0], 0, 0, 0, 0, [0, 0, 0, 0], [0, 0, 0, 0], [], [], 0, 0, 0, 0, [], 0⟩

/-- The team of a group that has none. -/
def Team.none : Team where
  id := 0
  ctx := 0
  kept := .none
  grid := 0
  value := 0
  spawned := false
  entry := 0
  payloads := []
  col := 0
  core := 0
  place := .resident
  fresh := false
  bound := false
  again := false
  readmit := false
  points := []
  macros := []
  units := []
  gvA := []
  redispatch := 0
  version := .none
  versionLines := []
  versionRels := []
  age := 0
  children := 0
  haltSeen := false
  diverted := false
  groups := []

/-- A selector before its first flip (R188). -/
def Selector.start : Selector := ⟨0, none, true, 0, [], []⟩

/-- The grid of a team that has none. -/
def Grid.none : Grid where
  id := 0
  ctx := 0
  record := 0
  launch := Launch.none
  col := 0
  line := 0
  depth := 1
  parent := .none
  stage := .placed
  depsOk := []
  depWait := []
  doneWait := .none
  loadWait := []
  accepted := 0
  next := 0
  diverted := false
  spawnSerial := 0
  gvs := []
  selector := Selector.start
  haltSeen := false

/-- A team by its identifier. -/
def State.teamOf (s : State) (id : Nat) : Option Team := s.teams.find? fun t => t.id == id

/-- A grid by its identifier. -/
def State.gridOf (s : State) (id : Nat) : Option Grid := s.grids.find? fun x => x.id == id

/-- The team of the issuing group. -/
def State.team (s : State) : Team := (s.teamOf s.g.team).getD Team.none

/-- The grid of the issuing group. -/
def State.grid (s : State) : Grid := (s.gridOf s.team.grid).getD Grid.none

/-- The context of the issuing group, by number and by entry. -/
def State.ctxId (s : State) : CtxId := s.team.ctx
def State.ctx (s : State) : Ctx := s.ctxs.get s.ctxId

/-- The entry of a context as it governs a team: that of its admission (R312). -/
def State.entryOf (s : State) (team : Nat) (c : CtxId) : Ctx :=
  match (s.teamOf team).bind (·.kept) with
  | some x => x
  | none => s.ctxs.get c

/-- The entry that governs the issuing group. -/
def State.entry (s : State) : Ctx := s.entryOf s.g.team s.ctxId

/-- One team changed. -/
def State.modTeam (s : State) (id : Nat) (f : Team → Team) : State :=
  { s with teams := updWhere (fun t => t.id == id) f s.teams }

/-- One grid changed. -/
def State.modGrid (s : State) (id : Nat) (f : Grid → Grid) : State :=
  { s with grids := updWhere (fun x => x.id == id) f s.grids }

def State.modCore (s : State) (c : CoreId) (f : CoreState → CoreState) : State :=
  { s with cores := s.cores.set c.val (f (s.cores.get c)) c.isLt }

def State.modCol (s : State) (c : ColId) (f : ColState → ColState) : State :=
  { s with cols := s.cols.set c.val (f (s.cols.get c)) c.isLt }

def State.modCtx (s : State) (c : CtxId) (f : Ctx → Ctx) : State :=
  { s with ctxs := s.ctxs.set c.val (f (s.ctxs.get c)) c.isLt }

def State.modJrn (s : State) (j : JournalId) (f : Journal → Journal) : State :=
  { s with jrns := s.jrns.set j.val (f (s.jrns.get j)) j.isLt }

/-- The core and column of the issuing group. -/
def State.core (s : State) : CoreState := s.cores.get s.g.core
def State.colId (s : State) : ColId := coreCol s.g.core
def State.col (s : State) : ColState := s.cols.get s.colId

/-- The issuing group as what is left of its accesses remembers it (R196). -/
def State.origin (s : State) : Origin := ⟨s.g.core, s.g.team, s.g.index, s.ctxId⟩

/-- A fresh identifier. -/
def State.takeId (s : State) : Nat × State := (s.fresh, { s with fresh := s.fresh + 1 })

/-! ### Bytes of memory -/

/-- The location lies in a memory with sectors, ECC and poison (R353). -/
def hasSectors (loc : Nat) : Bool := loc < 0x800800000000

/-- A location of the vault aperture. -/
def isVault (loc : Nat) : Bool := 0x800000000000 ≤ loc && loc < 0x800800000000

/-- The column of a location of the vaults. -/
def vaultNumber (loc : Nat) : Nat := (loc - 0x800000000000) / 2 ^ 29

/-- A restore leaves a location as it was: it lies in a vault of the mask, or in HBM from an address on (R361). -/
def keepsAt (vaults : Word) (top loc : Nat) : Bool :=
  !(hasSectors loc) || (if isVault loc then vaults.getLsbD (vaultNumber loc) else top ≤ loc)

/-- What an unlisted location holds. -/
def blankByte : Blank → Nat → Byte
  | .zero, _ => 0
  | .free n, loc => if hasSectors loc then Config.imageByte n loc else 0
  | .kept old new vaults top, loc => if keepsAt vaults top loc then blankByte old loc else blankByte new loc
  | .parity d n, a => (tabList (fun j => blankByte d (256 * (n * (a / 256) + j) + a % 256)) 0 n).foldl (· ^^^ ·) 0

/-- What a location holds. -/
def cellsGet (base : Blank) : List Host.Cell → Nat → Byte
  | [], loc => blankByte base loc
  | (a, b) :: r, loc => if a = loc then b else cellsGet base r loc

/-- A byte put in its place. -/
def cellsIns : List Host.Cell → Nat → Byte → List Host.Cell
  | [], loc, b => [(loc, b)]
  | (a, c) :: r, loc, b =>
    if loc < a then (loc, b) :: (a, c) :: r
    else if a = loc then (loc, b) :: r
    else (a, c) :: cellsIns r loc b

/-- Every entry of a location removed. -/
def cellsDel : List Host.Cell → Nat → List Host.Cell
  | [], _ => []
  | (a, c) :: r, loc => if a = loc then cellsDel r loc else (a, c) :: cellsDel r loc

/-- A byte written: what an unlisted location holds is not listed, which keeps the canonical form. -/
def cellsSet (base : Blank) (m : List Host.Cell) (loc : Nat) (b : Byte) : List Host.Cell :=
  if b = blankByte base loc then cellsDel m loc else cellsIns m loc b

/-- Bytes read from a location upward. -/
def cellsRead (base : Blank) (m : List Host.Cell) (loc k : Nat) : List Byte := tabList (cellsGet base m) loc k

/-- The canonical form: addresses strictly rising, no byte that an unlisted location would hold. -/
def cellsWf (base : Blank) : List Host.Cell → Bool
  | [] => true
  | (a, b) :: [] => b != blankByte base a
  | (a, b) :: (c, d) :: r => b != blankByte base a && a < c && cellsWf base ((c, d) :: r)

/-- A memory in canonical form. -/
def Memory.wf (m : Memory) : Bool := cellsWf m.base m.cells && cellsWf m.parityBase m.parity

/-- Locations: HBM and the vault aperture by their device physical address (R341), then the core-pinned windows, the slice
scratches and the scratchpads of the teams, which no physical address names. -/
def vaultLoc (c : ColId) (o : Nat) : Nat := 0x800000000000 + 2 ^ 29 * c.val + o
def pinLoc (c : CoreId) (o : Nat) : Nat := 2 ^ 52 + 2 ^ 20 * c.val + o
def sliceLoc (c : ColId) (o : Nat) : Nat := 2 ^ 53 + 2 ^ 23 * c.val + o
def scratchLoc (team : Nat) (o : Nat) : Nat := 2 ^ 60 + 2 ^ 20 * team + o

/-- The layout in force: in FAILED that of the mode before it. -/
def Device.layout (d : Device) : MemMode := if d.mode = .failed then d.failedFrom else d.mode

/-- Usable capacity: 704 GiB, or 640 GiB from the start of restriping on (R341). -/
def Device.capacity (d : Device) : Nat :=
  match d.layout with
  | .normal | .degraded => 0xB000000000
  | _ => 0xA000000000

/-- A location of HBM. -/
def Device.isHbm (d : Device) (loc : Nat) : Bool := loc < d.capacity

/-- The XTS tweak of the sector of a location (R356). -/
def sectorTweak (loc : Nat) : Nat := if isVault loc then loc / 32 - 2 ^ 42 + 2 ^ 47 else loc / 32

/-- Block b lies in the layout of twelve stacks (R342). -/
def oldLayout (mode : MemMode) (watermark b : Nat) : Bool :=
  match mode with
  | .normal | .degraded => true
  | .restriping => b / 10 < watermark
  | _ => false

/-- The placement of an HBM address: data stack, parity stack and location (R342). -/
def hbmPlace (mode : MemMode) (watermark : Nat) (lost : Option Nat) (pa : Nat) : Nat × Nat × Nat :=
  let b := pa / 256
  if oldLayout mode watermark b then
    let S := b / 11
    let p := S % 12
    ((p + 1 + b % 11) % 12, p, S)
  else
    let S := b / 10
    let q := S % 11
    let surv := (List.range 12).filter fun k => lost != some k
    (surv.getD ((q + 1 + b % 10) % 11) 0, surv.getD q 0, S)

/-- The coordinates of a location in its stack (R343). -/
structure HbmCoord where
  channel : BitVec 5
  pseudo : BitVec 1
  group : BitVec 2
  bank : BitVec 2
  block : BitVec 2
  row : BitVec 16
  deriving DecidableEq, Repr

/-- The coordinates of a location, the same in every stack (R343). -/
def hbmCoord (S : BitVec 28) : HbmCoord where
  channel := S.extractLsb' 0 5 ^^^ S.extractLsb' 12 5 ^^^ S.extractLsb' 22 5
  pseudo := S.extractLsb' 5 1 ^^^ S.extractLsb' 17 1 ^^^ S.extractLsb' 27 1
  group := S.extractLsb' 6 2 ^^^ S.extractLsb' 18 2
  bank := S.extractLsb' 8 2 ^^^ S.extractLsb' 20 2
  block := S.extractLsb' 10 2
  row := S.extractLsb' 12 16

/-- The placement of an HBM address in the layout in force. -/
def Device.place (d : Device) (pa : Nat) : Nat × Nat × Nat := hbmPlace d.layout d.watermark (d.lost.map (·.val)) pa

/-- An HBM address whose block lies on a lost stack, in a stripe that misses two blocks (R348). -/
def LostStacks.block (x : LostStacks) (pa : Nat) : Bool :=
  let missing := if oldLayout x.mode x.watermark (pa / 256) then x.all else x.all.filter fun k => k != x.one
  pa < 0xB000000000 && 2 ≤ missing.length && x.all.contains (hbmPlace x.mode x.watermark (some x.one) pa).1

/-- The home column of a line (R240): always by the NORMAL layout. -/
def homeColumn (pa : Nat) : ColId :=
  let b := pa / 256
  let S := b / 11
  let st := (S % 12 + 1 + b % 11) % 12
  let d := st / 3
  let x := (field pa 8 2) ^^^ (field pa 12 2)
  let y := (field pa 10 2) ^^^ (field pa 14 2)
  ⟨(16 * d + 4 * y + x) % 64, Nat.mod_lt _ (by decide)⟩

/-- The plain byte of a location under a key slot (R356). -/
def Memory.plain (m : Memory) (k : KeySlot) (loc : Nat) : Byte :=
  if k.xts && hasSectors loc then
    (keyLoad k (sectorTweak loc) (cellsRead m.base m.cells (loc / 32 * 32) 32)).getD (loc % 32) 0
  else cellsGet m.base m.cells loc

/-- A sector is poisoned (R353), or its block is lost (R348). -/
def Memory.sectorPoisoned (m : Memory) (loc : Nat) : Bool :=
  m.poison.contains (loc / 32) || (match m.dead with
    | some x => x.block loc
    | none => false)

/-- A byte arrives marked poisoned: its sector is, or, in a memory without sectors, the byte has an uncorrectable error (R138). -/
def Memory.poisoned (m : Memory) (loc : Nat) : Bool := m.sectorPoisoned loc || m.badBytes.contains loc

/-- A sector poisoned (R353). -/
def Memory.addPoison (m : Memory) (loc : Nat) : Memory :=
  if m.poison.contains (loc / 32) then m else { m with poison := (m.poison.filter (· < loc / 32)) ++ (loc / 32) :: (m.poison.filter (loc / 32 < ·)) }

/-- The slot without encryption. -/
def KeySlot.plaintext : KeySlot := ⟨false, 0, 0⟩

/-- The bytes of a run that are written: those whose sector is not poisoned, or is covered whole by the run (R354). -/
def Memory.accepts (m : Memory) (loc len a : Nat) : Bool :=
  !(m.sectorPoisoned a) || (loc ≤ a / 32 * 32 && a / 32 * 32 + 32 ≤ loc + len)

/-- The stored bytes of a run under an encrypting slot: each sector is deciphered, merged and enciphered. -/
def Memory.cipherRun (m : Memory) (k : KeySlot) (loc : Nat) (bs : List Byte) : List (Nat × Byte) :=
  let first := loc / 32
  let last := (loc + bs.length - 1) / 32
  (tabList (fun sec =>
    let plain := keyLoad k (sectorTweak (32 * sec)) (cellsRead m.base m.cells (32 * sec) 32)
    let merged := tabList (fun i =>
      let a := 32 * sec + i
      if loc ≤ a ∧ a < loc + bs.length then bs.getD (a - loc) 0 else plain.getD i 0) 0 32
    let stored := keyStore k (sectorTweak (32 * sec)) merged
    tabList (fun i => (32 * sec + i, stored.getD i 0)) 0 32) first (last + 1 - first)).flatten

/-- The stored bytes of a run, as location and byte. -/
def Memory.storedRun (m : Memory) (k : KeySlot) (loc : Nat) (bs : List Byte) : List (Nat × Byte) :=
  if k.xts && hasSectors loc && !bs.isEmpty then m.cipherRun k loc bs
  else (tabList id loc bs.length).zip bs

/-- Bytes put at their locations. -/
def cellsPutAll (base : Blank) : List Host.Cell → List (Nat × Byte) → List Host.Cell
  | m, [] => m
  | m, (a, b) :: r => cellsPutAll base (cellsSet base m a b) r

/-- The lines of a run. -/
def runLines (loc len : Nat) : List Nat := if len = 0 then [] else tabList id (loc / 128) ((loc + len - 1) / 128 + 1 - loc / 128)

/-- The 128-byte blocks of HBM whose content is encrypted, after a run under a key slot (R352, R356). -/
def Memory.cipherAfter (m : Memory) (k : KeySlot) (loc len : Nat) : List Nat :=
  let lines := runLines loc len
  if k.xts && !(isVault loc) && hasSectors loc then lines ++ m.cipherBlocks.filter fun l => !(lines.contains l)
  else if m.cipherBlocks.isEmpty then [] else m.cipherBlocks.filter fun l => !(lines.contains l)

/-- A write that every reader sees from now on: in the scratchpad it stays in sight of MMAS as it was (R156). -/
def OldByte.performed (o : OldByte) : Option OldByte := if scratchLoc 0 0 ≤ o.loc then some { o with copy := none } else none

/-- The old bytes after a store over a run: what a copy wrote there before is overwritten for every reader (R137, R173). -/
def Memory.oldsAfter (m : Memory) (loc len : Nat) : List OldByte :=
  m.olds.filterMap fun o =>
    if o.copy.isSome && !o.version && loc ≤ o.loc && o.loc < loc + len then o.performed else some o

/-- A run of bytes stored at a location under a key slot: the bytes that poison lets through, poison lifted from the
sectors covered whole (R354); no byte of it holds a release write any more (R263). -/
def Memory.store (m : Memory) (k : KeySlot) (loc : Nat) (bs : List Byte) : Memory :=
  let ok := (m.storedRun k loc bs).filter fun x => m.accepts loc bs.length x.1
  { m with cells := cellsPutAll m.base m.cells ok
           poison := m.poison.filter fun sec => !(loc ≤ 32 * sec && 32 * sec + 32 ≤ loc + bs.length)
           badBytes := m.badBytes.filter fun a => !(loc ≤ a && a < loc + bs.length)
           cipherBlocks := m.cipherAfter k loc bs.length
           releasers := m.releasers.filter fun r => !(loc ≤ r.1 && r.1 < loc + bs.length)
           olds := m.oldsAfter loc bs.length }

/-- The first byte of a run that meets a poisoned sector which the run does not cover (R354). -/
def Memory.failAt (m : Memory) (loc len : Nat) : Option Nat := (tabList id loc len).find? fun a => !(m.accepts loc len a)

/-- In each poisoned sector that a run meets and does not cover, its first byte there (R354). -/
def Memory.failsAt (m : Memory) (loc len : Nat) : List Nat :=
  (tabList id loc len).filter fun a => !(m.accepts loc len a) && (a == loc || a % 32 == 0)

/-- A run meets a poisoned sector that it does not cover (R354). -/
def Memory.storeFails (m : Memory) (loc len : Nat) : Bool := (m.failAt loc len).isSome

/-- A byte as a reader meets it behind writes that it may not see yet, the last first: freely the byte that stands, or what one of those
writes has replaced (R156, R173). -/
def chooseOld (old : Nat → Bool) : Nat → List OldByte → Byte → Byte
  | _, [], x => x
  | k, o :: r, x => if old k then chooseOld old (k + 1) r o.old else x

/-- A reader, a group by team and index if it is one, may still meet what a copy has replaced (R173). -/
def OldByte.meets (o : OldByte) (reader : Option (Nat × Nat)) : Bool :=
  !o.only || (match o.copy, reader with
    | some (_, index, _), some r => r == (o.team, index)
    | _, _ => false)

/-- Likewise, by the free values of the moment, as a reader meets it. -/
def State.pickOld (s : State) (reader : Option (Nat × Nat)) (a : Nat) (l : List OldByte) (x : Byte) : Byte :=
  chooseOld (fun k => Config.readsOld s.tick a k && (l[k]?).any (·.meets reader)) 0 l x

/-- The copies of a byte of memory, or of a team's version, that a reader may not see yet (R173). -/
def Memory.unseen (m : Memory) (team : Option Nat) (a : Nat) : List OldByte :=
  m.olds.filter fun o => o.loc == a && o.copy.isSome && (match team with
    | none => !o.version
    | some t => o.version && o.team == t)

/-- The copies that a read has shown are seen by everyone from then on, those it has not stay as they are (R254): the free values of a
moment say the same of every byte. -/
def settleOlds (old : Nat → Nat → Bool) (l : List OldByte) : List OldByte :=
  l.zipIdx.filterMap fun x =>
    let newer := (l.take x.2).filter fun o => o.loc == x.1.loc && o.copy.isSome && o.version == x.1.version &&
      (!o.version || o.team == x.1.team)
    if x.1.copy.isSome && !((List.range (newer.length + 1)).all (old x.1.loc)) then x.1.performed else some x.1

/-! ### Writes to HBM -/

/-- The stacks that are lost (R348, R349). -/
def Device.lostStacks (d : Device) (m : Memory) : List Nat :=
  match m.dead with
  | some x => x.all
  | none => d.lost.toList.map (·.val) ++ d.lost2.toList.map (·.val)

/-- A lost stack is one of those of the layout of an address: in the restriped layout the first lost stack is not (R342). -/
def Device.missing (d : Device) (m : Memory) (pa : Nat) : List Nat :=
  if oldLayout d.layout d.watermark (pa / 256) then d.lostStacks m
  else (d.lostStacks m).filter fun k => d.lost.map (·.val) != some k

/-- Bytes in order cut where their 256-byte block changes. -/
def byBlock : List (Nat × Byte × Byte) → List (List (Nat × Byte × Byte))
  | [] => []
  | x :: r =>
    match byBlock r with
    | (y :: ys) :: rest => if y.1 / 256 = x.1 / 256 then (x :: y :: ys) :: rest else [x] :: (y :: ys) :: rest
    | rest => [x] :: rest

/-- A write to one block of HBM enters the write buffer (R344); a stripe whose parity stack is lost keeps data only (R348). -/
def State.bufferWrite (s : State) (who : Option Origin) (b : List (Nat × Byte × Byte)) : State :=
  match b with
  | [] => s
  | x :: _ =>
    let place := s.dev.place x.1
    if (s.dev.missing s.mem x.1).contains place.2.1 then s
    else
      let w : PendWrite := { id := s.fresh, who := who, stripe := place.2.2, stage := .buffered, bytes := b }
      { s with mem := { s.mem with writes := s.mem.writes ++ [w] }, fresh := s.fresh + 1 }

/-- Changed bytes of HBM enter the write buffers, block by block. -/
def State.bufferAll (s : State) (who : Option Origin) (changed : List (Nat × Byte × Byte)) : State :=
  (byBlock changed).foldl (fun (t : State) b => t.bufferWrite who b) s

/-- Bytes with what the memory holds there now. -/
def Memory.changed (m : Memory) (was : List (Nat × Byte)) : List (Nat × Byte × Byte) :=
  was.map fun x => (x.1, x.2, cellsGet m.base m.cells x.1)

/-- What a run overwrites: the stored bytes that change with it. -/
def Memory.before (m : Memory) (k : KeySlot) (loc : Nat) (bs : List Byte) : List (Nat × Byte) :=
  (m.storedRun k loc bs).map fun x => (x.1, cellsGet m.base m.cells x.1)

/-! ### Lines in the slices and the host cores' caches -/

/-- The nominal data stack of a line, whose controller keeps its directory entry (R240, R364). -/
def lineStack (line : Nat) : Nat := (hbmPlace .normal 0 none (128 * line)).1

/-- The home die of a line (R240, R364). -/
def lineDie (line : Nat) : DieId := colDie (homeColumn (128 * line))

/-- Some agent of the device holds a copy of the line. -/
def Memory.tracked (m : Memory) (line : Nat) : Bool :=
  m.slices.any (fun l => l.line == line) || m.copies.any fun c => c.line == line

/-- The home keeps the predictor of a line while the line has a copy (R250). -/
def Memory.untrack (m : Memory) (line : Nat) : Memory :=
  if m.tracked line then m else { m with predictors := m.predictors.filter fun p => p.line != line }

/-- A copy given up: dirty bytes are written to HBM, and the owner of its directory entry is cleared (R363, R364). -/
def State.dropLine (s : State) (l : SliceLine) : State :=
  let t : State := { s with mem := { s.mem with
    slices := s.mem.slices.filter fun x => !(x.col == l.col && x.host == l.host && x.line == l.line)
    dir := if l.was.isEmpty then s.mem.dir else updWhere (fun d => d.line == l.line) (fun d => { d with owner := none }) s.mem.dir } }
  let u := t.bufferAll none (t.mem.changed l.was)
  { u with mem := u.mem.untrack l.line }

/-- Every copy of a line given up, and its directory entry. -/
def State.freeLine (s : State) (line : Nat) : State :=
  let t := (s.mem.slices.filter fun l => l.line == line).foldl State.dropLine s
  { t with mem := { t.mem with dir := t.mem.dir.filter fun d => d.line != line } }

/-- Every copy of the lines of a run given up. -/
def State.freeLines (s : State) (loc len : Nat) : State :=
  if s.mem.slices.isEmpty then s
  else ((s.mem.slices.map (·.line)).eraseDups.filter fun l => loc < 128 * l + 128 && 128 * l < loc + len).foldl State.freeLine s

/-- The set of a slice, of 8,192, and of a directory, of 65,536, that a line falls in. DESIGN CHOICE (log entry 88): R237 and R364 give no
index. -/
def sliceSet (line : Nat) : Nat := line % 8192
def dirSet (line : Nat) : Nat := line % 65536

/-- The last entry of a list that satisfies a test. -/
def lastWhere {α : Type} (p : α → Bool) (l : List α) : Option α := (l.filter p).getLast?

/-- Lines that the caches of a host core hold: its L2 of 1 MiB (R4). DESIGN CHOICE (log entry 112): R4 gives the L1 of 64 KiB and the L2 no
sets; the L2 holds what the L1 holds, and is one set. -/
def hostLines : Nat := 8192

/-- Lines that the versions of a column's teams occupy (R337). -/
def State.versionLines (s : State) (col : ColId) : List (Nat × Nat) :=
  ((s.teams.filter fun t => t.col == col).map fun t =>
    (((t.version.getD []).map fun c => (t.id, c.1 / 128)).eraseDups)).flatten

/-- The version lines of a column that fall in the set of a line: a version line has room in the 4 ways of its set (R244, R337). -/
def versionSet (lines : List (Nat × Nat)) (line : Nat) : Nat := (lines.filter fun l => sliceSet l.2 == sliceSet line).length

/-- The update-only copies of a column, and the peer lines that it holds under a lease, in the set of a line (R363). -/
def State.setCopies (s : State) (col : ColId) (line : Nat) : List UpdateCopy :=
  s.mem.copies.filter fun c => c.col == col && sliceSet c.line == sliceSet line
def State.setLeased (s : State) (col : ColId) (line : Nat) : List LLine :=
  s.links.llines.filter fun l => l.col == col && sliceSet l.line == sliceSet line

/-- What stands in the set of a line of a column's slice beside its plain lines: update-only copies, leased peer lines, lines of versions
(R337, R363). -/
def State.setOthers (s : State) (col : ColId) (line : Nat) : Nat :=
  (s.setCopies col line).length + (s.setLeased col line).length + versionSet (s.versionLines col) line

/-- A slice gives up the least recently used plain line of an overfull set, which has as many lines of every state as the slice has cache ways
(R237, R244, R363); the caches of a host core the least recently used of all (R4). -/
def State.trimSlice (s : State) (col : ColId) (host : Bool) (line : Nat) : State :=
  let inSet := fun (l : SliceLine) => l.col == col && l.host == host && (host || sliceSet l.line == sliceSet line)
  if (s.mem.slices.filter inSet).length ≤ (if host then hostLines else (s.cols.get col).ways - s.setOthers col line) then s
  else match lastWhere inSet s.mem.slices with
    | some l => s.dropLine l
    | none => s

/-- A directory gives up the least recently used entry of an overfull set of 16: the dies of P but the home die lose the line (R364). -/
def State.trimDir (s : State) (line : Nat) : State :=
  let inSet := fun (d : DirEntry) => lineStack d.line == lineStack line && dirSet d.line == dirSet line
  if (s.mem.dir.filter inSet).length ≤ 16 then s
  else match lastWhere inSet s.mem.dir with
    | some d =>
      let out := s.mem.slices.filter fun l => l.line == d.line && d.dies.contains (colDie l.col) && colDie l.col != lineDie d.line
      let t := out.foldl State.dropLine s
      { t with mem := { t.mem with dir := t.mem.dir.filter fun x => x.line != d.line } }
    | none => s

/-- A directory entry written, the most recently used. -/
def State.putDir (s : State) (d : DirEntry) : State :=
  ({ s with mem := { s.mem with dir := d :: s.mem.dir.filter fun x => x.line != d.line } } : State).trimDir d.line

/-- The directory's part in a read or an ownership request of a die (R364). -/
def State.dirRequest (s : State) (own : Bool) (die : DieId) (line : Nat) : State :=
  match s.mem.dir.find? fun d => d.line == line with
  | none => if die = lineDie line then s else s.putDir ⟨line, [die], if own then some die else none⟩
  | some d =>
    if own then s.putDir ⟨line, [die], some die⟩
    else s.putDir { d with dies := if d.dies.contains die then d.dies else d.dies ++ [die] }

/-- An agent's copy of a line put in its cache, the most recently used. -/
def State.putLine (s : State) (l : SliceLine) : State :=
  let rest := s.mem.slices.filter fun x => !(x.col == l.col && x.host == l.host && x.line == l.line)
  ({ s with mem := { s.mem with slices := l :: rest } } : State).trimSlice l.col l.host l.line

/-- A copy after another agent's read (R363). -/
def LineState.afterRead : LineState → LineState
  | .m => .o
  | .e => .s
  | x => x

/-- A slice, or a host core's cache, holds a line for a read (R363, R364): alone in the device on the home die in E, else in S. DESIGN
CHOICE (log entry 106): E on the home die only. -/
def State.readLine (s : State) (col : ColId) (host : Bool) (line : Nat) : State :=
  match s.mem.slices.find? fun l => l.col == col && l.host == host && l.line == line with
  | some l => s.putLine l
  | none =>
    let alone := !(s.mem.slices.any fun l => l.line == line)
    let t : State := { s with mem := { s.mem with
      slices := updWhere (fun l => l.line == line) (fun l => { l with state := l.state.afterRead }) s.mem.slices } }
    (t.dirRequest false (colDie col) line).putLine
      ⟨col, host, line, if alone && colDie col == lineDie line then .e else .s, []⟩

/-- A slice, or a host core's cache, takes a line exclusively: every other copy is invalidated, dirty bytes pass to the new owner (R363,
R364). -/
def State.ownLine (s : State) (col : ColId) (host : Bool) (line : Nat) : State :=
  let was := ((s.mem.slices.filter fun l => l.line == line).map (·.was)).flatten
  let t : State := { s with mem := { s.mem with slices := s.mem.slices.filter fun l => l.line != line } }
  (t.dirRequest true (colDie col) line).putLine ⟨col, host, line, if was.isEmpty then .e else .m, was⟩

/-- A run within one line stored by a slice or by a host core's cache, which holds the line in M then (R363). -/
def State.storeLine (s : State) (col : ColId) (host : Bool) (k : KeySlot) (loc : Nat) (bs : List Byte) : State :=
  let line := loc / 128
  let t := s.ownLine col host line
  let old := t.mem.before k loc bs
  let mem := t.mem.store k loc bs
  let dirty := fun (l : SliceLine) => { l with state := .m, was := l.was ++ old.filter fun x => !(l.was.any fun y => y.1 == x.1) }
  { t with mem := { mem with slices := updWhere (fun l => l.line == line) dirty mem.slices } }

/-! ### Runs -/

/-- A run stored at its location past every cache: copies of its lines are given up, and in HBM its blocks enter the write buffers
(R344). -/
def State.storeRunBy (s : State) (who : Option Origin) (k : KeySlot) (loc : Nat) (bs : List Byte) : State :=
  if s.dev.isHbm loc && !bs.isEmpty then
    let t := s.freeLines loc bs.length
    ({ t with mem := t.mem.store k loc bs } : State).bufferAll who (((t.mem.before k loc bs).map fun x =>
      (x.1, x.2, cellsGet t.mem.base (t.mem.store k loc bs).cells x.1)))
  else { s with mem := s.mem.store k loc bs }

/-- A run stored for an agent whose releases wait for no acknowledgement. -/
def State.storeRun (s : State) (k : KeySlot) (loc : Nat) (bs : List Byte) : State := s.storeRunBy none k loc bs

/-- A partial merged into the memory (R148, R251). -/
def Memory.mergeEntry (m : Memory) (k : KeySlot) (e : CombEntry) : Memory :=
  m.store k e.loc (leBytes e.size (aopApply e.scalar e.type e.op (leNat (tabList (m.plain k) e.loc e.size)) e.val.toNat))

/-- The memory as the agents that merge nothing themselves read it, walkers, fetches and journals: with every update-only copy merged
(R251, R325). -/
def State.seenMem (s : State) : Memory :=
  ((s.mem.copies.map (·.words)).flatten).foldl (fun m e => m.mergeEntry (atD s.keys e.key KeySlot.plaintext) e) s.mem

/-- Bytes of a physical address as an agent outside the cores reads them, without a key. -/
def State.physRead (s : State) (pa k : Nat) : List Byte := cellsRead s.seenMem.base s.seenMem.cells pa k

/-- A little-endian number at a physical address. -/
def State.physNat (s : State) (pa k : Nat) : Nat := leNat (s.physRead pa k)

/-! ### What holds a write back -/

/-- The time until which leases hold a write to a line that arrives now (R370). -/
def State.leaseDue (s : State) (line : Nat) : Option Nat :=
  match s.links.leases.find? fun l => l.line == line with
  | none => none
  | some l =>
    if s.links.ptpLocked then (if s.ptp.toNat < l.expiry + 100 then some (l.expiry + 100) else none)
    else some (s.ptp.toNat + s.dev.maxGrant.toNat * 1000 + 100)

/-- The host caches a line, or has not yet answered its back-invalidation (R364). -/
def Memory.hostHas (m : Memory) (line : Nat) : Bool := m.hostFilter.contains line || m.hostSnoops.contains line

/-- The later of two times, either of which may be missing. -/
def laterDue : Option Nat → Option Nat → Option Nat
  | some a, some b => some (Nat.max a b)
  | some a, none => some a
  | none, x => x

/-- A held entry that writes: not the place of an access that waits. -/
def HeldWrite.writes (h : HeldWrite) : Bool := !h.bytes.isEmpty || h.red.isSome

/-- The place of an access that nothing holds any longer: it stands until the access has been made (R370). -/
def HeldWrite.ripe (h : HeldWrite) : Bool := !h.writes && h.due.isNone && !h.host

/-- What a write to a line waits for, if for anything: the end of the leases on it, counted for itself, the host's answer, the writes of the
line that are already held (R364, R370). -/
def State.holdOf (s : State) (line : Nat) : Option (Option Nat × Bool) :=
  let due := s.leaseDue line
  let host := s.mem.hostHas line
  match (s.links.held.filter fun h => h.loc / 128 == line && !h.ripe).getLast? with
  | some h => some (laterDue h.due due, h.host || host)
  | none => if host || due.isSome then some (due, host) else none

/-- An entry held (R370). -/
def State.hold (s : State) (h : HeldWrite) : State := { s with links := { s.links with held := s.links.held ++ [h] } }

/-- The places that an access of a group, or of the machine by a tag, has kept on some lines given up, as it is made (R370). -/
def State.dropPlaces (s : State) (who : Option Origin) (tag : Option WriteTag) (lines : List Nat) : State :=
  if s.links.held.isEmpty then s
  else { s with links := { s.links with
    held := s.links.held.filter fun h => !(!h.writes && h.who == who && h.tag == tag && lines.contains (h.loc / 128)) } }

/-- The place of an access that waits behind what holds a line back (R364, R370). -/
def State.keepPlace (s : State) (who : Option Origin) (tag : Option WriteTag) (line : Nat) : State :=
  let (due, host) := (s.holdOf line).getD (none, false)
  s.hold ⟨128 * line, 0, 0, [], none, due, host, who, false, 0, false, none, tag⟩

/-- The machine itself may write a run now: no lease, no copy of the host and no held write stands before it (R364, R370), and no partial of
its lines is still to be merged (R251). -/
def State.devOpen (s : State) (pa len : Nat) : Bool :=
  (runLines pa len).all fun l => (s.holdOf l).isNone && !(s.mem.copies.any fun c => c.line == l)

/-- Room for another record in a column's HCALL queue (R319, R320). -/
def ColState.hqRoom (c : ColState) : Bool := c.hqLog != 0 && (c.hqTail - c.hqHead).toNat < 2 ^ c.hqLog.toNat

/-- The slot of a record in an HCALL queue (R320). -/
def ColState.hqSlot (c : ColState) (k : Nat) : Nat := c.hqBase.toNat * 1024 + 1024 * (k % 2 ^ c.hqLog.toNat)

/-- Where the next record of a column's HCALL queue goes: the Z7 writes its first 0x240 bytes (R320). -/
def ColState.hqNext (c : ColState) : Nat := c.hqSlot c.hqTail.toNat

/-- The next record of a column's HCALL queue can be written (R320, R364, R370). -/
def State.hqOpen (s : State) (col : ColId) : Bool :=
  let c := s.cols.get col
  c.hqRoom && s.devOpen c.hqNext 0x240

/-- A write of the machine itself that waits keeps its place behind what holds its lines back, once. -/
def State.devKeep (s : State) (pa len : Nat) : State :=
  (runLines pa len).foldl (fun (t : State) l =>
    if (t.holdOf l).isSome && !(t.links.held.any fun h => h.loc / 128 == l && !h.writes && h.who.isNone && h.tag.isNone) then
      t.keepPlace none none l
    else t) s

/-- Bytes written at a physical address by the machine itself, which has found its lines open. -/
def State.physWrite (s : State) (pa : Nat) (bs : List Byte) : State := s.storeRun KeySlot.plaintext pa bs

/-! ### Scopes and ports -/

/-- An agent belongs to the instance of a group at a scope (R256). -/
def inScope (scope : Scope) (a : Releaser) (b : Party) : Bool :=
  let col := coreCol a.core
  match scope, b with
  | .grp, .group b => a.core == b.core && a.slot == b.slot
  | .team, .group b => a.team == b.team || (a.core == b.core && a.slot == b.slot)
  | .core, .group b => a.core == b.core
  | .col, .group b => col == coreCol b.core
  | .col, .hostCore c => col == c
  | .die, .group b => colDie col == colDie (coreCol b.core)
  | .die, .hostCore c => colDie col == colDie c
  | .die, .dmc d => colDie col == d
  | .dev, .cxl | .dev, .peer _ => false
  | .dev, _ | .sys, _ => true
  | _, _ => false

/-- An agent within the instance of a mark, or of a release that the holder's core has made since (R262). -/
def ScopeMark.admits (m : ScopeMark) (who : Party) : Bool := inScope m.scope m.holder who || m.also.any fun r => inScope r.2 r.1 who

/-- A mark that leaves an agent out stands on one of the lines (R262). -/
def State.marked (s : State) (who : Party) (lines : List Nat) : Bool :=
  s.mem.marks.any fun m => lines.contains m.line && !(m.admits who)

/-- The live ports of a die. DESIGN CHOICE (log entry 96): port p is on die p ÷ 16. -/
def Links.diePorts (l : Links) (die : DieId) : List PortId :=
  (List.finRange 64).filter fun p => p.val / 16 == die.val && (l.ports.get p).up

/-- The port by which a request of a die leaves (R367): a live one of its own die, else of the next die that has one. -/
def Links.requestPort (l : Links) (die : DieId) (pa : Nat) : Option PortId :=
  let at' := fun (i : Nat) => l.diePorts ⟨(die.val + i) % 4, Nat.mod_lt _ (by decide)⟩
  (((List.range 4).map at').find? fun ps => !ps.isEmpty).bind fun ps => ps[field pa 8 8 % ps.length]?

/-- A die's requests to peers can leave (R367). -/
def Links.reachesPeers (l : Links) (die : DieId) : Bool := (l.requestPort die 0).isSome

/-! ### Incidents -/

/-- The catalogue of R390. -/
inductive IncCode where
  | eccCorrected | sectorReconstructed | sectorPoisoned | poisonConsumed | copyPoison | ptePoisoned
  | checkpointDone | checkpointFault | storeFailed
  | stackLost | stripeLost | restripeRefused | restripeDone | memoryFailed
  | vaultPageLost | refreshLeaseLapsed | refreshLeaseResumed | vaultBankLost
  | ucieLaneRepaired | ucieModuleDisabled | dieLinkLost | ualinkPartnerForeign | peerRefused | peerFenced
  | ptpUnlocked | ualinkPortDown
  | matrixOperandZeroed | accumulatorPoisoned | registerPoisoned | columnFenced | suspectedCracked
  | rdvArrivalOverflow | rdvPendingUnderflow | copyAllowanceLine | launchDropped | launchRejected | glyphTableFault
  | completionFault | copyNoTeam | teamLost | teamRedispatched
  | copyFault | pteMalformed | signalFault | faultQueueDisabled | frameAbsent | launchReadFault
  | levelChanged | vaultHot | thermalTrip
  | regulatorDroop | bootAlternate | deviceReset | logRecordsMerged
  | imageRejected | floorAdvanced | tdispWriteRefused | keySlotLoaded
  | groupHalted | unhandledTrap | handlerFetch | handlerTrap | preemptDeadline | contextDeadlock | contextIdleExternal
  | journalOverrun | saveAreaFull | versionEarlyCommit | versionDiscarded
  deriving DecidableEq, Repr

/-- Class, code, severity and action of each incident (R390). -/
def IncCode.info : IncCode → Nat × Nat × Nat × Nat
  | .eccCorrected => (1, 1, 1, 0)
  | .sectorReconstructed => (1, 2, 1, 0)
  | .sectorPoisoned => (1, 3, 3, 4)
  | .poisonConsumed => (1, 4, 3, 4)
  | .copyPoison => (1, 5, 3, 2)
  | .ptePoisoned => (1, 6, 3, 4)
  | .checkpointDone => (1, 7, 0, 0)
  | .checkpointFault => (1, 8, 2, 1)
  | .storeFailed => (1, 9, 3, 4)
  | .stackLost => (2, 1, 2, 6)
  | .stripeLost => (2, 2, 4, 8)
  | .restripeRefused => (2, 3, 2, 6)
  | .restripeDone => (2, 4, 0, 0)
  | .memoryFailed => (2, 5, 4, 8)
  | .vaultPageLost => (3, 1, 3, 4)
  | .refreshLeaseLapsed => (3, 2, 2, 1)
  | .refreshLeaseResumed => (3, 3, 0, 0)
  | .vaultBankLost => (3, 4, 2, 5)
  | .ucieLaneRepaired => (4, 1, 1, 0)
  | .ucieModuleDisabled => (4, 2, 2, 0)
  | .dieLinkLost => (4, 3, 2, 8)
  | .ualinkPartnerForeign => (4, 4, 2, 1)
  | .peerRefused => (4, 5, 3, 3)
  | .peerFenced => (4, 6, 2, 2)
  | .ptpUnlocked => (4, 7, 2, 0)
  | .ualinkPortDown => (4, 8, 2, 1)
  | .matrixOperandZeroed => (5, 1, 3, 2)
  | .accumulatorPoisoned => (5, 2, 3, 2)
  | .registerPoisoned => (5, 3, 3, 2)
  | .columnFenced => (5, 4, 2, 5)
  | .suspectedCracked => (5, 5, 2, 8)
  | .rdvArrivalOverflow => (6, 1, 3, 3)
  | .rdvPendingUnderflow => (6, 2, 3, 3)
  | .copyAllowanceLine => (6, 3, 3, 3)
  | .launchDropped => (6, 4, 3, 1)
  | .launchRejected => (6, 5, 3, 3)
  | .glyphTableFault => (6, 6, 3, 4)
  | .completionFault => (6, 7, 3, 4)
  | .copyNoTeam => (6, 8, 3, 3)
  | .teamLost => (6, 9, 3, 4)
  | .teamRedispatched => (6, 10, 0, 0)
  | .copyFault => (7, 1, 3, 3)
  | .pteMalformed => (7, 2, 3, 4)
  | .signalFault => (7, 3, 3, 3)
  | .faultQueueDisabled => (7, 4, 3, 3)
  | .frameAbsent => (7, 5, 3, 4)
  | .launchReadFault => (7, 6, 3, 3)
  | .levelChanged => (8, 1, 0, 0)
  | .vaultHot => (8, 2, 2, 0)
  | .thermalTrip => (8, 3, 5, 7)
  | .regulatorDroop => (9, 1, 2, 8)
  | .bootAlternate => (9, 2, 2, 8)
  | .deviceReset => (9, 3, 0, 0)
  | .logRecordsMerged => (9, 4, 0, 0)
  | .imageRejected => (10, 1, 2, 0)
  | .floorAdvanced => (10, 2, 0, 0)
  | .tdispWriteRefused => (10, 3, 2, 0)
  | .keySlotLoaded => (10, 4, 0, 0)
  | .groupHalted => (11, 1, 3, 3)
  | .unhandledTrap => (11, 2, 3, 3)
  | .handlerFetch => (11, 3, 3, 3)
  | .handlerTrap => (11, 4, 3, 3)
  | .preemptDeadline => (11, 5, 3, 3)
  | .contextDeadlock => (11, 6, 3, 4)
  | .contextIdleExternal => (11, 7, 0, 0)
  | .journalOverrun => (11, 8, 3, 1)
  | .saveAreaFull => (11, 9, 3, 3)
  | .versionEarlyCommit => (11, 10, 0, 0)
  | .versionDiscarded => (11, 11, 0, 0)

/-- A record of a code with every other field at its none value (R382). -/
def IncCode.entry (k : IncCode) : Incident where
  cls := k.info.1
  code := k.info.2.1
  sev := k.info.2.2.1
  act := k.info.2.2.2
  engine := 0
  die := 0xFF
  col := 0xFF
  core := 0xFF
  port := 0xFF
  group := 0xFF
  ctx := 0xFF
  corr := 0
  va := 0
  pa := 0
  coord := 0
  detail := 0
  time := 0
  seq := 0

/-- The record names a column and its die. -/
def Incident.atCol (i : Incident) (c : ColId) : Incident := { i with col := c.val, die := (colDie c).val }

/-- The record names a context. -/
def Incident.ofCtx (i : Incident) (c : CtxId) : Incident := { i with ctx := c.val }

/-- The record carries a virtual address: ENGINE[4]. -/
def Incident.withVa (i : Incident) (va : Word) : Incident := { i with va := va, engine := i.engine ||| 0x10 }

/-- The record carries a physical address: ENGINE[5]. -/
def Incident.withPa (i : Incident) (pa : Nat) : Incident := { i with pa := BitVec.ofNat 64 pa, engine := i.engine ||| 0x20 }

/-- The kind of engine in ENGINE[3:0]. -/
def Incident.byEngine (i : Incident) (k : Nat) : Incident := { i with engine := i.engine ||| k }

/-- The record names a group: engine kind 1, its core, port and slot (R382). -/
def Incident.byGroup (i : Incident) (g : Group) : Incident :=
  { (i.atCol (coreCol g.core)).byEngine 1 with core := g.core.val, port := g.slot.val % 4, group := g.slot.val }

/-- The record is caused by another: CORR names the first of the chain (R387). -/
def Incident.after (i : Incident) (root : Word) : Incident :=
  { i with corr := root.extractLsb' 0 32, engine := i.engine ||| 0x80 }

/-- A record as it is written while a chain goes on: one that a journal command or a chain of its own caused says so already (R387). -/
def Incident.inChain (i : Incident) (root : Option Word) : Incident :=
  match root with
  | some r => if i.corr = 0 then i.after r else i
  | none => i

/-- The 64 bytes of a record (R382). -/
def Incident.bytes (i : Incident) : List Byte :=
  leBytes 1 1 ++ leBytes 1 i.sev ++ leBytes 1 i.cls ++ leBytes 1 i.code ++ leBytes 1 i.act ++ leBytes 1 i.engine ++
  leBytes 1 i.die ++ leBytes 1 i.col ++ leBytes 1 i.core ++ leBytes 1 i.port ++ leBytes 1 i.group ++ leBytes 1 i.ctx ++
  leBytes 4 i.corr.toNat ++ leBytes 8 i.va.toNat ++ leBytes 8 i.pa.toNat ++ leBytes 8 i.coord.toNat ++
  leBytes 8 i.detail.toNat ++ leBytes 8 i.time.toNat ++ leBytes 8 i.seq.toNat

/-- An MSI-X message sent for a pending bit that was clear (R318). -/
def State.msiJournal (s : State) (j : JournalId) : State :=
  if (s.jrns.get j).pend then s
  else { s.modJrn j (fun x => { x with pend := true }) with msix := s.msix ++ [j.val] }

/-- The journal of a context. -/
def CtxId.journal (c : CtxId) : JournalId := ⟨c.val, by have := c.isLt; omega⟩

/-- The address of a context's table entry (R310). -/
def State.ctxEntry (s : State) (c : CtxId) : Nat := s.dev.ctxtbl.toNat * 2 ^ 14 + 256 * c.val

/-- STATE of R312 as the table shows it. -/
def Ctx.stateWord (c : Ctx) : Nat :=
  (match c.phase with
   | .free => 0
   | .running => 1
   | .saving => 2
   | .saved => 3
   | .stopped => 4) + if c.error then 8 else 0

/-- Where a write of the machine for a context goes, and its length. -/
def State.devPlace (s : State) : DevWrite → Nat × Nat
  | .ring i =>
    if h : i.ctx < 64 then
      let x := s.ctxs.get ⟨i.ctx, h⟩
      (x.iring.toNat + 64 * (x.irHead.toNat % x.iringN), 64)
    else (0, 0)
  | .table c _ => (s.ctxEntry c + 0x60, 24)

/-- That write performed: after a record IRHEAD advances, and the message of R318 follows its appearance in the table (R310, R312,
R385). -/
def State.devPerform (s : State) (w : DevWrite) : State :=
  let pa := (s.devPlace w).1
  match w with
  | .ring i =>
    if h : i.ctx < 64 then (s.physWrite pa i.bytes).modCtx ⟨i.ctx, h⟩ fun y => { y with irHead := y.irHead + 1 } else s
  | .table c msi =>
    let x := s.ctxs.get c
    let t := s.physWrite pa (leBytes 8 x.stateWord ++ leBytes 8 x.errSeq.toNat ++ leBytes 8 x.irHead.toNat)
    if msi then t.msiJournal (CtxId.journal c) else t

/-- A write of the host to a page of BAR0 behind the device block: there is none once the boot has stopped (R374). -/
def State.pageWrite (s : State) (f : State → State) : State := if s.dev.bootFail then s else f s

/-- The writes for contexts performed in order, as far as their lines are open. -/
def State.devDrain : Nat → State → State
  | 0, s => s
  | k + 1, s =>
    match s.log.writes with
    | [] => s
    | w :: r =>
      let (pa, len) := s.devPlace w
      if s.devOpen pa len then State.devDrain k (({ s with log := { s.log with writes := r } } : State).devPerform w)
      else s.devKeep pa len

/-- Writes for a context made, behind those that wait. -/
def State.devWrite (s : State) (l : List DevWrite) : State :=
  State.devDrain (s.log.writes.length + l.length) { s with log := { s.log with writes := s.log.writes ++ l } }

/-- STATE, ERRSEQ and IRHEAD written to the context table (R310, R312, R385). -/
def State.publishCtx (s : State) (c : CtxId) : State := s.devWrite [.table c false]

/-- The device log has room for another record (R386). -/
def Device.logRoom (d : Device) : Bool :=
  d.logLog != 0 && (d.logHead - d.logCons).toNat < 2 ^ d.logLog.toNat

/-- Where the next record of the device log goes (R386). -/
def Device.logPlace (d : Device) : Nat := d.logBase.toNat * 64 + 64 * (d.logHead.toNat % 2 ^ d.logLog.toNat)

/-- The bytes of a progress record before its CRC (R375). -/
def BootRec.covered (r : BootRec) : List Byte :=
  leBytes 8 r.serial.toNat ++ leBytes 2 r.step ++ leBytes 1 r.kind ++ [r.unit] ++ leBytes 4 r.detail.toNat ++ leBytes 8 r.cycles.toNat

/-- The 32 bytes of a progress record (R375). -/
def BootRec.bytes (r : BootRec) : List Byte := r.covered ++ leBytes 8 r.crc.toNat

/-- The 64 bytes of an entry of the device log. DESIGN CHOICE (log entry 99): the copy of a progress record is its 32 bytes and then zeros. -/
def LogRec.bytes : LogRec → List Byte
  | .incident i => i.bytes
  | .boot r => r.bytes ++ List.replicate 32 0

/-- A PlatformEventMessage: OEM event class 0xF0, and the record unchanged (R394). -/
def PlatformEvent.bytes (e : PlatformEvent) : List Byte := 0xF0#8 :: e.record.bytes

/-- What follows the appearance of a record in the device log: the host core of its column is told (R385), and the platform (R394). -/
def State.logged (s : State) (i : Incident) : State :=
  let s1 := if h : i.col < 64 then s.modCol ⟨i.col, h⟩ fun x => { x with imsic := x.imsic ++ [4] } else s
  if 2 ≤ i.sev then { s1 with log := { s1.log with events := s1.log.events ++ [⟨i, s1.ptp.toNat, false⟩] } } else s1

/-- A record written to the device log (R386): LOGHEAD and its message, and what follows. -/
def State.logWrite (s : State) (r : LogRec) : State :=
  let s1 := s.physWrite s.dev.logPlace r.bytes
  let s2 := { s1 with dev := { s1.dev with logHead := s1.dev.logHead + 1, logPend := true }
                      msix := if s1.dev.logPend then s1.msix else s1.msix ++ [65] }
  match r with
  | .incident i => s2.logged i
  | .boot _ => s2

/-- Reserved records written while the log has room and its next line is open, oldest first (R364, R370, R386). -/
def State.logDrain : Nat → State → State
  | 0, s => s
  | k + 1, s =>
    if s.dev.logRoom then
      match s.log.reserve with
      | [] => s
      | i :: r =>
        if s.devOpen s.dev.logPlace 64 then State.logDrain k ({ s with log := { s.log with reserve := r } }.logWrite i)
        else s.devKeep s.dev.logPlace 64
    else s

/-- The entry counts the records of this class, code and column (R386). -/
def MergeCount.of (m : MergeCount) (cls code col : Nat) : Bool := m.cls == cls && m.code == code && m.col == col

/-- One second of the nanosecond clock (R31, R386). -/
def oneSecond : Nat := 1000000000

/-- The records of the entry that were made within the last second (R386). -/
def MergeCount.recent (m : MergeCount) (now : Nat) : List Nat := m.seen.filter fun x => now < x + oneSecond

/-- Another record replaced: the second of its summary begins with the first one (R386). -/
def MergeCount.replace (m : MergeCount) (now : Nat) : MergeCount :=
  { m with replaced := m.replaced + 1, since := if m.replaced = 0 then now else m.since }

/-- The count of a class, code and column changed, begun where it has none (R386). -/
def State.modMerge (s : State) (cls code col : Nat) (f : MergeCount → MergeCount) : State :=
  let merges :=
    if s.log.merges.any fun m => m.of cls code col then updWhere (fun m => m.of cls code col) f s.log.merges
    else f ⟨cls, code, col, [], 0, 0⟩ :: s.log.merges
  { s with log := { s.log with merges := merges } }

/-- A replaced record counted for its summary and in MERGED (R386). -/
def State.countMerged (s : State) (cls code col : Nat) : State :=
  { s.modMerge cls code col fun m => m.replace s.ptp.toNat with dev := { s.dev with merged := s.dev.merged + 1 } }

/-- A record, written or replaced, counted towards the 64 of its class, code and column within one second (R386). -/
def State.countSeen (s : State) (i : Incident) : State :=
  s.modMerge i.cls i.code i.col fun m => { m with seen := s.ptp.toNat :: m.recent s.ptp.toNat }

/-- A record of severity INFO or CORRECTED. -/
def LogRec.minor : LogRec → Option Incident
  | .incident i => if i.sev < 2 then some i else none
  | .boot _ => none

/-- A record to the log or the reserve: a full reserve gives up its oldest INFO or CORRECTED record (R386). DESIGN CHOICE (log entry 121): its
sequence number, which a ring may hold already, stays unused in the device log (R387). -/
def State.logAppend (s : State) (r : LogRec) : State :=
  let s1 :=
    if 4096 ≤ s.log.reserve.length then
      match s.log.reserve.findSome? LogRec.minor with
      | some old =>
        let s' := s.countMerged old.cls old.code old.col
        { s' with log := { s'.log with reserve := dropFirst (fun x => x.minor.isSome) s'.log.reserve } }
      | none => s
    else s
  let s2 := { s1 with log := { s1.log with reserve := s1.log.reserve ++ [r] } }
  s2.logDrain 4097

/-- An incident is to be replaced by a summary, which is not replaced itself (R386): it finds the reserve full, or it is the 65th or a later one
of its class, code and column within the second that it ends (log entry 126). -/
def State.mergesNow (s : State) (i : Incident) : Bool :=
  i.sev < 2 && !(i.cls == 9 && i.code == 4) &&
    (4096 ≤ s.log.reserve.length ||
     (s.log.merges.any fun m => m.of i.cls i.code i.col && 64 ≤ (m.recent s.ptp.toNat).length))

/-- A record written: sequence number and time, the device log, the context's ring (R385, R387). -/
def State.report (s : State) (i0 : Incident) : State :=
  if s.mergesNow i0 then (s.countSeen i0).countMerged i0.cls i0.code i0.col
  else
    let n := s.log.count + 1
    let i : Incident := { i0.inChain s.log.root with seq := BitVec.ofNat 64 (s.log.bootSerial.toNat % 2 ^ 16 * 2 ^ 48 + n), time := s.ptp }
    let s1 := ({ s with log := { s.log with count := n } }.countSeen i).logAppend (.incident i)
    if h : i.ctx < 64 then
      if (s1.ctxs.get ⟨i.ctx, h⟩).iringN = 0 then s1 else s1.devWrite [.ring i, .table ⟨i.ctx, h⟩ true]
    else s1

/-- The sequence number of the last record. -/
def State.lastSeq (s : State) : Word :=
  BitVec.ofNat 64 (s.log.bootSerial.toNat % 2 ^ 16 * 2 ^ 48 + s.log.count)

/-- Several records in order. -/
def State.reportAll : List Incident → State → State
  | [], s => s
  | i :: r, s => State.reportAll r (s.report i)

/-- What another incident causes (R387): the records written in it name the first of the chain. -/
def State.caused (s : State) (root : Option Word) (f : State → State) : State :=
  let t := f { s with log := { s.log with root := s.log.root <|> root } }
  { t with log := { t.log with root := s.log.root } }

/-- A context enters the error state; ERRSEQ names the record that set it (R193, R310, R385). -/
def State.errorState (s : State) (c : CtxId) : State :=
  (s.modCtx c fun x => if x.phase == .free || x.error then x else { x with error := true, errSeq := s.lastSeq }).publishCtx c

/-! ### Taking an exception -/

/-- The trap causes of R190. -/
inductive Cause where
  | illegalEncoding | illegalMode | illegalType | illegalOperand | regBudget | privilege | misaligned | accessFault
  | scratchBound | vaultWindow | sliceScratchAbsent | dataPoisoned | impreciseStore | alPlainStore | alPlacement
  | alUnregistered | stackSpill | stackFill | returnStackEmpty | vectorTargetDivergent | landingPoint | glyphBody
  | glyphBusy | glyphAbsent | rdvBusy | rdvUninit | gridRdvAbsent | notLeader | flagTrap | softwareTrap | hcallFailed
  | registerPoisoned
  deriving DecidableEq, Repr

/-- The cause codes of R190. -/
def Cause.code : Cause → Nat
  | .illegalEncoding => 0x01
  | .illegalMode => 0x02
  | .illegalType => 0x03
  | .illegalOperand => 0x04
  | .regBudget => 0x05
  | .privilege => 0x06
  | .misaligned => 0x07
  | .accessFault => 0x08
  | .scratchBound => 0x09
  | .vaultWindow => 0x0A
  | .sliceScratchAbsent => 0x0B
  | .dataPoisoned => 0x0C
  | .impreciseStore => 0x0D
  | .alPlainStore => 0x0E
  | .alPlacement => 0x0F
  | .alUnregistered => 0x10
  | .stackSpill => 0x11
  | .stackFill => 0x12
  | .returnStackEmpty => 0x13
  | .vectorTargetDivergent => 0x14
  | .landingPoint => 0x15
  | .glyphBody => 0x16
  | .glyphBusy => 0x17
  | .glyphAbsent => 0x18
  | .rdvBusy => 0x19
  | .rdvUninit => 0x1A
  | .gridRdvAbsent => 0x1B
  | .notLeader => 0x1C
  | .flagTrap => 0x1D
  | .softwareTrap => 0x1E
  | .hcallFailed => 0x1F
  | .registerPoisoned => 0x20

/-- A trap to be taken: cause, TADDR, TMASK, the incidents that accompany it (R391), and the step for TSTEP where it is not
that of the glyph in progress (R111). -/
structure Trap where
  cause : Cause
  addr : Word
  mask : Word
  incs : List Incident
  step : Option Nat
  deriving DecidableEq, Repr

/-- The glyph step that a trap reports (R74, R191). -/
def Group.trapStep (g : Group) (t : Trap) : Word :=
  match t.step, g.glyph with
  | some k, _ => BitVec.ofNat 64 k
  | none, some r => BitVec.ofNat 64 r.k
  | none, none => 0

/-- The trap registers of R191. -/
def Group.recordTrap (g : Group) (t : Trap) : Group :=
  { g with tcause := BitVec.ofNat 64 t.cause.code, taddr := t.addr, tmask := t.mask, tpc := g.pc
           tstep := g.trapStep t, tmd := zext64 g.md
           imprecise := if t.cause = .impreciseStore then none else g.imprecise
           glyph := none, glyphResume := none, alReads := [], peerData := none, fetched := none, kept := []
           status := .ready }

/-- The cause in [63:56] and an address in [54:0], as R382 gives DETAIL for a trap. -/
def trapDetail (cause : Nat) (pc : Word) : Word := BitVec.ofNat 64 (cause % 256 * 2 ^ 56 + pc.toNat % 2 ^ 55)

/-- A context has a team resident on a core. -/
def State.residentOn (s : State) (c : CtxId) (core : CoreId) : Bool :=
  s.teams.any fun t => t.ctx == c && t.core == core && t.place == .resident

/-- The glyph entries of a context are freed on a core that its last resident team has left (R108). -/
def State.freeGlyphs (s : State) (c : CtxId) (core : CoreId) : State :=
  if s.residentOn c core then s
  else s.modCore core fun x => { x with
    glyphs := x.glyphs.filter fun e => e.owner != c, loaded := x.loaded.filter fun e => e.1 != c }

/-- DETAIL of VERSION_DISCARDED (R390): TEAM and the cause of R338. DESIGN CHOICE (log entry 122): the cause stands in [63:56], 1 for a halt, 2 for
the fencing of the column, 3 for a save. -/
def discardDetail (cause : Nat) (team : Word) : Word := BitVec.ofNat 64 (cause * 2 ^ 56 + team.toNat % 2 ^ 56)

/-- Whoever waited for a result, when the groups of a team are dropped (R271, R338). -/
def AlAgent.without (a : AlAgent) (team : Nat) : AlAgent :=
  match a with
  | .group _ _ x => if x = team then .nobody else a
  | _ => a

/-- Likewise a message, whose units go their way. -/
def AlBody.without (b : AlBody) (team : Nat) : AlBody :=
  match b with
  | .req r u => .req { r with agent := r.agent.without team } u
  | .give a n => .give (a.without team) n
  | .grant a r t c => .grant (a.without team) r t c
  | .giveReply a n => .giveReply (a.without team) n
  | .flush _ | .recall | .ack _ | .release _ => b

/-- The results that the groups of a team wait for go to nobody: a group of the team that is run again waits for its own only (R271, R338). -/
def State.forgetResults (s : State) (team : Nat) : State :=
  { s with
    msgs := s.msgs.map fun m => { m with body := m.body.without team }
    objs := s.objs.map fun o => { o with queue := o.queue.map fun r => { r with agent := r.agent.without team } } }

/-- A group of an uncommitted VERSIONED team restarts: the version is gone, the groups are dropped, and the team waits for
admission again with its TEAM value (R338). -/
def State.redispatch (s : State) (team : Nat) : State :=
  let s1 := s.modTeam team fun t =>
    { t with place := .waiting, fresh := true, bound := false, again := true, readmit := false, version := none, versionLines := []
             versionRels := [], points := [], macros := []
             units := [], gvA := [], haltSeen := false, diverted := false }
  let gone := fun (g : Group) => g.team == team
  let t := (s.teamOf team).getD Team.none
  let s2 : State :=
    { s1.forgetResults team with
              g := if gone s1.g then { s1.g with status := .absent } else s1.g
              others := s1.others.filter fun g => !gone g
              ops := s1.ops.filter fun o => o.team != team
              mem := { s1.mem with olds := s1.mem.olds.filter fun o => o.team != team } }
  s2.freeGlyphs t.ctx t.core

/-- A group stops for good (R97, R191 to R193): its incident, then the error state, or for the first two halts of an
uncommitted VERSIONED team its discard and re-dispatch (R338). -/
def State.halt (s : State) (i : Incident) : State :=
  let team := s.team
  let c := s.ctxId
  let s1 := s.report (i.ofCtx c)
  if team.version.isSome && team.redispatch < 2 then
    let s2 := s1.report ((({ IncCode.versionDiscarded.entry with detail := discardDetail 1 team.value }.byGroup s.g).ofCtx c).after s1.lastSeq)
    (s2.redispatch team.id).modTeam team.id fun t => { t with redispatch := t.redispatch + 1 }
  else
    let s2 := s1.errorState c
    let s3 := { s2 with g := { s2.g with status := .halted, glyph := none } }
    (s3.modTeam team.id fun t => { t with haltSeen := true }).modGrid team.grid fun x => { x with haltSeen := true }

/-- Taking a trap, as one step with nothing stored by the group (R191 to R193): the trap registers, MD at its reset value,
HND set, PC at the context's handler. A trap under HND halts the group with the trap registers of the first; without a
handler the group halts where it stands. -/
def State.takeTrap (s0 : State) (t : Trap) : State :=
  let s := State.reportAll t.incs s0
  if s.g.hnd then
    let i := { (IncCode.handlerTrap.entry.withVa t.addr).byGroup s.g with detail := trapDetail t.cause.code s.g.tpc }
    s.halt i
  else
    let g := s.g.recordTrap t
    if s.entry.handler = 0 then
      let i := { (IncCode.unhandledTrap.entry.withVa t.addr).byGroup s.g with
                 coord := t.mask, detail := trapDetail t.cause.code s.g.pc }
      { s with g := g }.halt i
    else
      { s with g := { g with md := 0x000C4100, hnd := true, pc := s.entry.handler, firstFetch := true } }

/-- A word as the program counter holds it: bits [1:0] and [63:55] are always 0 (R13). DESIGN CHOICE (log entry 84): R93, R94 and R194
check neither the word that RET pops nor TPC, and these bits of it are dropped. -/
def pcOf (x : Word) : Word := x &&& 0x007FFFFFFFFFFFFC

/-- Return from a trap (R194): MD from TMD, HND cleared, PC from TPC, and the step at which a GLYPH there goes on. -/
def State.eret (s : State) : State :=
  { s with g := { s.g with md := s.g.tmd.extractLsb' 0 32, hnd := false, pc := pcOf s.g.tpc, firstFetch := false
                           glyphResume := some (pcOf s.g.tpc, s.g.tstep.toNat) } }

/-! ### The end of an instruction -/

/-- What a group forgets when an instruction has completed: the answers it waited for. -/
def Group.settled (g : Group) : Group := { g with alReads := [], peerData := none, fetched := none, kept := [] }

/-- The instruction retires: the next word, or the next step of the glyph in progress, and after the last step the word
after the GLYPH (R111). -/
def Group.retire (g : Group) : Group :=
  match g.glyph with
  | none => { g.settled with pc := pcOf (g.pc + 4) }
  | some r =>
    if r.k + 1 < r.body.length then { g.settled with glyph := some { r with k := r.k + 1 } }
    else { g.settled with glyph := none, pc := pcOf (g.pc + 4) }

/-- The issuing group retires its instruction. -/
def State.retire (s : State) : State := { s with g := s.g.retire }

/-- A transfer of control: the program counter takes the target. No glyph step is a transfer (R110). -/
def State.jump (s : State) (target : Word) : State :=
  { s with g := { s.g.settled with pc := pcOf target, glyph := none } }

end Sys2Proof.Machine
end

