-- ==== Sys2Proof/Machine/Translate.lean ====
section
/-! DEFINITION. Translation through the page table (R322 to R325, R341, R242), the fault queue of a column (R329 to R331), and
how an instruction that does not complete ends. -/
namespace Sys2Proof.Machine
set_option Elab.async false

/-- The kinds of access of R330. -/
inductive Access where
  | read | write | exec | readWrite
  deriving DecidableEq, Repr

/-- The code of an access in a fault record (R330). -/
def Access.code : Access → Nat
  | .read => 0
  | .write => 1
  | .exec => 2
  | .readWrite => 3

/-- An access whose service covers another (R331). -/
def accessCovers (have' want : Nat) : Bool := have' == want || (have' == 3 && want < 2)

/-- Why a translation does not settle. -/
inductive XStop where
  /-- The first row of R324, found at a table level. -/
  | recoverable (level : Nat)
  /-- Any other row, with its cause and incidents. -/
  | fault (c : Cause) (incs : List Incident)
  /-- A scope mark refuses the read of an entry: it is made again (R262, R325). -/
  | retry
  deriving DecidableEq, Repr

/-- Who makes an access: its context and team, its column, its core if it has one, and whether it fetches (R325). -/
structure Agent where
  ctx : CtxId
  /-- The team it works for, or 0 (R312). -/
  team : Nat
  col : ColId
  core : Option CoreId
  fetch : Bool
  deriving DecidableEq, Repr

/-- What an entry of the page table says at its level (R323, R324). -/
inductive PteKind where
  | absent (fatal : Bool)
  | malformed
  | pointer (base : Nat)
  | page
  deriving DecidableEq, Repr

/-- The reading of an entry at a level (R322 to R324). -/
def pteKind (level : Nat) (e : Word) : PteKind :=
  let n := e.toNat
  if n % 2 = 0 then .absent (n / 2 % 2 = 1)
  else if n / 2 % 8 = 0 then
    if level ≥ 2 || field n 4 12 != 0 then .malformed else .pointer (field n 16 36 * 2 ^ 16)
  else
    let home := field n 5 3
    if field n 15 1 != 0 then .malformed
    else if e.getLsbD 2 && !e.getLsbD 1 then .malformed
    else if level = 0 then .malformed
    else if level = 1 && (1 < home || field n 16 13 != 0) then .malformed
    else if 2 ≤ home && home ≤ 4 && field n 29 15 != 0 then .malformed
    else if (home == 2 || home == 4) && 64 ≤ field n 44 8 then .malformed
    else .page

/-- The bits of an address that index an entry of a level, with every higher level's (R322). -/
def levelPage (level va : Nat) : Nat := va % 2 ^ 55 / 2 ^ (42 - 13 * level)

/-- The cached translations that an agent meets: its core's, then its column's (R325). -/
def State.tlbs (s : State) (a : Agent) : List TlbEntry :=
  (match a.core with
   | some c => if a.fetch then (s.cores.get c).fetchTlb else (s.cores.get c).dataTlb
   | none => []) ++ (s.cols.get a.col).stlb

/-- An entry found in a cache. -/
def cachedPte (l : List TlbEntry) (ctx : CtxId) (level va : Nat) : Option Word :=
  (l.find? fun e => e.ctx == ctx && e.level == level && e.page == levelPage level va).map (·.pte)

/-- The entry of a level: cached, or read by the column's walker at its place in memory with device-scope acquire, which a scope mark may refuse
(R262, R325), and which may be poisoned. -/
def State.readPte (s : State) (tlb : List TlbEntry) (ctx : CtxId) (col : ColId) (level va base : Nat) : Except XStop (Word × Nat) :=
  let pa := base + 8 * (levelPage level va % 2 ^ 13)
  match cachedPte tlb ctx level va with
  | some e => .ok (e, pa)
  | none =>
    if s.marked (.hostCore col) [pa / 128] then .error .retry
    else if s.mem.poisoned pa then
      .error (.fault .accessFault [((IncCode.ptePoisoned.entry.withPa pa).withVa (BitVec.ofNat 64 va)).ofCtx ctx])
    else .ok (BitVec.ofNat 64 (s.physNat pa 8), pa)

/-- A step of the walk: the page entry with its level, or the next table. -/
def State.walkStep (s : State) (tlb : List TlbEntry) (ctx : CtxId) (col : ColId) (level va base : Nat) :
    Except XStop (Sum (Word × Nat) Nat) :=
  match s.readPte tlb ctx col level va base with
  | .error x => .error x
  | .ok (e, pa) =>
    match pteKind level e with
    | .absent false => .error (.recoverable level)
    | .absent true => .error (.fault .accessFault [])
    | .malformed =>
      .error (.fault .accessFault [((IncCode.pteMalformed.entry.withPa pa).withVa (BitVec.ofNat 64 va)).ofCtx ctx])
    | .pointer b => .ok (.inr b)
    | .page => .ok (.inl (e, level))

/-- The page entry of an address and its level: a cached one, or the end of the walk (R322, R325). -/
def State.walk (s : State) (a : Agent) (va : Nat) : Except XStop (Word × Nat) :=
  let tlb := s.tlbs a
  let leaf := fun level => match cachedPte tlb a.ctx level va with
    | some e => if pteKind level e = .page then some e else none
    | none => none
  match leaf 2, leaf 1 with
  | some e, _ => .ok (e, 2)
  | none, some e => .ok (e, 1)
  | none, none =>
    match s.walkStep tlb a.ctx a.col 0 va (s.entryOf a.team a.ctx).ptroot.toNat with
    | .error x => .error x
    | .ok (.inl r) => .ok r
    | .ok (.inr b1) =>
      match s.walkStep tlb a.ctx a.col 1 va b1 with
      | .error x => .error x
      | .ok (.inl r) => .ok r
      | .ok (.inr b2) =>
        match s.walkStep tlb a.ctx a.col 2 va b2 with
        | .error x => .error x
        | .ok (.inl r) => .ok r
        | .ok (.inr _) => .error (.fault .accessFault [])

/-- The entry grants the access (R324). -/
def pteAllows (e : Word) : Access → Bool
  | .read => e.getLsbD 1
  | .write => e.getLsbD 2
  | .exec => e.getLsbD 3
  | .readWrite => e.getLsbD 1 && e.getLsbD 2

/-- The peer of a window address; `none` for a window that holds nothing (R367). -/
def State.windowPeer (s : State) (pa : Nat) : Option PeerId :=
  let k := pa / 2 ^ 40 - 2048
  if h : k < 1024 then (if k = s.dev.uaid.toNat then none else some ⟨k, h⟩) else none

/-- The site of a HOME 0 or HOME 1 frame (R341, R308, R367); `none` when the frame lies in a range marked Nothing. -/
def State.frameSite (s : State) (home pa : Nat) : Option Site :=
  if s.dev.isHbm pa then some (.mem pa)
  else if 0x8000000000000 ≤ pa && pa < 0xF000000000000 then (s.windowPeer pa).map fun k => .peer k pa
  else if home = 1 && 0xF000000000000 ≤ pa && pa < 0xF000000400000 then
    some (.signal ⟨(pa - 0xF000000000000) / 0x10000 % 64, Nat.mod_lt _ (by decide)⟩ (pa % 0x10000))
  else none

/-- Size of a column's slice scratch in bytes (R201). -/
def ColState.scratchBytes (c : ColState) : Nat := (16 - c.ways) * 2 ^ 20

/-- Translation of one part of an access, `len` bytes within one page (R324, R341, R242). -/
def State.translate (s : State) (a : Agent) (va len : Nat) (acc : Access) : Except XStop Xlat :=
  if 2 ^ 55 ≤ va then .error (.fault .accessFault []) else
  match s.walk a va with
  | .error x => .error x
  | .ok (e, level) =>
    let n := e.toNat
    let c := s.entryOf a.team a.ctx
    let key := field n 8 7
    let home := field n 5 3
    let denied : Except XStop Xlat := .error (.fault .accessFault [])
    let mk := fun site => ({ site, home, key, gen := BitVec.ofNat 12 (n / 2 ^ 52), promote := e.getLsbD 4 } : Xlat)
    if key < c.keyBase || c.keyBase + c.keyCount ≤ key then denied
    else if !pteAllows e acc then denied
    else if home ≤ 1 then
      let pa := if level = 1 then field n 29 23 * 2 ^ 29 + va % 2 ^ 29 else field n 16 36 * 2 ^ 16 + va % 2 ^ 16
      match s.frameSite home pa with
      | some site => .ok (mk site)
      | none => .error (.fault .accessFault
          [((IncCode.frameAbsent.entry.withVa (BitVec.ofNat 64 va)).withPa (pa / 2 ^ 16 * 2 ^ 16)).ofCtx a.ctx])
    else if 5 ≤ home then denied
    else if acc = .exec then denied
    else
      let off := field n 16 13 * 2 ^ 16
      let o := off + va % 2 ^ 16
      if home = 3 then
        let t : CoreId := ⟨field n 44 8 % 256, Nat.mod_lt _ (by decide)⟩
        if (s.cores.get t).pinwin * 4096 < o + len then denied else .ok (mk (.mem (pinLoc t o)))
      else
        let t : ColId := ⟨field n 44 8 % 64, Nat.mod_lt _ (by decide)⟩
        let col := s.cols.get t
        if home = 2 then
          if col.scratchBytes < off + 65536 then .error (.fault .sliceScratchAbsent [])
          else if col.grant != some a.ctx then denied
          else .ok (mk (.mem (sliceLoc t o)))
        else if col.fenced then .ok (mk (.lost (vaultLoc t o)))
        else .ok (mk (.mem (vaultLoc t o)))

/-! ### The fault queue -/

/-- The sources of a fault record (R330). -/
inductive FaultSource where
  | group (core : CoreId) (slot : SlotId) (pc : Word)
  | copy (core : CoreId) (slot : SlotId) (pc : Word)
  | port (record : Word)
  | journal (corr : Word32)
  deriving DecidableEq, Repr

/-- The 64 bytes of a fault record (R330). -/
def faultBytes (k : Nat) (va : Word) (ctx : CtxId) (acc level waiters : Nat) (src : FaultSource) : List Byte :=
  let (code, who, pc) := match src with
    | .group c sl pc => (0, c.val + 256 * sl.val, pc.toNat)
    | .copy c sl pc => (1, c.val + 256 * sl.val, pc.toNat)
    | .port r => (2, 0, r.toNat)
    | .journal r => (3, 0, r.toNat)
  leBytes 8 (k + 1) ++ leBytes 8 va.toNat ++ leBytes 1 ctx.val ++ leBytes 1 acc ++ leBytes 1 code ++ leBytes 1 level ++
  leBytes 4 who ++ leBytes 8 pc ++ leBytes 4 waiters ++ leBytes 4 0 ++ leBytes 24 0

/-- Room for another record in a column's fault queue (R331). -/
def ColState.fqRoom (c : ColState) : Bool := (c.fqTail - c.fqHead).toNat < 2 ^ c.fqLog.toNat

/-- The slot of a record in a fault queue (R330). -/
def ColState.fqSlot (c : ColState) (k : Nat) : Nat := c.fqBase.toNat * 64 + 64 * (k % 2 ^ c.fqLog.toNat)

/-- The slot that a fault is written in, or counted in, can be written now (R364, R370). -/
def State.fqOpen (s : State) (col : ColId) (k : Nat) : Bool := s.devOpen ((s.cols.get col).fqSlot k) 64

/-- A recoverable fault enters the queue of its column: it joins a record that covers it, or writes a new one and interrupts
the host core, or waits for room, or for what holds the slot's line back (R331 steps 1 and 2, R364, R370). -/
def State.raiseFault (s : State) (col : ColId) (src : FaultSource) (ctx : CtxId) (va : Word) (acc level : Nat) :
    KeptFault × State :=
  let c := s.cols.get col
  let page := va.toNat / 2 ^ 16
  let same := fun (r : FaultRec) => !r.done && r.ctx == ctx && r.page == page && accessCovers r.access acc && r.record.isSome
  match c.fq.find? same with
  | some r =>
    let w := satNat (r.waiters + 1) (2 ^ 32 - 1)
    let k := r.record.getD 0
    if !(s.fqOpen col k) then (⟨va, acc, level, none, false⟩, s.devKeep (c.fqSlot k) 64)
    else
    let s1 := s.modCol col fun x =>
      { x with fq := updWhere (fun y => y.record == r.record) (fun y => { y with waiters := w }) x.fq }
    (⟨va, acc, level, r.record, false⟩, s1.physWrite (c.fqSlot k + 0x20) (leBytes 4 w))
  | none =>
    if c.fqRoom && !(s.fqOpen col c.fqTail.toNat) then (⟨va, acc, level, none, false⟩, s.devKeep (c.fqSlot c.fqTail.toNat) 64)
    else if c.fqRoom then
      let k := c.fqTail.toNat
      let s1 := s.physWrite (c.fqSlot k) (faultBytes k va ctx acc level 1 src)
      (⟨va, acc, level, some k, false⟩, s1.modCol col fun x =>
        { x with fqTail := x.fqTail + 1, imsic := x.imsic ++ [2]
                 fq := x.fq ++ [⟨some k, ctx, page, acc, 1, false⟩] })
    else (⟨va, acc, level, none, false⟩, s)

/-- What becomes of a translation that does not settle: with the queue disabled a recoverable fault is an ACCESS_FAULT (R331). -/
def State.settleStop (s : State) (a : Agent) (va : Nat) (x : XStop) : XStop :=
  match x with
  | .fault _ _ | .retry => x
  | .recoverable _ =>
    if (s.cols.get a.col).fqLog = 0 then
      .fault .accessFault [((IncCode.faultQueueDisabled.entry.withVa (BitVec.ofNat 64 va)).ofCtx a.ctx).atCol a.col]
    else x

/-! ### How an instruction ends -/

/-- An instruction that does not complete. -/
inductive Stop where
  | trap (t : Trap)
  /-- Recoverable faults park the group (R89, R138): the access, and the address and level of each. -/
  | park (acc : Access) (faults : List (Word × Nat))
  /-- A blocking point with no effect so far (R233). -/
  | block (w : Wake)
  /-- Held at issue; the instruction issues again. -/
  | stall
  /-- Waits in a state that it has already changed. -/
  | wait (t : State)
  deriving DecidableEq, Repr

/-- The result of a meaning: a state with the instruction's effect, or how it stops. -/
abbrev Res := Except Stop State

/-- A trap without accompanying incidents. -/
def trap (c : Cause) (addr mask : Word) : Stop := .trap ⟨c, addr, mask, [], none⟩

/-- A trap whose TADDR is a number. -/
def trapN (c : Cause) (addr : Nat) : Stop := trap c (BitVec.ofNat 64 addr) 0

/-- The glyph in progress is left, to be entered again at its step (R112). -/
def Group.leaveGlyph (g : Group) : Group :=
  match g.glyph with
  | none => g
  | some r => { g with glyph := none, glyphResume := some (g.pc, r.k) }

/-- The issuing group at a blocking point. -/
def State.blockOn (s : State) (w : Wake) : State :=
  { s with g := { s.g.leaveGlyph with status := .blocked w } }

/-- The faults of the issuing group entered in the queue of its column, once for each page. -/
def State.raiseAll (acc : Access) : List Nat → List (Word × Nat) → State → List KeptFault × State
  | _, [], s => ([], s)
  | seen, (va, level) :: r, s =>
    if seen.contains (va.toNat / 2 ^ 16) then State.raiseAll acc seen r s
    else
      let (k, s1) := s.raiseFault s.colId (.group s.g.core s.g.slot s.g.pc) s.ctxId va acc.code level
      let (ks, s2) := State.raiseAll acc (va.toNat / 2 ^ 16 :: seen) r s1
      (k :: ks, s2)

/-- The issuing group parked on recoverable faults, which enter the fault queue of its column. -/
def State.parkOn (s : State) (acc : Access) (faults : List (Word × Nat)) : State :=
  let (ks, s1) := State.raiseAll acc [] faults s
  ({ s1 with g := { s1.g with kept := ks } }).blockOn .fault

/-- The issuing group held at issue. -/
def State.stallHere (s : State) : State := { s with g := { s.g with status := .stalled } }

/-- The end of an instruction: its effect, or its stop taken from the state before it. -/
def finish (s : State) (r : Res) : Host.Outcome State Fault Refusal :=
  .next <| match r with
    | .ok t => t
    | .error (.trap t) => s.takeTrap t
    | .error (.park acc faults) => s.parkOn acc faults
    | .error (.block w) => s.blockOn w
    | .error .stall => s.stallHere
    | .error (.wait t) => t

/-- An instruction whose effect is one function of the state. -/
def done (s : State) : Host.Outcome State Fault Refusal := .next s

/-- A condition that must hold, or the instruction stops. -/
def need (c : Bool) (x : Stop) : Except Stop Unit := if c then .ok () else .error x

/-- The agent of the issuing group. -/
def State.agent (s : State) (fetch : Bool) : Agent := ⟨s.ctxId, s.g.team, s.colId, some s.g.core, fetch⟩

/-- The records of a translation for a group name it (R382). -/
def XStop.byGroup (g : Group) : XStop → XStop
  | .fault c incs => .fault c (incs.map (·.byGroup g))
  | x => x

/-- A part of an access of the issuing group translated; a recoverable fault parks it, any other failure traps with the
address (R89, R94). The access whose fault was refused gets the outcome that is not recoverable, mapped or not (R331). A handler's first fetch is
never recoverable, and no matter of the fault queue (R192). -/
def State.groupXlat (s : State) (va len : Nat) (acc : Access) : Except XStop Xlat :=
  if s.g.kept.any fun k => k.refused && k.va.toNat / 2 ^ 16 == va / 2 ^ 16 && k.access == acc.code then .error (.fault .accessFault [])
  else match s.translate (s.agent (acc == .exec)) va len acc with
    | .ok x => .ok x
    | .error e => .error (if acc = .exec && s.g.firstFetch then e.byGroup s.g else (s.settleStop (s.agent (acc == .exec)) va e).byGroup s.g)

/-- The stop of a scalar access whose translation does not settle. -/
def xstop (va : Word) (acc : Access) : XStop → Stop
  | .recoverable level => .park acc [(va, level)]
  | .fault c incs => .trap ⟨c, va, 0, incs, none⟩
  | .retry => .stall

end Sys2Proof.Machine
end

