-- ==== Sys2Proof/Machine/Operands.lean ====
section
/-! DEFINITION. The operand checks that every instruction shares: spans and budgets (step 6 of R75, R19), element type (step 7,
R114), registers with an uncorrectable error (R197), and even registers (step 8, R16, R79). -/
namespace Sys2Proof.Machine
set_option Elab.async false

/-- A multi-register operand: its file, its first register, how many registers it covers, whether that register must be even,
and the lanes in which the instruction reads it. -/
structure Opnd where
  acc : Bool
  first : Nat
  count : Nat
  even : Bool
  reads : Word
  deriving DecidableEq, Repr

/-- MD.TYPE is f64 (R20). -/
def Group.wide (g : Group) : Bool := g.typeCode == 9

/-- A vector operand of an instruction whose operands take their size from MD.TYPE: a pair under f64 (R16). -/
def Group.vOp (g : Group) (r : VReg) (reads : Word) : Opnd := ⟨false, r.toNat, if g.wide then 2 else 1, g.wide, reads⟩

/-- A vector operand of a fixed number of registers. -/
def vSpan (r : VReg) (count : Nat) (even : Bool) (reads : Word) : Opnd := ⟨false, r.toNat, count, even, reads⟩

/-- An operand of `count` registers that R16 still makes even under f64. -/
def Group.vSpanE (g : Group) (r : VReg) (count : Nat) (even : Bool) (reads : Word) : Opnd :=
  ⟨false, r.toNat, if g.wide then Nat.max 2 count else count, even || g.wide, reads⟩

/-- The 16 accumulators of a quarter (R65). -/
def quarterOp (q : BitVec 2) : Opnd := ⟨true, 16 * q.toNat, 16, false, 0⟩

/-- The number of registers of an operand's file (R13). -/
def Opnd.file (o : Opnd) : Nat := if o.acc then 64 else 128

/-- The span check of R19, in the order of the fields. -/
def spanCheck : List Opnd → Except Stop Unit
  | [] => .ok ()
  | o :: r => if o.file < o.first + o.count then .error (trapN .illegalOperand o.first) else spanCheck r

/-- The lowest register of an operand at or above a budget. -/
def Opnd.over (budget : Nat) (o : Opnd) : Option Nat :=
  if budget < o.first + o.count then some (Nat.max o.first budget) else none

/-- The lowest register of a file that some operand uses at or above its budget. -/
def lowestOver (acc : Bool) (budget : Nat) (ops : List Opnd) : Option Nat :=
  leastNat ((ops.filter fun o => o.acc == acc).filterMap (Opnd.over budget))

/-- The budget check of R19: the vector file is reported first. -/
def Group.budgetCheck (g : Group) (ops : List Opnd) : Except Stop Unit :=
  match lowestOver false g.vBud ops, lowestOver true g.aBud ops with
  | some i, _ => .error (trapN .regBudget i)
  | none, some i => .error (trapN .regBudget (256 + i))
  | none, none => .ok ()

/-- Step 6 of R75. -/
def Group.step6 (g : Group) (ops : List Opnd) : Except Stop Unit := do
  spanCheck ops
  g.budgetCheck ops

/-- Step 7 of R75, with the TADDR of R114. -/
def Group.step7 (g : Group) (accepts : Nat → Bool) : Except Stop Unit :=
  need (accepts g.typeCode) (trapN .illegalType (7 * 2 ^ 32 + g.typeCode))

/-- The even-register rule of step 8 (R16, R79), in the order of the fields. -/
def evenCheck : List Opnd → Except Stop Unit
  | [] => .ok ()
  | o :: r => if o.even && o.first % 2 == 1 then .error (trapN .illegalOperand o.first) else evenCheck r

/-- An uncorrectable error lies in what an instruction reads: the lanes concerned (R197). No trap arises from a lane of a predicate outside
LIVE (R27). -/
def BadReg.hit (live : Word) (ops : List Opnd) (ss : List SReg) (ps : List PReg) (b : BadReg) : Option Word :=
  if b.file = 0 then
    let m := (ops.filter fun o => !o.acc && o.first ≤ b.index && b.index < o.first + o.count).foldl (fun m o => m ||| o.reads) 0
    if b.lanes &&& m = 0 then none else some (b.lanes &&& m)
  else if b.file = 2 then
    if ss.any fun r => r ≠ 0 && r.toNat == b.index then some 0 else none
  else if b.file = 3 then
    if b.lanes &&& live ≠ 0 && ps.any fun r => r ≠ 0 && r.toNat == b.index then some (b.lanes &&& live) else none
  else none

/-- The errors that an instruction meets: number of the register, 256·file + index, and the lanes concerned. -/
def poisonHits (live : Word) (ops : List Opnd) (ss : List SReg) (ps : List PReg) (bad : List BadReg) : List (Nat × Word) :=
  bad.filterMap fun b => (b.hit live ops ss ps).map fun m => (256 * b.file + b.index, m)

/-- The REGISTER_POISONED trap of a register and its incident (R190, R197, R390). -/
def Group.poisonStop (g : Group) (register : Nat) (lanes : Word) (ctx : CtxId) : Stop :=
  let addr := BitVec.ofNat 64 register
  .trap ⟨.registerPoisoned, addr, lanes,
    [{ (IncCode.registerPoisoned.entry.byGroup g).ofCtx ctx with
       va := addr, coord := lanes, detail := trapDetail Cause.registerPoisoned.code g.pc }], none⟩

/-- No register that the instruction reads holds an uncorrectable error (R197); of several the lowest is reported, with every lane that
failed (R190, log entry 46). -/
def State.sound (s : State) (ops : List Opnd) (ss : List SReg) (ps : List PReg) : Except Stop Unit :=
  let hits := poisonHits s.g.live ops ss ps s.g.bad
  match leastNat (hits.map (·.1)) with
  | none => .ok ()
  | some r => .error (s.g.poisonStop r ((hits.filter fun h => h.1 == r).foldl (fun m h => m ||| h.2) 0) s.ctxId)

/-- Steps 6 and 7, the soundness of what is read, and the even registers of step 8. DESIGN CHOICE (log entry 46): R75 gives
REGISTER_POISONED no step; it is found after step 7 and before the even-register rule. -/
def State.operands (s : State) (ops : List Opnd) (accepts : Nat → Bool) (ss : List SReg) (ps : List PReg) :
    Except Stop Unit := do
  s.g.step6 ops
  s.g.step7 accepts
  s.sound ops ss ps
  evenCheck ops

/-- The checks of a memory instruction, whose registers under the checks of R19 and R16 are more than those it reads (R136): with an empty
Active steps 1 to 7 of R75 alone apply, and the even registers of step 8 are not looked at (R139, R153). -/
def State.operandsOf (s : State) (m : Word) (named read : List Opnd) (accepts : Nat → Bool) (ss : List SReg) (ps : List PReg) :
    Except Stop Unit := do
  s.g.step6 named
  s.g.step7 accepts
  s.sound read ss ps
  if m = 0 then .ok () else evenCheck named

/-- Every TYPE is accepted. -/
def anyType (_ : Nat) : Bool := true

/-- The integer TYPEs of R114. -/
def intType (t : Nat) : Bool := t ≤ 5

/-- The float TYPEs of R114. -/
def floatType (t : Nat) : Bool := 6 ≤ t && t ≤ 9

/-- The state with a changed group, retired. -/
def State.retireWith (s : State) (g : Group) : State := { s with g := g.retire }

end Sys2Proof.Machine
end

