-- ==== Sys2Proof/Machine/Flags.lean ====
section
/-! DEFINITION. Lane-wise computation (R113, R115): elements of a lane, the results and flags of the Active lanes, and the shapes
that the vector instructions share. -/
namespace Sys2Proof.Machine
set_option Elab.async false

/-- The bits of a lane of an operand: the lane word, or the pair under f64 (R16). -/
def Group.raw (g : Group) (r : VReg) (L : Nat) : Nat :=
  if g.wide then (g.lane64 r.toNat L).toNat else (g.lane r.toNat L).toNat

/-- A destination written in the lanes of a mask. -/
def Group.setRaw (g : Group) (r : VReg) (mask : Word) (f : Nat → Nat) : Group :=
  if g.wide then g.setV64 r.toNat mask (fun L => BitVec.ofNat 64 (f L)) else g.setV r.toNat mask fun L => BitVec.ofNat 32 (f L)

/-- The IEEE format of a float TYPE; f32 for the others. -/
def fmtOf (t : EType) : Fmt :=
  match elemOf t with
  | .ieee F => F
  | _ => f32

/-- The flags of the lanes of a mask together (R24). -/
def laneFlags (mask : Word) (f : Nat → Flags) : Flags := (lanesOf mask).foldl (fun acc L => acc ||| f L) 0

/-- A destination computed lane by lane in the lanes of a mask, with the flags of those lanes (R113). -/
def Group.compute (g : Group) (d : VReg) (mask : Word) (f : Nat → Nat × Flags) : Group :=
  let rs := tab 64 fun L => if bit mask L then f L else (0, 0)
  (g.setRaw d mask fun L => (atD rs L (0, 0)).1).orFlags (laneFlags mask fun L => (atD rs L (0, 0)).2)

/-- A lane-wise instruction of one destination and the given source registers (R113): steps 6 to 8, then its effect. -/
def lanewiseWith (s : State) (G : Guard) (d : VReg) (readsD : Bool) (srcs : List VReg) (ss : List SReg) (ps : List PReg)
    (accepts : Nat → Bool) (f : EType → Nat → Nat × Flags) : Host.Outcome State Fault Refusal :=
  finish s do
    let m := s.g.active G
    s.operands (s.g.vOp d (if readsD then m else 0) :: srcs.map fun r => s.g.vOp r m) accepts ss (s.g.guardIdx G :: ps)
    .ok (s.retireWith (s.g.compute d m (f s.g.ety)))

/-- A lane-wise instruction whose sources are vector registers. -/
def lanewise (s : State) (G : Guard) (d : VReg) (readsD : Bool) (srcs : List VReg) (accepts : Nat → Bool)
    (f : EType → Nat → Nat × Flags) : Host.Outcome State Fault Refusal :=
  lanewiseWith s G d readsD srcs [] [] accepts f

/-- An element operation on one source (R115). -/
def elemwise1 (s : State) (G : Guard) (d a : VReg) (accepts : Nat → Bool) (f : EType → Nat → Nat × Flags) :
    Host.Outcome State Fault Refusal :=
  lanewise s G d false [a] accepts fun t L => perElem t fun j => f t (elemAt t (s.g.raw a L) j)

/-- An element operation on two sources. -/
def elemwise2 (s : State) (G : Guard) (d a b : VReg) (accepts : Nat → Bool) (f : EType → Nat → Nat → Nat × Flags) :
    Host.Outcome State Fault Refusal :=
  lanewise s G d false [a, b] accepts fun t L =>
    perElem t fun j => f t (elemAt t (s.g.raw a L) j) (elemAt t (s.g.raw b L) j)

/-- An element operation on two sources and the old destination. -/
def elemwise3 (s : State) (G : Guard) (d a b : VReg) (accepts : Nat → Bool) (f : EType → Nat → Nat → Nat → Nat × Flags) :
    Host.Outcome State Fault Refusal :=
  lanewise s G d true [a, b] accepts fun t L =>
    perElem t fun j => f t (elemAt t (s.g.raw a L) j) (elemAt t (s.g.raw b L) j) (elemAt t (s.g.raw d L) j)

/-- The registers of a span written in the lanes of a mask: word r of lane L is bits [32r+31:32r] of f L. -/
def Group.setSpan (g : Group) (first : Nat) (mask : Word) (f : Nat → Nat) : Nat → Group
  | 0 => g
  | k + 1 => (g.setSpan first mask f k).setV (first + k) mask fun L => BitVec.ofNat 32 (f L / 2 ^ (32 * k))

/-- The words of a span in one lane, the first lowest. -/
def Group.spanLane (g : Group) (first L : Nat) : Nat → Nat
  | 0 => 0
  | k + 1 => g.spanLane first L k + (g.lane (first + k) L).toNat * 2 ^ (32 * k)

end Sys2Proof.Machine
end

