-- ==== Sys2Proof/Machine/Port.lean ====
section
/-! DEFINITION. Launch-signal lines (R219, R220, R222) and the allowance table of a column (R269 to R272): what an access or an
instruction does to them at once. -/
namespace Sys2Proof.Machine
set_option Elab.async false

/-- Entries of a line's own, and reservation entries, that are occupied (R219). -/
def LaunchLine.queued (l : LaunchLine) : Nat := (l.queue.filter fun e => e.reserved.isNone).length
def LaunchLine.rsvheld (l : LaunchLine) : Nat := (l.queue.filter fun e => e.reserved.isSome).length

/-- Word 0x08 of a line (R219). -/
def LaunchLine.word8 (l : LaunchLine) : Word :=
  BitVec.ofNat 64 (l.rejected.toNat * 2 ^ 32 + l.dropped.toNat * 2 ^ 16 + l.rsvheld * 2 ^ 7 + l.queued)

/-- One line changed. -/
def State.modLine (s : State) (c : ColId) (l : LineId) (f : LaunchLine → LaunchLine) : State :=
  s.modCol c fun x => { x with lines := x.lines.set l.val (f (x.lines.get l)) l.isLt }

/-- A byte of a launch-signal frame as a read sees it (R219): word 0x00 is write only. -/
def ColState.signalByte (c : ColState) (off : Nat) : Byte :=
  if h : off / 128 < 8 then
    let o := off % 128
    if 8 ≤ o && o < 16 then (leBytes 8 (c.lines.get ⟨off / 128, h⟩).word8.toNat).getD (o - 8) 0 else 0
  else 0

/-- A refused store: counted, with its incident (R220), which carries the CORR of the command that made it (R387). -/
def State.dropLaunch (s : State) (ctx : CtxId) (c : ColId) (l : LineId) (value : Word) (corr : Word32 := 0) : State :=
  (s.modLine c l fun x => { x with dropped := x.dropped + 1 }).report
    { ((IncCode.launchDropped.entry.atCol c).byEngine 8).ofCtx ctx with
      port := l.val, detail := value, corr := corr }

/-- A record address that may stand in word 0x00 (R219). -/
def recordAddr (value : Word) : Bool := value.toNat < 2 ^ 55 && value.toNat % 256 == 0

/-- An address queued at a line, under a fresh number. -/
def State.pushEntry (s : State) (c : ColId) (l : LineId) (record : Word) (ctx : CtxId) (depth : Nat) (parent reserved : Option Nat) :
    State :=
  ({ s with fresh := s.fresh + 1 } : State).modLine c l fun x => { x with
    queue := x.queue ++ [⟨s.fresh, record, ctx, depth, parent, reserved, none, none, []⟩] }

/-- A store to a launch-signal frame (R219, R220): one that lies in words other than 0x00 is ignored, one to word 0x00 is refused, or its
address queued. -/
def State.signalStore (s : State) (ctx : CtxId) (c : ColId) (off size : Nat) (value : Word) (corr : Word32 := 0) : State :=
  if h : off / 128 < 8 then
    let l : LineId := ⟨off / 128, h⟩
    if 8 ≤ off % 128 then s
    else if size ≠ 8 || off % 128 != 0 || !(recordAddr value) || 64 ≤ ((s.cols.get c).lines.get l).queued then
      s.dropLaunch ctx c l value corr
    else s.pushEntry c l value ctx 1 none none
  else s

/-! ### Allowance tables -/

/-- The object of a line, if one is registered. -/
def State.objOf (s : State) (obj : Nat) : Option AlObject := s.objs.find? fun o => o.obj == obj

/-- The home column of an object (R269). -/
def objHome (obj : Nat) : ColId := homeColumn (128 * obj)

/-- A message sent (R271). -/
def State.sendAl (s : State) (src dst : ColId) (obj : Nat) (body : AlBody) : State :=
  { s with msgs := s.msgs ++ [⟨src, dst, obj, body⟩] }

/-- The entry of an object in a column's table. -/
def ColState.alEntry (c : ColState) (obj : Nat) : Option AlEntry := c.alTable.find? fun e => e.obj == obj

/-- An entry changed and made the most recently used. -/
def ColState.setEntry (c : ColState) (e : AlEntry) : ColState :=
  { c with alTable := e :: c.alTable.filter fun x => x.obj != e.obj }

/-- The least recently used entry in state HOLD. -/
def ColState.lruHold (c : ColState) : Option AlEntry := c.alTable.reverse.find? fun e => !e.recalled

/-- An entry for an object: the one there is, or a new one, evicting the least recently used in state HOLD (R270); none while a round goes on
that the column has acknowledged without one (R273). -/
def State.needEntry (s : State) (c : ColId) (obj : Nat) : Option AlEntry × State :=
  let col := s.cols.get c
  match col.alEntry obj with
  | some e => (some e, s)
  | none =>
    if col.alRounds.contains obj then (none, s) else
    let fresh : AlEntry := ⟨obj, 0, false⟩
    if col.alTable.length < 1024 then (some fresh, s.modCol c fun x => x.setEntry fresh)
    else match col.lruHold with
      | none => (none, s)
      | some old =>
        let s1 := s.modCol c fun x => { x with alTable := x.alTable.filter fun y => y.obj != old.obj }
        (some fresh, (s1.sendAl c (objHome old.obj) old.obj (.flush old.units)).modCol c fun x => x.setEntry fresh)

/-- A request sent with every unit the column holds (R271, R272). -/
def State.sendReq (s : State) (c : ColId) (agent : AlAgent) (obj : Nat) (kind : AlKind) : State :=
  match (s.cols.get c).alEntry obj with
  | some e => (s.modCol c fun x => x.setEntry { e with units := 0 }).sendAl c (objHome obj) obj (.req ⟨c, agent, kind⟩ e.units)
  | none => s.sendAl c (objHome obj) obj (.req ⟨c, agent, kind⟩ 0)

/-- The issuing group stalls for the result of a request (R157). -/
def State.alWaits (s : State) (obj : Nat) (va : Word) (kind : AlKind) (w : AlWait) : State :=
  let s1 := s.sendReq s.colId (.group s.g.core s.g.slot s.g.team) obj kind
  { s1 with g := { s1.g with status := .allowance obj va w } }

end Sys2Proof.Machine
end

