-- ==== Sys2Proof/Machine/Access.lean ====
section
/-! DEFINITION. Accesses of a group to memory: parts and their translation (R89, R138), caches and buffers between a core and
the homes (R152, R239, R248, R251), stores and their failures (R196, R354, R370), scopes, releases and acquires (R155, R256 to
R263), and versions (R267, R337). -/
namespace Sys2Proof.Machine
set_option Elab.async false

/-- The pieces of a lane access, not translated: lane, address, length, place. -/
def laneCuts (lane va len : Nat) : List (Nat × Nat × Nat × Nat) :=
  let first := 65536 - va % 65536
  if len ≤ first then [(lane, va, len, 0)] else [(lane, va, first, 0), (lane, va + first, len - first, first)]

/-- The lane mask of a trap: none for a scalar access. -/
def trapLanes (scalar : Bool) (lanes : List Nat) : Word := if scalar then 0 else maskOf fun L => lanes.contains L

/-- A piece in the vault of a fenced column (R242). -/
def Xlat.isLost (x : Xlat) : Bool :=
  match x.site with
  | .lost _ => true
  | _ => false

/-- Every piece translated (step 2 of R138): a failure that is not recoverable traps, recoverable ones alone park. Beside a piece in the vault of a
fenced column, whose outcome is not recoverable either (R242, R324), recoverable ones are dropped: a load then traps over it, and of a store
the pieces that are mapped are stored (DEDUCED, log entry 117). DESIGN CHOICE (log entry 111): a piece that fails reports its first address, also
where only bytes beyond the end of a HOME 3 window fail. -/
def State.xlatParts (s : State) (acc : Access) (scalar : Bool) (cuts : List (Nat × Nat × Nat × Nat)) :
    Except Stop (List Part) :=
  let rs := cuts.map fun c => (c, s.groupXlat c.2.1 c.2.2.1 acc)
  let fatal := rs.filterMap fun r => match r.2 with
    | .error (.fault c incs) => some (r.1, c, incs)
    | _ => none
  match fatal with
  | (c, cause, incs) :: _ =>
    .error (.trap ⟨cause, BitVec.ofNat 64 c.2.1, trapLanes scalar (fatal.map fun f => f.1.1), incs, none⟩)
  | [] =>
    let waits := rs.filterMap fun r => match r.2 with
      | .error (.recoverable level) => some (BitVec.ofNat 64 r.1.2.1, level)
      | _ => none
    let good : List Part := rs.filterMap fun r => match r.2 with
      | .ok x => some ⟨r.1.1, r.1.2.1, r.1.2.2.1, r.1.2.2.2, x⟩
      | .error _ => none
    if rs.any fun r => match r.2 with
      | .error .retry => true
      | _ => false then .error .stall
    else if waits.isEmpty || good.any (·.x.isLost) then .ok good
    else .error (.park acc waits)

/-- The location of a part, if it has one. -/
def Part.loc (p : Part) : Option Nat :=
  match p.x.site with
  | .mem loc => some loc
  | _ => none

/-- The physical or aperture address of a part (R341, R382). -/
def Part.place (p : Part) : Nat :=
  match p.x.site with
  | .mem loc | .lost loc => loc
  | .peer _ pa => pa
  | .signal c off => 0xF000000000000 + 0x10000 * c.val + off

/-- The 128-byte lines that a part touches. -/
def Part.lines (p : Part) : List Nat :=
  match p.x.site with
  | .mem loc => if loc / 128 = (loc + p.len - 1) / 128 then [loc / 128] else [loc / 128, (loc + p.len - 1) / 128]
  | _ => []

/-- The registered objects whose lines a part touches (R89, R138). -/
def State.partObjs (s : State) (p : Part) : List Nat :=
  if p.x.home ≤ 1 then p.lines.filter fun l => (s.objOf l).isSome else []

/-- The first of them. -/
def State.partObj (s : State) (p : Part) : Option Nat := (s.partObjs p).head?

/-! ### Stores at their homes -/

/-- The group of an access, where it stands. -/
def State.originGroup (s : State) (o : Origin) : Option Group := s.groups.find? fun g => g.team == o.team && g.index == o.index

/-- An incident of an access of a group names it (R382), or its core where the group has gone; an agent outside the cores has none. -/
def Incident.byOrigin (i : Incident) (s : State) (o : Origin) : Incident :=
  let j := i.ofCtx o.ctx
  match s.originGroup o with
  | some g => j.byGroup g
  | none => if o.team = 0 then j else { (j.atCol (coreCol o.core)).byEngine 1 with core := o.core.val }

/-- A store that fails after it has retired (R196): its incident, the error state, and the mark on its group, wherever it now is, with
the first failing address. -/
def State.failStore (s : State) (code : IncCode) (o : Origin) (va : Word) (pa : Nat) : State :=
  let s1 := (s.report (((code.entry.withVa va).withPa pa).byOrigin s o)).errorState o.ctx
  let mine := fun (g : Group) => g.team == o.team && g.index == o.index
  let mark := fun (g : Group) => { g with imprecise := some (g.imprecise.getD va) }
  (s1.modGroups mine mark).modTeam o.team fun t => { t with groups := updWhere mine mark t.groups }

/-- Who writes, and under which translation: the group, the virtual address, the key slot and the home of the page. -/
structure Writer where
  who : Origin
  va : Word
  key : Nat
  home : Nat
  deriving DecidableEq, Repr

/-- A key slot by number. -/
def State.keySlot (s : State) (key : Nat) : KeySlot := atD s.keys key KeySlot.plaintext

/-- A release write recorded in its bytes (R263). -/
def State.noteRelease (s : State) (by' : Option Party) (loc len : Nat) : State :=
  match by' with
  | none => s
  | some p => { s with mem := { s.mem with releasers := tabList (fun a => (a, p)) loc len ++ s.mem.releasers } }

/-- A run stored where its home says: a line of HOME 0 in the slice of a column, anything else past every cache (R240, R241, R363). -/
def State.storeHome (s : State) (col : ColId) (w : Writer) (loc : Nat) (bs : List Byte) : State :=
  if w.home = 0 && s.dev.isHbm loc then s.storeLine col false (s.keySlot w.key) loc bs
  else s.storeRunBy (if w.who.team = 0 then none else some w.who) (s.keySlot w.key) loc bs

/-- A run performed at its home, by the slice of a column where a slice performs it: each poisoned granule that it does not cover whole
fails it, at its first byte there (R196, R354). -/
def State.performAt (s : State) (col : ColId) (w : Writer) (by' : Option Party) (loc : Nat) (bs : List Byte) : State :=
  (s.mem.failsAt loc bs.length).foldl (fun (t : State) a => t.failStore .sectorPoisoned w.who (w.va + BitVec.ofNat 64 (a - loc)) a)
    ((s.storeHome col w loc bs).noteRelease by' loc bs.length)

/-- A run performed at its home, by the slice of its writer's column where a slice performs it. -/
def State.performWrite (s : State) (w : Writer) (by' : Option Party) (loc : Nat) (bs : List Byte) : State :=
  s.performAt (coreCol w.who.core) w by' loc bs

/-- What a held write keeps beside its bytes. -/
structure HeldAs where
  shared : Bool
  sc : Bool
  party : Option Party
  tag : Option WriteTag
  deriving DecidableEq, Repr

/-- A plain write that only its own group has seen. -/
def HeldAs.plain : HeldAs := ⟨false, false, none, none⟩

/-- A run written at its home, or held there (R370). -/
def State.writeHomeAs (s : State) (w : Writer) (a : HeldAs) (loc : Nat) (bs : List Byte) : State :=
  match s.holdOf (loc / 128) with
  | none => s.performWrite w a.party loc bs
  | some (due, host) => s.hold ⟨loc, w.key, w.home, bs, none, due, host, some w.who, a.shared, w.va, a.sc, a.party, a.tag⟩

/-- The writes to HBM from an identifier on, a copy's, are waited for by no release (R155). -/
def State.disown (s : State) (first : Nat) : State :=
  { s with mem := { s.mem with writes := updWhere (fun w => first ≤ w.id) (fun w => { w with who := none }) s.mem.writes } }

/-- A plain run written at its home, or held there. -/
def State.writeHome (s : State) (w : Writer) (loc : Nat) (bs : List Byte) : State := s.writeHomeAs w .plain loc bs

/-- A byte of a held write that its reader has seen already: its own group's, or its core's where the L1 held it (R137, R254). -/
def State.heldByte (s : State) (o : Origin) (a : Nat) : Option Byte :=
  ((s.links.held.filter fun h => h.loc ≤ a && a < h.loc + h.bytes.length && (match h.who with
    | some w => (h.shared && w.core == o.core) || (w.team == o.team && w.index == o.index)
    | none => false)).getLast?).map fun h => h.bytes.getD (a - h.loc) 0

/-! ### The L1 -/

/-- A byte of an L1 line put in its place. -/
def l1Put : List L1Byte → L1Byte → List L1Byte
  | [], b => [b]
  | c :: r, b => if b.off < c.off then b :: c :: r else if b.off = c.off then b :: r else c :: l1Put r b

/-- A run of dirty bytes of one writer: offset, bytes, the writer with the virtual address of its line, the agent of a release write. -/
structure DirtyRun where
  off : Nat
  bytes : List Byte
  who : Origin
  va : Nat
  rel : Option Party
  deriving DecidableEq, Repr

/-- The dirty bytes of a line as runs of one writer (R196). -/
def dirtyRuns : List L1Byte → List DirtyRun
  | [] => []
  | b :: r =>
    match b.by' with
    | none => dirtyRuns r
    | some (who, va) =>
      match dirtyRuns r with
      | x :: rest =>
        if x.off = b.off + 1 ∧ x.rel = b.rel ∧ x.who = who ∧ x.va = va then { x with off := b.off, bytes := b.val :: x.bytes } :: rest
        else ⟨b.off, [b.val], who, va, b.rel⟩ :: x :: rest
      | [] => [⟨b.off, [b.val], who, va, b.rel⟩]

/-- The poisoned sectors of a line that its dirty bytes cover whole, by number in the line (R354). -/
def L1Line.wholeSectors (l : L1Line) (m : Memory) : List Nat :=
  (List.range 4).filter fun k => m.sectorPoisoned (128 * l.line + 32 * k) && (l.bytes.filter fun b => b.dirty && b.off / 32 == k).length == 32

/-- Such a sector as one run, whoever has written its bytes: it replaces the poisoned one (R354). -/
def L1Line.wholeRun (l : L1Line) (k : Nat) : List DirtyRun :=
  let bs := l.bytes.filter fun b => b.off / 32 == k
  match bs.findSome? (·.by') with
  | some (who, va) => [⟨32 * k, bs.map (·.val), who, va, bs.findSome? (·.rel)⟩]
  | none => []

/-- The runs in which the dirty bytes of a line go to the slice (R196, R354). -/
def L1Line.runs (l : L1Line) (m : Memory) : List DirtyRun :=
  let whole := l.wholeSectors m
  (whole.map l.wholeRun).flatten ++ dirtyRuns (l.bytes.filter fun b => !(whole.contains (b.off / 32)))

/-- The dirty bytes of a line of a core written to the slice (R155, R203). -/
def State.cleanLine (s : State) (l : L1Line) : State :=
  (l.runs s.mem).foldl (fun (t : State) x =>
    t.writeHomeAs ⟨x.who, BitVec.ofNat 64 (x.va + x.off), l.key, 0⟩ ⟨true, false, x.rel, none⟩ (128 * l.line + x.off) x.bytes) s

/-- A line with every byte clean. -/
def L1Line.cleaned (l : L1Line) : L1Line := { l with bytes := l.bytes.map fun b => { b with by' := none } }

/-- The lines of a core that satisfy a test cleaned; they stay, clean. -/
def State.cleanWhere (s : State) (core : CoreId) (p : L1Line → Bool) : State :=
  let s1 := ((s.cores.get core).l1.filter p).foldl State.cleanLine s
  s1.modCore core fun c => { c with l1 := updWhere p L1Line.cleaned c.l1 }

/-- Every dirty line of a core cleaned; the lines stay, clean. -/
def State.cleanL1 (s : State) (core : CoreId) : State := s.cleanWhere core fun _ => true

/-- A line of a core cleaned, and dropped. -/
def State.cleanDrop (s : State) (core : CoreId) (line : Nat) : State :=
  if (s.cores.get core).l1.any fun l => l.line == line then
    let s1 := ((s.cores.get core).l1.filter fun l => l.line == line).foldl State.cleanLine s
    s1.modCore core fun c => { c with l1 := c.l1.filter fun l => l.line != line }
  else s

/-- Clean bytes of every line of a core dropped (R155). -/
def State.dropClean (s : State) (core : CoreId) : State :=
  s.modCore core fun c => { c with
    l1 := (c.l1.map fun l => { l with bytes := l.bytes.filter (·.dirty) }).filter fun l => !l.bytes.isEmpty }

/-- The set of an L1, of 256, that a line falls in: 2,048 lines in 8 ways (R237). DESIGN CHOICE (log entry 88): the spec gives no index. -/
def l1Set (line : Nat) : Nat := line % 256

/-- A line put into an L1, the most recently used; an overfull set of 8 ways gives up its least recently used line (R239). -/
def State.l1Keep (s : State) (core : CoreId) (l : L1Line) : State :=
  let s1 := s.modCore core fun c => { c with l1 := l :: c.l1.filter fun x => x.line != l.line }
  let mine := (s1.cores.get core).l1.filter fun x => l1Set x.line == l1Set l.line
  if mine.length ≤ 8 then s1
  else match mine.getLast? with
    | some x => s1.cleanDrop core x.line
    | none => s1

/-- A line of a core under another key slot cleaned and dropped. -/
def State.l1Rekey (s : State) (core : CoreId) (line key : Nat) : State :=
  if (s.cores.get core).l1.any fun l => l.line == line && l.key != key then s.cleanDrop core line else s

/-- The line of a core's L1, or an empty one of a writer. -/
def CoreState.l1Line (c : CoreState) (w : Writer) (loc : Nat) : L1Line :=
  (c.l1.find? fun l => l.line == loc / 128).getD ⟨loc / 128, w.key, [], []⟩

/-- A line reached through one more translation (R327). -/
def L1Line.tagged (l : L1Line) (w : Writer) (loc : Nat) : L1Line :=
  let tag := (w.who.ctx, w.va.toNat - loc % 128)
  if l.tags.contains tag then l else { l with tags := tag :: l.tags }

/-- Bytes of one line written into the L1, which allocates (R239). -/
def State.l1Write (s : State) (w : Writer) (rel : Option Party) (loc : Nat) (bs : List Byte) : State :=
  let s1 := s.l1Rekey w.who.core (loc / 128) w.key
  let old := (s1.cores.get w.who.core).l1Line w loc
  let news := tabList (fun i => (⟨loc % 128 + i, bs.getD i 0, some (w.who, w.va.toNat - loc % 128), rel⟩ : L1Byte)) 0 bs.length
  s1.l1Keep w.who.core ({ old with bytes := news.foldl l1Put old.bytes }.tagged w loc)

/-- A byte that the L1 of a core holds. -/
def CoreState.l1At (c : CoreState) (key a : Nat) : Option L1Byte :=
  (c.l1.find? fun l => l.line == a / 128 && l.key == key).bind fun l => l.bytes.find? fun b => b.off == a % 128

/-- Its value. -/
def CoreState.l1Byte (c : CoreState) (key a : Nat) : Option Byte := (c.l1At key a).map (·.val)

/-! ### Reductions on their way to memory -/

/-- The predictor of a line (R250). -/
def Memory.predictor (m : Memory) (line : Nat) : Predictor :=
  (m.predictors.find? fun p => p.line == line).getD ⟨line, 0, 0, none, []⟩

/-- The writer of a partial. -/
def CombEntry.writer (e : CombEntry) : Writer := ⟨e.who, e.va, e.key, e.home⟩

/-- The slice that performs a reduction at a HOME 0 line: the near one in states 0 and 1 of the predictor, else the home (R249, R250). -/
def State.reduceCol (s : State) (e : CombEntry) : ColId :=
  if 2 ≤ (s.mem.predictor (e.loc / 128)).state.toNat then homeColumn e.loc else coreCol e.who.core

/-- A partial joined with the word in memory (R148, R251); where it fails, it fails for every group that has a part in it (R196). -/
def State.reduceNow (s : State) (e : CombEntry) : State :=
  let old := leNat (tabList (s.mem.plain (s.keySlot e.key)) e.loc e.size)
  let t := s.performAt (s.reduceCol e) e.writer none e.loc (leBytes e.size (aopApply e.scalar e.type e.op old e.val.toNat))
  match s.mem.failAt e.loc e.size with
  | some a => e.more.foldl (fun (u : State) o => u.failStore .sectorPoisoned o (e.va + BitVec.ofNat 64 (a - e.loc)) a) t
  | none => t

/-- A partial joined with the word in memory, or held there (R370). -/
def State.reduceMem (s : State) (e : CombEntry) : State :=
  match s.holdOf (e.loc / 128) with
  | none => s.reduceNow e
  | some (due, host) => s.hold ⟨e.loc, e.key, e.home, [], some e, due, host, some e.who, false, e.va, false, none, none⟩

/-- Partials of the same word, operation and type, reached by one translation. -/
def CombEntry.joins (a b : CombEntry) : Bool :=
  a.loc == b.loc && a.size == b.size && a.op == b.op && a.type == b.type && a.scalar == b.scalar && a.key == b.key &&
    a.va == b.va && a.who.ctx == b.who.ctx

/-- A later partial joined to an earlier one (R148). -/
def CombEntry.join (a b : CombEntry) : CombEntry :=
  { a with val := BitVec.ofNat 64 (aopApply a.scalar a.type a.op a.val.toNat b.val.toNat)
           more := a.more ++ (b.who :: b.more).filter fun o => o != a.who && !(a.more.contains o) }

/-- Two entries overlap in memory. -/
def CombEntry.touches (e : CombEntry) (loc len : Nat) : Bool := e.loc < loc + len && loc < e.loc + e.size

/-- The update-only copies of a line merged at the home, in the order they stand (R251). -/
def State.mergeCopies (s : State) (line : Nat) : State :=
  if s.mem.copies.any fun c => c.line == line then
    let words := ((s.mem.copies.filter fun c => c.line == line).map (·.words)).flatten
    let s1 := { s with mem := { s.mem with copies := s.mem.copies.filter fun c => c.line != line } }
    words.foldl State.reduceMem s1
  else s

/-- The lines of a run that the machine itself is to write: their partials merged, and where something holds the write back, its place kept
(R251, R364, R370). -/
def State.devReady (s : State) (pa len : Nat) : State := ((runLines pa len).foldl State.mergeCopies s).devKeep pa len

/-- Room for one more update-only copy or leased line in the set of a line: beside at most 4 lines of versions (R337) they leave one way for
plain lines; the oldest leased line makes room, else the oldest copy is merged at its home (R251, R363). DESIGN CHOICE (log entry 88). -/
def State.makeRoom (s : State) (col : ColId) (line : Nat) : State :=
  let leased := s.setLeased col line
  let copies := s.setCopies col line
  if leased.length + copies.length + 5 < (s.cols.get col).ways then s
  else match leased.getLast?, copies.getLast? with
    | some l, _ => { s with links := { s.links with llines := s.links.llines.filter fun x => x != l } }
    | none, some c => s.mergeCopies c.line
    | none, none => s

/-- The 8-byte word of memory that a partial lies in. -/
def CombEntry.word (e : CombEntry) : Nat := e.loc / 8

/-- A partial arrives at its column's slice, past the core's own copy of the line (R249, R251): into an update-only copy when the line is
contended, not held back and not otherwise in the slice; else to memory. A partial of another operation or type for the same 8-byte word
sends the copy to the home first. -/
def State.reduceSlice (s0 : State) (e : CombEntry) : State :=
  let line := e.loc / 128
  let col := coreCol e.who.core
  let s := s0.cleanDrop e.who.core line
  if e.home = 0 && s.dev.isHbm e.loc && 2 ≤ (s.mem.predictor line).state.toNat && e.op != .swap && (s.holdOf line).isNone &&
      !(s.mem.slices.any fun l => l.col == col && !l.host && l.line == line) then
    let words := match s.mem.copies.find? fun c => c.col == col && c.line == line with
      | some c => c.words
      | none => []
    let put' := fun (t0 : State) ws =>
      let t := if t0.mem.copies.any fun c => c.col == col && c.line == line then t0 else t0.makeRoom col line
      ({ t with mem := { t.mem with
        copies := ⟨col, line, ws⟩ :: t.mem.copies.filter fun c => !(c.col == col && c.line == line) } } : State).trimSlice col false line
    if words.any fun w => w.joins e then put' s (updWhere (fun w => w.joins e) (fun w => w.join e) words)
    else if words.any fun w => w.word == e.word && !(w.op == e.op && w.type == e.type && w.scalar == e.scalar && w.key == e.key) then
      put' (s.mergeCopies line) [e]
    else put' s (words ++ [e])
  else (s.mergeCopies line).reduceMem e

/-- The combining buffer of a core emptied of the entries that satisfy `p` (R152). -/
def State.drainComb (s : State) (core : CoreId) (p : CombEntry → Bool) : State :=
  let out := (s.cores.get core).comb.filter p
  if out.isEmpty then s
  else out.foldl State.reduceSlice (s.modCore core fun c => { c with comb := c.comb.filter fun e => !p e })

/-- A partial enters the combining buffer: joined, or new, the oldest evicted from a full buffer (R152). -/
def State.combine (s : State) (e : CombEntry) : State :=
  let c := s.cores.get e.who.core
  if c.comb.any fun w => w.joins e then
    s.modCore e.who.core fun x => { x with comb := updWhere (fun w => w.joins e) (fun w => w.join e) x.comb }
  else
    let s1 := s.drainComb e.who.core fun w => w.touches e.loc e.size
    let c1 := s1.cores.get e.who.core
    let s2 := match c1.comb with
      | old :: r => if 32 ≤ c1.comb.length then (s1.modCore e.who.core fun x => { x with comb := r }).reduceSlice old else s1
      | [] => s1
    s2.modCore e.who.core fun x => { x with comb := x.comb ++ [e] }

/-- The column, the bank and the row of a location of the vaults (R245). -/
def vaultCol (loc : Nat) : ColId := ⟨vaultNumber loc % 64, Nat.mod_lt _ (by decide)⟩
def vaultBank (loc : Nat) : Nat := (field loc 11 4) ^^^ (field loc 15 4)
def vaultRow (loc : Nat) : Nat := field loc 15 14

/-- The record of a sector: a vault names its column, HBM its stack (R382, R390). -/
def State.sectorIncident (s : State) (code : IncCode) (loc : Nat) : Incident :=
  let i := code.entry.withPa loc
  if isVault loc then (i.atCol (vaultCol loc)).byEngine 5
  else
    let stack := (s.dev.place loc).1
    { i.byEngine 6 with port := stack, die := stack / 3 }

/-- A row activated: the buffer keeps the last two of each bank (R358). -/
def Vault.activate (v : Vault) (bank row : Nat) : Vault :=
  let rest := v.buffer.filter fun x => x != (bank, row)
  let older := rest.filter fun x => x.1 == bank
  { v with buffer := (bank, row) :: match older with
      | x :: _ => x :: rest.filter fun y => y.1 != bank
      | [] => rest }

/-- The row of a vault that an access reaches is activated (R358). -/
def State.activateAt (s : State) (loc : Nat) : State :=
  if isVault loc then s.modCol (vaultCol loc) fun c => { c with vault := c.vault.activate (vaultBank loc) (vaultRow loc) } else s

/-- The rows of the vaults that the parts touch are activated (R358). -/
def State.activate (s : State) (parts : List Part) : State :=
  parts.foldl (fun (t : State) p => match p.x.site with
    | .mem loc => t.activateAt loc
    | _ => t) s

/-- A location lies in a bank that a refresh keeps busy, and in no row of the refresh buffer (R358). -/
def State.bankBusy (s : State) (loc : Nat) : Bool :=
  isVault loc && (let v := (s.cols.get (vaultCol loc)).vault
    v.busy.contains (vaultBank loc) && !(v.buffer.contains (vaultBank loc, vaultRow loc)))

/-- An access to such a bank waits until its refresh has ended (R358). -/
def State.banksFree (s : State) (parts : List Part) : Except Stop Unit :=
  need (!(parts.any fun p => match p.x.site with
    | .mem loc => s.bankBusy loc
    | _ => false)) .stall

/-- What lies between a core and the bytes of its parts is settled: its buffered reductions to them are sent on, and
update-only copies of their lines merged (R152, R251). -/
def State.settle (s : State) (core : CoreId) (parts : List Part) : State :=
  parts.foldl (fun (t : State) p => match p.x.site with
    | .mem loc =>
      let t1 := t.drainComb core fun e => e.touches loc p.len
      p.lines.foldl State.mergeCopies t1
    | _ => t) s

/-! ### Reading -/

/-- A byte of an uncommitted version. -/
def versionGet : List Host.Cell → Nat → Option Byte
  | [], _ => none
  | (a, b) :: r, loc => if a = loc then some b else versionGet r loc

/-- Bytes that enter a version. -/
def versionPut : List Host.Cell → Nat → List Byte → List Host.Cell
  | m, _, [] => m
  | m, loc, b :: r => versionPut (cellsIns m loc b) (loc + 1) r

/-- The entry of a column's replica table that serves a page of a generation (R248). -/
def Replica.serves (r : Replica) (ctx : CtxId) (p : Part) : Bool :=
  r.valid && r.ctx == ctx && r.page == p.va / 2 ^ 16 && r.gen == p.x.gen

/-- Where a read of a page with a replica is served: the replica of its generation in the reader's column, also when PROMOTE has been cleared
since (R248, R328). -/
def State.replicaAt (s : State) (ctx : CtxId) (core : CoreId) (p : Part) : Option Nat :=
  if p.x.home = 0 then
    let col := s.cols.get (coreCol core)
    (col.replicas.find? fun r => r.serves ctx p).map fun r =>
      vaultLoc (coreCol core) (2 ^ 16 * (col.replBase.toNat + r.frame) + p.va % 2 ^ 16)
  else none

/-- A replica of another generation is invalidated by the read that meets it (R248). -/
def State.dropReplicas (s : State) (ctx : CtxId) (core : CoreId) (parts : List Part) : State :=
  let stale := fun (r : Replica) => parts.any fun p =>
    p.x.home == 0 && r.valid && r.ctx == ctx && r.page == p.va / 2 ^ 16 && r.gen != p.x.gen
  if (s.cols.get (coreCol core)).replicas.any stale then
    s.modCol (coreCol core) fun c => { c with replicas := updWhere stale (fun r => { r with valid := false }) c.replicas }
  else s

/-- A plain byte of memory as a reader meets it: one that a copy has written and its group has not seen complete may still have its old
value (R173). Of a write to HBM every reader meets the new bytes from BUFFERED on, in a block of a lost stack too (R344; log entry 94). -/
def State.seenByte (s : State) (reader : Option (Nat × Nat)) (k : KeySlot) (a : Nat) : Byte :=
  s.pickOld reader a (s.mem.unseen none a) (s.mem.plain k a)

/-- The sectors of 32 bytes that a run within one line touches, by number in the line. -/
def runSectors (loc len : Nat) : List Nat := tabList id (loc % 128 / 32) ((loc % 128 + len - 1) / 32 + 1 - loc % 128 / 32)

/-- A run within a line of which the L1 lacks a byte. -/
def L1Line.lacks (l : L1Line) (off len : Nat) : Bool := (tabList id off len).any fun i => !(l.bytes.any fun b => b.off == i)

/-- A sector fetched: every byte of it that is not dirty is replaced, so that a value in it comes from one moment (R239, R255). -/
def L1Line.fetch (l : L1Line) (f : Nat → L1Byte) (sector : Nat) : L1Line :=
  { l with bytes := (tabList id (32 * sector) 32).foldl (fun bs i =>
      if l.bytes.any fun b => b.off == i && b.dirty then bs else l1Put bs (f i)) l.bytes }

/-- The clean bytes of a sector given up: what is read of it comes from its home, from one moment (R255). -/
def L1Line.forget (l : L1Line) (sector : Nat) : L1Line :=
  { l with bytes := l.bytes.filter fun b => b.dirty || b.off / 32 != sector }

/-- A held entry writes bytes of a run. -/
def HeldWrite.touches (h : HeldWrite) (loc len : Nat) : Bool :=
  match h.red with
  | some e => e.touches loc len
  | none => h.loc < loc + len && loc < h.loc + h.bytes.length

/-- A write of a core to a run is held: what its groups see there differs from what stands at the home (R254, R370). -/
def State.heldBy (s : State) (core : CoreId) (loc len : Nat) : Bool :=
  s.links.held.any fun h => h.touches loc len && (match h.who with
    | some w => w.team != 0 && w.core == core
    | none => false)

/-- A sector of memory that the L1 of a core may take: not poisoned, not in the midst of a copy (R173), and with no write of the core held
(R254, R261, R266). -/
def State.settledSector (s : State) (core : CoreId) (a : Nat) : Bool :=
  (tabList id (a / 32 * 32) 32).all (fun x => !(s.mem.poisoned x) && (s.mem.unseen none x).isEmpty) &&
    !(s.heldBy core (a / 32 * 32) 32)

/-- A run within one line read into the L1 of a core past a miss: its sectors from the line's place, or from a replica in the column's
vault; the slice then holds the line too (R239, R240, R248). Bytes of a registered object's line stay out (R145), and so do sectors that are
not settled. -/
def State.l1Fetch (s : State) (w : Writer) (replica : Option Nat) (loc len : Nat) : State :=
  let core := w.who.core
  let s1 := s.l1Rekey core (loc / 128) w.key
  let l := (s1.cores.get core).l1Line w loc
  if (s.objOf (loc / 128)).isSome then s
  else if l.lacks (loc % 128) len then
    let s2 := if replica.isNone && s.dev.isHbm loc then s1.readLine (coreCol core) false (loc / 128) else s1
    let first := replica.getD loc - loc % 128
    let k := s2.keySlot w.key
    let byte := fun i => (⟨i, s2.mem.plain k (first + i), none, s2.mem.releasers.lookup (first + i)⟩ : L1Byte)
    let new := (runSectors loc len).foldl (fun (x : L1Line) sec =>
      if s2.settledSector core (first + 32 * sec) then x.fetch byte sec else x.forget sec) l
    if new.bytes.isEmpty then s2.modCore core fun c => { c with l1 := c.l1.filter fun x => x.line != l.line }
    else s2.l1Keep core (new.tagged w loc)
  else s1.l1Keep core (l.tagged w loc)

/-- A run cut at the lines: location and length. -/
def lineSpans (loc len : Nat) : List (Nat × Nat) :=
  let first := 128 - loc % 128
  if len ≤ first then [(loc, len)] else [(loc, first), (loc + first, len - first)]

/-- A sector of a page that a core of a column reads past its slice, counted towards the promotion of the page (R247). -/
def ColState.countRead (c : ColState) (ctx : CtxId) (page sector now : Nat) : ColState :=
  let mine := fun (r : PageReads) => r.ctx == ctx && r.page == page
  let old := match c.pageReads.find? mine with
    | some r => r.sectors.filter fun x => x.1 != sector
    | none => []
  { c with pageReads := ⟨ctx, page, (sector, now) :: old⟩ :: c.pageReads.filter fun r => !(mine r) }

/-- What a read notes of its page (R247), with PROMOTE set or clear: the use of the replica that serves it, or the sectors that it reads past
the slice. -/
def State.noteReads (s : State) (w : Writer) (p : Part) (replica : Option Nat) (loc len : Nat) : State :=
  let col := coreCol w.who.core
  if replica.isSome then
    s.modCol col fun c => { c with replicas := updWhere (fun r => r.serves w.who.ctx p) (fun r => { r with used := s.ptp.toNat }) c.replicas }
  else if s.mem.slices.any fun l => l.col == col && !l.host && l.line == loc / 128 then s
  else if ((s.cores.get w.who.core).l1Line w loc).lacks (loc % 128) len then
    (runSectors loc len).foldl (fun (t : State) sec => t.modCol col fun c =>
      c.countRead w.who.ctx (p.va / 2 ^ 16) ((p.va % 2 ^ 16 - loc % 128) / 32 + sec) s.ptp.toNat) s
  else s

/-- The spans of a part of HOME 0 within the lines: writer, place in a replica, location and length. -/
def State.l1Spans (s : State) (o : Origin) (p : Part) : List (Writer × Option Nat × Nat × Nat) :=
  match p.x.site with
  | .mem loc =>
    if p.x.home = 0 then
      let replica := s.replicaAt o.ctx o.core p
      (lineSpans loc p.len).map fun c =>
        (⟨o, BitVec.ofNat 64 (p.va + (c.1 - loc)), p.x.key, 0⟩, replica.map (· + (c.1 - loc)), c.1, c.2)
    else []
  | _ => []

/-- What a part of HOME 0 counts towards the promotion of its page: every part of an instruction as its core finds the caches (R247). -/
def State.l1Reads (s : State) (o : Origin) (p : Part) : State :=
  (s.l1Spans o p).foldl (fun (t : State) c => t.noteReads c.1 p c.2.1 c.2.2.1 c.2.2.2) s

/-- A part of HOME 0 read into the L1 of its core (R239). -/
def State.l1Load (s : State) (o : Origin) (p : Part) : State :=
  (s.l1Spans o p).foldl (fun (t : State) c => t.l1Fetch c.1 c.2.1 c.2.2.1 c.2.2.2) s

/-- The registered object whose line holds a byte of a part (R89, R138). -/
def State.byteObj (s : State) (p : Part) (loc : Nat) : Option Nat :=
  if p.x.home ≤ 1 && (s.objOf (loc / 128)).isSome then some (loc / 128) else none

/-- A byte of a team's version as its groups see it: one that a copy has written may still be what it was (R173, R267). -/
def State.versionByte (s : State) (team index loc : Nat) : Option Byte :=
  ((s.teamOf team).bind (·.version)).bind fun cells =>
    (versionGet cells loc).map fun b => s.pickOld (some (team, index)) loc (s.mem.unseen (some team) loc) b

/-- The source of a byte of a part: a cached, held or versioned byte, or the location that holds it. -/
def State.partByte (s : State) (p : Part) (i : Nat) : Sum Byte Nat :=
  match p.x.site with
  | .mem loc =>
    match s.byteObj p (loc + i) with
    | some obj =>
      let v := (s.g.alReads.find? fun r => r.1 == obj).map (·.2)
      .inl ((leBytes 8 (v.getD 0).toNat).getD ((loc + i) % 8) 0)
    | none =>
      match s.versionByte s.g.team s.g.index (loc + i) with
      | some b => .inl b
      | none =>
        match if p.x.home = 0 then s.core.l1Byte p.x.key (loc + i) else none with
        | some b => .inl b
        | none =>
          match s.heldByte s.origin (loc + i) with
          | some b => .inl b
          | none => .inr ((s.replicaAt s.ctxId s.g.core p).getD loc + i)
  | .signal c off => .inl ((s.cols.get c).signalByte (off + i))
  | .peer _ _ => .inl 0
  | .lost loc => .inr (loc + i)

/-- The first byte of a part that arrives poisoned (R138 step 4, R242). -/
def State.partPoison (s : State) (p : Part) : Option Nat :=
  match p.x.site with
  | .lost _ => some p.va
  | _ => ((List.range p.len).find? fun i => match s.partByte p i with
      | .inl _ => false
      | .inr a => s.mem.poisoned a).map (p.va + ·)

/-- The bytes of a part. -/
def State.partBytes (s : State) (p : Part) : List Byte :=
  let k := s.keySlot p.x.key
  tabList (fun i => match s.partByte p i with
    | .inl b => b
    | .inr a => s.seenByte (some (s.g.team, s.g.index)) k a) 0 p.len

/-- The bytes of a HOME 0 part in a peer window that the column's slice holds under leases that still run (R369). -/
def State.leasedBytes (s : State) (col : ColId) (p : Part) : Option (List Byte) :=
  match p.x.site with
  | .peer k pa =>
    let held := fun (a : Nat) => s.links.llines.find? fun l =>
      l.col == col && l.peer == k && l.line == a / 128 && s.ptp.toNat < l.expiry
    if p.x.home = 0 && s.dev.leaseEn && (tabList id pa p.len).all (fun a => (held a).isSome) then
      some (tabList (fun a => ((held a).map fun l => l.bytes.getD (a % 128) 0).getD 0) pa p.len)
    else none
  | _ => none

/-- The bytes that peers have sent for the access of a group, also before a refusal. -/
def Group.come (g : Group) : List Byte :=
  match g.peerData with
  | some (.data bs) => bs
  | some .refused => g.peerOld
  | none => []

/-- Bytes of a peer's memory as the issuing group sees them: those in its team's version are the version's, which keeps them at their device
physical addresses (R267, R367). -/
def State.overVersion (s : State) (p : Part) (bs : List Byte) : List Byte :=
  match p.x.site with
  | .peer _ pa => bs.zipIdx.map fun x => (s.versionByte s.g.team s.g.index (pa + x.2)).getD x.1
  | _ => bs

/-- The value of one lane: the bytes of its parts at their places; parts in peer windows take the slice's leased bytes, or those
that the peers sent, in order (R142, R369). -/
def State.gatherParts (s : State) : List Part → List Byte → List (Nat × Nat)
  | [], _ => []
  | p :: r, sent =>
    match p.x.site with
    | .peer _ _ =>
      match s.leasedBytes s.colId p with
      | some bs => (p.lane, leNat (s.overVersion p bs) * 256 ^ p.off) :: s.gatherParts r sent
      | none => (p.lane, leNat (s.overVersion p (sent.take p.len)) * 256 ^ p.off) :: s.gatherParts r (sent.drop p.len)
    | _ => (p.lane, leNat (s.partBytes p) * 256 ^ p.off) :: s.gatherParts r sent

/-- The value of a lane from the values of its parts. -/
def laneValue (vals : List (Nat × Nat)) (L : Nat) : Nat :=
  (vals.filter fun v => v.1 == L).foldl (fun acc v => acc + v.2) 0

/-- A peer that is fenced (R373). -/
def State.peerDead (s : State) (p : Part) : Bool :=
  match p.x.site with
  | .peer k _ => s.dev.peerFenced.contains k.val
  | _ => false

/-- A part lies in a peer window. -/
def Part.isPeer (p : Part) : Bool :=
  match p.x.site with
  | .peer _ _ => true
  | _ => false

/-- The incident of a refused request of the issuing group (R367, R382, R390). -/
def State.peerRefusedInc (s : State) (p : Part) : Incident :=
  let i := (IncCode.peerRefused.entry.byGroup s.g).ofCtx s.ctxId
  match p.x.site with
  | .peer k pa => { (i.withVa (BitVec.ofNat 64 p.va)).withPa pa with detail := BitVec.ofNat 64 k.val }
  | _ => i

/-- The bytes that parts in peer windows take in all. -/
def peerLength (parts : List Part) : Nat := ((parts.filter Part.isPeer).map (·.len)).foldl (· + ·) 0

/-- What a group asks peers for: device physical address and length of each part in a peer window, in order (R367). -/
def Part.ask (p : Part) : List (Nat × Nat) :=
  match p.x.site with
  | .peer _ pa => [(pa, p.len)]
  | _ => []
def peerAsks (parts : List Part) : List (Nat × Nat) := (parts.map Part.ask).flatten

/-- The bytes of the parts beyond those that have come. -/
def missingParts : List Part → Nat → List Part
  | [], _ => []
  | p :: r, n => if p.len ≤ n then missingParts r (n - p.len) else p :: r

/-- Reads at peers: a dead peer or a refusal traps; until every byte has come the group waits, at a blocking point where it is a load (R142,
R367, R373). `first` is what the instruction has asked for before them. What has come for other addresses, which another instruction at
this place has asked for, does not count (R112, R142). -/
def State.peerReads (s : State) (scalar : Bool) (first : List (Nat × Nat)) (parts : List Part) (wait : State → Stop) : Except Stop Unit :=
  let peers := parts.filter Part.isPeer
  let fault := fun (ps : List Part) (incs : List Incident) => match ps with
    | [] => Except.ok ()
    | p :: _ => .error (.trap ⟨.accessFault, BitVec.ofNat 64 p.va, trapLanes scalar (ps.map (·.lane)), incs, none⟩)
  if peers.isEmpty then .ok ()
  else if peers.any s.peerDead then fault (peers.filter s.peerDead) []
  else
    let asks := first ++ peerAsks peers
    let before := (first.map (·.2)).foldl (· + ·) 0
    let here := asks.isPrefixOf s.g.peerFor
    if here && before + peerLength peers ≤ s.g.come.length then .ok ()
    else if here && s.g.peerData == some .refused then
      let ps := missingParts peers (s.g.come.length - before)
      fault ps ((ps.take 1).map s.peerRefusedInc)
    else
      let old := if s.g.peerFor.isPrefixOf asks then s.g.come else []
      let had : Option PeerReply := if old.isEmpty then none else some (.data old)
      .error (wait { s with g := { s.g with peerFor := asks, peerData := had, peerOld := [] } })

/-- Reads of allowance objects: the first object whose exact value is not yet here is recalled, once for the instruction
(R89, R145). -/
def State.objReads (s : State) (parts : List Part) : Except Stop Unit :=
  match ((parts.map s.partObjs).flatten).find? fun o => !(s.g.alReads.any fun r => r.1 == o) with
  | none => .ok ()
  | some obj => .error (.wait (s.alWaits obj 0 .read .plain))

/-- The parts of a load for which a peer must be asked. -/
def State.askParts (s : State) (parts : List Part) : List Part :=
  parts.filter fun p => p.isPeer && (s.leasedBytes s.colId p).isNone

/-- The DATA_POISONED trap of the parts that arrive poisoned, with its incident (R138 step 4, R391). A scalar access reports the address
that it reads from (R89 step 5), a lane the lowest address that failed. -/
def State.poisonCheck (s : State) (scalar : Bool) (parts : List Part) : Except Stop Unit :=
  let bad := parts.filterMap fun p => (s.partPoison p).map fun va => (p, va)
  match bad with
  | [] => .ok ()
  | (p, va) :: _ =>
    let mask := trapLanes scalar (bad.map fun b => b.1.lane)
    let addr := if scalar then p.va - p.off else va
    .error (.trap ⟨.dataPoisoned, BitVec.ofNat 64 addr, mask,
      [{ ((((IncCode.poisonConsumed.entry.byGroup s.g).ofCtx s.ctxId).withVa (BitVec.ofNat 64 addr)).withPa
          (p.place + (va - p.va))) with coord := mask }], none⟩)

/-- A part overlaps bytes of a device or peer address. -/
def Part.overlaps (p : Part) (site : Site) (len : Nat) : Bool :=
  match p.x.site, site with
  | .mem a, .mem b => a < b + len && b < a + p.len
  | .peer k a, .peer m b => k == m && a < b + len && b < a + p.len
  | _, _ => false

/-- A read follows its group's earlier writes to the same bytes (R137), and what it may have read in the version of its team (R267): one to a
peer that is not acknowledged, or a reduction of its core that is held, is waited for. -/
def State.earlierWrites (s : State) (parts : List Part) : Except Stop Unit :=
  need (!(s.links.peerWrites.any fun w => (w.who == some s.origin || w.tag == some (.commit s.g.team)) && parts.any fun p => p.overlaps (.peer w.peer w.pa) w.bytes.length) &&
    !(s.links.held.any fun h => match h.red with
      | some e => e.who.team != 0 && e.who.core == s.g.core && parts.any fun p => p.overlaps (.mem e.loc) e.size
      | none => false)) .stall

/-- After a read: what it has seen of the copies under way stays seen (R254), and the free values it took are used up. -/
def State.seen (s : State) : State :=
  if s.mem.olds.any (fun o => o.copy.isSome) then
    { s with mem := { s.mem with olds := settleOlds (Config.readsOld s.tick) s.mem.olds }, tick := s.tick + 1 }
  else s

/-- A part lies over a byte of memory, or of the version of a team, that a copy has written. -/
def Part.meets (p : Part) (team : Nat) (o : OldByte) : Bool :=
  match p.x.site with
  | .mem loc => (!o.version || o.team == team) && loc ≤ o.loc && o.loc < loc + p.len
  | .peer _ pa => o.version && o.team == team && pa ≤ o.loc && o.loc < pa + p.len
  | _ => false

/-- Copies under way over some bytes are seen by everyone from now on: a read-modify-write comes after them (R150, R254). -/
def State.caughtUp (s : State) (meets : OldByte → Bool) : State :=
  if s.mem.olds.isEmpty then s
  else { s with mem := { s.mem with olds := s.mem.olds.filterMap fun o => if o.copy.isSome && meets o then o.performed else some o } }

/-- Those over the bytes of the parts. -/
def State.catchUp (s : State) (parts : List Part) : State := s.caughtUp fun o => parts.any (·.meets s.g.team o)

/-- The part as it reaches the banks of the vaults: a read of a promoted page that the L1 does not serve goes to its replica (R248,
R358). -/
def State.servedPart (s : State) (p : Part) : Part :=
  match p.x.site, s.replicaAt s.ctxId s.g.core p with
  | .mem loc, some r =>
    if (tabList id loc p.len).all (fun a => (s.core.l1Byte p.x.key a).isSome) then p else { p with x := { p.x with site := .mem r } }
  | _, _ => p

/-- The values of the lanes of a load whose parts are translated, and the state after it; `first` is what the instruction has asked peers for
before. DESIGN CHOICE (log entry 105): a load is performed when its instruction issues, but for one that the environment lets be performed
after the allowance instructions that follow it (R157). -/
def State.loadAfter (s : State) (first : List (Nat × Nat)) (scalar : Bool) (parts : List Part) : Except Stop (List (Nat × Nat) × State) := do
  s.peerReads scalar first (s.askParts parts) fun t => .wait (t.blockOn .peerLoad)
  s.objReads parts
  s.earlierWrites parts
  let s' := (s.dropReplicas s.ctxId s.g.core parts).settle s.g.core parts
  s.banksFree (parts.map s'.servedPart)
  let t := s'.activate (parts.map s'.servedPart)
  t.poisonCheck scalar parts
  let sent := s.g.come.drop ((first.map (·.2)).foldl (· + ·) 0)
  let u := parts.foldl (fun (x : State) p => x.l1Load s.origin p) (parts.foldl (fun (x : State) p => x.l1Reads s.origin p) t)
  .ok (u.gatherParts parts sent, u.seen)

/-- Likewise, of an instruction that has loaded nothing before. -/
def State.loadParts (s : State) (scalar : Bool) (parts : List Part) : Except Stop (List (Nat × Nat) × State) := s.loadAfter [] scalar parts

/-! ### Writing -/

/-- The writer of a part. -/
def State.writer (s : State) (p : Part) : Writer := ⟨s.origin, BitVec.ofNat 64 p.va, p.x.key, p.x.home⟩

/-- A run within one line written into the L1 or at its home. DESIGN CHOICE (log entry 105): a write past the L1, a vault's among them, is
performed when its instruction issues, but where a lease or the host holds it back. -/
def State.storeSpan (s : State) (w : Writer) (loc : Nat) (bs : List Byte) : State :=
  if w.home = 0 then s.l1Write w none loc bs else s.writeHome w loc bs

/-- A part written within the lines of the L1 or at its home. -/
def State.storeRunAt (s : State) (p : Part) (loc : Nat) (bs : List Byte) : State :=
  let w := s.writer p
  let first := 128 - loc % 128
  if bs.length ≤ first then s.storeSpan w loc bs
  else (s.storeSpan w loc (bs.take first)).storeSpan { w with va := w.va + BitVec.ofNat 64 first } (loc + first) (bs.drop first)

/-- Bytes that enter the version of a team (R267). -/
def State.putVersion (s : State) (o : Origin) (va key loc : Nat) (bs : List Byte) : State :=
  let lines := (lineSpans loc bs.length).map fun c => (⟨c.1 / 128, key, va + (c.1 - loc) - c.1 % 128, o.index⟩ : VersionLine)
  let t := s.modTeam o.team fun t => { t with
    version := t.version.map fun cells => versionPut cells loc bs
    versionLines := lines ++ t.versionLines.filter fun k => !(lines.any fun l => l.line == k.line)
    versionRels := t.versionRels.filter fun r => !(loc ≤ r.1 && r.1 < loc + bs.length) }
  let u : State := if s.mem.olds.isEmpty then t
    else { t with mem := { t.mem with
      olds := t.mem.olds.filter fun x => !(x.version && x.team == o.team && loc ≤ x.loc && x.loc < loc + bs.length) } }
  lines.foldl (fun (v : State) l => v.trimSlice (coreCol o.core) false l.line) u

/-- A release write recorded in its bytes of a version (R263, R267). -/
def State.noteVersionRelease (s : State) (by' : Option Party) (loc len : Nat) : State :=
  match by' with
  | none => s
  | some p => s.modTeam s.g.team fun t => { t with versionRels := tabList (fun a => (a, p)) loc len ++ t.versionRels }

/-- A write sent to a peer (R367): the slice of the writer's column gives up what it holds of the lines under leases, so that the writer does not
read there what its write replaces (R137). -/
def State.sendPeer (s : State) (w : PeerWrite) : State :=
  let lines := runLines w.pa w.bytes.length
  let own := fun (l : LLine) => lines.contains l.line && (match w.who with
    | some o => l.col == coreCol o.core
    | none => false)
  { s with links := { s.links with llines := s.links.llines.filter fun l => !(own l), peerWrites := s.links.peerWrites ++ [w] } }

/-- The agent of the release write that the bytes of a peer hold from now on: a release of this device, which a plain write of it ends. DESIGN
CHOICE (log entry 113): the bytes that a peer sends back do not say who wrote them (R263). -/
def State.notePeer (s : State) (by' : Option Party) (pa len : Nat) : State :=
  if by'.isNone && s.mem.releasers.isEmpty then s
  else ({ s with mem := { s.mem with releasers := s.mem.releasers.filter fun r => !(pa ≤ r.1 && r.1 < pa + len) } } : State).noteRelease by' pa len

/-- The bytes of a part stored (R137, R267). -/
def State.storePart (s : State) (p : Part) (bs : List Byte) : State :=
  match p.x.site with
  | .mem loc =>
    if s.team.version.isSome && p.x.home ≤ 4 then
      s.putVersion s.origin p.va p.x.key loc bs
    else s.storeRunAt p loc bs
  | .peer k pa =>
    if s.peerDead p then s.failStore .storeFailed s.origin (BitVec.ofNat 64 p.va) pa
    else if s.team.version.isSome then s.putVersion s.origin p.va p.x.key pa bs
    else (s.sendPeer ⟨k, pa, bs, none, some s.origin, BitVec.ofNat 64 p.va, false, none⟩).notePeer none pa bs.length
  | .signal c off => s.signalStore s.ctxId c off bs.length (BitVec.ofNat 64 (leNat bs))
  | .lost loc => s.failStore .storeFailed s.origin (BitVec.ofNat 64 p.va) loc

/-- The values of the lanes stored, in ascending lane order (R137). DESIGN CHOICE (log entry 89): an access of several lanes, or one that is not
aligned, is performed in one step, and no other agent sees it torn. -/
def State.storeParts (s : State) (parts : List Part) (size : Nat) (value : Nat → Nat) : State :=
  parts.foldl (fun (t : State) p => t.storePart p (((leBytes size (value p.lane)).drop p.off).take p.len)) ((s.settle s.g.core parts).activate parts)

/-- A part in a registered object's line stops a store (R89, R138); a store to a bank of a vault in its refresh waits (R358). -/
def State.objStores (s : State) (scalar : Bool) (parts : List Part) : Except Stop Unit :=
  match parts.filter fun p => (s.partObj p).isSome with
  | [] => s.banksFree parts
  | p :: r => .error (trap .alPlainStore (BitVec.ofNat 64 p.va) (trapLanes scalar ((p :: r).map (·.lane))))

/-! ### Versions -/

/-- The lines that a part takes in a version. -/
def Part.versionLines (p : Part) : List Nat :=
  match p.x.site with
  | .peer _ pa => runLines pa p.len
  | _ => p.lines

/-- A write of a VERSIONED team that cannot stay in its version waits for an early commit (R337). -/
def State.versionWrites (s : State) (parts : List Part) : Except Stop Unit :=
  match s.team.version with
  | none => .ok ()
  | some _ =>
    let lines := s.versionLines s.colId
    let more := ((parts.map Part.versionLines).flatten.map fun l => (s.g.team, l)).eraseDups.filter fun l => !(lines.contains l)
    need (parts.all (fun p => p.x.home == 0) && more.all fun l => versionSet (lines ++ more) l.2 ≤ 4) (.block .earlyCommit)

/-- An action of scope wider than team, or a write outside the version, waits for the team's early commit (R267, R337). -/
def State.versionScope (s : State) (scope : Scope) : Except Stop Unit :=
  need (s.team.version.isNone || scope.code ≤ 1) (.block .earlyCommit)

/-! ### Scopes -/

/-- The narrowest scope of a group whose instance holds an agent. -/
def narrowest (a : Releaser) (b : Party) : Scope :=
  if inScope .grp a b then .grp
  else if inScope .team a b then .team
  else if inScope .core a b then .core
  else if inScope .col a b then .col
  else if inScope .die a b then .die
  else if inScope .dev a b then .dev
  else .sys

/-- The issuing group as an agent. -/
def State.me (s : State) : Releaser := ⟨s.g.core, s.g.slot, s.g.team⟩

/-- The wider of two scopes. -/
def widerScope (a b : Scope) : Scope := if a.code < b.code then b else a

/-- An acquire read or read-modify-write of the lines by a group is refused while such a mark stands (R262). -/
def State.markCheck (s : State) (who : Releaser) (lines : List Nat) : Except Stop Unit :=
  need (!(s.marked (.group who) lines)) .stall

/-- A byte of the version of the issuing group's team (R267). -/
def State.inVersion (s : State) (a : Nat) : Bool := (versionGet (s.team.version.getD []) a).isSome

/-- The agent of the release write that a byte of a part gives its reader, from the team's version, the core's L1 or the home (R263). -/
def State.releaserOf (s : State) (p : Part) (i : Nat) : Option Party :=
  match p.x.site with
  | .peer _ pa => if s.inVersion (pa + i) then s.team.versionRels.lookup (pa + i) else s.mem.releasers.lookup (pa + i)
  | .mem loc =>
    if s.inVersion (loc + i) then s.team.versionRels.lookup (loc + i)
    else match if p.x.home = 0 then s.core.l1At p.x.key (loc + i) else none with
    | some b => b.rel
    | none => s.mem.releasers.lookup (loc + i)
  | _ => none

/-- The scope of an acquire read, widened to include the agents whose release writes it returns (R263). -/
def State.widened (s : State) (scope : Scope) (parts : List Part) : Scope :=
  (parts.map fun p => (List.range p.len).filterMap (s.releaserOf p)).flatten.foldl (fun (sc : Scope) r =>
    if inScope sc s.me r then sc else widerScope sc (narrowest s.me r)) scope

/-- A write to HBM is acknowledged once its difference is accepted, or, where its data stack is lost, applied (R344, R348). -/
def State.unacknowledged (s : State) (w : PendWrite) : Bool :=
  w.stage != .accepted || w.bytes.any fun x => (s.dev.missing s.mem x.1).contains (s.dev.place x.1).1

/-- The write is a copy's, which no release of its group waits for (R155). -/
def WriteTag.isCopy : Option WriteTag → Bool
  | some (.copy _) => true
  | _ => false

/-- The writes that a release of a core waits for are performed (R155, R261, R345, R367, R370): those of the core, but its copies', that are
held, on their way to a stack or to a peer; at system scope every write to a peer. -/
def State.performedBy (s : State) (core : CoreId) (scope : Scope) : Bool :=
  let mine := fun (o : Option Origin) => match o with
    | some w => w.core == core && w.team != 0
    | none => false
  scope.code < 1 ||
    (!(s.links.held.any fun h => h.writes && mine h.who && !(WriteTag.isCopy h.tag)) &&
     !(s.links.peerWrites.any fun w => mine w.who && !(WriteTag.isCopy w.tag)) &&
     !(s.mem.writes.any fun w => mine w.who && s.unacknowledged w) &&
     (scope != .sys || s.links.peerWrites.isEmpty))

/-- The marks of a core widened by its release of core scope or wider: one that no agent outside the device waits for is gone at device scope
(R262). -/
def Memory.widenMarks (m : Memory) (core : CoreId) (scope : Scope) : Memory :=
  if 2 ≤ scope.code && m.marks.any fun x => x.holder.core == core then
    let wide := updWhere (fun x => x.holder.core == core) (fun x => { x with scope := widerScope x.scope scope }) m.marks
    { m with marks := wide.filter fun x => x.scope.code < (if x.outside then 6 else 5) }
  else m

/-- What a release of a scope sends on (R155): the buffer emptied from .core on, dirty lines cleaned from .col on. -/
def State.sendOn (s : State) (core : CoreId) (scope : Scope) : State :=
  let s1 := if 2 ≤ scope.code then s.drainComb core fun _ => true else s
  if 3 ≤ scope.code then s1.cleanL1 core else s1

/-- A mark after a release within the core of its holder: a team-mate's of team scope widens it, any other admits the agents that it includes
beside those of the mark (R262). -/
def ScopeMark.after (m : ScopeMark) (r : Releaser) (scope : Scope) : ScopeMark :=
  if m.holder.core != r.core || 2 ≤ m.scope.code || m.also.contains (r, scope) then m
  else if r.team = m.holder.team ∧ scope = .team then { m with scope := .team }
  else { m with also := (r, scope) :: m.also }

/-- The marks of its core after a release of the issuing group narrower than core scope (R262). -/
def State.admitBy (s : State) (scope : Scope) : State :=
  if 2 ≤ scope.code || s.mem.marks.isEmpty then s
  else { s with mem := { s.mem with marks := s.mem.marks.map fun m => m.after s.me scope } }

/-- The core's marks widened by its release (R262). -/
def State.widenBy (s : State) (core : CoreId) (scope : Scope) : State := { s with mem := s.mem.widenMarks core scope }

/-- The release part of a scope for a core (R155, R262). -/
def State.releaseBy (s : State) (core : CoreId) (scope : Scope) : State := (s.sendOn core scope).widenBy core scope

/-- A release that nothing waits for: its marks widen once what it sends on is performed. -/
def State.releaseSoon (s : State) (core : CoreId) (scope : Scope) : State :=
  let t := s.sendOn core scope
  if t.performedBy core scope then t.widenBy core scope else t

/-- The acquire part of a scope for a core (R155): at system scope every line held under a lease is dropped (R369). -/
def State.acquireBy (s : State) (core : CoreId) (scope : Scope) : State :=
  let s1 := if 2 ≤ scope.code then s.drainComb core fun _ => true else s
  let s2 := if 3 ≤ scope.code then s1.dropClean core else s1
  if scope = .sys then { s2 with links := { s2.links with llines := [] } } else s2

/-- Bytes of the team's scratchpad that a group has written count as released (R156). -/
def State.noteScratchRelease (s : State) (team index : Nat) : State :=
  let mine := fun (o : OldByte) => o.team == team && o.writer == some index
  if s.mem.olds.isEmpty then s
  else { s with mem := { s.mem with olds := updWhere mine (fun o => { o with released := true }) s.mem.olds } }

/-- Released bytes of the team's scratchpad count as acquired by a group (R156), and the copies of the group whose flip another group has
observed are seen by it too (R173, R261). -/
def State.noteScratchAcquire (s : State) (team index : Nat) : State :=
  let due := fun (o : OldByte) => o.team == team && o.released && !(o.acquired.contains index)
  let own := fun (o : OldByte) => o.only && o.meets (some (team, index))
  if s.mem.olds.isEmpty then s
  else { s with mem := { s.mem with
    olds := (updWhere due (fun o => { o with acquired := index :: o.acquired }) s.mem.olds).filterMap fun o => if own o then o.performed else some o } }

/-- The release and acquire of the issuing group; from team scope on they cover its scratchpad. -/
def State.release (s : State) (scope : Scope) : State :=
  let t := (s.releaseBy s.g.core scope).admitBy scope
  if 1 ≤ scope.code then t.noteScratchRelease s.g.team s.g.index else t
def State.acquire (s : State) (scope : Scope) : State :=
  let t := s.acquireBy s.g.core scope
  if 1 ≤ scope.code then t.noteScratchAcquire s.g.team s.g.index else t

/-- The release of an instruction: what it empties and cleans, and then the wait until all of it is performed (R155, R261, R345, R370). -/
def State.releaseFirst (s : State) (scope : Scope) : Except Stop State := do
  s.versionScope scope
  let t := s.sendOn s.g.core scope
  need (t.performedBy s.g.core scope) (.wait t.stallHere)
  .ok (s.release scope)

/-- The marks that a release write of the parts leaves at its home where the scope is narrower than device (R262). -/
def State.recordRelease (s : State) (scope : Scope) (lines : List Nat) : State :=
  if scope.code < 5 then
    { s with mem := { s.mem with
      marks := (lines.map fun l => (⟨l, s.me, scope, s.ptp, [], false⟩ : ScopeMark)) ++
        s.mem.marks.filter fun m => !(lines.contains m.line && m.holder == s.me) } }
  else s

/-- The order has an acquire part, or a release part (R80). -/
def orderAcquires : Order → Bool
  | .acq | .ar | .sc => true
  | _ => false
def orderReleases : Order → Bool
  | .rel | .ar | .sc => true
  | _ => false

/-- IMPRECISE_STORE pending traps before any effect (R196). -/
def State.impreciseCheck (s : State) : Except Stop Unit :=
  match s.g.imprecise with
  | some va => .error (trap .impreciseStore va 0)
  | none => .ok ()

end Sys2Proof.Machine
end

