-- ==== Sys2Proof/Machine/Memory.lean ====
section
/-! DEFINITION. Vector loads, stores and prefetch (R135 to R145). -/
namespace Sys2Proof.Machine
set_option Elab.async false

/-- The spaces of R68. -/
inductive Space where
  | global | scratch | vault | slice
  deriving DecidableEq, Repr

/-- The bytes of an access of a size code (R68). -/
def sizeBytes : Size → Nat
  | .b1 => 1
  | .b2 => 2
  | .b4 => 4
  | .b8 => 8

/-- The scratchpad bytes of the issuing team (R135, R209). -/
def State.scratchBytes (s : State) : Nat := 4096 * s.grid.launch.scratch

/-- The vault-local window of a context's team in a column: base and length in bytes (R311). -/
def State.vaultWindow (s : State) (team : Nat) (c : CtxId) (col : ColId) : Nat × Nat :=
  let n := s.physNat ((s.entryOf team c).vlwin.toNat + 8 * col.val) 8
  (field n 0 13 * 65536, field n 16 13 * 65536)

/-- The address of a lane: modulo 2^64 in global memory, exact elsewhere (R135). -/
def laneAddr (sp : Space) (base off : Nat) : Nat := if sp = .global then (base + off) % 2 ^ 64 else base + off

/-- The bound check of R135 for one lane: the cause it fails with. -/
def State.boundFail (s : State) (sp : Space) (a size : Nat) : Option Cause :=
  match sp with
  | .global => if a < 2 ^ 55 then none else some .accessFault
  | .scratch => if a + size ≤ s.scratchBytes then none else some .scratchBound
  | .vault => if a + size ≤ (s.vaultWindow s.g.team s.ctxId s.colId).2 then none else some .vaultWindow
  | .slice => if a + size ≤ s.col.scratchBytes then none else some .sliceScratchAbsent

/-- Step 1 of R138 over the lanes with their addresses: the bounds, then the grant of the slice scratch. DESIGN CHOICE (log entry 111): a
lane that fails a bound reports its own address or offset, not the first byte beyond the bound, and of an exact offset the low 64 bits. -/
def State.boundCheck (s : State) (sp : Space) (size : Nat) (lanes : List (Nat × Nat)) : Except Stop Unit :=
  let bad := lanes.filterMap fun l => (s.boundFail sp l.2 size).map fun c => (l, c)
  match bad, lanes with
  | (l, c) :: _, _ => .error (trap c (BitVec.ofNat 64 l.2) (maskOf fun L => bad.any fun b => b.1.1 == L))
  | [], l :: _ =>
    need (sp != .slice || s.col.grant == some s.ctxId)
      (trap .accessFault (BitVec.ofNat 64 l.2) (maskOf fun L => lanes.any fun b => b.1 == L))
  | [], [] => .ok ()

/-- The part of a lane access that is not global: a place in the scratchpad, the column's vault or its slice (R135). -/
def State.localPart (s : State) (sp : Space) (size : Nat) (l : Nat × Nat) : Part :=
  let loc := match sp with
    | .vault => vaultLoc s.colId ((s.vaultWindow s.g.team s.ctxId s.colId).1 + l.2)
    | .slice => sliceLoc s.colId l.2
    | _ => scratchLoc s.g.team l.2
  let site := if sp = .vault && s.col.fenced then Site.lost loc else .mem loc
  ⟨l.1, l.2, size, 0, ⟨site, 8, Config.vaultKey s.ctxId.val, 0, false⟩⟩

/-- Steps 1 and 2 of R138: the parts of the lanes' accesses. -/
def State.spaceParts (s : State) (sp : Space) (acc : Access) (size : Nat) (lanes : List (Nat × Nat)) :
    Except Stop (List Part) := do
  s.boundCheck sp size lanes
  if sp = .global then s.xlatParts acc false (lanes.map fun l => laneCuts l.1 l.2 size).flatten
  else .ok (lanes.map (s.localPart sp size))

/-- Words of a register operand of a size: a pair for 8 bytes. -/
def sizeRegs (size : Nat) : Nat := if size = 8 then 2 else 1

/-- Loaded values written to the destination (R137): short values zero-extended, 8 bytes into the pair. -/
def Group.putLoad (g : Group) (d : VReg) (m : Word) (size : Nat) (f : Nat → Nat) : Group :=
  if size = 8 then g.setV64 d.toNat m fun L => BitVec.ofNat 64 (f L) else g.setV d.toNat m fun L => BitVec.ofNat 32 (f L)

/-- The value a lane stores (R137). -/
def Group.storeValue (g : Group) (d : VReg) (size L : Nat) : Nat :=
  if size = 8 then (g.lane64 d.toNat L).toNat else (g.lane d.toNat L).toNat

/-- The Active lanes with their addresses. -/
def laneList (m : Word) (addr : Nat → Nat) : List (Nat × Nat) := (lanesOf m).map fun L => (L, addr L)

/-- A load once its operands are checked (R137 to R139). -/
def State.vecLoad (s : State) (sp : Space) (d : VReg) (m : Word) (size : Nat) (addr : Nat → Nat) : Res := do
  if m = 0 then .ok s.retire
  else
    let ps ← s.spaceParts sp .read size (laneList m addr)
    let (vals, t) ← s.loadParts false ps
    .ok (t.retireWith (t.g.putLoad d m size (laneValue vals)))

/-- A write in a vault or a slice scratch forces the early commit of a VERSIONED team (R337). -/
def State.versionSpace (s : State) (sp : Space) (parts : List Part) : Except Stop Unit :=
  match sp with
  | .global => s.versionWrites parts
  | .scratch => .ok ()
  | _ => need (s.team.version.isNone) (.block .earlyCommit)

/-- Writes that readers may not see at once recorded (R156, R173). -/
def State.noteOlds (s : State) (l : List OldByte) : State := { s with mem := { s.mem with olds := l ++ s.mem.olds } }

/-- What a store to the scratchpad replaces stays in sight of the MMAS of the team's other groups (R156). -/
def State.noteScratch (s : State) (sp : Space) (parts : List Part) : State :=
  if sp = .scratch && s.grid.launch.macros != 0 then
    parts.foldl (fun (t : State) p => match p.x.site with
      | .mem loc => t.noteOlds (tabList (fun a =>
          ⟨a, s.mem.plain (s.keySlot p.x.key) a, s.g.team, some s.g.index, none, false, false, false, [], []⟩) loc p.len)
      | _ => t) s
  else s

/-- A store once its operands are checked (R137 to R139). -/
def State.vecStore (s : State) (sp : Space) (d : VReg) (m : Word) (size : Nat) (addr : Nat → Nat) : Res := do
  if m = 0 then .ok s.retire
  else
    let ps ← s.spaceParts sp .write size (laneList m addr)
    s.objStores false ps
    s.versionSpace sp ps
    .ok ((s.noteScratch sp ps).storeParts ps size (s.g.storeValue d size)).retire

/-- The registers that the per-lane accesses name (R136). -/
def Group.memNamed (g : Group) (d a : VReg) (size : Nat) : List Opnd :=
  [g.vSpanE d (sizeRegs size) (size == 8) 0, g.vOp a 0]

/-- A per-lane load (R135). -/
def loadOp (s : State) (sp : Space) (G : Guard) (d a : VReg) (b : SReg) (sz : Size) : Host.Outcome State Fault Refusal :=
  finish s do
    let m := s.g.active G
    s.operandsOf m (s.g.memNamed d a (sizeBytes sz)) [vSpan a 1 false m] anyType [b] [s.g.guardIdx G]
    s.vecLoad sp d m (sizeBytes sz) fun L => laneAddr sp (s.g.sReg b).toNat (s.g.lane a.toNat L).toNat

/-- A per-lane store (R135). -/
def storeOp (s : State) (sp : Space) (G : Guard) (d a : VReg) (b : SReg) (sz : Size) : Host.Outcome State Fault Refusal :=
  finish s do
    let m := s.g.active G
    s.operandsOf m (s.g.memNamed d a (sizeBytes sz)) [vSpan d (sizeRegs (sizeBytes sz)) false m, vSpan a 1 false m] anyType [b] [s.g.guardIdx G]
    s.vecStore sp d m (sizeBytes sz) fun L => laneAddr sp (s.g.sReg b).toNat (s.g.lane a.toNat L).toNat

/-- VLD (R135 to R142, R145). -/
def execVld (g : Guard) (d a : VReg) (b : SReg) (sz : Size) (s : State) : Host.Outcome State Fault Refusal :=
  loadOp s .global g d a b sz

/-- SPLD (R135, R141). -/
def execSpld (g : Guard) (d a : VReg) (b : SReg) (sz : Size) (s : State) : Host.Outcome State Fault Refusal :=
  loadOp s .scratch g d a b sz

/-- VTLD (R135, R245). -/
def execVtld (g : Guard) (d a : VReg) (b : SReg) (sz : Size) (s : State) : Host.Outcome State Fault Refusal :=
  loadOp s .vault g d a b sz

/-- SLLD (R135, R244). -/
def execSlld (g : Guard) (d a : VReg) (b : SReg) (sz : Size) (s : State) : Host.Outcome State Fault Refusal :=
  loadOp s .slice g d a b sz

/-- VST (R135 to R139). -/
def execVst (g : Guard) (d a : VReg) (b : SReg) (sz : Size) (s : State) : Host.Outcome State Fault Refusal :=
  storeOp s .global g d a b sz

/-- SPST (R135, R141). -/
def execSpst (g : Guard) (d a : VReg) (b : SReg) (sz : Size) (s : State) : Host.Outcome State Fault Refusal :=
  storeOp s .scratch g d a b sz

/-- VTST (R135, R245, R246). -/
def execVtst (g : Guard) (d a : VReg) (b : SReg) (sz : Size) (s : State) : Host.Outcome State Fault Refusal :=
  storeOp s .vault g d a b sz

/-- SLST (R135, R244). -/
def execSlst (g : Guard) (d a : VReg) (b : SReg) (sz : Size) (s : State) : Host.Outcome State Fault Refusal :=
  storeOp s .slice g d a b sz

/-! ### Consecutive elements -/

/-- The element size of VLDC and VSTC (R143). -/
def Group.elemBytes (g : Group) : Nat := if g.wide then 8 else 4

/-- The base of VLDC and VSTC: s[sb] + e·k (R143). -/
def Group.rowBase (g : Group) (b : SReg) (imm : BitVec 11) : Word :=
  g.sReg b + BitVec.ofNat 64 g.elemBytes * imm.signExtend 64

/-- The base check of R143, made only when a lane is Active. -/
def Group.rowAligned (g : Group) (m : Word) (b : SReg) (imm : BitVec 11) : Except Stop Unit :=
  need (m == 0 || (g.rowBase b imm).toNat % g.elemBytes == 0) (trap .misaligned (g.rowBase b imm) m)

/-- The address of a lane of VLDC and VSTC. -/
def Group.rowAddr (g : Group) (b : SReg) (imm : BitVec 11) (L : Nat) : Nat :=
  ((g.rowBase b imm).toNat + g.elemBytes * L) % 2 ^ 64

/-- VLDC (R143). -/
def execVldc (g : Guard) (d : VReg) (b : SReg) (imm : BitVec 11) (s : State) : Host.Outcome State Fault Refusal :=
  finish s do
    let m := s.g.active g
    s.operandsOf m [s.g.vOp d 0] [] anyType [b] [s.g.guardIdx g]
    s.g.rowAligned m b imm
    s.vecLoad .global d m s.g.elemBytes (s.g.rowAddr b imm)

/-- VSTC (R143). -/
def execVstc (g : Guard) (d : VReg) (b : SReg) (imm : BitVec 11) (s : State) : Host.Outcome State Fault Refusal :=
  finish s do
    let m := s.g.active g
    s.operandsOf m [s.g.vOp d 0] [s.g.vOp d m] anyType [b] [s.g.guardIdx g]
    s.g.rowAligned m b imm
    s.vecStore .global d m s.g.elemBytes (s.g.rowAddr b imm)

/-! ### Prefetch -/

/-- A line taken into the L1 of a core without a load (R144, R239). -/
def State.l1Fill (s : State) (o : Origin) (va key line : Nat) : State :=
  (s.mergeCopies line).l1Fetch ⟨o, BitVec.ofNat 64 va, key, 0⟩ none (128 * line) 128

/-- One lane of PREF in global memory: the line of a HOME 0 page enters the L1, anything else is dropped (R144). -/
def State.prefLane (s : State) (va : Nat) : State :=
  match s.groupXlat va 1 .read with
  | .ok x =>
    match x.site with
    | .mem loc =>
      if x.home = 0 then s.l1Fill s.origin (va - loc % 128) x.key (loc / 128) else s
    | _ => s
  | .error _ => s

/-- One lane of PREF.vt: the row that holds its offset is opened (R144). -/
def State.prefRow (s : State) (a : Nat) : State :=
  if (s.boundFail .vault a 1).isSome || s.col.fenced then s
  else s.activate [s.localPart .vault 1 (0, a)]

/-- PREF (R144). DEDUCED (log entry 116): PREF never traps at step 8, so that an odd va under f64, which R16 and R136 let other
instructions trap on there, is read as it stands. -/
def execPref (g : Guard) (a : VReg) (b : SReg) (sp : PrefSpace) (s : State) : Host.Outcome State Fault Refusal :=
  finish s do
    let m := s.g.active g
    s.operandsOf 0 [s.g.vOp a 0] [vSpan a 1 false m] anyType [b] [s.g.guardIdx g]
    let at' := fun (x : Space) (L : Nat) => laneAddr x (s.g.sReg b).toNat (s.g.lane a.toNat L).toNat
    .ok ((lanesOf m).foldl (fun (t : State) L =>
      if sp = .global then t.prefLane (at' .global L) else t.prefRow (at' .vault L)) s).retire

end Sys2Proof.Machine
end

