-- ==== Sys2Proof/Machine/Scalar.lean ====
section
/-! DEFINITION. Scalar integer arithmetic (R84 to R87). -/
namespace Sys2Proof.Machine
set_option Elab.async false

/-- A scalar result computed from registers that hold no error: written, and the instruction retires (R84). -/
def scalarOp (s : State) (d : SReg) (reads : List SReg) (x : Word) : Host.Outcome State Fault Refusal :=
  finish s do
    s.sound [] reads []
    .ok (s.retireWith (s.g.setS d x))

/-- A result that is 1 or 0. -/
def flagWord (b : Bool) : Word := if b then 1 else 0

/-- Bits [127:64] of the signed product (R84). -/
def mulHigh (a b : Word) : Word := ((a.signExtend 128) * (b.signExtend 128)).extractLsb' 64 64

/-- Bits [127:64] of the unsigned product (R84). -/
def mulHighN (a b : Word) : Word := ((a.zeroExtend 128) * (b.zeroExtend 128)).extractLsb' 64 64

/-- Signed quotient toward zero, with the fixed results of R85, at any width. -/
def quotS {w : Nat} (a b : BitVec w) : BitVec w :=
  if b = 0 then BitVec.allOnes w else BitVec.ofInt w (Int.tdiv a.toInt b.toInt)

/-- Unsigned quotient (R85). -/
def quotN {w : Nat} (a b : BitVec w) : BitVec w :=
  if b = 0 then BitVec.allOnes w else BitVec.ofNat w (a.toNat / b.toNat)

/-- Signed remainder with the sign of the dividend (R85). -/
def remS {w : Nat} (a b : BitVec w) : BitVec w :=
  if b = 0 then a else BitVec.ofInt w (Int.tmod a.toInt b.toInt)

/-- Unsigned remainder (R85). -/
def remN {w : Nat} (a b : BitVec w) : BitVec w :=
  if b = 0 then a else BitVec.ofNat w (a.toNat % b.toNat)

/-- Leading zero bits (R84, R116): the width for zero. -/
def clzOf {w : Nat} (a : BitVec w) : Nat := if a.toNat = 0 then w else w - 1 - Nat.log2 a.toNat

/-- The zero bits below the lowest bit set, counted from bit `i`. -/
def ctzFrom {w : Nat} (a : BitVec w) (i : Nat) : Nat → Nat
  | 0 => 0
  | k + 1 => if a.getLsbD i then 0 else 1 + ctzFrom a (i + 1) k

/-- Trailing zero bits: the width for zero (R84). -/
def ctzOf {w : Nat} (a : BitVec w) : Nat := ctzFrom a 0 w

/-- The count of a scalar shift: bits [5:0] (R84). -/
def shiftCount (b : Word) : Nat := b.toNat % 64

/-- ADD (R84): a + b. -/
def execAdd (d a b : SReg) (s : State) : Host.Outcome State Fault Refusal :=
  scalarOp s d [a, b] (s.g.sReg a + s.g.sReg b)

/-- SUB (R84): a − b. -/
def execSub (d a b : SReg) (s : State) : Host.Outcome State Fault Refusal :=
  scalarOp s d [a, b] (s.g.sReg a - s.g.sReg b)

/-- AND (R84): a AND b. -/
def execAnd (d a b : SReg) (s : State) : Host.Outcome State Fault Refusal :=
  scalarOp s d [a, b] (s.g.sReg a &&& s.g.sReg b)

/-- OR (R84): a OR b. -/
def execOr (d a b : SReg) (s : State) : Host.Outcome State Fault Refusal :=
  scalarOp s d [a, b] (s.g.sReg a ||| s.g.sReg b)

/-- XOR (R84): a XOR b. -/
def execXor (d a b : SReg) (s : State) : Host.Outcome State Fault Refusal :=
  scalarOp s d [a, b] (s.g.sReg a ^^^ s.g.sReg b)

/-- SLL (R84): a · 2^c with c = b[5:0]. -/
def execSll (d a b : SReg) (s : State) : Host.Outcome State Fault Refusal :=
  scalarOp s d [a, b] (s.g.sReg a <<< shiftCount (s.g.sReg b))

/-- SRL (R84): Floor(U(a) / 2^c). -/
def execSrl (d a b : SReg) (s : State) : Host.Outcome State Fault Refusal :=
  scalarOp s d [a, b] (s.g.sReg a >>> shiftCount (s.g.sReg b))

/-- SRA (R84): Floor(S(a) / 2^c). -/
def execSra (d a b : SReg) (s : State) : Host.Outcome State Fault Refusal :=
  scalarOp s d [a, b] ((s.g.sReg a).sshiftRight (shiftCount (s.g.sReg b)))

/-- MUL (R84): the low 64 bits of a · b. -/
def execMul (d a b : SReg) (s : State) : Host.Outcome State Fault Refusal :=
  scalarOp s d [a, b] (s.g.sReg a * s.g.sReg b)

/-- MULH (R84): bits [127:64] of S(a) · S(b). -/
def execMulh (d a b : SReg) (s : State) : Host.Outcome State Fault Refusal :=
  scalarOp s d [a, b] (mulHigh (s.g.sReg a) (s.g.sReg b))

/-- MULHN (R84): bits [127:64] of U(a) · U(b). -/
def execMulhn (d a b : SReg) (s : State) : Host.Outcome State Fault Refusal :=
  scalarOp s d [a, b] (mulHighN (s.g.sReg a) (s.g.sReg b))

/-- DIV (R85). -/
def execDiv (d a b : SReg) (s : State) : Host.Outcome State Fault Refusal :=
  scalarOp s d [a, b] (quotS (s.g.sReg a) (s.g.sReg b))

/-- DIVN (R85). -/
def execDivn (d a b : SReg) (s : State) : Host.Outcome State Fault Refusal :=
  scalarOp s d [a, b] (quotN (s.g.sReg a) (s.g.sReg b))

/-- REM (R85). -/
def execRem (d a b : SReg) (s : State) : Host.Outcome State Fault Refusal :=
  scalarOp s d [a, b] (remS (s.g.sReg a) (s.g.sReg b))

/-- REMN (R85). -/
def execRemn (d a b : SReg) (s : State) : Host.Outcome State Fault Refusal :=
  scalarOp s d [a, b] (remN (s.g.sReg a) (s.g.sReg b))

/-- SLT (R84): 1 if S(a) < S(b). -/
def execSlt (d a b : SReg) (s : State) : Host.Outcome State Fault Refusal :=
  scalarOp s d [a, b] (flagWord ((s.g.sReg a).slt (s.g.sReg b)))

/-- SLTN (R84): 1 if U(a) < U(b). -/
def execSltn (d a b : SReg) (s : State) : Host.Outcome State Fault Refusal :=
  scalarOp s d [a, b] (flagWord ((s.g.sReg a).ult (s.g.sReg b)))

/-- MIN (R84): the lesser of S(a), S(b). -/
def execMin (d a b : SReg) (s : State) : Host.Outcome State Fault Refusal :=
  scalarOp s d [a, b] (if (s.g.sReg a).slt (s.g.sReg b) then s.g.sReg a else s.g.sReg b)

/-- MAX (R84): the greater of S(a), S(b). -/
def execMax (d a b : SReg) (s : State) : Host.Outcome State Fault Refusal :=
  scalarOp s d [a, b] (if (s.g.sReg a).slt (s.g.sReg b) then s.g.sReg b else s.g.sReg a)

/-- MINN (R84): the lesser of U(a), U(b). -/
def execMinn (d a b : SReg) (s : State) : Host.Outcome State Fault Refusal :=
  scalarOp s d [a, b] (if (s.g.sReg a).ult (s.g.sReg b) then s.g.sReg a else s.g.sReg b)

/-- MAXN (R84): the greater of U(a), U(b). -/
def execMaxn (d a b : SReg) (s : State) : Host.Outcome State Fault Refusal :=
  scalarOp s d [a, b] (if (s.g.sReg a).ult (s.g.sReg b) then s.g.sReg b else s.g.sReg a)

/-- SEQ (R84): 1 if a = b. -/
def execSeq (d a b : SReg) (s : State) : Host.Outcome State Fault Refusal :=
  scalarOp s d [a, b] (flagWord (s.g.sReg a == s.g.sReg b))

/-- CLZ (R84): leading zero bits. -/
def execClz (d a : SReg) (s : State) : Host.Outcome State Fault Refusal :=
  scalarOp s d [a] (BitVec.ofNat 64 (clzOf (s.g.sReg a)))

/-- CTZ (R84): trailing zero bits. -/
def execCtz (d a : SReg) (s : State) : Host.Outcome State Fault Refusal :=
  scalarOp s d [a] (BitVec.ofNat 64 (ctzOf (s.g.sReg a)))

/-- POPC (R84): number of 1 bits. -/
def execPopc (d a : SReg) (s : State) : Host.Outcome State Fault Refusal :=
  scalarOp s d [a] (BitVec.ofNat 64 (popCount (s.g.sReg a)))

/-- ADDI (R86): the immediate is sign-extended. -/
def execAddi (d a : SReg) (imm : BitVec 12) (s : State) : Host.Outcome State Fault Refusal :=
  scalarOp s d [a] (s.g.sReg a + sext64 imm)

/-- ANDI (R86): the immediate is sign-extended. -/
def execAndi (d a : SReg) (imm : BitVec 12) (s : State) : Host.Outcome State Fault Refusal :=
  scalarOp s d [a] (s.g.sReg a &&& sext64 imm)

/-- ORI (R86): the immediate is sign-extended. -/
def execOri (d a : SReg) (imm : BitVec 12) (s : State) : Host.Outcome State Fault Refusal :=
  scalarOp s d [a] (s.g.sReg a ||| sext64 imm)

/-- XORI (R86): the immediate is sign-extended. -/
def execXori (d a : SReg) (imm : BitVec 12) (s : State) : Host.Outcome State Fault Refusal :=
  scalarOp s d [a] (s.g.sReg a ^^^ sext64 imm)

/-- SLTI (R86): the immediate is sign-extended. -/
def execSlti (d a : SReg) (imm : BitVec 12) (s : State) : Host.Outcome State Fault Refusal :=
  scalarOp s d [a] (flagWord ((s.g.sReg a).slt (sext64 imm)))

/-- SLLI (R86): a fixed count. -/
def execSlli (d a : SReg) (cnt : BitVec 6) (s : State) : Host.Outcome State Fault Refusal :=
  scalarOp s d [a] (s.g.sReg a <<< cnt.toNat)

/-- SRLI (R86): a fixed count. -/
def execSrli (d a : SReg) (cnt : BitVec 6) (s : State) : Host.Outcome State Fault Refusal :=
  scalarOp s d [a] (s.g.sReg a >>> cnt.toNat)

/-- SRAI (R86): a fixed count. -/
def execSrai (d a : SReg) (cnt : BitVec 6) (s : State) : Host.Outcome State Fault Refusal :=
  scalarOp s d [a] ((s.g.sReg a).sshiftRight cnt.toNat)

/-- A halfword immediate in its place (R70). -/
def halfword (hw : BitVec 2) (imm : BitVec 16) : Word := zext64 imm <<< (16 * hw.toNat)

/-- LIZ (R87): the immediate in halfword `hw`, every other bit zero. -/
def execLiz (d : SReg) (hw : BitVec 2) (imm : BitVec 16) (s : State) : Host.Outcome State Fault Refusal :=
  scalarOp s d [] (halfword hw imm)

/-- LIK (R87): halfword `hw` replaced, the other 48 bits kept. -/
def execLik (d : SReg) (hw : BitVec 2) (imm : BitVec 16) (s : State) : Host.Outcome State Fault Refusal :=
  scalarOp s d [d] ((s.g.sReg d &&& ~~~(halfword hw 0xFFFF)) ||| halfword hw imm)

end Sys2Proof.Machine
end

