-- ==== Sys2Proof/Machine/ScalarMem.lean ====
section
/-! DEFINITION. Scalar loads and stores (R88 to R90). -/
namespace Sys2Proof.Machine
set_option Elab.async false

/-- The address of LD, ST and LDK (R88). -/
def scalarEa (g : Group) (a : SReg) (imm : BitVec 12) : Word := g.sReg a + imm.signExtend 64

/-- Checks 1 and 2 of R89: the address space, and 8-byte alignment. -/
def scalarAddr (ea : Word) : Except Stop Unit := do
  need (ea.toNat < 2 ^ 55) (trap .accessFault ea 0)
  need (ea.toNat % 8 == 0) (trap .misaligned ea 0)

/-- The part of a scalar access, once translated (R89 step 3). -/
def State.scalarPart (s : State) (acc : Access) (ea : Word) : Except Stop (List Part) :=
  s.xlatParts acc true [(0, ea.toNat, 8, 0)]

/-- The 8 bytes at an address read by the issuing group (R89). -/
def State.loadWord (s : State) (ea : Word) : Except Stop (Word × State) := do
  scalarAddr ea
  let ps ← s.scalarPart .read ea
  let (vals, t) ← s.loadParts true ps
  .ok (BitVec.ofNat 64 (laneValue vals 0), t)

/-- LD (R88, R89). -/
def execLd (d a : SReg) (imm : BitVec 12) (s : State) : Host.Outcome State Fault Refusal :=
  finish s do
    s.sound [] [a] []
    let (x, t) ← s.loadWord (scalarEa s.g a imm)
    .ok (t.retireWith (t.g.setS d x))

/-- ST (R88, R89). -/
def execSt (d a : SReg) (imm : BitVec 12) (s : State) : Host.Outcome State Fault Refusal :=
  finish s do
    s.sound [] [d, a] []
    let ea := scalarEa s.g a imm
    scalarAddr ea
    let ps ← s.scalarPart .write ea
    s.objStores true ps
    s.versionWrites ps
    .ok (s.storeParts ps 8 fun _ => (s.g.sReg d).toNat).retire

/-- A word that the constant cache of a core holds (R90). -/
def CoreState.constWord (c : CoreState) (ps : List Part) : Option Word :=
  match ps with
  | p :: _ => p.loc.bind fun loc => (c.consts.find? fun w => w.1 == loc && w.2.1 == p.x.key).map (·.2.2)
  | [] => none

/-- LDK (R88 to R90): through the constant cache of the core, after the partials of the line are merged (R251); the line of an allowance object is refused. -/
def execLdk (d a : SReg) (imm : BitVec 12) (s : State) : Host.Outcome State Fault Refusal :=
  finish s do
    s.sound [] [a] []
    let ea := scalarEa s.g a imm
    scalarAddr ea
    let ps ← s.scalarPart .read ea
    need ((ps.filterMap s.partObj).isEmpty) (trap .accessFault ea 0)
    match s.core.constWord ps with
    | some x =>
      let t := ((ps.map Part.lines).flatten).foldl State.mergeCopies s
      .ok (t.retireWith (t.g.setS d x))
    | none =>
      let (vals, t) ← s.loadParts true ps
      .ok (t.retireWith (t.g.setS d (BitVec.ofNat 64 (laneValue vals 0))))

end Sys2Proof.Machine
end

