-- ==== Sys2Proof/Machine/Atomic.lean ====
section
/-! DEFINITION. Atomics, reductions, ordered accesses and fences (R146 to R156, R249 to R252, R262, R263). -/
namespace Sys2Proof.Machine
set_option Elab.async false

/-! ### The contention predictor -/

/-- The columns whose slices have performed an atomic on the line, after one more. -/
def Predictor.performed (p : Predictor) (col : ColId) (now : Nat) : List (ColId × Nat) := (col, now) :: p.near.filter fun x => x.1 != col

/-- A returning atomic of a column at a HOME 0 line, seen by the line's predictor (R250): near in states 0 and 1, far in 2
and 3; `held c` says that the slice of a column holds the line, so that a near atomic has to take it from there. The time between two
atomics is PTP time; 4,096 cycles of 3.3 GHz are 40,960/33 ns. -/
def Predictor.atomic (p : Predictor) (col home : ColId) (now : Nat) (held : ColId → Bool) : Predictor :=
  if p.state.toNat < 2 then
    let contended := p.near.any fun x => x.1 != col && held x.1 && (now - x.2) * 33 ≤ 40960
    { p with state := if contended then p.state + 1 else p.state
             run := if contended then 0 else p.run, near := p.performed col now }
  else
    let q := if p.far = some col then
        (if p.run = 15 then { p with state := p.state - 1, run := 0 } else { p with run := p.run + 1 })
      else { p with far := some col, run := 1 }
    { q with near := p.performed home now }

/-! ### One operation at memory -/

/-- The word of a part, past the core's own copy of its line. -/
def State.atomRead (s : State) (p : Part) : Nat := leNat (s.partBytes p)

/-- Where a returning atomic executes (R249, R250): a HOME 0 line is taken by the slice that performs it, near or far. -/
def State.atomPlace (s : State) (p : Part) : ColId × State :=
  match p.x.site with
  | .mem loc =>
    if p.x.home = 0 && s.dev.isHbm loc && s.team.version.isNone then
      let line := loc / 128
      let old := s.mem.predictor line
      let col := if old.state.toNat < 2 then s.colId else homeColumn loc
      let new := old.atomic s.colId (homeColumn loc) s.ptp.toNat fun c => s.mem.slices.any fun l => l.col == c && !l.host && l.line == line
      (col, ({ s with mem := { s.mem with predictors := new :: s.mem.predictors.filter fun q => q.line != line } } : State).ownLine
        col false line)
    else (s.colId, s)
  | _ => (s.colId, s)

/-- The word of a part written where the atomic executes, or in the version of its team (R267). -/
def State.atomWrite (s : State) (col : ColId) (by' : Option Party) (p : Part) (size : Nat) (x : Nat) : State :=
  match p.x.site with
  | .mem loc =>
    if s.team.version.isSome then (s.storePart p (leBytes size x)).noteVersionRelease by' loc size
    else s.performAt col (s.writer p) by' loc (leBytes size x)
  | _ => s.storePart p (leBytes size x)

/-- The core's copies of the lines of the parts written to the slice and dropped (R249). -/
def State.passL1 (s : State) (parts : List Part) : State :=
  (parts.map Part.lines).flatten.foldl (fun (t : State) l => t.cleanDrop t.g.core l) s

/-- The lines that the parts touch. -/
def partLines (parts : List Part) : List Nat := ((parts.map Part.lines).flatten).eraseDups

/-- An instruction waits behind the leases on a line and the host's copy of it (R364, R370): its place is kept once, and no lease comes between
the end of the wait and the access. -/
def State.lineFree (s : State) (line : Nat) : Except Stop Unit :=
  if (s.holdOf line).isSome then
    let mine := fun (h : HeldWrite) => h.loc / 128 == line && !h.writes && h.who == some s.origin
    if s.links.held.any mine then .error (.wait s.stallHere)
    else .error (.wait ((s.keepPlace (some s.origin) none line).stallHere))
  else .ok ()

/-- An atomic waits behind the leases and the host's copies of its lines. -/
def State.holdsDone (s : State) (parts : List Part) : Except Stop Unit :=
  match (partLines parts).find? fun l => (s.holdOf l).isSome with
  | none => .ok ()
  | some line => s.lineFree line

/-- The release part of an ordered access (R155). -/
def State.releasePart (s : State) (sc : Scope) (od : Order) : Except Stop State :=
  if orderReleases od then s.releaseFirst sc else .ok s

/-- A release write's agent, where the order has a release part (R263). -/
def State.releaser (s : State) (od : Order) : Option Party := if orderReleases od then some (.group s.me) else none

/-- The marks of a release write (R262). -/
def State.orderEnds (s : State) (sc : Scope) (od : Order) (parts : List Part) : State :=
  if orderReleases od && s.team.version.isNone then s.recordRelease sc (partLines parts) else s

/-- Answers of the peers for a returning atomic, which is no blocking point: it stalls until they have come, its release made (R146,
R367). -/
def State.peerAtomics (s : State) (scalar : Bool) (parts : List Part) : Except Stop Unit :=
  s.peerReads scalar [] parts fun t =>
    .wait ({ t with g := { t.g with peerData := some (.data t.g.come) } } : State).stallHere

/-- The old values that the peers sent, lane by lane, with what remains. -/
def sentValue (sent : List Byte) (p : Part) : Nat × List Byte :=
  if p.isPeer then (leNat (sent.take p.len), sent.drop p.len) else (0, sent)

/-- The operations of the parts in ascending lane order (R150): each lane gets the value just before its own operation; `f` gives
the new value of a lane from the old, or none when nothing is written. -/
def State.atomLanes (size : Nat) (by' : Option Party) (f : Nat → Nat → Option Nat) :
    List Part → List Byte → State → List (Nat × Nat) × State
  | [], _, s => ([], s)
  | p :: r, sent, s =>
    let (peer, rest) := sentValue sent p
    let old := if p.isPeer then peer else s.atomRead p
    let s1 := if p.isPeer then s else
      let (col, s0) := s.atomPlace p
      match f p.lane old with
      | some x => s0.atomWrite col by' p size x
      | none => s0
    let (vals, t) := State.atomLanes size by' f r rest s1
    ((p.lane, old) :: vals, t)

/-- The parts in which an atomic has written. -/
def wroteParts (f : Nat → Nat → Option Nat) (parts : List Part) (vals : List (Nat × Nat)) : List Part :=
  (parts.zip vals).filterMap fun x => if (f x.1.lane x.2.2).isSome then some x.1 else none

/-- How many of the lanes that are left an atomic performs now: another agent's operation may fall behind them (R150). -/
def Group.pieceLength (g : Group) (left : Nat) : Nat := if 0 < g.split && g.split < left then g.split else left

/-- The next lanes of an atomic performed, from what stands of it: the release part has been made, the acquire part follows the last lane
(R146). Where lanes are left the instruction goes on later, from the first of them (R150). -/
def State.atomPiece (t : State) (size : Nat) (r : AtomRun) (sc : Scope) (od : Order) (f : Nat → Nat → Option Nat) :
    Except Stop (List (Nat × Nat) × State) := do
  let left := r.parts.drop r.vals.length
  t.holdsDone left
  let n := t.g.pieceLength left.length
  let piece := left.take n
  let t0 := t.dropPlaces (some t.origin) none (partLines piece)
  let u := (((t0.settle t0.g.core piece).passL1 piece).activate piece).catchUp piece
  let scope := u.widened r.scope piece
  let (vals, v) := State.atomLanes size (t.releaser od) f piece r.sent u
  let wrote := wroteParts f piece vals
  if n < left.length then
    let w := v.orderEnds sc od wrote
    let rest : AtomRun := ⟨r.parts, r.vals ++ vals, r.sent.drop (peerLength piece), scope⟩
    .error (.wait ({ w with g := { w.g with split := 0, atom := some rest } } : State).stallHere)
  else
    let w := (if orderAcquires od then v.acquire scope else v).orderEnds sc od wrote
    .ok (r.vals ++ vals, if r.vals.isEmpty then w else { w with g := { w.g with atom := none } })

/-- The checks of steps 2 to 5 of R153 for a returning atomic, and its release part (R146). -/
def State.atomStart (s : State) (scalar : Bool) (parts : List Part) (sc : Scope) (od : Order) : Except Stop State := do
  s.objStores scalar parts
  (s.settle s.g.core parts).poisonCheck scalar parts
  s.versionWrites parts
  s.versionScope sc
  s.markCheck s.me (partLines parts)
  s.earlierWrites parts
  let t ← s.releasePart sc od
  t.peerAtomics scalar parts
  .ok t

/-- A returning atomic (R146, R150, R153): one lane after the other, from its start or from where it stands. -/
def State.returning (s : State) (scalar : Bool) (size : Nat) (parts : List Part) (sc : Scope) (od : Order)
    (f : Nat → Nat → Option Nat) : Except Stop (List (Nat × Nat) × State) :=
  match if scalar then none else s.g.atom with
  | some r => s.atomPiece size r sc od f
  | none => do
    let t ← s.atomStart scalar parts sc od
    t.atomPiece size ⟨parts, [], s.g.come, sc⟩ sc od f

/-! ### Vector atomics -/

/-- Every lane's address a multiple of the access size (R153 step 2). -/
def alignCheck (size : Nat) (lanes : List (Nat × Nat)) : Except Stop Unit :=
  let bad := lanes.filter fun l => l.2 % size != 0
  match bad with
  | [] => .ok ()
  | l :: _ => .error (trap .misaligned (BitVec.ofNat 64 l.2) (maskOf fun L => bad.any fun b => b.1 == L))

/-- Steps 1 to 3 of R153: the parts of the lanes, one each; an atomic between two of its lanes has passed them (R150). -/
def State.atomParts (s : State) (size : Nat) (lanes : List (Nat × Nat)) : Except Stop (List Part) :=
  match s.g.atom with
  | some r => .ok r.parts
  | none => do
    s.boundCheck .global size lanes
    alignCheck size lanes
    s.xlatParts .write false (lanes.map fun l => (l.1, l.2, size, 0))

/-- The Active lanes with the addresses of their pairs (R79). -/
def Group.pairAddrs (g : Group) (m : Word) (a : VReg) : List (Nat × Nat) :=
  laneList m fun L => (g.lane64 a.toNat L).toNat

/-- The TYPEs of AMOV, CASV and REDV (R136). -/
def amovType (t : Nat) : Bool := t == 0 || t == 1 || t == 6 || t == 9
def casvType (t : Nat) : Bool := t ≤ 8
def redvType (t : Nat) : Bool := t == 0 || t == 1 || (6 ≤ t && t ≤ 9)

/-- The operands of a lane-wise atomic: the address pair is the first check of step 8, then the register of the data (R153, R16,
R79); with an empty Active there is no step 8 (R139, R153). -/
def State.laneOperands (s : State) (d a : Opnd) (accepts : Nat → Bool) (G : Guard) : Except Stop Unit := do
  s.g.step6 [d, a]
  s.g.step7 accepts
  if s.g.atom.isSome then .ok () else s.sound [d, a] [] [s.g.guardIdx G]
  if s.g.active G = 0 then .ok () else evenCheck [a, d]

/-- AMOV (R147, R148, R150, R153). -/
def execAmov (g : Guard) (d a : VReg) (sc : Scope) (od : Order) (f : AOp) (s : State) : Host.Outcome State Fault Refusal :=
  finish s do
    let m := s.g.active g
    let size := s.g.elemBytes
    s.laneOperands (s.g.vOp d m) (vSpan a 2 true m) amovType g
    if m = 0 then .ok s.retire
    else
      let ps ← s.atomParts size (s.g.pairAddrs m a)
      let (vals, t) ← s.returning false size ps sc od fun L old => some (aopApply false s.g.ety f old (s.g.raw d L))
      .ok (t.retireWith (t.g.setRaw d m (laneValue vals)))

/-- CASV (R149, R150, R153): compare with v[vd], new value v[vd + 1]. -/
def execCasv (g : Guard) (d a : VReg) (sc : Scope) (od : Order) (s : State) : Host.Outcome State Fault Refusal :=
  finish s do
    let m := s.g.active g
    s.laneOperands (vSpan d 2 true m) (vSpan a 2 true m) casvType g
    if m = 0 then .ok s.retire
    else
      let ps ← s.atomParts 4 (s.g.pairAddrs m a)
      let (vals, t) ← s.returning false 4 ps sc od fun L old =>
        if old = (s.g.lane d.toNat L).toNat then some (s.g.lane (d.toNat + 1) L).toNat else none
      .ok (t.retireWith (t.g.setV d.toNat m fun L => BitVec.ofNat 32 (laneValue vals L)))

/-- A reduction of one part on its way (R152, R249): into the combining buffer, the version of a team, or to a peer. -/
def State.reducePart (s : State) (scalar : Bool) (size : Nat) (t : EType) (op : AOp) (x : Nat) (p : Part) : State :=
  match p.x.site with
  | .mem loc =>
    if s.team.version.isSome then s.storePart p (leBytes size (aopApply scalar t op (s.atomRead p) x))
    else (s.cleanDrop s.g.core (loc / 128)).combine
      ⟨loc, size, op, t, scalar, BitVec.ofNat 64 x, s.origin, BitVec.ofNat 64 p.va, p.x.key, p.x.home, []⟩
  | .peer k pa =>
    if s.peerDead p then s.failStore .storeFailed s.origin (BitVec.ofNat 64 p.va) pa
    else (s.sendPeer ⟨k, pa, leBytes size x, some op, some s.origin, BitVec.ofNat 64 p.va, false, none⟩).notePeer none pa size
  | _ => s.storePart p (leBytes size (aopApply scalar t op (s.atomRead p) x))

/-- A reduction in a peer window by a VERSIONED team, which the version cannot hold without the peer's word, waits for the early commit.
DESIGN CHOICE (log entry 90): R337 does not name it. -/
def State.versionReduces (s : State) (parts : List Part) : Except Stop Unit :=
  need (s.team.version.isNone || !(parts.any Part.isPeer)) (.block .earlyCommit)

/-- The reductions of the parts in ascending lane order (R150, R152), after the release of a .rel. -/
def State.reducing (s : State) (scalar : Bool) (size : Nat) (parts : List Part) (sc : Scope) (od : Order) (t : EType) (op : AOp)
    (x : Nat → Nat) : Except Stop State := do
  s.objStores scalar parts
  s.versionWrites parts
  s.versionReduces parts
  let u ← s.releasePart sc od
  .ok (parts.foldl (fun (v : State) p => v.reducePart scalar size t op (x p.lane) p) (u.catchUp parts))

/-- REDV (R152, R153). -/
def execRedv (g : Guard) (d a : VReg) (sc : Scope) (od : Order) (f : AOp) (s : State) : Host.Outcome State Fault Refusal :=
  finish s do
    let m := s.g.active g
    let size := s.g.elemBytes
    s.laneOperands (s.g.vOp d m) (vSpan a 2 true m) redvType g
    if m = 0 then .ok s.retire
    else
      let ps ← s.atomParts size (s.g.pairAddrs m a)
      let t ← s.reducing false size ps sc od s.g.ety f (s.g.raw d)
      .ok t.retire

/-! ### Scalar atomics -/

/-- The part of a scalar atomic (R153): bound, alignment, translation. -/
def State.scalarAtom (s : State) (acc : Access) (ea : Word) : Except Stop (List Part) := do
  scalarAddr ea
  s.scalarPart acc ea

/-- AMOS (R151, R153). -/
def execAmos (d a : SReg) (sc : Scope) (od : Order) (f : AOp) (s : State) : Host.Outcome State Fault Refusal :=
  finish s do
    s.sound [] [d, a] []
    let ps ← s.scalarAtom .write (s.g.sReg a)
    let (vals, t) ← s.returning true 8 ps sc od fun _ old => some (aopApply true .i32 f old (s.g.sReg d).toNat)
    .ok (t.retireWith (t.g.setS d (BitVec.ofNat 64 (laneValue vals 0))))

/-- CASS (R151, R153): compare with s[sd], new value s[sd + 1]. -/
def execCass (d a : SReg) (sc : Scope) (od : Order) (s : State) : Host.Outcome State Fault Refusal :=
  finish s do
    s.sound [] [d, d + 1, a] []
    need (d.toNat % 2 == 0) (trapN .illegalOperand d.toNat)
    let ps ← s.scalarAtom .write (s.g.sReg a)
    let (vals, t) ← s.returning true 8 ps sc od fun _ old =>
      if old = (s.g.sReg d).toNat then some (s.g.sReg (d + 1)).toNat else none
    .ok (t.retireWith (t.g.setS d (BitVec.ofNat 64 (laneValue vals 0))))

/-- REDS (R151, R152, R153). -/
def execReds (d a : SReg) (sc : Scope) (od : Order) (f : AOp) (s : State) : Host.Outcome State Fault Refusal :=
  finish s do
    s.sound [] [d, a] []
    let ps ← s.scalarAtom .write (s.g.sReg a)
    let t ← s.reducing true 8 ps sc od .i32 f fun _ => (s.g.sReg d).toNat
    .ok t.retire

/-! ### Ordered accesses -/

/-- The acquire of a read, widened to the agents whose release writes it returns (R155, R263): widening may drop the core's copies, and
what stands behind them may widen it once more. -/
def State.acquireRead (s : State) (sc : Scope) (parts : List Part) : State :=
  let step := fun (x : State × Scope) => let sc' := x.1.widened x.2 parts; (x.1.acquire sc', sc')
  (step (step (s.acquire sc, sc))).1

/-- An .sc read follows the group's earlier .sc writes (R258). -/
def State.scWaits (s : State) (od : Order) : Except Stop Unit :=
  need (od != .sc || !((s.links.held.any fun h => h.sc && h.who == some s.origin) ||
    s.links.peerWrites.any fun w => w.sc && w.who == some s.origin)) .stall

/-- LDA (R154, R258, R262, R263). -/
def execLda (d a : SReg) (sc : Scope) (od : Order) (s : State) : Host.Outcome State Fault Refusal :=
  finish s do
    s.sound [] [a] []
    let ps ← s.scalarAtom .read (s.g.sReg a)
    s.markCheck s.me (partLines ps)
    s.scWaits od
    let (vals, t) ← (s.acquireRead sc ps).loadParts true ps
    .ok (t.retireWith (t.g.setS d (BitVec.ofNat 64 (laneValue vals 0))))

/-- The write of STRL: into the L1 for a scope within the core, to the home beyond (R257, R262). -/
def State.storeRelease (s : State) (sc : Scope) (od : Order) (p : Part) (x : Word) : State :=
  let bs := leBytes 8 x.toNat
  match p.x.site with
  | .mem loc =>
    if s.team.version.isSome then (s.storePart p bs).noteVersionRelease (s.releaser od) loc 8
    else if p.x.home = 0 && sc.code < 3 then s.l1Write (s.writer p) (s.releaser od) loc bs
    else (s.cleanDrop s.g.core (loc / 128)).writeHomeAs (s.writer p) ⟨false, od == .sc, s.releaser od, none⟩ loc bs
  | .peer k pa =>
    if s.peerDead p then s.storePart p bs
    else if s.team.version.isSome then (s.storePart p bs).noteVersionRelease (s.releaser od) pa 8
    else (s.sendPeer ⟨k, pa, bs, none, some s.origin, BitVec.ofNat 64 p.va, od == .sc, none⟩).notePeer (s.releaser od) pa 8
  | _ => s.storePart p bs

/-- STRL (R154, R261, R262). -/
def execStrl (d a : SReg) (sc : Scope) (od : Order) (s : State) : Host.Outcome State Fault Refusal :=
  finish s do
    s.sound [] [d, a] []
    let ps ← s.scalarAtom .write (s.g.sReg a)
    s.objStores true ps
    s.versionWrites ps
    let t ← s.releasePart sc od
    let u := ps.foldl (fun (v : State) p => v.storeRelease sc od p (s.g.sReg d)) ((t.settle t.g.core ps).activate ps)
    .ok (u.orderEnds sc od ps).retire

/-! ### Fences -/

/-- FENCE (R155, R196). -/
def execFence (sc : Scope) (od : Order) (s : State) : Host.Outcome State Fault Refusal :=
  finish s do
    s.impreciseCheck
    let t ← s.releasePart sc od
    .ok (if orderAcquires od then t.acquire sc else t).retire

/-- The bytes of the scratchpad that the group has acquired are visible to its later MMAS (R156). -/
def State.fenceScratch (s : State) : State :=
  let mine := fun (o : OldByte) => o.team == s.g.team && o.acquired.contains s.g.index
  if s.mem.olds.isEmpty then s
  else { s with mem := { s.mem with olds := updWhere mine (fun o => { o with fenced := s.g.index :: o.fenced }) s.mem.olds } }

/-- FENCEO (R156, R152): the combining buffer is emptied, and what the group has acquired becomes visible to its MMAS. -/
def execFenceo (s : State) : Host.Outcome State Fault Refusal := done (s.drainComb s.g.core fun _ => true).fenceScratch.retire

end Sys2Proof.Machine
end

