-- ==== Sys2Proof/Machine/Allowance.lean ====
section
/-! DEFINITION. Allowance counters: the instructions (R157 to R163) and the messages between columns and homes (R269 to R276). -/
namespace Sys2Proof.Machine
set_option Elab.async false

/-! ### Checks -/

/-- The largest value and residual (R158, R161). -/
def alMax : Nat := 2 ^ 63 - 1

/-- Checks 1 to 3 of R157 and the ownership of R278: the object's line and the key slot of its page. -/
def State.alAddress (s : State) (A : Word) : Except Stop (Nat × Nat) := do
  need (A.toNat % 128 == 0) (trap .misaligned A 0)
  need (A.toNat < 2 ^ 55) (trap .accessFault A 0)
  match s.groupXlat A.toNat 128 .readWrite with
  | .error (.fault _ incs) => .error (.trap ⟨.accessFault, A, 0, incs, none⟩)
  | .error x => .error (xstop A .readWrite x)
  | .ok x =>
    match x.site with
    | .mem loc =>
      need (x.home ≤ 1) (trap .alPlacement A 0)
      match s.objOf (loc / 128) with
      | some o => need (o.ctx == s.ctxId) (trap .alPlacement A 0)
      | none => .ok ()
      .ok (loc / 128, x.key)
    | _ => .error (trap .alPlacement A 0)

/-- Every check of R157: the object, registered, and the key slot of its page. -/
def State.alObject (s : State) (A : Word) : Except Stop (AlObject × Nat) := do
  let (line, key) ← s.alAddress A
  match s.objOf line with
  | some o => .ok (o, key)
  | none => .error (trap .alUnregistered A 0)

/-- One object changed. -/
def State.modObj (s : State) (obj : Nat) (f : AlObject → AlObject) : State :=
  { s with objs := updWhere (fun o => o.obj == obj) f s.objs }

/-- The units that a column can spend on an object by itself: none in state RECALLED, or without an entry that can be made
(R270, R272). -/
def ColState.localUnits (c : ColState) (obj : Nat) : Option Nat :=
  match c.alEntry obj with
  | some e => if e.recalled then none else some e.units
  | none => if !(c.alRounds.contains obj) && (c.alTable.length < 1024 || c.lruHold.isSome) then some 0 else none

/-- A column's entry with other units, now the most recently used. -/
def State.putUnits (s : State) (c : ColId) (obj units : Nat) : State := s.modCol c fun x => x.setEntry ⟨obj, units, false⟩

/-! ### ALINIT -/

/-- The words of a line dropped from every constant cache (R90). -/
def State.dropConsts (s : State) (line : Nat) : State :=
  { s with cores := s.cores.map fun c =>
      if c.consts.isEmpty then c else { c with consts := c.consts.filter fun w => w.1 / 128 != line } }

/-- Every cached copy of a line written back and dropped (R158): in the cores, in the slices, in the host cores' caches. -/
def State.purgeLine (s : State) (line : Nat) : State :=
  let s1 := (List.finRange 256).foldl (fun (t : State) c =>
    let t1 := t.drainComb c fun e => e.touches (128 * line) 128
    if (t1.cores.get c).l1.any fun l => l.line == line then t1.cleanDrop c line else t1) s
  ((s1.mergeCopies line).freeLine line).dropConsts line

/-- The first operand of ALINIT out of its range (R158 step 3): 0, 1 or 2 from sb. DESIGN CHOICE (log entry 129): where the batch exceeds the cap,
each within its own range, the cap is the one. -/
def badInit (T b c : Nat) : Option Nat :=
  if alMax < T then some 0
  else if b = 0 then some 1
  else if c < b || 2 ^ 32 - 1 < c then some 2
  else none

/-- ALINIT (R158): copies of the line at peers and at the CXL host are waited for (R364, R370). -/
def execAlinit (d a b : SReg) (s : State) : Host.Outcome State Fault Refusal :=
  finish s do
    need (b.toNat ≤ 61) (trapN .illegalOperand b.toNat)
    s.sound [] [a, b, b + 1, b + 2] []
    let A := s.g.sReg a
    let (line, _) ← s.alAddress A
    let T := (s.g.sReg b).toNat
    let batch := (s.g.sReg (b + 1)).toNat
    let cap := (s.g.sReg (b + 2)).toNat
    match badInit T batch cap with
    | some i => .error (trapN .illegalOperand (b.toNat + i))
    | none =>
      if (s.objOf line).isSome then .error (.wait (s.alWaits line A .init (.init d)))
      else if 8192 ≤ s.objs.length then .ok (s.retireWith (s.g.setS d 2))
      else
        s.lineFree line
        let t := (s.dropPlaces (some s.origin) none [line]).purgeLine line
        let o : AlObject := ⟨line, s.ctxId, T, batch, cap, .normal, []⟩
        .ok { t with objs := t.objs ++ [o] , g := (t.g.setS d 0).retire }

/-! ### Takes and gives -/

/-- ALTAKE (R159, R272). -/
def execAltake (d a b : SReg) (s : State) : Host.Outcome State Fault Refusal :=
  finish s do
    s.sound [] [a, b] []
    let A := s.g.sReg a
    let n := (s.g.sReg b).toNat
    let (o, _) ← s.alObject A
    if n = 0 then .ok (s.retireWith (s.g.setS d 1))
    else match s.col.localUnits o.obj with
      | some u =>
        if n ≤ u then .ok ((s.putUnits s.colId o.obj (u - n)).retireWith (s.g.setS d 1))
        else .error (.wait (s.alWaits o.obj A (.take n) (.take d)))
      | none => .error (.wait (s.alWaits o.obj A (.take n) (.take d)))

/-- The amounts of the Active lanes (R160). -/
def Group.amounts (g : Group) (m : Word) (a : VReg) : List (Nat × Nat) :=
  (lanesOf m).map fun L => (L, (g.lane a.toNat L).toNat)

/-- The sum of amounts. -/
def amountSum (us : List (Nat × Nat)) : Nat := (us.map (·.2)).foldl (· + ·) 0

/-- ALTAKEV (R160, R272). -/
def execAltakev (g : Guard) (d : PReg) (a : VReg) (b : SReg) (s : State) : Host.Outcome State Fault Refusal :=
  finish s do
    let m := s.g.active g
    s.operands [vSpan a 1 false m] anyType [b] [s.g.guardIdx g]
    if m = 0 then .ok s.retire
    else
      let A := s.g.sReg b
      let (o, _) ← s.alObject A
      let us := s.g.amounts m a
      match s.col.localUnits o.obj with
      | some u =>
        if amountSum us ≤ u then
          let t := if u = 0 then s else s.putUnits s.colId o.obj (u - amountSum us)
          .ok (t.retireWith (s.g.setP d m m))
        else .error (.wait (s.alWaits o.obj A (.vtake us) (.vtake d m us)))
      | none => .error (.wait (s.alWaits o.obj A (.vtake us) (.vtake d m us)))

/-- A GIVE sent by the issuing group, which waits for the reply (R272, R274). -/
def State.sendGive (s : State) (obj : Nat) (A : Word) (d : SReg) (n taken : Nat) : State :=
  let s1 := s.sendAl s.colId (objHome obj) obj (.give (.group s.g.core s.g.slot s.g.team) n)
  { s1 with g := { s1.g with status := .allowance obj A (.give d taken) } }

/-- ALGIVE (R161, R272). -/
def execAlgive (d a b : SReg) (s : State) : Host.Outcome State Fault Refusal :=
  finish s do
    s.sound [] [a, b] []
    let A := s.g.sReg a
    let n := (s.g.sReg b).toNat
    let (o, _) ← s.alObject A
    if n = 0 then .ok (s.retireWith (s.g.setS d 0))
    else match s.needEntry s.colId o.obj with
      | (some e, t) =>
        if e.recalled then .error (.wait (s.sendGive o.obj A d n 0))
        else
          let units := Nat.min o.c (e.units + n)
          let u := t.putUnits s.colId o.obj units
          let excess := e.units + n - units
          if excess = 0 then .ok (u.retireWith (u.g.setS d (BitVec.ofNat 64 n)))
          else .error (.wait (u.sendGive o.obj A d excess (n - excess)))
      | (none, _) => .error (.wait (s.sendGive o.obj A d n 0))

/-- ALREAD (R162). -/
def execAlread (d a : SReg) (s : State) : Host.Outcome State Fault Refusal :=
  finish s do
    s.sound [] [a] []
    let (o, _) ← s.alObject (s.g.sReg a)
    .error (.wait (s.alWaits o.obj (s.g.sReg a) .read (.read d)))

/-- ALFREE (R163). -/
def execAlfree (d a : SReg) (s : State) : Host.Outcome State Fault Refusal :=
  finish s do
    s.sound [] [a] []
    let (o, key) ← s.alObject (s.g.sReg a)
    .error (.wait (s.alWaits o.obj (s.g.sReg a) (.free key) (.free d)))

/-! ### The home -/

/-- The column in which an agent waits. -/
def grantTo (s : State) (home : ColId) (r : AlReq) (obj : Nat) (result : AlResult) (t cap : Nat) : State :=
  s.sendAl home r.col obj (.grant r.agent result t cap)

/-- A message to every unfenced column (R271). -/
def State.castAl (s : State) (home : ColId) (obj : Nat) (body : AlBody) : State :=
  ((List.finRange 64).filter fun c => !(s.cols.get c).fenced).foldl (fun (t : State) c => t.sendAl home c obj body) s

/-- The FLUSH with which a fenced column sends home what it held of an object is under way (R277). -/
def State.lastFlush (s : State) (col : ColId) (obj : Nat) : Bool :=
  (s.cols.get col).fenced && s.msgs.any fun m => m.src == col && m.obj == obj && (match m.body with
    | .flush _ => true
    | _ => false)

/-- A recall round starts (R273 step 1): it waits for an ACK of every unfenced column, and for the last FLUSH of a fenced one that is
still under way, whose units are no home's yet (R268, R277). -/
def State.startRound (s : State) (home : ColId) (obj : Nat) : State :=
  (s.modObj obj fun o => { o with
    mode := .recalling ((List.finRange 64).filter fun c => !(s.cols.get c).fenced || s.lastFlush c obj) }).castAl home obj .recall

/-- A take of n units served by a home in state NORMAL, with its top-up (R272): residual left, top-up. -/
def topUp (o : AlObject) (n : Nat) : Nat × Nat :=
  let t := Nat.min o.b (Nat.min o.c (o.h - n))
  (o.h - n - t, t)

/-- The queue of a home in state NORMAL served while it can be (R272). -/
def State.serveNormal (home : ColId) (obj : Nat) : Nat → State → State
  | 0, s => s
  | k + 1, s =>
    match s.objOf obj with
    | some o =>
      match o.mode, o.queue with
      | .normal, r :: rest =>
        let grant := fun (n : Nat) (res : AlResult) =>
          State.serveNormal home obj k
            (grantTo (s.modObj obj fun x => { x with h := (topUp o n).1, queue := rest }) home r obj res (topUp o n).2 o.c)
        match r.kind with
        | .take n => if n ≤ o.h then grant n .granted else s.startRound home obj
        | .vtake us => if amountSum us ≤ o.h then grant (amountSum us) .granted else s.startRound home obj
        | .read | .free _ => s.startRound home obj
        | .init =>
          State.serveNormal home obj k
            (grantTo (s.modObj obj fun x => { x with queue := rest }) home r obj (.status 1) 0 o.c)
      | _, _ => s
    | none => s

/-- The longest prefix of lanes that a value covers (R160): their mask, and the units taken. -/
def lanePrefix : List (Nat × Nat) → Nat → Nat → List Nat → List Nat × Nat
  | [], _, g, acc => (acc, g)
  | (L, u) :: r, v, g, acc => if g + u ≤ v then lanePrefix r v (g + u) (acc ++ [L]) else (acc, g)

/-- The lanes of a list as a mask. -/
def maskOfList (l : List Nat) : Word := maskOf fun L => l.contains L

/-- A message from a column to a home, or from a home to a column: each direction between one column and one home keeps its order (R271). -/
def AlMsg.between (m : AlMsg) (toHome : Bool) (src dst : ColId) : Bool := m.src == src && m.dst == dst && m.body.toHome == toHome

/-- The message in flight that is delivered next in a direction, if it satisfies a test (R271). -/
def State.nextAl (s : State) (toHome : Bool) (src dst : ColId) (p : AlBody → Bool) : Option AlMsg :=
  match s.msgs.find? fun m => m.between toHome src dst with
  | some m => if p m.body then some m else none
  | none => none

/-- That message taken off. -/
def State.dropAl (s : State) (toHome : Bool) (src dst : ColId) : State :=
  { s with msgs := dropFirst (fun m => m.between toHome src dst) s.msgs }

/-- ALLOWANCE_REQ (R271, R272): units to the residual, which never exceeds its limit (R161), the request to the tail; a request for an object that has been freed is
answered so (R163). -/
def execAllowanceReq (col home : ColId) (s : State) : Host.Outcome State Fault Refusal :=
  done <| match s.nextAl true col home fun b => match b with
      | .req _ _ => true
      | _ => false with
  | some m =>
    match m.body with
    | .req r u =>
      let s1 := s.dropAl true col home
      match s1.objOf m.obj with
      | none => grantTo s1 home r m.obj .unregistered 0 0
      | some _ =>
        (s1.modObj m.obj fun o => { o with h := Nat.min alMax (o.h + u), queue := o.queue ++ [r] }).serveNormal home m.obj 8257
    | _ => s
  | none => s

/-- ALLOWANCE_GIVE (R274): added up to the limit, in every state of the home, with the reply. -/
def execAllowanceGive (col home : ColId) (s : State) : Host.Outcome State Fault Refusal :=
  done <| match s.nextAl true col home fun b => match b with
      | .give _ _ => true
      | _ => false with
  | some m =>
    match m.body with
    | .give agent n =>
      let s1 := s.dropAl true col home
      match s1.objOf m.obj with
      | none => s1.sendAl home col m.obj (.grant agent .unregistered 0 0)
      | some o =>
        let h := Nat.min alMax (o.h + n)
        (s1.modObj m.obj fun x => { x with h := h }).sendAl home col m.obj (.giveReply agent (h - o.h))
    | _ => s
  | none => s

/-- A round in which a column's answer has come: DRAIN once none is missing (R273 step 3). -/
def AlObject.answered (o : AlObject) (col : ColId) : AlObject :=
  match o.mode with
  | .recalling missing =>
    let rest := missing.filter fun c => c != col
    { o with mode := if rest.isEmpty then .drain else .recalling rest }
  | _ => o

/-- ALLOWANCE_FLUSH (R271): units to the residual; from a fenced column it stands for the ACK of a round (R277). -/
def execAllowanceFlush (col home : ColId) (s : State) : Host.Outcome State Fault Refusal :=
  done <| match s.nextAl true col home fun b => match b with
      | .flush _ => true
      | _ => false with
  | some m =>
    match m.body with
    | .flush u =>
      (s.dropAl true col home).modObj m.obj fun o =>
        let o1 := { o with h := Nat.min alMax (o.h + u) }
        if (s.cols.get col).fenced then o1.answered col else o1
    | _ => s
  | none => s

/-- ALLOWANCE_ACK (R271, R273): units to the residual; an answer of the round, but where the column has been fenced since and its FLUSH stands
in place of it (R277). -/
def execAllowanceAck (col home : ColId) (s : State) : Host.Outcome State Fault Refusal :=
  done <| match s.nextAl true col home fun b => match b with
      | .ack _ => true
      | _ => false with
  | some m =>
    match m.body with
    | .ack u => (s.dropAl true col home).modObj m.obj fun o =>
      let o1 := { o with h := Nat.min alMax (o.h + u) }
      if s.lastFlush col m.obj then o1 else o1.answered col
    | _ => s
  | none => s

/-- The object freed: its line is written, and it is gone (R163). -/
def State.freeObj (s : State) (o : AlObject) (key : Nat) : State :=
  let s1 := (s.dropConsts o.obj).storeRun (s.keySlot key) (128 * o.obj) (leBytes 8 o.h ++ List.replicate 120 0)
  { s1 with objs := s1.objs.filter fun x => x.obj != o.obj }

/-- One request served in DRAIN (R273): what it gets, and the object after it, which a free removes. -/
def State.drainOne (s : State) (o : AlObject) (r : AlReq) (rest : List AlReq) : State :=
  let home := objHome o.obj
  let left := fun h => s.modObj o.obj fun x => { x with h := h, queue := rest }
  match r.kind with
  | .take n => if n ≤ o.h then grantTo (left (o.h - n)) home r o.obj .granted 0 o.c else grantTo (left o.h) home r o.obj .failed 0 o.c
  | .vtake us =>
    let (lanes, g) := lanePrefix us o.h 0 []
    grantTo (left (o.h - g)) home r o.obj (.lanes (maskOfList lanes)) 0 o.c
  | .read => grantTo (left o.h) home r o.obj (.value o.h) 0 o.c
  | .init => grantTo (left o.h) home r o.obj (.status 1) 0 o.c
  | .free key =>
    let s1 := grantTo (s.freeObj o key) home r o.obj (.value o.h) 0 o.c
    let s2 := rest.foldl (fun (t : State) q => grantTo t home q o.obj .unregistered 0 o.c) s1
    s2.castAl home o.obj (.release true)

/-- ALLOWANCE_DRAIN_SERVE (R273 steps 4 and 5, R276). -/
def execAllowanceDrainServe (obj : Nat) (s : State) : Host.Outcome State Fault Refusal :=
  done <| match s.objOf obj with
  | some o =>
    if o.mode = .drain then
      match o.queue with
      | r :: rest => s.drainOne o r rest
      | [] => (s.modObj obj fun x => { x with mode := .normal }).castAl (objHome obj) obj (.release false)
    else s
  | none => s

/-! ### The column -/

/-- What a group that stalls at an allowance instruction receives: its register, and it retires. A load issues again with the
value, or to read memory when the object is gone; any other instruction that the free overtook traps (R163). -/
def State.alResult (s : State) (va : Word) (obj : Nat) (w : AlWait) (r : AlResult) : State :=
  let ready : State := { s with g := { s.g with status := .ready } }
  let put' := fun (d : SReg) (x : Nat) => ready.retireWith (ready.g.setS d (BitVec.ofNat 64 x))
  match w, r with
  | .plain, .value n => { ready with g := { ready.g with alReads := ready.g.alReads ++ [(obj, BitVec.ofNat 64 n)] } }
  | .plain, _ => ready
  | _, .unregistered => ready.takeTrap ⟨.alUnregistered, va, 0, [], none⟩
  | .take d, .granted => put' d 1
  | .take d, _ => put' d 0
  | .vtake d m _, .granted => ready.retireWith (ready.g.setP d m m)
  | .vtake d m _, .lanes x => ready.retireWith (ready.g.setP d m x)
  | .vtake d m _, _ => ready.retireWith (ready.g.setP d m 0)
  | .read d, .value n | .free d, .value n => put' d n
  | .init d, .status n => put' d n
  | .give d taken, .value n => put' d (taken + n)
  | _, _ => s

/-- A result delivered to the group, the copy or the host core that waits for it; a host core's read of an object that is gone is a read of
memory (R163). -/
def State.alDeliver (s : State) (agent : AlAgent) (obj : Nat) (r : AlResult) : State :=
  match agent with
  | .nobody => s
  | .group core slot team =>
    match s.focus core slot with
    | none => s
    | some t =>
      match t.g.status with
      | .allowance o va w => if o = obj && t.g.team = team then t.alResult va obj w r else s
      | _ => s
  | .hostCore _ => { s with answer := match r with
      | .value n => leBytes 8 n
      | _ => s.physRead (128 * obj) 8 }
  | .engine id =>
    let give := match r with
      | .value n => [(obj, BitVec.ofNat 64 n)]
      | _ => []
    let hit := fun (o : EngineOp) => o.id == id && o.alWait == some obj
    { s with ops := updWhere hit (fun o => { o with alWait := none, alReads := o.alReads ++ give }) s.ops }

/-- A top-up taken in at a column, up to the cap; what is above it, or all of it without an entry or at a fenced column, goes back
at once (R270, R272, R277). -/
def State.takeTopUp (s : State) (col home : ColId) (obj t cap : Nat) : State :=
  if t = 0 then s
  else if (s.cols.get col).fenced then s.sendAl col home obj (.flush t)
  else match s.needEntry col obj with
    | (some e, s1) =>
      let units := Nat.min cap (e.units + t)
      let s2 := s1.modCol col fun x => x.setEntry { e with units := units }
      if e.units + t = units then s2 else s2.sendAl col home obj (.flush (e.units + t - units))
    | (none, _) => s.sendAl col home obj (.flush t)

/-- ALLOWANCE_GRANT (R271, R272). -/
def execAllowanceGrant (home col : ColId) (s : State) : Host.Outcome State Fault Refusal :=
  done <| match s.nextAl false home col fun b => match b with
      | .grant _ _ _ _ => true
      | _ => false with
  | some m =>
    match m.body with
    | .grant agent r t cap => ((s.dropAl false home col).takeTopUp col home m.obj t cap).alDeliver agent m.obj r
    | _ => s
  | none => s

/-- ALLOWANCE_RECALL (R273 step 2): a column that can make no entry makes none for the object until the RELEASE. -/
def execAllowanceRecall (home col : ColId) (s : State) : Host.Outcome State Fault Refusal :=
  done <| match s.nextAl false home col fun b => match b with
      | .recall => true
      | _ => false with
  | some m =>
    let s0 := s.dropAl false home col
    if (s.cols.get col).fenced then s0
    else match s0.needEntry col m.obj with
      | (some e, s1) => (s1.modCol col fun x => x.setEntry ⟨m.obj, 0, true⟩).sendAl col home m.obj (.ack e.units)
      | (none, _) => (s0.modCol col fun x => { x with alRounds := m.obj :: x.alRounds }).sendAl col home m.obj (.ack 0)
  | none => s

/-- ALLOWANCE_RELEASE (R271, R273 step 5). -/
def execAllowanceRelease (home col : ColId) (s : State) : Host.Outcome State Fault Refusal :=
  done <| match s.nextAl false home col fun b => match b with
      | .release _ => true
      | _ => false with
  | some m =>
    match m.body with
    | .release freed =>
      (s.dropAl false home col).modCol col fun x => { x with
        alRounds := x.alRounds.filter fun o => o != m.obj
        alTable := if freed then x.alTable.filter fun e => e.obj != m.obj
          else updWhere (fun e => e.obj == m.obj) (fun e => { e with recalled := false }) x.alTable }
    | _ => s
  | none => s

/-- GIVE_REPLY (R274): the ALGIVE completes with the units accepted. -/
def execGiveReply (home col : ColId) (s : State) : Host.Outcome State Fault Refusal :=
  done <| match s.nextAl false home col fun b => match b with
      | .giveReply _ _ => true
      | _ => false with
  | some m =>
    match m.body with
    | .giveReply agent n => (s.dropAl false home col).alDeliver agent m.obj (.value n)
    | _ => s
  | none => s

end Sys2Proof.Machine
end

