-- ==== Sys2Proof/Machine/Glyph.lean ====
section
/-! DEFINITION. Glyph bodies: the substitution of parameters for placeholders (R73), and which fields take which kind (R74). -/
namespace Sys2Proof.Machine
set_option Elab.async false

/-- A vector field of a step with its placeholder replaced (R73). -/
def substV (pA pB : BitVec 7) (r : VReg) : VReg := if r = 126 then pA else if r = 127 then pB else r

/-- A scalar field of a step with its placeholder replaced (R73). -/
def substS (pA pB : BitVec 7) (r : SReg) : SReg :=
  if r = 62 then pA.extractLsb' 0 6 else if r = 63 then pB.extractLsb' 0 6 else r

/-- A step with its placeholders replaced (R73, R74). -/
def substStep (pA pB : BitVec 7) (i : Instr) : Instr := i.mapRegs (substV pA pB) (substS pA pB)

end Sys2Proof.Machine
end

