-- ==== Sys2Proof/Machine/Fetch.lean ====
section
/-! DEFINITION. Fetching the next instruction of a group: the step of the glyph in progress, or the word at the program counter
translated for execution (R92, R111, R192). -/
namespace Sys2Proof.Machine
set_option Elab.async false

/-- What the fetch of a group gives. -/
inductive FetchResult where
  /-- An instruction. -/
  | instr (i : Instr)
  /-- A word that fails steps 1 to 5 of R75. -/
  | illegal (e : DecodeError) (w : Word32)
  /-- A fetch that fails, with the incidents that go with it. -/
  | fails (why : FetchFault) (incs : List Incident)
  /-- A fetch that is made again: a scope mark refuses the walk (R262, R325). -/
  | waits
  deriving DecidableEq, Repr

/-- The result of decoding fetched bytes. -/
def fetchedResult (bs : List Byte) : FetchResult :=
  match decodeBytes bs with
  | .instr i _ => .instr i
  | .illegal e w _ => .illegal e w
  | .short => .fails .access []

/-- The four bytes at an address that the issuing group fetches, or why there are none, without a reason where the walk is made again; `reply` is
what a peer has sent for them, and a refusal leaves its record (R367). DESIGN CHOICE (log entry 104): a fetch, and the read of a landing point (R95), passes by the L1. -/
def State.fetchBytes (s : State) (reply : Option PeerReply) (pc : Nat) : Except (Option (FetchFault × List Incident)) (List Byte) :=
  match s.groupXlat pc 4 .exec with
  | .error .retry => .error none
  | .error (.recoverable level) => .error (some (.recoverable level, []))
  | .error (.fault _ incs) => .error (some (.access, incs))
  | .ok x =>
    match x.site with
    | .mem loc =>
      if s.mem.poisoned loc then .error (some (.poisoned, []))
      else .ok (tabList (s.seenMem.plain (atD s.keys x.key KeySlot.plaintext)) loc 4)
    | .peer k pa =>
      if s.dev.peerFenced.contains k.val then .error (some (.access, []))
      else match reply with
      | some (.data bs) => if bs.length < 4 then .error (some (.peer, [])) else .ok (bs.take 4)
      | some .refused =>
        let i := (((IncCode.peerRefused.entry.byGroup s.g).ofCtx s.ctxId).withVa (BitVec.ofNat 64 pc)).withPa pa
        .error (some (.access, [{ i with detail := BitVec.ofNat 64 k.val }]))
      | none => .error (some (.peer, []))
    | .signal c off => .ok (tabList (s.cols.get c).signalByte off 4)
    | .lost _ => .error (some (.poisoned, []))

/-- The record of a word that the issuing group fetches poisoned (R382, R391). -/
def State.fetchPoison (s : State) (va : Word) : Incident :=
  let i := ((IncCode.poisonConsumed.entry.byGroup s.g).ofCtx s.ctxId).withVa va
  match s.groupXlat va.toNat 4 .exec with
  | .ok ⟨.mem loc, _, _, _, _⟩ | .ok ⟨.lost loc, _, _, _, _⟩ => i.withPa loc
  | _ => i

/-- The record of the trap whose handler is about to issue its first instruction still waits for a line of the context's ring (R385 step 6). -/
def State.recordWaits (s : State) : Bool :=
  s.g.firstFetch && s.log.writes.any fun w => match w with
    | .ring i => i.ctx == s.ctxId.val
    | .table _ _ => false

/-- The next instruction of the issuing group. -/
def State.fetch (s : State) : FetchResult :=
  match s.g.glyph with
  | some r =>
    match decodeWord (r.body.getD r.k 0) with
    | .ok i => .instr (substStep r.pA r.pB i)
    | .error e => .illegal e (r.body.getD r.k 0)
  | none =>
    if s.recordWaits then .waits
    else match s.fetchBytes s.g.fetched s.g.pc.toNat with
    | .ok bs => fetchedResult bs
    | .error (some (why, incs)) => .fails why incs
    | .error none => .waits

/-- The state in which a fetched instruction executes: the handler's first fetch is past, and the step at which a GLYPH goes on
is kept only for a GLYPH at that address (R192, R194). DESIGN CHOICE (log entry 98): an instruction that is held counts as issued when it
is first tried, for the watchdog of R236. -/
def State.begin (s : State) (i : Instr) : State :=
  let s0 := if s.g.status = .stalled then s else s.modCtx s.ctxId fun c => { c with issuedAt := s.ptp.toNat }
  let keep := match i with
    | .glyph _ _ _ _ => true
    | _ => s.g.glyph.isSome
  { s0 with
    g := { s.g with status := .ready, firstFetch := false, aged := false, lastIssue := s.fresh, readyAt := none
                    glyphResume := if keep then s.g.glyphResume else none }
    fresh := s.fresh + 1 }

end Sys2Proof.Machine
end

