-- ==== Sys2Proof/Machine/Convert.lean ====
section
/-! DEFINITION. Conversions between vector formats, quantising and dequantising (R124 to R126). -/
namespace Sys2Proof.Machine
set_option Elab.async false

/-- The word of a format slot of the grid (R211). -/
def State.slotWord (s : State) (k : BitVec 3) : Word32 := s.grid.launch.slots.getD k.toNat 0

/-- CODE of a slot word: an element format, `none` for an empty slot. -/
def slotElem (w : Word32) : Option Elem := elemOfFormat (w.toNat % 256)

/-- The format that a conversion code names (R124). -/
def State.convElem (s : State) : ConvCode → Option Elem
  | .type t => some (elemOf t)
  | .slot k => slotElem (s.slotWord k)

/-- Source elements in one lane (R125). -/
def convCount (src : Elem) : Nat := Nat.max 1 (32 / src.width)

/-- Destination registers of a conversion (R125). -/
def convRegs (src tgt : Elem) : Nat := Nat.max 1 (convCount src * tgt.width / 32)

/-- The bits of a source lane: the pair for an f64 source (R125). -/
def Group.convSource (g : Group) (src : Elem) (a : VReg) (L : Nat) : Nat := g.spanLane a.toNat L (if src.width = 64 then 2 else 1)

/-- A lane converted: the elements of the target put together (R125). -/
def convLane (src tgt : Elem) (mode : Nat) (ftz : Bool) (x : Nat) : Nat × Flags :=
  joinElems tgt.width (fun j => convert src tgt mode ftz (field x (src.width * j) src.width)) (convCount src)

/-- CVT and CVT.FROM between two formats; `none` is an empty slot, whose index is `k` (R124, R125). The partner of a single source register under
f64 is checked under R19 and R16, and not read. DESIGN CHOICE (log entry 114): with an empty slot the format of one side is unknown, and the
instruction traps before it reads a register. -/
def convertOp (s : State) (G : Guard) (d a : VReg) (pair : Option (Elem × Elem)) (k : Nat) :
    Host.Outcome State Fault Refusal :=
  finish s do
    let m := s.g.active G
    match pair with
    | none =>
      s.g.step6 [s.g.vSpanE d 1 false 0, s.g.vSpanE a 1 false 0]
      .error (trapN .illegalOperand k)
    | some (src, tgt) =>
      let n := convRegs src tgt
      let ops := [s.g.vSpanE d n false 0, s.g.vSpanE a (if src.width = 64 then 2 else 1) false m]
      s.g.step6 ops
      s.sound [vSpan a (if src.width = 64 then 2 else 1) false m] [] [s.g.guardIdx G]
      need (d.toNat % n == 0) (trapN .illegalOperand d.toNat)
      evenCheck ops
      let f := fun L => convLane src tgt s.g.round s.g.ftz (s.g.convSource src a L)
      .ok (s.retireWith ((s.g.setSpan d.toNat m (fun L => (f L).1) n).orFlags (laneFlags m fun L => (f L).2)))

/-- The slot index of a conversion code. -/
def convIndex : ConvCode → Nat
  | .type _ => 0
  | .slot k => k.toNat

/-- CVT (R124, R125): from MD.TYPE to the code. -/
def execCvt (g : Guard) (d a : VReg) (c : ConvCode) (s : State) : Host.Outcome State Fault Refusal :=
  convertOp s g d a ((s.convElem c).map fun t => (elemOf s.g.ety, t)) (convIndex c)

/-- CVT.FROM (R124, R125): from the code to MD.TYPE. -/
def execCvtFrom (g : Guard) (d a : VReg) (c : ConvCode) (s : State) : Host.Outcome State Fault Refusal :=
  convertOp s g d a ((s.convElem c).map fun t => (t, elemOf s.g.ety)) (convIndex c)

/-- The code format of QUANT or DEQ: i8 means MXINT8; e5m2 for DEQ alone (R126). -/
def blockElem (deq : Bool) (w : Word32) : Option Elem :=
  match w.toNat % 256 with
  | 0x11 => some .mx8
  | 0x20 => some .e2m1
  | 0x21 => some .e4m3
  | 0x22 => if deq then some .e5m2 else none
  | 0x23 => some .c8
  | _ => none

/-- The value TYPEs of QUANT and DEQ (R114). -/
def blockType (t : Nat) : Bool := 6 ≤ t && t ≤ 8

/-- Registers of the value block, one where the TYPE is refused (R126). -/
def Group.valueSpan (g : Group) : Nat := if g.typeCode = 6 then 32 else if blockType g.typeCode then 16 else 1

/-- Registers of the codes and their scale, one where the format is refused (R126). -/
def codeSpan : Option Elem → Nat
  | none => 1
  | some .e2m1 => 5
  | some _ => 9

/-- QUANT (R126): the values of each Active lane into codes and a scale. -/
def execQuant (g : Guard) (d a : VReg) (slot : BitVec 3) (s : State) : Host.Outcome State Fault Refusal :=
  finish s do
    let m := s.g.active g
    let fmt := blockElem false (s.slotWord slot)
    let ops := [vSpan d (codeSpan fmt) false 0, vSpan a s.g.valueSpan false m]
    s.g.step6 ops
    s.g.step7 blockType
    s.sound ops [] [s.g.guardIdx g]
    match fmt with
    | none => .error (trapN .illegalOperand slot.toNat)
    | some el =>
      let F := fmtOf s.g.ety
      let n := codeSpan fmt
      let f := fun L =>
        let x := s.g.spanLane a.toNat L s.g.valueSpan
        let (scale, codes, fl) := quantise el ((List.range 32).map fun i => F.decode false (field x (F.width * i) F.width))
        ((joinElems el.width (fun i => (codes.getD i 0, 0)) 32).1 + scale * 2 ^ (32 * (n - 1)), fl)
      let rs := tab 64 fun L => if bit m L then f L else (0, 0)
      .ok (s.retireWith ((s.g.setSpan d.toNat m (fun L => (atD rs L (0, 0)).1) n).orFlags
        (laneFlags m fun L => (atD rs L (0, 0)).2)))

/-- One dequantised element (R51, R126). -/
def deqElem (el : Elem) (F : Fmt) (mode : Nat) (ftz : Bool) (scale code : Nat) : Nat × Flags :=
  let v := el.value code
  if scale = 255 || v.isNan then (F.nanBits, flScaleNan) else F.encode mode ftz (v.scale ((scale : Int) - 127))

/-- DEQ (R126): codes and a scale into values. -/
def execDeq (g : Guard) (d a : VReg) (slot : BitVec 3) (s : State) : Host.Outcome State Fault Refusal :=
  finish s do
    let m := s.g.active g
    let fmt := blockElem true (s.slotWord slot)
    let ops := [vSpan d s.g.valueSpan false 0, vSpan a (codeSpan fmt) false m]
    s.g.step6 ops
    s.g.step7 blockType
    s.sound ops [] [s.g.guardIdx g]
    match fmt with
    | none => .error (trapN .illegalOperand slot.toNat)
    | some el =>
      let F := fmtOf s.g.ety
      let n := codeSpan fmt
      let f := fun L =>
        let x := s.g.spanLane a.toNat L n
        let scale := field x (32 * (n - 1)) 8
        joinElems F.width (fun i => deqElem el F s.g.round s.g.ftz scale (field x (el.width * i) el.width)) 32
      let rs := tab 64 fun L => if bit m L then f L else (0, 0)
      .ok (s.retireWith ((s.g.setSpan d.toNat m (fun L => (atD rs L (0, 0)).1) s.g.valueSpan).orFlags
        (laneFlags m fun L => (atD rs L (0, 0)).2)))

end Sys2Proof.Machine
end

