-- ==== Sys2Proof/Machine/MatrixOps.lean ====
section
/-! DEFINITION. Matrix arithmetic (R55 to R58) and the operands of MMA, MMAS and INK (R177 to R185). -/
namespace Sys2Proof.Machine
set_option Elab.async false

/-- The fields of a slot word (R211). -/
def slotCode (w : Word32) : Nat := w.toNat % 256
def slotWide (w : Word32) : Bool := field w.toNat 8 4 == 1
def slotScaled (w : Word32) : Bool := field w.toNat 12 4 == 1
def slotBlock (w : Word32) : Nat := field w.toNat 16 8
def slotKhi (w : Word32) : Bool := field w.toNat 24 1 == 1

/-- Passes of an A format; `none` where it is not allowed (R55). -/
def aPasses (code : Nat) : Option Nat :=
  match code with
  | 0x10 => some 4
  | 0x11 | 0x12 | 0x20 => some 8
  | 0x21 | 0x22 | 0x23 | 0x30 | 0x31 => some 16
  | _ => none

/-- A B format is allowed in its cells (R55). -/
def bAllowed (code : Nat) (wide : Bool) : Bool :=
  match code with
  | 0x10 | 0x11 | 0x20 | 0x21 | 0x22 | 0x23 | 0x30 | 0x31 => true
  | 0x12 => wide
  | _ => false

/-- Bits of an element of a matrix format. -/
def matBits (code : Nat) : Nat := if code = 0x10 || code == 0x20 then 4 else if code = 0x30 || code == 0x31 then 16 else 8

/-- The element format of a matrix operand. -/
def matElem (code : Nat) : Elem := (elemOfFormat code).getD (.int true 8)

/-- Columns of a macro: 64 of 8-bit cells, 32 of 16-bit cells (R178). -/
def macroCols (wide : Bool) : Nat := if wide then 32 else 64

/-- AlignBlock (R56): integers and exponent; `none` is NAN_BLOCK. -/
def alignBlock (xs : List Num) (w : Nat) : Option (List Int × Int) :=
  if xs.any fun x => x.isNan || x.isInf then none
  else match maxBinade xs with
    | none => some (xs.map fun _ => 0, 0)
    | some top =>
      some (xs.map fun x => match x with
        | .fin n m e =>
          let k := e + (w - 1 : Nat) - top
          let v : Nat := if 0 ≤ k then m * pow2 k else m / pow2 (-k)
          if n then -(v : Int) else v
        | _ => 0, top - (w - 1 : Nat))

/-- The integers and the exponent of a K-block under a format (R55). -/
def blockInts (code : Nat) (w : Nat) (xs : List Num) : Option (List Int × Int) :=
  match code with
  | 0x10 | 0x11 | 0x12 => some (xs.map fun x => x.dyadic.m, 0)
  | 0x20 => some (xs.map fun x => (x.scale 1).dyadic.m * pow2 (x.scale 1).dyadic.e / pow2 (-(x.scale 1).dyadic.e), -1)
  | _ => alignBlock xs w

/-- The 32 elements of block j from a string of element bits, the failing ones zero. -/
def blockNums (code bits j : Nat) (failed : Nat → Bool) : List Num :=
  (List.range 32).map fun i =>
    let k := 32 * j + i
    if failed k then .fin false 0 0 else (matElem code).decode false (field bits (matBits code * k) (matBits code))

/-- A row of A as MMA and MMAS stream it: its element bits, its scale bytes, elements and blocks that failed (R58). -/
structure ARow where
  bits : Nat
  scales : Nat
  failed : List Nat
  failedBlocks : List Nat
  deriving DecidableEq, Repr

/-- An incident of R58: lane, K index or K-block, column, macro. -/
def operandZeroed (g : Group) (ctx : CtxId) (m k n mg : Nat) (isBlock : Bool) : Incident :=
  let i := IncCode.matrixOperandZeroed.entry.atCol (coreCol g.core)
  { i.ofCtx ctx with
    engine := 0x42, core := g.core.val, port := g.slot.val % 4, group := g.slot.val
    coord := BitVec.ofNat 64 (m % 64 + 2 ^ 8 * (k % 64) + 2 ^ 16 * (n % 64) + 2 ^ 24 * (mg % 64) + if isBlock then 2 ^ 31 else 0) }

/-- A cell, and the metadata of a K-block column, as the matrix path reads them: what failed reads zero (R58). -/
def Macro.cell (x : Macro) (i : Nat) : Int := if x.badCells.contains i then 0 else x.cells.getD i 0
def Macro.col (x : Macro) (i : Nat) : KCol := x.cols.getD i KCol.reset

/-- The new content of a macro, with its errors (R58), where the free choice of a layer takes it, the old elsewhere (R185). -/
def mixMacro (tick mg layer : Nat) (old new : Macro) : Macro :=
  let pick := fun i => Config.newCell tick mg (8192 * layer + i)
  { new with
    cells := tabList (fun i => if pick i then new.cells.getD i 0 else old.cells.getD i 0) 0 4096
    cols := tabList (fun i => if pick (4096 + i) then new.cols.getD i KCol.reset else old.cols.getD i KCol.reset) 0 128
    badCells := new.badCells.filter pick ++ old.badCells.filter fun i => !(pick i)
    badCols := (new.badCols.filter fun i => pick (4096 + i)) ++ old.badCols.filter fun i => !(pick (4096 + i)) }

/-- What one matrix operation works on: quarter, macro index, slots and rows. -/
structure MatJob where
  q : Nat
  mg : Nat
  slotA : Word32
  slotB : Word32
  /-- The lanes streamed, with their rows. -/
  rows : List (Nat × ARow)
  deriving DecidableEq, Repr

/-- The state of R57 as it runs: accumulators written so far, flags. -/
structure MatRun where
  a : List (Nat × Nat × Acc)
  fl : Flags
  deriving DecidableEq, Repr

/-- One accumulator element through the blocks of its row (R57). A K-block whose scale register, or a K-block column whose metadata,
failed enters as zeros: neither its scale nor its NaN is looked at (R58). -/
def accumulate (B : Macro) (job : MatJob) (row : ARow) (n : Nat) (start : Acc) : Acc × Flags :=
  let code := slotCode job.slotA
  let wide := slotWide job.slotB
  let NC := macroCols wide
  let column := if wide then 16 * (job.q % 2) + n else 16 * job.q + n
  let sixteen := aPasses code == some 16
  let blocks := if sixteen then [0] else [0, 1]
  let base := if sixteen && slotKhi job.slotA then 1 else 0
  blocks.foldl (fun (st : Acc × Flags) j =>
    let block := base + j
    let kc := B.col (NC * block + column)
    let meta' := B.badCols.contains (NC * block + column)
    let lost := row.failedBlocks.contains j
    let cA := if slotScaled job.slotA && !lost then field row.scales (8 * j) 8 else 0x7F
    let cB := if slotScaled job.slotB && !meta' then kc.scale.toNat else 0x7F
    let ints := blockInts code 15 (blockNums code row.bits j fun k => lost || row.failed.contains k)
    match ints with
    | none => (a96Nan, st.2 ||| flScaleNan)
    | some (as, eA) =>
      if (kc.nan && !meta') || cA = 0xFF || cB = 0xFF then (a96Nan, st.2 ||| flScaleNan)
      else if (a96Value st.1).isNan then st
      else
        let d := (List.range 32).foldl (fun (acc : Int) k =>
          acc + as.getD k 0 * (if meta' then 0 else B.cell (NC * (32 * block + k) + column))) 0
        let r := a96Add st.1 d ((cA : Int) - 127 + ((cB : Int) - 127) + eA + kc.eB)
        (r.1, st.2 ||| r.2)) (start, 0)

/-- The job done on the accumulators of a group (R57): new elements in the streamed lanes, and the flags. -/
def Group.multiply (g : Group) (B : Macro) (job : MatJob) (start : Nat → Nat → Acc) : Group :=
  let rs := tab 1024 fun i => match job.rows.find? fun r => r.1 == i % 64 with
    | some (L, row) => some (accumulate B job row (i / 64) (start (16 * job.q + i / 64) L))
    | none => none
  let mask := maskOf fun L => job.rows.any fun r => r.1 == L
  let g1 := (List.range 16).foldl (fun (x : Group) n =>
    x.setA (16 * job.q + n) mask fun L => match atD rs (64 * n + L) none with
      | some r => r.1
      | none => x.acc (16 * job.q + n) L) g
  g1.orFlags ((List.range 1024).foldl (fun fl i => match atD rs i none with
    | some r => fl ||| r.2
    | none => fl) 0)

/-- The record of an accumulator element that is read in error (R197, R390). -/
def accPoisoned (g : Group) (ctx : CtxId) (i L : Nat) : Incident :=
  { (IncCode.accumulatorPoisoned.entry.byGroup g).ofCtx ctx with coord := BitVec.ofNat 64 L, engine := 0x41, detail := BitVec.ofNat 64 i }

/-- Errors in the accumulators that are read: each becomes the canonical NaN, with OPZ and an incident (R197). -/
def Group.soundAccs (g : Group) (ctx : CtxId) (first count : Nat) (mask : Word) : Group × List Incident :=
  let hits := g.bad.filter fun b => b.file == 1 && first ≤ b.index && b.index < first + count && (b.lanes &&& mask) != 0
  if hits.isEmpty then (g, [])
  else
    (( hits.foldl (fun (x : Group) b => x.setA b.index (b.lanes &&& mask) fun _ => a96Nan) g).orFlags flOpz,
     (hits.map fun b => (lanesOf (b.lanes &&& mask)).map fun L => accPoisoned g ctx b.index L).flatten)

/-- The incidents of a job's failed operands: elements and scale registers of A, and the cells and metadata of B that it reads
(R58). DESIGN CHOICE (log entry 128): a cell of B is named by the row and the column of its macro, rows 32 to 63 under KHI, an element of A by
its place in the register, 0 to 31 where a row has 32; R58 says K index k and column n, and R57 counts n from the quarter. -/
def jobIncidents (g : Group) (ctx : CtxId) (B : Macro) (job : MatJob) : List Incident :=
  let wide := slotWide job.slotB
  let NC := macroCols wide
  let column := if wide then 16 * (job.q % 2) else 16 * job.q
  let sixteen := aPasses (slotCode job.slotA) == some 16
  let base := if sixteen && slotKhi job.slotA then 1 else 0
  let rows := if sixteen then 32 else 64
  let inRange := fun c => column ≤ c % NC && c % NC < column + 16
  (job.rows.map fun r =>
    (r.2.failed.map fun k => operandZeroed g ctx r.1 k 0 job.mg false) ++
    (r.2.failedBlocks.map fun j => operandZeroed g ctx r.1 j 0 job.mg true)).flatten ++
  ((B.badCells.filter fun i => inRange i && 32 * base ≤ i / NC && i / NC < 32 * base + rows).map fun i =>
    operandZeroed g ctx 0 (i / NC) (i % NC) job.mg false) ++
  ((B.badCols.filter fun i => inRange i && base ≤ i / NC && i / NC < base + (if sixteen then 1 else 2)).map fun i =>
    operandZeroed g ctx 0 (i / NC) (i % NC) job.mg true)

/-- The accumulator element holds an uncorrectable error (R197). -/
def Group.accBad (g : Group) (i L : Nat) : Bool := g.bad.any fun b => b.file == 1 && b.index == i && bit b.lanes L

/-- The elements of a quarter, by accumulator and lane, that a job starts from values in error. -/
def badStarts (job : MatJob) (f : Nat → Nat → Acc × Bool) : List (Nat × Nat) :=
  ((tabList (fun i => i) (16 * job.q) 16).map fun (i : Nat) => (job.rows.filter fun r => (f i r.1).2).map fun r => (i, r.1)).flatten

/-- A job performed for a group: accumulators, flags, incidents. It starts from the values given, each with whether it is in error, else from the
accumulators; an element in error starts from the canonical NaN (R197). -/
def Group.perform (g : Group) (ctx : CtxId) (B : Macro) (job : MatJob) (given : Option (Nat → Nat → Acc × Bool)) : Group × List Incident :=
  let mask := maskOf fun L => job.rows.any fun r => r.1 == L
  let (g1, incs1) := match given with
    | some f => (g.orFlags (flIf (!(badStarts job f).isEmpty) flOpz), (badStarts job f).map fun (x : Nat × Nat) => accPoisoned g ctx x.1 x.2)
    | none => g.soundAccs ctx (16 * job.q) 16 mask
  let incs2 := jobIncidents g ctx B job
  let start := match given with
    | some f => fun i L => if (f i L).2 then a96Nan else (f i L).1
    | none => g1.acc
  let g2 := g1.multiply B job start
  (g2.orFlags (flIf (!incs2.isEmpty) flOpz), incs1 ++ incs2)

/-! ### INK -/

/-- Bytes of the elements and of the scales of a B tile (R179). -/
def inkElemBytes (w : Word32) : Nat := 64 * macroCols (slotWide w) * matBits (slotCode w) / 8
def inkBytes (w : Word32) : Nat := inkElemBytes w + (if slotScaled w then 2 * macroCols (slotWide w) else 0)

/-- A byte of the scratchpad of a team, as an engine meets it: one that a copy has written may still be what it was (R173). -/
def State.scratchByte (s : State) (team o : Nat) : Byte :=
  s.pickOld none (scratchLoc team o) (s.mem.unseen none (scratchLoc team o)) (cellsGet s.mem.base s.mem.cells (scratchLoc team o))

/-- A scratchpad byte that an uncorrectable error has struck. -/
def State.scratchBad (s : State) (team o : Nat) : Bool := s.mem.poisoned (scratchLoc team o)

/-- The memory as an operation reads its tile: the bytes that its engine has read ahead of their turn stand as they were then (R173, R179,
R182). -/
def State.tileView (s : State) (o : EngineOp) (off : Nat) : State :=
  if o.ahead.isEmpty then s
  else
    let has := fun (loc : Nat) => o.ahead.any fun x => scratchLoc o.team (off + x.1) == loc
    { s with mem := { s.mem with
      cells := o.ahead.foldl (fun m x => cellsSet s.mem.base m (scratchLoc o.team (off + x.1)) x.2) s.mem.cells
      badBytes := s.mem.badBytes.filter fun a => !(has a)
      olds := s.mem.olds.filter fun x => !(has x.loc) } }

/-- The element of a tile in the scratchpad, from its first byte or nibble; `none` where a byte of it failed. -/
def State.tileElem (s : State) (team off code idx : Nat) : Option Nat :=
  let bits := matBits code
  let o := off + idx * bits / 8
  if bits = 4 then
    (if s.scratchBad team o then none else some (field (s.scratchByte team o).toNat (4 * (idx % 2)) 4))
  else if bits = 8 then (if s.scratchBad team o then none else some (s.scratchByte team o).toNat)
  else if s.scratchBad team o || s.scratchBad team (o + 1) then none
  else some ((s.scratchByte team o).toNat + 256 * (s.scratchByte team (o + 1)).toNat)

/-- A K-block column of a tile converted (R55, R179): its integers, its metadata, the rows that failed, and whether its scale code did;
then every element of the column is zero (R58). -/
def State.inkColumn (s : State) (team off : Nat) (w : Word32) (j n : Nat) : List Int × KCol × List Nat × Bool :=
  let code := slotCode w
  let NC := macroCols (slotWide w)
  let raw := (List.range 32).map fun k => s.tileElem team off code (NC * (32 * j + k) + n)
  let failed := (List.range 32).filter fun k => (raw.getD k none).isNone
  let nums := raw.map fun r => match r with
    | some x => (matElem code).decode false x
    | none => .fin false 0 0
  let at' := off + inkElemBytes w + NC * j + n
  let scale := if slotScaled w then s.scratchByte team at' else 0x7F
  if slotScaled w && s.scratchBad team at' then (nums.map fun _ => 0, KCol.reset, failed, true)
  else match blockInts code (if slotWide w then 15 else 7) nums with
  | none => (nums.map fun _ => 0, ⟨0, scale, true⟩, failed, false)
  | some (ints, eB) => (ints, ⟨eB, scale, scale == 0xFF⟩, failed, false)

/-- The macro that an INK loads: every K-block column of the tile; with the elements that failed, by K index and column, and the scale
codes that did, by K-block and column. -/
def State.inkMacro (s : State) (team off : Nat) (w : Word32) (x : Macro) : Macro × List (Nat × Nat × Bool) :=
  let NC := macroCols (slotWide w)
  let columns := tab 128 fun i => if i < 2 * NC then s.inkColumn team off w (i / NC) (i % NC) else ([], KCol.reset, [], false)
  let at' := fun i => atD columns i ([], KCol.reset, [], false)
  ({ x with
     cells := tabList (fun i => (at' (NC * (i / NC / 32) + i % NC)).1.getD (i / NC % 32) 0) 0 (64 * NC)
     cols := tabList (fun i => (at' i).2.1) 0 (2 * NC)
     badCells := [], badCols := [] },
   ((List.range (2 * NC)).map fun i =>
     ((at' i).2.2.1.map fun k => (32 * (i / NC) + k, i % NC, false)) ++
       (if (at' i).2.2.2 then [(i / NC, i % NC, true)] else [])).flatten)

/-! ### MMA in flight -/

/-- What an operation may meet of the loads that its group has not observed, back to the last it has (R185). -/
def mixOlder (tick mg index : Nat) : Nat → List MacroOld → Macro → Macro
  | _, [], x => x
  | layer, o :: r, x =>
    if o.seen.contains index then x
    else mixOlder tick mg index (layer + 1) r (mixMacro tick mg layer
      { x with cells := o.cells, cols := o.cols, badCells := o.badCells, badCols := o.badCols } x)

/-- The INKs of a macro of a team that are still loading and were issued before an operation: offset and slot, in order. -/
def State.inksInFlight (s : State) (team mg before : Nat) : List (Nat × Word32) :=
  (s.ops.filter fun o => o.team == team && o.id < before).filterMap fun o => match o.kind with
    | .ink off m w _ => if m = mg then some (off, w) else none
    | _ => none

/-- A macro as an operation of a group reads it: a free mixture of what it held before the loads that the group has not
observed, and of those still under way (R185). -/
def State.macroView (s : State) (team mg index before : Nat) : Macro :=
  let x := ((s.teamOf team).getD Team.none).macros.getD mg Macro.reset
  let base := mixOlder s.tick mg index 0 x.old x
  ((s.inksInFlight team mg before).zipIdx).foldl (fun (m : Macro) i =>
    mixMacro s.tick mg (x.old.length + i.2) m (s.inkMacro team i.1.1 i.1.2 m).1) base

/-- The row that lane L of the A registers gives (R178): 16 registers of elements, then the scale register. DESIGN CHOICE (log entry 109):
an error of a lane word strikes every element, or scale code, packed in it, each with its own record; R58 speaks of one element. -/
def MmaOp.row (o : MmaOp) (L : Nat) : ARow :=
  let code := slotCode o.slotA
  let bits := matBits code
  let word := fun i => (at0 (o.regs.getD i (Vector.replicate 64 0)) L).toNat
  let lost := fun i => o.bad.any fun b => b.index == i && bit b.lanes L
  let count := if aPasses code == some 16 then 32 else 64
  { bits := (List.range 16).foldl (fun acc i => acc + word i * 2 ^ (32 * i)) 0
    scales := word 16
    failed := (List.range count).filter fun k => lost (k * bits / 32)
    failedBlocks := if slotScaled o.slotA && lost 16 then (if aPasses code == some 16 then [0] else [0, 1]) else [] }

/-- The job of an MMA. -/
def MmaOp.job (o : MmaOp) : MatJob :=
  { q := o.q.toNat, mg := o.mg, slotA := o.slotA, slotB := o.slotB, rows := (lanesOf o.active).map fun L => (L, o.row L) }

/-- The quarter is the target of an MMAS that the group has not seen complete. -/
def Group.unseenQ (g : Group) (q : Nat) : Bool := g.unseen.any fun u => u.q == q

/-- The sixteen accumulators of a quarter. -/
def Group.quarter (g : Group) (q : Nat) : List (Vector Acc 64) :=
  (List.range 16).map fun n => atD g.a (16 * q + n) (Vector.replicate 64 0)

/-- Errors in the accumulators of a quarter. -/
def Group.badIn (g : Group) (q : Nat) : List BadReg := g.bad.filter fun b => b.file == 1 && b.index / 16 == q

/-- Lanes of the quarter have been written by an instruction while an MMAS on it runs: in those the MMAS may start from what stands there
now (R182). An instruction that writes no lane leaves no trace (R22, R76). -/
def Group.stain (g : Group) (q : Nat) (m : Word) : Group :=
  if m = 0 then g
  else
    let hit := fun (u : Unseen) => u.q == q && !u.starts.isEmpty
    { g with unseen := updWhere hit (fun u => { u with starts := u.starts ++ [⟨m, g.quarter q, g.badIn q⟩] }) g.unseen }

/-- Two operations occupy the same unit of their macro: the column slice, and for two 16-pass A operands the K half (R184). -/
def sameUnit (q p : BitVec 2) (a b : Word32) (slotB : Word32) : Bool :=
  let sixteen := fun w => aPasses (slotCode w) == some 16
  (if slotWide slotB then q.toNat % 2 == p.toNat % 2 else q == p) && (!(sixteen a) || !(sixteen b) || slotKhi a == slotKhi b)

/-- An earlier MMAS of the team is on the unit of an operation (R184). -/
def State.mmasAhead (s : State) (team id : Nat) (q : BitVec 2) (mg : Nat) (slotA slotB : Word32) : Bool :=
  s.ops.any fun e => e.team == team && e.id < id && (match e.kind with
    | .mmas _ p m a _ _ => m == mg && sameUnit q p slotA a slotB
    | _ => false)

/-- The earlier MMAs of a group performed in order, up to one that must wait for an MMAS ahead of it on its unit (R184); the group, the
incidents, and the MMAs that wait. -/
def State.runMmas (s : State) (ctx : CtxId) : List MmaOp → Group → Group × List Incident × List MmaOp
  | [], g => (g, [], [])
  | o :: r, g =>
    if s.mmasAhead g.team o.id o.q o.mg o.slotA o.slotB then (g, [], o :: r)
    else
      let job := o.job
      let (g1, incs) := g.perform ctx (s.macroView g.team o.mg g.index o.id) job
        (if g.unseenQ job.q then some fun i L => (Config.unsettledAcc s.tick i L, false) else none)
      let (g2, more, rest) := s.runMmas ctx r (g1.stain job.q o.active)
      (g2, incs ++ more, rest)

/-- The earlier MMAs of the issuing group have written their accumulators and their flags, but for those that wait (R24, R184). -/
def State.drainMmas (s : State) : State :=
  if s.g.mmas.isEmpty then s
  else
    let (g, incs, rest) := s.runMmas s.ctxId s.g.mmas s.g
    State.reportAll incs { s with g := { g with mmas := rest }, tick := s.tick + 1 }

/-- The instruction is held at issue until every earlier MMA of the group is performed (R24, R181). -/
def State.mmasSettled (s : State) : Except Stop Unit := need s.g.mmas.isEmpty .stall

/-- Likewise for the groups of a team whose MMAs read a macro, or for one other group. -/
def State.drainOthers (s : State) (p : Group → Bool) : State :=
  let run := fun (g : Group) => s.runMmas (((s.teamOf g.team).getD Team.none).ctx) g.mmas g
  let hit := fun (g : Group) => g.present && !g.mmas.isEmpty && p g
  if (s.others.any hit) then
    State.reportAll ((s.others.filter hit).map fun g => (run g).2.1).flatten
      { s with others := updWhere hit (fun g => { (run g).1 with mmas := (run g).2.2 }) s.others, tick := s.tick + 1 }
  else s

/-- An MMA of the team that reads the macro, issued before an operation, is still to be performed. -/
def State.mmaBefore (s : State) (team mg before : Nat) : Bool :=
  s.groups.any fun g => g.team == team && g.mmas.any fun o => o.mg == mg && o.id < before

/-- The earlier MMAs of the team that read the macro are done, but for those that wait for an MMAS (R179, R180, R184). -/
def State.drainMacro (s : State) (team mg : Nat) : State :=
  let reads := fun (g : Group) => g.team == team && g.mmas.any fun o => o.mg == mg
  (if reads s.g then s.drainMmas else s).drainOthers reads

end Sys2Proof.Machine
end

