-- ==== Sys2Proof/Machine/Control.lean ====
section
/-! DEFINITION. Branches, jumps, calls and the life of a group (R91 to R100), with the return stack (R28 to R30). -/
namespace Sys2Proof.Machine
set_option Elab.async false

/-! ### The return stack -/

/-- A stop of the spill or refill as the CALL or RET reports it: any trap takes the given cause, which no incident accompanies (R29, R30,
R391). -/
def asCause (c : Cause) : Stop → Stop
  | .trap t => .trap { t with cause := c, mask := 0, incs := [] }
  | x => x

/-- The eight words of the spill block at an address, as accesses (R29). -/
def spillCuts (base : Nat) : List (Nat × Nat × Nat × Nat) := (List.range 8).map fun i => (i, base + 8 * i, 8, 0)

/-- The oldest eight entries stored at SPILLBASE (R29). -/
def State.spill (s : State) : Except Stop State := do
  need (s.g.spillBase ≠ 0) (trap .stackSpill 0 0)
  let ps ← (s.xlatParts .write true (spillCuts s.g.spillBase.toNat)).mapError (asCause .stackSpill)
  (s.objStores true ps).mapError (asCause .stackSpill)
  s.versionWrites ps
  let t := s.storeParts ps 8 fun i => (s.g.rs.getD i 0).toNat
  .ok { t with g := { t.g with spillBase := t.g.spillBase + 64, spilled := t.g.spilled + 1, rs := t.g.rs.drop 8 } }

/-- A return address pushed, after a spill when the stack is full (R29, R91). -/
def State.push (s : State) (addr : Word) : Except Stop State := do
  let t ← if 16 ≤ s.g.rs.length then s.spill else .ok s
  .ok { t with g := { t.g with rs := t.g.rs ++ [addr] } }

/-- The eight youngest entries loaded from below SPILLBASE (R30). DESIGN CHOICE (log entry 101): where the data arrives poisoned, TADDR is
the lowest address of the words that do, where R190 says no more than the spill address. -/
def State.refill (s : State) : Except Stop State := do
  let base := s.g.spillBase - 64
  let ps ← (s.xlatParts .read true (spillCuts base.toNat)).mapError (asCause .stackFill)
  let (vals, t) ← (s.loadParts true ps).mapError (asCause .stackFill)
  .ok { t with g := { t.g with spillBase := base, spilled := t.g.spilled - 1
                               rs := (List.range 8).map fun i => BitVec.ofNat 64 (laneValue vals i) } }

/-! ### Direct transfers -/

/-- The target of a direct transfer (R70, R91). -/
def target (pc : Word) {w : Nat} (off : BitVec w) : Word := pc + 4 * off.signExtend 64

/-- A target within the address space, or ACCESS_FAULT (R91). -/
def targetOk (t : Word) : Except Stop Unit := need (t.toNat < 2 ^ 55) (trap .accessFault t 0)

/-- A conditional branch (R91). -/
def branchIf (s : State) (ss : List SReg) (ps : List PReg) (off : BitVec 18) (taken : Bool) :
    Host.Outcome State Fault Refusal :=
  finish s do
    s.sound [] ss ps
    if taken then
      targetOk (target s.g.pc off)
      .ok (s.jump (target s.g.pc off))
    else .ok s.retire

/-- B (R91). -/
def execBranch (off : BitVec 24) (s : State) : Host.Outcome State Fault Refusal :=
  finish s do
    targetOk (target s.g.pc off)
    .ok (s.jump (target s.g.pc off))

/-- CALL (R91, R29). -/
def execCall (off : BitVec 24) (s : State) : Host.Outcome State Fault Refusal :=
  finish s do
    targetOk (target s.g.pc off)
    let t ← s.push (s.g.pc + 4)
    .ok (t.jump (target s.g.pc off))

/-- BZ (R91). -/
def execBz (t : SReg) (off : BitVec 18) (s : State) : Host.Outcome State Fault Refusal :=
  branchIf s [t] [] off (s.g.sReg t == 0)

/-- BNZ (R91). -/
def execBnz (t : SReg) (off : BitVec 18) (s : State) : Host.Outcome State Fault Refusal :=
  branchIf s [t] [] off (s.g.sReg t != 0)

/-- BANY (R91): some lane of LIVE is set. -/
def execBany (t : PReg) (off : BitVec 18) (s : State) : Host.Outcome State Fault Refusal :=
  branchIf s [] [t] off (s.g.pReg t &&& s.g.live != 0)

/-- BALL (R91): every lane of LIVE is set. -/
def execBall (t : PReg) (off : BitVec 18) (s : State) : Host.Outcome State Fault Refusal :=
  branchIf s [] [t] off (s.g.pReg t &&& s.g.live == s.g.live)

/-- BNONE (R91): no lane of LIVE is set. -/
def execBnone (t : PReg) (off : BitVec 18) (s : State) : Host.Outcome State Fault Refusal :=
  branchIf s [] [t] off (s.g.pReg t &&& s.g.live == 0)

/-! ### Indirect transfers -/

/-- The LAND word (R95). -/
def landWord : Nat := 0x0C000004

/-- LANDING of the grid's FLAGS (R209). -/
def Launch.landing (l : Launch) : Bool := l.flags.getLsbD 5

/-- The target translated for execution (step 3 of R93): a recoverable fault parks, any other failure traps. -/
def State.execXlat (s : State) (t : Word) : Except Stop Unit :=
  match s.groupXlat t.toNat 4 .exec with
  | .ok _ => .ok ()
  | .error x => .error (xstop t .exec x)

/-- What a peer is asked for by the read of a landing point, if it lies in a peer window (R367). -/
def State.landAsk (s : State) (t : Word) : List (Nat × Nat) :=
  match s.groupXlat t.toNat 4 .exec with
  | .ok x => (match x.site with
    | .peer _ pa => [(pa, 4)]
    | _ => [])
  | .error _ => []

/-- The landing check of R95. -/
def State.landing (s : State) (t : Word) : Except Stop Unit :=
  if s.grid.launch.landing then
    match s.fetchBytes (if s.g.peerFor == s.landAsk t then s.g.peerData else none) t.toNat with
    | .ok bs => need (leNat bs == landWord) (trap .landingPoint t 0)
    | .error none => .error .stall
    | .error (some (.recoverable level, _)) => .error (.park .exec [(t, level)])
    | .error (some (.peer, _)) =>
      .error (.wait (({ s with g := { s.g with peerFor := s.landAsk t, peerData := none, peerOld := [] } } : State).blockOn .peerLoad))
    | .error (some (.poisoned, _)) => .error (.trap ⟨.dataPoisoned, t, 0, [s.fetchPoison t], none⟩)
    | .error (some (.access, incs)) => .error (.trap ⟨.accessFault, t, 0, incs, none⟩)
  else .ok ()

/-- The checks of an indirect transfer (R93, R94). -/
def State.indirect (s : State) (t : Word) : Except Stop Unit := do
  need (t.toNat % 4 == 0) (trap .misaligned t 0)
  need (t.toNat < 2 ^ 55) (trap .accessFault t 0)
  s.execXlat t
  s.landing t

/-- JMPS (R93). -/
def execJmps (a : SReg) (s : State) : Host.Outcome State Fault Refusal :=
  finish s do
    s.sound [] [a] []
    s.indirect (s.g.sReg a)
    .ok (s.jump (s.g.sReg a))

/-- CALLS (R93). -/
def execCalls (a : SReg) (s : State) : Host.Outcome State Fault Refusal :=
  finish s do
    s.sound [] [a] []
    s.indirect (s.g.sReg a)
    let t ← s.push (s.g.pc + 4)
    .ok (t.jump (s.g.sReg a))

/-- RET (R93, R30): no check of the address popped, of which the program counter keeps bits [54:2] (log entry 84). -/
def execRet (s : State) : Host.Outcome State Fault Refusal :=
  finish s do
    let t ← if s.g.rs.isEmpty then
        (if s.g.spilled = 0 then .error (trap .returnStackEmpty 0 0) else s.refill)
      else .ok s
    .ok ({ t with g := { t.g with rs := t.g.rs.dropLast } }.jump (t.g.rs.getLastD 0))

/-- The lowest lane of LIVE (R27). -/
def Group.firstLane (g : Group) : Nat := (lanesOf g.live).headD 0

/-- JMPV (R94). -/
def execJmpv (a : VReg) (s : State) : Host.Outcome State Fault Refusal :=
  finish s do
    let ops := [vSpan a 2 true s.g.live]
    s.operands ops anyType [] []
    let t := s.g.lane64 a.toNat s.g.firstLane
    let d := maskOf fun L => bit s.g.live L && s.g.lane64 a.toNat L != t
    need (d == 0) (trap .vectorTargetDivergent t d)
    s.indirect t
    .ok (s.jump t)

/-! ### Group life -/

/-- NOP (R96). -/
def execNop (s : State) : Host.Outcome State Fault Refusal := done s.retire

/-- LAND in sequence (R95). -/
def execLand (s : State) : Host.Outcome State Fault Refusal := done s.retire

/-- HALT (R97): GROUP_HALTED with TPC. -/
def execHalt (s : State) : Host.Outcome State Fault Refusal :=
  done (s.halt { IncCode.groupHalted.entry.byGroup s.g with detail := s.g.pc })

/-- POLL (R98): a blocking point under a pre-emption request, resumed after it. -/
def execPoll (s : State) : Host.Outcome State Fault Refusal :=
  done (if s.ctx.phase == .saving then s.retire.blockOn .immediate else s.retire)

/-- YIELD (R99): the least preferred of its port, and held for 16 cycles. -/
def execYield (s : State) : Host.Outcome State Fault Refusal :=
  done { s.retire with g := { s.retire.g with yieldHold := true } }

/-- Asynchronous operations of a group are in flight (R100). -/
def State.asyncOf (s : State) (g : Group) : Bool :=
  !g.mmas.isEmpty || s.ops.any fun o => o.core == g.core && o.slot == g.slot && o.team == g.team

/-- Every group of a team has ended or halted (R229). -/
def State.teamDone (s : State) (team : Nat) : Bool :=
  s.groups.all fun g => g.team != team || g.status == .ended || g.status == .halted

/-- The groups of a team leave their slots. -/
def State.dropGroups (s : State) (team : Nat) : State :=
  { s with g := if s.g.team == team then { s.g with status := .absent } else s.g
           others := s.others.filter fun g => g.team != team }

/-- The last group of a team has ended: its core resources are free, and while children run a pending-retire record holds it
(R108, R222, R229). DEDUCED (log entry 123): what its core still holds of its writes is sent on then, so that no fencing takes the writes of a
team that has finished (R388). DESIGN CHOICE (log entry 108): old values of bytes that its groups and copies have written are offered no longer. -/
def State.releaseTeam (s0 : State) (team : Nat) : State :=
  let t := (s0.teamOf team).getD Team.none
  let s := s0.sendOn t.core .dev
  let s1 := if t.children = 0 then s else s.modCol t.col fun c => { c with retiring := c.retiring ++ [team] }
  let s2 := s1.modTeam team fun x => { x with place := .pendingRetire, points := [], macros := [], units := [] }
  let s3 : State := { s2 with mem := { s2.mem with olds := s2.mem.olds.filter fun o => o.team != team } }
  (s3.dropGroups team).freeGlyphs t.ctx t.core

end Sys2Proof.Machine
end

