-- ==== Sys2Proof/Machine/Rendezvous.lean ====
section
/-! DEFINITION. Rendezvous points and grid points (R164 to R172, R188), with the flag test of R25. -/
namespace Sys2Proof.Machine
set_option Elab.async false

/-! ### Points -/

/-- A point of a team. -/
def Team.point (t : Team) (pt : Nat) : Point := t.points.getD pt Point.reset

/-- A flip (R165). -/
def Point.flip (p : Point) : Point := { p with phase := !p.phase, arrivals := 0, pending := 0 }

/-- An error flip with its code. -/
def Point.errorFlip (p : Point) (code : Nat) : Point := { p.flip with err := true, errcode := code }

/-- A point evaluated after an update that leaves the given counts (R165), with the incident of an error flip. -/
def Point.evaluate (p : Point) (arrivals : Nat) (pending : Int) : Point × Option IncCode :=
  if p.expected < arrivals then (p.errorFlip 5, some .rdvArrivalOverflow)
  else if pending < 0 then (p.errorFlip 4, some .rdvPendingUnderflow)
  else if arrivals = p.expected ∧ pending = 0 ∧ p.expected ≠ 0 then (p.flip, none)
  else ({ p with arrivals := arrivals, pending := pending.toNat }, none)

/-- What a flip of a point lets its waiters see: the completed MMAS and INKs that counted into it (R182, R185), for a saved group as for one
that stands (R313). -/
def State.markFlip (s : State) (team pt : Nat) : State :=
  let see := fun (g : Group) => { g with
    unseen := updWhere (fun u => u.point == pt && !(s.ops.any fun o => o.id == u.op)) (fun u => { u with flipped := true }) g.unseen }
  let flip := fun (o : MacroOld) => if o.point = pt then { o with flipped := true } else o
  let ended := fun (o : OldByte) => match o.copy with
    | some (op, _, p) => o.team == team && p == pt && !(s.ops.any fun x => x.id == op)
    | none => false
  let s1 : State := if s.mem.olds.isEmpty then s
    else { s with mem := { s.mem with olds := updWhere ended (fun o => { o with released := true }) s.mem.olds } }
  (s1.modGroups (fun g => g.team == team) see).modTeam team fun t =>
    { t with macros := t.macros.map fun m => { m with old := m.old.map flip }, groups := t.groups.map see }

/-- A point replaced by the result of an update: its flip, and the incident of an error (R165). -/
def State.putPoint (s : State) (team pt : Nat) (p : Point) (inc : Option IncCode) : State :=
  let t := (s.teamOf team).getD Team.none
  let s1 := s.modTeam team fun x => { x with points := x.points.set pt p }
  let s2 := if p.phase = (t.point pt).phase then s1 else s1.markFlip team pt
  match inc with
  | some c => s2.report { (c.entry.atCol t.col).ofCtx t.ctx with detail := BitVec.ofNat 64 pt }
  | none => s2

/-- An update of a point: more arrivals, more or fewer pending bytes (R165). -/
def State.updPoint (s : State) (team pt arrivals : Nat) (bytes : Int) : State :=
  let p := ((s.teamOf team).getD Team.none).point pt
  let (q, inc) := p.evaluate (p.arrivals + arrivals) (p.pending + bytes)
  s.putPoint team pt q inc

/-- A group of the team has observed the flip of a point: the bytes of the copies that counted into it hold what was copied (R166, R171,
R173, R260, R265), for it and for whoever reads them later, and in the scratchpad they stay in sight of MMAS as they were, until a FENCEO
(R156). The issuing group may read what they were until it observes the flip itself (R173), or acquires (R261). -/
def State.sawCopies (s : State) (pt : Nat) : State :=
  let hit := fun (o : OldByte) => match o.copy with
    | some (_, _, p) => o.team == s.g.team && p == pt && o.released
    | none => false
  let own := fun (o : OldByte) => (o.copy.map (·.2.1)) == some s.g.index || scratchLoc 0 0 ≤ o.loc
  if s.mem.olds.isEmpty then s
  else
    let seen := fun (o : OldByte) => if hit o then (if own o then o.performed else some { o with only := true }) else some o
    { s with mem := { s.mem with olds := s.mem.olds.filterMap seen } }

/-- The issuing group has observed a flip of a point (R166, R182, R185): a team-scope acquire. -/
def State.observe (s0 : State) (pt : Nat) : State :=
  let s := (s0.noteScratchAcquire s0.g.team s0.g.index).sawCopies pt
  let g := { s.g with unseen := s.g.unseen.filter fun u => !(u.point == pt && u.flipped) }
  let saw := fun (o : MacroOld) => if o.point = pt && o.flipped then { o with seen := g.index :: o.seen } else o
  ({ s with g := g } : State).modTeam g.team fun t => { t with macros := t.macros.map fun m => { m with old := m.old.map saw } }

/-! ### Checks -/

/-- The flag test of R25. -/
def Group.flagTest (g : Group) : Except Stop Unit :=
  let hit := g.fl.extractLsb' 0 7 &&& g.fl.extractLsb' 16 7
  need (hit == 0) (trap .flagTrap 0 (zext64 hit))

/-- The point lies within the declared count (R164). -/
def State.declared (s : State) (pt : BitVec 5) : Except Stop Unit :=
  need (pt.toNat < s.grid.launch.points) (trapN .illegalOperand pt.toNat)

/-- Checks 1 and 2 of R167. -/
def State.ready (s : State) (pt : BitVec 5) : Except Stop Unit := do
  s.declared pt
  need ((s.team.point pt.toNat).expected != 0) (trapN .rdvUninit pt.toNat)

/-! ### Team points -/

/-- RDVINIT (R168). -/
def execRdvinit (pt : BitVec 5) (a b : SReg) (s : State) : Host.Outcome State Fault Refusal :=
  finish s do
    s.sound [] [a, b] []
    s.declared pt
    let n := (s.g.sReg a).toNat
    need (1 ≤ n && n ≤ 1024) (trapN .illegalOperand a.toNat)
    need ((s.g.sReg b).toNat ≤ 1) (trapN .illegalOperand b.toNat)
    let p := s.team.point pt.toNat
    need (p.arrivals == 0 && p.pending == 0) (trapN .rdvBusy pt.toNat)
    .ok (s.putPoint s.g.team pt.toNat { p with expected := n, ext := (s.g.sReg b).toNat == 1, err := false, errcode := 0, erraddr := 0 } none).retire

/-- ARRIVE (R169). -/
def execArrive (pt : BitVec 5) (a : SReg) (s : State) : Host.Outcome State Fault Refusal :=
  finish s do
    s.ready pt
    let u ← s.releaseFirst .team
    let t := u.updPoint s.g.team pt.toNat 1 0
    .ok (t.retireWith (t.g.setS a (if (s.team.point pt.toNat).phase then 1 else 0)))

/-- EXPECT (R169). -/
def execExpect (pt : BitVec 5) (a : SReg) (s : State) : Host.Outcome State Fault Refusal :=
  finish s do
    s.sound [] [a] []
    s.ready pt
    let n := (s.g.sReg a).toNat
    need ((s.team.point pt.toNat).pending + n ≤ 2 ^ 63 - 1) (trapN .illegalOperand a.toNat)
    .ok (s.updPoint s.g.team pt.toNat 0 n).retire

/-- WAITP (R170, R25, R196). DESIGN CHOICE (log entry 87): an uncorrectable error in the token register is found before the flag test of
R25, for whose order with R197 no rule is given. -/
def execWaitp (pt : BitVec 5) (a : SReg) (s0 : State) : Host.Outcome State Fault Refusal :=
  let s := s0.drainMmas
  finish s do
    s.mmasSettled
    s.impreciseCheck
    s.sound [] [a] []
    s.g.flagTest
    s.ready pt
    let t := (s.g.sReg a).getLsbD 0
    if (s.team.point pt.toNat).phase = t then .error (.block (.point pt.toNat t))
    else .ok (s.observe pt.toNat).retire

/-- WAITY (R170, R196): no flag test. -/
def execWaity (pt : BitVec 5) (a b : SReg) (s : State) : Host.Outcome State Fault Refusal :=
  finish s do
    s.impreciseCheck
    s.sound [] [a, b] []
    s.ready pt
    let C := s.g.sReg b
    need (C.toNat % 4 == 0) (trap .misaligned C 0)
    need (C.toNat < 2 ^ 55) (trap .accessFault C 0)
    let t := (s.g.sReg a).getLsbD 0
    if (s.team.point pt.toNat).phase = t then .error (.block (.waity pt.toNat t C))
    else .ok ((s.observe pt.toNat).jump C)

/-- ARWAIT (R169, R25, R196). -/
def execArwait (pt : BitVec 5) (s0 : State) : Host.Outcome State Fault Refusal :=
  let s := s0.drainMmas
  finish s do
    s.mmasSettled
    s.impreciseCheck
    s.g.flagTest
    s.ready pt
    let t := (s.team.point pt.toNat).phase
    let r ← s.releaseFirst .team
    let u := r.updPoint s.g.team pt.toNat 1 0
    if (u.team.point pt.toNat).phase = t then .ok (u.blockOn (.point pt.toNat t))
    else .ok (u.observe pt.toNat).retire

/-- The status word of a point (R164). -/
def Point.status (p : Point) : Word :=
  let b := fun (c : Bool) (k : Nat) => if c then 2 ^ k else 0
  BitVec.ofNat 64 (satNat p.pending (2 ^ 32 - 1) * 2 ^ 32 + b (p.expected != 0) 31 + b p.ext 30 + b p.err 29 + b p.phase 28 +
    p.errcode * 2 ^ 24 + p.arrivals * 2 ^ 12 + p.expected)

/-- RDVSTAT (R171). -/
def execRdvstat (pt : BitVec 5) (a b : SReg) (s : State) : Host.Outcome State Fault Refusal :=
  finish s do
    s.declared pt
    let p := s.team.point pt.toNat
    .ok (s.retireWith ((s.g.setS a p.status).setS b p.erraddr))

/-! ### The schedule selector -/

/-- The weight of a column in a table (R188). -/
def tableWeight (t : BitVec 128) (c : ColId) : Nat := t.toNat / 2 ^ (2 * c.val) % 4

/-- The columns of a phase with their times and tiles: from the base to the last arrival, and the sum (R188 steps 1 and 2). -/
def columnTimes (base : Nat) (arrived : List Arrival) : List (ColId × Nat × Nat) :=
  ((List.finRange 64).filter fun c => arrived.any fun a => a.col == c).map fun c =>
    let mine := arrived.filter fun a => a.col == c
    (c, (mine.map (·.time)).foldl Nat.max base - base, (mine.map (·.tiles)).foldl (· + ·) 0)

/-- A fraction that is not less than another. -/
def fracLe (a b : Nat × Nat) : Bool := a.1 * b.2 ≤ b.1 * a.2

/-- The prediction of a table: nanoseconds per tile, or none when it is infinite or the table absent (R188 step 3). -/
def predictTable (cols : List (ColId × Nat × Nat)) (t : BitVec 128) : Option (Nat × Nat) :=
  let used := (List.finRange 64).filter fun c => tableWeight t c != 0
  let W := (used.map (tableWeight t)).foldl (· + ·) 0
  if W = 0 then none
  else used.foldl (fun (m : Option (Nat × Nat)) c => m.bind fun best =>
    match cols.find? fun x => x.1 == c with
    | some (_, tau, tiles) =>
      if tiles = 0 then none
      else
        let f := (tableWeight t c * tau, W * tiles)
        some (if fracLe f best then best else f)
    | none => none) (some (0, 1))

/-- The table with the least finite prediction, the lowest index among equals (R188 step 4). -/
def chooseTable (cols : List (ColId × Nat × Nat)) : Nat → List (BitVec 128) → Option (Nat × (Nat × Nat))
  | _, [] => none
  | i, t :: r =>
    match predictTable cols t, chooseTable cols (i + 1) r with
    | some m, some (j, n) => if fracLe m n then some (i, m) else some (j, n)
    | some m, none => some (i, m)
    | none, x => x

/-- The selector at a selection flip (R188). -/
def Selector.flip (x : Selector) (sched : List (BitVec 128)) (arrived : List Arrival) (now : Nat) : Selector :=
  let cols := columnTimes x.base arrived
  let total := (arrived.map (·.tiles)).foldl (· + ·) 0
  let longest := (cols.map (·.2.1)).foldl Nat.max 0
  let cur := sched.getD x.table 0
  let late := match x.predicted with
    | none => true
    | some (n, d) => 9 * n * total < longest * 8 * d
  let hot := x.throttled.any fun c => tableWeight cur c != 0
  let y := if x.first || hot || late then
      match chooseTable cols 0 sched with
      | some (i, m) => { x with table := i, predicted := some m }
      | none => { x with table := 0, predicted := none }
    else x
  { y with first := false, base := now, throttled := [], measured := cols.map fun c => (c.1, c.2.1) }

/-! ### Grid points -/

/-- COHORT, RESTARTABLE and VERSIONED of FLAGS (R210). -/
def Launch.cohort (l : Launch) : Bool := l.flags.getLsbD 0
def Launch.restartable (l : Launch) : Bool := l.flags.getLsbD 1
def Launch.versioned (l : Launch) : Bool := l.flags.getLsbD 2

/-- The launched teams of a grid (R172). -/
def Launch.teams (l : Launch) : Nat := l.x * l.y * l.z

/-- A grid point of the issuing group's grid, and the arrivals of its team there. -/
def State.gv (s : State) (pt : Nat) : GridPoint := s.grid.gvs.getD pt ⟨0, 0, []⟩
def State.gvArrivals (s : State) (pt : Nat) : Nat := s.team.gvA.getD pt 0

/-- The grid point that pt names: gv0 to gv3 are 24 to 27 (R66). -/
def gvOf (pt : BitVec 5) : Nat := pt.toNat - 24

/-- Check 1 of R172. -/
def State.hasGrid (s : State) (pt : BitVec 5) : Except Stop Unit :=
  need (s.grid.launch.cohort && !s.team.spawned) (trapN .gridRdvAbsent pt.toNat)

/-- Check 2 of R172 and check 1 of R186. -/
def State.leader (s : State) : Except Stop Unit := need (s.g.index == 0) (trapN .notLeader s.g.index)

/-- The previous arrival of the team is complete: A = C. -/
def State.gvDone (s : State) (pt : Nat) : Bool := (s.gv pt).done == s.gvArrivals pt

/-- A list of counts of at least n entries. -/
def padded (l : List Nat) (n : Nat) : List Nat := l ++ List.replicate (n - l.length) 0

/-- The team arrives at a grid point, and the last arrival completes the phase (R172, R188). -/
def State.gridArrive (s : State) (pt tiles : Nat) (byPhase : Bool) : State :=
  let me : Arrival := ⟨s.g.team, s.colId, tiles, s.ptp.toNat, byPhase⟩
  let s1 := s.modTeam s.g.team fun t => { t with gvA := (padded t.gvA 4).set pt ((t.gvA.getD pt 0 + 1) % 2 ^ 32) }
  s1.modGrid s.team.grid fun x =>
    let v := x.gvs.getD pt ⟨0, 0, []⟩
    let arrived := v.arrived ++ [me]
    let gvs := x.gvs ++ List.replicate (4 - x.gvs.length) ⟨0, 0, []⟩
    if v.count + 1 = x.launch.teams then
      { x with gvs := gvs.set pt ⟨0, (v.done + 1) % 2 ^ 32, []⟩
               selector := if arrived.any (·.byPhase) then x.selector.flip x.launch.sched arrived s.ptp.toNat else x.selector }
    else { x with gvs := gvs.set pt { v with count := v.count + 1, arrived := arrived } }

/-- GARRIVE once it need not wait: the arrival, and the acquire when it completes the phase (R172). -/
def State.garrive (s : State) (pt : Nat) : State :=
  let t := s.gridArrive pt 0 false
  (if t.gvDone pt then t.acquire .dev else t).retire

/-- GARRIVE (R172, R196). -/
def execGarrive (pt : BitVec 5) (s : State) : Host.Outcome State Fault Refusal :=
  finish s do
    s.impreciseCheck
    s.hasGrid pt
    s.leader
    let t ← s.releaseFirst .dev
    if t.gvDone (gvOf pt) then .ok (t.garrive (gvOf pt))
    else .ok (t.blockOn (.gridPoint (gvOf pt) .arrive 0))

/-- GWAIT (R172, R25, R196). -/
def execGwait (pt : BitVec 5) (s0 : State) : Host.Outcome State Fault Refusal :=
  let s := s0.drainMmas
  finish s do
    s.mmasSettled
    s.impreciseCheck
    s.g.flagTest
    s.hasGrid pt
    if s.gvDone (gvOf pt) then .ok (s.acquire .dev).retire
    else .error (.block (.gridPoint (gvOf pt) .wait 0))

/-- PHASE after its arrival: the choice of the selector once the point has completed (R188). -/
def State.phaseEnd (s : State) (pt : Nat) (b : SReg) : State :=
  if s.gvDone pt then
    let t := s.acquire .dev
    t.retireWith (t.g.setS b (BitVec.ofNat 64 t.grid.selector.table))
  else s.blockOn (.gridPoint pt .phaseWait b)

/-- PHASE (R188, R172, R196). -/
def execPhase (pt : BitVec 5) (a b : SReg) (s : State) : Host.Outcome State Fault Refusal :=
  finish s do
    s.impreciseCheck
    s.sound [] [a] []
    s.hasGrid pt
    s.leader
    let n := (s.g.sReg a).toNat
    need (n < 2 ^ 32) (trapN .illegalOperand a.toNat)
    let t ← s.releaseFirst .dev
    if t.gvDone (gvOf pt) then .ok ((t.gridArrive (gvOf pt) n true).phaseEnd (gvOf pt) b)
    else .ok (t.blockOn (.gridPoint (gvOf pt) (.phaseArrive n) b))

/-! ### Waking -/

/-- A blocked group whose condition holds continues (R170, R172, R188, R234, R335). -/
def State.wake (s : State) : State :=
  let ready : State := { s with g := { s.g with status := .ready } }
  match s.g.status with
  | .blocked .immediate | .blocked .hcallSend => ready
  | .blocked (.point pt _) => (ready.observe pt).retire
  | .blocked (.waity pt _ C) => (ready.observe pt).jump C
  | .blocked (.gridPoint _ .wait _) => (ready.acquire .dev).retire
  | .blocked (.gridPoint pt .arrive _) =>
    if s.g.glyphResume.isSome then ready.acquire .dev else (ready.acquire .dev).garrive pt
  | .blocked (.gridPoint pt (.phaseArrive n) b) => ((ready.acquire .dev).gridArrive pt n true).phaseEnd pt b
  | .blocked (.gridPoint pt .phaseWait b) => ready.phaseEnd pt b
  | _ => s

end Sys2Proof.Machine
end

