-- ==== Sys2Proof/Machine/AsyncCopy.lean ====
section
/-! DEFINITION. Asynchronous copies: COPY, COPYT and COPYV at issue, and the copy engine sector by sector (R173 to R176, R267,
R337). -/
namespace Sys2Proof.Machine
set_option Elab.async false

/-! ### Shapes -/

/-- The space of a code (R68, R174). -/
def Space.ofCode : Nat → Space
  | 0 => .global
  | 1 => .scratch
  | 2 => .vault
  | _ => .slice

/-- An element of a box by its number: its indices, the first fastest (R175). -/
def boxIndex : Nat → List Nat → List Nat
  | _, [] => []
  | k, e :: r => k % e :: boxIndex (k / e) r

/-- The distance of an element of a box from the base (R175). -/
def boxOffset (esz : Nat) (strides : List Int) (idx : List Nat) : Int :=
  match idx with
  | [] => 0
  | i0 :: r => (2 ^ esz * i0 : Nat) + ((r.zip strides).map fun p => p.2 * (p.1 : Int)).foldl (· + ·) 0

/-- An address of a space: modulo 2^64. -/
def wrap64 (x : Int) : Nat := (BitVec.ofInt 64 x).toNat

/-- Where byte k of a copy goes to and comes from: the spaces and addresses of destination and source. -/
def CopyShape.byteAt (c : CopyShape) (k : Nat) : (Space × Nat) × (Space × Nat) :=
  match c with
  | .run dst src d s => ((.ofCode d, (dst + k) % 2 ^ 64), (.ofCode s, (src + k) % 2 ^ 64))
  | .box dst src d s esz extents strides =>
    let e := k / 2 ^ esz
    ((.ofCode d, (dst + k) % 2 ^ 64),
     (.ofCode s, wrap64 (src + boxOffset esz strides (boxIndex e extents) + (k % 2 ^ esz : Nat))))
  | .pieces size list =>
    let p := list.getD (k / size) (0, 0)
    ((.scratch, p.1 + k % size), (.global, p.2 + k % size))

/-- Bytes from byte k to the end of its destination sector, or of its piece. -/
def CopyShape.chunk (c : CopyShape) (k : Nat) : Nat :=
  let sector := 32 - (c.byteAt k).1.2 % 32
  match c with
  | .pieces size _ => Nat.min sector (size - k % size)
  | _ => sector

/-! ### The engine -/

/-- Why the engine cannot move a byte. -/
inductive CopyHit where
  /-- A recoverable fault (R173). -/
  | hold (acc : Access) (va level : Nat)
  /-- A failure with its ERRCODE, the address, and the incident that goes with it. -/
  | fail (code va : Nat) (inc : List Incident)
  /-- An object whose exact value must be recalled. -/
  | object (obj : Nat)
  /-- A scope mark refuses the walk: it is tried again (R262, R325). -/
  | retry
  deriving DecidableEq, Repr

/-- The core that an operation runs on; a copy of the journal has none. -/
def EngineOp.onCore (o : EngineOp) : Option CoreId :=
  match o.kind with
  | .journalCopy _ _ _ _ _ _ _ => none
  | _ => some o.core

/-- The agent as which an operation is translated. -/
def EngineOp.agent (o : EngineOp) : Agent := ⟨o.ctx, if o.onCore.isSome then o.team else 0, o.col, o.onCore, false⟩

/-- The group that issued an operation (R196). -/
def EngineOp.origin (o : EngineOp) : Origin := ⟨o.core, o.team, o.index, o.ctx⟩

/-- The CORR of the command behind an operation (R313). -/
def EngineOp.corr (o : EngineOp) : Word32 :=
  match o.kind with
  | .journalCopy _ _ _ corr _ _ _ => corr
  | _ => 0

/-- A record of the translation for an operation names its engine, and the group that a core's engine works for (R382). -/
def EngineOp.stamp (o : EngineOp) (i : Incident) : Incident :=
  { (i.atCol o.col).byEngine 3 with
    core := if o.onCore.isSome then o.core.val else 0xFF, group := if o.onCore.isSome then o.slot.val else 0xFF, corr := o.corr }

/-- An incident of an operation's copy: column, context, engine kind 3, address, CORR; the core and the slot of the group that a
core's copy engine works for (R382). -/
def EngineOp.incident (o : EngineOp) (code : IncCode) (va : Nat) : Incident :=
  { o.stamp ((code.entry.ofCtx o.ctx).withVa (BitVec.ofNat 64 va)) with
    detail := if code = .copyPoison then BitVec.ofNat 64 o.point else 0 }

/-- The incident of a failed copy by its ERRCODE (R173). -/
def copyIncident (code : Nat) : IncCode := if code = 2 then .copyPoison else if code = 3 then .copyAllowanceLine else .copyFault

/-- The failure of a byte on a side of a copy, by ERRCODE. -/
def EngineOp.fails (o : EngineOp) (code va : Nat) (more : List Incident) : CopyHit :=
  .fail code va (more ++ [o.incident (copyIncident code) va])

/-- The place of a byte in a space that is not global (R135). -/
def State.engineLoc (s : State) (o : EngineOp) (sp : Space) (a : Nat) : Nat :=
  match sp with
  | .vault => vaultLoc o.col ((s.vaultWindow o.team o.ctx o.col).1 + a)
  | .slice => sliceLoc o.col a
  | _ => scratchLoc o.team a

/-- An address of a space translated for an operation. -/
def State.engineXlat (s : State) (o : EngineOp) (sp : Space) (a : Nat) (acc : Access) : Except CopyHit Xlat :=
  if sp = .global then
    match s.translate o.agent a 1 acc with
    | .ok x => .ok x
    | .error e =>
      match s.settleStop o.agent a e with
      | .recoverable level => .error (.hold acc a level)
      | .fault _ incs => .error (o.fails 1 a (incs.map o.stamp))
      | .retry => .error .retry
  else .ok ⟨.mem (s.engineLoc o sp a), 8, Config.vaultKey o.ctx.val, 0, false⟩

/-- A byte as the engine reads it: an object's exact value, the team's version, the core's L1, or memory (R145, R173, R267). -/
def State.engineRead (s : State) (o : EngineOp) (sp : Space) (a : Nat) : Except CopyHit Byte := do
  let x ← s.engineXlat o sp a .read
  match x.site with
  | .mem loc =>
    match if x.home ≤ 1 then s.objOf (loc / 128) else none with
    | some obj =>
      match o.alReads.find? fun r => r.1 == obj.obj with
      | some r => .ok ((leBytes 8 r.2.toNat).getD (loc % 8) 0)
      | none => .error (.object obj.obj)
    | none =>
      let version := s.versionByte o.team o.index loc
      let cached := if x.home = 0 then o.onCore.bind fun c => (s.cores.get c).l1Byte x.key loc else none
      match version, cached <|> (if o.onCore.isSome then s.heldByte o.origin loc else none) with
      | some b, _ => .ok b
      | none, some b => .ok b
      | none, none => if s.mem.poisoned loc then .error (o.fails 2 a []) else .ok (s.seenByte (some (o.team, o.index)) (s.keySlot x.key) loc)
  | .peer k pa =>
    match s.versionByte o.team o.index pa with
    | some b => .ok b
    | none =>
      if s.dev.peerFenced.contains k.val then .error (o.fails 1 a [])
      else if Config.peerRefuses s.tick k.val (pa / 128) then
        .error (o.fails 1 a [{ (o.incident .peerRefused a).withPa pa with detail := BitVec.ofNat 64 k.val }])
      else .ok (Config.peerByte s.tick k.val pa)
  | .signal c off => .ok ((s.cols.get c).signalByte off)
  | .lost _ => .error (o.fails 2 a [])

/-- A byte's destination, checked: an object's line takes no copy; a fenced peer or vault, and a poisoned granule that the run
does not cover, take no write (R173, R242, R354, R373). -/
def State.engineTarget (s : State) (o : EngineOp) (sp : Space) (a first run : Nat) : Except CopyHit Xlat := do
  let x ← s.engineXlat o sp a .write
  match x.site with
  | .mem loc =>
    if x.home ≤ 1 && (s.objOf (loc / 128)).isSome then .error (o.fails 3 a [])
    else if s.mem.poisoned loc && !(s.mem.accepts (loc - (a - first)) run loc) then
      .error (.fail (Config.poisonedTargetCode s.tick % 16) a [((o.incident .sectorPoisoned a).withPa loc)])
    else .ok x
  | .peer k _ => if s.dev.peerFenced.contains k.val then .error (o.fails 1 a []) else .ok x
  | .signal _ _ => .ok x
  | .lost _ => .error (o.fails 1 a [])

/-- Byte k of a copy read, unless it has been read ahead of its turn, its destination checked; the run is that of its sector. -/
def State.copyByte (s : State) (o : EngineOp) (c : CopyShape) (first run k : Nat) : Except CopyHit Byte := do
  let b ← match o.ahead.lookup k with
    | some b => .ok b
    | none => s.engineRead o (c.byteAt k).2.1 (c.byteAt k).2.2
  let _ ← s.engineTarget o (c.byteAt k).1.1 (c.byteAt k).1.2 first run
  .ok b

/-- Bytes of a copy up to the first that cannot be moved. -/
def State.copyGather (s : State) (o : EngineOp) (c : CopyShape) (first run : Nat) : Nat → Nat → List Byte × Option CopyHit
  | _, 0 => ([], none)
  | k, n + 1 =>
    match s.copyByte o c first run k with
    | .error h => ([], some h)
    | .ok b => let (bs, h) := State.copyGather s o c first run (k + 1) n; (b :: bs, h)

/-- The failure that stops a copy at a byte not yet reached, if one does and nothing holds it up before (R173). -/
def State.copyFailure (s : State) (o : EngineOp) (c : CopyShape) : Nat → Nat → Option (Nat × Nat × List Incident)
  | 0, _ => none
  | n + 1, k =>
    let run := Nat.min (c.chunk k) (o.total - k)
    if run = 0 then none
    else match (s.copyGather o c (c.byteAt k).1.2 run k run).2 with
      | some (.fail code va incs) => some (code, va, incs)
      | some _ => none
      | none => State.copyFailure s o c n (k + run)

/-- The locations that a stretch of a copy reads and writes, and their lines. -/
def State.copyLocs (s : State) (o : EngineOp) (c : CopyShape) (k n : Nat) : List Nat :=
  let loc := fun (p : Space × Nat) (acc : Access) => match s.engineXlat o p.1 p.2 acc with
    | .ok ⟨.mem loc, _, _, _, _⟩ => some loc
    | _ => none
  ((List.range n).map fun i => [loc (c.byteAt (k + i)).2 .read, loc (c.byteAt (k + i)).1 .write]).flatten.filterMap id
def State.copyLines (s : State) (o : EngineOp) (c : CopyShape) (k n : Nat) : List Nat := ((s.copyLocs o c k n).map (· / 128)).eraseDups

/-- What lies between the engine and those lines is settled: the core's buffered reductions and the update-only copies. -/
def State.copySettle (s : State) (o : EngineOp) (lines : List Nat) : State :=
  let s1 := match o.onCore with
    | some c => s.drainComb c fun e => lines.contains (e.loc / 128)
    | none => s
  lines.foldl State.mergeCopies s1

/-- What a copy of a group replaces, in memory or in the version of its team: until the flip of the copy is observed a reader may still see
it (R173). -/
def EngineOp.replaces (o : EngineOp) (version : Bool) (loc n : Nat) (old : Nat → Byte) : List OldByte :=
  if o.onCore.isSome then
    tabList (fun a => ⟨a, old a, o.team, none, some (o.id, o.index, o.point), false, version, false, [], []⟩) loc n
  else []

/-- Bytes of a copy that enter the version of its team (R267); what they replace there is the version's, or what the team read at home, at a
peer where the home is one. -/
def State.copyToVersion (s : State) (o : EngineOp) (key a loc : Nat) (bs : List Byte) (home : Nat → Byte) : State :=
  let old := fun (x : Nat) => (s.versionByte o.team o.index x).getD (home x)
  (s.putVersion o.origin a key loc bs).noteOlds (o.replaces true loc bs.length old)

/-- Bytes of a copy written from an address (R173): into the team's version, past the core's copy of the line, to a peer. Until the group
has observed the flip of the copy, a reader may still see what the bytes held before. -/
def State.engineWrite (s0 : State) (o : EngineOp) (sp : Space) (a : Nat) (bs : List Byte) : State :=
  match s0.engineXlat o sp a .write with
  | .error _ => s0
  | .ok x =>
    let versioned := sp = .global && ((s0.teamOf o.team).bind (·.version)).isSome
    match x.site with
    | .mem loc =>
      if versioned then s0.copyToVersion o x.key a loc bs (s0.seenByte (some (o.team, o.index)) (s0.keySlot x.key))
      else
        let s1 := match o.onCore with
          | some c => s0.cleanDrop c (loc / 128)
          | none => s0
        if sp = .global then
          ((s1.writeHomeAs ⟨o.origin, BitVec.ofNat 64 a, x.key, 1⟩ ⟨false, false, none, some (.copy o.id)⟩ loc bs).disown s1.fresh).noteOlds
            (if (s1.holdOf (loc / 128)).isSome then [] else o.replaces false loc bs.length (s1.mem.plain (s1.keySlot x.key)))
        else (s1.storeRun (s1.keySlot x.key) loc bs).noteOlds (o.replaces false loc bs.length (s1.mem.plain (s1.keySlot x.key)))
    | .peer k pa =>
      if versioned then s0.copyToVersion o x.key a pa bs (Config.peerByte s0.tick k.val)
      else (s0.sendPeer ⟨k, pa, bs, none, if o.onCore.isSome then some o.origin else none, BitVec.ofNat 64 a, false,
        some (.copy o.id)⟩).notePeer none pa bs.length
    | .signal c off => s0.signalStore o.ctx c off 1 (BitVec.ofNat 64 (leNat bs))
    | .lost _ => s0

/-- Writes of a copy that are not performed (R173, R370). -/
def State.copyPending (s : State) (op : Nat) : Bool :=
  s.links.held.any (fun h => h.tag == some (.copy op)) || s.links.peerWrites.any fun w => w.tag == some (.copy op)

/-- An access of a copy waits (R137, R358, R367): for its group's earlier writes to a peer, a live port to it, its core's held reductions, a bank
in its refresh. -/
def State.engineBusy (s : State) (o : EngineOp) (c : CopyShape) (k n : Nat) : Bool :=
  let waits := fun (p : Space × Nat) (acc : Access) => match s.engineXlat o p.1 p.2 acc with
    | .ok x =>
      match x.site with
      | .mem loc => s.bankBusy loc || (acc == .read && o.onCore.isSome && s.links.held.any fun h => match h.red with
          | some e => e.who.core == o.core && e.touches loc 1
          | none => false)
      | .peer k pa => acc == .read && (!(s.links.reachesPeers (colDie o.col)) || s.links.peerWrites.any fun w =>
          (w.who == some o.origin || w.tag == some (.commit o.team)) && w.peer == k && w.pa ≤ pa && pa < w.pa + w.bytes.length)
      | _ => false
    | .error _ => false
  (List.range n).any fun i => waits (c.byteAt (k + i)).2 .read || waits (c.byteAt (k + i)).1 .write

/-- A line of a home that the version of an operation's team cannot take (R337). -/
def State.versionFull (s : State) (o : EngineOp) (home line : Nat) : Bool :=
  let lines := s.versionLines o.col
  home != 0 || (!(lines.contains (o.team, line)) && 4 ≤ versionSet lines line)

/-- A write of an operation of an uncommitted VERSIONED team that must wait for its early commit (R337). -/
def State.engineWaits (s : State) (o : EngineOp) (sp : Space) (a : Nat) : Bool :=
  match (s.teamOf o.team).bind (·.version) with
  | none => false
  | some _ =>
    match sp with
    | .scratch => false
    | .vault | .slice => true
    | .global =>
      match s.engineXlat o sp a .write with
      | .ok x =>
        match x.site with
        | .mem loc => s.versionFull o x.home (loc / 128)
        | .peer _ pa => s.versionFull o x.home (pa / 128)
        | _ => true
      | .error _ => false

/-- An operation changed. -/
def State.modOp (s : State) (id : Nat) (f : EngineOp → EngineOp) : State :=
  { s with ops := updWhere (fun o => o.id == id) f s.ops }

/-- An operation gone. -/
def State.dropOp (s : State) (id : Nat) : State := { s with ops := s.ops.filter fun o => o.id != id }

/-- What a stretch of a copy leaves to be done by whoever counts its bytes. -/
inductive CopyOutcome where
  /-- Waits: a fault, a recall, an early commit. -/
  | waits (t : State)
  /-- Bytes written. -/
  | moved (t : State) (n : Nat)
  /-- The copy stops: its ERRCODE, the address, the incidents. -/
  | stopped (t : State) (code va : Nat) (incs : List Incident)
  deriving DecidableEq, Repr

/-- One sector of a copy (R173): the bytes that can move are written; the first that cannot holds the copy or stops it, with the bytes
before it, of this sector and of those before, written or not. `early` says whether a failure that stands further on stops the copy here. -/
def State.copyTurn (s0 : State) (o : EngineOp) (c : CopyShape) (src : FaultSource) (early : Bool) : CopyOutcome :=
  let run := Nat.min (c.chunk o.pos) (o.total - o.pos)
  let (sp, first) := (c.byteAt o.pos).1
  let s := s0.copySettle o (s0.copyLines o c o.pos run)
  if s.engineWaits o sp first || s.engineBusy o c o.pos run then .waits s
  else
    let u : State := { (s.copyLocs o c o.pos run).foldl State.activateAt s.seen with tick := s.tick + 1 }
    match if early then s.copyFailure o c o.total o.pos else none with
    | some (code, va, incs) => .stopped u code va incs
    | none =>
    match s.copyGather o c first run o.pos run with
    | ([], some (.hold acc va level)) =>
      let (k, t) := s.raiseFault o.col src o.ctx (BitVec.ofNat 64 va) acc.code level
      .waits (t.modOp o.id fun x => { x with held := some k })
    | ([], some .retry) => .waits u
    | ([], some (.object obj)) =>
      .waits ((s.sendReq o.col (.engine o.id) obj .read).modOp o.id fun x => { x with alWait := some obj })
    | ([], some (.fail code va incs)) => .stopped u code va incs
    | (bs, some (.fail code va incs)) =>
      if Config.movesPrefix s.tick then .moved (u.engineWrite o sp first bs) bs.length else .stopped u code va incs
    | (bs, _) => .moved (u.engineWrite o sp first bs) bs.length

/-- The turn of a copy, which may stop it before its failure is reached (R173). -/
def State.copySector (s : State) (o : EngineOp) (c : CopyShape) (src : FaultSource) : CopyOutcome :=
  s.copyTurn o c src (Config.stopsEarly s.tick)

/-- Bytes of a copy written: subtracted from its point; the last of them end it (R173). -/
def State.copyWritten (s : State) (o : EngineOp) (n : Nat) : State :=
  let s1 := if o.pos = o.total && !(s.copyPending o.id) then s.dropOp o.id else s
  s1.updPoint o.team o.point 0 (-(n : Int))

/-- A copy stops (R173): the rest of its bytes is subtracted, and an error flip follows with the code and the address. -/
def State.copyStops (s : State) (o : EngineOp) (code va : Nat) (incs : List Incident) : State :=
  let s1 := State.reportAll incs (s.dropOp o.id)
  match s1.teamOf o.team with
  | none => s1
  | some t => s1.putPoint o.team o.point { (t.point o.point).errorFlip code with erraddr := BitVec.ofNat 64 va } none

/-- The writes of a copy that are held, or on their way to a peer. -/
def State.copyWaiting (s : State) (op : Nat) : Nat :=
  ((s.links.held.filter fun h => h.tag == some (.copy op)).map fun h => h.bytes.length).foldl (· + ·) 0 +
  ((s.links.peerWrites.filter fun w => w.tag == some (.copy op)).map fun w => w.bytes.length).foldl (· + ·) 0

/-- COPY_SECTOR_WRITTEN (R173): one sector of a copy of a group. Bytes that are held, or on their way to a peer, count when they are
performed. -/
def execCopySectorWritten (op : Nat) (s : State) : Host.Outcome State Fault Refusal :=
  done <| match s.ops.find? fun o => o.id == op && o.held.isNone && o.alWait.isNone && o.pos < o.total with
  | some o =>
    match o.kind with
    | .copy c =>
      match s.copySector o c (.copy o.core o.slot o.pc) with
      | .waits t => t
      | .stopped t code va incs => t.copyStops o code va incs
      | .moved t n =>
        let moved : EngineOp := { o with pos := o.pos + n }
        (t.modOp op fun _ => moved).copyWritten moved (n - (t.copyWaiting op - s.copyWaiting op))
    | _ => s
  | none => s

/-- The engine reads a source byte of an operation ahead of its turn, or a byte of the tile of an INK or MMAS: a later write to it is not
seen (R173, R179, R182). -/
def State.engineAhead (s0 : State) (op k : Nat) : State :=
  match s0.ops.find? fun o => o.id == op && o.pos ≤ k && k < o.total && !(o.ahead.any fun x => x.1 == k) with
  | none => s0
  | some o =>
    let keep := fun (t : State) (b : Byte) =>
      ({ t.seen with tick := t.tick + 1 } : State).modOp op fun x => { x with ahead := (k, b) :: x.ahead }
    let tile := fun (off : Nat) => if s0.scratchBad o.team (off + k) then s0 else keep s0 (s0.scratchByte o.team (off + k))
    let source := fun (c : CopyShape) =>
      let s := s0.copySettle o (s0.copyLines o c k 1)
      if s.engineBusy o c k 1 then s
      else match s.engineRead o (c.byteAt k).2.1 (c.byteAt k).2.2 with
        | .ok b => keep ((s.copyLocs o c k 1).foldl State.activateAt s) b
        | .error _ => s
    match o.kind with
    | .copy c | .journalCopy c _ _ _ _ _ _ => source c
    | .ink off _ _ _ | .mmas off _ _ _ _ _ => tile off

/-! ### At issue -/

/-- An asynchronous operation of the issuing group begins: its bytes are counted into the point (R173). -/
def State.beginOp (s : State) (pt n : Nat) (kind : EngineKind) : State :=
  let o : EngineOp := ⟨s.fresh, s.ctxId, s.colId, s.g.team, s.g.core, s.g.slot, s.g.index, s.g.pc, pt, n, 0, kind, none, [], none, []⟩
  ({ s with ops := s.ops ++ [o], fresh := s.fresh + 1 } : State).updPoint s.g.team pt 0 n

/-- Bytes of a space that is not global. -/
def State.spaceSize (s : State) : Space → Nat
  | .global => 2 ^ 55
  | .scratch => s.scratchBytes
  | .vault => (s.vaultWindow s.g.team s.ctxId s.colId).2
  | .slice => s.col.scratchBytes

/-- The bound of a range of a space (check 4 of R174): outside global memory the first offset beyond the bound, and the grant of
the slice scratch; in global memory its first and last address, that of its last element where it is a range of elements (R175). DESIGN CHOICE
(log entry 111): a failure at the high end of a range of bytes in global memory reports the address of the last byte. -/
def State.rangeCheck (s : State) (sp : Space) (addr len : Int) (unit : Int := 1) : Except Stop Unit :=
  match sp with
  | .global => do
    need (wrap64 addr < 2 ^ 55) (trapN .accessFault (wrap64 addr))
    let last := wrap64 (addr + len - unit)
    need (last < 2 ^ 55) (trapN .accessFault last)
  | _ => do
    let cause := (s.boundFail sp (2 ^ 64) 1).getD .accessFault
    need (0 ≤ addr) (trapN cause (wrap64 addr))
    need (addr + len ≤ s.spaceSize sp) (trapN cause (Nat.max addr.toNat (s.spaceSize sp)))
    need (sp != .slice || s.col.grant == some s.ctxId) (trapN .accessFault addr.toNat)

/-- COPY (R174). DESIGN CHOICE (log entry 111): where both sides fail check 4, the destination's failure is the one reported. -/
def execCopy (pt : BitVec 5) (a b : SReg) (s : State) : Host.Outcome State Fault Refusal :=
  finish s do
    s.sound [] [a, a + 1, b] []
    need (a.toNat ≤ 62) (trapN .illegalOperand a.toNat)
    let w := (s.g.sReg b).toNat
    need (w / 2 ^ 36 == 0) (trapN .illegalOperand b.toNat)
    s.declared pt
    let n := field w 0 32
    if n = 0 then .ok s.retire
    else
      let dst := (s.g.sReg a).toNat
      let src := (s.g.sReg (a + 1)).toNat
      s.rangeCheck (.ofCode (field w 32 2)) dst n
      s.rangeCheck (.ofCode (field w 34 2)) src n
      .ok (s.beginOp pt.toNat n (.copy (.run dst src (field w 32 2) (field w 34 2)))).retire

/-- The fields of a tensor region record (R175). -/
structure Tensor where
  src : Word
  dst : Word
  ctrl : Nat
  extents : List Nat
  strides : List Int
  tail : Word
  deriving DecidableEq, Repr

/-- A record from its eight words. -/
def Tensor.ofWords (w : Nat → Nat) : Tensor :=
  { src := BitVec.ofNat 64 (w 0), dst := BitVec.ofNat 64 (w 1), ctrl := w 2
    extents := (List.range 4).map fun i => field (w 3) (16 * i) 16
    strides := (List.range 3).map fun i => (BitVec.ofNat 64 (w (4 + i))).toInt
    tail := BitVec.ofNat 64 (w 7) }

/-- Element size code, rank and bytes of a record. -/
def Tensor.esz (t : Tensor) : Nat := t.ctrl % 4
def Tensor.rank (t : Tensor) : Nat := t.ctrl / 4 % 4 + 1
def Tensor.bytes (t : Tensor) : Nat := t.extents.foldl (· * ·) (2 ^ t.esz)

/-- The first entry of a list from an index on that satisfies a test. -/
def firstFrom {α : Type} (p : α → Bool) (l : List α) (i : Nat) : Option Nat := ((l.drop i).findIdx? p).map (· + i)

/-- Checks 3 of R175, by the offset of the offending field. DESIGN CHOICE (log entry 129): of several fields CTRL is named before the field at
0x38. -/
def Tensor.illegal (t : Tensor) : Option Nat :=
  if t.ctrl / 256 ≠ 0 then some 0x10
  else if t.tail ≠ 0 then some 0x38
  else match firstFrom (· == 0) t.extents 0, firstFrom (· != 1) t.extents t.rank, firstFrom (· != 0) t.strides (t.rank - 1) with
    | some i, _, _ => some (0x18 + 2 * i)
    | none, some i, _ => some (0x18 + 2 * i)
    | none, none, some i => some (0x20 + 8 * i)
    | none, none, none => if 2 ^ 32 ≤ t.bytes then some 0x18 else none

/-- Check 4 of R175, by the offset of the offending field: the effective source base, the destination, the strides. DESIGN CHOICE (log entry
129): of several the first of these is named. -/
def Tensor.misaligned (t : Tensor) (base : Word) : Option Nat :=
  let e := 2 ^ t.esz
  if base.toNat % e ≠ 0 then some 0
  else if t.dst.toNat % e ≠ 0 then some 8
  else (firstFrom (fun (x : Int) => x % e != 0) t.strides 0).map fun i => 0x20 + 8 * i

/-- The lowest and the highest element of a box, as distances from its base (R175). -/
def Tensor.spread (t : Tensor) : Int × Int :=
  let reach := (t.strides.zip (t.extents.drop 1)).map fun p => p.1 * ((p.2 : Int) - 1)
  ((reach.map fun x => min x 0).foldl (· + ·) 0,
   (reach.map fun x => max x 0).foldl (· + ·) ((2 ^ t.esz * (t.extents.getD 0 1 - 1) : Nat) : Int))

/-- A field of the record that stops COPYT. -/
def recordStop (c : Cause) (R : Word) : Option Nat → Except Stop Unit
  | some off => .error (trap c (R + BitVec.ofNat 64 off) 0)
  | none => .ok ()

/-- COPYT (R175). -/
def execCopyt (pt : BitVec 5) (a b : SReg) (s : State) : Host.Outcome State Fault Refusal :=
  finish s do
    s.sound [] [a, b] []
    let R := s.g.sReg a
    need (R.toNat % 64 == 0) (trap .misaligned R 0)
    need (R.toNat < 2 ^ 55) (trap .accessFault R 0)
    let ps ← s.xlatParts .read true (spillCuts R.toNat)
    let (vals, u) ← s.loadParts true ps
    let t := Tensor.ofWords (laneValue vals)
    let base := t.src + s.g.sReg b
    recordStop .illegalOperand R t.illegal
    recordStop .misaligned R (t.misaligned base)
    u.declared pt
    let e := 2 ^ t.esz
    let dsp := Space.ofCode (t.ctrl / 64 % 4)
    let ssp := Space.ofCode (t.ctrl / 16 % 4)
    u.rangeCheck ssp (base.toNat + t.spread.1) (t.spread.2 - t.spread.1 + e) e
    u.rangeCheck dsp t.dst.toNat t.bytes e
    .ok (u.beginOp pt.toNat t.bytes
      (.copy (.box t.dst.toNat base.toNat (t.ctrl / 64 % 4) (t.ctrl / 16 % 4) t.esz t.extents t.strides))).retire

/-- Bytes of a piece of COPYV (R176). -/
def pieceBytes : PieceSize → Nat
  | .p4 => 4
  | .p8 => 8
  | .p16 => 16
  | .p32 => 32

/-- A check over lanes with their addresses: the trap names the failing lanes and the lowest one's address (R138). -/
def lanesNeed (c : Cause) (lanes : List (Nat × Nat)) (ok : Nat → Nat → Bool) : Except Stop Unit :=
  let bad := lanes.filter fun l => !(ok l.1 l.2)
  match bad with
  | [] => .ok ()
  | l :: _ => .error (trap c (BitVec.ofNat 64 l.2) (maskOf fun L => bad.any fun b => b.1 == L))

/-- The lower of a source and an offset that are not multiples of a size (R138, R176). -/
def lowerOdd (size src dst : Nat) : Nat :=
  if src % size = 0 then dst else if dst % size = 0 then src else Nat.min src dst

/-- COPYV (R176, R139): with no Active lane only the checks of steps 1 to 7 are made. -/
def execCopyv (g : Guard) (n : BitVec 7) (a b : VReg) (sz : PieceSize) (s : State) : Host.Outcome State Fault Refusal :=
  finish s do
    let m := s.g.active g
    let size := pieceBytes sz
    let ops := [vSpan a 2 true m, vSpan b 1 false m]
    s.g.step6 ops
    s.sound ops [] [s.g.guardIdx g]
    if m = 0 then .ok s.retire
    else
      evenCheck ops
      s.declared (n.extractLsb' 0 5)
      let src := fun L => (s.g.lane64 a.toNat L).toNat
      let dst := fun L => (s.g.lane b.toNat L).toNat
      lanesNeed .scratchBound (laneList m dst) fun _ x => x + size ≤ s.scratchBytes
      lanesNeed .misaligned (laneList m fun L => lowerOdd size (src L) (dst L))
        fun L _ => src L % size == 0 && dst L % size == 0
      lanesNeed .accessFault (laneList m src) fun _ x => x < 2 ^ 55
      .ok (s.beginOp n.toNat (size * (lanesOf m).length)
        (.copy (.pieces size ((lanesOf m).map fun L => (dst L, src L))))).retire

end Sys2Proof.Machine
end

