-- ==== Sys2Proof/Machine/Agents.lean ====
section
/-! DEFINITION. Accesses by agents that are no group: launch ports, the command journal, completion signals (R221, R223, R230,
R313), each at the homes of the bytes and through the translation of a context. -/
namespace Sys2Proof.Machine
set_option Elab.async false

/-- Why an access of an agent does not complete. -/
inductive AgentStop where
  /-- A recoverable fault (R331). -/
  | hold (acc : Access) (va level : Nat)
  /-- A scope mark refuses it, no port is up, or a bank is in its refresh: it is tried again (R262, R358, R367). -/
  | retry
  /-- Any other failure, with its address, its incidents, and whether it is poison. -/
  | fail (va : Nat) (incs : List Incident) (poison : Bool)
  deriving DecidableEq, Repr

/-- The agent of a column that works for a context: a port, a journal, a slice (R325). -/
def portAgent (c : CtxId) (col : ColId) : Agent := ⟨c, 0, col, none, false⟩

/-- The parts of an access of an agent, translated: a failure that is not recoverable settles it, even behind a recoverable one (R324). -/
def State.agentParts (s : State) (a : Agent) (acc : Access) (cuts : List (Nat × Nat × Nat × Nat)) : Except AgentStop (List Part) :=
  let rs : List (Sum Part (Nat × XStop)) := cuts.map fun c => match s.translate a c.2.1 c.2.2.1 acc with
    | .ok x => .inl ⟨c.1, c.2.1, c.2.2.1, c.2.2.2, x⟩
    | .error e => .inr (c.2.1, s.settleStop a c.2.1 e)
  let fatal := rs.filterMap fun r => match r with
    | .inr (va, .fault _ incs) => some (va, incs)
    | _ => none
  let waits := rs.filterMap fun r => match r with
    | .inr (va, .recoverable level) => some (va, level)
    | _ => none
  let good : List Part := rs.filterMap fun r => match r with
    | .inl p => some p
    | .inr _ => none
  match fatal, waits with
  | (va, incs) :: _, _ => .error (.fail va (incs.map (·.atCol a.col)) false)
  | [], waits =>
    if good.any (·.x.isLost) then .ok good
    else if rs.any fun r => match r with
      | .inr (_, .retry) => true
      | _ => false then .error .retry
    else match waits with
      | (va, level) :: _ => .error (.hold acc va level)
      | [] => .ok good

/-- The bytes of a part at their home, as an agent of a column reads them; it waits for a bank in its refresh (R358), and without a live port to
a peer the read is made again (R367). -/
def State.agentBytes (s : State) (a : Agent) (p : Part) : Except AgentStop (List Byte) :=
  match p.x.site with
  | .mem loc =>
    if s.bankBusy loc then .error .retry
    else if (tabList id loc p.len).any s.mem.poisoned then .error (.fail p.va [] true)
    else .ok (tabList (s.mem.plain (s.keySlot p.x.key)) loc p.len)
  | .peer k pa =>
    if s.dev.peerFenced.contains k.val then .error (.fail p.va [] false)
    else if !(s.links.reachesPeers (colDie a.col)) then .error .retry
    else if (runLines pa p.len).any (Config.peerRefuses s.tick k.val) then
      .error (.fail p.va [{ (((IncCode.peerRefused.entry.withVa (BitVec.ofNat 64 p.va)).withPa pa).ofCtx a.ctx).atCol a.col with
        detail := BitVec.ofNat 64 k.val }] false)
    else .ok (tabList (Config.peerByte s.tick k.val) pa p.len)
  | .signal c off => .ok (tabList (s.cols.get c).signalByte off p.len)
  | .lost _ => .error (.fail p.va [] true)

/-- The bytes of parts in order. -/
def State.agentGather (s : State) (a : Agent) : List Part → Except AgentStop (List Byte)
  | [] => .ok []
  | p :: r => do
    let bs ← s.agentBytes a p
    let rest ← s.agentGather a r
    .ok (bs ++ rest)

/-- What an agent reads at a virtual address, after the update-only copies of those lines are merged (R251). -/
def State.agentRead (s : State) (a : Agent) (va len : Nat) : Except AgentStop (List Byte) := do
  let ps ← s.agentParts a .read (laneCuts 0 va len)
  ((ps.map Part.lines).flatten.foldl State.mergeCopies s).agentGather a ps

/-- The rows that such a read activates (R358). -/
def State.agentRows (s : State) (a : Agent) (va len : Nat) : State :=
  match s.agentParts a .read (laneCuts 0 va len) with
  | .ok ps => s.activate ps
  | .error _ => s

/-- A device-scope acquire read by an agent of a column: refused while a mark leaves the column out (R223, R262). -/
def State.agentAcquire (s : State) (a : Agent) (va len : Nat) : Except AgentStop (List Byte) := do
  let ps ← s.agentParts a .read (laneCuts 0 va len)
  if s.marked (.hostCore a.col) (partLines ps) then .error .retry else s.agentRead a va len

/-- The origin of a write that no group waits for: team 0 is no team. -/
def agentOrigin (ctx : CtxId) : Origin := ⟨0, 0, 0, ctx⟩

/-- The agent of a write that is a release of system scope (R230, R263, R313): a completion store is the host core's of its column, a SIGNAL
the DMC's of d0. DESIGN CHOICE (log entry 113): R230 and R313 name no agent. -/
def writeParty (col : ColId) : Option WriteTag → Option Party
  | some (.completion _) => some (.hostCore col)
  | some (.journal _ _) => some (.dmc 0)
  | _ => none

/-- The correlation identifier of the command that a write belongs to (R313, R387). -/
def tagCorr : Option WriteTag → Word32
  | some (.journal _ corr) => corr
  | _ => 0

/-- A run performed for an agent without a group: it activates its row (R358); each poisoned sector that it does not cover stays, with its
incident (R354, R387); what it has released by it is noted (R263). -/
def State.agentPerform (s : State) (ctx : CtxId) (rel : Option Party) (va key loc : Nat) (bs : List Byte) (tag : Option WriteTag) : State :=
  (s.mem.failsAt loc bs.length).foldl
    (fun (t : State) a => t.report { ((s.sectorIncident .sectorPoisoned a).withVa (BitVec.ofNat 64 (va + (a - loc)))).ofCtx ctx with
      corr := tagCorr tag })
    (((s.activateAt loc).storeRun (s.keySlot key) loc bs).noteRelease rel loc bs.length)

/-- Bytes written at a location by an agent without a group: held behind leases and the host (R364, R370), or performed. -/
def State.agentStore (s0 : State) (ctx : CtxId) (rel : Option Party) (va key loc : Nat) (bs : List Byte) (tag : Option WriteTag) : State :=
  let s := s0.mergeCopies (loc / 128)
  match s.holdOf (loc / 128) with
  | some (due, host) =>
    s.hold ⟨loc, key, 1, bs, none, due, host, some (agentOrigin ctx), false, BitVec.ofNat 64 va, false, rel, tag⟩
  | none => s.agentPerform ctx rel va key loc bs tag

/-- A word added to memory by an agent without a group (R313): the word that stands there when the addition is performed. -/
def State.agentAdd (s0 : State) (ctx : CtxId) (rel : Option Party) (va key loc : Nat) (x : Nat) (tag : Option WriteTag) : State :=
  let s := s0.mergeCopies (loc / 128)
  let e : CombEntry := ⟨loc, 8, .add, .i32, true, BitVec.ofNat 64 x, agentOrigin ctx, BitVec.ofNat 64 va, key, 1, []⟩
  match s.holdOf (loc / 128) with
  | some (due, host) => s.hold ⟨loc, key, 1, [], some e, due, host, some e.who, false, e.va, false, rel, tag⟩
  | none => s.agentPerform ctx rel va key loc (leBytes 8 (leNat (tabList (s.mem.plain (s.keySlot key)) loc 8) + x)) tag

/-- A word written, or for a read-write access added, by an agent at a virtual address (R230, R313), once the bank is not in its refresh (R358);
what holds the write back carries the tag. -/
def State.agentWrite (s : State) (a : Agent) (acc : Access) (va x : Nat) (tag : Option WriteTag) : Except AgentStop State := do
  let ps ← s.agentParts a acc (laneCuts 0 va 8)
  match ps with
  | p :: _ =>
    match p.x.site with
    | .mem loc =>
      if s.bankBusy loc then .error .retry
      else .ok (if acc = .readWrite then s.agentAdd a.ctx (writeParty a.col tag) va p.x.key loc x tag
        else s.agentStore a.ctx (writeParty a.col tag) va p.x.key loc (leBytes 8 x) tag)
    | .peer k pa =>
      if s.dev.peerFenced.contains k.val then .error (.fail va [] false)
      else .ok ((s.sendPeer ⟨k, pa, leBytes 8 x, if acc = .readWrite then some .add else none, none, BitVec.ofNat 64 va, false, tag⟩).notePeer
        (writeParty a.col tag) pa 8)
    | .signal c off => .ok (s.signalStore a.ctx c off 8 (BitVec.ofNat 64 x) (tagCorr tag))
    | .lost _ => .error (.fail va [] true)
  | [] => .ok s

/-- A write with such a tag is not yet performed (R230, R313, R370). -/
def State.anyPending (s : State) (p : WriteTag → Bool) : Bool :=
  s.links.held.any (fun h => h.tag.any p) || s.links.peerWrites.any fun w => w.tag.any p

/-- A tagged write is not yet performed (R230, R313, R370). -/
def State.tagPending (s : State) (tag : WriteTag) : Bool := s.anyPending (· == tag)

end Sys2Proof.Machine
end

