-- ==== Sys2Proof/Machine/GlyphExec.lean ====
section
/-! DEFINITION. Loading and running glyphs (R74, R108 to R112). -/
namespace Sys2Proof.Machine
set_option Elab.async false

/-- The minors of major 0x3A that no glyph body may hold (R110). -/
def barredSync (fn : Nat) : Bool := fn == 3 || fn == 4 || fn == 5 || fn == 8 || fn == 9

/-- A step word that a body may hold (R110). -/
def stepWordOk (w : Word32) : Bool :=
  let op := field w.toNat 26 6
  (match decodeWord w with
   | .ok _ => true
   | .error _ => false) &&
  !(op == 1 || op == 2 || (4 ≤ op && op ≤ 9) || op == 0x0E || op == 0x0F || op == 0x3D || op == 0x3E) &&
  (op != 3 || w == 0x0C000000) && (op != 0x3A || !(barredSync (w.toNat % 16)))

/-- The first step of a body that fails: its number and word. -/
def badStep : Nat → List Word32 → Option (Nat × Word32)
  | _, [] => none
  | k, w :: r => if stepWordOk w then badStep (k + 1) r else some (k, w)

/-- A header that a body may have (R110). -/
def headerOk (h : Nat) : Bool := 1 ≤ h && h ≤ 32

/-- GLYPH_BODY for the header (place 0) or for step k (place k + 1) (R109). -/
def glyphBody (place w : Nat) : Stop := trapN .glyphBody (place * 2 ^ 32 + w)

/-- The loads of the steps of a body: one of 4 bytes for each (R109). -/
def bodyCuts (va n : Nat) : List (Nat × Nat × Nat × Nat) := tabList (fun k => (k, va + 4 * k, 4, 0)) 0 n

/-- The steps of a body from the values that its loads return. -/
def bodyWords (vals : List (Nat × Nat)) (n : Nat) : List Word32 := tabList (fun k => BitVec.ofNat 32 (laneValue vals k)) 0 n

/-- A glyph entry of a core (R108): `none` when n = 0. -/
def CoreState.glyphEntry (c : CoreState) (gi : BitVec 8) : Option GlyphEntry := c.glyphs.find? fun e => e.gi == gi

/-- An entry replaced whole (R109). -/
def CoreState.putGlyph (c : CoreState) (e : GlyphEntry) : CoreState :=
  { c with glyphs := e :: c.glyphs.filter fun x => x.gi != e.gi }

/-- A GLYPH of the core is running: one that has been left at a blocking point issues again (R109, R112). -/
def State.glyphRunning (s : State) (core : CoreId) : Bool :=
  s.groups.any fun g => g.core == core && g.glyph.isSome

/-- GLYLD (R109). -/
def execGlyld (a : SReg) (gi : BitVec 8) (s : State) : Host.Outcome State Fault Refusal :=
  finish s do
    s.sound [] [a] []
    let A := s.g.sReg a
    need (A.toNat % 4 == 0) (trap .misaligned A 0)
    need (A.toNat < 2 ^ 55) (trap .accessFault A 0)
    let hp ← s.xlatParts .read true [(0, A.toNat, 4, 0)]
    let (hv, t) ← s.loadParts true hp
    let h := laneValue hv 0
    need (headerOk h) (glyphBody 0 h)
    let bp ← t.xlatParts .read true (bodyCuts (A + 4).toNat h)
    let (bv, u) ← t.loadAfter (peerAsks (s.askParts hp)) true bp
    let body := bodyWords bv h
    match badStep 0 body with
    | some (k, w) => .error (glyphBody (k + 1) w.toNat)
    | none =>
      let c := u.ctxId
      match u.core.glyphEntry gi with
      | some e => need (e.owner == c || !(u.residentOn e.owner u.g.core)) (trapN .glyphBusy gi.toNat)
      | none => .ok ()
      need (!(s.glyphRunning s.g.core)) .stall
      .ok (u.modCore u.g.core fun x => x.putGlyph ⟨gi, c, body⟩).retire

/-- The register fields of a step in the order of its word: vector or scalar, and number (R73). -/
def placeFields (i : Instr) : List (Bool × Nat) :=
  match i with
  | .vextr _ d a b => [(false, d.toNat), (true, a.toNat), (false, b.toNat)]
  | i => (i.vFields.map fun r => (true, r.toNat)) ++ (i.sFields.map fun r => (false, r.toNat))

/-- A field that holds a placeholder whose parameter has the other kind (R74). -/
def wrongKind (kinds : BitVec 2) (f : Bool × Nat) : Bool :=
  let base := if f.1 then 126 else 62
  (f.2 == base && kinds.getLsbD 0 == f.1) || (f.2 == base + 1 && kinds.getLsbD 1 == f.1)

/-- The placeholder of the wrong kind that GLYPH reports: step and value. DESIGN CHOICE (log entry 102): of several, the one in the lowest
step, and in it the first field of `placeFields`; R74 and R111 give no order. -/
def badPlace (kinds : BitVec 2) : Nat → List Word32 → Option (Nat × Nat)
  | _, [] => none
  | k, w :: r =>
    match decodeWord w with
    | .ok i => match (placeFields i).find? (wrongKind kinds) with
      | some f => some (k, f.2)
      | none => badPlace kinds (k + 1) r
    | .error _ => badPlace kinds (k + 1) r

/-- The step at which a GLYPH is entered (R111, R194). -/
def Group.glyphStart (g : Group) : Nat :=
  match g.glyphResume with
  | some (pc, k) => if pc = g.pc then k else 0
  | none => 0

/-- GLYPH (R111): the body as it stands is bound to the group, whose next issue is a step of it. DESIGN CHOICE (log entry 103): a GLYPH
entered again at step k reports TSTEP = k also where the entry is another context's with n > k. -/
def execGlyph (gi : BitVec 8) (pA pB : BitVec 7) (kinds : BitVec 2) (s : State) : Host.Outcome State Fault Refusal :=
  finish s do
    let k := s.g.glyphStart
    let absent : Stop := .trap ⟨.glyphAbsent, BitVec.ofNat 64 gi.toNat, 0, [], some k⟩
    match s.core.glyphEntry gi with
    | none => .error absent
    | some e =>
      need (e.owner == s.ctxId && k < e.body.length) absent
      match badPlace kinds 0 e.body with
      | some (i, v) => .error (.trap ⟨.illegalOperand, BitVec.ofNat 64 (256 * i + v), 0, [], some 0⟩)
      | none => .ok { s with g := { s.g with glyph := some ⟨e.body, k, pA, pB, kinds⟩, glyphResume := none } }

end Sys2Proof.Machine
end

