-- ==== Sys2Proof/Machine/Records.lean ====
section
/-! DEFINITION. Launch records: their fields and checks, and the glyph tables that they name (R18, R209 to R213, R221, R224). -/
namespace Sys2Proof.Machine
set_option Elab.async false

/-- A field of a record: k bytes from an offset. -/
def recNat (bs : List Byte) (off k : Nat) : Nat := leNat ((bs.drop off).take k)

/-- A launch record from its 256 bytes (R209). -/
def parseLaunch (bs : List Byte) : Launch where
  entry := BitVec.ofNat 64 (recNat bs 0 8)
  args := BitVec.ofNat 64 (recNat bs 8 8)
  x := recNat bs 0x10 4
  y := recNat bs 0x14 4
  z := recNat bs 0x18 4
  timer := recNat bs 0x1C 4
  groups := (List.range 4).map fun k => recNat bs (0x20 + k) 1
  macros := recNat bs 0x24 1
  flags := BitVec.ofNat 8 (recNat bs 0x25 1)
  points := recNat bs 0x26 1
  scratch := recNat bs 0x27 1
  vBud := (List.range 4).map fun k => recNat bs (0x28 + k) 1
  aBud := (List.range 4).map fun k => recNat bs (0x2C + k) 1
  slots := (List.range 8).map fun k => BitVec.ofNat 32 (recNat bs (0x30 + 4 * k) 4)
  deps := (List.range 4).map fun i => (BitVec.ofNat 64 (recNat bs (0x50 + 16 * i) 8), BitVec.ofNat 64 (recNat bs (0x58 + 16 * i) 8))
  doneAddr := BitVec.ofNat 64 (recNat bs 0x90 8)
  doneValue := BitVec.ofNat 64 (recNat bs 0x98 8)
  affinity := BitVec.ofNat 64 (recNat bs 0xA0 8)
  prio := recNat bs 0xA9 1
  sched := (List.range 4).map fun t => BitVec.ofNat 128 (recNat bs (0xB0 + 16 * t) 16)
  glyphs := BitVec.ofNat 64 (recNat bs 0xF0 8)

/-- A format slot word that breaks R211. -/
def badSlotWord (w : Word32) : Bool :=
  let n := w.toNat
  let code := n % 256
  n != 0 && (n / 2 ^ 25 != 0 || (slotBlock w != 0 && slotBlock w != 32) || 1 < field n 12 4 || 1 < field n 8 4 ||
    !([0x10, 0x11, 0x12, 0x20, 0x21, 0x22, 0x23, 0x30, 0x31, 0x32].contains code))

/-- The first index of a list at which a test fails. -/
def firstBad {α : Type} (bad : α → Bool) (l : List α) : Option Nat := l.findIdx? bad

/-- The columns that may hold teams of a grid: its mask and the context's, without the fenced ones (R221, R225, R339). -/
def State.columnsOf (s : State) (c : CtxId) (l : Launch) : List ColId :=
  (List.finRange 64).filter fun k =>
    l.affinity.getLsbD k.val && (s.ctxs.get c).colmask.getLsbD k.val && !(s.cols.get k).fenced

/-- Budgets of a role that break R18: for roles with groups, and for the general role. -/
def badBudget (l : Launch) (buds : List Nat) (unit top : Nat) : Option Nat :=
  firstBad (fun (k : Nat) => (l.groups.getD k 0 != 0 || k == 3) && (buds.getD k 0 % unit != 0 || top < buds.getD k 0)) (List.range 4)

/-- The field pass of R221 but for the glyph table: the offset of the first bad field. DESIGN CHOICE (log entry 129): bits [7:6] of the word at
0xA8, for which R209 has no field, are to be 0. -/
def State.badField (s : State) (c : CtxId) (bs : List Byte) : Option Nat :=
  let l := parseLaunch bs
  let groups := l.groups.foldl (· + ·) 0
  let ctxWord := recNat bs 0xA8 8
  let odd := fun (a : Word) => a.toNat % 8 != 0
  ([(l.entry.toNat % 4 != 0 || 2 ^ 55 ≤ l.entry.toNat, 0x00), (l.x == 0, 0x10), (l.y == 0, 0x14), (l.z == 0, 0x18),
    (64 < l.timer, 0x1C), (groups == 0 || 16 < groups, 0x20), (64 < l.macros, 0x24), (l.flags.toNat / 64 != 0, 0x25),
    (24 < l.points, 0x26)].find? (·.1)).map (·.2)
  <|> (badBudget l l.vBud 8 128).map (0x28 + ·)
  <|> (badBudget l l.aBud 16 64).map (0x2C + ·)
  <|> (firstBad badSlotWord l.slots).map (fun k => 0x30 + 4 * k)
  <|> (firstBad (fun d => odd d.1) l.deps).map (fun i => 0x50 + 16 * i)
  <|> (([(odd l.doneAddr, 0x90), ((s.columnsOf c l).isEmpty, 0xA0),
    (ctxWord % 64 != c.val || field ctxWord 6 2 != 0 || ctxWord / 2 ^ 16 != 0, 0xA8),
    (recNat bs 0xF8 8 != 0, 0xF8)] : List (Bool × Nat)).find? (·.1)).map (·.2)

/-! ### Glyph tables -/

/-- What a reading of a glyph table gives. -/
inductive TableResult where
  | ok (entries : List (BitVec 8 × List Word32))
  /-- It breaks R213, R109 or R110, or it cannot be read. -/
  | bad
  | hold (acc : Access) (va level : Nat)
  /-- A scope mark refuses the read (R262). -/
  | retry
  deriving DecidableEq, Repr

/-- Bytes of a table read by an agent: a device-scope acquire (R221). -/
def State.tableRead (s : State) (a : Agent) (va len : Nat) : Except TableResult (List Byte) :=
  if 2 ^ 64 ≤ va then .error .bad
  else match s.agentAcquire a va len with
    | .ok bs => .ok bs
    | .error (.hold acc va' level) => .error (.hold acc va' level)
    | .error .retry => .error .retry
    | .error (.fail _ _ _) => .error .bad

/-- The words of a little-endian number. -/
def wordsOf (n h : Nat) : List Word32 := tabList (fun k => BitVec.ofNat 32 (n / 2 ^ (32 * k))) 0 h

/-- A body image (R109, R110). -/
def State.readBody (s : State) (a : Agent) (va : Nat) : Except TableResult (List Word32) := do
  if va % 4 ≠ 0 then .error .bad
  else
    let h := leNat (← s.tableRead a va 4)
    if headerOk h then
      let ws := wordsOf (leNat (← s.tableRead a (va + 4) (4 * h))) h
      if (badStep 0 ws).isNone then .ok ws else .error .bad
    else .error .bad

/-- The entries of a table (R213), each index once. DESIGN CHOICE (log entry 129): the body of an entry is read before the next entry is checked,
so that a fault on it holds the record whatever a later entry is. -/
def State.readEntries (s : State) (a : Agent) (bs : List Byte) :
    Nat → Nat → List (BitVec 8 × List Word32) → Except TableResult (List (BitVec 8 × List Word32))
  | _, 0, acc => .ok acc
  | i, k + 1, acc => do
    let gi := BitVec.ofNat 8 (recNat bs (16 * i) 1)
    if recNat bs (16 * i + 1) 7 ≠ 0 || acc.any (fun e => e.1 == gi) then .error .bad
    else
      let body ← s.readBody a (recNat bs (16 * i + 8) 8)
      s.readEntries a bs (i + 1) k (acc ++ [(gi, body)])

/-- A glyph table with its bodies (R213, R221). -/
def State.readTable (s : State) (a : Agent) (va : Nat) : TableResult :=
  let r : Except TableResult (List (BitVec 8 × List Word32)) := do
    if va % 8 ≠ 0 then .error .bad
    else
      let n := leNat (← s.tableRead a va 8)
      if 1 ≤ n ∧ n ≤ 256 then
        let bs ← s.tableRead a (va + 8) (16 * n)
        s.readEntries a bs 0 n []
      else .error .bad
  match r with
  | .ok es => .ok es
  | .error x => x

/-- The glyph table of a grid; a grid without one has no entries. -/
def State.gridTable (s : State) (a : Agent) (l : Launch) : TableResult :=
  if l.glyphs = 0 then .ok [] else s.readTable a l.glyphs.toNat

/-- The rows that a reading of the table and its bodies activates (R358). -/
def State.tableRows (s : State) (a : Agent) (l : Launch) : State :=
  let va := l.glyphs.toNat
  let seen := fun (t : State) (at' n : Nat) => t.agentRows a at' n
  let body := fun (t : State) (at' : Nat) => match s.tableRead a at' 4 with
    | .ok h => seen t at' (4 + 4 * leNat h)
    | .error _ => t
  if l.glyphs = 0 then s
  else match s.tableRead a va 8 with
    | .ok n => match s.tableRead a (va + 8) (16 * leNat n) with
      | .ok bs => (tabList (fun i => recNat bs (16 * i + 8) 8) 0 (leNat n)).foldl body (seen s va (8 + 16 * leNat n))
      | .error _ => s
    | .error _ => s

/-! ### Needs and capacities -/

/-- What a team needs of a core (R224). -/
structure Need where
  slots : Nat
  v : Nat
  a : Nat
  units : Nat
  macros : Nat
  points : Nat
  deriving DecidableEq, Repr

/-- The sum of groups times a budget. -/
def budgetSum (gs bs : List Nat) : Nat := ((gs.zip bs).map fun p => p.1 * p.2).foldl (· + ·) 0

/-- The need of a launched team, or of a spawned one (R224, R231). -/
def Launch.need (l : Launch) (spawned : Bool) : Need :=
  if spawned then ⟨1, l.vBud.getD 3 0, l.aBud.getD 3 0, l.scratch, l.macros, l.points⟩
  else ⟨l.groups.foldl (· + ·) 0, budgetSum l.groups l.vBud, budgetSum l.groups l.aBud, l.scratch, l.macros, l.points⟩

/-- Two needs together. -/
def Need.add (a b : Need) : Need :=
  ⟨a.slots + b.slots, a.v + b.v, a.a + b.a, a.units + b.units, a.macros + b.macros, a.points + b.points⟩

/-- The scratchpad units below the core-pinned window, or the one that waits (R243, R381). -/
def CoreState.unitLimit (c : CoreState) : Nat := 256 - Nat.max c.pinwin (c.pinPend.getD 0)

/-- A need within the capacities of a core (R224). -/
def Need.fits (n : Need) (units : Nat) : Bool :=
  n.slots ≤ 32 && n.v ≤ 2048 && n.a ≤ 512 && n.units ≤ units && n.macros ≤ 64 && n.points ≤ 768

/-- How many times a need goes into an empty core (R221): at most 32, the group slots. -/
def Need.times (n : Need) (units : Nat) : Nat :=
  ((List.range 33).filter fun k => Need.fits ⟨k * n.slots, k * n.v, k * n.a, k * n.units, k * n.macros, k * n.points⟩ units).length - 1

/-- The admission pass of R221. -/
def State.badAdmission (s : State) (c : CtxId) (l : Launch) : Option Nat :=
  let n := l.need false
  let room := ((s.columnsOf c l).map fun k => ((List.finRange 4).map fun j =>
    n.times (s.cores.get (colCore k j)).unitLimit)).flatten
  if room.all (· == 0) then some 0x20
  else if l.cohort && room.foldl (· + ·) 0 < l.teams then some 0x10
  else none

end Sys2Proof.Machine
end

