-- ==== Sys2Proof/Machine/Sched.lean ====
section
/-! DEFINITION. Which group issues next, and which blocked group may wake (R227, R228, R233). -/
namespace Sys2Proof.Machine
set_option Elab.async false

/-- The context of a group runs, and its column is in service (R234, R339); an atomic between two of its lanes has issued, and goes on to its
end (R150, R336). -/
def State.mayIssue (s : State) (g : Group) : Bool :=
  let t := (s.teamOf g.team).getD Team.none
  let c := s.ctxs.get t.ctx
  (c.phase == .running || c.phase == .saving || (c.phase == .stopped && g.atom.isSome)) && !(s.cols.get (coreCol g.core)).fenced

/-- The glyph table of a group's grid has not been loaded into its core (R108). -/
def State.lacksGlyphs (s : State) (g : Group) : Bool :=
  let t := (s.teamOf g.team).getD Team.none
  match s.gridOf t.grid with
  | some x => x.launch.glyphs != 0 && !((s.cores.get g.core).loaded.contains (t.ctx, x.id))
  | none => false

/-- The group can issue: it is ready, or retries a held instruction (R227). -/
def State.runnable (s : State) (g : Group) : Bool :=
  (g.status == .ready || g.status == .stalled) && !g.yieldHold && s.mayIssue g && !(s.lacksGlyphs g)

/-- The rank of a role in a context's role order: 0 is the highest class (R228). -/
def roleRank (ord : Byte) (r : Role) : Nat :=
  if ord.toNat % 4 = r.code then 0
  else if ord.toNat / 4 % 4 = r.code then 1
  else if ord.toNat / 16 % 4 = r.code then 2
  else 3

/-- Two groups share an issue port (R227). -/
def samePort (a b : Group) : Bool := a.core == b.core && a.slot.val % 4 == b.slot.val % 4

/-- The last issue on the port of a group. -/
def State.portLast (s : State) (g : Group) : Nat :=
  ((s.groups.filter (samePort g)).map (·.lastIssue)).foldl Nat.max 0

/-- The order in which ready groups are taken: ports in turn, aged groups first, then the role class, then the least recently
issued (R227). -/
def State.issueKey (s : State) (g : Group) : List Nat :=
  let ord := (s.entryOf g.team ((s.teamOf g.team).getD Team.none).ctx).roleOrd
  [s.portLast g, if g.aged then 0 else 1, if g.aged then 0 else roleRank ord g.role, g.lastIssue]

/-- Lexicographic comparison of keys. -/
def keyLt : List Nat → List Nat → Bool
  | a :: r, b :: t => a < b || (a == b && keyLt r t)
  | _, _ => false

/-- The entry of a list with the least key, the first among equals. -/
def leastBy {α : Type} (key : α → List Nat) : List α → Option α
  | [] => none
  | x :: r => match leastBy key r with
    | none => some x
    | some y => some (if keyLt (key y) (key x) then y else x)

/-- The condition a blocked group waits for holds, so that WAIT_WAKE may return it to the pool (R170, R172, R233). -/
def State.wakeHolds (s : State) (g : Group) : Bool :=
  let t := (s.teamOf g.team).getD Team.none
  let c := s.ctxs.get t.ctx
  let x := (s.gridOf t.grid).getD Grid.none
  (c.phase == .running || c.phase == .saving) &&
  match g.status with
  | .blocked (.point pt token) | .blocked (.waity pt token _) => (t.points.getD pt Point.reset).phase != token
  | .blocked (.gridPoint gv _ _) => (x.gvs.getD gv ⟨0, 0, []⟩).done == t.gvA.getD gv 0
  | .blocked .immediate => c.phase == .running
  | .blocked .hcallSend => s.hqOpen (coreCol g.core)
  | .blocked (.hcallReply _) => c.phase == .running && (g.hcall.bind (·.reply)).isSome
  | _ => false

end Sys2Proof.Machine
end

