-- ==== Sys2Proof/Machine/Placement.lean ====
section
/-! DEFINITION. Placement and admission of teams (R224 to R227, R231, R33, R27, R108), with aging and holds (R99, R227). -/
namespace Sys2Proof.Machine
set_option Elab.async false

/-! ### Order -/

/-- The order in which grids are offered (R223): a lower key first. -/
def State.offerKey (s : State) (x : Grid) : List Nat :=
  [255 - (s.ctxs.get x.ctx).prio, 3 - field x.launch.flags.toNat 3 2, 255 - x.launch.prio, x.accepted]

/-- The context of a grid admits teams: it runs and is in no error state (R193, R234). -/
def State.admits (s : State) (c : CtxId) : Bool := (s.ctxs.get c).phase == .running && !(s.ctxs.get c).error

/-- A waiting team may be admitted: in the error state of its context only one that had been admitted and was saved (R193, R312, R336). DEDUCED
(log entry 118): a saved team is no further team of R193. -/
def State.admitsTeam (s : State) (t : Team) : Bool :=
  (s.ctxs.get t.ctx).phase == .running && (!(s.ctxs.get t.ctx).error || t.readmit)

/-- Teams of a grid that wait for admission. -/
def State.waitingOf (s : State) (x : Grid) : List Team :=
  s.teams.filter fun t => t.grid == x.id && t.place == .waiting && s.admitsTeam t

/-! ### Room -/

/-- What the resident teams of a core use (R224). -/
def State.usedOn (s : State) (core : CoreId) : Need :=
  let teams := s.teams.filter fun t => t.place == .resident && t.core == core
  let n := teams.foldl (fun (n : Need) t => n.add ((s.gridOf t.grid).getD Grid.none |>.launch.need t.spawned)) ⟨0, 0, 0, 0, 0, 0⟩
  { n with slots := (s.groups.filter fun g => g.core == core).length }

/-- The free group slots of a core, ascending. -/
def State.freeSlots (s : State) (core : CoreId) : List SlotId :=
  (List.finRange 32).filter fun k => !(s.groups.any fun g => g.core == core && g.slot == k)

/-- The free scratchpad units of a core below its window, ascending. -/
def State.freeUnits (s : State) (core : CoreId) : List Nat :=
  let taken := ((s.teams.filter fun t => t.place == .resident && t.core == core).map (·.units)).flatten
  (List.range (s.cores.get core).unitLimit).filter fun u => !(taken.contains u)

/-- Entries of a glyph table are free on a core, or the context's own (R108). -/
def State.entriesFree (s : State) (c : CtxId) (core : CoreId) (es : List (BitVec 8 × List Word32)) : Bool :=
  es.all fun e => match (s.cores.get core).glyphEntry e.1 with
    | some g => g.owner == c || !(s.residentOn g.owner core)
    | none => true

/-- The entries that a grid's table names are free on a core or the context's own (R108, R224). -/
def State.glyphRoom (s : State) (x : Grid) (core : CoreId) : Bool :=
  match s.gridTable (portAgent x.ctx x.col) x.launch with
  | .ok es => s.entriesFree x.ctx core es
  | .bad => true
  | .retry | .hold _ _ _ => false

/-- A head team still waits (R226). -/
def State.headStands (s : State) : HeadTeam → Bool
  | .launched grid i => match s.gridOf grid with
    | some x => s.admits x.ctx && x.stage == .offered && x.next == i
    | none => false
  | .waiting team => s.teams.any fun t => t.id == team && t.place == .waiting && s.admitsTeam t
  | .cohort grid => match s.gridOf grid with
    | some x => (s.admits x.ctx && x.stage == .offered) || (s.waitingOf x).any fun t => !t.spawned
    | none => false

/-- Holds of cores for teams that no longer wait are given up: such a team that waits again waits 100 µs anew (R226). -/
def State.dropHolds (s : State) : State :=
  let stands := fun (c : CoreState) => (c.headHold.map s.headStands).getD true
  if s.cores.all stands then s else { s with cores := s.cores.map fun c => if stands c then c else { c with headHold := none } }

/-- The next launched team of a grid, and a team of it that waits, as the head of a core: a COHORT grid is one (R226). -/
def Grid.nextHead (x : Grid) : HeadTeam := if x.launch.cohort then .cohort x.id else .launched x.id x.next
def Grid.teamHead (x : Grid) (t : Team) : HeadTeam := if x.launch.cohort && !t.spawned then .cohort x.id else .waiting t.id

/-- A core is kept for another team, its head (R226). -/
def State.keptFor (s : State) (who : HeadTeam) (core : CoreId) : Bool :=
  match (s.cores.get core).headHold with
  | some h => h != who && s.headStands h
  | none => false

/-- A team of a grid can be admitted to a core now (R224, R226). -/
def State.canAdmit (s : State) (x : Grid) (who : HeadTeam) (spawned : Bool) (core : CoreId) : Bool :=
  let n := x.launch.need spawned
  !(s.cols.get (coreCol core)).fenced && !(s.keptFor who core) &&
    n.units ≤ (s.freeUnits core).length && ((s.usedOn core).add n).fits 1024 && s.glyphRoom x core

/-- The first core of a column at which a team can be admitted: more free group slots first, then the lower k (R225). -/
def State.bestCore (s : State) (x : Grid) (who : HeadTeam) (spawned : Bool) (col : ColId) : Option CoreId :=
  let fit := ((List.finRange 4).map (colCore col)).filter (s.canAdmit x who spawned)
  leastBy (fun c => [32 - (s.freeSlots c).length, c.val]) fit

/-- The preferred column of launched team i (R225). DESIGN CHOICE (log entry 127): k and the ranks count the columns of the mask that the context
may use and that are in service. -/
def State.preferred (s : State) (x : Grid) (i : Nat) : Option ColId :=
  let cols := s.columnsOf x.ctx x.launch
  cols[i * cols.length / x.launch.teams]?

/-- Free group slots of a column. -/
def State.colSlots (s : State) (c : ColId) : Nat := (((List.finRange 4).map fun k => (s.freeSlots (colCore c k)).length)).foldl (· + ·) 0

/-- Where launched team i is admitted now (R225, R232). -/
def State.placeLaunched (s : State) (x : Grid) (who : HeadTeam) (i : Nat) (diverted : Bool) : Option CoreId :=
  match s.preferred x i with
  | none => none
  | some p =>
    let hot := fun (c : ColId) => (s.cols.get c).gov.level == 3
    let here := s.bestCore x who false p
    let others := (s.columnsOf x.ctx x.launch).filter fun c => c != p && !(hot c) && (s.bestCore x who false c).isSome
    let away := (leastBy (fun c => [if colDie c = colDie p then 0 else 1, 128 - s.colSlots c, c.val]) others).bind (s.bestCore x who false)
    match hot p, here, away with
    | true, _, some c => some c
    | true, here, none => here
    | false, some c, _ => some c
    | false, none, away => if diverted then away else none

/-- Where a waiting team is admitted now: a spawned or a saved one in its own column (R231, R234), a re-dispatched one by R225. -/
def State.placeWaiting (s : State) (x : Grid) (t : Team) : Option CoreId :=
  if t.spawned || t.bound then s.bestCore x (x.teamHead t) t.spawned t.col
  else s.placeLaunched x (x.teamHead t) t.value.toNat t.diverted

/-! ### Groups -/

/-- The roles of a team's groups in order (R227). -/
def Launch.roles (l : Launch) (spawned : Bool) : List Role :=
  if spawned then [.general]
  else ((List.range 4).map fun k => List.replicate (l.groups.getD k 0) (Role.ofCode k)).flatten

/-- The lanes of v0 to v3 of a spawned group (R33). -/
def payloadReg (payloads : List (List Word32)) (i : Nat) : Vector Word32 64 := tab 64 fun L => (payloads.getD L []).getD i 0

/-- A group at its creation (R27, R33). -/
def newGroup (t : Team) (l : Launch) (core : CoreId) (slot : SlotId) (index : Nat) (role : Role) : Group :=
  let vb := l.vBud.getD role.code 0
  let blank := Group.reset
  { blank with
    core := core, slot := slot, team := t.id, index := index, role := role
    vBud := vb, aBud := l.aBud.getD role.code 0
    s := put blank.s 1 l.args
    v := if t.spawned && 8 ≤ vb then
        (List.range 4).foldl (fun v i => put v i (payloadReg t.payloads i)) blank.v
      else blank.v
    pc := if t.spawned then t.entry else l.entry
    live := if t.spawned then lowMask t.payloads.length else BitVec.allOnes 64
    status := .ready }

/-- A saved group as it is restored (R332, R335): a fault is met afresh, a peer is asked again, and what may go on at once is
ready. -/
def Group.resumed (g : Group) : Group :=
  let again : Group := { g with status := .ready, kept := [], peerData := none, fetched := none }
  match g.status with
  | .blocked .fault | .blocked .peerLoad | .blocked .peerFetch | .blocked .immediate => again
  | .blocked (.stopped .fault) | .blocked (.stopped .peerLoad) | .blocked (.stopped .peerFetch) | .blocked (.stopped .immediate) => again
  | .blocked (.stopped w) => { g with status := .blocked w }
  | _ => g

/-- The groups of a team on a core: new ones, or its saved ones on new slots (R33, R35, R336), with the incidents of the accumulators that
the restoring finds in error (R24, R197). -/
def State.makeGroups (s : State) (t : Team) (l : Launch) (core : CoreId) : List Group × List Incident :=
  let slots := s.freeSlots core
  if t.fresh then
    ((l.roles t.spawned).zipIdx.map fun r => newGroup t l core (slots.getD r.2 0) r.2 r.1, [])
  else
    let read := t.groups.zipIdx.map fun g =>
      ({ g.1.resumed with core := core, slot := slots.getD g.2 0 } : Group).soundAccs t.ctx 0 64 g.1.live
    (read.map (·.1), (read.map (·.2)).flatten)

/-! ### The scratchpad -/

/-- The bytes that a unit brings to a team: what the last holder left, where it is the same context and the byte is kept, else
zero (R224). -/
def State.unitBytes (s : State) (core : CoreId) (ctx : CtxId) (unit : Nat) : List (Nat × Byte) :=
  match (s.cores.get core).holders.find? fun h => h.1 == unit with
  | some (_, c, team, place) =>
    let base := scratchLoc team (4096 * place)
    if c = ctx then
      (s.mem.cells.filter fun x => base ≤ x.1 && x.1 < base + 4096 && Config.keepsByte s.tick x.1).map fun x => (x.1 - base, x.2)
    else []
  | none => []

/-- What a team that starts again, or is restored, left in the units that it held is kept for their next holders under a number of its own
(R224). -/
def State.leaveBehind (s : State) (t : Team) : State :=
  if (s.cores.get t.core).holders.any fun h => h.2.2.1 == t.id then
    let base := scratchLoc t.id 0
    let mine := s.mem.cells.filter fun x => base ≤ x.1 && x.1 < base + 2 ^ 20
    let copies := mine.map fun x => (scratchLoc s.fresh (x.1 - base), x.2)
    let s1 : State := { s with fresh := s.fresh + 1, mem := { s.mem with cells := cellsPutAll s.mem.base s.mem.cells copies } }
    s1.modCore t.core fun c => { c with
      holders := updWhere (fun h => h.2.2.1 == t.id) (fun h => (h.1, h.2.1, s.fresh, h.2.2.2)) c.holders }
  else s

/-- A team takes its units (R224): what it may find in them, and who holds them now. -/
def State.takeUnits (s0 : State) (t : Team) (core : CoreId) (units : List Nat) : State :=
  let s := s0.leaveBehind t
  let found := (units.zipIdx.map fun u => (s.unitBytes core t.ctx u.1).map fun b => (scratchLoc t.id (4096 * u.2 + b.1), b.2)).flatten
  let live := fun (id : Nat) => s.teams.any fun u => u.id == id && u.place != .pendingRetire
  let old := (s.cores.get core).holders.filter fun h => units.contains h.1 && !(live h.2.2.1)
  let own := fun (a : Nat) => t.fresh && scratchLoc t.id 0 ≤ a && a < scratchLoc t.id 0 + 2 ^ 20
  let gone := fun (a : Nat) => own a || old.any fun h =>
    let base := scratchLoc h.2.2.1 (4096 * h.2.2.2)
    base ≤ a && a < base + 4096
  let cells := cellsPutAll s.mem.base (s.mem.cells.filter fun x => !(gone x.1)) (if t.fresh then found else [])
  let s1 := { s with mem := { s.mem with cells := cells, badBytes := s.mem.badBytes.filter fun a => !(own a) }, tick := s.tick + 1 }
  s1.modCore core fun c => { c with
    holders := (units.zipIdx.map fun u => (u.1, t.ctx, t.id, u.2)) ++ c.holders.filter fun h => !(units.contains h.1) }

/-! ### Admission -/

/-- A reload of a grid's glyph table fails (R221): the groups of its teams on the core, if it is one, halt, and the context enters the
error state. -/
def State.tableFails (s : State) (x : Grid) (core : Option CoreId) : State :=
  let col := (core.map coreCol).getD x.col
  let mine := fun (t : Team) => t.grid == x.id && t.place == .resident && core == some t.core
  let s1 := (s.report (((IncCode.glyphTableFault.entry.atCol col).ofCtx x.ctx).withVa x.launch.glyphs)).errorState x.ctx
  let s2 := s1.modGroups (fun g => s.teams.any fun t => t.id == g.team && mine t) fun g => { g with status := .halted }
  ({ s2 with teams := updWhere mine (fun t => { t with haltSeen := true }) s2.teams } : State).modGrid x.id fun y =>
    { y with haltSeen := true }

/-- A fault on the glyph table of a grid enters the queue of a column, once (R221). -/
def State.holdTable (s : State) (x : Grid) (core : Option CoreId) (acc : Access) (va level : Nat) : State :=
  if x.loadWait.any fun w => w.1 == core then s
  else
    let col := (core.map coreCol).getD x.col
    let (k, t) := s.raiseFault col (.port x.record) x.ctx (BitVec.ofNat 64 va) acc.code level
    t.modGrid x.id fun y => { y with loadWait := (core, k) :: y.loadWait }

/-- The glyph table of a grid loaded into a core (R108, R221): once every GLYPH there has finished, and over no entry of another context at
work there. -/
def State.loadGlyphs (s : State) (x : Grid) (core : CoreId) : State :=
  if x.launch.glyphs = 0 || (s.cores.get core).loaded.contains (x.ctx, x.id) || s.glyphRunning core ||
      x.loadWait.any fun w => w.1 == some core then s
  else match s.gridTable (portAgent x.ctx (coreCol core)) x.launch with
    | .ok es =>
      if s.entriesFree x.ctx core es then (s.tableRows (portAgent x.ctx (coreCol core)) x.launch).modCore core fun c =>
        { es.foldl (fun (c : CoreState) e => c.putGlyph ⟨e.1, x.ctx, e.2⟩) c with loaded := (x.ctx, x.id) :: c.loaded }
      else s
    | .retry => s
    | .hold acc va level => s.holdTable x (some core) acc va level
    | .bad => s.tableFails x (some core)

/-- The cores on which teams of a grid are at work. -/
def State.coresOf (s : State) (x : Grid) : List CoreId :=
  ((s.teams.filter fun t => t.grid == x.id && t.place == .resident).map (·.core)).eraseDups

/-- A team admitted to a core in one step (R224 to R227, R33, R164, R177, R187): a saved one is restored (R336). It starts with an acquire of
its core: of column scope if it is formed from spawn records, of device scope if it is launched (R259), or comes from another core
(R254). -/
def State.admitTeam (s : State) (x : Grid) (t : Team) (core : CoreId) : State :=
  let l := x.launch
  let (groups, incs) := s.makeGroups t l core
  let units := (s.freeUnits core).take l.scratch
  let moved := fun (o : EngineOp) =>
    match t.groups.findIdx? fun g => g.core == o.core && g.slot == o.slot with
    | some i => if o.team = t.id then { o with core := core, slot := (groups.getD i Group.reset).slot } else o
    | none => o
  let t1 : Team := if t.fresh then
      { t with points := List.replicate 24 Point.reset, macros := List.replicate l.macros Macro.reset, gvA := [0, 0, 0, 0]
               version := if l.versioned && !t.spawned then some [] else none, haltSeen := false }
    else t
  let t2 : Team := { t1 with kept := none, core := core, col := coreCol core, place := .resident, fresh := false, bound := false
                             units := units, groups := [], age := s.fresh, diverted := false, again := false, readmit := false }
  let s1 := (State.reportAll incs s).takeUnits t core units
  let again := fun (o : EngineOp) => if o.team = t.id then { moved o with held := none } else o
  let s2 := { s1 with others := s1.others ++ groups, ops := s1.ops.map again, fresh := s1.fresh + 1 }
  let s3 := if (s2.teamOf t.id).isSome then s2.modTeam t.id fun _ => t2 else { s2 with teams := s2.teams ++ [t2] }
  let s4 := s3.acquireBy core (if t.spawned && t.fresh then .col else .dev)
  let s5 := s4.modCore core fun c => { c with consts := [] }
  s5.loadGlyphs x core

/-- Launched team i of a grid, before its admission. -/
def Grid.launched (x : Grid) (id i : Nat) : Team :=
  { Team.none with id := id, ctx := x.ctx, grid := x.id, value := BitVec.ofNat 64 i, place := .waiting, fresh := true }

/-- The next launched team of a grid admitted, if it can be; the first admission of the grid starts its selector's clock (R188). The teams of a
COHORT grid, which are placed in one step, may all go to another column once the grid has waited for 20 µs. DESIGN CHOICE (log entry 127): R225
counts them from the moment a team became the next of its grid, R226 places these together. -/
def State.admitNext (s : State) (x : Grid) : Option State :=
  (s.placeLaunched x x.nextHead x.next x.diverted).map fun core =>
    let (id, s1) := s.takeId
    (s1.admitTeam x (x.launched id x.next) core).modGrid x.id fun y =>
      { y with next := y.next + 1, diverted := x.launch.cohort && x.diverted
               stage := if y.next + 1 = y.launch.teams then .placed else .offered
               selector := if y.next = 0 then { y.selector with base := s.ptp.toNat } else y.selector }

/-- Every launched team of a grid that is left, in one step (R226). -/
def State.admitAll (id : Nat) : Nat → State → Option State
  | 0, s => some s
  | k + 1, s => match s.gridOf id with
    | some x => (s.admitNext x).bind (State.admitAll id k)
    | none => none

/-- Waiting teams in one step. -/
def State.admitEach (x : Grid) : List Team → State → Option State
  | [], s => some s
  | t :: r, s => (s.placeWaiting x t).bind fun core => State.admitEach x r (s.admitTeam x t core)

/-- What TEAM_ADMISSION of a grid does if it can: a COHORT grid's teams in one step, else the first waiting team that fits, or
the next launched one. DESIGN CHOICE (log entry 127): a re-dispatched team that cannot be placed holds back no other team of its grid. -/
def State.tryAdmit (s : State) (x : Grid) : Option State :=
  let waiting := s.waitingOf x
  let offered := s.admits x.ctx && x.stage == .offered
  if x.launch.cohort then
    let own := waiting.filter fun t => !t.spawned
    if offered then (State.admitAll x.id (x.launch.teams - x.next) s).bind (State.admitEach x own)
    else if !own.isEmpty then State.admitEach x own s
    else (waiting.find? fun t => (s.placeWaiting x t).isSome).bind fun t => State.admitEach x [t] s
  else match waiting.find? fun t => (s.placeWaiting x t).isSome with
    | some t => State.admitEach x [t] s
    | none => if offered then s.admitNext x else none

/-- A grid has teams to place (R223). -/
def State.hasTeams (s : State) (x : Grid) : Bool := (s.admits x.ctx && x.stage == .offered) || !(s.waitingOf x).isEmpty

/-- The cores on which a team of the grid would be admitted now. -/
def State.wantedCores (s : State) (x : Grid) : List CoreId :=
  match s.tryAdmit x with
  | none => []
  | some t => (t.teams.filter fun a => a.place == .resident && !(s.teams.any fun b => b.id == a.id && b.place == .resident)).map (·.core)

/-- Grids that are offered before a grid and have teams to place (R223). -/
def State.earlier (s : State) (x : Grid) : List Grid :=
  s.grids.filter fun y => y.id != x.id && keyLt (s.offerKey y) (s.offerKey x) && s.hasTeams y

/-- The grid may place now: none that is offered before it would take one of its cores (R223, R226). -/
def State.mayAdmit (s : State) (x : Grid) : Bool :=
  let mine := s.wantedCores x
  !mine.isEmpty && !((s.earlier x).any fun y => (s.wantedCores y).any fun c => mine.contains c)

/-- The glyph table of a grid with teams to place cannot be read: the fault is raised at its port (R221, R224). -/
def State.askTable (s : State) (x : Grid) : State :=
  if s.hasTeams x then
    match s.gridTable (portAgent x.ctx x.col) x.launch with
    | .hold acc va level => s.holdTable x none acc va level
    | _ => s
  else s

/-- TEAM_ADMISSION (R224 to R226, R108): glyphs that still wait are loaded into the cores of the grid's teams, and teams that can be placed
are admitted. -/
def execTeamAdmission (grid : Nat) (s0 : State) : Host.Outcome State Fault Refusal :=
  done <| match s0.gridOf grid with
  | some x0 =>
    let s := (s0.coresOf x0).foldl (fun (t : State) c => match t.gridOf grid with
      | some x => t.loadGlyphs x c
      | none => t) s0
    match s.gridOf grid with
    | some x => if s.mayAdmit x then ((s.tryAdmit x).map State.dropHolds).getD s else s.askTable x
    | none => s
  | none => s0

/-- The launched teams of a grid find no core in the columns that they prefer: the next one, or a COHORT grid's together (R225, R226). -/
def State.nextStuck (s : State) (x : Grid) : Bool :=
  (s.placeLaunched x x.nextHead x.next false).isNone ||
    (x.launch.cohort && (State.admitAll x.id (x.launch.teams - x.next) (s.modGrid x.id fun y => { y with diverted := false })).isNone)

/-- Likewise the re-dispatched teams of a COHORT grid, which are admitted together (R340). -/
def State.ownStuck (s : State) (x : Grid) : Bool :=
  x.launch.cohort && (State.admitEach x ((s.waitingOf x).filter fun t => !t.spawned) s).isNone

/-- PLACEMENT_DIVERSION_TIMEOUT (R225): the next team of a grid has found no core of its preferred column for 20 µs. -/
def execPlacementDiversionTimeout (grid : Nat) (s : State) : Host.Outcome State Fault Refusal :=
  done <| match s.gridOf grid with
  | some x =>
    let stuck := fun (t : Team) => t.place == .waiting && t.grid == grid && !t.spawned && !t.bound &&
      ((s.placeWaiting x t).isNone || s.ownStuck x)
    let s1 := { s with teams := updWhere stuck (fun t => { t with diverted := true }) s.teams }
    if x.stage = .offered && s.nextStuck x then s1.modGrid grid fun y => { y with diverted := true } else s1
  | none => s

/-- A waiting team is offered to a column (R225, R231, R234). -/
def State.offeredTo (s : State) (x : Grid) (col : ColId) (t : Team) : Bool :=
  if t.spawned || t.bound then t.col == col else s.preferred x t.value.toNat == some col

/-- The first team of a grid that waits on a core (R226): one that is offered to the core's column. -/
def State.headOn (s : State) (x : Grid) (core : CoreId) : Option HeadTeam :=
  let col := coreCol core
  (((s.waitingOf x).find? (s.offeredTo x col)).map x.teamHead) <|>
    if s.admits x.ctx && x.stage == .offered &&
      (if x.launch.cohort then (s.columnsOf x.ctx x.launch).contains col else s.preferred x x.next == some col)
    then some x.nextHead else none

/-- HEAD_TEAM_HOLD (R226): the head team of a core has waited 100 µs. A COHORT grid holds every core of its columns. -/
def execHeadTeamHold (core : CoreId) (s : State) : Host.Outcome State Fault Refusal :=
  done <| match leastBy s.offerKey (s.grids.filter fun x => (s.headOn x core).isSome) with
  | some x =>
    match s.headOn x core with
    | some h =>
      let cores := match h with
        | .cohort _ => ((s.columnsOf x.ctx x.launch).map fun c => (List.finRange 4).map (colCore c)).flatten
        | _ => [core]
      cores.foldl (fun (t : State) c => t.modCore c fun y => { y with
        headHold := if (y.headHold.map s.headStands).getD false then y.headHold else some h }) s
    | none => s
  | none => s

/-- GROUP_AGED (R227): a group ready for 8 cycles without issue; one whose held instruction could go on is ready. -/
def execGroupAged (core : CoreId) (slot : SlotId) (s : State) : Host.Outcome State Fault Refusal :=
  done (s.modGroup core slot fun g => if g.status = .ready || g.status = .stalled then { g with aged := true } else g)

/-- YIELD_HOLD_EXPIRY (R99, R227): the 16 cycles after a YIELD have passed. -/
def execYieldHoldExpiry (core : CoreId) (slot : SlotId) (s : State) : Host.Outcome State Fault Refusal :=
  done (s.modGroup core slot fun g => { g with yieldHold := false })

end Sys2Proof.Machine
end

