-- ==== Sys2Proof/Machine/Launch.lean ====
section
/-! DEFINITION. LAUNCH and SPAWN (R186, R187), spawn bins (R187, R231), launch ports and dependences (R219 to R223). -/
namespace Sys2Proof.Machine
set_option Elab.async false

/-! ### LAUNCH -/

/-- The reservation entry of the issuing group's team: its group slot within the column (R222). -/
def State.reservation (s : State) : Nat := 32 * (s.g.core.val % 4) + s.g.slot.val

/-- What LAUNCH does at the line: the value of s[sd] and the state (R186, R220, R222). -/
def State.launchOn (s : State) (l : LineId) (value : Word) : Nat × State :=
  let c := s.colId
  let put' := fun (res : Option Nat) (t : State) =>
    (t.pushEntry c l value s.ctxId (s.grid.depth + 1) (some s.g.team) res).modTeam s.g.team fun t => { t with children := t.children + 1 }
  if 10 ≤ s.grid.depth then (2, s)
  else if (s.col.lines.get l).queued < 64 then (0, put' none s)
  else if s.col.reserved.contains s.reservation then (1, s.dropLaunch s.ctxId c l value)
  else (0, put' (some s.reservation) (s.modCol c fun x => { x with reserved := s.reservation :: x.reserved }))

/-- LAUNCH (R186). -/
def execLaunch (d a b : SReg) (s : State) : Host.Outcome State Fault Refusal :=
  finish s do
    s.sound [] [a, b] []
    s.leader
    if h : (s.g.sReg b).toNat < 8 then
      let A := s.g.sReg a
      need (A.toNat % 256 == 0) (trap .misaligned A 0)
      need (A.toNat < 2 ^ 55) (trap .accessFault A 0)
      let u ← s.releaseFirst .dev
      let (r, t) := u.launchOn ⟨(s.g.sReg b).toNat, h⟩ A
      .ok (t.retireWith (t.g.setS d (BitVec.ofNat 64 r)))
    else .error (trapN .illegalOperand b.toNat)

/-! ### Spawn bins -/

/-- A team formed from the oldest records of a bin, at most 64 (R187, R31); a bin whose records are all taken is free. -/
def State.formTeam (s : State) (col : ColId) (b : SpawnBin) : State :=
  match s.gridOf b.grid with
  | none => s
  | some x =>
    let (id, s1) := s.takeId
    let t : Team := { Team.none with
      id := id, ctx := b.ctx, grid := b.grid, value := BitVec.ofNat 64 (2 ^ 63 + x.spawnSerial % 2 ^ 32), spawned := true
      entry := b.entry, payloads := b.records.take 64, col := col, core := colCore col 0, place := .waiting, fresh := true }
    let rest := b.records.drop 64
    let s2 := s1.modCol col fun c => { c with
      bins := if rest.isEmpty then c.bins.filter fun y => y.id != b.id
        else updWhere (fun y => y.id == b.id) (fun y => { y with records := rest }) c.bins }
    ({ s2 with teams := s2.teams ++ [t] } : State).modGrid b.grid fun y => { y with spawnSerial := y.spawnSerial + 1 }

/-- One record offered to the bin of its key (R187): `none` when there is no room. A bin that comes to hold 64 forms a team. -/
def State.offerRecord (s : State) (col : ColId) (ctx : CtxId) (grid : Nat) (entry : Word) (payload : List Word32) : Option State :=
  let c := s.cols.get col
  let key := fun (b : SpawnBin) => b.ctx == ctx && b.grid == grid && b.entry == entry
  match c.bins.find? key with
  | some b =>
    if 256 ≤ b.records.length then none
    else
      let b1 := { b with records := b.records ++ [payload] }
      let s1 := s.modCol col fun c => { c with bins := updWhere (fun y => y.id == b.id) (fun _ => b1) c.bins }
      some (if 64 ≤ b1.records.length then s1.formTeam col b1 else s1)
  | none =>
    if 64 ≤ c.bins.length then none
    else some { s.modCol col (fun c => { c with bins := c.bins ++ [⟨s.fresh, ctx, grid, entry, [payload]⟩] }) with fresh := s.fresh + 1 }

/-- Records offered lane by lane: the lanes accepted, the longest prefix for which there is room. -/
def State.offerLanes (s : State) (E : Word) (payload : Nat → List Word32) : List Nat → List Nat → List Nat × State
  | [], acc => (acc, s)
  | L :: r, acc =>
    match s.offerRecord s.colId s.ctxId s.team.grid E (payload L) with
    | some t => t.offerLanes E payload r (acc ++ [L])
    | none => (acc, s)

/-- SPAWN (R187, R139). -/
def execSpawn (g : Guard) (d : PReg) (a : VReg) (b : SReg) (s : State) : Host.Outcome State Fault Refusal :=
  finish s do
    let m := s.g.active g
    s.operands [vSpan a 4 false m] anyType [b] [s.g.guardIdx g]
    if m = 0 then .ok s.retire
    else
      let E := s.g.sReg b
      need (E.toNat % 4 == 0) (trap .misaligned E 0)
      need (E.toNat < 2 ^ 55) (trap .accessFault E 0)
      let u ← s.releaseFirst .col
      let payload := fun L => (List.range 4).map fun i => s.g.lane (a.toNat + i) L
      let (lanes, t) := u.offerLanes E payload (lanesOf m) []
      .ok (t.retireWith (t.g.setP d m (maskOf fun L => lanes.contains L)))

/-- SPAWN_BIN_TIMER (R187, R231): the timer of a bin expires. -/
def execSpawnBinTimer (col : ColId) (bin : Nat) (s : State) : Host.Outcome State Fault Refusal :=
  done <| match (s.cols.get col).bins.find? fun b => b.id == bin with
  | some b => if (s.ctxs.get b.ctx).phase = .running then s.formTeam col b else s
  | none => s

/-! ### Ports -/

/-- LAUNCH_SIGNAL_STORE (R220): a store of a host core or a DMC to a line. -/
def execLaunchSignalStore (ctx : CtxId) (col : ColId) (line : LineId) (size off : Nat) (value : Word) (s : State) :
    Host.Outcome State Fault Refusal :=
  done (if off < 128 then s.signalStore ctx col (128 * line.val + off) size value else s)

/-- An entry of a line's queue changed. -/
def LaunchLine.setEntry (l : LaunchLine) (e : QueueEntry) : LaunchLine :=
  { l with queue := updWhere (fun x => x.id == e.id) (fun _ => e) l.queue }

/-- The port has finished with a record: its entry is free (R220, R222). -/
def State.freeEntry (s : State) (col : ColId) (line : LineId) (e : QueueEntry) : State :=
  (s.modLine col line fun l => { l with queue := l.queue.filter fun x => x.id != e.id }).modCol col fun c =>
    { c with reserved := match e.reserved with
        | some r => c.reserved.filter fun x => x != r
        | none => c.reserved }

/-- A child of a team has retired, or was rejected (R221, R229). -/
def State.childGone (s : State) (parent : Option Nat) : State :=
  match parent with
  | some t => s.modTeam t fun x => { x with children := x.children - 1 }
  | none => s

/-- A record rejected (R221): counted, reported with the offset of its field, or as unreadable. -/
def State.rejectRecord (s : State) (col : ColId) (line : LineId) (e : QueueEntry) (field : Option Nat) (incs : List Incident) : State :=
  let inc := fun (code : IncCode) => ((((code.entry.atCol col).ofCtx e.ctx).byEngine 8).withVa e.record)
  let i := match field with
    | none => { inc .launchReadFault with port := line.val }
    | some off => { inc .launchRejected with port := line.val, coord := BitVec.ofNat 64 off }
  let s1 := (s.freeEntry col line e).modLine col line fun l => { l with rejected := l.rejected + 1 }
  (State.reportAll (incs.map (·.byEngine 8) ++ [i]) s1).childGone e.parent

/-- A record accepted: its grid (R221, R172, R188). -/
def State.acceptRecord (s : State) (col : ColId) (line : LineId) (e : QueueEntry) (bs : List Byte) : State :=
  let l := parseLaunch bs
  let (id, s1) := s.takeId
  let ok := l.deps.map fun d => d.1 == 0
  let x : Grid :=
    { Grid.none with
      id := id, ctx := e.ctx, record := e.record, launch := l, col := col, line := line, depth := e.depth, parent := e.parent
      stage := if ok.all (· == true) then .offered else .held
      depsOk := ok, accepted := id, gvs := List.replicate 4 ⟨0, 0, []⟩ }
  { s1.modLine col line (fun y => y.setEntry { e with grid := some id, bytes := [], held := none }) with grids := s1.grids ++ [x] }

/-- An entry held on a recoverable fault of the port (R221). -/
def State.holdEntry (s : State) (col : ColId) (line : LineId) (e : QueueEntry) (acc : Access) (va level : Nat) : State :=
  let (k, t) := s.raiseFault col (.port e.record) e.ctx (BitVec.ofNat 64 va) acc.code level
  t.modLine col line fun l => l.setEntry { e with held := some k }

/-- The checks of a record from its glyph table on (R221): here they start again after a fault on the table has been served. -/
def State.checkTable (s : State) (col : ColId) (line : LineId) (e : QueueEntry) : State :=
  match s.gridTable (portAgent e.ctx col) (parseLaunch e.bytes) with
  | .hold acc va level => s.holdEntry col line e acc va level
  | .bad => s.rejectRecord col line e (some 0xF0) []
  | .retry => s
  | .ok _ =>
    let t := s.tableRows (portAgent e.ctx col) (parseLaunch e.bytes)
    match s.badAdmission e.ctx (parseLaunch e.bytes) with
    | some off => t.rejectRecord col line e (some off) []
    | none => t.acceptRecord col line e e.bytes

/-- The checks of a record whose bytes have been read (R221). -/
def State.checkRecord (s : State) (col : ColId) (line : LineId) (e : QueueEntry) : State :=
  match s.badField e.ctx e.bytes with
  | some off => s.rejectRecord col line e (some off) []
  | none => s.checkTable col line e

/-- LAUNCH_PORT_READ (R221, R262): reads are device-scope acquires, and one that a scope mark refuses is made again. The port takes the next record of its line that is neither taken nor held. -/
def execLaunchPortRead (col : ColId) (line : LineId) (s : State) : Host.Outcome State Fault Refusal :=
  done <| match ((s.cols.get col).lines.get line).queue.find? fun e => e.grid.isNone && e.held.isNone with
  | none => s
  | some e =>
    if !e.bytes.isEmpty then s.checkTable col line e
    else match s.agentAcquire (portAgent e.ctx col) e.record.toNat 256 with
      | .error (.hold acc va level) => s.holdEntry col line e acc va level
      | .error .retry => s
      | .error (.fail _ incs _) => s.rejectRecord col line e none incs
      | .ok bs =>
        let e' := { e with bytes := bs }
        ((s.agentRows (portAgent e.ctx col) e.record.toNat 256).modLine col line fun l => l.setEntry e').checkRecord col line e'

/-! ### Dependences -/

/-- The queue entry of a grid. -/
def State.entryOfGrid (s : State) (x : Grid) : Option QueueEntry :=
  ((s.cols.get x.col).lines.get x.line).queue.find? fun e => e.grid == some x.id

/-- A grid gone before any of its teams, its record rejected at a field (R223). -/
def State.rejectGrid (s : State) (x : Grid) (off : Nat) (incs : List Incident) : State :=
  let s1 := { s with grids := s.grids.filter fun y => y.id != x.id }
  match s.entryOfGrid x with
  | some e => s1.rejectRecord x.col x.line e (some off) incs
  | none => s1

/-- Dependences from number i on read by the port, each a device-scope acquire, which a scope mark may refuse until later (R209, R223,
R262). -/
def State.pollDeps (id : Nat) : Nat → Nat → State → State
  | _, 0, s => s
  | i, k + 1, s =>
    match s.gridOf id with
    | none => s
    | some x =>
      let (addr, threshold) := x.launch.deps.getD i (0, 0)
      if x.depsOk.getD i true || x.depWait.any fun w => w.1 == i then State.pollDeps id (i + 1) k s
      else match s.agentAcquire (portAgent x.ctx x.col) addr.toNat 8 with
        | .ok bs =>
          State.pollDeps id (i + 1) k ((s.agentRows (portAgent x.ctx x.col) addr.toNat 8).modGrid id fun y => { y with depsOk := y.depsOk.set i (threshold.toNat ≤ leNat bs) })
        | .error (.hold acc va level) =>
          let (f, t) := s.raiseFault x.col (.port x.record) x.ctx (BitVec.ofNat 64 va) acc.code level
          State.pollDeps id (i + 1) k (t.modGrid id fun y => { y with depWait := (i, f) :: y.depWait })
        | .error .retry => State.pollDeps id (i + 1) k s
        | .error (.fail _ incs _) => s.rejectGrid x (0x50 + 16 * i) incs

/-- DEPENDENCE_POLL (R223). -/
def execDependencePoll (grid : Nat) (s : State) : Host.Outcome State Fault Refusal :=
  done <| match s.gridOf grid with
  | some x =>
    if x.stage = .held then
      (State.pollDeps grid 0 4 s).modGrid grid fun y => if y.depsOk.all (· == true) then { y with stage := .offered } else y
    else s
  | none => s

end Sys2Proof.Machine
end

