-- ==== Sys2Proof/Machine/Journal.lean ====
section
/-! DEFINITION. The journals (R313 to R318): their commands taken, checked and accepted, and LAUNCH, COPY, SIGNAL and BARRIER. -/
namespace Sys2Proof.Machine
set_option Elab.async false

/-! ### Entries -/

/-- The column in which the accesses of a journal are translated and their faults arise: the lowest of the context's columns. -/
def State.journalCol (s : State) (j : JournalId) : ColId :=
  if h : j.val < 64 then
    ((List.finRange 64).find? fun c => (s.ctxs.get ⟨j.val, h⟩).colmask.getLsbD c.val).getD 0
  else 0

/-- A journal exists: that of a context that is not FREE, or the management journal once it is enabled (R309, R313). -/
def State.journalLive (s : State) (j : JournalId) : Bool :=
  if h : j.val < 64 then (s.ctxs.get ⟨j.val, h⟩).phase != .free else (s.jrns.get j).entries != 0

/-- The write belongs to a command of the journal. -/
def WriteTag.ofJournal (j : JournalId) : WriteTag → Bool
  | .journal k _ => k == j
  | _ => false

/-- A command of a journal has started and has not completed (R313): a copy, a SIGNAL or a done word that is held on a fault or not
performed, a context being saved. -/
def State.journalBusy (s : State) (j : JournalId) : Bool :=
  (s.jrns.get j).signal.isSome || s.anyPending (WriteTag.ofJournal j) || (s.ops.any fun o => match o.kind with
    | .journalCopy _ k _ _ _ _ _ => k == j
    | _ => false) || (j.val == 64 && (List.finRange 64).any fun c => (s.ctxs.get c).phase == .saving)

/-- The next command of a journal: its sequence number and its 128 bytes (R315). -/
def State.nextEntry (s : State) (j : JournalId) : Option (Nat × List Byte) :=
  let x := s.jrns.get j
  let n := x.accepted.toNat + 1
  if s.journalLive j && n ≤ x.submit.toNat && (x.accepted - x.ajcons).toNat < x.accEntries then
    some (n, s.physRead (x.base.toNat + 128 * ((n - 1) % x.entries)) 128)
  else none

/-- The fields that every command has. -/
def cmdSeq (bs : List Byte) : Nat := recNat bs 0 8
def cmdOp (bs : List Byte) : Nat := recNat bs 8 2
def cmdCorr (bs : List Byte) : Word32 := BitVec.ofNat 32 (recNat bs 0x0C 4)
def cmdOrdered (bs : List Byte) : Bool := recNat bs 0x0A 2 % 2 == 1

/-- The next command, once its SEQ is right and nothing holds it (R313, R315, R317). -/
def State.nextCmd (s : State) (j : JournalId) : Option (Nat × List Byte) :=
  match s.nextEntry j with
  | some (n, bs) =>
    if cmdSeq bs ≠ n % 2 ^ 64 || (s.jrns.get j).signal.isSome ||
      ((cmdOrdered bs || cmdOp bs == 4) && s.journalBusy j) then none
    else some (n, bs)
  | none => none

/-! ### Accepted entries -/

/-- The statuses of R316. -/
inductive CmdStatus where
  | ok | seqMismatch | badOpcode | badField | notPermitted | lineFull | ctxState | fault
  deriving DecidableEq, Repr

/-- The code of a status (R316). -/
def CmdStatus.code : CmdStatus → Nat
  | .ok => 0
  | .seqMismatch => 1
  | .badOpcode => 2
  | .badField => 3
  | .notPermitted => 4
  | .lineFull => 5
  | .ctxState => 6
  | .fault => 7

/-- Where the accepted entry of command n of a journal goes (R315). -/
def Journal.acceptPlace (x : Journal) (n : Nat) : Nat := x.accBase.toNat + 32 * ((n - 1) % x.accEntries)

/-- The accepted entry of a command can be written now (R364, R370). -/
def State.acceptOpen (s : State) (j : JournalId) (n : Nat) : Bool := s.devOpen ((s.jrns.get j).acceptPlace n) 32

/-- An accepted entry that must wait keeps its place. -/
def State.acceptKeep (s : State) (j : JournalId) (n : Nat) : State := s.devReady ((s.jrns.get j).acceptPlace n) 32

/-- The accepted entry of a command is written, and ACCEPTED advances (R315, R316, R318). -/
def State.accept (s : State) (j : JournalId) (n : Nat) (bs : List Byte) (st : CmdStatus) (detail : Nat) : State :=
  let x := s.jrns.get j
  let entry := leBytes 8 n ++ leBytes 4 (cmdCorr bs).toNat ++ leBytes 2 (cmdOp bs) ++ leBytes 2 st.code ++
    leBytes 8 detail ++ leBytes 8 s.ptp.toNat
  ((s.physWrite (x.acceptPlace n) entry).modJrn j fun y =>
    { y with accepted := BitVec.ofNat 64 n, rereads := 0 }).msiJournal j

/-! ### Checks -/

/-- The operations of a context's journal, and of the management journal alone (R313). -/
def launchOps : List Nat := [0x01, 0x02, 0x03]
def contextOps : List Nat := [0x10, 0x11, 0x12, 0x13, 0x14, 0x15, 0x16]

/-- The fields of a payload that are in use, by operation: offset and size (R313). -/
def payloadFields (op : Nat) : List (Nat × Nat) :=
  if op = 1 then [(0x10, 8), (0x18, 1), (0x19, 1)]
  else if op = 2 then [(0x10, 8), (0x18, 8), (0x20, 4), (0x24, 1), (0x25, 1), (0x28, 8), (0x30, 4), (0x38, 8), (0x40, 8)]
  else if op = 3 then [(0x10, 8), (0x18, 8), (0x20, 1)]
  else if op = 4 then []
  else [(0x10, 1)]

/-- The first nonzero byte of a command's payload that is not in use. -/
def unusedByte (op : Nat) (bs : List Byte) : Option Nat :=
  (List.range 128).find? fun i => 16 ≤ i && bs.getD i 0 != 0 && !((payloadFields op).any fun f => f.1 ≤ i && i < f.1 + f.2)

/-- The first field of a command that has no legal value (R313). -/
def badCmdField (bs : List Byte) : Option Nat :=
  let op := cmdOp bs
  let v := fun off k => recNat bs off k
  let bad := fun (off : Nat) =>
    if off = 0x0A then 2 ≤ v 0x0A 2
    else if op = 1 then (off == 0x18 && 64 ≤ v 0x18 1) || (off == 0x19 && 8 ≤ v 0x19 1)
    else if op = 2 then (off == 0x24 && 24 ≤ v 0x24 1) || (off == 0x25 && 2 ≤ v 0x25 1) || (off == 0x38 && v 0x38 8 % 8 != 0)
    else if op = 3 then (off == 0x10 && v 0x10 8 % 8 != 0) || (off == 0x20 && 2 ≤ v 0x20 1)
    else if op = 4 then false
    else off == 0x10 && 64 ≤ v 0x10 1
  leastNat (((0x0A :: (payloadFields op).map (·.1)).filter fun off => bad off) ++ (unusedByte op bs).toList)

/-- The first address of a command that lies outside the address space (R316: FAULT). -/
def badCmdAddress (bs : List Byte) : Option Nat :=
  let far := fun off => let a := recNat bs off 8; if 2 ^ 55 ≤ a then some a else none
  if cmdOp bs = 2 then far 0x10 <|> far 0x18 <|> far 0x38
  else if cmdOp bs = 3 then far 0x10
  else none

/-- The check of a command (R313, R316): the status with which it is accepted and not performed, and DETAIL. -/
def cmdRefusal (j : JournalId) (bs : List Byte) : Option (CmdStatus × Nat) :=
  let op := cmdOp bs
  if !(launchOps.contains op || op == 4 || contextOps.contains op) then some (.badOpcode, op)
  else if (if j.val < 64 then contextOps.contains op else launchOps.contains op) then some (.notPermitted, op)
  else match badCmdField bs, badCmdAddress bs with
    | some off, _ => some (.badField, off)
    | none, some va => some (.fault, va)
    | none, none => none

/-- Commands at the head of a journal that cannot be performed are accepted with their status (R316). -/
def State.acceptBad (j : JournalId) : Nat → State → State
  | 0, s => s
  | k + 1, s =>
    match s.nextCmd j with
    | some (n, bs) => match cmdRefusal j bs with
      | some (st, detail) => if s.acceptOpen j n then State.acceptBad j k (s.accept j n bs st detail) else s.acceptKeep j n
      | none => s
    | none => s

/-- The commands that can only be refused are accepted, as many as the journal can hold. -/
def State.acceptBads (s : State) (j : JournalId) : State := State.acceptBad j 65536 s

/-- The next command of a journal performed, if it is a good one of the operation, once its accepted entry can be written: `f` gives the state,
the status and DETAIL; none while it must wait. -/
def State.perform (s : State) (j : JournalId) (op : Nat) (f : List Byte → Option (State × CmdStatus × Nat)) : State :=
  match s.nextCmd j with
  | some (n, bs) =>
    if cmdOp bs = op && (cmdRefusal j bs).isNone then
      if !(s.acceptOpen j n) then s.acceptKeep j n
      else match f bs with
      | some (t, st, detail) => (t.accept j n bs st detail).acceptBads j
      | none => s
    else s
  | none => s

/-! ### Doorbells -/

/-- SUBMIT_WRITE (R314): ignored, an overrun, or commands posted. -/
def execSubmitWrite (j : JournalId) (value : BitVec 64) (s : State) : Host.Outcome State Fault Refusal :=
  done <| s.pageWrite fun s =>
    let x := s.jrns.get j
    if value.toNat ≤ x.submit.toNat then s
    else if x.accepted.toNat + x.entries < value.toNat then
      let i := { IncCode.journalOverrun.entry with engine := 11, detail := value }
      s.report (if h : j.val < 64 then i.ofCtx ⟨j.val, h⟩ else i)
    else (s.modJrn j fun y => { y with submit := value }).acceptBads j

/-- AJCONS_WRITE (R314). -/
def execAjconsWrite (j : JournalId) (value : BitVec 64) (s : State) : Host.Outcome State Fault Refusal :=
  done <| s.pageWrite fun s =>
    let x := s.jrns.get j
    if x.ajcons.toNat < value.toNat && value.toNat ≤ x.accepted.toNat then
      (s.modJrn j fun y => { y with ajcons := value }).acceptBads j
    else s

/-- SEQ_MISMATCH_REREAD (R315): the entry is read again; after 100 µs it is accepted and not performed. A held SIGNAL holds it (R317). -/
def execSeqMismatchReread (j : JournalId) (s : State) : Host.Outcome State Fault Refusal :=
  done <| match s.nextEntry j with
  | some (n, bs) =>
    if (s.jrns.get j).signal.isSome then s
    else if cmdSeq bs = n % 2 ^ 64 then s.acceptBads j
    else if (s.jrns.get j).rereads < 99 then s.modJrn j fun y => { y with rereads := y.rereads + 1 }
    else if s.acceptOpen j n then (s.accept j n bs .seqMismatch (cmdSeq bs)).acceptBads j
    else s.acceptKeep j n
  | none => s

/-! ### Commands of a context -/

/-- The context of a journal; journal 64 has none. -/
def journalCtx (j : JournalId) : CtxId := ⟨j.val % 64, Nat.mod_lt _ (by decide)⟩

/-- An incident that a journal command caused (R387). -/
def jrnIncident (code : IncCode) (c : CtxId) (corr : Word32) (va : Nat) : Incident :=
  { (((code.entry.ofCtx c).byEngine 11).withVa (BitVec.ofNat 64 va)) with corr := corr }

/-- A record of the translation for a journal command names the journal and the command (R382, R387). -/
def journalStamp (corr : Word32) (i : Incident) : Incident := { i.byEngine 11 with corr := corr }

/-- JOURNAL_LAUNCH (R313, R220, R316): the store of a record address to a line. -/
def execJournalLaunch (j : JournalId) (s : State) : Host.Outcome State Fault Refusal :=
  done (s.perform j 1 fun bs =>
    let value := BitVec.ofNat 64 (recNat bs 0x10 8)
    let c : ColId := ⟨recNat bs 0x18 1 % 64, Nat.mod_lt _ (by decide)⟩
    let l : LineId := ⟨recNat bs 0x19 1 % 8, Nat.mod_lt _ (by decide)⟩
    if !(recordAddr value) || 64 ≤ ((s.cols.get c).lines.get l).queued then
      let i := { ((IncCode.launchDropped.entry.atCol c).byEngine 8).ofCtx (journalCtx j) with port := l.val, detail := value, corr := cmdCorr bs }
      some ((s.modLine c l fun x => { x with dropped := x.dropped + 1 }).report i, .lineFull, l.val)
    else some (s.signalStore (journalCtx j) c (128 * l.val) 8 value, .ok, 0))

/-- JOURNAL_BARRIER (R313): taken once every earlier command has completed. -/
def execJournalBarrier (j : JournalId) (s : State) : Host.Outcome State Fault Refusal :=
  done (s.perform j 4 fun _ => some (s, .ok, 0))

/-- A SIGNAL performed, held on a recoverable fault, kept to be tried again, or failed with its incident (R262, R313, R317); what leases or the
host hold back is performed later, an addition on the word that stands there then. -/
def State.signal (s : State) (j : JournalId) (va value : Word) (add : Bool) (corr : Word32) : State :=
  let col := s.journalCol j
  match s.agentWrite (portAgent (journalCtx j) col) (if add then .readWrite else .write) va.toNat value.toNat
      (some (.journal j corr)) with
  | .ok t => t.modJrn j fun y => { y with signal := none }
  | .error .retry => s.modJrn j fun y => { y with signal := some (va, value, add, corr, none) }
  | .error (.hold acc a level) =>
    let (k, t) := s.raiseFault col (.journal corr) (journalCtx j) (BitVec.ofNat 64 a) acc.code level
    t.modJrn j fun y => { y with signal := some (va, value, add, corr, some k) }
  | .error (.fail a incs _) =>
    (State.reportAll (incs.map (journalStamp corr) ++ [jrnIncident .signalFault (journalCtx j) corr a]) s).modJrn j fun y =>
      { y with signal := none }

/-- JOURNAL_SIGNAL (R313, R317): accepted with OK at its start; one that has been refused for now is tried again (R262, R358). -/
def execJournalSignal (j : JournalId) (s : State) : Host.Outcome State Fault Refusal :=
  done <| match (s.jrns.get j).signal with
  | some (va, value, add, corr, none) => (s.signal j va value add corr).acceptBads j
  | _ => (s.perform j 3 fun bs => some (s.signal j (BitVec.ofNat 64 (recNat bs 0x10 8)) (BitVec.ofNat 64 (recNat bs 0x18 8))
    (recNat bs 0x20 1 == 1) (cmdCorr bs), .ok, 0))

/-! ### Copies of a journal -/

/-- JOURNAL_COPY (R313): the copy starts. -/
def execJournalCopy (j : JournalId) (s : State) : Host.Outcome State Fault Refusal :=
  done (s.perform j 2 fun bs =>
    let notify := if recNat bs 0x25 1 % 2 = 1 then some (BitVec.ofNat 64 (recNat bs 0x28 8), recNat bs 0x30 4, false) else none
    let kind : EngineKind := .journalCopy (.run (recNat bs 0x10 8) (recNat bs 0x18 8) 0 0) j (cmdSeq bs) (cmdCorr bs) notify
      (BitVec.ofNat 64 (recNat bs 0x38 8)) (BitVec.ofNat 64 (recNat bs 0x40 8))
    let o : EngineOp := ⟨s.fresh, journalCtx j, s.journalCol j, 0, 0, 0, 0, 0, recNat bs 0x24 1, recNat bs 0x20 4, 0, kind, none, [], none, []⟩
    some ({ s with ops := s.ops ++ [o], fresh := s.fresh + 1 }, .ok, 0))

/-- The team that a NOTIFY names, by its grid's record and its index: at work, saved, or waiting for admission (R313). -/
def State.notified (s : State) (c : CtxId) (record : Word) (index : Nat) : Option Team :=
  s.teams.find? fun t => t.ctx == c && !t.spawned && t.value.toNat == index && t.place != .pendingRetire &&
    (s.gridOf t.grid).any fun x => x.record == record

/-- Bytes subtracted from the point that a copy notifies, which the team's core then reads past its older copies (R260); while there is no
such team they are dropped, with one incident for the copy (R313).
DESIGN CHOICE (log entry 91): the spec gives no number of incidents for a copy of several sectors. -/
def State.notify (s : State) (o : EngineOp) (n : Nat) : State :=
  match o.kind with
  | .journalCopy shape j seq corr (some (record, index, told)) da dv =>
    match s.notified o.ctx record index with
    | some t => if n = 0 then s else (s.dropClean t.core).updPoint t.id o.point 0 (-(n : Int))
    | none =>
      if told || n = 0 then s
      else
        let i := { (IncCode.copyNoTeam.entry.ofCtx o.ctx).byEngine 11 with corr := corr }
        (s.report i).modOp o.id fun x => { x with kind := .journalCopy shape j seq corr (some (record, index, true)) da dv }
  | _ => s

/-- A journal copy stops (R173, R313): the incidents, and the error flip of the point it notifies; no done word. -/
def State.journalStops (s : State) (o : EngineOp) (code va : Nat) (incs : List Incident) : State :=
  let s1 := State.reportAll incs (s.dropOp o.id)
  match o.kind with
  | .journalCopy _ _ _ _ (some (record, index, _)) _ _ =>
    match s1.notified o.ctx record index with
    | some t => s1.putPoint t.id o.point { (t.point o.point).errorFlip code with erraddr := BitVec.ofNat 64 va } none
    | none => s1
  | _ => s1

/-- The end of a journal copy, once its last byte is performed: the done word, if it has one (R313). -/
def State.journalDone (s : State) (o : EngineOp) : State :=
  match o.kind with
  | .journalCopy _ j _ corr _ da dv =>
    if s.copyPending o.id then s
    else if da = 0 then s.dropOp o.id
    else match s.agentWrite (portAgent o.ctx o.col) .write da.toNat dv.toNat (some (.journal j corr)) with
      | .ok t => t.dropOp o.id
      | .error .retry => s
      | .error (.hold acc a level) =>
        let (k, t) := s.raiseFault o.col (.journal corr) o.ctx (BitVec.ofNat 64 a) acc.code level
        t.modOp o.id fun x => { x with held := some k }
      | .error (.fail a incs _) =>
        State.reportAll (incs.map (journalStamp corr) ++ [jrnIncident .signalFault o.ctx corr a]) (s.dropOp o.id)
  | _ => s

/-- JOURNAL_COPY_SECTOR (R313, R173): one sector of a copy of a journal, or its done word. Bytes that are held, or on their way to a peer,
count when they are performed. -/
def execJournalCopySector (op : Nat) (s : State) : Host.Outcome State Fault Refusal :=
  done <| match s.ops.find? fun o => o.id == op && o.held.isNone && o.alWait.isNone with
  | some o =>
    match o.kind with
    | .journalCopy c j _ corr _ _ _ =>
      let t := if o.total ≤ o.pos then s.journalDone o
        else match s.copySector o c (.journal corr) with
          | .waits t => t
          | .stopped t code va incs => t.journalStops o code va incs
          | .moved t n =>
            let u := (t.modOp op fun x => { x with pos := x.pos + n }).notify o (n - (t.copyWaiting op - s.copyWaiting op))
            if o.pos + n = o.total then (match u.ops.find? fun x => x.id == op with
              | some x => u.journalDone x
              | none => u) else u
      t.acceptBads j
    | _ => s
  | none => s

end Sys2Proof.Machine
end

