-- ==== Sys2Proof/Machine/Retire.lean ====
section
/-! DEFINITION. Commit of versions (R267, R337, R338) and the retirement of teams and grids (R229, R230). -/
namespace Sys2Proof.Machine
set_option Elab.async false

/-! ### Versions -/

/-- The bytes of a version as runs within one line: location and bytes. -/
def versionRuns : List Host.Cell → List (Nat × List Byte)
  | [] => []
  | (a, b) :: r =>
    match versionRuns r with
    | (o, bs) :: rest => if o = a + 1 ∧ o % 128 ≠ 0 then (a, b :: bs) :: rest else (a, [b]) :: (o, bs) :: rest
    | [] => [(a, [b])]

/-- The lines of memory that a version holds. -/
def Team.lines (t : Team) : List Nat := ((t.version.getD []).map fun c => c.1 / 128).eraseDups

/-- The release that a commit makes first, and a place behind what holds its lines back (R267, R338, R370). -/
def State.commitFirst (s : State) (t : Team) : State :=
  let s1 := s.sendOn t.core .dev
  let kept := fun (u : State) (line : Nat) => u.links.held.any fun h => h.loc / 128 == line && h.tag == some (.commit t.id)
  t.lines.foldl (fun (u : State) line =>
    if (u.holdOf line).isSome && !(kept u line) then u.keepPlace none (some (.commit t.id)) line else u) s1

/-- What the commit of a version waits for is done: the writes of the team's core are performed, and nothing holds its lines back (R267,
R370). -/
def State.mayCommit (s : State) (t : Team) : Bool := s.performedBy t.core .dev && t.lines.all fun line => (s.holdOf line).isNone

/-- A run of a version written by the slice of its column, or sent to its peer (R267, R338); a write to a fenced peer fails (R373). -/
def State.commitRun (s : State) (t : Team) (run : Nat × List Byte) : State :=
  let line := run.1 / 128
  let l := (t.versionLines.find? fun k => k.line == line).getD ⟨line, 0, 0, 0⟩
  let o : Origin := ⟨t.core, t.id, l.index, t.ctx⟩
  let va := BitVec.ofNat 64 (l.va + run.1 % 128)
  if 2 ^ 51 ≤ run.1 then
    let k : PeerId := ⟨run.1 / 2 ^ 40 % 1024, Nat.mod_lt _ (by decide)⟩
    if s.dev.peerFenced.contains k.val then s.failStore .storeFailed o va run.1
    else (s.sendPeer ⟨k, run.1, run.2, none, some o, va, false, some (.commit t.id)⟩).notePeer none run.1 run.2.length
  else ((s.cleanDrop t.core line).mergeCopies line).performAt t.col ⟨o, va, l.key, 0⟩ none run.1 run.2

/-- The commit of a team's version: every byte of it into memory at once (R267, R338), with the release writes that it holds (R263); the
places that it has kept behind leases and the host are given up (R370). -/
def State.commit (s : State) (t : Team) : State :=
  let s0 := (s.releaseBy t.core .dev).dropPlaces none (some (.commit t.id)) t.lines
  let s1 := (versionRuns (t.version.getD [])).foldl (fun (u : State) run => u.commitRun t run) s0
  let s2 := t.versionRels.foldl (fun (u : State) r => u.noteRelease (some r.2) r.1 1) s1
  s2.modTeam t.id fun x => { x with version := none, versionLines := [], versionRels := [] }

/-- A team is the oldest of its column that has not committed (R337). -/
def State.oldestVersion (s : State) (t : Team) : Bool :=
  t.version.isSome && !(s.teams.any fun u => u.col == t.col && u.version.isSome && u.age < t.age)

/-- A group, or a copy, of a team waits for its early commit (R337). -/
def State.commitWanted (s : State) (t : Team) : Bool :=
  (s.groups.any fun g => g.team == t.id && g.status == .blocked .earlyCommit) ||
  s.ops.any fun o => o.team == t.id && (match o.kind with
    | .copy c => s.engineWaits o (c.byteAt o.pos).1.1 (c.byteAt o.pos).1.2
    | _ => false)

/-- EARLY_COMMIT (R337): the commit once nothing holds it back, its incident, and the groups that waited for it. -/
def execEarlyCommit (team : Nat) (s : State) : Host.Outcome State Fault Refusal :=
  done <| match s.teamOf team with
  | some t =>
    if s.oldestVersion t && s.commitWanted t then
      let s0 := s.commitFirst t
      if !(s0.mayCommit t) then s0
      else
      let s1 := (s0.commit t).report { ((IncCode.versionEarlyCommit.entry.atCol t.col).ofCtx t.ctx) with detail := t.value }
      s1.modGroups (fun g => g.team == team && g.status == .blocked .earlyCommit) fun g => { g with status := .ready }
    else s
  | none => s

/-! ### Teams -/

/-- Every condition of R229 but the commit holds. -/
def State.mayRetire (s : State) (t : Team) : Bool :=
  (t.place == .resident || t.place == .pendingRetire) && s.teamDone t.id && t.children == 0 &&
    !(s.ops.any fun o => o.team == t.id) && !(s.groups.any fun g => g.team == t.id && !g.mmas.isEmpty)

/-- TEAM_RETIREMENT (R229): an uncommitted version is committed first, once nothing holds it back. DESIGN CHOICE (log entry 130): where the last
group to finish halts, the core resources of the team stay held until it retires; R229 speaks of the last END. -/
def execTeamRetirement (team : Nat) (s : State) : Host.Outcome State Fault Refusal :=
  done <| match s.teamOf team with
  | some t =>
    if s.mayRetire t then
      let s0 := if t.version.isSome then s.commitFirst t else s
      if t.version.isSome && !(s0.mayCommit t) then s0
      else
      let s1 := if t.version.isSome then s0.commit t else s
      let s2 := (s1.dropGroups team).modCol t.col fun c => { c with retiring := c.retiring.filter fun x => x != team }
      ({ s2 with teams := s2.teams.filter fun x => x.id != team } : State).freeGlyphs t.ctx t.core
    else s
  | none => s

/-! ### Grids -/

/-- Every condition of R230 holds, and no completion store is under way. -/
def State.gridDone (s : State) (x : Grid) : Bool :=
  (x.stage == .placed || (x.stage == .completing && x.doneWait.isNone && !(s.tagPending (.completion x.id)))) &&
    !(s.teams.any fun t => t.grid == x.id) && !(s.savedBins.any fun b => b.2.grid == x.id) &&
    !(((List.finRange 64).any fun c => (s.cols.get c).bins.any fun b => b.grid == x.id))

/-- Every cache line that a context's groups have written cleaned, their buffered reductions sent on, and their update-only copies merged
(step 1 of R230, R251). -/
def State.cleanCores (s : State) (ctx : CtxId) : State :=
  let s1 := (List.finRange 256).foldl (fun (t : State) c =>
    let t1 := t.drainComb c fun e => e.who.ctx == ctx
    let mine := fun (l : L1Line) => l.tags.any fun x => x.1 == ctx
    if (t1.cores.get c).l1.any mine then t1.cleanWhere c mine else t1) s
  ((s1.mem.copies.filter fun c => c.words.any fun e => e.who.ctx == ctx).map (·.line)).foldl State.mergeCopies s1

/-- Writes of a context's groups are not yet performed: the completion store, a system-scope release, waits for them (R230, R259). -/
def State.outstanding (s : State) (ctx : CtxId) : Bool :=
  let mine := fun (o : Option Origin) => match o with
    | some w => w.ctx == ctx && w.team != 0
    | none => false
  s.links.held.any (fun h => h.writes && mine h.who) || s.links.peerWrites.any (fun w => mine w.who) ||
    s.mem.writes.any fun w => mine w.who && s.unacknowledged w

/-- The grid gone: its parent's count, and its queue entry (steps 3 and 4 of R230). -/
def State.endGrid (s : State) (x : Grid) : State :=
  let s1 := s.childGone x.parent
  let s2 := match s1.entryOfGrid x with
    | some e => s1.freeEntry x.col x.line e
    | none => s1
  { s2 with grids := s2.grids.filter fun y => y.id != x.id }

/-- The failure of a completion store (R230): its incident, and the error state. -/
def State.completionFails (s : State) (x : Grid) (incs : List Incident) : State :=
  let i := ((((IncCode.completionFault.entry.atCol x.col).ofCtx x.ctx).byEngine 8).withVa x.launch.doneAddr)
  ((State.reportAll (incs.map (·.byEngine 8) ++ [i]) s).errorState x.ctx).endGrid x

/-- GRID_RETIREMENT (R230, R193): the lines cleaned, the completion value stored once the writes of the context are performed, and after
that store the parent's count and the queue entry. -/
def execGridRetirement (grid : Nat) (s : State) : Host.Outcome State Fault Refusal :=
  done <| match s.gridOf grid with
  | some x =>
    if s.gridDone x then
      let s1 := s.cleanCores x.ctx
      if x.launch.doneAddr = 0 || x.haltSeen then s1.endGrid x
      else if s1.outstanding x.ctx then s1
      else match s1.agentWrite (portAgent x.ctx x.col) .write x.launch.doneAddr.toNat x.launch.doneValue.toNat (some (.completion grid)) with
        | .ok t => if t.tagPending (.completion grid) then t.modGrid grid fun y => { y with stage := .completing } else t.endGrid x
        | .error (.hold acc va level) =>
          let (k, t) := s1.raiseFault x.col (.port x.record) x.ctx (BitVec.ofNat 64 va) acc.code level
          t.modGrid grid fun y => { y with stage := .completing, doneWait := some k }
        | .error .retry => s1
        | .error (.fail _ incs _) => s1.completionFails x incs
    else s
  | none => s

end Sys2Proof.Machine
end

