-- ==== Sys2Proof/Machine/ModeFlags.lean ====
section
/-! DEFINITION. Mode, flags and special registers (R101 to R105, R28, R31, R32). -/
namespace Sys2Proof.Machine
set_option Elab.async false

/-- The bits of MD that a mask of MODE selects (R20, R102). -/
def modeBits (mask : BitVec 8) : Word32 :=
  let part := fun (i lo k : Nat) => if mask.getLsbD i then (2 ^ k - 1) * 2 ^ lo else 0
  BitVec.ofNat 32 (part 0 0 4 + part 1 4 3 + part 2 7 1 + part 3 8 5 + part 4 13 5 + part 5 18 5)

/-- A legal MD: TYPE below 10, ROUND below 5, reserved bits zero (R20). -/
def legalMode (x : Word) : Bool := x.toNat / 2 ^ 23 == 0 && x.toNat % 16 < 10 && x.toNat / 16 % 8 < 5

/-- The new MD of a MODE: the selected fields of the operand (R102). -/
def newMode (md : Word32) (x : Word) (mask : BitVec 8) : Word32 :=
  (md &&& ~~~(modeBits mask)) ||| (x.extractLsb' 0 32 &&& modeBits mask)

/-- MODE (R102). -/
def execMode (d a : SReg) (mask : BitVec 8) (s : State) : Host.Outcome State Fault Refusal :=
  finish s do
    s.sound [] [a] []
    let x := s.g.sReg a
    let n := newMode s.g.md x mask
    need (x.toNat / 2 ^ 23 == 0) (trapN .illegalMode 0)
    need (legalMode (zext64 n)) (trapN .illegalMode 0)
    .ok (s.retireWith { s.g.setS d (zext64 s.g.md) with md := n })

/-- MDR (R101). -/
def execMdr (d : SReg) (s : State) : Host.Outcome State Fault Refusal := scalarOp s d [] (zext64 s.g.md)

/-- FLR (R101, R24): FL once every earlier MMA has written its flags. -/
def execFlr (d : SReg) (s : State) : Host.Outcome State Fault Refusal :=
  let t := s.drainMmas
  finish t do
    t.mmasSettled
    .ok (t.retireWith (t.g.setS d (zext64 t.g.fl)))

/-- FL as FLCLR leaves it (R103). -/
def clearFlags (fl : Word32) (x : Word) (sel : FlSel) : Word32 :=
  let low := x.extractLsb' 0 32 &&& 0x7F
  let arm := x.extractLsb' 0 32 &&& 0x7F0000
  let f1 := if sel = .arm then fl else fl &&& ~~~low
  if sel = .flags then f1 else (f1 &&& ~~~0x7F0000) ||| arm

/-- FLCLR (R103). -/
def execFlclr (d a : SReg) (sel : FlSel) (s : State) : Host.Outcome State Fault Refusal :=
  let t := s.drainMmas
  finish t do
    t.mmasSettled
    t.sound [] [a] []
    let x := t.g.sReg a
    need (x.toNat / 2 ^ 23 == 0 && x.toNat / 2 ^ 7 % 2 ^ 9 == 0) (trapN .illegalOperand a.toNat)
    .ok (t.retireWith { t.g.setS d (zext64 t.g.fl) with fl := clearFlags t.g.fl x sel })

/-- GSTAT (R28). -/
def Group.gstat (g : Group) : Word :=
  BitVec.ofNat 64 (g.spilled.toNat * 2 ^ 16 + (if g.hnd then 32 else 0) + g.rs.length)

/-- EVT of the core (R31). -/
def CoreState.evt (c : CoreState) : Word :=
  BitVec.ofNat 64 (c.evtCount.toNat * 2 ^ 8 + (if c.evtPend then 4 else 0) + c.evtLevel.toNat)

/-- A special register other than LANE (R31). -/
def State.special (s : State) : Sel → Word
  | .lane => 0
  | .group => BitVec.ofNat 64 s.g.index
  | .team => s.team.value
  | .role => BitVec.ofNat 64 s.g.role.code
  | .gridx => BitVec.ofNat 64 s.grid.launch.x
  | .gridy => BitVec.ofNat 64 s.grid.launch.y
  | .gridz => BitVec.ofNat 64 s.grid.launch.z
  | .column => BitVec.ofNat 64 s.colId.val
  | .core => BitVec.ofNat 64 s.g.core.val
  | .live => s.g.live
  | .depth => BitVec.ofNat 64 s.grid.depth
  | .tcause => s.g.tcause
  | .taddr => s.g.taddr
  | .tmask => s.g.tmask
  | .tpc => s.g.tpc
  | .tstep => s.g.tstep
  | .tmd => s.g.tmd
  | .spillbase => s.g.spillBase
  | .gstat => s.g.gstat
  | .evt => s.core.evt
  | .clk => s.core.clk
  | .ptptime => s.ptp

/-- Scalar SREAD (R104). Selector LANE does not decode here (R31). -/
def execSreadScalar (d : SReg) (sel : Sel) (s : State) : Host.Outcome State Fault Refusal := scalarOp s d [] (s.special sel)

/-- Vector SREAD (R104): the lane index, or the low word of the register, in every Active lane; one register under any
TYPE (R16). -/
def execSreadVector (g : Guard) (d : VReg) (sel : Sel) (s : State) : Host.Outcome State Fault Refusal :=
  finish s do
    let m := s.g.active g
    s.operands [vSpan d 1 false 0] anyType [] [s.g.guardIdx g]
    .ok (s.retireWith (s.g.setV d.toNat m fun L =>
      if sel = .lane then BitVec.ofNat 32 L else (s.special sel).extractLsb' 0 32))

/-- The registers that SWRITE may write in a handler (R32). -/
def trapSel (sel : Sel) : Bool :=
  match sel with
  | .tcause | .taddr | .tmask | .tpc | .tstep | .tmd => true
  | _ => false

/-- A special register written (R32, R190: TCAUSE keeps eight bits). -/
def Group.writeSpecial (g : Group) (sel : Sel) (x : Word) : Group :=
  match sel with
  | .spillbase => { g with spillBase := x }
  | .tcause => { g with tcause := x &&& 0xFF }
  | .taddr => { g with taddr := x }
  | .tmask => { g with tmask := x }
  | .tpc => { g with tpc := x }
  | .tstep => { g with tstep := x }
  | .tmd => { g with tmd := x }
  | _ => g

/-- SWRITE (R105, R32, R30). -/
def execSwrite (a : SReg) (sel : Sel) (s : State) : Host.Outcome State Fault Refusal :=
  finish s do
    s.sound [] [a] []
    let x := s.g.sReg a
    need (sel == .spillbase || (trapSel sel && s.g.hnd)) (trapN .privilege sel.code)
    need (sel != .spillbase || x.toNat % 64 == 0) (trapN .illegalOperand a.toNat)
    need (sel != .tmd || legalMode x) (trapN .illegalMode 0)
    .ok (s.retireWith (s.g.writeSpecial sel x))

end Sys2Proof.Machine
end

