-- ==== Sys2Proof/Machine/System.lean ====
section
/-! DEFINITION. Traps by software, the return from a trap, host calls, and maintenance of slices, translations and lines (R190 to
R204, R319, R320). -/
namespace Sys2Proof.Machine
set_option Elab.async false

/-! ### Traps -/

/-- TRAP (R195). -/
def execTrap (imm : BitVec 20) (s : State) : Host.Outcome State Fault Refusal :=
  finish s (.error (trapN .softwareTrap imm.toNat))

/-- ERET (R194, R199). -/
def execEret (s : State) : Host.Outcome State Fault Refusal :=
  finish s do
    need s.g.hnd (trapN .privilege 2)
    .ok s.eret

/-! ### Host calls -/

/-- The words of a record that the Z7 writes, but for the requests (R320). -/
def State.hcallHead (s : State) (k : Nat) (h : HcallRec) : List Byte :=
  leBytes 8 (k + 1) ++ leBytes 4 h.service.toNat ++
  leBytes 4 (s.ctxId.val + 2 ^ 8 * s.g.slot.val + 2 ^ 16 * s.g.core.val) ++
  leBytes 8 h.mask.toNat ++ leBytes 8 s.grid.record.toNat ++ leBytes 8 s.team.value.toNat

/-- The requests of a record (R320). -/
def hcallRequests (h : HcallRec) : List Byte := (tabList (fun L => leBytes 8 (at0 h.requests L).toNat) 0 64).flatten

/-- The record of the issuing group sent to its host core, and the group waits for the reply (R198, R318, R320). -/
def State.sendHcall (s : State) (h : HcallRec) : State :=
  let k := s.col.hqTail.toNat
  let slot := s.col.hqNext
  let s1 := (s.physWrite slot (s.hcallHead k h)).physWrite (slot + 0x40) (hcallRequests h)
  let s2 := s1.modCol s.colId fun c => { c with
    hqTail := c.hqTail + 1, imsic := c.imsic ++ [1], hq := c.hq ++ [⟨k, s.g.team, s.g.index⟩] }
  ({ s2 with g := { s2.g with hcall := some h } } : State).blockOn (.hcallReply k)

/-- HCALL (R198). -/
def execHcall (g : Guard) (d a : VReg) (b : SReg) (s : State) : Host.Outcome State Fault Refusal :=
  finish s do
    let m := s.g.active g
    s.operands [vSpan d 1 false 0, vSpan a 2 true m] anyType [b] [s.g.guardIdx g]
    let w := (s.g.sReg b).toNat
    need (w < 2 ^ 32) (trapN .illegalOperand b.toNat)
    if m = 0 then .ok s.retire
    else
      let t ← s.releaseFirst .col
      let h : HcallRec := ⟨d, BitVec.ofNat 32 w, m, tab 64 fun L => if bit m L then s.g.lane64 a.toNat L else 0, none⟩
      let u := if t.col.hqRoom then t.devReady t.col.hqNext 0x240 else t
      if u.hqOpen u.colId then .ok (u.sendHcall h) else .ok (u.blockOn .hcallSend)

/-- The reply of its host core completes the HCALL of the issuing group (R198). -/
def State.deliverHcall (s : State) (h : HcallRec) (status : Word32) (replies : List Word32) : State :=
  let t := ({ s with g := { s.g with status := .ready, hcall := none } } : State).acquire .col
  if status = 0 then t.retireWith (t.g.setV h.d.toNat h.mask fun L => replies.getD L 0)
  else t.takeTrap ⟨.hcallFailed, zext64 status, h.mask, [], none⟩

/-- The status and the replies in a slot (R320). -/
def State.readReply (s : State) (slot : Nat) : Word32 × List Word32 :=
  (BitVec.ofNat 32 (s.physNat (slot + 0x28) 4), tabList (fun L => BitVec.ofNat 32 (s.physNat (slot + 0x240 + 4 * L) 4)) 0 64)

/-- A reply kept with a group until it is delivered (R198, R335). -/
def Group.keepReply (g : Group) (reply : Word32 × List Word32) : Group :=
  { g with hcall := g.hcall.map fun h => { h with reply := some reply } }

/-- The group waits for the reply to a record. -/
def Group.awaits (r : HqRec) (g : Group) : Bool :=
  g.team == r.team && g.index == r.index &&
    (g.status == .blocked (.hcallReply r.record) || g.status == .blocked (.stopped (.hcallReply r.record)))

/-- HREPLY_WRITE (R320, R198): the reply in a slot is delivered, or held while the context is not running. -/
def execHreplyWrite (col : ColId) (value : BitVec 64) (s : State) : Host.Outcome State Fault Refusal :=
  done <| s.pageWrite fun s =>
    let c := s.cols.get col
    let slot := value.toNat % 1024
    match c.hq.find? fun r => r.record % 2 ^ c.hqLog.toNat == slot with
    | none => s
    | some r =>
      let reply := s.readReply (c.hqSlot r.record)
      let s1 := s.modCol col fun x => { x with hq := x.hq.filter fun y => y.record != r.record }
      match s1.groups.find? (Group.awaits r) with
      | some g =>
        match s1.focus g.core g.slot, g.hcall with
        | some t, some h =>
          if t.ctx.phase = .running then t.deliverHcall h reply.1 reply.2 else { t with g := t.g.keepReply reply }
        | _, _ => s1
      | none => s1.modTeam r.team fun t => { t with groups := updWhere (Group.awaits r) (fun g => g.keepReply reply) t.groups }

/-- HQHEAD_WRITE (R319): the records that the host core has replied to. -/
def execHqheadWrite (col : ColId) (value : BitVec 64) (s : State) : Host.Outcome State Fault Refusal :=
  done (s.pageWrite fun s => s.modCol col fun c => { c with hqHead := value.extractLsb' 0 32 })

/-! ### The slice -/

/-- Bytes that a copy moves, and the bytes of them that it has moved; none for a job of the matrix engine. -/
def EngineOp.shape (o : EngineOp) : Option CopyShape :=
  match o.kind with
  | .copy c => some c
  | .journalCopy c _ _ _ _ _ _ => some c
  | _ => none

/-- A side of a copy lies in slice scratch, by its space or by a HOME 2 page (R135, R323). -/
def State.sideInSlice (s : State) (o : EngineOp) (x : Space × Nat) : Bool :=
  x.1 == .slice || (x.1 == .global && (match s.translate o.agent x.2 1 .read, s.translate o.agent x.2 1 .write with
    | .ok a, _ => a.home == 2
    | _, .ok a => a.home == 2
    | _, _ => false))

/-- A copy has bytes to move whose source or destination is slice scratch. -/
def State.usesSlice (s : State) (o : EngineOp) : Bool :=
  match o.shape with
  | some c => (List.range (o.total - o.pos)).any fun i =>
      s.sideInSlice o (c.byteAt (o.pos + i)).1 || s.sideInSlice o (c.byteAt (o.pos + i)).2
  | none => false

/-- Slice-scratch accesses of a column are under way (R201). -/
def State.sliceBusy (s : State) (c : ColId) : Bool := s.ops.any fun o => o.col == c && s.usesSlice o

/-- The buffered reductions to a column's slice scratch performed (R152, R201). -/
def State.drainSlice (s : State) (c : ColId) : State :=
  (List.finRange 4).foldl (fun (t : State) k => t.drainComb (colCore c k) fun e => sliceLoc c 0 ≤ e.loc && e.loc < sliceLoc c 0 + 2 ^ 23) s

/-- A slice resized for a context (R201): bytes beyond the lesser size are gone, lines in ways that it gives up are written back and dropped,
and the grant passes or is released. -/
def State.resizeWays (s : State) (c : ColId) (ctx : CtxId) (w : Nat) : State :=
  let size := (16 - w) * 2 ^ 20
  let kept := Nat.min size (s.cols.get c).scratchBytes
  let gone := fun (a : Nat) => sliceLoc c kept ≤ a && a < sliceLoc c 0 + 2 ^ 23
  let s1 := (s.drainSlice c).modCol c fun x => { x with ways := w, grant := if size = 0 then none else some ctx }
  let s2 : State := { s1 with mem := { s1.mem with
    cells := s1.mem.cells.filter fun x => !(gone x.1)
    poison := s1.mem.poison.filter fun sec => !(gone (32 * sec))
    badBytes := s1.mem.badBytes.filter fun a => !(gone a)
    olds := s1.mem.olds.filter fun o => !(gone o.loc) } }
  let s3 := (s2.mem.copies.map (fun x => (x.col, x.line)) ++ s2.links.llines.map fun x => (x.col, x.line)).foldl
    (fun (t : State) x => if x.1 = c then t.makeRoom c x.2 else t) s2
  (s3.mem.slices.filter fun l => l.col == c && !l.host).foldl (fun (t : State) l => t.trimSlice c false l.line) s3

/-- Another context holds a column's grant. -/
def State.grantElsewhere (s : State) (c : ColId) (ctx : CtxId) : Bool :=
  match (s.cols.get c).grant with
  | some x => x != ctx
  | none => false

/-- A resize that grows the cache waits for the slice-scratch accesses under way (R201). -/
def State.resizeWaits (s : State) (c : ColId) (w : Nat) : Bool := (s.cols.get c).ways < w && s.sliceBusy c

/-- The group of an SLCFG that has reached the slice still stalls at it. -/
def State.slcfgStands (s : State) (core : CoreId) (slot : SlotId) (team : Nat) : Bool :=
  s.groups.any fun g => g.isAt core slot && g.team == team && g.status == .stalled

/-- A request for a resize reaches a slice (R201, R381): behind another it waits its turn; a write to WAYS acts as SLCFG.resize by the context
it names, and an SLCFG whose turn comes is in progress until its group performs it. -/
def State.waysRequest (s : State) (col : ColId) (r : WaysReq) : State :=
  if (s.cols.get col).waysPend.isSome then s.modCol col fun x => { x with waysQueue := x.waysQueue ++ [r] }
  else match r with
    | .write ctx w =>
      let refused := s.grantElsewhere col ctx
      let t := s.modCol col fun x => { x with waysCtx := ctx, waysRefused := refused }
      if refused then t
      else if s.resizeWaits col w then t.modCol col fun x => { x with waysPend := some w, waysBy := none }
      else t.resizeWays col ctx w
    | .slcfg core slot team w =>
      if s.slcfgStands core slot team then s.modCol col fun x => { x with waysPend := some w, waysBy := some (core, slot, team) } else s

/-- The end of a resize in progress: those behind it have their turn (R381). -/
def State.waysNext (s : State) (col : ColId) : State :=
  (s.cols.get col).waysQueue.foldl (fun (u : State) r => u.waysRequest col r)
    (s.modCol col fun x => { x with waysPend := none, waysBy := none, waysQueue := [] })

/-- A write to the WAYS register (R381). -/
def State.waysWrite (s : State) (col : ColId) (value : Word) : State :=
  let w := field value.toNat 0 5
  if w == 16 || w == 12 || w == 8 then s.waysRequest col (.write ⟨field value.toNat 8 6 % 64, Nat.mod_lt _ (by decide)⟩ w) else s

/-- A resize that has waited goes on (R201, R381): that of a write to WAYS is performed once the accesses to the slice scratch have ended; that of
a group that has gone is dropped. -/
def State.waysApply (s : State) (col : ColId) : State :=
  let c := s.cols.get col
  match c.waysPend, c.waysBy with
  | some w, none => if s.resizeWaits col w then s else (s.resizeWays col c.waysCtx w).waysNext col
  | some _, some (core, slot, team) => if s.slcfgStands core slot team then s else s.waysNext col
  | none, _ => s

/-- The answer of SLCFG.query (R201). -/
def ColState.sliceWord (c : ColState) : Word :=
  BitVec.ofNat 64 (c.ways + match c.grant with
    | some x => 2 ^ 15 + x.val * 2 ^ 16
    | none => 0)

/-- SLCFG (R199 to R201). -/
def execSlcfg (d a : SReg) (form : SlcfgForm) (s : State) : Host.Outcome State Fault Refusal :=
  finish s do
    match form with
    | .query => .ok (s.retireWith (s.g.setS d s.col.sliceWord))
    | .resize =>
      s.sound [] [a] []
      need s.entry.capSlice (trapN .privilege SlcfgForm.resize.code)
      let w := (s.g.sReg a).toNat
      need (w == 16 || w == 12 || w == 8) (trapN .illegalOperand a.toNat)
      let me : CoreId × SlotId × Nat := (s.g.core, s.g.slot, s.g.team)
      let next := fun (t : State) => if s.col.waysBy = some me then t.waysNext s.colId else t
      if s.col.waysPend.isSome && s.col.waysBy != some me then
        let r : WaysReq := .slcfg me.1 me.2.1 me.2.2 w
        .error (.wait (if s.col.waysQueue.contains r then s else s.waysRequest s.colId r).stallHere)
      else if s.grantElsewhere s.colId s.ctxId then .ok ((next s).retireWith (s.g.setS d 1))
      else if s.resizeWaits s.colId w then
        .error (.wait (s.modCol s.colId fun x => { x with waysPend := some w, waysBy := some me }).stallHere)
      else
        let t := next (s.resizeWays s.colId s.ctxId w)
        .ok (t.retireWith (t.g.setS d 0))

/-! ### Translations -/

/-- Cached translations that satisfy `p` removed from every core and slice (R327). -/
def State.dropTlb (s : State) (p : TlbEntry → Bool) : State :=
  let keep := fun (l : List TlbEntry) => l.filter fun e => !p e
  { s with cores := s.cores.map fun c => { c with fetchTlb := keep c.fetchTlb, dataTlb := keep c.dataTlb }
           cols := s.cols.map fun c => { c with stlb := keep c.stlb } }

/-- Accesses translated by the mappings that `hit` names are performed at device scope: buffered reductions and dirty lines
leave the cores (R327). -/
def State.performAll (s : State) (hit : CtxId → Nat → Bool) : State :=
  (List.finRange 256).foldl (fun (t : State) c =>
    let t1 := t.drainComb c fun e => hit e.who.ctx e.va.toNat
    (((t1.cores.get c).l1.filter fun l => l.tags.any fun x => hit x.1 x.2).map (·.line)).foldl (fun (u : State) l => u.cleanDrop c l) t1) s

/-- The entry translates the page of an address (R202, R326). -/
def TlbEntry.covers (va : Nat) (e : TlbEntry) : Bool := e.page == levelPage e.level va

/-- Two addresses lie in one page of the largest size, so that a removed translation may have served both (R322). -/
def nearPage (a va : Nat) : Bool := a / 2 ^ 29 == va % 2 ^ 55 / 2 ^ 29

/-- A write that a removed translation may have served is held behind a lease or the host (R364, R370). -/
def State.pageHeld (s : State) (va : Nat) : Bool := s.links.held.any fun h => h.writes && nearPage h.va.toNat va

/-- A group that can go on: its context runs, or is being saved (R312). -/
def State.goesOn (s : State) (g : Group) : Bool :=
  match s.teamOf g.team with
  | some t => (s.ctxs.get t.ctx).phase == .running || (s.ctxs.get t.ctx).phase == .saving
  | none => false

/-- A request of a context to a peer is out: a write that is not acknowledged, or a load, an atomic or a fetch whose answer is awaited, or an
atomic is between two of its lanes (R150, R327). An answer that has come has been read. -/
def State.peerOut (s : State) (ctx : CtxId → Bool) : Bool :=
  (s.links.peerWrites.any fun w => match w.who with
    | some o => ctx o.ctx
    | none => true) ||
  s.groups.any fun g =>
    (g.status == .blocked .peerLoad || g.status == .blocked .peerFetch || g.atom.isSome ||
      (g.status == .stalled && g.peerData.isSome && s.goesOn g)) &&
      (match s.teamOf g.team with
       | some t => ctx t.ctx
       | none => false)

/-- A request of a context to the home of an allowance object is out, through an address that satisfies a test (R327): it is performed there
when it is served. -/
def State.alOut (s : State) (hit : CtxId → Nat → Bool) : Bool :=
  s.groups.any fun g => match g.status with
    | .allowance _ va w => w != .plain && (match s.teamOf g.team with
        | some t => hit t.ctx va.toNat
        | none => false)
    | _ => false

/-- A write that waits in the version of a team that can go on is not yet performed (R267, R327): it is with the team's commit. -/
def State.versionOut (s : State) (hit : CtxId → Nat → Bool) : Bool :=
  s.teams.any fun t => t.version.isSome && ((s.ctxs.get t.ctx).phase == .running || (s.ctxs.get t.ctx).phase == .saving) &&
    t.versionLines.any fun l => hit t.ctx l.va

/-- TLBINV (R199, R200, R202, R327). What the slice caches of the group's column goes too, so that the group translates afresh. DESIGN CHOICE (log
entry 90): a VERSIONED team that has written near the page commits before .dev completes. -/
def execTlbinv (a : SReg) (form : TlbForm) (s : State) : Host.Outcome State Fault Refusal :=
  finish s do
    let mine := fun (e : TlbEntry) => e.ctx == s.ctxId
    let dropHere := fun (p : TlbEntry → Bool) => s.modCore s.g.core fun c => { c with
      fetchTlb := c.fetchTlb.filter (fun e => !p e), dataTlb := c.dataTlb.filter fun e => !p e }
    let dropAll := fun (p : TlbEntry → Bool) => (dropHere p).modCol s.colId fun c => { c with stlb := c.stlb.filter fun e => !p e }
    let va := (s.g.sReg a).toNat
    match form with
    | .core => .ok (dropAll mine).retire
    | .page =>
      s.sound [] [a] []
      .ok (dropAll fun e => mine e && e.covers va).retire
    | .dev =>
      s.sound [] [a] []
      need s.entry.capTlbDev (trapN .privilege TlbForm.dev.code)
      let hit := fun (c : CtxId) (x : Nat) => c == s.ctxId && nearPage x va
      need (s.team.version.isNone || !(s.team.versionLines.any fun l => hit s.ctxId l.va)) (.block .earlyCommit)
      let t := (s.dropTlb fun e => mine e && e.covers va).performAll hit
      need (!(t.pageHeld va) && !(t.peerOut (· == s.ctxId)) && !(t.alOut hit) && !(t.versionOut hit)) (.wait t.stallHere)
      .ok t.retire

/-! ### Lines -/

/-- The dirty bytes of a line of a core written to the slice; the line stays, clean (R203). -/
def State.cleanKeep (s : State) (core : CoreId) (line : Nat) : State := s.cleanWhere core fun l => l.line == line

/-- A clean copy in place of a dirty one. -/
def SliceLine.cleaned (l : SliceLine) : SliceLine :=
  { l with was := [], state := if l.state = .m then .e else if l.state = .o then .s else l.state }

/-- A line of a column's slice. -/
def State.sliceLine (s : State) (col : ColId) (line : Nat) : Option SliceLine :=
  s.mem.slices.find? fun l => l.col == col && !l.host && l.line == line

/-- The dirty bytes of a line of a column's slice written to HBM, which clears the owner of its directory entry; the line stays, clean (R203,
R364). -/
def State.cleanSlice (s : State) (col : ColId) (line : Nat) : State :=
  match s.sliceLine col line with
  | some l =>
    let mine := fun (x : SliceLine) => x.col == col && !x.host && x.line == line
    let dir := if l.was.isEmpty then s.mem.dir else updWhere (fun d => d.line == line) (fun d => { d with owner := none }) s.mem.dir
    ({ s with mem := { s.mem with slices := updWhere mine SliceLine.cleaned s.mem.slices, dir := dir } } : State).bufferAll none
      (s.mem.changed l.was)
  | none => s

/-- A line of a column's slice written to HBM, and dropped. -/
def State.dropSlice (s : State) (col : ColId) (line : Nat) : State :=
  match s.sliceLine col line with
  | some l => s.dropLine l
  | none => s

/-- What a form of CACHECL does to a line of the issuing core and of its column's slice (R203). -/
def State.maintain (s : State) (form : CacheForm) (line : Nat) : State :=
  match form with
  | .clCore => s
  | .clCol => s.cleanKeep s.g.core line
  | .clDev => (s.cleanKeep s.g.core line).cleanSlice s.colId line
  | .cliCore | .cliCol => s.cleanDrop s.g.core line
  | .cliDev => (s.cleanDrop s.g.core line).dropSlice s.colId line

/-- What CACHECL does to a line of a peer: the slice's leased copy is dropped by .cli.dev, and no L1 holds it (R203, R367, R369). -/
def State.maintainPeer (s : State) (form : CacheForm) (k : PeerId) (line : Nat) : State :=
  if form = .cliDev then
    { s with links := { s.links with llines := s.links.llines.filter fun l => !(l.col == s.colId && l.peer == k && l.line == line) } }
  else s

/-- CACHECL (R200, R203): the first line of the byte's part; other homes and objects' lines are not touched. -/
def execCachecl (a : SReg) (form : CacheForm) (s : State) : Host.Outcome State Fault Refusal :=
  finish s do
    s.sound [] [a] []
    let ea := s.g.sReg a
    need (ea.toNat < 2 ^ 55) (trap .accessFault ea 0)
    let ps ← s.xlatParts .read true [(0, ea.toNat, 1, 0)]
    match ps.find? fun p => p.x.home == 0 && (s.partObj p).isNone with
    | none => .ok s.retire
    | some p =>
      match p.x.site with
      | .mem loc =>
        let t := (s.drainComb s.g.core fun e => e.loc / 128 == loc / 128).mergeCopies (loc / 128)
        .ok (t.maintain form (loc / 128)).retire
      | .peer k pa => .ok (s.maintainPeer form k (pa / 128)).retire
      | _ => .ok s.retire

/-! ### Events of the column -/

/-- EVRD (R204): EVT, and PEND is cleared for the whole core. -/
def execEvrd (d : SReg) (s : State) : Host.Outcome State Fault Refusal :=
  done ((s.modCore s.g.core fun c => { c with evtPend := false }).retireWith (s.g.setS d s.core.evt))

end Sys2Proof.Machine
end

