-- ==== Sys2Proof/Machine/Faults.lean ====
section
/-! DEFINITION. What brings a waiting group on: wakes, the data of a peer, the service of recoverable faults (R142, R170, R233,
R329 to R332); the failures of a fetch and of a retired store (R75, R92, R192, R196). -/
namespace Sys2Proof.Machine
set_option Elab.async false

/-! ### Failures of fetch -/

/-- ILLEGAL_ENCODING (R75): TADDR holds the step and the word. -/
def execIllegalEncoding (check : BitVec 3) (word : BitVec 32) (s : State) : Host.Outcome State Fault Refusal :=
  finish s (.error (trapN .illegalEncoding (check.toNat * 2 ^ 32 + word.toNat)))

/-- The first fetch of a handler fails (R192): the group halts. -/
def State.handlerFetchFails (s : State) (cause : Cause) (va : Word) : State :=
  s.halt { (IncCode.handlerFetch.entry.withVa va).byGroup s.g with detail := trapDetail cause.code s.g.tpc }

/-- INSTRUCTION_FETCH_FAULT (R92, R192, R354). -/
def execInstructionFetchFault (why : FetchFault) (va : BitVec 64) (s : State) : Host.Outcome State Fault Refusal :=
  done <| match why with
  | .peer => s.blockOn .peerFetch
  | .recoverable level =>
    if s.g.firstFetch then s.handlerFetchFails .accessFault va else s.parkOn .exec [(va, level)]
  | .access => if s.g.firstFetch then s.handlerFetchFails .accessFault va else s.takeTrap ⟨.accessFault, va, 0, [], none⟩
  | .poisoned =>
    if s.g.firstFetch then s.handlerFetchFails .dataPoisoned va else s.takeTrap ⟨.dataPoisoned, va, 0, [s.fetchPoison va], none⟩

/-! ### Failures of stores -/

/-- A tagged write is performed (R173, R230, R313): its bytes are counted into the point of its copy, or its grid is gone. -/
def State.writeDone (s : State) (tag : Option WriteTag) (n : Nat) : State :=
  match tag with
  | some (.copy id) => match s.ops.find? fun o => o.id == id with
    | some o => match o.kind with
      | .copy _ => s.copyWritten o n
      | _ => s.notify o n
    | none => s
  | some (.completion grid) => match s.gridOf grid with
    | some x => if s.tagPending (.completion grid) then s else s.endGrid x
    | none => s
  | _ => s

/-- A write that a peer refuses, or that its fence cuts off (R196, R230, R313, R367, R373): a copy stops with ERRCODE 1, a completion store or
a word of a journal is reported, and a group's write is its imprecise failure. -/
def State.failPeerWrite (s : State) (w : PeerWrite) : State :=
  let va := w.va.toNat
  match w.tag with
  | some (.copy id) => match s.ops.find? fun o => o.id == id with
    | some o => match o.kind with
      | .journalCopy _ j _ _ _ _ _ => (s.journalStops o 1 va [o.incident .copyFault va]).acceptBads j
      | _ => s.copyStops o 1 va [o.incident .copyFault va]
    | none => s
  | some (.completion grid) => match s.gridOf grid with
    | some x => s.completionFails x []
    | none => s
  | some (.journal j corr) => s.report (jrnIncident .signalFault (journalCtx j) corr va)
  | _ => match w.who with
    | some o => s.failStore .storeFailed o w.va w.pa
    | none => s.report ((IncCode.storeFailed.entry.withVa w.va).withPa w.pa)

/-! ### Waking -/

/-- WAIT_WAKE (R170, R172, R198, R233): a blocked group whose condition holds continues. -/
def execWaitWake (core : CoreId) (slot : SlotId) (s : State) : Host.Outcome State Fault Refusal :=
  done <| match s.focus core slot with
  | none => s
  | some t =>
    if t.wakeHolds t.g then
      match t.g.status, t.g.hcall with
      | .blocked (.hcallReply _), some h => match h.reply with
        | some r => t.deliverHcall h r.1 r.2
        | none => s
      | _, _ => t.wake
    else s

/-- The bytes that a peer sends are joined to those that have come; a refusal stands. -/
def joinReply : Option PeerReply → PeerReply → PeerReply
  | some (.data old), .data bs => .data (old ++ bs)
  | _, r => r

/-- What has come before an answer, kept for the case that the answer is a refusal. -/
def Group.beforeReply (g : Group) : List Byte :=
  match g.peerData with
  | some (.data bs) => bs
  | _ => g.peerOld

/-- LOAD_DATA_RETURN (R142, R367): the owner of a peer window answers, and the access is performed. -/
def execLoadDataReturn (core : CoreId) (slot : SlotId) (reply : PeerReply) (s : State) : Host.Outcome State Fault Refusal :=
  done <| if !(s.links.reachesPeers (colDie (coreCol core))) then s else s.modGroup core slot fun g =>
    if g.status = .blocked .peerFetch then { g with status := .ready, fetched := some (joinReply g.fetched reply) }
    else if g.status = .blocked .peerLoad then { g with status := .ready, peerOld := g.beforeReply, peerData := some (joinReply g.peerData reply) }
    else if g.status = .stalled then { g with peerOld := g.beforeReply, peerData := some (joinReply g.peerData reply) }
    else g

/-! ### The waiters of a fault queue -/

/-- Where a recoverable fault is kept. -/
inductive Holder where
  | group (core : CoreId) (slot : SlotId)
  | op (id : Nat)
  | entry (line : LineId) (e : QueueEntry)
  | dep (grid i : Nat)
  | completion (grid : Nat)
  | table (grid : Nat) (core : Option CoreId)
  | signal (j : JournalId)
  deriving DecidableEq, Repr

/-- A waiter: its holder, context and source, and its fault. -/
structure Waiter where
  holder : Holder
  ctx : CtxId
  src : FaultSource
  fault : KeptFault
  deriving DecidableEq, Repr

/-- The source of a held operation's fault (R330). -/
def EngineOp.source (o : EngineOp) : FaultSource :=
  match o.kind with
  | .journalCopy _ _ _ corr _ _ _ => .journal corr
  | _ => .copy o.core o.slot o.pc

/-- The waiters of a column whose faults are kept: groups, operations of engines, but for those of teams that are saved or not yet admitted
again (R332), records at the ports, dependences, completion stores, glyph tables and SIGNALs. -/
def State.waiters (s : State) (col : ColId) : List Waiter :=
  ((s.groups.filter fun g => coreCol g.core == col).map fun g => g.kept.map fun k =>
    (⟨.group g.core g.slot, ((s.teamOf g.team).getD Team.none).ctx, .group g.core g.slot g.pc, k⟩ : Waiter)).flatten ++
  (s.ops.filter fun o => o.col == col && (match s.teamOf o.team with
    | some t => t.place != .saved && t.place != .waiting
    | none => true)).filterMap (fun o => o.held.map fun k => ⟨.op o.id, o.ctx, o.source, k⟩) ++
  ((List.finRange 8).map fun l => ((s.cols.get col).lines.get l).queue.filterMap fun e =>
    e.held.map fun k => (⟨.entry l e, e.ctx, .port e.record, k⟩ : Waiter)).flatten ++
  ((s.grids.filter fun x => x.col == col).map fun x =>
    x.depWait.map (fun w => (⟨.dep x.id w.1, x.ctx, .port x.record, w.2⟩ : Waiter)) ++
    x.doneWait.toList.map fun k => ⟨.completion x.id, x.ctx, .port x.record, k⟩).flatten ++
  (s.grids.map fun x => (x.loadWait.filter fun w => (w.1.map coreCol).getD x.col == col).map fun w =>
    (⟨.table x.id w.1, x.ctx, .port x.record, w.2⟩ : Waiter)).flatten ++
  (List.finRange 65).filterMap fun j =>
    if s.journalCol j = col then (s.jrns.get j).signal.bind fun x => x.2.2.2.2.map fun k =>
      (⟨.signal j, journalCtx j, .journal x.2.2.2.1, k⟩ : Waiter) else none

/-- A waiter's fault changed where it is kept. -/
def State.setFault (s : State) (col : ColId) (h : Holder) (old new : KeptFault) : State :=
  match h with
  | .group core slot => s.modGroup core slot fun g => { g with kept := updWhere (fun k => k == old) (fun _ => new) g.kept }
  | .op id => s.modOp id fun o => { o with held := some new }
  | .entry l e => s.modLine col l fun x => x.setEntry { e with held := some new }
  | .dep grid i => s.modGrid grid fun x => { x with depWait := updWhere (fun w => w.1 == i) (fun w => (w.1, new)) x.depWait }
  | .completion grid => s.modGrid grid fun x => { x with doneWait := some new }
  | .table grid core => s.modGrid grid fun x => { x with loadWait := updWhere (fun w => w.1 == core) (fun w => (w.1, new)) x.loadWait }
  | .signal j => s.modJrn j fun x => { x with signal := x.signal.map fun y => (y.1, y.2.1, y.2.2.1, y.2.2.2.1, some new) }

/-- A fault of a group served (R331 step 4): the group issues again; under status 1 the access meets the outcome that is not
recoverable. -/
def Group.serveFault (k : KeptFault) (refused : Bool) (g : Group) : Group :=
  { g with kept := updWhere (fun x => x == k) (fun x => { x with refused := refused }) g.kept
           status := if g.status = .blocked .fault then .ready else g.status }

/-- A fault of an operation refused (R331): the copy stops with ERRCODE 1; a done word that cannot be written is reported. -/
def State.refuseOp (s : State) (o : EngineOp) (va : Nat) : State :=
  match o.kind with
  | .journalCopy _ j _ corr _ _ _ =>
    (if o.total ≤ o.pos then (s.dropOp o.id).report (jrnIncident .signalFault o.ctx corr va)
      else s.journalStops o 1 va [o.incident .copyFault va]).acceptBads j
  | _ => s.copyStops o 1 va [o.incident .copyFault va]

/-- A record of a port whose fault is refused (R331, R221). -/
def State.refuseEntry (s : State) (col : ColId) (l : LineId) (e : QueueEntry) : State :=
  s.rejectRecord col l e (if e.bytes.isEmpty then none else some 0xF0) []

/-- A waiter served (R331 step 4). -/
def State.serve (s : State) (col : ColId) (refused : Bool) (w : Waiter) : State :=
  let va := w.fault.va.toNat
  match w.holder with
  | .group core slot => s.modGroup core slot (Group.serveFault w.fault refused)
  | .op id => match s.ops.find? fun o => o.id == id with
    | some o => if refused then s.refuseOp o va else s.modOp id fun x => { x with held := none }
    | none => s
  | .entry l e => if refused then s.refuseEntry col l e else s.modLine col l fun x => x.setEntry { e with held := none }
  | .dep grid i => match s.gridOf grid with
    | some x =>
      if refused then s.rejectGrid x (0x50 + 16 * i) []
      else s.modGrid grid fun y => { y with depWait := y.depWait.filter fun d => d.1 != i }
    | none => s
  | .completion grid => match s.gridOf grid with
    | some x => if refused then s.completionFails x [] else s.modGrid grid fun y => { y with doneWait := none }
    | none => s
  | .table grid core => match s.gridOf grid with
    | some x =>
      let t := s.modGrid grid fun y => { y with loadWait := y.loadWait.filter fun w => w.1 != core }
      if refused then t.tableFails x core else t
    | none => s
  | .signal j => match (s.jrns.get j).signal with
    | some (a, value, add, corr, _) =>
      (if refused then (s.report (jrnIncident .signalFault w.ctx corr va)).modJrn j fun x => { x with signal := none }
        else s.signal j a value add corr).acceptBads j
    | none => s

/-- FQDONE_WRITE (R329, R331, R332): a slot already done is ignored; else every waiter of its record is served. -/
def execFqdoneWrite (col : ColId) (value : BitVec 64) (s : State) : Host.Outcome State Fault Refusal :=
  done <| s.pageWrite fun s =>
    let c := s.cols.get col
    let slot := value.toNat % 4096
    match c.fq.find? fun r => !r.done && (r.record.map fun k => k % 2 ^ c.fqLog.toNat) == some slot with
    | none => s
    | some r =>
      let k := r.record.getD 0
      let refused := s.physNat (c.fqSlot k + 0x24) 4 == 1
      let s1 := s.modCol col fun x => { x with fq := updWhere (fun y => y.record == r.record) (fun y => { y with done := true }) x.fq }
      ((s.waiters col).filter fun w => w.fault.record == r.record).foldl (fun (t : State) w => t.serve col refused w) s1

/-- A fault that waits for room enters the queue, if there is room or a record that covers it (R331 step 2). -/
def State.enterQueue (s : State) (col : ColId) (w : Waiter) : State :=
  let (k, t) := s.raiseFault col w.src w.ctx w.fault.va w.fault.access w.fault.level
  t.setFault col w.holder w.fault k

/-- The faults of a column that wait for room, or for the line of a slot, enter the queue where they can (R331, R364, R370). -/
def State.queueFaults (s : State) (col : ColId) : State :=
  ((s.waiters col).filter fun w => w.fault.record.isNone).foldl (fun (t : State) w => t.enterQueue col w) s

/-- FQHEAD_WRITE (R329, R331): records behind it are gone, and faults that wait for room enter the queue. -/
def execFqheadWrite (col : ColId) (value : BitVec 64) (s : State) : Host.Outcome State Fault Refusal :=
  done <| s.pageWrite fun s =>
    let head := value.extractLsb' 0 32
    (s.modCol col fun c => { c with
      fqHead := head
      fq := c.fq.filter fun r => !(r.done && (c.fqTail - head).toNat < (c.fqTail - BitVec.ofNat 32 (r.record.getD 0)).toNat) }).queueFaults col

end Sys2Proof.Machine
end

