-- ==== Sys2Proof/Machine/Save.lean ====
section
/-! DEFINITION. Saving teams (R234, R333 to R336): the save area, TEAM_SAVE, the deadline and the watchdog (R236). -/
namespace Sys2Proof.Machine
set_option Elab.async false

/-! ### The save area -/

/-- A number of bytes aligned to 256 (R334). -/
def align256 (n : Nat) : Nat := (n + 255) / 256 * 256

/-- Base and size of the save area of a context (R333). -/
def State.saveBase (s : State) (c : CtxId) : Nat := s.dev.saveBase.toNat * 2 ^ 16 + 2 ^ 16 * s.dev.saveSz.toNat * c.val
def State.saveSize (s : State) : Nat := 2 ^ 16 * s.dev.saveSz.toNat

/-- A record of the save area: the pieces that the spec places, over bytes that it leaves open. -/
def layRecord (tick start size : Nat) (known : List (Nat × List Byte)) : List Byte :=
  tabList (fun i => match known.find? fun k => k.1 ≤ i && i < k.1 + k.2.length with
    | some k => k.2.getD (i - k.1) 0
    | none => Config.saveByte tick (start + i)) 0 size

/-- Numbers as consecutive 64-bit words. -/
def words64 (l : List Nat) : List Byte := (l.map (leBytes 8)).flatten

/-- The kind of a wake condition (R335). -/
def Status.wakeKind : Status → Nat
  | .blocked (.stopped _) => 1
  | .blocked (.point _ _) => 2
  | .blocked (.waity _ _ _) => 3
  | .blocked (.gridPoint _ _ _) => 4
  | .blocked .hcallSend => 5
  | .blocked (.hcallReply _) => 6
  | .blocked .peerLoad | .blocked .peerFetch => 7
  | .blocked .fault => 8
  | _ => 1

/-- The lanes of LIVE of a register, and zero elsewhere (R335). -/
def liveLanes {w : Nat} (live : Word) (r : Vector (BitVec w) 64) : Vector (BitVec w) 64 :=
  tab 64 fun L => if bit live L then at0 r L else 0

/-- Bytes of a saved group (R335). -/
def Group.saveSize (g : Group) : Nat := 2048 + 256 * g.vBud + 768 * g.aBud

/-- The operands of a wake condition (R335): point, token and continuation; grid point and A; record index. -/
def Group.wakeOperands (g : Group) (gvA : List Nat) : List Nat :=
  let b := fun (x : Bool) => if x then 1 else 0
  match g.status with
  | .blocked (.point pt token) => [pt, b token]
  | .blocked (.waity pt token cont) => [pt, b token, cont.toNat]
  | .blocked (.gridPoint gv _ _) => [gv, gvA.getD gv 0]
  | .blocked (.hcallReply k) => [k]
  | _ => []

/-- What R335 places of a group record, its registers as they are saved. DESIGN CHOICE (log entry 92): inside a wake condition, a kept
fault, a mark and the last words of an HCALL the spec gives an order and no offsets; every operand takes 8 bytes, the service and the status
4. -/
def Group.savePieces (g : Group) (gvA : List Nat) : List (Nat × List Byte) :=
  let regs := (tabList (fun i => leBytes 4 (at0 (g.vReg (i / 64)) (i % 64)).toNat) 0 (64 * g.vBud)).flatten
  let accs := (tabList (fun i => leBytes 12 (g.acc (i / 64) (i % 64)).toNat) 0 (64 * g.aBud)).flatten
  [(0x000, words64 (g.s.toList.map (·.toNat))), (0x200, words64 (tabList (fun i => (g.pReg (BitVec.ofNat 4 i)).toNat) 0 16)),
   (0x280, words64 [g.pc.toNat, g.md.toNat, g.fl.toNat, g.live.toNat, g.gstat.toNat, g.spillBase.toNat, g.tcause.toNat,
     g.taddr.toNat, g.tmask.toNat, g.tpc.toNat, g.tstep.toNat, g.tmd.toNat]),
   (0x2E0, words64 ((g.rs.map (·.toNat)) ++ List.replicate (16 - g.rs.length) 0)),
   (0x360, words64 (g.status.wakeKind :: g.wakeOperands gvA)),
   (0x3A0, leBytes 8 (match g.glyphResume with
     | some (_, k) => k
     | none => 0)),
   (0x3A8, words64 (match g.imprecise with
     | some va => [1, va.toNat]
     | none => [0, 0])),
   (0x800, regs), (0x800 + 256 * g.vBud, accs)] ++
  (g.kept.take 1).map (fun k => (0x380, words64 [k.va.toNat, k.access, k.record.getD (2 ^ 64 - 1)])) ++
  (g.hcall.toList.map fun r =>
    [(0x400, (r.requests.toList.map fun x => leBytes 8 x.toNat).flatten),
     (0x700, leBytes 4 r.service.toNat ++ leBytes 4 ((r.reply.map fun x => x.1.toNat).getD 0) ++ leBytes 8 r.mask.toNat)]).flatten ++
  (g.hcall.bind (·.reply)).toList.map fun r => (0x600, (r.2.map fun x => leBytes 4 x.toNat).flatten)

/-- The kind of a team's record (R334): a team dropped to start again, a team that waits for its first admission, or one at work. -/
def Team.recordKind (t : Team) : Nat := if !t.fresh then 0 else if t.again then 2 else 1

/-- The code of a space (R68). -/
def Space.code : Space → Nat
  | .global => 0
  | .scratch => 1
  | .vault => 2
  | .slice => 3

/-- The held copies of a team (R173, R334). -/
def State.heldCopies (s : State) (t : Team) : List EngineOp := s.ops.filter fun o => o.team == t.id && o.held.isSome

/-- A held copy in 64 bytes (R334): source, destination and length of what is left, the spaces, the point. DESIGN CHOICE (log entry 92): in
this order, 8 bytes each; of a box or of pieces the next byte's source and destination. -/
def EngineOp.heldBytes (o : EngineOp) : List Byte :=
  match o.kind with
  | .copy c =>
    let b := c.byteAt o.pos
    words64 [b.2.2, b.1.2, o.total - o.pos, b.2.1.code, b.1.1.code, o.point, 0, 0]
  | _ => words64 [0, 0, 0, 0, 0, 0, 0, 0]

/-- A macro in 4,608 bytes (R334, R177): cells, eB and scale of each K-block column, the format record. DESIGN CHOICE (log entry 92): cells
of the record's width, eB in 2 bytes and the scale in 1, the record's code, width and validity in 3. -/
def Macro.saveBytes (m : Macro) : List Byte :=
  let wide := (m.fmt.map (·.2)).getD false
  let w := if wide then 2 else 1
  let code := fun (x : Int) (k : Nat) => leBytes k (intBits (8 * k) x)
  (tabList (fun i => code (m.cells.getD i 0) w) 0 (4096 / w)).flatten ++
  (tabList (fun j => let c := m.cols.getD j KCol.reset; code c.eB 2 ++ [c.scale]) 0 128).flatten ++
  (match m.fmt with
    | some (f, x) => [f, if x then 1 else 0, 1]
    | none => [0, 0, 0]) ++ List.replicate 125 0

/-- The words of a team's header (R334), in the order in which the spec names them. DESIGN CHOICE (log entry 92): 8 bytes each. -/
def Team.headerWords (t : Team) (l : Launch) (index : Nat) : List Nat :=
  let roles := l.roles t.spawned
  [index, t.value.toNat, t.col.val, t.core.val, roles.length] ++ [Role.copy, .matrix, .epilogue, .general].map roles.count ++
    l.vBud ++ l.aBud ++ [l.scratch, l.macros, l.points, l.flags.toNat] ++ tabList (fun i => t.gvA.getD i 0) 0 4 ++
    [t.redispatch, t.recordKind]

/-- Where the scratchpad bytes of a team stand in its record (R334). -/
def State.scratchPlace (s : State) (t : Team) : Nat := 512 + 24 * 16 + 4608 * t.macros.length + 64 * (s.heldCopies t).length

/-- Bytes of a team's record (R334): a team that starts afresh carries only its header. -/
def State.teamSaveSize (s : State) (t : Team) : Nat :=
  if t.fresh then 512
  else
    let l := ((s.gridOf t.grid).getD Grid.none).launch
    align256 (s.scratchPlace t + 4096 * l.scratch + (t.groups.map Group.saveSize).foldl (· + ·) 0)

/-- The grids of a context, in the order of their records. -/
def State.gridsOf (s : State) (c : CtxId) : List Grid := s.grids.filter fun x => x.ctx == c

/-- The place of a grid's record among those of its context. -/
def State.gridIndex (s : State) (c : CtxId) (grid : Nat) : Nat := ((s.gridsOf c).findIdx? fun x => x.id == grid).getD 0

/-- The record of a team at a place of the save area (R334). -/
def State.teamRecord (s : State) (start : Nat) (t : Team) : List Byte :=
  let size := s.teamSaveSize t
  let l := ((s.gridOf t.grid).getD Grid.none).launch
  let head := (0, words64 (t.headerWords l (s.gridIndex t.ctx t.grid)))
  if t.fresh then layRecord s.tick start size [head]
  else
    let points := (t.points.map fun p => leBytes 8 p.status.toNat ++ leBytes 8 p.erraddr.toNat).flatten
    let macros := (t.macros.map Macro.saveBytes).flatten
    let held := ((s.heldCopies t).map EngineOp.heldBytes).flatten
    let scratchAt := s.scratchPlace t
    let place := t.groups.foldl (fun (acc : Nat × List (Nat × List Byte)) g =>
      (acc.1 + g.saveSize, acc.2 ++ (g.savePieces t.gvA).map fun k => (acc.1 + k.1, k.2))) (scratchAt + 4096 * l.scratch, [])
    layRecord s.tick start size
      ([head, (512, points), (896, macros), (896 + macros.length, held),
        (scratchAt, cellsRead s.mem.base s.mem.cells (scratchLoc t.id 0) (4096 * l.scratch))] ++ place.2)

/-- Bytes of a bin's record (R334). -/
def SpawnBin.saveSize (b : SpawnBin) : Nat := align256 (0x18 + 16 * b.records.length)

/-- The record of a bin (R334). -/
def State.binRecord (s : State) (start : Nat) (b : ColId × SpawnBin) : List Byte :=
  layRecord s.tick start b.2.saveSize
    [(0, leBytes 4 b.1.val ++ leBytes 4 b.2.records.length ++ leBytes 8 b.2.entry.toNat ++ leBytes 8 (s.gridIndex b.2.ctx b.2.grid)),
     (0x18, (b.2.records.map fun r => (r.map fun x => leBytes 4 x.toNat).flatten).flatten)]

/-- The bins of a context: saved ones, then those that stand in the columns. -/
def State.binsOf (s : State) (c : CtxId) : List (ColId × SpawnBin) :=
  (s.savedBins.filter fun b => b.2.ctx == c) ++
    ((List.finRange 64).map fun col => ((s.cols.get col).bins.filter fun b => b.ctx == c).map fun b => (col, b)).flatten

/-- What the retirement counter of a grid counts (R230): launched and spawned teams that have not retired, and records in bins. -/
def State.retireCount (s : State) (x : Grid) : Nat :=
  (x.launch.teams - x.next) + (s.teams.filter fun t => t.grid == x.id).length +
    (((s.binsOf x.ctx).filter fun b => b.2.grid == x.id).map fun b => b.2.records.length).foldl (· + ·) 0

/-- The record of a grid (R334). DESIGN CHOICE (log entry 92): a port is 8 times its column plus its line, and the schedule state is the
table, the prediction of the selector as a fraction, its time base, and for each column its last measured time in 2 bytes, in µs. -/
def State.gridRecord (s : State) (start : Nat) (x : Grid) : List Byte :=
  let sel := x.selector
  let (n, d) := sel.predicted.getD (0, 0)
  let times := ((List.finRange 64).map fun c => leBytes 2 (satNat ((sel.measured.lookup c).getD 0 / 1000) (2 ^ 16 - 1))).flatten
  layRecord s.tick start 256
    ([(0, words64 [x.record.toNat, 8 * x.col.val + x.line.val, s.retireCount x]), (0x60, words64 [sel.table, n, d, sel.base]), (0x80, times)] ++
      ((List.range 4).map fun i => let v := x.gvs.getD i ⟨0, 0, []⟩; (0x20 + 16 * i, leBytes 4 v.count ++ leBytes 4 v.done)))

/-- The teams of a context that its save area holds: saved ones, then those that wait for admission (R231, R334). -/
def State.savedOf (s : State) (c : CtxId) : List Team :=
  (s.teams.filter fun t => t.ctx == c && t.place == .saved) ++ s.teams.filter fun t => t.ctx == c && t.place == .waiting

/-- The save area of a context as the state stands (R334): grids, bins and teams, under the header. -/
def State.saveArea (s : State) (c : CtxId) : List Byte :=
  let grids := s.gridsOf c
  let bins := s.binsOf c
  let teams := s.savedOf c
  let add := fun (f : Nat → List Byte) (acc : List Byte) => acc ++ f (256 + acc.length)
  let body := teams.foldl (fun acc t => add (fun at' => s.teamRecord at' t) acc)
    (bins.foldl (fun acc b => add (fun at' => s.binRecord at' b) acc)
      (grids.foldl (fun acc x => add (fun at' => s.gridRecord at' x) acc) []))
  words64 [teams.length, 256 + body.length, grids.length, bins.length, (teams.filter fun t => t.recordKind == 1).length] ++
    List.replicate 216 0 ++ body

/-- The save area written (R334). -/
def State.writeArea (s : State) (c : CtxId) : State :=
  let t := s.physWrite (s.saveBase c) (s.saveArea c)
  { t with tick := t.tick + 1 }

/-! ### Teams -/

/-- A group stands where it can be saved (R233, R234). -/
def Group.atPoint (g : Group) : Bool :=
  match g.status with
  | .blocked _ | .ended | .halted => true
  | _ => false

/-- A group as it is saved (R335): glyph left at its step, lanes outside LIVE zero, its wake condition immediate where it stands at no
blocking point, or the context has stopped (R312). DEDUCED (log entry 93): the instruction at which a stopped group waits has issued; it is
not repeated (R336), and waits on. -/
def Group.saved (g : Group) (stopped : Bool) : Group :=
  let x := g.leaveGlyph
  { x with v := x.v.map (liveLanes x.live), a := x.a.map (liveLanes x.live)
           status := match x.status with
             | .blocked w => if stopped then .blocked (.stopped w) else .blocked w
             | .ended => .ended
             | .halted => .halted
             | _ => .blocked .immediate
           aged := false, yieldHold := false, alReads := [], peerData := none, fetched := none }

/-- No copy, load or matrix operation of a team runs; held copies do not count (R173, R234). -/
def State.quiet (s : State) (t : Team) : Bool := !(s.ops.any fun o => o.team == t.id && (o.held.isNone || s.copyPending o.id))

/-- Every group of a team has ended or stands at a blocking point, and nothing of it runs (R234). -/
def State.canSave (s : State) (t : Team) : Bool :=
  t.place == .resident && s.quiet t && s.groups.all fun g => g.team != t.id || g.atPoint

/-- A team dropped from its core, to start again from its entry when it is admitted next, in its column (R234, R338). -/
def State.discard (s : State) (t : Team) (place : Place) (cause : Option Word) : State :=
  let i := ({ IncCode.versionDiscarded.entry with detail := discardDetail 3 t.value }.atCol t.col).ofCtx t.ctx
  let s1 := (s.report (match cause with
    | some root => i.after root
    | none => i)).redispatch t.id
  s1.modTeam t.id fun x => { x with place := place, bound := true }

/-- A team saved and its resources freed (R336): the release, the accumulators read, the groups kept; the uncommitted version of a
VERSIONED team is discarded instead (R338). -/
def State.saveTeam (s : State) (t : Team) : State :=
  let s1 := s.releaseSoon t.core .dev
  if t.version.isSome then s1.discard t .saved none
  else
    let mine := fun (g : Group) => g.team == t.id
    let stopped := (s.ctxs.get t.ctx).phase == .stopped
    let s2 := (if mine s1.g then s1.drainMmas else s1).drainOthers mine
    let groups := (s2.groups.filter mine).map fun g => g.soundAccs t.ctx 0 64 g.live
    let sorted := (List.range 16).filterMap fun i => (groups.find? fun g => g.1.index == i).map (·.1)
    let s3 := State.reportAll (groups.map (·.2)).flatten s2
    let s4 := s3.modTeam t.id fun x =>
      { x with place := .saved, fresh := false, bound := true, units := [], groups := sorted.map fun g => g.saved stopped }
    (s4.dropGroups t.id).freeGlyphs t.ctx t.core

/-- A context stopped (R234, R312): nothing is discarded. -/
def State.stopCtx (s : State) (c : CtxId) : State :=
  (s.modCtx c fun x => { x with phase := .stopped }).publishCtx c

/-- A context whose last team is saved: its bins are kept with it, and it is SAVED (R231, R312). -/
def State.finishSave (s : State) (c : CtxId) : State :=
  if s.teams.any fun t => t.ctx == c && t.place == .resident then s
  else
    let kept := s.binsOf c ++ s.savedBins.filter fun (b : ColId × SpawnBin) => b.2.ctx != c
    let emptied := s.cols.map fun x => { x with bins := x.bins.filter fun b => b.ctx != c }
    let s1 : State := { s with savedBins := kept, cols := emptied }
    (s1.modCtx c fun x => { x with phase := .saved }).publishCtx c

/-- Teams saved one set after the other, those of a set together, as long as the area holds them (R333, R234); else the context stops with
what is saved so far. A set waits until what the release of its teams sends on is performed, and until the lines of the area are open (R336,
R364, R370); the answer says whether all is done. -/
def State.saveSets (c : CtxId) : List (List Team) → State → State × Bool
  | [], s => (s.finishSave c, true)
  | set :: rest, s =>
    let s1 := set.foldl (fun (u : State) t => u.sendOn t.core .dev) s
    let t := set.foldl State.saveTeam s1
    let len := (t.saveArea c).length
    if !(set.all fun t => s1.performedBy t.core .dev) then (s1, false)
    else if s.saveSize < len then
      ((s1.report { IncCode.saveAreaFull.entry.ofCtx c with detail := BitVec.ofNat 64 (s.saveArea c).length }).stopCtx c, true)
    else if s1.devOpen (s.saveBase c) len then State.saveSets c rest (t.writeArea c)
    else (s1.devReady (s.saveBase c) len, false)

/-- A context that is being saved and has no team at work any more is SAVED (R312). -/
def State.saveEnds (s : State) (c : CtxId) : State :=
  if (s.ctxs.get c).phase = .saving && !(s.teams.any fun t => t.ctx == c && t.place == .resident) then (State.saveSets c [[]] s).1 else s

/-- The teams saved with a team: those of its COHORT grid (R234). -/
def State.cohortOf (s : State) (t : Team) : List Team :=
  let x := (s.gridOf t.grid).getD Grid.none
  if x.launch.cohort && !t.spawned then s.teams.filter fun u => u.grid == t.grid && !u.spawned && u.place == .resident else [t]

/-- The teams of a context that hold a core, in the sets that are saved together. -/
def State.residentSets (s : State) (c : CtxId) : List (List Team) :=
  (s.teams.filter fun t => t.ctx == c && t.place == .resident).filterMap fun t =>
    let set := s.cohortOf t
    if (set.head?.map (·.id)) == some t.id then some set else none

/-- TEAM_SAVE (R234, R333 to R336, R338); a context whose last team has gone in another way meanwhile is SAVED too (R312). -/
def execTeamSave (team : Nat) (s : State) : Host.Outcome State Fault Refusal :=
  done <|
    let t := match s.teamOf team with
      | some t =>
        let all := s.cohortOf t
        if (s.ctxs.get t.ctx).phase = .saving && t.place == .resident && all.all s.canSave then (State.saveSets t.ctx [all] s).1 else s
      | none => s
    (List.finRange 64).foldl State.saveEnds t

/-- END (R100, R229): waits for the group's asynchronous operations, and the last group of a team with children for a pending-retire
record; the last team of a context that is being saved ends the saving (R312). -/
def execEndGroup (s : State) : Host.Outcome State Fault Refusal :=
  finish s do
    let s0 := s.drainMmas
    if s0.asyncOf s0.g then .error (.wait s0.stallHere)
    else
      let s1 : State := { s0 with g := { s0.g.settled with status := .ended } }
      let t := s1.team
      if !(s1.teamDone t.id) then .ok s1
      else if t.children ≠ 0 && 1024 ≤ (s1.cols.get t.col).retiring.length then .error (.wait s0.stallHere)
      else .ok ((s1.releaseTeam t.id).saveEnds t.ctx)

/-! ### The deadline and the watchdog -/

/-- The groups of a context. -/
def State.groupsOf (s : State) (c : CtxId) : List Group :=
  s.groups.filter fun g => ((s.teamOf g.team).getD Team.none).ctx == c

/-- PREEMPT_DEADLINE (R234): the context stops, and enters the error state. DESIGN CHOICE (log entry 130): the first group that is not at a
blocking point is the first in the order of `State.groups`, the issuing group before the others. -/
def execPreemptDeadline (ctx : CtxId) (s : State) : Host.Outcome State Fault Refusal :=
  done <|
    if (s.ctxs.get ctx).phase = .saving then
      let i := IncCode.preemptDeadline.entry.ofCtx ctx
      let j := match (s.groupsOf ctx).find? fun g => !g.atPoint with
        | some g => { i.byGroup g with detail := g.pc }
        | none => i
      ((s.report j).stopCtx ctx).errorState ctx
    else s

/-- A group waits at a blocking point of class internal (R233). -/
def State.waitsInside (s : State) (g : Group) : Bool :=
  let t := (s.teamOf g.team).getD Team.none
  match g.status with
  | .blocked (.point pt _) | .blocked (.waity pt _ _) => !(t.point pt).ext
  | .blocked (.gridPoint _ _ _) | .blocked .earlyCommit => true
  | _ => false

/-- A group waits at a blocking point. -/
def Group.waits (g : Group) : Bool :=
  match g.status with
  | .blocked _ => true
  | _ => false

/-- The record of a waiting group of a deadlocked context (R236, R390). -/
def deadlockIncident (c : CtxId) (g : Group) : Incident :=
  { (IncCode.contextDeadlock.entry.byGroup g).ofCtx c with detail := trapDetail g.status.wakeKind g.pc }

/-- The watchdog interval of a context, in nanoseconds (R236, R310). -/
def Ctx.watchdog (c : Ctx) : Nat := 1000000 * (if c.wdog = 0 then 500 else c.wdog)

/-- No group of a context that is watched has issued for the whole interval (R236). -/
def State.silent (s : State) (c : CtxId) : Bool :=
  let x := s.ctxs.get c
  (x.phase == .running || x.phase == .saving) && x.issuedAt + x.watchdog ≤ s.ptp.toNat

/-- DEADLOCK_WATCHDOG (R236): a silent context with a group that waits on an internal source is stopped; any other with a group at work, or
a team that waits for admission, is reported once. Held copies wait on external sources (R233). -/
def execDeadlockWatchdog (ctx : CtxId) (s : State) : Host.Outcome State Fault Refusal :=
  done <|
    let groups := s.groupsOf ctx
    let waiting := groups.filter Group.waits
    let x := s.ctxs.get ctx
    if !(s.silent ctx) then s
    else if waiting.any s.waitsInside then
      let s1 := State.reportAll ((waiting.take 64).map (deadlockIncident ctx)) s
      let s2 := s1.report { IncCode.contextDeadlock.entry.ofCtx ctx with detail := BitVec.ofNat 64 (waiting.length - 64) }
      (s2.stopCtx ctx).errorState ctx
    else if (!groups.isEmpty || s.teams.any (fun t => t.ctx == ctx && t.place == .waiting) ||
        s.grids.any fun y => y.ctx == ctx && y.stage == .offered) && x.idleStamp != some x.issuedAt then
      (s.modCtx ctx fun y => { y with idleStamp := some y.issuedAt }).report (IncCode.contextIdleExternal.entry.ofCtx ctx)
    else s

end Sys2Proof.Machine
end

