-- ==== Sys2Proof/Machine/Fencing.lean ====
section
/-! DEFINITION. Fencing a column (R339, R340, R277, R379): what its cores, slice and vault lose, and what becomes of its teams. -/
namespace Sys2Proof.Machine
set_option Elab.async false

/-- A record of a chain written: the first stands alone, every later one names it (R387). -/
def State.chained (s : State) (root : Option Word) (i : Incident) : Option Word × State :=
  match root with
  | some r => (root, s.report (i.after r))
  | none => let t := s.report i; (some t.lastSeq, t)

/-- Records of one chain in order. -/
def State.chainAll : List Incident → Option Word → State → Option Word × State
  | [], root, s => (root, s)
  | i :: r, root, s => let (root', t) := s.chained root i; State.chainAll r root' t

/-! ### Cores and slice -/

/-- The column has fallen out of service: its cores stop, and their unreleased L1 contents and buffered reductions are gone (step
1 of R339). -/
def State.stopCores (s : State) (col : ColId) : State :=
  let s1 := s.modCol col fun c => { c with fenced := true }
  (List.finRange 4).foldl (fun (t : State) k => t.modCore (colCore col k) fun c => { c with
    l1 := [], comb := [], consts := [], headHold := none }) s1

/-- The request was made for a group of the column, or for a copy of such a group, and is lost with it (R277). -/
def State.lostAgent (s : State) (col : ColId) (a : AlAgent) : Bool :=
  match a with
  | .group core _ _ => coreCol core == col
  | .nobody => false
  | .engine id => s.ops.any fun o => o.id == id && o.col == col && o.onCore.isSome
  | .hostCore _ => false

/-- The units of a message that come home in the column's FLUSH: those of a lost request, those of another FLUSH, and a top-up that is on its
way to the column (R277). -/
def State.lostUnits (s : State) (col : ColId) (m : AlMsg) : Option Nat :=
  match m.body with
  | .req r u => if m.src = col && s.lostAgent col r.agent then some u else none
  | .flush u => if m.src = col then some u else none
  | .grant _ _ t _ => if m.dst = col && t ≠ 0 then some t else none
  | _ => none

/-- A message as it stays in flight when a column is fenced: a grant without its top-up; nothing of a lost request or of a FLUSH. -/
def State.leftOf (s : State) (col : ColId) (m : AlMsg) : Option AlMsg :=
  match s.lostUnits col m, m.body with
  | some _, .grant a r _ cap => some { m with body := .grant a r 0 cap }
  | some _, _ => none
  | none, _ => some m

/-- The objects for which a column owes its home a FLUSH: those of its table, those with units or gives under way, and those of rounds that
wait for it (R277). -/
def State.owed (s : State) (col : ColId) : List Nat :=
  let waits := fun (o : AlObject) => match o.mode with
    | .recalling missing => missing.contains col
    | _ => false
  let gives := fun (m : AlMsg) => m.src == col && (match m.body with
    | .give _ _ => true
    | _ => false)
  (((s.cols.get col).alTable.map (·.obj)) ++ ((s.msgs.filter fun m => (s.lostUnits col m).isSome || gives m).map (·.obj)) ++
    ((s.objs.filter waits).map (·.obj))).eraseDups

/-- The allowance state of a column sent home in one FLUSH per object, behind every message that is under way, and its lost requests
removed from the queues of the homes (R277). Its gives stay under way: units of a give in state HOLD are linearised already (R274). -/
def State.flushColumn (s : State) (col : ColId) : State :=
  let units := fun (obj : Nat) =>
    (((s.msgs.filter fun m => m.obj == obj).filterMap (s.lostUnits col)).foldl (· + ·) 0) +
      (((s.cols.get col).alEntry obj).map (·.units)).getD 0
  let queue := fun (o : AlObject) => { o with queue := o.queue.filter fun r => !(r.col == col && s.lostAgent col r.agent) }
  let s1 : State := { s with msgs := s.msgs.filterMap (s.leftOf col), objs := s.objs.map queue }
  let s2 := s1.modCol col fun c => { c with alTable := [], alRounds := [] }
  (s.owed col).foldl (fun (t : State) obj => t.sendAl col (objHome obj) obj (.flush (units obj))) s2

/-- Scope marks that groups of the column hold are cleared (R262, step 2 of R339). -/
def State.clearMarks (s : State) (col : ColId) : State :=
  { s with mem := { s.mem with marks := s.mem.marks.filter fun m => coreCol m.holder.core != col } }

/-- The slice scratch is gone, the grant is released, and the slice is a cache of 16 ways (step 3 of R339). -/
def State.emptySlice (s : State) (col : ColId) : State :=
  (s.resizeWays col 0 16).modCol col fun c => { c with waysPend := none, waysBy := none, waysQueue := [], replicas := [], pageReads := [] }

/-! ### The vault -/

/-- The valid entries of a page table: their indices and values. -/
def State.tableEntries (s : State) (base : Nat) : List (Nat × Word) :=
  (List.range 8192).filterMap fun i =>
    let e := BitVec.ofNat 64 (s.physNat (base + 8 * i) 8)
    if e.getLsbD 0 then some (i, e) else none

/-- The tables that a table of a level points to, with the index of the pages behind each. -/
def State.nextTables (s : State) (level : Nat) (t : Nat × Nat) : List (Nat × Nat) :=
  (s.tableEntries t.2).filterMap fun e => match pteKind level e.2 with
    | .pointer b => some (8192 * t.1 + e.1, b)
    | _ => none

/-- The HOME 4 pages of a context in the vault of a column: virtual address, and aperture address of the frame. -/
def State.vaultPages (s : State) (col : ColId) (c : CtxId) : List (Nat × Nat) :=
  let tables := ((s.nextTables 0 (0, (s.ctxs.get c).ptroot.toNat)).map (s.nextTables 1)).flatten
  (tables.map fun t => (s.tableEntries t.2).filterMap fun e =>
    let n := e.2.toNat
    if pteKind 2 e.2 = .page && field n 5 3 == 4 && field n 44 8 == col.val then
      some (65536 * (8192 * t.1 + e.1), vaultLoc col (65536 * field n 16 13))
    else none).flatten

/-- The records of the vault pages that contexts lose with a column (step 4 of R339). -/
def State.pagesLost (s : State) (col : ColId) : List Incident :=
  (((List.finRange 64).filter fun c => (s.ctxs.get c).phase != .free).map fun c => (s.vaultPages col c).map fun p =>
    ((((IncCode.vaultPageLost.entry.atCol col).byEngine 5).ofCtx c).withVa (BitVec.ofNat 64 p.1)).withPa p.2).flatten

/-! ### Bins -/

/-- The column that takes the bins and the spawned teams of a fenced one: the lowest unfenced of its die, else of the device (step 5
of R339). -/
def State.heir (s : State) (col : ColId) : Option ColId :=
  let free := (List.finRange 64).filter fun c => !(s.cols.get c).fenced
  (free.find? fun c => colDie c == colDie col) <|> free.head?

/-- Teams formed of a bin while it holds 64 records. -/
def State.formFull (col : ColId) (id : Nat) : Nat → State → State
  | 0, s => s
  | k + 1, s => match (s.cols.get col).bins.find? fun b => b.id == id with
    | some b => if 64 ≤ b.records.length then State.formFull col id k (s.formTeam col b) else s
    | none => s

/-- A bin put into a column: its records join the bin of its key, in order. -/
def State.putBin (s : State) (col : ColId) (b : SpawnBin) : State :=
  let same := fun (x : SpawnBin) => x.ctx == b.ctx && x.grid == b.grid && x.entry == b.entry
  match (s.cols.get col).bins.find? same with
  | some x =>
    let joined := { x with records := x.records ++ b.records }
    (s.modCol col fun c => { c with bins := updWhere (fun y => y.id == x.id) (fun _ => joined) c.bins }).formFull col x.id 8
  | none => s.modCol col fun c => { c with bins := c.bins ++ [b] }

/-- The bins of a fenced column moved (step 5 of R339). -/
def State.moveBins (s : State) (col : ColId) : State :=
  match s.heir col with
  | some dst =>
    let bins := (s.cols.get col).bins
    bins.foldl (fun (t : State) b => t.putBin dst b) (s.modCol col fun c => { c with bins := [] })
  | none => s

/-! ### Teams -/

/-- A team that the fencing of a column concerns (R340): resident there, uncommitted there, saved there, or offered to it (R226). -/
def State.struck (s : State) (col : ColId) (t : Team) : Bool :=
  match t.place with
  | .resident | .saved => t.col == col
  | .pendingRetire => t.col == col && t.version.isSome
  | .waiting => s.offeredTo ((s.gridOf t.grid).getD Grid.none) col t

/-- The launched teams that have not been admitted and wait for a column (R226, R340): the next team of a grid, every team of a COHORT
grid. -/
def State.struckNext (s : State) (col : ColId) (x : Grid) : List Nat :=
  if x.stage = .offered then
    let offered := if x.launch.cohort then tabList id x.next (x.launch.teams - x.next) else [x.next]
    offered.filter fun i => s.preferred x i == some col
  else []

/-- The record of a team lost or re-dispatched (R390). -/
def teamIncident (code : IncCode) (t : Team) (x : Grid) (next : Nat) : Incident :=
  { ((code.entry.atCol t.col).ofCtx t.ctx).withVa x.record with
    detail := BitVec.ofNat 64 (t.value.toNat + 2 ^ 32 * next) }

/-- A team dropped from its column, to start again: a saved one when its context resumes, any other at once; a spawned one in the
column given (R340). -/
def State.restartTeam (s : State) (t : Team) (dst : Option ColId) : State :=
  let s1 := (s.redispatch t.id).modCol t.col fun c => { c with retiring := c.retiring.filter fun x => x != t.id }
  s1.modTeam t.id fun x => { x with
    place := if t.place = .saved then .saved else .waiting, groups := []
    col := if t.spawned then dst.getD t.col else t.col }

/-- A team lost with its column (R340, R193): its grid writes no completion. -/
def State.loseTeam (s : State) (t : Team) (x : Grid) (root : Option Word) : State :=
  let s1 := ((s.chained root (teamIncident .teamLost t x 0)).2).errorState t.ctx
  let s2 := (s1.dropGroups t.id).modGrid t.grid fun y => { y with haltSeen := true }
  { s2 with teams := s2.teams.filter (fun u => u.id != t.id), ops := s2.ops.filter fun o => o.team != t.id }

/-- A team can start again (R337, R340): its version is not committed, or its grid is RESTARTABLE and it has not committed early. -/
def Team.restarts (t : Team) (x : Grid) : Bool :=
  if x.launch.versioned && !t.spawned then t.version.isSome || t.fresh else x.launch.restartable

/-- What becomes of a team of a fenced column (R340). -/
def State.strike (s : State) (root : Option Word) (t : Team) : State :=
  let x := (s.gridOf t.grid).getD Grid.none
  if t.restarts x then
    let dst := s.heir t.col
    let next := if t.spawned then dst else s.preferred x t.value.toNat
    (s.restartTeam t dst).report (match root with
      | some r => (teamIncident .teamRedispatched t x ((next.map (·.val)).getD 0xFF)).after r
      | none => teamIncident .teamRedispatched t x ((next.map (·.val)).getD 0xFF))
  else s.loseTeam t x root

/-- What becomes of a launched team that waited for a fenced column and has not been admitted (R340): it is offered to another, or lost. -/
def State.strikeNext (s : State) (root : Option Word) (col : ColId) (x : Grid) (i : Nat) : State :=
  let t : Team := { x.launched s.fresh i with col := col }
  if t.restarts x then
    (s.chained root (teamIncident .teamRedispatched t x (((s.preferred x i).map (·.val)).getD 0xFF))).2
  else
    let u := s.loseTeam t x root
    if x.launch.cohort then u
    else u.modGrid x.id fun y => { y with
      next := y.next + 1, diverted := false, stage := if y.next + 1 = y.launch.teams then .placed else y.stage }

/-- A launched team that has not been placed and has no column left to run in is lost (R340). -/
def State.loseUnplaced (s : State) (root : Option Word) (x : Grid) : State :=
  if (x.stage == .held || x.stage == .offered) && (s.columnsOf x.ctx x.launch).isEmpty then
    let lost := fun (t : State) (i : Nat) => t.loseTeam { x.launched t.fresh (x.next + i) with col := x.col } x root
    ((List.range (x.launch.teams - x.next)).foldl lost s).modGrid x.id fun y => { y with stage := .placed, next := y.launch.teams }
  else s

/-- A re-dispatched team with no column left to run in is lost. -/
def State.loseStranded (s : State) (root : Option Word) (t : Team) : State :=
  let x := (s.gridOf t.grid).getD Grid.none
  if t.fresh && !t.spawned && t.place == .waiting && (s.columnsOf t.ctx x.launch).isEmpty then s.loseTeam t x root else s

/-! ### The events -/

/-- The value of COLUMN_FENCED's DETAIL (R390). -/
def fenceCode : FenceCause → Nat
  | .vaultBank _ => 1
  | .tsvBundle => 2
  | .computeCore => 3
  | .cracked => 4

/-- The record that the cause of a fencing writes, if it has one of its own (R390). -/
def fenceRecord (col : ColId) : FenceCause → List Incident
  | .vaultBank b => [{ (IncCode.vaultBankLost.entry.atCol col).byEngine 5 with detail := BitVec.ofNat 64 b.val }]
  | _ => []

/-- The records of the versions that a fenced column discards (R338, step 3 of R339). -/
def State.versionsLost (s : State) (col : ColId) : List Incident :=
  ((s.teams.filter (s.struck col)).filter fun t => t.version.isSome).map fun t =>
    { ((IncCode.versionDiscarded.entry.atCol t.col).ofCtx t.ctx) with detail := discardDetail 2 t.value }

/-- The seven steps of R339, with the first record of their chain; the records stand in the order of the steps (R387). -/
def State.fenceSteps (s : State) (col : ColId) (cause : FenceCause) (root : Option Word) : Option Word × State :=
  let s1 := ((s.stopCores col).flushColumn col).clearMarks col |>.emptySlice col
  let (root1, s2) := State.chainAll (fenceRecord col cause ++ s.versionsLost col ++ s.pagesLost col) root s1
  let fenced := { IncCode.columnFenced.entry.atCol col with detail := BitVec.ofNat 64 (fenceCode cause) }
  (s2.moveBins col).chained root1 fenced

/-- What becomes of the teams of a fenced column, of launched teams that waited for it, and of those that have no column left (R340). -/
def State.strikeAll (s : State) (col : ColId) (root : Option Word) (teams : List Team) (next : List (Grid × Nat)) : State :=
  let s1 := teams.foldl (fun (t : State) u => t.strike root u) s
  let s2 := next.foldl (fun (t : State) u => t.strikeNext root col u.1 u.2) s1
  let s3 := s2.teams.foldl (fun (t : State) u => t.loseStranded root u) s2
  s3.grids.foldl (fun (t : State) x => t.loseUnplaced root x) s3

/-- The launched teams that wait for a column and have not been admitted. -/
def State.struckWaiting (s : State) (col : ColId) : List (Grid × Nat) :=
  (s.grids.map fun x => (s.struckNext col x).map fun i => (x, i)).flatten

/-- A column fenced (R339, R340). -/
def State.fence (s : State) (col : ColId) (cause : FenceCause) (root : Option Word) : State :=
  let (first, t) := s.fenceSteps col cause root
  t.strikeAll col first (s.teams.filter (s.struck col)) (s.struckWaiting col)

/-- COLUMN_FENCE (R339, R340). -/
def execColumnFence (col : ColId) (cause : FenceCause) (s : State) : Host.Outcome State Fault Refusal :=
  done (if (s.cols.get col).fenced then s else s.fence col cause none)

end Sys2Proof.Machine
end

