-- ==== Sys2Proof/Machine/Contexts.lean ====
section
/-! DEFINITION. The context commands of the management journal (R310 to R313, R316, R325): CTX_CREATE to CTX_STOP. -/
namespace Sys2Proof.Machine
set_option Elab.async false

/-! ### The entry -/

/-- A power of two from 64 to 65,536 (R310). -/
def ringSize (n : Nat) : Bool := (List.range 11).any fun i => n == 2 ^ (6 + i)

/-- A permutation of the four role codes (R228). -/
def roleOrder (n : Nat) : Bool := (List.range 4).all fun r => (List.range 4).any fun i => n / 4 ^ i % 4 == r

/-- The checks of an entry, by offset (R310); `journals` says whether the journal fields are read. -/
def entryChecks (bs : List Byte) (journals : Bool) : List (Nat × Bool) :=
  let v := fun off k => recNat bs off k
  [(0x00, v 0x00 8 % 2 ^ 16 == 0), (0x08, v 0x08 8 % 4 == 0 && v 0x08 8 < 2 ^ 55), (0x10, v 0x10 8 % 64 == 0),
   (0x18, ringSize (v 0x18 4)), (0x1C, v 0x1C 4 == 0), (0x20, v 0x20 8 != 0), (0x28, v 0x28 8 % 512 == 0),
   (0x30, v 0x30 1 < 128), (0x31, 1 ≤ v 0x31 1 && v 0x30 1 + v 0x31 1 ≤ 128), (0x33, roleOrder (v 0x33 1)),
   (0x34, v 0x34 4 < 4), (0x38, v 0x38 4 ≤ 60000), (0x3C, v 0x3C 4 ≤ 1000000)] ++
  (if journals then [(0x40, v 0x40 8 % 128 == 0), (0x48, v 0x48 8 % 32 == 0), (0x50, ringSize (v 0x50 4)), (0x54, ringSize (v 0x54 4))]
    else []) ++
  [(0x58, v 0x58 8 == 0), (0x80, (bs.drop 0x80).all (· == 0))]

/-- The offset of the first bad field of an entry (R312). -/
def badEntry (bs : List Byte) (journals : Bool) : Option Nat := ((entryChecks bs journals).find? fun c => !c.2).map (·.1)

/-- An entry read into a context; its state is not part of it (R310). DESIGN CHOICE (log entry 130): the role order is the byte of the entry (R310,
R312) from the creation of the context on, where R228 says that it holds 0xE1 then. -/
def Ctx.read (c : Ctx) (bs : List Byte) : Ctx :=
  let v := fun off k => recNat bs off k
  let w := fun off => BitVec.ofNat 64 (v off 8)
  { c with
    ptroot := w 0x00, handler := w 0x08, iring := w 0x10, iringN := v 0x18 4, colmask := w 0x20, vlwin := w 0x28
    keyBase := v 0x30 1, keyCount := v 0x31 1, prio := v 0x32 1, roleOrd := BitVec.ofNat 8 (v 0x33 1)
    capSlice := v 0x34 4 % 2 == 1, capTlbDev := v 0x34 4 / 2 % 2 == 1, wdog := v 0x38 4, pdl := v 0x3C 4 }

/-- A journal as CTX_CREATE leaves it: its place from the entry, and every register of its page 0 (R314). -/
def Journal.ofEntry (bs : List Byte) : Journal :=
  let v := fun off k => recNat bs off k
  { Journal.reset with base := BitVec.ofNat 64 (v 0x40 8), accBase := BitVec.ofNat 64 (v 0x48 8), entries := v 0x50 4, accEntries := v 0x54 4 }

/-! ### Commands -/

/-- The context that a command names. -/
def cmdCtx (bs : List Byte) : CtxId := ⟨recNat bs 0x10 1 % 64, Nat.mod_lt _ (by decide)⟩

/-- The next command of the management journal performed, if it is a good one of the operation, once its accepted entry can be written: `f`
gives the state, and the status and DETAIL, or none while the command must wait. -/
def State.performCtx (s : State) (op : Nat) (f : CtxId → State → State × Option (CmdStatus × Nat)) : State :=
  match s.nextCmd 64 with
  | some (n, bs) =>
    if cmdOp bs = op && (cmdRefusal 64 bs).isNone then
      if !(s.acceptOpen 64 n) then s.acceptKeep 64 n
      else match f (cmdCtx bs) s with
      | (t, some (st, detail)) => (t.accept 64 n bs st detail).acceptBads 64
      | (t, none) => t
    else s
  | none => s

/-- The refusal of a command that the state of a context does not allow (R312). -/
def State.wrongState (s : State) (c : CtxId) : State × Option (CmdStatus × Nat) := (s, some (.ctxState, (s.ctxs.get c).stateWord))

/-- An access of a context is not yet performed: a write held behind a lease or the host, or kept in a version, a request to a peer, or to the
home of an allowance object (R327). -/
def State.ctxHeld (s : State) (c : CtxId) : Bool :=
  (s.links.held.any fun h => h.writes && (match h.who with
    | some w => w.ctx == c
    | none => true)) || s.peerOut (· == c) || (s.alOut fun x _ => x == c) || s.versionOut fun x _ => x == c

/-- Every cached translation of a context removed, and what it translated performed (R325, R327). -/
def State.dropCtxTlb (s : State) (c : CtxId) : State := (s.dropTlb fun e => e.ctx == c).performAll fun x _ => x == c

/-- CTX_CREATE (R312). -/
def execCtxCreate (s : State) : Host.Outcome State Fault Refusal :=
  done (s.performCtx 0x10 fun c s =>
    let bs := s.physRead (s.ctxEntry c) 256
    if (s.ctxs.get c).phase ≠ .free then s.wrongState c
    else match badEntry bs true with
      | some off => (s, some (.badField, off))
      | none =>
        let x : Ctx := { Ctx.reset.read bs with phase := .running, issuedAt := s.ptp.toNat }
        (((s.modCtx c fun _ => x).modJrn (CtxId.journal c) fun _ => Journal.ofEntry bs).publishCtx c, some (.ok, 0)))

/-- CTX_SET (R312, R325): teams that are at work keep the entry of their admission. -/
def execCtxSet (s : State) : Host.Outcome State Fault Refusal :=
  done (s.performCtx 0x11 fun c s =>
    let bs := s.physRead (s.ctxEntry c) 256
    if (s.ctxs.get c).phase = .free then s.wrongState c
    else match badEntry bs false with
      | some off => (s, some (.badField, off))
      | none =>
        let s0 := s.dropCtxTlb c
        if s0.ctxHeld c then (s0, none)
        else
          let old := s.ctxs.get c
          let atWork := fun (t : Team) => t.ctx == c && t.kept.isNone && (t.place == .resident || t.place == .pendingRetire)
          let s1 : State := { s0 with teams := updWhere atWork (fun t => { t with kept := some old }) s0.teams }
          (s1.modCtx c fun x => x.read bs, some (.ok, 0)))

/-- A stopped context can be saved where it stands: no operation of its teams runs, no group waits for an allowance, and no atomic is between
two of its lanes (R150, R234, R278). -/
def State.standsStill (s : State) (c : CtxId) : Bool :=
  let mine := fun (id : Nat) => ((s.teamOf id).getD Team.none).ctx == c
  !(s.ops.any fun o => o.held.isNone && o.onCore.isSome && mine o.team) &&
    !((s.groupsOf c).any fun g => g.atom.isSome || match g.status with
      | .allowance _ _ _ => true
      | _ => false)

/-- CTX_PREEMPT (R234, R312, R333): teams are saved as they come to their blocking points, or, of a stopped context, where they
stand, once their writes are performed (R336). -/
def execCtxPreempt (s : State) : Host.Outcome State Fault Refusal :=
  done (s.performCtx 0x12 fun c s =>
    match (s.ctxs.get c).phase with
    | .running =>
      let t := (s.modCtx c fun x => { x with phase := .saving }).publishCtx c
      (t.saveEnds c, some (.ok, 0))
    | .stopped =>
      if s.standsStill c then
        let r := State.saveSets c (if (s.residentSets c).isEmpty then [[]] else s.residentSets c) s
        (r.1, if r.2 then some (.ok, 0) else none)
      else (s, none)
    | _ => s.wrongState c)

/-- The column in which a saved bin is restored: its own, or that which took over from it (R231, R339). -/
def State.binHome (s : State) (col : ColId) : ColId := if (s.cols.get col).fenced then (s.heir col).getD col else col

/-- The columns have room for the saved bins of a context (R187). -/
def State.binRoom (s : State) (c : CtxId) : Bool :=
  let mine := s.savedBins.filter fun b => b.2.ctx == c
  (List.finRange 64).all fun k => (s.cols.get k).bins.length + (mine.filter fun b => s.binHome b.1 == k).length ≤ 64

/-- CTX_RESUME (R312, R336): the bins are restored, and the saved teams wait for admission. -/
def execCtxResume (s : State) : Host.Outcome State Fault Refusal :=
  done (s.performCtx 0x13 fun c s =>
    if (s.ctxs.get c).phase ≠ .saved then s.wrongState c
    else if !(s.binRoom c) then (s, none)
    else
      let mine := s.savedBins.filter fun (b : ColId × SpawnBin) => b.2.ctx == c
      let s1 : State := { s with savedBins := s.savedBins.filter fun b => b.2.ctx != c }
      let s2 := mine.foldl (fun (t : State) b => t.putBin (t.binHome b.1) b.2) s1
      let back := fun (t : Team) => t.ctx == c && t.place == .saved
      let s3 : State := { s2.dropHolds with teams := updWhere back (fun t => { t with place := .waiting, readmit := true }) s2.teams }
      ((s3.modCtx c fun x => { x with phase := .running, issuedAt := s.ptp.toNat }).publishCtx c, some (.ok, 0)))

/-! ### Reset and destruction -/

/-- Posted commands of a journal accepted with CTX_STATE, as many as there is room for, one after the other (R316). -/
def State.acceptState (j : JournalId) (detail : Nat) : Nat → State → State
  | 0, s => s
  | k + 1, s => match s.nextEntry j with
    | some (n, bs) =>
      if s.acceptOpen j n then State.acceptState j detail k (s.accept j n bs .ctxState detail) else s.acceptKeep j n
    | none => s

/-- The allowance objects of a context unregistered, with every entry, message and request (R158, R278). -/
def State.dropObjects (s : State) (c : CtxId) : State :=
  let gone := fun (obj : Nat) => s.objs.any fun o => o.obj == obj && o.ctx == c
  let free := fun (o : EngineOp) => if (o.alWait.map gone).getD false then { o with alWait := none } else o
  let s1 : State := { s with
    msgs := s.msgs.filter fun m => !(gone m.obj)
    ops := s.ops.map free
    cols := s.cols.map fun x => { x with alTable := x.alTable.filter (fun e => !(gone e.obj)), alRounds := x.alRounds.filter fun o => !(gone o) }
    objs := s.objs.filter fun o => o.ctx != c }
  s1.modGroups (fun g => match g.status with
    | .allowance obj _ .plain => gone obj
    | _ => false) fun g => { g with status := .ready }

/-- What a context has queued at the ports of a column is gone (R312). -/
def ColState.dropCtx (x : ColState) (c : CtxId) (teams : List Nat) : ColState :=
  let queued := (x.lines.toList.map fun l => (l.queue.filter fun e => e.ctx == c).filterMap (·.reserved)).flatten
  { x with
    lines := x.lines.map fun l => { l with queue := l.queue.filter fun e => e.ctx != c }
    reserved := x.reserved.filter fun r => !(queued.contains r)
    bins := x.bins.filter fun b => b.ctx != c
    retiring := x.retiring.filter fun t => !(teams.contains t) }

/-- Teams, saved state, queued launches, bins, glyph entries and allowance objects of a context discarded (R312). -/
def State.clearCtx (s : State) (c : CtxId) : State :=
  let ids := (s.teams.filter fun t => t.ctx == c).map (·.id)
  let gone := fun (g : Group) => ids.contains g.team
  let s1 : State := { s with
    g := if gone s.g then { s.g with status := .absent } else s.g
    others := s.others.filter fun g => !gone g
    teams := s.teams.filter fun t => t.ctx != c
    grids := s.grids.filter fun x => x.ctx != c
    ops := s.ops.filter fun o => !(ids.contains o.team)
    cols := s.cols.map fun x => x.dropCtx c ids
    mem := { s.mem with olds := s.mem.olds.filter fun o => !(ids.contains o.team) }
    cores := s.cores.map fun x => { x with
      glyphs := x.glyphs.filter fun e => e.owner != c, loaded := x.loaded.filter fun e => e.1 != c }
    savedBins := s.savedBins.filter fun b => b.2.ctx != c }
  s1.dropObjects c

/-- CTX_RESET, and CTX_DESTROY up to its last step: the posted commands of the journal are accepted, the translations are removed, and
everything is discarded (R312, R316, R325). -/
def State.resetCtx (s : State) (c : CtxId) (last : CtxPhase) : State × Option (CmdStatus × Nat) :=
  let j := CtxId.journal c
  if (s.ctxs.get c).phase = .free then s.wrongState c
  else
    let s0 := s.dropCtxTlb c
    if s0.ctxHeld c then (s0, none) else
    let s1 := s0.acceptState j (s.ctxs.get c).stateWord 65537
    if (s1.jrns.get j).accepted ≠ (s1.jrns.get j).submit then (s1, none)
    else
      let s2 := s1.clearCtx c
      ((s2.modCtx c fun x => { x with
        phase := last, error := false, errSeq := 0, issuedAt := s.ptp.toNat, idleStamp := none }).publishCtx c, some (.ok, 0))

/-- CTX_RESET (R312). -/
def execCtxReset (s : State) : Host.Outcome State Fault Refusal :=
  done (s.performCtx 0x14 fun c s => s.resetCtx c .running)

/-- CTX_DESTROY (R312, R313): the journal of the context goes with it, and what its commands had under way. -/
def execCtxDestroy (s : State) : Host.Outcome State Fault Refusal :=
  done (s.performCtx 0x15 fun c s =>
    match s.resetCtx c .free with
    | (t, some r) =>
      let mine := fun (o : EngineOp) => match o.kind with
        | .journalCopy _ j _ _ _ _ _ => j == CtxId.journal c
        | _ => false
      let t1 : State := { t with ops := t.ops.filter fun o => !mine o }
      (t1.modJrn (CtxId.journal c) fun x => { x with signal := none }, some r)
    | r => r)

/-- CTX_STOP (R313): as at the deadline, without its incident. -/
def execCtxStop (s : State) : Host.Outcome State Fault Refusal :=
  done (s.performCtx 0x16 fun c s =>
    match (s.ctxs.get c).phase with
    | .running | .saving => (s.stopCtx c, some (.ok, 0))
    | _ => s.wrongState c)

end Sys2Proof.Machine
end

