-- ==== Sys2Proof/Machine/Tlb.lean ====
section
/-! DEFINITION. Shootdowns (R326, R327): the requests of the driver, and their completion in order. -/
namespace Sys2Proof.Machine
set_option Elab.async false

/-- A request for a shootdown: counted as refused while 16 are in flight, else issued (R326). -/
def State.shootdown (s : State) (x : Shootdown) : State :=
  if 16 ≤ s.dev.shootdowns.length then { s with dev := { s.dev with sdRefused := s.dev.sdRefused + 1 } }
  else { s with dev := { s.dev with sdIssued := s.dev.sdIssued + 1, shootdowns := s.dev.shootdowns ++ [x] } }

/-- TLB_SHOOTDOWN_PAGE (R326). -/
def execTlbShootdownPage (vpn : BitVec 39) (ctx : CtxId) (s : State) : Host.Outcome State Fault Refusal :=
  done (s.shootdown (.page vpn.toNat ctx))

/-- TLB_SHOOTDOWN_CONTEXT (R326). -/
def execTlbShootdownContext (ctx : CtxId) (s : State) : Host.Outcome State Fault Refusal := done (s.shootdown (.context ctx))

/-- TLB_SHOOTDOWN_ALL_CONTEXTS (R326). -/
def execTlbShootdownAllContexts (vpn : BitVec 39) (s : State) : Host.Outcome State Fault Refusal :=
  done (s.shootdown (.everywhere vpn.toNat))

/-- An access that a shootdown waits for is not yet performed (R327). -/
def State.shootdownWaits (s : State) : Shootdown → Bool
  | .page vpn c =>
    let hit := fun (x : CtxId) (va : Nat) => x == c && nearPage va (65536 * vpn)
    s.pageHeld (65536 * vpn) || s.peerOut (· == c) || s.alOut hit || s.versionOut hit
  | .everywhere vpn =>
    let hit := fun (_ : CtxId) (va : Nat) => nearPage va (65536 * vpn)
    s.pageHeld (65536 * vpn) || s.peerOut (fun _ => true) || s.alOut hit || s.versionOut hit
  | .context c => s.ctxHeld c

/-- The translations of a shootdown removed, and what they translated performed (R327). -/
def State.shootdownDone (s : State) : Shootdown → State
  | .page vpn c =>
    (s.dropTlb fun e => e.ctx == c && e.covers (65536 * vpn)).performAll fun x va => x == c && nearPage va (65536 * vpn)
  | .everywhere vpn => (s.dropTlb fun e => e.covers (65536 * vpn)).performAll fun _ va => nearPage va (65536 * vpn)
  | .context c => s.dropCtxTlb c

/-- SHOOTDOWN_COMPLETE (R326, R327): the oldest shootdown, once what its translations have served is performed. -/
def execShootdownComplete (s : State) : Host.Outcome State Fault Refusal :=
  done <| match s.dev.shootdowns with
  | x :: rest =>
    let t := s.shootdownDone x
    if t.shootdownWaits x then t
    else { t with dev := { t.dev with sdDone := t.dev.sdDone + 1, shootdowns := rest } }
  | [] => s

end Sys2Proof.Machine
end

