-- ==== Sys2Proof/Machine/Hbm.lean ====
section
/-! DEFINITION. Main memory (R341 to R355, R360, R361): parity, lost stacks, restriping, the scrubber and the checkpoint engine. -/
namespace Sys2Proof.Machine
set_option Elab.async false

/-! ### Stripes -/

/-- The number of a memory mode (R349). -/
def MemMode.code : MemMode → Nat
  | .normal => 0
  | .degraded => 1
  | .restriping => 2
  | .restriped => 3
  | .restripedDegraded => 4
  | .failed => 5

/-- Every stack that is lost. -/
def State.lostStacks (s : State) : List Nat := s.dev.lostStacks s.mem

/-- The data blocks of the stripe of an HBM address, in the layout in force (R342). -/
def Device.stripeBlocks (d : Device) (pa : Nat) : List Nat :=
  let b := pa / 256
  if oldLayout d.layout d.watermark b then tabList id (b / 11 * 11) 11 else tabList id (b / 10 * 10) 10

/-- What HBM holds at an address beneath the slices: where a slice line is dirty, the byte as it was (R363). -/
def Memory.beneath (m : Memory) (a : Nat) : Byte :=
  ((m.slices.findSome? fun l => l.was.lookup a).getD (cellsGet m.base m.cells a))

/-- The oldest of some writes that changes a byte, as the byte was before it. -/
def oldOf (ws : List PendWrite) (a : Nat) : Option Byte := ws.findSome? fun w => (w.bytes.lookup a).map (·.1)

/-- The byte of a block's parity value (R344): writes count from ACCEPTED on. -/
def Memory.parityValue (m : Memory) (a : Nat) : Byte := (oldOf (m.writes.filter fun w => w.stage != .accepted) a).getD (m.beneath a)

/-- The byte that DRAM holds: writes count once they are applied (R344). -/
def Memory.dramByte (m : Memory) (a : Nat) : Byte :=
  (oldOf (m.writes.filter fun w => w.stage == .accepted) a).getD (m.parityValue a)

/-- The differences in the FIFO of a stripe at a place of its blocks (R344). -/
def Memory.queued (m : Memory) (S off : Nat) : Byte :=
  ((m.writes.filter fun w => w.stripe == S && w.stage == .accepted).map fun w =>
    (w.bytes.filter fun x => x.1 % 256 == off).foldl (fun d x => d ^^^ x.2.1 ^^^ x.2.2) 0).foldl (· ^^^ ·) 0

/-- A byte of a block rebuilt (R346): parity and the differences queued before the read, XOR the parity values of the other blocks. -/
def State.rebuilt (s : State) (a : Nat) : Byte :=
  let S := (s.dev.place a).2.2
  let parity := cellsGet s.mem.parityBase s.mem.parity (256 * S + a % 256) ^^^ s.mem.queued S (a % 256)
  ((s.dev.stripeBlocks a).filter fun b => b != a / 256).foldl (fun x b => x ^^^ s.mem.parityValue (256 * b + a % 256)) parity

/-- A sector of HBM can be rebuilt from the rest of its stripe: no stack of the stripe is lost, its parity block is sound, and no other block
of it fails at the same place (R346, R348, R354). -/
def State.reconstructible (s : State) (pa : Nat) : Bool :=
  s.dev.isHbm pa && (s.dev.missing s.mem pa).isEmpty && !(s.mem.badParity.contains (s.dev.place pa).2.2) &&
    (s.dev.stripeBlocks pa).all fun b => b == pa / 256 || !(s.mem.poisoned (256 * b + pa % 256))

/-- A byte that a cached copy or the write buffer holds, which a write-back of HBM's does not touch (R344, R354). -/
def Memory.covered (m : Memory) (a : Nat) : Bool :=
  (m.slices.any fun l => (l.was.lookup a).isSome) || m.writes.any fun w => w.stage != .accepted && (w.bytes.lookup a).isSome

/-- A sector rebuilt and written back (R346, R354). -/
def State.rebuildSector (s : State) (loc : Nat) : State :=
  let addrs := (tabList id (loc / 32 * 32) 32).filter fun a => !(s.mem.covered a)
  { s with mem := { s.mem with cells := cellsPutAll s.mem.base s.mem.cells (addrs.map fun a => (a, s.rebuilt a)) } }

/-! ### Codes -/

/-- The size code of a 128-byte block of HBM (R352): the smallest that holds it; 0 for an encrypted block. DEDUCED (log entry 95): and for
one with a poisoned sector, which must be stored to carry its mark. -/
def Memory.sizeCode (m : Memory) (line : Nat) : Nat :=
  let bytes := tabList m.beneath (128 * line) 128
  if m.cipherBlocks.contains line || (List.range 4).any fun k => m.poisoned (128 * line + 32 * k) then 0
  else if bytes.all (· == 0) then 3
  else if Config.encodedSize bytes ≤ 64 then 2
  else if Config.encodedSize bytes ≤ 96 then 1
  else 0

/-- The sectors that a size code stores (R352). -/
def codeSectors (code : Nat) : Nat := if code = 3 then 0 else 4 - code

/-- META of a sector (R353). -/
def Memory.sectorMeta (m : Memory) (loc : Nat) : BitVec 2 := if !(isVault loc) && loc % 128 < 32 then BitVec.ofNat 2 (m.sizeCode (loc / 128)) else 0

/-- The side-band bits of a sector stored as it is (R353): META, then the check, with the mark of poison. -/
def Memory.sideBand (m : Memory) (loc : Nat) : BitVec 32 :=
  let check := Config.eccCheck (tabList m.beneath (loc / 32 * 32) 32) (m.sectorMeta loc)
  (m.sectorMeta loc).append (if m.poisoned loc then check ^^^ 0x2AAAAAAA#30 else check)

/-- The sector is stored, and so read and checked (R352). -/
def Memory.checked (m : Memory) (loc : Nat) : Bool := isVault loc || loc % 128 / 32 < codeSectors (m.sizeCode (loc / 128))

/-! ### Losing a stack -/

/-- The mode after the loss of another stack (R348). -/
def MemMode.lose : MemMode → MemMode
  | .normal => .degraded
  | .restriped => .restripedDegraded
  | _ => .failed

/-- What FAILED has lost (R348). -/
def Device.deadStacks (d : Device) (old : Option LostStacks) (stack : Nat) : LostStacks :=
  match old with
  | some x => { x with all := x.all ++ [stack] }
  | none => ⟨d.mode, d.watermark, (d.lost.map (·.val)).getD stack, d.lost.toList.map (·.val) ++ d.lost2.toList.map (·.val) ++ [stack]⟩

/-- A write to HBM when a stack is lost (R347): one whose parity stack is lost has no difference left to apply, and one that the lost data
stack has not had accepted is sent again. -/
def State.afterLoss (s : State) (stack : Nat) (w : PendWrite) : Option PendWrite :=
  match w.bytes with
  | x :: _ =>
    let place := s.dev.place x.1
    if place.2.1 = stack then none
    else if place.1 = stack && w.stage != .accepted then some { w with stage := .buffered }
    else some w
  | [] => some w

/-- The blocks of the stripe of a block (R342), in the layout that FAILED was entered from. -/
def LostStacks.stripe (x : LostStacks) (b : Nat) : List Nat :=
  if oldLayout x.mode x.watermark b then (tabList id (b / 11 * 11) 11).filter (oldLayout x.mode x.watermark ·)
  else (tabList id (b / 10 * 10) 10).filter fun k => !(oldLayout x.mode x.watermark k)

/-- The first lost block of the stripe of a block. -/
def LostStacks.firstLost (x : LostStacks) (b : Nat) : Option Nat := ((x.stripe b).map fun k => 256 * k).find? x.block

/-- The next stripe to be reported: a block of it, or none. Stripes of one layout are lost together, so that from one which is not reported the
search goes on where the layout changes. -/
def StripeJob.found (j : StripeJob) (x : LostStacks) (top : Nat) : Option Nat :=
  let newly := fun (b : Nat) => b < top && (x.firstLost b).isSome && !((j.before.map fun y => (y.firstLost b).isSome).getD false)
  [j.next, Nat.max j.next (10 * x.watermark)].find? newly

/-- The block behind the stripe of a block. -/
def LostStacks.behind (x : LostStacks) (b : Nat) : Nat := (x.stripe b).getLast?.getD b + 1

/-- The records of FAILED (R348, R390): both stacks, and the first lost block of the first stripe; the other stripes follow. -/
def failedRecords (x : LostStacks) (top : Nat) : List Incident :=
  let pair := (x.all.reverse.getD 1 0, x.all.reverse.getD 0 0)
  { IncCode.memoryFailed.entry.byEngine 6 with detail := BitVec.ofNat 64 (pair.1 + 16 * pair.2) } ::
  (((⟨0, none, 0⟩ : StripeJob).found x top).bind x.firstLost).toList.map fun pa => (IncCode.stripeLost.entry.byEngine 6).withPa pa

/-- The stripes that are still to be reported when FAILED is entered, or when another stack is lost in it. -/
def stripeJob (x : LostStacks) (before : Option LostStacks) (top : Nat) (root : Word) : StripeJob :=
  let first := if before.isNone then (⟨0, none, 0⟩ : StripeJob).found x top else none
  ⟨(first.map x.behind).getD 0, before, root⟩

/-- The next lost stripe of FAILED reported, while the reserve has room (R348, R386, R389). -/
def State.stripeReport (s : State) : State :=
  match s.mem.stripeJobs, s.mem.dead with
  | j :: rest, some x =>
    if 4096 ≤ s.log.reserve.length then s
    else match j.found x (s.dev.capacity / 256) with
      | some b =>
        let t : State := { s with mem := { s.mem with stripeJobs := { j with next := x.behind b } :: rest } }
        t.report (((IncCode.stripeLost.entry.byEngine 6).withPa ((x.firstLost b).getD 0)).after j.root)
      | none => { s with mem := { s.mem with stripeJobs := rest } }
  | _, _ => s

/-- A block of the stripe at a location of the stacks, and the stack that holds its parity (R342, R350). -/
def Device.stripeAt (d : Device) (S : Nat) : Nat × Nat :=
  let first := match d.layout with
    | .normal | .degraded => 11 * S
    | .restriping => if S < d.watermark then 11 * S else 10 * S
    | _ => 10 * S
  (256 * first, (d.place (256 * first)).2.1)

/-- The sectors on lost stacks that need a sector of HBM to be rebuilt (R348). -/
def State.partners (s : State) (loc : Nat) : List Nat :=
  let lost := s.dev.missing s.mem loc
  if lost.isEmpty || !(s.dev.isHbm loc) then []
  else ((s.dev.stripeBlocks loc).filter fun b => b != loc / 256 && lost.contains (s.dev.place (256 * b)).1).map fun b => 256 * b + loc % 256

/-- A sector of a lost block that can no longer be rebuilt: poisoned, with a record that names it (R348, R389). -/
def State.loseSector (s : State) (loc : Nat) : State :=
  if s.mem.poisoned loc then s
  else ({ s with mem := s.mem.addPoison loc } : State).report (s.sectorIncident .sectorPoisoned loc)

/-- A sector of HBM poisoned, and those that cannot be rebuilt without it (R348, R354), each of which has a record of its own (R389). -/
def State.poisonSector (s : State) (loc : Nat) : State :=
  (s.partners loc).foldl State.loseSector { s with mem := s.mem.addPoison loc }

/-- What a lost stack takes with it where its stripe fails elsewhere: the sectors at the places of poisoned ones, and every sector of a block
whose parity block fails (R346, R348). -/
def State.spreadPoison (s : State) : State :=
  let t := ((s.mem.poison.map (32 * ·)).filter s.dev.isHbm).foldl State.poisonSector s
  let blocks := fun (S : Nat) => ((t.dev.stripeBlocks (t.dev.stripeAt S).1).filter fun b => (t.dev.missing t.mem (256 * b)).contains (t.dev.place (256 * b)).1)
  let bad := (t.mem.badParity.map fun S => ((blocks S).map fun b => tabList (fun k => 256 * b + 32 * k) 0 8).flatten).flatten
  bad.foldl State.loseSector t

/-- A stack lost, with the mode that follows (R347, R348). -/
def State.loseStack (s : State) (stack : Fin 12) (mode : MemMode) : State :=
  let d := s.dev
  let dead := if mode = .failed then some (d.deadStacks s.mem.dead stack.val) else none
  let s1 : State := { s with
    mem := { s.mem with writes := s.mem.writes.filterMap (s.afterLoss stack.val), dead := dead }
    dev := { d with
      mode := mode
      failedFrom := if mode = .failed && d.mode != .failed then d.mode else d.failedFrom
      lost := d.lost <|> some stack
      lost2 := if d.lost.isSome then d.lost2 <|> some stack else d.lost2 } }
  let first := { IncCode.stackLost.entry.byEngine 6 with
    port := stack.val, die := stack.val / 3, detail := BitVec.ofNat 64 mode.code }
  let more := match dead with
    | some x => if s.mem.dead.isNone then failedRecords x (d.capacity / 256) else []
    | none => []
  let (root, s2) := State.chainAll (first :: more) none s1
  let jobs := dead.toList.map fun x => stripeJob x s.mem.dead (d.capacity / 256) (root.getD 0)
  ({ s2 with mem := { s2.mem with stripeJobs := s2.mem.stripeJobs ++ jobs } } : State).caused root State.spreadPoison

/-- STACK_LOST (R347, R348). -/
def execStackLost (stack : Fin 12) (s : State) : Host.Outcome State Fault Refusal :=
  done (if s.lostStacks.contains stack.val then s else s.loseStack stack s.dev.mode.lose)

/-- The controller of a stack fails (R347, R364): its stack is lost; a second failure leaves the device in FAILED. The mirror in the next
controller of the die serves its directory, which loses no entry. -/
def State.controllerFails (s : State) (stack : Fin 12) : State :=
  if s.mem.deadControllers.contains stack.val then s
  else
    let t : State := { s with mem := { s.mem with deadControllers := stack.val :: s.mem.deadControllers } }
    let mode := if s.mem.deadControllers.isEmpty then s.dev.mode.lose else .failed
    if !(s.lostStacks.contains stack.val) then t.loseStack stack mode
    else if s.mem.deadControllers.isEmpty || s.dev.mode = .failed then t
    else
      let dead : LostStacks := ⟨s.dev.mode, s.dev.watermark, (s.dev.lost.map (·.val)).getD stack.val, s.lostStacks⟩
      let u : State := { t with dev := { t.dev with mode := .failed, failedFrom := s.dev.mode }, mem := { t.mem with dead := some dead } }
      let (root, v) := State.chainAll (failedRecords dead (s.dev.capacity / 256)) none u
      { v with mem := { v.mem with stripeJobs := v.mem.stripeJobs ++ [stripeJob dead none (s.dev.capacity / 256) (root.getD 0)] } }

/-! ### Findings -/

/-- The last second of a list of events with their times. -/
def lastSecond (now : Nat) (l : List (Nat × Nat)) : List (Nat × Nat) := l.filter fun x => now < x.2 + 1000000000

/-- A stack has returned an uncorrectable sector; with 256 of them within 1 s it is lost (R347). -/
def State.countStack (s : State) (stack : Nat) : State :=
  let errors := (stack, s.ptp.toNat) :: lastSecond s.ptp.toNat s.mem.stackErrors
  let t : State := { s with mem := { s.mem with stackErrors := errors } }
  if h : stack < 12 then
    if 256 ≤ (errors.filter fun e => e.1 == stack).length && !(s.lostStacks.contains stack) then t.loseStack ⟨stack, h⟩ s.dev.mode.lose else t
  else t

/-- A bank of a vault has poisoned a sector; with 16 of them within 1 s it is lost, and its column is fenced (R354, R339). -/
def State.countBank (s : State) (loc : Nat) : State :=
  let col := vaultCol loc
  let bank := vaultBank loc
  let errors := (bank, s.ptp.toNat) :: lastSecond s.ptp.toNat (s.cols.get col).vault.errors
  let t := s.modCol col fun c => { c with vault := { c.vault with errors := errors } }
  if 16 ≤ (errors.filter fun e => e.1 == bank).length && !(s.cols.get col).fenced then
    t.fence col (.vaultBank ⟨bank % 16, Nat.mod_lt _ (by decide)⟩) none
  else t

/-- The parity block of a location is in error (R344); where the stripe has lost a data block, that block is lost with it (R348). -/
def State.parityUpset (s : State) (stripe : Nat) : State :=
  if s.mem.badParity.contains stripe then s
  else ({ s with mem := { s.mem with badParity := stripe :: s.mem.badParity } } : State).spreadPoison

/-- A parity block that fails its code replaced by the XOR of the data blocks as DRAM holds them (R344). -/
def State.mendParity (s : State) (S pa : Nat) : State :=
  let xor := fun (i : Nat) => (s.dev.stripeBlocks pa).foldl (fun x b => x ^^^ s.mem.dramByte (256 * b + i)) 0
  let put' := fun (cells : List Host.Cell) (i : Nat) => cellsSet s.mem.parityBase cells (256 * S + i) (xor i)
  { s with mem := { s.mem with parity := (List.range 256).foldl put' s.mem.parity, badParity := s.mem.badParity.filter fun x => x != S } }

/-- A read finds the parity block of a location in error (R344, R354): it is rebuilt from the data blocks and written back, and counts as an
uncorrectable sector of its stack (R347). Where a data block is lost, that block's sectors have been poisoned, each with its record
(R389). -/
def State.settleParity (s : State) (S : Nat) : State :=
  let (pa, stack) := s.dev.stripeAt S
  let at' := fun (i : Incident) => { i.byEngine 6 with port := stack, die := stack / 3 }
  let lost := (s.dev.stripeBlocks pa).find? fun b => (s.dev.missing s.mem (256 * b)).contains (s.dev.place (256 * b)).1
  if !(s.mem.badParity.contains S) || (s.dev.missing s.mem pa).contains stack then s
  else match lost with
    | none => ((s.mendParity S pa).report (at' (IncCode.sectorReconstructed.entry.withPa pa))).countStack stack
    | some _ => (s.mendParity S pa).countStack stack

/-- The sectors whose bytes a stored sector holds: its own, or, of a block that is stored encoded, all four (R352). -/
def Memory.encodedIn (m : Memory) (loc : Nat) : List Nat :=
  if !(isVault loc) && m.sizeCode (loc / 128) != 0 then tabList (fun k => loc / 128 * 128 + 32 * k) 0 4 else [loc]

/-- What becomes of a sector that is read with a finding (R354, R352). One that cannot be corrected is rebuilt with all that it encodes, or all of
it is poisoned, with a record for each sector (R389); the read of a parity block that fails its code, which the rebuilding would need, settles
that block too (R344, R347). -/
def State.settleSector (s : State) (loc : Nat) (f : EccFinding) : State :=
  if s.mem.poisoned loc || !(s.mem.checked loc) then s
  else match f with
    | .clean => s
    | .correctable symbol => s.report { s.sectorIncident .eccCorrected loc with detail := symbol.zeroExtend 64 }
    | .uncorrectable =>
      let all := s.mem.encodedIn loc
      if isVault loc then (({ s with mem := s.mem.addPoison loc } : State).report (s.sectorIncident .sectorPoisoned loc)).countBank loc
      else
        let t :=
          if all.all s.reconstructible then
            (all.foldl State.rebuildSector s).report (s.sectorIncident .sectorReconstructed loc)
          else all.foldl (fun (t : State) a => (t.poisonSector a).report (s.sectorIncident .sectorPoisoned a)) s
        let u := t.countStack (s.dev.place loc).1
        if (s.dev.missing s.mem loc).isEmpty then u.settleParity (s.dev.place loc).2.2 else u

/-- The finding of the code for errors in some symbols of a sector (R353): any one is corrected, any two are detected, and of more the spec
says nothing: DESIGN CHOICE (log entry 107), detected or not, freely. -/
def State.finding (s : State) (symbols : List Nat) : EccFinding :=
  match symbols.eraseDups with
  | [] => .clean
  | [k] => .correctable (BitVec.ofNat 8 k)
  | [_, _] => .uncorrectable
  | _ => if Config.fact s.tick 5 % 2 = 0 then .uncorrectable else .clean

/-- Symbols of a sector, or of a byte of a memory without sectors, are in error where a read meets them (R58, R138, R354). More errors than
the code detects leave bytes that the spec does not give. -/
def State.memUpset (s : State) (loc : Nat) (symbols : List Nat) : State :=
  let t : State := { s with tick := s.tick + 1 }
  if !(hasSectors loc) then
    if 2 ≤ symbols.eraseDups.length && !(s.mem.badBytes.contains loc) then { t with mem := { t.mem with badBytes := loc :: t.mem.badBytes } } else t
  else if !(isVault loc || (s.dev.isHbm loc && !(s.lostStacks.contains (s.dev.place loc).1))) then t
  else
    let u := t.settleSector loc (s.finding symbols)
    if 3 ≤ symbols.eraseDups.length && s.finding symbols = .clean && s.mem.checked loc && !(s.mem.poisoned loc) then
      let free := tabList (fun a => (a, Config.lostByte s.tick a)) (loc / 32 * 32) 32
      { u with mem := { u.mem with cells := cellsPutAll u.mem.base u.mem.cells free } }
    else u

/-- Symbols of a sector of a parity block are in error where a read meets them (R353, R354): a correctable one is corrected, any other fails the
block. -/
def State.paritySymbols (s : State) (S : Nat) (sector : Fin 8) (symbols : List Nat) : State :=
  let (pa, stack) := s.dev.stripeAt S
  let t : State := { s with tick := s.tick + 1 }
  if s.mem.badParity.contains S || (s.dev.missing s.mem pa).contains stack then t
  else match s.finding symbols with
    | .clean => t
    | .correctable k => t.report { (IncCode.eccCorrected.entry.withPa (pa + 32 * sector.val)).byEngine 6 with
        port := stack, die := stack / 3, detail := k.zeroExtend 64 }
    | .uncorrectable => (t.parityUpset S).settleParity S

/-- The patrol, while it is enabled, reads a parity block (R354). -/
def State.parityScrub (s : State) (S : Nat) : State := if s.dev.scrubh = 0 then s else s.settleParity S

/-- A bank of a vault misses a refresh deadline: it is lost (R354). -/
def State.refreshMissed (s : State) (col : ColId) (bank : Fin 16) : State :=
  if (s.cols.get col).fenced then s else s.fence col (.vaultBank bank) none

/-- STORE_FAILURE (R196, R354): a store, reduction or write that its group has retired meets an uncorrectable error at its home, or fails at a
peer. A sector that can be rebuilt is, and the write completes; any other is poisoned, and the write fails. The group may have ended: its context
still enters the error state. -/
def execStoreFailure (core : CoreId) (_slot : SlotId) (va pa : BitVec 64) (how : StoreFailHow) (s : State) :
    Host.Outcome State Fault Refusal :=
  done <| match how with
  | .sector team index ctx =>
    let loc := pa.toNat
    if !(hasSectors loc) then s
    else if s.reconstructible loc && !(s.mem.poisoned loc) then s.settleSector loc .uncorrectable
    else
      let known := s.mem.poisoned loc
      let t := (s.poisonSector loc).failStore .sectorPoisoned ⟨core, team, index, ctx⟩ va loc
      if known then t else if isVault loc then t.countBank loc else t.countStack (s.dev.place loc).1
  | .peer team index ctx =>
    let mine := fun (w : PeerWrite) => w.pa == pa.toNat && w.va == va && w.who == some ⟨core, team, index, ctx⟩
    match s.links.peerWrites.find? mine with
    | some w =>
      ({ s with links := { s.links with peerWrites := dropFirst mine s.links.peerWrites } } : State).failPeerWrite w
    | none => s

/-- PATROL_SCRUB (R354): a sector of an unlost stack or an unfenced vault, while the patrol is enabled. -/
def execPatrolScrub (sector : Nat) (finding : EccFinding) (s : State) : Host.Outcome State Fault Refusal :=
  done <|
    let loc := 32 * sector
    if s.dev.scrubh = 0 then s
    else if isVault loc then
      if (s.cols.get (vaultCol loc)).fenced then s else s.settleSector loc finding
    else if s.dev.isHbm loc && !(s.lostStacks.contains (s.dev.place loc).1) then s.settleSector loc finding
    else s

/-! ### Parity -/

/-- A write touches a block of HBM. -/
def PendWrite.inBlock (w : PendWrite) (b : Nat) : Bool := w.bytes.any fun x => x.1 / 256 == b

/-- Two writes lie in one block. -/
def PendWrite.sameBlock (w v : PendWrite) : Bool := v.bytes.any fun x => w.inBlock (x.1 / 256)

/-- The difference of a write is sent to the parity controller: BUFFERED to SENT (R344). -/
def State.deltaSent (s : State) (write : Nat) : State :=
  { s with mem := { s.mem with
    writes := updWhere (fun w => w.id == write && w.stage == .buffered) (fun w => { w with stage := .sent }) s.mem.writes } }

/-- PARITY_DELTA_ACCEPT (R344): a difference that was sent goes to the tail of its stripe's FIFO; accepted writes to one block keep the order
in which they were made. -/
def execParityDeltaAccept (write : Nat) (s : State) : Host.Outcome State Fault Refusal :=
  done <| match s.mem.writes.find? fun w => w.id == write with
  | some w =>
    if w.stage ≠ .sent || s.mem.writes.any fun v => v.id < w.id && v.stage != .accepted && v.sameBlock w then s
    else { s with mem := { s.mem with
      writes := (s.mem.writes.filter fun v => v.id != write) ++ [{ w with stage := .accepted }] } }
  | none => s

/-- The difference of a write applied to a parity block (R344). -/
def Memory.applyDelta (m : Memory) (w : PendWrite) : Memory :=
  let put' := fun (cells : List Host.Cell) (x : Nat × Byte × Byte) =>
    let a := 256 * w.stripe + x.1 % 256
    cellsSet m.parityBase cells a (cellsGet m.parityBase cells a ^^^ x.2.1 ^^^ x.2.2)
  { m with parity := w.bytes.foldl put' m.parity }

/-- PARITY_DELTA_APPLY (R344): the oldest accepted difference of a stripe. -/
def execParityDeltaApply (stripe : Nat) (s : State) : Host.Outcome State Fault Refusal :=
  done <| match s.mem.writes.find? fun w => w.stripe == stripe && w.stage == .accepted with
  | some w =>
    let t := s.settleParity stripe
    let m := t.mem.applyDelta w
    { t with mem := { m with writes := m.writes.filter fun v => v.id != w.id } }
  | none => s

/-! ### Restriping -/

/-- The refusal of a request to restripe, as RSERR (R350). -/
def Device.restripeRefusal (d : Device) : Option Nat :=
  if d.mode ≠ .degraded then some 4 else if 0xA00000 < d.maxpa.toNat then some 1 else if 640 < d.hdm then some 2 else none

/-- What lies above 640 GiB is gone from the memory (R341). -/
def Memory.shrink (m : Memory) : Memory :=
  let out := fun (loc : Nat) => 0xA000000000 ≤ loc && loc < 0xB000000000
  { m with cells := m.cells.filter fun x => !(out x.1)
           poison := m.poison.filter fun sec => !(out (32 * sec))
           writes := m.writes.filter fun w => !(w.bytes.any fun x => out x.1) }

/-- A request to restripe (R350 steps 1 and 2). -/
def State.restripe (s : State) : State :=
  match s.dev.restripeRefusal with
  | some e =>
    ({ s with dev := { s.dev with rserr := BitVec.ofNat 4 e } } : State).report
      { IncCode.restripeRefused.entry.byEngine 6 with detail := BitVec.ofNat 64 e }
  | none => { s with mem := s.mem.shrink, dev := { s.dev with rserr := 0, mode := .restriping, watermark := 2 ^ 28 } }

/-- RESTRIPE_START (R350). -/
def execRestripeStart (s : State) : Host.Outcome State Fault Refusal := done s.restripe

/-- The parity block of a location in the restriped layout (R344, R350): the XOR of its ten data blocks. -/
def Memory.stripeParity (m : Memory) (S i : Nat) : Byte :=
  (tabList id (10 * S) 10).foldl (fun x b => x ^^^ m.beneath (256 * b + i)) 0

/-- The ten blocks of a location moved to the survivors, with their parity (R350 step 3). -/
def State.moveStripe (s : State) (S : Nat) : State :=
  let put' := fun (cells : List Host.Cell) (i : Nat) => cellsSet s.mem.parityBase cells (256 * S + i) (s.mem.stripeParity S i)
  { s with mem := { s.mem with parity := (List.range 256).foldl put' s.mem.parity, badParity := s.mem.badParity.filter fun x => x != S }
           dev := { s.dev with watermark := S } }

/-- RESTRIPE_STRIPE_DONE (R350, R351): the next location, once no write to its blocks is under way. -/
def execRestripeStripeDone (s : State) : Host.Outcome State Fault Refusal :=
  done <|
    let S := s.dev.watermark - 1
    if s.dev.mode ≠ .restriping || s.mem.writes.any fun w => (tabList id (10 * S) 10).any w.inBlock then s
    else
      let t := s.moveStripe S
      if S = 0 then ({ t with dev := { t.dev with mode := .restriped } } : State).report (IncCode.restripeDone.entry.byEngine 6) else t

/-! ### The checkpoint -/

/-- The poisoned sectors that an image lists, by location ÷ 32: those of HBM and of the vaults (R360). -/
def State.imageSectors (s : State) : List Nat := s.mem.poison.filter fun sec => s.dev.isHbm (32 * sec) || isVault (32 * sec)

/-- The columns that are fenced. -/
def State.fencedCols (s : State) : List ColId := (List.finRange 64).filter fun c => (s.cols.get c).fenced

/-- An image of the memories as they stand (R360): the bytes of HBM and of the vaults of unfenced columns. -/
def State.image (s : State) : CkImage where
  dst := s.dev.ckdst.toNat
  capacity := s.dev.capacity
  fenced := s.fencedCols
  mode := s.dev.mode
  time := s.ptp
  base := s.mem.base
  cells := s.mem.cells.filter fun x => s.dev.isHbm x.1 || (isVault x.1 && !((s.cols.get (vaultCol x.1)).fenced))
  poison := s.imageSectors

/-- The fenced columns of an image as a mask. -/
def CkImage.fencedMask (i : CkImage) : Word := maskOf fun L => i.fenced.any fun c => c.val == L

/-- The header of an image (R360). -/
def CkImage.header (i : CkImage) : List Byte :=
  leBytes 4 0x5A37C4B1 ++ leBytes 4 1 ++ words64 [i.capacity, 2 ^ 29, i.fencedMask.toNat, i.mode.code, i.time.toNat, i.poison.length] ++
    List.replicate 4040 0

/-- A byte of an image by its offset (R360): the header, HBM, the vaults with those of fenced columns as zeros, the addresses of the poisoned
sectors. -/
def CkImage.byteAt (i : CkImage) (off : Nat) : Byte :=
  let vaults := 4096 + i.capacity
  let trailer := vaults + 64 * 2 ^ 29
  if off < 4096 then i.header.getD off 0
  else if off < vaults then cellsGet i.base i.cells (off - 4096)
  else if off < trailer then
    let loc := 0x800000000000 + (off - vaults)
    if i.fencedMask.getLsbD (vaultNumber loc) then 0 else cellsGet i.base i.cells loc
  else (leBytes 8 (32 * i.poison.getD ((off - trailer) / 8) 0)).getD (off % 8) 0

/-- Bytes of the image (R360). -/
def State.imageBytes (s : State) : Nat := s.image.header.length + s.dev.capacity + 64 * 2 ^ 29 + 8 * s.imageSectors.length

/-- An image after a SAVE (R361): a sector that was written meanwhile has its old or its new bytes. -/
def CkImage.settle (i new : CkImage) (tick : Nat) : CkImage :=
  let fresh := fun (sec : Nat) => Config.imagesNew tick sec
  { i with cells := (new.cells.filter fun x => fresh (x.1 / 32)).foldl (fun cs x => cellsIns cs x.1 x.2) (i.cells.filter fun x => !(fresh (x.1 / 32)))
           poison := (i.poison.filter fun sec => !(fresh sec)) ++ new.poison.filter fresh }

/-- Why a checkpoint command is refused, as ERR (R361). -/
def State.ckRefusal (s : State) (both : Bool) : Option Nat :=
  let active := (List.finRange 64).any fun c => (s.ctxs.get c).phase == .running || (s.ctxs.get c).phase == .saving
  if active then some 1 else if s.dev.mode = .restriping || s.dev.mode = .failed then some 2 else if both then some 5 else none

/-- The peer whose window CKDST lies in (R360, R367). -/
def Device.ckPeer (d : Device) : Nat := d.ckdst.toNat * 4096 / 2 ^ 40 % 1024

/-- The checkpoint engine refuses or fails (R360, R361). -/
def State.ckFails (s : State) (err : Nat) : State := { s with dev := { s.dev with ckState := .error, ckErr := BitVec.ofNat 4 err } }

/-- The checkpoint engine is at work. -/
def Device.ckBusy (d : Device) : Bool := d.ckState == .saving || d.ckState == .restoring

/-- The image that a peer holds at CKDST, if the device has written it. -/
def State.imageAt (s : State) : Option CkImage := s.images.find? fun i => i.dst == s.dev.ckdst.toNat

/-- An image put at its place. -/
def State.putImage (s : State) (i : CkImage) : State := { s with images := i :: s.images.filter fun x => x.dst != i.dst }

/-- The header at CKDST is malformed, or its HBM bytes exceed the capacity (R361); what stands where the device has written no image is the
peer's to say. -/
def State.badImage (s : State) : Bool :=
  match s.imageAt with
  | some i => s.dev.capacity < i.capacity
  | none => Config.fact s.tick 1 % 2 == 1

/-- The address at which a transfer of the checkpoint engine fails. -/
def State.ckFaultAddress (s : State) : Nat := s.dev.ckdst.toNat * 4096 + Config.fact s.tick 2 % s.imageBytes

/-- A command of the checkpoint engine (R360, R361): SAVE, RESTORE; it has no effect while the engine works. A request to a fenced peer fails at
once (R373). -/
def State.checkpoint (s : State) (save restore : Bool) : State :=
  let start := fun (x : CkState) (t : State) => { t with dev := { t.dev with ckState := x, ckErr := 0, ckBytes := 0 } }
  if s.dev.ckBusy || !(save || restore) then s
  else match s.ckRefusal (save && restore) with
    | some e => s.ckFails e
    | none =>
      if s.dev.peerFenced.contains s.dev.ckPeer then (s.ckFails 3).report (IncCode.checkpointFault.entry.withPa s.ckFaultAddress)
      else if save then start .saving (s.putImage s.image)
      else if s.badImage then { s.ckFails 4 with tick := s.tick + 1 }
      else { start .restoring s with tick := s.tick + 1 }

/-- CHECKPOINT_SAVE (R361). -/
def execCheckpointSave (s : State) : Host.Outcome State Fault Refusal := done (s.checkpoint true false)

/-- CHECKPOINT_RESTORE (R361); whether the header at the destination is well formed is the peer's to say. -/
def execCheckpointRestore (s : State) : Host.Outcome State Fault Refusal := done (s.checkpoint false true)

/-- The parity blocks of some stored bytes of HBM, over what unlisted bytes give (R344, R361). -/
def State.parityOf (s : State) (base pb : Blank) (cells : List Host.Cell) : List Host.Cell :=
  (cells.filter fun x => s.dev.isHbm x.1).foldl (fun p x =>
    let a := 256 * (s.dev.place x.1).2.2 + x.1 % 256
    cellsSet pb p a (cellsGet pb p a ^^^ x.2 ^^^ blankByte base x.1)) []

/-- The stripes of the layout in force have ten blocks (R342). -/
def Device.tenBlocks (d : Device) : Bool :=
  match d.layout with
  | .normal | .degraded => false
  | _ => true

/-- HBM and the vaults of unfenced columns with the bytes of an image, the parity that goes with them, and the sectors that it lists
poisoned (R361). A fenced vault, and HBM above a smaller image, keep what they hold. Without an image of the device's own the bytes are free. -/
def State.restored (s : State) (image : Option CkImage) : State :=
  let now := maskOf fun L => s.fencedCols.any fun c => c.val == L
  let top := (image.map (·.capacity)).getD s.dev.capacity
  let source : Blank := match image with
    | some i => .kept .zero i.base i.fencedMask (2 ^ 64)
    | none => .free s.tick
  let base : Blank := .kept s.mem.base source now top
  let stays := keepsAt now top
  let inImage := ((image.map (·.cells)).getD []).filter fun x => !(stays x.1)
  let cells := cellsPutAll base [] ((s.mem.cells.filter fun x => stays x.1) ++ inImage)
  let listed := ((image.map (·.poison)).getD (Config.imagePoison s.tick)).filter fun sec =>
    (s.dev.isHbm (32 * sec) || isVault (32 * sec)) && !(stays (32 * sec))
  let parityBase : Blank := .parity base (if s.dev.tenBlocks then 10 else 11)
  let t : State := { s with tick := s.tick + 1, mem := { s.mem with
    base := base, parityBase := parityBase, cells := cells, parity := s.parityOf base parityBase cells, badParity := [], writes := []
    slices := [], dir := [], copies := [], cipherBlocks := []
    poison := s.mem.poison.filter fun sec => stays (32 * sec) } }
  listed.foldl (fun (u : State) sec => u.poisonSector (32 * sec)) t

/-- Lines of HBM that a restore would write and that leases, the host or held writes hold back (R364, R370). -/
def State.restoreHeld (s : State) : List Nat :=
  let lines : List Nat := s.links.leases.map (fun (x : Lease) => x.line) ++ s.mem.hostFilter ++ s.mem.hostSnoops ++
    s.links.held.map fun (h : HeldWrite) => h.loc / 128
  lines.eraseDups.filter fun l => s.dev.isHbm (128 * l) && (s.holdOf l).isSome

/-- The transfer of the checkpoint engine ends (R361): one that fails leaves no image at its destination, or bytes in memory that the spec does
not give. -/
def State.ckEnds (s : State) (fault : Bool) : State :=
  let saving := s.dev.ckState = .saving
  let t := if saving then s else s.restored (if fault then none else s.imageAt)
  if fault then
    let moved := BitVec.ofNat 56 (Config.fact s.tick 3 % s.imageBytes)
    let u : State := { t with
      dev := { t.dev with ckBytes := moved }, tick := t.tick + 1
      images := if saving then t.images.filter fun i => i.dst != s.dev.ckdst.toNat else t.images }
    (u.ckFails 3).report (IncCode.checkpointFault.entry.withPa s.ckFaultAddress)
  else
    let n := t.imageBytes
    let u : State := { t with dev := { t.dev with ckState := .done, ckBytes := BitVec.ofNat 56 n } }
    if saving then
      let image := (s.imageAt.getD s.image).settle s.image s.tick
      (({ u with tick := u.tick + 1 } : State).putImage image).report { IncCode.checkpointDone.entry with detail := BitVec.ofNat 64 n }
    else u

/-- CHECKPOINT_COMPLETE (R361): a restore waits until the leases on the lines that it writes have ended and the host has given up its copies (R364,
R370). -/
def execCheckpointComplete (fault : Bool) (s : State) : Host.Outcome State Fault Refusal :=
  done <|
    if !s.dev.ckBusy then s
    else if s.dev.ckState = .restoring && !s.restoreHeld.isEmpty then s.restoreHeld.foldl (fun (t : State) l => t.devKeep (128 * l) 128) s
    else s.ckEnds fault

end Sys2Proof.Machine
end

