-- ==== Sys2Proof/Machine/Governor.lean ====
section
/-! DEFINITION. The vault of a column (R357 to R359), its governor (R232, R379, R380), its slice ways and its core-pinned windows
(R243, R381). -/
namespace Sys2Proof.Machine
set_option Elab.async false

/-- The vault of a column changed. -/
def State.modVault (s : State) (c : ColId) (f : Vault → Vault) : State := s.modCol c fun x => { x with vault := f x.vault }

/-! ### Refresh -/

/-- The band that a temperature asks for (R357). -/
def bandAt (celsius : Nat) : Nat := if 95 < celsius then 2 else if 85 < celsius then 1 else 0

/-- The floor of a bank's band at a new temperature: it falls once the temperature is 3 °C below a threshold (R357). -/
def bandFloor (old celsius : Nat) : Nat := Nat.max (bandAt celsius) (Nat.min old (bandAt (celsius + 3)))

/-- The band in force in a bank (R357, R359, R374): that of BAND, or 2 under the sequencer and until the first RENEW after a conservative
training, and never below the floor. -/
def Vault.bandOf (v : Vault) (bank : Nat) : Nat :=
  let written := Nat.min 2 (field v.band.toNat (2 * bank) 2)
  Nat.max (v.floors.getD bank 0) (if v.owner || v.conservative then 2 else written)

/-- The interval of the refresh commands of a bank, in picoseconds (R357). -/
def Vault.interval (v : Vault) (bank : Nat) : Nat :=
  match v.bandOf bank with
  | 0 => 15625000
  | 1 => 7812500
  | _ => 3906000

/-- VAULT_REFRESH (R357): a command refreshes 8 rows, and the bank is busy for tRFC. Accesses to it wait until then, but for those that the
refresh buffer serves (R358). -/
def execVaultRefresh (col : ColId) (bank : Fin 16) (s : State) : Host.Outcome State Fault Refusal :=
  done (s.modVault col fun v =>
    if v.busy.contains bank.val then v
    else { v with busy := bank.val :: v.busy, rows := v.rows.set bank.val ((v.rows.getD bank.val 0 + 8) % 16384) })

/-- REFRESH_END (R358): what was merged meanwhile has its place already. -/
def execRefreshEnd (col : ColId) (bank : Fin 16) (s : State) : Host.Outcome State Fault Refusal :=
  done (s.modVault col fun v => { v with busy := v.busy.filter fun b => b != bank.val })

/-- A record of a vault. -/
def vaultRecord (code : IncCode) (col : ColId) : Incident := (code.entry.atCol col).byEngine 5

/-- The sequencer takes a vault over once the lease has run out (R359). -/
def State.takeOver (s : State) (col : ColId) : State :=
  let v := (s.cols.get col).vault
  if v.owner || s.ptp.toNat < v.leaseEnd then s
  else
    let t := s.modVault col fun v => { v with owner := true, lapses := v.lapses + 1 }
    t.report { vaultRecord .refreshLeaseLapsed col with detail := zext64 (v.lapses + 1) }

/-- A write to the RENEW register (R359): the lease runs for 1.25 ms, and after a takeover the schedule is handed back; where the lease has run
out already, the takeover completes first. -/
def State.renew (s0 : State) (col : ColId) (value : Word) : State :=
  if value.getLsbD 0 then
    let s := s0.takeOver col
    let v := (s.cols.get col).vault
    let t := s.modVault col fun v => { v with owner := false, conservative := false, leaseEnd := s.ptp.toNat + 1250000 }
    if v.owner && v.leaseEnd != 0 then t.report (vaultRecord .refreshLeaseResumed col) else t
  else s0

/-- RENEW (R359). -/
def execRenew (col : ColId) (value : BitVec 64) (s : State) : Host.Outcome State Fault Refusal := done (s.renew col value)

/-- REFRESH_LEASE_LAPSE (R359). -/
def execRefreshLeaseLapse (col : ColId) (s : State) : Host.Outcome State Fault Refusal := done (s.takeOver col)

/-! ### The governor -/

/-- The entry condition of a level (R380, R379). -/
def State.levelHolds (s : State) (c : ColId) (level : Nat) : Bool :=
  let x := s.cols.get c
  let t := x.gov.jtemp.toNat
  if level = 1 then 95 < t || 800 < x.gov.power
  else if level = 2 then 100 < t || 850 < x.gov.power || x.vault.throttle
  else if level = 3 then 105 < t || x.gov.force || s.dev.droop.contains (colDie c)
  else true

/-- The temperatures stand at least 3 °C below the threshold of a level (R380). -/
def State.levelCool (s : State) (c : ColId) (level : Nat) : Bool :=
  let x := s.cols.get c
  x.gov.jtemp.toNat + 3 ≤ 90 + 5 * level && (level != 2 || x.vault.temps.all fun t => t.toNat + 3 ≤ 105)

/-- The highest level whose entry condition holds (R380). -/
def State.levelAsked (s : State) (c : ColId) : Nat :=
  if s.levelHolds c 3 then 3 else if s.levelHolds c 2 then 2 else if s.levelHolds c 1 then 1 else 0

/-- The time from which each level's condition has been false, after a change of what it rests on (R380). -/
def State.watchLevels (s : State) (c : ColId) : State :=
  let since := fun (k : Nat) =>
    if s.levelHolds c (k + 1) then none
    else some (((s.cols.get c).gov.since.getD k none).getD s.ptp.toNat)
  s.modCol c fun x => { x with gov := { x.gov with since := tabList since 0 3 } }

/-- The columns of a die watched. -/
def State.watchDie (s : State) (d : DieId) : State :=
  ((List.finRange 64).filter fun c => colDie c == d).foldl State.watchLevels s

/-- 100 µs have passed since the last change of a column (R380). -/
def State.mayChange (s : State) (c : ColId) : Bool :=
  match (s.cols.get c).gov.lastChange with
  | some t => t + 100000 ≤ s.ptp.toNat
  | none => true

/-- A throttle event (R232): the level, the host core, EVT of the four cores, and the selectors of the grids at work in the column. -/
def State.throttle (s : State) (c : ColId) (level trigger : Nat) : State :=
  let old := (s.cols.get c).gov.level.toNat
  let s1 := s.modCol c fun x => { x with
    gov := { x.gov with level := BitVec.ofNat 2 level, lastChange := some s.ptp.toNat }, imsic := x.imsic ++ [3] }
  let s2 := (List.finRange 4).foldl (fun (t : State) k => t.modCore (colCore c k) fun x => { x with
    evtLevel := BitVec.ofNat 2 level, evtCount := x.evtCount + 1, evtPend := true }) s1
  let hit := fun (x : Grid) => s.teams.any fun t => t.grid == x.id && t.col == c && t.place == .resident && !t.spawned
  let counted := fun (x : Grid) => { x with selector := { x.selector with
    throttled := if x.selector.throttled.contains c then x.selector.throttled else c :: x.selector.throttled } }
  let s3 : State := { s2 with grids := updWhere hit counted s2.grids }
  s3.report { IncCode.levelChanged.entry.atCol c with detail := BitVec.ofNat 64 (old + 4 * level + 16 * trigger) }

/-- LEVEL_RISE (R380, R232). -/
def execLevelRise (col : ColId) (s : State) : Host.Outcome State Fault Refusal :=
  done <|
    let asked := s.levelAsked col
    if (s.cols.get col).gov.level.toNat < asked && s.mayChange col then s.throttle col asked asked else s

/-- LEVEL_FALL (R380, R232): the level's condition has been false for 1 ms, and the temperatures stand 3 °C below its threshold. -/
def execLevelFall (col : ColId) (s : State) : Host.Outcome State Fault Refusal :=
  done <|
    let gov := (s.cols.get col).gov
    let n := gov.level.toNat
    match gov.since.getD (n - 1) none with
    | some t =>
      if n ≠ 0 && s.levelAsked col < n && s.levelCool col n && t + 1000000 ≤ s.ptp.toNat && s.mayChange col then s.throttle col (n - 1) n else s
    | none => s

/-- A write to the GOV register (R381): FORCE alone can be written. -/
def State.govWrite (s : State) (col : ColId) (value : Word) : State :=
  (s.modCol col fun x => { x with gov := { x.gov with force := value.getLsbD 10 } }).watchLevels col

/-- GOV_FORCE (R380, R381). -/
def execGovForce (col : ColId) (value : BitVec 64) (s : State) : Host.Outcome State Fault Refusal :=
  done (s.pageWrite fun s => s.govWrite col value)

/-- How far the minimum of a column's droop sensors lies below the prediction, in mV (R379). -/
def Droop.shortfall (d : Droop) : Nat := d.predicted - (d.readings.foldl Nat.min d.predicted)

/-- The worst of the sensors: that with the lowest reading. -/
def Droop.worst (d : Droop) : Nat :=
  (List.range 32).foldl (fun b i => if d.readings.getD i 0 < d.readings.getD b 0 then i else b) 0

/-- Columns next to each other on one die (R2, R379). DESIGN CHOICE (log entry 125): along x or y in the mesh of R238. -/
def neighbours (a b : ColId) : Bool :=
  let dist := fun (x y : Nat) => (x - y) + (y - x)
  colDie a == colDie b && dist (a.val % 4) (b.val % 4) + dist (a.val / 4 % 4) (b.val / 4 % 4) == 1

/-- The columns of a die. -/
def dieCols (d : DieId) : List ColId := (List.finRange 64).filter fun c => colDie c == d

/-- Since when a column's minimum has lain more than 30 mV below the prediction without a break, and since when no neighbour has lain more than
10 mV below its own meanwhile (R379). -/
def State.watchDroop (s : State) (c : ColId) : State :=
  let d := (s.cols.get c).droop
  let low := 30 < d.shortfall
  let lone := low && !((List.finRange 64).any fun n => neighbours c n && 10 < (s.cols.get n).droop.shortfall)
  let since := fun (b : Bool) (old : Option Nat) => if b then some (old.getD s.ptp.toNat) else none
  s.modCol c fun x => { x with droop := { d with low := since low d.low, alone := since lone d.alone } }

/-- A sample of the droop sensors of a column, with the prediction of its DMC (R379). -/
def State.droopSample (s : State) (c : ColId) (readings : List Nat) (predicted : Nat) : State :=
  let t := s.modCol c fun x => { x with droop := { x.droop with readings := readings, predicted := predicted } }
  (dieCols (colDie c)).foldl State.watchDroop t

/-- A time lies 10 ms back, or more. -/
def State.tenMs (s : State) (since : Option Nat) : Bool :=
  match since with
  | some t => t + 10000000 ≤ s.ptp.toNat
  | none => false

/-- SUSPECTED_CRACKED_CONNECTION (R379): the column alone has been short for 10 ms; the incident with the worst sensor, and the fencing. -/
def execSuspectedCrackedConnection (col : ColId) (sensor : Fin 32) (s : State) : Host.Outcome State Fault Refusal :=
  done <|
    let d := (s.cols.get col).droop
    if (s.cols.get col).fenced || !(s.tenMs d.alone) || d.worst != sensor.val then s
    else
      let t := s.report { IncCode.suspectedCracked.entry.atCol col with detail := BitVec.ofNat 64 sensor.val }
      t.fence col .cracked (some t.lastSeq)

/-- The shortfall that every column of a die shares, in mV. -/
def State.sharedShortfall (s : State) (die : DieId) : Nat :=
  (dieCols die).foldl (fun m c => Nat.min m (s.cols.get c).droop.shortfall) (2 ^ 32 - 1)

/-- Every column of a die has been short for 10 ms (R379). DESIGN CHOICE (log entry 125): a shared shortfall is one of the size and the length
that R379 names before. -/
def State.dieShort (s : State) (die : DieId) : Bool := (dieCols die).all fun c => s.tenMs (s.cols.get c).droop.low

/-- REGULATOR_DROOP (R379): a shortfall that every column of the die shares; the die is held at T3. -/
def execRegulatorDroop (die : DieId) (mv : BitVec 32) (s : State) : Host.Outcome State Fault Refusal :=
  done <|
    if !(s.dieShort die) || s.dev.droop.contains die || mv.toNat != s.sharedShortfall die then s
    else
      let t : State := { s with dev := { s.dev with droop := die :: s.dev.droop } }
      (t.watchDie die).report { IncCode.regulatorDroop.entry.byEngine 9 with die := die.val, detail := zext64 mv }

/-- REGULATOR_DROOP_CLEARED (R379): some column of the die is no longer short. -/
def execRegulatorDroopCleared (die : DieId) (s : State) : Host.Outcome State Fault Refusal :=
  done (if (dieCols die).all fun c => 30 < (s.cols.get c).droop.shortfall then s
    else ({ s with dev := { s.dev with droop := s.dev.droop.filter fun d => d != die } } : State).watchDie die)

/-- The hottest bank of a list of temperatures. -/
def hottest (temps : List Byte) : Nat :=
  (List.range 16).foldl (fun b i => if (temps.getD b 0).toNat < (temps.getD i 0).toNat then i else b) 0

/-- VAULT_HOT (R357, R359): a bank's temperature; above 105 °C the vault asks to be throttled, with its record (R390). -/
def execVaultHot (col : ColId) (bank : Fin 16) (celsius : BitVec 8) (s : State) : Host.Outcome State Fault Refusal :=
  done <|
    let old := (s.cols.get col).vault
    let temps := old.temps.set bank.val celsius
    let hot := temps.any fun t => 105 < t.toNat
    let floors := old.floors.set bank.val (bandFloor (old.floors.getD bank.val 0) celsius.toNat)
    let t := (s.modVault col fun v => { v with temps := temps, floors := floors, throttle := hot }).watchLevels col
    let h := hottest temps
    if hot && !old.throttle then
      t.report { vaultRecord .vaultHot col with detail := BitVec.ofNat 64 (h + 256 * (temps.getD h 0).toNat) }
    else t

/-! ### Ways and windows -/

/-- COLUMN_WAYS_WRITE (R381, R201). -/
def execColumnWaysWrite (col : ColId) (value : BitVec 64) (s : State) : Host.Outcome State Fault Refusal :=
  done (s.pageWrite fun s => s.waysWrite col value)

/-- A write to the PINWIN register of a core (R381). -/
def State.pinWrite (s : State) (core : CoreId) (value : Word) : State :=
  let n := field value.toNat 0 8
  if 128 < n then s else s.modCore core fun c => { c with pinPend := some n }

/-- PINWIN_WRITE (R381). -/
def execPinwinWrite (core : CoreId) (value : BitVec 64) (s : State) : Host.Outcome State Fault Refusal :=
  done (s.pageWrite fun s => s.pinWrite core value)

/-- PINWIN_APPLY (R381, R243): once no resident team holds its units, the window takes its size; a change of size clears it. -/
def execPinwinApply (core : CoreId) (s : State) : Host.Outcome State Fault Refusal :=
  done <| match (s.cores.get core).pinPend with
  | some n =>
    let inUse := s.teams.any fun t => t.place == .resident && t.core == core && t.units.any fun u => 256 - n ≤ u
    let window := fun (a : Nat) => pinLoc core 0 ≤ a && a < pinLoc core 0 + 2 ^ 20
    if inUse then s
    else if n = (s.cores.get core).pinwin then s.modCore core fun c => { c with pinPend := none }
    else
      let t := s.modCore core fun c => { c with
        pinwin := n, pinPend := none, holders := c.holders.filter fun h => h.1 < 256 - n }
      { t with mem := { t.mem with cells := t.mem.cells.filter fun x => !(window x.1)
                                   poison := t.mem.poison.filter fun sec => !(window (32 * sec))
                                   badBytes := t.mem.badBytes.filter fun a => !(window a) } }
  | none => s

end Sys2Proof.Machine
end

