-- ==== Sys2Proof/Machine/Sha.lean ====
section
/-! DEFINITION. The digests SHA-384 and SHA-256 (FIPS 180-4) that R376 and R377 use. -/
namespace Sys2Proof.Machine
set_option Elab.async false

/-- The round constants of SHA-384: the first 64 bits of the fractional parts of the cube roots of the first 80 primes. -/
def shaRounds : List Word :=
  [0x428A2F98D728AE22, 0x7137449123EF65CD, 0xB5C0FBCFEC4D3B2F, 0xE9B5DBA58189DBBC] ++
  [0x3956C25BF348B538, 0x59F111F1B605D019, 0x923F82A4AF194F9B, 0xAB1C5ED5DA6D8118] ++
  [0xD807AA98A3030242, 0x12835B0145706FBE, 0x243185BE4EE4B28C, 0x550C7DC3D5FFB4E2] ++
  [0x72BE5D74F27B896F, 0x80DEB1FE3B1696B1, 0x9BDC06A725C71235, 0xC19BF174CF692694] ++
  [0xE49B69C19EF14AD2, 0xEFBE4786384F25E3, 0x0FC19DC68B8CD5B5, 0x240CA1CC77AC9C65] ++
  [0x2DE92C6F592B0275, 0x4A7484AA6EA6E483, 0x5CB0A9DCBD41FBD4, 0x76F988DA831153B5] ++
  [0x983E5152EE66DFAB, 0xA831C66D2DB43210, 0xB00327C898FB213F, 0xBF597FC7BEEF0EE4] ++
  [0xC6E00BF33DA88FC2, 0xD5A79147930AA725, 0x06CA6351E003826F, 0x142929670A0E6E70] ++
  [0x27B70A8546D22FFC, 0x2E1B21385C26C926, 0x4D2C6DFC5AC42AED, 0x53380D139D95B3DF] ++
  [0x650A73548BAF63DE, 0x766A0ABB3C77B2A8, 0x81C2C92E47EDAEE6, 0x92722C851482353B] ++
  [0xA2BFE8A14CF10364, 0xA81A664BBC423001, 0xC24B8B70D0F89791, 0xC76C51A30654BE30] ++
  [0xD192E819D6EF5218, 0xD69906245565A910, 0xF40E35855771202A, 0x106AA07032BBD1B8] ++
  [0x19A4C116B8D2D0C8, 0x1E376C085141AB53, 0x2748774CDF8EEB99, 0x34B0BCB5E19B48A8] ++
  [0x391C0CB3C5C95A63, 0x4ED8AA4AE3418ACB, 0x5B9CCA4F7763E373, 0x682E6FF3D6B2B8A3] ++
  [0x748F82EE5DEFB2FC, 0x78A5636F43172F60, 0x84C87814A1F0AB72, 0x8CC702081A6439EC] ++
  [0x90BEFFFA23631E28, 0xA4506CEBDE82BDE9, 0xBEF9A3F7B2C67915, 0xC67178F2E372532B] ++
  [0xCA273ECEEA26619C, 0xD186B8C721C0C207, 0xEADA7DD6CDE0EB1E, 0xF57D4F7FEE6ED178] ++
  [0x06F067AA72176FBA, 0x0A637DC5A2C898A6, 0x113F9804BEF90DAE, 0x1B710B35131C471B] ++
  [0x28DB77F523047D84, 0x32CAAB7B40C72493, 0x3C9EBE0A15C9BEBC, 0x431D67C49C100D4C] ++
  [0x4CC5D4BECB3E42B6, 0x597F299CFC657E2A, 0x5FCB6FAB3AD6FAEC, 0x6C44198C4A475817]

/-- The initial hash value of SHA-384: those of the square roots of the ninth to sixteenth primes. -/
def shaStart : List Word :=
  [0xCBBB9D5DC1059ED8, 0x629A292A367CD507, 0x9159015A3070DD17, 0x152FECD8F70E5939] ++
  [0x67332667FFC00B31, 0x8EB44A8768581511, 0xDB0C2E0D64F98FA7, 0x47B5481DBEFA4FA4]

/-- The four functions of the schedule and of the rounds. -/
def shaSmall0 (x : Word) : Word := x.rotateRight 1 ^^^ x.rotateRight 8 ^^^ (x >>> 7)
def shaSmall1 (x : Word) : Word := x.rotateRight 19 ^^^ x.rotateRight 61 ^^^ (x >>> 6)
def shaBig0 (x : Word) : Word := x.rotateRight 28 ^^^ x.rotateRight 34 ^^^ x.rotateRight 39
def shaBig1 (x : Word) : Word := x.rotateRight 14 ^^^ x.rotateRight 18 ^^^ x.rotateRight 41

/-- The message schedule, the latest word first, so many words long beyond the block's own. -/
def shaSchedule : Nat → List Word → List Word
  | 0, w => w
  | k + 1, w => shaSchedule k ((shaSmall1 (w.getD 1 0) + w.getD 6 0 + shaSmall0 (w.getD 14 0) + w.getD 15 0) :: w)

/-- One round over the eight working words. -/
def shaRound (h : List Word) (kw : Word × Word) : List Word :=
  match h with
  | [a, b, c, d, e, f, g, x] =>
    let t1 := x + shaBig1 e + ((e &&& f) ^^^ (~~~e &&& g)) + kw.1 + kw.2
    let t2 := shaBig0 a + ((a &&& b) ^^^ (a &&& c) ^^^ (b &&& c))
    [t1 + t2, a, b, c, d + t1, e, f, g]
  | _ => h

/-- A number from bytes, the most significant first. -/
def natBE (bs : List Byte) : Nat := bs.foldl (fun n b => 256 * n + b.toNat) 0

/-- One block of 128 bytes. -/
def shaBlock (h : List Word) (block : List Byte) : List Word :=
  let w := tabList (fun i => BitVec.ofNat 64 (natBE ((block.drop (8 * (15 - i))).take 8))) 0 16
  let out := ((shaRounds.zip (shaSchedule 64 w).reverse).foldl shaRound h)
  (h.zip out).map fun p => p.1 + p.2

/-- The message padded to whole blocks. -/
def shaPad (bs : List Byte) : List Byte :=
  bs ++ [0x80#8] ++ List.replicate ((239 - bs.length % 128) % 128) 0 ++ (leBytes 16 (8 * bs.length)).reverse

/-- The blocks of a message, so many. -/
def shaBlocks : Nat → List Byte → List Word → List Word
  | 0, _, h => h
  | k + 1, bs, h => shaBlocks k (bs.drop 128) (shaBlock h (bs.take 128))

/-- The 48 bytes of the SHA-384 digest of some bytes. -/
def sha384 (bs : List Byte) : List Byte :=
  let m := shaPad bs
  (((shaBlocks (m.length / 128) m shaStart).take 6).map fun w => (leBytes 8 w.toNat).reverse).flatten

/-! ### SHA-256 -/

/-- The round constants of SHA-256: the upper halves of the first 64 of SHA-384. -/
def sha256Rounds : List Word32 := (shaRounds.take 64).map fun k => k.extractLsb' 32 32

/-- The initial hash value of SHA-256: the first 32 bits of the fractional parts of the square roots of the first 8 primes. -/
def sha256Start : List Word32 :=
  [0x6A09E667, 0xBB67AE85, 0x3C6EF372, 0xA54FF53A, 0x510E527F, 0x9B05688C, 0x1F83D9AB, 0x5BE0CD19]

/-- The four functions of its schedule and of its rounds. -/
def sha256Small0 (x : Word32) : Word32 := x.rotateRight 7 ^^^ x.rotateRight 18 ^^^ (x >>> 3)
def sha256Small1 (x : Word32) : Word32 := x.rotateRight 17 ^^^ x.rotateRight 19 ^^^ (x >>> 10)
def sha256Big0 (x : Word32) : Word32 := x.rotateRight 2 ^^^ x.rotateRight 13 ^^^ x.rotateRight 22
def sha256Big1 (x : Word32) : Word32 := x.rotateRight 6 ^^^ x.rotateRight 11 ^^^ x.rotateRight 25

/-- Its message schedule, the latest word first, so many words long beyond the block's own. -/
def sha256Schedule : Nat → List Word32 → List Word32
  | 0, w => w
  | k + 1, w => sha256Schedule k ((sha256Small1 (w.getD 1 0) + w.getD 6 0 + sha256Small0 (w.getD 14 0) + w.getD 15 0) :: w)

/-- One of its rounds over the eight working words. -/
def sha256Round (h : List Word32) (kw : Word32 × Word32) : List Word32 :=
  match h with
  | [a, b, c, d, e, f, g, x] =>
    let t1 := x + sha256Big1 e + ((e &&& f) ^^^ (~~~e &&& g)) + kw.1 + kw.2
    let t2 := sha256Big0 a + ((a &&& b) ^^^ (a &&& c) ^^^ (b &&& c))
    [t1 + t2, a, b, c, d + t1, e, f, g]
  | _ => h

/-- One of its blocks, of 64 bytes. -/
def sha256Block (h : List Word32) (block : List Byte) : List Word32 :=
  let w := tabList (fun i => BitVec.ofNat 32 (natBE ((block.drop (4 * (15 - i))).take 4))) 0 16
  let out := ((sha256Rounds.zip (sha256Schedule 48 w).reverse).foldl sha256Round h)
  (h.zip out).map fun p => p.1 + p.2

/-- The blocks of a message, so many. -/
def sha256Blocks : Nat → List Byte → List Word32 → List Word32
  | 0, _, h => h
  | k + 1, bs, h => sha256Blocks k (bs.drop 64) (sha256Block h (bs.take 64))

/-- The 32 bytes of the SHA-256 digest of some bytes. -/
def sha256 (bs : List Byte) : List Byte :=
  let m := bs ++ [0x80#8] ++ List.replicate ((119 - bs.length % 64) % 64) 0 ++ bytesBE 8 (8 * bs.length)
  ((sha256Blocks (m.length / 64) m sha256Start).map fun w => bytesBE 4 w.toNat).flatten

end Sys2Proof.Machine
end

