-- ==== Sys2Proof/Machine/Sign.lean ====
section
/-! DEFINITION. The signatures under which a DMC image is accepted (R376): ECDSA over the curve P-384, and LMS of RFC 8554 with the parameter
sets LMS_SHA256_M32_H10 and LMOTS_SHA256_N32_W4. -/
namespace Sys2Proof.Machine
set_option Elab.async false

/-! ### ECDSA P-384 -/

/-- The prime of the field of P-384, the order of its base point, and the constant b of y² = x³ - 3·x + b. -/
def p384Prime : Nat := 2 ^ 384 - 2 ^ 128 - 2 ^ 96 + 2 ^ 32 - 1

def p384Order : Nat := 0xFFFFFFFFFFFFFFFFFFFFFFFFFFFFFFFFFFFFFFFFFFFFFFFFC7634D81F4372DDF581A0DB248B0A77AECEC196ACCC52973

def p384B : Nat := 0xB3312FA7E23EE7E4988E056BE3F82D19181D9C6EFE8141120314088F5013875AC656398D8A2ED19D2A85C8EDD3EC2AEF

/-- A point of the curve; none is the point at infinity. -/
abbrev Point384 := Option (Nat × Nat)

/-- The base point. -/
def p384Base : Point384 :=
  some (0xAA87CA22BE8B05378EB1C71EF320AD746E1D3B628BA79B9859F741E082542A385502F25DBF55296C3A545E3872760AB7,
    0x3617DE4A96262C6F5D9E98BF9292DC29F8F41DBD289A147CE9DA3113B5F0B8C00A60B1CE1D7E819D7A431D7C90EA0E5F)

/-- The bits of a number of 384 bits, the most significant first. -/
def bits384 (e : Nat) : List Bool := (tabList (fun i => e.testBit i) 0 384).reverse

/-- A power, and the inverse of a number, modulo a prime. -/
def powMod (m b e : Nat) : Nat := (bits384 e).foldl (fun x bit => if bit then x * x % m * b % m else x * x % m) 1
def invMod (m a : Nat) : Nat := powMod m a (m - 2)

/-- The sum of two points. -/
def Point384.add (a b : Point384) : Point384 :=
  match a, b with
  | none, q => q
  | p, none => p
  | some (x1, y1), some (x2, y2) =>
    let m := p384Prime
    if x1 = x2 && (y1 + y2) % m = 0 then none
    else
      let slope := if x1 = x2 then (3 * x1 * x1 + m - 3) * invMod m (2 * y1) % m else (y2 + m - y1) * invMod m (x2 + m - x1) % m
      let x := (slope * slope + 2 * m - x1 - x2) % m
      some (x, (slope * (x1 + m - x) + m - y1) % m)

/-- A multiple of a point. -/
def Point384.times (p : Point384) (k : Nat) : Point384 :=
  (bits384 k).foldl (fun (x : Point384) bit => if bit then (x.add x).add p else x.add x) none

/-- A point lies on the curve. -/
def onCurve (x y : Nat) : Bool :=
  x < p384Prime && y < p384Prime && y * y % p384Prime == (x * x * x + p384Prime * x - 3 * x + p384B) % p384Prime

/-- An ECDSA P-384 signature verifies (R376): the key is a point of the curve, and the signature two numbers, each coordinate and number of 48
bytes, the most significant first. DESIGN CHOICE (log entry 120): R376 names neither those forms nor the digest, which is SHA-384. -/
def ecdsaVerifies (key msg sig : List Byte) : Bool :=
  let x := natBE (key.take 48)
  let y := natBE (key.drop 48)
  let r := natBE (sig.take 48)
  let s := natBE (sig.drop 48)
  let n := p384Order
  let w := invMod n s
  key.length == 96 && sig.length == 96 && onCurve x y && 0 < r && r < n && 0 < s && s < n &&
    match ((p384Base.times (natBE (sha384 msg) * w % n)).add (Point384.times (some (x, y)) (r * w % n))) with
    | some (u, _) => u % n == r
    | none => false

/-! ### LMS -/

/-- The bytes of a string from one on, so many. -/
def slice (bs : List Byte) (at' n : Nat) : List Byte := (bs.drop at').take n

/-- The i-th digit of four bits of a string, the upper one of a byte first. -/
def digit (bs : List Byte) (i : Nat) : Nat :=
  let b := (bs.getD (i / 2) 0).toNat
  if i % 2 = 0 then b / 16 else b % 16

/-- A chain of a one-time signature taken to its end: its number, where it stands, how many steps are left of 15. -/
def chainEnd (I : List Byte) (q i : Nat) : Nat → List Byte → List Byte
  | 0, v => v
  | k + 1, v => chainEnd I q i k (sha256 (I ++ bytesBE 4 q ++ bytesBE 2 i ++ bytesBE 1 (14 - k) ++ v))

/-- The public key that a one-time signature of a message gives: C and the 67 chains. -/
def otsKey (I : List Byte) (q : Nat) (msg ots : List Byte) : List Byte :=
  let digest := sha256 (I ++ bytesBE 4 q ++ bytesBE 2 0x8181 ++ slice ots 0 32 ++ msg)
  let sum := (tabList (fun i => 15 - digit digest i) 0 64).foldl (· + ·) 0
  let all := digest ++ bytesBE 2 (16 * sum)
  let ends := tabList (fun i => chainEnd I q i (15 - digit all i) (slice ots (32 + 32 * i) 32)) 0 67
  sha256 (I ++ bytesBE 4 q ++ bytesBE 2 0x8080 ++ ends.flatten)

/-- The root of the tree, from a node up along its authentication path. -/
def treeRoot (I : List Byte) : List (List Byte) → Nat → List Byte → List Byte
  | [], _, v => v
  | sib :: r, node, v =>
    treeRoot I r (node / 2) (sha256 (I ++ bytesBE 4 (node / 2) ++ bytesBE 2 0x8383 ++ if node % 2 = 1 then sib ++ v else v ++ sib))

/-- An LMS signature verifies (R376): the types of both parameter sets, a leaf of the 1,024, and the root that its path leads to. -/
def lmsVerifies (key msg sig : List Byte) : Bool :=
  let I := slice key 8 16
  let q := natBE (slice sig 0 4)
  let leaf := sha256 (I ++ bytesBE 4 (1024 + q) ++ bytesBE 2 0x8282 ++ otsKey I q msg (slice sig 8 2176))
  key.length == 56 && sig.length == 2508 && natBE (slice key 0 4) == 6 && natBE (slice key 4 4) == 3 && natBE (slice sig 4 4) == 3 &&
    natBE (slice sig 2184 4) == 6 && q < 1024 &&
    treeRoot I (tabList (fun i => slice sig (2188 + 32 * i) 32) 0 10) (1024 + q) leaf == slice key 24 32

end Sys2Proof.Machine
end

