-- ==== Sys2Proof/Machine/Boot.lean ====
section
/-! DEFINITION. Resets of the device and the boot steps (R374 to R376, R381, R392). -/
namespace Sys2Proof.Machine
set_option Elab.async false

/-! ### Boot records -/

/-- A progress record put into the flash, which keeps the last 2,048 (R375). -/
def Flash.record (f : Flash) (r : BootRec) : Flash :=
  let all := f.records ++ [r]
  { f with records := all.drop (all.length - 2048) }

/-- The units that count as failed in a boot (R375): a "failed" record, or a "started" one without a "done" one; a
record whose CRC fails is ignored. -/
def Flash.failed (f : Flash) (serial : Word) : List (Nat × Byte) :=
  let mine := f.records.filter fun r => r.serial == serial && r.crc == Config.crc64 r.covered
  let done := fun (r : BootRec) => mine.any fun q => q.kind == 2 && q.step == r.step && q.unit == r.unit
  ((mine.filter fun r => r.kind == 3 || (r.kind == 1 && !done r)).map fun r => (r.step, r.unit)).eraseDups

/-- A boot has taken the alternate path of a step (R375). -/
def Flash.tookAlternate (f : Flash) (serial : Word) (step : Nat) : Bool :=
  f.records.any fun r => r.serial == serial && r.step == step && r.kind == 5 && r.crc == Config.crc64 r.covered

/-- A progress record of the boot in progress (R375): it goes to the flash, and to the device log or its reserve (R386). DESIGN CHOICE (log
entry 99): the cycle count of the DMC is a free value. -/
def State.bootRecord (s : State) (step kind : Nat) (unit : Byte) (detail : Word32) : State :=
  let r0 : BootRec := ⟨s.log.bootSerial, step, kind, unit, detail, BitVec.ofNat 64 (Config.fact s.tick 40), 0⟩
  let r := { r0 with crc := Config.crc64 r0.covered }
  ({ s with flash := s.flash.record r, tick := s.tick + 1 } : State).logAppend (.boot r)

/-! ### Images -/

/-- A string of bytes with zeros up to a length. -/
def padTo (n : Nat) (bs : List Byte) : List Byte := bs ++ List.replicate (n - bs.length) 0

/-- The bytes of an image that its ECDSA signature covers, 0x00 to 0x7F (R376). -/
def DmcImage.signed (i : DmcImage) : List Byte :=
  padTo 16 (leBytes 4 i.magic.toNat ++ leBytes 4 i.version.toNat ++ leBytes 8 i.bodyLength.toNat) ++
    padTo 48 (leBytes 4 i.security.toNat) ++ padTo 64 i.digest

/-- The bytes of an image: the header of 4 KiB and the body (R376). -/
def DmcImage.bytes (i : DmcImage) : List Byte := padTo 4096 (padTo 256 (i.signed ++ i.ecdsa) ++ i.lms) ++ i.body

/-- An image is accepted (R376): the digest of its body, both signatures under keys whose hashes the fuses hold, and a security version at or
above the floor. DESIGN CHOICE (log entry 120): the LMS signature covers the bytes that the ECDSA signature covers. -/
def DmcImage.accepted (i : DmcImage) (f : Flash) : Bool :=
  i.magic == 0x5A371A9E && i.bodyLength.toNat == i.body.length && i.digest == sha384 i.body &&
    sha384 i.ecdsaKey == f.ecdsaHash && sha384 i.lmsKey == f.lmsHash && ecdsaVerifies i.ecdsaKey i.signed i.ecdsa &&
    lmsVerifies i.lmsKey i.signed i.lms && decide (f.floor.toNat ≤ i.security.toNat)

/-- The images of the bank that boots. -/
def Flash.bankImages (f : Flash) : List DmcImage := f.images.getD (if f.bank then 1 else 0) []

/-- The first DMC whose image is not accepted (R376): the DMC of d0 verifies all four. -/
def Flash.rejected (f : Flash) : Option Nat := (List.range 4).find? fun k => !((f.bankImages[k]?.map fun i => i.accepted f).getD false)

/-- The floor that images accepted with the fuse-raise bit ask for (R376). -/
def Flash.raised (f : Flash) : Word32 :=
  (f.bankImages.filter (·.raise)).foldl (fun v i => if v < i.security then i.security else v) f.floor

/-- The fuse floor after the images have been accepted (R376). -/
def State.raiseFloor (s : State) : State :=
  let v := s.flash.raised
  if s.flash.floor < v then
    ({ s with flash := { s.flash with floor := v } } : State).report
      { IncCode.floorAdvanced.entry.byEngine 9 with detail := zext64 v }
  else s

/-- The incident of an image that is not accepted (R390): flash bank and DMC. -/
def State.rejectImage (s : State) (dmc : Nat) : State :=
  s.report { IncCode.imageRejected.entry.byEngine 9 with detail := BitVec.ofNat 64 ((if s.flash.bank then 1 else 0) + 256 * dmc) }

/-! ### Steps -/

/-- Severity and action of a reset cause (R392). -/
def causeInfo (cause : Nat) : Nat × Nat :=
  if cause < 4 then (0, 0) else if cause = 6 || cause = 7 then (5, 7) else (5, 8)

/-- The first record of a boot (R392): the third of a cause of action 7 within 24 hours asks for service. -/
def resetRecord (cause : Nat) (recent : List (Byte × Nat)) : Incident :=
  let (sev, act) := causeInfo cause
  let again := (recent.filter fun c => c.1.toNat == cause).length
  { IncCode.deviceReset.entry.byEngine 9 with
    sev := sev, act := if act = 7 && 2 ≤ again then 8 else act, detail := BitVec.ofNat 64 cause }

/-- The units of a step (R374, R375): stacks, columns, ports, or the whole device. -/
def stepUnits (step : Nat) : List Byte :=
  if step = 4 then tabList (BitVec.ofNat 8) 0 12
  else if step = 5 || step = 6 || step = 7 then tabList (BitVec.ofNat 8) 0 64
  else [0xFF]

/-- The unit by which the alternate path of a step is taken. -/
def stepUnit (step : Nat) (unit : Byte) : Byte := if step = 4 || step = 5 || step = 6 || step = 7 then unit else 0xFF

/-- A step has an alternate path (R374). -/
def hasAlternate (step : Nat) : Bool := step != 2 && step != 9

/-- A step may leave its unit out (R374). -/
def stepOptional (step : Nat) : Bool := step == 4 || step == 6 || step == 7

/-- A required step has failed on its alternate path, or has none: boot stops (R374), with the record of its cause. DESIGN CHOICE (log entry
124): the record is written when the boot stops, since the first record of the boot names the cause of its start. -/
def State.bootStops (s : State) : State :=
  ({ s with dev := { s.dev with bootFail := true, resetCause := 5 } } : State).report (resetRecord 5 [])

/-- UCIe training that leaves out the modules that fail (R374): which ones is a free value. With fewer than 12 of 16 in a pair the training has
failed on its alternate path, which its record says (R375); the detail code of that record is a free value (log entry 99). -/
def State.trainModules (s : State) : State :=
  let live := fun (p : Nat) => (List.range 16).filter fun m => Config.fact s.tick (100 + 16 * p + m) % 2 = 0
  let t : State := { s with tick := s.tick + 1, links := { s.links with modules := tabList live 0 4 } }
  if (List.range 4).all fun p => 12 ≤ (live p).length then t
  else (t.bootRecord 3 3 0xFF (BitVec.ofNat 32 (Config.fact s.tick 41))).bootStops

/-- A port held down (R366, R374). -/
def State.holdPort (s : State) (p : PortId) : State :=
  { s with links := { s.links with ports := s.links.ports.set p.val ⟨false, none, false, false, []⟩ p.isLt } }

/-- What the alternate path of a step does with a unit (R374). The other bank is that which the previous boot did not fail on: where that boot
took the alternate path itself, it has changed the bank already. -/
def State.alternatePath (s : State) (step : Nat) (unit : Nat) (again : Bool) : State :=
  if step = 1 then (if again then s else { s with flash := { s.flash with bank := !s.flash.bank } })
  else if step = 3 then s.trainModules
  else if step = 4 then
    if h : unit < 12 then (match execStackLost ⟨unit, h⟩ s with
      | .next t => t
      | _ => s) else s
  else if step = 5 then
    if h : unit < 64 then s.modVault ⟨unit, h⟩ fun v => { v with conservative := true } else s
  else if step = 6 then
    if h : unit < 64 then (if (s.cols.get ⟨unit, h⟩).fenced then s else s.fence ⟨unit, h⟩ .computeCore none) else s
  else if step = 7 then
    if h : unit < 64 then s.holdPort ⟨unit, h⟩ else s
  else if step = 8 then { s with dev := { s.dev with gen5 := true } }
  else s

/-- The alternate path of a step taken for a unit: its progress record, its incident and its effect (R374, R375, R390). A port stays down by
the entry for step 7. -/
def State.takeAlternate (s : State) (step : Nat) (unit : Byte) (again : Bool) : State :=
  let s1 := s.bootRecord step 5 unit 0
  let s2 : State := { s1 with flash := { s1.flash with alternate := (step, unit) :: s1.flash.alternate } }
  (s2.report { IncCode.bootAlternate.entry.byEngine 9 with detail := BitVec.ofNat 64 (step + 256 * unit.toNat) }).alternatePath step
    unit.toNat again

/-- A step starts on each of its units, with the alternate path for those that failed in the previous boot (R374, R375). -/
def State.startStep (s : State) (step : Nat) : State :=
  let s1 : State := { s with flash := { s.flash with step := step }, dev := { s.dev with bootStepNo := BitVec.ofNat 4 step } }
  let s2 := (stepUnits step).foldl (fun (t : State) u => t.bootRecord step 1 u 0) s1
  let before := s.log.bootSerial - 1
  let failed := (((s.flash.failed before).filter fun u => u.1 == step && hasAlternate step).map fun u => stepUnit step u.2).eraseDups
  failed.foldl (fun (t : State) u => t.takeAlternate step u (s.flash.tookAlternate before step)) s2

/-- The units of a step that have not ended in this boot: those that are neither done nor left out (R375). -/
def State.unitsLeft (s : State) (step : Nat) : List Byte :=
  (stepUnits step).filter fun u => !(s.flash.records.any fun r =>
    r.serial == s.log.bootSerial && r.step == step && (r.kind == 2 || r.kind == 4) && r.unit == u)

/-- A unit ends well before the others of its step (R375): every unit has records of its own. -/
def State.unitDone (s : State) (unit : Byte) : State :=
  if !s.dev.bootFail && 4 ≤ s.flash.step && s.flash.step ≤ 7 && (s.unitsLeft s.flash.step).contains unit then s.bootRecord s.flash.step 2 unit 0
  else s

/-- A step that all four dies have reported (R374): the next one starts, or the device runs. -/
def State.stepDone (s : State) : State :=
  let n := s.flash.step
  let s1 := (s.unitsLeft n).foldl (fun (t : State) u => t.bootRecord n 2 u 0) s
  let s2 := if n = 1 then s1.raiseFloor else s1
  if n < 9 then s2.startStep (n + 1)
  else { s2 with flash := { s2.flash with step := 10 }, dev := { s2.dev with running := true } }

/-- A step that fails on a unit (R374): its alternate path is taken; on it, an optional step leaves the unit out of service, and a
required one stops the boot. DESIGN CHOICE (log entry 99): a step that fails in a boot is tried on its alternate path in the same boot. -/
def State.stepFails (s : State) (unit : Byte) (detail : Word32) : State :=
  let n := s.flash.step
  let s1 := s.bootRecord n 3 unit detail
  let u := stepUnit n unit
  if hasAlternate n && !(s1.flash.alternate.contains (n, u)) then s1.takeAlternate n u false
  else if stepOptional n then s1.bootRecord n 4 unit detail
  else s1.bootStops

/-- BOOT_STEP (R374 to R376): the step in progress ends on its units; the images must be accepted before the first step is done. -/
def execBootStep (outcome : BootOutcome) (s : State) : Host.Outcome State Fault Refusal :=
  done <|
    if s.dev.bootFail || s.flash.step = 0 || 9 < s.flash.step then s
    else match outcome with
      | .done => match if s.flash.step = 1 then s.flash.rejected else none with
        | some dmc => (s.rejectImage dmc).stepFails 0xFF (BitVec.ofNat 32 dmc)
        | none => s.stepDone
      | .failed unit detail => (if s.flash.step = 1 then s.rejectImage unit.toNat else s).stepFails unit detail

/-! ### Resets -/

/-- The device is reset (R381, R392) and the boot starts: everything is as after reset but the flash, the fuses and the clock; the
memories hold what the spec does not say. The record of a reset that an incident has caused names its chain (R387). -/
def State.deviceReset (s : State) (cause : Nat) (more : List Incident) : State :=
  let day := 86400 * 10 ^ 9
  let recent := s.log.causes.filter fun c => s.ptp.toNat < c.2 + day
  let blank := State.reset
  let t : State := { blank with
    mem := { blank.mem with base := .free s.tick, parityBase := .parity (.free s.tick) 11 }
    images := s.images
    dev := { blank.dev with resetCause := BitVec.ofNat 8 cause }
    flash := { s.flash with alternate := [] }
    log := { blank.log with
      root := s.log.root
      bootSerial := s.log.bootSerial + 1
      causes := recent ++ (if (causeInfo cause).2 = 7 then [(BitVec.ofNat 8 cause, s.ptp.toNat)] else []) }
    ptp := s.ptp, turns := s.turns, tick := s.tick + 1, fresh := s.fresh }
  let u := State.reportAll (resetRecord cause recent :: more) t
  ({ u with log := { u.log with root := none } } : State).startStep 1

/-- POWER_ON (R374, R392). -/
def execPowerOn (s : State) : Host.Outcome State Fault Refusal := done (s.deviceReset 0 [])

/-- A write to the DEVRESET register (R381). -/
def State.devresetWrite (s : State) (value : Word) : State :=
  if value.toNat % 2 ^ 32 = 0x5A370001 then s.deviceReset 1 [] else s

/-- DEVRESET (R381). -/
def execDevreset (value : BitVec 64) (s : State) : Host.Outcome State Fault Refusal := done (s.devresetWrite value)

/-- PCIE_RESET (R392). -/
def execPcieReset (s : State) : Host.Outcome State Fault Refusal := done (s.deviceReset 2 [])

/-- MANAGEMENT_REQUEST (R392). -/
def execManagementRequest (s : State) : Host.Outcome State Fault Refusal := done (s.deviceReset 3 [])

/-- DMC_WATCHDOG (R392): the DMC of any die. -/
def execDmcWatchdog (_die : DieId) (s : State) : Host.Outcome State Fault Refusal := done (s.deviceReset 6 [])

/-- THERMAL_TRIP (R392): a junction above 115 °C; its record is written after the reset (R390). -/
def execThermalTrip (die : DieId) (celsius : BitVec 8) (s : State) : Host.Outcome State Fault Refusal :=
  done (if 115 < celsius.toNat then
      s.deviceReset 7 [{ IncCode.thermalTrip.entry.byEngine 9 with die := die.val, detail := zext64 celsius }]
    else s)

/-- REGULATOR_FAULT (R392). -/
def execRegulatorFault (s : State) : Host.Outcome State Fault Refusal := done (s.deviceReset 8 [])

end Sys2Proof.Machine
end

