-- ==== Sys2Proof/Machine/VecFloat.lean ====
section
/-! DEFINITION. Vector float instructions (R119, R120, R43). -/
namespace Sys2Proof.Machine
set_option Elab.async false

/-- A float operation on one source, under MD.ROUND and MD.FTZ. -/
def float1 (s : State) (G : Guard) (d a : VReg) (f : Fmt → Num → Nat × Flags) : Host.Outcome State Fault Refusal :=
  elemwise1 s G d a floatType fun t x => f (fmtOf t) ((fmtOf t).decode s.g.ftz x)

/-- A float operation on two sources. -/
def float2 (s : State) (G : Guard) (d a b : VReg) (f : Fmt → Num → Num → Nat × Flags) : Host.Outcome State Fault Refusal :=
  elemwise2 s G d a b floatType fun t x y => f (fmtOf t) ((fmtOf t).decode s.g.ftz x) ((fmtOf t).decode s.g.ftz y)

/-- A fused operation: a, b and the old destination. -/
def float3 (s : State) (G : Guard) (d a b : VReg) (f : Fmt → Num → Num → Num → Nat × Flags) :
    Host.Outcome State Fault Refusal :=
  elemwise3 s G d a b floatType fun t x y z =>
    f (fmtOf t) ((fmtOf t).decode s.g.ftz x) ((fmtOf t).decode s.g.ftz y) ((fmtOf t).decode s.g.ftz z)

/-- A magnitude with a sign, exactly; a NaN gives the canonical one (R119). -/
def Fmt.withSign (F : Fmt) (neg : Bool) : Num → Nat × Flags
  | .nan s _ => (F.nanBits, flIf s flInv)
  | .inf _ => (F.infBits neg, 0)
  | .fin _ m e => ((F.encode 0 false (.fin neg m e)).1, 0)

/-- FADD (R119). -/
def execFadd (g : Guard) (d a b : VReg) (s : State) : Host.Outcome State Fault Refusal :=
  float2 s g d a b fun F x y => F.addNum s.g.round s.g.ftz x y

/-- FSUB (R119). -/
def execFsub (g : Guard) (d a b : VReg) (s : State) : Host.Outcome State Fault Refusal :=
  float2 s g d a b fun F x y => F.addNum s.g.round s.g.ftz x y.negate

/-- FMUL (R119). -/
def execFmul (g : Guard) (d a b : VReg) (s : State) : Host.Outcome State Fault Refusal :=
  float2 s g d a b fun F x y => F.mulNum s.g.round s.g.ftz x y

/-- FMIN (R119). -/
def execFmin (g : Guard) (d a b : VReg) (s : State) : Host.Outcome State Fault Refusal :=
  elemwise2 s g d a b floatType fun t x y => (fmtOf t).minMax false s.g.ftz x y

/-- FMAX (R119). -/
def execFmax (g : Guard) (d a b : VReg) (s : State) : Host.Outcome State Fault Refusal :=
  elemwise2 s g d a b floatType fun t x y => (fmtOf t).minMax true s.g.ftz x y

/-- FABS (R119). -/
def execFabs (g : Guard) (d a : VReg) (s : State) : Host.Outcome State Fault Refusal :=
  float1 s g d a fun F x => F.withSign false x

/-- FNEG (R119). -/
def execFneg (g : Guard) (d a : VReg) (s : State) : Host.Outcome State Fault Refusal :=
  float1 s g d a fun F x => F.withSign (!x.neg) x

/-- FSGNJ (R119): b gives its sign bit alone. -/
def execFsgnj (g : Guard) (d a b : VReg) (s : State) : Host.Outcome State Fault Refusal :=
  elemwise2 s g d a b floatType fun t x y =>
    (fmtOf t).withSign (field y ((fmtOf t).width - 1) 1 == 1) ((fmtOf t).decode s.g.ftz x)

/-- FMA (R119). -/
def execFma (g : Guard) (d a b : VReg) (s : State) : Host.Outcome State Fault Refusal :=
  float3 s g d a b fun F x y z => F.fmaNum s.g.round s.g.ftz x y z

/-- FMS (R119). -/
def execFms (g : Guard) (d a b : VReg) (s : State) : Host.Outcome State Fault Refusal :=
  float3 s g d a b fun F x y z => F.fmaNum s.g.round s.g.ftz x y z.negate

/-- FNMA (R119). -/
def execFnma (g : Guard) (d a b : VReg) (s : State) : Host.Outcome State Fault Refusal :=
  float3 s g d a b fun F x y z => F.fmaNum s.g.round s.g.ftz x.negate y z

/-- FDIV (R120). -/
def execFdiv (g : Guard) (d a b : VReg) (s : State) : Host.Outcome State Fault Refusal :=
  float2 s g d a b fun F x y => F.divNum s.g.round s.g.ftz x y

/-- FSQRT (R43). -/
def execFsqrt (g : Guard) (d a : VReg) (s : State) : Host.Outcome State Fault Refusal :=
  float1 s g d a fun F x => F.sqrtNum s.g.round s.g.ftz x

/-- FRSQ (R43). -/
def execFrsq (g : Guard) (d a : VReg) (s : State) : Host.Outcome State Fault Refusal :=
  float1 s g d a fun F x => F.rsqrtNum s.g.round s.g.ftz x

/-- The instruction has used free values: the next ones are others. -/
def tickOn (s : State) : State := { s with tick := s.tick + 1 }

/-- A function of R43 that delivers either neighbour of an inexact result: the free choice is by lane and element. -/
def faithful (s : State) (G : Guard) (d a : VReg) (f : Fmt → Bool → Num → Nat × Flags) : Host.Outcome State Fault Refusal :=
  lanewise (tickOn s) G d false [a] floatType fun t L =>
    perElem t fun j => f (fmtOf t) (Config.upperNeighbour s.tick L j) ((fmtOf t).decode s.g.ftz (elemAt t (s.g.raw a L) j))

/-- FEXP2 (R43). -/
def execFexp2 (g : Guard) (d a : VReg) (s : State) : Host.Outcome State Fault Refusal :=
  faithful s g d a fun F up x => F.exp2Num s.g.round s.g.ftz up x

/-- FLOG2 (R43). -/
def execFlog2 (g : Guard) (d a : VReg) (s : State) : Host.Outcome State Fault Refusal :=
  faithful s g d a fun F up x => F.log2Num s.g.round s.g.ftz up x

end Sys2Proof.Machine
end

