-- ==== Sys2Proof/Machine/VecInt.lean ====
section
/-! DEFINITION. Vector integer instructions (R116 to R118). -/
namespace Sys2Proof.Machine
set_option Elab.async false

/-- An element read as its TYPE says (R115). -/
def elemInt (t : EType) (x : Nat) : Int := readInt (signedType t) (elemWidth t) x

/-- An integer result taken modulo 2^w (R37). -/
def wrapInt (t : EType) (n : Int) : Nat × Flags := (intBits (elemWidth t) n, 0)

/-- An integer result clamped to the element range, with SAT when clamped (R37). -/
def clampElem (t : EType) (n : Int) : Nat × Flags :=
  let (c, out) := clampInt (intLo (signedType t) (elemWidth t)) (intHi (signedType t) (elemWidth t)) n
  (intBits (elemWidth t) c, flIf out flSat)

/-- A shift right with the sign, 2^c or more giving the sign throughout (R116). -/
def shiftArith (w x c : Nat) : Nat := intBits w (readInt true w x / (2 ^ (if w ≤ c then w else c) : Nat))

/-- A logical shift left at width w; 0 for a count of w or more. -/
def shiftLeft (w x c : Nat) : Nat := if w ≤ c then 0 else x * 2 ^ c % 2 ^ w

/-- A logical shift right at width w. -/
def shiftRight (w x c : Nat) : Nat := if w ≤ c then 0 else x / 2 ^ c

/-- VDIV and VREM at the width of the TYPE (R117). -/
def divElem (t : EType) (x y : Nat) : Nat :=
  let w := elemWidth t
  let a := BitVec.ofNat w x
  let b := BitVec.ofNat w y
  if signedType t then (quotS a b).toNat else (quotN a b).toNat

def remElem (t : EType) (x y : Nat) : Nat :=
  let w := elemWidth t
  let a := BitVec.ofNat w x
  let b := BitVec.ofNat w y
  if signedType t then (remS a b).toNat else (remN a b).toNat

/-- The bytes' products summed, signed or unsigned (R116). -/
def dotBytes (signed : Bool) (x y : Nat) : Int :=
  ((List.range 4).map fun j => readInt signed 8 (field x (8 * j) 8) * readInt signed 8 (field y (8 * j) 8)).sum

/-- A bitwise operation on the whole lane word or pair (R116): no flag. -/
def bitwise (s : State) (G : Guard) (d a b : VReg) (f : Nat → Nat → Nat) : Host.Outcome State Fault Refusal :=
  lanewise s G d false [a, b] anyType fun _ L => (f (s.g.raw a L) (s.g.raw b L), 0)

/-- VADD (R116): (a + b) mod 2^w. -/
def execVadd (g : Guard) (d a b : VReg) (s : State) : Host.Outcome State Fault Refusal :=
  elemwise2 s g d a b intType fun t x y => wrapInt t (elemInt t x + elemInt t y)

/-- VSUB (R116): (a − b) mod 2^w. -/
def execVsub (g : Guard) (d a b : VReg) (s : State) : Host.Outcome State Fault Refusal :=
  elemwise2 s g d a b intType fun t x y => wrapInt t (elemInt t x - elemInt t y)

/-- VMUL (R116): (a · b) mod 2^w. -/
def execVmul (g : Guard) (d a b : VReg) (s : State) : Host.Outcome State Fault Refusal :=
  elemwise2 s g d a b intType fun t x y => wrapInt t (elemInt t x * elemInt t y)

/-- VMULH (R116): bits [2w−1:w] of the exact product. -/
def execVmulh (g : Guard) (d a b : VReg) (s : State) : Host.Outcome State Fault Refusal :=
  elemwise2 s g d a b intType fun t x y => wrapInt t (elemInt t x * elemInt t y / (2 ^ elemWidth t : Nat))

/-- VMIN (R116): the lesser. -/
def execVmin (g : Guard) (d a b : VReg) (s : State) : Host.Outcome State Fault Refusal :=
  elemwise2 s g d a b intType fun t x y => (if elemInt t x < elemInt t y then x else y, 0)

/-- VMAX (R116): the greater. -/
def execVmax (g : Guard) (d a b : VReg) (s : State) : Host.Outcome State Fault Refusal :=
  elemwise2 s g d a b intType fun t x y => (if elemInt t x < elemInt t y then y else x, 0)

/-- VABSD (R116): the absolute difference as an unsigned pattern. -/
def execVabsd (g : Guard) (d a b : VReg) (s : State) : Host.Outcome State Fault Refusal :=
  elemwise2 s g d a b intType fun t x y => ((elemInt t x - elemInt t y).natAbs, 0)

/-- VAVG (R116): Floor((a + b + 1) / 2). -/
def execVavg (g : Guard) (d a b : VReg) (s : State) : Host.Outcome State Fault Refusal :=
  elemwise2 s g d a b intType fun t x y => wrapInt t ((elemInt t x + elemInt t y + 1) / 2)

/-- VAND (R116): a AND b. -/
def execVand (g : Guard) (d a b : VReg) (s : State) : Host.Outcome State Fault Refusal :=
  bitwise s g d a b Nat.land

/-- VOR (R116): a OR b. -/
def execVor (g : Guard) (d a b : VReg) (s : State) : Host.Outcome State Fault Refusal :=
  bitwise s g d a b Nat.lor

/-- VXOR (R116): a XOR b. -/
def execVxor (g : Guard) (d a b : VReg) (s : State) : Host.Outcome State Fault Refusal :=
  bitwise s g d a b Nat.xor

/-- VANDN (R116): a AND NOT b. -/
def execVandn (g : Guard) (d a b : VReg) (s : State) : Host.Outcome State Fault Refusal :=
  bitwise s g d a b fun x y => x - Nat.land x y

/-- VSLL (R116): (a · 2^c) mod 2^w; 0 when c ≥ w. -/
def execVsll (g : Guard) (d a b : VReg) (s : State) : Host.Outcome State Fault Refusal :=
  elemwise2 s g d a b intType fun t x y => (shiftLeft (elemWidth t) x y, 0)

/-- VSRL (R116): Floor(U(a) / 2^c); 0 when c ≥ w. -/
def execVsrl (g : Guard) (d a b : VReg) (s : State) : Host.Outcome State Fault Refusal :=
  elemwise2 s g d a b intType fun t x y => (shiftRight (elemWidth t) x y, 0)

/-- VSRA (R116): Floor(S(a) / 2^c), a read as signed. -/
def execVsra (g : Guard) (d a b : VReg) (s : State) : Host.Outcome State Fault Refusal :=
  elemwise2 s g d a b intType fun t x y => (shiftArith (elemWidth t) x y, 0)

/-- VPOPC (R116): the number of 1 bits. -/
def execVpopc (g : Guard) (d a : VReg) (s : State) : Host.Outcome State Fault Refusal :=
  elemwise1 s g d a intType fun t x => (popCount (BitVec.ofNat (elemWidth t) x), 0)

/-- VADDS (R116): a + b clamped, SAT when clamped. -/
def execVadds (g : Guard) (d a b : VReg) (s : State) : Host.Outcome State Fault Refusal :=
  elemwise2 s g d a b intType fun t x y => clampElem t (elemInt t x + elemInt t y)

/-- VSUBS (R116): a − b clamped, SAT when clamped. -/
def execVsubs (g : Guard) (d a b : VReg) (s : State) : Host.Outcome State Fault Refusal :=
  elemwise2 s g d a b intType fun t x y => clampElem t (elemInt t x - elemInt t y)

/-- VMAD (R116): (a · b + d) mod 2^w. -/
def execVmad (g : Guard) (d a b : VReg) (s : State) : Host.Outcome State Fault Refusal :=
  elemwise3 s g d a b intType fun t x y z => wrapInt t (elemInt t x * elemInt t y + elemInt t z)

/-- VDOT4 (R116): the lane word of vd plus the dot product of the bytes. -/
def execVdot4 (g : Guard) (d a b : VReg) (s : State) : Host.Outcome State Fault Refusal :=
  lanewise s g d true [a, b] (fun t => t == 4 || t == 5) fun t L =>
    (intBits 32 ((s.g.raw d L : Int) + dotBytes (signedType t) (s.g.raw a L) (s.g.raw b L)), 0)

/-- VDIV (R116): the quotient under R117. -/
def execVdiv (g : Guard) (d a b : VReg) (s : State) : Host.Outcome State Fault Refusal :=
  elemwise2 s g d a b intType fun t x y => (divElem t x y, 0)

/-- VREM (R116): the remainder under R117. -/
def execVrem (g : Guard) (d a b : VReg) (s : State) : Host.Outcome State Fault Refusal :=
  elemwise2 s g d a b intType fun t x y => (remElem t x y, 0)

/-- VCLZ (R116): leading zero bits. -/
def execVclz (g : Guard) (d a : VReg) (s : State) : Host.Outcome State Fault Refusal :=
  elemwise1 s g d a intType fun t x => (clzOf (BitVec.ofNat (elemWidth t) x), 0)

/-- VABS (R116): the absolute value, the most negative one saturating. -/
def execVabs (g : Guard) (d a : VReg) (s : State) : Host.Outcome State Fault Refusal :=
  elemwise1 s g d a intType fun t x => clampElem t ((elemInt t x).natAbs : Int)

/-- The element that a VI immediate supplies (R71): the integer modulo 2^w, or converted under MD.ROUND. -/
def immElem (t : EType) (mode : Nat) (imm : BitVec 10) : Nat :=
  match elemOf t with
  | .ieee F => (F.encode mode false (numOfInt imm.toInt)).1
  | el => intBits el.width imm.toInt

/-- VMOVI (R118). -/
def execVmovi (g : Guard) (d : VReg) (imm : BitVec 10) (s : State) : Host.Outcome State Fault Refusal :=
  lanewise s g d false [] anyType fun t _ => perElem t fun _ => (immElem t s.g.round imm, 0)

/-- VADDI (R118). -/
def execVaddi (g : Guard) (d a : VReg) (imm : BitVec 10) (s : State) : Host.Outcome State Fault Refusal :=
  elemwise1 s g d a intType fun t x => wrapInt t (elemInt t x + imm.toInt)

/-- VSLLI (R118). -/
def execVslli (g : Guard) (d a : VReg) (cnt : BitVec 5) (s : State) : Host.Outcome State Fault Refusal :=
  elemwise1 s g d a intType fun t x => (shiftLeft (elemWidth t) x cnt.toNat, 0)

/-- VSRLI (R118). -/
def execVsrli (g : Guard) (d a : VReg) (cnt : BitVec 5) (s : State) : Host.Outcome State Fault Refusal :=
  elemwise1 s g d a intType fun t x => (shiftRight (elemWidth t) x cnt.toNat, 0)

/-- VSRAI (R118). -/
def execVsrai (g : Guard) (d a : VReg) (cnt : BitVec 5) (s : State) : Host.Outcome State Fault Refusal :=
  elemwise1 s g d a intType fun t x => (shiftArith (elemWidth t) x cnt.toNat, 0)

end Sys2Proof.Machine
end

