-- ==== Sys2Proof/Machine/Compare.lean ====
section
/-! DEFINITION. Compare, select and move (R121 to R123). -/
namespace Sys2Proof.Machine
set_option Elab.async false

/-- A compare of element 0 in the Active lanes: the true lanes to pd, the false lanes to pe (R121). -/
def compareOp (s : State) (G : Guard) (pd pe : PReg) (a b : VReg) (accepts : Nat → Bool)
    (f : EType → Nat → Nat → Bool × Flags) : Host.Outcome State Fault Refusal :=
  finish s do
    let m := s.g.active G
    s.operands [s.g.vOp a m, s.g.vOp b m] accepts [] [s.g.guardIdx G]
    let t := s.g.ety
    let rs := tab 64 fun L => if bit m L then f t (elemAt t (s.g.raw a L) 0) (elemAt t (s.g.raw b L) 0) else (false, 0)
    let hits := maskOf fun L => (atD rs L (false, 0)).1
    .ok (s.retireWith (((s.g.setP pd m hits).setP pe m (~~~hits)).orFlags (laneFlags m fun L => (atD rs L (false, 0)).2)))

/-- VCMP conditions on integers (R121). -/
def vcondHolds (c : VCond) (x y : Int) : Bool :=
  match c with
  | .eq => x == y
  | .ne => x != y
  | .lt => x < y
  | .le => x ≤ y
  | .gt => y < x
  | .ge => y ≤ x

/-- VCMP (R121). -/
def execVcmp (g : Guard) (c : VCond) (pd pe : PReg) (a b : VReg) (s : State) : Host.Outcome State Fault Refusal :=
  compareOp s g pd pe a b intType fun t x y => (vcondHolds c (elemInt t x) (elemInt t y), 0)

/-- FCMP conditions: an unordered pair, and INV for a quiet NaN where the condition signals (R121). -/
def fcondHolds (c : FCond) (x y : Num) : Bool × Flags :=
  let un := x.isNan || y.isNan
  let quiet := flIf (x.isSnan || y.isSnan) flInv
  let signals := flIf un flInv
  let lt := x.less false y
  let gt := y.less false x
  match c with
  | .eq => (!un && !lt && !gt, quiet)
  | .ne => (un || lt || gt, quiet)
  | .lt => (!un && lt, signals)
  | .le => (!un && !gt, signals)
  | .gt => (!un && gt, signals)
  | .ge => (!un && !lt, signals)
  | .un => (un, quiet)
  | .ord => (!un, quiet)

/-- FCMP (R121). -/
def execFcmp (g : Guard) (c : FCond) (pd pe : PReg) (a b : VReg) (s : State) : Host.Outcome State Fault Refusal :=
  compareOp s g pd pe a b floatType fun t x y =>
    fcondHolds c ((fmtOf t).decode s.g.ftz x) ((fmtOf t).decode s.g.ftz y)

/-- VSEL (R122). DESIGN CHOICE (log entry 114): in an Active lane it reads both sources, whichever the predicate selects. -/
def execVsel (g : Guard) (d a b : VReg) (p : PReg) (s : State) : Host.Outcome State Fault Refusal :=
  lanewiseWith s g d false [a, b] [] [p] anyType fun _ L => (if bit (s.g.pReg p) L then s.g.raw a L else s.g.raw b L, 0)

/-- VMOV (R123). -/
def execVmov (g : Guard) (d a : VReg) (s : State) : Host.Outcome State Fault Refusal :=
  lanewise s g d false [a] anyType fun _ L => (s.g.raw a L, 0)

/-- VBCAST (R123): the low bits of the scalar in every element. -/
def execVbcast (g : Guard) (d : VReg) (a : SReg) (s : State) : Host.Outcome State Fault Refusal :=
  lanewiseWith s g d false [] [a] [] anyType fun t _ => perElem t fun _ => ((s.g.sReg a).toNat, 0)

end Sys2Proof.Machine
end

