-- ==== Sys2Proof/Machine/LaneOps.lean ====
section
/-! DEFINITION. Lane operations: shuffles, extraction and insertion, compaction, reductions and scans (R128 to R133). -/
namespace Sys2Proof.Machine
set_option Elab.async false

/-- A shuffle (R129): each Active lane takes the lane that `src` names; any lane of LIVE may be read. -/
def shuffleOp (s : State) (G : Guard) (d a : VReg) (bv : List VReg) (ss : List SReg) (src : Nat → Nat) :
    Host.Outcome State Fault Refusal :=
  finish s do
    let m := s.g.active G
    let from' := maskOf fun L => (lanesOf m).any fun k => src k == L
    s.operands (s.g.vOp d 0 :: s.g.vOp a (from' &&& s.g.live) :: bv.map fun r => s.g.vOp r m) anyType ss [s.g.guardIdx G]
    .ok (s.retireWith (s.g.setRaw d m fun L => s.g.raw a (src L)))

/-- SHFL (R129). -/
def execShfl (g : Guard) (d a b : VReg) (s : State) : Host.Outcome State Fault Refusal :=
  shuffleOp s g d a [b] [] fun L => s.g.raw b L % 64

/-- SHFLX (R129). -/
def execShflx (g : Guard) (d a : VReg) (b : SReg) (s : State) : Host.Outcome State Fault Refusal :=
  shuffleOp s g d a [] [b] fun L => Nat.xor L ((s.g.sReg b).toNat % 64)

/-- SHFLU (R129). -/
def execShflu (g : Guard) (d a : VReg) (b : SReg) (s : State) : Host.Outcome State Fault Refusal :=
  shuffleOp s g d a [] [b] fun L => if (s.g.sReg b).toNat ≤ L then L - (s.g.sReg b).toNat else L

/-- SHFLD (R129). -/
def execShfld (g : Guard) (d a : VReg) (b : SReg) (s : State) : Host.Outcome State Fault Refusal :=
  shuffleOp s g d a [] [b] fun L => if L + (s.g.sReg b).toNat ≤ 63 then L + (s.g.sReg b).toNat else L

/-- VEXTR (R130): the lane when it is Active, else 0. -/
def execVextr (g : Guard) (d : SReg) (a : VReg) (b : SReg) (s : State) : Host.Outcome State Fault Refusal :=
  finish s do
    let m := s.g.active g
    let j := (s.g.sReg b).toNat % 64
    s.operands [s.g.vOp a (m &&& maskOf (· == j))] anyType [b] [s.g.guardIdx g]
    .ok (s.retireWith (s.g.setS d (if bit m j then BitVec.ofNat 64 (s.g.raw a j) else 0)))

/-- VINS (R130). -/
def execVins (g : Guard) (d : VReg) (a b : SReg) (s : State) : Host.Outcome State Fault Refusal :=
  finish s do
    let m := s.g.active g
    let j := (s.g.sReg b).toNat % 64
    s.operands [s.g.vOp d 0] anyType [a, b] [s.g.guardIdx g]
    .ok (s.retireWith (s.g.setRaw d (m &&& maskOf (· == j)) fun _ => (s.g.sReg a).toNat))

/-- VCOMPACT (R131): the Active lanes packed to the bottom, the rest of LIVE zero; nothing when no lane is Active. -/
def execVcompact (g : Guard) (d a : VReg) (s : State) : Host.Outcome State Fault Refusal :=
  finish s do
    let m := s.g.active g
    s.operands [s.g.vOp d 0, s.g.vOp a m] anyType [] [s.g.guardIdx g]
    let packed := (lanesOf m).map (s.g.raw a)
    .ok (s.retireWith (if m = 0 then s.g else s.g.setRaw d s.g.live fun L => packed.getD L 0))

/-- The operation of VRED and VSCAN on two lanes (R132). -/
def redLane (g : Group) (f : RedOp) (x y : Nat) : Nat × Flags :=
  let t := g.ety
  let F := fmtOf t
  let each := fun (h : Nat → Nat → Nat × Flags) => perElem t fun j => h (elemAt t x j) (elemAt t y j)
  let float := floatType g.typeCode
  match f with
  | .add => each fun p q =>
      if float then F.addNum g.round g.ftz (F.decode g.ftz p) (F.decode g.ftz q) else wrapInt t (elemInt t p + elemInt t q)
  | .min => each fun p q => if float then F.minMax false g.ftz p q else (if elemInt t q < elemInt t p then q else p, 0)
  | .max => each fun p q => if float then F.minMax true g.ftz p q else (if elemInt t p < elemInt t q then q else p, 0)
  | .and => (Nat.land x y, 0)
  | .or => (Nat.lor x y, 0)
  | .xor => (Nat.xor x y, 0)

/-- Combine (R132): an absent lane is the neutral one. -/
def combineLanes (f : Nat → Nat → Nat × Flags) (x y : Option Nat) : Option Nat × Flags :=
  match x, y with
  | none, _ => (y, 0)
  | _, none => (x, 0)
  | some a, some b => (some (f a b).1, (f a b).2)

/-- One level of the tree: neighbours combined. -/
def pairUp (f : Nat → Nat → Nat × Flags) : List (Option Nat) → List (Option Nat) × Flags
  | x :: y :: r => ((combineLanes f x y).1 :: (pairUp f r).1, (combineLanes f x y).2 ||| (pairUp f r).2)
  | l => (l, 0)

/-- The levels of the tree (R132). -/
def treeReduce (f : Nat → Nat → Nat × Flags) : Nat → List (Option Nat) → Flags → Option Nat × Flags
  | 0, l, fl => (l.headD none, fl)
  | k + 1, l, fl => treeReduce f k (pairUp f l).1 (fl ||| (pairUp f l).2)

/-- VRED (R132). -/
def execVred (g : Guard) (d a : VReg) (f : RedOp) (s : State) : Host.Outcome State Fault Refusal :=
  finish s do
    let m := s.g.active g
    s.operands [s.g.vOp d 0, s.g.vOp a m] anyType [] [s.g.guardIdx g]
    let r := treeReduce (redLane s.g f) 6 (tabList (fun L => if bit m L then some (s.g.raw a L) else none) 0 64) 0
    .ok (s.retireWith ((s.g.setRaw d m fun _ => r.1.getD 0).orFlags r.2))

/-- The inclusive prefixes of a list of values (R133). -/
def scanLanes (f : Nat → Nat → Nat × Flags) : Option Nat → List Nat → List Nat × Flags
  | _, [] => ([], 0)
  | acc, x :: r =>
    let now := combineLanes f acc (some x)
    let rest := scanLanes f now.1 r
    (now.1.getD 0 :: rest.1, now.2 ||| rest.2)

/-- VSCAN (R133). -/
def execVscan (g : Guard) (d a : VReg) (f : RedOp) (s : State) : Host.Outcome State Fault Refusal :=
  finish s do
    let m := s.g.active g
    s.operands [s.g.vOp d 0, s.g.vOp a m] anyType [] [s.g.guardIdx g]
    let lanes := lanesOf m
    let r := scanLanes (redLane s.g f) none (lanes.map (s.g.raw a))
    .ok (s.retireWith ((s.g.setRaw d m fun L => r.1.getD (lanes.idxOf L) 0).orFlags r.2))

end Sys2Proof.Machine
end

