-- ==== Sys2Proof/Machine/Links.lean ====
section
/-! DEFINITION. Links between dies and to peers (R364 to R373), and memory accesses of agents outside the cores: peers, the CXL host,
host cores. -/
namespace Sys2Proof.Machine
set_option Elab.async false

/-! ### Between dies -/

/-- A record of a link. -/
def linkRecord (code : IncCode) (detail : Nat) : Incident := { code.entry.byEngine 7 with detail := BitVec.ofNat 64 detail }

/-- A pair of dies whose modules are all disabled has lost its link (R365): its traffic is routed around it; with a second pair the
device resets. The disabling of its last module, the loss and the reset are one chain (R387). -/
def State.losePair (s : State) (pair : PairId) : State :=
  let root := (s.links.disabledBy.find? fun d => d.1 == pair).map (·.2)
  let t := ({ s with links := { s.links with lostPairs := pair :: s.links.lostPairs } } : State).caused root fun u =>
    u.report (linkRecord .dieLinkLost pair.val)
  if s.links.lostPairs.isEmpty then t else t.caused (root <|> some t.lastSeq) fun u => u.deviceReset 4 []

/-- A module disabled (R365). -/
def State.disableModule (s : State) (pair : PairId) (m : Nat) : State :=
  let live := s.links.modules.getD pair.val []
  let rest := live.filter fun x => x != m
  if live.contains m then
    let t := ({ s with links := { s.links with modules := s.links.modules.set pair.val rest } } : State).report
      (linkRecord .ucieModuleDisabled (pair.val + 256 * m))
    if rest.isEmpty then { t with links := { t.links with disabledBy := (pair, t.lastSeq) :: t.links.disabledBy } } else t
  else s

/-- UCIE_FLIT_RETRY (R365): the retry shows in nothing; the eighth of a module within 1 ms disables it. -/
def execUcieFlitRetry (pair : PairId) (mod : Fin 16) (s : State) : Host.Outcome State Fault Refusal :=
  done <|
    let recent := (s.links.retries.filter fun r => s.ptp.toNat < r.2.2 + 1000000) ++ [(pair.val, mod.val, s.ptp.toNat)]
    let t : State := { s with links := { s.links with retries := recent } }
    if 8 ≤ (recent.filter fun r => r.1 == pair.val && r.2.1 == mod.val).length then t.disableModule pair mod.val else t

/-- UCIE_LANE_REPAIRED (R365). -/
def execUcieLaneRepaired (pair : PairId) (lane : BitVec 16) (s : State) : Host.Outcome State Fault Refusal :=
  done (s.report (linkRecord .ucieLaneRepaired (pair.val + 256 * lane.toNat)))

/-- UCIE_MODULE_DISABLED (R365). -/
def execUcieModuleDisabled (pair : PairId) (mod : Fin 16) (s : State) : Host.Outcome State Fault Refusal :=
  done (s.disableModule pair mod.val)

/-- DIE_LINK_LOST (R365): all 16 modules of a pair are disabled. -/
def execDieLinkLost (pair : PairId) (s : State) : Host.Outcome State Fault Refusal :=
  done (if (s.links.modules.getD pair.val []).isEmpty && !(s.links.lostPairs.contains pair) then s.losePair pair else s)

/-! ### UALink ports -/

/-- A port changed. -/
def State.modPort (s : State) (p : PortId) (f : UaPort → UaPort) : State :=
  { s with links := { s.links with ports := s.links.ports.set p.val (f (s.links.ports.get p)) p.isLt } }

/-- The record of a port (R390). -/
def portRecord (code : IncCode) (p : PortId) : Incident := { code.entry.byEngine 7 with port := p.val }

/-- A retraining of a port that is up (R366): the ninth at the double rate within 1 s returns it to the 200G mode. -/
def UaPort.retrain (p : UaPort) (now : Nat) : UaPort :=
  if p.double then
    let recent := (p.retrains.filter fun t => now < t + 10 ^ 9) ++ [now]
    if 8 < recent.length then { p with double := false, fellBack := true, retrains := [] } else { p with retrains := recent }
  else p

/-- UALINK_PORT_TRAINING (R366, R374): a foreign partner's port is held down, and so is one that the boot left out. -/
def execUalinkPortTraining (port : PortId) (partnerIsZ7 : Bool) (peer : PeerId) (s : State) : Host.Outcome State Fault Refusal :=
  done <|
    if s.flash.alternate.contains (7, BitVec.ofNat 8 port.val) then s
    else if partnerIsZ7 then s.modPort port fun p =>
      if p.up then { p.retrain s.ptp.toNat with peer := some peer } else ⟨true, some peer, false, false, []⟩
    else (s.modPort port fun _ => ⟨false, none, false, false, []⟩).report (portRecord .ualinkPartnerForeign port)

/-- DOUBLE_RATE_OFFER (R366): after a failure the port stays in the 200G mode until it goes down. -/
def execDoubleRateOffer (port : PortId) (trained : Bool) (s : State) : Host.Outcome State Fault Refusal :=
  done (s.modPort port fun p => if p.up && !p.fellBack then { p with double := trained, fellBack := !trained } else p)

/-- UALINK_PORT_DOWN (R366). -/
def execUalinkPortDown (port : PortId) (s : State) : Host.Outcome State Fault Refusal :=
  done (if (s.links.ports.get port).up then
      (s.modPort port fun _ => ⟨false, none, false, false, []⟩).report (portRecord .ualinkPortDown port)
    else s)

/-! ### What outside agents reach -/

/-- Bytes cut at the lines: location and bytes. -/
def lineCuts (loc : Nat) (bs : List Byte) : List (Nat × List Byte) :=
  let first := 128 - loc % 128
  (loc, bs.take first) :: tabList (fun i => (loc + first + 128 * i, (bs.drop (first + 128 * i)).take 128)) 0 ((bs.length - first + 127) / 128)

/-- The location lies in a memory that outside agents reach: HBM, or a vault where the agent may (R341); none once the boot has
stopped (R374). -/
def State.reachable (s : State) (vaults : Bool) (loc len : Nat) : Bool :=
  0 < len && !s.dev.bootFail && ((s.dev.isHbm loc && s.dev.isHbm (loc + len - 1)) ||
    (vaults && isVault loc && isVault (loc + len - 1) && !(s.cols.get (vaultCol loc)).fenced))

/-- A run of one line stored at its home for an outside agent: a host core holds the line then (R362, R363); a poisoned sector that the run does
not cover stays (R354). -/
def State.storeNow (s : State) (who : Option Party) (rel : Option Party) (loc key : Nat) (bs : List Byte) : State :=
  let k := s.keySlot key
  let t := (match who with
    | some (.hostCore col) => if s.dev.isHbm loc then s.storeLine col true k loc bs else (s.activateAt loc).storeRun k loc bs
    | _ => (s.activateAt loc).storeRun k loc bs).noteRelease rel loc bs.length
  (s.mem.failsAt loc bs.length).foldl (fun (t : State) a => t.report (s.sectorIncident .sectorPoisoned a)) t

/-- What holds back a write of an outside agent: its tag, the release's agent, location, what is written. -/
def State.holdOutside (s : State) (tag : WriteTag) (rel : Option Party) (loc : Nat) (bs : List Byte) (red : Option CombEntry)
    (due : Option Nat) (host : Bool) : State :=
  s.hold ⟨loc, 128, 1, bs, red, due, host, none, false, 0, false, rel, some tag⟩

/-- A run stored by an outside agent at its home: held behind a lease or the host's answer, or performed (R364, R370). -/
def State.outsideStore (s : State) (who : Party) (rel : Option Party) (loc : Nat) (bs : List Byte) : State :=
  (lineCuts loc bs).foldl (fun (t : State) c =>
    if c.2.isEmpty then t
    else
      let u := t.mergeCopies (c.1 / 128)
      match u.holdOf (c.1 / 128) with
      | some (due, host) => u.holdOutside (.outside who) rel c.1 c.2 none due host
      | none => u.storeNow (some who) rel c.1 128 c.2) s

/-- What an outside agent reads: a host core takes the lines into its cache (R363); a poisoned sector answers nothing; bytes that a copy has
written may still be what they were (R173). -/
def State.outsideRead (s : State) (who : Option Party) (loc len : Nat) : State × List Byte :=
  let t := (runLines loc len).foldl State.mergeCopies s
  let u := match who with
    | some (.hostCore col) => if s.dev.isHbm loc then (runLines loc len).foldl (fun (v : State) l => v.readLine col true l) t else t.activateAt loc
    | _ => t.activateAt loc
  (u.seen, if (tabList id loc len).any u.mem.poisoned then [] else tabList (u.seenByte none KeySlot.plaintext) loc len)

/-! ### Requests of outside agents -/

/-- The bytes that a word of an atomic takes (R147, R366). -/
def wordSize (type : Option EType) : Nat := if type.isNone || type == some .f64 then 8 else 4

/-- The bytes that a request touches. -/
def requestSize (len : Nat) : MemRequest → Nat
  | .read _ => len
  | .write data _ => data.length
  | .atomic _ type _ _ _ _ _ => wordSize type
  | .fence _ _ => 0

/-- The agent is in no way part of the device (R256). -/
def Party.beyond : Party → Bool
  | .cxl | .peer _ => true
  | _ => false

/-- The outside agent whose write, or read-modify-write, a held entry is. -/
def HeldWrite.agent (h : HeldWrite) : Option Party :=
  match h.tag with
  | some (.outside p) | some (.atomic p _ _) => some p
  | _ => none

/-- Writes of an outside agent that its releases wait for (R261): those that are held, and those that no stack has acknowledged (R345). -/
def State.outsidePending (s : State) (who : Party) : Bool :=
  s.links.held.any (fun h => h.writes && h.agent == some who) || s.mem.writes.any fun w => w.who.isNone && s.unacknowledged w

/-- A write of the agent to one of the lines that is held: what it reads there comes after it (R254). -/
def State.outsideBehind (s : State) (who : Party) (lines : List Nat) : Bool :=
  s.links.held.any fun h => h.writes && h.agent == some who && lines.contains (h.loc / 128)

/-- An acquire or a read-modify-write refused by a scope mark (R262): nothing is returned, and the mark is kept for an agent beyond the
device. -/
def State.refuseMarked (s : State) (who : Party) (lines : List Nat) : State :=
  let hit := fun (m : ScopeMark) => lines.contains m.line && !(m.admits who)
  { s with answer := [], mem := { s.mem with
    marks := updWhere hit (fun m => { m with outside := m.outside || who.beyond }) s.mem.marks } }

/-- The acquire of a host core or a DMC drops every line held under a lease (R369). -/
def State.outsideAcquires (s : State) (who : Party) (acquire : Bool) : State :=
  if acquire && !who.beyond then { s with links := { s.links with llines := [] } } else s

/-- A read-modify-write by an outside agent performed (R366): its operand joined with the word that stands there, where the word is that which
it compares with. -/
def State.atomicNow (s : State) (who : Party) (rel : Option Party) (e : CombEntry) (compare : Option Nat) (answers : Bool) : State :=
  let u := (s.outsideRead (some who) e.loc e.size).1
  if (tabList id e.loc e.size).any u.mem.poisoned then { u with answer := [] }
  else
    let old := leNat (u.physRead e.loc e.size)
    let v := if compare.all (· == old) then
        u.storeNow (some who) rel e.loc 128 (leBytes e.size (aopApply e.scalar e.type e.op old e.val.toNat)) else u
    { v.caughtUp (fun o => !o.version && e.loc ≤ o.loc && o.loc < e.loc + e.size) with answer := if answers then leBytes e.size old else [] }

/-- A read-modify-write by an outside agent (R366): held where its line is held back, and performed when the hold ends (R370, R373). -/
def State.outsideAtomic (s : State) (who : Party) (rel : Option Party) (loc : Nat) (op : AOp) (type : Option EType) (x : Nat)
    (compare : Option Nat) (answers : Bool) : State :=
  let t := s.mergeCopies (loc / 128)
  let e : CombEntry := ⟨loc, wordSize type, op, type.getD .i32, type.isNone, BitVec.ofNat 64 x, agentOrigin 0, 0, 128, 1, []⟩
  match t.holdOf (loc / 128) with
  | some (due, host) => t.holdOutside (.atomic who compare answers) rel loc [] (some e) due host
  | none => t.atomicNow who rel e compare answers

/-- A request of an outside agent to memory that it reaches (R253, R256): it waits, with nothing changed, for the end of a refresh (R358), for
its own earlier writes of the lines it reads (R254), and with a release for all of them (R261). A mark refuses acquires and read-modify-writes,
and no reduction (R262). DESIGN CHOICE (log entry 97): a read-modify-write that is not aligned does nothing. -/
def State.outsideRequest (s : State) (who : Party) (loc len : Nat) (r : MemRequest) : State :=
  let lines := runLines loc (requestSize len r)
  if 0 < requestSize len r && (s.bankBusy loc || s.bankBusy (loc + requestSize len r - 1)) then s
  else match r with
    | .read acquire =>
      if acquire && s.marked who lines then s.refuseMarked who lines
      else if s.outsideBehind who lines then s
      else let (t, bs) := (s.outsideAcquires who acquire).outsideRead (some who) loc len; { t with answer := bs }
    | .write data release =>
      if release && s.outsidePending who then s
      else s.outsideStore who (if release then some who else none) loc data
    | .atomic op type x compare answers acquire release =>
      if loc % wordSize type ≠ 0 then { s with answer := [] }
      else if (answers || compare.isSome) && s.marked who lines then s.refuseMarked who lines
      else if s.outsideBehind who lines || (release && s.outsidePending who) then s
      else (s.outsideAcquires who acquire).outsideAtomic who (if release then some who else none) loc op type x compare answers
    | .fence acquire release => if release && s.outsidePending who then s else s.outsideAcquires who acquire

/-! ### Peers -/

/-- A request of a peer whose key does not match the owner's (R367), which nothing in the state tells: a free value. -/
def State.keyMismatch (s : State) : Bool := Config.fact s.tick 21 % 2 = 1

/-- A request of a peer that the owner refuses (R367): beyond the capacity, or under another key. -/
def State.peerRefused (s : State) (loc len : Nat) : Bool := !(s.reachable false loc len) || s.keyMismatch

/-- What kept a place is still about to make its access: a group that is held at it, the commit of a version. -/
def State.placeStands (s : State) (h : HeldWrite) : Bool :=
  match h.who, h.tag with
  | some o, _ => (s.originGroup o).any fun g => g.status == .stalled
  | none, some (.commit team) => (s.teamOf team).any fun t => t.version.isSome
  | none, _ => false

/-- A lease on a line granted to a peer (R369): its end, or none; none also while a place whose wait has ended stands before its access
(R370). -/
def State.grantLease (s : State) (line lease : Nat) : Option Nat :=
  let live := s.links.leases.filter fun l => lineStack l.line == lineStack line && s.ptp.toNat < l.expiry + 100
  let held := s.links.held.any fun h => h.loc / 128 == line && (!h.ripe || s.placeStands h)
  if !s.dev.leaseEn || !s.links.ptpLocked || held || lease = 0 || (65536 ≤ live.length && !(live.any fun l => l.line == line)) then none
  else some (s.ptp.toNat + 1000 * Nat.min lease s.dev.maxGrant.toNat)

/-- A lease recorded as the longest of its line; those that have run out are dropped (R369). -/
def Links.addLease (l : Links) (line expiry now : Nat) : Links :=
  let old := ((l.leases.find? fun x => x.line == line).map (·.expiry)).getD 0
  { l with leases := ⟨line, Nat.max old expiry⟩ :: l.leases.filter fun x => x.line != line && now < x.expiry + 100 }

/-- PEER_READ_REQUEST (R367, R369): the answer is the end of the lease modulo 2^32, 0 for none, then the bytes; a refused read is
answered by nothing. -/
def execPeerReadRequest (peer : PeerId) (pa : BitVec 64) (len : Nat) (lease : BitVec 8) (s : State) :
    Host.Outcome State Fault Refusal :=
  done <|
    let loc := pa.toNat % 2 ^ 40
    if s.dev.peerFenced.contains peer.val then s
    else if s.peerRefused loc len then { s with answer := [], tick := s.tick + 1 }
    else if s.outsideBehind (.peer peer) (runLines loc len) then s
    else
      let (t, bs) := ({ s with tick := s.tick + 1 } : State).outsideRead none loc len
      if bs.isEmpty then { t with answer := [] }
      else match t.grantLease (loc / 128) lease.toNat with
        | some e => { t with answer := leBytes 4 e ++ bs, links := t.links.addLease (loc / 128) e t.ptp.toNat }
        | none => { t with answer := leBytes 4 0 ++ bs }

/-- PEER_WRITE_REQUEST (R366, R367, R370, R373): a write of at most 256 bytes, an atomic, or a read that takes no lease. -/
def execPeerWriteRequest (peer : PeerId) (pa : BitVec 64) (data : MemRequest) (s : State) : Host.Outcome State Fault Refusal :=
  done <|
    let loc := pa.toNat % 2 ^ 40
    if s.dev.peerFenced.contains peer.val || 256 < requestSize 128 data then s
    else if s.peerRefused loc (requestSize 128 data) then { s with answer := [], tick := s.tick + 1 }
    else ({ s with tick := s.tick + 1 } : State).outsideRequest (.peer peer) loc 128 data

/-! ### Held writes -/

/-- What a held entry writes when it is performed: its bytes, or its operand joined with the word that stands there. -/
def State.heldBytes' (s : State) (h : HeldWrite) : List Byte :=
  match h.red with
  | some e => leBytes e.size (aopApply e.scalar e.type e.op (leNat (tabList (s.mem.plain (s.keySlot e.key)) e.loc e.size)) e.val.toNat)
  | none => h.bytes

/-- A held entry performed (R364, R370), and what waited for it told; the place of an access writes nothing. -/
def State.performHeld (s : State) (h : HeldWrite) : State :=
  if !h.writes then s
  else
    let bs := s.heldBytes' h
    let t := match h.who with
      | none => (match h.tag, h.red with
        | some (.atomic p compare answers), some e => s.atomicNow p h.party e compare answers
        | _, _ => s.storeNow h.agent h.party h.loc h.key bs)
      | some o =>
        if o.team = 0 then s.agentPerform o.ctx h.party h.va.toNat h.key h.loc bs h.tag
        else match h.red with
          | some e => s.reduceNow e
          | none =>
            let u := s.performWrite ⟨o, h.va, h.key, h.home⟩ h.party h.loc bs
            if WriteTag.isCopy h.tag then u.disown s.fresh else u
    t.writeDone h.tag h.bytes.length

/-- The place of a write of the machine itself that waits. -/
def HeldWrite.service (h : HeldWrite) : Bool := !h.writes && h.who.isNone && h.tag.isNone

/-- What the machine itself writes and has had to keep back goes on as far as its lines are open: tables and rings, then the device log, then
the records of faults (R331, R364, R370, R385). -/
def State.service (s : State) : State :=
  (List.finRange 64).foldl State.queueFaults ((State.devDrain s.log.writes.length s).logDrain 4097)

/-- The held entries of a line changed, and the first of them that nothing holds any longer performed in order (R370); the place of an access
stays until the access is made. An entry whose lease has run out waits still while the host caches the line (R364). -/
def State.releaseHeld (s : State) (line : Nat) (f : HeldWrite → HeldWrite) : State :=
  let host := fun (h : HeldWrite) => if h.due.isNone && s.mem.hostHas line then { h with host := true } else h
  let mine := (s.links.held.filter fun h => h.loc / 128 == line).map fun h => host (f h)
  let free := mine.takeWhile fun h => h.due.isNone && !h.host
  let places := free.filter fun h => h.ripe && !h.service
  let rest := (s.links.held.filter fun h => h.loc / 128 != line) ++ places ++ mine.drop free.length
  let t := free.foldl State.performHeld { s with links := { s.links with held := rest } }
  if free.any HeldWrite.service then t.service else t

/-- Writes of a line performed whose hold has reached its end (R370). -/
def State.holdEnds (s : State) (line : Nat) : State :=
  let past := fun (h : HeldWrite) => match h.due with
    | some t => t ≤ s.ptp.toNat
    | none => false
  if s.links.held.any fun h => h.loc / 128 == line && past h then
    ({ s with links := { s.links with leases := s.links.leases.filter fun l => l.line != line } } : State).releaseHeld line
      fun h => if past h then { h with due := none } else h
  else s

/-- Every write performed whose hold has reached its end (R370, R371). -/
def State.holdsEnd (s : State) : State :=
  if s.links.held.isEmpty then s else ((s.links.held.map fun h => h.loc / 128).eraseDups).foldl State.holdEnds s

/-- LEASE_HOLD_EXPIRY (R370): the owner's time has reached the end of the hold of a line. -/
def execLeaseHoldExpiry (line : Nat) (s : State) : Host.Outcome State Fault Refusal := done (s.holdEnds line)

/-- LEASE_EXPIRY (R369): the requester's time has reached E. -/
def execLeaseExpiry (col : ColId) (line : Nat) (s : State) : Host.Outcome State Fault Refusal :=
  done { s with links := { s.links with
    llines := s.links.llines.filter fun l => !(l.col == col && l.line == line && l.expiry ≤ s.ptp.toNat) } }

/-- BACK_INVALIDATE_RESPONSE (R364): the host has given up a line. -/
def execBackInvalidateResponse (line : Nat) (s : State) : Host.Outcome State Fault Refusal :=
  done (({ s with mem := { s.mem with
    hostFilter := s.mem.hostFilter.filter fun l => l != line
    hostSnoops := s.mem.hostSnoops.filter fun l => l != line } } : State).releaseHeld line fun h => { h with host := false })

/-! ### The CXL host and the host cores -/

/-- A line that the host takes enters the filter of its controller, which gives up its oldest entry beyond 2^18 with a back-invalidation
(R364). -/
def Memory.hostTake (m : Memory) (line : Nat) : Memory :=
  if m.hostSnoops.contains line then m
  else
    let all := m.hostFilter.filter (fun l => l != line) ++ [line]
    match all.filter fun l => lineStack l == lineStack line with
    | [] => m
    | old :: r =>
      if r.length < 2 ^ 18 then { m with hostFilter := all }
      else { m with hostFilter := all.filter (fun l => l != old), hostSnoops := old :: m.hostSnoops }

/-- The host gives up its copies of lines that it writes, and its write goes before those that wait for it (R364). -/
def State.hostGives (s : State) (line : Nat) : State :=
  if s.links.held.any fun h => h.loc / 128 == line && h.host then s
  else { s with mem := { s.mem with hostFilter := s.mem.hostFilter.filter fun l => l != line } }

/-- A run of one line written by the CXL host (R364). -/
def State.hostStore (s : State) (rel : Option Party) (c : Nat × List Byte) : State :=
  if c.2.isEmpty then s
  else if s.links.held.any fun h => h.loc / 128 == c.1 / 128 && h.host then s.storeNow (some .cxl) rel c.1 128 c.2
  else (s.hostGives (c.1 / 128)).outsideStore .cxl rel c.1 c.2

/-- CXL_MEM_REQUEST (R307, R364): a request of the external host to the exposed HBM. -/
def execCxlMemRequest (pa : BitVec 64) (data : MemRequest) (len : Nat) (s : State) : Host.Outcome State Fault Refusal :=
  done <|
    let loc := pa.toNat
    let n := requestSize len data
    if !(s.reachable false loc n) || s.dev.hdm * 2 ^ 30 < loc + n then { s with answer := [] }
    else match data with
      | .read acquire =>
        let t := s.outsideRequest .cxl loc len data
        if acquire && s.marked .cxl (runLines loc n) || s.outsideBehind .cxl (runLines loc n) then t
        else { t with mem := (runLines loc n).foldl Memory.hostTake t.mem }
      | .write bs release =>
        if release && s.outsidePending .cxl then s
        else (lineCuts loc bs).foldl (fun (t : State) c => t.hostStore (if release then some .cxl else none) c) s
      | _ => ((runLines loc n).foldl State.hostGives s).outsideRequest .cxl loc len data

/-- HOST_CORE_MEMORY_ACCESS (R341, R362): a load, store, atomic or FENCE of a host core or a DMC; a host core's read of an allowance object asks
its home for the exact value (R275). -/
def execHostCoreMemoryAccess (agent : HostAgent) (pa : BitVec 64) (data : MemRequest) (len : Nat) (s : State) :
    Host.Outcome State Fault Refusal :=
  done <|
    let loc := pa.toNat
    let n := requestSize len data
    let who : Party := match agent with
      | .core c => .hostCore c
      | .dmc d => .dmc d
    match data, agent with
    | .fence _ _, _ => s.outsideRequest who loc len data
    | .read _, .core c =>
      if !(s.reachable true loc n) then { s with answer := [] }
      else match (runLines loc n).find? fun l => (s.objOf l).isSome with
        | some obj => ({ s with answer := [] } : State).sendReq c (.hostCore c) obj .read
        | none => s.outsideRequest who loc len data
    | _, _ => if s.reachable true loc n then s.outsideRequest who loc len data else { s with answer := [] }

/-! ### PTP -/

/-- PTP_UNLOCKED (R370). -/
def execPtpUnlocked (offset : BitVec 64) (s : State) : Host.Outcome State Fault Refusal :=
  done (if s.links.ptpLocked then
      ({ s with links := { s.links with ptpLocked := false } } : State).report (linkRecord .ptpUnlocked offset.toNat)
    else s)

/-- PTP_LOCK_REGAINED (R370). -/
def execPtpLockRegained (s : State) : Host.Outcome State Fault Refusal := done { s with links := { s.links with ptpLocked := true } }

/-! ### Dead peers -/

/-- A peer fenced (R372, R373): its leased lines are dropped, unacknowledged writes and a transfer of the checkpoint engine fail, in one chain with it (R387), and groups that wait for a
peer issue again. -/
def State.fencePeer (s : State) (peer : PeerId) : State :=
  let s1 : State := { s with
    dev := { s.dev with
      peerLive := s.dev.peerLive.filter fun k => k != peer.val
      peerFenced := peer.val :: s.dev.peerFenced.filter fun k => k != peer.val }
    links := { s.links with
      llines := s.links.llines.filter fun l => l.peer != peer
      peerWrites := s.links.peerWrites.filter fun w => w.peer != peer
      misses := s.links.misses.filter fun m => m.1 != peer.val } }
  let s2 := s1.report (linkRecord .peerFenced peer.val)
  let s3 := s2.caused (some s2.lastSeq) fun t =>
    let u := (s.links.peerWrites.filter fun w => w.peer == peer).foldl State.failPeerWrite t
    if u.dev.ckBusy && u.dev.ckPeer = peer.val then u.ckEnds true else u
  s3.modGroups (fun g => g.status == .blocked .peerLoad || g.status == .blocked .peerFetch) fun g => { g with status := .ready }

/-- HEARTBEAT (R372): a heartbeat to a live peer that goes unanswered; the third in a row declares it dead. -/
def execHeartbeat (peer : PeerId) (s : State) : Host.Outcome State Fault Refusal :=
  done <|
    if s.dev.peerLive.contains peer.val then
      let n := ((s.links.misses.find? fun m => m.1 == peer.val).map (·.2)).getD 0 + 1
      if 3 ≤ n then s.fencePeer peer
      else { s with links := { s.links with misses := (peer.val, n) :: s.links.misses.filter fun m => m.1 != peer.val } }
    else s

/-- PEER_HEARTBEAT (R372, R373): a peer that is not fenced is alive. -/
def execPeerHeartbeat (peer : PeerId) (s : State) : Host.Outcome State Fault Refusal :=
  done <|
    if s.dev.peerFenced.contains peer.val then s
    else { s with
      dev := { s.dev with peerLive := peer.val :: s.dev.peerLive.filter fun k => k != peer.val }
      links := { s.links with misses := s.links.misses.filter fun m => m.1 != peer.val } }

/-- A write to the GO register (R368): a nonzero reserved field makes it ignored. -/
def State.goWrite (s : State) (value : Word) : State :=
  if field value.toNat 10 53 = 0 && value.getLsbD 63 then
    { s with dev := { s.dev with peerFenced := s.dev.peerFenced.filter fun k => k != field value.toNat 0 10 } }
  else s

/-- GO_WRITE (R368, R373). -/
def execGoWrite (value : BitVec 64) (s : State) : Host.Outcome State Fault Refusal := done (s.goWrite value)

end Sys2Proof.Machine
end

