-- ==== Sys2Proof/Machine/Matrix.lean ====
section
/-! DEFINITION. The matrix instructions and the completion of their operations (R127, R134, R177 to R185). -/
namespace Sys2Proof.Machine
set_option Elab.async false

/-! ### Checks -/

/-- The macro index lies within the allocation (R177). -/
def State.macroOk (s : State) (mg : Nat) : Except Stop Unit := need (mg < s.team.macros.length) (trapN .illegalOperand mg)

/-- Slot fa describes an A operand (R55, R178). -/
def State.aSlotOk (s : State) (fa : BitVec 3) : Except Stop Unit :=
  let w := s.slotWord fa
  need ((aPasses (slotCode w)).isSome && slotBlock w == 32 && (!(slotKhi w) || aPasses (slotCode w) == some 16))
    (trapN .illegalOperand fa.toNat)

/-- Slot fb describes a B operand (R55, R178). -/
def State.bSlotOk (s : State) (fb : BitVec 3) : Except Stop Unit :=
  let w := s.slotWord fb
  need (bAllowed (slotCode w) (slotWide w) && slotBlock w == 32) (trapN .illegalOperand fb.toNat)

/-- Slot fb agrees with the format record of the macro, unless that is clear (R178). -/
def State.bSlotFits (s : State) (mg : Nat) (fb : BitVec 3) : Except Stop Unit :=
  let w := s.slotWord fb
  match (s.team.macros.getD mg Macro.reset).fmt with
  | none => .ok ()
  | some f => need (f == (BitVec.ofNat 8 (slotCode w), slotWide w)) (trapN .illegalOperand fb.toNat)

/-- The place of a tile in the scratchpad (steps 5 and 6 of R179). -/
def State.tileOk (s : State) (off n : Nat) : Except Stop Unit := do
  need (off % 64 == 0) (trapN .misaligned off)
  need (off + n ≤ s.scratchBytes) (trapN .scratchBound off)

/-- One macro of a team changed. -/
def State.modMacro (s : State) (team mg : Nat) (f : Macro → Macro) : State :=
  s.modTeam team fun t => { t with macros := t.macros.set mg (f (t.macros.getD mg Macro.reset)) }

/-! ### The inkwell -/

/-- INK (R179). -/
def execInk (pt : BitVec 5) (a b : SReg) (s : State) : Host.Outcome State Fault Refusal :=
  finish s do
    s.sound [] [a, b] []
    let w := (s.g.sReg b).toNat
    need (w / 512 == 0) (trapN .illegalOperand b.toNat)
    s.declared pt
    let mg := w % 64
    let fb := BitVec.ofNat 3 (w / 64)
    s.macroOk mg
    s.bSlotOk fb
    let slot := s.slotWord fb
    let off := (s.g.sReg a).toNat
    s.tileOk off (inkBytes slot)
    let t := (s.drainMacro s.g.team mg).modMacro s.g.team mg fun x =>
      { x with fmt := some (BitVec.ofNat 8 (slotCode slot), slotWide slot) }
    .ok (t.beginOp pt.toNat (inkBytes slot) (.ink off mg slot false)).retire

/-- An MMAS of a team reads a macro, and was issued before an operation. -/
def State.mmasBefore (s : State) (team mg before : Nat) : Bool :=
  s.ops.any fun o => o.team == team && o.id < before && (match o.kind with
    | .mmas _ _ m _ _ _ => m == mg
    | _ => false)

/-- INKZ (R180): an INK still under way will leave each cell cleared or loaded. -/
def execInkz (mg : BitVec 6) (s : State) : Host.Outcome State Fault Refusal :=
  finish s do
    s.macroOk mg.toNat
    need (!(s.mmasBefore s.g.team mg.toNat s.fresh)) .stall
    let t := s.drainMacro s.g.team mg.toNat
    if t.mmaBefore s.g.team mg.toNat s.fresh then .error (.wait t.stallHere) else
    let zero := fun (o : EngineOp) => match o.kind with
      | .ink off m w _ => if o.team = s.g.team && m = mg.toNat then { o with kind := .ink off m w true } else o
      | _ => o
    .ok ({ t.modMacro s.g.team mg.toNat (fun _ => Macro.reset) with ops := t.ops.map zero } : State).retire

/-- The incidents of the failed elements and scale codes of a tile (R58, R179). -/
def inkIncidents (g : Group) (ctx : CtxId) (mg : Nat) (failed : List (Nat × Nat × Bool)) : List Incident :=
  failed.map fun f => operandZeroed g ctx 0 f.1 f.2.1 mg f.2.2

/-- A load under way may finish: every earlier MMA and MMAS that reads the macro, and every earlier INK of it, is done (R179, R185). -/
def State.inkReady (s : State) (o : EngineOp) (mg : Nat) : Bool :=
  !(s.mmasBefore o.team mg o.id) && !(s.mmaBefore o.team mg o.id) && (s.inksInFlight o.team mg o.id).isEmpty

/-- The group that issued an operation, if it still stands in its slot (R26, R34): a slot that its team has left may hold another. -/
def State.opGroup (s : State) (o : EngineOp) : Option Group := (s.groupAt o.core o.slot).filter fun g => g.team == o.team

/-- The flags of an operation on its group (R26). -/
def State.orFlagsOf (s : State) (o : EngineOp) (f : Flags) : State :=
  if (s.opGroup o).isSome then s.modGroup o.core o.slot fun g => g.orFlags f else s

/-- The load of a macro finishes (R179): cells and metadata, flags and incidents, and then its bytes are subtracted. -/
def State.inkDone (s0 : State) (o : EngineOp) (off mg : Nat) (w : Word32) (zeroed : Bool) : State :=
  let s := s0.dropOp o.id
  let x := ((s.teamOf o.team).getD Team.none).macros.getD mg Macro.reset
  let (loaded, failed) := (s.tileView o off).inkMacro o.team off w x
  let y := if zeroed then mixMacro s.tick mg 0 x loaded else loaded
  let groups := s.groups.filter fun g => g.team == o.team
  let older := x.old.filter fun p => !(groups.all fun g => p.seen.contains g.index)
  let s1 : State := { s.modMacro o.team mg fun _ => { y with
    old := ⟨x.cells, x.cols, x.badCells, x.badCols, o.point, false, []⟩ :: older } with tick := s.tick + 1 }
  let g : Group := { Group.reset with core := o.core, slot := o.slot }
  let s2 := State.reportAll (inkIncidents g o.ctx mg failed) s1
  let fl := flIf (loaded.cols.any (·.nan)) flScaleNan ||| flIf (!failed.isEmpty) flOpz
  (s2.orFlagsOf o fl).updPoint o.team o.point 0 (-(o.total : Int))

/-- INK_COMPLETE (R179, R185). -/
def execInkComplete (op : Nat) (s : State) : Host.Outcome State Fault Refusal :=
  done <| match s.ops.find? fun o => o.id == op with
  | some o =>
    match o.kind with
    | .ink off mg w zeroed => if s.inkReady o mg then s.inkDone o off mg w zeroed else s
    | _ => s
  | none => s

/-! ### MMA -/

/-- The registers of an MMA's A operand with their errors, numbered from its first (R58, R181). -/
def Group.aErrors (g : Group) (a : VReg) : List BadReg :=
  (g.bad.filter fun b => b.file == 0 && a.toNat ≤ b.index && b.index ≤ a.toNat + 16).map fun b => { b with index := b.index - a.toNat }

/-- MMA (R181): its operands are read at issue; it is performed later, at the latest when its results are wanted. DESIGN CHOICE (log entry
110): within step 8 an odd vA under f64 (R16) is found before a bad mg or slot, and slot fa before slot fb; R178 and R181 order none of
these. -/
def execMma (g : Guard) (q : BitVec 2) (a : VReg) (mg : BitVec 6) (fa fb : BitVec 3) (s : State) :
    Host.Outcome State Fault Refusal :=
  finish s do
    let m := s.g.active g
    s.operands [s.g.vSpanE a 17 false 0, quarterOp q] anyType [] [s.g.guardIdx g]
    s.macroOk mg.toNat
    s.aSlotOk fa
    s.bSlotOk fb
    s.bSlotFits mg.toNat fb
    if m = 0 then .ok s.retire
    else
      let o : MmaOp := ⟨s.fresh, q, mg.toNat, s.slotWord fa, s.slotWord fb, m,
        (List.range 17).map fun i => s.g.vReg (a.toNat + i), s.g.aErrors a⟩
      .ok ({ s with g := { s.g with mmas := s.g.mmas ++ [o] }, fresh := s.fresh + 1 } : State).retire

/-- MMA_COMPLETE (R181): the MMAs of a group are performed. -/
def execMmaComplete (core : CoreId) (slot : SlotId) (s : State) : Host.Outcome State Fault Refusal :=
  done <| if s.g.isAt core slot then s.drainMmas else s.drainOthers fun g => g.isAt core slot

/-- AZERO (R183). -/
def execAzero (g : Guard) (q : BitVec 2) (s0 : State) : Host.Outcome State Fault Refusal :=
  let s := s0.drainMmas
  finish s do
    let m := s.g.active g
    s.operands [quarterOp q] anyType [] [s.g.guardIdx g]
    s.mmasSettled
    .ok (s.retireWith (((List.range 16).foldl (fun (x : Group) n => x.setA (16 * q.toNat + n) m fun _ => 0) s.g).stain q.toNat m))

/-! ### CVTA -/

/-- TYPEs of CVTA (R114). -/
def cvtaType (t : Nat) : Bool := t ≤ 3 || (6 ≤ t && t ≤ 9)

/-- Registers that CVTA writes (R127). DESIGN CHOICE (log entry 86): one where step 7 refuses the TYPE, for which R127 gives no span. -/
def Group.cvtaSpan (g : Group) : Nat := if cvtaType g.typeCode then elemWidth g.ety / 2 else 1

/-- The sixteen results of a lane: converted accumulators, or conversions of free patterns (R51, R127, R134). -/
def Group.cvtaLane (g : Group) (q tick : Nat) (L : Nat) : Nat × Flags :=
  joinElems (elemWidth g.ety) (fun n =>
    let x := if g.unseenQ q then Config.unsettledAcc tick (16 * q + n) L else g.acc (16 * q + n) L
    (elemOf g.ety).encode g.round g.ftz (a96Value x)) 16

/-- CVTA (R127, R134, R197). -/
def execCvta (g : Guard) (q : BitVec 2) (d : VReg) (s0 : State) : Host.Outcome State Fault Refusal :=
  let s := s0.drainMmas
  finish s do
    let m := s.g.active g
    s.operands [s.g.vSpanE d s.g.cvtaSpan false 0, quarterOp q] cvtaType [] [s.g.guardIdx g]
    s.mmasSettled
    let (g1, incs) := s.g.soundAccs s.ctxId (16 * q.toNat) 16 m
    let rs := tab 64 fun L => if bit m L then g1.cvtaLane q.toNat s.tick L else (0, 0)
    let g2 := (g1.setSpan d.toNat m (fun L => (atD rs L (0, 0)).1) g1.cvtaSpan).orFlags (laneFlags m fun L => (atD rs L (0, 0)).2)
    .ok ({ State.reportAll incs s with tick := s.tick + 1 }.retireWith g2)

/-! ### MMAS -/

/-- Bytes of a row of an A tile, its scale codes, and the whole tile (R182). -/
def mmasRow (w : Word32) : Nat := (if aPasses (slotCode w) = some 16 then 32 else 64) * matBits (slotCode w) / 8
def mmasBlocks (w : Word32) : Nat := if aPasses (slotCode w) = some 16 then 1 else 2
def mmasBytes (w : Word32) : Nat := 64 * mmasRow w + if slotScaled w then 64 * mmasBlocks w else 0

/-- The writes that a group need not see, the last first, up to one that is its own or that a FENCEO of its own has followed (R156). -/
def unfenced (index : Nat) : List OldByte → List OldByte
  | [] => []
  | o :: r => if o.writer == some index || o.fenced.contains index then [] else o :: unfenced index r

/-- The bytes of a tile that the nib buffer may still read as they were (R156): those that another group or a copy of its team has written
since the last FENCEO of the issuing group and its own last store, at their places, with what each of those writes has replaced. -/
def State.oldTile (s : State) (off n : Nat) : List (Nat × Byte) :=
  let there := s.mem.olds.filter fun x => scratchLoc s.g.team off ≤ x.loc && x.loc < scratchLoc s.g.team (off + n)
  ((there.map (·.loc)).eraseDups.map fun loc =>
    (unfenced s.g.index (there.filter fun x => x.loc == loc)).map fun x => (loc, x.old)).flatten

/-- MMAS (R182). DESIGN CHOICE (log entry 110): of two bad slots fa is found before fb. -/
def execMmas (pt : BitVec 5) (a b : SReg) (s0 : State) : Host.Outcome State Fault Refusal :=
  let s := s0.drainMmas
  finish s do
    s.sound [] [a, b] []
    need (s.g.role == .matrix) (trapN .notLeader s.g.role.code)
    let w := (s.g.sReg b).toNat
    need (w / 2 ^ 14 == 0) (trapN .illegalOperand b.toNat)
    s.declared pt
    let q := BitVec.ofNat 2 w
    let mg := field w 2 6
    let fa := BitVec.ofNat 3 (w / 256)
    let fb := BitVec.ofNat 3 (w / 2048)
    s.macroOk mg
    s.aSlotOk fa
    s.bSlotOk fb
    s.bSlotFits mg fb
    let slot := s.slotWord fa
    let off := (s.g.sReg a).toNat
    s.tileOk off (mmasBytes slot)
    s.g.budgetCheck [quarterOp q]
    s.mmasSettled
    let g := { s.g with unseen := s.g.unseen ++ [⟨q.toNat, pt.toNat, s.fresh, [⟨0, s.g.quarter q.toNat, s.g.badIn q.toNat⟩], false⟩] }
    .ok (({ s with g := g } : State).beginOp pt.toNat (mmasBytes slot)
      (.mmas off q mg slot (s.slotWord fb) (s.oldTile off (mmasBytes slot)))).retire

/-- Freely the byte that stands, or one of those that the writes before the FENCEO have replaced, the last first (R156). -/
def nibPick (old : Nat → Bool) : Nat → List (Nat × Byte) → Byte → Byte
  | _, [], x => x
  | k, o :: r, x => if old k then nibPick old (k + 1) r o.2 else x

/-- A byte of a tile as an MMAS reads it: one that it may read as it was is old or new, freely (R156). -/
def State.nibByte (s : State) (old : List (Nat × Byte)) (team o : Nat) : Byte :=
  nibPick (Config.readsOld s.tick (scratchLoc team o)) 0 (old.filter fun x => x.1 == scratchLoc team o) (s.scratchByte team o)

/-- Row m of an A tile in the scratchpad (R182), with the elements and scale codes that failed (R58). -/
def State.tileRow (s : State) (team off : Nat) (w : Word32) (old : List (Nat × Byte)) (m : Nat) : ARow :=
  let rb := mmasRow w
  let start := off + rb * m
  let codes := off + 64 * rb + mmasBlocks w * m
  let bits := matBits (slotCode w)
  let count := 8 * rb / bits
  let bad := fun k => (List.range (Nat.max 1 (bits / 8))).any fun i => s.scratchBad team (start + bits * k / 8 + i)
  { bits := leNat (tabList (s.nibByte old team) start rb)
    scales := if slotScaled w then leNat (tabList (s.nibByte old team) codes (mmasBlocks w)) else 0
    failed := (List.range count).filter bad
    failedBlocks := if slotScaled w then (List.range (mmasBlocks w)).filter fun j => s.scratchBad team (codes + j) else [] }

/-- The value an MMAS starts an element from: for each element freely the one at its issue or one of those written in its lane since
(R182); and whether it was in error (R197), which of the value that still stands the accumulator says. -/
def startFrom (tick q : Nat) (starts : List MmasStart) (now : Nat → Nat → Bool) (i L : Nat) : Acc × Bool :=
  let held := starts.take 1 ++ (starts.drop 1).filter fun x => bit x.lanes L
  let k := Config.startChoice tick i L % held.length
  let pick := held.getD k ⟨0, [], []⟩
  (at0 (pick.accs.getD (i - 16 * q) (Vector.replicate 64 0)) L,
   if k + 1 = held.length then now i L else pick.bad.any fun b => b.index == i && bit b.lanes L)

/-- The lanes of its quarter that have been written since the issue of an MMAS (R182). -/
def writtenLanes (starts : List MmasStart) : Word := (starts.drop 1).foldl (fun m x => m ||| x.lanes) 0

/-- What the completion of an MMAS does to the record of the others on its quarter: one on the same unit starts from its result where
nothing has been written since; any other may (R182, R184). -/
def Unseen.after (u : Unseen) (same : Bool) (lanes : Word) (result : List (Vector Acc 64)) : Unseen :=
  if u.starts.isEmpty then u
  else if same then { u with starts := ⟨0, result, []⟩ :: u.starts.drop 1 }
  else { u with starts := u.starts ++ [⟨lanes, result, []⟩] }

/-- The accumulators of a quarter after an MMAS: in the lanes that instructions have written meanwhile, each element is freely theirs, an
error read as R197 has it, or the result; in every other lane it is the result (R182). -/
def Group.settleQuarter (g g1 : Group) (tick q : Nat) (lanes : Word) : Group :=
  if lanes = 0 then g1
  else
    (List.range 16).foldl (fun (x : Group) n => x.setA (16 * q + n) lanes fun L =>
      if Config.keepsWrite tick (16 * q + n) L then (if g.accBad (16 * q + n) L then a96Nan else g.acc (16 * q + n) L)
      else g1.acc (16 * q + n) L) g1

/-- An MMAS finishes (R182): the accumulators and flags of its group, its incidents, and then its bytes are subtracted. -/
def State.mmasDone (s0 : State) (o : EngineOp) (off : Nat) (q : BitVec 2) (mg : Nat) (slotA slotB : Word32) (old : List (Nat × Byte)) :
    State :=
  let s := s0.dropOp o.id
  match s.opGroup o with
  | none => s.updPoint o.team o.point 0 (-(o.total : Int))
  | some g =>
    let has := fun (loc : Nat) => o.ahead.any fun x => scratchLoc o.team (off + x.1) == loc
    let row := (s.tileView o off).tileRow o.team off slotA (old.filter fun x => !(has x.1))
    let job : MatJob := ⟨q.toNat, mg, slotA, slotB, (lanesOf g.live).map fun L => (L, row L)⟩
    let starts := ((g.unseen.find? fun u => u.op == o.id).map (·.starts)).getD []
    let lanes := writtenLanes starts
    let (g1, incs) := g.perform o.ctx (s.macroView o.team mg g.index o.id) job
      (if lanes = 0 then none else some (startFrom s.tick q.toNat starts g.accBad))
    let g2 := g.settleQuarter g1 s.tick q.toNat lanes
    let same := fun (u : Unseen) => s.ops.any fun e => e.id == u.op && (match e.kind with
      | .mmas _ p m a _ _ => m == mg && sameUnit q p slotA a slotB
      | _ => false)
    let g3 := { g2 with unseen := g2.unseen.map fun u =>
      if u.op = o.id then { u with starts := [] } else if u.q = q.toNat then u.after (same u) g.live (g2.quarter q.toNat) else u }
    let s1 := State.reportAll incs ({ s.modGroup o.core o.slot (fun _ => g3) with tick := s.tick + 1 })
    s1.updPoint o.team o.point 0 (-(o.total : Int))

/-- An MMAS may finish: no earlier MMA or MMAS of its team is on its unit (R184). -/
def State.mmasReady (s : State) (o : EngineOp) (q : BitVec 2) (mg : Nat) (slotA slotB : Word32) : Bool :=
  !(s.mmasAhead o.team o.id q mg slotA slotB) &&
    !(s.groups.any fun g => g.team == o.team && g.mmas.any fun e => e.id < o.id && e.mg == mg && sameUnit q e.q slotA e.slotA slotB)

/-- MMAS_COMPLETE (R182, R184). -/
def execMmasComplete (op : Nat) (s : State) : Host.Outcome State Fault Refusal :=
  done <| match s.ops.find? fun o => o.id == op with
  | some o =>
    match o.kind with
    | .mmas off q mg slotA slotB old =>
      if s.mmasReady o q mg slotA slotB then s.mmasDone o off q mg slotA slotB old else s
    | _ => s
  | none => s

end Sys2Proof.Machine
end

