-- ==== Sys2Proof/Machine/Predicate.lean ====
section
/-! DEFINITION. Predicate instructions (R106, R107). -/
namespace Sys2Proof.Machine
set_option Elab.async false

/-- A predicate written in the Active lanes from sources that hold no error (R106). -/
def predOp (s : State) (G : Guard) (d : PReg) (ss : List SReg) (ps : List PReg) (x : Word) :
    Host.Outcome State Fault Refusal :=
  finish s do
    s.sound [] ss (s.g.guardIdx G :: ps)
    .ok (s.retireWith (s.g.setP d (s.g.active G) x))

/-- PAND (R106). -/
def execPand (g : Guard) (d a b : PReg) (s : State) : Host.Outcome State Fault Refusal :=
  predOp s g d [] [a, b] (s.g.pReg a &&& s.g.pReg b)

/-- POR (R106). -/
def execPor (g : Guard) (d a b : PReg) (s : State) : Host.Outcome State Fault Refusal :=
  predOp s g d [] [a, b] (s.g.pReg a ||| s.g.pReg b)

/-- PXOR (R106). -/
def execPxor (g : Guard) (d a b : PReg) (s : State) : Host.Outcome State Fault Refusal :=
  predOp s g d [] [a, b] (s.g.pReg a ^^^ s.g.pReg b)

/-- PMOV (R106). -/
def execPmov (g : Guard) (d a : PReg) (s : State) : Host.Outcome State Fault Refusal := predOp s g d [] [a] (s.g.pReg a)

/-- PSET (R106): bit L of the scalar into lane L. -/
def execPset (g : Guard) (d : PReg) (a : SReg) (s : State) : Host.Outcome State Fault Refusal :=
  predOp s g d [a] [] (s.g.sReg a)

/-- A scalar computed from a predicate. -/
def predScalar (s : State) (d : SReg) (a : PReg) (x : Word) : Host.Outcome State Fault Refusal :=
  finish s do
    s.sound [] [] [a]
    .ok (s.retireWith (s.g.setS d x))

/-- PGET (R107): all 64 bits. -/
def execPget (d : SReg) (a : PReg) (s : State) : Host.Outcome State Fault Refusal := predScalar s d a (s.g.pReg a)

/-- PCNT (R107). -/
def execPcnt (d : SReg) (a : PReg) (s : State) : Host.Outcome State Fault Refusal :=
  predScalar s d a (BitVec.ofNat 64 (popCount (s.g.pReg a &&& s.g.live)))

/-- PFIRST (R107): 64 when no lane is set. -/
def execPfirst (d : SReg) (a : PReg) (s : State) : Host.Outcome State Fault Refusal :=
  predScalar s d a (BitVec.ofNat 64 (ctzOf (s.g.pReg a &&& s.g.live)))

end Sys2Proof.Machine
end

