-- ==== Sys2Proof/Machine/Replicas.lean ====
section
/-! DEFINITION. Promotion of scope marks (R262), and of read-only pages into the vaults (R247, R248, R328). -/
namespace Sys2Proof.Machine
set_option Elab.async false

/-- SCOPE_MARK_PROMOTION (R262, R6): 4,096 cycles of 3.3 GHz after a mark its holder's release is made at device scope, or at system scope where an agent
outside the device waits. -/
def execScopeMarkPromotion (line : Nat) (s : State) : Host.Outcome State Fault Refusal :=
  done <|
    match s.mem.marks.find? fun m => m.line == line && 40960 ≤ (s.ptp.toNat - m.time.toNat) * 33 with
    | some m => s.releaseSoon m.holder.core (if m.outside then .sys else .dev)
    | none => s

/-! ### Replicas -/

/-- The translation of a page that may be promoted into a column (R247): HOME 0, PROMOTE, no write permission, in HBM. -/
def State.promotable (s : State) (col : ColId) (ctx : CtxId) (page : Nat) : Option Xlat :=
  let a := portAgent ctx col
  match s.walk a (65536 * page), s.translate a (65536 * page) 65536 .read with
  | .ok (e, _), .ok x =>
    match x.site with
    | .mem _ => if x.home = 0 && x.promote && !(e.getLsbD 2) then some x else none
    | _ => none
  | _, _ => none

/-- The entries of a column's replica table without that of a frame. -/
def ColState.dropFrame (c : ColState) (frame : Nat) : ColState := { c with replicas := c.replicas.filter fun r => r.frame != frame }

/-- The cores of a column have read every one of the 2,048 sectors of a page past its slice within 100 µs (R247). -/
def ColState.readThrough (c : ColState) (ctx : CtxId) (page now : Nat) : Bool :=
  c.pageReads.any fun r => r.ctx == ctx && r.page == page && 2048 ≤ (r.sectors.filter fun x => now ≤ x.2 + 100000).length

/-- The frame may be taken (R247): an invalid one, or, where there is none, the least recently used of those that no access has used for
1 ms. -/
def ColState.frameFree (c : ColState) (frame now : Nat) : Bool :=
  match c.replicas.find? fun r => r.frame == frame with
  | none => true
  | some r =>
    !r.copying && (!r.valid ||
      (r.used + 1000000 ≤ now && c.replN.toNat ≤ (c.replicas.filter fun x => x.valid || x.copying).length &&
        c.replicas.all fun x => x.copying || r.used ≤ x.used))

/-- PROMOTION_START (R247): the frame is taken, and the generation recorded. -/
def execPromotionStart (col : ColId) (ctx : CtxId) (va : BitVec 64) (frame : Nat) (s : State) : Host.Outcome State Fault Refusal :=
  done <|
    let page := va.toNat / 2 ^ 16
    let c := s.cols.get col
    if c.fenced || c.replN.toNat ≤ frame || !(c.frameFree frame s.ptp.toNat) || !(c.readThrough ctx page s.ptp.toNat) then s
    else match s.promotable col ctx page with
      | some x => s.modCol col fun y => { y.dropFrame frame with
          replicas := ⟨frame, page, ctx, x.gen, false, true, s.ptp.toNat⟩ :: (y.dropFrame frame).replicas }
      | none => s

/-- The 64 KiB of a page copied into a frame of a column's vault, poisoned sectors as such (R353). -/
def State.copyPage (s : State) (col : ColId) (x : Xlat) (loc frame : Nat) : State :=
  let dst := vaultLoc col (65536 * ((s.cols.get col).replBase.toNat + frame))
  let t := s.storeRun (s.keySlot x.key) dst (tabList (s.mem.plain (s.keySlot x.key)) loc 65536)
  let bad := (tabList (fun i => 32 * i) 0 2048).filter fun o => s.mem.poisoned (loc + o)
  { t with mem := bad.foldl (fun m o => m.addPoison (dst + o)) t.mem }

/-- PROMOTION_COMMIT (R247): the entry becomes valid if the page still has its generation and may still be promoted; else the frame is
abandoned, and so it is after 100 µs (R328). A poisoned sector of the page is one of the frame too, and its reader traps (R354). -/
def execPromotionCommit (col : ColId) (frame : Nat) (s : State) : Host.Outcome State Fault Refusal :=
  done <| match (s.cols.get col).replicas.find? fun r => r.frame == frame && r.copying with
  | some r =>
    let drop := s.modCol col fun c => c.dropFrame frame
    match s.promotable col r.ctx r.page with
    | some x =>
      match x.site with
      | .mem loc =>
        let t := (tabList id (loc / 128) 512).foldl State.mergeCopies s
        if x.gen = r.gen && s.ptp.toNat < r.used + 100000 then
          (t.copyPage col x loc frame).modCol col fun c => { c with
            replicas := updWhere (fun y => y.frame == frame) (fun y => { y with valid := true, copying := false }) c.replicas }
        else drop
      | _ => drop
    | none => drop
  | none => s

/-- PROMOTION_ABANDON (R328): 100 µs without a commit. -/
def execPromotionAbandon (col : ColId) (frame : Nat) (s : State) : Host.Outcome State Fault Refusal :=
  done (if (s.cols.get col).replicas.any fun r => r.frame == frame && r.copying && r.used + 100000 ≤ s.ptp.toNat then s.modCol col fun c => c.dropFrame frame else s)

end Sys2Proof.Machine
end

