-- ==== Sys2Proof/Machine/Registers.lean ====
section
/-! DEFINITION. Writes to the registers of BAR0 (R7, R308): the device block, the doorbell pages, the column blocks. -/
namespace Sys2Proof.Machine
set_option Elab.async false

/-- The state after a step that goes on. -/
def after (o : Host.Outcome State Fault Refusal) (s : State) : State :=
  match o with
  | .next t => t
  | _ => s

/-- A write to a field of the device block. -/
def State.setDev (s : State) (f : Device → Device) : State := { s with dev := f s.dev }

/-! ### The device block -/

/-- A context is not FREE. -/
def State.anyCtx (s : State) (p : CtxPhase → Bool) : Bool := (List.finRange 64).any fun c => p (s.ctxs.get c).phase

/-- A log2 field: kept within its range, else stored as 0. -/
def logField (v lo hi : Nat) : Nat := if lo ≤ v ∧ v ≤ hi then v else 0

/-- The registers of the management journal (R309). -/
def State.journalRegister (s : State) (off : Nat) (value : Word) : State :=
  let v := value.toNat
  let x := s.jrns.get 64
  if x.accepted ≠ x.submit then s
  else if off = 0x08 then s.modJrn 64 fun y => { y with base := BitVec.ofNat 64 (field v 7 45 * 2 ^ 7) }
  else if off = 0x10 then s.modJrn 64 fun y => { y with accBase := BitVec.ofNat 64 (field v 5 47 * 2 ^ 5) }
  else
    let mj := logField (field v 0 5) 6 16
    let ma := logField (field v 5 5) 6 16
    let on := mj != 0 && ma != 0
    (s.setDev fun d => { d with mjlog := BitVec.ofNat 5 mj, majlog := BitVec.ofNat 5 ma }).modJrn 64 fun y => { y with
      entries := if on then 2 ^ mj else 0, accEntries := if on then 2 ^ ma else 0 }

/-- A write to the shootdown register (R326): refused when a reserved bit is set or the kind is not one. -/
def State.shootdownWrite (s : State) (value : Word) : State :=
  let v := value.toNat
  let vpn := field v 16 39
  let ctx : CtxId := ⟨field v 0 6 % 64, Nat.mod_lt _ (by decide)⟩
  let kind := field v 14 2
  if field v 55 9 ≠ 0 || field v 6 8 ≠ 0 || kind = 3 then s.setDev fun d => { d with sdRefused := d.sdRefused + 1 }
  else s.shootdown (if kind = 0 then .page vpn ctx else if kind = 1 then .context ctx else .everywhere vpn)

/-- A write to LOGCONS (R386). -/
def State.logconsWrite (s : State) (value : Word) : State :=
  if s.dev.logCons.toNat < value.toNat && value.toNat ≤ s.dev.logHead.toNat then
    (s.setDev fun d => { d with logCons := value }).logDrain 4097
  else s

/-- LOGCONS_WRITE (R386). -/
def execLogconsWrite (value : BitVec 64) (s : State) : Host.Outcome State Fault Refusal := done (s.logconsWrite value)

/-- The registers of the log (R386). -/
def State.logRegister (s : State) (off : Nat) (value : Word) : State :=
  let v := value.toNat
  if off = 0x418 then s.logconsWrite value
  else if off = 0x428 then (if value.getLsbD 0 then s.setDev fun d => { d with logPend := false } else s)
  else if s.dev.logHead ≠ s.dev.logCons then s
  else if off = 0x400 then s.setDev fun d => { d with logBase := BitVec.ofNat 46 (field v 6 46) }
  else if off = 0x408 then
    (s.setDev fun d => { d with logLog := BitVec.ofNat 5 (logField (field v 0 5) 10 20) }).logDrain 4097
  else s

/-- A lease time clamped to 2 to 200 µs (R368). -/
def leaseClamp (n : Nat) : Byte := BitVec.ofNat 8 (Nat.max 2 (Nat.min 200 n))

/-- The registers of memory, of the checkpoint engine, and of the links (R349, R360, R368). -/
def State.unitRegister (s : State) (off : Nat) (value : Word) : State :=
  let v := value.toNat
  if off = 0x188 then s.setDev fun d => { d with maxpa := BitVec.ofNat 36 (field v 16 36) }
  else if off = 0x190 then
    let t := s.setDev fun d => { d with share := BitVec.ofNat 3 (field v 1 3) }
    if value.getLsbD 0 then t.restripe else t
  else if off = 0x1A0 then s.setDev fun d => { d with scrubh := BitVec.ofNat 8 v }
  else if off = 0x1A8 then s.setDev fun d => { d with ckdst := BitVec.ofNat 40 (field v 12 40) }
  else if off = 0x1B0 then s.checkpoint (value.getLsbD 0) (value.getLsbD 1)
  else if off = 0x200 then
    let up := s.links.ports.toList.any (·.up)
    s.setDev fun d => { d with leaseEn := value.getLsbD 10, uaid := if up then d.uaid else BitVec.ofNat 10 v }
  else if off = 0x208 then s.setDev fun d => { d with maxGrant := leaseClamp (field v 8 8), defLease := leaseClamp (field v 0 8) }
  else if off = 0x210 then s.goWrite value
  else if off = 0x310 then s.devresetWrite value
  else s

/-- The device block (R309, R326, R333, R349, R360, R368, R381, R386). -/
def State.deviceRegister (s : State) (off : Nat) (value : Word) : State :=
  let v := value.toNat
  let saves := s.anyCtx fun p => p == .saving || p == .saved
  if off = 0x00 then
    if s.anyCtx (· != .free) then s else s.setDev fun d => { d with ctxtbl := BitVec.ofNat 38 (field v 14 38) }
  else if off = 0x08 || off = 0x10 || off = 0x18 then s.journalRegister off value
  else if off = 0x100 then s.shootdownWrite value
  else if off = 0x118 then if saves then s else s.setDev fun d => { d with saveBase := BitVec.ofNat 36 (field v 16 36) }
  else if off = 0x120 then if saves then s else s.setDev fun d => { d with saveSz := BitVec.ofNat 14 v }
  else if 0x400 ≤ off && off ≤ 0x428 then s.logRegister off value
  else s.unitRegister off value

/-! ### The other blocks -/

/-- The doorbell page of a journal (R314). -/
def State.doorbell (s : State) (j : JournalId) (off : Nat) (value : Word) : State :=
  if off = 0x00 then after (execSubmitWrite j value s) s
  else if off = 0x10 then after (execAjconsWrite j value s) s
  else if off = 0x18 && value.getLsbD 0 then s.modJrn j fun x => { x with pend := false }
  else s

/-- A band register whose values of 3 are stored as 2 (R359). -/
def bandValue (v : Nat) : Word32 :=
  BitVec.ofNat 32 ((List.range 16).foldl (fun acc i => acc + Nat.min 2 (field v (2 * i) 2) * 4 ^ i) 0)

/-- The registers of a column's queues (R319, R329). -/
def State.queueRegister (s : State) (c : ColId) (off : Nat) (value : Word) : State :=
  let v := value.toNat
  let x := s.cols.get c
  if off = 0x00 then if x.hqTail = x.hqHead then s.modCol c fun y => { y with hqBase := BitVec.ofNat 42 (field v 10 42) } else s
  else if off = 0x08 then
    if x.hqTail = x.hqHead then s.modCol c fun y => { y with hqLog := BitVec.ofNat 4 (logField (field v 0 4) 4 10) } else s
  else if off = 0x18 then after (execHqheadWrite c value s) s
  else if off = 0x20 then after (execHreplyWrite c value s) s
  else if off = 0x30 then if x.fqTail = x.fqHead then s.modCol c fun y => { y with fqBase := BitVec.ofNat 46 (field v 6 46) } else s
  else if off = 0x38 then
    if x.fqTail = x.fqHead then s.modCol c fun y => { y with fqLog := BitVec.ofNat 4 (logField (field v 0 4) 4 12) } else s
  else if off = 0x48 then after (execFqheadWrite c value s) s
  else if off = 0x50 then after (execFqdoneWrite c value s) s
  else s

/-- The replica area of a column (R319): a size that does not fit is stored as 0, and the replicas are dropped (R248). -/
def State.replicaRegister (s : State) (c : ColId) (value : Word) : State :=
  let base := field value.toNat 16 13
  let n := field value.toNat 0 11
  s.modCol c fun x => { x with
    replBase := BitVec.ofNat 13 base, replN := BitVec.ofNat 11 (if 1024 < n || 8192 < base + n then 0 else n), replicas := [] }

/-- The column block (R319, R329, R359, R381). -/
def State.columnRegister (s : State) (c : ColId) (off : Nat) (value : Word) : State :=
  if off < 0x80 && off ≠ 0x28 then s.queueRegister c off value
  else if off = 0x28 then s.replicaRegister c value
  else if off = 0x80 then s.renew c value
  else if off = 0x88 then s.modVault c fun v => { v with band := bandValue value.toNat }
  else if off = 0xC0 then s.govWrite c value
  else if off = 0xC8 then s.waysWrite c value
  else if 0xD0 ≤ off && off < 0xF0 && off % 8 = 0 then
    s.pinWrite (colCore c ⟨(off - 0xD0) / 8 % 4, Nat.mod_lt _ (by decide)⟩) value
  else s

/-- A write to BAR0 that TDISP refuses: to CTXTBL and the registers at 0x100 to 0x120 while the TDI is LOCKED or RUN, but through IDE
(R377). -/
def State.tdispRefuses (s : State) (off : Nat) (ide : Bool) : Bool :=
  !ide && s.dev.tdisp != .unlocked && (off == 0 || (0x100 ≤ off && off ≤ 0x120))

/-- A register written through BAR0 (R308). Once the boot has stopped only the device block is there (R374). -/
def State.registerWrite (s : State) (off : Nat) (value : Word) (ide : Bool) : State :=
  if s.tdispRefuses off ide then s.report (IncCode.tdispWriteRefused.entry.withPa off)
  else if off < 0x10000 then s.deviceRegister off value
  else if s.dev.bootFail then s
  else if h : 0x10000 ≤ off ∧ off < 0x51000 then s.doorbell ⟨(off - 0x10000) / 0x1000, by omega⟩ (off % 0x1000) value
  else if h : 0x100000 ≤ off ∧ off < 0x140000 then s.columnRegister ⟨(off - 0x100000) / 0x1000, by omega⟩ (off % 0x1000) value
  else s

/-- REGISTER_WRITE (R7, R308). -/
def execRegisterWrite (off : BitVec 24) (value : BitVec 64) (ide : Bool) (s : State) : Host.Outcome State Fault Refusal :=
  done (s.registerWrite off.toNat value ide)

end Sys2Proof.Machine
end

