-- ==== Sys2Proof/Machine/Telemetry.lean ====
section
/-! DEFINITION. Attestation, key slots, sensors and events of the DMC (R356, R377, R386, R393, R394). -/
namespace Sys2Proof.Machine
set_option Elab.async false

/-- What a measurement block covers (R377): the images of d0 and of the other dies, the fuse floor, the progress records of the boot.
DESIGN CHOICE (log entry 120): the floor as 4 bytes, the records in order. -/
def State.measured (s : State) (block : Nat) : List Byte :=
  if block ≤ 4 then (s.flash.bankImages[block - 1]?.map DmcImage.bytes).getD []
  else if block = 5 then leBytes 4 s.flash.floor.toNat
  else ((s.flash.records.filter fun r => r.serial == s.log.bootSerial).map BootRec.bytes).flatten

/-- SPDM_GET_MEASUREMENTS (R377): the SHA-384 digest of a block. -/
def execSpdmGetMeasurements (block : Nat) (s : State) : Host.Outcome State Fault Refusal :=
  done { s with answer := if 1 ≤ block && block ≤ 6 then sha384 (s.measured block) else [] }

/-- The keys of an IDE stream are exchanged by IDE_KM, or the stream ends (R377). -/
def State.ideKeys (s : State) (x : IdeStream) (on : Bool) : State :=
  let rest := s.dev.ideStreams.filter fun y => y.id != x.id
  { s with dev := { s.dev with ideStreams := if on then x :: rest else rest } }

/-- Every access that uses a key slot performed, and nothing read under it kept (R356). -/
def State.settleKey (s : State) (slot : Nat) : State :=
  (List.finRange 256).foldl (fun (t : State) c =>
    let t1 := t.drainComb c fun e => e.key == slot
    let lines := ((t1.cores.get c).l1.filter fun l => l.key == slot).map (·.line)
    let t2 := lines.foldl (fun (u : State) l => u.cleanDrop c l) t1
    t2.modCore c fun x => { x with consts := x.consts.filter fun w => w.2.1 != slot })
    ((s.mem.copies.filter fun c => c.words.any fun w => w.key == slot).foldl (fun (t : State) c => t.mergeCopies c.line) s)

/-- KEY_SLOT_LOAD (R356, R377): once no write under the slot is held; while the TDI is LOCKED or RUN a load that does not come through
IDE, over a stream that stands, is refused. -/
def execKeySlotLoad (slot : BitVec 7) (msg : KeyMessage) (k1 k2 : BitVec 256) (s : State) : Host.Outcome State Fault Refusal :=
  done <|
    if s.dev.tdisp ≠ .unlocked && (!msg.ide || s.dev.ideStreams.isEmpty) then s.report IncCode.tdispWriteRefused.entry
    else if s.links.held.any fun h => h.writes && h.key == slot.toNat then s
    else
      let t := s.settleKey slot.toNat
      let u : State := { t with tick := t.tick + 1, keys := t.keys.set slot.toNat ⟨msg.xts, k1, k2⟩ slot.isLt }
      u.report { IncCode.keySlotLoaded.entry.byEngine 9 with
        detail := BitVec.ofNat 64 (slot.toNat + if msg.xts then 256 else 0) }

/-- The reading of a sensor (R393). -/
def State.sensor (s : State) (id : Nat) : Option Nat :=
  let n := id % 256
  let col := s.cols.get ⟨n % 64, Nat.mod_lt _ (by decide)⟩
  let kind := id / 256
  if kind = 1 && n < 4 then some (s.cols.get ⟨16 * n % 64, Nat.mod_lt _ (by decide)⟩).gov.power
  else if kind = 2 && n < 64 then some col.gov.jtemp.toNat
  else if kind = 3 && n < 64 then some (col.vault.temps.getD (hottest col.vault.temps) 0).toNat
  else if id = 0x400 then some s.dev.mode.code
  else if kind = 5 && n < 64 then some ((if col.fenced then 1 else 0) + 2 * col.gov.level.toNat)
  else if kind = 6 && n < 12 then some (if s.lostStacks.contains n then 1 else 0)
  else if kind = 7 && n < 4 then some (s.links.modules.getD n []).length
  else if kind = 8 && n < 64 then
    let p := s.links.ports.get ⟨n % 64, Nat.mod_lt _ (by decide)⟩
    some (if p.up then (if p.double then 2 else 1) else 0)
  else if kind = 9 && n < 64 then some (if col.vault.owner then 1 else 0)
  else if id = 0xA00 then some (s.dev.logHead - s.dev.logCons).toNat
  else none

/-- PLDM_GET_SENSOR_READING (R393): 8 bytes, or nothing for a sensor that there is not. -/
def execPldmGetSensorReading (sensor : BitVec 16) (s : State) : Host.Outcome State Fault Refusal :=
  let reading := ((s.sensor sensor.toNat).map (leBytes 8)).getD []
  done { s with tick := s.tick + 1, answer := reading }

/-- A controller acknowledges the message of a record, by its SEQ (R394). -/
def State.eventAck (s : State) (seq : Word) : State :=
  { s with log := { s.log with events := s.log.events.filter fun e => e.record.seq != seq } }

/-- The messages after a look at their age (R394): one that no controller has acknowledged for 1 s is sent once more, and then given up. -/
def eventRetries (now : Nat) (l : List PlatformEvent) : List PlatformEvent :=
  l.filterMap fun e =>
    if now < e.sent + 1000000000 then some e else if e.retried then none else some { e with sent := now, retried := true }

/-- PLATFORM_EVENT_RETRY (R394): the oldest message is acknowledged, or those that have waited for 1 s are sent again. -/
def execPlatformEventRetry (acked : Bool) (s : State) : Host.Outcome State Fault Refusal :=
  done { s with log := { s.log with events := if acked then s.log.events.drop 1 else eventRetries s.ptp.toNat s.log.events } }

/-- LOG_MERGE_SUMMARY (R386): at the end of a second from the first replaced record of a class, code and column, one record for those replaced
in it (log entry 126). -/
def execLogMergeSummary (cls code : BitVec 8) (col : BitVec 8) (s : State) : Host.Outcome State Fault Refusal :=
  done <|
    let mine := fun (m : MergeCount) => m.of cls.toNat code.toNat col.toNat
    match s.log.merges.find? mine with
    | some m =>
      let t : State := s.modMerge cls.toNat code.toNat col.toNat fun x => { x with replaced := 0 }
      if m.replaced = 0 || s.ptp.toNat < m.since + oneSecond then s
      else
        let i := { IncCode.logRecordsMerged.entry.byEngine 9 with
          detail := BitVec.ofNat 64 (m.replaced % 2 ^ 32 + 2 ^ 32 * m.cls + 2 ^ 40 * m.code) }
        t.report (if h : m.col < 64 then i.atCol ⟨m.col, h⟩ else i)
    | none => s

/-- TDISP_STATE_CHANGE (R377). -/
def execTdispStateChange (tdi : TdispState) (s : State) : Host.Outcome State Fault Refusal :=
  done { s with dev := { s.dev with tdisp := tdi } }

end Sys2Proof.Machine
end

