-- ==== Sys2Proof/Machine/Dispatch.lean ====
section
/-! DEFINITION. The dispatch of every instruction and event to its meaning. -/
namespace Sys2Proof.Machine

/-- The effect of one instruction or event. -/
def exec (i : Instr) (s : State) : Host.Outcome State Fault Refusal :=
  match i with
  | .branch off => Sys2Proof.Machine.execBranch off s
  | .call off => Sys2Proof.Machine.execCall off s
  | .nop => Sys2Proof.Machine.execNop s
  | .calls a => Sys2Proof.Machine.execCalls a s
  | .ret => Sys2Proof.Machine.execRet s
  | .jmps a => Sys2Proof.Machine.execJmps a s
  | .land => Sys2Proof.Machine.execLand s
  | .halt => Sys2Proof.Machine.execHalt s
  | .poll => Sys2Proof.Machine.execPoll s
  | .yield => Sys2Proof.Machine.execYield s
  | .endGroup => Sys2Proof.Machine.execEndGroup s
  | .bz t off => Sys2Proof.Machine.execBz t off s
  | .bnz t off => Sys2Proof.Machine.execBnz t off s
  | .bany t off => Sys2Proof.Machine.execBany t off s
  | .ball t off => Sys2Proof.Machine.execBall t off s
  | .bnone t off => Sys2Proof.Machine.execBnone t off s
  | .jmpv a => Sys2Proof.Machine.execJmpv a s
  | .add d a b => Sys2Proof.Machine.execAdd d a b s
  | .sub d a b => Sys2Proof.Machine.execSub d a b s
  | .and d a b => Sys2Proof.Machine.execAnd d a b s
  | .or d a b => Sys2Proof.Machine.execOr d a b s
  | .xor d a b => Sys2Proof.Machine.execXor d a b s
  | .sll d a b => Sys2Proof.Machine.execSll d a b s
  | .srl d a b => Sys2Proof.Machine.execSrl d a b s
  | .sra d a b => Sys2Proof.Machine.execSra d a b s
  | .mul d a b => Sys2Proof.Machine.execMul d a b s
  | .mulh d a b => Sys2Proof.Machine.execMulh d a b s
  | .mulhn d a b => Sys2Proof.Machine.execMulhn d a b s
  | .div d a b => Sys2Proof.Machine.execDiv d a b s
  | .divn d a b => Sys2Proof.Machine.execDivn d a b s
  | .rem d a b => Sys2Proof.Machine.execRem d a b s
  | .remn d a b => Sys2Proof.Machine.execRemn d a b s
  | .slt d a b => Sys2Proof.Machine.execSlt d a b s
  | .sltn d a b => Sys2Proof.Machine.execSltn d a b s
  | .min d a b => Sys2Proof.Machine.execMin d a b s
  | .max d a b => Sys2Proof.Machine.execMax d a b s
  | .minn d a b => Sys2Proof.Machine.execMinn d a b s
  | .maxn d a b => Sys2Proof.Machine.execMaxn d a b s
  | .seq d a b => Sys2Proof.Machine.execSeq d a b s
  | .clz d a => Sys2Proof.Machine.execClz d a s
  | .ctz d a => Sys2Proof.Machine.execCtz d a s
  | .popc d a => Sys2Proof.Machine.execPopc d a s
  | .addi d a imm => Sys2Proof.Machine.execAddi d a imm s
  | .andi d a imm => Sys2Proof.Machine.execAndi d a imm s
  | .ori d a imm => Sys2Proof.Machine.execOri d a imm s
  | .glyph gi pA pB kinds => Sys2Proof.Machine.execGlyph gi pA pB kinds s
  | .glyld a gi => Sys2Proof.Machine.execGlyld a gi s
  | .xori d a imm => Sys2Proof.Machine.execXori d a imm s
  | .slli d a cnt => Sys2Proof.Machine.execSlli d a cnt s
  | .srli d a cnt => Sys2Proof.Machine.execSrli d a cnt s
  | .srai d a cnt => Sys2Proof.Machine.execSrai d a cnt s
  | .slti d a imm => Sys2Proof.Machine.execSlti d a imm s
  | .liz d hw imm => Sys2Proof.Machine.execLiz d hw imm s
  | .lik d hw imm => Sys2Proof.Machine.execLik d hw imm s
  | .ld d a imm => Sys2Proof.Machine.execLd d a imm s
  | .st d a imm => Sys2Proof.Machine.execSt d a imm s
  | .ldk d a imm => Sys2Proof.Machine.execLdk d a imm s
  | .mode d a mask => Sys2Proof.Machine.execMode d a mask s
  | .mdr d => Sys2Proof.Machine.execMdr d s
  | .flr d => Sys2Proof.Machine.execFlr d s
  | .flclr d a sel => Sys2Proof.Machine.execFlclr d a sel s
  | .sreadScalar d sel => Sys2Proof.Machine.execSreadScalar d sel s
  | .swrite a sel => Sys2Proof.Machine.execSwrite a sel s
  | .sreadVector g d sel => Sys2Proof.Machine.execSreadVector g d sel s
  | .pand g d a b => Sys2Proof.Machine.execPand g d a b s
  | .por g d a b => Sys2Proof.Machine.execPor g d a b s
  | .pxor g d a b => Sys2Proof.Machine.execPxor g d a b s
  | .pmov g d a => Sys2Proof.Machine.execPmov g d a s
  | .pset g d a => Sys2Proof.Machine.execPset g d a s
  | .pget d a => Sys2Proof.Machine.execPget d a s
  | .pcnt d a => Sys2Proof.Machine.execPcnt d a s
  | .pfirst d a => Sys2Proof.Machine.execPfirst d a s
  | .cvt g d a c => Sys2Proof.Machine.execCvt g d a c s
  | .cvtFrom g d a c => Sys2Proof.Machine.execCvtFrom g d a c s
  | .quant g d a slot => Sys2Proof.Machine.execQuant g d a slot s
  | .deq g d a slot => Sys2Proof.Machine.execDeq g d a slot s
  | .vmovi g d imm => Sys2Proof.Machine.execVmovi g d imm s
  | .vadd g d a b => Sys2Proof.Machine.execVadd g d a b s
  | .vsub g d a b => Sys2Proof.Machine.execVsub g d a b s
  | .vmul g d a b => Sys2Proof.Machine.execVmul g d a b s
  | .vmulh g d a b => Sys2Proof.Machine.execVmulh g d a b s
  | .vmin g d a b => Sys2Proof.Machine.execVmin g d a b s
  | .vmax g d a b => Sys2Proof.Machine.execVmax g d a b s
  | .vabsd g d a b => Sys2Proof.Machine.execVabsd g d a b s
  | .vavg g d a b => Sys2Proof.Machine.execVavg g d a b s
  | .vand g d a b => Sys2Proof.Machine.execVand g d a b s
  | .vor g d a b => Sys2Proof.Machine.execVor g d a b s
  | .vxor g d a b => Sys2Proof.Machine.execVxor g d a b s
  | .vandn g d a b => Sys2Proof.Machine.execVandn g d a b s
  | .vsll g d a b => Sys2Proof.Machine.execVsll g d a b s
  | .vsrl g d a b => Sys2Proof.Machine.execVsrl g d a b s
  | .vsra g d a b => Sys2Proof.Machine.execVsra g d a b s
  | .vpopc g d a => Sys2Proof.Machine.execVpopc g d a s
  | .vadds g d a b => Sys2Proof.Machine.execVadds g d a b s
  | .vsubs g d a b => Sys2Proof.Machine.execVsubs g d a b s
  | .vmad g d a b => Sys2Proof.Machine.execVmad g d a b s
  | .vdot4 g d a b => Sys2Proof.Machine.execVdot4 g d a b s
  | .vdiv g d a b => Sys2Proof.Machine.execVdiv g d a b s
  | .vrem g d a b => Sys2Proof.Machine.execVrem g d a b s
  | .vclz g d a => Sys2Proof.Machine.execVclz g d a s
  | .vabs g d a => Sys2Proof.Machine.execVabs g d a s
  | .vaddi g d a imm => Sys2Proof.Machine.execVaddi g d a imm s
  | .vslli g d a cnt => Sys2Proof.Machine.execVslli g d a cnt s
  | .vsrli g d a cnt => Sys2Proof.Machine.execVsrli g d a cnt s
  | .vsrai g d a cnt => Sys2Proof.Machine.execVsrai g d a cnt s
  | .fadd g d a b => Sys2Proof.Machine.execFadd g d a b s
  | .fsub g d a b => Sys2Proof.Machine.execFsub g d a b s
  | .fmul g d a b => Sys2Proof.Machine.execFmul g d a b s
  | .fmin g d a b => Sys2Proof.Machine.execFmin g d a b s
  | .fmax g d a b => Sys2Proof.Machine.execFmax g d a b s
  | .fabs g d a => Sys2Proof.Machine.execFabs g d a s
  | .fneg g d a => Sys2Proof.Machine.execFneg g d a s
  | .fsgnj g d a b => Sys2Proof.Machine.execFsgnj g d a b s
  | .fma g d a b => Sys2Proof.Machine.execFma g d a b s
  | .fms g d a b => Sys2Proof.Machine.execFms g d a b s
  | .fnma g d a b => Sys2Proof.Machine.execFnma g d a b s
  | .fdiv g d a b => Sys2Proof.Machine.execFdiv g d a b s
  | .fsqrt g d a => Sys2Proof.Machine.execFsqrt g d a s
  | .frsq g d a => Sys2Proof.Machine.execFrsq g d a s
  | .fexp2 g d a => Sys2Proof.Machine.execFexp2 g d a s
  | .flog2 g d a => Sys2Proof.Machine.execFlog2 g d a s
  | .vcmp g c pd pe a b => Sys2Proof.Machine.execVcmp g c pd pe a b s
  | .fcmp g c pd pe a b => Sys2Proof.Machine.execFcmp g c pd pe a b s
  | .vsel g d a b p => Sys2Proof.Machine.execVsel g d a b p s
  | .vmov g d a => Sys2Proof.Machine.execVmov g d a s
  | .vbcast g d a => Sys2Proof.Machine.execVbcast g d a s
  | .shfl g d a b => Sys2Proof.Machine.execShfl g d a b s
  | .shflx g d a b => Sys2Proof.Machine.execShflx g d a b s
  | .shflu g d a b => Sys2Proof.Machine.execShflu g d a b s
  | .shfld g d a b => Sys2Proof.Machine.execShfld g d a b s
  | .vextr g d a b => Sys2Proof.Machine.execVextr g d a b s
  | .vins g d a b => Sys2Proof.Machine.execVins g d a b s
  | .vcompact g d a => Sys2Proof.Machine.execVcompact g d a s
  | .vred g d a f => Sys2Proof.Machine.execVred g d a f s
  | .vscan g d a f => Sys2Proof.Machine.execVscan g d a f s
  | .mma g q a mg fa fb => Sys2Proof.Machine.execMma g q a mg fa fb s
  | .azero g q => Sys2Proof.Machine.execAzero g q s
  | .cvta g q d => Sys2Proof.Machine.execCvta g q d s
  | .inkz mg => Sys2Proof.Machine.execInkz mg s
  | .vld g d a b sz => Sys2Proof.Machine.execVld g d a b sz s
  | .spld g d a b sz => Sys2Proof.Machine.execSpld g d a b sz s
  | .vtld g d a b sz => Sys2Proof.Machine.execVtld g d a b sz s
  | .slld g d a b sz => Sys2Proof.Machine.execSlld g d a b sz s
  | .vst g d a b sz => Sys2Proof.Machine.execVst g d a b sz s
  | .spst g d a b sz => Sys2Proof.Machine.execSpst g d a b sz s
  | .vtst g d a b sz => Sys2Proof.Machine.execVtst g d a b sz s
  | .slst g d a b sz => Sys2Proof.Machine.execSlst g d a b sz s
  | .vldc g d b imm => Sys2Proof.Machine.execVldc g d b imm s
  | .vstc g d b imm => Sys2Proof.Machine.execVstc g d b imm s
  | .pref g a b sp => Sys2Proof.Machine.execPref g a b sp s
  | .amov g d a sc od f => Sys2Proof.Machine.execAmov g d a sc od f s
  | .casv g d a sc od => Sys2Proof.Machine.execCasv g d a sc od s
  | .redv g d a sc od f => Sys2Proof.Machine.execRedv g d a sc od f s
  | .altakev g d a b => Sys2Proof.Machine.execAltakev g d a b s
  | .copyv g n a b sz => Sys2Proof.Machine.execCopyv g n a b sz s
  | .amos d a sc od f => Sys2Proof.Machine.execAmos d a sc od f s
  | .reds d a sc od f => Sys2Proof.Machine.execReds d a sc od f s
  | .cass d a sc od => Sys2Proof.Machine.execCass d a sc od s
  | .lda d a sc od => Sys2Proof.Machine.execLda d a sc od s
  | .strl d a sc od => Sys2Proof.Machine.execStrl d a sc od s
  | .fence sc od => Sys2Proof.Machine.execFence sc od s
  | .fenceo => Sys2Proof.Machine.execFenceo s
  | .alinit d a b => Sys2Proof.Machine.execAlinit d a b s
  | .altake d a b => Sys2Proof.Machine.execAltake d a b s
  | .algive d a b => Sys2Proof.Machine.execAlgive d a b s
  | .alread d a => Sys2Proof.Machine.execAlread d a s
  | .alfree d a => Sys2Proof.Machine.execAlfree d a s
  | .rdvinit pt a b => Sys2Proof.Machine.execRdvinit pt a b s
  | .arrive pt a => Sys2Proof.Machine.execArrive pt a s
  | .expect pt a => Sys2Proof.Machine.execExpect pt a s
  | .waitp pt a => Sys2Proof.Machine.execWaitp pt a s
  | .waity pt a b => Sys2Proof.Machine.execWaity pt a b s
  | .arwait pt => Sys2Proof.Machine.execArwait pt s
  | .rdvstat pt a b => Sys2Proof.Machine.execRdvstat pt a b s
  | .garrive pt => Sys2Proof.Machine.execGarrive pt s
  | .gwait pt => Sys2Proof.Machine.execGwait pt s
  | .phase pt a b => Sys2Proof.Machine.execPhase pt a b s
  | .copy pt a b => Sys2Proof.Machine.execCopy pt a b s
  | .copyt pt a b => Sys2Proof.Machine.execCopyt pt a b s
  | .ink pt a b => Sys2Proof.Machine.execInk pt a b s
  | .mmas pt a b => Sys2Proof.Machine.execMmas pt a b s
  | .spawn g d a b => Sys2Proof.Machine.execSpawn g d a b s
  | .launch d a b => Sys2Proof.Machine.execLaunch d a b s
  | .trap imm => Sys2Proof.Machine.execTrap imm s
  | .hcall g d a b => Sys2Proof.Machine.execHcall g d a b s
  | .eret => Sys2Proof.Machine.execEret s
  | .slcfg d a form => Sys2Proof.Machine.execSlcfg d a form s
  | .tlbinv a form => Sys2Proof.Machine.execTlbinv a form s
  | .cachecl a form => Sys2Proof.Machine.execCachecl a form s
  | .evrd d => Sys2Proof.Machine.execEvrd d s
  | .loadDataReturn core slot reply => Sys2Proof.Machine.execLoadDataReturn core slot reply s
  | .mmaComplete core slot => Sys2Proof.Machine.execMmaComplete core slot s
  | .mmasComplete op => Sys2Proof.Machine.execMmasComplete op s
  | .inkComplete op => Sys2Proof.Machine.execInkComplete op s
  | .copySectorWritten op => Sys2Proof.Machine.execCopySectorWritten op s
  | .waitWake core slot => Sys2Proof.Machine.execWaitWake core slot s
  | .launchSignalStore ctx col line size off value => Sys2Proof.Machine.execLaunchSignalStore ctx col line size off value s
  | .launchPortRead col line => Sys2Proof.Machine.execLaunchPortRead col line s
  | .dependencePoll grid => Sys2Proof.Machine.execDependencePoll grid s
  | .teamAdmission grid => Sys2Proof.Machine.execTeamAdmission grid s
  | .teamRetirement team => Sys2Proof.Machine.execTeamRetirement team s
  | .gridRetirement grid => Sys2Proof.Machine.execGridRetirement grid s
  | .teamSave team => Sys2Proof.Machine.execTeamSave team s
  | .allowanceReq col home => Sys2Proof.Machine.execAllowanceReq col home s
  | .allowanceGive col home => Sys2Proof.Machine.execAllowanceGive col home s
  | .allowanceFlush col home => Sys2Proof.Machine.execAllowanceFlush col home s
  | .allowanceGrant home col => Sys2Proof.Machine.execAllowanceGrant home col s
  | .allowanceRecall home col => Sys2Proof.Machine.execAllowanceRecall home col s
  | .allowanceAck col home => Sys2Proof.Machine.execAllowanceAck col home s
  | .allowanceRelease home col => Sys2Proof.Machine.execAllowanceRelease home col s
  | .allowanceDrainServe obj => Sys2Proof.Machine.execAllowanceDrainServe obj s
  | .giveReply home col => Sys2Proof.Machine.execGiveReply home col s
  | .earlyCommit team => Sys2Proof.Machine.execEarlyCommit team s
  | .journalLaunch j => Sys2Proof.Machine.execJournalLaunch j s
  | .journalCopy j => Sys2Proof.Machine.execJournalCopy j s
  | .journalCopySector op => Sys2Proof.Machine.execJournalCopySector op s
  | .journalSignal j => Sys2Proof.Machine.execJournalSignal j s
  | .journalBarrier j => Sys2Proof.Machine.execJournalBarrier j s
  | .illegalEncoding check word => Sys2Proof.Machine.execIllegalEncoding check word s
  | .instructionFetchFault why va => Sys2Proof.Machine.execInstructionFetchFault why va s
  | .parityDeltaAccept write => Sys2Proof.Machine.execParityDeltaAccept write s
  | .parityDeltaApply stripe => Sys2Proof.Machine.execParityDeltaApply stripe s
  | .spawnBinTimer col bin => Sys2Proof.Machine.execSpawnBinTimer col bin s
  | .registerWrite off value ide => Sys2Proof.Machine.execRegisterWrite off value ide s
  | .levelRise col => Sys2Proof.Machine.execLevelRise col s
  | .levelFall col => Sys2Proof.Machine.execLevelFall col s
  | .leaseHoldExpiry line => Sys2Proof.Machine.execLeaseHoldExpiry line s
  | .leaseExpiry col line => Sys2Proof.Machine.execLeaseExpiry col line s
  | .pinwinApply core => Sys2Proof.Machine.execPinwinApply core s
  | .storeFailure core slot va pa how => Sys2Proof.Machine.execStoreFailure core slot va pa how s
  | .placementDiversionTimeout grid => Sys2Proof.Machine.execPlacementDiversionTimeout grid s
  | .headTeamHold core => Sys2Proof.Machine.execHeadTeamHold core s
  | .groupAged core slot => Sys2Proof.Machine.execGroupAged core slot s
  | .yieldHoldExpiry core slot => Sys2Proof.Machine.execYieldHoldExpiry core slot s
  | .preemptDeadline ctx => Sys2Proof.Machine.execPreemptDeadline ctx s
  | .deadlockWatchdog ctx => Sys2Proof.Machine.execDeadlockWatchdog ctx s
  | .scopeMarkPromotion line => Sys2Proof.Machine.execScopeMarkPromotion line s
  | .promotionStart col ctx va frame => Sys2Proof.Machine.execPromotionStart col ctx va frame s
  | .promotionCommit col frame => Sys2Proof.Machine.execPromotionCommit col frame s
  | .promotionAbandon col frame => Sys2Proof.Machine.execPromotionAbandon col frame s
  | .submitWrite j value => Sys2Proof.Machine.execSubmitWrite j value s
  | .ajconsWrite j value => Sys2Proof.Machine.execAjconsWrite j value s
  | .seqMismatchReread j => Sys2Proof.Machine.execSeqMismatchReread j s
  | .ctxCreate => Sys2Proof.Machine.execCtxCreate s
  | .ctxSet => Sys2Proof.Machine.execCtxSet s
  | .ctxPreempt => Sys2Proof.Machine.execCtxPreempt s
  | .ctxResume => Sys2Proof.Machine.execCtxResume s
  | .ctxReset => Sys2Proof.Machine.execCtxReset s
  | .ctxDestroy => Sys2Proof.Machine.execCtxDestroy s
  | .ctxStop => Sys2Proof.Machine.execCtxStop s
  | .hreplyWrite col value => Sys2Proof.Machine.execHreplyWrite col value s
  | .hqheadWrite col value => Sys2Proof.Machine.execHqheadWrite col value s
  | .fqdoneWrite col value => Sys2Proof.Machine.execFqdoneWrite col value s
  | .fqheadWrite col value => Sys2Proof.Machine.execFqheadWrite col value s
  | .tlbShootdownPage vpn ctx => Sys2Proof.Machine.execTlbShootdownPage vpn ctx s
  | .tlbShootdownContext ctx => Sys2Proof.Machine.execTlbShootdownContext ctx s
  | .tlbShootdownAllContexts vpn => Sys2Proof.Machine.execTlbShootdownAllContexts vpn s
  | .shootdownComplete => Sys2Proof.Machine.execShootdownComplete s
  | .stackLost stack => Sys2Proof.Machine.execStackLost stack s
  | .restripeStart => Sys2Proof.Machine.execRestripeStart s
  | .restripeStripeDone => Sys2Proof.Machine.execRestripeStripeDone s
  | .patrolScrub sector finding => Sys2Proof.Machine.execPatrolScrub sector finding s
  | .vaultRefresh col bank => Sys2Proof.Machine.execVaultRefresh col bank s
  | .refreshEnd col bank => Sys2Proof.Machine.execRefreshEnd col bank s
  | .renew col value => Sys2Proof.Machine.execRenew col value s
  | .refreshLeaseLapse col => Sys2Proof.Machine.execRefreshLeaseLapse col s
  | .checkpointSave => Sys2Proof.Machine.execCheckpointSave s
  | .checkpointRestore => Sys2Proof.Machine.execCheckpointRestore s
  | .checkpointComplete fault => Sys2Proof.Machine.execCheckpointComplete fault s
  | .columnFence col cause => Sys2Proof.Machine.execColumnFence col cause s
  | .suspectedCrackedConnection col sensor => Sys2Proof.Machine.execSuspectedCrackedConnection col sensor s
  | .regulatorDroop die mv => Sys2Proof.Machine.execRegulatorDroop die mv s
  | .devreset value => Sys2Proof.Machine.execDevreset value s
  | .columnWaysWrite col value => Sys2Proof.Machine.execColumnWaysWrite col value s
  | .pinwinWrite core value => Sys2Proof.Machine.execPinwinWrite core value s
  | .govForce col value => Sys2Proof.Machine.execGovForce col value s
  | .logconsWrite value => Sys2Proof.Machine.execLogconsWrite value s
  | .powerOn => Sys2Proof.Machine.execPowerOn s
  | .bootStep outcome => Sys2Proof.Machine.execBootStep outcome s
  | .pcieReset => Sys2Proof.Machine.execPcieReset s
  | .managementRequest => Sys2Proof.Machine.execManagementRequest s
  | .dmcWatchdog die => Sys2Proof.Machine.execDmcWatchdog die s
  | .thermalTrip die celsius => Sys2Proof.Machine.execThermalTrip die celsius s
  | .regulatorFault => Sys2Proof.Machine.execRegulatorFault s
  | .ucieFlitRetry pair mod => Sys2Proof.Machine.execUcieFlitRetry pair mod s
  | .ucieLaneRepaired pair lane => Sys2Proof.Machine.execUcieLaneRepaired pair lane s
  | .ucieModuleDisabled pair mod => Sys2Proof.Machine.execUcieModuleDisabled pair mod s
  | .dieLinkLost pair => Sys2Proof.Machine.execDieLinkLost pair s
  | .ualinkPortTraining port partnerIsZ7 peer => Sys2Proof.Machine.execUalinkPortTraining port partnerIsZ7 peer s
  | .doubleRateOffer port trained => Sys2Proof.Machine.execDoubleRateOffer port trained s
  | .peerReadRequest peer pa len lease => Sys2Proof.Machine.execPeerReadRequest peer pa len lease s
  | .peerWriteRequest peer pa data => Sys2Proof.Machine.execPeerWriteRequest peer pa data s
  | .ptpUnlocked offset => Sys2Proof.Machine.execPtpUnlocked offset s
  | .heartbeat peer => Sys2Proof.Machine.execHeartbeat peer s
  | .goWrite value => Sys2Proof.Machine.execGoWrite value s
  | .backInvalidateResponse line => Sys2Proof.Machine.execBackInvalidateResponse line s
  | .spdmGetMeasurements block => Sys2Proof.Machine.execSpdmGetMeasurements block s
  | .keySlotLoad slot msg k1 k2 => Sys2Proof.Machine.execKeySlotLoad slot msg k1 k2 s
  | .pldmGetSensorReading sensor => Sys2Proof.Machine.execPldmGetSensorReading sensor s
  | .platformEventRetry acked => Sys2Proof.Machine.execPlatformEventRetry acked s
  | .cxlMemRequest pa data len => Sys2Proof.Machine.execCxlMemRequest pa data len s
  | .hostCoreMemoryAccess col pa data len => Sys2Proof.Machine.execHostCoreMemoryAccess col pa data len s
  | .ualinkPortDown port => Sys2Proof.Machine.execUalinkPortDown port s
  | .ptpLockRegained => Sys2Proof.Machine.execPtpLockRegained s
  | .peerHeartbeat peer => Sys2Proof.Machine.execPeerHeartbeat peer s
  | .vaultHot col bank celsius => Sys2Proof.Machine.execVaultHot col bank celsius s
  | .regulatorDroopCleared die => Sys2Proof.Machine.execRegulatorDroopCleared die s
  | .logMergeSummary cls code col => Sys2Proof.Machine.execLogMergeSummary cls code col s
  | .tdispStateChange tdi => Sys2Proof.Machine.execTdispStateChange tdi s

end Sys2Proof.Machine
end

