-- ==== Sys2Proof/Machine/Turns.lean ====
section
/-! DEFINITION. What the environment does beside the events of the table: time, caches, errors, readings (R31, R90, R152, R197, R239,
R251, R325, R369, R380); and the events that come by themselves. -/
namespace Sys2Proof.Machine
set_option Elab.async false

/-! ### Caches -/

/-- The page that a cached translation gives for a line of physical memory: context, virtual address of the line, key slot (R239,
R325). -/
def TlbEntry.lineOf (e : TlbEntry) (line : Nat) : Option (CtxId × Nat × Nat) :=
  let n := e.pte.toNat
  let bits := if e.level = 1 then 29 else 16
  let frame := n / 2 ^ bits % 2 ^ (52 - bits)
  if pteKind e.level e.pte = .page && field n 5 3 == 0 && 128 * line / 2 ^ bits == frame then
    some (e.ctx, e.page * 2 ^ bits + 128 * line % 2 ^ bits, field n 8 7)
  else none

/-- A core's L1 takes a line of HBM through a translation that it caches (R239). -/
def State.l1Takes (s : State) (core : CoreId) (line : Nat) : State :=
  let c := s.cores.get core
  match ((c.dataTlb ++ (s.cols.get (coreCol core)).stlb).filterMap fun e => e.lineOf line).head? with
  | some (ctx, va, key) =>
    if s.dev.isHbm (128 * line) then
      (s.mergeCopies line).l1Fetch ⟨⟨core, 0, 0, ctx⟩, BitVec.ofNat 64 va, key, 0⟩ none (128 * line) 128
    else s
  | none => s

/-- An entry put at the head of a TLB of a size (R325). -/
def tlbPut (n : Nat) (e : TlbEntry) (l : List TlbEntry) : List TlbEntry :=
  (e :: l.filter fun x => !(x.ctx == e.ctx && x.level == e.level && x.page == e.page)).take n

/-- A core caches the translation of a page of a context that is not FREE (R325). -/
def State.tlbFill (s : State) (core : CoreId) (fetch : Bool) (ctx : CtxId) (va : Word) : State :=
  match s.walk ⟨ctx, 0, coreCol core, some core, fetch⟩ va.toNat with
  | .ok (pte, level) =>
    let e : TlbEntry := ⟨ctx, level, levelPage level va.toNat, pte⟩
    if (s.ctxs.get ctx).phase = .free then s
    else s.modCore core fun c =>
      if fetch then { c with fetchTlb := tlbPut 48 e c.fetchTlb } else { c with dataTlb := tlbPut 256 e c.dataTlb }
  | .error _ => s

/-- The entries of a walk that a slice may cache: those with V = 1, from a level on (R325). -/
def State.walkEntries (s : State) (tlb : List TlbEntry) (ctx : CtxId) (col : ColId) (va : Nat) : Nat → Nat → Nat → List TlbEntry
  | 0, _, _ => []
  | k + 1, level, base =>
    match s.readPte tlb ctx col level va base with
    | .ok (e, _) =>
      let entry : TlbEntry := ⟨ctx, level, levelPage level va, e⟩
      match pteKind level e with
      | .pointer b => entry :: s.walkEntries tlb ctx col va k (level + 1) b
      | .page => [entry]
      | _ => []
    | .error _ => []

/-- A slice caches what a walk meets (R325). -/
def State.stlbFill (s : State) (col : ColId) (ctx : CtxId) (va : Word) : State :=
  let es := s.walkEntries (s.cols.get col).stlb ctx col va.toNat 3 0 (s.ctxs.get ctx).ptroot.toNat
  if (s.ctxs.get ctx).phase = .free then s
  else s.modCol col fun c => { c with stlb := es.foldl (fun l e => tlbPut 4096 e l) c.stlb }

/-- The constant cache of a core takes an 8-byte word (R90), but none of a registered object (R158). -/
def State.constFill (s : State) (core : CoreId) (loc key : Nat) : State :=
  if loc % 8 = 0 && hasSectors loc && !(s.mem.poisoned loc) && (s.objOf (loc / 128)).isNone then
    let t := s.mergeCopies (loc / 128)
    let word := BitVec.ofNat 64 (leNat (tabList (t.mem.plain (t.keySlot key)) loc 8))
    t.modCore core fun c => { c with consts := (loc, key, word) :: c.consts.filter fun w => !(w.1 == loc && w.2.1 == key) }
  else s

/-- The oldest entry of a combining buffer sent on (R152). -/
def State.combDrain (s : State) (core : CoreId) : State :=
  match (s.cores.get core).comb with
  | e :: r => (s.modCore core fun c => { c with comb := r }).reduceSlice e
  | [] => s

/-! ### Errors, readings, answers -/

/-- A reading of a column's junction, and of the power of its die, in watts (R380). -/
def State.reading (s : State) (col : ColId) (jtemp : Byte) (power : Nat) : State :=
  let s1 := s.modCol col fun c => { c with gov := { c.gov with jtemp := jtemp } }
  let s2 : State := { s1 with cols := (s1.cols.zipIdx).map fun c =>
    if c.2 / 16 = (colDie col).val then { c.1 with gov := { c.1.gov with power := power } } else c.1 }
  s2.watchDie (colDie col)

/-- A slice takes a line of a peer under a lease, in a way of its set (R363); the lease ends no later than the time that this device asks for, within the 50 ns of the
synchronisation (R368, R369, R370). -/
def State.leaseFill (s : State) (x : LLine) : State :=
  if s.dev.leaseEn && x.bytes.length = 128 && s.ptp.toNat < x.expiry && x.expiry ≤ s.ptp.toNat + 1000 * s.dev.defLease.toNat + 50 &&
      !(s.dev.peerFenced.contains x.peer.val) then
    let t := s.makeRoom x.col x.line
    let u : State := { t with links := { t.links with
      llines := x :: t.links.llines.filter fun l => !(l.col == x.col && l.line == x.line && l.peer == x.peer) } }
    u.trimSlice x.col false x.line
  else s

/-- Tenths of a cycle of the arithmetic clock in a nanosecond at a level (R380). -/
def levelRate (level : Nat) : Nat := if level = 0 then 33 else if level = 1 then 29 else if level = 2 then 24 else 16

/-- A core's CLK after some nanoseconds (R31). -/
def CoreState.runs (c : CoreState) (ns : Nat) : CoreState :=
  let tenths := c.clkPart + ns * levelRate c.evtLevel.toNat
  { c with clk := c.clk + BitVec.ofNat 64 (tenths / 10), clkPart := tenths % 10 }

/-- Nanoseconds pass (R31); a write whose hold they bring to its end is performed before anything reads its line (R370, R371). -/
def State.elapse (s : State) (ns : Nat) : State :=
  ({ s with cores := s.cores.map fun c => c.runs ns, ptp := s.ptp + BitVec.ofNat 64 ns } : State).holdsEnd

/-- A register of a group, or of a saved group of a team, takes an uncorrectable error (R197, R335), in lanes of LIVE (R27). -/
def Group.upset (g : Group) (b : BadReg) : Group :=
  let lanes := if b.file = 2 then b.lanes else b.lanes &&& g.live
  if b.file ≠ 2 && lanes = 0 then g else { g with bad := { b with lanes := lanes } :: g.bad }

/-- A peer acknowledges the oldest write to it, which has left by a port (R367); what waited for it is told. It performs the write no sooner
than the leases on its lines have ended (R370), and what slices held of them is gone then (R369). -/
def State.peerAck (s : State) (peer : PeerId) : State :=
  match s.links.peerWrites.find? fun w => w.peer == peer with
  | some w =>
    let die := match w.who with
      | some o => colDie (coreCol o.core)
      | none => 0
    let leased := fun (l : LLine) => l.peer == peer && (runLines w.pa w.bytes.length).contains l.line
    if (s.links.requestPort die w.pa).isNone || s.links.llines.any fun l => leased l && s.ptp.toNat < l.expiry then s
    else ({ s with links := { s.links with
      llines := s.links.llines.filter fun l => !(leased l)
      peerWrites := dropFirst (fun x => x.peer == peer) s.links.peerWrites } } : State).writeDone w.tag w.bytes.length
  | none => s

/-- The environment's moves that are no event of the table. -/
def State.move (s : State) : Turn → State
  | .elapse ns => s.elapse ns
  | .l1Fill core line => s.l1Takes core line
  | .l1Evict core line => s.cleanDrop core line
  | .tlbFill core fetch ctx va => s.tlbFill core fetch ctx va
  | .stlbFill col ctx va => s.stlbFill col ctx va
  | .combDrain core => s.combDrain core
  | .upset core slot bad => s.modGroup core slot fun g => g.upset bad
  | .savedUpset team index bad => s.modTeam team fun t => { t with
    groups := updWhere (fun g => g.index == index) (fun g => g.upset bad) t.groups }
  | .cellUpset team mg column index => s.modMacro team mg fun m =>
    if column then { m with badCols := if m.badCols.contains index then m.badCols else index :: m.badCols }
    else { m with badCells := if m.badCells.contains index then m.badCells else index :: m.badCells }
  | .constFill core loc key => s.constFill core loc key
  | .constEvict core loc => s.modCore core fun c => { c with consts := c.consts.filter fun w => w.1 != loc }
  | .copyEvict _ line => (s.mergeCopies line).service
  | .engineRead op k => s.engineAhead op k
  | .memUpset loc symbols => s.memUpset loc symbols
  | .parityUpset stripe => s.parityUpset stripe
  | .parityScrub stripe => s.parityScrub stripe
  | .stripeReport => s.stripeReport
  | .droopSample col readings predicted => s.droopSample col readings predicted
  | .ideKeys stream on => s.ideKeys stream on
  | .eventAck seq => s.eventAck seq
  | .deltaSent write => s.deltaSent write
  | .controllerFailure stack => s.controllerFails stack
  | .refreshMissed col bank => s.refreshMissed col bank
  | .reading col jtemp power => s.reading col jtemp power
  | .waysApply col => s.waysApply col
  | .leaseFill col peer line bytes expiry => s.leaseFill ⟨col, line, bytes, expiry, peer⟩
  | .peerAck peer => s.peerAck peer
  | .refreshEnds col bank => after (execRefreshEnd col ⟨bank % 16, Nat.mod_lt _ (by decide)⟩ s) s
  | .linkLost pair => after (execDieLinkLost pair s) s
  | .hdmDecoder gib => { s with dev := { s.dev with hdm := gib } }
  | .splitAtomic core slot lanes => s.modGroup core slot fun g => { g with split := lanes }
  | .bootUnitDone unit => s.unitDone unit
  | .paritySymbols stripe sector symbols => s.paritySymbols stripe sector symbols
  | .lateLoad _ _ | .issue _ _ | .event _ => s

/-! ### Loads performed late -/

/-- The base register of a relaxed load that may be performed after its issue (R157), and the scalar register that it writes. DESIGN CHOICE (log
entry 105): one that writes its own address registers is performed at its issue. -/
def lateRegs : Instr → Option (SReg × Option SReg)
  | .ld d a _ => some (a, some d)
  | .ldk d a _ => some (a, some d)
  | .lda d a _ .relaxed => some (a, some d)
  | .vld _ d a b _ => if a.toNat + 1 < d.toNat || d.toNat + 1 < a.toNat then some (b, none) else none
  | .vldc _ _ b _ => some (b, none)
  | _ => none

/-- The guard and the first register of a vector load. -/
def lateVector : Instr → Option (Guard × VReg)
  | .vld g d _ _ _ => some (g, d)
  | .vldc g d _ _ => some (g, d)
  | _ => none

/-- The scalar registers that an allowance instruction reads, and the one that it writes. -/
def alRegs : Instr → Option (List SReg × Option SReg)
  | .alinit d a b => some ([a, b, b + 1, b + 2], some d)
  | .altake d a b => some ([a, b], some d)
  | .algive d a b => some ([a, b], some d)
  | .alread d a => some ([a], some d)
  | .alfree d a => some ([a], some d)
  | .altakev _ _ _ b => some ([b], none)
  | _ => none

/-- An allowance instruction takes effect before an earlier relaxed load is performed: it reads and writes nothing that the load writes, nor
its guard (R157). -/
def Group.passes (g : Group) (i j : Instr) : Bool :=
  match lateRegs i, alRegs j with
  | some (_, d), some (reads, w) =>
    (match d with
      | some d => !(reads.contains d) && w != some d
      | none => true) &&
    (match lateVector i, j with
      | some (G, v), .altakev _ p a _ => !(v.toNat ≤ a.toNat && a.toNat ≤ v.toNat + 1) && g.guardIdx G != p
      | _, _ => true)
  | _, _ => false

/-- The group stands behind an instruction at an address, without a trap, a stall or a wait. -/
def Group.wentOn (g : Group) (before : Group) (pc : Word) : Bool :=
  g.status == .ready && g.glyph.isNone && g.pc == pcOf (pc + 4) && g.hnd == before.hnd

/-- The late load of the issuing group performed now, from the base register as it was: where that meets a trap or a wait, the value that it
has read at its issue stands (R157). -/
def State.lateDone (s : State) : State :=
  match s.g.late with
  | none => s
  | some l =>
    let u : State := { s with g := { s.g with late := none } }
    match lateRegs l.instr with
    | none => u
    | some (b, d) =>
      match exec l.instr { u with g := { u.g.setS b l.base with pc := l.pc, status := .ready } } with
      | .next t =>
        if t.g.wentOn u.g l.pc then
          let own := fun (x : BadReg) => x.file == 2 && x.index == b.toNat
          let g := if d = some b then t.g
            else { t.g with s := put t.g.s b.toNat (at0 u.g.s b.toNat), bad := t.g.bad ++ u.g.bad.filter own }
          { t with g := { g with pc := u.g.pc, status := u.g.status } }
        else u
      | _ => u

/-- A load that waits is performed before the next instruction, but for an allowance instruction that it lets pass (R157). -/
def State.lateFirst (s : State) : State :=
  match s.g.late with
  | none => s
  | some l => match s.fetch with
    | .instr j => if s.g.glyph.isNone && s.g.passes l.instr j then s else s.lateDone
    | _ => s.lateDone

/-- A relaxed load that has gone through is one that is performed later, where the environment has chosen so (R157). -/
def State.noteLate (t s : State) : State :=
  if !s.g.defer || s.g.glyph.isSome then t
  else match s.fetch with
    | .instr i => match lateRegs i with
      | some (b, _) =>
        if t.g.wentOn s.g s.g.pc then { t with g := { t.g with late := some ⟨i, s.g.pc, s.g.sReg b⟩, defer := false } } else t
      | none => t
    | _ => t

/-- The environment's choice on late loads: the next load of a group, or the one that waits (R157). -/
def State.lateLoad (s : State) (core : CoreId) (slot : SlotId) : State :=
  match s.focus core slot with
  | none => s
  | some u => if u.g.late.isSome then u.lateDone else { u with g := { u.g with defer := true } }

/-! ### One turn -/

/-- The issuing group fetches and executes its next instruction (R75, R92, R111). -/
def State.issueNow (s : State) : Host.Outcome State Fault Refusal :=
  match s.fetch with
  | .instr i => exec i (s.begin i)
  | .illegal e w => exec (.illegalEncoding (BitVec.ofNat 3 e.step) w) (s.begin .nop)
  | .fails why incs => exec (.instructionFetchFault why s.g.pc) (State.reportAll incs s)
  | .waits => .next s.stallHere

/-- Likewise, behind a load that waits (R157). -/
def State.issue (s : State) : Host.Outcome State Fault Refusal :=
  match s.lateFirst.issueNow with
  | .next t => .next (t.noteLate s.lateFirst)
  | x => x

/-- An event that the environment may choose: every event of the table but the two that only a fetch raises. -/
def chosenEvent : Instr → Bool
  | .illegalEncoding _ _ => false
  | .instructionFetchFault _ _ => false
  | i => i.isEvent

/-- A group competes for its port: it is ready, or its held instruction would go on now (R227). -/
def State.competes (s : State) (g : Group) : Bool :=
  s.runnable g && (g.status == .ready || (match s.focus g.core g.slot with
    | some u => match u.issue with
      | .next t => t.g.status != .stalled
      | _ => true
    | none => false))

/-- A group is the one that its port takes (R227, R228). -/
def State.takesPort (s : State) (g : Group) : Bool :=
  match leastBy s.issueKey ((s.groups.filter (samePort g)).filter s.competes) with
  | some x => x.slot == g.slot
  | none => false

/-- An event that the environment may choose now: a group ages only while it competes for its port (R227). -/
def State.mayHappen (s : State) (i : Instr) : Bool :=
  chosenEvent i && (match i with
    | .groupAged core slot => s.groups.any fun g => g.isAt core slot && s.competes g
    | _ => true)

/-- The groups that compete for a port have been ready since then without issue; those ready for 8 cycles are aged (R227). DESIGN CHOICE (log
entry 119): where time runs by itself 3 ns stand for 8 cycles. -/
def State.ageGroups (s : State) : State :=
  let now := s.ptp.toNat
  let since := fun (g : Group) => g.readyAt.getD now
  let on := fun (g : Group) =>
    if s.competes g then { g with readyAt := some (since g), aged := g.aged || since g + 3 ≤ now } else { g with readyAt := none }
  s.modGroups (fun _ => true) on

/-- One turn taken: a port issues the group that it prefers, or none (R227, R235). -/
def State.take (s : State) (t : Turn) : Host.Outcome State Fault Refusal :=
  match t with
  | .issue core slot =>
    match s.focus core slot with
    | none => .fault .noSuchGroup
    | some u => if u.runnable u.g && u.takesPort u.g then u.issue else .next u
  | .event i => if s.mayHappen i then exec i s else .next s
  | .lateLoad core slot => .next (s.lateLoad core slot)
  | t => .next (s.move t)

/-! ### What comes by itself -/

/-- The event that moves an operation on. -/
def EngineOp.event (o : EngineOp) : Instr :=
  match o.kind with
  | .copy _ => .copySectorWritten o.id
  | .journalCopy _ _ _ _ _ _ _ => .journalCopySector o.id
  | .ink _ _ _ _ => .inkComplete o.id
  | .mmas _ _ _ _ _ _ => .mmasComplete o.id

/-- The event that delivers a message (R271). -/
def AlMsg.event (m : AlMsg) : Instr :=
  match m.body with
  | .req _ _ => .allowanceReq m.src m.dst
  | .give _ _ => .allowanceGive m.src m.dst
  | .flush _ => .allowanceFlush m.src m.dst
  | .grant _ _ _ _ => .allowanceGrant m.src m.dst
  | .recall => .allowanceRecall m.src m.dst
  | .ack _ => .allowanceAck m.src m.dst
  | .release _ => .allowanceRelease m.src m.dst
  | .giveReply _ _ => .giveReply m.src m.dst

/-- The event that performs the next command of a journal, or tries its SIGNAL again (R262, R313). -/
def State.journalEvent (s : State) (j : JournalId) : Option Instr :=
  match s.nextCmd j with
  | none => if (s.jrns.get j).signal.any fun x => x.2.2.2.2.isNone then some (.journalSignal j) else if (s.nextEntry j).isSome then some (.seqMismatchReread j) else none
  | some (_, bs) =>
    match cmdOp bs with
    | 0x01 => some (.journalLaunch j)
    | 0x02 => some (.journalCopy j)
    | 0x03 => some (.journalSignal j)
    | 0x04 => some (.journalBarrier j)
    | 0x10 => some .ctxCreate
    | 0x11 => some .ctxSet
    | 0x12 => some .ctxPreempt
    | 0x13 => some .ctxResume
    | 0x14 => some .ctxReset
    | 0x15 => some .ctxDestroy
    | 0x16 => some .ctxStop
    | _ => none

/-- The lines of ports that hold records to be read (R221). -/
def State.portEvents (s : State) : List Instr :=
  ((List.finRange 64).map fun c => ((List.finRange 8).filter fun l =>
    ((s.cols.get c).lines.get l).queue.any fun e => e.grid.isNone && e.held.isNone).map fun l => Instr.launchPortRead c l).flatten

/-- The work of the machine, in the order in which it is tried when no group is ready. -/
def State.workEvents (s : State) : List Instr :=
  ((s.groups.filter s.wakeHolds).map fun g => .waitWake g.core g.slot) ++
  ((s.groups.filter fun g => !g.mmas.isEmpty).map fun g => .mmaComplete g.core g.slot) ++
  ((s.ops.filter fun o => o.held.isNone && o.alWait.isNone).map EngineOp.event) ++
  (s.msgs.map AlMsg.event) ++
  ((s.objs.filter fun o => o.mode == .drain).map fun o => .allowanceDrainServe o.obj) ++
  (s.grids.map fun x => .teamAdmission x.id) ++
  s.portEvents ++
  ((List.finRange 65).filterMap s.journalEvent) ++
  ((s.grids.filter fun x => x.stage == .held).map fun x => .dependencePoll x.id) ++
  (s.teams.map fun t => .teamRetirement t.id) ++
  (s.grids.map fun x => .gridRetirement x.id) ++
  (s.teams.map fun t => .teamSave t.id) ++
  (if (List.finRange 64).any fun c => (s.ctxs.get c).phase == .saving then [.teamSave 0] else []) ++
  (s.teams.map fun t => .earlyCommit t.id)

/-- What time brings, in the order in which it is tried when there is no work. -/
def State.timeEvents (s : State) : List Instr :=
  ((s.groups.filter (·.yieldHold)).map fun g => .yieldHoldExpiry g.core g.slot) ++
  (s.mem.marks.map fun m => .scopeMarkPromotion m.line) ++
  (s.links.held.map fun h => .leaseHoldExpiry (h.loc / 128)) ++
  (s.links.llines.map fun l => .leaseExpiry l.col l.line) ++
  [.shootdownComplete] ++
  ((List.finRange 64).map fun c => .levelRise c) ++ ((List.finRange 64).map fun c => .levelFall c) ++
  ((List.finRange 256).map fun c => .pinwinApply c) ++
  ((List.finRange 64).map fun c => ((s.cols.get c).bins.map fun b => Instr.spawnBinTimer c b.id)).flatten ++
  (s.grids.map fun x => .placementDiversionTimeout x.id) ++
  (s.mem.writes.map fun w => .parityDeltaAccept w.id) ++ (s.mem.writes.map fun w => .parityDeltaApply w.stripe)

/-- The turn changes more than the counters of the model. -/
def State.moves (s : State) (t : Turn) : Bool :=
  match s.take t with
  | .next u => { u with tick := s.tick, fresh := s.fresh } != s
  | _ => false

/-- An event of the device itself, of the work under way before what time brings, that changes something. -/
def State.ownEvent (s : State) : Option Turn :=
  (((s.workEvents ++ s.timeEvents).map Turn.event) ++ (List.finRange 64).map Turn.waysApply ++
    (List.finRange 4).map Turn.linkLost ++ (s.mem.writes.map fun w => Turn.deltaSent w.id) ++
    ((List.finRange 64).map fun c => (s.cols.get c).vault.busy.map (Turn.refreshEnds c)).flatten ++ (s.links.peerWrites.map fun w => Turn.peerAck w.peer) ++ (s.mem.stripeJobs.map fun _ => Turn.stripeReport) ++
    (if s.log.writes.isEmpty && s.log.reserve.isEmpty then [] else s.mem.copies.map fun c => Turn.copyEvict c.col c.line)).find? s.moves

/-- The group that issues next, of those that their ports may take (R227). -/
def State.ownIssue (s : State) : Option Turn := (leastBy s.issueKey (s.groups.filter s.competes)).map fun g => .issue g.core g.slot

/-- The turn that comes by itself: instructions before events, and once in 64 ns events before instructions, so that neither
keeps the other from going on. -/
def State.ownTurn (s : State) : Option Turn :=
  if s.ptp.toNat % 64 = 63 then s.ownEvent <|> s.ownIssue else s.ownIssue <|> s.ownEvent

/-- One nanosecond with what comes by itself in it (R31). -/
def State.ownStep (s : State) : Host.Outcome State Fault Refusal :=
  let u := (s.elapse 1).ageGroups
  match u.ownTurn with
  | some t => u.take t
  | none => .next u

end Sys2Proof.Machine
end

