-- ==== Sys2Proof/Machine/Step.lean ====
section
/-! DEFINITION. One step of the device, and a word stored where the next step fetches. -/
namespace Sys2Proof.Machine
set_option Elab.async false

/-- One step of the device: the environment's next choice, or what comes by itself. -/
def step (s : State) : Host.Outcome State Fault Refusal :=
  match s.turns with
  | t :: r => ({ s with turns := r } : State).take t
  | [] => s.ownStep

/-! ### A word placed for the next step -/

/-- The launch record of a grid of one team with one general group, its register budgets full (R209). -/
def Launch.single : Launch := { Launch.none with groups := [0, 0, 0, 1], vBud := [0, 0, 0, 128], aBud := [0, 0, 0, 64] }

/-- Its grid, placed. -/
def Grid.single : Grid := { Grid.none with launch := Launch.single, next := 1 }

/-- The group of its team, on slot 0 of core 0. -/
def Group.single : Group := newGroup Team.none Launch.single 0 0 0 .general

/-- A context that runs, with a page table at 0x10000 and every key slot. -/
def Ctx.single : Ctx :=
  { Ctx.reset with phase := .running, ptroot := 0x10000, colmask := BitVec.allOnes 64, keyCount := 128 }

/-- A page table that maps the first 64 KiB of the virtual addresses to the first of HBM, readable, writable and executable (R322,
R323), as location and bytes. -/
def pageTableOne : List (Nat × Nat) := [(0x10000, 0x20001), (0x20000, 0x30001), (0x30000, 0x0000F)]

/-- A machine that a program of one word has been loaded into from outside: context 0 runs, its page table maps virtual address 0,
the word stands there, and the issuing group is the one group of a resident team whose program counter is 0; the environment's
next choice is that it issues (R33, R227, R310). -/
def State.withFetchWord (s : State) (nbits w : Nat) : State :=
  let plain := KeySlot.plaintext
  let table := pageTableOne.foldl (fun m x => Memory.store m plain x.1 (leBytes 8 x.2)) s.mem
  { s with
    g := Group.single
    others := s.others.filter fun g => !(g.isAt 0 0)
    teams := Team.none :: s.teams
    grids := Grid.single :: s.grids
    ctxs := s.ctxs.set 0 Ctx.single
    mem := table.store plain 0 (bytesOfWord (BitVec.ofNat 32 (w % 2 ^ nbits)))
    turns := .issue 0 0 :: s.turns }

end Sys2Proof.Machine
end

