-- ==== Sys2Proof/Safety.lean ====
section
/-! DEFINITION. What claims are stated in: when an instruction runs, what its operands need, and what it leaves alone. A run is safe
while every step answers a next state. -/
namespace Sys2Proof.Safety
open Sys2Proof Sys2Proof.Machine
set_option Elab.async false

/-- A step went on. -/
def Runs (o : Host.Outcome State Fault Refusal) : Prop := ∃ t, o = .next t

/-- An operand lies in its file and in the budget of the group, and starts at an even register where R16 asks for one (R16, R19). -/
def OperandFits (g : Group) (o : Opnd) : Prop :=
  o.first + o.count ≤ o.file ∧ o.first + o.count ≤ (if o.acc then g.aBud else g.vBud) ∧ (o.even = true → o.first % 2 = 0)

/-- What the checks of steps 6 to 8 of R75 ask of the operands named, of MD.TYPE, and of the registers read: none of them holds an
uncorrectable error (R197). -/
def OperandsReady (s : State) (named read : List Opnd) (accepts : Nat → Bool) (ss : List SReg) (ps : List PReg) : Prop :=
  (∀ o ∈ named, OperandFits s.g o) ∧ accepts s.g.typeCode = true ∧ s.sound read ss ps = .ok ()

/-- What a memory instruction asks of its operands: with an empty Active the even registers are not looked at (R139, R153). -/
def MemOperandsReady (s : State) (m : Word) (named read : List Opnd) (accepts : Nat → Bool) (ss : List SReg) (ps : List PReg) : Prop :=
  (∀ o ∈ named, OperandFits s.g (if m = 0 then { o with even := false } else o)) ∧ accepts s.g.typeCode = true ∧ s.sound read ss ps = .ok ()

/-- The operands of a lane-wise instruction: the destination, read or not, and the sources, in their field order. -/
def laneOps (s : State) (G : Guard) (d : VReg) (readsD : Bool) (srcs : List VReg) : List Opnd :=
  s.g.vOp d (if readsD then s.g.active G else 0) :: srcs.map fun r => s.g.vOp r (s.g.active G)

/-- A lane-wise instruction meets no check that stops it. -/
def LaneReady (s : State) (G : Guard) (d : VReg) (readsD : Bool) (srcs : List VReg) (accepts : Nat → Bool) : Prop :=
  OperandsReady s (laneOps s G d readsD srcs) (laneOps s G d readsD srcs) accepts [] [s.g.guardIdx G]

/-- The result of a lane-wise instruction: `f` computed in the Active lanes, and the instruction retired. -/
def laneResult (s : State) (G : Guard) (d : VReg) (f : EType → Nat → Nat × Flags) : State :=
  s.retireWith (s.g.compute d (s.g.active G) (f s.g.ety))

/-- A function of the elements of one source, lane by lane (R115). -/
def each1 (s : State) (a : VReg) (f : EType → Nat → Nat × Flags) (t : EType) (L : Nat) : Nat × Flags :=
  perElem t fun j => f t (elemAt t (s.g.raw a L) j)

/-- A function of the elements of two sources. -/
def each2 (s : State) (a b : VReg) (f : EType → Nat → Nat → Nat × Flags) (t : EType) (L : Nat) : Nat × Flags :=
  perElem t fun j => f t (elemAt t (s.g.raw a L) j) (elemAt t (s.g.raw b L) j)

/-- A function of the elements of two sources and the destination. -/
def each3 (s : State) (a b d : VReg) (f : EType → Nat → Nat → Nat → Nat × Flags) (t : EType) (L : Nat) : Nat × Flags :=
  perElem t fun j => f t (elemAt t (s.g.raw a L) j) (elemAt t (s.g.raw b L) j) (elemAt t (s.g.raw d L) j)

/-- The value of a finite number; an infinity or a NaN counts as 0. -/
def numVal : Machine.Num → Rat
  | .fin n m e => (if n then -1 else 1) * m * (2 : Rat) ^ e
  | _ => 0

/-- A pattern of a format that is neither an infinity nor a NaN. -/
def IsFinite (F : Fmt) (x : Nat) : Prop := (F.decode false x).isNan = false ∧ (F.decode false x).isInf = false

/-- A pattern is the value `y` rounded under a mode (R40): among the finite values `u` of the format its value `v` is the nearest, a tie
going to an even last bit (mode 0) or to the greater magnitude (4), or the nearest not greater in magnitude (1), not less (2) or not
greater (3). -/
def RoundedTo (F : Fmt) (mode : Nat) (y : Rat) (x : Nat) : Prop :=
  x < 2 ^ F.width ∧ IsFinite F x ∧
  let v := numVal (F.decode false x)
  (mode = 1 → |v| ≤ |y| ∧ 0 ≤ v * y) ∧ (mode = 2 → y ≤ v) ∧ (mode = 3 → v ≤ y) ∧
  ∀ p < 2 ^ F.width, IsFinite F p →
    let u := numVal (F.decode false p)
    (mode = 0 → |v - y| ≤ |u - y| ∧ (u ≠ v → |v - y| = |u - y| → x % 2 = 0)) ∧
    (mode = 1 → |u| ≤ |y| → |u| ≤ |v|) ∧ (mode = 2 → y ≤ u → v ≤ u) ∧ (mode = 3 → u ≤ y → u ≤ v) ∧
    (mode = 4 → |v - y| ≤ |u - y| ∧ (|v - y| = |u - y| → |u| ≤ |v|))

/-- The value of a pattern of a format. -/
noncomputable def realVal (F : Fmt) (x : Nat) : ℝ := ((numVal (F.decode false x) : Rat) : ℝ)

/-- The greatest finite magnitude of a format. -/
noncomputable def realMax (F : Fmt) : ℝ := realVal F (F.maxBits false)

/-- As `RoundedTo`, of a real value (R40). -/
def RoundedReal (F : Fmt) (mode : Nat) (y : ℝ) (x : Nat) : Prop :=
  x < 2 ^ F.width ∧ IsFinite F x ∧
  let v := realVal F x
  (mode = 1 → |v| ≤ |y| ∧ 0 ≤ v * y) ∧ (mode = 2 → y ≤ v) ∧ (mode = 3 → v ≤ y) ∧
  ∀ p < 2 ^ F.width, IsFinite F p →
    let u := realVal F p
    (mode = 0 → |v - y| ≤ |u - y| ∧ (u ≠ v → |v - y| = |u - y| → x % 2 = 0)) ∧
    (mode = 1 → |u| ≤ |y| → |u| ≤ |v|) ∧ (mode = 2 → y ≤ u → v ≤ u) ∧ (mode = 3 → u ≤ y → u ≤ v) ∧
    (mode = 4 → |v - y| ≤ |u - y| ∧ (|v - y| = |u - y| → |u| ≤ |v|))

/-- One rounding of a real value other than zero under a mode, without and with FTZ (R40 to R42): within the largest finite magnitude the value
that the mode chooses, of the sign of `y`, with INX where it differs; under FTZ a result below the smallest normal value is a zero of its
sign; a magnitude beyond every finite one overflows. -/
def RoundsOnce (F : Fmt) (mode : Nat) (neg : Bool) (y : ℝ) (x flushed : Nat × Flags) : Prop :=
  let v := realVal F x.1
  (|y| ≤ realMax F → RoundedReal F mode y x.1 ∧ (F.decode false x.1).neg = neg ∧ (x.2 &&& flInx = 0 ↔ v = y) ∧
    (0 < |v| ∧ |v| < (2 : ℝ) ^ F.emin → flushed = (F.signBit neg, flUnf ||| flInx)) ∧
    (¬(0 < |v| ∧ |v| < (2 : ℝ) ^ F.emin) → flushed = x)) ∧
  ((2 : ℝ) ^ (F.emax + 1) ≤ |y| → x = flushed ∧ x.2 = flOvf ||| flInx ∧
    x.1 = if mode = 1 ∨ (mode = 2 ∧ neg = true) ∨ (mode = 3 ∧ neg = false) then F.maxBits neg else F.infBits neg)

/-- Two results are the neighbours of a value, or the value itself where it is representable (R43). -/
def Neighbours (F : Fmt) (y : Rat) (down up : Nat × Flags) : Prop :=
  let a := numVal (F.decode false down.1)
  let b := numVal (F.decode false up.1)
  IsFinite F down.1 ∧ IsFinite F up.1 ∧ |a| ≤ |y| ∧ |y| ≤ |b| ∧ 0 ≤ a * y ∧ 0 ≤ b * y ∧ (a = y ↔ b = y) ∧
    (down.2 &&& flInx = 0 ↔ a = y) ∧ (up.2 &&& flInx = 0 ↔ b = y) ∧
    ∀ p < 2 ^ F.width, IsFinite F p → ¬(|a| < |numVal (F.decode false p)| ∧ |numVal (F.decode false p)| < |b|)

/-- The integer to which a value is rounded under a mode (R40, R51). -/
def RoundedInt (mode : Nat) (y : Rat) (k : Int) : Prop :=
  (mode = 0 → |(k : Rat) - y| ≤ 1 / 2 ∧ (|(k : Rat) - y| = 1 / 2 → k % 2 = 0)) ∧ (mode = 1 → |(k : Rat)| ≤ |y| ∧ |(k : Rat) - y| < 1 ∧ 0 ≤ k * y) ∧
  (mode = 2 → y ≤ k ∧ (k : Rat) < y + 1) ∧ (mode = 3 → (k : Rat) ≤ y ∧ y < k + 1) ∧
  (mode = 4 → |(k : Rat) - y| ≤ 1 / 2 ∧ (|(k : Rat) - y| = 1 / 2 → |y| ≤ |(k : Rat)|))

/-- An accumulator and its flags are an exact value rounded once into A96 (R50): the nearest value, a tie going to the even last bit, with
UNF where it is inexact and below the smallest normal value; beyond the range the greatest magnitude with SAT; an exact zero is +0. -/
def RoundedA96 (y : Rat) (x : Acc × Flags) : Prop :=
  let v := numVal (a96Value x.1)
  let top : Rat := (2 - (2 : Rat) ^ (-86 : Int)) * 2 ^ 255
  (a96Value x.1).isNan = false ∧ (y = 0 → x = (0, 0)) ∧ (y < 0 → x.1.getLsbD 95 = true) ∧ (0 < y → x.1.getLsbD 95 = false) ∧
  (|y| < (2 - (2 : Rat) ^ (-87 : Int)) * 2 ^ 255 →
    (∀ p : Acc, (a96Value p).isNan = false → |v - y| ≤ |numVal (a96Value p) - y| ∧
      (numVal (a96Value p) ≠ v → |v - y| = |numVal (a96Value p) - y| → x.1.getLsbD 0 = false)) ∧
    x.2 = if v ≠ y ∧ |v| < (2 : Rat) ^ (-254 : Int) then flUnf else 0) ∧
  ((2 - (2 : Rat) ^ (-87 : Int)) * 2 ^ 255 ≤ |y| → |v| = top ∧ x.2 = flSat)

/-- Two lanes of a reduction combined, an absent one being the neutral one (R132). -/
def combined (f : Nat → Nat → Nat × Flags) : Option Nat → Option Nat → Option Nat × Flags
  | none, y => (y, 0)
  | x, none => (x, 0)
  | some x, some y => (some (f x y).1, (f x y).2)

/-- What lane i holds after k levels of the tree of VRED (R132), with the flags of the levels below it. -/
def treeOf (f : Nat → Nat → Nat × Flags) (x : Nat → Option Nat) : Nat → Nat → Option Nat × Flags
  | 0, i => (x i, 0)
  | k + 1, i =>
    let a := treeOf f x k i
    let b := treeOf f x k (i + 2 ^ k)
    ((combined f a.1 b.1).1, a.2 ||| b.2 ||| (combined f a.1 b.1).2)

/-- The prefixes of VSCAN from an accumulator on, left to right (R133). -/
def prefixes (f : Nat → Nat → Nat × Flags) : Option Nat → List Nat → List (Option Nat × Flags)
  | _, [] => []
  | acc, x :: r => combined f acc (some x) :: prefixes f (combined f acc (some x)).1 r

/-- The scalar and predicate instructions that compute in registers alone: the scalar register, or the guard and the predicate,
that each may write. -/
def registerOnly : Instr → Option (Option SReg × Option (Guard × PReg))
  | .add d _ _ | .sub d _ _ | .and d _ _ | .or d _ _ | .xor d _ _ | .sll d _ _ | .srl d _ _ | .sra d _ _ | .mul d _ _
  | .mulh d _ _ | .mulhn d _ _ | .div d _ _ | .divn d _ _ | .rem d _ _ | .remn d _ _ | .slt d _ _ | .sltn d _ _ | .min d _ _
  | .max d _ _ | .minn d _ _ | .maxn d _ _ | .seq d _ _ | .clz d _ | .ctz d _ | .popc d _ | .addi d _ _ | .andi d _ _
  | .ori d _ _ | .xori d _ _ | .slti d _ _ | .slli d _ _ | .srli d _ _ | .srai d _ _ | .liz d _ _ | .lik d _ _ | .mdr d
  | .pget d _ | .pcnt d _ | .pfirst d _ => some (some d, none)
  | .pand g p _ _ | .por g p _ _ | .pxor g p _ _ | .pmov g p _ | .pset g p _ => some (none, some (g, p))
  | _ => none

/-- The shape of a lane-wise instruction with one vector destination: guard, destination and whether it is read, vector sources,
scalar and predicate sources, and the TYPEs it accepts (R113, R114). -/
structure LaneForm where
  guard : Guard
  d : VReg
  readsD : Bool
  srcs : List VReg
  ss : List SReg
  ps : List PReg
  accepts : Nat → Bool

/-- The lane-wise instructions that compute each lane from the same lane of their sources. -/
def laneForm : Instr → Option LaneForm
  | .vadd g d a b | .vsub g d a b | .vmul g d a b | .vmulh g d a b | .vmin g d a b | .vmax g d a b | .vabsd g d a b
  | .vavg g d a b | .vsll g d a b | .vsrl g d a b | .vsra g d a b | .vadds g d a b | .vsubs g d a b | .vdiv g d a b
  | .vrem g d a b => some ⟨g, d, false, [a, b], [], [], intType⟩
  | .vand g d a b | .vor g d a b | .vxor g d a b | .vandn g d a b => some ⟨g, d, false, [a, b], [], [], anyType⟩
  | .vpopc g d a | .vclz g d a | .vabs g d a | .vaddi g d a _ | .vslli g d a _ | .vsrli g d a _ | .vsrai g d a _ =>
    some ⟨g, d, false, [a], [], [], intType⟩
  | .vmad g d a b => some ⟨g, d, true, [a, b], [], [], intType⟩
  | .vdot4 g d a b => some ⟨g, d, true, [a, b], [], [], fun t => t == 4 || t == 5⟩
  | .vmovi g d _ => some ⟨g, d, false, [], [], [], anyType⟩
  | .fadd g d a b | .fsub g d a b | .fmul g d a b | .fdiv g d a b | .fmin g d a b | .fmax g d a b | .fsgnj g d a b =>
    some ⟨g, d, false, [a, b], [], [], floatType⟩
  | .fma g d a b | .fms g d a b | .fnma g d a b => some ⟨g, d, true, [a, b], [], [], floatType⟩
  | .fabs g d a | .fneg g d a | .fsqrt g d a | .frsq g d a | .fexp2 g d a | .flog2 g d a =>
    some ⟨g, d, false, [a], [], [], floatType⟩
  | .vsel g d a b p => some ⟨g, d, false, [a, b], [], [p], anyType⟩
  | .vmov g d a => some ⟨g, d, false, [a], [], [], anyType⟩
  | .vbcast g d x => some ⟨g, d, false, [], [x], [], anyType⟩
  | _ => none

/-- Nothing is under way between the issuing group and memory, and no error stands in memory: its core buffers no reduction and
caches no line, no slice or host holds a line, no update-only copy, scope mark, held write, lease or write to a peer exists, no copy has
left a byte unsettled, no bank of a vault is in its refresh, no page has a replica, no object is registered, and its team keeps no
version. -/
structure Calm (s : State) : Prop where
  comb : (s.cores.get s.g.core).comb = []
  l1 : (s.cores.get s.g.core).l1 = []
  copies : s.mem.copies = []
  slices : s.mem.slices = []
  marks : s.mem.marks = []
  filter : s.mem.hostFilter = []
  snoops : s.mem.hostSnoops = []
  poison : s.mem.poison = []
  bad : s.mem.badBytes = []
  dead : s.mem.dead = none
  olds : s.mem.olds = []
  held : s.links.held = []
  leases : s.links.leases = []
  peers : s.links.peerWrites = []
  objs : s.objs = []
  version : s.team.version = none
  replicas : s.col.replicas = []
  banks : ∀ c, (s.cols.get c).vault.busy = []

/-- Of the columns nothing has changed but the rows that the refresh buffers of the vaults hold (R358). -/
def RowsOnly (s t : State) : Prop :=
  ∀ c, t.cols.get c = { s.cols.get c with vault := { (s.cols.get c).vault with buffer := (t.cols.get c).vault.buffer } }

/-- A release of a scope by the issuing group waits for nothing (R155, R261): its team's version does not stand in the way, and every
write of its core that the release sends on is performed. -/
def ReleaseReady (s : State) (sc : Scope) : Prop :=
  (s.team.version = none ∨ sc.code ≤ 1) ∧ (s.sendOn s.g.core sc).performedBy s.g.core sc = true

/-- The byte that memory holds at a location. -/
def memByte (s : State) (a : Nat) : Byte := cellsGet s.mem.base s.mem.cells a

/-- A little-endian number in memory. -/
def memNat (s : State) (a k : Nat) : Nat := leNat (tabList (memByte s) a k)

/-- The location that a lane's access names in the spaces other than global memory (R135). -/
def localLoc (s : State) (sp : Space) (a : Nat) : Nat :=
  match sp with
  | .vault => vaultLoc s.colId ((s.vaultWindow s.g.team s.ctxId s.colId).1 + a)
  | .slice => sliceLoc s.colId a
  | _ => scratchLoc s.g.team a

/-- The address of lane L of a per-lane access outside global memory: s[sb] plus the unsigned offset of the lane (R135). -/
def laneEa (s : State) (b : SReg) (a : VReg) (L : Nat) : Nat := (s.g.sReg b).toNat + (s.g.lane a.toNat L).toNat

/-- The access of every Active lane lies within its space, and the slice scratch is granted (R135, R138). -/
def InSpace (s : State) (sp : Space) (m : Word) (addr : Nat → Nat) (size : Nat) : Prop :=
  ∀ L < 64, m.getLsbD L = true → s.boundFail sp (addr L) size = none ∧ (sp = .slice → s.col.grant = some s.ctxId)

end Sys2Proof.Safety
end

