-- ==== Sys2Proof/Certificates/Slice0/Obligations.lean ====
section
/-! DEFINITION. The statements for the provers. Each says what its rules of the spec say; where a hypothesis names a check of the
model, the check is the one that the rule gives. -/
set_option Elab.async false

open Sys2Proof Sys2Proof.Machine Sys2Proof.Safety

/-! ### Encoding -/

/-- The word of every well-formed instruction decodes to it, with every operand at every value (R59 to R82). -/
def Obligations.DecodeEncode : Prop :=
  ∀ (i : Instr) (w : Word32), i.wf = true → encode i = some w → decodeWord w = .ok i

/-- No word has two meanings and no decoded bit is dropped: what a word decodes to is well-formed and is encoded by it alone
(R59 to R82). -/
def Obligations.DecodeUnambiguous : Prop :=
  ∀ (w : Word32) (i : Instr), decodeWord w = .ok i → i.wf = true ∧ encode i = some w

/-- Words that the spec writes out, one or more to a family, decode to the instruction they stand for. -/
def Obligations.SpecWordsDecode : Prop :=
  decodeWord 0x0C000000 = .ok .nop ∧
  decodeWord 0x28105189 = .ok (.mulh 4 5 6) ∧
  decodeWord 0x44083085 = .ok (.srai 2 3 5) ∧
  decodeWord 0x4C270012 = .ok (.liz 9 3 0x12) ∧
  decodeWord 0x50263456 = .ok (.lik 9 2 0x3456) ∧
  decodeWord 0x6000A023 = .ok (.flclr 0 10 .arm) ∧
  decodeWord 0x65060802 = .ok (.pxor 1 3 2 0) ∧
  decodeWord 0x541C1FF0 = .ok (.ld 7 1 0xFF0) ∧
  decodeWord 0x24005000 = .ok (.jmpv 20) ∧
  decodeWord 0x3C01400C = .ok (.glyld 20 12) ∧
  decodeWord 0x380C142C = .ok (.glyph 12 10 11 0) ∧
  decodeWord 0x84060C44 = .ok (.vsrai 0 3 3 4) ∧
  decodeWord 0xA002081D = .ok (.vsel 0 1 2 3 5) ∧
  decodeWord 0x68282218 = .ok (.cvt 0 20 8 (.slot 3)) ∧
  decodeWord 0x6C500010 = .ok (.quant 0 40 0 2) ∧
  decodeWord 0xAC142C19 = .ok (.shflx 0 10 11 3) ∧
  decodeWord 0xB00E1800 = .ok (.vred 0 7 6 .add) ∧
  decodeWord 0xB8500650 = .ok (.mma 0 1 32 3 1 2) ∧
  decodeWord 0xC4141000 = .ok (.vldc 0 10 2 0) ∧
  decodeWord 0xD8041860 = .ok (.altakev 0 2 6 12) ∧
  decodeWord 0xEC194600 = .ok (.copy 3 10 12) ∧
  decodeWord 0xF0061048 = .ok (.spawn 0 3 4 9) ∧
  decodeWord 0xF4114540 = .ok (.launch 4 20 21) ∧
  decodeWord 0xF8001230 = .ok (.trap 0x123)

/-! ### Scalar instructions -/

/-- The register instructions of major 0x0A but division (R84): the result of each from a = s[sa] and b = s[sb], and the
instruction retires.

CLZ, CTZ and POPC (R84) and the immediate forms (R86). -/
def Obligations.ScalarResults : Prop :=
  (∀ (s : State) (d a b : SReg), s.sound [] [a, b] [] = .ok () →
     let x := s.g.sReg a
     let y := s.g.sReg b
     let gives := fun (i : Instr) (r : Word) => exec i s = .next (s.retireWith (s.g.setS d r))
     gives (.add d a b) (x + y) ∧ gives (.sub d a b) (x - y) ∧ gives (.and d a b) (x &&& y) ∧ gives (.or d a b) (x ||| y) ∧
     gives (.xor d a b) (x ^^^ y) ∧ gives (.sll d a b) (x <<< (y.toNat % 64)) ∧ gives (.srl d a b) (x >>> (y.toNat % 64)) ∧
     gives (.sra d a b) (x.sshiftRight (y.toNat % 64)) ∧ gives (.mul d a b) (x * y) ∧
     gives (.mulh d a b) (BitVec.ofInt 64 (x.toInt * y.toInt / 2 ^ 64)) ∧
     gives (.mulhn d a b) (BitVec.ofNat 64 (x.toNat * y.toNat / 2 ^ 64)) ∧
     gives (.slt d a b) (if x.toInt < y.toInt then 1 else 0) ∧ gives (.sltn d a b) (if x.toNat < y.toNat then 1 else 0) ∧
     gives (.min d a b) (if x.toInt < y.toInt then x else y) ∧ gives (.max d a b) (if x.toInt < y.toInt then y else x) ∧
     gives (.minn d a b) (if x.toNat < y.toNat then x else y) ∧ gives (.maxn d a b) (if x.toNat < y.toNat then y else x) ∧
     gives (.seq d a b) (if x = y then 1 else 0)) ∧
  (∀ (s : State) (d a : SReg) (imm : BitVec 12) (cnt : BitVec 6), s.sound [] [a] [] = .ok () →
     let x := s.g.sReg a
     let i := imm.signExtend 64
     let gives := fun (j : Instr) (r : Word) => exec j s = .next (s.retireWith (s.g.setS d r))
     (∃ n, gives (.clz d a) (BitVec.ofNat 64 n) ∧ n ≤ 64 ∧ (∀ k, 64 - n ≤ k → x.getLsbD k = false) ∧
       (n < 64 → x.getLsbD (63 - n) = true)) ∧
     (∃ n, gives (.ctz d a) (BitVec.ofNat 64 n) ∧ n ≤ 64 ∧ (∀ k, k < n → x.getLsbD k = false) ∧ (n < 64 → x.getLsbD n = true)) ∧
     gives (.popc d a) (BitVec.ofNat 64 ((List.range 64).countP fun k => x.getLsbD k)) ∧
     gives (.addi d a imm) (x + i) ∧ gives (.andi d a imm) (x &&& i) ∧ gives (.ori d a imm) (x ||| i) ∧
     gives (.xori d a imm) (x ^^^ i) ∧ gives (.slti d a imm) (if x.toInt < i.toInt then 1 else 0) ∧
     gives (.slli d a cnt) (x <<< cnt.toNat) ∧ gives (.srli d a cnt) (x >>> cnt.toNat) ∧
     gives (.srai d a cnt) (x.sshiftRight cnt.toNat))

/-- Division (R84, R85): quotients toward zero, remainders with the sign of the dividend, and the fixed results of R85 with no
trap. -/
def Obligations.ScalarDivision : Prop :=
  ∀ (s : State) (d a b : SReg), s.sound [] [a, b] [] = .ok () →
    let x := s.g.sReg a
    let y := s.g.sReg b
    let gives := fun (i : Instr) (r : Word) => exec i s = .next (s.retireWith (s.g.setS d r))
    (y = 0 → gives (.div d a b) 0xFFFFFFFFFFFFFFFF ∧ gives (.divn d a b) 0xFFFFFFFFFFFFFFFF ∧ gives (.rem d a b) x ∧
      gives (.remn d a b) x) ∧
    (x.toInt = -2 ^ 63 → y.toInt = -1 → gives (.div d a b) 0x8000000000000000 ∧ gives (.rem d a b) 0) ∧
    (y ≠ 0 → gives (.divn d a b) (BitVec.ofNat 64 (x.toNat / y.toNat)) ∧ gives (.remn d a b) (BitVec.ofNat 64 (x.toNat % y.toNat))) ∧
    (y ≠ 0 → ¬(x.toInt = -2 ^ 63 ∧ y.toInt = -1) → ∃ q r : Word,
      gives (.div d a b) q ∧ gives (.rem d a b) r ∧ q.toInt = Int.tdiv x.toInt y.toInt ∧
      x.toInt = q.toInt * y.toInt + r.toInt ∧ r.toInt = Int.tmod x.toInt y.toInt)

/-- LIZ and LIK (R87), bit by bit: LIZ sets imm16 · 2^(16·hw); LIK replaces bits [16·hw+15 : 16·hw] and keeps the other 48. -/
def Obligations.LoadImmediates : Prop :=
  ∀ (s : State) (d : SReg) (hw : BitVec 2) (imm : BitVec 16),
    exec (.liz d hw imm) s = .next (s.retireWith (s.g.setS d (BitVec.ofNat 64 (imm.toNat * 2 ^ (16 * hw.toNat))))) ∧
    (s.sound [] [d] [] = .ok () → ∃ x : Word, exec (.lik d hw imm) s = .next (s.retireWith (s.g.setS d x)) ∧
      ∀ k < 64, x.getLsbD k =
        if 16 * hw.toNat ≤ k ∧ k < 16 * hw.toNat + 16 then imm.getLsbD (k - 16 * hw.toNat) else (s.g.sReg d).getLsbD k)

/-- A read of s0 gives zero and a write to it is discarded (R14), in every state and for every value.

A read of p0 gives 1 in all 64 lanes, whatever LIVE holds, and a write to p0 is discarded (R15); another predicate takes the
new value in the lanes of the mask. -/
def Obligations.HardwiredRegisters : Prop :=
  (∀ (g : Group) (x : Word) (r : SReg), g.sReg 0 = 0 ∧ g.setS 0 x = g ∧ (r ≠ 0 → (g.setS r x).sReg r = x) ∧
     ∀ q, q ≠ r → (g.setS r x).sReg q = g.sReg q) ∧
  (∀ (g : Group) (m x : Word) (r : PReg), g.pReg 0 = BitVec.allOnes 64 ∧ g.setP 0 m x = g ∧
     (r ≠ 0 → ∀ k < 64, ((g.setP r m x).pReg r).getLsbD k = if m.getLsbD k then x.getLsbD k else (g.pReg r).getLsbD k) ∧
     ∀ q, q ≠ r → (g.setP r m x).pReg q = g.pReg q)

/-- The frame of those instructions (R84 to R87, R106, R107, R101): where no register holds an error, the instruction answers a
next state that differs from the old one in the group alone, and there in nothing but its destination, the program counter, and
what the model keeps for an instruction that waits. No byte of memory, no flag, no other register changes. -/
def Obligations.RegisterOnlyFrame : Prop :=
  ∀ (i : Instr) (ds : Option SReg) (dp : Option (Guard × PReg)) (s : State), registerOnly i = some (ds, dp) → s.g.bad = [] →
    s.g.glyph = none → ∃ t, exec i s = .next t ∧ t = { s with g := t.g } ∧ t.g.pc = pcOf (s.g.pc + 4) ∧
      (∀ r, ds ≠ some r → t.g.sReg r = s.g.sReg r) ∧
      (∀ p, (∀ G, dp ≠ some (G, p)) → t.g.pReg p = s.g.pReg p) ∧
      (∀ G p, dp = some (G, p) → ∀ k < 64, (s.g.active G).getLsbD k = false → (t.g.pReg p).getLsbD k = (s.g.pReg p).getLsbD k) ∧
      t.g = { s.g with s := t.g.s, p := t.g.p, pc := t.g.pc, alReads := [], peerData := none, fetched := none, kept := [] }

/-! ### Predicates, mode, flags and special registers -/

/-- The predicate instructions (R106, R107): in each Active lane the result that the table gives, PGET the whole predicate, PCNT
the number of lanes of LIVE that are set, PFIRST the lowest of them or 64. -/
def Obligations.PredicateResults : Prop :=
  ∀ (s : State) (G : Guard) (d a b : PReg) (x : SReg),
    let act := s.g.active G
    let gives := fun (i : Instr) (r : Word) => exec i s = .next (s.retireWith (s.g.setP d act r))
    let scalar := fun (i : Instr) (r : Word) => exec i s = .next (s.retireWith (s.g.setS x r))
    (s.sound [] [] [s.g.guardIdx G, a, b] = .ok () →
      gives (.pand G d a b) (s.g.pReg a &&& s.g.pReg b) ∧ gives (.por G d a b) (s.g.pReg a ||| s.g.pReg b) ∧
      gives (.pxor G d a b) (s.g.pReg a ^^^ s.g.pReg b)) ∧
    (s.sound [] [] [s.g.guardIdx G, a] = .ok () → gives (.pmov G d a) (s.g.pReg a)) ∧
    (s.sound [] [x] [s.g.guardIdx G] = .ok () → gives (.pset G d x) (s.g.sReg x)) ∧
    (s.sound [] [] [a] = .ok () →
      let m := s.g.pReg a &&& s.g.live
      scalar (.pget x a) (s.g.pReg a) ∧
      scalar (.pcnt x a) (BitVec.ofNat 64 ((List.range 64).countP fun k => m.getLsbD k)) ∧
      (m = 0 → scalar (.pfirst x a) 64) ∧
      ∀ L < 64, m.getLsbD L = true → (∀ k < L, m.getLsbD k = false) → scalar (.pfirst x a) (BitVec.ofNat 64 L))

/-- MODE, MDR and FLR (R101, R102): MODE writes the fields of MD that its mask selects and gives the old MD, where no bit above 22
of the operand is set and the new MD is legal, and traps ILLEGAL_MODE otherwise; MDR and FLR give MD and FL, FLR once every earlier
MMA has written its flags (R24), and while one waits for its unit (R184) FLR and FLCLR are held at issue.

FLCLR (R103): a nonzero x[63:23] or x[15:7] traps ILLEGAL_OPERAND with TADDR = sa; otherwise s[sd] takes FL, bit 0 of sel8
clears the flags that x names, bit 1 sets ARM, and nothing else of FL changes. -/
def Obligations.ModeResults : Prop :=
  (∀ (s : State) (d a : SReg) (mask : BitVec 8),
     exec (.mdr d) s = .next (s.retireWith (s.g.setS d (s.g.md.zeroExtend 64))) ∧
     (s.g.mmas = [] → exec (.flr d) s = .next (s.retireWith (s.g.setS d (s.g.fl.zeroExtend 64)))) ∧
     (s.drainMmas.g.mmas = [] →
       exec (.flr d) s = .next (s.drainMmas.retireWith (s.drainMmas.g.setS d (s.drainMmas.g.fl.zeroExtend 64)))) ∧
     (s.drainMmas.g.mmas ≠ [] → exec (.flr d) s = .next s.drainMmas.stallHere) ∧
     (s.sound [] [a] [] = .ok () →
       let x := s.g.sReg a
       let new := (s.g.md &&& ~~~(modeBits mask)) ||| (x.extractLsb' 0 32 &&& modeBits mask)
       (x.toNat < 2 ^ 23 ∧ new.toNat < 2 ^ 23 ∧ new.toNat % 16 < 10 ∧ new.toNat / 16 % 8 < 5 →
         exec (.mode d a mask) s = .next (s.retireWith { s.g.setS d (s.g.md.zeroExtend 64) with md := new })) ∧
       (¬(x.toNat < 2 ^ 23 ∧ new.toNat < 2 ^ 23 ∧ new.toNat % 16 < 10 ∧ new.toNat / 16 % 8 < 5) →
         exec (.mode d a mask) s = .next (s.takeTrap ⟨.illegalMode, 0, 0, [], none⟩)))) ∧
  (∀ (s : State) (d a : SReg) (sel : FlSel),
     let t := s.drainMmas
     (s.g.mmas = [] → t = s) ∧
     (t.g.mmas ≠ [] → exec (.flclr d a sel) s = .next t.stallHere) ∧
     (t.g.mmas = [] → t.sound [] [a] [] = .ok () →
       let x := t.g.sReg a
       ((x.toNat / 2 ^ 23 ≠ 0 ∨ x.toNat / 2 ^ 7 % 2 ^ 9 ≠ 0) →
         exec (.flclr d a sel) s = .next (t.takeTrap ⟨.illegalOperand, a.zeroExtend 64, 0, [], none⟩)) ∧
       (x.toNat / 2 ^ 23 = 0 ∧ x.toNat / 2 ^ 7 % 2 ^ 9 = 0 →
         ∃ fl : Word32, exec (.flclr d a sel) s = .next (t.retireWith { t.g.setS d (t.g.fl.zeroExtend 64) with fl := fl }) ∧
           ∀ k < 32, fl.getLsbD k =
             if k < 7 ∧ (sel = .flags ∨ sel = .both) then t.g.fl.getLsbD k && !x.getLsbD k
             else if 16 ≤ k ∧ k < 23 ∧ (sel = .arm ∨ sel = .both) then x.getLsbD k
             else t.g.fl.getLsbD k)))

/-- Scalar SREAD copies the selected register (R104, R31); vector SREAD writes the lane index, or the register's low word, to each
Active lane, whatever MD.TYPE. Each selector names what R31 says: the group's index, team, role and LIVE, its grid's sizes and depth, its
column and core, the trap registers, SPILLBASE, GSTAT and EVT, and the core's and the device's counters. GSTAT holds SPILLED in [31:16], HND
in [5] and RSDEPTH in [4:0] (R28), EVT the throttle events modulo 256 in [15:8], PEND in [2] and LEVEL in [1:0] (R31); every other bit of them
is zero.

SWRITE (R32, R105, R30): SPILLBASE always and the trap registers in a handler; anything else traps PRIVILEGE; a SPILLBASE that is
no multiple of 64 traps ILLEGAL_OPERAND, and a TMD that is no legal MD traps ILLEGAL_MODE. TCAUSE keeps eight bits (R190). -/
def Obligations.SpecialRegisters : Prop :=
  (∀ (s : State) (G : Guard) (d : SReg) (v : VReg) (sel : Sel),
     exec (.sreadScalar d sel) s = .next (s.retireWith (s.g.setS d (s.special sel))) ∧
     (OperandsReady s [vSpan v 1 false 0] [vSpan v 1 false 0] anyType [] [s.g.guardIdx G] →
       exec (.sreadVector G v sel) s = .next (s.retireWith (s.g.setV v.toNat (s.g.active G) fun L =>
         if sel = .lane then BitVec.ofNat 32 L else (s.special sel).extractLsb' 0 32))) ∧
     s.special .team = s.team.value ∧ s.special .live = s.g.live ∧ s.special .tcause = s.g.tcause ∧
     s.special .taddr = s.g.taddr ∧ s.special .tmask = s.g.tmask ∧ s.special .tpc = s.g.tpc ∧ s.special .tstep = s.g.tstep ∧
     s.special .tmd = s.g.tmd ∧ s.special .spillbase = s.g.spillBase ∧ s.special .clk = s.core.clk ∧ s.special .ptptime = s.ptp ∧
     s.special .group = BitVec.ofNat 64 s.g.index ∧ s.special .role = BitVec.ofNat 64 s.g.role.code ∧
     s.special .gridx = BitVec.ofNat 64 s.grid.launch.x ∧ s.special .gridy = BitVec.ofNat 64 s.grid.launch.y ∧
     s.special .gridz = BitVec.ofNat 64 s.grid.launch.z ∧ s.special .depth = BitVec.ofNat 64 s.grid.depth ∧
     s.special .column = BitVec.ofNat 64 s.colId.val ∧ s.special .core = BitVec.ofNat 64 s.g.core.val ∧
     s.special .gstat = s.g.gstat ∧ s.special .evt = s.core.evt ∧
     (s.g.rs.length ≤ 31 → (s.special .gstat).extractLsb' 16 16 = s.g.spilled ∧ (s.special .gstat).getLsbD 5 = s.g.hnd ∧
       ((s.special .gstat).extractLsb' 0 5).toNat = s.g.rs.length ∧ (s.special .gstat).extractLsb' 6 10 = 0 ∧
       (s.special .gstat).extractLsb' 32 32 = 0) ∧
     ((s.special .evt).extractLsb' 8 8).toNat = s.core.evtCount.toNat % 256 ∧ (s.special .evt).getLsbD 2 = s.core.evtPend ∧
     (s.special .evt).extractLsb' 0 2 = s.core.evtLevel ∧ (s.special .evt).extractLsb' 3 5 = 0 ∧ (s.special .evt).extractLsb' 16 48 = 0) ∧
  (∀ (s : State) (a : SReg) (sel : Sel), s.sound [] [a] [] = .ok () →
     let x := s.g.sReg a
     let trapRegister := sel = .tcause ∨ sel = .taddr ∨ sel = .tmask ∨ sel = .tpc ∨ sel = .tstep ∨ sel = .tmd
     let legal := x.toNat < 2 ^ 23 ∧ x.toNat % 16 < 10 ∧ x.toNat / 16 % 8 < 5
     let writes := fun (g : Group) => exec (.swrite a sel) s = .next (s.retireWith g)
     (sel = .spillbase → x.toNat % 64 = 0 → writes { s.g with spillBase := x }) ∧
     (sel = .spillbase → x.toNat % 64 ≠ 0 → exec (.swrite a sel) s = .next (s.takeTrap ⟨.illegalOperand, a.zeroExtend 64, 0, [], none⟩)) ∧
     (s.g.hnd = true →
       (sel = .tcause → writes { s.g with tcause := x &&& 0xFF }) ∧ (sel = .taddr → writes { s.g with taddr := x }) ∧
       (sel = .tmask → writes { s.g with tmask := x }) ∧ (sel = .tpc → writes { s.g with tpc := x }) ∧
       (sel = .tstep → writes { s.g with tstep := x }) ∧ (sel = .tmd → legal → writes { s.g with tmd := x }) ∧
       (sel = .tmd → ¬legal → exec (.swrite a sel) s = .next (s.takeTrap ⟨.illegalMode, 0, 0, [], none⟩))) ∧
     (sel ≠ .spillbase → ¬(trapRegister ∧ s.g.hnd = true) →
       exec (.swrite a sel) s = .next (s.takeTrap ⟨.privilege, BitVec.ofNat 64 sel.code, 0, [], none⟩)))

/-! ### Control -/

/-- The direct branches (R91): the target is PC + 4·off; one at or above 2^55 traps ACCESS_FAULT with the target when the branch is taken; a
branch that is not taken retires.

CALL, CALLS, RET, JMPS and JMPV (R91, R93, R94, R29, R30): with room on the return stack a call pushes PC + 4 and transfers, and on a full
one it does so after the spill, which traps STACK_SPILL where SPILLBASE is 0; RET takes the youngest entry, after a refill where the stack
is empty and a block is spilled; JMPS and CALLS go to s[sa]; JMPV to the one target that the lanes of LIVE hold, and where a lane of LIVE
holds another than the lowest it traps VECTOR_TARGET_DIVERGENT with the lowest lane's and the lanes that differ from it. A target at or
above 2^55 traps ACCESS_FAULT and an indirect one that is no multiple of 4 traps MISALIGNED, before the stack is touched. The program
counter keeps bits [54:2] of what it takes (R13; of RET's word by log entry 84).

Where the spill or the refill cannot translate its 64 bytes, the call traps STACK_SPILL and the return STACK_FILL, with the first address
that fails, or parks on a recoverable fault (R29, R30). With the LANDING flag an indirect target must hold the word of LAND: JMPS, CALLS and
JMPV trap LANDING_POINT at any other; without the flag a target that translates for execution is good (R93, R95). -/
def Obligations.ControlTransfers : Prop :=
  (∀ (s : State) (off : BitVec 18) (far : BitVec 24) (r : SReg) (p : PReg),
     let t18 := s.g.pc + 4 * off.signExtend 64
     let t24 := s.g.pc + 4 * far.signExtend 64
     let m := s.g.pReg p &&& s.g.live
     let goes := fun (i : Instr) (c : Prop) =>
       (c → t18.toNat < 2 ^ 55 → exec i s = .next (s.jump t18)) ∧
       (c → 2 ^ 55 ≤ t18.toNat → exec i s = .next (s.takeTrap ⟨.accessFault, t18, 0, [], none⟩)) ∧
       (¬c → exec i s = .next s.retire)
     (t24.toNat < 2 ^ 55 → exec (.branch far) s = .next (s.jump t24)) ∧
     (2 ^ 55 ≤ t24.toNat → exec (.branch far) s = .next (s.takeTrap ⟨.accessFault, t24, 0, [], none⟩)) ∧
     (s.sound [] [r] [] = .ok () → goes (.bz r off) (s.g.sReg r = 0) ∧ goes (.bnz r off) (s.g.sReg r ≠ 0)) ∧
     (s.sound [] [] [p] = .ok () → goes (.bany p off) (m ≠ 0) ∧ goes (.ball p off) (m = s.g.live) ∧ goes (.bnone p off) (m = 0))) ∧
  (∀ (s : State) (far : BitVec 24) (a : SReg) (v : VReg) (t : Word),
     let t24 := s.g.pc + 4 * far.signExtend 64
     let pushed := { s with g := { s.g with rs := s.g.rs ++ [s.g.pc + 4] } }
     (s.jump t).g.pc = pcOf t ∧
     (2 ^ 55 ≤ t24.toNat → exec (.call far) s = .next (s.takeTrap ⟨.accessFault, t24, 0, [], none⟩)) ∧
     (s.g.rs.length < 16 → t24.toNat < 2 ^ 55 → exec (.call far) s = .next (pushed.jump t24)) ∧
     (16 ≤ s.g.rs.length → t24.toNat < 2 ^ 55 →
       (s.g.spillBase = 0 → exec (.call far) s = .next (s.takeTrap ⟨.stackSpill, 0, 0, [], none⟩)) ∧
       ∀ u, s.spill = .ok u → u.g.spillBase = s.g.spillBase + 64 ∧ u.g.spilled = s.g.spilled + 1 ∧ u.g.rs = s.g.rs.drop 8 ∧
         exec (.call far) s = .next (({ u with g := { u.g with rs := u.g.rs ++ [s.g.pc + 4] } } : State).jump t24)) ∧
     (s.sound [] [a] [] = .ok () → t = s.g.sReg a →
       (s.indirect t = .ok () → exec (.jmps a) s = .next (s.jump t)) ∧
       (s.indirect t = .ok () → s.g.rs.length < 16 → exec (.calls a) s = .next (pushed.jump t)) ∧
       (s.indirect t = .ok () → 16 ≤ s.g.rs.length →
         (s.g.spillBase = 0 → exec (.calls a) s = .next (s.takeTrap ⟨.stackSpill, 0, 0, [], none⟩)) ∧
         ∀ u, s.spill = .ok u → exec (.calls a) s = .next (({ u with g := { u.g with rs := u.g.rs ++ [s.g.pc + 4] } } : State).jump t)) ∧
       (t.toNat % 4 ≠ 0 → exec (.jmps a) s = .next (s.takeTrap ⟨.misaligned, t, 0, [], none⟩) ∧
         exec (.calls a) s = .next (s.takeTrap ⟨.misaligned, t, 0, [], none⟩)) ∧
       (t.toNat % 4 = 0 → 2 ^ 55 ≤ t.toNat → exec (.jmps a) s = .next (s.takeTrap ⟨.accessFault, t, 0, [], none⟩) ∧
         exec (.calls a) s = .next (s.takeTrap ⟨.accessFault, t, 0, [], none⟩))) ∧
     (∀ r, s.g.rs = r ++ [t] → exec .ret s = .next (({ s with g := { s.g with rs := r } } : State).jump t)) ∧
     (s.g.rs = [] → s.g.spilled = 0 → exec .ret s = .next (s.takeTrap ⟨.returnStackEmpty, 0, 0, [], none⟩)) ∧
     (s.g.rs = [] → s.g.spilled ≠ 0 → ∀ u r, s.refill = .ok u → u.g.rs = r ++ [t] →
       u.g.spillBase = s.g.spillBase - 64 ∧ u.g.spilled = s.g.spilled - 1 ∧
       exec .ret s = .next (({ u with g := { u.g with rs := r } } : State).jump t)) ∧
     (OperandsReady s [vSpan v 2 true s.g.live] [vSpan v 2 true s.g.live] anyType [] [] → s.g.live ≠ 0 →
       ((∀ L < 64, s.g.live.getLsbD L = true → s.g.lane64 v.toNat L = t) →
         (s.indirect t = .ok () → exec (.jmpv v) s = .next (s.jump t)) ∧
         (t.toNat % 4 ≠ 0 → exec (.jmpv v) s = .next (s.takeTrap ⟨.misaligned, t, 0, [], none⟩)) ∧
         (t.toNat % 4 = 0 → 2 ^ 55 ≤ t.toNat → exec (.jmpv v) s = .next (s.takeTrap ⟨.accessFault, t, 0, [], none⟩)) ∧
         ∀ x, s.indirect t = .error (.trap x) → exec (.jmpv v) s = .next (s.takeTrap x)) ∧
       ∀ low < 64, s.g.live.getLsbD low = true → (∀ k < low, s.g.live.getLsbD k = false) → t = s.g.lane64 v.toNat low →
         ∀ other : Word, (∀ L < 64, other.getLsbD L = (s.g.live.getLsbD L && s.g.lane64 v.toNat L != t)) → other ≠ 0 →
           exec (.jmpv v) s = .next (s.takeTrap ⟨.vectorTargetDivergent, t, other, [], none⟩))) ∧
  (∀ (s : State) (far : BitVec 24) (a : SReg) (x : Trap) (acc : Access) (pages : List (Word × Nat)),
     let t24 := s.g.pc + 4 * far.signExtend 64
     let spills := s.xlatParts .write true (spillCuts s.g.spillBase.toNat)
     let fills := s.xlatParts .read true (spillCuts (s.g.spillBase - 64).toNat)
     let fails := fun (c : Cause) => State.takeTrap s { x with cause := c, mask := 0, incs := [] }
     (16 ≤ s.g.rs.length → s.g.spillBase ≠ 0 → t24.toNat < 2 ^ 55 →
       (spills = .error (.trap x) → exec (.call far) s = .next (fails .stackSpill)) ∧
       (spills = .error (.park acc pages) → exec (.call far) s = .next (s.parkOn acc pages))) ∧
     (16 ≤ s.g.rs.length → s.g.spillBase ≠ 0 → s.sound [] [a] [] = .ok () → s.indirect (s.g.sReg a) = .ok () →
       spills = .error (.trap x) → exec (.calls a) s = .next (fails .stackSpill)) ∧
     (s.g.rs = [] → s.g.spilled ≠ 0 →
       (fills = .error (.trap x) → exec .ret s = .next (fails .stackFill)) ∧
       (fills = .error (.park acc pages) → exec .ret s = .next (s.parkOn acc pages)))) ∧
  (∀ (s : State) (a : SReg) (t : Word), t.toNat % 4 = 0 → t.toNat < 2 ^ 55 → s.execXlat t = .ok () →
     (s.grid.launch.flags.getLsbD 5 = false → s.indirect t = .ok ()) ∧
     (s.grid.launch.flags.getLsbD 5 = true → ∀ bs, s.fetchBytes (if s.g.peerFor == s.landAsk t then s.g.peerData else none) t.toNat = .ok bs →
       (leNat bs = 0x0C000004 → s.indirect t = .ok ()) ∧
       (leNat bs ≠ 0x0C000004 → s.indirect t = .error (.trap ⟨.landingPoint, t, 0, [], none⟩) ∧
         (s.sound [] [a] [] = .ok () → s.g.sReg a = t → exec (.jmps a) s = .next (s.takeTrap ⟨.landingPoint, t, 0, [], none⟩) ∧
           exec (.calls a) s = .next (s.takeTrap ⟨.landingPoint, t, 0, [], none⟩)))))

/-- NOP, LAND, POLL and YIELD (R95, R96, R98, R99) only advance the program counter, but that POLL under a pre-emption request
blocks with an immediate wake condition, past itself, and that YIELD holds the group back. HALT of a group of no uncommitted
VERSIONED team halts it, with its context in the error state; the GROUP_HALTED record, of class CTX, names the group and carries the
address of the HALT, also where an uncommitted VERSIONED team is discarded and re-dispatched instead (R97, R338).

END (R100, R229): every MMA of the group that does not wait for its unit is performed first; with no asynchronous operation of the group in
flight the group ends; while another group of the team has not finished nothing more happens, and the last one frees what the team holds of
its core, with what its core still buffers of its writes sent on (log entry 123), and ends the saving of a context of which no team is at
work any more (R234, R312). With an operation in flight, an MMA that waits among them, or where the last group of a team with children finds
the pending-retire records of its column full, END waits. What the last END frees: the team stands as pending retirement without points,
macros and window units, its groups leave their slots, its core buffers no reduction, and a team with children takes a pending-retire
record. That the core is freed at the last END, as R229 has it, and not at the retirement that R100 step 3 names, is the model's reading (log
entry 80). -/
def Obligations.GroupLife : Prop :=
  (∀ (s : State),
     exec .nop s = .next s.retire ∧ exec .land s = .next s.retire ∧
     (s.ctx.phase ≠ .saving → exec .poll s = .next s.retire) ∧
     (s.ctx.phase = .saving → exec .poll s = .next (s.retire.blockOn .immediate)) ∧
     exec .yield s = .next { s.retire with g := { s.retire.g with yieldHold := true } } ∧
     (∃ i : Incident, exec .halt s = .next (s.halt i) ∧ i.cls = 11 ∧ i.code = 1 ∧ i.sev = 3 ∧ i.act = 3 ∧ i.engine % 16 = 1 ∧
       i.core = s.g.core.val ∧ i.col = (coreCol s.g.core).val ∧ i.group = s.g.slot.val ∧ i.va = 0 ∧ i.pa = 0 ∧ i.coord = 0 ∧
       i.detail = s.g.pc) ∧
     (s.team.version = none → ∃ t, exec .halt s = .next t ∧ t.g = { s.g with status := .halted, glyph := none } ∧
       (s.ctx.phase ≠ .free → (t.ctxs.get s.ctxId).error = true) ∧ t.log.count = s.log.count + 1)) ∧
  (∀ (s : State),
     let u := s.drainMmas
     let ended : State := { u with g := { u.g.settled with status := .ended } }
     (s.g.mmas = [] → u = s) ∧
     (u.asyncOf u.g = true ↔ u.g.mmas ≠ [] ∨ ∃ o ∈ u.ops, o.core = u.g.core ∧ o.slot = u.g.slot ∧ o.team = u.g.team) ∧
     (ended.teamDone ended.team.id = true ↔ ∀ g ∈ ended.groups, g.team = ended.team.id → g.status = .ended ∨ g.status = .halted) ∧
     (u.asyncOf u.g = true → exec .endGroup s = .next u.stallHere) ∧
     (u.asyncOf u.g = false → ended.teamDone ended.team.id = false → exec .endGroup s = .next ended) ∧
     (u.asyncOf u.g = false → ended.teamDone ended.team.id = true →
       (ended.team.children = 0 ∨ (ended.cols.get ended.team.col).retiring.length < 1024) →
       let freed := ended.releaseTeam ended.team.id
       exec .endGroup s = .next (freed.saveEnds ended.team.ctx) ∧
       ((freed.ctxs.get ended.team.ctx).phase ≠ .saving → freed.saveEnds ended.team.ctx = freed)) ∧
     (u.asyncOf u.g = false → ended.teamDone ended.team.id = true → ended.team.children ≠ 0 →
       1024 ≤ (ended.cols.get ended.team.col).retiring.length → exec .endGroup s = .next u.stallHere)) ∧
  (∀ (s : State) (team : Nat) (t : Team), s.teamOf team = some t →
     let freed := s.releaseTeam team
     (∃ after, freed.teamOf team = some after ∧ after.place = .pendingRetire ∧ after.points = [] ∧ after.macros = [] ∧ after.units = [] ∧
       after.children = t.children) ∧
     (∀ g ∈ freed.groups, g.team ≠ team) ∧ (freed.cores.get t.core).comb = [] ∧
     (freed.cols.get t.col).retiring = (s.cols.get t.col).retiring ++ (if t.children = 0 then [] else [team]))

/-! ### Traps -/

/-- Taking a trap (R191, R192): with HND = 0 and a handler, the trap registers take cause, address, mask, PC, glyph step and MD,
MD its reset value, HND is set and PC is the handler's address, and FL, LIVE, every s, v, p and a register, the return stack,
SPILLED and SPILLBASE keep their values; nothing outside the group changes but by the incidents that go with the trap. -/
def Obligations.TrapEntry : Prop :=
  ∀ (s : State) (t : Trap),
    let u := State.reportAll t.incs s
    u.g.hnd = false → u.entry.handler ≠ 0 →
      let v := s.takeTrap t
      v = { u with g := v.g } ∧ u.g = s.g ∧
      v.g.tcause = BitVec.ofNat 64 t.cause.code ∧ v.g.taddr = t.addr ∧ v.g.tmask = t.mask ∧ v.g.tpc = s.g.pc ∧
      (t.step = none → v.g.tstep = match s.g.glyph with
        | some r => BitVec.ofNat 64 r.k
        | none => 0) ∧
      v.g.tmd = s.g.md.zeroExtend 64 ∧ v.g.md = 0x000C4100 ∧ v.g.hnd = true ∧ v.g.pc = u.entry.handler ∧
      v.g.fl = s.g.fl ∧ v.g.live = s.g.live ∧ v.g.s = s.g.s ∧ v.g.v = s.g.v ∧ v.g.p = s.g.p ∧ v.g.a = s.g.a ∧ v.g.rs = s.g.rs ∧
      v.g.spilled = s.g.spilled ∧ v.g.spillBase = s.g.spillBase

/-- Without a handler the group halts at the trapping instruction with the trap registers written, MD, HND and PC kept, an
UNHANDLED_TRAP record that carries cause, TADDR and TPC, and the context in the error state (R191); under HND = 1 it halts with the
trap registers of the first trap and a HANDLER_TRAP record (R192). A group of an uncommitted VERSIONED team restarts instead
(R193). -/
def Obligations.TrapHalts : Prop :=
  ∀ (s : State) (t : Trap), t.incs = [] → s.team.version = none → s.ctx.phase ≠ .free →
    let v := s.takeTrap t
    (s.g.hnd = false → s.entry.handler = 0 →
      v.g.status = .halted ∧ v.g.md = s.g.md ∧ v.g.hnd = false ∧ v.g.pc = s.g.pc ∧ v.g.tcause = BitVec.ofNat 64 t.cause.code ∧
      v.g.taddr = t.addr ∧ v.g.tmask = t.mask ∧ v.g.tpc = s.g.pc ∧ v.g.tmd = s.g.md.zeroExtend 64 ∧
      (v.ctxs.get s.ctxId).error = true ∧ v.log.count = s.log.count + 1 ∧
      ∃ (i : Incident) (u : State), v = u.halt i ∧ i.cls = 11 ∧ i.code = 2 ∧ i.va = t.addr ∧ i.detail = trapDetail t.cause.code s.g.pc) ∧
    (s.g.hnd = true →
      v.g.status = .halted ∧ v.g.tcause = s.g.tcause ∧ v.g.taddr = s.g.taddr ∧ v.g.tmask = s.g.tmask ∧ v.g.tpc = s.g.tpc ∧
      v.g.tstep = s.g.tstep ∧ v.g.tmd = s.g.tmd ∧ (v.ctxs.get s.ctxId).error = true ∧ v.log.count = s.log.count + 1 ∧
      ∃ i : Incident, v = s.halt i ∧ i.cls = 11 ∧ i.code = 4 ∧ i.va = t.addr ∧ i.detail = trapDetail t.cause.code s.g.tpc)

/-- ERET (R194): with HND = 0 it traps PRIVILEGE with TADDR = 2; otherwise MD takes TMD, HND is cleared, PC takes TPC, in the bits that
R13 gives it (log entry 84), a GLYPH there goes on at step TSTEP, and TCAUSE to TMD and every other register keep their values. -/
def Obligations.TrapReturn : Prop :=
  ∀ (s : State),
    (s.g.hnd = false → exec .eret s = .next (s.takeTrap ⟨.privilege, 2, 0, [], none⟩)) ∧
    (s.g.hnd = true → exec .eret s = .next { s with g := { s.g with
      md := s.g.tmd.extractLsb' 0 32, hnd := false, pc := pcOf s.g.tpc, firstFetch := false
      glyphResume := some (pcOf s.g.tpc, s.g.tstep.toNat) } })

/-- TRAP raises SOFTWARE_TRAP with TADDR = imm20 (R195); a word that fails a check of R75 raises ILLEGAL_ENCODING with the check's
number in TADDR[39:32] and the word below it.

A fetch that fails (R92, R192, R354): without access, ACCESS_FAULT at the target with TADDR = PC; on a recoverable fault the
group is parked; in a handler's first fetch the group halts with a HANDLER_FETCH record. -/
def Obligations.RaisedTraps : Prop :=
  (∀ (s : State) (imm : BitVec 20) (check : BitVec 3) (w : Word32),
     exec (.trap imm) s = .next (s.takeTrap ⟨.softwareTrap, imm.zeroExtend 64, 0, [], none⟩) ∧
     exec (.illegalEncoding check w) s = .next (s.takeTrap ⟨.illegalEncoding, (check.append w).zeroExtend 64, 0, [], none⟩) ∧
     Cause.code .softwareTrap = 0x1E ∧ Cause.code .illegalEncoding = 0x01) ∧
  (∀ (s : State) (va : Word) (level : Nat),
     (s.g.firstFetch = false →
       exec (.instructionFetchFault .access va) s = .next (s.takeTrap ⟨.accessFault, va, 0, [], none⟩) ∧
       exec (.instructionFetchFault (.recoverable level) va) s = .next (s.parkOn .exec [(va, level)])) ∧
     (s.g.firstFetch = true → ∃ i : Incident, i.cls = 11 ∧ i.code = 3 ∧ i.va = va ∧
       exec (.instructionFetchFault .access va) s = .next (s.halt i) ∧
       exec (.instructionFetchFault (.recoverable level) va) s = .next (s.halt i)))

/-! ### Steps, reset, the creation of a group -/

/-- A step of a group that may issue and that its port takes (R227, R228) runs the instruction that the four bytes at its program counter
decode to, or the step of the glyph in progress with its placeholders replaced, in the state in which an instruction begins; bytes that
decode to none raise ILLEGAL_ENCODING. (The first fetch of a handler waits for the record of its trap in the context's ring, R385 step 6.)
Where the environment has chosen that a relaxed load of the group is performed late (R157, log entry 105), the load that waits is performed
first, but for an allowance instruction that it lets pass, and a load chosen so is noted.

The other turns: an event of the table that may happen runs, a slot that holds no group faults, a group that may not issue or that its port does not take
changes nothing, and without a turn the device does what comes by itself. -/
def Obligations.StepRunsDecoded : Prop :=
  (∀ (s u : State) (core : CoreId) (slot : SlotId) (r : List Turn) (w : Word32), s.turns = .issue core slot :: r →
     ({ s with turns := r } : State).focus core slot = some u → u.runnable u.g = true → u.takesPort u.g = true →
     let v := u.lateFirst
     let ran := fun (x : Host.Outcome State Fault Refusal) => match x with
       | .next t => Host.Outcome.next (t.noteLate v)
       | y => y
     (v.g.glyph = none → v.recordWaits = false → v.fetchBytes v.g.fetched v.g.pc.toNat = .ok (bytesOfWord w) →
       (∀ i, decodeWord w = .ok i → step s = ran (exec i (v.begin i))) ∧
       (∀ e, decodeWord w = .error e → step s = ran (exec (.illegalEncoding (BitVec.ofNat 3 e.step) w) (v.begin .nop)))) ∧
     (∀ b, v.g.glyph = some b → w = b.body.getD b.k 0 → ∀ i, decodeWord w = .ok i →
       step s = ran (exec (substStep b.pA b.pB i) (v.begin (substStep b.pA b.pB i)))) ∧
     (u.g.late = none → v = u ∧ (u.g.defer = false → ∀ x, ran x = x))) ∧
  (∀ (s : State) (r : List Turn),
     let rest : State := { s with turns := r }
     (∀ i, s.turns = .event i :: r → step s = if rest.mayHappen i then exec i rest else .next rest) ∧
     (∀ core slot, s.turns = .issue core slot :: r → rest.focus core slot = none → step s = .fault .noSuchGroup) ∧
     (∀ core slot u, s.turns = .issue core slot :: r → rest.focus core slot = some u →
       (u.runnable u.g = false ∨ u.takesPort u.g = false) → step s = .next u) ∧
     (s.turns = [] → step s = s.ownStep))

/-- What reset leaves where the spec gives the value: MD 0x000C4100 and FL 0 in a new group's registers (R33), every context FREE,
16 cache ways in each slice and no grant, queues disabled, memory in mode NORMAL with MAXPA 0xB00000, leases enabled, no MSI-X message
pending and the journals idle. That memory lists no byte then, so that every byte reads as an unlisted one, is the model's choice (log
entry 1).

A group at its creation (R33): the entry address, s1 the argument block, the payloads of a spawned group in v0 to v3 where its
role's budget reaches them and 0 elsewhere, LIVE one lane for each record or all 64, MD its reset value, and zero in every other register of
the table: the vector, predicate and accumulator registers, FL, GSTAT, SPILLBASE and the trap registers, the return stack being empty. -/
def Obligations.ResetAndCreation : Prop :=
  (State.reset.g.md = 0x000C4100 ∧ State.reset.g.fl = 0 ∧ State.reset.groups = [] ∧ State.reset.teams = [] ∧ State.reset.grids = [] ∧
   (∀ c, (State.reset.ctxs.get c).phase = .free) ∧ (∀ c, (State.reset.cols.get c).ways = 16 ∧ (State.reset.cols.get c).grant = none ∧
     (State.reset.cols.get c).hqLog = 0 ∧ (State.reset.cols.get c).fqLog = 0 ∧ (State.reset.cols.get c).fenced = false ∧
     (State.reset.cols.get c).vault.band = 0xAAAAAAAA) ∧
   State.reset.dev.mode = .normal ∧ State.reset.dev.maxpa = 0xB00000 ∧ State.reset.dev.leaseEn = true ∧
   (∀ j, (State.reset.jrns.get j).submit = 0 ∧ (State.reset.jrns.get j).accepted = 0) ∧
   State.reset.msix = [] ∧ State.reset.mem.cells = [] ∧ State.reset.mem.wf = true) ∧
  (∀ (t : Team) (l : Launch) (core : CoreId) (slot : SlotId) (k : Nat) (role : Role),
     let g := newGroup t l core slot k role
     g.pc = (if t.spawned then t.entry else l.entry) ∧ g.sReg 1 = l.args ∧ (∀ r, r ≠ 1 → g.sReg r = 0) ∧
     (∀ p, p ≠ 0 → g.pReg p = 0) ∧ (∀ i L, 4 ≤ i → g.lane i L = 0) ∧ (t.spawned = false → ∀ i L, g.lane i L = 0) ∧
     (t.spawned = true → 8 ≤ l.vBud.getD role.code 0 → ∀ i < 4, ∀ L < 64, g.lane i L = (t.payloads.getD L []).getD i 0) ∧
     (t.spawned = true → l.vBud.getD role.code 0 < 8 → ∀ i L, g.lane i L = 0) ∧
     (∀ i L, g.acc i L = 0) ∧ g.md = 0x000C4100 ∧ g.fl = 0 ∧ g.rs = [] ∧ g.spilled = 0 ∧ g.spillBase = 0 ∧ g.hnd = false ∧ g.gstat = 0 ∧
     g.tcause = 0 ∧ g.taddr = 0 ∧ g.tmask = 0 ∧ g.tpc = 0 ∧ g.tstep = 0 ∧ g.tmd = 0 ∧
     (∀ L < 64, g.live.getLsbD L = true ↔ t.spawned = false ∨ L < t.payloads.length) ∧ g.role = role ∧ g.index = k)

/-- Memory keeps its canonical form at every step: addresses strictly rising and no byte listed that an unlisted location would hold, in
the data and in the parity blocks, so that equal memories are equal data. -/
def Obligations.StepKeepsMemoryForm : Prop :=
  ∀ (s t : State), s.mem.wf = true → step s = .next t → t.mem.wf = true

/-! ### Vector computation -/

/-- The integer instructions on elements (R115, R116): where the operands are ready, each Active lane of vd takes, element by
element, the result that the table gives, modulo 2^w or clamped with SAT, and the instruction retires.

The other integer instructions (R116 to R118): the bitwise ones on the whole lane word or pair under any TYPE, those on one
source, with the destination as a source, and with an immediate.

VDIV and VREM (R117): the quotient truncated toward zero and the remainder with the sign of a; by zero all w bits 1 and a; the most
negative by -1 itself and 0. -/
def Obligations.VectorIntegerResults : Prop :=
  (∀ (s : State) (G : Guard) (d a b : VReg), LaneReady s G d false [a, b] intType →
     let int := elemInt
     let gives := fun (i : Instr) (f : EType → Nat → Nat → Nat × Flags) => exec i s = .next (laneResult s G d (each2 s a b f))
     gives (.vadd G d a b) (fun t x y => wrapInt t (int t x + int t y)) ∧
     gives (.vsub G d a b) (fun t x y => wrapInt t (int t x - int t y)) ∧
     gives (.vmul G d a b) (fun t x y => wrapInt t (int t x * int t y)) ∧
     gives (.vmulh G d a b) (fun t x y => wrapInt t (int t x * int t y / (2 ^ elemWidth t : Nat))) ∧
     gives (.vmin G d a b) (fun t x y => (if int t x < int t y then x else y, 0)) ∧
     gives (.vmax G d a b) (fun t x y => (if int t x < int t y then y else x, 0)) ∧
     gives (.vabsd G d a b) (fun t x y => ((int t x - int t y).natAbs, 0)) ∧
     gives (.vavg G d a b) (fun t x y => wrapInt t ((int t x + int t y + 1) / 2)) ∧
     gives (.vsll G d a b) (fun t x y => (if elemWidth t ≤ y then 0 else x * 2 ^ y % 2 ^ elemWidth t, 0)) ∧
     gives (.vsrl G d a b) (fun t x y => (if elemWidth t ≤ y then 0 else x / 2 ^ y, 0)) ∧
     gives (.vsra G d a b) (fun t x y => (shiftArith (elemWidth t) x y, 0)) ∧
     gives (.vadds G d a b) (fun t x y => clampElem t (int t x + int t y)) ∧
     gives (.vsubs G d a b) (fun t x y => clampElem t (int t x - int t y)) ∧
     gives (.vdiv G d a b) (fun t x y => (divElem t x y, 0)) ∧
     gives (.vrem G d a b) (fun t x y => (remElem t x y, 0))) ∧
  (∀ (s : State) (G : Guard) (d a b : VReg) (imm : BitVec 10) (cnt : BitVec 5),
     let int := elemInt
     let one := fun (i : Instr) (f : EType → Nat → Nat × Flags) => exec i s = .next (laneResult s G d (each1 s a f))
     let whole := fun (i : Instr) (f : Nat → Nat → Nat) => exec i s = .next (laneResult s G d fun _ L => (f (s.g.raw a L) (s.g.raw b L), 0))
     (LaneReady s G d false [a, b] anyType →
       whole (.vand G d a b) Nat.land ∧ whole (.vor G d a b) Nat.lor ∧ whole (.vxor G d a b) Nat.xor ∧
       whole (.vandn G d a b) (fun x y => x - Nat.land x y)) ∧
     (LaneReady s G d false [a] intType →
       one (.vpopc G d a) (fun t x => ((List.range (elemWidth t)).countP fun k => x.testBit k, 0)) ∧
       one (.vclz G d a) (fun t x => (clzOf (BitVec.ofNat (elemWidth t) x), 0)) ∧
       one (.vabs G d a) (fun t x => clampElem t ((int t x).natAbs : Int)) ∧
       one (.vaddi G d a imm) (fun t x => wrapInt t (int t x + imm.toInt)) ∧
       one (.vslli G d a cnt) (fun t x => (if elemWidth t ≤ cnt.toNat then 0 else x * 2 ^ cnt.toNat % 2 ^ elemWidth t, 0)) ∧
       one (.vsrli G d a cnt) (fun t x => (if elemWidth t ≤ cnt.toNat then 0 else x / 2 ^ cnt.toNat, 0)) ∧
       one (.vsrai G d a cnt) (fun t x => (shiftArith (elemWidth t) x cnt.toNat, 0))) ∧
     (LaneReady s G d true [a, b] intType →
       exec (.vmad G d a b) s = .next (laneResult s G d (each3 s a b d fun t x y z => wrapInt t (int t x * int t y + int t z)))) ∧
     (LaneReady s G d true [a, b] (fun t => t == 4 || t == 5) →
       exec (.vdot4 G d a b) s = .next (laneResult s G d fun t L =>
         (intBits 32 ((s.g.raw d L : Int) + dotBytes (signedType t) (s.g.raw a L) (s.g.raw b L)), 0))) ∧
     (LaneReady s G d false [] anyType →
       exec (.vmovi G d imm) s = .next (laneResult s G d fun t _ => perElem t fun _ => (immElem t s.g.round imm, 0)))) ∧
  (∀ (t : EType) (x y : Nat), x < 2 ^ elemWidth t → y < 2 ^ elemWidth t →
     let a := elemInt t x
     let b := elemInt t y
     (b = 0 → divElem t x y = 2 ^ elemWidth t - 1 ∧ remElem t x y = x) ∧
     (signedType t = true → a = -2 ^ (elemWidth t - 1) → b = -1 → divElem t x y = x ∧ remElem t x y = 0) ∧
     (b ≠ 0 → ¬(signedType t = true ∧ a = -2 ^ (elemWidth t - 1) ∧ b = -1) →
       elemInt t (divElem t x y) = Int.tdiv a b ∧ elemInt t (remElem t x y) = Int.tmod a b))

/-- The float instructions (R119, R120, R43): the exact operation on the decoded elements, rounded once under MD.ROUND and
MD.FTZ.

FEXP2 and FLOG2 deliver one of the two neighbours of an inexact result (R43): which of them is a free value, so the statement
holds for every choice; the instruction runs, and the next one meets other free values.

What a rounding gives (R40 to R42): a magnitude within the largest finite value becomes the format's value that the mode chooses, of the
same sign, INX set if and only if it differs; under FTZ a result below the smallest normal value is a zero of its sign with UNF and INX; a
magnitude beyond every finite one overflows by the mode, with OVF and INX. The sum, the product and the fused form of finite numbers are
rounded from the exact value, an exact zero sum of opposite signs being -0 under RDN alone; a NaN operand, and an invalid operation, give
the canonical NaN (R39), INV going with a signalling one and with the operation; a finite number other than zero divided by zero is an
infinity with no flag (R120). A quotient, a square root and its reciprocal are the exact real value rounded once (R43, R120); the two choices
of FEXP2 and FLOG2 are the neighbours of one value, which lies strictly between the powers of two, or the integers, that the exact result
lies between, and is the exact result where the argument is an integer, or a power of two (that the value itself is near enough is not
stated). FMIN and FMAX give the lesser and the greater operand, -0 below +0, and the other one beside a quiet NaN (R119). -/
def Obligations.VectorFloatResults : Prop :=
  (∀ (s : State) (G : Guard) (d a b : VReg),
     let z := s.g.ftz
     let r := s.g.round
     let num := fun (t : EType) (x : Nat) => (fmtOf t).decode z x
     let two := fun (i : Instr) (f : Fmt → Machine.Num → Machine.Num → Nat × Flags) =>
       exec i s = .next (laneResult s G d (each2 s a b fun t x y => f (fmtOf t) (num t x) (num t y)))
     let three := fun (i : Instr) (f : Fmt → Machine.Num → Machine.Num → Machine.Num → Nat × Flags) =>
       exec i s = .next (laneResult s G d (each3 s a b d fun t x y w => f (fmtOf t) (num t x) (num t y) (num t w)))
     let one := fun (i : Instr) (f : Fmt → Machine.Num → Nat × Flags) =>
       exec i s = .next (laneResult s G d (each1 s a fun t x => f (fmtOf t) (num t x)))
     (LaneReady s G d false [a, b] floatType →
       two (.fadd G d a b) (fun F x y => F.addNum r z x y) ∧ two (.fsub G d a b) (fun F x y => F.addNum r z x y.negate) ∧
       two (.fmul G d a b) (fun F x y => F.mulNum r z x y) ∧ two (.fdiv G d a b) (fun F x y => F.divNum r z x y) ∧
       exec (.fmin G d a b) s = .next (laneResult s G d (each2 s a b fun t x y => (fmtOf t).minMax false z x y)) ∧
       exec (.fmax G d a b) s = .next (laneResult s G d (each2 s a b fun t x y => (fmtOf t).minMax true z x y)) ∧
       exec (.fsgnj G d a b) s = .next (laneResult s G d (each2 s a b fun t x y =>
         (fmtOf t).withSign (field y ((fmtOf t).width - 1) 1 == 1) (num t x)))) ∧
     (LaneReady s G d true [a, b] floatType →
       three (.fma G d a b) (fun F x y w => F.fmaNum r z x y w) ∧ three (.fms G d a b) (fun F x y w => F.fmaNum r z x y w.negate) ∧
       three (.fnma G d a b) (fun F x y w => F.fmaNum r z x.negate y w)) ∧
     (LaneReady s G d false [a] floatType →
       one (.fabs G d a) (fun F x => F.withSign false x) ∧ one (.fneg G d a) (fun F x => F.withSign (!x.neg) x) ∧
       one (.fsqrt G d a) (fun F x => F.sqrtNum r z x) ∧ one (.frsq G d a) (fun F x => F.rsqrtNum r z x))) ∧
  (∀ (s : State) (G : Guard) (d a : VReg), LaneReady s G d false [a] floatType →
     let next : State := { s with tick := s.tick + 1 }
     ∃ up : Nat → Nat → Bool,
       exec (.fexp2 G d a) s = .next (laneResult next G d fun t L => perElem t fun j =>
         (fmtOf t).exp2Num s.g.round s.g.ftz (up L j) ((fmtOf t).decode s.g.ftz (elemAt t (s.g.raw a L) j))) ∧
       exec (.flog2 G d a) s = .next (laneResult next G d fun t L => perElem t fun j =>
         (fmtOf t).log2Num s.g.round s.g.ftz (up L j) ((fmtOf t).decode s.g.ftz (elemAt t (s.g.raw a L) j)))) ∧
  (∀ (t : EType) (r : Nat) (n : Bool) (m : Nat) (e : Int), r < 5 →
     let F := fmtOf t
     let y := numVal (.fin n m e)
     let x := F.round r false n m e
     let flushed := F.round r true n m e
     let v := numVal (F.decode false x.1)
     (|y| ≤ numVal (F.decode false (F.maxBits false)) →
       RoundedTo F r y x.1 ∧ (F.decode false x.1).neg = n ∧ (x.2 &&& flInx = 0 ↔ v = y) ∧
       (0 < |v| ∧ |v| < (2 : Rat) ^ F.emin → flushed = (F.signBit n, flUnf ||| flInx)) ∧
       (¬(0 < |v| ∧ |v| < (2 : Rat) ^ F.emin) → flushed = x)) ∧
     ((2 : Rat) ^ (F.emax + 1) ≤ |y| → x = flushed ∧ x.2 = flOvf ||| flInx ∧
       x.1 = if r = 1 ∨ (r = 2 ∧ n = true) ∨ (r = 3 ∧ n = false) then F.maxBits n else F.infBits n)) ∧
  (∀ (F : Fmt) (r : Nat) (z na nb nc : Bool) (ma mb mc : Nat) (ea eb ec : Int) (a b c : Machine.Num),
     let p : Machine.Num := .fin na ma ea
     let q : Machine.Num := .fin nb mb eb
     let w : Machine.Num := .fin nc mc ec
     let nan := fun (inv : Bool) => (F.nanBits, if inv then flInv else 0)
     (∃ n m e, F.addNum r z p q = F.round r z n m e ∧ numVal (.fin n m e) = numVal p + numVal q ∧
       (numVal p + numVal q = 0 → n = if na = nb then na else r == 3)) ∧
     (∃ m e, F.mulNum r z p q = F.round r z (na != nb) m e ∧ numVal (.fin (na != nb) m e) = numVal p * numVal q) ∧
     (∃ n m e, F.fmaNum r z p q w = F.round r z n m e ∧ numVal (.fin n m e) = numVal p * numVal q + numVal w) ∧
     (a.isNan = true ∨ b.isNan = true →
       F.addNum r z a b = nan (a.isSnan || b.isSnan) ∧ F.mulNum r z a b = nan (a.isSnan || b.isSnan) ∧
       F.divNum r z a b = nan (a.isSnan || b.isSnan) ∧ F.fmaNum r z a b c = nan (a.isSnan || b.isSnan || c.isSnan)) ∧
     (c.isNan = true → F.fmaNum r z p q c = nan c.isSnan ∧ F.sqrtNum r z c = nan c.isSnan ∧ F.rsqrtNum r z c = nan c.isSnan) ∧
     F.addNum r z (.inf na) (.inf (!na)) = nan true ∧ F.divNum r z (.inf na) (.inf nb) = nan true ∧
     F.mulNum r z (.inf na) (.fin nb 0 eb) = nan true ∧ F.fmaNum r z (.inf na) (.fin nb 0 eb) c = nan true ∧
     F.fmaNum r z (.fin nb 0 eb) (.inf na) c = nan true ∧
     (ma ≠ 0 → F.divNum r z p (.fin nb 0 eb) = (F.infBits (na != nb), 0) ∧ F.sqrtNum r z (.fin true ma ea) = nan true ∧
       F.rsqrtNum r z (.fin true ma ea) = nan true) ∧
     F.divNum r z (.fin na 0 ea) (.fin nb 0 eb) = nan true ∧ F.divNum r z p (.inf nb) = (F.signBit (na != nb), 0) ∧
     F.divNum r z (.inf na) q = (F.infBits (na != nb), 0) ∧ (mb ≠ 0 → F.divNum r z (.fin na 0 ea) q = (F.signBit (na != nb), 0)) ∧
     F.sqrtNum r z (.fin na 0 ea) = (F.signBit na, 0) ∧ F.sqrtNum r z (.inf na) = (if na then nan true else (F.infBits false, 0)) ∧
     F.rsqrtNum r z (.fin na 0 ea) = (F.infBits na, 0) ∧ F.rsqrtNum r z (.inf na) = (if na then nan true else (F.signBit false, 0))) ∧
  (∀ (t : EType) (r : Nat) (na nb : Bool) (ma mb : Nat) (ea eb : Int), r < 5 → ma ≠ 0 → mb ≠ 0 →
     let F := fmtOf t
     let p : Machine.Num := .fin na ma ea
     let q : Machine.Num := .fin nb mb eb
     let pos : Machine.Num := .fin false ma ea
     RoundsOnce F r (na != nb) ((numVal p / numVal q : Rat) : ℝ) (F.divNum r false p q) (F.divNum r true p q) ∧
     RoundsOnce F r false (Real.sqrt (numVal pos : Rat)) (F.sqrtNum r false pos) (F.sqrtNum r true pos) ∧
     RoundsOnce F r false (1 / Real.sqrt (numVal pos : Rat)) (F.rsqrtNum r false pos) (F.rsqrtNum r true pos) ∧
     (|numVal p| ≤ numVal (F.decode false (F.maxBits false)) →
       Neighbours F (numVal p) (F.roundWith 1 r false na ma ea) (F.roundWith 5 r false na ma ea))) ∧
  (∀ (t : EType) (r : Nat) (z : Bool) (n : Bool) (m : Nat) (e k : Int), r < 5 →
     let F := fmtOf t
     let p : Machine.Num := .fin n m e
     let x := numVal p
     let either := fun (up : Bool) (n : Bool) (m : Nat) (e : Int) => F.roundWith (if up then 5 else 1) r z n m e
     (x = k → |x| < 2 ^ 14 → ∀ up, F.exp2Num r z up p = either up false 1 k) ∧
     ((k : Rat) < x → x < k + 1 → |x| < 2 ^ 14 → ∃ m' e', (∀ up, F.exp2Num r z up p = either up false m' e') ∧
       (2 : Rat) ^ k < numVal (.fin false m' e') ∧ numVal (.fin false m' e') < (2 : Rat) ^ (k + 1)) ∧
     (2 ^ 14 ≤ x → ∀ up, F.exp2Num r z up p = F.round r z false 1 (F.emax + 2)) ∧
     (x ≤ -2 ^ 14 → ∀ up, F.exp2Num r z up p = either up false 1 (F.emin - F.fb - 3)) ∧
     (x = (2 : Rat) ^ k → ∀ up, F.log2Num r z up p = F.round r z (decide (k < 0)) k.natAbs 0) ∧
     ((2 : Rat) ^ k < x → x < (2 : Rat) ^ (k + 1) → ∃ n' m' e', (∀ up, F.log2Num r z up p = either up n' m' e') ∧
       (k : Rat) < numVal (.fin n' m' e') ∧ numVal (.fin n' m' e') < k + 1) ∧
     (∀ up, (x = 0 → F.log2Num r z up p = (F.infBits true, 0)) ∧ (x < 0 → F.log2Num r z up p = (F.nanBits, flInv)) ∧
       F.exp2Num r z up (.inf n) = (if n then (F.signBit false, 0) else (F.infBits false, 0)) ∧
       F.log2Num r z up (.inf n) = if n then (F.nanBits, flInv) else (F.infBits false, 0))) ∧
  (∀ (t : EType) (z : Bool) (x y : Nat),
     let F := fmtOf t
     let a := F.decode z x
     let b := F.decode z y
     let bits := fun (v : Machine.Num) => ((F.encode 0 false v).1, (0 : Flags))
     (x < 2 ^ F.width → (F.decode false x).isNan = false → bits (F.decode false x) = (x, 0)) ∧
     ∀ greater : Bool,
       (a.isSnan = true ∨ b.isSnan = true → F.minMax greater z x y = (F.nanBits, flInv)) ∧
       (a.isSnan = false → b.isSnan = false → a.isNan = true →
         F.minMax greater z x y = if b.isNan then (F.nanBits, 0) else bits b) ∧
       (a.isNan = false → b.isNan = true → b.isSnan = false → F.minMax greater z x y = bits a) ∧
       (a.isNan = false → b.isNan = false → ∃ c, (c = a ∨ c = b) ∧ F.minMax greater z x y = bits c ∧
         (a = .inf (!greater) ∨ b = .inf (!greater) → c = .inf (!greater)) ∧ (a = .inf greater → c = b) ∧ (b = .inf greater → c = a) ∧
         (a.isInf = false → b.isInf = false →
           (greater = false → numVal c ≤ numVal a ∧ numVal c ≤ numVal b ∧ (numVal a = numVal b → c.neg = (a.neg || b.neg))) ∧
           (greater = true → numVal a ≤ numVal c ∧ numVal b ≤ numVal c ∧ (numVal a = numVal b → c.neg = (a.neg && b.neg))))))

/-- Compares (R121): in each Active lane pd takes whether the condition holds of element 0 of the two sources, and pe takes its
complement, with the flags that FCMP sets. Select, move and broadcast (R122, R123). -/
def Obligations.CompareSelectMove : Prop :=
  ∀ (s : State) (G : Guard) (vc : VCond) (fc : FCond) (pd pe p : PReg) (d a b : VReg) (x : SReg),
    let m := s.g.active G
    let t := s.g.ety
    let cmp := fun (i : Instr) (f : Nat → Bool × Flags) =>
      exec i s = .next (s.retireWith (((s.g.setP pd m (maskOf fun L => bit m L && (f L).1)).setP pe m
        (~~~(maskOf fun L => bit m L && (f L).1))).orFlags (laneFlags m fun L => if bit m L then (f L).2 else 0)))
    (OperandsReady s [s.g.vOp a m, s.g.vOp b m] [s.g.vOp a m, s.g.vOp b m] intType [] [s.g.guardIdx G] →
      cmp (.vcmp G vc pd pe a b) fun L =>
        (vcondHolds vc (elemInt t (elemAt t (s.g.raw a L) 0)) (elemInt t (elemAt t (s.g.raw b L) 0)), 0)) ∧
    (OperandsReady s [s.g.vOp a m, s.g.vOp b m] [s.g.vOp a m, s.g.vOp b m] floatType [] [s.g.guardIdx G] →
      cmp (.fcmp G fc pd pe a b) fun L =>
        fcondHolds fc ((fmtOf t).decode s.g.ftz (elemAt t (s.g.raw a L) 0)) ((fmtOf t).decode s.g.ftz (elemAt t (s.g.raw b L) 0))) ∧
    (OperandsReady s (laneOps s G d false [a, b]) (laneOps s G d false [a, b]) anyType [] [s.g.guardIdx G, p] →
      exec (.vsel G d a b p) s = .next (laneResult s G d fun _ L => (if (s.g.pReg p).getLsbD L then s.g.raw a L else s.g.raw b L, 0))) ∧
    (LaneReady s G d false [a] anyType → exec (.vmov G d a) s = .next (laneResult s G d fun _ L => (s.g.raw a L, 0))) ∧
    (OperandsReady s (laneOps s G d false []) (laneOps s G d false []) anyType [x] [s.g.guardIdx G] →
      exec (.vbcast G d x) s = .next (laneResult s G d fun u _ => perElem u fun _ => ((s.g.sReg x).toNat, 0)))

/-- Shuffles (R129): each Active lane of vd takes the lane of va that the form names, any lane of LIVE among them; VEXTR, VINS and
VCOMPACT (R130, R131).

VRED (R132): the Active lanes of va combined by the binary tree of six levels, in which lane i takes in lane i + 2^k at level k, to every
Active lane of vd; VSCAN (R133): lane by lane the combination of the Active lanes so far, from left to right. The operations on two lanes are
those of R132, element by element but for the bitwise ones. -/
def Obligations.LaneMoves : Prop :=
  (∀ (s : State) (G : Guard) (d a b : VReg) (x y : SReg),
     let m := s.g.active G
     let k := (s.g.sReg x).toNat
     let sources := fun (src : Nat → Nat) => maskOf fun L => (lanesOf m).any fun j => src j == L
     let ready := fun (named : List Opnd) (ss : List SReg) => OperandsReady s named named anyType ss [s.g.guardIdx G]
     let shuffled := fun (i : Instr) (src : Nat → Nat) => exec i s = .next (s.retireWith (s.g.setRaw d m fun L => s.g.raw a (src L)))
     let pair := fun (src : Nat → Nat) => [s.g.vOp d 0, s.g.vOp a (sources src &&& s.g.live)]
     (let src := fun L => s.g.raw b L % 64
      ready (pair src ++ [s.g.vOp b m]) [] → shuffled (.shfl G d a b) src) ∧
     (let src := fun L => Nat.xor L (k % 64)
      ready (pair src) [x] → shuffled (.shflx G d a x) src) ∧
     (let src := fun L => if k ≤ L then L - k else L
      ready (pair src) [x] → shuffled (.shflu G d a x) src) ∧
     (let src := fun L => if L + k ≤ 63 then L + k else L
      ready (pair src) [x] → shuffled (.shfld G d a x) src) ∧
     (ready [s.g.vOp a (m &&& maskOf (· == k % 64))] [x] →
       exec (.vextr G y a x) s = .next (s.retireWith (s.g.setS y (if m.getLsbD (k % 64) then BitVec.ofNat 64 (s.g.raw a (k % 64)) else 0)))) ∧
     (ready [s.g.vOp d 0] [y, x] →
       exec (.vins G d y x) s = .next (s.retireWith (s.g.setRaw d (m &&& maskOf (· == k % 64)) fun _ => (s.g.sReg y).toNat))) ∧
     (ready [s.g.vOp d 0, s.g.vOp a m] [] →
       (m = 0 → exec (.vcompact G d a) s = .next s.retire) ∧
       (m ≠ 0 → exec (.vcompact G d a) s = .next (s.retireWith (s.g.setRaw d s.g.live fun L => ((lanesOf m).map (s.g.raw a)).getD L 0))))) ∧
  (∀ (s : State) (G : Guard) (d a : VReg) (f : RedOp),
     let m := s.g.active G
     OperandsReady s [s.g.vOp d 0, s.g.vOp a m] [s.g.vOp d 0, s.g.vOp a m] anyType [] [s.g.guardIdx G] →
     (let tree := treeReduce (redLane s.g f) 6 (tabList (fun L => if bit m L then some (s.g.raw a L) else none) 0 64) 0
      exec (.vred G d a f) s = .next (s.retireWith ((s.g.setRaw d m fun _ => tree.1.getD 0).orFlags tree.2))) ∧
     (let scan := scanLanes (redLane s.g f) none ((lanesOf m).map (s.g.raw a))
      exec (.vscan G d a f) s = .next (s.retireWith ((s.g.setRaw d m fun L => scan.1.getD ((lanesOf m).idxOf L) 0).orFlags scan.2)))) ∧
  (∀ (f : Nat → Nat → Nat × Flags) (x : Nat → Option Nat) (xs : List Nat) (acc : Option Nat),
     treeReduce f 6 (tabList x 0 64) 0 = treeOf f x 6 0 ∧
     (scanLanes f acc xs).1 = (prefixes f acc xs).map (fun r => r.1.getD 0) ∧
     ∀ k, (scanLanes f acc xs).2.getLsbD k = (prefixes f acc xs).any fun r => r.2.getLsbD k) ∧
  (∀ (g : Group) (x y : Nat),
     let t := g.ety
     let F := fmtOf t
     let each := fun (h : Nat → Nat → Nat × Flags) => perElem t fun j => h (elemAt t x j) (elemAt t y j)
     redLane g .and x y = (Nat.land x y, 0) ∧ redLane g .or x y = (Nat.lor x y, 0) ∧ redLane g .xor x y = (Nat.xor x y, 0) ∧
     (floatType g.typeCode = true →
       redLane g .add x y = each (fun p q => F.addNum g.round g.ftz (F.decode g.ftz p) (F.decode g.ftz q)) ∧
       redLane g .min x y = each (F.minMax false g.ftz) ∧ redLane g .max x y = each (F.minMax true g.ftz)) ∧
     (floatType g.typeCode = false →
       redLane g .add x y = each (fun p q => wrapInt t (elemInt t p + elemInt t q)) ∧
       redLane g .min x y = each (fun p q => (if elemInt t q < elemInt t p then q else p, 0)) ∧
       redLane g .max x y = each (fun p q => (if elemInt t p < elemInt t q then q else p, 0))))

/-- Conversions (R124, R125): CVT from MD.TYPE to the named format, CVT.FROM the other way, lane by lane into as many registers as
the target needs, vd a multiple of them; an empty format slot traps ILLEGAL_OPERAND with the slot.

QUANT and DEQ (R126, R51): the 32 values of each Active lane to codes and a scale, and back; a slot whose format is not allowed
traps ILLEGAL_OPERAND with the slot.

An element is converted as R51 has it: an integer is clamped, with SAT; a float becomes the integer that the mode chooses, clamped with SAT
and INV; the target float is rounded from the exact value; a narrow format takes its nearest finite code, the even one of two, with INX where it
differs and SAT beyond them all (for MXINT8 by log entry 25). QUANT takes the scale of least exact error of the three around the greatest element,
the larger of two, or the clamped one where none is a code (R53, R54); DEQ rounds the exact product. -/
def Obligations.Conversions : Prop :=
  (∀ (s : State) (G : Guard) (d a : VReg) (c : ConvCode) (el : Elem),
     let m := s.g.active G
     let runs := fun (i : Instr) (src tgt : Elem) =>
       let n := convRegs src tgt
       let wide := if src.width = 64 then 2 else 1
       let ops := [s.g.vSpanE d n false 0, s.g.vSpanE a wide false m]
       let lane := fun L => convLane src tgt s.g.round s.g.ftz (s.g.convSource src a L)
       OperandsReady s ops [vSpan a wide false m] anyType [] [s.g.guardIdx G] → d.toNat % n = 0 →
         exec i s = .next (s.retireWith ((s.g.setSpan d.toNat m (fun L => (lane L).1) n).orFlags (laneFlags m fun L => (lane L).2)))
     (s.convElem c = some el → runs (.cvt G d a c) (elemOf s.g.ety) el ∧ runs (.cvtFrom G d a c) el (elemOf s.g.ety)) ∧
     (s.convElem c = none → (∀ o ∈ [s.g.vSpanE d 1 false 0, s.g.vSpanE a 1 false 0], OperandFits s.g o) →
       exec (.cvt G d a c) s = .next (s.takeTrap ⟨.illegalOperand, BitVec.ofNat 64 (convIndex c), 0, [], none⟩) ∧
       exec (.cvtFrom G d a c) s = .next (s.takeTrap ⟨.illegalOperand, BitVec.ofNat 64 (convIndex c), 0, [], none⟩))) ∧
  (∀ (s : State) (G : Guard) (d a : VReg) (slot : BitVec 3),
     let m := s.g.active G
     let F := fmtOf s.g.ety
     let ready := fun (nd na : Nat) => OperandsReady s [vSpan d nd false 0, vSpan a na false m] [vSpan d nd false 0, vSpan a na false m]
       blockType [] [s.g.guardIdx G]
     let writes := fun (i : Instr) (f : Nat → Nat × Flags) (n : Nat) => ∃ g : Group, exec i s = .next (s.retireWith g) ∧
       (∀ L < 64, m.getLsbD L = true → ∀ r < n, d.toNat + r < 128 → g.lane (d.toNat + r) L = BitVec.ofNat 32 ((f L).1 / 2 ^ (32 * r))) ∧
       (∀ i L, (m.getLsbD L = false ∨ i < d.toNat ∨ d.toNat + n ≤ i) → g.lane i L = s.g.lane i L) ∧
       g.fl = s.g.fl ||| (laneFlags m fun L => (f L).2).zeroExtend 32
     (∀ el, blockElem false (s.slotWord slot) = some el → ready (codeSpan (some el)) s.g.valueSpan →
       writes (.quant G d a slot) (fun L =>
         let x := s.g.spanLane a.toNat L s.g.valueSpan
         let q := quantise el ((List.range 32).map fun i => F.decode false (field x (F.width * i) F.width))
         ((joinElems el.width (fun i => (q.2.1.getD i 0, 0)) 32).1 + q.1 * 2 ^ (32 * (codeSpan (some el) - 1)), q.2.2))
         (codeSpan (some el))) ∧
     (∀ el, blockElem true (s.slotWord slot) = some el → ready s.g.valueSpan (codeSpan (some el)) →
       writes (.deq G d a slot) (fun L =>
         let x := s.g.spanLane a.toNat L (codeSpan (some el))
         joinElems F.width (fun i => deqElem el F s.g.round s.g.ftz (field x (32 * (codeSpan (some el) - 1)) 8)
           (field x (el.width * i) el.width)) 32) s.g.valueSpan) ∧
     (blockElem false (s.slotWord slot) = none → ready 1 s.g.valueSpan →
       exec (.quant G d a slot) s = .next (s.takeTrap ⟨.illegalOperand, slot.zeroExtend 64, 0, [], none⟩)) ∧
     (blockElem true (s.slotWord slot) = none → ready s.g.valueSpan 1 →
       exec (.deq G d a slot) s = .next (s.takeTrap ⟨.illegalOperand, slot.zeroExtend 64, 0, [], none⟩))) ∧
  (∀ (src tgt : Elem) (mode : Nat) (ftz : Bool) (x : Nat),
     let lane := convLane src tgt mode ftz x
     let each := fun (j : Nat) => convert src tgt mode ftz (field x (src.width * j) src.width)
     lane.1 < 2 ^ (tgt.width * convCount src) ∧
     (∀ j < convCount src, field lane.1 (tgt.width * j) tgt.width = (each j).1 % 2 ^ tgt.width) ∧
     ∀ k, lane.2.getLsbD k = (List.range (convCount src)).any fun j => (each j).2.getLsbD k) ∧
  (∀ (src tgt : Elem) (mode : Nat) (ftz : Bool) (x : Nat), mode < 5 →
     let get := convert src tgt mode ftz x
     let v := src.decode false x
     convert src src mode ftz x = (x, 0) ∧
     (∀ a w b u, src = .int a w → tgt = .int b u → src ≠ tgt →
       let n := readInt a w x
       get = if n < intLo b u then (intBits u (intLo b u), flSat) else if intHi b u < n then (intBits u (intHi b u), flSat) else (intBits u n, 0)) ∧
     (∀ b u, tgt = .int b u → (∀ a w, src ≠ .int a w) →
       (v.isNan = true → get = (0, flInv)) ∧
       (∀ n, v = .inf n → get = (intBits u (if n then intLo b u else intHi b u), flSat ||| flInv)) ∧
       (v.isNan = false → v.isInf = false → ∃ k, RoundedInt mode (numVal v) k ∧
         get = if k < intLo b u then (intBits u (intLo b u), flSat ||| flInv) else if intHi b u < k then (intBits u (intHi b u), flSat ||| flInv)
           else (intBits u k, if (k : Rat) = numVal v then 0 else flInx))) ∧
     (∀ F, tgt = .ieee F → src ≠ tgt → ∀ n m e, src.decode ftz x = .fin n m e → get = F.round mode ftz n m e) ∧
     (tgt = .e2m1 ∨ tgt = .e4m3 ∨ tgt = .e5m2 ∨ tgt = .c8 ∨ tgt = .mx8 → src ≠ tgt → v.isNan = false → v.isInf = false →
       let y := numVal v
       let code := fun (p : Nat) => p < 2 ^ tgt.width ∧ (tgt.value p).isNan = false ∧ (tgt.value p).isInf = false ∧ (tgt = .mx8 → p ≠ 0x80)
       let u := fun (p : Nat) => numVal (tgt.value p)
       code get.1 ∧ (∀ p, code p → |u get.1 - y| ≤ |u p - y| ∧ (u p ≠ u get.1 → |u get.1 - y| = |u p - y| → get.1 % 2 = 0)) ∧
       (get.2 &&& flInx = 0 ↔ u get.1 = y) ∧ (tgt ≠ .mx8 → (get.2 &&& flSat ≠ 0 ↔ ∀ p, code p → |u p| < |y|)) ∧ 0 ≤ u get.1 * y)) ∧
  (∀ (T : Elem) (xs : List Machine.Num), T = .e4m3 ∨ T = .e2m1 ∨ T = .c8 ∨ T = .mx8 →
     let finite := ∀ x ∈ xs, x.isNan = false ∧ x.isInf = false
     let at' := fun (s : Int) => xs.map fun x => T.encode 0 false (x.scale (-s))
     let err := fun (s : Int) => ((xs.zip (at' s)).map fun p => (numVal p.1 - numVal (T.value p.2.1) * (2 : Rat) ^ s) ^ 2).sum
     let gives := fun (s : Int) => quantise T xs = ((s + 127).toNat, (at' s).map (·.1), ((at' s).map (·.2)).foldl (· ||| ·) 0)
     (¬finite → quantise T xs = (0xFF, xs.map fun _ => 0, flInv)) ∧
     (finite → (∀ x ∈ xs, numVal x = 0) → quantise T xs = (0x7F, (at' 0).map (·.1), 0)) ∧
     (finite → ∀ top : Int, (∃ x ∈ xs, (2 : Rat) ^ top ≤ |numVal x|) → (∀ x ∈ xs, |numVal x| < (2 : Rat) ^ (top + 1)) →
       let base := top - quantBinade T
       let candidate := fun (s : Int) => base - 1 ≤ s ∧ s ≤ base + 1 ∧ -127 ≤ s ∧ s ≤ 127
       ((∃ s, candidate s) → ∃ s, candidate s ∧ gives s ∧ ∀ r, candidate r → err s ≤ err r ∧ (err s = err r → r ≤ s)) ∧
       (127 < base - 1 → gives 127) ∧ (base + 1 < -127 → gives (-127)))) ∧
  quantBinade .e4m3 = 8 ∧ quantBinade .e2m1 = 2 ∧ quantBinade .c8 = 1 ∧ quantBinade .mx8 = 0 ∧
  (∀ (el : Elem) (F : Fmt) (mode : Nat) (ftz : Bool) (scale code : Nat),
     let v := el.value code
     let get := deqElem el F mode ftz scale code
     (scale = 255 ∨ v.isNan = true → get = (F.nanBits, flScaleNan)) ∧
     (scale ≠ 255 → ∀ n, v = .inf n → get = (F.infBits n, 0)) ∧
     (scale ≠ 255 → v.isNan = false → v.isInf = false → ∃ n m e, get = F.round mode ftz n m e ∧ n = v.neg ∧
       numVal (.fin n m e) = numVal v * (2 : Rat) ^ ((scale : Int) - 127)))

/-- The frame of the lane-wise instructions (R16, R22, R113): of the registers only the destination changes, in the Active lanes
alone; flags are only set, and only the seven of FL[6:0]; no other register, no mode bit and no byte of memory changes. -/
def Obligations.LaneFrame : Prop :=
  ∀ (i : Instr) (x : LaneForm) (s : State), laneForm i = some x →
    OperandsReady s (laneOps s x.guard x.d x.readsD x.srcs) (laneOps s x.guard x.d x.readsD x.srcs) x.accepts x.ss
      (s.g.guardIdx x.guard :: x.ps) →
    s.g.glyph = none → ∃ t, exec i s = .next t ∧ t = { s with g := t.g, tick := t.tick } ∧ t.g.pc = pcOf (s.g.pc + 4) ∧
      (∀ k L, ((s.g.active x.guard).getLsbD L = false ∨ k < x.d.toNat ∨ x.d.toNat + (if s.g.wide then 2 else 1) ≤ k) →
        t.g.lane k L = s.g.lane k L) ∧
      (∀ k, s.g.fl.getLsbD k = true → t.g.fl.getLsbD k = true) ∧ (∀ k, 7 ≤ k → t.g.fl.getLsbD k = s.g.fl.getLsbD k) ∧
      t.g = { s.g with v := t.g.v, fl := t.g.fl, bad := t.g.bad, pc := t.g.pc, alReads := [], peerData := none, fetched := none,
                       kept := [] }

/-! ### Memory -/

/-- LD, ST and LDK (R88, R89): the address s[sa] + imm12; one at or above 2^55 traps ACCESS_FAULT and one that is no multiple of 8
traps MISALIGNED, with the address; once its translation and what it reads are settled the access is done and the instruction
retires; a hit in the constant cache merges the line's update-only copies (R251) and gives the word that the cache holds.

What they do to memory in a calm state, at a page of HOME 1 or more under a slot without encryption (R5, R88, R89): LD, and LDK
where the constant cache holds no word of it, give the 8 bytes at its location as a little-endian number; ST stores its register's 8
bytes there, and every other byte of memory reads as before. -/
def Obligations.ScalarAccesses : Prop :=
  (∀ (s : State) (d a : SReg) (imm : BitVec 12),
     let ea := s.g.sReg a + imm.signExtend 64
     let traps := fun (c : Cause) => .next (s.takeTrap ⟨c, ea, 0, [], none⟩)
     (s.sound [] [a] [] = .ok () →
       (2 ^ 55 ≤ ea.toNat → exec (.ld d a imm) s = traps .accessFault ∧ exec (.ldk d a imm) s = traps .accessFault) ∧
       (ea.toNat < 2 ^ 55 → ea.toNat % 8 ≠ 0 → exec (.ld d a imm) s = traps .misaligned ∧ exec (.ldk d a imm) s = traps .misaligned) ∧
       (ea.toNat < 2 ^ 55 → ea.toNat % 8 = 0 → ∀ ps vals t, s.xlatParts .read true [(0, ea.toNat, 8, 0)] = .ok ps →
         s.loadParts true ps = .ok (vals, t) →
         exec (.ld d a imm) s = .next (t.retireWith (t.g.setS d (BitVec.ofNat 64 (laneValue vals 0)))) ∧
         (ps.filterMap s.partObj = [] → s.core.constWord ps = none →
           exec (.ldk d a imm) s = .next (t.retireWith (t.g.setS d (BitVec.ofNat 64 (laneValue vals 0))))) ∧
         (ps.filterMap s.partObj = [] → ∀ x, s.core.constWord ps = some x →
           let merged := ((ps.map Part.lines).flatten).foldl State.mergeCopies s
           exec (.ldk d a imm) s = .next (merged.retireWith (merged.g.setS d x))))) ∧
     (s.sound [] [d, a] [] = .ok () →
       (2 ^ 55 ≤ ea.toNat → exec (.st d a imm) s = traps .accessFault) ∧
       (ea.toNat < 2 ^ 55 → ea.toNat % 8 ≠ 0 → exec (.st d a imm) s = traps .misaligned) ∧
       (ea.toNat < 2 ^ 55 → ea.toNat % 8 = 0 → ∀ ps, s.xlatParts .write true [(0, ea.toNat, 8, 0)] = .ok ps →
         s.objStores true ps = .ok () → s.versionWrites ps = .ok () →
         exec (.st d a imm) s = .next (s.storeParts ps 8 fun _ => (s.g.sReg d).toNat).retire))) ∧
  (∀ (s : State) (d a : SReg) (imm : BitVec 12) (p : Part) (loc : Nat), Calm s → s.g.bad = [] →
     let ea := s.g.sReg a + imm.signExtend 64
     ea.toNat < 2 ^ 55 → ea.toNat % 8 = 0 → p.x.site = .mem loc → p.len = 8 → p.off = 0 → p.lane = 0 → p.x.home ≠ 0 →
     (s.keySlot p.x.key).xts = false →
     let read := fun (i : Instr) => ∃ t, exec i s = .next t ∧ RowsOnly s t ∧
       t = { s with g := (s.g.setS d (BitVec.ofNat 64 (memNat s loc 8))).retire, cols := t.cols }
     (s.xlatParts .read true [(0, ea.toNat, 8, 0)] = .ok [p] → read (.ld d a imm) ∧
       (s.core.constWord [p] = none → read (.ldk d a imm))) ∧
     (s.xlatParts .write true [(0, ea.toNat, 8, 0)] = .ok [p] →
       ∃ t, exec (.st d a imm) s = .next t ∧ t.g = s.g.retire ∧ RowsOnly s t ∧ memNat t loc 8 = (s.g.sReg d).toNat ∧
         ∀ b, b < loc ∨ loc + 8 ≤ b → memByte t b = memByte s b))

/-- SPLD, VTLD and SLLD in a calm state (R135 to R139): each Active lane of vd takes the little-endian bytes at its place in the
team's scratchpad, its column's vault window or its slice scratch, short values zero-extended; with no Active lane nothing happens;
memory does not change.

SPST, VTST and SLST in a calm state (R135 to R139): each Active lane stores the low bytes of its register at its place, the
highest lane last; every other byte of memory reads as before, no register changes, and the instruction retires. -/
def Obligations.LocalAccesses : Prop :=
  (∀ (s : State) (sp : Space) (G : Guard) (d a : VReg) (b : SReg) (sz : Size) (i : Instr),
     (sp = .scratch ∧ i = .spld G d a b sz) ∨ (sp = .vault ∧ i = .vtld G d a b sz) ∨ (sp = .slice ∧ i = .slld G d a b sz) →
     let m := s.g.active G
     let size := sizeBytes sz
     MemOperandsReady s m (s.g.memNamed d a size) [vSpan a 1 false m] anyType [b] [s.g.guardIdx G] →
     (m = 0 → exec i s = .next s.retire) ∧
     (m ≠ 0 → Calm s → s.col.fenced = false → (s.keySlot (Config.vaultKey s.ctxId.val)).xts = false →
       InSpace s sp m (laneEa s b a) size →
       ∃ t, exec i s = .next t ∧ RowsOnly s t ∧ (sp ≠ .vault → t.cols = s.cols) ∧ t = { s with
         g := (s.g.putLoad d m size fun L => memNat s (localLoc s sp (laneEa s b a L)) size).retire, cols := t.cols })) ∧
  (∀ (s : State) (sp : Space) (G : Guard) (d a : VReg) (b : SReg) (sz : Size) (i : Instr),
     (sp = .scratch ∧ i = .spst G d a b sz) ∨ (sp = .vault ∧ i = .vtst G d a b sz) ∨ (sp = .slice ∧ i = .slst G d a b sz) →
     let m := s.g.active G
     let size := sizeBytes sz
     let at' := fun L => localLoc s sp (laneEa s b a L)
     MemOperandsReady s m (s.g.memNamed d a size) [vSpan d (sizeRegs size) false m, vSpan a 1 false m] anyType [b] [s.g.guardIdx G] →
     (m = 0 → exec i s = .next s.retire) ∧
     (m ≠ 0 → Calm s → s.col.fenced = false → (s.keySlot (Config.vaultKey s.ctxId.val)).xts = false →
       InSpace s sp m (laneEa s b a) size →
       ∃ t, exec i s = .next t ∧ RowsOnly s t ∧ (sp ≠ .vault → t.cols = s.cols) ∧ t = { s with
           g := s.g.retire, cols := t.cols
           mem := { s.mem with cells := t.mem.cells, cipherBlocks := t.mem.cipherBlocks, releasers := t.mem.releasers, olds := t.mem.olds } } ∧
         (sp ≠ .scratch → t.mem.olds = []) ∧
         (∀ L < 64, m.getLsbD L = true → ∀ k < size,
           (∀ M < 64, L < M → m.getLsbD M = true → at' L + k < at' M ∨ at' M + size ≤ at' L + k) →
           memByte t (at' L + k) = BitVec.ofNat 8 (s.g.storeValue d size L / 256 ^ k)) ∧
         ∀ x, (∀ L < 64, m.getLsbD L = true → x < at' L ∨ at' L + size ≤ x) → memByte t x = memByte s x))

/-- VLD, VST, VLDC and VSTC (R135 to R139, R143) once the translation of every lane and what they read are settled: a load writes
the Active lanes, a store writes memory in ascending lane order; with no Active lane nothing happens; a base of VLDC or VSTC that is no multiple of the element size
traps MISALIGNED; PREF changes no register and no byte of memory (R144) and retires, an odd va under f64 too (log entry 116). -/
def Obligations.GlobalVectorAccesses : Prop :=
  ∀ (s : State) (G : Guard) (d a : VReg) (b : SReg) (sz : Size) (imm : BitVec 11) (sp : PrefSpace),
    let m := s.g.active G
    let size := sizeBytes sz
    let lanes := (lanesOf m).map fun L => (L, (laneEa s b a L) % 2 ^ 64)
    let e := if s.g.wide then 8 else 4
    let row := s.g.sReg b + BitVec.ofNat 64 e * imm.signExtend 64
    let rowLanes := (lanesOf m).map fun L => (L, (row.toNat + e * L) % 2 ^ 64)
    (m ≠ 0 → ∀ ps,
      (MemOperandsReady s m (s.g.memNamed d a size) [vSpan a 1 false m] anyType [b] [s.g.guardIdx G] →
        s.spaceParts .global .read size lanes = .ok ps → ∀ vals t, s.loadParts false ps = .ok (vals, t) →
        exec (.vld G d a b sz) s = .next (t.retireWith (t.g.putLoad d m size (laneValue vals)))) ∧
      (MemOperandsReady s m (s.g.memNamed d a size) [vSpan d (sizeRegs size) false m, vSpan a 1 false m] anyType [b] [s.g.guardIdx G] →
        s.spaceParts .global .write size lanes = .ok ps → s.objStores false ps = .ok () → s.versionWrites ps = .ok () →
        exec (.vst G d a b sz) s = .next (s.storeParts ps size (s.g.storeValue d size)).retire) ∧
      (MemOperandsReady s m [s.g.vOp d 0] [] anyType [b] [s.g.guardIdx G] →
        (row.toNat % e ≠ 0 → exec (.vldc G d b imm) s = .next (s.takeTrap ⟨.misaligned, row, m, [], none⟩)) ∧
        (row.toNat % e = 0 → s.spaceParts .global .read e rowLanes = .ok ps → ∀ vals t, s.loadParts false ps = .ok (vals, t) →
          exec (.vldc G d b imm) s = .next (t.retireWith (t.g.putLoad d m e (laneValue vals))))) ∧
      (MemOperandsReady s m [s.g.vOp d 0] [s.g.vOp d m] anyType [b] [s.g.guardIdx G] →
        (row.toNat % e ≠ 0 → exec (.vstc G d b imm) s = .next (s.takeTrap ⟨.misaligned, row, m, [], none⟩)) ∧
        (row.toNat % e = 0 → s.spaceParts .global .write e rowLanes = .ok ps → s.objStores false ps = .ok () →
          s.versionWrites ps = .ok () → exec (.vstc G d b imm) s = .next (s.storeParts ps e (s.g.storeValue d e)).retire))) ∧
    (m = 0 →
      (MemOperandsReady s m (s.g.memNamed d a size) [vSpan a 1 false m] anyType [b] [s.g.guardIdx G] →
        exec (.vld G d a b sz) s = .next s.retire) ∧
      (MemOperandsReady s m (s.g.memNamed d a size) [vSpan d (sizeRegs size) false m, vSpan a 1 false m] anyType [b] [s.g.guardIdx G] →
        exec (.vst G d a b sz) s = .next s.retire) ∧
      (MemOperandsReady s m [s.g.vOp d 0] [] anyType [b] [s.g.guardIdx G] → exec (.vldc G d b imm) s = .next s.retire) ∧
      (MemOperandsReady s m [s.g.vOp d 0] [s.g.vOp d m] anyType [b] [s.g.guardIdx G] → exec (.vstc G d b imm) s = .next s.retire)) ∧
    (MemOperandsReady s 0 [s.g.vOp a 0] [vSpan a 1 false m] anyType [b] [s.g.guardIdx G] → Calm s →
      ∃ t, exec (.pref G a b sp) s = .next t ∧ t.g = s.g.retire ∧ t.others = s.others ∧ t.teams = s.teams ∧ ∀ x, memByte t x = memByte s x)

/-- A store puts its bytes where it says and nowhere else, under a slot without encryption and where no sector is poisoned: a read
of memory after a write (R5, R356). -/
def Obligations.ReadAfterWrite : Prop :=
  ∀ (m : Memory) (k : KeySlot) (loc : Nat) (bs : List Byte) (a : Nat), k.xts = false → m.poison = [] → m.dead = none →
    cellsGet (m.store k loc bs).base (m.store k loc bs).cells a =
      if loc ≤ a ∧ a < loc + bs.length then bs.getD (a - loc) 0 else cellsGet m.base m.cells a

/-- The vector atomics and the reductions (R146 to R153), once their lanes' translations, the ordering and what they wait for are
settled: AMOV and CASV write the old values to the Active lanes of vd, REDV writes no register; with no Active lane nothing
happens.

The scalar atomics in a calm state with a relaxed order (R147 to R151, R153), at a page of HOME 1 or more under a slot without
encryption: AMOS gives the old word and stores the result of its operation; CASS stores s[sd + 1] where the old word equals s[sd]
and gives the old word, and with an odd sd traps ILLEGAL_OPERAND; every other byte of memory reads as before. -/
def Obligations.Atomics : Prop :=
  (∀ (s : State) (G : Guard) (d a : VReg) (sc : Scope) (od : Order) (f : AOp),
     let m := s.g.active G
     let e := if s.g.wide then 8 else 4
     let ready := fun (dOp : Opnd) (accepts : Nat → Bool) =>
       MemOperandsReady s m [dOp, vSpan a 2 true m] [dOp, vSpan a 2 true m] accepts [] [s.g.guardIdx G]
     (ready (s.g.vOp d m) amovType →
       (m = 0 → exec (.amov G d a sc od f) s = .next s.retire) ∧
       (m ≠ 0 → ∀ ps vals t, s.atomParts e (s.g.pairAddrs m a) = .ok ps →
         s.returning false e ps sc od (fun L old => some (aopApply false s.g.ety f old (s.g.raw d L))) = .ok (vals, t) →
         exec (.amov G d a sc od f) s = .next (t.retireWith (t.g.setRaw d m (laneValue vals))))) ∧
     (ready (vSpan d 2 true m) casvType →
       (m = 0 → exec (.casv G d a sc od) s = .next s.retire) ∧
       (m ≠ 0 → ∀ ps vals t, s.atomParts 4 (s.g.pairAddrs m a) = .ok ps →
         s.returning false 4 ps sc od (fun L old =>
           if old = (s.g.lane d.toNat L).toNat then some (s.g.lane (d.toNat + 1) L).toNat else none) = .ok (vals, t) →
         exec (.casv G d a sc od) s = .next (t.retireWith (t.g.setV d.toNat m fun L => BitVec.ofNat 32 (laneValue vals L))))) ∧
     (ready (s.g.vOp d m) redvType →
       (m = 0 → exec (.redv G d a sc od f) s = .next s.retire) ∧
       (m ≠ 0 → ∀ ps t, s.atomParts e (s.g.pairAddrs m a) = .ok ps →
         s.reducing false e ps sc od s.g.ety f (s.g.raw d) = .ok t → exec (.redv G d a sc od f) s = .next t.retire))) ∧
  (∀ (s : State) (d a : SReg) (sc : Scope) (f : AOp) (p : Part) (loc : Nat), Calm s → s.g.bad = [] →
     let ea := s.g.sReg a
     ea.toNat < 2 ^ 55 → ea.toNat % 8 = 0 → p.x.site = .mem loc → p.len = 8 → p.off = 0 → p.lane = 0 → p.x.home ≠ 0 →
     (s.keySlot p.x.key).xts = false → s.xlatParts .write true [(0, ea.toNat, 8, 0)] = .ok [p] →
     let old := memNat s loc 8
     let gives := fun (i : Instr) (x : Nat) => ∃ t, exec i s = .next t ∧ t.g = (s.g.setS d (BitVec.ofNat 64 old)).retire ∧
       memNat t loc 8 = x % 2 ^ 64 ∧ ∀ b, b < loc ∨ loc + 8 ≤ b → memByte t b = memByte s b
     gives (.amos d a sc .relaxed f) (aopApply true .i32 f old (s.g.sReg d).toNat) ∧
     (d.toNat % 2 = 0 → gives (.cass d a sc .relaxed) (if old = (s.g.sReg d).toNat then (s.g.sReg (d + 1)).toNat else old)) ∧
     (d.toNat % 2 = 1 → exec (.cass d a sc .relaxed) s = .next (s.takeTrap ⟨.illegalOperand, d.zeroExtend 64, 0, [], none⟩)))

/-- REDS, LDA, STRL, FENCE and FENCEO (R152 to R156), once translation, marks and the release they make are settled. A release sends on what
its scope names, and the instruction is held until all of it is performed (R155, R261); then the marks of its core widen (R262).

In a calm state with no write on its way to HBM, at a page of HOME 1 or more under a slot without encryption: LDA gives the 8 bytes at its
location, STRL stores its register's 8 bytes there and no other byte, which the model does at once, as it does every write to a home beyond
the core (log entry 105; below column scope log entry 29); REDS leaves its operation in the combining buffer of its core, where R152 lets it
rest: that it always does is the model's reading (log entry 42); FENCE and FENCEO change no byte of memory (FENCEO: log entry 30); each
retires. -/
def Obligations.OrderedAccesses : Prop :=
  (∀ (s : State) (d a : SReg) (sc : Scope) (od : Order) (f : AOp) (ps : List Part),
    let ea := s.g.sReg a
    let sent := s.sendOn s.g.core sc
    (ReleaseReady s sc → s.releaseFirst sc = .ok (s.release sc)) ∧
    (s.team.version = none → sent.performedBy s.g.core sc = false → s.g.imprecise = none → orderReleases od = true →
      exec (.fence sc od) s = .next sent.stallHere) ∧
    (ea.toNat < 2 ^ 55 → ea.toNat % 8 = 0 → s.g.bad = [] →
      (s.xlatParts .write true [(0, ea.toNat, 8, 0)] = .ok ps →
        (∀ t, s.reducing true 8 ps sc od .i32 f (fun _ => (s.g.sReg d).toNat) = .ok t → exec (.reds d a sc od f) s = .next t.retire) ∧
        (s.objStores true ps = .ok () → s.versionWrites ps = .ok () → ∀ t, s.releasePart sc od = .ok t →
          exec (.strl d a sc od) s = .next (((ps.foldl (fun (v : State) p => v.storeRelease sc od p (s.g.sReg d))
            ((t.settle t.g.core ps).activate ps)).orderEnds sc od ps).retire))) ∧
      (s.xlatParts .read true [(0, ea.toNat, 8, 0)] = .ok ps → s.markCheck s.me (partLines ps) = .ok () → s.scWaits od = .ok () →
        ∀ vals t, (s.acquireRead sc ps).loadParts true ps = .ok (vals, t) →
        exec (.lda d a sc od) s = .next (t.retireWith (t.g.setS d (BitVec.ofNat 64 (laneValue vals 0)))))) ∧
    (s.g.imprecise = none → ∀ t, s.releasePart sc od = .ok t →
      exec (.fence sc od) s = .next (if orderAcquires od then t.acquire sc else t).retire) ∧
    (∀ va, s.g.imprecise = some va → exec (.fence sc od) s = .next (s.takeTrap ⟨.impreciseStore, va, 0, [], none⟩)) ∧
    (exec .fenceo s = .next ((s.drainComb s.g.core fun _ => true).fenceScratch.retire) ∧ (Calm s → exec .fenceo s = .next s.retire)) ∧
    (∀ o ∈ s.fenceScratch.mem.olds, o.team = s.g.team → o.acquired.contains s.g.index = true → o.fenced.contains s.g.index = true)) ∧
  (∀ (s : State) (d a : SReg) (sc : Scope) (od : Order) (f : AOp) (p : Part) (loc : Nat), Calm s → s.mem.writes = [] → s.g.bad = [] →
    let ea := s.g.sReg a
    let same := fun (t : State) => ∀ b, memByte t b = memByte s b
    (s.g.imprecise = none → ∃ t, exec (.fence sc od) s = .next t ∧ t.g = s.g.retire ∧ same t) ∧
    (ea.toNat < 2 ^ 55 → ea.toNat % 8 = 0 → p.x.site = .mem loc → p.len = 8 → p.off = 0 → p.lane = 0 → p.x.home ≠ 0 →
      (s.keySlot p.x.key).xts = false →
      (s.xlatParts .read true [(0, ea.toNat, 8, 0)] = .ok [p] → ∃ t, exec (.lda d a sc od) s = .next t ∧
        t.g = (s.g.setS d (BitVec.ofNat 64 (memNat s loc 8))).retire ∧ same t) ∧
      (s.xlatParts .write true [(0, ea.toNat, 8, 0)] = .ok [p] →
        (∃ t, exec (.strl d a sc od) s = .next t ∧ t.g = s.g.retire ∧ memNat t loc 8 = (s.g.sReg d).toNat ∧
          ∀ b, b < loc ∨ loc + 8 ≤ b → memByte t b = memByte s b) ∧
        (∃ t e, exec (.reds d a sc od f) s = .next t ∧ t.g = s.g.retire ∧ same t ∧ (t.cores.get s.g.core).comb = [e] ∧
          e.loc = loc ∧ e.size = 8 ∧ e.op = f ∧ e.scalar = true ∧ e.val = s.g.sReg d ∧ e.who = s.origin))))

/-! ### Allowances -/

/-- ALINIT, ALTAKE, ALTAKEV, ALGIVE, ALREAD and ALFREE (R157 to R163, R269 to R272) on an object whose address passes the checks: ALINIT of
a new object on a line that no lease and no host copy holds registers it and gives 0, or 2 when 8,192 are registered; on one that holds an
object it asks the home, which answers 1; an initial value, a batch or a cap out of its range traps (that a batch above the cap names sb + 2 is
the model's choice, log entry 129); a take that the column's units cover gives 1 and spends them, any other asks the home; n = 0 gives 1
without a message; a give that the entry can hold gives n, any other sends the home what it cannot hold; ALREAD and ALFREE ask the home and
wait.

An address that R157 does not allow traps in each of them, ALTAKEV with an Active lane among them, with TADDR = the address: MISALIGNED,
ACCESS_FAULT beyond 2^55 or where the translation fails otherwise than recoverably, AL_PLACEMENT on a page of another home, at a place that
is not main memory, and on another context's object (log entries 31 and 32), and AL_UNREGISTERED, but for ALINIT, where no object is. -/
def Obligations.AllowanceInstructions : Prop :=
  ∀ (s : State) (G : Guard) (d a b : SReg) (p : PReg) (v : VReg), s.g.bad = [] →
    let A := s.g.sReg a
    let n := (s.g.sReg b).toNat
    (∀ line key, s.alAddress A = .ok (line, key) → b.toNat ≤ 61 →
      let batch := (s.g.sReg (b + 1)).toNat
      let cap := (s.g.sReg (b + 2)).toNat
      let refuses := fun (k : Nat) => exec (.alinit d a b) s = .next (s.takeTrap ⟨.illegalOperand, BitVec.ofNat 64 (b.toNat + k), 0, [], none⟩)
      (2 ^ 63 ≤ n → refuses 0) ∧ (n < 2 ^ 63 → batch = 0 → refuses 1) ∧
      (n < 2 ^ 63 → 1 ≤ batch → (cap < batch ∨ 2 ^ 32 ≤ cap) → refuses 2) ∧
      (n < 2 ^ 63 → 1 ≤ batch → batch ≤ cap → cap < 2 ^ 32 → ∀ o, s.objOf line = some o →
        exec (.alinit d a b) s = .next (s.alWaits line A .init (.init d))) ∧
      (n < 2 ^ 63 → 1 ≤ batch → batch ≤ cap → cap < 2 ^ 32 → s.objOf line = none →
        (8192 ≤ s.objs.length → exec (.alinit d a b) s = .next (s.retireWith (s.g.setS d 2))) ∧
        (s.objs.length < 8192 → s.holdOf line = none →
          let u := (s.dropPlaces (some s.origin) none [line]).purgeLine line
          ∃ t, exec (.alinit d a b) s = .next t ∧ t.objs = u.objs ++ [⟨line, s.ctxId, n, batch, cap, .normal, []⟩] ∧
            t.g = (u.g.setS d 0).retire))) ∧
    (61 < b.toNat → exec (.alinit d a b) s = .next (s.takeTrap ⟨.illegalOperand, b.zeroExtend 64, 0, [], none⟩)) ∧
    (let m := s.g.active G
     let x := s.groupXlat A.toNat 128 .readWrite
     let takes := fun (t : Trap) =>
       exec (.altake d a b) s = .next (s.takeTrap t) ∧ exec (.algive d a b) s = .next (s.takeTrap t) ∧
       exec (.alread d a) s = .next (s.takeTrap t) ∧ exec (.alfree d a) s = .next (s.takeTrap t) ∧
       (OperandsReady s [vSpan v 1 false m] [vSpan v 1 false m] anyType [a] [s.g.guardIdx G] → m ≠ 0 →
         exec (.altakev G p v a) s = .next (s.takeTrap t))
     let each := fun (t : Trap) => takes t ∧ (b.toNat ≤ 61 → exec (.alinit d a b) s = .next (s.takeTrap t))
     (A.toNat % 128 ≠ 0 → each ⟨.misaligned, A, 0, [], none⟩) ∧
     (A.toNat % 128 = 0 → 2 ^ 55 ≤ A.toNat → each ⟨.accessFault, A, 0, [], none⟩) ∧
     (A.toNat % 128 = 0 → A.toNat < 2 ^ 55 →
       (∀ c incs, x = .error (.fault c incs) → each ⟨.accessFault, A, 0, incs, none⟩) ∧
       (∀ y, x = .ok y → ((∀ loc, y.site ≠ .mem loc) ∨ 1 < y.home) → each ⟨.alPlacement, A, 0, [], none⟩) ∧
       (∀ y loc, x = .ok y → y.site = .mem loc → y.home ≤ 1 →
         (∀ o, s.objOf (loc / 128) = some o → o.ctx ≠ s.ctxId → each ⟨.alPlacement, A, 0, [], none⟩) ∧
         (s.objOf (loc / 128) = none → takes ⟨.alUnregistered, A, 0, [], none⟩)))) ∧
    (∀ (t : State) (o : AlObject) (r : AlReq) (rest : List AlReq), r.kind = .init → t.drainOne o r rest =
      (t.modObj o.obj fun x => { x with h := o.h, queue := rest }).sendAl (objHome o.obj) r.col o.obj (.grant r.agent (.status 1) 0 o.c)) ∧
    (∀ (t : State) (va : Word) (obj : Nat) (x : Nat), (t.alResult va obj (.init d) (.status x)).g =
      (({ t.g with status := .ready } : Group).setS d (BitVec.ofNat 64 x)).retire) ∧
    (∀ o key, s.alObject A = .ok (o, key) →
      (n = 0 → exec (.altake d a b) s = .next (s.retireWith (s.g.setS d 1)) ∧
        exec (.algive d a b) s = .next (s.retireWith (s.g.setS d 0))) ∧
      (n ≠ 0 → ∀ u, s.col.localUnits o.obj = some u → n ≤ u →
        exec (.altake d a b) s = .next ((s.putUnits s.colId o.obj (u - n)).retireWith (s.g.setS d 1))) ∧
      (n ≠ 0 → (s.col.localUnits o.obj = none ∨ ∃ u, s.col.localUnits o.obj = some u ∧ u < n) →
        exec (.altake d a b) s = .next (s.alWaits o.obj A (.take n) (.take d))) ∧
      (n ≠ 0 → ∀ e t, s.needEntry s.colId o.obj = (some e, t) → e.recalled = false → e.units + n ≤ o.c →
        exec (.algive d a b) s = .next ((t.putUnits s.colId o.obj (e.units + n)).retireWith
          ((t.putUnits s.colId o.obj (e.units + n)).g.setS d (BitVec.ofNat 64 n)))) ∧
      (n ≠ 0 → ∀ e t, s.needEntry s.colId o.obj = (some e, t) → e.recalled = false → o.c < e.units + n → e.units ≤ o.c →
        exec (.algive d a b) s = .next ((t.putUnits s.colId o.obj o.c).sendGive o.obj A d (e.units + n - o.c) (o.c - e.units))) ∧
      (n ≠ 0 → ((s.needEntry s.colId o.obj).1 = none ∨ ∃ e, (s.needEntry s.colId o.obj).1 = some e ∧ e.recalled = true) →
        exec (.algive d a b) s = .next (s.sendGive o.obj A d n 0)) ∧
      exec (.alread d a) s = .next (s.alWaits o.obj A .read (.read d)) ∧
      exec (.alfree d a) s = .next (s.alWaits o.obj A (.free key) (.free d))) ∧
    (let m := s.g.active G
     let us := (lanesOf m).map fun L => (L, (s.g.lane v.toNat L).toNat)
     OperandsReady s [vSpan v 1 false m] [vSpan v 1 false m] anyType [a] [s.g.guardIdx G] →
      (m = 0 → exec (.altakev G p v a) s = .next s.retire) ∧
      (m ≠ 0 → ∀ o key, s.alObject A = .ok (o, key) →
        (∀ u, s.col.localUnits o.obj = some u → 0 < u → (us.map (·.2)).sum ≤ u →
          exec (.altakev G p v a) s = .next ((s.putUnits s.colId o.obj (u - (us.map (·.2)).sum)).retireWith (s.g.setP p m m))) ∧
        (s.col.localUnits o.obj = some 0 → (us.map (·.2)).sum = 0 → exec (.altakev G p v a) s = .next (s.retireWith (s.g.setP p m m))) ∧
        ((s.col.localUnits o.obj = none ∨ ∃ u, s.col.localUnits o.obj = some u ∧ u < (us.map (·.2)).sum) →
          exec (.altakev G p v a) s = .next (s.alWaits o.obj A (.vtake us) (.vtake p m us)))))

/-! ### Rendezvous and grid points -/

/-- A point evaluated after an update (R165): more arrivals than expected, and then a negative pending count, flip it with an error
and its code; the expected arrivals with nothing pending flip it; a flip turns the phase and clears both counts; otherwise the
counts stand.

RDVINIT, ARRIVE, EXPECT, WAITP, WAITY, ARWAIT and RDVSTAT (R164 to R171, R25): on a point within the declared count; a busy point
traps RDV_BUSY and one not initialised RDV_UNINIT; a wait whose token differs from the phase goes on, one whose token equals it
blocks, and an armed flag that is set traps FLAG_TRAP with the flags in TMASK. A count of RDVINIT outside 1 to 1,024, a flag word above 1 and
an EXPECT beyond 2^63 - 1 trap ILLEGAL_OPERAND with the register, a point beyond the declared count with the point; a continuation of WAITY
that is no multiple of 4, or at or above 2^55, traps with it; and a store that has failed before is reported first (R196). ARRIVE and ARWAIT release at team scope first, and are
held while a write of their core is not performed (R259, R261). RDVSTAT gives the point's status and error address, the address being the
later write where the two registers are one, and an address kept from an earlier error where the code is 4 or 5: both are the model's choice
(log entry 34). -/
def Obligations.RendezvousPoints : Prop :=
  (∀ (p : Point) (arrivals : Nat) (pending : Int),
     let q := (p.evaluate arrivals pending).1
     let flips := q.phase = !p.phase ∧ q.arrivals = 0 ∧ q.pending = 0
     q.expected = p.expected ∧ q.ext = p.ext ∧ q.erraddr = p.erraddr ∧
     (p.expected < arrivals → flips ∧ q.err = true ∧ q.errcode = 5 ∧ (p.evaluate arrivals pending).2 = some .rdvArrivalOverflow) ∧
     (arrivals ≤ p.expected → pending < 0 → flips ∧ q.err = true ∧ q.errcode = 4 ∧
       (p.evaluate arrivals pending).2 = some .rdvPendingUnderflow) ∧
     (arrivals = p.expected → pending = 0 → p.expected ≠ 0 → flips ∧ q.err = p.err ∧ q.errcode = p.errcode ∧
       (p.evaluate arrivals pending).2 = none) ∧
     (arrivals ≤ p.expected → 0 ≤ pending → ¬(arrivals = p.expected ∧ pending = 0 ∧ p.expected ≠ 0) →
       q.phase = p.phase ∧ q.arrivals = arrivals ∧ (q.pending : Int) = pending ∧ (p.evaluate arrivals pending).2 = none)) ∧
  (∀ (s : State) (pt : BitVec 5) (a b : SReg), s.g.bad = [] → s.g.mmas = [] → pt.toNat < s.grid.launch.points →
     let k := pt.toNat
     let p := s.team.point k
     let u := (s.release .team).updPoint s.g.team k 1 0
     let x := s.g.sReg a
     let y := s.g.sReg b
     let traps := fun (i : Instr) (c : Cause) (addr mask : Word) => exec i s = .next (s.takeTrap ⟨c, addr, mask, [], none⟩)
     (1 ≤ x.toNat → x.toNat ≤ 1024 → y.toNat ≤ 1 →
       (p.arrivals = 0 → p.pending = 0 → exec (.rdvinit pt a b) s = .next (s.putPoint s.g.team k
         { p with expected := x.toNat, ext := y.toNat == 1, err := false, errcode := 0, erraddr := 0 } none).retire) ∧
       (¬(p.arrivals = 0 ∧ p.pending = 0) → traps (.rdvinit pt a b) .rdvBusy (pt.zeroExtend 64) 0)) ∧
     (x.toNat = 0 ∨ 1024 < x.toNat → traps (.rdvinit pt a b) .illegalOperand (a.zeroExtend 64) 0) ∧
     (1 ≤ x.toNat → x.toNat ≤ 1024 → 1 < y.toNat → traps (.rdvinit pt a b) .illegalOperand (b.zeroExtend 64) 0) ∧
     (p.expected = 0 → traps (.arrive pt a) .rdvUninit (pt.zeroExtend 64) 0 ∧ traps (.expect pt a) .rdvUninit (pt.zeroExtend 64) 0 ∧
       (s.g.imprecise = none → traps (.waity pt a b) .rdvUninit (pt.zeroExtend 64) 0 ∧
         (s.g.fl.extractLsb' 0 7 &&& s.g.fl.extractLsb' 16 7 = 0 →
           traps (.waitp pt a) .rdvUninit (pt.zeroExtend 64) 0 ∧ traps (.arwait pt) .rdvUninit (pt.zeroExtend 64) 0))) ∧
     (p.expected ≠ 0 →
       (s.performedBy s.g.core .team = true →
         exec (.arrive pt a) s = .next (u.retireWith (u.g.setS a (if p.phase then 1 else 0)))) ∧
       (s.performedBy s.g.core .team = false → exec (.arrive pt a) s = .next s.stallHere) ∧
       (p.pending + x.toNat ≤ 2 ^ 63 - 1 → exec (.expect pt a) s = .next (s.updPoint s.g.team k 0 x.toNat).retire) ∧
       (2 ^ 63 - 1 < p.pending + x.toNat → traps (.expect pt a) .illegalOperand (a.zeroExtend 64) 0) ∧
       (s.g.imprecise = none →
         (y.toNat % 4 ≠ 0 → traps (.waity pt a b) .misaligned y 0) ∧
         (y.toNat % 4 = 0 → 2 ^ 55 ≤ y.toNat → traps (.waity pt a b) .accessFault y 0) ∧
         (p.phase ≠ x.getLsbD 0 → y.toNat % 4 = 0 → y.toNat < 2 ^ 55 → exec (.waity pt a b) s = .next ((s.observe k).jump y)) ∧
         (p.phase = x.getLsbD 0 → y.toNat % 4 = 0 → y.toNat < 2 ^ 55 →
           exec (.waity pt a b) s = .next (s.blockOn (.waity k (x.getLsbD 0) y))) ∧
         (s.g.fl.extractLsb' 0 7 &&& s.g.fl.extractLsb' 16 7 = 0 →
           (p.phase ≠ x.getLsbD 0 → exec (.waitp pt a) s = .next (s.observe k).retire) ∧
           (p.phase = x.getLsbD 0 → exec (.waitp pt a) s = .next (s.blockOn (.point k (x.getLsbD 0)))) ∧
           (s.performedBy s.g.core .team = true →
             ((u.team.point k).phase ≠ p.phase → exec (.arwait pt) s = .next (u.observe k).retire) ∧
             ((u.team.point k).phase = p.phase → exec (.arwait pt) s = .next (u.blockOn (.point k p.phase)))) ∧
           (s.performedBy s.g.core .team = false → exec (.arwait pt) s = .next s.stallHere)) ∧
         (s.g.fl.extractLsb' 0 7 &&& s.g.fl.extractLsb' 16 7 ≠ 0 →
           traps (.waitp pt a) .flagTrap 0 ((s.g.fl.extractLsb' 0 7 &&& s.g.fl.extractLsb' 16 7).zeroExtend 64) ∧
           traps (.arwait pt) .flagTrap 0 ((s.g.fl.extractLsb' 0 7 &&& s.g.fl.extractLsb' 16 7).zeroExtend 64)))) ∧
     exec (.rdvstat pt a b) s = .next (s.retireWith ((s.g.setS a p.status).setS b p.erraddr))) ∧
  (∀ (s : State) (pt : BitVec 5) (a b : SReg), s.g.bad = [] → s.g.mmas = [] →
     let noFlag := s.g.fl.extractLsb' 0 7 &&& s.g.fl.extractLsb' 16 7 = 0
     let traps := fun (i : Instr) (c : Cause) (addr : Word) => exec i s = .next (s.takeTrap ⟨c, addr, 0, [], none⟩)
     (∀ va, s.g.imprecise = some va →
       traps (.waitp pt a) .impreciseStore va ∧ traps (.waity pt a b) .impreciseStore va ∧ traps (.arwait pt) .impreciseStore va) ∧
     (s.grid.launch.points ≤ pt.toNat →
       let beyond := fun (i : Instr) => traps i .illegalOperand (pt.zeroExtend 64)
       beyond (.rdvinit pt a b) ∧ beyond (.arrive pt a) ∧ beyond (.expect pt a) ∧ beyond (.rdvstat pt a b) ∧
       (s.g.imprecise = none → beyond (.waity pt a b) ∧ (noFlag → beyond (.waitp pt a) ∧ beyond (.arwait pt)))))

/-- GARRIVE, GWAIT and PHASE (R172, R188), which only a launched team of a COHORT grid has: elsewhere each traps GRID_RDV_ABSENT.
GARRIVE and PHASE are the leader's and trap NOT_LEADER in a group other than 0; GWAIT is any group's. PHASE with a tile count of 2^32 or
more traps ILLEGAL_OPERAND. A store that has failed before is reported first (R196). A group whose team's last arrival is not complete waits;
the arrival itself adds one to the team's count and to the point's, and that of the last team completes the phase and begins the next.

A phase of which an arrival came by PHASE is a selection flip: it sets the grid's selector from the arrivals of the phase, whose choice PHASE
gives; any other leaves it. A selection flip chooses anew at the first of the grid, where a column that the current table weighs was throttled,
and where the longest column time passes the predicted phase time by more than an eighth or nothing was predicted; else the table stands. A new
choice is the first of the tables with the least prediction, or table 0 where none has one. -/
def Obligations.GridPoints : Prop :=
  (∀ (s : State) (pt : BitVec 5) (a b : SReg), s.g.bad = [] → s.g.mmas = [] → s.g.imprecise = none →
    let k := gvOf pt
    let t := s.release .dev
    let x := (s.g.sReg a).toNat
    let noFlag := s.g.fl.extractLsb' 0 7 &&& s.g.fl.extractLsb' 16 7 = 0
    let traps := fun (i : Instr) (c : Cause) (addr : Word) => exec i s = .next (s.takeTrap ⟨c, addr, 0, [], none⟩)
    (s.hasGrid pt = .ok () ↔ s.grid.launch.flags.getLsbD 0 = true ∧ s.team.spawned = false) ∧
    (s.gvDone k = true ↔ (s.grid.gvs.getD k ⟨0, 0, []⟩).done = s.team.gvA.getD k 0) ∧
    (∀ va u, u = ({ s with g := { s.g with imprecise := some va } } : State) →
      let reports := fun (i : Instr) => exec i u = .next (u.takeTrap ⟨.impreciseStore, va, 0, [], none⟩)
      reports (.garrive pt) ∧ reports (.phase pt a b) ∧ reports (.gwait pt)) ∧
    (¬(s.grid.launch.flags.getLsbD 0 = true ∧ s.team.spawned = false) →
      traps (.garrive pt) .gridRdvAbsent (pt.zeroExtend 64) ∧ traps (.phase pt a b) .gridRdvAbsent (pt.zeroExtend 64) ∧
      (noFlag → traps (.gwait pt) .gridRdvAbsent (pt.zeroExtend 64))) ∧
    (s.hasGrid pt = .ok () →
      (s.g.index ≠ 0 → traps (.garrive pt) .notLeader (BitVec.ofNat 64 s.g.index) ∧ traps (.phase pt a b) .notLeader (BitVec.ofNat 64 s.g.index)) ∧
      (s.g.index = 0 → 2 ^ 32 ≤ x → traps (.phase pt a b) .illegalOperand (a.zeroExtend 64)) ∧
      (noFlag →
        (s.gvDone k = true → exec (.gwait pt) s = .next (s.acquire .dev).retire) ∧
        (s.gvDone k = false → exec (.gwait pt) s = .next (s.blockOn (.gridPoint k .wait 0)))) ∧
      (s.g.index = 0 → ReleaseReady s .dev →
        (t.gvDone k = true →
          let u := t.gridArrive k 0 false
          exec (.garrive pt) s = .next (if u.gvDone k then u.acquire .dev else u).retire) ∧
        (t.gvDone k = false → exec (.garrive pt) s = .next (t.blockOn (.gridPoint k .arrive 0))) ∧
        (x < 2 ^ 32 → t.gvDone k = true →
          let u := t.gridArrive k x true
          let c := u.acquire .dev
          (u.gvDone k = true → exec (.phase pt a b) s =
            .next (c.retireWith (c.g.setS b (BitVec.ofNat 64 c.grid.selector.table)))) ∧
          (u.gvDone k = false → exec (.phase pt a b) s = .next (u.blockOn (.gridPoint k .phaseWait b)))) ∧
        (x < 2 ^ 32 → t.gvDone k = false → exec (.phase pt a b) s = .next (t.blockOn (.gridPoint k (.phaseArrive x) b)))))) ∧
  (∀ (s : State) (k n : Nat) (byPhase : Bool) (tm : Team) (x : Grid), k < 4 → s.teamOf s.g.team = some tm → s.gridOf tm.grid = some x →
    ∃ tm' y, (s.gridArrive k n byPhase).teamOf s.g.team = some tm' ∧ (s.gridArrive k n byPhase).gridOf tm.grid = some y ∧
      tm'.gvA.getD k 0 = (tm.gvA.getD k 0 + 1) % 2 ^ 32 ∧
      let v := x.gvs.getD k ⟨0, 0, []⟩
      let w := y.gvs.getD k ⟨0, 0, []⟩
      (v.count + 1 ≠ x.launch.teams → w.count = v.count + 1 ∧ w.done = v.done ∧ y.selector = x.selector) ∧
      (let arrived := v.arrived ++ [⟨s.g.team, s.colId, n, s.ptp.toNat, byPhase⟩]
       (v.count + 1 ≠ x.launch.teams → w.arrived = arrived) ∧
       (v.count + 1 = x.launch.teams → w.count = 0 ∧ w.done = (v.done + 1) % 2 ^ 32 ∧ w.arrived = [] ∧
         ((∃ r ∈ arrived, r.byPhase = true) → y.selector = x.selector.flip x.launch.sched arrived s.ptp.toNat) ∧
         ((∀ r ∈ arrived, r.byPhase = false) → y.selector = x.selector))) ∧
      ∀ j, j ≠ k → tm'.gvA.getD j 0 = tm.gvA.getD j 0 ∧ y.gvs.getD j ⟨0, 0, []⟩ = x.gvs.getD j ⟨0, 0, []⟩) ∧
  (∀ (x : Selector) (sched : List (BitVec 128)) (arrived : List Arrival) (now : Nat),
    let y := x.flip sched arrived now
    let cols := columnTimes x.base arrived
    let longest := (cols.map (·.2.1)).foldl Nat.max 0
    let total := (arrived.map (·.tiles)).sum
    let anew := x.first = true ∨ (∃ c ∈ x.throttled, tableWeight (sched.getD x.table 0) c ≠ 0) ∨ x.predicted = none ∨
      ∃ p, x.predicted = some p ∧ 9 * p.1 * total < longest * 8 * p.2
    y.first = false ∧ y.base = now ∧ y.throttled = [] ∧
    (¬anew → y.table = x.table ∧ y.predicted = x.predicted) ∧
    (anew → (∀ t ∈ sched, predictTable cols t = none) → y.table = 0 ∧ y.predicted = none) ∧
    (anew → (∃ t ∈ sched, predictTable cols t ≠ none) → ∃ t m, sched[y.table]? = some t ∧ predictTable cols t = some m ∧ y.predicted = some m ∧
      ∀ j u n, sched[j]? = some u → predictTable cols u = some n → m.1 * n.2 ≤ n.1 * m.2 ∧ (j < y.table → m.1 * n.2 < n.1 * m.2)))

/-! ### Asynchronous operations and the matrix path -/

/-- COPY, COPYT and COPYV (R173 to R176): once their checks pass, the operation stands in flight with its bytes counted into the
point, and the instruction retires; a COPY of 0 bytes, and a COPYV with no Active lane, do nothing.

An operation that begins stands last among those in flight, with its point, its number of bytes and none of them moved yet, issued by this
group; the pending count of its point rises by its bytes and nothing else of the point changes. -/
def Obligations.CopyIssue : Prop :=
  (∀ (s : State) (pt n : Nat) (kind : EngineKind) (tm : Team), s.teamOf s.g.team = some tm → pt < tm.points.length → 0 < n →
    (tm.point pt).arrivals ≤ (tm.point pt).expected →
    let t := s.beginOp pt n kind
    ∃ o : EngineOp, t.ops = s.ops ++ [o] ∧ o.id = s.fresh ∧ o.kind = kind ∧ o.point = pt ∧ o.total = n ∧ o.pos = 0 ∧ o.team = s.g.team ∧
      o.core = s.g.core ∧ o.slot = s.g.slot ∧ o.index = s.g.index ∧ o.pc = s.g.pc ∧ o.held = none ∧ t.g = s.g ∧ t.mem = s.mem ∧
      ∃ after, t.teamOf s.g.team = some after ∧
        after.points = tm.points.set pt { tm.point pt with pending := (tm.point pt).pending + n }) ∧
  ∀ (s : State) (pt : BitVec 5) (a b : SReg) (G : Guard) (n : BitVec 7) (v w : VReg) (sz : PieceSize), s.g.bad = [] →
    let x := (s.g.sReg b).toNat
    (a.toNat ≤ 62 → x < 2 ^ 36 → pt.toNat < s.grid.launch.points →
      (x % 2 ^ 32 = 0 → exec (.copy pt a b) s = .next s.retire) ∧
      (x % 2 ^ 32 ≠ 0 → s.rangeCheck (.ofCode (x / 2 ^ 32 % 4)) (s.g.sReg a).toNat (x % 2 ^ 32 : Nat) = .ok () →
        s.rangeCheck (.ofCode (x / 2 ^ 34 % 4)) (s.g.sReg (a + 1)).toNat (x % 2 ^ 32 : Nat) = .ok () →
        exec (.copy pt a b) s = .next (s.beginOp pt.toNat (x % 2 ^ 32) (.copy
          (.run (s.g.sReg a).toNat (s.g.sReg (a + 1)).toNat (x / 2 ^ 32 % 4) (x / 2 ^ 34 % 4)))).retire)) ∧
    (let R := s.g.sReg a
     R.toNat % 64 = 0 → R.toNat < 2 ^ 55 → ∀ ps vals u, s.xlatParts .read true (spillCuts R.toNat) = .ok ps →
      s.loadParts true ps = .ok (vals, u) →
      let t := Tensor.ofWords (laneValue vals)
      let base := t.src + s.g.sReg b
      t.illegal = none → t.misaligned base = none → u.declared pt = .ok () →
      u.rangeCheck (.ofCode (t.ctrl / 16 % 4)) (base.toNat + t.spread.1) (t.spread.2 - t.spread.1 + (2 ^ t.esz : Nat)) (2 ^ t.esz : Nat) = .ok () →
      u.rangeCheck (.ofCode (t.ctrl / 64 % 4)) t.dst.toNat t.bytes (2 ^ t.esz : Nat) = .ok () →
      exec (.copyt pt a b) s = .next (u.beginOp pt.toNat t.bytes (.copy
        (.box t.dst.toNat base.toNat (t.ctrl / 64 % 4) (t.ctrl / 16 % 4) t.esz t.extents t.strides))).retire) ∧
    (let m := s.g.active G
     let src := fun L => (s.g.lane64 v.toNat L).toNat
     let dst := fun L => (s.g.lane w.toNat L).toNat
     MemOperandsReady s m [vSpan v 2 true m, vSpan w 1 false m] [vSpan v 2 true m, vSpan w 1 false m] anyType [] [s.g.guardIdx G] →
      (m = 0 → exec (.copyv G n v w sz) s = .next s.retire) ∧
      (m ≠ 0 → n.toNat < 32 → n.toNat < s.grid.launch.points →
        (∀ L < 64, m.getLsbD L = true → dst L + pieceBytes sz ≤ s.scratchBytes ∧ src L % pieceBytes sz = 0 ∧
          dst L % pieceBytes sz = 0 ∧ src L < 2 ^ 55) →
        exec (.copyv G n v w sz) s = .next (s.beginOp n.toNat (pieceBytes sz * (lanesOf m).length) (.copy
          (.pieces (pieceBytes sz) ((lanesOf m).map fun L => (dst L, src L))))).retire))

/-- INK and MMAS (R179, R182): once their checks pass the format record of the macro is set, or the quarter marked as the target of an MMAS
that its group has not seen complete, with what it holds at the issue (R134), and the operation stands in flight, as CopyIssue says of every operation that begins: its bytes are counted into the pending count of its point;
MMAS of a group that is no matrix group traps NOT_LEADER with its role.

MMA, AZERO, CVTA and INKZ (R127, R178 to R183): MMA takes its 17 registers, slots and mask at issue and retires, its accumulators
written later; AZERO clears the Active lanes of its quarter; CVTA writes the converted accumulators, with the flags; INKZ clears its
macro. -/
def Obligations.EngineIssue : Prop :=
  (∀ (s : State) (pt : BitVec 5) (a b : SReg), s.g.bad = [] → s.g.mmas = [] → pt.toNat < s.grid.launch.points →
     let x := (s.g.sReg b).toNat
     let off := (s.g.sReg a).toNat
     (x < 512 → x % 64 < s.team.macros.length →
       let slot := s.slotWord (BitVec.ofNat 3 (x / 64))
       bAllowed (slotCode slot) (slotWide slot) = true → slotBlock slot = 32 → off % 64 = 0 → off + inkBytes slot ≤ s.scratchBytes →
       exec (.ink pt a b) s = .next (((s.drainMacro s.g.team (x % 64)).modMacro s.g.team (x % 64) fun y =>
         { y with fmt := some (BitVec.ofNat 8 (slotCode slot), slotWide slot) }).beginOp pt.toNat (inkBytes slot)
           (.ink off (x % 64) slot false)).retire) ∧
     (s.g.role ≠ .matrix → exec (.mmas pt a b) s = .next (s.takeTrap ⟨.notLeader, BitVec.ofNat 64 s.g.role.code, 0, [], none⟩)) ∧
     (s.g.role = .matrix → x < 2 ^ 14 →
       let q : BitVec 2 := BitVec.ofNat 2 x
       let mg := x / 4 % 64
       let slot := s.slotWord (BitVec.ofNat 3 (x / 256))
       let slotB := s.slotWord (BitVec.ofNat 3 (x / 2048))
       s.macroOk mg = .ok () → s.aSlotOk (BitVec.ofNat 3 (x / 256)) = .ok () → s.bSlotOk (BitVec.ofNat 3 (x / 2048)) = .ok () →
       s.bSlotFits mg (BitVec.ofNat 3 (x / 2048)) = .ok () → off % 64 = 0 → off + mmasBytes slot ≤ s.scratchBytes →
       16 * q.toNat + 16 ≤ s.g.aBud →
       let marked : Unseen := ⟨q.toNat, pt.toNat, s.fresh, [⟨0, s.g.quarter q.toNat, s.g.badIn q.toNat⟩], false⟩
       exec (.mmas pt a b) s = .next (({ s with g := { s.g with unseen := s.g.unseen ++ [marked] } } : State).beginOp pt.toNat (mmasBytes slot)
         (.mmas off q mg slot slotB (s.oldTile off (mmasBytes slot)))).retire ∧
       ({ s.g with unseen := s.g.unseen ++ [marked] } : Group).unseenQ q.toNat = true)) ∧
  (∀ (s : State) (G : Guard) (q : BitVec 2) (a d : VReg) (mg : BitVec 6) (fa fb : BitVec 3),
     let m := s.g.active G
     let ready := fun (ops : List Opnd) (accepts : Nat → Bool) => OperandsReady s ops ops accepts [] [s.g.guardIdx G]
     (ready [s.g.vSpanE a 17 false 0, quarterOp q] anyType → s.macroOk mg.toNat = .ok () → s.aSlotOk fa = .ok () →
       s.bSlotOk fb = .ok () → s.bSlotFits mg.toNat fb = .ok () →
       (m = 0 → exec (.mma G q a mg fa fb) s = .next s.retire) ∧
       (m ≠ 0 → ∃ o : MmaOp, o.q = q ∧ o.mg = mg.toNat ∧ o.slotA = s.slotWord fa ∧ o.slotB = s.slotWord fb ∧ o.active = m ∧
         (∀ i < 17, o.regs.getD i (Vector.replicate 64 0) = s.g.vReg (a.toNat + i)) ∧
         exec (.mma G q a mg fa fb) s = .next (({ s with g := { s.g with mmas := s.g.mmas ++ [o] }, fresh := s.fresh + 1 } : State).retire))) ∧
     (s.g.mmas = [] → ready [quarterOp q] anyType → ∃ g : Group, exec (.azero G q) s = .next (s.retireWith g) ∧
       (∀ i L, g.acc i L = if 16 * q.toNat ≤ i ∧ i < 16 * q.toNat + 16 ∧ m.getLsbD L = true then 0 else s.g.acc i L) ∧
       g = { s.g with a := g.a, bad := g.bad, unseen := g.unseen }) ∧
     (s.g.mmas = [] → s.g.bad = [] → s.g.unseenQ q.toNat = false →
       ready [s.g.vSpanE d s.g.cvtaSpan false 0, quarterOp q] cvtaType →
       let lane := fun L => joinElems (elemWidth s.g.ety)
         (fun n => (elemOf s.g.ety).encode s.g.round s.g.ftz (a96Value (s.g.acc (16 * q.toNat + n) L))) 16
       ∃ g : Group, exec (.cvta G q d) s = .next (({ s with tick := s.tick + 1 } : State).retireWith g) ∧
         (∀ L < 64, m.getLsbD L = true → ∀ r < s.g.cvtaSpan, g.lane (d.toNat + r) L = BitVec.ofNat 32 ((lane L).1 / 2 ^ (32 * r))) ∧
         (∀ i L, (m.getLsbD L = false ∨ i < d.toNat ∨ d.toNat + s.g.cvtaSpan ≤ i) → g.lane i L = s.g.lane i L) ∧
         g.fl = s.g.fl ||| (laneFlags m fun L => (lane L).2).zeroExtend 32) ∧
     (mg.toNat < s.team.macros.length → s.mmasBefore s.g.team mg.toNat s.fresh = false →
       let u := s.drainMacro s.g.team mg.toNat
       u.mmaBefore s.g.team mg.toNat s.fresh = false → ∃ f : EngineOp → EngineOp, (∀ o, (o.team ≠ s.g.team ∨ ∀ off w z, o.kind ≠ .ink off mg.toNat w z) → f o = o) ∧
         exec (.inkz mg) s = .next (({ u.modMacro s.g.team mg.toNat (fun _ => Macro.reset) with ops := u.ops.map f } : State).retire)))

/-- LAUNCH and SPAWN (R186, R187, R222): LAUNCH by group 0, at a line below 8 and a record address that is a multiple of 256 below 2^55,
gives what the line answers; a group other than 0, a line above 7 and another address trap. The line answers 2 at depth 10, and queues
nothing; else 0, with the record behind those it holds, at the child's depth and for this team, in one of the line's own 64 entries or, where
these are occupied, in the team's reservation; and 1, with the queue as it was, where that is in use too.

SPAWN with an Active lane releases at column scope, traps an entry address that is no multiple of 4 or not below 2^55, and offers the Active
lanes' records in ascending order to the bin of context, grid and entry: the mask that it gives is the longest prefix for which there is room.
A record joins the bin of its key behind those it holds, unless it holds 256; a bin that comes to hold 64 forms a team of its oldest; where no
bin has the key, a free one of the column's 64 takes it. With no Active lane nothing happens. -/
def Obligations.LaunchAndSpawn : Prop :=
  (∀ (s : State) (G : Guard) (d a b : SReg) (p : PReg) (v : VReg), s.g.bad = [] →
    let A := s.g.sReg a
    let traps := fun (i : Instr) (c : Cause) (addr : Word) => exec i s = .next (s.takeTrap ⟨c, addr, 0, [], none⟩)
    (s.g.index ≠ 0 → traps (.launch d a b) .notLeader (BitVec.ofNat 64 s.g.index)) ∧
    (s.g.index = 0 → 8 ≤ (s.g.sReg b).toNat → traps (.launch d a b) .illegalOperand (b.zeroExtend 64)) ∧
    (s.g.index = 0 → ∀ h : (s.g.sReg b).toNat < 8,
      (A.toNat % 256 ≠ 0 → traps (.launch d a b) .misaligned A) ∧
      (A.toNat % 256 = 0 → 2 ^ 55 ≤ A.toNat → traps (.launch d a b) .accessFault A) ∧
      (A.toNat % 256 = 0 → A.toNat < 2 ^ 55 → ReleaseReady s .dev →
        let r := (s.release .dev).launchOn ⟨(s.g.sReg b).toNat, h⟩ A
        exec (.launch d a b) s = .next (r.2.retireWith (r.2.g.setS d (BitVec.ofNat 64 r.1))))) ∧
    (let m := s.g.active G
     let E := s.g.sReg a
     OperandsReady s [vSpan v 4 false m] [vSpan v 4 false m] anyType [a] [s.g.guardIdx G] →
      (m = 0 → exec (.spawn G p v a) s = .next s.retire) ∧
      (m ≠ 0 → E.toNat % 4 ≠ 0 → traps (.spawn G p v a) .misaligned E) ∧
      (m ≠ 0 → E.toNat % 4 = 0 → 2 ^ 55 ≤ E.toNat → traps (.spawn G p v a) .accessFault E) ∧
      (m ≠ 0 → E.toNat % 4 = 0 → E.toNat < 2 ^ 55 → ReleaseReady s .col →
        let r := (s.release .col).offerLanes E (fun L => (List.range 4).map fun i => s.g.lane (v.toNat + i) L) (lanesOf m) []
        exec (.spawn G p v a) s = .next (r.2.retireWith (r.2.g.setP p m (maskOf fun L => r.1.contains L)))))) ∧
  (∀ (s : State) (l : LineId) (A : Word),
    let r := s.launchOn l A
    let line := fun (t : State) => (t.cols.get s.colId).lines.get l
    let entry : Nat := 32 * (s.g.core.val % 4) + s.g.slot.val
    let queues := fun (slot : Option Nat) => r.1 = 0 ∧ r.2.g = s.g ∧
      (line r.2).queue = (line s).queue ++ [⟨s.fresh, A, s.ctxId, s.grid.depth + 1, some s.g.team, slot, none, none, []⟩] ∧
      ∀ tm, s.teamOf s.g.team = some tm → ∃ after, r.2.teamOf s.g.team = some after ∧ after = { tm with children := tm.children + 1 }
    (10 ≤ s.grid.depth → r = (2, s)) ∧
    (s.grid.depth < 10 →
      ((line s).queued < 64 → queues none ∧ (r.2.cols.get s.colId).reserved = s.col.reserved) ∧
      (64 ≤ (line s).queued → entry ∉ s.col.reserved → queues (some entry) ∧ (r.2.cols.get s.colId).reserved = entry :: s.col.reserved) ∧
      (64 ≤ (line s).queued → entry ∈ s.col.reserved → r.1 = 1 ∧ (line r.2).queue = (line s).queue ∧ r.2.teams = s.teams))) ∧
  (∀ (s : State) (col : ColId) (ctx : CtxId) (grid : Nat) (E : Word) (x : List Word32),
    let bins := (s.cols.get col).bins
    let mine := bins.find? fun b => b.ctx == ctx && b.grid == grid && b.entry == E
    let r := s.offerRecord col ctx grid E x
    (∀ b, mine = some b →
      let full : SpawnBin := { b with records := b.records ++ [x] }
      (256 ≤ b.records.length → r = none) ∧
      (b.records.length < 63 → ∃ t, r = some t ∧ t.teams = s.teams ∧
        (t.cols.get col).bins = bins.map fun y => if y.id = b.id then full else y) ∧
      (b.records.length = 63 → ∀ y, s.gridOf b.grid = some y → ∃ t tm, r = some t ∧ t.teams = s.teams ++ [tm] ∧ tm.ctx = b.ctx ∧
        tm.grid = b.grid ∧ tm.entry = b.entry ∧ tm.payloads = full.records ∧ tm.spawned = true ∧ tm.place = .waiting ∧
        (t.cols.get col).bins = bins.filter fun y => y.id != b.id)) ∧
    (mine = none → (64 ≤ bins.length → r = none) ∧
      (bins.length < 64 → ∃ t, r = some t ∧ t.teams = s.teams ∧ (t.cols.get col).bins = bins ++ [⟨s.fresh, ctx, grid, E, [x]⟩]))) ∧
  (∀ (s : State) (E : Word) (f : Nat → List Word32) (lanes : List Nat), ∃ n, n ≤ lanes.length ∧
    let r := s.offerLanes E f lanes []
    r.1 = lanes.take n ∧
      ∀ L, lanes[n]? = some L → r.2.offerRecord r.2.colId r.2.ctxId r.2.team.grid E (f L) = none)

/-! ### Host calls, maintenance, glyphs -/

/-- HCALL (R198, R319, R320): with no Active lane it retires; otherwise, released at column scope, its record enters its column's
queue when that has room and no copy of its lines at a peer or host stands in the way (R364, R370), and the group blocks for the reply; a
service number of 2^32 or more traps ILLEGAL_OPERAND.

SLCFG, TLBINV, CACHECL and EVRD (R199 to R204): the query gives ways, GRANTED and owner; a resize without the SLICE capability
traps PRIVILEGE, another context's grant gives 1, otherwise the slice is resized and 0 given, and one behind another waits its turn (R381);
TLBINV removes the named translations of the issuing core and of its column's slice, the device-wide form under TLBDEV those of every core and
slice, where every access translated in the page's 512 MiB is performed first, one out at a peer or at the home of an allowance object included:
that reading of R327 is log entry 60, and that a VERSIONED team that has written there waits for its commit is log entry 90; CACHECL acts on the line of a HOME 0 page, after the update-only copies of the line are merged (R251, log entry 61);
EVRD gives EVT and clears PEND. -/
def Obligations.HostCallsAndMaintenance : Prop :=
  (∀ (s : State) (G : Guard) (d a : VReg) (b : SReg),
     let m := s.g.active G
     let w := (s.g.sReg b).toNat
     OperandsReady s [vSpan d 1 false 0, vSpan a 2 true m] [vSpan d 1 false 0, vSpan a 2 true m] anyType [b] [s.g.guardIdx G] →
     (2 ^ 32 ≤ w → exec (.hcall G d a b) s = .next (s.takeTrap ⟨.illegalOperand, b.zeroExtend 64, 0, [], none⟩)) ∧
     (w < 2 ^ 32 → m = 0 → exec (.hcall G d a b) s = .next s.retire) ∧
     (w < 2 ^ 32 → m ≠ 0 → ReleaseReady s .col →
       let t := s.release .col
       let u := t.devReady t.col.hqNext 0x240
       (t.col.hqRoom = false → exec (.hcall G d a b) s = .next (t.blockOn .hcallSend)) ∧
       (t.col.hqRoom = true → u.hqOpen u.colId = false → exec (.hcall G d a b) s = .next (u.blockOn .hcallSend)) ∧
       (t.col.hqRoom = true → u.hqOpen u.colId = true → ∃ h : HcallRec, h.d = d ∧ h.service = BitVec.ofNat 32 w ∧ h.mask = m ∧ h.reply = none ∧
         (∀ L < 64, at0 h.requests L = if m.getLsbD L then s.g.lane64 a.toNat L else 0) ∧
         exec (.hcall G d a b) s = .next (u.sendHcall h)))) ∧
  (∀ (s : State) (d a : SReg) (form : CacheForm), s.g.bad = [] →
     let x := s.g.sReg a
     exec (.slcfg d a .query) s = .next (s.retireWith (s.g.setS d (BitVec.ofNat 64 (s.col.ways + match s.col.grant with
       | some c => 2 ^ 15 + c.val * 2 ^ 16
       | none => 0)))) ∧
     (s.entry.capSlice = false → exec (.slcfg d a .resize) s = .next (s.takeTrap ⟨.privilege, 1, 0, [], none⟩)) ∧
     (s.entry.capSlice = true → (x = 16 ∨ x = 12 ∨ x = 8) →
       let me := (s.g.core, s.g.slot, s.g.team)
       let ends := fun (t : State) => if s.col.waysBy = some me then t.waysNext s.colId else t
       (s.col.waysPend ≠ none → s.col.waysBy ≠ some me → ∃ t : State, exec (.slcfg d a .resize) s = .next t.stallHere) ∧
       (s.col.waysPend = none ∨ s.col.waysBy = some me →
         (∀ c, s.col.grant = some c → c ≠ s.ctxId → exec (.slcfg d a .resize) s = .next ((ends s).retireWith (s.g.setS d 1))) ∧
         ((s.col.grant = none ∨ s.col.grant = some s.ctxId) → (s.col.ways < x.toNat → s.sliceBusy s.colId = false) →
           let t := s.resizeWays s.colId s.ctxId x.toNat
           exec (.slcfg d a .resize) s = .next ((ends t).retireWith ((ends t).g.setS d 0)) ∧ (t.cols.get s.colId).ways = x.toNat))) ∧
     (∃ t, exec (.tlbinv a .core) s = .next t ∧ t.g = s.g.retire ∧ t.mem = s.mem ∧
       ∀ e, (e ∈ t.core.dataTlb ↔ e ∈ s.core.dataTlb ∧ e.ctx ≠ s.ctxId) ∧ (e ∈ t.core.fetchTlb ↔ e ∈ s.core.fetchTlb ∧ e.ctx ≠ s.ctxId) ∧
         (e ∈ t.col.stlb ↔ e ∈ s.col.stlb ∧ e.ctx ≠ s.ctxId)) ∧
     (∃ t, exec (.tlbinv a .page) s = .next t ∧ t.g = s.g.retire ∧ t.mem = s.mem ∧
       let keeps := fun (e : TlbEntry) => ¬(e.ctx = s.ctxId ∧ e.covers x.toNat = true)
       ∀ e, (e ∈ t.core.dataTlb ↔ e ∈ s.core.dataTlb ∧ keeps e) ∧ (e ∈ t.core.fetchTlb ↔ e ∈ s.core.fetchTlb ∧ keeps e) ∧
         (e ∈ t.col.stlb ↔ e ∈ s.col.stlb ∧ keeps e)) ∧
     (s.entry.capTlbDev = false → exec (.tlbinv a .dev) s = .next (s.takeTrap ⟨.privilege, 2, 0, [], none⟩)) ∧
     (s.entry.capTlbDev = true →
       let hit := fun (c : CtxId) (y : Nat) => c == s.ctxId && nearPage y x.toNat
       let u := (s.dropTlb fun e => e.ctx == s.ctxId && e.covers x.toNat).performAll hit
       let out := u.pageHeld x.toNat || u.peerOut (· == s.ctxId) || u.alOut hit || u.versionOut hit
       (s.team.version ≠ none → (∃ l ∈ s.team.versionLines, nearPage l.va x.toNat = true) →
         exec (.tlbinv a .dev) s = .next (s.blockOn .earlyCommit)) ∧
       (s.team.version = none ∨ (∀ l ∈ s.team.versionLines, nearPage l.va x.toNat = false) →
        (out = false → exec (.tlbinv a .dev) s = .next u.retire) ∧ (out = true → exec (.tlbinv a .dev) s = .next u.stallHere))) ∧
     (2 ^ 55 ≤ x.toNat → exec (.cachecl a form) s = .next (s.takeTrap ⟨.accessFault, x, 0, [], none⟩)) ∧
     (x.toNat < 2 ^ 55 → ∀ p loc, s.xlatParts .read true [(0, x.toNat, 1, 0)] = .ok [p] → p.x.site = .mem loc →
       (p.x.home ≠ 0 → exec (.cachecl a form) s = .next s.retire) ∧
       (p.x.home = 0 → s.partObj p = none → exec (.cachecl a form) s = .next
         ((((s.drainComb s.g.core fun e => e.loc / 128 == loc / 128).mergeCopies (loc / 128)).maintain form (loc / 128)).retire))) ∧
     (x.toNat < 2 ^ 55 → ∀ p q pa, s.xlatParts .read true [(0, x.toNat, 1, 0)] = .ok [p] → p.x.site = .peer q pa → p.x.home = 0 →
       exec (.cachecl a form) s = .next (s.maintainPeer form q (pa / 128)).retire) ∧
     (∃ t, exec (.evrd d) s = .next t ∧ t.g = (s.g.setS d s.core.evt).retire ∧ (t.cores.get s.g.core).evtPend = false ∧ t.mem = s.mem))

/-- GLYLD and GLYPH (R108 to R111): a body whose header and words pass the checks replaces the entry whole; a header that is no number of
steps from 1 to 32 traps GLYPH_BODY with it, a word that no body may hold with its step, and an entry of another context with a resident
team there traps GLYPH_BUSY; GLYPH binds the body as it stands, from the step at which it is to go on; an entry that is absent, or another
context's, traps GLYPH_ABSENT with that step in TSTEP: that another context's entry gives no other step is the model's choice (log entry
103). -/
def Obligations.Glyphs : Prop :=
  ∀ (s : State) (a : SReg) (gi : BitVec 8) (pA pB : BitVec 7) (kinds : BitVec 2), s.g.bad = [] →
    let A := s.g.sReg a
    (A.toNat % 4 ≠ 0 → exec (.glyld a gi) s = .next (s.takeTrap ⟨.misaligned, A, 0, [], none⟩)) ∧
    (A.toNat % 4 = 0 → 2 ^ 55 ≤ A.toNat → exec (.glyld a gi) s = .next (s.takeTrap ⟨.accessFault, A, 0, [], none⟩)) ∧
    (A.toNat % 4 = 0 → A.toNat < 2 ^ 55 → ∀ hp hv t, s.xlatParts .read true [(0, A.toNat, 4, 0)] = .ok hp → s.loadParts true hp = .ok (hv, t) →
      (laneValue hv 0 = 0 ∨ 32 < laneValue hv 0) →
        exec (.glyld a gi) s = .next (s.takeTrap ⟨.glyphBody, BitVec.ofNat 64 (laneValue hv 0), 0, [], none⟩)) ∧
    (A.toNat % 4 = 0 → A.toNat < 2 ^ 55 → s.glyphRunning s.g.core = false →
      ∀ hp hv t bp bv u, s.xlatParts .read true [(0, A.toNat, 4, 0)] = .ok hp → s.loadParts true hp = .ok (hv, t) →
      let h := laneValue hv 0
      1 ≤ h → h ≤ 32 → t.xlatParts .read true (bodyCuts (A + 4).toNat h) = .ok bp →
      t.loadAfter (peerAsks (s.askParts hp)) true bp = .ok (bv, u) →
      let body := bodyWords bv h
      (∀ k w, badStep 0 body = some (k, w) → exec (.glyld a gi) s = .next (s.takeTrap
        ⟨.glyphBody, BitVec.ofNat 64 ((k + 1) * 2 ^ 32 + w.toNat), 0, [], none⟩)) ∧
      (badStep 0 body = none → (∀ e, u.core.glyphEntry gi = some e → e.owner = u.ctxId ∨ u.residentOn e.owner u.g.core = false) →
        exec (.glyld a gi) s = .next (u.modCore u.g.core fun x => x.putGlyph ⟨gi, u.ctxId, body⟩).retire) ∧
      (badStep 0 body = none → ∀ e, u.core.glyphEntry gi = some e → e.owner ≠ u.ctxId → u.residentOn e.owner u.g.core = true →
        exec (.glyld a gi) s = .next (s.takeTrap ⟨.glyphBusy, gi.zeroExtend 64, 0, [], none⟩))) ∧
    (let k := s.g.glyphStart
     (s.core.glyphEntry gi = none → exec (.glyph gi pA pB kinds) s = .next (s.takeTrap ⟨.glyphAbsent, gi.zeroExtend 64, 0, [], some k⟩)) ∧
     (∀ e, s.core.glyphEntry gi = some e → (e.owner ≠ s.ctxId ∨ e.body.length ≤ k) →
       exec (.glyph gi pA pB kinds) s = .next (s.takeTrap ⟨.glyphAbsent, gi.zeroExtend 64, 0, [], some k⟩)) ∧
     (∀ e, s.core.glyphEntry gi = some e → e.owner = s.ctxId → k < e.body.length → badPlace kinds 0 e.body = none →
       exec (.glyph gi pA pB kinds) s = .next { s with g := { s.g with glyph := some ⟨e.body, k, pA, pB, kinds⟩, glyphResume := none } }))

/-! ### Messages of allowance counters -/

/-- The messages between columns and homes (R271 to R276), each taken when it is the first in flight from its column to its home, or from
that home to that column. A request joins the queue of its home and a home in state NORMAL serves a take that the residual covers with a
top-up, or starts a round; a give adds up to the limit and is answered; a flush and an ACK return units, the last ACK of a round starts
DRAIN, the last FLUSH of a fenced column standing in place of its ACK (R277); a grant tops up the entry of the column, and the group that
waits goes on with its result; a recall empties the entry and is acknowledged, and a column that has no entry and can make none makes none
for the object until the release; a release ends RECALLED; in DRAIN the requests are served in turn, and the home returns to NORMAL after
the last. -/
def Obligations.AllowanceMessages : Prop :=
  ∀ (s : State) (col home : ColId),
    let up := s.msgs.find? fun m => m.between true col home
    let down := s.msgs.find? fun m => m.between false home col
    let a := s.dropAl true col home
    let b := s.dropAl false home col
    (∀ m r u o, up = some m → m.body = .req r u → s.objOf m.obj = some o → o.mode = .normal → o.queue = [] →
      let H := Nat.min (2 ^ 63 - 1) (o.h + u)
      ∀ n, r.kind = .take n →
        (n ≤ H →
          let T := Nat.min o.b (Nat.min o.c (H - n))
          exec (.allowanceReq col home) s = .next ((a.modObj m.obj fun x => { x with h := H - n - T, queue := [] }).sendAl
            home r.col m.obj (.grant r.agent .granted T o.c))) ∧
        (H < n → exec (.allowanceReq col home) s =
          .next ((a.modObj m.obj fun x => { x with h := H, queue := x.queue ++ [r] }).startRound home m.obj))) ∧
    (∀ m r u o, up = some m → m.body = .req r u → s.objOf m.obj = some o → o.mode ≠ .normal →
      exec (.allowanceReq col home) s =
        .next (a.modObj m.obj fun x => { x with h := Nat.min (2 ^ 63 - 1) (o.h + u), queue := o.queue ++ [r] })) ∧
    (∀ m r u, up = some m → m.body = .req r u → s.objOf m.obj = none →
      exec (.allowanceReq col home) s = .next (a.sendAl home r.col m.obj (.grant r.agent .unregistered 0 0))) ∧
    (∀ m g n o, up = some m → m.body = .give g n → s.objOf m.obj = some o →
      let H := Nat.min (2 ^ 63 - 1) (o.h + n)
      exec (.allowanceGive col home) s =
        .next ((a.modObj m.obj fun x => { x with h := H }).sendAl home col m.obj (.giveReply g (H - o.h)))) ∧
    (∀ m u, up = some m → m.body = .flush u → (s.cols.get col).fenced = false →
      exec (.allowanceFlush col home) s = .next (a.modObj m.obj fun x => { x with h := Nat.min (2 ^ 63 - 1) (x.h + u) })) ∧
    (∀ m u, up = some m → m.body = .flush u → (s.cols.get col).fenced = true → exec (.allowanceFlush col home) s =
      .next (a.modObj m.obj fun x => ({ x with h := Nat.min (2 ^ 63 - 1) (x.h + u) } : AlObject).answered col)) ∧
    (∀ m u o, up = some m → m.body = .ack u → s.objOf m.obj = some o → s.lastFlush col m.obj = false → ∃ t, exec (.allowanceAck col home) s = .next t ∧
      t.msgs = a.msgs ∧ ∃ q, t.objOf m.obj = some q ∧ q.h = Nat.min (2 ^ 63 - 1) (o.h + u) ∧ q.queue = o.queue ∧
        (o.mode = .recalling [col] → q.mode = .drain) ∧
        (∀ c, c ≠ col → o.mode = .recalling [col, c] → q.mode = .recalling [c])) ∧
    (∀ m u, up = some m → m.body = .ack u → s.lastFlush col m.obj = true →
      exec (.allowanceAck col home) s = .next (a.modObj m.obj fun x => { x with h := Nat.min (2 ^ 63 - 1) (x.h + u) })) ∧
    (∀ m g r T cap, down = some m → m.body = .grant g r T cap →
      let b1 := b.takeTopUp col home m.obj T cap
      exec (.allowanceGrant home col) s = .next (b1.alDeliver g m.obj r) ∧
      (T = 0 → b1 = b) ∧
      ((b.cols.get col).fenced = false → ∀ e b2, b.needEntry col m.obj = (some e, b2) → 0 < T → e.units + T ≤ cap →
        b1 = b2.modCol col fun x => x.setEntry { e with units := e.units + T }) ∧
      (∀ core slot team u d va, g = .group core slot team → b1.focus core slot = some u → u.g.team = team →
        u.g.status = .allowance m.obj va (.take d) → r = .granted →
          let v : State := { u with g := { u.g with status := .ready } }
          exec (.allowanceGrant home col) s = .next (v.retireWith (v.g.setS d 1)))) ∧
    (∀ m, down = some m → m.body = .recall → (s.cols.get col).fenced = false →
      (∀ e t, b.needEntry col m.obj = (some e, t) → exec (.allowanceRecall home col) s =
        .next ((t.modCol col fun x => x.setEntry ⟨m.obj, 0, true⟩).sendAl col home m.obj (.ack e.units))) ∧
      (∀ t, b.needEntry col m.obj = (none, t) →
        exec (.allowanceRecall home col) s =
          .next ((b.modCol col fun x => { x with alRounds := m.obj :: x.alRounds }).sendAl col home m.obj (.ack 0)))) ∧
    (∀ m freed, down = some m → m.body = .release freed → ∃ t, exec (.allowanceRelease home col) s = .next t ∧
      t.msgs = b.msgs ∧ t.objs = s.objs ∧ m.obj ∉ (t.cols.get col).alRounds ∧
      (freed = true → (t.cols.get col).alEntry m.obj = none) ∧
      (freed = false → (t.cols.get col).alEntry m.obj =
        ((s.cols.get col).alEntry m.obj).map fun e => { e with recalled := false })) ∧
    (∀ o, s.objOf o.obj = some o → o.mode = .drain →
      (o.queue = [] → exec (.allowanceDrainServe o.obj) s =
        .next ((s.modObj o.obj fun x => { x with mode := .normal }).castAl (objHome o.obj) o.obj (.release false))) ∧
      (∀ r rest, o.queue = r :: rest → r.kind = .read → exec (.allowanceDrainServe o.obj) s =
        .next ((s.modObj o.obj fun x => { x with h := o.h, queue := rest }).sendAl (objHome o.obj) r.col o.obj
          (.grant r.agent (.value o.h) 0 o.c))) ∧
      (∀ r rest n, o.queue = r :: rest → r.kind = .take n → n ≤ o.h → exec (.allowanceDrainServe o.obj) s =
        .next ((s.modObj o.obj fun x => { x with h := o.h - n, queue := rest }).sendAl (objHome o.obj) r.col o.obj
          (.grant r.agent .granted 0 o.c)))) ∧
    (∀ m core slot team n u va d taken, down = some m → m.body = .giveReply (.group core slot team) n → b.focus core slot = some u →
      u.g.team = team → u.g.status = .allowance m.obj va (.give d taken) →
      let v : State := { u with g := { u.g with status := .ready } }
      exec (.giveReply home col) s = .next (v.retireWith (v.g.setS d (BitVec.ofNat 64 (taken + n)))))

/-! ### What completes by itself, and what wakes a group -/

/-- A blocked group goes on when its condition holds (R170, R172, R198, R233): past WAITP and ARWAIT, to the continuation of WAITY, past GWAIT
with an acquire, with the reply of an HCALL; the bytes of a peer let the group issue again (R142, R367).

What the engines finish: the MMAs of a group are performed, and none is left where no MMAS is ahead on their units (R181, R184); an MMAS
and the load of a macro end their operation and subtract its bytes from its point (R179, R182). With sound operands an MMA leaves in each Active
lane, and an MMAS in each lane of LIVE, the accumulators of the quarter that R57 gives, started from what they held, and every other as it
was: each K-block of the row adds the exact sum of its integer products, scaled, and rounds once into A96 (R50), or makes the element the NaN
where the block or a scale has none (R55, R56). A sector of a copy subtracts the bytes
moved, but for those that a lease, the host or a peer still holds, and the last performed ends the operation; a copy that fails ends with
an error flip (R173); a copy of a journal notifies, and its done word follows (R313). -/
def Obligations.WakesAndCompletions : Prop :=
  (∀ (s u : State) (core : CoreId) (slot : SlotId), s.focus core slot = some u → (u.ctxs.get u.ctxId).phase = .running →
     let ready : State := { u with g := { u.g with status := .ready } }
     let wake := Instr.waitWake core slot
     (∀ pt token, u.g.status = .blocked (.point pt token) →
       ((u.team.point pt).phase ≠ token → exec wake s = .next (ready.observe pt).retire) ∧
       ((u.team.point pt).phase = token → exec wake s = .next s)) ∧
     (∀ pt token C, u.g.status = .blocked (.waity pt token C) →
       ((u.team.point pt).phase ≠ token → exec wake s = .next ((ready.observe pt).jump C)) ∧
       ((u.team.point pt).phase = token → exec wake s = .next s)) ∧
     (∀ gv b, u.g.status = .blocked (.gridPoint gv .wait b) →
       ((u.grid.gvs.getD gv ⟨0, 0, []⟩).done = u.team.gvA.getD gv 0 → exec wake s = .next (ready.acquire .dev).retire) ∧
       ((u.grid.gvs.getD gv ⟨0, 0, []⟩).done ≠ u.team.gvA.getD gv 0 → exec wake s = .next s)) ∧
     (u.g.status = .blocked .immediate → exec wake s = .next ready) ∧
     (∀ n h r, u.g.status = .blocked (.hcallReply n) → u.g.hcall = some h → h.reply = some r →
       exec wake s = .next (u.deliverHcall h r.1 r.2)) ∧
     (u.g.status = .ready → exec wake s = .next s) ∧
     (∀ reply, s.links.reachesPeers (colDie (coreCol core)) = true → ∃ t, exec (.loadDataReturn core slot reply) s = .next t ∧ t.mem = s.mem ∧
       (s.g.isAt core slot = true → s.g.status = .blocked .peerLoad → s.g.peerData = none →
         t.g = { s.g with status := .ready, peerData := some reply }) ∧
       (s.g.isAt core slot = true → s.g.status = .blocked .peerFetch → s.g.fetched = none →
         t.g = { s.g with status := .ready, fetched := some reply }))) ∧
  (∀ (s : State) (core : CoreId) (slot : SlotId) (op : Nat) (o : EngineOp), s.ops.find? (fun x => x.id == op) = some o →
     (s.g.isAt core slot = true → ∃ t, exec (.mmaComplete core slot) s = .next t ∧ t = s.drainMmas ∧ t.ops = s.ops ∧
       ((∀ x ∈ s.g.mmas, s.mmasAhead s.g.team x.id x.q x.mg x.slotA x.slotB = false) → t.g.mmas = []) ∧
       (∀ x M, s.g.mmas = [x] → s.mmasAhead s.g.team x.id x.q x.mg x.slotA x.slotB = false → s.g.unseenQ x.q.toNat = false →
         s.g.bad = [] → x.bad = [] → s.macroView s.g.team x.mg s.g.index x.id = M → M.badCells = [] → M.badCols = [] →
         let inside := fun (i L : Nat) => i / 16 = x.q.toNat ∧ x.active.getLsbD L = true
         let new := fun (i L : Nat) => accumulate M x.job (x.row L) (i % 16) (s.g.acc i L)
         (∀ i < 64, ∀ L < 64, (inside i L → t.g.acc i L = (new i L).1) ∧ (¬inside i L → t.g.acc i L = s.g.acc i L)) ∧
         ∀ k < 7, t.g.fl.getLsbD k = true ↔
           s.g.fl.getLsbD k = true ∨ ∃ i < 64, ∃ L < 64, inside i L ∧ (new i L).2.getLsbD k = true)) ∧
     (∀ off q mg a b old, o.kind = .mmas off q mg a b old → s.mmasReady o q mg a b = true →
       ∃ u : State, exec (.mmasComplete op) s = .next (u.updPoint o.team o.point 0 (-(o.total : Int))) ∧
         u.ops = s.ops.filter (fun x => x.id != op) ∧ u.teams = s.teams ∧
         ∀ g M, (s.dropOp op).opGroup o = some g → s.macroView o.team mg g.index op = M → M.badCells = [] → M.badCols = [] → g.bad = [] →
           o.ahead = [] → old = [] → s.mem.olds = [] → s.mem.poison = [] → s.mem.badBytes = [] → s.mem.dead = none →
           (∀ e ∈ g.unseen, e.op = op → e.starts.length ≤ 1) →
           let row := fun (L : Nat) => (s.tileRow o.team off a [] L)
           let job : MatJob := ⟨q.toNat, mg, a, b, (lanesOf g.live).map fun L => (L, row L)⟩
           ∃ after, u.groupAt o.core o.slot = some after ∧ ∀ i < 64, ∀ L < 64, after.acc i L =
             if i / 16 = q.toNat ∧ g.live.getLsbD L = true then (accumulate M job (row L) (i % 16) (g.acc i L)).1 else g.acc i L) ∧
     (∀ off mg w zeroed, o.kind = .ink off mg w zeroed → s.inkReady o mg = true →
       ∃ u : State, exec (.inkComplete op) s = .next (u.updPoint o.team o.point 0 (-(o.total : Int))) ∧
         u.ops = s.ops.filter (fun x => x.id != op) ∧
         (∀ team, s.teamOf o.team = some team → mg < team.macros.length → zeroed = false → ∃ after, u.teamOf o.team = some after ∧
           (after.macros.getD mg Macro.reset).cells =
             (((s.dropOp op).tileView o off).inkMacro o.team off w (team.macros.getD mg Macro.reset)).1.cells)) ∧
     (let done := fun (t : State) (n : Nat) => n - (t.copyWaiting op - s.copyWaiting op)
      (∀ c, o.kind = .copy c → s.ops.find? (fun x => x.id == op && x.held.isNone && x.alWait.isNone && x.pos < x.total) = some o →
         (∀ t n, s.copySector o c (.copy o.core o.slot o.pc) = .moved t n →
           let u := t.modOp op fun _ => { o with pos := o.pos + n }
           exec (.copySectorWritten op) s = .next ((if o.pos + n = o.total ∧ u.copyPending op = false then u.dropOp op
             else u).updPoint o.team o.point 0 (-(done t n : Int)))) ∧
         (∀ t code va incs, s.copySector o c (.copy o.core o.slot o.pc) = .stopped t code va incs →
           exec (.copySectorWritten op) s = .next (t.copyStops o code va incs)) ∧
         (∀ t, s.copySector o c (.copy o.core o.slot o.pc) = .waits t → exec (.copySectorWritten op) s = .next t)) ∧
       (∀ c j seq corr who da dv, o.kind = .journalCopy c j seq corr who da dv →
         s.ops.find? (fun x => x.id == op && x.held.isNone && x.alWait.isNone) = some o →
         (o.total ≤ o.pos → exec (.journalCopySector op) s = .next ((s.journalDone o).acceptBads j)) ∧
         (o.pos < o.total → ∀ t n, s.copySector o c (.journal corr) = .moved t n → o.pos + n ≠ o.total →
           exec (.journalCopySector op) s =
             .next (((t.modOp op fun x => { x with pos := x.pos + n }).notify o (done t n)).acceptBads j))))) ∧
  (∀ (s : State) (team mg index id off L : Nat) (w : Word32) (t : Team), s.teamOf team = some t →
     let M := t.macros.getD mg Macro.reset
     (M.old = [] → (∀ x ∈ s.ops, x.team = team → x.id < id → ∀ off w z, x.kind ≠ .ink off mg w z) → s.macroView team mg index id = M) ∧
     (s.mem.olds = [] → s.mem.poison = [] → s.mem.badBytes = [] → s.mem.dead = none →
       let rb := (if aPasses (slotCode w) = some 16 then 32 else 64) * matBits (slotCode w) / 8
       let blocks := if aPasses (slotCode w) = some 16 then 1 else 2
       let bytes := fun (o n : Nat) => leNat (tabList (fun x => memByte s (scratchLoc team x)) o n)
       s.tileRow team off w [] L =
         ⟨bytes (off + rb * L) rb, if slotScaled w then bytes (off + 64 * rb + blocks * L) blocks else 0, [], []⟩)) ∧
  (∀ (M : Macro) (job : MatJob) (row : ARow) (n : Nat) (start : Acc), M.badCells = [] → M.badCols = [] → row.failed = [] →
     row.failedBlocks = [] →
     let code := slotCode job.slotA
     let wide := slotWide job.slotB
     let cols := if wide then 32 else 64
     let column := if wide then 16 * (job.q % 2) + n else 16 * job.q + n
     let result := accumulate M job row n start
     let step := fun (j block : Nat) (st r : Acc × Flags) =>
       let B := M.cols.getD (cols * block + column) KCol.reset
       let cA := if slotScaled job.slotA then field row.scales (8 * j) 8 else 0x7F
       let cB := if slotScaled job.slotB then B.scale.toNat else 0x7F
       let xs := (List.range 32).map fun k => (matElem code).decode false (field row.bits (matBits code * (32 * j + k)) (matBits code))
       (blockInts code 15 xs = none ∨ B.nan = true ∨ cA = 0xFF ∨ cB = 0xFF → r = (a96Nan, st.2 ||| flScaleNan)) ∧
       ∀ as eA, blockInts code 15 xs = some (as, eA) → B.nan = false → cA ≠ 0xFF → cB ≠ 0xFF →
         ((a96Value st.1).isNan = true → r = st) ∧
         ((a96Value st.1).isNan = false →
           let D := ((List.range 32).map fun k => as.getD k 0 * M.cells.getD (cols * (32 * block + k) + column) 0).sum
           ∃ x, RoundedA96 (numVal (a96Value st.1) + D * (2 : Rat) ^ ((cA : Int) - 127 + ((cB : Int) - 127) + eA + B.eB)) x ∧
             r = (x.1, st.2 ||| x.2))
     (aPasses code = some 16 → step 0 (if slotKhi job.slotA then 1 else 0) (start, 0) result) ∧
     (aPasses code ≠ some 16 → ∃ mid, step 0 0 (start, 0) mid ∧ step 1 1 mid result)) ∧
  (∀ (xs : List Machine.Num) (W : Nat), 0 < W →
     ((∃ x ∈ xs, x.isNan = true ∨ x.isInf = true) → alignBlock xs W = none) ∧
     ((∀ x ∈ xs, x.isNan = false ∧ x.isInf = false) →
       ((∀ x ∈ xs, numVal x = 0) → alignBlock xs W = some (xs.map fun _ => 0, 0)) ∧
       ∀ top : Int, (∃ x ∈ xs, (2 : Rat) ^ top ≤ |numVal x|) → (∀ x ∈ xs, |numVal x| < (2 : Rat) ^ (top + 1)) →
         let floor := fun (x : Machine.Num) => ⌊|numVal x| * (2 : Rat) ^ ((W : Int) - 1 - top)⌋
         alignBlock xs W = some (xs.map (fun x => if numVal x < 0 then -floor x else floor x), top - (W - 1)))) ∧
  (∀ (code W : Nat) (xs : List Machine.Num) (ks : List Int) (ps : List Nat),
     (code = 0x10 ∨ code = 0x11 ∨ code = 0x12 → blockInts code W (ks.map numOfInt) = some (ks, 0)) ∧
     ((∀ p ∈ ps, p < 16) → ∃ as : List Int, blockInts 0x20 W (ps.map fun p => (matElem 0x20).decode false p) = some (as, -1) ∧
       (as.map fun (k : Int) => (k : Rat) / 2) = ps.map fun p => numVal ((matElem 0x20).decode false p)) ∧
     (code = 0x21 ∨ code = 0x22 ∨ code = 0x23 ∨ code = 0x30 ∨ code = 0x31 → blockInts code W xs = alignBlock xs W))

/-! ### Launching, retiring -/

/-- The launch ports (R219 to R221, R223, R225, R226, R187): an eight-byte store of a record's address to the first word of a line queues it
while the queue has room, and is dropped otherwise; a store to the other words of a line is ignored; the port takes a record, rejects it at
its first bad field, or accepts it as a grid; one whose glyph table was held on a fault goes on from the table; a dependence whose word has
reached its threshold is met, and the grid is offered when all are; a grid that may place places its next team; a team that finds no core,
and the teams of a COHORT grid that find none together (log entry 127), may go elsewhere; the timer of a bin forms a team of its records. -/
def Obligations.Launching : Prop :=
  ∀ (s : State) (col : ColId) (line : LineId) (ctx : CtxId) (grid : Nat),
    (∀ size off value,
      let ok := size = 8 ∧ off = 0 ∧ recordAddr value = true ∧ ((s.cols.get col).lines.get line).queued < 64
      (ok → exec (.launchSignalStore ctx col line size off value) s = .next (({ s with fresh := s.fresh + 1 } : State).modLine col line
        fun x => { x with queue := x.queue ++ [⟨s.fresh, value, ctx, 1, none, none, none, none, []⟩] })) ∧
      (off < 8 → ¬ok → exec (.launchSignalStore ctx col line size off value) s = .next (s.dropLaunch ctx col line value)) ∧
      (8 ≤ off → exec (.launchSignalStore ctx col line size off value) s = .next s)) ∧
    (∀ e, ((s.cols.get col).lines.get line).queue.find? (fun e => e.grid.isNone && e.held.isNone) = some e →
      (e.bytes ≠ [] →
        (s.gridTable (portAgent e.ctx col) (parseLaunch e.bytes) = .bad →
          exec (.launchPortRead col line) s = .next (s.rejectRecord col line e (some 0xF0) [])) ∧
        (∀ es off, s.gridTable (portAgent e.ctx col) (parseLaunch e.bytes) = .ok es →
          s.badAdmission e.ctx (parseLaunch e.bytes) = some off →
          exec (.launchPortRead col line) s =
            .next ((s.tableRows (portAgent e.ctx col) (parseLaunch e.bytes)).rejectRecord col line e (some off) [])) ∧
        (∀ es, s.gridTable (portAgent e.ctx col) (parseLaunch e.bytes) = .ok es →
          s.badAdmission e.ctx (parseLaunch e.bytes) = none → ∃ t, exec (.launchPortRead col line) s = .next t ∧
            ∃ x : Grid, t.grids = s.grids ++ [x] ∧ x.ctx = e.ctx ∧ x.record = e.record ∧ x.launch = parseLaunch e.bytes ∧
              x.depth = e.depth ∧ x.parent = e.parent ∧ x.next = 0)) ∧
      (e.bytes = [] →
        (∀ va incs k, s.agentAcquire (portAgent e.ctx col) e.record.toNat 256 = .error (.fail va incs k) →
          exec (.launchPortRead col line) s = .next (s.rejectRecord col line e none incs)) ∧
        (∀ bs, s.agentAcquire (portAgent e.ctx col) e.record.toNat 256 = .ok bs →
          let e' := { e with bytes := bs }
          let u := (s.agentRows (portAgent e.ctx col) e.record.toNat 256).modLine col line fun l => l.setEntry e'
          (∀ off, u.badField e.ctx bs = some off →
            exec (.launchPortRead col line) s = .next (u.rejectRecord col line e' (some off) [])) ∧
          (u.badField e.ctx bs = none → exec (.launchPortRead col line) s = .next (u.checkTable col line e'))))) ∧
    (∀ x, s.gridOf grid = some x → x.stage = .held → x.depsOk = [false, true, true, true] → x.depWait = [] →
      ∀ bs, s.agentAcquire (portAgent x.ctx x.col) (x.launch.deps.getD 0 (0, 0)).1.toNat 8 = .ok bs →
        ∃ t y, exec (.dependencePoll grid) s = .next t ∧ t.gridOf grid = some y ∧ t.mem = s.mem ∧
          ((x.launch.deps.getD 0 (0, 0)).2.toNat ≤ leNat bs → y.stage = .offered) ∧
          (leNat bs < (x.launch.deps.getD 0 (0, 0)).2.toNat → y = x)) ∧
    (∀ x, s.gridOf grid = some x → s.coresOf x = [] ∨ x.launch.glyphs = 0 → s.mayAdmit x = true → s.admits x.ctx = true →
      s.waitingOf x = [] → x.launch.cohort = false → x.stage = .offered →
      ∀ core, s.placeLaunched x x.nextHead x.next x.diverted = some core →
        let u := ({ s with fresh := s.fresh + 1 } : State).admitTeam x (x.launched s.fresh x.next) core
        ∃ t, exec (.teamAdmission grid) s = .next t ∧ t.teams = u.teams ∧ t.others = u.others ∧
          ∀ y, u.gridOf grid = some y → ∃ z, t.gridOf grid = some z ∧ z.next = y.next + 1 ∧
            (y.next + 1 = y.launch.teams → z.stage = .placed)) ∧
    (∀ x, s.gridOf grid = some x → x.stage = .offered → ∃ t, exec (.placementDiversionTimeout grid) s = .next t ∧ t.mem = s.mem ∧
      (s.placeLaunched x x.nextHead x.next false = none → ∃ y, t.gridOf grid = some y ∧ y.diverted = true) ∧
      (x.launch.cohort = false → s.placeLaunched x x.nextHead x.next false ≠ none → t.grids = s.grids) ∧
      (x.launch.cohort = true → s.nextStuck x = true → ∃ y, t.gridOf grid = some y ∧ y.diverted = true) ∧
      (x.launch.cohort = true → s.nextStuck x = false → t.grids = s.grids)) ∧
    (∀ bin b x, (s.cols.get col).bins.find? (fun b => b.id == bin) = some b → (s.ctxs.get b.ctx).phase = .running →
      s.gridOf b.grid = some x → b.records.length ≤ 64 → ∃ t tm, exec (.spawnBinTimer col bin) s = .next t ∧
        t.teams = s.teams ++ [tm] ∧ tm.ctx = b.ctx ∧ tm.grid = b.grid ∧ tm.entry = b.entry ∧ tm.payloads = b.records ∧
        tm.spawned = true ∧ tm.value = BitVec.ofNat 64 (2 ^ 63 + x.spawnSerial % 2 ^ 32) ∧ tm.place = .waiting ∧
        (t.cols.get col).bins.find? (fun b => b.id == bin) = none)

/-- How teams and grids end (R226, R227, R229, R230, R234, R337): an early commit leaves no version and no group that waits for it, once
what it waits for is performed; a team all of whose groups are done and whose children are gone retires with its groups; a grid without
teams retires after its completion store, which waits until the writes of its context are performed (R259); a team at its blocking points is
saved once the writes of its core are performed, and the last one saves the context; the head team of a core holds it; a group that is ready,
or whose held instruction may go on, ages (R227), and the hold of YIELD ends. -/
def Obligations.Retiring : Prop :=
  ∀ (s : State) (core : CoreId) (slot : SlotId) (team grid : Nat),
    (∀ t, s.teamOf team = some t → s.oldestVersion t = true → s.commitWanted t = true →
      ((s.commitFirst t).mayCommit t = true →
        ∃ u, exec (.earlyCommit team) s = .next u ∧ (∀ after, u.teamOf team = some after → after.version = none) ∧
          ∀ g ∈ u.groups, g.team = team → g.status ≠ .blocked .earlyCommit) ∧
      ((s.commitFirst t).mayCommit t = false → exec (.earlyCommit team) s = .next (s.commitFirst t))) ∧
    (∀ t, s.teamOf team = some t → s.mayRetire t = true → t.version = none → ∃ u, exec (.teamRetirement team) s = .next u ∧
      u.teams = s.teams.filter (fun x => x.id != team) ∧ (∀ g ∈ u.groups, g.team ≠ team) ∧ u.mem = s.mem) ∧
    (∀ t, s.teamOf team = some t → s.mayRetire t = false → exec (.teamRetirement team) s = .next s) ∧
    (∀ x, s.gridOf grid = some x → s.gridDone x = true →
      (x.launch.doneAddr = 0 ∨ x.haltSeen = true → ∃ u, exec (.gridRetirement grid) s = .next u ∧ u.gridOf grid = none) ∧
      (x.launch.doneAddr ≠ 0 → x.haltSeen = false →
        let u := s.cleanCores x.ctx
        (u.outstanding x.ctx = true → exec (.gridRetirement grid) s = .next u) ∧
        (u.outstanding x.ctx = false → ∀ w, u.agentWrite (portAgent x.ctx x.col) .write x.launch.doneAddr.toNat x.launch.doneValue.toNat
            (some (.completion grid)) = .ok w →
          (w.tagPending (.completion grid) = false →
            exec (.gridRetirement grid) s = .next (w.endGrid x) ∧ (w.endGrid x).gridOf grid = none) ∧
          (w.tagPending (.completion grid) = true →
            exec (.gridRetirement grid) s = .next (w.modGrid grid fun y => { y with stage := .completing }))))) ∧
    (∀ t, s.teamOf team = some t → (s.ctxs.get t.ctx).phase = .saving → t.place = .resident →
      (s.cohortOf t).all s.canSave = true → ∃ v, exec (.teamSave team) s = .next v ∧
        let s1 := (s.cohortOf t).foldl (fun (u : State) x => u.sendOn x.core .dev) s
        let u := (s.cohortOf t).foldl State.saveTeam s1
        let performed := (s.cohortOf t).all fun x => s1.performedBy x.core .dev
        (performed = false → (v.ctxs.get t.ctx).phase = .saving) ∧
        (performed = true → (u.saveArea t.ctx).length ≤ s.saveSize → s1.devOpen (s.saveBase t.ctx) (u.saveArea t.ctx).length = true →
          ((u.writeArea t.ctx).teams.any fun x => x.ctx == t.ctx && x.place == .resident) = false →
          (v.ctxs.get t.ctx).phase = .saved) ∧
        (performed = true → s.saveSize < (u.saveArea t.ctx).length → (v.ctxs.get t.ctx).phase = .stopped)) ∧
    (∀ x h, leastBy s.offerKey (s.grids.filter fun x => (s.headOn x core).isSome) = some x → s.headOn x core = some h →
      x.launch.cohort = false → (s.cores.get core).headHold = none → ∃ u, exec (.headTeamHold core) s = .next u ∧
        (u.cores.get core).headHold = some h ∧ u.teams = s.teams ∧ u.mem = s.mem) ∧
    (s.g.isAt core slot = true →
      (s.g.status = .ready ∨ s.g.status = .stalled → ∃ u, exec (.groupAged core slot) s = .next u ∧ u.g = { s.g with aged := true } ∧ u.mem = s.mem) ∧
      (∃ u, exec (.yieldHoldExpiry core slot) s = .next u ∧ u.g = { s.g with yieldHold := false } ∧ u.mem = s.mem))

/-! ### Journals and contexts -/

/-- Journals (R313 to R317): the next command of a journal, when it has the right sequence number and is a good one, and once its accepted
entry can be written (R364, R370), is performed and accepted with its status: LAUNCH stores a record's address to a line, or finds it full;
COPY starts an operation; SIGNAL writes or adds a word; BARRIER does nothing more. A write of SUBMIT posts commands, is ignored, or is an
overrun; one of AJCONS frees entries; an entry with a wrong sequence number is read again, and after a hundred reads accepted and not
performed, but not while a SIGNAL is held. A SIGNAL that a scope mark holds back (R262) is performed in its turn. A device whose boot has stopped
takes no write of its pages (R374). -/
def Obligations.Journals : Prop :=
  ∀ (s : State) (j : JournalId),
    (∀ n bs, s.nextCmd j = some (n, bs) → cmdRefusal j bs = none → s.acceptOpen j n = false →
      ∀ i op, (i, op) ∈ [(Instr.journalLaunch j, 1), (.journalCopy j, 2), (.journalSignal j, 3), (.journalBarrier j, 4)] → cmdOp bs = op →
        exec i s = .next (s.acceptKeep j n)) ∧
    (∀ n bs, s.nextCmd j = some (n, bs) → cmdRefusal j bs = none → s.acceptOpen j n = true →
      let taken := fun (u : State) (st : CmdStatus) (d : Nat) =>
        Host.Outcome.next (ρ := Refusal) (φ := Fault) ((u.accept j n bs st d).acceptBads j)
      s.acceptBads j = s ∧
      (∀ (u : State) st d, (((u.accept j n bs st d).jrns.get j).accepted = BitVec.ofNat 64 n)) ∧
      (cmdOp bs = 1 → ∀ (c : ColId) (l : LineId), c.val = recNat bs 0x18 1 → l.val = recNat bs 0x19 1 →
        let value := BitVec.ofNat 64 (recNat bs 0x10 8)
        (recordAddr value = true → ((s.cols.get c).lines.get l).queued < 64 →
          exec (.journalLaunch j) s = taken (s.signalStore (journalCtx j) c (128 * l.val) 8 value) .ok 0) ∧
        (64 ≤ ((s.cols.get c).lines.get l).queued → ∃ u : State, exec (.journalLaunch j) s = taken u .lineFull l.val ∧
          ∀ k, ((u.cols.get c).lines.get k).queue = ((s.cols.get c).lines.get k).queue)) ∧
      (cmdOp bs = 2 → ∃ u o, exec (.journalCopy j) s = taken u .ok 0 ∧ u.ops = s.ops ++ [o] ∧ u.mem = s.mem ∧
        o.ctx = journalCtx j ∧ o.total = recNat bs 0x20 4 ∧ o.pos = 0 ∧ o.point = recNat bs 0x24 1) ∧
      (cmdOp bs = 3 → exec (.journalSignal j) s = taken (s.signal j (BitVec.ofNat 64 (recNat bs 0x10 8))
        (BitVec.ofNat 64 (recNat bs 0x18 8)) (recNat bs 0x20 1 == 1) (cmdCorr bs)) .ok 0) ∧
      (cmdOp bs = 4 → exec (.journalBarrier j) s = taken s .ok 0)) ∧
    (∀ va value add corr, (s.jrns.get j).signal = some (va, value, add, corr, none) →
      exec (.journalSignal j) s = .next ((s.signal j va value add corr).acceptBads j)) ∧
    (s.dev.bootFail = true → ∀ value : Word, exec (.submitWrite j value) s = .next s ∧ exec (.ajconsWrite j value) s = .next s) ∧
    (s.dev.bootFail = false → ∀ value : Word, let x := s.jrns.get j
      (value.toNat ≤ x.submit.toNat → exec (.submitWrite j value) s = .next s) ∧
      (x.submit.toNat < value.toNat → value.toNat ≤ x.accepted.toNat + x.entries →
        exec (.submitWrite j value) s = .next ((s.modJrn j fun y => { y with submit := value }).acceptBads j)) ∧
      (x.submit.toNat < value.toNat → x.accepted.toNat + x.entries < value.toNat →
        ∃ i : Incident, exec (.submitWrite j value) s = .next (s.report i) ∧ i.detail = value) ∧
      (x.ajcons.toNat < value.toNat → value.toNat ≤ x.accepted.toNat →
        exec (.ajconsWrite j value) s = .next ((s.modJrn j fun y => { y with ajcons := value }).acceptBads j)) ∧
      (value.toNat ≤ x.ajcons.toNat ∨ x.accepted.toNat < value.toNat → exec (.ajconsWrite j value) s = .next s)) ∧
    ((s.jrns.get j).signal ≠ none → exec (.seqMismatchReread j) s = .next s) ∧
    (∀ n bs, s.nextEntry j = some (n, bs) → cmdSeq bs ≠ n % 2 ^ 64 → (s.jrns.get j).signal = none →
      ((s.jrns.get j).rereads < 99 →
        exec (.seqMismatchReread j) s = .next (s.modJrn j fun y => { y with rereads := y.rereads + 1 })) ∧
      (99 ≤ (s.jrns.get j).rereads → s.acceptOpen j n = true →
        exec (.seqMismatchReread j) s = .next ((s.accept j n bs .seqMismatch (cmdSeq bs)).acceptBads j)))

/-- Context commands (R310, R312, R313, R234, R236), as the good next command of the management journal whose accepted entry can be written:
CTX_CREATE reads the entry of a FREE context and makes it RUNNING, CTX_SET reads it again, CTX_PREEMPT starts to save, or saves a stopped
context set by set and waits while writes of a set are not performed (R336), CTX_RESUME lets saved teams wait for admission, CTX_RESET and
CTX_DESTROY discard what the context has, CTX_STOP stops it; a state in which the command is not allowed, and a bad field, are answered so.
The deadline of a pre-emption stops a context in the error state, and so does the watchdog where no group has issued for its interval and
one waits inside the context. -/
def Obligations.ContextCommands : Prop :=
  ∀ s : State, (∀ n bs, s.nextCmd 64 = some (n, bs) → cmdRefusal 64 bs = none → s.acceptOpen 64 n = false →
    ∀ i op, (i, op) ∈ [(Instr.ctxCreate, 0x10), (.ctxSet, 0x11), (.ctxPreempt, 0x12), (.ctxResume, 0x13), (.ctxReset, 0x14),
      (.ctxDestroy, 0x15), (.ctxStop, 0x16)] → cmdOp bs = op → exec i s = .next (s.acceptKeep 64 n)) ∧
  (∀ n bs, s.nextCmd 64 = some (n, bs) → cmdRefusal 64 bs = none → s.acceptOpen 64 n = true →
    let c := cmdCtx bs
    let x := s.ctxs.get c
    let entry := s.physRead (s.ctxEntry c) 256
    let taken := fun (u : State) (st : CmdStatus) (d : Nat) =>
      Host.Outcome.next (ρ := Refusal) (φ := Fault) ((u.accept 64 n bs st d).acceptBads 64)
    let clean := fun (u : State) => (∀ t ∈ u.teams, t.ctx ≠ c) ∧ (∀ g ∈ u.grids, g.ctx ≠ c) ∧ (∀ o ∈ u.objs, o.ctx ≠ c) ∧
      (u.ctxs.get c).error = false
    let drained := x.phase ≠ .free ∧ (s.dropCtxTlb c).ctxHeld c = false ∧
      (s.jrns.get (CtxId.journal c)).accepted = (s.jrns.get (CtxId.journal c)).submit
    (cmdOp bs = 0x10 →
      (x.phase ≠ .free → exec .ctxCreate s = taken s .ctxState x.stateWord) ∧
      (x.phase = .free → ∀ off, badEntry entry true = some off → exec .ctxCreate s = taken s .badField off) ∧
      (x.phase = .free → badEntry entry true = none → ∃ u : State, exec .ctxCreate s = taken u .ok 0 ∧
        u.ctxs.get c = { Ctx.reset.read entry with phase := .running, issuedAt := s.ptp.toNat } ∧
        u.jrns.get (CtxId.journal c) = Journal.ofEntry entry)) ∧
    (cmdOp bs = 0x11 → x.phase ≠ .free → badEntry entry false = none → (s.dropCtxTlb c).ctxHeld c = false →
      ∃ (u : State) (y : Ctx), exec .ctxSet s = taken u .ok 0 ∧ u.ctxs.get c = y.read entry) ∧
    (cmdOp bs = 0x12 →
      (x.phase = .running → (s.teams.any fun t => t.ctx == c && t.place == .resident) = true → ∃ u : State, exec .ctxPreempt s = taken u .ok 0 ∧
        (u.ctxs.get c).phase = .saving ∧ u.teams = s.teams) ∧
      (x.phase = .stopped → s.standsStill c = true → s.residentSets c ≠ [] →
        let r := State.saveSets c (s.residentSets c) s
        (r.2 = true → exec .ctxPreempt s = taken r.1 .ok 0) ∧ (r.2 = false → exec .ctxPreempt s = .next r.1))) ∧
    (cmdOp bs = 0x13 → x.phase = .saved → s.binRoom c = true → ∃ u : State, exec .ctxResume s = taken u .ok 0 ∧
      (u.ctxs.get c).phase = .running ∧ ∀ t ∈ u.teams, t.ctx = c → t.place ≠ .saved) ∧
    (cmdOp bs = 0x14 → drained → ∃ u : State, exec .ctxReset s = taken u .ok 0 ∧ (u.ctxs.get c).phase = .running ∧ clean u) ∧
    (cmdOp bs = 0x15 → drained → ∃ u : State, exec .ctxDestroy s = taken u .ok 0 ∧ (u.ctxs.get c).phase = .free ∧ clean u) ∧
    (cmdOp bs = 0x16 →
      (x.phase = .running ∨ x.phase = .saving → ∃ u : State, exec .ctxStop s = taken u .ok 0 ∧ (u.ctxs.get c).phase = .stopped) ∧
      (x.phase = .free → exec .ctxStop s = taken s .ctxState x.stateWord))) ∧
    (∀ d : CtxId, (s.ctxs.get d).phase = .saving → ∃ t, exec (.preemptDeadline d) s = .next t ∧
      (t.ctxs.get d).phase = .stopped ∧ (t.ctxs.get d).error = true) ∧
    (∀ d : CtxId, ((s.ctxs.get d).phase = .running ∨ (s.ctxs.get d).phase = .saving) →
      (s.ctxs.get d).issuedAt + (s.ctxs.get d).watchdog ≤ s.ptp.toNat →
      ((s.groupsOf d).filter Group.waits).any s.waitsInside = true → ∃ t, exec (.deadlockWatchdog d) s = .next t ∧
        (t.ctxs.get d).phase = .stopped ∧ (t.ctxs.get d).error = true)

/-! ### Queues, registers, shootdowns -/

/-- The queues of a column (R319, R320, R329, R331, R332): a reply is delivered to the group that waits for it, or kept while its
context does not run; HQHEAD and FQHEAD take the value written; a record done lets the group whose fault it holds issue again, or
meet a failure where its status is 1. A device whose boot has stopped takes none of these writes (R374).

Shootdowns (R326, R327): a request is issued while fewer than sixteen are in flight and refused otherwise; the oldest
removes its translations, so that no core and no slice holds one, and completes when no write that they served is held and no answer of a
peer or of an allowance object's home is awaited. -/
def Obligations.QueueWrites : Prop :=
  (∀ (s : State) (col : ColId) (value : Word), s.dev.bootFail = true →
     exec (.hreplyWrite col value) s = .next s ∧ exec (.hqheadWrite col value) s = .next s ∧
     exec (.fqheadWrite col value) s = .next s ∧ exec (.fqdoneWrite col value) s = .next s) ∧
  (∀ (s : State) (col : ColId) (value : Word), s.dev.bootFail = false →
     let c := s.cols.get col
     (∀ r, c.hq.find? (fun r => r.record % 2 ^ c.hqLog.toNat == value.toNat % 1024) = some r →
       let reply := s.readReply (c.hqSlot r.record)
       let s1 := s.modCol col fun x => { x with hq := x.hq.filter fun y => y.record != r.record }
       ∀ g t h, s1.groups.find? (Group.awaits r) = some g → s1.focus g.core g.slot = some t → g.hcall = some h →
         (t.ctx.phase = .running → exec (.hreplyWrite col value) s = .next (t.deliverHcall h reply.1 reply.2)) ∧
         (t.ctx.phase ≠ .running → exec (.hreplyWrite col value) s = .next { t with g := t.g.keepReply reply })) ∧
     (c.hq = [] → exec (.hreplyWrite col value) s = .next s) ∧
     (∃ t, exec (.hqheadWrite col value) s = .next t ∧ t.cols.get col = { c with hqHead := value.extractLsb' 0 32 } ∧
       t.mem = s.mem ∧ t.g = s.g) ∧
     (∃ t, exec (.fqheadWrite col value) s = .next t ∧
       (((s.waiters col).filter fun w => w.fault.record.isNone) = [] → (t.cols.get col).fqHead = value.extractLsb' 0 32 ∧ t.g = s.g)) ∧
     (c.fq = [] → exec (.fqdoneWrite col value) s = .next s) ∧
     (∀ r, c.fq.find? (fun r => !r.done && (r.record.map fun k => k % 2 ^ c.fqLog.toNat) == some (value.toNat % 4096)) = some r →
       let refused := s.physNat (c.fqSlot (r.record.getD 0) + 0x24) 4 == 1
       let s1 := s.modCol col fun x =>
         { x with fq := updWhere (fun y => y.record == r.record) (fun y => { y with done := true }) x.fq }
       exec (.fqdoneWrite col value) s =
         .next (((s.waiters col).filter fun w => w.fault.record == r.record).foldl (fun t w => t.serve col refused w) s1) ∧
       (∀ w core slot, w.holder = .group core slot → s1.g.isAt core slot = true → s1.g.status = .blocked .fault →
         (s1.serve col refused w).g = { s1.g with
           status := .ready
           kept := updWhere (fun x => x == w.fault) (fun x => { x with refused := refused }) s1.g.kept }))) ∧
  (∀ (s : State) (vpn : BitVec 39) (c : CtxId),
     (∀ i x, (i = Instr.tlbShootdownPage vpn c ∧ x = Shootdown.page vpn.toNat c) ∨
         (i = Instr.tlbShootdownContext c ∧ x = Shootdown.context c) ∨
         (i = Instr.tlbShootdownAllContexts vpn ∧ x = Shootdown.everywhere vpn.toNat) →
       (s.dev.shootdowns.length < 16 → exec i s = .next { s with dev := { s.dev with
         sdIssued := s.dev.sdIssued + 1, shootdowns := s.dev.shootdowns ++ [x] } }) ∧
       (16 ≤ s.dev.shootdowns.length → exec i s = .next { s with dev := { s.dev with sdRefused := s.dev.sdRefused + 1 } })) ∧
     (∀ x rest, s.dev.shootdowns = x :: rest →
       ((s.shootdownDone x).shootdownWaits x = true → exec .shootdownComplete s = .next (s.shootdownDone x)) ∧
       ((s.shootdownDone x).shootdownWaits x = false → ∃ t, exec .shootdownComplete s = .next t ∧ t.dev.shootdowns = rest)) ∧
     (∀ p k, (∀ e ∈ ((s.dropTlb p).cores.get k).fetchTlb, p e = false) ∧ (∀ e ∈ ((s.dropTlb p).cores.get k).dataTlb, p e = false)) ∧
     (∀ p k, ∀ e ∈ ((s.dropTlb p).cols.get k).stlb, p e = false))

/-- Registers of BAR0 (R308, R309, R314, R319, R326, R333, R377): writes to the doorbells and to the registers that have events of
their own do what these do; CTXTBL is written while every context is FREE, the save area while none is being saved; TDISP refuses
with an incident; once the boot has stopped only the device block is there (R374). -/
def Obligations.RegisterWrites : Prop :=
  ∀ (s : State) (off : BitVec 24) (value : Word) (ide : Bool),
    let w := Instr.registerWrite off value ide
    (s.tdispRefuses off.toNat ide = true → ∃ i : Incident, exec w s = .next (s.report i)) ∧
    (s.tdispRefuses off.toNat ide = false →
      (off = 0 →
        ((∀ c, (s.ctxs.get c).phase = .free) →
          exec w s = .next { s with dev := { s.dev with ctxtbl := value.extractLsb' 14 38 } }) ∧
        ((∃ c, (s.ctxs.get c).phase ≠ .free) → exec w s = .next s)) ∧
      (off = 0x118 →
        ((∀ c, (s.ctxs.get c).phase ≠ .saving ∧ (s.ctxs.get c).phase ≠ .saved) →
          exec w s = .next { s with dev := { s.dev with saveBase := value.extractLsb' 16 36 } }) ∧
        ((∃ c, (s.ctxs.get c).phase = .saving ∨ (s.ctxs.get c).phase = .saved) → exec w s = .next s)) ∧
      (off = 0x188 → exec w s = .next { s with dev := { s.dev with maxpa := value.extractLsb' 16 36 } }) ∧
      (off = 0x1A8 → exec w s = .next { s with dev := { s.dev with ckdst := value.extractLsb' 12 40 } }) ∧
      (off = 0x100 → value.extractLsb' 55 9 = 0 → value.extractLsb' 6 8 = 0 →
        (value.extractLsb' 14 2 = 0 → ∀ c : CtxId, c.val = (value.extractLsb' 0 6).toNat →
          exec w s = exec (.tlbShootdownPage (value.extractLsb' 16 39) c) s) ∧
        (value.extractLsb' 14 2 = 2 → exec w s = exec (.tlbShootdownAllContexts (value.extractLsb' 16 39)) s)) ∧
      (off = 0x210 → exec w s = exec (.goWrite value) s) ∧
      (off = 0x310 → exec w s = exec (.devreset value) s) ∧
      (off = 0x418 → exec w s = exec (.logconsWrite value) s) ∧
      (s.dev.bootFail = true → 0x10000 ≤ off.toNat → exec w s = .next s) ∧
      (s.dev.bootFail = false → ∀ j : JournalId,
        (off.toNat = 0x10000 + 0x1000 * j.val → exec w s = exec (.submitWrite j value) s) ∧
        (off.toNat = 0x10010 + 0x1000 * j.val → exec w s = exec (.ajconsWrite j value) s)) ∧
      (s.dev.bootFail = false → ∀ c : ColId,
        (off.toNat = 0x100018 + 0x1000 * c.val → exec w s = exec (.hqheadWrite c value) s) ∧
        (off.toNat = 0x100020 + 0x1000 * c.val → exec w s = exec (.hreplyWrite c value) s) ∧
        (off.toNat = 0x100048 + 0x1000 * c.val → exec w s = exec (.fqheadWrite c value) s) ∧
        (off.toNat = 0x100050 + 0x1000 * c.val → exec w s = exec (.fqdoneWrite c value) s) ∧
        (off.toNat = 0x100080 + 0x1000 * c.val → exec w s = exec (.renew c value) s) ∧
        (off.toNat = 0x1000C0 + 0x1000 * c.val → exec w s = exec (.govForce c value) s) ∧
        (off.toNat = 0x1000C8 + 0x1000 * c.val → exec w s = exec (.columnWaysWrite c value) s) ∧
        (∀ k : Fin 4, off.toNat = 0x1000D0 + 8 * k.val + 0x1000 * c.val → exec w s = exec (.pinwinWrite (colCore c k) value) s))) ∧
    (s.log.reserve = [] →
      (s.dev.logCons.toNat < value.toNat → value.toNat ≤ s.dev.logHead.toNat →
        exec (.logconsWrite value) s = .next { s with dev := { s.dev with logCons := value } }) ∧
      (value.toNat ≤ s.dev.logCons.toNat ∨ s.dev.logHead.toNat < value.toNat → exec (.logconsWrite value) s = .next s))

/-! ### Vaults, governors, ways and windows -/

/-- The vault of a column (R357 to R359): a refresh advances the rows of its bank by eight and holds it busy, to the end of tRFC; RENEW
starts the lease anew under the DMC's schedule, and a lease that has run out gives the schedule to the hardware, counted, before a RENEW
that comes later; a bank above 105 °C asks for the throttle, and the floor of its band follows its temperature.

The governor, the ways of a slice and the windows (R232, R380, R381, R243): a level rises to the highest whose condition holds and falls by
one after its condition has been false for 1 ms and the temperatures stand 3 °C below its threshold, not within 100 µs of the last change,
and each change is a throttle event for the four cores; FORCE is bit 10 of GOV; WAYS takes 16, 12 or 8 and is refused while another context
holds the grant; a write while a resize waits takes its turn behind it; PINWIN takes up to 128 units, applied when no team uses them: a
change of size clears its bytes and keeps every other byte of memory, and the same size changes none. A device whose boot has stopped takes
none of these writes (R374). -/
def Obligations.VaultAndGovernor : Prop :=
  (∀ (s : State) (col : ColId) (bank : Fin 16) (value : Word) (celsius : BitVec 8),
     let v := (s.cols.get col).vault
     (bank.val ∉ v.busy → ∃ t, exec (.vaultRefresh col bank) s = .next t ∧ t.mem = s.mem ∧ (t.cols.get col).vault =
       { v with busy := bank.val :: v.busy, rows := v.rows.set bank.val ((v.rows.getD bank.val 0 + 8) % 16384) }) ∧
     (bank.val ∈ v.busy → ∃ t, exec (.vaultRefresh col bank) s = .next t ∧ (t.cols.get col).vault = v) ∧
     (∃ t, exec (.refreshEnd col bank) s = .next t ∧ bank.val ∉ (t.cols.get col).vault.busy ∧
       (t.cols.get col).vault.rows = v.rows ∧ t.mem = s.mem) ∧
     (value.getLsbD 0 = true → ∃ t, exec (.renew col value) s = .next t ∧ (t.cols.get col).vault =
       { v with owner := false, conservative := false, leaseEnd := s.ptp.toNat + 1250000
                lapses := if v.owner = true ∨ s.ptp.toNat < v.leaseEnd then v.lapses else v.lapses + 1 }) ∧
     (value.getLsbD 0 = false → exec (.renew col value) s = .next s) ∧
     (v.owner = false → v.leaseEnd ≤ s.ptp.toNat → ∃ t, exec (.refreshLeaseLapse col) s = .next t ∧
       (t.cols.get col).vault = { v with owner := true, lapses := v.lapses + 1 }) ∧
     (v.owner = true ∨ s.ptp.toNat < v.leaseEnd → exec (.refreshLeaseLapse col) s = .next s) ∧
     (∃ t, exec (.vaultHot col bank celsius) s = .next t ∧ (t.cols.get col).vault =
       { v with temps := v.temps.set bank.val celsius, floors := v.floors.set bank.val (bandFloor (v.floors.getD bank.val 0) celsius.toNat)
                throttle := (v.temps.set bank.val celsius).any fun t => 105 < t.toNat })) ∧
  (∀ (s : State) (col : ColId) (core : CoreId) (value : Word),
     let gov := (s.cols.get col).gov
     let throttled := fun (t : State) (n : Nat) => (t.cols.get col).gov.level = BitVec.ofNat 2 n ∧
       (t.cols.get col).gov.lastChange = some s.ptp.toNat ∧ ∀ k, let x := t.cores.get (colCore col k)
         x.evtLevel = BitVec.ofNat 2 n ∧ x.evtPend = true ∧ x.evtCount = (s.cores.get (colCore col k)).evtCount + 1
     (gov.level.toNat < s.levelAsked col → s.mayChange col = true →
       ∃ t, exec (.levelRise col) s = .next t ∧ throttled t (s.levelAsked col)) ∧
     (s.levelAsked col ≤ gov.level.toNat ∨ s.mayChange col = false → exec (.levelRise col) s = .next s) ∧
     (∀ since, 0 < gov.level.toNat → gov.since.getD (gov.level.toNat - 1) none = some since →
       s.levelAsked col < gov.level.toNat → s.levelCool col gov.level.toNat = true → since + 1000000 ≤ s.ptp.toNat → s.mayChange col = true →
         ∃ t, exec (.levelFall col) s = .next t ∧ throttled t (gov.level.toNat - 1)) ∧
     (gov.level = 0 → exec (.levelFall col) s = .next s) ∧
     (s.dev.bootFail = true → exec (.govForce col value) s = .next s ∧ exec (.columnWaysWrite col value) s = .next s ∧
       exec (.pinwinWrite core value) s = .next s) ∧
     (s.dev.bootFail = false → ∃ t, exec (.govForce col value) s = .next t ∧ (t.cols.get col).gov.force = value.getLsbD 10 ∧
       (t.cols.get col).gov.level = gov.level ∧ t.mem = s.mem) ∧
     (s.dev.bootFail = false → ∀ (c : CtxId), c.val = (value.extractLsb' 8 6).toNat → (s.cols.get col).waysPend = none →
       let w := (value.extractLsb' 0 5).toNat
       (w ≠ 16 → w ≠ 12 → w ≠ 8 → exec (.columnWaysWrite col value) s = .next s) ∧
       (w = 16 ∨ w = 12 ∨ w = 8 →
         (s.grantElsewhere col c = true → exec (.columnWaysWrite col value) s =
           .next (s.modCol col fun x => { x with waysCtx := c, waysRefused := true })) ∧
         (s.grantElsewhere col c = false → s.sliceBusy col = false → ∃ t, exec (.columnWaysWrite col value) s = .next t ∧
           (t.cols.get col).ways = w ∧ (t.cols.get col).waysRefused = false ∧
           (t.cols.get col).grant = if w = 16 then none else some c))) ∧
     (s.dev.bootFail = false → ∀ (c : CtxId) (pend : Nat), c.val = (value.extractLsb' 8 6).toNat → (s.cols.get col).waysPend = some pend →
       let w := (value.extractLsb' 0 5).toNat
       (w = 16 ∨ w = 12 ∨ w = 8) →
       exec (.columnWaysWrite col value) s = .next (s.modCol col fun x => { x with waysQueue := x.waysQueue ++ [.write c w] })) ∧
     (s.dev.bootFail = false → (value.extractLsb' 0 8).toNat ≤ 128 → exec (.pinwinWrite core value) s =
       .next (s.modCore core fun c => { c with pinPend := some (value.extractLsb' 0 8).toNat })) ∧
     (128 < (value.extractLsb' 0 8).toNat → exec (.pinwinWrite core value) s = .next s) ∧
     (∀ n, (s.cores.get core).pinPend = some n →
       let inUse := s.teams.any fun t => t.place == .resident && t.core == core && t.units.any fun u => 256 - n ≤ u
       (inUse = true → exec (.pinwinApply core) s = .next s) ∧
       (inUse = false → n = (s.cores.get core).pinwin →
         exec (.pinwinApply core) s = .next (s.modCore core fun c => { c with pinPend := none })) ∧
       (inUse = false → n ≠ (s.cores.get core).pinwin → ∃ t, exec (.pinwinApply core) s = .next t ∧ (t.cores.get core).pinwin = n ∧
         (t.cores.get core).pinPend = none ∧ ∀ a, memByte t a =
           if pinLoc core 0 ≤ a ∧ a < pinLoc core 0 + 2 ^ 20 then blankByte s.mem.base a else memByte s a)))

/-! ### Main memory -/

/-- Where a location stands in a stack, which tells locations apart (R342, R343). Parity and lost stacks (R344, R347, R348, R350, R351): a
difference that was sent joins the FIFO of its stripe after earlier writes to its block, and is applied to the parity block by XOR, which is
first replaced by the XOR of its data blocks where it failed its code, with a record where no data block of the stripe is lost, and counted
against its stack; a first stack lost degrades the memory, a second fails it; a restripe
that is allowed gives up what lies above 640 GiB and moves one location after another from the highest down, each with the XOR of its ten
blocks. -/
def Obligations.ParityAndStacks : Prop :=
  hbmPlace .normal 0 none 0x1234567800 = (3, 1, 0x1A7AAC5) ∧ hbmCoord 0x1A7AAC5 = ⟨25, 1, 2, 0, 2, 0x1A7A⟩ ∧
  (∀ S T, hbmCoord S = hbmCoord T → S = T) ∧ ∀ (s : State),
    (∀ w, s.mem.writes.find? (fun x => x.id == w.id) = some w →
      let first := w.stage = .sent ∧ (s.mem.writes.any fun v => v.id < w.id && v.stage != .accepted && v.sameBlock w) = false
      (first → exec (.parityDeltaAccept w.id) s = .next { s with mem := { s.mem with
        writes := (s.mem.writes.filter fun v => v.id != w.id) ++ [{ w with stage := .accepted }] } }) ∧
      (¬first → exec (.parityDeltaAccept w.id) s = .next s)) ∧
    (∀ stripe w, s.mem.writes.find? (fun w => w.stripe == stripe && w.stage == .accepted) = some w →
      let x := s.dev.stripeAt stripe
      (∃ t, exec (.parityDeltaApply stripe) s = .next t ∧ (∀ v ∈ t.mem.writes, v.id ≠ w.id) ∧
        (stripe ∉ s.mem.badParity → t.mem.cells = s.mem.cells ∧
          t.mem.writes = s.mem.writes.filter (fun v => v.id != w.id) ∧ stripe ∉ t.mem.badParity ∧
          ∀ a old new, w.bytes = [(a, old, new)] → cellsGet s.mem.parityBase t.mem.parity (256 * stripe + a % 256) =
            cellsGet s.mem.parityBase s.mem.parity (256 * stripe + a % 256) ^^^ old ^^^ new)) ∧
      (stripe ∈ s.mem.badParity → x.2 ∉ s.dev.missing s.mem x.1 → stripe ∉ (s.mendParity stripe x.1).mem.badParity ∧
        (∀ i < 256, cellsGet s.mem.parityBase (s.mendParity stripe x.1).mem.parity (256 * stripe + i) =
          (s.dev.stripeBlocks x.1).foldl (fun p b => p ^^^ s.mem.dramByte (256 * b + i)) 0) ∧
        let applied := fun (u : State) => exec (.parityDeltaApply stripe) s = .next { u with mem := { u.mem.applyDelta w with
          writes := u.mem.writes.filter fun v => v.id != w.id } }
        let lost := fun (b : Nat) => (s.dev.place (256 * b)).1 ∈ s.dev.missing s.mem (256 * b)
        ((∀ b ∈ s.dev.stripeBlocks x.1, ¬lost b) → ∃ i : Incident, i.cls = IncCode.sectorReconstructed.entry.cls ∧
          i.code = IncCode.sectorReconstructed.entry.code ∧ i.pa.toNat = x.1 % 2 ^ 64 ∧ i.port = x.2 ∧
          applied (((s.mendParity stripe x.1).report i).countStack x.2)) ∧
        ((∃ b ∈ s.dev.stripeBlocks x.1, lost b) → applied ((s.mendParity stripe x.1).countStack x.2)))) ∧
    (∀ stripe, stripe ∉ s.mem.badParity ∨ (s.dev.stripeAt stripe).2 ∈ s.dev.missing s.mem (s.dev.stripeAt stripe).1 →
      s.settleParity stripe = s) ∧
    (∀ stack : Fin 12, (stack.val ∈ s.lostStacks → exec (.stackLost stack) s = .next s) ∧
      (stack.val ∉ s.lostStacks →
        (s.dev.mode = .normal → s.dev.lost = none → s.mem.dead = none → ∃ t, exec (.stackLost stack) s = .next t ∧
          t.dev.mode = .degraded ∧ t.dev.lost = some stack ∧ t.mem.dead = none) ∧
        (s.dev.mode = .degraded → ∃ t, exec (.stackLost stack) s = .next t ∧ t.dev.mode = .failed ∧
          t.dev.failedFrom = .degraded ∧ t.mem.dead ≠ none))) ∧
    (∀ e, s.dev.restripeRefusal = some e → ∃ t, exec .restripeStart s = .next t ∧ t.dev.rserr = BitVec.ofNat 4 e ∧
      t.dev.mode = s.dev.mode) ∧
    (s.dev.restripeRefusal = none → ∃ t, exec .restripeStart s = .next t ∧ t.dev.mode = .restriping ∧ t.dev.watermark = 2 ^ 28 ∧
      t.dev.rserr = 0 ∧ ∀ a, memByte t a =
        if 0xA000000000 ≤ a ∧ a < 0xB000000000 then blankByte s.mem.base a else memByte s a) ∧
    (s.dev.mode = .restriping → ∀ S, s.dev.watermark = S + 1 →
      (s.mem.writes.any fun w => (tabList id (10 * S) 10).any w.inBlock) = false → ∃ t, exec .restripeStripeDone s = .next t ∧
        t.dev.watermark = S ∧ (S = 0 → t.dev.mode = .restriped) ∧ (S ≠ 0 → t.dev.mode = .restriping ∧ t.mem.cells = s.mem.cells ∧
          ∀ i < 256, cellsGet s.mem.parityBase t.mem.parity (256 * S + i) = s.mem.stripeParity S i))

/-- The scrubber, the checkpoint engine, failing stores (R354, R360, R361, R196): a stored sector with an uncorrectable error is rebuilt from
its stripe with all that it encodes, or, where that cannot be, all of it becomes poisoned, each with its record, and the error is counted
against its stack or its bank; a corrected symbol is recorded; SAVE and RESTORE start the engine, are refused with the reason, or fail at
once where their peer is fenced, and end in DONE with the size of the image or in ERROR, a RESTORE once no lease and no copy of the host
holds a line back; a store that meets an uncorrectable error at its home completes where the sector can be rebuilt, and elsewhere poisons it and is reported to
its group. -/
def Obligations.MemoryEngines : Prop :=
  ∀ (s : State),
    (∀ sector f, s.dev.scrubh = 0 → exec (.patrolScrub sector f) s = .next s) ∧
    (∀ sector, s.dev.scrubh ≠ 0 → isVault (32 * sector) = false → s.dev.isHbm (32 * sector) = true →
      (s.dev.place (32 * sector)).1 ∉ s.lostStacks → s.mem.poisoned (32 * sector) = false →
      let stack := (s.dev.place (32 * sector)).1
      exec (.patrolScrub sector .clean) s = .next s ∧
      (s.mem.checked (32 * sector) = false → ∀ f, exec (.patrolScrub sector f) s = .next s) ∧
      (s.mem.checked (32 * sector) = true →
        (∀ symbol, ∃ i : Incident, exec (.patrolScrub sector (.correctable symbol)) s = .next (s.report i) ∧
          i.detail = symbol.zeroExtend 64) ∧
        let all := s.mem.encodedIn (32 * sector)
        let settled := fun (u : State) =>
          if s.dev.missing s.mem (32 * sector) = [] then u.settleParity (s.dev.place (32 * sector)).2.2 else u
        ((∀ a ∈ all, s.reconstructible a = true) → exec (.patrolScrub sector .uncorrectable) s = .next (settled
          (((all.foldl State.rebuildSector s).report (s.sectorIncident .sectorReconstructed (32 * sector))).countStack stack))) ∧
        ((∃ a ∈ all, s.reconstructible a = false) → exec (.patrolScrub sector .uncorrectable) s = .next (settled
          ((all.foldl (fun (t : State) a => (t.poisonSector a).report (s.sectorIncident .sectorPoisoned a)) s).countStack stack))))) ∧
    (∀ loc, isVault loc = false →
      (s.mem.sizeCode (loc / 128) = 0 → s.mem.encodedIn loc = [loc]) ∧
      (s.mem.sizeCode (loc / 128) ≠ 0 → s.mem.encodedIn loc = (List.range 4).map fun k => loc / 128 * 128 + 32 * k)) ∧
    (∀ sector, s.dev.scrubh ≠ 0 → isVault (32 * sector) = true → (s.cols.get (vaultCol (32 * sector))).fenced = false →
      s.mem.poisoned (32 * sector) = false → ∃ i : Incident, i.pa.toNat = 32 * sector % 2 ^ 64 ∧
        exec (.patrolScrub sector .uncorrectable) s =
          .next ((({ s with mem := s.mem.addPoison (32 * sector) } : State).report i).countBank (32 * sector))) ∧
    (s.dev.ckBusy = false →
      (∀ e, s.ckRefusal false = some e → ∀ i, i = Instr.checkpointSave ∨ i = Instr.checkpointRestore →
        exec i s = .next { s with dev := { s.dev with ckState := .error, ckErr := BitVec.ofNat 4 e } }) ∧
      (s.ckRefusal false = none → s.dev.ckPeer ∈ s.dev.peerFenced → ∀ i, i = Instr.checkpointSave ∨ i = Instr.checkpointRestore →
        ∃ e : Incident, exec i s = .next (({ s with dev := { s.dev with ckState := .error, ckErr := 3 } } : State).report e)) ∧
      (s.ckRefusal false = none → s.dev.ckPeer ∉ s.dev.peerFenced →
        exec .checkpointSave s = .next { s.putImage s.image with dev := { s.dev with ckState := .saving, ckErr := 0, ckBytes := 0 } } ∧
        ∃ t, exec .checkpointRestore s = .next t ∧
          (t.dev.ckState = .restoring ∧ t.dev.ckErr = 0 ∨ t.dev.ckState = .error ∧ t.dev.ckErr = 4)) ∧
      ∀ fault, exec (.checkpointComplete fault) s = .next s) ∧
    (s.dev.ckBusy = true → exec .checkpointSave s = .next s ∧ exec .checkpointRestore s = .next s) ∧
    (s.dev.ckState = .restoring → s.restoreHeld ≠ [] → ∀ fault, exec (.checkpointComplete fault) s =
      .next (s.restoreHeld.foldl (fun (t : State) l => t.devKeep (128 * l) 128) s)) ∧
    (s.dev.ckState = .saving ∨ s.dev.ckState = .restoring ∧ s.restoreHeld = [] →
      (∃ t, exec (.checkpointComplete false) s = .next t ∧ t.dev.ckState = .done ∧
        (s.dev.ckState = .saving → t.dev.ckBytes = BitVec.ofNat 56 s.imageBytes)) ∧
      (∃ t, exec (.checkpointComplete true) s = .next t ∧ t.dev.ckState = .error ∧ t.dev.ckErr = 3)) ∧
    (∀ core slot va pa team index ctx,
      let o : Origin := ⟨core, team, index, ctx⟩
      (hasSectors pa.toNat = true → s.reconstructible pa.toNat = true → s.mem.poisoned pa.toNat = false →
        exec (.storeFailure core slot va pa (.sector team index ctx)) s = .next (s.settleSector pa.toNat .uncorrectable)) ∧
      (hasSectors pa.toNat = true → s.reconstructible pa.toNat = false ∨ s.mem.poisoned pa.toNat = true →
        let t := (s.poisonSector pa.toNat).failStore .sectorPoisoned o va pa.toNat
        exec (.storeFailure core slot va pa (.sector team index ctx)) s = .next (if s.mem.poisoned pa.toNat then t
          else if isVault pa.toNat then t.countBank pa.toNat else t.countStack (s.dev.place pa.toNat).1)) ∧
      (∀ w, let mine := fun (w : PeerWrite) => w.pa == pa.toNat && w.va == va && w.who == some o
        s.links.peerWrites.find? mine = some w → exec (.storeFailure core slot va pa (.peer team index ctx)) s =
          .next (({ s with links := { s.links with peerWrites := dropFirst mine s.links.peerWrites } } : State).failPeerWrite w)) ∧
      (∀ w, s.links.peerWrites = [w] → w.pa = pa.toNat → w.va = va → w.who = some o → w.tag = none →
        exec (.storeFailure core slot va pa (.peer team index ctx)) s =
          .next (({ s with links := { s.links with peerWrites := [] } } : State).failStore .storeFailed o va pa.toNat)))

/-! ### Marks, replicas, leases -/

/-- Scope marks, promoted pages, leases and host copies (R247, R262, R328, R364, R369, R370): a mark 4,096 cycles old makes its holder's
release at device scope, or at system scope where an agent beyond the device waits; a promotion of a page that the column has read through
takes a free frame with the generation of its page, commits within 100 µs while the page keeps it, and is abandoned otherwise; a line
leased by a peer is dropped at its end, and a write held behind a lease or the host is performed when the hold has passed and the host has
answered; one whose lease has passed waits on while the host caches the line; an entry that keeps the place of an access writes nothing, and
stands until that access has been made (R370). -/
def Obligations.HeldAndPromoted : Prop :=
  ∀ (s : State) (col : ColId) (line frame : Nat),
    (∀ m, s.mem.marks.find? (fun m => m.line == line && 40960 ≤ (s.ptp.toNat - m.time.toNat) * 33) = some m →
      exec (.scopeMarkPromotion line) s = .next (s.releaseSoon m.holder.core (if m.outside then .sys else .dev))) ∧
    (s.mem.marks = [] → exec (.scopeMarkPromotion line) s = .next s) ∧
    (∀ ctx va x, (s.cols.get col).fenced = false → frame < (s.cols.get col).replN.toNat →
      (s.cols.get col).frameFree frame s.ptp.toNat = true → (s.cols.get col).readThrough ctx (va.toNat / 2 ^ 16) s.ptp.toNat = true →
      s.promotable col ctx (va.toNat / 2 ^ 16) = some x → ∃ t, exec (.promotionStart col ctx va frame) s = .next t ∧ t.mem = s.mem ∧
        (t.cols.get col).replicas.find? (fun r => r.frame == frame) = some ⟨frame, va.toNat / 2 ^ 16, ctx, x.gen, false, true, s.ptp.toNat⟩) ∧
    (∀ r, (s.cols.get col).replicas.find? (fun r => r.frame == frame && r.copying) = some r →
      let dropped := fun (t : State) => (t.cols.get col).replicas = (s.cols.get col).replicas.filter (fun r => r.frame != frame)
      (∀ x loc, s.promotable col r.ctx r.page = some x → x.site = .mem loc → x.gen = r.gen → s.ptp.toNat < r.used + 100000 →
        ∃ t, exec (.promotionCommit col frame) s = .next t ∧
          ∀ e ∈ (t.cols.get col).replicas, e.frame = frame → e.valid = true ∧ e.copying = false) ∧
      (∀ x, s.promotable col r.ctx r.page = some x → x.gen ≠ r.gen →
        ∃ t, exec (.promotionCommit col frame) s = .next t ∧ t.mem = s.mem ∧ dropped t) ∧
      (s.promotable col r.ctx r.page = none → ∃ t, exec (.promotionCommit col frame) s = .next t ∧ t.mem = s.mem ∧ dropped t) ∧
      (r.used + 100000 ≤ s.ptp.toNat → ∃ t, exec (.promotionAbandon col frame) s = .next t ∧ t.mem = s.mem ∧ dropped t)) ∧
    exec (.leaseExpiry col line) s = .next { s with links := { s.links with
      llines := s.links.llines.filter fun l => !(l.col == col && l.line == line && l.expiry ≤ s.ptp.toNat) } } ∧
    (s.links.held = [] → exec (.leaseHoldExpiry line) s = .next s ∧ exec (.backInvalidateResponse line) s =
      .next { s with mem := { s.mem with hostFilter := s.mem.hostFilter.filter fun l => l != line
                                         hostSnoops := s.mem.hostSnoops.filter fun l => l != line } }) ∧
    (∀ h, s.links.held = [h] → h.loc / 128 = line →
      (∀ due, h.due = some due → due ≤ s.ptp.toNat → h.host = false → s.mem.hostHas line = false → h.writes = true →
        exec (.leaseHoldExpiry line) s =
        .next (({ s with links := { s.links with
          held := [], leases := s.links.leases.filter fun l => l.line != line } } : State).performHeld { h with due := none })) ∧
      (∀ due, h.due = some due → due ≤ s.ptp.toNat → s.mem.hostHas line = true → exec (.leaseHoldExpiry line) s =
        .next { s with links := { s.links with
          held := [{ h with due := none, host := true }], leases := s.links.leases.filter fun l => l.line != line } }) ∧
      (∀ due, h.due = some due → s.ptp.toNat < due → exec (.leaseHoldExpiry line) s = .next s) ∧
      (h.due = none → h.writes = true → exec (.backInvalidateResponse line) s =
        .next (({ s with mem := { s.mem with hostFilter := s.mem.hostFilter.filter fun l => l != line
                                             hostSnoops := s.mem.hostSnoops.filter fun l => l != line }
                         links := { s.links with held := [] } } : State).performHeld { h with host := false })) ∧
      (h.writes = false → ∀ u : State, u.performHeld h = u) ∧
      (∀ due, h.due = some due → due ≤ s.ptp.toNat → h.host = false → s.mem.hostHas line = false → h.writes = false → h.service = false →
        exec (.leaseHoldExpiry line) s = .next { s with links := { s.links with
          held := [{ h with due := none }], leases := s.links.leases.filter fun l => l.line != line } }) ∧
      (h.bytes ≠ [] → h.red = none → h.tag = none → ∀ u : State,
        (h.who = none → u.performHeld h = u.storeNow none h.party h.loc h.key h.bytes) ∧
        (∀ o, h.who = some o → o.team = 0 → u.performHeld h = u.agentPerform o.ctx h.party h.va.toNat h.key h.loc h.bytes none) ∧
        (∀ o, h.who = some o → o.team ≠ 0 → u.performHeld h = u.performWrite ⟨o, h.va, h.key, h.home⟩ h.party h.loc h.bytes)))

/-! ### Links and outside agents -/

/-- Links between dies and the ports (R365, R366): the eighth retry of a module within 1 ms disables it, a pair without modules is lost, and a
second pair lost resets the device; a port that is down trains to a Z7 or is held down, one that is up counts its retrainings, and a port
falls back from the double rate once and goes down with a record. -/
def Obligations.LinkEvents : Prop :=
  ∀ (s : State) (pair : PairId) (mod : Fin 16) (port : PortId),
    let recent := (s.links.retries.filter fun r => s.ptp.toNat < r.2.2 + 1000000) ++ [(pair.val, mod.val, s.ptp.toNat)]
    let of := (recent.filter fun r => r.1 == pair.val && r.2.1 == mod.val).length
    let u : State := { s with links := { s.links with retries := recent } }
    (of < 8 → exec (.ucieFlitRetry pair mod) s = .next u) ∧
    (8 ≤ of → exec (.ucieFlitRetry pair mod) s = exec (.ucieModuleDisabled pair mod) u) ∧
    (∀ live, s.links.modules.getD pair.val [] = live →
      (mod.val ∉ live → exec (.ucieModuleDisabled pair mod) s = .next s) ∧
      (mod.val ∈ live → ∃ t, exec (.ucieModuleDisabled pair mod) s = .next t ∧
        t.links.modules = s.links.modules.set pair.val (live.filter fun x => x != mod.val) ∧ t.g = s.g)) ∧
    (∀ lane, ∃ i : Incident, exec (.ucieLaneRepaired pair lane) s = .next (s.report i) ∧
      i.detail = BitVec.ofNat 64 (pair.val + 256 * lane.toNat)) ∧
    (pair ∈ s.links.lostPairs → exec (.dieLinkLost pair) s = .next s) ∧
    (s.links.modules.getD pair.val [] ≠ [] → exec (.dieLinkLost pair) s = .next s) ∧
    (s.links.modules.getD pair.val [] = [] → s.links.lostPairs = [] → ∃ t, exec (.dieLinkLost pair) s = .next t ∧
      t.links.lostPairs = [pair] ∧ t.links.modules = s.links.modules) ∧
    (s.links.modules.getD pair.val [] = [] → pair ∉ s.links.lostPairs → s.links.lostPairs ≠ [] → ∃ t : State,
      t.links.lostPairs = pair :: s.links.lostPairs ∧ exec (.dieLinkLost pair) s = .next (t.caused
        (((s.links.disabledBy.find? fun d => d.1 == pair).map (·.2)) <|> some t.lastSeq) fun u => u.deviceReset 4 [])) ∧
    (∀ peer, s.flash.alternate.contains (7, BitVec.ofNat 8 port.val) = false →
      (∃ t, exec (.ualinkPortTraining port true peer) s = .next t ∧ t.mem = s.mem ∧ t.links.ports.get port =
        if (s.links.ports.get port).up then { (s.links.ports.get port).retrain s.ptp.toNat with peer := some peer }
        else ⟨true, some peer, false, false, []⟩) ∧
      (∃ t, exec (.ualinkPortTraining port false peer) s = .next t ∧ t.links.ports.get port = ⟨false, none, false, false, []⟩)) ∧
    (∀ trained, (s.links.ports.get port).up = true → (s.links.ports.get port).fellBack = false →
      ∃ t, exec (.doubleRateOffer port trained) s = .next t ∧
        t.links.ports.get port = { s.links.ports.get port with double := trained, fellBack := !trained } ∧ t.mem = s.mem) ∧
    ((s.links.ports.get port).up = true → ∃ t, exec (.ualinkPortDown port) s = .next t ∧
      t.links.ports.get port = ⟨false, none, false, false, []⟩) ∧
    ((s.links.ports.get port).up = false → exec (.ualinkPortDown port) s = .next s)

/-- Accesses of peers, of the CXL host and of host cores, PTP and heartbeats (R253, R256, R307, R341, R362, R364, R366 to R373): what is out
of reach, or comes under another key, is answered by nothing and stores nothing; a read answers the bytes, a peer's after the end of its
lease; an atomic answers the old word; an acquiring fence of a host core drops the lines held under leases; three unanswered heartbeats
fence a peer: its leased lines are dropped and groups that wait for a peer issue again; GO lifts the fence. -/
def Obligations.OutsideAgents : Prop :=
  ∀ (s : State) (peer : PeerId) (col : ColId) (pa : BitVec 64) (len : Nat),
    let loc := pa.toNat % 2 ^ 40
    let host := Party.hostCore col
    let u : State := { s with tick := s.tick + 1 }
    let idle := fun (a n : Nat) => n ≠ 0 → s.bankBusy a = false ∧ s.bankBusy (a + n - 1) = false
    let quiet := fun (who : Party) (a n : Nat) => s.outsideBehind who (runLines a n) = false ∧ idle a n
    (peer.val ∉ s.dev.peerFenced →
      (∀ lease, s.reachable false loc len = false → exec (.peerReadRequest peer pa len lease) s = .next { u with answer := [] }) ∧
      (∀ lease t bs, s.reachable false loc len = true → s.outsideBehind (.peer peer) (runLines loc len) = false →
        u.outsideRead none loc len = (t, bs) → bs ≠ [] →
        if s.keyMismatch then exec (.peerReadRequest peer pa len lease) s = .next { u with answer := [] }
        else
          (∀ e, t.grantLease (loc / 128) lease.toNat = some e → ∃ u, exec (.peerReadRequest peer pa len lease) s = .next u ∧
            u.answer = leBytes 4 e ++ bs ∧ u.mem = t.mem ∧ ∃ l ∈ u.links.leases, l.line = loc / 128 ∧ e ≤ l.expiry) ∧
          (t.grantLease (loc / 128) lease.toNat = none →
            exec (.peerReadRequest peer pa len lease) s = .next { t with answer := leBytes 4 0 ++ bs })) ∧
      (∀ data, data.length ≤ 256 → s.reachable false loc data.length = true → idle loc data.length →
        exec (.peerWriteRequest peer pa (.write data false)) s =
          .next (if s.keyMismatch then { u with answer := [] } else u.outsideStore (.peer peer) none loc data)) ∧
      exec (.peerHeartbeat peer) s = .next { s with
        dev := { s.dev with peerLive := peer.val :: s.dev.peerLive.filter fun k => k != peer.val }
        links := { s.links with misses := s.links.misses.filter fun m => m.1 != peer.val } }) ∧
    (peer.val ∈ s.dev.peerFenced → ∀ lease data, exec (.peerReadRequest peer pa len lease) s = .next s ∧
      exec (.peerWriteRequest peer pa data) s = .next s ∧ exec (.peerHeartbeat peer) s = .next s) ∧
    (peer.val ∈ s.dev.peerLive →
      (s.links.misses = [] → exec (.heartbeat peer) s = .next { s with links := { s.links with misses := [(peer.val, 1)] } }) ∧
      (s.links.misses = [(peer.val, 2)] → ∃ t, exec (.heartbeat peer) s = .next t ∧ peer.val ∈ t.dev.peerFenced ∧
        peer.val ∉ t.dev.peerLive ∧ ∀ g ∈ t.groups, g.status ≠ .blocked .peerLoad ∧ g.status ≠ .blocked .peerFetch)) ∧
    (∀ value : Word,
      (value.extractLsb' 10 53 = 0 → value.getLsbD 63 = true → exec (.goWrite value) s = .next { s with dev := { s.dev with
        peerFenced := s.dev.peerFenced.filter fun k => k != (value.extractLsb' 0 10).toNat } }) ∧
      (value.extractLsb' 10 53 ≠ 0 ∨ value.getLsbD 63 = false → exec (.goWrite value) s = .next s)) ∧
    (s.reachable false pa.toNat len = false → exec (.cxlMemRequest pa (.read false) len) s = .next { s with answer := [] }) ∧
    (s.reachable false pa.toNat len = true → pa.toNat + len ≤ s.dev.hdm * 2 ^ 30 → quiet .cxl pa.toNat len →
      ∃ t, exec (.cxlMemRequest pa (.read false) len) s = .next t ∧ t.answer = (s.outsideRead (some .cxl) pa.toNat len).2) ∧
    (s.reachable true pa.toNat len = false → exec (.hostCoreMemoryAccess (.core col) pa (.read false) len) s =
      .next { s with answer := [] }) ∧
    (s.reachable true pa.toNat len = true → quiet host pa.toNat len → (∀ l ∈ runLines pa.toNat len, s.objOf l = none) →
      ∃ t, exec (.hostCoreMemoryAccess (.core col) pa (.read false) len) s = .next t ∧
        t.answer = (s.outsideRead (some host) pa.toNat len).2 ∧ t.mem = (s.outsideRead (some host) pa.toNat len).1.mem) ∧
    (∀ data, s.reachable true pa.toNat data.length = true → idle pa.toNat data.length →
      exec (.hostCoreMemoryAccess (.core col) pa (.write data false) len) s = .next (s.outsideStore host none pa.toNat data)) ∧
    (∀ op x, s.reachable true pa.toNat 8 = true → pa.toNat % 8 = 0 → quiet host pa.toNat 8 → s.mem.marks = [] → s.mem.copies = [] →
      s.holdOf (pa.toNat / 128) = none → (∀ b, (s.outsideRead (some host) pa.toNat 8).1.mem.poisoned b = false) →
      ∃ t, exec (.hostCoreMemoryAccess (.core col) pa (.atomic op none x none true false false) len) s = .next t ∧
        t.answer = leBytes 8 (leNat ((s.outsideRead (some host) pa.toNat 8).1.physRead pa.toNat 8))) ∧
    (∀ agent rel, (rel = false ∨ s.outsidePending (match agent with
        | .core c => .hostCore c
        | .dmc d => .dmc d) = false) → exec (.hostCoreMemoryAccess agent pa (.fence true rel) len) s =
          .next { s with links := { s.links with llines := [] } }) ∧
    (∀ offset, (s.links.ptpLocked = true → ∃ t, exec (.ptpUnlocked offset) s = .next t ∧ t.links.ptpLocked = false) ∧
      (s.links.ptpLocked = false → exec (.ptpUnlocked offset) s = .next s)) ∧
    exec .ptpLockRegained s = .next { s with links := { s.links with ptpLocked := true } }

/-! ### Fencing, resets, the boot -/

/-- Fencing and droops (R339, R340, R379): a fenced column stays as it is; any other goes through the steps of R339, after which it is
fenced, its cores hold no L1 line and no buffered reduction, its slice is a cache of 16 ways without grant, pending resize or replica, and
the last thing written is the COLUMN_FENCED record with its cause; then R340 settles the teams, and with no team and no grid that state is
the answer. A column that alone has been short for 10 ms is recorded with its worst sensor and fenced; a shortfall that every column
of a die shares holds the die, until one of them is no longer short. What counts as shared, 30 mV for 10 ms in every column, is the model's
choice (log entry 125). -/
def Obligations.Fencing : Prop :=
  ∀ (s : State) (col : ColId) (cause : FenceCause) (sensor : Fin 32) (die : DieId),
    ((s.cols.get col).fenced = true → exec (.columnFence col cause) s = .next s ∧
      exec (.suspectedCrackedConnection col sensor) s = .next s) ∧
    ((s.cols.get col).fenced = false → exec (.columnFence col cause) s = .next (s.fence col cause none) ∧
      (s.tenMs (s.cols.get col).droop.alone = true → (s.cols.get col).droop.worst = sensor.val →
        ∃ i : Incident, i.detail = BitVec.ofNat 64 sensor.val ∧ exec (.suspectedCrackedConnection col sensor) s =
          .next ((s.report i).fence col .cracked (some (s.report i).lastSeq))) ∧
      (s.tenMs (s.cols.get col).droop.alone = false ∨ (s.cols.get col).droop.worst ≠ sensor.val →
        exec (.suspectedCrackedConnection col sensor) s = .next s) ∧
      ∃ (first : Option Word) (u : State), s.fenceSteps col cause none = (first, u) ∧
        exec (.columnFence col cause) s = .next (u.strikeAll col first (s.teams.filter (s.struck col)) (s.struckWaiting col)) ∧
        (s.teams = [] → s.grids = [] → exec (.columnFence col cause) s = .next u) ∧
        (u.cols.get col).fenced = true ∧ (u.cols.get col).ways = 16 ∧ (u.cols.get col).grant = none ∧
        (u.cols.get col).waysPend = none ∧ (u.cols.get col).waysQueue = [] ∧ (u.cols.get col).replicas = [] ∧
        (∀ k, (u.cores.get (colCore col k)).l1 = [] ∧ (u.cores.get (colCore col k)).comb = []) ∧
        ∃ (w : State) (i : Incident), u = w.report i ∧ i.cls = IncCode.columnFenced.entry.cls ∧
          i.code = IncCode.columnFenced.entry.code ∧ i.col = col.val ∧ i.detail = BitVec.ofNat 64 (fenceCode cause)) ∧
    (let t := s.stopCores col
     (t.cols.get col).fenced = true ∧ t.mem = s.mem ∧ t.groups = s.groups ∧
      ∀ k, (t.cores.get (colCore col k)).l1 = [] ∧ (t.cores.get (colCore col k)).comb = []) ∧
    (let t := s.emptySlice col
     (t.cols.get col).ways = 16 ∧ (t.cols.get col).grant = none ∧ (t.cols.get col).waysPend = none ∧
      (t.cols.get col).waysQueue = [] ∧ (t.cols.get col).replicas = []) ∧
    (∀ mv, (s.dieShort die = true → die ∉ s.dev.droop → mv.toNat = s.sharedShortfall die →
        ∃ t, exec (.regulatorDroop die mv) s = .next t ∧ die ∈ t.dev.droop ∧ t.g = s.g) ∧
      (s.dieShort die = false ∨ die ∈ s.dev.droop ∨ mv.toNat ≠ s.sharedShortfall die → exec (.regulatorDroop die mv) s = .next s)) ∧
    (((dieCols die).all fun c => 30 < (s.cols.get c).droop.shortfall) = true → exec (.regulatorDroopCleared die) s = .next s) ∧
    (((dieCols die).all fun c => 30 < (s.cols.get c).droop.shortfall) = false →
      ∃ t, exec (.regulatorDroopCleared die) s = .next t ∧ die ∉ t.dev.droop ∧ t.mem = s.mem ∧ t.g = s.g)

/-- Resets and the boot (R374 to R376, R381, R392): every cause of a reset has its number; after it no context, team, grid or group is left,
the cause stands in its register, the boot serial has advanced and step 1 has started; DEVRESET wants its key. Step 1 ends when the images of
all four DMCs are accepted, each by its digest, both signatures, the hashes of their keys and its security version, and advances the floor
of the fuses; an image that is not accepted is reported, the step starts again from the other bank, and the second time the boot stops. A
step done on its units starts the next one, the last lets the device run; a step that fails takes the alternate path of the unit once (in the same boot: log entry
99), and on it leaves an optional unit out, or stops the boot with its record (log entry 124); steps 2 and 9 have no alternate path. -/
def Obligations.ResetsAndBoot : Prop :=
  ∀ (s : State),
    exec .powerOn s = .next (s.deviceReset 0 []) ∧ exec .pcieReset s = .next (s.deviceReset 2 []) ∧
    exec .managementRequest s = .next (s.deviceReset 3 []) ∧ (∀ d, exec (.dmcWatchdog d) s = .next (s.deviceReset 6 [])) ∧
    exec .regulatorFault s = .next (s.deviceReset 8 []) ∧
    (∀ d celsius, (celsius.toNat ≤ 115 → exec (.thermalTrip d celsius) s = .next s) ∧
      (115 < celsius.toNat → ∃ i : Incident, i.detail = celsius.zeroExtend 64 ∧
        exec (.thermalTrip d celsius) s = .next (s.deviceReset 7 [i]))) ∧
    (∀ value, (value.extractLsb' 0 32 = 0x5A370001 → exec (.devreset value) s = .next (s.deviceReset 1 [])) ∧
      (value.extractLsb' 0 32 ≠ 0x5A370001 → exec (.devreset value) s = .next s)) ∧
    (∀ cause, let t := s.deviceReset cause []
      t.dev.resetCause = BitVec.ofNat 8 cause ∧ t.log.bootSerial = s.log.bootSerial + 1 ∧ t.flash.step = 1 ∧ t.teams = [] ∧
      t.grids = [] ∧ t.groups = [] ∧ t.ops = [] ∧ t.objs = [] ∧ (∀ c, (t.ctxs.get c).phase = .free) ∧ t.dev.mode = .normal) ∧
    (s.dev.bootFail = true → ∀ o, exec (.bootStep o) s = .next s) ∧
    (s.dev.bootFail = false → s.flash.step = 1 →
      let ended := fun (o : BootOutcome) (dmc : Nat) (unit : Byte) (detail : Word32) =>
        let failed := (s.rejectImage dmc).bootRecord 1 3 unit detail
        (s.flash.alternate.contains (1, 0xFF) = false → exec (.bootStep o) s = .next (failed.takeAlternate 1 0xFF false) ∧
          (failed.takeAlternate 1 0xFF false).flash.step = 1 ∧ (failed.takeAlternate 1 0xFF false).flash.bank = !s.flash.bank ∧
          (1, 0xFF) ∈ (failed.takeAlternate 1 0xFF false).flash.alternate) ∧
        (s.flash.alternate.contains (1, 0xFF) = true → ∃ t, exec (.bootStep o) s = .next t ∧ t.dev.bootFail = true ∧ t.dev.resetCause = 5)
      (s.flash.rejected = none → exec (.bootStep .done) s =
        .next (((s.unitsLeft 1).foldl (fun (t : State) u => t.bootRecord 1 2 u 0) s).raiseFloor.startStep 2)) ∧
      (∀ dmc, s.flash.rejected = some dmc → ended .done dmc 0xFF (BitVec.ofNat 32 dmc)) ∧
      (∀ unit detail, ended (.failed unit detail) unit.toNat unit detail)) ∧
    (s.flash.rejected = none ↔ ∀ k < 4, ∃ i, s.flash.bankImages[k]? = some i ∧ i.accepted s.flash = true) ∧
    (∀ i : DmcImage, i.accepted s.flash = true ↔ i.magic = 0x5A371A9E ∧ i.bodyLength.toNat = i.body.length ∧ i.digest = sha384 i.body ∧
      sha384 i.ecdsaKey = s.flash.ecdsaHash ∧ sha384 i.lmsKey = s.flash.lmsHash ∧ ecdsaVerifies i.ecdsaKey i.signed i.ecdsa = true ∧
      lmsVerifies i.lmsKey i.signed i.lms = true ∧ s.flash.floor.toNat ≤ i.security.toNat) ∧
    (let floor := s.raiseFloor.flash.floor
     s.flash.floor.toNat ≤ floor.toNat ∧ (∀ i ∈ s.flash.bankImages, i.raise = true → i.security.toNat ≤ floor.toNat) ∧
       (floor = s.flash.floor ∨ ∃ i ∈ s.flash.bankImages, i.raise = true ∧ floor = i.security)) ∧
    (s.dev.bootFail = false →
      (1 < s.flash.step → s.flash.step < 9 → exec (.bootStep .done) s =
        .next (((s.unitsLeft s.flash.step).foldl (fun (t : State) u => t.bootRecord s.flash.step 2 u 0) s).startStep (s.flash.step + 1))) ∧
      (s.flash.step = 9 → ∃ t, exec (.bootStep .done) s = .next t ∧ t.dev.running = true ∧ t.flash.step = 10) ∧
      (∀ unit detail, 2 < s.flash.step → s.flash.step < 9 →
        let at' := stepUnit s.flash.step unit
        (s.flash.alternate.contains (s.flash.step, at') = false → exec (.bootStep (.failed unit detail)) s =
          .next ((s.bootRecord s.flash.step 3 unit detail).takeAlternate s.flash.step at' false)) ∧
        (s.flash.alternate.contains (s.flash.step, at') = true →
          (s.flash.step = 4 ∨ s.flash.step = 6 ∨ s.flash.step = 7 → exec (.bootStep (.failed unit detail)) s =
            .next ((s.bootRecord s.flash.step 3 unit detail).bootRecord s.flash.step 4 unit detail)) ∧
          (s.flash.step = 3 ∨ s.flash.step = 5 ∨ s.flash.step = 8 → ∃ t, exec (.bootStep (.failed unit detail)) s = .next t ∧
            t.dev.bootFail = true ∧ t.dev.resetCause = 5)))) ∧
    (s.dev.bootFail = false → s.flash.step = 2 ∨ s.flash.step = 9 → ∀ unit detail, ∃ i : Incident,
      i.cls = IncCode.deviceReset.entry.cls ∧ i.code = IncCode.deviceReset.entry.code ∧ i.detail = 5 ∧
      exec (.bootStep (.failed unit detail)) s =
        .next (({ s.bootRecord s.flash.step 3 unit detail with dev := { (s.bootRecord s.flash.step 3 unit detail).dev with
          bootFail := true, resetCause := 5 } } : State).report i))

/-! ### Telemetry -/

/-- What the management controller answers (R356, R377, R386, R393, R394): a measurement is the SHA-384 digest of its block for the six
blocks and nothing for another; a key loaded under the unlocked interface, or that comes through a standing IDE stream (log entry 120),
stands in its slot, and another load is refused with its record; a sensor that exists has 8 bytes; a platform event is sent once more after 1 s and then
given up; the summary of a second has its count; the state of the interface changes. -/
def Obligations.ManagementAnswers : Prop :=
  ∀ (s : State),
    (∀ block, ∃ t, exec (.spdmGetMeasurements block) s = .next t ∧ t.mem = s.mem ∧ t.g = s.g ∧
      t.answer = (if 1 ≤ block ∧ block ≤ 6 then sha384 (s.measured block) else []) ∧
      t.answer.length = if 1 ≤ block ∧ block ≤ 6 then 48 else 0) ∧
    (∀ slot xts k1 k2 ide, s.dev.tdisp = .unlocked ∨ ide = true ∧ s.dev.ideStreams ≠ [] → s.links.held = [] →
      ∃ t, exec (.keySlotLoad slot ⟨xts, ide⟩ k1 k2) s = .next t ∧ t.keys.get ⟨slot.toNat, slot.isLt⟩ = ⟨xts, k1, k2⟩) ∧
    (∀ slot xts k1 k2 ide, s.dev.tdisp ≠ .unlocked → ide = false ∨ s.dev.ideStreams = [] →
      exec (.keySlotLoad slot ⟨xts, ide⟩ k1 k2) s = .next (s.report IncCode.tdispWriteRefused.entry)) ∧
    (∀ sensor : BitVec 16, ∃ t, exec (.pldmGetSensorReading sensor) s = .next t ∧ t.mem = s.mem ∧
      (∀ n, s.sensor sensor.toNat = some n → t.answer = leBytes 8 n) ∧ (s.sensor sensor.toNat = none → t.answer = [])) ∧
    s.sensor 0x400 = some s.dev.mode.code ∧
    (∀ c : ColId, s.sensor (0x200 + c.val) = some (s.cols.get c).gov.jtemp.toNat) ∧
    (∀ e rest, s.log.events = e :: rest → exec (.platformEventRetry true) s = .next { s with log := { s.log with events := rest } }) ∧
    (∀ e, s.log.events = [e] → exec (.platformEventRetry false) s = .next { s with log := { s.log with events :=
      if s.ptp.toNat < e.sent + 1000000000 then [e] else if e.retried then [] else [⟨e.record, s.ptp.toNat, true⟩] } }) ∧
    (s.log.events = [] → ∀ acked, exec (.platformEventRetry acked) s = .next s) ∧
    (∀ cls code col m, s.log.merges = [m] → m.cls = cls.toNat → m.code = code.toNat → m.col = col.toNat →
      (m.replaced = 0 ∨ s.ptp.toNat < m.since + 1000000000 → exec (.logMergeSummary cls code col) s = .next s) ∧
      (m.replaced ≠ 0 → m.since + 1000000000 ≤ s.ptp.toNat → ∃ i : Incident, exec (.logMergeSummary cls code col) s =
        .next (({ s with log := { s.log with merges := [{ m with replaced := 0 }] } } : State).report i) ∧
        i.detail = BitVec.ofNat 64 (m.replaced % 2 ^ 32 + 2 ^ 32 * m.cls + 2 ^ 40 * m.code))) ∧
    (∀ tdi, exec (.tdispStateChange tdi) s = .next { s with dev := { s.dev with tdisp := tdi } })

/-! ### The events of the device complete -/

/-- The events at the ports, in placement and at issue complete (R99, R187, R219 to R223, R225 to R227): under conditions on the state and
the operands alone each answers a next state with its own effect. LAUNCH_SIGNAL_STORE queues the record of its address;
LAUNCH_PORT_READ makes a grid of a good record; DEPENDENCE_POLL finds a dependence met and offers the grid; TEAM_ADMISSION makes the next
team resident on the core that R225 gives; PLACEMENT_DIVERSION_TIMEOUT lets a team that finds no core go elsewhere; SPAWN_BIN_TIMER forms a
team of the records of a bin; HEAD_TEAM_HOLD, GROUP_AGED and YIELD_HOLD_EXPIRY mark the core or the group. -/
def Obligations.LaunchEventsComplete : Prop :=
  ∀ (s : State) (col : ColId) (line : LineId) (ctx : CtxId) (core : CoreId) (slot : SlotId) (grid bin : Nat),
    let port := fun (t : State) => (t.cols.get col).lines.get line
    (∀ value : Word, value.toNat < 2 ^ 55 → value.toNat % 256 = 0 → (port s).queued < 64 → ∃ t,
      exec (.launchSignalStore ctx col line 8 0 value) s = .next t ∧
      (port t).queue = (port s).queue ++ [⟨s.fresh, value, ctx, 1, none, none, none, none, []⟩] ∧
      t.g = s.g ∧ t.mem = s.mem ∧ t.teams = s.teams ∧ t.grids = s.grids) ∧
    (∀ e bs, (port s).queue.find? (fun e => e.grid.isNone && e.held.isNone) = some e → e.bytes = [] →
      s.agentAcquire (portAgent e.ctx col) e.record.toNat 256 = .ok bs → s.badField e.ctx bs = none → (parseLaunch bs).glyphs = 0 →
      s.badAdmission e.ctx (parseLaunch bs) = none → ∃ t x, exec (.launchPortRead col line) s = .next t ∧ t.grids = s.grids ++ [x] ∧
        x.ctx = e.ctx ∧ x.record = e.record ∧ x.launch = parseLaunch bs ∧ x.depth = e.depth ∧ x.next = 0 ∧
        (x.stage = .offered ↔ ∀ d ∈ (parseLaunch bs).deps, d.1 = 0) ∧ t.g = s.g ∧ t.mem = s.mem ∧ t.teams = s.teams) ∧
    (∀ x bs, s.gridOf grid = some x → x.stage = .held → x.depsOk = [false, true, true, true] → x.depWait = [] →
      s.agentAcquire (portAgent x.ctx x.col) (x.launch.deps.getD 0 (0, 0)).1.toNat 8 = .ok bs →
      (x.launch.deps.getD 0 (0, 0)).2.toNat ≤ leNat bs → ∃ t, exec (.dependencePoll grid) s = .next t ∧
        t.gridOf grid = some { x with stage := .offered, depsOk := [true, true, true, true] } ∧ t.g = s.g ∧ t.mem = s.mem) ∧
    (∀ x dst, s.gridOf grid = some x → x.stage = .offered → x.launch.glyphs = 0 → x.launch.cohort = false → s.waitingOf x = [] →
      s.admits x.ctx = true → s.mayAdmit x = true → s.placeLaunched x x.nextHead x.next x.diverted = some dst → ∃ t,
        exec (.teamAdmission grid) s = .next t ∧
        (∃ tm ∈ t.teams, tm.grid = grid ∧ tm.ctx = x.ctx ∧ tm.value = BitVec.ofNat 64 x.next ∧ tm.place = .resident ∧ tm.core = dst) ∧
        ∃ y, t.gridOf grid = some y ∧ y.next = x.next + 1) ∧
    (∀ x, s.gridOf grid = some x → x.stage = .offered → s.placeLaunched x x.nextHead x.next false = none → ∃ t,
      exec (.placementDiversionTimeout grid) s = .next t ∧ t.gridOf grid = some { x with diverted := true } ∧ t.g = s.g ∧
      t.mem = s.mem) ∧
    (∀ b x, (s.cols.get col).bins.find? (fun b => b.id == bin) = some b → (s.ctxs.get b.ctx).phase = .running →
      s.gridOf b.grid = some x → b.records.length ≤ 64 → ∃ t tm, exec (.spawnBinTimer col bin) s = .next t ∧
        t.teams = s.teams ++ [tm] ∧ tm.grid = b.grid ∧ tm.entry = b.entry ∧ tm.payloads = b.records ∧ tm.spawned = true ∧
        tm.place = .waiting ∧ (t.cols.get col).bins.find? (fun b => b.id == bin) = none ∧ t.g = s.g ∧ t.mem = s.mem) ∧
    (∀ x h, leastBy s.offerKey (s.grids.filter fun x => (s.headOn x core).isSome) = some x → s.headOn x core = some h →
      x.launch.cohort = false → (s.cores.get core).headHold = none → ∃ t, exec (.headTeamHold core) s = .next t ∧
        (t.cores.get core).headHold = some h ∧ t.g = s.g ∧ t.mem = s.mem ∧ t.teams = s.teams) ∧
    (s.g.isAt core slot = true → s.g.status = .ready ∨ s.g.status = .stalled → ∃ t, exec (.groupAged core slot) s = .next t ∧
      t.g = { s.g with aged := true } ∧ t.mem = s.mem ∧ t.teams = s.teams) ∧
    (s.g.isAt core slot = true → ∃ t, exec (.yieldHoldExpiry core slot) s = .next t ∧
      t.g = { s.g with yieldHold := false } ∧ t.mem = s.mem ∧ t.teams = s.teams)

/-- The commands, doorbells and registers complete (R308, R310, R312 to R315, R319, R326, R327, R329, R331, R386): under conditions on the
state and the operands alone each answers a next state with its own effect. The context commands CTX_CREATE, CTX_SET, CTX_PREEMPT,
CTX_RESUME, CTX_RESET, CTX_DESTROY and CTX_STOP, as the good next command of the management journal, leave the context in the state of
R312; PREEMPT_DEADLINE and DEADLOCK_WATCHDOG stop it. SUBMIT_WRITE, AJCONS_WRITE, HQHEAD_WRITE, FQHEAD_WRITE, LOGCONS_WRITE and
REGISTER_WRITE set their register, SEQ_MISMATCH_REREAD counts, HREPLY_WRITE and FQDONE_WRITE make the group that waits ready, and the
TLB_SHOOTDOWN events queue a shootdown that SHOOTDOWN_COMPLETE takes off the queue. -/
def Obligations.CommandEventsComplete : Prop :=
  ∀ (s : State) (c : CtxId) (j : JournalId) (col : ColId) (value : Word),
    let x := s.ctxs.get c
    let entry := s.physRead (s.ctxEntry c) 256
    let phaseAfter := fun (i : Instr) (p : CtxPhase) => ∃ t, exec i s = .next t ∧ (t.ctxs.get c).phase = p
    let settled := (s.dropCtxTlb c).ctxHeld c = false ∧ (s.jrns.get (CtxId.journal c)).accepted = (s.jrns.get (CtxId.journal c)).submit
    (∀ n bs, s.nextCmd 64 = some (n, bs) → cmdRefusal 64 bs = none → cmdCtx bs = c → s.acceptOpen 64 n = true →
      (cmdOp bs = 0x10 → x.phase = .free → badEntry entry true = none → phaseAfter .ctxCreate .running) ∧
      (cmdOp bs = 0x11 → x.phase ≠ .free → badEntry entry false = none → (s.dropCtxTlb c).ctxHeld c = false →
        ∃ t, exec .ctxSet s = .next t ∧ (t.ctxs.get c).phase = x.phase ∧ (t.ctxs.get c).prio = recNat entry 0x32 1) ∧
      (cmdOp bs = 0x12 → x.phase = .running → (s.teams.any fun t => t.ctx == c && t.place == .resident) = true →
        phaseAfter .ctxPreempt .saving) ∧
      (cmdOp bs = 0x13 → x.phase = .saved → s.binRoom c = true → phaseAfter .ctxResume .running) ∧
      (cmdOp bs = 0x14 → x.phase ≠ .free → settled → phaseAfter .ctxReset .running) ∧
      (cmdOp bs = 0x15 → x.phase ≠ .free → settled → phaseAfter .ctxDestroy .free) ∧
      (cmdOp bs = 0x16 → x.phase = .running → phaseAfter .ctxStop .stopped)) ∧
    (x.phase = .saving → phaseAfter (.preemptDeadline c) .stopped) ∧
    (x.phase = .running → x.issuedAt + x.watchdog ≤ s.ptp.toNat → ((s.groupsOf c).filter Group.waits).any s.waitsInside = true →
      phaseAfter (.deadlockWatchdog c) .stopped) ∧
    (s.dev.bootFail = false → (s.jrns.get j).submit.toNat < value.toNat → value.toNat ≤ (s.jrns.get j).accepted.toNat + (s.jrns.get j).entries →
      ∃ t, exec (.submitWrite j value) s = .next t ∧ (t.jrns.get j).submit = value ∧ t.g = s.g ∧ t.teams = s.teams) ∧
    (s.dev.bootFail = false → (s.jrns.get j).ajcons.toNat < value.toNat → value.toNat ≤ (s.jrns.get j).accepted.toNat →
      ∃ t, exec (.ajconsWrite j value) s = .next t ∧ (t.jrns.get j).ajcons = value ∧ t.g = s.g ∧ t.teams = s.teams) ∧
    (∀ n bs, s.nextEntry j = some (n, bs) → cmdSeq bs ≠ n % 2 ^ 64 → (s.jrns.get j).signal = none → (s.jrns.get j).rereads < 99 →
      ∃ t, exec (.seqMismatchReread j) s = .next t ∧ (t.jrns.get j).rereads = (s.jrns.get j).rereads + 1 ∧ t.mem = s.mem ∧
        t.g = s.g) ∧
    (∀ r h, s.dev.bootFail = false → (s.cols.get col).hq.find? (fun r => r.record % 2 ^ (s.cols.get col).hqLog.toNat == value.toNat % 1024) = some r →
      s.g.present = true → s.g.awaits r = true → s.g.hcall = some h → s.ctx.phase = .running →
      (s.readReply ((s.cols.get col).hqSlot r.record)).1 = 0 → ∃ t, exec (.hreplyWrite col value) s = .next t ∧
        t.g.status = .ready ∧ t.g.hcall = none) ∧
    (s.dev.bootFail = false → ∃ t, exec (.hqheadWrite col value) s = .next t ∧ (t.cols.get col).hqHead = value.extractLsb' 0 32 ∧
      t.mem = s.mem ∧ t.g = s.g) ∧
    (s.dev.bootFail = false → (s.waiters col).filter (fun w => w.fault.record.isNone) = [] → ∃ t, exec (.fqheadWrite col value) s = .next t ∧
      (t.cols.get col).fqHead = value.extractLsb' 0 32 ∧ t.mem = s.mem ∧ t.g = s.g) ∧
    (∀ r w, s.dev.bootFail = false → (s.cols.get col).fq.find? (fun r => !r.done &&
        (r.record.map fun k => k % 2 ^ (s.cols.get col).fqLog.toNat) == some (value.toNat % 4096)) = some r →
      (s.waiters col).filter (fun w => w.fault.record == r.record) = [w] → w.holder = .group s.g.core s.g.slot → s.g.present = true →
      s.g.status = .blocked .fault → ∃ t, exec (.fqdoneWrite col value) s = .next t ∧ t.g.status = .ready ∧ t.g.pc = s.g.pc ∧
        t.mem = s.mem) ∧
    (s.dev.shootdowns.length < 16 → ∀ vpn : BitVec 39,
      let queued := fun (i : Instr) (d : Shootdown) => ∃ t, exec i s = .next t ∧ t.dev.shootdowns = s.dev.shootdowns ++ [d] ∧
        t.g = s.g ∧ t.mem = s.mem
      queued (.tlbShootdownPage vpn c) (.page vpn.toNat c) ∧ queued (.tlbShootdownContext c) (.context c) ∧
      queued (.tlbShootdownAllContexts vpn) (.everywhere vpn.toNat)) ∧
    (∀ d rest, s.dev.shootdowns = d :: rest → (s.shootdownDone d).shootdownWaits d = false → ∃ t,
      exec .shootdownComplete s = .next t ∧ t.dev.shootdowns = rest ∧ t.dev.sdDone = s.dev.sdDone + 1) ∧
    (∀ ide, ∃ t, exec (.registerWrite 0x1A0 value ide) s = .next t ∧ t.dev.scrubh = value.extractLsb' 0 8 ∧ t.g = s.g ∧ t.mem = s.mem) ∧
    (s.dev.logCons.toNat < value.toNat → value.toNat ≤ s.dev.logHead.toNat → ∃ t, exec (.logconsWrite value) s = .next t ∧
      t.dev.logCons = value ∧ t.g = s.g ∧ t.teams = s.teams)

/-- The events of the memories, the columns, the links and the management controller complete (R232, R243, R247, R262, R339, R344, R347, R350,
R354, R356 to R361, R364 to R374, R377, R379 to R381, R386, R392 to R394): under conditions on the state and the operands alone each
answers a next state with its own effect. -/
def Obligations.DeviceEventsComplete : Prop :=
  ∀ (s : State) (col : ColId) (core : CoreId) (bank : Fin 16) (die : DieId) (pair : PairId) (mod : Fin 16) (port : PortId) (peer : PeerId)
    (value : Word) (line frame : Nat),
    let x := fun (t : State) => t.cols.get col
    let calm := fun (t : State) => t.g = s.g ∧ t.mem = s.mem ∧ t.teams = s.teams
    let quiet := fun (t : State) => t.g = s.g ∧ t.teams = s.teams
    -- the governor and the vault
    ((x s).gov.force = true → (x s).gov.level ≠ 3 → (x s).gov.lastChange = none → ∃ t, exec (.levelRise col) s = .next t ∧
      (x t).gov.level = 3 ∧ quiet t) ∧
    (∀ since, (x s).gov.level = 1 → s.levelAsked col = 0 → s.levelCool col 1 = true → (x s).gov.since.getD 0 none = some since →
      since + 1000000 ≤ s.ptp.toNat → (x s).gov.lastChange = none → ∃ t, exec (.levelFall col) s = .next t ∧ (x t).gov.level = 0 ∧ quiet t) ∧
    (s.dev.bootFail = false → ∃ t, exec (.govForce col value) s = .next t ∧ (x t).gov.force = value.getLsbD 10 ∧ calm t) ∧
    (bank.val ∉ (x s).vault.busy → ∃ t, exec (.vaultRefresh col bank) s = .next t ∧ bank.val ∈ (x t).vault.busy ∧ calm t) ∧
    (∃ t, exec (.refreshEnd col bank) s = .next t ∧ bank.val ∉ (x t).vault.busy ∧ calm t) ∧
    (value.getLsbD 0 = true → ∃ t, exec (.renew col value) s = .next t ∧ (x t).vault.owner = false ∧
      (x t).vault.leaseEnd = s.ptp.toNat + 1250000 ∧ quiet t) ∧
    ((x s).vault.owner = false → (x s).vault.leaseEnd ≤ s.ptp.toNat → ∃ t, exec (.refreshLeaseLapse col) s = .next t ∧
      (x t).vault.owner = true ∧ quiet t) ∧
    (∀ celsius, ∃ t, exec (.vaultHot col bank celsius) s = .next t ∧ (x t).vault.temps = (x s).vault.temps.set bank.val celsius ∧ quiet t) ∧
    (∀ mv, s.dieShort die = true → die ∉ s.dev.droop → mv.toNat = s.sharedShortfall die →
      ∃ t, exec (.regulatorDroop die mv) s = .next t ∧ die ∈ t.dev.droop ∧ quiet t) ∧
    (((dieCols die).all fun c => 30 < (s.cols.get c).droop.shortfall) = false →
      ∃ t, exec (.regulatorDroopCleared die) s = .next t ∧ die ∉ t.dev.droop ∧ calm t) ∧
    -- ways and windows
    (s.dev.bootFail = false → (value.extractLsb' 0 5).toNat = 12 → (x s).ways = 16 → (x s).waysPend = none → (x s).grant = none → s.sliceBusy col = false → ∃ t,
      exec (.columnWaysWrite col value) s = .next t ∧ (x t).ways = 12 ∧ (x t).waysRefused = false) ∧
    (s.dev.bootFail = false → (value.extractLsb' 0 8).toNat ≤ 128 → ∃ t, exec (.pinwinWrite core value) s = .next t ∧
      (t.cores.get core).pinPend = some (value.extractLsb' 0 8).toNat ∧ calm t) ∧
    (∀ n, (s.cores.get core).pinPend = some n → (∀ tm ∈ s.teams, tm.place = .resident → tm.core = core → tm.units = []) → ∃ t,
      exec (.pinwinApply core) s = .next t ∧ (t.cores.get core).pinwin = n ∧ (t.cores.get core).pinPend = none ∧ quiet t) ∧
    -- main memory
    (∀ w, s.mem.writes.find? (fun v => v.id == w.id) = some w → w.stage = .sent →
      (∀ v ∈ s.mem.writes, v.id < w.id → v.stage = .accepted ∨ v.sameBlock w = false) → ∃ t, exec (.parityDeltaAccept w.id) s = .next t ∧
      { w with stage := .accepted } ∈ t.mem.writes ∧ t.mem.cells = s.mem.cells ∧ quiet t) ∧
    (∀ w, s.mem.writes.find? (fun v => v.stripe == w.stripe && v.stage == .accepted) = some w → w.stripe ∉ s.mem.badParity → ∃ t,
      exec (.parityDeltaApply w.stripe) s = .next t ∧ t.mem.writes = s.mem.writes.filter (fun v => v.id != w.id) ∧
      t.mem.cells = s.mem.cells ∧ quiet t) ∧
    (∀ stack : Fin 12, s.dev.mode = .normal → stack.val ∉ s.lostStacks → ∃ t, exec (.stackLost stack) s = .next t ∧
      t.dev.mode = .degraded ∧ quiet t) ∧
    (s.dev.restripeRefusal = none → ∃ t, exec .restripeStart s = .next t ∧ t.dev.mode = .restriping ∧ t.dev.watermark = 2 ^ 28 ∧ quiet t) ∧
    (s.dev.mode = .restriping → s.mem.writes = [] → 1 < s.dev.watermark → ∃ t, exec .restripeStripeDone s = .next t ∧
      t.dev.watermark = s.dev.watermark - 1 ∧ t.mem.cells = s.mem.cells ∧ quiet t) ∧
    (∀ sector symbol, s.dev.scrubh ≠ 0 → isVault (32 * sector) = true → (s.cols.get (vaultCol (32 * sector))).fenced = false →
      s.mem.poisoned (32 * sector) = false → s.mem.checked (32 * sector) = true → ∃ t, ∃ i : Incident,
        exec (.patrolScrub sector (.correctable symbol)) s = .next t ∧ t = s.report i ∧ i.detail = symbol.zeroExtend 64 ∧ quiet t) ∧
    (s.dev.ckBusy = false → s.ckRefusal false = none → s.dev.ckPeer ∉ s.dev.peerFenced → ∃ t, exec .checkpointSave s = .next t ∧ t.dev.ckState = .saving ∧
      t.imageAt = some s.image ∧ calm t) ∧
    (∀ i, s.dev.ckBusy = false → s.ckRefusal false = none → s.dev.ckPeer ∉ s.dev.peerFenced → s.imageAt = some i → i.capacity ≤ s.dev.capacity → ∃ t,
      exec .checkpointRestore s = .next t ∧ t.dev.ckState = .restoring ∧ calm t) ∧
    (s.dev.ckState = .saving → ∃ t, exec (.checkpointComplete false) s = .next t ∧ t.dev.ckState = .done ∧
      t.dev.ckBytes = BitVec.ofNat 56 s.imageBytes ∧ quiet t) ∧
    (∀ slot va pa team index ctx, hasSectors pa.toNat = true → s.reconstructible pa.toNat = false → (s.ctxs.get ctx).phase ≠ .free → ∃ t,
      exec (.storeFailure core slot va pa (.sector team index ctx)) s = .next t ∧ (t.ctxs.get ctx).error = true) ∧
    -- marks, replicas, leases
    (∀ m, s.mem.marks.find? (fun m => m.line == line && 40960 ≤ (s.ptp.toNat - m.time.toNat) * 33) = some m → ∃ t,
      exec (.scopeMarkPromotion line) s = .next t ∧ t = s.releaseSoon m.holder.core (if m.outside then .sys else .dev)) ∧
    (∀ ctx va p, (x s).fenced = false → frame < (x s).replN.toNat → (x s).frameFree frame s.ptp.toNat = true →
      (x s).readThrough ctx (va.toNat / 2 ^ 16) s.ptp.toNat = true → s.promotable col ctx (va.toNat / 2 ^ 16) = some p → ∃ t,
        exec (.promotionStart col ctx va frame) s = .next t ∧
        ⟨frame, va.toNat / 2 ^ 16, ctx, p.gen, false, true, s.ptp.toNat⟩ ∈ (x t).replicas ∧ calm t) ∧
    (∀ r, (x s).replicas.find? (fun r => r.frame == frame && r.copying) = some r →
      (∀ p loc, s.promotable col r.ctx r.page = some p → p.site = .mem loc → p.gen = r.gen → s.ptp.toNat < r.used + 100000 →
        s.mem.copies = [] → ∃ t, exec (.promotionCommit col frame) s = .next t ∧
          { r with valid := true, copying := false } ∈ (x t).replicas ∧ quiet t) ∧
      (r.used + 100000 ≤ s.ptp.toNat → ∃ t, exec (.promotionAbandon col frame) s = .next t ∧
        (x t).replicas = (x s).replicas.filter (fun e => e.frame != frame) ∧ calm t)) ∧
    (∀ l ∈ s.links.llines, l.col = col → l.line = line → l.expiry ≤ s.ptp.toNat → ∃ t, exec (.leaseExpiry col line) s = .next t ∧
      l ∉ t.links.llines ∧ calm t) ∧
    (∀ h due, s.links.held = [h] → h.loc / 128 = line → h.due = some due → due ≤ s.ptp.toNat → h.host = false → s.mem.hostHas line = false →
      ∃ t, exec (.leaseHoldExpiry line) s = .next t ∧
        (h.writes = false → h.service = false → t.links.held = [{ h with due := none }] ∧ calm t) ∧
        (h.writes = true → h.red = none → h.tag = none → h.who = none →
          t = ({ s with links := { s.links with held := [], leases := s.links.leases.filter fun l => l.line != line } } : State).storeNow
            none h.party h.loc h.key h.bytes)) ∧
    (s.links.held = [] → ∃ t, exec (.backInvalidateResponse line) s = .next t ∧ line ∉ t.mem.hostFilter ∧ line ∉ t.mem.hostSnoops ∧
      t.mem.cells = s.mem.cells ∧ quiet t) ∧
    -- links
    (∃ t, exec (.ucieFlitRetry pair mod) s = .next t ∧ (pair.val, mod.val, s.ptp.toNat) ∈ t.links.retries ∧ quiet t) ∧
    (∀ lane, ∃ t, ∃ i : Incident, exec (.ucieLaneRepaired pair lane) s = .next t ∧ t = s.report i ∧ quiet t) ∧
    (∀ live, s.links.modules.getD pair.val [] = live → mod.val ∈ live → ∃ t, exec (.ucieModuleDisabled pair mod) s = .next t ∧
      mod.val ∉ t.links.modules.getD pair.val [] ∧ quiet t) ∧
    (s.links.modules.getD pair.val [] = [] → s.links.lostPairs = [] → ∃ t, exec (.dieLinkLost pair) s = .next t ∧
      t.links.lostPairs = [pair] ∧ quiet t) ∧
    (s.flash.alternate = [] → (s.links.ports.get port).up = false → ∃ t, exec (.ualinkPortTraining port true peer) s = .next t ∧
      t.links.ports.get port = ⟨true, some peer, false, false, []⟩ ∧ calm t) ∧
    ((s.links.ports.get port).up = true → (s.links.ports.get port).fellBack = false → ∃ t,
      exec (.doubleRateOffer port true) s = .next t ∧ (t.links.ports.get port).double = true ∧ calm t) ∧
    ((s.links.ports.get port).up = true → ∃ t, exec (.ualinkPortDown port) s = .next t ∧ (t.links.ports.get port).up = false ∧ quiet t) ∧
    (∀ offset, s.links.ptpLocked = true → ∃ t, exec (.ptpUnlocked offset) s = .next t ∧ t.links.ptpLocked = false ∧ quiet t) ∧
    (∃ t, exec .ptpLockRegained s = .next t ∧ t.links.ptpLocked = true ∧ calm t) ∧
    (peer.val ∈ s.dev.peerLive → (∀ m ∈ s.links.misses, m.1 ≠ peer.val) → ∃ t, exec (.heartbeat peer) s = .next t ∧
      t.links.misses = (peer.val, 1) :: s.links.misses ∧ calm t) ∧
    (peer.val ∉ s.dev.peerFenced → ∃ t, exec (.peerHeartbeat peer) s = .next t ∧ peer.val ∈ t.dev.peerLive ∧ calm t) ∧
    (value.extractLsb' 10 53 = 0 → value.getLsbD 63 = true → ∃ t, exec (.goWrite value) s = .next t ∧
      (value.extractLsb' 0 10).toNat ∉ t.dev.peerFenced ∧ calm t) ∧
    -- the management controller
    ((x s).fenced = false → ∃ t, exec (.columnFence col .computeCore) s = .next t ∧ (x t).fenced = true) ∧
    (∀ sensor : Fin 32, (x s).fenced = false → s.tenMs (x s).droop.alone = true → (x s).droop.worst = sensor.val →
      ∃ t, exec (.suspectedCrackedConnection col sensor) s = .next t ∧ (x t).fenced = true) ∧
    (∀ block, ∃ t, exec (.spdmGetMeasurements block) s = .next t ∧ t.answer.length = (if 1 ≤ block ∧ block ≤ 6 then 48 else 0) ∧ calm t) ∧
    (∀ slot xts k1 k2 ide, s.dev.tdisp = .unlocked → s.links.held = [] → ∃ t, exec (.keySlotLoad slot ⟨xts, ide⟩ k1 k2) s = .next t ∧
      t.keys.get ⟨slot.toNat, slot.isLt⟩ = ⟨xts, k1, k2⟩) ∧
    (∃ t, exec (.pldmGetSensorReading 0x400) s = .next t ∧ t.answer = leBytes 8 s.dev.mode.code ∧ calm t) ∧
    (∀ e rest, s.log.events = e :: rest → ∃ t, exec (.platformEventRetry true) s = .next t ∧ t.log.events = rest ∧ calm t) ∧
    (∀ (m : MergeCount) (cls code col : BitVec 8), s.log.merges.find? (fun m => m.of cls.toNat code.toNat col.toNat) = some m →
      m.replaced ≠ 0 → m.since + 1000000000 ≤ s.ptp.toNat → ∃ t, ∃ i : Incident, exec (.logMergeSummary cls code col) s = .next t ∧
        t = (s.modMerge cls.toNat code.toNat col.toNat fun x => { x with replaced := 0 }).report i ∧
        i.detail.toNat % 2 ^ 32 = m.replaced % 2 ^ 32 ∧ quiet t) ∧
    (∀ tdi, ∃ t, exec (.tdispStateChange tdi) s = .next t ∧ t.dev.tdisp = tdi ∧ calm t) ∧
    -- resets and the boot
    (let restarted := fun (i : Instr) (cause : Nat) => ∃ t, exec i s = .next t ∧ t.dev.resetCause = BitVec.ofNat 8 cause ∧
        t.flash.step = 1 ∧ t.teams = [] ∧ t.groups = []
     restarted .powerOn 0 ∧ restarted (.devreset 0x5A370001) 1 ∧ restarted .pcieReset 2 ∧ restarted .managementRequest 3 ∧
     restarted (.dmcWatchdog die) 6 ∧ restarted (.thermalTrip die 116) 7 ∧ restarted .regulatorFault 8) ∧
    (s.dev.bootFail = false → s.flash.step = 9 → ∃ t, exec (.bootStep .done) s = .next t ∧ t.dev.running = true ∧ t.flash.step = 10 ∧
      quiet t ∧ (s.dev.logRoom = false → t.mem = s.mem))
end

