-- ==== Sys2Proof/Laws/Dispatch.lean ====
section
/-! SUPPORT. One equation for each arm of exec: the meaning that it calls. -/
namespace Sys2Proof.Machine
-- One proof at a time: proofs elaborated side by side each take a thread and its stack.
set_option Elab.async false

@[simp] theorem exec_branch (x0 : BitVec 24) (s : State) : exec (.branch x0) s = execBranch x0 s := rfl
@[simp] theorem exec_call (x0 : BitVec 24) (s : State) : exec (.call x0) s = execCall x0 s := rfl
@[simp] theorem exec_nop (s : State) : exec (.nop) s = execNop s := rfl
@[simp] theorem exec_calls (x0 : SReg) (s : State) : exec (.calls x0) s = execCalls x0 s := rfl
@[simp] theorem exec_ret (s : State) : exec (.ret) s = execRet s := rfl
@[simp] theorem exec_jmps (x0 : SReg) (s : State) : exec (.jmps x0) s = execJmps x0 s := rfl
@[simp] theorem exec_land (s : State) : exec (.land) s = execLand s := rfl
@[simp] theorem exec_halt (s : State) : exec (.halt) s = execHalt s := rfl
@[simp] theorem exec_poll (s : State) : exec (.poll) s = execPoll s := rfl
@[simp] theorem exec_yield (s : State) : exec (.yield) s = execYield s := rfl
@[simp] theorem exec_endGroup (s : State) : exec (.endGroup) s = execEndGroup s := rfl
@[simp] theorem exec_bz (x0 : SReg) (x1 : BitVec 18) (s : State) : exec (.bz x0 x1) s = execBz x0 x1 s := rfl
@[simp] theorem exec_bnz (x0 : SReg) (x1 : BitVec 18) (s : State) : exec (.bnz x0 x1) s = execBnz x0 x1 s := rfl
@[simp] theorem exec_bany (x0 : PReg) (x1 : BitVec 18) (s : State) : exec (.bany x0 x1) s = execBany x0 x1 s := rfl
@[simp] theorem exec_ball (x0 : PReg) (x1 : BitVec 18) (s : State) : exec (.ball x0 x1) s = execBall x0 x1 s := rfl
@[simp] theorem exec_bnone (x0 : PReg) (x1 : BitVec 18) (s : State) : exec (.bnone x0 x1) s = execBnone x0 x1 s := rfl
@[simp] theorem exec_jmpv (x0 : VReg) (s : State) : exec (.jmpv x0) s = execJmpv x0 s := rfl
@[simp] theorem exec_add (x0 x1 x2 : SReg) (s : State) : exec (.add x0 x1 x2) s = execAdd x0 x1 x2 s := rfl
@[simp] theorem exec_sub (x0 x1 x2 : SReg) (s : State) : exec (.sub x0 x1 x2) s = execSub x0 x1 x2 s := rfl
@[simp] theorem exec_and (x0 x1 x2 : SReg) (s : State) : exec (.and x0 x1 x2) s = execAnd x0 x1 x2 s := rfl
@[simp] theorem exec_or (x0 x1 x2 : SReg) (s : State) : exec (.or x0 x1 x2) s = execOr x0 x1 x2 s := rfl
@[simp] theorem exec_xor (x0 x1 x2 : SReg) (s : State) : exec (.xor x0 x1 x2) s = execXor x0 x1 x2 s := rfl
@[simp] theorem exec_sll (x0 x1 x2 : SReg) (s : State) : exec (.sll x0 x1 x2) s = execSll x0 x1 x2 s := rfl
@[simp] theorem exec_srl (x0 x1 x2 : SReg) (s : State) : exec (.srl x0 x1 x2) s = execSrl x0 x1 x2 s := rfl
@[simp] theorem exec_sra (x0 x1 x2 : SReg) (s : State) : exec (.sra x0 x1 x2) s = execSra x0 x1 x2 s := rfl
@[simp] theorem exec_mul (x0 x1 x2 : SReg) (s : State) : exec (.mul x0 x1 x2) s = execMul x0 x1 x2 s := rfl
@[simp] theorem exec_mulh (x0 x1 x2 : SReg) (s : State) : exec (.mulh x0 x1 x2) s = execMulh x0 x1 x2 s := rfl
@[simp] theorem exec_mulhn (x0 x1 x2 : SReg) (s : State) : exec (.mulhn x0 x1 x2) s = execMulhn x0 x1 x2 s := rfl
@[simp] theorem exec_div (x0 x1 x2 : SReg) (s : State) : exec (.div x0 x1 x2) s = execDiv x0 x1 x2 s := rfl
@[simp] theorem exec_divn (x0 x1 x2 : SReg) (s : State) : exec (.divn x0 x1 x2) s = execDivn x0 x1 x2 s := rfl
@[simp] theorem exec_rem (x0 x1 x2 : SReg) (s : State) : exec (.rem x0 x1 x2) s = execRem x0 x1 x2 s := rfl
@[simp] theorem exec_remn (x0 x1 x2 : SReg) (s : State) : exec (.remn x0 x1 x2) s = execRemn x0 x1 x2 s := rfl
@[simp] theorem exec_slt (x0 x1 x2 : SReg) (s : State) : exec (.slt x0 x1 x2) s = execSlt x0 x1 x2 s := rfl
@[simp] theorem exec_sltn (x0 x1 x2 : SReg) (s : State) : exec (.sltn x0 x1 x2) s = execSltn x0 x1 x2 s := rfl
@[simp] theorem exec_min (x0 x1 x2 : SReg) (s : State) : exec (.min x0 x1 x2) s = execMin x0 x1 x2 s := rfl
@[simp] theorem exec_max (x0 x1 x2 : SReg) (s : State) : exec (.max x0 x1 x2) s = execMax x0 x1 x2 s := rfl
@[simp] theorem exec_minn (x0 x1 x2 : SReg) (s : State) : exec (.minn x0 x1 x2) s = execMinn x0 x1 x2 s := rfl
@[simp] theorem exec_maxn (x0 x1 x2 : SReg) (s : State) : exec (.maxn x0 x1 x2) s = execMaxn x0 x1 x2 s := rfl
@[simp] theorem exec_seq (x0 x1 x2 : SReg) (s : State) : exec (.seq x0 x1 x2) s = execSeq x0 x1 x2 s := rfl
@[simp] theorem exec_clz (x0 x1 : SReg) (s : State) : exec (.clz x0 x1) s = execClz x0 x1 s := rfl
@[simp] theorem exec_ctz (x0 x1 : SReg) (s : State) : exec (.ctz x0 x1) s = execCtz x0 x1 s := rfl
@[simp] theorem exec_popc (x0 x1 : SReg) (s : State) : exec (.popc x0 x1) s = execPopc x0 x1 s := rfl
@[simp] theorem exec_addi (x0 x1 : SReg) (x2 : BitVec 12) (s : State) : exec (.addi x0 x1 x2) s = execAddi x0 x1 x2 s := rfl
@[simp] theorem exec_andi (x0 x1 : SReg) (x2 : BitVec 12) (s : State) : exec (.andi x0 x1 x2) s = execAndi x0 x1 x2 s := rfl
@[simp] theorem exec_ori (x0 x1 : SReg) (x2 : BitVec 12) (s : State) : exec (.ori x0 x1 x2) s = execOri x0 x1 x2 s := rfl
@[simp] theorem exec_glyph (x0 : BitVec 8) (x1 x2 : BitVec 7) (x3 : BitVec 2) (s : State) : exec (.glyph x0 x1 x2 x3) s = execGlyph x0 x1 x2 x3 s := rfl
@[simp] theorem exec_glyld (x0 : SReg) (x1 : BitVec 8) (s : State) : exec (.glyld x0 x1) s = execGlyld x0 x1 s := rfl
@[simp] theorem exec_xori (x0 x1 : SReg) (x2 : BitVec 12) (s : State) : exec (.xori x0 x1 x2) s = execXori x0 x1 x2 s := rfl
@[simp] theorem exec_slli (x0 x1 : SReg) (x2 : BitVec 6) (s : State) : exec (.slli x0 x1 x2) s = execSlli x0 x1 x2 s := rfl
@[simp] theorem exec_srli (x0 x1 : SReg) (x2 : BitVec 6) (s : State) : exec (.srli x0 x1 x2) s = execSrli x0 x1 x2 s := rfl
@[simp] theorem exec_srai (x0 x1 : SReg) (x2 : BitVec 6) (s : State) : exec (.srai x0 x1 x2) s = execSrai x0 x1 x2 s := rfl
@[simp] theorem exec_slti (x0 x1 : SReg) (x2 : BitVec 12) (s : State) : exec (.slti x0 x1 x2) s = execSlti x0 x1 x2 s := rfl
@[simp] theorem exec_liz (x0 : SReg) (x1 : BitVec 2) (x2 : BitVec 16) (s : State) : exec (.liz x0 x1 x2) s = execLiz x0 x1 x2 s := rfl
@[simp] theorem exec_lik (x0 : SReg) (x1 : BitVec 2) (x2 : BitVec 16) (s : State) : exec (.lik x0 x1 x2) s = execLik x0 x1 x2 s := rfl
@[simp] theorem exec_ld (x0 x1 : SReg) (x2 : BitVec 12) (s : State) : exec (.ld x0 x1 x2) s = execLd x0 x1 x2 s := rfl
@[simp] theorem exec_st (x0 x1 : SReg) (x2 : BitVec 12) (s : State) : exec (.st x0 x1 x2) s = execSt x0 x1 x2 s := rfl
@[simp] theorem exec_ldk (x0 x1 : SReg) (x2 : BitVec 12) (s : State) : exec (.ldk x0 x1 x2) s = execLdk x0 x1 x2 s := rfl
@[simp] theorem exec_mode (x0 x1 : SReg) (x2 : BitVec 8) (s : State) : exec (.mode x0 x1 x2) s = execMode x0 x1 x2 s := rfl
@[simp] theorem exec_mdr (x0 : SReg) (s : State) : exec (.mdr x0) s = execMdr x0 s := rfl
@[simp] theorem exec_flr (x0 : SReg) (s : State) : exec (.flr x0) s = execFlr x0 s := rfl
@[simp] theorem exec_flclr (x0 x1 : SReg) (x2 : FlSel) (s : State) : exec (.flclr x0 x1 x2) s = execFlclr x0 x1 x2 s := rfl
@[simp] theorem exec_sreadScalar (x0 : SReg) (x1 : Sel) (s : State) : exec (.sreadScalar x0 x1) s = execSreadScalar x0 x1 s := rfl
@[simp] theorem exec_swrite (x0 : SReg) (x1 : Sel) (s : State) : exec (.swrite x0 x1) s = execSwrite x0 x1 s := rfl
@[simp] theorem exec_sreadVector (x0 : Guard) (x1 : VReg) (x2 : Sel) (s : State) : exec (.sreadVector x0 x1 x2) s = execSreadVector x0 x1 x2 s := rfl
@[simp] theorem exec_pand (x0 : Guard) (x1 x2 x3 : PReg) (s : State) : exec (.pand x0 x1 x2 x3) s = execPand x0 x1 x2 x3 s := rfl
@[simp] theorem exec_por (x0 : Guard) (x1 x2 x3 : PReg) (s : State) : exec (.por x0 x1 x2 x3) s = execPor x0 x1 x2 x3 s := rfl
@[simp] theorem exec_pxor (x0 : Guard) (x1 x2 x3 : PReg) (s : State) : exec (.pxor x0 x1 x2 x3) s = execPxor x0 x1 x2 x3 s := rfl
@[simp] theorem exec_pmov (x0 : Guard) (x1 x2 : PReg) (s : State) : exec (.pmov x0 x1 x2) s = execPmov x0 x1 x2 s := rfl
@[simp] theorem exec_pset (x0 : Guard) (x1 : PReg) (x2 : SReg) (s : State) : exec (.pset x0 x1 x2) s = execPset x0 x1 x2 s := rfl
@[simp] theorem exec_pget (x0 : SReg) (x1 : PReg) (s : State) : exec (.pget x0 x1) s = execPget x0 x1 s := rfl
@[simp] theorem exec_pcnt (x0 : SReg) (x1 : PReg) (s : State) : exec (.pcnt x0 x1) s = execPcnt x0 x1 s := rfl
@[simp] theorem exec_pfirst (x0 : SReg) (x1 : PReg) (s : State) : exec (.pfirst x0 x1) s = execPfirst x0 x1 s := rfl
@[simp] theorem exec_cvt (x0 : Guard) (x1 x2 : VReg) (x3 : ConvCode) (s : State) : exec (.cvt x0 x1 x2 x3) s = execCvt x0 x1 x2 x3 s := rfl
@[simp] theorem exec_cvtFrom (x0 : Guard) (x1 x2 : VReg) (x3 : ConvCode) (s : State) : exec (.cvtFrom x0 x1 x2 x3) s = execCvtFrom x0 x1 x2 x3 s := rfl
@[simp] theorem exec_quant (x0 : Guard) (x1 x2 : VReg) (x3 : BitVec 3) (s : State) : exec (.quant x0 x1 x2 x3) s = execQuant x0 x1 x2 x3 s := rfl
@[simp] theorem exec_deq (x0 : Guard) (x1 x2 : VReg) (x3 : BitVec 3) (s : State) : exec (.deq x0 x1 x2 x3) s = execDeq x0 x1 x2 x3 s := rfl
@[simp] theorem exec_vmovi (x0 : Guard) (x1 : VReg) (x2 : BitVec 10) (s : State) : exec (.vmovi x0 x1 x2) s = execVmovi x0 x1 x2 s := rfl
@[simp] theorem exec_vadd (x0 : Guard) (x1 x2 x3 : VReg) (s : State) : exec (.vadd x0 x1 x2 x3) s = execVadd x0 x1 x2 x3 s := rfl
@[simp] theorem exec_vsub (x0 : Guard) (x1 x2 x3 : VReg) (s : State) : exec (.vsub x0 x1 x2 x3) s = execVsub x0 x1 x2 x3 s := rfl
@[simp] theorem exec_vmul (x0 : Guard) (x1 x2 x3 : VReg) (s : State) : exec (.vmul x0 x1 x2 x3) s = execVmul x0 x1 x2 x3 s := rfl
@[simp] theorem exec_vmulh (x0 : Guard) (x1 x2 x3 : VReg) (s : State) : exec (.vmulh x0 x1 x2 x3) s = execVmulh x0 x1 x2 x3 s := rfl
@[simp] theorem exec_vmin (x0 : Guard) (x1 x2 x3 : VReg) (s : State) : exec (.vmin x0 x1 x2 x3) s = execVmin x0 x1 x2 x3 s := rfl
@[simp] theorem exec_vmax (x0 : Guard) (x1 x2 x3 : VReg) (s : State) : exec (.vmax x0 x1 x2 x3) s = execVmax x0 x1 x2 x3 s := rfl
@[simp] theorem exec_vabsd (x0 : Guard) (x1 x2 x3 : VReg) (s : State) : exec (.vabsd x0 x1 x2 x3) s = execVabsd x0 x1 x2 x3 s := rfl
@[simp] theorem exec_vavg (x0 : Guard) (x1 x2 x3 : VReg) (s : State) : exec (.vavg x0 x1 x2 x3) s = execVavg x0 x1 x2 x3 s := rfl
@[simp] theorem exec_vand (x0 : Guard) (x1 x2 x3 : VReg) (s : State) : exec (.vand x0 x1 x2 x3) s = execVand x0 x1 x2 x3 s := rfl
@[simp] theorem exec_vor (x0 : Guard) (x1 x2 x3 : VReg) (s : State) : exec (.vor x0 x1 x2 x3) s = execVor x0 x1 x2 x3 s := rfl
@[simp] theorem exec_vxor (x0 : Guard) (x1 x2 x3 : VReg) (s : State) : exec (.vxor x0 x1 x2 x3) s = execVxor x0 x1 x2 x3 s := rfl
@[simp] theorem exec_vandn (x0 : Guard) (x1 x2 x3 : VReg) (s : State) : exec (.vandn x0 x1 x2 x3) s = execVandn x0 x1 x2 x3 s := rfl
@[simp] theorem exec_vsll (x0 : Guard) (x1 x2 x3 : VReg) (s : State) : exec (.vsll x0 x1 x2 x3) s = execVsll x0 x1 x2 x3 s := rfl
@[simp] theorem exec_vsrl (x0 : Guard) (x1 x2 x3 : VReg) (s : State) : exec (.vsrl x0 x1 x2 x3) s = execVsrl x0 x1 x2 x3 s := rfl
@[simp] theorem exec_vsra (x0 : Guard) (x1 x2 x3 : VReg) (s : State) : exec (.vsra x0 x1 x2 x3) s = execVsra x0 x1 x2 x3 s := rfl
@[simp] theorem exec_vpopc (x0 : Guard) (x1 x2 : VReg) (s : State) : exec (.vpopc x0 x1 x2) s = execVpopc x0 x1 x2 s := rfl
@[simp] theorem exec_vadds (x0 : Guard) (x1 x2 x3 : VReg) (s : State) : exec (.vadds x0 x1 x2 x3) s = execVadds x0 x1 x2 x3 s := rfl
@[simp] theorem exec_vsubs (x0 : Guard) (x1 x2 x3 : VReg) (s : State) : exec (.vsubs x0 x1 x2 x3) s = execVsubs x0 x1 x2 x3 s := rfl
@[simp] theorem exec_vmad (x0 : Guard) (x1 x2 x3 : VReg) (s : State) : exec (.vmad x0 x1 x2 x3) s = execVmad x0 x1 x2 x3 s := rfl
@[simp] theorem exec_vdot4 (x0 : Guard) (x1 x2 x3 : VReg) (s : State) : exec (.vdot4 x0 x1 x2 x3) s = execVdot4 x0 x1 x2 x3 s := rfl
@[simp] theorem exec_vdiv (x0 : Guard) (x1 x2 x3 : VReg) (s : State) : exec (.vdiv x0 x1 x2 x3) s = execVdiv x0 x1 x2 x3 s := rfl
@[simp] theorem exec_vrem (x0 : Guard) (x1 x2 x3 : VReg) (s : State) : exec (.vrem x0 x1 x2 x3) s = execVrem x0 x1 x2 x3 s := rfl
@[simp] theorem exec_vclz (x0 : Guard) (x1 x2 : VReg) (s : State) : exec (.vclz x0 x1 x2) s = execVclz x0 x1 x2 s := rfl
@[simp] theorem exec_vabs (x0 : Guard) (x1 x2 : VReg) (s : State) : exec (.vabs x0 x1 x2) s = execVabs x0 x1 x2 s := rfl
@[simp] theorem exec_vaddi (x0 : Guard) (x1 x2 : VReg) (x3 : BitVec 10) (s : State) : exec (.vaddi x0 x1 x2 x3) s = execVaddi x0 x1 x2 x3 s := rfl
@[simp] theorem exec_vslli (x0 : Guard) (x1 x2 : VReg) (x3 : BitVec 5) (s : State) : exec (.vslli x0 x1 x2 x3) s = execVslli x0 x1 x2 x3 s := rfl
@[simp] theorem exec_vsrli (x0 : Guard) (x1 x2 : VReg) (x3 : BitVec 5) (s : State) : exec (.vsrli x0 x1 x2 x3) s = execVsrli x0 x1 x2 x3 s := rfl
@[simp] theorem exec_vsrai (x0 : Guard) (x1 x2 : VReg) (x3 : BitVec 5) (s : State) : exec (.vsrai x0 x1 x2 x3) s = execVsrai x0 x1 x2 x3 s := rfl
@[simp] theorem exec_fadd (x0 : Guard) (x1 x2 x3 : VReg) (s : State) : exec (.fadd x0 x1 x2 x3) s = execFadd x0 x1 x2 x3 s := rfl
@[simp] theorem exec_fsub (x0 : Guard) (x1 x2 x3 : VReg) (s : State) : exec (.fsub x0 x1 x2 x3) s = execFsub x0 x1 x2 x3 s := rfl
@[simp] theorem exec_fmul (x0 : Guard) (x1 x2 x3 : VReg) (s : State) : exec (.fmul x0 x1 x2 x3) s = execFmul x0 x1 x2 x3 s := rfl
@[simp] theorem exec_fmin (x0 : Guard) (x1 x2 x3 : VReg) (s : State) : exec (.fmin x0 x1 x2 x3) s = execFmin x0 x1 x2 x3 s := rfl
@[simp] theorem exec_fmax (x0 : Guard) (x1 x2 x3 : VReg) (s : State) : exec (.fmax x0 x1 x2 x3) s = execFmax x0 x1 x2 x3 s := rfl
@[simp] theorem exec_fabs (x0 : Guard) (x1 x2 : VReg) (s : State) : exec (.fabs x0 x1 x2) s = execFabs x0 x1 x2 s := rfl
@[simp] theorem exec_fneg (x0 : Guard) (x1 x2 : VReg) (s : State) : exec (.fneg x0 x1 x2) s = execFneg x0 x1 x2 s := rfl
@[simp] theorem exec_fsgnj (x0 : Guard) (x1 x2 x3 : VReg) (s : State) : exec (.fsgnj x0 x1 x2 x3) s = execFsgnj x0 x1 x2 x3 s := rfl
@[simp] theorem exec_fma (x0 : Guard) (x1 x2 x3 : VReg) (s : State) : exec (.fma x0 x1 x2 x3) s = execFma x0 x1 x2 x3 s := rfl
@[simp] theorem exec_fms (x0 : Guard) (x1 x2 x3 : VReg) (s : State) : exec (.fms x0 x1 x2 x3) s = execFms x0 x1 x2 x3 s := rfl
@[simp] theorem exec_fnma (x0 : Guard) (x1 x2 x3 : VReg) (s : State) : exec (.fnma x0 x1 x2 x3) s = execFnma x0 x1 x2 x3 s := rfl
@[simp] theorem exec_fdiv (x0 : Guard) (x1 x2 x3 : VReg) (s : State) : exec (.fdiv x0 x1 x2 x3) s = execFdiv x0 x1 x2 x3 s := rfl
@[simp] theorem exec_fsqrt (x0 : Guard) (x1 x2 : VReg) (s : State) : exec (.fsqrt x0 x1 x2) s = execFsqrt x0 x1 x2 s := rfl
@[simp] theorem exec_frsq (x0 : Guard) (x1 x2 : VReg) (s : State) : exec (.frsq x0 x1 x2) s = execFrsq x0 x1 x2 s := rfl
@[simp] theorem exec_fexp2 (x0 : Guard) (x1 x2 : VReg) (s : State) : exec (.fexp2 x0 x1 x2) s = execFexp2 x0 x1 x2 s := rfl
@[simp] theorem exec_flog2 (x0 : Guard) (x1 x2 : VReg) (s : State) : exec (.flog2 x0 x1 x2) s = execFlog2 x0 x1 x2 s := rfl
@[simp] theorem exec_vcmp (x0 : Guard) (x1 : VCond) (x2 x3 : PReg) (x4 x5 : VReg) (s : State) : exec (.vcmp x0 x1 x2 x3 x4 x5) s = execVcmp x0 x1 x2 x3 x4 x5 s := rfl
@[simp] theorem exec_fcmp (x0 : Guard) (x1 : FCond) (x2 x3 : PReg) (x4 x5 : VReg) (s : State) : exec (.fcmp x0 x1 x2 x3 x4 x5) s = execFcmp x0 x1 x2 x3 x4 x5 s := rfl
@[simp] theorem exec_vsel (x0 : Guard) (x1 x2 x3 : VReg) (x4 : PReg) (s : State) : exec (.vsel x0 x1 x2 x3 x4) s = execVsel x0 x1 x2 x3 x4 s := rfl
@[simp] theorem exec_vmov (x0 : Guard) (x1 x2 : VReg) (s : State) : exec (.vmov x0 x1 x2) s = execVmov x0 x1 x2 s := rfl
@[simp] theorem exec_vbcast (x0 : Guard) (x1 : VReg) (x2 : SReg) (s : State) : exec (.vbcast x0 x1 x2) s = execVbcast x0 x1 x2 s := rfl
@[simp] theorem exec_shfl (x0 : Guard) (x1 x2 x3 : VReg) (s : State) : exec (.shfl x0 x1 x2 x3) s = execShfl x0 x1 x2 x3 s := rfl
@[simp] theorem exec_shflx (x0 : Guard) (x1 x2 : VReg) (x3 : SReg) (s : State) : exec (.shflx x0 x1 x2 x3) s = execShflx x0 x1 x2 x3 s := rfl
@[simp] theorem exec_shflu (x0 : Guard) (x1 x2 : VReg) (x3 : SReg) (s : State) : exec (.shflu x0 x1 x2 x3) s = execShflu x0 x1 x2 x3 s := rfl
@[simp] theorem exec_shfld (x0 : Guard) (x1 x2 : VReg) (x3 : SReg) (s : State) : exec (.shfld x0 x1 x2 x3) s = execShfld x0 x1 x2 x3 s := rfl
@[simp] theorem exec_vextr (x0 : Guard) (x1 : SReg) (x2 : VReg) (x3 : SReg) (s : State) : exec (.vextr x0 x1 x2 x3) s = execVextr x0 x1 x2 x3 s := rfl
@[simp] theorem exec_vins (x0 : Guard) (x1 : VReg) (x2 x3 : SReg) (s : State) : exec (.vins x0 x1 x2 x3) s = execVins x0 x1 x2 x3 s := rfl
@[simp] theorem exec_vcompact (x0 : Guard) (x1 x2 : VReg) (s : State) : exec (.vcompact x0 x1 x2) s = execVcompact x0 x1 x2 s := rfl
@[simp] theorem exec_vred (x0 : Guard) (x1 x2 : VReg) (x3 : RedOp) (s : State) : exec (.vred x0 x1 x2 x3) s = execVred x0 x1 x2 x3 s := rfl
@[simp] theorem exec_vscan (x0 : Guard) (x1 x2 : VReg) (x3 : RedOp) (s : State) : exec (.vscan x0 x1 x2 x3) s = execVscan x0 x1 x2 x3 s := rfl
@[simp] theorem exec_mma (x0 : Guard) (x1 : BitVec 2) (x2 : VReg) (x3 : BitVec 6) (x4 x5 : BitVec 3) (s : State) : exec (.mma x0 x1 x2 x3 x4 x5) s = execMma x0 x1 x2 x3 x4 x5 s := rfl
@[simp] theorem exec_azero (x0 : Guard) (x1 : BitVec 2) (s : State) : exec (.azero x0 x1) s = execAzero x0 x1 s := rfl
@[simp] theorem exec_cvta (x0 : Guard) (x1 : BitVec 2) (x2 : VReg) (s : State) : exec (.cvta x0 x1 x2) s = execCvta x0 x1 x2 s := rfl
@[simp] theorem exec_inkz (x0 : BitVec 6) (s : State) : exec (.inkz x0) s = execInkz x0 s := rfl
@[simp] theorem exec_vld (x0 : Guard) (x1 x2 : VReg) (x3 : SReg) (x4 : Size) (s : State) : exec (.vld x0 x1 x2 x3 x4) s = execVld x0 x1 x2 x3 x4 s := rfl
@[simp] theorem exec_spld (x0 : Guard) (x1 x2 : VReg) (x3 : SReg) (x4 : Size) (s : State) : exec (.spld x0 x1 x2 x3 x4) s = execSpld x0 x1 x2 x3 x4 s := rfl
@[simp] theorem exec_vtld (x0 : Guard) (x1 x2 : VReg) (x3 : SReg) (x4 : Size) (s : State) : exec (.vtld x0 x1 x2 x3 x4) s = execVtld x0 x1 x2 x3 x4 s := rfl
@[simp] theorem exec_slld (x0 : Guard) (x1 x2 : VReg) (x3 : SReg) (x4 : Size) (s : State) : exec (.slld x0 x1 x2 x3 x4) s = execSlld x0 x1 x2 x3 x4 s := rfl
@[simp] theorem exec_vst (x0 : Guard) (x1 x2 : VReg) (x3 : SReg) (x4 : Size) (s : State) : exec (.vst x0 x1 x2 x3 x4) s = execVst x0 x1 x2 x3 x4 s := rfl
@[simp] theorem exec_spst (x0 : Guard) (x1 x2 : VReg) (x3 : SReg) (x4 : Size) (s : State) : exec (.spst x0 x1 x2 x3 x4) s = execSpst x0 x1 x2 x3 x4 s := rfl
@[simp] theorem exec_vtst (x0 : Guard) (x1 x2 : VReg) (x3 : SReg) (x4 : Size) (s : State) : exec (.vtst x0 x1 x2 x3 x4) s = execVtst x0 x1 x2 x3 x4 s := rfl
@[simp] theorem exec_slst (x0 : Guard) (x1 x2 : VReg) (x3 : SReg) (x4 : Size) (s : State) : exec (.slst x0 x1 x2 x3 x4) s = execSlst x0 x1 x2 x3 x4 s := rfl
@[simp] theorem exec_vldc (x0 : Guard) (x1 : VReg) (x2 : SReg) (x3 : BitVec 11) (s : State) : exec (.vldc x0 x1 x2 x3) s = execVldc x0 x1 x2 x3 s := rfl
@[simp] theorem exec_vstc (x0 : Guard) (x1 : VReg) (x2 : SReg) (x3 : BitVec 11) (s : State) : exec (.vstc x0 x1 x2 x3) s = execVstc x0 x1 x2 x3 s := rfl
@[simp] theorem exec_pref (x0 : Guard) (x1 : VReg) (x2 : SReg) (x3 : PrefSpace) (s : State) : exec (.pref x0 x1 x2 x3) s = execPref x0 x1 x2 x3 s := rfl
@[simp] theorem exec_amov (x0 : Guard) (x1 x2 : VReg) (x3 : Scope) (x4 : Order) (x5 : AOp) (s : State) : exec (.amov x0 x1 x2 x3 x4 x5) s = execAmov x0 x1 x2 x3 x4 x5 s := rfl
@[simp] theorem exec_casv (x0 : Guard) (x1 x2 : VReg) (x3 : Scope) (x4 : Order) (s : State) : exec (.casv x0 x1 x2 x3 x4) s = execCasv x0 x1 x2 x3 x4 s := rfl
@[simp] theorem exec_redv (x0 : Guard) (x1 x2 : VReg) (x3 : Scope) (x4 : Order) (x5 : AOp) (s : State) : exec (.redv x0 x1 x2 x3 x4 x5) s = execRedv x0 x1 x2 x3 x4 x5 s := rfl
@[simp] theorem exec_altakev (x0 : Guard) (x1 : PReg) (x2 : VReg) (x3 : SReg) (s : State) : exec (.altakev x0 x1 x2 x3) s = execAltakev x0 x1 x2 x3 s := rfl
@[simp] theorem exec_copyv (x0 : Guard) (x1 : BitVec 7) (x2 x3 : VReg) (x4 : PieceSize) (s : State) : exec (.copyv x0 x1 x2 x3 x4) s = execCopyv x0 x1 x2 x3 x4 s := rfl
@[simp] theorem exec_amos (x0 x1 : SReg) (x2 : Scope) (x3 : Order) (x4 : AOp) (s : State) : exec (.amos x0 x1 x2 x3 x4) s = execAmos x0 x1 x2 x3 x4 s := rfl
@[simp] theorem exec_reds (x0 x1 : SReg) (x2 : Scope) (x3 : Order) (x4 : AOp) (s : State) : exec (.reds x0 x1 x2 x3 x4) s = execReds x0 x1 x2 x3 x4 s := rfl
@[simp] theorem exec_cass (x0 x1 : SReg) (x2 : Scope) (x3 : Order) (s : State) : exec (.cass x0 x1 x2 x3) s = execCass x0 x1 x2 x3 s := rfl
@[simp] theorem exec_lda (x0 x1 : SReg) (x2 : Scope) (x3 : Order) (s : State) : exec (.lda x0 x1 x2 x3) s = execLda x0 x1 x2 x3 s := rfl
@[simp] theorem exec_strl (x0 x1 : SReg) (x2 : Scope) (x3 : Order) (s : State) : exec (.strl x0 x1 x2 x3) s = execStrl x0 x1 x2 x3 s := rfl
@[simp] theorem exec_fence (x0 : Scope) (x1 : Order) (s : State) : exec (.fence x0 x1) s = execFence x0 x1 s := rfl
@[simp] theorem exec_fenceo (s : State) : exec (.fenceo) s = execFenceo s := rfl
@[simp] theorem exec_alinit (x0 x1 x2 : SReg) (s : State) : exec (.alinit x0 x1 x2) s = execAlinit x0 x1 x2 s := rfl
@[simp] theorem exec_altake (x0 x1 x2 : SReg) (s : State) : exec (.altake x0 x1 x2) s = execAltake x0 x1 x2 s := rfl
@[simp] theorem exec_algive (x0 x1 x2 : SReg) (s : State) : exec (.algive x0 x1 x2) s = execAlgive x0 x1 x2 s := rfl
@[simp] theorem exec_alread (x0 x1 : SReg) (s : State) : exec (.alread x0 x1) s = execAlread x0 x1 s := rfl
@[simp] theorem exec_alfree (x0 x1 : SReg) (s : State) : exec (.alfree x0 x1) s = execAlfree x0 x1 s := rfl
@[simp] theorem exec_rdvinit (x0 : BitVec 5) (x1 x2 : SReg) (s : State) : exec (.rdvinit x0 x1 x2) s = execRdvinit x0 x1 x2 s := rfl
@[simp] theorem exec_arrive (x0 : BitVec 5) (x1 : SReg) (s : State) : exec (.arrive x0 x1) s = execArrive x0 x1 s := rfl
@[simp] theorem exec_expect (x0 : BitVec 5) (x1 : SReg) (s : State) : exec (.expect x0 x1) s = execExpect x0 x1 s := rfl
@[simp] theorem exec_waitp (x0 : BitVec 5) (x1 : SReg) (s : State) : exec (.waitp x0 x1) s = execWaitp x0 x1 s := rfl
@[simp] theorem exec_waity (x0 : BitVec 5) (x1 x2 : SReg) (s : State) : exec (.waity x0 x1 x2) s = execWaity x0 x1 x2 s := rfl
@[simp] theorem exec_arwait (x0 : BitVec 5) (s : State) : exec (.arwait x0) s = execArwait x0 s := rfl
@[simp] theorem exec_rdvstat (x0 : BitVec 5) (x1 x2 : SReg) (s : State) : exec (.rdvstat x0 x1 x2) s = execRdvstat x0 x1 x2 s := rfl
@[simp] theorem exec_garrive (x0 : BitVec 5) (s : State) : exec (.garrive x0) s = execGarrive x0 s := rfl
@[simp] theorem exec_gwait (x0 : BitVec 5) (s : State) : exec (.gwait x0) s = execGwait x0 s := rfl
@[simp] theorem exec_phase (x0 : BitVec 5) (x1 x2 : SReg) (s : State) : exec (.phase x0 x1 x2) s = execPhase x0 x1 x2 s := rfl
@[simp] theorem exec_copy (x0 : BitVec 5) (x1 x2 : SReg) (s : State) : exec (.copy x0 x1 x2) s = execCopy x0 x1 x2 s := rfl
@[simp] theorem exec_copyt (x0 : BitVec 5) (x1 x2 : SReg) (s : State) : exec (.copyt x0 x1 x2) s = execCopyt x0 x1 x2 s := rfl
@[simp] theorem exec_ink (x0 : BitVec 5) (x1 x2 : SReg) (s : State) : exec (.ink x0 x1 x2) s = execInk x0 x1 x2 s := rfl
@[simp] theorem exec_mmas (x0 : BitVec 5) (x1 x2 : SReg) (s : State) : exec (.mmas x0 x1 x2) s = execMmas x0 x1 x2 s := rfl
@[simp] theorem exec_spawn (x0 : Guard) (x1 : PReg) (x2 : VReg) (x3 : SReg) (s : State) : exec (.spawn x0 x1 x2 x3) s = execSpawn x0 x1 x2 x3 s := rfl
@[simp] theorem exec_launch (x0 x1 x2 : SReg) (s : State) : exec (.launch x0 x1 x2) s = execLaunch x0 x1 x2 s := rfl
@[simp] theorem exec_trap (x0 : BitVec 20) (s : State) : exec (.trap x0) s = execTrap x0 s := rfl
@[simp] theorem exec_hcall (x0 : Guard) (x1 x2 : VReg) (x3 : SReg) (s : State) : exec (.hcall x0 x1 x2 x3) s = execHcall x0 x1 x2 x3 s := rfl
@[simp] theorem exec_eret (s : State) : exec (.eret) s = execEret s := rfl
@[simp] theorem exec_slcfg (x0 x1 : SReg) (x2 : SlcfgForm) (s : State) : exec (.slcfg x0 x1 x2) s = execSlcfg x0 x1 x2 s := rfl
@[simp] theorem exec_tlbinv (x0 : SReg) (x1 : TlbForm) (s : State) : exec (.tlbinv x0 x1) s = execTlbinv x0 x1 s := rfl
@[simp] theorem exec_cachecl (x0 : SReg) (x1 : CacheForm) (s : State) : exec (.cachecl x0 x1) s = execCachecl x0 x1 s := rfl
@[simp] theorem exec_evrd (x0 : SReg) (s : State) : exec (.evrd x0) s = execEvrd x0 s := rfl
@[simp] theorem exec_loadDataReturn (x0 : CoreId) (x1 : SlotId) (x2 : PeerReply) (s : State) : exec (.loadDataReturn x0 x1 x2) s = execLoadDataReturn x0 x1 x2 s := rfl
@[simp] theorem exec_mmaComplete (x0 : CoreId) (x1 : SlotId) (s : State) : exec (.mmaComplete x0 x1) s = execMmaComplete x0 x1 s := rfl
@[simp] theorem exec_mmasComplete (x0 : Nat) (s : State) : exec (.mmasComplete x0) s = execMmasComplete x0 s := rfl
@[simp] theorem exec_inkComplete (x0 : Nat) (s : State) : exec (.inkComplete x0) s = execInkComplete x0 s := rfl
@[simp] theorem exec_copySectorWritten (x0 : Nat) (s : State) : exec (.copySectorWritten x0) s = execCopySectorWritten x0 s := rfl
@[simp] theorem exec_waitWake (x0 : CoreId) (x1 : SlotId) (s : State) : exec (.waitWake x0 x1) s = execWaitWake x0 x1 s := rfl
@[simp] theorem exec_launchSignalStore (x0 : CtxId) (x1 : ColId) (x2 : LineId) (x3 x4 : Nat) (x5 : BitVec 64) (s : State) : exec (.launchSignalStore x0 x1 x2 x3 x4 x5) s = execLaunchSignalStore x0 x1 x2 x3 x4 x5 s := rfl
@[simp] theorem exec_launchPortRead (x0 : ColId) (x1 : LineId) (s : State) : exec (.launchPortRead x0 x1) s = execLaunchPortRead x0 x1 s := rfl
@[simp] theorem exec_dependencePoll (x0 : Nat) (s : State) : exec (.dependencePoll x0) s = execDependencePoll x0 s := rfl
@[simp] theorem exec_teamAdmission (x0 : Nat) (s : State) : exec (.teamAdmission x0) s = execTeamAdmission x0 s := rfl
@[simp] theorem exec_teamRetirement (x0 : Nat) (s : State) : exec (.teamRetirement x0) s = execTeamRetirement x0 s := rfl
@[simp] theorem exec_gridRetirement (x0 : Nat) (s : State) : exec (.gridRetirement x0) s = execGridRetirement x0 s := rfl
@[simp] theorem exec_teamSave (x0 : Nat) (s : State) : exec (.teamSave x0) s = execTeamSave x0 s := rfl
@[simp] theorem exec_allowanceReq (x0 x1 : ColId) (s : State) : exec (.allowanceReq x0 x1) s = execAllowanceReq x0 x1 s := rfl
@[simp] theorem exec_allowanceGive (x0 x1 : ColId) (s : State) : exec (.allowanceGive x0 x1) s = execAllowanceGive x0 x1 s := rfl
@[simp] theorem exec_allowanceFlush (x0 x1 : ColId) (s : State) : exec (.allowanceFlush x0 x1) s = execAllowanceFlush x0 x1 s := rfl
@[simp] theorem exec_allowanceGrant (x0 x1 : ColId) (s : State) : exec (.allowanceGrant x0 x1) s = execAllowanceGrant x0 x1 s := rfl
@[simp] theorem exec_allowanceRecall (x0 x1 : ColId) (s : State) : exec (.allowanceRecall x0 x1) s = execAllowanceRecall x0 x1 s := rfl
@[simp] theorem exec_allowanceAck (x0 x1 : ColId) (s : State) : exec (.allowanceAck x0 x1) s = execAllowanceAck x0 x1 s := rfl
@[simp] theorem exec_allowanceRelease (x0 x1 : ColId) (s : State) : exec (.allowanceRelease x0 x1) s = execAllowanceRelease x0 x1 s := rfl
@[simp] theorem exec_allowanceDrainServe (x0 : Nat) (s : State) : exec (.allowanceDrainServe x0) s = execAllowanceDrainServe x0 s := rfl
@[simp] theorem exec_giveReply (x0 x1 : ColId) (s : State) : exec (.giveReply x0 x1) s = execGiveReply x0 x1 s := rfl
@[simp] theorem exec_earlyCommit (x0 : Nat) (s : State) : exec (.earlyCommit x0) s = execEarlyCommit x0 s := rfl
@[simp] theorem exec_journalLaunch (x0 : JournalId) (s : State) : exec (.journalLaunch x0) s = execJournalLaunch x0 s := rfl
@[simp] theorem exec_journalCopy (x0 : JournalId) (s : State) : exec (.journalCopy x0) s = execJournalCopy x0 s := rfl
@[simp] theorem exec_journalCopySector (x0 : Nat) (s : State) : exec (.journalCopySector x0) s = execJournalCopySector x0 s := rfl
@[simp] theorem exec_journalSignal (x0 : JournalId) (s : State) : exec (.journalSignal x0) s = execJournalSignal x0 s := rfl
@[simp] theorem exec_journalBarrier (x0 : JournalId) (s : State) : exec (.journalBarrier x0) s = execJournalBarrier x0 s := rfl
@[simp] theorem exec_illegalEncoding (x0 : BitVec 3) (x1 : BitVec 32) (s : State) : exec (.illegalEncoding x0 x1) s = execIllegalEncoding x0 x1 s := rfl
@[simp] theorem exec_instructionFetchFault (x0 : FetchFault) (x1 : BitVec 64) (s : State) : exec (.instructionFetchFault x0 x1) s = execInstructionFetchFault x0 x1 s := rfl
@[simp] theorem exec_parityDeltaAccept (x0 : Nat) (s : State) : exec (.parityDeltaAccept x0) s = execParityDeltaAccept x0 s := rfl
@[simp] theorem exec_parityDeltaApply (x0 : Nat) (s : State) : exec (.parityDeltaApply x0) s = execParityDeltaApply x0 s := rfl
@[simp] theorem exec_spawnBinTimer (x0 : ColId) (x1 : Nat) (s : State) : exec (.spawnBinTimer x0 x1) s = execSpawnBinTimer x0 x1 s := rfl
@[simp] theorem exec_registerWrite (x0 : BitVec 24) (x1 : BitVec 64) (x2 : Bool) (s : State) : exec (.registerWrite x0 x1 x2) s = execRegisterWrite x0 x1 x2 s := rfl
@[simp] theorem exec_levelRise (x0 : ColId) (s : State) : exec (.levelRise x0) s = execLevelRise x0 s := rfl
@[simp] theorem exec_levelFall (x0 : ColId) (s : State) : exec (.levelFall x0) s = execLevelFall x0 s := rfl
@[simp] theorem exec_leaseHoldExpiry (x0 : Nat) (s : State) : exec (.leaseHoldExpiry x0) s = execLeaseHoldExpiry x0 s := rfl
@[simp] theorem exec_leaseExpiry (x0 : ColId) (x1 : Nat) (s : State) : exec (.leaseExpiry x0 x1) s = execLeaseExpiry x0 x1 s := rfl
@[simp] theorem exec_pinwinApply (x0 : CoreId) (s : State) : exec (.pinwinApply x0) s = execPinwinApply x0 s := rfl
@[simp] theorem exec_storeFailure (x0 : CoreId) (x1 : SlotId) (x2 x3 : BitVec 64) (x4 : StoreFailHow) (s : State) : exec (.storeFailure x0 x1 x2 x3 x4) s = execStoreFailure x0 x1 x2 x3 x4 s := rfl
@[simp] theorem exec_placementDiversionTimeout (x0 : Nat) (s : State) : exec (.placementDiversionTimeout x0) s = execPlacementDiversionTimeout x0 s := rfl
@[simp] theorem exec_headTeamHold (x0 : CoreId) (s : State) : exec (.headTeamHold x0) s = execHeadTeamHold x0 s := rfl
@[simp] theorem exec_groupAged (x0 : CoreId) (x1 : SlotId) (s : State) : exec (.groupAged x0 x1) s = execGroupAged x0 x1 s := rfl
@[simp] theorem exec_yieldHoldExpiry (x0 : CoreId) (x1 : SlotId) (s : State) : exec (.yieldHoldExpiry x0 x1) s = execYieldHoldExpiry x0 x1 s := rfl
@[simp] theorem exec_preemptDeadline (x0 : CtxId) (s : State) : exec (.preemptDeadline x0) s = execPreemptDeadline x0 s := rfl
@[simp] theorem exec_deadlockWatchdog (x0 : CtxId) (s : State) : exec (.deadlockWatchdog x0) s = execDeadlockWatchdog x0 s := rfl
@[simp] theorem exec_scopeMarkPromotion (x0 : Nat) (s : State) : exec (.scopeMarkPromotion x0) s = execScopeMarkPromotion x0 s := rfl
@[simp] theorem exec_promotionStart (x0 : ColId) (x1 : CtxId) (x2 : BitVec 64) (x3 : Nat) (s : State) : exec (.promotionStart x0 x1 x2 x3) s = execPromotionStart x0 x1 x2 x3 s := rfl
@[simp] theorem exec_promotionCommit (x0 : ColId) (x1 : Nat) (s : State) : exec (.promotionCommit x0 x1) s = execPromotionCommit x0 x1 s := rfl
@[simp] theorem exec_promotionAbandon (x0 : ColId) (x1 : Nat) (s : State) : exec (.promotionAbandon x0 x1) s = execPromotionAbandon x0 x1 s := rfl
@[simp] theorem exec_submitWrite (x0 : JournalId) (x1 : BitVec 64) (s : State) : exec (.submitWrite x0 x1) s = execSubmitWrite x0 x1 s := rfl
@[simp] theorem exec_ajconsWrite (x0 : JournalId) (x1 : BitVec 64) (s : State) : exec (.ajconsWrite x0 x1) s = execAjconsWrite x0 x1 s := rfl
@[simp] theorem exec_seqMismatchReread (x0 : JournalId) (s : State) : exec (.seqMismatchReread x0) s = execSeqMismatchReread x0 s := rfl
@[simp] theorem exec_ctxCreate (s : State) : exec (.ctxCreate) s = execCtxCreate s := rfl
@[simp] theorem exec_ctxSet (s : State) : exec (.ctxSet) s = execCtxSet s := rfl
@[simp] theorem exec_ctxPreempt (s : State) : exec (.ctxPreempt) s = execCtxPreempt s := rfl
@[simp] theorem exec_ctxResume (s : State) : exec (.ctxResume) s = execCtxResume s := rfl
@[simp] theorem exec_ctxReset (s : State) : exec (.ctxReset) s = execCtxReset s := rfl
@[simp] theorem exec_ctxDestroy (s : State) : exec (.ctxDestroy) s = execCtxDestroy s := rfl
@[simp] theorem exec_ctxStop (s : State) : exec (.ctxStop) s = execCtxStop s := rfl
@[simp] theorem exec_hreplyWrite (x0 : ColId) (x1 : BitVec 64) (s : State) : exec (.hreplyWrite x0 x1) s = execHreplyWrite x0 x1 s := rfl
@[simp] theorem exec_hqheadWrite (x0 : ColId) (x1 : BitVec 64) (s : State) : exec (.hqheadWrite x0 x1) s = execHqheadWrite x0 x1 s := rfl
@[simp] theorem exec_fqdoneWrite (x0 : ColId) (x1 : BitVec 64) (s : State) : exec (.fqdoneWrite x0 x1) s = execFqdoneWrite x0 x1 s := rfl
@[simp] theorem exec_fqheadWrite (x0 : ColId) (x1 : BitVec 64) (s : State) : exec (.fqheadWrite x0 x1) s = execFqheadWrite x0 x1 s := rfl
@[simp] theorem exec_tlbShootdownPage (x0 : BitVec 39) (x1 : CtxId) (s : State) : exec (.tlbShootdownPage x0 x1) s = execTlbShootdownPage x0 x1 s := rfl
@[simp] theorem exec_tlbShootdownContext (x0 : CtxId) (s : State) : exec (.tlbShootdownContext x0) s = execTlbShootdownContext x0 s := rfl
@[simp] theorem exec_tlbShootdownAllContexts (x0 : BitVec 39) (s : State) : exec (.tlbShootdownAllContexts x0) s = execTlbShootdownAllContexts x0 s := rfl
@[simp] theorem exec_shootdownComplete (s : State) : exec (.shootdownComplete) s = execShootdownComplete s := rfl
@[simp] theorem exec_stackLost (x0 : Fin 12) (s : State) : exec (.stackLost x0) s = execStackLost x0 s := rfl
@[simp] theorem exec_restripeStart (s : State) : exec (.restripeStart) s = execRestripeStart s := rfl
@[simp] theorem exec_restripeStripeDone (s : State) : exec (.restripeStripeDone) s = execRestripeStripeDone s := rfl
@[simp] theorem exec_patrolScrub (x0 : Nat) (x1 : EccFinding) (s : State) : exec (.patrolScrub x0 x1) s = execPatrolScrub x0 x1 s := rfl
@[simp] theorem exec_vaultRefresh (x0 : ColId) (x1 : Fin 16) (s : State) : exec (.vaultRefresh x0 x1) s = execVaultRefresh x0 x1 s := rfl
@[simp] theorem exec_refreshEnd (x0 : ColId) (x1 : Fin 16) (s : State) : exec (.refreshEnd x0 x1) s = execRefreshEnd x0 x1 s := rfl
@[simp] theorem exec_renew (x0 : ColId) (x1 : BitVec 64) (s : State) : exec (.renew x0 x1) s = execRenew x0 x1 s := rfl
@[simp] theorem exec_refreshLeaseLapse (x0 : ColId) (s : State) : exec (.refreshLeaseLapse x0) s = execRefreshLeaseLapse x0 s := rfl
@[simp] theorem exec_checkpointSave (s : State) : exec (.checkpointSave) s = execCheckpointSave s := rfl
@[simp] theorem exec_checkpointRestore (s : State) : exec (.checkpointRestore) s = execCheckpointRestore s := rfl
@[simp] theorem exec_checkpointComplete (x0 : Bool) (s : State) : exec (.checkpointComplete x0) s = execCheckpointComplete x0 s := rfl
@[simp] theorem exec_columnFence (x0 : ColId) (x1 : FenceCause) (s : State) : exec (.columnFence x0 x1) s = execColumnFence x0 x1 s := rfl
@[simp] theorem exec_suspectedCrackedConnection (x0 : ColId) (x1 : Fin 32) (s : State) : exec (.suspectedCrackedConnection x0 x1) s = execSuspectedCrackedConnection x0 x1 s := rfl
@[simp] theorem exec_regulatorDroop (x0 : DieId) (x1 : BitVec 32) (s : State) : exec (.regulatorDroop x0 x1) s = execRegulatorDroop x0 x1 s := rfl
@[simp] theorem exec_devreset (x0 : BitVec 64) (s : State) : exec (.devreset x0) s = execDevreset x0 s := rfl
@[simp] theorem exec_columnWaysWrite (x0 : ColId) (x1 : BitVec 64) (s : State) : exec (.columnWaysWrite x0 x1) s = execColumnWaysWrite x0 x1 s := rfl
@[simp] theorem exec_pinwinWrite (x0 : CoreId) (x1 : BitVec 64) (s : State) : exec (.pinwinWrite x0 x1) s = execPinwinWrite x0 x1 s := rfl
@[simp] theorem exec_govForce (x0 : ColId) (x1 : BitVec 64) (s : State) : exec (.govForce x0 x1) s = execGovForce x0 x1 s := rfl
@[simp] theorem exec_logconsWrite (x0 : BitVec 64) (s : State) : exec (.logconsWrite x0) s = execLogconsWrite x0 s := rfl
@[simp] theorem exec_powerOn (s : State) : exec (.powerOn) s = execPowerOn s := rfl
@[simp] theorem exec_bootStep (x0 : BootOutcome) (s : State) : exec (.bootStep x0) s = execBootStep x0 s := rfl
@[simp] theorem exec_pcieReset (s : State) : exec (.pcieReset) s = execPcieReset s := rfl
@[simp] theorem exec_managementRequest (s : State) : exec (.managementRequest) s = execManagementRequest s := rfl
@[simp] theorem exec_dmcWatchdog (x0 : DieId) (s : State) : exec (.dmcWatchdog x0) s = execDmcWatchdog x0 s := rfl
@[simp] theorem exec_thermalTrip (x0 : DieId) (x1 : BitVec 8) (s : State) : exec (.thermalTrip x0 x1) s = execThermalTrip x0 x1 s := rfl
@[simp] theorem exec_regulatorFault (s : State) : exec (.regulatorFault) s = execRegulatorFault s := rfl
@[simp] theorem exec_ucieFlitRetry (x0 : PairId) (x1 : Fin 16) (s : State) : exec (.ucieFlitRetry x0 x1) s = execUcieFlitRetry x0 x1 s := rfl
@[simp] theorem exec_ucieLaneRepaired (x0 : PairId) (x1 : BitVec 16) (s : State) : exec (.ucieLaneRepaired x0 x1) s = execUcieLaneRepaired x0 x1 s := rfl
@[simp] theorem exec_ucieModuleDisabled (x0 : PairId) (x1 : Fin 16) (s : State) : exec (.ucieModuleDisabled x0 x1) s = execUcieModuleDisabled x0 x1 s := rfl
@[simp] theorem exec_dieLinkLost (x0 : PairId) (s : State) : exec (.dieLinkLost x0) s = execDieLinkLost x0 s := rfl
@[simp] theorem exec_ualinkPortTraining (x0 : PortId) (x1 : Bool) (x2 : PeerId) (s : State) : exec (.ualinkPortTraining x0 x1 x2) s = execUalinkPortTraining x0 x1 x2 s := rfl
@[simp] theorem exec_doubleRateOffer (x0 : PortId) (x1 : Bool) (s : State) : exec (.doubleRateOffer x0 x1) s = execDoubleRateOffer x0 x1 s := rfl
@[simp] theorem exec_peerReadRequest (x0 : PeerId) (x1 : BitVec 64) (x2 : Nat) (x3 : BitVec 8) (s : State) : exec (.peerReadRequest x0 x1 x2 x3) s = execPeerReadRequest x0 x1 x2 x3 s := rfl
@[simp] theorem exec_peerWriteRequest (x0 : PeerId) (x1 : BitVec 64) (x2 : MemRequest) (s : State) : exec (.peerWriteRequest x0 x1 x2) s = execPeerWriteRequest x0 x1 x2 s := rfl
@[simp] theorem exec_ptpUnlocked (x0 : BitVec 64) (s : State) : exec (.ptpUnlocked x0) s = execPtpUnlocked x0 s := rfl
@[simp] theorem exec_heartbeat (x0 : PeerId) (s : State) : exec (.heartbeat x0) s = execHeartbeat x0 s := rfl
@[simp] theorem exec_goWrite (x0 : BitVec 64) (s : State) : exec (.goWrite x0) s = execGoWrite x0 s := rfl
@[simp] theorem exec_backInvalidateResponse (x0 : Nat) (s : State) : exec (.backInvalidateResponse x0) s = execBackInvalidateResponse x0 s := rfl
@[simp] theorem exec_spdmGetMeasurements (x0 : Nat) (s : State) : exec (.spdmGetMeasurements x0) s = execSpdmGetMeasurements x0 s := rfl
@[simp] theorem exec_keySlotLoad (x0 : BitVec 7) (x1 : KeyMessage) (x2 x3 : BitVec 256) (s : State) : exec (.keySlotLoad x0 x1 x2 x3) s = execKeySlotLoad x0 x1 x2 x3 s := rfl
@[simp] theorem exec_pldmGetSensorReading (x0 : BitVec 16) (s : State) : exec (.pldmGetSensorReading x0) s = execPldmGetSensorReading x0 s := rfl
@[simp] theorem exec_platformEventRetry (x0 : Bool) (s : State) : exec (.platformEventRetry x0) s = execPlatformEventRetry x0 s := rfl
@[simp] theorem exec_cxlMemRequest (x0 : BitVec 64) (x1 : MemRequest) (x2 : Nat) (s : State) : exec (.cxlMemRequest x0 x1 x2) s = execCxlMemRequest x0 x1 x2 s := rfl
@[simp] theorem exec_hostCoreMemoryAccess (x0 : HostAgent) (x1 : BitVec 64) (x2 : MemRequest) (x3 : Nat) (s : State) : exec (.hostCoreMemoryAccess x0 x1 x2 x3) s = execHostCoreMemoryAccess x0 x1 x2 x3 s := rfl
@[simp] theorem exec_ualinkPortDown (x0 : PortId) (s : State) : exec (.ualinkPortDown x0) s = execUalinkPortDown x0 s := rfl
@[simp] theorem exec_ptpLockRegained (s : State) : exec (.ptpLockRegained) s = execPtpLockRegained s := rfl
@[simp] theorem exec_peerHeartbeat (x0 : PeerId) (s : State) : exec (.peerHeartbeat x0) s = execPeerHeartbeat x0 s := rfl
@[simp] theorem exec_vaultHot (x0 : ColId) (x1 : Fin 16) (x2 : BitVec 8) (s : State) : exec (.vaultHot x0 x1 x2) s = execVaultHot x0 x1 x2 s := rfl
@[simp] theorem exec_regulatorDroopCleared (x0 : DieId) (s : State) : exec (.regulatorDroopCleared x0) s = execRegulatorDroopCleared x0 s := rfl
@[simp] theorem exec_logMergeSummary (x0 x1 : BitVec 8) (x2 : BitVec 8) (s : State) : exec (.logMergeSummary x0 x1 x2) s = execLogMergeSummary x0 x1 x2 s := rfl
@[simp] theorem exec_tdispStateChange (x0 : TdispState) (s : State) : exec (.tdispStateChange x0) s = execTdispStateChange x0 s := rfl

end Sys2Proof.Machine
end

