-- ==== Sys2Proof/Laws/State.lean ====
section
/-! SUPPORT. What the updates of State and of Group leave alone, field by field, so that no later proof unfolds an update. -/
namespace Sys2Proof.Machine
-- One proof at a time: proofs elaborated side by side each take a thread and its stack.
set_option Elab.async false

/-! ### Updates of one field of State -/

@[simp] theorem State.retireWith_others (s : State) (g : Group) : (s.retireWith g).others = s.others := rfl
@[simp] theorem State.retireWith_teams (s : State) (g : Group) : (s.retireWith g).teams = s.teams := rfl
@[simp] theorem State.retireWith_grids (s : State) (g : Group) : (s.retireWith g).grids = s.grids := rfl
@[simp] theorem State.retireWith_cores (s : State) (g : Group) : (s.retireWith g).cores = s.cores := rfl
@[simp] theorem State.retireWith_cols (s : State) (g : Group) : (s.retireWith g).cols = s.cols := rfl
@[simp] theorem State.retireWith_ctxs (s : State) (g : Group) : (s.retireWith g).ctxs = s.ctxs := rfl
@[simp] theorem State.retireWith_jrns (s : State) (g : Group) : (s.retireWith g).jrns = s.jrns := rfl
@[simp] theorem State.retireWith_mem (s : State) (g : Group) : (s.retireWith g).mem = s.mem := rfl
@[simp] theorem State.retireWith_objs (s : State) (g : Group) : (s.retireWith g).objs = s.objs := rfl
@[simp] theorem State.retireWith_msgs (s : State) (g : Group) : (s.retireWith g).msgs = s.msgs := rfl
@[simp] theorem State.retireWith_ops (s : State) (g : Group) : (s.retireWith g).ops = s.ops := rfl
@[simp] theorem State.retireWith_dev (s : State) (g : Group) : (s.retireWith g).dev = s.dev := rfl
@[simp] theorem State.retireWith_log (s : State) (g : Group) : (s.retireWith g).log = s.log := rfl
@[simp] theorem State.retireWith_flash (s : State) (g : Group) : (s.retireWith g).flash = s.flash := rfl
@[simp] theorem State.retireWith_links (s : State) (g : Group) : (s.retireWith g).links = s.links := rfl
@[simp] theorem State.retireWith_keys (s : State) (g : Group) : (s.retireWith g).keys = s.keys := rfl
@[simp] theorem State.retireWith_savedBins (s : State) (g : Group) : (s.retireWith g).savedBins = s.savedBins := rfl
@[simp] theorem State.retireWith_images (s : State) (g : Group) : (s.retireWith g).images = s.images := rfl
@[simp] theorem State.retireWith_ptp (s : State) (g : Group) : (s.retireWith g).ptp = s.ptp := rfl
@[simp] theorem State.retireWith_msix (s : State) (g : Group) : (s.retireWith g).msix = s.msix := rfl
@[simp] theorem State.retireWith_answer (s : State) (g : Group) : (s.retireWith g).answer = s.answer := rfl
@[simp] theorem State.retireWith_turns (s : State) (g : Group) : (s.retireWith g).turns = s.turns := rfl
@[simp] theorem State.retireWith_tick (s : State) (g : Group) : (s.retireWith g).tick = s.tick := rfl
@[simp] theorem State.retireWith_fresh (s : State) (g : Group) : (s.retireWith g).fresh = s.fresh := rfl

@[simp] theorem State.retire_others (s : State) : (s.retire).others = s.others := rfl
@[simp] theorem State.retire_teams (s : State) : (s.retire).teams = s.teams := rfl
@[simp] theorem State.retire_grids (s : State) : (s.retire).grids = s.grids := rfl
@[simp] theorem State.retire_cores (s : State) : (s.retire).cores = s.cores := rfl
@[simp] theorem State.retire_cols (s : State) : (s.retire).cols = s.cols := rfl
@[simp] theorem State.retire_ctxs (s : State) : (s.retire).ctxs = s.ctxs := rfl
@[simp] theorem State.retire_jrns (s : State) : (s.retire).jrns = s.jrns := rfl
@[simp] theorem State.retire_mem (s : State) : (s.retire).mem = s.mem := rfl
@[simp] theorem State.retire_objs (s : State) : (s.retire).objs = s.objs := rfl
@[simp] theorem State.retire_msgs (s : State) : (s.retire).msgs = s.msgs := rfl
@[simp] theorem State.retire_ops (s : State) : (s.retire).ops = s.ops := rfl
@[simp] theorem State.retire_dev (s : State) : (s.retire).dev = s.dev := rfl
@[simp] theorem State.retire_log (s : State) : (s.retire).log = s.log := rfl
@[simp] theorem State.retire_flash (s : State) : (s.retire).flash = s.flash := rfl
@[simp] theorem State.retire_links (s : State) : (s.retire).links = s.links := rfl
@[simp] theorem State.retire_keys (s : State) : (s.retire).keys = s.keys := rfl
@[simp] theorem State.retire_savedBins (s : State) : (s.retire).savedBins = s.savedBins := rfl
@[simp] theorem State.retire_images (s : State) : (s.retire).images = s.images := rfl
@[simp] theorem State.retire_ptp (s : State) : (s.retire).ptp = s.ptp := rfl
@[simp] theorem State.retire_msix (s : State) : (s.retire).msix = s.msix := rfl
@[simp] theorem State.retire_answer (s : State) : (s.retire).answer = s.answer := rfl
@[simp] theorem State.retire_turns (s : State) : (s.retire).turns = s.turns := rfl
@[simp] theorem State.retire_tick (s : State) : (s.retire).tick = s.tick := rfl
@[simp] theorem State.retire_fresh (s : State) : (s.retire).fresh = s.fresh := rfl

@[simp] theorem State.jump_others (s : State) (a : Word) : (s.jump a).others = s.others := rfl
@[simp] theorem State.jump_teams (s : State) (a : Word) : (s.jump a).teams = s.teams := rfl
@[simp] theorem State.jump_grids (s : State) (a : Word) : (s.jump a).grids = s.grids := rfl
@[simp] theorem State.jump_cores (s : State) (a : Word) : (s.jump a).cores = s.cores := rfl
@[simp] theorem State.jump_cols (s : State) (a : Word) : (s.jump a).cols = s.cols := rfl
@[simp] theorem State.jump_ctxs (s : State) (a : Word) : (s.jump a).ctxs = s.ctxs := rfl
@[simp] theorem State.jump_jrns (s : State) (a : Word) : (s.jump a).jrns = s.jrns := rfl
@[simp] theorem State.jump_mem (s : State) (a : Word) : (s.jump a).mem = s.mem := rfl
@[simp] theorem State.jump_objs (s : State) (a : Word) : (s.jump a).objs = s.objs := rfl
@[simp] theorem State.jump_msgs (s : State) (a : Word) : (s.jump a).msgs = s.msgs := rfl
@[simp] theorem State.jump_ops (s : State) (a : Word) : (s.jump a).ops = s.ops := rfl
@[simp] theorem State.jump_dev (s : State) (a : Word) : (s.jump a).dev = s.dev := rfl
@[simp] theorem State.jump_log (s : State) (a : Word) : (s.jump a).log = s.log := rfl
@[simp] theorem State.jump_flash (s : State) (a : Word) : (s.jump a).flash = s.flash := rfl
@[simp] theorem State.jump_links (s : State) (a : Word) : (s.jump a).links = s.links := rfl
@[simp] theorem State.jump_keys (s : State) (a : Word) : (s.jump a).keys = s.keys := rfl
@[simp] theorem State.jump_savedBins (s : State) (a : Word) : (s.jump a).savedBins = s.savedBins := rfl
@[simp] theorem State.jump_images (s : State) (a : Word) : (s.jump a).images = s.images := rfl
@[simp] theorem State.jump_ptp (s : State) (a : Word) : (s.jump a).ptp = s.ptp := rfl
@[simp] theorem State.jump_msix (s : State) (a : Word) : (s.jump a).msix = s.msix := rfl
@[simp] theorem State.jump_answer (s : State) (a : Word) : (s.jump a).answer = s.answer := rfl
@[simp] theorem State.jump_turns (s : State) (a : Word) : (s.jump a).turns = s.turns := rfl
@[simp] theorem State.jump_tick (s : State) (a : Word) : (s.jump a).tick = s.tick := rfl
@[simp] theorem State.jump_fresh (s : State) (a : Word) : (s.jump a).fresh = s.fresh := rfl

@[simp] theorem State.stallHere_others (s : State) : (s.stallHere).others = s.others := rfl
@[simp] theorem State.stallHere_teams (s : State) : (s.stallHere).teams = s.teams := rfl
@[simp] theorem State.stallHere_grids (s : State) : (s.stallHere).grids = s.grids := rfl
@[simp] theorem State.stallHere_cores (s : State) : (s.stallHere).cores = s.cores := rfl
@[simp] theorem State.stallHere_cols (s : State) : (s.stallHere).cols = s.cols := rfl
@[simp] theorem State.stallHere_ctxs (s : State) : (s.stallHere).ctxs = s.ctxs := rfl
@[simp] theorem State.stallHere_jrns (s : State) : (s.stallHere).jrns = s.jrns := rfl
@[simp] theorem State.stallHere_mem (s : State) : (s.stallHere).mem = s.mem := rfl
@[simp] theorem State.stallHere_objs (s : State) : (s.stallHere).objs = s.objs := rfl
@[simp] theorem State.stallHere_msgs (s : State) : (s.stallHere).msgs = s.msgs := rfl
@[simp] theorem State.stallHere_ops (s : State) : (s.stallHere).ops = s.ops := rfl
@[simp] theorem State.stallHere_dev (s : State) : (s.stallHere).dev = s.dev := rfl
@[simp] theorem State.stallHere_log (s : State) : (s.stallHere).log = s.log := rfl
@[simp] theorem State.stallHere_flash (s : State) : (s.stallHere).flash = s.flash := rfl
@[simp] theorem State.stallHere_links (s : State) : (s.stallHere).links = s.links := rfl
@[simp] theorem State.stallHere_keys (s : State) : (s.stallHere).keys = s.keys := rfl
@[simp] theorem State.stallHere_savedBins (s : State) : (s.stallHere).savedBins = s.savedBins := rfl
@[simp] theorem State.stallHere_images (s : State) : (s.stallHere).images = s.images := rfl
@[simp] theorem State.stallHere_ptp (s : State) : (s.stallHere).ptp = s.ptp := rfl
@[simp] theorem State.stallHere_msix (s : State) : (s.stallHere).msix = s.msix := rfl
@[simp] theorem State.stallHere_answer (s : State) : (s.stallHere).answer = s.answer := rfl
@[simp] theorem State.stallHere_turns (s : State) : (s.stallHere).turns = s.turns := rfl
@[simp] theorem State.stallHere_tick (s : State) : (s.stallHere).tick = s.tick := rfl
@[simp] theorem State.stallHere_fresh (s : State) : (s.stallHere).fresh = s.fresh := rfl

@[simp] theorem State.modTeam_g (s : State) (id : Nat) (f : Team → Team) : (s.modTeam id f).g = s.g := rfl
@[simp] theorem State.modTeam_others (s : State) (id : Nat) (f : Team → Team) : (s.modTeam id f).others = s.others := rfl
@[simp] theorem State.modTeam_grids (s : State) (id : Nat) (f : Team → Team) : (s.modTeam id f).grids = s.grids := rfl
@[simp] theorem State.modTeam_cores (s : State) (id : Nat) (f : Team → Team) : (s.modTeam id f).cores = s.cores := rfl
@[simp] theorem State.modTeam_cols (s : State) (id : Nat) (f : Team → Team) : (s.modTeam id f).cols = s.cols := rfl
@[simp] theorem State.modTeam_ctxs (s : State) (id : Nat) (f : Team → Team) : (s.modTeam id f).ctxs = s.ctxs := rfl
@[simp] theorem State.modTeam_jrns (s : State) (id : Nat) (f : Team → Team) : (s.modTeam id f).jrns = s.jrns := rfl
@[simp] theorem State.modTeam_mem (s : State) (id : Nat) (f : Team → Team) : (s.modTeam id f).mem = s.mem := rfl
@[simp] theorem State.modTeam_objs (s : State) (id : Nat) (f : Team → Team) : (s.modTeam id f).objs = s.objs := rfl
@[simp] theorem State.modTeam_msgs (s : State) (id : Nat) (f : Team → Team) : (s.modTeam id f).msgs = s.msgs := rfl
@[simp] theorem State.modTeam_ops (s : State) (id : Nat) (f : Team → Team) : (s.modTeam id f).ops = s.ops := rfl
@[simp] theorem State.modTeam_dev (s : State) (id : Nat) (f : Team → Team) : (s.modTeam id f).dev = s.dev := rfl
@[simp] theorem State.modTeam_log (s : State) (id : Nat) (f : Team → Team) : (s.modTeam id f).log = s.log := rfl
@[simp] theorem State.modTeam_flash (s : State) (id : Nat) (f : Team → Team) : (s.modTeam id f).flash = s.flash := rfl
@[simp] theorem State.modTeam_links (s : State) (id : Nat) (f : Team → Team) : (s.modTeam id f).links = s.links := rfl
@[simp] theorem State.modTeam_keys (s : State) (id : Nat) (f : Team → Team) : (s.modTeam id f).keys = s.keys := rfl
@[simp] theorem State.modTeam_savedBins (s : State) (id : Nat) (f : Team → Team) : (s.modTeam id f).savedBins = s.savedBins := rfl
@[simp] theorem State.modTeam_images (s : State) (id : Nat) (f : Team → Team) : (s.modTeam id f).images = s.images := rfl
@[simp] theorem State.modTeam_ptp (s : State) (id : Nat) (f : Team → Team) : (s.modTeam id f).ptp = s.ptp := rfl
@[simp] theorem State.modTeam_msix (s : State) (id : Nat) (f : Team → Team) : (s.modTeam id f).msix = s.msix := rfl
@[simp] theorem State.modTeam_answer (s : State) (id : Nat) (f : Team → Team) : (s.modTeam id f).answer = s.answer := rfl
@[simp] theorem State.modTeam_turns (s : State) (id : Nat) (f : Team → Team) : (s.modTeam id f).turns = s.turns := rfl
@[simp] theorem State.modTeam_tick (s : State) (id : Nat) (f : Team → Team) : (s.modTeam id f).tick = s.tick := rfl
@[simp] theorem State.modTeam_fresh (s : State) (id : Nat) (f : Team → Team) : (s.modTeam id f).fresh = s.fresh := rfl

@[simp] theorem State.modGrid_g (s : State) (id : Nat) (f : Grid → Grid) : (s.modGrid id f).g = s.g := rfl
@[simp] theorem State.modGrid_others (s : State) (id : Nat) (f : Grid → Grid) : (s.modGrid id f).others = s.others := rfl
@[simp] theorem State.modGrid_teams (s : State) (id : Nat) (f : Grid → Grid) : (s.modGrid id f).teams = s.teams := rfl
@[simp] theorem State.modGrid_cores (s : State) (id : Nat) (f : Grid → Grid) : (s.modGrid id f).cores = s.cores := rfl
@[simp] theorem State.modGrid_cols (s : State) (id : Nat) (f : Grid → Grid) : (s.modGrid id f).cols = s.cols := rfl
@[simp] theorem State.modGrid_ctxs (s : State) (id : Nat) (f : Grid → Grid) : (s.modGrid id f).ctxs = s.ctxs := rfl
@[simp] theorem State.modGrid_jrns (s : State) (id : Nat) (f : Grid → Grid) : (s.modGrid id f).jrns = s.jrns := rfl
@[simp] theorem State.modGrid_mem (s : State) (id : Nat) (f : Grid → Grid) : (s.modGrid id f).mem = s.mem := rfl
@[simp] theorem State.modGrid_objs (s : State) (id : Nat) (f : Grid → Grid) : (s.modGrid id f).objs = s.objs := rfl
@[simp] theorem State.modGrid_msgs (s : State) (id : Nat) (f : Grid → Grid) : (s.modGrid id f).msgs = s.msgs := rfl
@[simp] theorem State.modGrid_ops (s : State) (id : Nat) (f : Grid → Grid) : (s.modGrid id f).ops = s.ops := rfl
@[simp] theorem State.modGrid_dev (s : State) (id : Nat) (f : Grid → Grid) : (s.modGrid id f).dev = s.dev := rfl
@[simp] theorem State.modGrid_log (s : State) (id : Nat) (f : Grid → Grid) : (s.modGrid id f).log = s.log := rfl
@[simp] theorem State.modGrid_flash (s : State) (id : Nat) (f : Grid → Grid) : (s.modGrid id f).flash = s.flash := rfl
@[simp] theorem State.modGrid_links (s : State) (id : Nat) (f : Grid → Grid) : (s.modGrid id f).links = s.links := rfl
@[simp] theorem State.modGrid_keys (s : State) (id : Nat) (f : Grid → Grid) : (s.modGrid id f).keys = s.keys := rfl
@[simp] theorem State.modGrid_savedBins (s : State) (id : Nat) (f : Grid → Grid) : (s.modGrid id f).savedBins = s.savedBins := rfl
@[simp] theorem State.modGrid_images (s : State) (id : Nat) (f : Grid → Grid) : (s.modGrid id f).images = s.images := rfl
@[simp] theorem State.modGrid_ptp (s : State) (id : Nat) (f : Grid → Grid) : (s.modGrid id f).ptp = s.ptp := rfl
@[simp] theorem State.modGrid_msix (s : State) (id : Nat) (f : Grid → Grid) : (s.modGrid id f).msix = s.msix := rfl
@[simp] theorem State.modGrid_answer (s : State) (id : Nat) (f : Grid → Grid) : (s.modGrid id f).answer = s.answer := rfl
@[simp] theorem State.modGrid_turns (s : State) (id : Nat) (f : Grid → Grid) : (s.modGrid id f).turns = s.turns := rfl
@[simp] theorem State.modGrid_tick (s : State) (id : Nat) (f : Grid → Grid) : (s.modGrid id f).tick = s.tick := rfl
@[simp] theorem State.modGrid_fresh (s : State) (id : Nat) (f : Grid → Grid) : (s.modGrid id f).fresh = s.fresh := rfl

@[simp] theorem State.modCore_g (s : State) (c : CoreId) (f : CoreState → CoreState) : (s.modCore c f).g = s.g := rfl
@[simp] theorem State.modCore_others (s : State) (c : CoreId) (f : CoreState → CoreState) : (s.modCore c f).others = s.others := rfl
@[simp] theorem State.modCore_teams (s : State) (c : CoreId) (f : CoreState → CoreState) : (s.modCore c f).teams = s.teams := rfl
@[simp] theorem State.modCore_grids (s : State) (c : CoreId) (f : CoreState → CoreState) : (s.modCore c f).grids = s.grids := rfl
@[simp] theorem State.modCore_cols (s : State) (c : CoreId) (f : CoreState → CoreState) : (s.modCore c f).cols = s.cols := rfl
@[simp] theorem State.modCore_ctxs (s : State) (c : CoreId) (f : CoreState → CoreState) : (s.modCore c f).ctxs = s.ctxs := rfl
@[simp] theorem State.modCore_jrns (s : State) (c : CoreId) (f : CoreState → CoreState) : (s.modCore c f).jrns = s.jrns := rfl
@[simp] theorem State.modCore_mem (s : State) (c : CoreId) (f : CoreState → CoreState) : (s.modCore c f).mem = s.mem := rfl
@[simp] theorem State.modCore_objs (s : State) (c : CoreId) (f : CoreState → CoreState) : (s.modCore c f).objs = s.objs := rfl
@[simp] theorem State.modCore_msgs (s : State) (c : CoreId) (f : CoreState → CoreState) : (s.modCore c f).msgs = s.msgs := rfl
@[simp] theorem State.modCore_ops (s : State) (c : CoreId) (f : CoreState → CoreState) : (s.modCore c f).ops = s.ops := rfl
@[simp] theorem State.modCore_dev (s : State) (c : CoreId) (f : CoreState → CoreState) : (s.modCore c f).dev = s.dev := rfl
@[simp] theorem State.modCore_log (s : State) (c : CoreId) (f : CoreState → CoreState) : (s.modCore c f).log = s.log := rfl
@[simp] theorem State.modCore_flash (s : State) (c : CoreId) (f : CoreState → CoreState) : (s.modCore c f).flash = s.flash := rfl
@[simp] theorem State.modCore_links (s : State) (c : CoreId) (f : CoreState → CoreState) : (s.modCore c f).links = s.links := rfl
@[simp] theorem State.modCore_keys (s : State) (c : CoreId) (f : CoreState → CoreState) : (s.modCore c f).keys = s.keys := rfl
@[simp] theorem State.modCore_savedBins (s : State) (c : CoreId) (f : CoreState → CoreState) : (s.modCore c f).savedBins = s.savedBins := rfl
@[simp] theorem State.modCore_images (s : State) (c : CoreId) (f : CoreState → CoreState) : (s.modCore c f).images = s.images := rfl
@[simp] theorem State.modCore_ptp (s : State) (c : CoreId) (f : CoreState → CoreState) : (s.modCore c f).ptp = s.ptp := rfl
@[simp] theorem State.modCore_msix (s : State) (c : CoreId) (f : CoreState → CoreState) : (s.modCore c f).msix = s.msix := rfl
@[simp] theorem State.modCore_answer (s : State) (c : CoreId) (f : CoreState → CoreState) : (s.modCore c f).answer = s.answer := rfl
@[simp] theorem State.modCore_turns (s : State) (c : CoreId) (f : CoreState → CoreState) : (s.modCore c f).turns = s.turns := rfl
@[simp] theorem State.modCore_tick (s : State) (c : CoreId) (f : CoreState → CoreState) : (s.modCore c f).tick = s.tick := rfl
@[simp] theorem State.modCore_fresh (s : State) (c : CoreId) (f : CoreState → CoreState) : (s.modCore c f).fresh = s.fresh := rfl

@[simp] theorem State.modCol_g (s : State) (c : ColId) (f : ColState → ColState) : (s.modCol c f).g = s.g := rfl
@[simp] theorem State.modCol_others (s : State) (c : ColId) (f : ColState → ColState) : (s.modCol c f).others = s.others := rfl
@[simp] theorem State.modCol_teams (s : State) (c : ColId) (f : ColState → ColState) : (s.modCol c f).teams = s.teams := rfl
@[simp] theorem State.modCol_grids (s : State) (c : ColId) (f : ColState → ColState) : (s.modCol c f).grids = s.grids := rfl
@[simp] theorem State.modCol_cores (s : State) (c : ColId) (f : ColState → ColState) : (s.modCol c f).cores = s.cores := rfl
@[simp] theorem State.modCol_ctxs (s : State) (c : ColId) (f : ColState → ColState) : (s.modCol c f).ctxs = s.ctxs := rfl
@[simp] theorem State.modCol_jrns (s : State) (c : ColId) (f : ColState → ColState) : (s.modCol c f).jrns = s.jrns := rfl
@[simp] theorem State.modCol_mem (s : State) (c : ColId) (f : ColState → ColState) : (s.modCol c f).mem = s.mem := rfl
@[simp] theorem State.modCol_objs (s : State) (c : ColId) (f : ColState → ColState) : (s.modCol c f).objs = s.objs := rfl
@[simp] theorem State.modCol_msgs (s : State) (c : ColId) (f : ColState → ColState) : (s.modCol c f).msgs = s.msgs := rfl
@[simp] theorem State.modCol_ops (s : State) (c : ColId) (f : ColState → ColState) : (s.modCol c f).ops = s.ops := rfl
@[simp] theorem State.modCol_dev (s : State) (c : ColId) (f : ColState → ColState) : (s.modCol c f).dev = s.dev := rfl
@[simp] theorem State.modCol_log (s : State) (c : ColId) (f : ColState → ColState) : (s.modCol c f).log = s.log := rfl
@[simp] theorem State.modCol_flash (s : State) (c : ColId) (f : ColState → ColState) : (s.modCol c f).flash = s.flash := rfl
@[simp] theorem State.modCol_links (s : State) (c : ColId) (f : ColState → ColState) : (s.modCol c f).links = s.links := rfl
@[simp] theorem State.modCol_keys (s : State) (c : ColId) (f : ColState → ColState) : (s.modCol c f).keys = s.keys := rfl
@[simp] theorem State.modCol_savedBins (s : State) (c : ColId) (f : ColState → ColState) : (s.modCol c f).savedBins = s.savedBins := rfl
@[simp] theorem State.modCol_images (s : State) (c : ColId) (f : ColState → ColState) : (s.modCol c f).images = s.images := rfl
@[simp] theorem State.modCol_ptp (s : State) (c : ColId) (f : ColState → ColState) : (s.modCol c f).ptp = s.ptp := rfl
@[simp] theorem State.modCol_msix (s : State) (c : ColId) (f : ColState → ColState) : (s.modCol c f).msix = s.msix := rfl
@[simp] theorem State.modCol_answer (s : State) (c : ColId) (f : ColState → ColState) : (s.modCol c f).answer = s.answer := rfl
@[simp] theorem State.modCol_turns (s : State) (c : ColId) (f : ColState → ColState) : (s.modCol c f).turns = s.turns := rfl
@[simp] theorem State.modCol_tick (s : State) (c : ColId) (f : ColState → ColState) : (s.modCol c f).tick = s.tick := rfl
@[simp] theorem State.modCol_fresh (s : State) (c : ColId) (f : ColState → ColState) : (s.modCol c f).fresh = s.fresh := rfl

@[simp] theorem State.modCtx_g (s : State) (c : CtxId) (f : Ctx → Ctx) : (s.modCtx c f).g = s.g := rfl
@[simp] theorem State.modCtx_others (s : State) (c : CtxId) (f : Ctx → Ctx) : (s.modCtx c f).others = s.others := rfl
@[simp] theorem State.modCtx_teams (s : State) (c : CtxId) (f : Ctx → Ctx) : (s.modCtx c f).teams = s.teams := rfl
@[simp] theorem State.modCtx_grids (s : State) (c : CtxId) (f : Ctx → Ctx) : (s.modCtx c f).grids = s.grids := rfl
@[simp] theorem State.modCtx_cores (s : State) (c : CtxId) (f : Ctx → Ctx) : (s.modCtx c f).cores = s.cores := rfl
@[simp] theorem State.modCtx_cols (s : State) (c : CtxId) (f : Ctx → Ctx) : (s.modCtx c f).cols = s.cols := rfl
@[simp] theorem State.modCtx_jrns (s : State) (c : CtxId) (f : Ctx → Ctx) : (s.modCtx c f).jrns = s.jrns := rfl
@[simp] theorem State.modCtx_mem (s : State) (c : CtxId) (f : Ctx → Ctx) : (s.modCtx c f).mem = s.mem := rfl
@[simp] theorem State.modCtx_objs (s : State) (c : CtxId) (f : Ctx → Ctx) : (s.modCtx c f).objs = s.objs := rfl
@[simp] theorem State.modCtx_msgs (s : State) (c : CtxId) (f : Ctx → Ctx) : (s.modCtx c f).msgs = s.msgs := rfl
@[simp] theorem State.modCtx_ops (s : State) (c : CtxId) (f : Ctx → Ctx) : (s.modCtx c f).ops = s.ops := rfl
@[simp] theorem State.modCtx_dev (s : State) (c : CtxId) (f : Ctx → Ctx) : (s.modCtx c f).dev = s.dev := rfl
@[simp] theorem State.modCtx_log (s : State) (c : CtxId) (f : Ctx → Ctx) : (s.modCtx c f).log = s.log := rfl
@[simp] theorem State.modCtx_flash (s : State) (c : CtxId) (f : Ctx → Ctx) : (s.modCtx c f).flash = s.flash := rfl
@[simp] theorem State.modCtx_links (s : State) (c : CtxId) (f : Ctx → Ctx) : (s.modCtx c f).links = s.links := rfl
@[simp] theorem State.modCtx_keys (s : State) (c : CtxId) (f : Ctx → Ctx) : (s.modCtx c f).keys = s.keys := rfl
@[simp] theorem State.modCtx_savedBins (s : State) (c : CtxId) (f : Ctx → Ctx) : (s.modCtx c f).savedBins = s.savedBins := rfl
@[simp] theorem State.modCtx_images (s : State) (c : CtxId) (f : Ctx → Ctx) : (s.modCtx c f).images = s.images := rfl
@[simp] theorem State.modCtx_ptp (s : State) (c : CtxId) (f : Ctx → Ctx) : (s.modCtx c f).ptp = s.ptp := rfl
@[simp] theorem State.modCtx_msix (s : State) (c : CtxId) (f : Ctx → Ctx) : (s.modCtx c f).msix = s.msix := rfl
@[simp] theorem State.modCtx_answer (s : State) (c : CtxId) (f : Ctx → Ctx) : (s.modCtx c f).answer = s.answer := rfl
@[simp] theorem State.modCtx_turns (s : State) (c : CtxId) (f : Ctx → Ctx) : (s.modCtx c f).turns = s.turns := rfl
@[simp] theorem State.modCtx_tick (s : State) (c : CtxId) (f : Ctx → Ctx) : (s.modCtx c f).tick = s.tick := rfl
@[simp] theorem State.modCtx_fresh (s : State) (c : CtxId) (f : Ctx → Ctx) : (s.modCtx c f).fresh = s.fresh := rfl

@[simp] theorem State.modJrn_g (s : State) (j : JournalId) (f : Journal → Journal) : (s.modJrn j f).g = s.g := rfl
@[simp] theorem State.modJrn_others (s : State) (j : JournalId) (f : Journal → Journal) : (s.modJrn j f).others = s.others := rfl
@[simp] theorem State.modJrn_teams (s : State) (j : JournalId) (f : Journal → Journal) : (s.modJrn j f).teams = s.teams := rfl
@[simp] theorem State.modJrn_grids (s : State) (j : JournalId) (f : Journal → Journal) : (s.modJrn j f).grids = s.grids := rfl
@[simp] theorem State.modJrn_cores (s : State) (j : JournalId) (f : Journal → Journal) : (s.modJrn j f).cores = s.cores := rfl
@[simp] theorem State.modJrn_cols (s : State) (j : JournalId) (f : Journal → Journal) : (s.modJrn j f).cols = s.cols := rfl
@[simp] theorem State.modJrn_ctxs (s : State) (j : JournalId) (f : Journal → Journal) : (s.modJrn j f).ctxs = s.ctxs := rfl
@[simp] theorem State.modJrn_mem (s : State) (j : JournalId) (f : Journal → Journal) : (s.modJrn j f).mem = s.mem := rfl
@[simp] theorem State.modJrn_objs (s : State) (j : JournalId) (f : Journal → Journal) : (s.modJrn j f).objs = s.objs := rfl
@[simp] theorem State.modJrn_msgs (s : State) (j : JournalId) (f : Journal → Journal) : (s.modJrn j f).msgs = s.msgs := rfl
@[simp] theorem State.modJrn_ops (s : State) (j : JournalId) (f : Journal → Journal) : (s.modJrn j f).ops = s.ops := rfl
@[simp] theorem State.modJrn_dev (s : State) (j : JournalId) (f : Journal → Journal) : (s.modJrn j f).dev = s.dev := rfl
@[simp] theorem State.modJrn_log (s : State) (j : JournalId) (f : Journal → Journal) : (s.modJrn j f).log = s.log := rfl
@[simp] theorem State.modJrn_flash (s : State) (j : JournalId) (f : Journal → Journal) : (s.modJrn j f).flash = s.flash := rfl
@[simp] theorem State.modJrn_links (s : State) (j : JournalId) (f : Journal → Journal) : (s.modJrn j f).links = s.links := rfl
@[simp] theorem State.modJrn_keys (s : State) (j : JournalId) (f : Journal → Journal) : (s.modJrn j f).keys = s.keys := rfl
@[simp] theorem State.modJrn_savedBins (s : State) (j : JournalId) (f : Journal → Journal) : (s.modJrn j f).savedBins = s.savedBins := rfl
@[simp] theorem State.modJrn_images (s : State) (j : JournalId) (f : Journal → Journal) : (s.modJrn j f).images = s.images := rfl
@[simp] theorem State.modJrn_ptp (s : State) (j : JournalId) (f : Journal → Journal) : (s.modJrn j f).ptp = s.ptp := rfl
@[simp] theorem State.modJrn_msix (s : State) (j : JournalId) (f : Journal → Journal) : (s.modJrn j f).msix = s.msix := rfl
@[simp] theorem State.modJrn_answer (s : State) (j : JournalId) (f : Journal → Journal) : (s.modJrn j f).answer = s.answer := rfl
@[simp] theorem State.modJrn_turns (s : State) (j : JournalId) (f : Journal → Journal) : (s.modJrn j f).turns = s.turns := rfl
@[simp] theorem State.modJrn_tick (s : State) (j : JournalId) (f : Journal → Journal) : (s.modJrn j f).tick = s.tick := rfl
@[simp] theorem State.modJrn_fresh (s : State) (j : JournalId) (f : Journal → Journal) : (s.modJrn j f).fresh = s.fresh := rfl

@[simp] theorem State.modObj_g (s : State) (obj : Nat) (f : AlObject → AlObject) : (s.modObj obj f).g = s.g := rfl
@[simp] theorem State.modObj_others (s : State) (obj : Nat) (f : AlObject → AlObject) : (s.modObj obj f).others = s.others := rfl
@[simp] theorem State.modObj_teams (s : State) (obj : Nat) (f : AlObject → AlObject) : (s.modObj obj f).teams = s.teams := rfl
@[simp] theorem State.modObj_grids (s : State) (obj : Nat) (f : AlObject → AlObject) : (s.modObj obj f).grids = s.grids := rfl
@[simp] theorem State.modObj_cores (s : State) (obj : Nat) (f : AlObject → AlObject) : (s.modObj obj f).cores = s.cores := rfl
@[simp] theorem State.modObj_cols (s : State) (obj : Nat) (f : AlObject → AlObject) : (s.modObj obj f).cols = s.cols := rfl
@[simp] theorem State.modObj_ctxs (s : State) (obj : Nat) (f : AlObject → AlObject) : (s.modObj obj f).ctxs = s.ctxs := rfl
@[simp] theorem State.modObj_jrns (s : State) (obj : Nat) (f : AlObject → AlObject) : (s.modObj obj f).jrns = s.jrns := rfl
@[simp] theorem State.modObj_mem (s : State) (obj : Nat) (f : AlObject → AlObject) : (s.modObj obj f).mem = s.mem := rfl
@[simp] theorem State.modObj_msgs (s : State) (obj : Nat) (f : AlObject → AlObject) : (s.modObj obj f).msgs = s.msgs := rfl
@[simp] theorem State.modObj_ops (s : State) (obj : Nat) (f : AlObject → AlObject) : (s.modObj obj f).ops = s.ops := rfl
@[simp] theorem State.modObj_dev (s : State) (obj : Nat) (f : AlObject → AlObject) : (s.modObj obj f).dev = s.dev := rfl
@[simp] theorem State.modObj_log (s : State) (obj : Nat) (f : AlObject → AlObject) : (s.modObj obj f).log = s.log := rfl
@[simp] theorem State.modObj_flash (s : State) (obj : Nat) (f : AlObject → AlObject) : (s.modObj obj f).flash = s.flash := rfl
@[simp] theorem State.modObj_links (s : State) (obj : Nat) (f : AlObject → AlObject) : (s.modObj obj f).links = s.links := rfl
@[simp] theorem State.modObj_keys (s : State) (obj : Nat) (f : AlObject → AlObject) : (s.modObj obj f).keys = s.keys := rfl
@[simp] theorem State.modObj_savedBins (s : State) (obj : Nat) (f : AlObject → AlObject) : (s.modObj obj f).savedBins = s.savedBins := rfl
@[simp] theorem State.modObj_images (s : State) (obj : Nat) (f : AlObject → AlObject) : (s.modObj obj f).images = s.images := rfl
@[simp] theorem State.modObj_ptp (s : State) (obj : Nat) (f : AlObject → AlObject) : (s.modObj obj f).ptp = s.ptp := rfl
@[simp] theorem State.modObj_msix (s : State) (obj : Nat) (f : AlObject → AlObject) : (s.modObj obj f).msix = s.msix := rfl
@[simp] theorem State.modObj_answer (s : State) (obj : Nat) (f : AlObject → AlObject) : (s.modObj obj f).answer = s.answer := rfl
@[simp] theorem State.modObj_turns (s : State) (obj : Nat) (f : AlObject → AlObject) : (s.modObj obj f).turns = s.turns := rfl
@[simp] theorem State.modObj_tick (s : State) (obj : Nat) (f : AlObject → AlObject) : (s.modObj obj f).tick = s.tick := rfl
@[simp] theorem State.modObj_fresh (s : State) (obj : Nat) (f : AlObject → AlObject) : (s.modObj obj f).fresh = s.fresh := rfl

@[simp] theorem State.modGroup_teams (s : State) (core : CoreId) (slot : SlotId) (f : Group → Group) : (s.modGroup core slot f).teams = s.teams := rfl
@[simp] theorem State.modGroup_grids (s : State) (core : CoreId) (slot : SlotId) (f : Group → Group) : (s.modGroup core slot f).grids = s.grids := rfl
@[simp] theorem State.modGroup_cores (s : State) (core : CoreId) (slot : SlotId) (f : Group → Group) : (s.modGroup core slot f).cores = s.cores := rfl
@[simp] theorem State.modGroup_cols (s : State) (core : CoreId) (slot : SlotId) (f : Group → Group) : (s.modGroup core slot f).cols = s.cols := rfl
@[simp] theorem State.modGroup_ctxs (s : State) (core : CoreId) (slot : SlotId) (f : Group → Group) : (s.modGroup core slot f).ctxs = s.ctxs := rfl
@[simp] theorem State.modGroup_jrns (s : State) (core : CoreId) (slot : SlotId) (f : Group → Group) : (s.modGroup core slot f).jrns = s.jrns := rfl
@[simp] theorem State.modGroup_mem (s : State) (core : CoreId) (slot : SlotId) (f : Group → Group) : (s.modGroup core slot f).mem = s.mem := rfl
@[simp] theorem State.modGroup_objs (s : State) (core : CoreId) (slot : SlotId) (f : Group → Group) : (s.modGroup core slot f).objs = s.objs := rfl
@[simp] theorem State.modGroup_msgs (s : State) (core : CoreId) (slot : SlotId) (f : Group → Group) : (s.modGroup core slot f).msgs = s.msgs := rfl
@[simp] theorem State.modGroup_ops (s : State) (core : CoreId) (slot : SlotId) (f : Group → Group) : (s.modGroup core slot f).ops = s.ops := rfl
@[simp] theorem State.modGroup_dev (s : State) (core : CoreId) (slot : SlotId) (f : Group → Group) : (s.modGroup core slot f).dev = s.dev := rfl
@[simp] theorem State.modGroup_log (s : State) (core : CoreId) (slot : SlotId) (f : Group → Group) : (s.modGroup core slot f).log = s.log := rfl
@[simp] theorem State.modGroup_flash (s : State) (core : CoreId) (slot : SlotId) (f : Group → Group) : (s.modGroup core slot f).flash = s.flash := rfl
@[simp] theorem State.modGroup_links (s : State) (core : CoreId) (slot : SlotId) (f : Group → Group) : (s.modGroup core slot f).links = s.links := rfl
@[simp] theorem State.modGroup_keys (s : State) (core : CoreId) (slot : SlotId) (f : Group → Group) : (s.modGroup core slot f).keys = s.keys := rfl
@[simp] theorem State.modGroup_savedBins (s : State) (core : CoreId) (slot : SlotId) (f : Group → Group) : (s.modGroup core slot f).savedBins = s.savedBins := rfl
@[simp] theorem State.modGroup_images (s : State) (core : CoreId) (slot : SlotId) (f : Group → Group) : (s.modGroup core slot f).images = s.images := rfl
@[simp] theorem State.modGroup_ptp (s : State) (core : CoreId) (slot : SlotId) (f : Group → Group) : (s.modGroup core slot f).ptp = s.ptp := rfl
@[simp] theorem State.modGroup_msix (s : State) (core : CoreId) (slot : SlotId) (f : Group → Group) : (s.modGroup core slot f).msix = s.msix := rfl
@[simp] theorem State.modGroup_answer (s : State) (core : CoreId) (slot : SlotId) (f : Group → Group) : (s.modGroup core slot f).answer = s.answer := rfl
@[simp] theorem State.modGroup_turns (s : State) (core : CoreId) (slot : SlotId) (f : Group → Group) : (s.modGroup core slot f).turns = s.turns := rfl
@[simp] theorem State.modGroup_tick (s : State) (core : CoreId) (slot : SlotId) (f : Group → Group) : (s.modGroup core slot f).tick = s.tick := rfl
@[simp] theorem State.modGroup_fresh (s : State) (core : CoreId) (slot : SlotId) (f : Group → Group) : (s.modGroup core slot f).fresh = s.fresh := rfl

@[simp] theorem State.modGroups_teams (s : State) (p : Group → Bool) (f : Group → Group) : (s.modGroups p f).teams = s.teams := rfl
@[simp] theorem State.modGroups_grids (s : State) (p : Group → Bool) (f : Group → Group) : (s.modGroups p f).grids = s.grids := rfl
@[simp] theorem State.modGroups_cores (s : State) (p : Group → Bool) (f : Group → Group) : (s.modGroups p f).cores = s.cores := rfl
@[simp] theorem State.modGroups_cols (s : State) (p : Group → Bool) (f : Group → Group) : (s.modGroups p f).cols = s.cols := rfl
@[simp] theorem State.modGroups_ctxs (s : State) (p : Group → Bool) (f : Group → Group) : (s.modGroups p f).ctxs = s.ctxs := rfl
@[simp] theorem State.modGroups_jrns (s : State) (p : Group → Bool) (f : Group → Group) : (s.modGroups p f).jrns = s.jrns := rfl
@[simp] theorem State.modGroups_mem (s : State) (p : Group → Bool) (f : Group → Group) : (s.modGroups p f).mem = s.mem := rfl
@[simp] theorem State.modGroups_objs (s : State) (p : Group → Bool) (f : Group → Group) : (s.modGroups p f).objs = s.objs := rfl
@[simp] theorem State.modGroups_msgs (s : State) (p : Group → Bool) (f : Group → Group) : (s.modGroups p f).msgs = s.msgs := rfl
@[simp] theorem State.modGroups_ops (s : State) (p : Group → Bool) (f : Group → Group) : (s.modGroups p f).ops = s.ops := rfl
@[simp] theorem State.modGroups_dev (s : State) (p : Group → Bool) (f : Group → Group) : (s.modGroups p f).dev = s.dev := rfl
@[simp] theorem State.modGroups_log (s : State) (p : Group → Bool) (f : Group → Group) : (s.modGroups p f).log = s.log := rfl
@[simp] theorem State.modGroups_flash (s : State) (p : Group → Bool) (f : Group → Group) : (s.modGroups p f).flash = s.flash := rfl
@[simp] theorem State.modGroups_links (s : State) (p : Group → Bool) (f : Group → Group) : (s.modGroups p f).links = s.links := rfl
@[simp] theorem State.modGroups_keys (s : State) (p : Group → Bool) (f : Group → Group) : (s.modGroups p f).keys = s.keys := rfl
@[simp] theorem State.modGroups_savedBins (s : State) (p : Group → Bool) (f : Group → Group) : (s.modGroups p f).savedBins = s.savedBins := rfl
@[simp] theorem State.modGroups_images (s : State) (p : Group → Bool) (f : Group → Group) : (s.modGroups p f).images = s.images := rfl
@[simp] theorem State.modGroups_ptp (s : State) (p : Group → Bool) (f : Group → Group) : (s.modGroups p f).ptp = s.ptp := rfl
@[simp] theorem State.modGroups_msix (s : State) (p : Group → Bool) (f : Group → Group) : (s.modGroups p f).msix = s.msix := rfl
@[simp] theorem State.modGroups_answer (s : State) (p : Group → Bool) (f : Group → Group) : (s.modGroups p f).answer = s.answer := rfl
@[simp] theorem State.modGroups_turns (s : State) (p : Group → Bool) (f : Group → Group) : (s.modGroups p f).turns = s.turns := rfl
@[simp] theorem State.modGroups_tick (s : State) (p : Group → Bool) (f : Group → Group) : (s.modGroups p f).tick = s.tick := rfl
@[simp] theorem State.modGroups_fresh (s : State) (p : Group → Bool) (f : Group → Group) : (s.modGroups p f).fresh = s.fresh := rfl

@[simp] theorem State.sendAl_g (s : State) (src dst : ColId) (obj : Nat) (body : AlBody) : (s.sendAl src dst obj body).g = s.g := rfl
@[simp] theorem State.sendAl_others (s : State) (src dst : ColId) (obj : Nat) (body : AlBody) : (s.sendAl src dst obj body).others = s.others := rfl
@[simp] theorem State.sendAl_teams (s : State) (src dst : ColId) (obj : Nat) (body : AlBody) : (s.sendAl src dst obj body).teams = s.teams := rfl
@[simp] theorem State.sendAl_grids (s : State) (src dst : ColId) (obj : Nat) (body : AlBody) : (s.sendAl src dst obj body).grids = s.grids := rfl
@[simp] theorem State.sendAl_cores (s : State) (src dst : ColId) (obj : Nat) (body : AlBody) : (s.sendAl src dst obj body).cores = s.cores := rfl
@[simp] theorem State.sendAl_cols (s : State) (src dst : ColId) (obj : Nat) (body : AlBody) : (s.sendAl src dst obj body).cols = s.cols := rfl
@[simp] theorem State.sendAl_ctxs (s : State) (src dst : ColId) (obj : Nat) (body : AlBody) : (s.sendAl src dst obj body).ctxs = s.ctxs := rfl
@[simp] theorem State.sendAl_jrns (s : State) (src dst : ColId) (obj : Nat) (body : AlBody) : (s.sendAl src dst obj body).jrns = s.jrns := rfl
@[simp] theorem State.sendAl_mem (s : State) (src dst : ColId) (obj : Nat) (body : AlBody) : (s.sendAl src dst obj body).mem = s.mem := rfl
@[simp] theorem State.sendAl_objs (s : State) (src dst : ColId) (obj : Nat) (body : AlBody) : (s.sendAl src dst obj body).objs = s.objs := rfl
@[simp] theorem State.sendAl_ops (s : State) (src dst : ColId) (obj : Nat) (body : AlBody) : (s.sendAl src dst obj body).ops = s.ops := rfl
@[simp] theorem State.sendAl_dev (s : State) (src dst : ColId) (obj : Nat) (body : AlBody) : (s.sendAl src dst obj body).dev = s.dev := rfl
@[simp] theorem State.sendAl_log (s : State) (src dst : ColId) (obj : Nat) (body : AlBody) : (s.sendAl src dst obj body).log = s.log := rfl
@[simp] theorem State.sendAl_flash (s : State) (src dst : ColId) (obj : Nat) (body : AlBody) : (s.sendAl src dst obj body).flash = s.flash := rfl
@[simp] theorem State.sendAl_links (s : State) (src dst : ColId) (obj : Nat) (body : AlBody) : (s.sendAl src dst obj body).links = s.links := rfl
@[simp] theorem State.sendAl_keys (s : State) (src dst : ColId) (obj : Nat) (body : AlBody) : (s.sendAl src dst obj body).keys = s.keys := rfl
@[simp] theorem State.sendAl_savedBins (s : State) (src dst : ColId) (obj : Nat) (body : AlBody) : (s.sendAl src dst obj body).savedBins = s.savedBins := rfl
@[simp] theorem State.sendAl_images (s : State) (src dst : ColId) (obj : Nat) (body : AlBody) : (s.sendAl src dst obj body).images = s.images := rfl
@[simp] theorem State.sendAl_ptp (s : State) (src dst : ColId) (obj : Nat) (body : AlBody) : (s.sendAl src dst obj body).ptp = s.ptp := rfl
@[simp] theorem State.sendAl_msix (s : State) (src dst : ColId) (obj : Nat) (body : AlBody) : (s.sendAl src dst obj body).msix = s.msix := rfl
@[simp] theorem State.sendAl_answer (s : State) (src dst : ColId) (obj : Nat) (body : AlBody) : (s.sendAl src dst obj body).answer = s.answer := rfl
@[simp] theorem State.sendAl_turns (s : State) (src dst : ColId) (obj : Nat) (body : AlBody) : (s.sendAl src dst obj body).turns = s.turns := rfl
@[simp] theorem State.sendAl_tick (s : State) (src dst : ColId) (obj : Nat) (body : AlBody) : (s.sendAl src dst obj body).tick = s.tick := rfl
@[simp] theorem State.sendAl_fresh (s : State) (src dst : ColId) (obj : Nat) (body : AlBody) : (s.sendAl src dst obj body).fresh = s.fresh := rfl

@[simp] theorem State.dropAl_g (s : State) (toHome : Bool) (src dst : ColId) : (s.dropAl toHome src dst).g = s.g := rfl
@[simp] theorem State.dropAl_others (s : State) (toHome : Bool) (src dst : ColId) : (s.dropAl toHome src dst).others = s.others := rfl
@[simp] theorem State.dropAl_teams (s : State) (toHome : Bool) (src dst : ColId) : (s.dropAl toHome src dst).teams = s.teams := rfl
@[simp] theorem State.dropAl_grids (s : State) (toHome : Bool) (src dst : ColId) : (s.dropAl toHome src dst).grids = s.grids := rfl
@[simp] theorem State.dropAl_cores (s : State) (toHome : Bool) (src dst : ColId) : (s.dropAl toHome src dst).cores = s.cores := rfl
@[simp] theorem State.dropAl_cols (s : State) (toHome : Bool) (src dst : ColId) : (s.dropAl toHome src dst).cols = s.cols := rfl
@[simp] theorem State.dropAl_ctxs (s : State) (toHome : Bool) (src dst : ColId) : (s.dropAl toHome src dst).ctxs = s.ctxs := rfl
@[simp] theorem State.dropAl_jrns (s : State) (toHome : Bool) (src dst : ColId) : (s.dropAl toHome src dst).jrns = s.jrns := rfl
@[simp] theorem State.dropAl_mem (s : State) (toHome : Bool) (src dst : ColId) : (s.dropAl toHome src dst).mem = s.mem := rfl
@[simp] theorem State.dropAl_objs (s : State) (toHome : Bool) (src dst : ColId) : (s.dropAl toHome src dst).objs = s.objs := rfl
@[simp] theorem State.dropAl_ops (s : State) (toHome : Bool) (src dst : ColId) : (s.dropAl toHome src dst).ops = s.ops := rfl
@[simp] theorem State.dropAl_dev (s : State) (toHome : Bool) (src dst : ColId) : (s.dropAl toHome src dst).dev = s.dev := rfl
@[simp] theorem State.dropAl_log (s : State) (toHome : Bool) (src dst : ColId) : (s.dropAl toHome src dst).log = s.log := rfl
@[simp] theorem State.dropAl_flash (s : State) (toHome : Bool) (src dst : ColId) : (s.dropAl toHome src dst).flash = s.flash := rfl
@[simp] theorem State.dropAl_links (s : State) (toHome : Bool) (src dst : ColId) : (s.dropAl toHome src dst).links = s.links := rfl
@[simp] theorem State.dropAl_keys (s : State) (toHome : Bool) (src dst : ColId) : (s.dropAl toHome src dst).keys = s.keys := rfl
@[simp] theorem State.dropAl_savedBins (s : State) (toHome : Bool) (src dst : ColId) : (s.dropAl toHome src dst).savedBins = s.savedBins := rfl
@[simp] theorem State.dropAl_images (s : State) (toHome : Bool) (src dst : ColId) : (s.dropAl toHome src dst).images = s.images := rfl
@[simp] theorem State.dropAl_ptp (s : State) (toHome : Bool) (src dst : ColId) : (s.dropAl toHome src dst).ptp = s.ptp := rfl
@[simp] theorem State.dropAl_msix (s : State) (toHome : Bool) (src dst : ColId) : (s.dropAl toHome src dst).msix = s.msix := rfl
@[simp] theorem State.dropAl_answer (s : State) (toHome : Bool) (src dst : ColId) : (s.dropAl toHome src dst).answer = s.answer := rfl
@[simp] theorem State.dropAl_turns (s : State) (toHome : Bool) (src dst : ColId) : (s.dropAl toHome src dst).turns = s.turns := rfl
@[simp] theorem State.dropAl_tick (s : State) (toHome : Bool) (src dst : ColId) : (s.dropAl toHome src dst).tick = s.tick := rfl
@[simp] theorem State.dropAl_fresh (s : State) (toHome : Bool) (src dst : ColId) : (s.dropAl toHome src dst).fresh = s.fresh := rfl

@[simp] theorem State.hold_g (s : State) (h : HeldWrite) : (s.hold h).g = s.g := rfl
@[simp] theorem State.hold_others (s : State) (h : HeldWrite) : (s.hold h).others = s.others := rfl
@[simp] theorem State.hold_teams (s : State) (h : HeldWrite) : (s.hold h).teams = s.teams := rfl
@[simp] theorem State.hold_grids (s : State) (h : HeldWrite) : (s.hold h).grids = s.grids := rfl
@[simp] theorem State.hold_cores (s : State) (h : HeldWrite) : (s.hold h).cores = s.cores := rfl
@[simp] theorem State.hold_cols (s : State) (h : HeldWrite) : (s.hold h).cols = s.cols := rfl
@[simp] theorem State.hold_ctxs (s : State) (h : HeldWrite) : (s.hold h).ctxs = s.ctxs := rfl
@[simp] theorem State.hold_jrns (s : State) (h : HeldWrite) : (s.hold h).jrns = s.jrns := rfl
@[simp] theorem State.hold_mem (s : State) (h : HeldWrite) : (s.hold h).mem = s.mem := rfl
@[simp] theorem State.hold_objs (s : State) (h : HeldWrite) : (s.hold h).objs = s.objs := rfl
@[simp] theorem State.hold_msgs (s : State) (h : HeldWrite) : (s.hold h).msgs = s.msgs := rfl
@[simp] theorem State.hold_ops (s : State) (h : HeldWrite) : (s.hold h).ops = s.ops := rfl
@[simp] theorem State.hold_dev (s : State) (h : HeldWrite) : (s.hold h).dev = s.dev := rfl
@[simp] theorem State.hold_log (s : State) (h : HeldWrite) : (s.hold h).log = s.log := rfl
@[simp] theorem State.hold_flash (s : State) (h : HeldWrite) : (s.hold h).flash = s.flash := rfl
@[simp] theorem State.hold_keys (s : State) (h : HeldWrite) : (s.hold h).keys = s.keys := rfl
@[simp] theorem State.hold_savedBins (s : State) (h : HeldWrite) : (s.hold h).savedBins = s.savedBins := rfl
@[simp] theorem State.hold_images (s : State) (h : HeldWrite) : (s.hold h).images = s.images := rfl
@[simp] theorem State.hold_ptp (s : State) (h : HeldWrite) : (s.hold h).ptp = s.ptp := rfl
@[simp] theorem State.hold_msix (s : State) (h : HeldWrite) : (s.hold h).msix = s.msix := rfl
@[simp] theorem State.hold_answer (s : State) (h : HeldWrite) : (s.hold h).answer = s.answer := rfl
@[simp] theorem State.hold_turns (s : State) (h : HeldWrite) : (s.hold h).turns = s.turns := rfl
@[simp] theorem State.hold_tick (s : State) (h : HeldWrite) : (s.hold h).tick = s.tick := rfl
@[simp] theorem State.hold_fresh (s : State) (h : HeldWrite) : (s.hold h).fresh = s.fresh := rfl

@[simp] theorem State.dropOp_g (s : State) (id : Nat) : (s.dropOp id).g = s.g := rfl
@[simp] theorem State.dropOp_others (s : State) (id : Nat) : (s.dropOp id).others = s.others := rfl
@[simp] theorem State.dropOp_teams (s : State) (id : Nat) : (s.dropOp id).teams = s.teams := rfl
@[simp] theorem State.dropOp_grids (s : State) (id : Nat) : (s.dropOp id).grids = s.grids := rfl
@[simp] theorem State.dropOp_cores (s : State) (id : Nat) : (s.dropOp id).cores = s.cores := rfl
@[simp] theorem State.dropOp_cols (s : State) (id : Nat) : (s.dropOp id).cols = s.cols := rfl
@[simp] theorem State.dropOp_ctxs (s : State) (id : Nat) : (s.dropOp id).ctxs = s.ctxs := rfl
@[simp] theorem State.dropOp_jrns (s : State) (id : Nat) : (s.dropOp id).jrns = s.jrns := rfl
@[simp] theorem State.dropOp_mem (s : State) (id : Nat) : (s.dropOp id).mem = s.mem := rfl
@[simp] theorem State.dropOp_objs (s : State) (id : Nat) : (s.dropOp id).objs = s.objs := rfl
@[simp] theorem State.dropOp_msgs (s : State) (id : Nat) : (s.dropOp id).msgs = s.msgs := rfl
@[simp] theorem State.dropOp_dev (s : State) (id : Nat) : (s.dropOp id).dev = s.dev := rfl
@[simp] theorem State.dropOp_log (s : State) (id : Nat) : (s.dropOp id).log = s.log := rfl
@[simp] theorem State.dropOp_flash (s : State) (id : Nat) : (s.dropOp id).flash = s.flash := rfl
@[simp] theorem State.dropOp_links (s : State) (id : Nat) : (s.dropOp id).links = s.links := rfl
@[simp] theorem State.dropOp_keys (s : State) (id : Nat) : (s.dropOp id).keys = s.keys := rfl
@[simp] theorem State.dropOp_savedBins (s : State) (id : Nat) : (s.dropOp id).savedBins = s.savedBins := rfl
@[simp] theorem State.dropOp_images (s : State) (id : Nat) : (s.dropOp id).images = s.images := rfl
@[simp] theorem State.dropOp_ptp (s : State) (id : Nat) : (s.dropOp id).ptp = s.ptp := rfl
@[simp] theorem State.dropOp_msix (s : State) (id : Nat) : (s.dropOp id).msix = s.msix := rfl
@[simp] theorem State.dropOp_answer (s : State) (id : Nat) : (s.dropOp id).answer = s.answer := rfl
@[simp] theorem State.dropOp_turns (s : State) (id : Nat) : (s.dropOp id).turns = s.turns := rfl
@[simp] theorem State.dropOp_tick (s : State) (id : Nat) : (s.dropOp id).tick = s.tick := rfl
@[simp] theorem State.dropOp_fresh (s : State) (id : Nat) : (s.dropOp id).fresh = s.fresh := rfl

@[simp] theorem State.modOp_g (s : State) (id : Nat) (f : EngineOp → EngineOp) : (s.modOp id f).g = s.g := rfl
@[simp] theorem State.modOp_others (s : State) (id : Nat) (f : EngineOp → EngineOp) : (s.modOp id f).others = s.others := rfl
@[simp] theorem State.modOp_teams (s : State) (id : Nat) (f : EngineOp → EngineOp) : (s.modOp id f).teams = s.teams := rfl
@[simp] theorem State.modOp_grids (s : State) (id : Nat) (f : EngineOp → EngineOp) : (s.modOp id f).grids = s.grids := rfl
@[simp] theorem State.modOp_cores (s : State) (id : Nat) (f : EngineOp → EngineOp) : (s.modOp id f).cores = s.cores := rfl
@[simp] theorem State.modOp_cols (s : State) (id : Nat) (f : EngineOp → EngineOp) : (s.modOp id f).cols = s.cols := rfl
@[simp] theorem State.modOp_ctxs (s : State) (id : Nat) (f : EngineOp → EngineOp) : (s.modOp id f).ctxs = s.ctxs := rfl
@[simp] theorem State.modOp_jrns (s : State) (id : Nat) (f : EngineOp → EngineOp) : (s.modOp id f).jrns = s.jrns := rfl
@[simp] theorem State.modOp_mem (s : State) (id : Nat) (f : EngineOp → EngineOp) : (s.modOp id f).mem = s.mem := rfl
@[simp] theorem State.modOp_objs (s : State) (id : Nat) (f : EngineOp → EngineOp) : (s.modOp id f).objs = s.objs := rfl
@[simp] theorem State.modOp_msgs (s : State) (id : Nat) (f : EngineOp → EngineOp) : (s.modOp id f).msgs = s.msgs := rfl
@[simp] theorem State.modOp_dev (s : State) (id : Nat) (f : EngineOp → EngineOp) : (s.modOp id f).dev = s.dev := rfl
@[simp] theorem State.modOp_log (s : State) (id : Nat) (f : EngineOp → EngineOp) : (s.modOp id f).log = s.log := rfl
@[simp] theorem State.modOp_flash (s : State) (id : Nat) (f : EngineOp → EngineOp) : (s.modOp id f).flash = s.flash := rfl
@[simp] theorem State.modOp_links (s : State) (id : Nat) (f : EngineOp → EngineOp) : (s.modOp id f).links = s.links := rfl
@[simp] theorem State.modOp_keys (s : State) (id : Nat) (f : EngineOp → EngineOp) : (s.modOp id f).keys = s.keys := rfl
@[simp] theorem State.modOp_savedBins (s : State) (id : Nat) (f : EngineOp → EngineOp) : (s.modOp id f).savedBins = s.savedBins := rfl
@[simp] theorem State.modOp_images (s : State) (id : Nat) (f : EngineOp → EngineOp) : (s.modOp id f).images = s.images := rfl
@[simp] theorem State.modOp_ptp (s : State) (id : Nat) (f : EngineOp → EngineOp) : (s.modOp id f).ptp = s.ptp := rfl
@[simp] theorem State.modOp_msix (s : State) (id : Nat) (f : EngineOp → EngineOp) : (s.modOp id f).msix = s.msix := rfl
@[simp] theorem State.modOp_answer (s : State) (id : Nat) (f : EngineOp → EngineOp) : (s.modOp id f).answer = s.answer := rfl
@[simp] theorem State.modOp_turns (s : State) (id : Nat) (f : EngineOp → EngineOp) : (s.modOp id f).turns = s.turns := rfl
@[simp] theorem State.modOp_tick (s : State) (id : Nat) (f : EngineOp → EngineOp) : (s.modOp id f).tick = s.tick := rfl
@[simp] theorem State.modOp_fresh (s : State) (id : Nat) (f : EngineOp → EngineOp) : (s.modOp id f).fresh = s.fresh := rfl

@[simp] theorem State.dropGroups_teams (s : State) (team : Nat) : (s.dropGroups team).teams = s.teams := rfl
@[simp] theorem State.dropGroups_grids (s : State) (team : Nat) : (s.dropGroups team).grids = s.grids := rfl
@[simp] theorem State.dropGroups_cores (s : State) (team : Nat) : (s.dropGroups team).cores = s.cores := rfl
@[simp] theorem State.dropGroups_cols (s : State) (team : Nat) : (s.dropGroups team).cols = s.cols := rfl
@[simp] theorem State.dropGroups_ctxs (s : State) (team : Nat) : (s.dropGroups team).ctxs = s.ctxs := rfl
@[simp] theorem State.dropGroups_jrns (s : State) (team : Nat) : (s.dropGroups team).jrns = s.jrns := rfl
@[simp] theorem State.dropGroups_mem (s : State) (team : Nat) : (s.dropGroups team).mem = s.mem := rfl
@[simp] theorem State.dropGroups_objs (s : State) (team : Nat) : (s.dropGroups team).objs = s.objs := rfl
@[simp] theorem State.dropGroups_msgs (s : State) (team : Nat) : (s.dropGroups team).msgs = s.msgs := rfl
@[simp] theorem State.dropGroups_ops (s : State) (team : Nat) : (s.dropGroups team).ops = s.ops := rfl
@[simp] theorem State.dropGroups_dev (s : State) (team : Nat) : (s.dropGroups team).dev = s.dev := rfl
@[simp] theorem State.dropGroups_log (s : State) (team : Nat) : (s.dropGroups team).log = s.log := rfl
@[simp] theorem State.dropGroups_flash (s : State) (team : Nat) : (s.dropGroups team).flash = s.flash := rfl
@[simp] theorem State.dropGroups_links (s : State) (team : Nat) : (s.dropGroups team).links = s.links := rfl
@[simp] theorem State.dropGroups_keys (s : State) (team : Nat) : (s.dropGroups team).keys = s.keys := rfl
@[simp] theorem State.dropGroups_savedBins (s : State) (team : Nat) : (s.dropGroups team).savedBins = s.savedBins := rfl
@[simp] theorem State.dropGroups_images (s : State) (team : Nat) : (s.dropGroups team).images = s.images := rfl
@[simp] theorem State.dropGroups_ptp (s : State) (team : Nat) : (s.dropGroups team).ptp = s.ptp := rfl
@[simp] theorem State.dropGroups_msix (s : State) (team : Nat) : (s.dropGroups team).msix = s.msix := rfl
@[simp] theorem State.dropGroups_answer (s : State) (team : Nat) : (s.dropGroups team).answer = s.answer := rfl
@[simp] theorem State.dropGroups_turns (s : State) (team : Nat) : (s.dropGroups team).turns = s.turns := rfl
@[simp] theorem State.dropGroups_tick (s : State) (team : Nat) : (s.dropGroups team).tick = s.tick := rfl
@[simp] theorem State.dropGroups_fresh (s : State) (team : Nat) : (s.dropGroups team).fresh = s.fresh := rfl

@[simp] theorem State.modPort_g (s : State) (p : PortId) (f : UaPort → UaPort) : (s.modPort p f).g = s.g := rfl
@[simp] theorem State.modPort_others (s : State) (p : PortId) (f : UaPort → UaPort) : (s.modPort p f).others = s.others := rfl
@[simp] theorem State.modPort_teams (s : State) (p : PortId) (f : UaPort → UaPort) : (s.modPort p f).teams = s.teams := rfl
@[simp] theorem State.modPort_grids (s : State) (p : PortId) (f : UaPort → UaPort) : (s.modPort p f).grids = s.grids := rfl
@[simp] theorem State.modPort_cores (s : State) (p : PortId) (f : UaPort → UaPort) : (s.modPort p f).cores = s.cores := rfl
@[simp] theorem State.modPort_cols (s : State) (p : PortId) (f : UaPort → UaPort) : (s.modPort p f).cols = s.cols := rfl
@[simp] theorem State.modPort_ctxs (s : State) (p : PortId) (f : UaPort → UaPort) : (s.modPort p f).ctxs = s.ctxs := rfl
@[simp] theorem State.modPort_jrns (s : State) (p : PortId) (f : UaPort → UaPort) : (s.modPort p f).jrns = s.jrns := rfl
@[simp] theorem State.modPort_mem (s : State) (p : PortId) (f : UaPort → UaPort) : (s.modPort p f).mem = s.mem := rfl
@[simp] theorem State.modPort_objs (s : State) (p : PortId) (f : UaPort → UaPort) : (s.modPort p f).objs = s.objs := rfl
@[simp] theorem State.modPort_msgs (s : State) (p : PortId) (f : UaPort → UaPort) : (s.modPort p f).msgs = s.msgs := rfl
@[simp] theorem State.modPort_ops (s : State) (p : PortId) (f : UaPort → UaPort) : (s.modPort p f).ops = s.ops := rfl
@[simp] theorem State.modPort_dev (s : State) (p : PortId) (f : UaPort → UaPort) : (s.modPort p f).dev = s.dev := rfl
@[simp] theorem State.modPort_log (s : State) (p : PortId) (f : UaPort → UaPort) : (s.modPort p f).log = s.log := rfl
@[simp] theorem State.modPort_flash (s : State) (p : PortId) (f : UaPort → UaPort) : (s.modPort p f).flash = s.flash := rfl
@[simp] theorem State.modPort_keys (s : State) (p : PortId) (f : UaPort → UaPort) : (s.modPort p f).keys = s.keys := rfl
@[simp] theorem State.modPort_savedBins (s : State) (p : PortId) (f : UaPort → UaPort) : (s.modPort p f).savedBins = s.savedBins := rfl
@[simp] theorem State.modPort_images (s : State) (p : PortId) (f : UaPort → UaPort) : (s.modPort p f).images = s.images := rfl
@[simp] theorem State.modPort_ptp (s : State) (p : PortId) (f : UaPort → UaPort) : (s.modPort p f).ptp = s.ptp := rfl
@[simp] theorem State.modPort_msix (s : State) (p : PortId) (f : UaPort → UaPort) : (s.modPort p f).msix = s.msix := rfl
@[simp] theorem State.modPort_answer (s : State) (p : PortId) (f : UaPort → UaPort) : (s.modPort p f).answer = s.answer := rfl
@[simp] theorem State.modPort_turns (s : State) (p : PortId) (f : UaPort → UaPort) : (s.modPort p f).turns = s.turns := rfl
@[simp] theorem State.modPort_tick (s : State) (p : PortId) (f : UaPort → UaPort) : (s.modPort p f).tick = s.tick := rfl
@[simp] theorem State.modPort_fresh (s : State) (p : PortId) (f : UaPort → UaPort) : (s.modPort p f).fresh = s.fresh := rfl

@[simp] theorem State.setDev_g (s : State) (f : Device → Device) : (s.setDev f).g = s.g := rfl
@[simp] theorem State.setDev_others (s : State) (f : Device → Device) : (s.setDev f).others = s.others := rfl
@[simp] theorem State.setDev_teams (s : State) (f : Device → Device) : (s.setDev f).teams = s.teams := rfl
@[simp] theorem State.setDev_grids (s : State) (f : Device → Device) : (s.setDev f).grids = s.grids := rfl
@[simp] theorem State.setDev_cores (s : State) (f : Device → Device) : (s.setDev f).cores = s.cores := rfl
@[simp] theorem State.setDev_cols (s : State) (f : Device → Device) : (s.setDev f).cols = s.cols := rfl
@[simp] theorem State.setDev_ctxs (s : State) (f : Device → Device) : (s.setDev f).ctxs = s.ctxs := rfl
@[simp] theorem State.setDev_jrns (s : State) (f : Device → Device) : (s.setDev f).jrns = s.jrns := rfl
@[simp] theorem State.setDev_mem (s : State) (f : Device → Device) : (s.setDev f).mem = s.mem := rfl
@[simp] theorem State.setDev_objs (s : State) (f : Device → Device) : (s.setDev f).objs = s.objs := rfl
@[simp] theorem State.setDev_msgs (s : State) (f : Device → Device) : (s.setDev f).msgs = s.msgs := rfl
@[simp] theorem State.setDev_ops (s : State) (f : Device → Device) : (s.setDev f).ops = s.ops := rfl
@[simp] theorem State.setDev_log (s : State) (f : Device → Device) : (s.setDev f).log = s.log := rfl
@[simp] theorem State.setDev_flash (s : State) (f : Device → Device) : (s.setDev f).flash = s.flash := rfl
@[simp] theorem State.setDev_links (s : State) (f : Device → Device) : (s.setDev f).links = s.links := rfl
@[simp] theorem State.setDev_keys (s : State) (f : Device → Device) : (s.setDev f).keys = s.keys := rfl
@[simp] theorem State.setDev_savedBins (s : State) (f : Device → Device) : (s.setDev f).savedBins = s.savedBins := rfl
@[simp] theorem State.setDev_images (s : State) (f : Device → Device) : (s.setDev f).images = s.images := rfl
@[simp] theorem State.setDev_ptp (s : State) (f : Device → Device) : (s.setDev f).ptp = s.ptp := rfl
@[simp] theorem State.setDev_msix (s : State) (f : Device → Device) : (s.setDev f).msix = s.msix := rfl
@[simp] theorem State.setDev_answer (s : State) (f : Device → Device) : (s.setDev f).answer = s.answer := rfl
@[simp] theorem State.setDev_turns (s : State) (f : Device → Device) : (s.setDev f).turns = s.turns := rfl
@[simp] theorem State.setDev_tick (s : State) (f : Device → Device) : (s.setDev f).tick = s.tick := rfl
@[simp] theorem State.setDev_fresh (s : State) (f : Device → Device) : (s.setDev f).fresh = s.fresh := rfl

@[simp] theorem State.retireWith_g (s : State) (g : Group) : (s.retireWith g).g = g.retire := rfl
@[simp] theorem State.retire_g (s : State) : s.retire.g = s.g.retire := rfl

/-- An entry of a table read after a change: the changed one at its own index, any other as before. -/
theorem get_set_entry {α : Type} {n : Nat} (v : Vector α n) (i j : Fin n) (x : α) :
    (v.set i.val x i.isLt).get j = if i = j then x else v.get j := by
  simp only [Vector.get_eq_getElem, Vector.getElem_set, Fin.ext_iff]

@[simp] theorem State.modCol_get (s : State) (c d : ColId) (f : ColState → ColState) :
    (s.modCol c f).cols.get d = if c = d then f (s.cols.get c) else s.cols.get d := get_set_entry _ _ _ _
@[simp] theorem State.modCore_get (s : State) (c d : CoreId) (f : CoreState → CoreState) :
    (s.modCore c f).cores.get d = if c = d then f (s.cores.get c) else s.cores.get d := get_set_entry _ _ _ _
@[simp] theorem State.modCtx_get (s : State) (c d : CtxId) (f : Ctx → Ctx) :
    (s.modCtx c f).ctxs.get d = if c = d then f (s.ctxs.get c) else s.ctxs.get d := get_set_entry _ _ _ _
@[simp] theorem State.modJrn_get (s : State) (c d : JournalId) (f : Journal → Journal) :
    (s.modJrn c f).jrns.get d = if c = d then f (s.jrns.get c) else s.jrns.get d := get_set_entry _ _ _ _

/-! ### Bytes written to memory -/

/-- t is s but for the memory and the last number given out. -/
def State.MemOf (s t : State) : Prop :=
  ∃ mem' fresh', t = { s with mem := mem', fresh := fresh' }

theorem State.MemOf.refl (s : State) : s.MemOf s := ⟨_, _, rfl⟩

theorem State.MemOf.trans {s t u : State} (h : s.MemOf t) (k : t.MemOf u) : s.MemOf u := by
  obtain ⟨_, _, rfl⟩ := h; obtain ⟨_, _, rfl⟩ := k; exact ⟨_, _, rfl⟩

/-- A list worked through, each entry within these fields. -/
theorem State.MemOf.foldl {α : Type} {f : State → α → State} (h : ∀ (t : State) x, t.MemOf (f t x)) (l : List α) (s : State) :
    s.MemOf (l.foldl f s) := by
  induction l generalizing s with
  | nil => exact .refl s
  | cons x r ih => exact (h s x).trans (ih _)

theorem State.MemOf.g {s t : State} (h : s.MemOf t) : t.g = s.g := by obtain ⟨_, _, rfl⟩ := h; rfl
theorem State.MemOf.others {s t : State} (h : s.MemOf t) : t.others = s.others := by obtain ⟨_, _, rfl⟩ := h; rfl
theorem State.MemOf.teams {s t : State} (h : s.MemOf t) : t.teams = s.teams := by obtain ⟨_, _, rfl⟩ := h; rfl
theorem State.MemOf.grids {s t : State} (h : s.MemOf t) : t.grids = s.grids := by obtain ⟨_, _, rfl⟩ := h; rfl
theorem State.MemOf.cores {s t : State} (h : s.MemOf t) : t.cores = s.cores := by obtain ⟨_, _, rfl⟩ := h; rfl
theorem State.MemOf.cols {s t : State} (h : s.MemOf t) : t.cols = s.cols := by obtain ⟨_, _, rfl⟩ := h; rfl
theorem State.MemOf.ctxs {s t : State} (h : s.MemOf t) : t.ctxs = s.ctxs := by obtain ⟨_, _, rfl⟩ := h; rfl
theorem State.MemOf.jrns {s t : State} (h : s.MemOf t) : t.jrns = s.jrns := by obtain ⟨_, _, rfl⟩ := h; rfl
theorem State.MemOf.objs {s t : State} (h : s.MemOf t) : t.objs = s.objs := by obtain ⟨_, _, rfl⟩ := h; rfl
theorem State.MemOf.msgs {s t : State} (h : s.MemOf t) : t.msgs = s.msgs := by obtain ⟨_, _, rfl⟩ := h; rfl
theorem State.MemOf.ops {s t : State} (h : s.MemOf t) : t.ops = s.ops := by obtain ⟨_, _, rfl⟩ := h; rfl
theorem State.MemOf.dev {s t : State} (h : s.MemOf t) : t.dev = s.dev := by obtain ⟨_, _, rfl⟩ := h; rfl
theorem State.MemOf.log {s t : State} (h : s.MemOf t) : t.log = s.log := by obtain ⟨_, _, rfl⟩ := h; rfl
theorem State.MemOf.flash {s t : State} (h : s.MemOf t) : t.flash = s.flash := by obtain ⟨_, _, rfl⟩ := h; rfl
theorem State.MemOf.links {s t : State} (h : s.MemOf t) : t.links = s.links := by obtain ⟨_, _, rfl⟩ := h; rfl
theorem State.MemOf.keys {s t : State} (h : s.MemOf t) : t.keys = s.keys := by obtain ⟨_, _, rfl⟩ := h; rfl
theorem State.MemOf.savedBins {s t : State} (h : s.MemOf t) : t.savedBins = s.savedBins := by obtain ⟨_, _, rfl⟩ := h; rfl
theorem State.MemOf.images {s t : State} (h : s.MemOf t) : t.images = s.images := by obtain ⟨_, _, rfl⟩ := h; rfl
theorem State.MemOf.ptp {s t : State} (h : s.MemOf t) : t.ptp = s.ptp := by obtain ⟨_, _, rfl⟩ := h; rfl
theorem State.MemOf.msix {s t : State} (h : s.MemOf t) : t.msix = s.msix := by obtain ⟨_, _, rfl⟩ := h; rfl
theorem State.MemOf.answer {s t : State} (h : s.MemOf t) : t.answer = s.answer := by obtain ⟨_, _, rfl⟩ := h; rfl
theorem State.MemOf.turns {s t : State} (h : s.MemOf t) : t.turns = s.turns := by obtain ⟨_, _, rfl⟩ := h; rfl
theorem State.MemOf.tick {s t : State} (h : s.MemOf t) : t.tick = s.tick := by obtain ⟨_, _, rfl⟩ := h; rfl

theorem State.MemOf.withMem {s t : State} (h : s.MemOf t) (m : Memory) : s.MemOf { t with mem := m } :=
  h.trans ⟨_, _, rfl⟩

theorem State.bufferWrite_memOf (s : State) (who : Option Origin) (b : List (Nat × Byte × Byte)) : s.MemOf (s.bufferWrite who b) := by
  unfold State.bufferWrite
  split
  · exact .refl s
  · dsimp only; split
    · exact .refl s
    · exact ⟨_, _, rfl⟩

theorem State.bufferAll_memOf (s : State) (who : Option Origin) (l : List (Nat × Byte × Byte)) : s.MemOf (s.bufferAll who l) :=
  .foldl (fun t b => t.bufferWrite_memOf who b) _ s

theorem State.dropLine_memOf (s : State) (l : SliceLine) : s.MemOf (s.dropLine l) := by
  unfold State.dropLine
  exact .withMem (((State.MemOf.refl s).withMem _).trans (State.bufferAll_memOf _ _ _)) _

theorem State.freeLine_memOf (s : State) (line : Nat) : s.MemOf (s.freeLine line) := by
  unfold State.freeLine
  exact .withMem (.foldl State.dropLine_memOf _ s) _

theorem State.freeLines_memOf (s : State) (loc len : Nat) : s.MemOf (s.freeLines loc len) := by
  unfold State.freeLines; split
  · exact .refl s
  · exact .foldl State.freeLine_memOf _ s

/-- A run stored changes the memory alone. -/
theorem State.storeRunBy_memOf (s : State) (who : Option Origin) (k : KeySlot) (loc : Nat) (bs : List Byte) :
    s.MemOf (s.storeRunBy who k loc bs) := by
  unfold State.storeRunBy; split
  · exact ((s.freeLines_memOf loc bs.length).withMem _).trans (State.bufferAll_memOf _ _ _)
  · exact (State.MemOf.refl s).withMem _

theorem State.trimSlice_memOf (s : State) (col : ColId) (host : Bool) (line : Nat) : s.MemOf (s.trimSlice col host line) := by
  unfold State.trimSlice; dsimp only
  generalize (if host = true then hostLines else _) = n
  split
  · exact .refl s
  · split
    · exact s.dropLine_memOf _
    · exact .refl s

theorem State.trimDir_memOf (s : State) (line : Nat) : s.MemOf (s.trimDir line) := by
  unfold State.trimDir; dsimp only
  split
  · exact .refl s
  · split
    · exact .withMem (.foldl State.dropLine_memOf _ s) _
    · exact .refl s

theorem State.putDir_memOf (s : State) (d : DirEntry) : s.MemOf (s.putDir d) := by
  unfold State.putDir
  exact ((State.MemOf.refl s).withMem _).trans (State.trimDir_memOf _ _)

theorem State.dirRequest_memOf (s : State) (own : Bool) (die : DieId) (line : Nat) : s.MemOf (s.dirRequest own die line) := by
  unfold State.dirRequest
  repeat' split
  all_goals first | exact .refl s | exact s.putDir_memOf _

theorem State.putLine_memOf (s : State) (l : SliceLine) : s.MemOf (s.putLine l) := by
  unfold State.putLine
  exact ((State.MemOf.refl s).withMem _).trans (State.trimSlice_memOf _ _ _ _)

/-- A line read into a cache changes the memory alone. -/
theorem State.readLine_memOf (s : State) (col : ColId) (host : Bool) (line : Nat) : s.MemOf (s.readLine col host line) := by
  unfold State.readLine; split
  · exact s.putLine_memOf _
  · exact (((State.MemOf.refl s).withMem _).trans (State.dirRequest_memOf _ _ _ _)).trans (State.putLine_memOf _ _)

/-- A line taken exclusively changes the memory alone. -/
theorem State.ownLine_memOf (s : State) (col : ColId) (host : Bool) (line : Nat) : s.MemOf (s.ownLine col host line) := by
  unfold State.ownLine
  exact (((State.MemOf.refl s).withMem _).trans (State.dirRequest_memOf _ _ _ _)).trans (State.putLine_memOf _ _)

/-- A run stored within a line changes the memory alone. -/
theorem State.storeLine_memOf (s : State) (col : ColId) (host : Bool) (k : KeySlot) (loc : Nat) (bs : List Byte) :
    s.MemOf (s.storeLine col host k loc bs) := by
  unfold State.storeLine
  exact (s.ownLine_memOf col host (loc / 128)).withMem _

@[simp] theorem State.storeRunBy_g (s : State) (who : Option Origin) (k : KeySlot) (loc : Nat) (bs : List Byte) : (s.storeRunBy who k loc bs).g = s.g := (s.storeRunBy_memOf who k loc bs).g
@[simp] theorem State.storeRunBy_others (s : State) (who : Option Origin) (k : KeySlot) (loc : Nat) (bs : List Byte) : (s.storeRunBy who k loc bs).others = s.others := (s.storeRunBy_memOf who k loc bs).others
@[simp] theorem State.storeRunBy_teams (s : State) (who : Option Origin) (k : KeySlot) (loc : Nat) (bs : List Byte) : (s.storeRunBy who k loc bs).teams = s.teams := (s.storeRunBy_memOf who k loc bs).teams
@[simp] theorem State.storeRunBy_grids (s : State) (who : Option Origin) (k : KeySlot) (loc : Nat) (bs : List Byte) : (s.storeRunBy who k loc bs).grids = s.grids := (s.storeRunBy_memOf who k loc bs).grids
@[simp] theorem State.storeRunBy_cores (s : State) (who : Option Origin) (k : KeySlot) (loc : Nat) (bs : List Byte) : (s.storeRunBy who k loc bs).cores = s.cores := (s.storeRunBy_memOf who k loc bs).cores
@[simp] theorem State.storeRunBy_cols (s : State) (who : Option Origin) (k : KeySlot) (loc : Nat) (bs : List Byte) : (s.storeRunBy who k loc bs).cols = s.cols := (s.storeRunBy_memOf who k loc bs).cols
@[simp] theorem State.storeRunBy_ctxs (s : State) (who : Option Origin) (k : KeySlot) (loc : Nat) (bs : List Byte) : (s.storeRunBy who k loc bs).ctxs = s.ctxs := (s.storeRunBy_memOf who k loc bs).ctxs
@[simp] theorem State.storeRunBy_jrns (s : State) (who : Option Origin) (k : KeySlot) (loc : Nat) (bs : List Byte) : (s.storeRunBy who k loc bs).jrns = s.jrns := (s.storeRunBy_memOf who k loc bs).jrns
@[simp] theorem State.storeRunBy_objs (s : State) (who : Option Origin) (k : KeySlot) (loc : Nat) (bs : List Byte) : (s.storeRunBy who k loc bs).objs = s.objs := (s.storeRunBy_memOf who k loc bs).objs
@[simp] theorem State.storeRunBy_msgs (s : State) (who : Option Origin) (k : KeySlot) (loc : Nat) (bs : List Byte) : (s.storeRunBy who k loc bs).msgs = s.msgs := (s.storeRunBy_memOf who k loc bs).msgs
@[simp] theorem State.storeRunBy_ops (s : State) (who : Option Origin) (k : KeySlot) (loc : Nat) (bs : List Byte) : (s.storeRunBy who k loc bs).ops = s.ops := (s.storeRunBy_memOf who k loc bs).ops
@[simp] theorem State.storeRunBy_dev (s : State) (who : Option Origin) (k : KeySlot) (loc : Nat) (bs : List Byte) : (s.storeRunBy who k loc bs).dev = s.dev := (s.storeRunBy_memOf who k loc bs).dev
@[simp] theorem State.storeRunBy_log (s : State) (who : Option Origin) (k : KeySlot) (loc : Nat) (bs : List Byte) : (s.storeRunBy who k loc bs).log = s.log := (s.storeRunBy_memOf who k loc bs).log
@[simp] theorem State.storeRunBy_flash (s : State) (who : Option Origin) (k : KeySlot) (loc : Nat) (bs : List Byte) : (s.storeRunBy who k loc bs).flash = s.flash := (s.storeRunBy_memOf who k loc bs).flash
@[simp] theorem State.storeRunBy_links (s : State) (who : Option Origin) (k : KeySlot) (loc : Nat) (bs : List Byte) : (s.storeRunBy who k loc bs).links = s.links := (s.storeRunBy_memOf who k loc bs).links
@[simp] theorem State.storeRunBy_keys (s : State) (who : Option Origin) (k : KeySlot) (loc : Nat) (bs : List Byte) : (s.storeRunBy who k loc bs).keys = s.keys := (s.storeRunBy_memOf who k loc bs).keys
@[simp] theorem State.storeRunBy_savedBins (s : State) (who : Option Origin) (k : KeySlot) (loc : Nat) (bs : List Byte) : (s.storeRunBy who k loc bs).savedBins = s.savedBins := (s.storeRunBy_memOf who k loc bs).savedBins
@[simp] theorem State.storeRunBy_images (s : State) (who : Option Origin) (k : KeySlot) (loc : Nat) (bs : List Byte) : (s.storeRunBy who k loc bs).images = s.images := (s.storeRunBy_memOf who k loc bs).images
@[simp] theorem State.storeRunBy_ptp (s : State) (who : Option Origin) (k : KeySlot) (loc : Nat) (bs : List Byte) : (s.storeRunBy who k loc bs).ptp = s.ptp := (s.storeRunBy_memOf who k loc bs).ptp
@[simp] theorem State.storeRunBy_msix (s : State) (who : Option Origin) (k : KeySlot) (loc : Nat) (bs : List Byte) : (s.storeRunBy who k loc bs).msix = s.msix := (s.storeRunBy_memOf who k loc bs).msix
@[simp] theorem State.storeRunBy_answer (s : State) (who : Option Origin) (k : KeySlot) (loc : Nat) (bs : List Byte) : (s.storeRunBy who k loc bs).answer = s.answer := (s.storeRunBy_memOf who k loc bs).answer
@[simp] theorem State.storeRunBy_turns (s : State) (who : Option Origin) (k : KeySlot) (loc : Nat) (bs : List Byte) : (s.storeRunBy who k loc bs).turns = s.turns := (s.storeRunBy_memOf who k loc bs).turns
@[simp] theorem State.storeRunBy_tick (s : State) (who : Option Origin) (k : KeySlot) (loc : Nat) (bs : List Byte) : (s.storeRunBy who k loc bs).tick = s.tick := (s.storeRunBy_memOf who k loc bs).tick

@[simp] theorem State.storeRun_g (s : State) (k : KeySlot) (loc : Nat) (bs : List Byte) : (s.storeRun k loc bs).g = s.g := (s.storeRunBy_memOf none k loc bs).g
@[simp] theorem State.storeRun_others (s : State) (k : KeySlot) (loc : Nat) (bs : List Byte) : (s.storeRun k loc bs).others = s.others := (s.storeRunBy_memOf none k loc bs).others
@[simp] theorem State.storeRun_teams (s : State) (k : KeySlot) (loc : Nat) (bs : List Byte) : (s.storeRun k loc bs).teams = s.teams := (s.storeRunBy_memOf none k loc bs).teams
@[simp] theorem State.storeRun_grids (s : State) (k : KeySlot) (loc : Nat) (bs : List Byte) : (s.storeRun k loc bs).grids = s.grids := (s.storeRunBy_memOf none k loc bs).grids
@[simp] theorem State.storeRun_cores (s : State) (k : KeySlot) (loc : Nat) (bs : List Byte) : (s.storeRun k loc bs).cores = s.cores := (s.storeRunBy_memOf none k loc bs).cores
@[simp] theorem State.storeRun_cols (s : State) (k : KeySlot) (loc : Nat) (bs : List Byte) : (s.storeRun k loc bs).cols = s.cols := (s.storeRunBy_memOf none k loc bs).cols
@[simp] theorem State.storeRun_ctxs (s : State) (k : KeySlot) (loc : Nat) (bs : List Byte) : (s.storeRun k loc bs).ctxs = s.ctxs := (s.storeRunBy_memOf none k loc bs).ctxs
@[simp] theorem State.storeRun_jrns (s : State) (k : KeySlot) (loc : Nat) (bs : List Byte) : (s.storeRun k loc bs).jrns = s.jrns := (s.storeRunBy_memOf none k loc bs).jrns
@[simp] theorem State.storeRun_objs (s : State) (k : KeySlot) (loc : Nat) (bs : List Byte) : (s.storeRun k loc bs).objs = s.objs := (s.storeRunBy_memOf none k loc bs).objs
@[simp] theorem State.storeRun_msgs (s : State) (k : KeySlot) (loc : Nat) (bs : List Byte) : (s.storeRun k loc bs).msgs = s.msgs := (s.storeRunBy_memOf none k loc bs).msgs
@[simp] theorem State.storeRun_ops (s : State) (k : KeySlot) (loc : Nat) (bs : List Byte) : (s.storeRun k loc bs).ops = s.ops := (s.storeRunBy_memOf none k loc bs).ops
@[simp] theorem State.storeRun_dev (s : State) (k : KeySlot) (loc : Nat) (bs : List Byte) : (s.storeRun k loc bs).dev = s.dev := (s.storeRunBy_memOf none k loc bs).dev
@[simp] theorem State.storeRun_log (s : State) (k : KeySlot) (loc : Nat) (bs : List Byte) : (s.storeRun k loc bs).log = s.log := (s.storeRunBy_memOf none k loc bs).log
@[simp] theorem State.storeRun_flash (s : State) (k : KeySlot) (loc : Nat) (bs : List Byte) : (s.storeRun k loc bs).flash = s.flash := (s.storeRunBy_memOf none k loc bs).flash
@[simp] theorem State.storeRun_links (s : State) (k : KeySlot) (loc : Nat) (bs : List Byte) : (s.storeRun k loc bs).links = s.links := (s.storeRunBy_memOf none k loc bs).links
@[simp] theorem State.storeRun_keys (s : State) (k : KeySlot) (loc : Nat) (bs : List Byte) : (s.storeRun k loc bs).keys = s.keys := (s.storeRunBy_memOf none k loc bs).keys
@[simp] theorem State.storeRun_savedBins (s : State) (k : KeySlot) (loc : Nat) (bs : List Byte) : (s.storeRun k loc bs).savedBins = s.savedBins := (s.storeRunBy_memOf none k loc bs).savedBins
@[simp] theorem State.storeRun_images (s : State) (k : KeySlot) (loc : Nat) (bs : List Byte) : (s.storeRun k loc bs).images = s.images := (s.storeRunBy_memOf none k loc bs).images
@[simp] theorem State.storeRun_ptp (s : State) (k : KeySlot) (loc : Nat) (bs : List Byte) : (s.storeRun k loc bs).ptp = s.ptp := (s.storeRunBy_memOf none k loc bs).ptp
@[simp] theorem State.storeRun_msix (s : State) (k : KeySlot) (loc : Nat) (bs : List Byte) : (s.storeRun k loc bs).msix = s.msix := (s.storeRunBy_memOf none k loc bs).msix
@[simp] theorem State.storeRun_answer (s : State) (k : KeySlot) (loc : Nat) (bs : List Byte) : (s.storeRun k loc bs).answer = s.answer := (s.storeRunBy_memOf none k loc bs).answer
@[simp] theorem State.storeRun_turns (s : State) (k : KeySlot) (loc : Nat) (bs : List Byte) : (s.storeRun k loc bs).turns = s.turns := (s.storeRunBy_memOf none k loc bs).turns
@[simp] theorem State.storeRun_tick (s : State) (k : KeySlot) (loc : Nat) (bs : List Byte) : (s.storeRun k loc bs).tick = s.tick := (s.storeRunBy_memOf none k loc bs).tick

@[simp] theorem State.physWrite_g (s : State) (pa : Nat) (bs : List Byte) : (s.physWrite pa bs).g = s.g := State.storeRun_g ..
@[simp] theorem State.physWrite_others (s : State) (pa : Nat) (bs : List Byte) : (s.physWrite pa bs).others = s.others := State.storeRun_others ..
@[simp] theorem State.physWrite_teams (s : State) (pa : Nat) (bs : List Byte) : (s.physWrite pa bs).teams = s.teams := State.storeRun_teams ..
@[simp] theorem State.physWrite_grids (s : State) (pa : Nat) (bs : List Byte) : (s.physWrite pa bs).grids = s.grids := State.storeRun_grids ..
@[simp] theorem State.physWrite_cores (s : State) (pa : Nat) (bs : List Byte) : (s.physWrite pa bs).cores = s.cores := State.storeRun_cores ..
@[simp] theorem State.physWrite_cols (s : State) (pa : Nat) (bs : List Byte) : (s.physWrite pa bs).cols = s.cols := State.storeRun_cols ..
@[simp] theorem State.physWrite_ctxs (s : State) (pa : Nat) (bs : List Byte) : (s.physWrite pa bs).ctxs = s.ctxs := State.storeRun_ctxs ..
@[simp] theorem State.physWrite_jrns (s : State) (pa : Nat) (bs : List Byte) : (s.physWrite pa bs).jrns = s.jrns := State.storeRun_jrns ..
@[simp] theorem State.physWrite_objs (s : State) (pa : Nat) (bs : List Byte) : (s.physWrite pa bs).objs = s.objs := State.storeRun_objs ..
@[simp] theorem State.physWrite_msgs (s : State) (pa : Nat) (bs : List Byte) : (s.physWrite pa bs).msgs = s.msgs := State.storeRun_msgs ..
@[simp] theorem State.physWrite_ops (s : State) (pa : Nat) (bs : List Byte) : (s.physWrite pa bs).ops = s.ops := State.storeRun_ops ..
@[simp] theorem State.physWrite_dev (s : State) (pa : Nat) (bs : List Byte) : (s.physWrite pa bs).dev = s.dev := State.storeRun_dev ..
@[simp] theorem State.physWrite_log (s : State) (pa : Nat) (bs : List Byte) : (s.physWrite pa bs).log = s.log := State.storeRun_log ..
@[simp] theorem State.physWrite_flash (s : State) (pa : Nat) (bs : List Byte) : (s.physWrite pa bs).flash = s.flash := State.storeRun_flash ..
@[simp] theorem State.physWrite_links (s : State) (pa : Nat) (bs : List Byte) : (s.physWrite pa bs).links = s.links := State.storeRun_links ..
@[simp] theorem State.physWrite_keys (s : State) (pa : Nat) (bs : List Byte) : (s.physWrite pa bs).keys = s.keys := State.storeRun_keys ..
@[simp] theorem State.physWrite_savedBins (s : State) (pa : Nat) (bs : List Byte) : (s.physWrite pa bs).savedBins = s.savedBins := State.storeRun_savedBins ..
@[simp] theorem State.physWrite_images (s : State) (pa : Nat) (bs : List Byte) : (s.physWrite pa bs).images = s.images := State.storeRun_images ..
@[simp] theorem State.physWrite_ptp (s : State) (pa : Nat) (bs : List Byte) : (s.physWrite pa bs).ptp = s.ptp := State.storeRun_ptp ..
@[simp] theorem State.physWrite_msix (s : State) (pa : Nat) (bs : List Byte) : (s.physWrite pa bs).msix = s.msix := State.storeRun_msix ..
@[simp] theorem State.physWrite_answer (s : State) (pa : Nat) (bs : List Byte) : (s.physWrite pa bs).answer = s.answer := State.storeRun_answer ..
@[simp] theorem State.physWrite_turns (s : State) (pa : Nat) (bs : List Byte) : (s.physWrite pa bs).turns = s.turns := State.storeRun_turns ..
@[simp] theorem State.physWrite_tick (s : State) (pa : Nat) (bs : List Byte) : (s.physWrite pa bs).tick = s.tick := State.storeRun_tick ..

@[simp] theorem State.msiJournal_g (s : State) (j : JournalId) : (s.msiJournal j).g = s.g := by unfold State.msiJournal; split <;> rfl
@[simp] theorem State.msiJournal_others (s : State) (j : JournalId) : (s.msiJournal j).others = s.others := by unfold State.msiJournal; split <;> rfl
@[simp] theorem State.msiJournal_teams (s : State) (j : JournalId) : (s.msiJournal j).teams = s.teams := by unfold State.msiJournal; split <;> rfl
@[simp] theorem State.msiJournal_grids (s : State) (j : JournalId) : (s.msiJournal j).grids = s.grids := by unfold State.msiJournal; split <;> rfl
@[simp] theorem State.msiJournal_cores (s : State) (j : JournalId) : (s.msiJournal j).cores = s.cores := by unfold State.msiJournal; split <;> rfl
@[simp] theorem State.msiJournal_cols (s : State) (j : JournalId) : (s.msiJournal j).cols = s.cols := by unfold State.msiJournal; split <;> rfl
@[simp] theorem State.msiJournal_ctxs (s : State) (j : JournalId) : (s.msiJournal j).ctxs = s.ctxs := by unfold State.msiJournal; split <;> rfl
@[simp] theorem State.msiJournal_mem (s : State) (j : JournalId) : (s.msiJournal j).mem = s.mem := by unfold State.msiJournal; split <;> rfl
@[simp] theorem State.msiJournal_objs (s : State) (j : JournalId) : (s.msiJournal j).objs = s.objs := by unfold State.msiJournal; split <;> rfl
@[simp] theorem State.msiJournal_msgs (s : State) (j : JournalId) : (s.msiJournal j).msgs = s.msgs := by unfold State.msiJournal; split <;> rfl
@[simp] theorem State.msiJournal_ops (s : State) (j : JournalId) : (s.msiJournal j).ops = s.ops := by unfold State.msiJournal; split <;> rfl
@[simp] theorem State.msiJournal_dev (s : State) (j : JournalId) : (s.msiJournal j).dev = s.dev := by unfold State.msiJournal; split <;> rfl
@[simp] theorem State.msiJournal_log (s : State) (j : JournalId) : (s.msiJournal j).log = s.log := by unfold State.msiJournal; split <;> rfl
@[simp] theorem State.msiJournal_flash (s : State) (j : JournalId) : (s.msiJournal j).flash = s.flash := by unfold State.msiJournal; split <;> rfl
@[simp] theorem State.msiJournal_links (s : State) (j : JournalId) : (s.msiJournal j).links = s.links := by unfold State.msiJournal; split <;> rfl
@[simp] theorem State.msiJournal_keys (s : State) (j : JournalId) : (s.msiJournal j).keys = s.keys := by unfold State.msiJournal; split <;> rfl
@[simp] theorem State.msiJournal_savedBins (s : State) (j : JournalId) : (s.msiJournal j).savedBins = s.savedBins := by unfold State.msiJournal; split <;> rfl
@[simp] theorem State.msiJournal_images (s : State) (j : JournalId) : (s.msiJournal j).images = s.images := by unfold State.msiJournal; split <;> rfl
@[simp] theorem State.msiJournal_ptp (s : State) (j : JournalId) : (s.msiJournal j).ptp = s.ptp := by unfold State.msiJournal; split <;> rfl
@[simp] theorem State.msiJournal_answer (s : State) (j : JournalId) : (s.msiJournal j).answer = s.answer := by unfold State.msiJournal; split <;> rfl
@[simp] theorem State.msiJournal_turns (s : State) (j : JournalId) : (s.msiJournal j).turns = s.turns := by unfold State.msiJournal; split <;> rfl
@[simp] theorem State.msiJournal_tick (s : State) (j : JournalId) : (s.msiJournal j).tick = s.tick := by unfold State.msiJournal; split <;> rfl
@[simp] theorem State.msiJournal_fresh (s : State) (j : JournalId) : (s.msiJournal j).fresh = s.fresh := by unfold State.msiJournal; split <;> rfl

/-! ### Incidents -/

/-- t is s but for the memory, the registers of the log and its records, the messages to the host and its cores, what holds writes back, and the last number given out. -/
def State.LogOf (s t : State) : Prop :=
  ∃ cols' mem' dev' log' links' msix' fresh', t = { s with cols := cols', mem := mem', dev := dev', log := log', links := links', msix := msix', fresh := fresh' }

theorem State.LogOf.refl (s : State) : s.LogOf s := ⟨_, _, _, _, _, _, _, rfl⟩

theorem State.LogOf.trans {s t u : State} (h : s.LogOf t) (k : t.LogOf u) : s.LogOf u := by
  obtain ⟨_, _, _, _, _, _, _, rfl⟩ := h; obtain ⟨_, _, _, _, _, _, _, rfl⟩ := k; exact ⟨_, _, _, _, _, _, _, rfl⟩

/-- A list worked through, each entry within these fields. -/
theorem State.LogOf.foldl {α : Type} {f : State → α → State} (h : ∀ (t : State) x, t.LogOf (f t x)) (l : List α) (s : State) :
    s.LogOf (l.foldl f s) := by
  induction l generalizing s with
  | nil => exact .refl s
  | cons x r ih => exact (h s x).trans (ih _)

theorem State.LogOf.g {s t : State} (h : s.LogOf t) : t.g = s.g := by obtain ⟨_, _, _, _, _, _, _, rfl⟩ := h; rfl
theorem State.LogOf.others {s t : State} (h : s.LogOf t) : t.others = s.others := by obtain ⟨_, _, _, _, _, _, _, rfl⟩ := h; rfl
theorem State.LogOf.teams {s t : State} (h : s.LogOf t) : t.teams = s.teams := by obtain ⟨_, _, _, _, _, _, _, rfl⟩ := h; rfl
theorem State.LogOf.grids {s t : State} (h : s.LogOf t) : t.grids = s.grids := by obtain ⟨_, _, _, _, _, _, _, rfl⟩ := h; rfl
theorem State.LogOf.cores {s t : State} (h : s.LogOf t) : t.cores = s.cores := by obtain ⟨_, _, _, _, _, _, _, rfl⟩ := h; rfl
theorem State.LogOf.ctxs {s t : State} (h : s.LogOf t) : t.ctxs = s.ctxs := by obtain ⟨_, _, _, _, _, _, _, rfl⟩ := h; rfl
theorem State.LogOf.jrns {s t : State} (h : s.LogOf t) : t.jrns = s.jrns := by obtain ⟨_, _, _, _, _, _, _, rfl⟩ := h; rfl
theorem State.LogOf.objs {s t : State} (h : s.LogOf t) : t.objs = s.objs := by obtain ⟨_, _, _, _, _, _, _, rfl⟩ := h; rfl
theorem State.LogOf.msgs {s t : State} (h : s.LogOf t) : t.msgs = s.msgs := by obtain ⟨_, _, _, _, _, _, _, rfl⟩ := h; rfl
theorem State.LogOf.ops {s t : State} (h : s.LogOf t) : t.ops = s.ops := by obtain ⟨_, _, _, _, _, _, _, rfl⟩ := h; rfl
theorem State.LogOf.flash {s t : State} (h : s.LogOf t) : t.flash = s.flash := by obtain ⟨_, _, _, _, _, _, _, rfl⟩ := h; rfl
theorem State.LogOf.keys {s t : State} (h : s.LogOf t) : t.keys = s.keys := by obtain ⟨_, _, _, _, _, _, _, rfl⟩ := h; rfl
theorem State.LogOf.savedBins {s t : State} (h : s.LogOf t) : t.savedBins = s.savedBins := by obtain ⟨_, _, _, _, _, _, _, rfl⟩ := h; rfl
theorem State.LogOf.images {s t : State} (h : s.LogOf t) : t.images = s.images := by obtain ⟨_, _, _, _, _, _, _, rfl⟩ := h; rfl
theorem State.LogOf.ptp {s t : State} (h : s.LogOf t) : t.ptp = s.ptp := by obtain ⟨_, _, _, _, _, _, _, rfl⟩ := h; rfl
theorem State.LogOf.answer {s t : State} (h : s.LogOf t) : t.answer = s.answer := by obtain ⟨_, _, _, _, _, _, _, rfl⟩ := h; rfl
theorem State.LogOf.turns {s t : State} (h : s.LogOf t) : t.turns = s.turns := by obtain ⟨_, _, _, _, _, _, _, rfl⟩ := h; rfl
theorem State.LogOf.tick {s t : State} (h : s.LogOf t) : t.tick = s.tick := by obtain ⟨_, _, _, _, _, _, _, rfl⟩ := h; rfl

theorem State.MemOf.logOf {s t : State} (h : s.MemOf t) : s.LogOf t := by
  obtain ⟨_, _, rfl⟩ := h; exact ⟨_, _, _, _, _, _, _, rfl⟩

theorem State.logged_logOf (s : State) (i : Incident) : s.LogOf (s.logged i) := by
  unfold State.logged; dsimp only
  repeat' split
  all_goals exact ⟨_, _, _, _, _, _, _, rfl⟩

theorem State.logWrite_logOf (s : State) (r : LogRec) : s.LogOf (s.logWrite r) := by
  unfold State.logWrite; dsimp only
  generalize hu : s.physWrite _ _ = u
  have h : s.LogOf u := hu ▸ (State.storeRunBy_memOf ..).logOf
  split
  · exact h.trans (State.LogOf.trans ⟨_, _, _, _, _, _, _, rfl⟩ (State.logged_logOf _ _))
  · exact h.trans ⟨_, _, _, _, _, _, _, rfl⟩

/-- A place kept changes what holds writes back alone. -/
theorem State.devKeep_logOf (s : State) (pa len : Nat) : s.LogOf (s.devKeep pa len) := by
  refine .foldl (fun t l => ?_) _ s
  split
  · exact ⟨_, _, _, _, _, _, _, rfl⟩
  · exact .refl t

theorem State.logDrain_logOf (k : Nat) (s : State) : s.LogOf (State.logDrain k s) := by
  induction k generalizing s with
  | zero => exact .refl s
  | succ k ih =>
    unfold State.logDrain; split
    · split
      · exact .refl s
      · split
        · refine State.LogOf.trans ?_ (State.LogOf.trans (State.logWrite_logOf _ _) (ih _))
          exact ⟨_, _, _, _, _, _, _, rfl⟩
        · exact s.devKeep_logOf ..
    · exact .refl s

theorem State.logAppend_logOf (s : State) (r : LogRec) : s.LogOf (s.logAppend r) := by
  unfold State.logAppend; dsimp only
  refine State.LogOf.trans ?_ (State.logDrain_logOf _ _)
  repeat' split
  all_goals exact ⟨_, _, _, _, _, _, _, rfl⟩

@[simp] theorem State.logWrite_g (s : State) (r : LogRec) : (s.logWrite r).g = s.g := (s.logWrite_logOf r).g
@[simp] theorem State.logWrite_others (s : State) (r : LogRec) : (s.logWrite r).others = s.others := (s.logWrite_logOf r).others
@[simp] theorem State.logWrite_teams (s : State) (r : LogRec) : (s.logWrite r).teams = s.teams := (s.logWrite_logOf r).teams
@[simp] theorem State.logWrite_grids (s : State) (r : LogRec) : (s.logWrite r).grids = s.grids := (s.logWrite_logOf r).grids
@[simp] theorem State.logWrite_cores (s : State) (r : LogRec) : (s.logWrite r).cores = s.cores := (s.logWrite_logOf r).cores
@[simp] theorem State.logWrite_ctxs (s : State) (r : LogRec) : (s.logWrite r).ctxs = s.ctxs := (s.logWrite_logOf r).ctxs
@[simp] theorem State.logWrite_jrns (s : State) (r : LogRec) : (s.logWrite r).jrns = s.jrns := (s.logWrite_logOf r).jrns
@[simp] theorem State.logWrite_objs (s : State) (r : LogRec) : (s.logWrite r).objs = s.objs := (s.logWrite_logOf r).objs
@[simp] theorem State.logWrite_msgs (s : State) (r : LogRec) : (s.logWrite r).msgs = s.msgs := (s.logWrite_logOf r).msgs
@[simp] theorem State.logWrite_ops (s : State) (r : LogRec) : (s.logWrite r).ops = s.ops := (s.logWrite_logOf r).ops
@[simp] theorem State.logWrite_flash (s : State) (r : LogRec) : (s.logWrite r).flash = s.flash := (s.logWrite_logOf r).flash
@[simp] theorem State.logWrite_keys (s : State) (r : LogRec) : (s.logWrite r).keys = s.keys := (s.logWrite_logOf r).keys
@[simp] theorem State.logWrite_savedBins (s : State) (r : LogRec) : (s.logWrite r).savedBins = s.savedBins := (s.logWrite_logOf r).savedBins
@[simp] theorem State.logWrite_images (s : State) (r : LogRec) : (s.logWrite r).images = s.images := (s.logWrite_logOf r).images
@[simp] theorem State.logWrite_ptp (s : State) (r : LogRec) : (s.logWrite r).ptp = s.ptp := (s.logWrite_logOf r).ptp
@[simp] theorem State.logWrite_answer (s : State) (r : LogRec) : (s.logWrite r).answer = s.answer := (s.logWrite_logOf r).answer
@[simp] theorem State.logWrite_turns (s : State) (r : LogRec) : (s.logWrite r).turns = s.turns := (s.logWrite_logOf r).turns
@[simp] theorem State.logWrite_tick (s : State) (r : LogRec) : (s.logWrite r).tick = s.tick := (s.logWrite_logOf r).tick

@[simp] theorem State.devKeep_g (s : State) (pa len : Nat) : (s.devKeep pa len).g = s.g := (s.devKeep_logOf pa len).g
@[simp] theorem State.devKeep_others (s : State) (pa len : Nat) : (s.devKeep pa len).others = s.others := (s.devKeep_logOf pa len).others
@[simp] theorem State.devKeep_teams (s : State) (pa len : Nat) : (s.devKeep pa len).teams = s.teams := (s.devKeep_logOf pa len).teams
@[simp] theorem State.devKeep_grids (s : State) (pa len : Nat) : (s.devKeep pa len).grids = s.grids := (s.devKeep_logOf pa len).grids
@[simp] theorem State.devKeep_cores (s : State) (pa len : Nat) : (s.devKeep pa len).cores = s.cores := (s.devKeep_logOf pa len).cores
@[simp] theorem State.devKeep_ctxs (s : State) (pa len : Nat) : (s.devKeep pa len).ctxs = s.ctxs := (s.devKeep_logOf pa len).ctxs
@[simp] theorem State.devKeep_jrns (s : State) (pa len : Nat) : (s.devKeep pa len).jrns = s.jrns := (s.devKeep_logOf pa len).jrns
@[simp] theorem State.devKeep_objs (s : State) (pa len : Nat) : (s.devKeep pa len).objs = s.objs := (s.devKeep_logOf pa len).objs
@[simp] theorem State.devKeep_msgs (s : State) (pa len : Nat) : (s.devKeep pa len).msgs = s.msgs := (s.devKeep_logOf pa len).msgs
@[simp] theorem State.devKeep_ops (s : State) (pa len : Nat) : (s.devKeep pa len).ops = s.ops := (s.devKeep_logOf pa len).ops
@[simp] theorem State.devKeep_flash (s : State) (pa len : Nat) : (s.devKeep pa len).flash = s.flash := (s.devKeep_logOf pa len).flash
@[simp] theorem State.devKeep_keys (s : State) (pa len : Nat) : (s.devKeep pa len).keys = s.keys := (s.devKeep_logOf pa len).keys
@[simp] theorem State.devKeep_savedBins (s : State) (pa len : Nat) : (s.devKeep pa len).savedBins = s.savedBins := (s.devKeep_logOf pa len).savedBins
@[simp] theorem State.devKeep_images (s : State) (pa len : Nat) : (s.devKeep pa len).images = s.images := (s.devKeep_logOf pa len).images
@[simp] theorem State.devKeep_ptp (s : State) (pa len : Nat) : (s.devKeep pa len).ptp = s.ptp := (s.devKeep_logOf pa len).ptp
@[simp] theorem State.devKeep_answer (s : State) (pa len : Nat) : (s.devKeep pa len).answer = s.answer := (s.devKeep_logOf pa len).answer
@[simp] theorem State.devKeep_turns (s : State) (pa len : Nat) : (s.devKeep pa len).turns = s.turns := (s.devKeep_logOf pa len).turns
@[simp] theorem State.devKeep_tick (s : State) (pa len : Nat) : (s.devKeep pa len).tick = s.tick := (s.devKeep_logOf pa len).tick

@[simp] theorem State.logDrain_g (k : Nat) (s : State) : (State.logDrain k s).g = s.g := (State.logDrain_logOf k s).g
@[simp] theorem State.logDrain_others (k : Nat) (s : State) : (State.logDrain k s).others = s.others := (State.logDrain_logOf k s).others
@[simp] theorem State.logDrain_teams (k : Nat) (s : State) : (State.logDrain k s).teams = s.teams := (State.logDrain_logOf k s).teams
@[simp] theorem State.logDrain_grids (k : Nat) (s : State) : (State.logDrain k s).grids = s.grids := (State.logDrain_logOf k s).grids
@[simp] theorem State.logDrain_cores (k : Nat) (s : State) : (State.logDrain k s).cores = s.cores := (State.logDrain_logOf k s).cores
@[simp] theorem State.logDrain_ctxs (k : Nat) (s : State) : (State.logDrain k s).ctxs = s.ctxs := (State.logDrain_logOf k s).ctxs
@[simp] theorem State.logDrain_jrns (k : Nat) (s : State) : (State.logDrain k s).jrns = s.jrns := (State.logDrain_logOf k s).jrns
@[simp] theorem State.logDrain_objs (k : Nat) (s : State) : (State.logDrain k s).objs = s.objs := (State.logDrain_logOf k s).objs
@[simp] theorem State.logDrain_msgs (k : Nat) (s : State) : (State.logDrain k s).msgs = s.msgs := (State.logDrain_logOf k s).msgs
@[simp] theorem State.logDrain_ops (k : Nat) (s : State) : (State.logDrain k s).ops = s.ops := (State.logDrain_logOf k s).ops
@[simp] theorem State.logDrain_flash (k : Nat) (s : State) : (State.logDrain k s).flash = s.flash := (State.logDrain_logOf k s).flash
@[simp] theorem State.logDrain_keys (k : Nat) (s : State) : (State.logDrain k s).keys = s.keys := (State.logDrain_logOf k s).keys
@[simp] theorem State.logDrain_savedBins (k : Nat) (s : State) : (State.logDrain k s).savedBins = s.savedBins := (State.logDrain_logOf k s).savedBins
@[simp] theorem State.logDrain_images (k : Nat) (s : State) : (State.logDrain k s).images = s.images := (State.logDrain_logOf k s).images
@[simp] theorem State.logDrain_ptp (k : Nat) (s : State) : (State.logDrain k s).ptp = s.ptp := (State.logDrain_logOf k s).ptp
@[simp] theorem State.logDrain_answer (k : Nat) (s : State) : (State.logDrain k s).answer = s.answer := (State.logDrain_logOf k s).answer
@[simp] theorem State.logDrain_turns (k : Nat) (s : State) : (State.logDrain k s).turns = s.turns := (State.logDrain_logOf k s).turns
@[simp] theorem State.logDrain_tick (k : Nat) (s : State) : (State.logDrain k s).tick = s.tick := (State.logDrain_logOf k s).tick

@[simp] theorem State.countMerged_g (s : State) (cls code col : Nat) : (s.countMerged cls code col).g = s.g := rfl
@[simp] theorem State.countMerged_others (s : State) (cls code col : Nat) : (s.countMerged cls code col).others = s.others := rfl
@[simp] theorem State.countMerged_teams (s : State) (cls code col : Nat) : (s.countMerged cls code col).teams = s.teams := rfl
@[simp] theorem State.countMerged_grids (s : State) (cls code col : Nat) : (s.countMerged cls code col).grids = s.grids := rfl
@[simp] theorem State.countMerged_cores (s : State) (cls code col : Nat) : (s.countMerged cls code col).cores = s.cores := rfl
@[simp] theorem State.countMerged_cols (s : State) (cls code col : Nat) : (s.countMerged cls code col).cols = s.cols := rfl
@[simp] theorem State.countMerged_ctxs (s : State) (cls code col : Nat) : (s.countMerged cls code col).ctxs = s.ctxs := rfl
@[simp] theorem State.countMerged_jrns (s : State) (cls code col : Nat) : (s.countMerged cls code col).jrns = s.jrns := rfl
@[simp] theorem State.countMerged_mem (s : State) (cls code col : Nat) : (s.countMerged cls code col).mem = s.mem := rfl
@[simp] theorem State.countMerged_objs (s : State) (cls code col : Nat) : (s.countMerged cls code col).objs = s.objs := rfl
@[simp] theorem State.countMerged_msgs (s : State) (cls code col : Nat) : (s.countMerged cls code col).msgs = s.msgs := rfl
@[simp] theorem State.countMerged_ops (s : State) (cls code col : Nat) : (s.countMerged cls code col).ops = s.ops := rfl
@[simp] theorem State.countMerged_flash (s : State) (cls code col : Nat) : (s.countMerged cls code col).flash = s.flash := rfl
@[simp] theorem State.countMerged_links (s : State) (cls code col : Nat) : (s.countMerged cls code col).links = s.links := rfl
@[simp] theorem State.countMerged_keys (s : State) (cls code col : Nat) : (s.countMerged cls code col).keys = s.keys := rfl
@[simp] theorem State.countMerged_savedBins (s : State) (cls code col : Nat) : (s.countMerged cls code col).savedBins = s.savedBins := rfl
@[simp] theorem State.countMerged_images (s : State) (cls code col : Nat) : (s.countMerged cls code col).images = s.images := rfl
@[simp] theorem State.countMerged_ptp (s : State) (cls code col : Nat) : (s.countMerged cls code col).ptp = s.ptp := rfl
@[simp] theorem State.countMerged_msix (s : State) (cls code col : Nat) : (s.countMerged cls code col).msix = s.msix := rfl
@[simp] theorem State.countMerged_answer (s : State) (cls code col : Nat) : (s.countMerged cls code col).answer = s.answer := rfl
@[simp] theorem State.countMerged_turns (s : State) (cls code col : Nat) : (s.countMerged cls code col).turns = s.turns := rfl
@[simp] theorem State.countMerged_tick (s : State) (cls code col : Nat) : (s.countMerged cls code col).tick = s.tick := rfl
@[simp] theorem State.countMerged_fresh (s : State) (cls code col : Nat) : (s.countMerged cls code col).fresh = s.fresh := rfl

@[simp] theorem State.countSeen_g (s : State) (i : Incident) : (s.countSeen i).g = s.g := rfl
@[simp] theorem State.countSeen_others (s : State) (i : Incident) : (s.countSeen i).others = s.others := rfl
@[simp] theorem State.countSeen_teams (s : State) (i : Incident) : (s.countSeen i).teams = s.teams := rfl
@[simp] theorem State.countSeen_grids (s : State) (i : Incident) : (s.countSeen i).grids = s.grids := rfl
@[simp] theorem State.countSeen_cores (s : State) (i : Incident) : (s.countSeen i).cores = s.cores := rfl
@[simp] theorem State.countSeen_cols (s : State) (i : Incident) : (s.countSeen i).cols = s.cols := rfl
@[simp] theorem State.countSeen_ctxs (s : State) (i : Incident) : (s.countSeen i).ctxs = s.ctxs := rfl
@[simp] theorem State.countSeen_jrns (s : State) (i : Incident) : (s.countSeen i).jrns = s.jrns := rfl
@[simp] theorem State.countSeen_mem (s : State) (i : Incident) : (s.countSeen i).mem = s.mem := rfl
@[simp] theorem State.countSeen_objs (s : State) (i : Incident) : (s.countSeen i).objs = s.objs := rfl
@[simp] theorem State.countSeen_msgs (s : State) (i : Incident) : (s.countSeen i).msgs = s.msgs := rfl
@[simp] theorem State.countSeen_ops (s : State) (i : Incident) : (s.countSeen i).ops = s.ops := rfl
@[simp] theorem State.countSeen_dev (s : State) (i : Incident) : (s.countSeen i).dev = s.dev := rfl
@[simp] theorem State.countSeen_flash (s : State) (i : Incident) : (s.countSeen i).flash = s.flash := rfl
@[simp] theorem State.countSeen_links (s : State) (i : Incident) : (s.countSeen i).links = s.links := rfl
@[simp] theorem State.countSeen_keys (s : State) (i : Incident) : (s.countSeen i).keys = s.keys := rfl
@[simp] theorem State.countSeen_savedBins (s : State) (i : Incident) : (s.countSeen i).savedBins = s.savedBins := rfl
@[simp] theorem State.countSeen_images (s : State) (i : Incident) : (s.countSeen i).images = s.images := rfl
@[simp] theorem State.countSeen_ptp (s : State) (i : Incident) : (s.countSeen i).ptp = s.ptp := rfl
@[simp] theorem State.countSeen_msix (s : State) (i : Incident) : (s.countSeen i).msix = s.msix := rfl
@[simp] theorem State.countSeen_answer (s : State) (i : Incident) : (s.countSeen i).answer = s.answer := rfl
@[simp] theorem State.countSeen_turns (s : State) (i : Incident) : (s.countSeen i).turns = s.turns := rfl
@[simp] theorem State.countSeen_tick (s : State) (i : Incident) : (s.countSeen i).tick = s.tick := rfl
@[simp] theorem State.countSeen_fresh (s : State) (i : Incident) : (s.countSeen i).fresh = s.fresh := rfl

@[simp] theorem State.logAppend_g (s : State) (r : LogRec) : (s.logAppend r).g = s.g := (s.logAppend_logOf r).g
@[simp] theorem State.logAppend_others (s : State) (r : LogRec) : (s.logAppend r).others = s.others := (s.logAppend_logOf r).others
@[simp] theorem State.logAppend_teams (s : State) (r : LogRec) : (s.logAppend r).teams = s.teams := (s.logAppend_logOf r).teams
@[simp] theorem State.logAppend_grids (s : State) (r : LogRec) : (s.logAppend r).grids = s.grids := (s.logAppend_logOf r).grids
@[simp] theorem State.logAppend_cores (s : State) (r : LogRec) : (s.logAppend r).cores = s.cores := (s.logAppend_logOf r).cores
@[simp] theorem State.logAppend_ctxs (s : State) (r : LogRec) : (s.logAppend r).ctxs = s.ctxs := (s.logAppend_logOf r).ctxs
@[simp] theorem State.logAppend_jrns (s : State) (r : LogRec) : (s.logAppend r).jrns = s.jrns := (s.logAppend_logOf r).jrns
@[simp] theorem State.logAppend_objs (s : State) (r : LogRec) : (s.logAppend r).objs = s.objs := (s.logAppend_logOf r).objs
@[simp] theorem State.logAppend_msgs (s : State) (r : LogRec) : (s.logAppend r).msgs = s.msgs := (s.logAppend_logOf r).msgs
@[simp] theorem State.logAppend_ops (s : State) (r : LogRec) : (s.logAppend r).ops = s.ops := (s.logAppend_logOf r).ops
@[simp] theorem State.logAppend_flash (s : State) (r : LogRec) : (s.logAppend r).flash = s.flash := (s.logAppend_logOf r).flash
@[simp] theorem State.logAppend_keys (s : State) (r : LogRec) : (s.logAppend r).keys = s.keys := (s.logAppend_logOf r).keys
@[simp] theorem State.logAppend_savedBins (s : State) (r : LogRec) : (s.logAppend r).savedBins = s.savedBins := (s.logAppend_logOf r).savedBins
@[simp] theorem State.logAppend_images (s : State) (r : LogRec) : (s.logAppend r).images = s.images := (s.logAppend_logOf r).images
@[simp] theorem State.logAppend_ptp (s : State) (r : LogRec) : (s.logAppend r).ptp = s.ptp := (s.logAppend_logOf r).ptp
@[simp] theorem State.logAppend_answer (s : State) (r : LogRec) : (s.logAppend r).answer = s.answer := (s.logAppend_logOf r).answer
@[simp] theorem State.logAppend_turns (s : State) (r : LogRec) : (s.logAppend r).turns = s.turns := (s.logAppend_logOf r).turns
@[simp] theorem State.logAppend_tick (s : State) (r : LogRec) : (s.logAppend r).tick = s.tick := (s.logAppend_logOf r).tick

/-- t is s but for what an incident may change: besides the log and memory the rings of the contexts and the journals. -/
def State.ReportOf (s t : State) : Prop :=
  ∃ cols' ctxs' jrns' mem' dev' log' links' msix' fresh', t = { s with cols := cols', ctxs := ctxs', jrns := jrns', mem := mem', dev := dev', log := log', links := links', msix := msix', fresh := fresh' }

theorem State.ReportOf.refl (s : State) : s.ReportOf s := ⟨_, _, _, _, _, _, _, _, _, rfl⟩

theorem State.ReportOf.trans {s t u : State} (h : s.ReportOf t) (k : t.ReportOf u) : s.ReportOf u := by
  obtain ⟨_, _, _, _, _, _, _, _, _, rfl⟩ := h; obtain ⟨_, _, _, _, _, _, _, _, _, rfl⟩ := k; exact ⟨_, _, _, _, _, _, _, _, _, rfl⟩

/-- A list worked through, each entry within these fields. -/
theorem State.ReportOf.foldl {α : Type} {f : State → α → State} (h : ∀ (t : State) x, t.ReportOf (f t x)) (l : List α) (s : State) :
    s.ReportOf (l.foldl f s) := by
  induction l generalizing s with
  | nil => exact .refl s
  | cons x r ih => exact (h s x).trans (ih _)

theorem State.ReportOf.g {s t : State} (h : s.ReportOf t) : t.g = s.g := by obtain ⟨_, _, _, _, _, _, _, _, _, rfl⟩ := h; rfl
theorem State.ReportOf.others {s t : State} (h : s.ReportOf t) : t.others = s.others := by obtain ⟨_, _, _, _, _, _, _, _, _, rfl⟩ := h; rfl
theorem State.ReportOf.teams {s t : State} (h : s.ReportOf t) : t.teams = s.teams := by obtain ⟨_, _, _, _, _, _, _, _, _, rfl⟩ := h; rfl
theorem State.ReportOf.grids {s t : State} (h : s.ReportOf t) : t.grids = s.grids := by obtain ⟨_, _, _, _, _, _, _, _, _, rfl⟩ := h; rfl
theorem State.ReportOf.cores {s t : State} (h : s.ReportOf t) : t.cores = s.cores := by obtain ⟨_, _, _, _, _, _, _, _, _, rfl⟩ := h; rfl
theorem State.ReportOf.objs {s t : State} (h : s.ReportOf t) : t.objs = s.objs := by obtain ⟨_, _, _, _, _, _, _, _, _, rfl⟩ := h; rfl
theorem State.ReportOf.msgs {s t : State} (h : s.ReportOf t) : t.msgs = s.msgs := by obtain ⟨_, _, _, _, _, _, _, _, _, rfl⟩ := h; rfl
theorem State.ReportOf.ops {s t : State} (h : s.ReportOf t) : t.ops = s.ops := by obtain ⟨_, _, _, _, _, _, _, _, _, rfl⟩ := h; rfl
theorem State.ReportOf.flash {s t : State} (h : s.ReportOf t) : t.flash = s.flash := by obtain ⟨_, _, _, _, _, _, _, _, _, rfl⟩ := h; rfl
theorem State.ReportOf.keys {s t : State} (h : s.ReportOf t) : t.keys = s.keys := by obtain ⟨_, _, _, _, _, _, _, _, _, rfl⟩ := h; rfl
theorem State.ReportOf.savedBins {s t : State} (h : s.ReportOf t) : t.savedBins = s.savedBins := by obtain ⟨_, _, _, _, _, _, _, _, _, rfl⟩ := h; rfl
theorem State.ReportOf.images {s t : State} (h : s.ReportOf t) : t.images = s.images := by obtain ⟨_, _, _, _, _, _, _, _, _, rfl⟩ := h; rfl
theorem State.ReportOf.ptp {s t : State} (h : s.ReportOf t) : t.ptp = s.ptp := by obtain ⟨_, _, _, _, _, _, _, _, _, rfl⟩ := h; rfl
theorem State.ReportOf.answer {s t : State} (h : s.ReportOf t) : t.answer = s.answer := by obtain ⟨_, _, _, _, _, _, _, _, _, rfl⟩ := h; rfl
theorem State.ReportOf.turns {s t : State} (h : s.ReportOf t) : t.turns = s.turns := by obtain ⟨_, _, _, _, _, _, _, _, _, rfl⟩ := h; rfl
theorem State.ReportOf.tick {s t : State} (h : s.ReportOf t) : t.tick = s.tick := by obtain ⟨_, _, _, _, _, _, _, _, _, rfl⟩ := h; rfl

theorem State.LogOf.reportOf {s t : State} (h : s.LogOf t) : s.ReportOf t := by
  obtain ⟨_, _, _, _, _, _, _, rfl⟩ := h; exact ⟨_, _, _, _, _, _, _, _, _, rfl⟩

theorem State.MemOf.reportOf {s t : State} (h : s.MemOf t) : s.ReportOf t := h.logOf.reportOf

theorem State.msiJournal_reportOf (s : State) (j : JournalId) : s.ReportOf (s.msiJournal j) := by
  unfold State.msiJournal; split
  · exact .refl s
  · exact ⟨_, _, _, _, _, _, _, _, _, rfl⟩

theorem State.modCtx_reportOf (s : State) (c : CtxId) (f : Ctx → Ctx) : s.ReportOf (s.modCtx c f) := ⟨_, _, _, _, _, _, _, _, _, rfl⟩

/-- Everything that a write of the machine for a context changes. -/
theorem State.devPerform_reportOf (s : State) (x : DevWrite) : s.ReportOf (s.devPerform x) := by
  unfold State.devPerform; dsimp only
  split
  · split
    · exact (State.storeRunBy_memOf ..).reportOf.trans (State.modCtx_reportOf ..)
    · exact .refl s
  · split
    · exact (State.storeRunBy_memOf ..).reportOf.trans (State.msiJournal_reportOf ..)
    · exact (State.storeRunBy_memOf ..).reportOf

theorem State.devDrain_reportOf (k : Nat) (s : State) : s.ReportOf (State.devDrain k s) := by
  induction k generalizing s with
  | zero => exact .refl s
  | succ k ih =>
    unfold State.devDrain; split
    · exact .refl s
    · dsimp only; split
      · refine State.ReportOf.trans ?_ (State.ReportOf.trans (State.devPerform_reportOf _ _) (ih _))
        exact ⟨_, _, _, _, _, _, _, _, _, rfl⟩
      · exact (s.devKeep_logOf ..).reportOf

theorem State.devWrite_reportOf (s : State) (l : List DevWrite) : s.ReportOf (s.devWrite l) :=
  State.ReportOf.trans ⟨_, _, _, _, _, _, _, _, _, rfl⟩ (State.devDrain_reportOf _ _)

theorem State.publishCtx_reportOf (s : State) (c : CtxId) : s.ReportOf (s.publishCtx c) := s.devWrite_reportOf _

/-- Everything that an incident changes. -/
theorem State.report_reportOf (s : State) (i : Incident) : s.ReportOf (s.report i) := by
  unfold State.report; dsimp only
  split
  · exact ⟨_, _, _, _, _, _, _, _, _, rfl⟩
  · have log : ∀ j : Incident, s.ReportOf
        ((State.countSeen { s with log := { s.log with count := s.log.count + 1 } } j).logAppend (.incident j)) := fun j =>
      State.ReportOf.trans ⟨_, _, _, _, _, _, _, _, _, rfl⟩ (State.logAppend_logOf _ _).reportOf
    generalize hu : State.logAppend _ _ = u
    have hl : s.ReportOf u := hu ▸ log _
    split
    · split
      · exact hl
      · exact hl.trans (State.devWrite_reportOf ..)
    · exact hl

theorem State.reportAll_reportOf (is : List Incident) (s : State) : s.ReportOf (State.reportAll is s) := by
  induction is generalizing s with
  | nil => exact .refl s
  | cons i r ih => exact (s.report_reportOf i).trans (ih _)

theorem State.errorState_reportOf (s : State) (c : CtxId) : s.ReportOf (s.errorState c) :=
  (s.modCtx_reportOf ..).trans (State.publishCtx_reportOf ..)

@[simp] theorem State.devWrite_g (s : State) (l : List DevWrite) : (s.devWrite l).g = s.g := (s.devWrite_reportOf l).g
@[simp] theorem State.devWrite_others (s : State) (l : List DevWrite) : (s.devWrite l).others = s.others := (s.devWrite_reportOf l).others
@[simp] theorem State.devWrite_teams (s : State) (l : List DevWrite) : (s.devWrite l).teams = s.teams := (s.devWrite_reportOf l).teams
@[simp] theorem State.devWrite_grids (s : State) (l : List DevWrite) : (s.devWrite l).grids = s.grids := (s.devWrite_reportOf l).grids
@[simp] theorem State.devWrite_cores (s : State) (l : List DevWrite) : (s.devWrite l).cores = s.cores := (s.devWrite_reportOf l).cores
@[simp] theorem State.devWrite_objs (s : State) (l : List DevWrite) : (s.devWrite l).objs = s.objs := (s.devWrite_reportOf l).objs
@[simp] theorem State.devWrite_msgs (s : State) (l : List DevWrite) : (s.devWrite l).msgs = s.msgs := (s.devWrite_reportOf l).msgs
@[simp] theorem State.devWrite_ops (s : State) (l : List DevWrite) : (s.devWrite l).ops = s.ops := (s.devWrite_reportOf l).ops
@[simp] theorem State.devWrite_flash (s : State) (l : List DevWrite) : (s.devWrite l).flash = s.flash := (s.devWrite_reportOf l).flash
@[simp] theorem State.devWrite_keys (s : State) (l : List DevWrite) : (s.devWrite l).keys = s.keys := (s.devWrite_reportOf l).keys
@[simp] theorem State.devWrite_savedBins (s : State) (l : List DevWrite) : (s.devWrite l).savedBins = s.savedBins := (s.devWrite_reportOf l).savedBins
@[simp] theorem State.devWrite_images (s : State) (l : List DevWrite) : (s.devWrite l).images = s.images := (s.devWrite_reportOf l).images
@[simp] theorem State.devWrite_ptp (s : State) (l : List DevWrite) : (s.devWrite l).ptp = s.ptp := (s.devWrite_reportOf l).ptp
@[simp] theorem State.devWrite_answer (s : State) (l : List DevWrite) : (s.devWrite l).answer = s.answer := (s.devWrite_reportOf l).answer
@[simp] theorem State.devWrite_turns (s : State) (l : List DevWrite) : (s.devWrite l).turns = s.turns := (s.devWrite_reportOf l).turns
@[simp] theorem State.devWrite_tick (s : State) (l : List DevWrite) : (s.devWrite l).tick = s.tick := (s.devWrite_reportOf l).tick

@[simp] theorem State.publishCtx_g (s : State) (c : CtxId) : (s.publishCtx c).g = s.g := (s.publishCtx_reportOf c).g
@[simp] theorem State.publishCtx_others (s : State) (c : CtxId) : (s.publishCtx c).others = s.others := (s.publishCtx_reportOf c).others
@[simp] theorem State.publishCtx_teams (s : State) (c : CtxId) : (s.publishCtx c).teams = s.teams := (s.publishCtx_reportOf c).teams
@[simp] theorem State.publishCtx_grids (s : State) (c : CtxId) : (s.publishCtx c).grids = s.grids := (s.publishCtx_reportOf c).grids
@[simp] theorem State.publishCtx_cores (s : State) (c : CtxId) : (s.publishCtx c).cores = s.cores := (s.publishCtx_reportOf c).cores
@[simp] theorem State.publishCtx_objs (s : State) (c : CtxId) : (s.publishCtx c).objs = s.objs := (s.publishCtx_reportOf c).objs
@[simp] theorem State.publishCtx_msgs (s : State) (c : CtxId) : (s.publishCtx c).msgs = s.msgs := (s.publishCtx_reportOf c).msgs
@[simp] theorem State.publishCtx_ops (s : State) (c : CtxId) : (s.publishCtx c).ops = s.ops := (s.publishCtx_reportOf c).ops
@[simp] theorem State.publishCtx_flash (s : State) (c : CtxId) : (s.publishCtx c).flash = s.flash := (s.publishCtx_reportOf c).flash
@[simp] theorem State.publishCtx_keys (s : State) (c : CtxId) : (s.publishCtx c).keys = s.keys := (s.publishCtx_reportOf c).keys
@[simp] theorem State.publishCtx_savedBins (s : State) (c : CtxId) : (s.publishCtx c).savedBins = s.savedBins := (s.publishCtx_reportOf c).savedBins
@[simp] theorem State.publishCtx_images (s : State) (c : CtxId) : (s.publishCtx c).images = s.images := (s.publishCtx_reportOf c).images
@[simp] theorem State.publishCtx_ptp (s : State) (c : CtxId) : (s.publishCtx c).ptp = s.ptp := (s.publishCtx_reportOf c).ptp
@[simp] theorem State.publishCtx_answer (s : State) (c : CtxId) : (s.publishCtx c).answer = s.answer := (s.publishCtx_reportOf c).answer
@[simp] theorem State.publishCtx_turns (s : State) (c : CtxId) : (s.publishCtx c).turns = s.turns := (s.publishCtx_reportOf c).turns
@[simp] theorem State.publishCtx_tick (s : State) (c : CtxId) : (s.publishCtx c).tick = s.tick := (s.publishCtx_reportOf c).tick

@[simp] theorem State.report_g (s : State) (i : Incident) : (s.report i).g = s.g := (s.report_reportOf i).g
@[simp] theorem State.report_others (s : State) (i : Incident) : (s.report i).others = s.others := (s.report_reportOf i).others
@[simp] theorem State.report_teams (s : State) (i : Incident) : (s.report i).teams = s.teams := (s.report_reportOf i).teams
@[simp] theorem State.report_grids (s : State) (i : Incident) : (s.report i).grids = s.grids := (s.report_reportOf i).grids
@[simp] theorem State.report_cores (s : State) (i : Incident) : (s.report i).cores = s.cores := (s.report_reportOf i).cores
@[simp] theorem State.report_objs (s : State) (i : Incident) : (s.report i).objs = s.objs := (s.report_reportOf i).objs
@[simp] theorem State.report_msgs (s : State) (i : Incident) : (s.report i).msgs = s.msgs := (s.report_reportOf i).msgs
@[simp] theorem State.report_ops (s : State) (i : Incident) : (s.report i).ops = s.ops := (s.report_reportOf i).ops
@[simp] theorem State.report_flash (s : State) (i : Incident) : (s.report i).flash = s.flash := (s.report_reportOf i).flash
@[simp] theorem State.report_keys (s : State) (i : Incident) : (s.report i).keys = s.keys := (s.report_reportOf i).keys
@[simp] theorem State.report_savedBins (s : State) (i : Incident) : (s.report i).savedBins = s.savedBins := (s.report_reportOf i).savedBins
@[simp] theorem State.report_images (s : State) (i : Incident) : (s.report i).images = s.images := (s.report_reportOf i).images
@[simp] theorem State.report_ptp (s : State) (i : Incident) : (s.report i).ptp = s.ptp := (s.report_reportOf i).ptp
@[simp] theorem State.report_answer (s : State) (i : Incident) : (s.report i).answer = s.answer := (s.report_reportOf i).answer
@[simp] theorem State.report_turns (s : State) (i : Incident) : (s.report i).turns = s.turns := (s.report_reportOf i).turns
@[simp] theorem State.report_tick (s : State) (i : Incident) : (s.report i).tick = s.tick := (s.report_reportOf i).tick

@[simp] theorem State.reportAll_g (is : List Incident) (s : State) : (State.reportAll is s).g = s.g := (State.reportAll_reportOf is s).g
@[simp] theorem State.reportAll_others (is : List Incident) (s : State) : (State.reportAll is s).others = s.others := (State.reportAll_reportOf is s).others
@[simp] theorem State.reportAll_teams (is : List Incident) (s : State) : (State.reportAll is s).teams = s.teams := (State.reportAll_reportOf is s).teams
@[simp] theorem State.reportAll_grids (is : List Incident) (s : State) : (State.reportAll is s).grids = s.grids := (State.reportAll_reportOf is s).grids
@[simp] theorem State.reportAll_cores (is : List Incident) (s : State) : (State.reportAll is s).cores = s.cores := (State.reportAll_reportOf is s).cores
@[simp] theorem State.reportAll_objs (is : List Incident) (s : State) : (State.reportAll is s).objs = s.objs := (State.reportAll_reportOf is s).objs
@[simp] theorem State.reportAll_msgs (is : List Incident) (s : State) : (State.reportAll is s).msgs = s.msgs := (State.reportAll_reportOf is s).msgs
@[simp] theorem State.reportAll_ops (is : List Incident) (s : State) : (State.reportAll is s).ops = s.ops := (State.reportAll_reportOf is s).ops
@[simp] theorem State.reportAll_flash (is : List Incident) (s : State) : (State.reportAll is s).flash = s.flash := (State.reportAll_reportOf is s).flash
@[simp] theorem State.reportAll_keys (is : List Incident) (s : State) : (State.reportAll is s).keys = s.keys := (State.reportAll_reportOf is s).keys
@[simp] theorem State.reportAll_savedBins (is : List Incident) (s : State) : (State.reportAll is s).savedBins = s.savedBins := (State.reportAll_reportOf is s).savedBins
@[simp] theorem State.reportAll_images (is : List Incident) (s : State) : (State.reportAll is s).images = s.images := (State.reportAll_reportOf is s).images
@[simp] theorem State.reportAll_ptp (is : List Incident) (s : State) : (State.reportAll is s).ptp = s.ptp := (State.reportAll_reportOf is s).ptp
@[simp] theorem State.reportAll_answer (is : List Incident) (s : State) : (State.reportAll is s).answer = s.answer := (State.reportAll_reportOf is s).answer
@[simp] theorem State.reportAll_turns (is : List Incident) (s : State) : (State.reportAll is s).turns = s.turns := (State.reportAll_reportOf is s).turns
@[simp] theorem State.reportAll_tick (is : List Incident) (s : State) : (State.reportAll is s).tick = s.tick := (State.reportAll_reportOf is s).tick

@[simp] theorem State.errorState_g (s : State) (c : CtxId) : (s.errorState c).g = s.g := (s.errorState_reportOf c).g
@[simp] theorem State.errorState_others (s : State) (c : CtxId) : (s.errorState c).others = s.others := (s.errorState_reportOf c).others
@[simp] theorem State.errorState_teams (s : State) (c : CtxId) : (s.errorState c).teams = s.teams := (s.errorState_reportOf c).teams
@[simp] theorem State.errorState_grids (s : State) (c : CtxId) : (s.errorState c).grids = s.grids := (s.errorState_reportOf c).grids
@[simp] theorem State.errorState_cores (s : State) (c : CtxId) : (s.errorState c).cores = s.cores := (s.errorState_reportOf c).cores
@[simp] theorem State.errorState_objs (s : State) (c : CtxId) : (s.errorState c).objs = s.objs := (s.errorState_reportOf c).objs
@[simp] theorem State.errorState_msgs (s : State) (c : CtxId) : (s.errorState c).msgs = s.msgs := (s.errorState_reportOf c).msgs
@[simp] theorem State.errorState_ops (s : State) (c : CtxId) : (s.errorState c).ops = s.ops := (s.errorState_reportOf c).ops
@[simp] theorem State.errorState_flash (s : State) (c : CtxId) : (s.errorState c).flash = s.flash := (s.errorState_reportOf c).flash
@[simp] theorem State.errorState_keys (s : State) (c : CtxId) : (s.errorState c).keys = s.keys := (s.errorState_reportOf c).keys
@[simp] theorem State.errorState_savedBins (s : State) (c : CtxId) : (s.errorState c).savedBins = s.savedBins := (s.errorState_reportOf c).savedBins
@[simp] theorem State.errorState_images (s : State) (c : CtxId) : (s.errorState c).images = s.images := (s.errorState_reportOf c).images
@[simp] theorem State.errorState_ptp (s : State) (c : CtxId) : (s.errorState c).ptp = s.ptp := (s.errorState_reportOf c).ptp
@[simp] theorem State.errorState_answer (s : State) (c : CtxId) : (s.errorState c).answer = s.answer := (s.errorState_reportOf c).answer
@[simp] theorem State.errorState_turns (s : State) (c : CtxId) : (s.errorState c).turns = s.turns := (s.errorState_reportOf c).turns
@[simp] theorem State.errorState_tick (s : State) (c : CtxId) : (s.errorState c).tick = s.tick := (s.errorState_reportOf c).tick

/-! ### Updates of a group -/

@[simp] theorem Group.setS_core (g : Group) (r : SReg) (x : Word) : (g.setS r x).core = g.core := by unfold Group.setS; split <;> rfl
@[simp] theorem Group.setS_slot (g : Group) (r : SReg) (x : Word) : (g.setS r x).slot = g.slot := by unfold Group.setS; split <;> rfl
@[simp] theorem Group.setS_team (g : Group) (r : SReg) (x : Word) : (g.setS r x).team = g.team := by unfold Group.setS; split <;> rfl
@[simp] theorem Group.setS_index (g : Group) (r : SReg) (x : Word) : (g.setS r x).index = g.index := by unfold Group.setS; split <;> rfl
@[simp] theorem Group.setS_role (g : Group) (r : SReg) (x : Word) : (g.setS r x).role = g.role := by unfold Group.setS; split <;> rfl
@[simp] theorem Group.setS_vBud (g : Group) (r : SReg) (x : Word) : (g.setS r x).vBud = g.vBud := by unfold Group.setS; split <;> rfl
@[simp] theorem Group.setS_aBud (g : Group) (r : SReg) (x : Word) : (g.setS r x).aBud = g.aBud := by unfold Group.setS; split <;> rfl
@[simp] theorem Group.setS_p (g : Group) (r : SReg) (x : Word) : (g.setS r x).p = g.p := by unfold Group.setS; split <;> rfl
@[simp] theorem Group.setS_v (g : Group) (r : SReg) (x : Word) : (g.setS r x).v = g.v := by unfold Group.setS; split <;> rfl
@[simp] theorem Group.setS_a (g : Group) (r : SReg) (x : Word) : (g.setS r x).a = g.a := by unfold Group.setS; split <;> rfl
@[simp] theorem Group.setS_md (g : Group) (r : SReg) (x : Word) : (g.setS r x).md = g.md := by unfold Group.setS; split <;> rfl
@[simp] theorem Group.setS_fl (g : Group) (r : SReg) (x : Word) : (g.setS r x).fl = g.fl := by unfold Group.setS; split <;> rfl
@[simp] theorem Group.setS_pc (g : Group) (r : SReg) (x : Word) : (g.setS r x).pc = g.pc := by unfold Group.setS; split <;> rfl
@[simp] theorem Group.setS_live (g : Group) (r : SReg) (x : Word) : (g.setS r x).live = g.live := by unfold Group.setS; split <;> rfl
@[simp] theorem Group.setS_rs (g : Group) (r : SReg) (x : Word) : (g.setS r x).rs = g.rs := by unfold Group.setS; split <;> rfl
@[simp] theorem Group.setS_spilled (g : Group) (r : SReg) (x : Word) : (g.setS r x).spilled = g.spilled := by unfold Group.setS; split <;> rfl
@[simp] theorem Group.setS_spillBase (g : Group) (r : SReg) (x : Word) : (g.setS r x).spillBase = g.spillBase := by unfold Group.setS; split <;> rfl
@[simp] theorem Group.setS_hnd (g : Group) (r : SReg) (x : Word) : (g.setS r x).hnd = g.hnd := by unfold Group.setS; split <;> rfl
@[simp] theorem Group.setS_tcause (g : Group) (r : SReg) (x : Word) : (g.setS r x).tcause = g.tcause := by unfold Group.setS; split <;> rfl
@[simp] theorem Group.setS_taddr (g : Group) (r : SReg) (x : Word) : (g.setS r x).taddr = g.taddr := by unfold Group.setS; split <;> rfl
@[simp] theorem Group.setS_tmask (g : Group) (r : SReg) (x : Word) : (g.setS r x).tmask = g.tmask := by unfold Group.setS; split <;> rfl
@[simp] theorem Group.setS_tpc (g : Group) (r : SReg) (x : Word) : (g.setS r x).tpc = g.tpc := by unfold Group.setS; split <;> rfl
@[simp] theorem Group.setS_tstep (g : Group) (r : SReg) (x : Word) : (g.setS r x).tstep = g.tstep := by unfold Group.setS; split <;> rfl
@[simp] theorem Group.setS_tmd (g : Group) (r : SReg) (x : Word) : (g.setS r x).tmd = g.tmd := by unfold Group.setS; split <;> rfl
@[simp] theorem Group.setS_status (g : Group) (r : SReg) (x : Word) : (g.setS r x).status = g.status := by unfold Group.setS; split <;> rfl
@[simp] theorem Group.setS_glyph (g : Group) (r : SReg) (x : Word) : (g.setS r x).glyph = g.glyph := by unfold Group.setS; split <;> rfl
@[simp] theorem Group.setS_glyphResume (g : Group) (r : SReg) (x : Word) : (g.setS r x).glyphResume = g.glyphResume := by unfold Group.setS; split <;> rfl
@[simp] theorem Group.setS_firstFetch (g : Group) (r : SReg) (x : Word) : (g.setS r x).firstFetch = g.firstFetch := by unfold Group.setS; split <;> rfl
@[simp] theorem Group.setS_mmas (g : Group) (r : SReg) (x : Word) : (g.setS r x).mmas = g.mmas := by unfold Group.setS; split <;> rfl
@[simp] theorem Group.setS_unseen (g : Group) (r : SReg) (x : Word) : (g.setS r x).unseen = g.unseen := by unfold Group.setS; split <;> rfl
@[simp] theorem Group.setS_imprecise (g : Group) (r : SReg) (x : Word) : (g.setS r x).imprecise = g.imprecise := by unfold Group.setS; split <;> rfl
@[simp] theorem Group.setS_kept (g : Group) (r : SReg) (x : Word) : (g.setS r x).kept = g.kept := by unfold Group.setS; split <;> rfl
@[simp] theorem Group.setS_hcall (g : Group) (r : SReg) (x : Word) : (g.setS r x).hcall = g.hcall := by unfold Group.setS; split <;> rfl
@[simp] theorem Group.setS_alReads (g : Group) (r : SReg) (x : Word) : (g.setS r x).alReads = g.alReads := by unfold Group.setS; split <;> rfl
@[simp] theorem Group.setS_peerData (g : Group) (r : SReg) (x : Word) : (g.setS r x).peerData = g.peerData := by unfold Group.setS; split <;> rfl
@[simp] theorem Group.setS_peerFor (g : Group) (r : SReg) (x : Word) : (g.setS r x).peerFor = g.peerFor := by unfold Group.setS; split <;> rfl
@[simp] theorem Group.setS_peerOld (g : Group) (r : SReg) (x : Word) : (g.setS r x).peerOld = g.peerOld := by unfold Group.setS; split <;> rfl
@[simp] theorem Group.setS_atom (g : Group) (r : SReg) (x : Word) : (g.setS r x).atom = g.atom := by unfold Group.setS; split <;> rfl
@[simp] theorem Group.setS_split (g : Group) (r : SReg) (x : Word) : (g.setS r x).split = g.split := by unfold Group.setS; split <;> rfl
@[simp] theorem Group.setS_late (g : Group) (r : SReg) (x : Word) : (g.setS r x).late = g.late := by unfold Group.setS; split <;> rfl
@[simp] theorem Group.setS_defer (g : Group) (r : SReg) (x : Word) : (g.setS r x).defer = g.defer := by unfold Group.setS; split <;> rfl
@[simp] theorem Group.setS_fetched (g : Group) (r : SReg) (x : Word) : (g.setS r x).fetched = g.fetched := by unfold Group.setS; split <;> rfl
@[simp] theorem Group.setS_aged (g : Group) (r : SReg) (x : Word) : (g.setS r x).aged = g.aged := by unfold Group.setS; split <;> rfl
@[simp] theorem Group.setS_yieldHold (g : Group) (r : SReg) (x : Word) : (g.setS r x).yieldHold = g.yieldHold := by unfold Group.setS; split <;> rfl
@[simp] theorem Group.setS_lastIssue (g : Group) (r : SReg) (x : Word) : (g.setS r x).lastIssue = g.lastIssue := by unfold Group.setS; split <;> rfl

@[simp] theorem Group.setP_core (g : Group) (r : PReg) (m x : Word) : (g.setP r m x).core = g.core := by unfold Group.setP; split <;> rfl
@[simp] theorem Group.setP_slot (g : Group) (r : PReg) (m x : Word) : (g.setP r m x).slot = g.slot := by unfold Group.setP; split <;> rfl
@[simp] theorem Group.setP_team (g : Group) (r : PReg) (m x : Word) : (g.setP r m x).team = g.team := by unfold Group.setP; split <;> rfl
@[simp] theorem Group.setP_index (g : Group) (r : PReg) (m x : Word) : (g.setP r m x).index = g.index := by unfold Group.setP; split <;> rfl
@[simp] theorem Group.setP_role (g : Group) (r : PReg) (m x : Word) : (g.setP r m x).role = g.role := by unfold Group.setP; split <;> rfl
@[simp] theorem Group.setP_vBud (g : Group) (r : PReg) (m x : Word) : (g.setP r m x).vBud = g.vBud := by unfold Group.setP; split <;> rfl
@[simp] theorem Group.setP_aBud (g : Group) (r : PReg) (m x : Word) : (g.setP r m x).aBud = g.aBud := by unfold Group.setP; split <;> rfl
@[simp] theorem Group.setP_s (g : Group) (r : PReg) (m x : Word) : (g.setP r m x).s = g.s := by unfold Group.setP; split <;> rfl
@[simp] theorem Group.setP_v (g : Group) (r : PReg) (m x : Word) : (g.setP r m x).v = g.v := by unfold Group.setP; split <;> rfl
@[simp] theorem Group.setP_a (g : Group) (r : PReg) (m x : Word) : (g.setP r m x).a = g.a := by unfold Group.setP; split <;> rfl
@[simp] theorem Group.setP_md (g : Group) (r : PReg) (m x : Word) : (g.setP r m x).md = g.md := by unfold Group.setP; split <;> rfl
@[simp] theorem Group.setP_fl (g : Group) (r : PReg) (m x : Word) : (g.setP r m x).fl = g.fl := by unfold Group.setP; split <;> rfl
@[simp] theorem Group.setP_pc (g : Group) (r : PReg) (m x : Word) : (g.setP r m x).pc = g.pc := by unfold Group.setP; split <;> rfl
@[simp] theorem Group.setP_live (g : Group) (r : PReg) (m x : Word) : (g.setP r m x).live = g.live := by unfold Group.setP; split <;> rfl
@[simp] theorem Group.setP_rs (g : Group) (r : PReg) (m x : Word) : (g.setP r m x).rs = g.rs := by unfold Group.setP; split <;> rfl
@[simp] theorem Group.setP_spilled (g : Group) (r : PReg) (m x : Word) : (g.setP r m x).spilled = g.spilled := by unfold Group.setP; split <;> rfl
@[simp] theorem Group.setP_spillBase (g : Group) (r : PReg) (m x : Word) : (g.setP r m x).spillBase = g.spillBase := by unfold Group.setP; split <;> rfl
@[simp] theorem Group.setP_hnd (g : Group) (r : PReg) (m x : Word) : (g.setP r m x).hnd = g.hnd := by unfold Group.setP; split <;> rfl
@[simp] theorem Group.setP_tcause (g : Group) (r : PReg) (m x : Word) : (g.setP r m x).tcause = g.tcause := by unfold Group.setP; split <;> rfl
@[simp] theorem Group.setP_taddr (g : Group) (r : PReg) (m x : Word) : (g.setP r m x).taddr = g.taddr := by unfold Group.setP; split <;> rfl
@[simp] theorem Group.setP_tmask (g : Group) (r : PReg) (m x : Word) : (g.setP r m x).tmask = g.tmask := by unfold Group.setP; split <;> rfl
@[simp] theorem Group.setP_tpc (g : Group) (r : PReg) (m x : Word) : (g.setP r m x).tpc = g.tpc := by unfold Group.setP; split <;> rfl
@[simp] theorem Group.setP_tstep (g : Group) (r : PReg) (m x : Word) : (g.setP r m x).tstep = g.tstep := by unfold Group.setP; split <;> rfl
@[simp] theorem Group.setP_tmd (g : Group) (r : PReg) (m x : Word) : (g.setP r m x).tmd = g.tmd := by unfold Group.setP; split <;> rfl
@[simp] theorem Group.setP_status (g : Group) (r : PReg) (m x : Word) : (g.setP r m x).status = g.status := by unfold Group.setP; split <;> rfl
@[simp] theorem Group.setP_glyph (g : Group) (r : PReg) (m x : Word) : (g.setP r m x).glyph = g.glyph := by unfold Group.setP; split <;> rfl
@[simp] theorem Group.setP_glyphResume (g : Group) (r : PReg) (m x : Word) : (g.setP r m x).glyphResume = g.glyphResume := by unfold Group.setP; split <;> rfl
@[simp] theorem Group.setP_firstFetch (g : Group) (r : PReg) (m x : Word) : (g.setP r m x).firstFetch = g.firstFetch := by unfold Group.setP; split <;> rfl
@[simp] theorem Group.setP_mmas (g : Group) (r : PReg) (m x : Word) : (g.setP r m x).mmas = g.mmas := by unfold Group.setP; split <;> rfl
@[simp] theorem Group.setP_unseen (g : Group) (r : PReg) (m x : Word) : (g.setP r m x).unseen = g.unseen := by unfold Group.setP; split <;> rfl
@[simp] theorem Group.setP_imprecise (g : Group) (r : PReg) (m x : Word) : (g.setP r m x).imprecise = g.imprecise := by unfold Group.setP; split <;> rfl
@[simp] theorem Group.setP_kept (g : Group) (r : PReg) (m x : Word) : (g.setP r m x).kept = g.kept := by unfold Group.setP; split <;> rfl
@[simp] theorem Group.setP_hcall (g : Group) (r : PReg) (m x : Word) : (g.setP r m x).hcall = g.hcall := by unfold Group.setP; split <;> rfl
@[simp] theorem Group.setP_alReads (g : Group) (r : PReg) (m x : Word) : (g.setP r m x).alReads = g.alReads := by unfold Group.setP; split <;> rfl
@[simp] theorem Group.setP_peerData (g : Group) (r : PReg) (m x : Word) : (g.setP r m x).peerData = g.peerData := by unfold Group.setP; split <;> rfl
@[simp] theorem Group.setP_peerFor (g : Group) (r : PReg) (m x : Word) : (g.setP r m x).peerFor = g.peerFor := by unfold Group.setP; split <;> rfl
@[simp] theorem Group.setP_peerOld (g : Group) (r : PReg) (m x : Word) : (g.setP r m x).peerOld = g.peerOld := by unfold Group.setP; split <;> rfl
@[simp] theorem Group.setP_atom (g : Group) (r : PReg) (m x : Word) : (g.setP r m x).atom = g.atom := by unfold Group.setP; split <;> rfl
@[simp] theorem Group.setP_split (g : Group) (r : PReg) (m x : Word) : (g.setP r m x).split = g.split := by unfold Group.setP; split <;> rfl
@[simp] theorem Group.setP_late (g : Group) (r : PReg) (m x : Word) : (g.setP r m x).late = g.late := by unfold Group.setP; split <;> rfl
@[simp] theorem Group.setP_defer (g : Group) (r : PReg) (m x : Word) : (g.setP r m x).defer = g.defer := by unfold Group.setP; split <;> rfl
@[simp] theorem Group.setP_fetched (g : Group) (r : PReg) (m x : Word) : (g.setP r m x).fetched = g.fetched := by unfold Group.setP; split <;> rfl
@[simp] theorem Group.setP_aged (g : Group) (r : PReg) (m x : Word) : (g.setP r m x).aged = g.aged := by unfold Group.setP; split <;> rfl
@[simp] theorem Group.setP_yieldHold (g : Group) (r : PReg) (m x : Word) : (g.setP r m x).yieldHold = g.yieldHold := by unfold Group.setP; split <;> rfl
@[simp] theorem Group.setP_lastIssue (g : Group) (r : PReg) (m x : Word) : (g.setP r m x).lastIssue = g.lastIssue := by unfold Group.setP; split <;> rfl

@[simp] theorem Group.setV_core (g : Group) (i : Nat) (m : Word) (f : Nat → Word32) : (g.setV i m f).core = g.core := by unfold Group.setV; rfl
@[simp] theorem Group.setV_slot (g : Group) (i : Nat) (m : Word) (f : Nat → Word32) : (g.setV i m f).slot = g.slot := by unfold Group.setV; rfl
@[simp] theorem Group.setV_team (g : Group) (i : Nat) (m : Word) (f : Nat → Word32) : (g.setV i m f).team = g.team := by unfold Group.setV; rfl
@[simp] theorem Group.setV_index (g : Group) (i : Nat) (m : Word) (f : Nat → Word32) : (g.setV i m f).index = g.index := by unfold Group.setV; rfl
@[simp] theorem Group.setV_role (g : Group) (i : Nat) (m : Word) (f : Nat → Word32) : (g.setV i m f).role = g.role := by unfold Group.setV; rfl
@[simp] theorem Group.setV_vBud (g : Group) (i : Nat) (m : Word) (f : Nat → Word32) : (g.setV i m f).vBud = g.vBud := by unfold Group.setV; rfl
@[simp] theorem Group.setV_aBud (g : Group) (i : Nat) (m : Word) (f : Nat → Word32) : (g.setV i m f).aBud = g.aBud := by unfold Group.setV; rfl
@[simp] theorem Group.setV_s (g : Group) (i : Nat) (m : Word) (f : Nat → Word32) : (g.setV i m f).s = g.s := by unfold Group.setV; rfl
@[simp] theorem Group.setV_p (g : Group) (i : Nat) (m : Word) (f : Nat → Word32) : (g.setV i m f).p = g.p := by unfold Group.setV; rfl
@[simp] theorem Group.setV_a (g : Group) (i : Nat) (m : Word) (f : Nat → Word32) : (g.setV i m f).a = g.a := by unfold Group.setV; rfl
@[simp] theorem Group.setV_md (g : Group) (i : Nat) (m : Word) (f : Nat → Word32) : (g.setV i m f).md = g.md := by unfold Group.setV; rfl
@[simp] theorem Group.setV_fl (g : Group) (i : Nat) (m : Word) (f : Nat → Word32) : (g.setV i m f).fl = g.fl := by unfold Group.setV; rfl
@[simp] theorem Group.setV_pc (g : Group) (i : Nat) (m : Word) (f : Nat → Word32) : (g.setV i m f).pc = g.pc := by unfold Group.setV; rfl
@[simp] theorem Group.setV_live (g : Group) (i : Nat) (m : Word) (f : Nat → Word32) : (g.setV i m f).live = g.live := by unfold Group.setV; rfl
@[simp] theorem Group.setV_rs (g : Group) (i : Nat) (m : Word) (f : Nat → Word32) : (g.setV i m f).rs = g.rs := by unfold Group.setV; rfl
@[simp] theorem Group.setV_spilled (g : Group) (i : Nat) (m : Word) (f : Nat → Word32) : (g.setV i m f).spilled = g.spilled := by unfold Group.setV; rfl
@[simp] theorem Group.setV_spillBase (g : Group) (i : Nat) (m : Word) (f : Nat → Word32) : (g.setV i m f).spillBase = g.spillBase := by unfold Group.setV; rfl
@[simp] theorem Group.setV_hnd (g : Group) (i : Nat) (m : Word) (f : Nat → Word32) : (g.setV i m f).hnd = g.hnd := by unfold Group.setV; rfl
@[simp] theorem Group.setV_tcause (g : Group) (i : Nat) (m : Word) (f : Nat → Word32) : (g.setV i m f).tcause = g.tcause := by unfold Group.setV; rfl
@[simp] theorem Group.setV_taddr (g : Group) (i : Nat) (m : Word) (f : Nat → Word32) : (g.setV i m f).taddr = g.taddr := by unfold Group.setV; rfl
@[simp] theorem Group.setV_tmask (g : Group) (i : Nat) (m : Word) (f : Nat → Word32) : (g.setV i m f).tmask = g.tmask := by unfold Group.setV; rfl
@[simp] theorem Group.setV_tpc (g : Group) (i : Nat) (m : Word) (f : Nat → Word32) : (g.setV i m f).tpc = g.tpc := by unfold Group.setV; rfl
@[simp] theorem Group.setV_tstep (g : Group) (i : Nat) (m : Word) (f : Nat → Word32) : (g.setV i m f).tstep = g.tstep := by unfold Group.setV; rfl
@[simp] theorem Group.setV_tmd (g : Group) (i : Nat) (m : Word) (f : Nat → Word32) : (g.setV i m f).tmd = g.tmd := by unfold Group.setV; rfl
@[simp] theorem Group.setV_status (g : Group) (i : Nat) (m : Word) (f : Nat → Word32) : (g.setV i m f).status = g.status := by unfold Group.setV; rfl
@[simp] theorem Group.setV_glyph (g : Group) (i : Nat) (m : Word) (f : Nat → Word32) : (g.setV i m f).glyph = g.glyph := by unfold Group.setV; rfl
@[simp] theorem Group.setV_glyphResume (g : Group) (i : Nat) (m : Word) (f : Nat → Word32) : (g.setV i m f).glyphResume = g.glyphResume := by unfold Group.setV; rfl
@[simp] theorem Group.setV_firstFetch (g : Group) (i : Nat) (m : Word) (f : Nat → Word32) : (g.setV i m f).firstFetch = g.firstFetch := by unfold Group.setV; rfl
@[simp] theorem Group.setV_mmas (g : Group) (i : Nat) (m : Word) (f : Nat → Word32) : (g.setV i m f).mmas = g.mmas := by unfold Group.setV; rfl
@[simp] theorem Group.setV_unseen (g : Group) (i : Nat) (m : Word) (f : Nat → Word32) : (g.setV i m f).unseen = g.unseen := by unfold Group.setV; rfl
@[simp] theorem Group.setV_imprecise (g : Group) (i : Nat) (m : Word) (f : Nat → Word32) : (g.setV i m f).imprecise = g.imprecise := by unfold Group.setV; rfl
@[simp] theorem Group.setV_kept (g : Group) (i : Nat) (m : Word) (f : Nat → Word32) : (g.setV i m f).kept = g.kept := by unfold Group.setV; rfl
@[simp] theorem Group.setV_hcall (g : Group) (i : Nat) (m : Word) (f : Nat → Word32) : (g.setV i m f).hcall = g.hcall := by unfold Group.setV; rfl
@[simp] theorem Group.setV_alReads (g : Group) (i : Nat) (m : Word) (f : Nat → Word32) : (g.setV i m f).alReads = g.alReads := by unfold Group.setV; rfl
@[simp] theorem Group.setV_peerData (g : Group) (i : Nat) (m : Word) (f : Nat → Word32) : (g.setV i m f).peerData = g.peerData := by unfold Group.setV; rfl
@[simp] theorem Group.setV_peerFor (g : Group) (i : Nat) (m : Word) (f : Nat → Word32) : (g.setV i m f).peerFor = g.peerFor := by unfold Group.setV; rfl
@[simp] theorem Group.setV_peerOld (g : Group) (i : Nat) (m : Word) (f : Nat → Word32) : (g.setV i m f).peerOld = g.peerOld := by unfold Group.setV; rfl
@[simp] theorem Group.setV_atom (g : Group) (i : Nat) (m : Word) (f : Nat → Word32) : (g.setV i m f).atom = g.atom := by unfold Group.setV; rfl
@[simp] theorem Group.setV_split (g : Group) (i : Nat) (m : Word) (f : Nat → Word32) : (g.setV i m f).split = g.split := by unfold Group.setV; rfl
@[simp] theorem Group.setV_late (g : Group) (i : Nat) (m : Word) (f : Nat → Word32) : (g.setV i m f).late = g.late := by unfold Group.setV; rfl
@[simp] theorem Group.setV_defer (g : Group) (i : Nat) (m : Word) (f : Nat → Word32) : (g.setV i m f).defer = g.defer := by unfold Group.setV; rfl
@[simp] theorem Group.setV_fetched (g : Group) (i : Nat) (m : Word) (f : Nat → Word32) : (g.setV i m f).fetched = g.fetched := by unfold Group.setV; rfl
@[simp] theorem Group.setV_aged (g : Group) (i : Nat) (m : Word) (f : Nat → Word32) : (g.setV i m f).aged = g.aged := by unfold Group.setV; rfl
@[simp] theorem Group.setV_yieldHold (g : Group) (i : Nat) (m : Word) (f : Nat → Word32) : (g.setV i m f).yieldHold = g.yieldHold := by unfold Group.setV; rfl
@[simp] theorem Group.setV_lastIssue (g : Group) (i : Nat) (m : Word) (f : Nat → Word32) : (g.setV i m f).lastIssue = g.lastIssue := by unfold Group.setV; rfl

@[simp] theorem Group.setA_core (g : Group) (i : Nat) (m : Word) (f : Nat → Acc) : (g.setA i m f).core = g.core := by unfold Group.setA; rfl
@[simp] theorem Group.setA_slot (g : Group) (i : Nat) (m : Word) (f : Nat → Acc) : (g.setA i m f).slot = g.slot := by unfold Group.setA; rfl
@[simp] theorem Group.setA_team (g : Group) (i : Nat) (m : Word) (f : Nat → Acc) : (g.setA i m f).team = g.team := by unfold Group.setA; rfl
@[simp] theorem Group.setA_index (g : Group) (i : Nat) (m : Word) (f : Nat → Acc) : (g.setA i m f).index = g.index := by unfold Group.setA; rfl
@[simp] theorem Group.setA_role (g : Group) (i : Nat) (m : Word) (f : Nat → Acc) : (g.setA i m f).role = g.role := by unfold Group.setA; rfl
@[simp] theorem Group.setA_vBud (g : Group) (i : Nat) (m : Word) (f : Nat → Acc) : (g.setA i m f).vBud = g.vBud := by unfold Group.setA; rfl
@[simp] theorem Group.setA_aBud (g : Group) (i : Nat) (m : Word) (f : Nat → Acc) : (g.setA i m f).aBud = g.aBud := by unfold Group.setA; rfl
@[simp] theorem Group.setA_s (g : Group) (i : Nat) (m : Word) (f : Nat → Acc) : (g.setA i m f).s = g.s := by unfold Group.setA; rfl
@[simp] theorem Group.setA_p (g : Group) (i : Nat) (m : Word) (f : Nat → Acc) : (g.setA i m f).p = g.p := by unfold Group.setA; rfl
@[simp] theorem Group.setA_v (g : Group) (i : Nat) (m : Word) (f : Nat → Acc) : (g.setA i m f).v = g.v := by unfold Group.setA; rfl
@[simp] theorem Group.setA_md (g : Group) (i : Nat) (m : Word) (f : Nat → Acc) : (g.setA i m f).md = g.md := by unfold Group.setA; rfl
@[simp] theorem Group.setA_fl (g : Group) (i : Nat) (m : Word) (f : Nat → Acc) : (g.setA i m f).fl = g.fl := by unfold Group.setA; rfl
@[simp] theorem Group.setA_pc (g : Group) (i : Nat) (m : Word) (f : Nat → Acc) : (g.setA i m f).pc = g.pc := by unfold Group.setA; rfl
@[simp] theorem Group.setA_live (g : Group) (i : Nat) (m : Word) (f : Nat → Acc) : (g.setA i m f).live = g.live := by unfold Group.setA; rfl
@[simp] theorem Group.setA_rs (g : Group) (i : Nat) (m : Word) (f : Nat → Acc) : (g.setA i m f).rs = g.rs := by unfold Group.setA; rfl
@[simp] theorem Group.setA_spilled (g : Group) (i : Nat) (m : Word) (f : Nat → Acc) : (g.setA i m f).spilled = g.spilled := by unfold Group.setA; rfl
@[simp] theorem Group.setA_spillBase (g : Group) (i : Nat) (m : Word) (f : Nat → Acc) : (g.setA i m f).spillBase = g.spillBase := by unfold Group.setA; rfl
@[simp] theorem Group.setA_hnd (g : Group) (i : Nat) (m : Word) (f : Nat → Acc) : (g.setA i m f).hnd = g.hnd := by unfold Group.setA; rfl
@[simp] theorem Group.setA_tcause (g : Group) (i : Nat) (m : Word) (f : Nat → Acc) : (g.setA i m f).tcause = g.tcause := by unfold Group.setA; rfl
@[simp] theorem Group.setA_taddr (g : Group) (i : Nat) (m : Word) (f : Nat → Acc) : (g.setA i m f).taddr = g.taddr := by unfold Group.setA; rfl
@[simp] theorem Group.setA_tmask (g : Group) (i : Nat) (m : Word) (f : Nat → Acc) : (g.setA i m f).tmask = g.tmask := by unfold Group.setA; rfl
@[simp] theorem Group.setA_tpc (g : Group) (i : Nat) (m : Word) (f : Nat → Acc) : (g.setA i m f).tpc = g.tpc := by unfold Group.setA; rfl
@[simp] theorem Group.setA_tstep (g : Group) (i : Nat) (m : Word) (f : Nat → Acc) : (g.setA i m f).tstep = g.tstep := by unfold Group.setA; rfl
@[simp] theorem Group.setA_tmd (g : Group) (i : Nat) (m : Word) (f : Nat → Acc) : (g.setA i m f).tmd = g.tmd := by unfold Group.setA; rfl
@[simp] theorem Group.setA_status (g : Group) (i : Nat) (m : Word) (f : Nat → Acc) : (g.setA i m f).status = g.status := by unfold Group.setA; rfl
@[simp] theorem Group.setA_glyph (g : Group) (i : Nat) (m : Word) (f : Nat → Acc) : (g.setA i m f).glyph = g.glyph := by unfold Group.setA; rfl
@[simp] theorem Group.setA_glyphResume (g : Group) (i : Nat) (m : Word) (f : Nat → Acc) : (g.setA i m f).glyphResume = g.glyphResume := by unfold Group.setA; rfl
@[simp] theorem Group.setA_firstFetch (g : Group) (i : Nat) (m : Word) (f : Nat → Acc) : (g.setA i m f).firstFetch = g.firstFetch := by unfold Group.setA; rfl
@[simp] theorem Group.setA_mmas (g : Group) (i : Nat) (m : Word) (f : Nat → Acc) : (g.setA i m f).mmas = g.mmas := by unfold Group.setA; rfl
@[simp] theorem Group.setA_unseen (g : Group) (i : Nat) (m : Word) (f : Nat → Acc) : (g.setA i m f).unseen = g.unseen := by unfold Group.setA; rfl
@[simp] theorem Group.setA_imprecise (g : Group) (i : Nat) (m : Word) (f : Nat → Acc) : (g.setA i m f).imprecise = g.imprecise := by unfold Group.setA; rfl
@[simp] theorem Group.setA_kept (g : Group) (i : Nat) (m : Word) (f : Nat → Acc) : (g.setA i m f).kept = g.kept := by unfold Group.setA; rfl
@[simp] theorem Group.setA_hcall (g : Group) (i : Nat) (m : Word) (f : Nat → Acc) : (g.setA i m f).hcall = g.hcall := by unfold Group.setA; rfl
@[simp] theorem Group.setA_alReads (g : Group) (i : Nat) (m : Word) (f : Nat → Acc) : (g.setA i m f).alReads = g.alReads := by unfold Group.setA; rfl
@[simp] theorem Group.setA_peerData (g : Group) (i : Nat) (m : Word) (f : Nat → Acc) : (g.setA i m f).peerData = g.peerData := by unfold Group.setA; rfl
@[simp] theorem Group.setA_peerFor (g : Group) (i : Nat) (m : Word) (f : Nat → Acc) : (g.setA i m f).peerFor = g.peerFor := by unfold Group.setA; rfl
@[simp] theorem Group.setA_peerOld (g : Group) (i : Nat) (m : Word) (f : Nat → Acc) : (g.setA i m f).peerOld = g.peerOld := by unfold Group.setA; rfl
@[simp] theorem Group.setA_atom (g : Group) (i : Nat) (m : Word) (f : Nat → Acc) : (g.setA i m f).atom = g.atom := by unfold Group.setA; rfl
@[simp] theorem Group.setA_split (g : Group) (i : Nat) (m : Word) (f : Nat → Acc) : (g.setA i m f).split = g.split := by unfold Group.setA; rfl
@[simp] theorem Group.setA_late (g : Group) (i : Nat) (m : Word) (f : Nat → Acc) : (g.setA i m f).late = g.late := by unfold Group.setA; rfl
@[simp] theorem Group.setA_defer (g : Group) (i : Nat) (m : Word) (f : Nat → Acc) : (g.setA i m f).defer = g.defer := by unfold Group.setA; rfl
@[simp] theorem Group.setA_fetched (g : Group) (i : Nat) (m : Word) (f : Nat → Acc) : (g.setA i m f).fetched = g.fetched := by unfold Group.setA; rfl
@[simp] theorem Group.setA_aged (g : Group) (i : Nat) (m : Word) (f : Nat → Acc) : (g.setA i m f).aged = g.aged := by unfold Group.setA; rfl
@[simp] theorem Group.setA_yieldHold (g : Group) (i : Nat) (m : Word) (f : Nat → Acc) : (g.setA i m f).yieldHold = g.yieldHold := by unfold Group.setA; rfl
@[simp] theorem Group.setA_lastIssue (g : Group) (i : Nat) (m : Word) (f : Nat → Acc) : (g.setA i m f).lastIssue = g.lastIssue := by unfold Group.setA; rfl

@[simp] theorem Group.orFlags_core (g : Group) (x : BitVec 7) : (g.orFlags x).core = g.core := rfl
@[simp] theorem Group.orFlags_slot (g : Group) (x : BitVec 7) : (g.orFlags x).slot = g.slot := rfl
@[simp] theorem Group.orFlags_team (g : Group) (x : BitVec 7) : (g.orFlags x).team = g.team := rfl
@[simp] theorem Group.orFlags_index (g : Group) (x : BitVec 7) : (g.orFlags x).index = g.index := rfl
@[simp] theorem Group.orFlags_role (g : Group) (x : BitVec 7) : (g.orFlags x).role = g.role := rfl
@[simp] theorem Group.orFlags_vBud (g : Group) (x : BitVec 7) : (g.orFlags x).vBud = g.vBud := rfl
@[simp] theorem Group.orFlags_aBud (g : Group) (x : BitVec 7) : (g.orFlags x).aBud = g.aBud := rfl
@[simp] theorem Group.orFlags_s (g : Group) (x : BitVec 7) : (g.orFlags x).s = g.s := rfl
@[simp] theorem Group.orFlags_p (g : Group) (x : BitVec 7) : (g.orFlags x).p = g.p := rfl
@[simp] theorem Group.orFlags_v (g : Group) (x : BitVec 7) : (g.orFlags x).v = g.v := rfl
@[simp] theorem Group.orFlags_a (g : Group) (x : BitVec 7) : (g.orFlags x).a = g.a := rfl
@[simp] theorem Group.orFlags_md (g : Group) (x : BitVec 7) : (g.orFlags x).md = g.md := rfl
@[simp] theorem Group.orFlags_pc (g : Group) (x : BitVec 7) : (g.orFlags x).pc = g.pc := rfl
@[simp] theorem Group.orFlags_live (g : Group) (x : BitVec 7) : (g.orFlags x).live = g.live := rfl
@[simp] theorem Group.orFlags_rs (g : Group) (x : BitVec 7) : (g.orFlags x).rs = g.rs := rfl
@[simp] theorem Group.orFlags_spilled (g : Group) (x : BitVec 7) : (g.orFlags x).spilled = g.spilled := rfl
@[simp] theorem Group.orFlags_spillBase (g : Group) (x : BitVec 7) : (g.orFlags x).spillBase = g.spillBase := rfl
@[simp] theorem Group.orFlags_hnd (g : Group) (x : BitVec 7) : (g.orFlags x).hnd = g.hnd := rfl
@[simp] theorem Group.orFlags_tcause (g : Group) (x : BitVec 7) : (g.orFlags x).tcause = g.tcause := rfl
@[simp] theorem Group.orFlags_taddr (g : Group) (x : BitVec 7) : (g.orFlags x).taddr = g.taddr := rfl
@[simp] theorem Group.orFlags_tmask (g : Group) (x : BitVec 7) : (g.orFlags x).tmask = g.tmask := rfl
@[simp] theorem Group.orFlags_tpc (g : Group) (x : BitVec 7) : (g.orFlags x).tpc = g.tpc := rfl
@[simp] theorem Group.orFlags_tstep (g : Group) (x : BitVec 7) : (g.orFlags x).tstep = g.tstep := rfl
@[simp] theorem Group.orFlags_tmd (g : Group) (x : BitVec 7) : (g.orFlags x).tmd = g.tmd := rfl
@[simp] theorem Group.orFlags_status (g : Group) (x : BitVec 7) : (g.orFlags x).status = g.status := rfl
@[simp] theorem Group.orFlags_glyph (g : Group) (x : BitVec 7) : (g.orFlags x).glyph = g.glyph := rfl
@[simp] theorem Group.orFlags_glyphResume (g : Group) (x : BitVec 7) : (g.orFlags x).glyphResume = g.glyphResume := rfl
@[simp] theorem Group.orFlags_firstFetch (g : Group) (x : BitVec 7) : (g.orFlags x).firstFetch = g.firstFetch := rfl
@[simp] theorem Group.orFlags_mmas (g : Group) (x : BitVec 7) : (g.orFlags x).mmas = g.mmas := rfl
@[simp] theorem Group.orFlags_unseen (g : Group) (x : BitVec 7) : (g.orFlags x).unseen = g.unseen := rfl
@[simp] theorem Group.orFlags_imprecise (g : Group) (x : BitVec 7) : (g.orFlags x).imprecise = g.imprecise := rfl
@[simp] theorem Group.orFlags_kept (g : Group) (x : BitVec 7) : (g.orFlags x).kept = g.kept := rfl
@[simp] theorem Group.orFlags_hcall (g : Group) (x : BitVec 7) : (g.orFlags x).hcall = g.hcall := rfl
@[simp] theorem Group.orFlags_alReads (g : Group) (x : BitVec 7) : (g.orFlags x).alReads = g.alReads := rfl
@[simp] theorem Group.orFlags_peerData (g : Group) (x : BitVec 7) : (g.orFlags x).peerData = g.peerData := rfl
@[simp] theorem Group.orFlags_peerFor (g : Group) (x : BitVec 7) : (g.orFlags x).peerFor = g.peerFor := rfl
@[simp] theorem Group.orFlags_peerOld (g : Group) (x : BitVec 7) : (g.orFlags x).peerOld = g.peerOld := rfl
@[simp] theorem Group.orFlags_atom (g : Group) (x : BitVec 7) : (g.orFlags x).atom = g.atom := rfl
@[simp] theorem Group.orFlags_split (g : Group) (x : BitVec 7) : (g.orFlags x).split = g.split := rfl
@[simp] theorem Group.orFlags_late (g : Group) (x : BitVec 7) : (g.orFlags x).late = g.late := rfl
@[simp] theorem Group.orFlags_defer (g : Group) (x : BitVec 7) : (g.orFlags x).defer = g.defer := rfl
@[simp] theorem Group.orFlags_fetched (g : Group) (x : BitVec 7) : (g.orFlags x).fetched = g.fetched := rfl
@[simp] theorem Group.orFlags_bad (g : Group) (x : BitVec 7) : (g.orFlags x).bad = g.bad := rfl
@[simp] theorem Group.orFlags_aged (g : Group) (x : BitVec 7) : (g.orFlags x).aged = g.aged := rfl
@[simp] theorem Group.orFlags_yieldHold (g : Group) (x : BitVec 7) : (g.orFlags x).yieldHold = g.yieldHold := rfl
@[simp] theorem Group.orFlags_lastIssue (g : Group) (x : BitVec 7) : (g.orFlags x).lastIssue = g.lastIssue := rfl

end Sys2Proof.Machine
end

