-- ==== Sys2Proof/Laws/Memory.lean ====
section
/-! SUPPORT. The canonical form of memory: every operation on cells keeps it, and what a byte reads as after one. -/
namespace Sys2Proof.Machine
-- One proof at a time: proofs elaborated side by side each take a thread and its stack.
set_option Elab.async false

/-! ### Cells -/

/-- An address lies below every listed one. -/
def below (a : Nat) (m : List Host.Cell) : Prop := ∀ x ∈ m, a < x.1

/-- The canonical form, said of the head and of the rest. -/
theorem cellsWf_cons {base : Blank} {a : Nat} {b : Byte} {r : List Host.Cell} :
    cellsWf base ((a, b) :: r) = true ↔ b ≠ blankByte base a ∧ below a r ∧ cellsWf base r = true := by
  induction r generalizing a b with
  | nil => simp [cellsWf, below]
  | cons x r ih =>
    obtain ⟨c, d⟩ := x
    simp only [cellsWf, Bool.and_eq_true, bne_iff_ne, decide_eq_true_eq, ne_eq]
    constructor
    · rintro ⟨⟨hb, hac⟩, hw⟩
      refine ⟨hb, ?_, hw⟩
      intro y hy
      rcases List.mem_cons.mp hy with rfl | hy
      · exact hac
      · exact Nat.lt_trans hac ((ih.mp hw).2.1 y hy)
    · rintro ⟨hb, hl, hw⟩
      exact ⟨⟨hb, hl (c, d) (by simp)⟩, hw⟩

/-- Entries removed keep the form. -/
theorem cellsWf_filter {base : Blank} (p : Host.Cell → Bool) {m : List Host.Cell} (h : cellsWf base m = true) :
    cellsWf base (m.filter p) = true := by
  induction m with
  | nil => simpa using h
  | cons x r ih =>
    obtain ⟨a, b⟩ := x
    obtain ⟨hb, hl, hw⟩ := cellsWf_cons.mp h
    by_cases hp : p (a, b) = true
    · rw [List.filter_cons_of_pos hp]
      exact cellsWf_cons.mpr ⟨hb, fun y hy => hl y (List.mem_filter.mp hy).1, ih hw⟩
    · rw [List.filter_cons_of_neg hp]; exact ih hw

/-- A location removed is the list filtered. -/
theorem cellsDel_eq (m : List Host.Cell) (loc : Nat) : cellsDel m loc = m.filter fun x => x.1 != loc := by
  induction m with
  | nil => rfl
  | cons x r ih =>
    obtain ⟨a, b⟩ := x
    by_cases h : a = loc <;> simp [cellsDel, h, ih]

/-- What lies below a list and a new location lies below the list with the location put in. -/
theorem below_cellsIns {a loc : Nat} {b : Byte} {m : List Host.Cell} (hm : below a m) (hl : a < loc) :
    below a (cellsIns m loc b) := by
  induction m with
  | nil => simpa [cellsIns, below] using hl
  | cons x r ih =>
    obtain ⟨c, d⟩ := x
    have hr : below a r := fun y hy => hm y (List.mem_cons_of_mem _ hy)
    unfold cellsIns
    split
    · intro y hy
      rcases List.mem_cons.mp hy with rfl | hy
      · exact hl
      · exact hm y hy
    · split
      · intro y hy
        rcases List.mem_cons.mp hy with rfl | hy
        · exact hl
        · exact hr y hy
      · intro y hy
        rcases List.mem_cons.mp hy with rfl | hy
        · exact hm _ (by simp)
        · exact ih hr y hy

/-- A byte that differs from the unlisted one, put in its place, keeps the form. -/
theorem cellsWf_cellsIns {base : Blank} {loc : Nat} {b : Byte} {m : List Host.Cell} (hb : b ≠ blankByte base loc)
    (h : cellsWf base m = true) : cellsWf base (cellsIns m loc b) = true := by
  induction m with
  | nil => simpa [cellsIns, cellsWf] using hb
  | cons x r ih =>
    obtain ⟨a, c⟩ := x
    obtain ⟨hc, hl, hw⟩ := cellsWf_cons.mp h
    unfold cellsIns
    split
    next hlt =>
      refine cellsWf_cons.mpr ⟨hb, ?_, h⟩
      intro y hy
      rcases List.mem_cons.mp hy with rfl | hy
      · exact hlt
      · exact Nat.lt_trans hlt (hl y hy)
    next hlt =>
      split
      next he => subst he; exact cellsWf_cons.mpr ⟨hb, hl, hw⟩
      next he => exact cellsWf_cons.mpr ⟨hc, below_cellsIns hl (by omega), ih hw⟩

/-- A byte written keeps the form. -/
theorem cellsWf_cellsSet {base : Blank} {loc : Nat} {b : Byte} {m : List Host.Cell} (h : cellsWf base m = true) :
    cellsWf base (cellsSet base m loc b) = true := by
  unfold cellsSet
  split
  · rw [cellsDel_eq]; exact cellsWf_filter _ h
  next hb => exact cellsWf_cellsIns hb h

/-- Bytes written one after another keep the form. -/
theorem cellsWf_cellsPutAll {base : Blank} (xs : List (Nat × Byte)) {m : List Host.Cell} (h : cellsWf base m = true) :
    cellsWf base (cellsPutAll base m xs) = true := by
  induction xs generalizing m with
  | nil => exact h
  | cons x r ih => exact ih (cellsWf_cellsSet h)

/-- What a location holds after entries have been put in, one by one. -/
theorem cellsGet_cellsIns (base : Blank) (m : List Host.Cell) (loc a : Nat) (b : Byte) :
    cellsGet base (cellsIns m loc b) a = if a = loc then b else cellsGet base m a := by
  induction m with
  | nil => simp [cellsIns, cellsGet, eq_comm]
  | cons x r ih =>
    obtain ⟨c, d⟩ := x
    unfold cellsIns
    split
    · simp [cellsGet, eq_comm]
    · split
      next he => subst he; by_cases h : a = c <;> simp [cellsGet, h, eq_comm]
      next hlt he => by_cases h : c = a
                     · subst h; simp [cellsGet, he]
                     · simp [cellsGet, h, ih]

/-- Entries removed by their location read as unlisted ones. -/
theorem cellsGet_filter (base : Blank) (m : List Host.Cell) (p : Nat → Bool) (a : Nat) :
    cellsGet base (m.filter fun x => p x.1) a = if p a then cellsGet base m a else blankByte base a := by
  induction m with
  | nil => simp [cellsGet]
  | cons x r ih =>
    obtain ⟨c, d⟩ := x
    by_cases h : c = a
    · subst h; by_cases hp : p c <;> simp [hp, cellsGet, ih]
    · by_cases hp : p c <;> simp [hp, cellsGet, ih, h]

/-- A read after a write: the byte written at its own location, and at any other what was there. -/
theorem cellsGet_cellsSet (base : Blank) (m : List Host.Cell) (loc a : Nat) (b : Byte) :
    cellsGet base (cellsSet base m loc b) a = if a = loc then b else cellsGet base m a := by
  unfold cellsSet
  split
  next hb =>
    rw [cellsDel_eq, cellsGet_filter base m (fun x => x != loc) a]
    by_cases h : a = loc <;> simp [h, hb]
  · exact cellsGet_cellsIns ..

/-! ### Memory -/

/-- The form, in its two parts. -/
theorem Memory.wf_iff (m : Memory) : m.wf = true ↔ cellsWf m.base m.cells = true ∧ cellsWf m.parityBase m.parity = true := by
  simp [Memory.wf]

/-- Memory whose cells, parity blocks and base are the same is in the form with it. -/
theorem Memory.wf_of_eq {m n : Memory} (hb : n.base = m.base) (hc : n.cells = m.cells) (hq : n.parityBase = m.parityBase)
    (hp : n.parity = m.parity) (h : m.wf = true) : n.wf = true := by
  simpa [Memory.wf, hb, hc, hq, hp] using h

theorem Memory.reset_wf : State.reset.mem.wf = true := rfl

theorem Memory.addPoison_wf {m : Memory} (loc : Nat) (h : m.wf = true) : (m.addPoison loc).wf = true := by
  unfold Memory.addPoison; split <;> exact h

theorem Memory.store_wf {m : Memory} (k : KeySlot) (loc : Nat) (bs : List Byte) (h : m.wf = true) : (m.store k loc bs).wf = true := by
  rw [Memory.wf_iff] at *
  exact ⟨cellsWf_cellsPutAll _ h.1, h.2⟩

/-- A state whose memory holds the same bytes, whatever its caches and write buffers do. -/
def State.KeepsCells (s t : State) : Prop :=
  t.mem.base = s.mem.base ∧ t.mem.cells = s.mem.cells ∧ t.mem.parityBase = s.mem.parityBase ∧ t.mem.parity = s.mem.parity

theorem State.KeepsCells.refl (s : State) : s.KeepsCells s := ⟨rfl, rfl, rfl, rfl⟩

theorem State.KeepsCells.trans {s t u : State} (h : s.KeepsCells t) (k : t.KeepsCells u) : s.KeepsCells u :=
  ⟨k.1.trans h.1, k.2.1.trans h.2.1, k.2.2.1.trans h.2.2.1, k.2.2.2.trans h.2.2.2⟩

theorem State.KeepsCells.foldl {α : Type} {f : State → α → State} (h : ∀ (t : State) x, t.KeepsCells (f t x)) (l : List α) (s : State) :
    s.KeepsCells (l.foldl f s) := by
  induction l generalizing s with
  | nil => exact .refl s
  | cons x r ih => exact (h s x).trans (ih _)

theorem State.KeepsCells.wf {s t : State} (h : s.KeepsCells t) (w : s.mem.wf = true) : t.mem.wf = true :=
  Memory.wf_of_eq h.1 h.2.1 h.2.2.1 h.2.2.2 w

theorem State.bufferWrite_cells (s : State) (who : Option Origin) (b : List (Nat × Byte × Byte)) : s.KeepsCells (s.bufferWrite who b) := by
  unfold State.bufferWrite
  split
  · exact .refl s
  · dsimp only; split <;> exact ⟨rfl, rfl, rfl, rfl⟩

theorem State.bufferAll_cells (s : State) (who : Option Origin) (l : List (Nat × Byte × Byte)) : s.KeepsCells (s.bufferAll who l) :=
  .foldl (fun t b => t.bufferWrite_cells who b) _ s

theorem Memory.untrack_wf (m : Memory) (line : Nat) : (m.untrack line).wf = m.wf := by
  unfold Memory.untrack; split <;> rfl

/-- A copy given up leaves the bytes as they are: a dirty line is in memory already. -/
theorem State.dropLine_cells (s : State) (l : SliceLine) : s.KeepsCells (s.dropLine l) := by
  unfold State.dropLine; dsimp only
  generalize hu : State.bufferAll _ _ _ = u
  have h : s.KeepsCells u := hu ▸ State.bufferAll_cells _ _ _
  unfold Memory.untrack; split <;> exact h

theorem State.freeLine_cells (s : State) (line : Nat) : s.KeepsCells (s.freeLine line) :=
  (State.KeepsCells.foldl State.dropLine_cells _ s).trans ⟨rfl, rfl, rfl, rfl⟩

theorem State.freeLines_cells (s : State) (loc len : Nat) : s.KeepsCells (s.freeLines loc len) := by
  unfold State.freeLines; split
  · exact .refl s
  · exact .foldl State.freeLine_cells _ s

theorem State.trimSlice_cells (s : State) (col : ColId) (host : Bool) (line : Nat) : s.KeepsCells (s.trimSlice col host line) := by
  unfold State.trimSlice; dsimp only
  generalize (if host = true then hostLines else _) = n
  split
  · exact .refl s
  · split
    · exact s.dropLine_cells _
    · exact .refl s

theorem State.trimDir_cells (s : State) (line : Nat) : s.KeepsCells (s.trimDir line) := by
  unfold State.trimDir; dsimp only
  split
  · exact .refl s
  · split
    · exact (State.KeepsCells.foldl State.dropLine_cells _ s).trans ⟨rfl, rfl, rfl, rfl⟩
    · exact .refl s

theorem State.putLine_cells (s : State) (l : SliceLine) : s.KeepsCells (s.putLine l) :=
  State.KeepsCells.trans (t := { s with mem := { s.mem with
    slices := l :: s.mem.slices.filter fun x => !(x.col == l.col && x.host == l.host && x.line == l.line) } })
    ⟨rfl, rfl, rfl, rfl⟩ (State.trimSlice_cells _ _ _ _)

theorem State.putDir_cells (s : State) (d : DirEntry) : s.KeepsCells (s.putDir d) :=
  State.KeepsCells.trans (t := { s with mem := { s.mem with dir := d :: s.mem.dir.filter fun x => x.line != d.line } })
    ⟨rfl, rfl, rfl, rfl⟩ (State.trimDir_cells _ _)

theorem State.dirRequest_cells (s : State) (own : Bool) (die : DieId) (line : Nat) : s.KeepsCells (s.dirRequest own die line) := by
  unfold State.dirRequest
  repeat' split
  all_goals first | exact .refl s | exact s.putDir_cells _

theorem State.readLine_cells (s : State) (col : ColId) (host : Bool) (line : Nat) : s.KeepsCells (s.readLine col host line) := by
  unfold State.readLine; split
  · exact s.putLine_cells _
  · refine State.KeepsCells.trans (t := { s with mem := { s.mem with
      slices := updWhere (fun l => l.line == line) (fun l => { l with state := l.state.afterRead }) s.mem.slices } }) ⟨rfl, rfl, rfl, rfl⟩ ?_
    exact (State.dirRequest_cells _ _ _ _).trans (State.putLine_cells _ _)

theorem State.ownLine_cells (s : State) (col : ColId) (host : Bool) (line : Nat) : s.KeepsCells (s.ownLine col host line) := by
  unfold State.ownLine
  refine State.KeepsCells.trans (t := { s with mem := { s.mem with slices := s.mem.slices.filter fun l => l.line != line } }) ⟨rfl, rfl, rfl, rfl⟩ ?_
  exact (State.dirRequest_cells _ _ _ _).trans (State.putLine_cells _ _)

theorem State.storeLine_wf {s : State} (col : ColId) (host : Bool) (k : KeySlot) (loc : Nat) (bs : List Byte) (h : s.mem.wf = true) :
    (s.storeLine col host k loc bs).mem.wf = true :=
  Memory.store_wf k loc bs ((s.ownLine_cells col host (loc / 128)).wf h)

theorem State.storeRunBy_wf {s : State} (who : Option Origin) (k : KeySlot) (loc : Nat) (bs : List Byte) (h : s.mem.wf = true) :
    (s.storeRunBy who k loc bs).mem.wf = true := by
  unfold State.storeRunBy; dsimp only
  split
  · exact (State.bufferAll_cells _ _ _).wf (Memory.store_wf k loc bs ((s.freeLines_cells loc bs.length).wf h))
  · exact Memory.store_wf k loc bs h

theorem State.storeRun_wf {s : State} (k : KeySlot) (loc : Nat) (bs : List Byte) (h : s.mem.wf = true) :
    (s.storeRun k loc bs).mem.wf = true := State.storeRunBy_wf none k loc bs h

theorem State.physWrite_wf {s : State} (pa : Nat) (bs : List Byte) (h : s.mem.wf = true) : (s.physWrite pa bs).mem.wf = true :=
  State.storeRun_wf _ _ _ h

theorem State.devKeep_wf {s : State} (pa len : Nat) (h : s.mem.wf = true) : (s.devKeep pa len).mem.wf = true := by
  have same : ∀ (l : List Nat) (t : State), (l.foldl (fun (t : State) l =>
      if (t.holdOf l).isSome && !(t.links.held.any fun h => h.loc / 128 == l && !h.writes && h.who.isNone && h.tag.isNone) then
        t.keepPlace none none l
      else t) t).mem = t.mem := by
    intro l
    induction l with
    | nil => intro t; rfl
    | cons x r ih => intro t; refine (ih _).trans ?_; dsimp only; split <;> rfl
  exact (same (runLines pa len) s).symm ▸ h

theorem State.logged_mem (s : State) (i : Incident) : (s.logged i).mem = s.mem := by
  unfold State.logged; dsimp only
  repeat' split
  all_goals rfl

theorem State.logWrite_wf {s : State} (r : LogRec) (h : s.mem.wf = true) : (s.logWrite r).mem.wf = true := by
  have := State.physWrite_wf s.dev.logPlace r.bytes h
  unfold State.logWrite; dsimp only
  split
  · rw [State.logged_mem]; exact this
  · exact this

theorem State.logDrain_wf (k : Nat) {s : State} (h : s.mem.wf = true) : (State.logDrain k s).mem.wf = true := by
  induction k generalizing s with
  | zero => exact h
  | succ k ih =>
    unfold State.logDrain
    split
    · split
      · exact h
      · split
        · exact ih (State.logWrite_wf _ h)
        · exact State.devKeep_wf _ _ h
    · exact h

theorem State.logAppend_wf {s : State} (r : LogRec) (h : s.mem.wf = true) : (s.logAppend r).mem.wf = true := by
  unfold State.logAppend
  apply State.logDrain_wf
  dsimp only
  split
  · split <;> exact h
  · exact h

theorem State.devPerform_wf {s : State} (w : DevWrite) (h : s.mem.wf = true) : (s.devPerform w).mem.wf = true := by
  unfold State.devPerform; dsimp only
  split
  · split
    · exact State.physWrite_wf _ _ h
    · exact h
  · split
    · rw [State.msiJournal_mem]; exact State.physWrite_wf _ _ h
    · exact State.physWrite_wf _ _ h

theorem State.devDrain_wf (k : Nat) {s : State} (h : s.mem.wf = true) : (State.devDrain k s).mem.wf = true := by
  induction k generalizing s with
  | zero => exact h
  | succ k ih =>
    unfold State.devDrain; split
    · exact h
    · dsimp only; split
      · exact ih (State.devPerform_wf _ h)
      · exact State.devKeep_wf _ _ h

theorem State.devWrite_wf {s : State} (l : List DevWrite) (h : s.mem.wf = true) : (s.devWrite l).mem.wf = true :=
  State.devDrain_wf _ h

theorem State.publishCtx_wf {s : State} (c : CtxId) (h : s.mem.wf = true) : (s.publishCtx c).mem.wf = true :=
  State.devWrite_wf _ h

theorem State.report_wf {s : State} (i : Incident) (h : s.mem.wf = true) : (s.report i).mem.wf = true := by
  unfold State.report; dsimp only
  split
  · exact h
  · generalize hu : State.logAppend _ _ = u
    have hw : u.mem.wf = true := by rw [← hu]; exact State.logAppend_wf _ h
    split
    · split
      · exact hw
      · exact State.devWrite_wf _ hw
    · exact hw

theorem State.reportAll_wf (is : List Incident) {s : State} (h : s.mem.wf = true) : (State.reportAll is s).mem.wf = true := by
  induction is generalizing s with
  | nil => exact h
  | cons i r ih => exact ih (State.report_wf i h)

theorem Memory.applyDelta_wf {m : Memory} (w : PendWrite) (h : m.wf = true) : (m.applyDelta w).wf = true := by
  rw [Memory.wf_iff] at *
  refine ⟨h.1, ?_⟩
  have step : ∀ (xs : List (Nat × Byte × Byte)) (c : List Host.Cell), cellsWf m.parityBase c = true →
      cellsWf m.parityBase (xs.foldl (fun cells x => cellsSet m.parityBase cells (256 * w.stripe + x.1 % 256)
        (cellsGet m.parityBase cells (256 * w.stripe + x.1 % 256) ^^^ x.2.1 ^^^ x.2.2)) c) = true := by
    intro xs
    induction xs with
    | nil => intro c hc; exact hc
    | cons x r ih => intro c hc; exact ih _ (cellsWf_cellsSet hc)
  exact step w.bytes m.parity h.2

theorem Memory.shrink_wf {m : Memory} (h : m.wf = true) : m.shrink.wf = true := by
  rw [Memory.wf_iff] at *
  exact ⟨cellsWf_filter _ h.1, h.2⟩

/-- Parity bytes set one by one keep the form. -/
theorem parity_foldl {base : Blank} {α : Type} (a : α → Nat) (b : List Host.Cell → α → Byte) (xs : List α) {c : List Host.Cell}
    (h : cellsWf base c = true) : cellsWf base (xs.foldl (fun cells x => cellsSet base cells (a x) (b cells x)) c) = true := by
  induction xs generalizing c with
  | nil => exact h
  | cons x r ih => exact ih (cellsWf_cellsSet h)

theorem State.moveStripe_wf {s : State} (S : Nat) (h : s.mem.wf = true) : (s.moveStripe S).mem.wf = true := by
  rw [Memory.wf_iff] at h
  unfold State.moveStripe; dsimp only
  generalize List.range 256 = xs
  exact (Memory.wf_iff _).mpr ⟨h.1, parity_foldl (fun i => 256 * S + i) (fun _ i => s.mem.stripeParity S i) xs h.2⟩

theorem State.mendParity_wf {s : State} (S pa : Nat) (h : s.mem.wf = true) : (s.mendParity S pa).mem.wf = true := by
  rw [Memory.wf_iff] at h
  unfold State.mendParity; dsimp only
  generalize List.range 256 = xs
  exact (Memory.wf_iff _).mpr ⟨h.1, parity_foldl (fun i => 256 * S + i)
    (fun _ i => (s.dev.stripeBlocks pa).foldl (fun x b => x ^^^ s.mem.dramByte (256 * b + i)) 0) xs h.2⟩

theorem State.parityOf_wf (s : State) (base pb : Blank) (cells : List Host.Cell) : cellsWf pb (s.parityOf base pb cells) = true :=
  parity_foldl (fun x : Host.Cell => 256 * (s.dev.place x.1).2.2 + x.1 % 256) _ _ rfl

theorem State.loseSector_wf {s : State} (loc : Nat) (h : s.mem.wf = true) : (s.loseSector loc).mem.wf = true := by
  unfold State.loseSector
  split
  · exact h
  · exact State.report_wf _ (Memory.addPoison_wf loc h)

theorem State.poisonSector_wf {s : State} (loc : Nat) (h : s.mem.wf = true) : (s.poisonSector loc).mem.wf = true := by
  have fold : ∀ (xs : List Nat) (t : State), t.mem.wf = true → (xs.foldl State.loseSector t).mem.wf = true := by
    intro xs
    induction xs with
    | nil => intro t ht; exact ht
    | cons x r ih => intro t ht; exact ih _ (State.loseSector_wf _ ht)
  exact fold _ _ (Memory.addPoison_wf loc h)

theorem State.restored_wf (s : State) (image : Option CkImage) : (s.restored image).mem.wf = true := by
  have fold : ∀ (xs : List Nat) (t : State), t.mem.wf = true →
      (xs.foldl (fun (u : State) sec => u.poisonSector (32 * sec)) t).mem.wf = true := by
    intro xs
    induction xs with
    | nil => intro t ht; exact ht
    | cons x r ih => intro t ht; exact ih _ (State.poisonSector_wf _ ht)
  unfold State.restored; dsimp only
  apply fold
  exact (Memory.wf_iff _).mpr ⟨cellsWf_cellsPutAll _ rfl, State.parityOf_wf _ _ _ _⟩

theorem State.takeUnits_wf {s : State} (t : Team) (core : CoreId) (units : List Nat) (h : s.mem.wf = true) :
    (s.takeUnits t core units).mem.wf = true := by
  have left : (s.leaveBehind t).mem.wf = true := by
    rw [Memory.wf_iff] at h
    unfold State.leaveBehind; dsimp only
    split
    · exact (Memory.wf_iff _).mpr ⟨cellsWf_cellsPutAll _ h.1, h.2⟩
    · exact (Memory.wf_iff _).mpr h
  rw [Memory.wf_iff] at left
  exact (Memory.wf_iff _).mpr ⟨cellsWf_cellsPutAll _ (cellsWf_filter _ left.1), left.2⟩

end Sys2Proof.Machine
end

