-- ==== Sys2Proof/Laws/Ops.lean ====
section
/-! SUPPORT. What the shared operations do, each said once: the operand checks, the end of an instruction. -/
namespace Sys2Proof.Machine
open Sys2Proof.Safety
-- One proof at a time: proofs elaborated side by side each take a thread and its stack.
set_option Elab.async false

theorem leastNat_eq_none {l : List Nat} : leastNat l = none ↔ l = [] := by
  cases l with
  | nil => simp [leastNat]
  | cons x r => simp only [leastNat]; cases leastNat r <;> simp

theorem lowestOver_eq_none {acc : Bool} {budget : Nat} {ops : List Opnd}
    (h : ∀ o ∈ ops, o.acc = acc → o.first + o.count ≤ budget) : lowestOver acc budget ops = none := by
  rw [lowestOver, leastNat_eq_none, List.filterMap_eq_nil_iff]
  intro o ho
  rw [List.mem_filter, beq_iff_eq] at ho
  have := h o ho.1 ho.2
  simp only [Opnd.over, ite_eq_right_iff, reduceCtorEq, imp_false]
  omega

theorem spanCheck_ok {ops : List Opnd} (h : ∀ o ∈ ops, o.first + o.count ≤ o.file) : spanCheck ops = .ok () := by
  induction ops with
  | nil => rfl
  | cons o r ih =>
    have := h o (List.mem_cons_self ..)
    rw [spanCheck, if_neg (by omega), ih fun p hp => h p (List.mem_cons_of_mem _ hp)]

theorem evenCheck_ok {ops : List Opnd} (h : ∀ o ∈ ops, o.even = true → o.first % 2 = 0) : evenCheck ops = .ok () := by
  induction ops with
  | nil => rfl
  | cons o r ih =>
    have := h o (List.mem_cons_self ..)
    rw [evenCheck, if_neg, ih fun p hp => h p (List.mem_cons_of_mem _ hp)]
    cases he : o.even <;> simp_all

/-- Operands that fit pass step 6 (R19). -/
theorem step6_ok {g : Group} {ops : List Opnd} (h : ∀ o ∈ ops, OperandFits g o) : g.step6 ops = .ok () := by
  have h1 : lowestOver false g.vBud ops = none :=
    lowestOver_eq_none fun o ho ha => by have := (h o ho).2.1; simpa [ha] using this
  have h2 : lowestOver true g.aBud ops = none :=
    lowestOver_eq_none fun o ho ha => by have := (h o ho).2.1; simpa [ha] using this
  rw [Group.step6, spanCheck_ok fun o ho => (h o ho).1, Group.budgetCheck, h1, h2]
  rfl

/-- The spans and the budgets do not look at evenness. -/
theorem step6_of_mem {s : State} {m : Word} {named read : List Opnd} {accepts : Nat → Bool} {ss : List SReg} {ps : List PReg}
    (h : MemOperandsReady s m named read accepts ss ps) : s.g.step6 named = .ok () := by
  have fits : ∀ o ∈ named, o.first + o.count ≤ o.file ∧ o.first + o.count ≤ (if o.acc then s.g.aBud else s.g.vBud) := by
    intro o ho
    have := h.1 o ho
    split at this <;> exact ⟨this.1, this.2.1⟩
  have h1 : lowestOver false s.g.vBud named = none :=
    lowestOver_eq_none fun o ho ha => by have := (fits o ho).2; simpa [ha] using this
  have h2 : lowestOver true s.g.aBud named = none :=
    lowestOver_eq_none fun o ho ha => by have := (fits o ho).2; simpa [ha] using this
  rw [Group.step6, spanCheck_ok fun o ho => (fits o ho).1, Group.budgetCheck, h1, h2]
  rfl

/-- Operands of a memory instruction that are ready pass every check (R75, R139). -/
theorem operandsOf_ok {s : State} {m : Word} {named read : List Opnd} {accepts : Nat → Bool} {ss : List SReg} {ps : List PReg}
    (h : MemOperandsReady s m named read accepts ss ps) : s.operandsOf m named read accepts ss ps = .ok () := by
  rw [State.operandsOf, step6_of_mem h, Group.step7, h.2.1, h.2.2]
  by_cases hm : m = 0
  · subst hm; rfl
  · rw [if_neg hm, evenCheck_ok fun o ho => by have := h.1 o ho; rw [if_neg hm] at this; exact this.2.2]; rfl

/-- The lane-wise atomics likewise (R153). -/
theorem laneOperands_ok {s : State} {d a : Opnd} {accepts : Nat → Bool} {G : Guard}
    (h : MemOperandsReady s (s.g.active G) [d, a] [d, a] accepts [] [s.g.guardIdx G]) : s.laneOperands d a accepts G = .ok () := by
  rw [State.laneOperands, step6_of_mem h, Group.step7, h.2.1, h.2.2]
  by_cases hm : s.g.active G = 0
  · rw [if_pos hm]; split <;> rfl
  · rw [if_neg hm, evenCheck_ok fun o ho => by
      have := h.1 o (by simp only [List.mem_cons, List.not_mem_nil, or_false] at ho ⊢; exact ho.symm)
      rw [if_neg hm] at this
      exact this.2.2]
    split <;> rfl

theorem operands_ok {s : State} {ops : List Opnd} {accepts : Nat → Bool} {ss : List SReg} {ps : List PReg}
    (h : OperandsReady s ops ops accepts ss ps) : s.operands ops accepts ss ps = .ok () := by
  rw [State.operands, step6_ok h.1, Group.step7, h.2.1, h.2.2, evenCheck_ok fun o ho => (h.1 o ho).2.2]
  rfl

/-- With no register in error, every register read is sound (R197). -/
theorem sound_ok {s : State} (h : s.g.bad = []) (ops : List Opnd) (ss : List SReg) (ps : List PReg) : s.sound ops ss ps = .ok () := by
  simp [State.sound, h, poisonHits, leastNat]

/-! ### Releases -/

/-- A release that waits for nothing goes on. -/
theorem releaseFirst_ok {s : State} {sc : Scope} (h : ReleaseReady s sc) : s.releaseFirst sc = .ok (s.release sc) := by
  have hv : s.versionScope sc = .ok () := by
    obtain h1 | h1 := h.1 <;> simp [State.versionScope, h1, need]
  simp only [State.releaseFirst, hv, h.2]; rfl

/-- A release whose writes are not all performed sends them on, and the instruction is held. -/
theorem releaseFirst_waits {s : State} {sc : Scope} (hv : s.team.version = none ∨ sc.code ≤ 1)
    (h : (s.sendOn s.g.core sc).performedBy s.g.core sc = false) :
    s.releaseFirst sc = .error (.wait (s.sendOn s.g.core sc).stallHere) := by
  have hv : s.versionScope sc = .ok () := by
    obtain h1 | h1 := hv <;> simp [State.versionScope, h1, need]
  simp only [State.releaseFirst, hv, h]; rfl

/-! ### The end of an instruction -/

@[simp] theorem finish_ok (s t : State) : finish s (.ok t) = .next t := rfl
@[simp] theorem finish_trap (s : State) (t : Trap) : finish s (.error (.trap t)) = .next (s.takeTrap t) := rfl
@[simp] theorem finish_park (s : State) (a : Access) (fs : List (Word × Nat)) : finish s (.error (.park a fs)) = .next (s.parkOn a fs) := rfl
@[simp] theorem finish_block (s : State) (w : Wake) : finish s (.error (.block w)) = .next (s.blockOn w) := rfl
@[simp] theorem finish_stall (s : State) : finish s (.error .stall) = .next s.stallHere := rfl
@[simp] theorem finish_wait (s t : State) : finish s (.error (.wait t)) = .next t := rfl
@[simp] theorem done_eq (s : State) : done s = .next s := rfl

/-- An instruction always answers a next state. -/
theorem finish_runs (s : State) (r : Res) : Runs (finish s r) := ⟨_, rfl⟩

@[simp] theorem need_true (x : Stop) : need true x = .ok () := rfl
@[simp] theorem need_false (x : Stop) : need false x = .error x := rfl

/-! ### The shapes of instructions -/

/-- A scalar instruction whose sources are sound writes its result and retires. -/
theorem scalarOp_ok {s : State} {d : SReg} {reads : List SReg} {x : Word} (h : s.sound [] reads [] = .ok ()) :
    scalarOp s d reads x = .next (s.retireWith (s.g.setS d x)) := by
  simp only [scalarOp, h]; rfl

/-- Everything that a scalar instruction can do: its result, or the trap of an unsound source. -/
theorem scalarOp_cases {s t : State} {d : SReg} {reads : List SReg} {x : Word} (h : scalarOp s d reads x = .next t) :
    t = s.retireWith (s.g.setS d x) ∨ ∃ e, s.sound [] reads [] = .error e ∧ finish s (.error e) = .next t := by
  unfold scalarOp at h
  cases hs : s.sound [] reads [] with
  | ok u => rw [hs] at h; exact .inl (Host.Outcome.next.inj h).symm
  | error e => rw [hs] at h; exact .inr ⟨e, rfl, h⟩

theorem predOp_ok {s : State} {G : Guard} {d : PReg} {ss : List SReg} {ps : List PReg} {x : Word}
    (h : s.sound [] ss (s.g.guardIdx G :: ps) = .ok ()) :
    predOp s G d ss ps x = .next (s.retireWith (s.g.setP d (s.g.active G) x)) := by
  simp only [predOp, h]; rfl

theorem predScalar_ok {s : State} {d : SReg} {a : PReg} {x : Word} (h : s.sound [] [] [a] = .ok ()) :
    predScalar s d a x = .next (s.retireWith (s.g.setS d x)) := by
  simp only [predScalar, h]; rfl

/-- A lane-wise instruction whose operands are ready computes its Active lanes and retires. -/
theorem lanewiseWith_ok {s : State} {G : Guard} {d : VReg} {rd : Bool} {srcs : List VReg} {ss : List SReg} {ps : List PReg}
    {accepts : Nat → Bool} {f : EType → Nat → Nat × Flags}
    (h : OperandsReady s (laneOps s G d rd srcs) (laneOps s G d rd srcs) accepts ss (s.g.guardIdx G :: ps)) :
    lanewiseWith s G d rd srcs ss ps accepts f = .next (laneResult s G d f) := by
  have := operands_ok h
  simp only [laneOps] at this
  simp only [lanewiseWith, this]; rfl

end Sys2Proof.Machine
end

