-- ==== Sys2Proof/Laws/PerInstr.lean ====
section
/-! SUPPORT. The family Encoding: the word of every well-formed instruction decodes to it (R59 to R82). -/
namespace Sys2Proof.Laws.Encoding
open Sys2Proof
-- One proof at a time: proofs elaborated side by side each take a thread and its stack.
set_option Elab.async false
-- The lemmas below share one shape of proof; some of its alternatives are not needed by every constructor.
set_option linter.unreachableTactic false
set_option linter.unusedTactic false
set_option linter.unnecessarySeqFocus false

/-- Every word that encodes the instruction, where its fields are legal, decodes to it; an event has no word. -/
def Statement (i : Instr) : Prop := i.wf = true → ∀ w, encode i = some w → decodeWord w = .ok i

/-- A field read back. -/
theorem fld_eq {w : Nat} (n lo : Nat) (x : BitVec w) (h : n / 2 ^ lo % 2 ^ w = x.toNat) : (fld n lo : BitVec w) = x := by
  apply BitVec.eq_of_toNat_eq
  simp [fld, BitVec.toNat_ofNat, h]

/-- It is enough to decode the number that the encoder puts together. -/
theorem of_number {i : Instr} {n : Nat} (he : encode i = some (BitVec.ofNat 32 n)) (hn : n < 2 ^ 32)
    (hd : i.wf = true → decodeNat n = .ok i) : Statement i := by
  intro hw w h
  rw [he, Option.some.injEq] at h
  subst h
  rw [decodeWord, BitVec.toNat_ofNat, Nat.mod_eq_of_lt hn]
  exact hd hw

/-- An event has no word. -/
theorem of_event {i : Instr} (he : encode i = none) : Statement i := by
  intro _ w h
  rw [he] at h
  cases h


theorem FlSel.code_lt (x : FlSel) : x.code < 256 := by cases x <;> decide

theorem FlSel.ofCode_code (x : FlSel) : FlSel.ofCode? x.code = some x := by cases x <;> rfl

theorem Sel.code_lt (x : Sel) : x.code < 64 := by cases x <;> decide

theorem Sel.ofCode_code (x : Sel) : Sel.ofCode? x.code = some x := by cases x <;> rfl

theorem VCond.code_lt (x : VCond) : x.code < 8 := by cases x <;> decide

theorem VCond.ofCode_code (x : VCond) : VCond.ofCode? x.code = some x := by cases x <;> rfl

theorem FCond.code_lt (x : FCond) : x.code < 8 := by cases x <;> decide

theorem FCond.ofCode_code (x : FCond) : FCond.ofCode? x.code = some x := by cases x <;> rfl

theorem RedOp.code_lt (x : RedOp) : x.code < 8 := by cases x <;> decide

theorem RedOp.ofCode_code (x : RedOp) : RedOp.ofCode? x.code = some x := by cases x <;> rfl

theorem AOp.code_lt (x : AOp) : x.code < 16 := by cases x <;> decide

theorem AOp.ofCode_code (x : AOp) : AOp.ofCode? x.code = some x := by cases x <;> rfl

theorem Size.code_lt (x : Size) : x.code < 4 := by cases x <;> decide

theorem Size.ofCode_code (x : Size) : Size.ofCode? x.code = some x := by cases x <;> rfl

theorem PrefSpace.code_lt (x : PrefSpace) : x.code < 16 := by cases x <;> decide

theorem PrefSpace.ofCode_code (x : PrefSpace) : PrefSpace.ofCode? x.code = some x := by cases x <;> rfl

theorem Scope.code_lt (x : Scope) : x.code < 8 := by cases x <;> decide

theorem Scope.ofCode_code (x : Scope) : Scope.ofCode? x.code = some x := by cases x <;> rfl

theorem Order.code_lt (x : Order) : x.code < 8 := by cases x <;> decide

theorem Order.ofCode_code (x : Order) : Order.ofCode? x.code = some x := by cases x <;> rfl

theorem PieceSize.code_lt (x : PieceSize) : x.code < 4 := by cases x <;> decide

theorem PieceSize.ofCode_code (x : PieceSize) : PieceSize.ofCode? x.code = some x := by cases x <;> rfl

theorem SlcfgForm.code_lt (x : SlcfgForm) : x.code < 256 := by cases x <;> decide

theorem SlcfgForm.ofCode_code (x : SlcfgForm) : SlcfgForm.ofCode? x.code = some x := by cases x <;> rfl

theorem TlbForm.code_lt (x : TlbForm) : x.code < 256 := by cases x <;> decide

theorem TlbForm.ofCode_code (x : TlbForm) : TlbForm.ofCode? x.code = some x := by cases x <;> rfl

theorem CacheForm.code_lt (x : CacheForm) : x.code < 256 := by cases x <;> decide

theorem CacheForm.ofCode_code (x : CacheForm) : CacheForm.ofCode? x.code = some x := by cases x <;> rfl

theorem ConvCode.code_lt (x : ConvCode) : x.code < 128 := by
  cases x with
  | type t => cases t <;> decide
  | slot k => have := k.isLt; simp only [ConvCode.code]; omega
theorem ConvCode.ofCode_code (x : ConvCode) : ConvCode.ofCode? x.code = some x := by
  cases x with
  | type t => cases t <;> rfl
  | slot k => revert k; decide


theorem fieldsVR {n op g d a b fn : Nat} (hn : encVR op g d a b fn = n) (hop : op < 64) (hg : g < 2 ^ 2) (hd : d < 2 ^ 7) (ha : a < 2 ^ 7) (hb : b < 2 ^ 7) (hfn : fn < 2 ^ 3) :
    n < 2 ^ 32 ∧
    n / 2 ^ 26 % 64 = op ∧
    n / 2 ^ 24 % 2 ^ 2 = g ∧
    n / 2 ^ 17 % 2 ^ 7 = d ∧
    n / 2 ^ 10 % 2 ^ 7 = a ∧
    n / 2 ^ 3 % 2 ^ 7 = b ∧
    n % 2 ^ 3 = fn := by
  unfold encVR at hn
  omega

theorem fieldsVI {n op g d a imm : Nat} (hn : encVI op g d a imm = n) (hop : op < 64) (hg : g < 2 ^ 2) (hd : d < 2 ^ 7) (ha : a < 2 ^ 7) (himm : imm < 2 ^ 10) :
    n < 2 ^ 32 ∧
    n / 2 ^ 26 % 64 = op ∧
    n / 2 ^ 24 % 2 ^ 2 = g ∧
    n / 2 ^ 17 % 2 ^ 7 = d ∧
    n / 2 ^ 10 % 2 ^ 7 = a ∧
    n % 2 ^ 10 = imm := by
  unfold encVI at hn
  omega

theorem fieldsSR {n op d a b fn : Nat} (hn : encSR op d a b fn = n) (hop : op < 64) (hd : d < 2 ^ 6) (ha : a < 2 ^ 6) (hb : b < 2 ^ 6) (hfn : fn < 2 ^ 6) :
    n < 2 ^ 32 ∧
    n / 2 ^ 26 % 64 = op ∧
    n / 2 ^ 24 % 4 = 0 ∧
    n / 2 ^ 18 % 2 ^ 6 = d ∧
    n / 2 ^ 12 % 2 ^ 6 = a ∧
    n / 2 ^ 6 % 2 ^ 6 = b ∧
    n % 2 ^ 6 = fn := by
  unfold encSR at hn
  omega

theorem fieldsSI {n op d a imm : Nat} (hn : encSI op d a imm = n) (hop : op < 64) (hd : d < 2 ^ 6) (ha : a < 2 ^ 6) (himm : imm < 2 ^ 12) :
    n < 2 ^ 32 ∧
    n / 2 ^ 26 % 64 = op ∧
    n / 2 ^ 24 % 4 = 0 ∧
    n / 2 ^ 18 % 2 ^ 6 = d ∧
    n / 2 ^ 12 % 2 ^ 6 = a ∧
    n % 2 ^ 12 = imm := by
  unfold encSI at hn
  omega

theorem fieldsSL {n op d hw imm : Nat} (hn : encSL op d hw imm = n) (hop : op < 64) (hd : d < 2 ^ 6) (hhw : hw < 2 ^ 2) (himm : imm < 2 ^ 16) :
    n < 2 ^ 32 ∧
    n / 2 ^ 26 % 64 = op ∧
    n / 2 ^ 24 % 4 = 0 ∧
    n / 2 ^ 18 % 2 ^ 6 = d ∧
    n / 2 ^ 16 % 2 ^ 2 = hw ∧
    n % 2 ^ 16 = imm := by
  unfold encSL at hn
  omega

theorem fieldsBR {n op t off : Nat} (hn : encBR op t off = n) (hop : op < 64) (ht : t < 2 ^ 6) (hoff : off < 2 ^ 18) :
    n < 2 ^ 32 ∧
    n / 2 ^ 26 % 64 = op ∧
    n / 2 ^ 24 % 4 = 0 ∧
    n / 2 ^ 18 % 2 ^ 6 = t ∧
    n % 2 ^ 18 = off := by
  unfold encBR at hn
  omega

theorem fieldsJ {n op off : Nat} (hn : encJ op off = n) (hop : op < 64) (hoff : off < 2 ^ 24) :
    n < 2 ^ 32 ∧
    n / 2 ^ 26 % 64 = op ∧
    n / 2 ^ 24 % 4 = 0 ∧
    n % 2 ^ 24 = off := by
  unfold encJ at hn
  omega

theorem fieldsMV {n op g d a b fn : Nat} (hn : encMV op g d a b fn = n) (hop : op < 64) (hg : g < 2 ^ 2) (hd : d < 2 ^ 7) (ha : a < 2 ^ 7) (hb : b < 2 ^ 6) (hfn : fn < 2 ^ 4) :
    n < 2 ^ 32 ∧
    n / 2 ^ 26 % 64 = op ∧
    n / 2 ^ 24 % 2 ^ 2 = g ∧
    n / 2 ^ 17 % 2 ^ 7 = d ∧
    n / 2 ^ 10 % 2 ^ 7 = a ∧
    n / 2 ^ 4 % 2 ^ 6 = b ∧
    n % 2 ^ 4 = fn := by
  unfold encMV at hn
  omega

theorem fieldsMC {n op g d b imm : Nat} (hn : encMC op g d b imm = n) (hop : op < 64) (hg : g < 2 ^ 2) (hd : d < 2 ^ 7) (hb : b < 2 ^ 6) (himm : imm < 2 ^ 11) :
    n < 2 ^ 32 ∧
    n / 2 ^ 26 % 64 = op ∧
    n / 2 ^ 24 % 2 ^ 2 = g ∧
    n / 2 ^ 17 % 2 ^ 7 = d ∧
    n / 2 ^ 11 % 2 ^ 6 = b ∧
    n % 2 ^ 11 = imm := by
  unfold encMC at hn
  omega

theorem fieldsPC {n op g pd pe a b fn : Nat} (hn : encPC op g pd pe a b fn = n) (hop : op < 64) (hg : g < 2 ^ 2) (hpd : pd < 2 ^ 4) (hpe : pe < 2 ^ 4) (ha : a < 2 ^ 7) (hb : b < 2 ^ 7) (hfn : fn < 2 ^ 2) :
    n < 2 ^ 32 ∧
    n / 2 ^ 26 % 64 = op ∧
    n / 2 ^ 24 % 2 ^ 2 = g ∧
    n / 2 ^ 20 % 2 ^ 4 = pd ∧
    n / 2 ^ 16 % 2 ^ 4 = pe ∧
    n / 2 ^ 9 % 2 ^ 7 = a ∧
    n / 2 ^ 2 % 2 ^ 7 = b ∧
    n % 2 ^ 2 = fn := by
  unfold encPC at hn
  omega

theorem fieldsX {n op g q a mg fa fb fn : Nat} (hn : encX op g q a mg fa fb fn = n) (hop : op < 64) (hg : g < 2 ^ 2) (hq : q < 2 ^ 2) (ha : a < 2 ^ 7) (hmg : mg < 2 ^ 6) (hfa : fa < 2 ^ 3) (hfb : fb < 2 ^ 3) (hfn : fn < 2 ^ 3) :
    n < 2 ^ 32 ∧
    n / 2 ^ 26 % 64 = op ∧
    n / 2 ^ 24 % 2 ^ 2 = g ∧
    n / 2 ^ 22 % 2 ^ 2 = q ∧
    n / 2 ^ 15 % 2 ^ 7 = a ∧
    n / 2 ^ 9 % 2 ^ 6 = mg ∧
    n / 2 ^ 6 % 2 ^ 3 = fa ∧
    n / 2 ^ 3 % 2 ^ 3 = fb ∧
    n % 2 ^ 3 = fn := by
  unfold encX at hn
  omega

theorem fieldsY {n op pt a b fn : Nat} (hn : encY op pt a b fn = n) (hop : op < 64) (hpt : pt < 2 ^ 5) (ha : a < 2 ^ 6) (hb : b < 2 ^ 6) (hfn : fn < 2 ^ 7) :
    n < 2 ^ 32 ∧
    n / 2 ^ 26 % 64 = op ∧
    n / 2 ^ 24 % 4 = 0 ∧
    n / 2 ^ 19 % 2 ^ 5 = pt ∧
    n / 2 ^ 13 % 2 ^ 6 = a ∧
    n / 2 ^ 7 % 2 ^ 6 = b ∧
    n % 2 ^ 7 = fn := by
  unfold encY at hn
  omega

theorem fieldsG {n op gi pA pB kinds : Nat} (hn : encG op gi pA pB kinds = n) (hop : op < 64) (hgi : gi < 2 ^ 8) (hpA : pA < 2 ^ 7) (hpB : pB < 2 ^ 7) (hkinds : kinds < 2 ^ 2) :
    n < 2 ^ 32 ∧
    n / 2 ^ 26 % 64 = op ∧
    n / 2 ^ 24 % 4 = 0 ∧
    n / 2 ^ 16 % 2 ^ 8 = gi ∧
    n / 2 ^ 9 % 2 ^ 7 = pA ∧
    n / 2 ^ 2 % 2 ^ 7 = pB ∧
    n % 2 ^ 2 = kinds := by
  unfold encG at hn
  omega

theorem fieldsSS {n op d a sel fn : Nat} (hn : encSS op d a sel fn = n) (hop : op < 64) (hd : d < 2 ^ 6) (ha : a < 2 ^ 6) (hsel : sel < 2 ^ 8) (hfn : fn < 2 ^ 4) :
    n < 2 ^ 32 ∧
    n / 2 ^ 26 % 64 = op ∧
    n / 2 ^ 24 % 4 = 0 ∧
    n / 2 ^ 18 % 2 ^ 6 = d ∧
    n / 2 ^ 12 % 2 ^ 6 = a ∧
    n / 2 ^ 4 % 2 ^ 8 = sel ∧
    n % 2 ^ 4 = fn := by
  unfold encSS at hn
  omega

theorem fieldsSV {n op g d a b fn : Nat} (hn : encSV op g d a b fn = n) (hop : op < 64) (hg : g < 2 ^ 2) (hd : d < 2 ^ 7) (ha : a < 2 ^ 7) (hb : b < 2 ^ 6) (hfn : fn < 2 ^ 4) :
    n < 2 ^ 32 ∧
    n / 2 ^ 26 % 64 = op ∧
    n / 2 ^ 24 % 2 ^ 2 = g ∧
    n / 2 ^ 17 % 2 ^ 7 = d ∧
    n / 2 ^ 10 % 2 ^ 7 = a ∧
    n / 2 ^ 4 % 2 ^ 6 = b ∧
    n % 2 ^ 4 = fn := by
  unfold encSV at hn
  omega

theorem fieldsSM {n op imm fn : Nat} (hn : encSM op imm fn = n) (hop : op < 64) (himm : imm < 2 ^ 20) (hfn : fn < 2 ^ 4) :
    n < 2 ^ 32 ∧
    n / 2 ^ 26 % 64 = op ∧
    n / 2 ^ 24 % 4 = 0 ∧
    n / 2 ^ 4 % 2 ^ 20 = imm ∧
    n % 2 ^ 4 = fn := by
  unfold encSM at hn
  omega

theorem settle_ok {n : Nat} {lane : Bool} {zeros : List (Nat × Nat)} {i : Instr} (hg : lane = true ∨ n / 2 ^ 24 % 4 = 0)
    (hz : ∀ z ∈ zeros, n / 2 ^ z.1 % 2 ^ z.2 = 0) (hw : i.wf = true) : settle n lane zeros (some i) = .ok i := by
  have h1 : (!lane && n / 2 ^ 24 % 4 != 0) = false := by
    rcases hg with h | h
    · rw [h]; rfl
    · rw [h]; cases lane <;> rfl
  have h2 : (zeros.any fun z => n / 2 ^ z.1 % 2 ^ z.2 != 0) = false := by
    rw [List.any_eq_false]
    intro z hzz
    simp [hz z hzz]
  simp only [settle, h1, h2, hw, Bool.false_eq_true, if_false, if_true]

theorem branch (x0 : BitVec 24) : Statement (.branch x0) := by
  obtain ⟨n, hn⟩ : ∃ n, encJ 0x01 x0.toNat = n := ⟨_, rfl⟩
  obtain ⟨hlt, o, hg, koff⟩ := fieldsJ hn (by decide) x0.isLt
  refine of_number (n := n) (by rw [← hn]; rfl) hlt fun hw => ?_
  clear hn
  unfold decodeNat
  rw [o]
  refine Eq.trans (b := settle n false [] (some (.branch (fld n 0)))) rfl ?_
  rw [fld_eq n 0 x0 (by first | assumption | omega)]
  exact settle_ok (.inr (by assumption)) (fun _ h => nomatch h) hw

theorem call (x0 : BitVec 24) : Statement (.call x0) := by
  obtain ⟨n, hn⟩ : ∃ n, encJ 0x02 x0.toNat = n := ⟨_, rfl⟩
  obtain ⟨hlt, o, hg, koff⟩ := fieldsJ hn (by decide) x0.isLt
  refine of_number (n := n) (by rw [← hn]; rfl) hlt fun hw => ?_
  clear hn
  unfold decodeNat
  rw [o]
  refine Eq.trans (b := settle n false [] (some (.call (fld n 0)))) rfl ?_
  rw [fld_eq n 0 x0 (by first | assumption | omega)]
  exact settle_ok (.inr (by assumption)) (fun _ h => nomatch h) hw

theorem nop : Statement (.nop) := by
  obtain ⟨n, hn⟩ : ∃ n, encSR 0x03 0 0 0 0 = n := ⟨_, rfl⟩
  obtain ⟨hlt, o, hg, kd, ka, kb, kfn⟩ := fieldsSR hn (by decide) (by decide) (by decide) (by decide) (by decide)
  refine of_number (n := n) (by rw [← hn]; rfl) hlt fun hw => ?_
  clear hn
  have p0 : n % 64 = 0 := by first | assumption | omega
  have e : decodeNat n = major03 n := by unfold decodeNat; rw [o]; rfl
  rw [e]
  unfold major03
  rw [p0]
  refine Eq.trans (b := settle n false [(6, 6), (12, 6), (18, 6)] (some (.nop))) rfl ?_
  exact settle_ok (.inr (by assumption)) (by intro z hz; simp only [List.mem_cons, List.not_mem_nil, or_false] at hz; rcases hz with rfl | rfl | rfl <;> dsimp only <;> omega) hw

theorem calls (x0 : SReg) : Statement (.calls x0) := by
  obtain ⟨n, hn⟩ : ∃ n, encSR 0x03 0 x0.toNat 0 0x1 = n := ⟨_, rfl⟩
  obtain ⟨hlt, o, hg, kd, ka, kb, kfn⟩ := fieldsSR hn (by decide) (by decide) x0.isLt (by decide) (by decide)
  refine of_number (n := n) (by rw [← hn]; rfl) hlt fun hw => ?_
  clear hn
  have p0 : n % 64 = 1 := by first | assumption | omega
  have e : decodeNat n = major03 n := by unfold decodeNat; rw [o]; rfl
  rw [e]
  unfold major03
  rw [p0]
  refine Eq.trans (b := settle n false [(6, 6), (18, 6)] (some (.calls (fld n 12)))) rfl ?_
  rw [fld_eq n 12 x0 (by first | assumption | omega)]
  exact settle_ok (.inr (by assumption)) (by intro z hz; simp only [List.mem_cons, List.not_mem_nil, or_false] at hz; rcases hz with rfl | rfl <;> dsimp only <;> omega) hw

theorem ret : Statement (.ret) := by
  obtain ⟨n, hn⟩ : ∃ n, encSR 0x03 0 0 0 0x2 = n := ⟨_, rfl⟩
  obtain ⟨hlt, o, hg, kd, ka, kb, kfn⟩ := fieldsSR hn (by decide) (by decide) (by decide) (by decide) (by decide)
  refine of_number (n := n) (by rw [← hn]; rfl) hlt fun hw => ?_
  clear hn
  have p0 : n % 64 = 2 := by first | assumption | omega
  have e : decodeNat n = major03 n := by unfold decodeNat; rw [o]; rfl
  rw [e]
  unfold major03
  rw [p0]
  refine Eq.trans (b := settle n false [(6, 6), (12, 6), (18, 6)] (some (.ret))) rfl ?_
  exact settle_ok (.inr (by assumption)) (by intro z hz; simp only [List.mem_cons, List.not_mem_nil, or_false] at hz; rcases hz with rfl | rfl | rfl <;> dsimp only <;> omega) hw

theorem jmps (x0 : SReg) : Statement (.jmps x0) := by
  obtain ⟨n, hn⟩ : ∃ n, encSR 0x03 0 x0.toNat 0 0x3 = n := ⟨_, rfl⟩
  obtain ⟨hlt, o, hg, kd, ka, kb, kfn⟩ := fieldsSR hn (by decide) (by decide) x0.isLt (by decide) (by decide)
  refine of_number (n := n) (by rw [← hn]; rfl) hlt fun hw => ?_
  clear hn
  have p0 : n % 64 = 3 := by first | assumption | omega
  have e : decodeNat n = major03 n := by unfold decodeNat; rw [o]; rfl
  rw [e]
  unfold major03
  rw [p0]
  refine Eq.trans (b := settle n false [(6, 6), (18, 6)] (some (.jmps (fld n 12)))) rfl ?_
  rw [fld_eq n 12 x0 (by first | assumption | omega)]
  exact settle_ok (.inr (by assumption)) (by intro z hz; simp only [List.mem_cons, List.not_mem_nil, or_false] at hz; rcases hz with rfl | rfl <;> dsimp only <;> omega) hw

theorem land : Statement (.land) := by
  obtain ⟨n, hn⟩ : ∃ n, encSR 0x03 0 0 0 0x4 = n := ⟨_, rfl⟩
  obtain ⟨hlt, o, hg, kd, ka, kb, kfn⟩ := fieldsSR hn (by decide) (by decide) (by decide) (by decide) (by decide)
  refine of_number (n := n) (by rw [← hn]; rfl) hlt fun hw => ?_
  clear hn
  have p0 : n % 64 = 4 := by first | assumption | omega
  have e : decodeNat n = major03 n := by unfold decodeNat; rw [o]; rfl
  rw [e]
  unfold major03
  rw [p0]
  refine Eq.trans (b := settle n false [(6, 6), (12, 6), (18, 6)] (some (.land))) rfl ?_
  exact settle_ok (.inr (by assumption)) (by intro z hz; simp only [List.mem_cons, List.not_mem_nil, or_false] at hz; rcases hz with rfl | rfl | rfl <;> dsimp only <;> omega) hw

theorem halt : Statement (.halt) := by
  obtain ⟨n, hn⟩ : ∃ n, encSR 0x03 0 0 0 0x5 = n := ⟨_, rfl⟩
  obtain ⟨hlt, o, hg, kd, ka, kb, kfn⟩ := fieldsSR hn (by decide) (by decide) (by decide) (by decide) (by decide)
  refine of_number (n := n) (by rw [← hn]; rfl) hlt fun hw => ?_
  clear hn
  have p0 : n % 64 = 5 := by first | assumption | omega
  have e : decodeNat n = major03 n := by unfold decodeNat; rw [o]; rfl
  rw [e]
  unfold major03
  rw [p0]
  refine Eq.trans (b := settle n false [(6, 6), (12, 6), (18, 6)] (some (.halt))) rfl ?_
  exact settle_ok (.inr (by assumption)) (by intro z hz; simp only [List.mem_cons, List.not_mem_nil, or_false] at hz; rcases hz with rfl | rfl | rfl <;> dsimp only <;> omega) hw

theorem poll : Statement (.poll) := by
  obtain ⟨n, hn⟩ : ∃ n, encSR 0x03 0 0 0 0x6 = n := ⟨_, rfl⟩
  obtain ⟨hlt, o, hg, kd, ka, kb, kfn⟩ := fieldsSR hn (by decide) (by decide) (by decide) (by decide) (by decide)
  refine of_number (n := n) (by rw [← hn]; rfl) hlt fun hw => ?_
  clear hn
  have p0 : n % 64 = 6 := by first | assumption | omega
  have e : decodeNat n = major03 n := by unfold decodeNat; rw [o]; rfl
  rw [e]
  unfold major03
  rw [p0]
  refine Eq.trans (b := settle n false [(6, 6), (12, 6), (18, 6)] (some (.poll))) rfl ?_
  exact settle_ok (.inr (by assumption)) (by intro z hz; simp only [List.mem_cons, List.not_mem_nil, or_false] at hz; rcases hz with rfl | rfl | rfl <;> dsimp only <;> omega) hw

theorem yield : Statement (.yield) := by
  obtain ⟨n, hn⟩ : ∃ n, encSR 0x03 0 0 0 0x7 = n := ⟨_, rfl⟩
  obtain ⟨hlt, o, hg, kd, ka, kb, kfn⟩ := fieldsSR hn (by decide) (by decide) (by decide) (by decide) (by decide)
  refine of_number (n := n) (by rw [← hn]; rfl) hlt fun hw => ?_
  clear hn
  have p0 : n % 64 = 7 := by first | assumption | omega
  have e : decodeNat n = major03 n := by unfold decodeNat; rw [o]; rfl
  rw [e]
  unfold major03
  rw [p0]
  refine Eq.trans (b := settle n false [(6, 6), (12, 6), (18, 6)] (some (.yield))) rfl ?_
  exact settle_ok (.inr (by assumption)) (by intro z hz; simp only [List.mem_cons, List.not_mem_nil, or_false] at hz; rcases hz with rfl | rfl | rfl <;> dsimp only <;> omega) hw

theorem endGroup : Statement (.endGroup) := by
  obtain ⟨n, hn⟩ : ∃ n, encSR 0x03 0 0 0 0x8 = n := ⟨_, rfl⟩
  obtain ⟨hlt, o, hg, kd, ka, kb, kfn⟩ := fieldsSR hn (by decide) (by decide) (by decide) (by decide) (by decide)
  refine of_number (n := n) (by rw [← hn]; rfl) hlt fun hw => ?_
  clear hn
  have p0 : n % 64 = 8 := by first | assumption | omega
  have e : decodeNat n = major03 n := by unfold decodeNat; rw [o]; rfl
  rw [e]
  unfold major03
  rw [p0]
  refine Eq.trans (b := settle n false [(6, 6), (12, 6), (18, 6)] (some (.endGroup))) rfl ?_
  exact settle_ok (.inr (by assumption)) (by intro z hz; simp only [List.mem_cons, List.not_mem_nil, or_false] at hz; rcases hz with rfl | rfl | rfl <;> dsimp only <;> omega) hw

theorem bz (x0 : SReg) (x1 : BitVec 18) : Statement (.bz x0 x1) := by
  obtain ⟨n, hn⟩ : ∃ n, encBR 0x04 x0.toNat x1.toNat = n := ⟨_, rfl⟩
  obtain ⟨hlt, o, hg, kt, koff⟩ := fieldsBR hn (by decide) x0.isLt x1.isLt
  refine of_number (n := n) (by rw [← hn]; rfl) hlt fun hw => ?_
  clear hn
  unfold decodeNat
  rw [o]
  refine Eq.trans (b := settle n false [] (some (.bz (fld n 18) (fld n 0)))) rfl ?_
  rw [fld_eq n 18 x0 (by first | assumption | omega), fld_eq n 0 x1 (by first | assumption | omega)]
  exact settle_ok (.inr (by assumption)) (fun _ h => nomatch h) hw

theorem bnz (x0 : SReg) (x1 : BitVec 18) : Statement (.bnz x0 x1) := by
  obtain ⟨n, hn⟩ : ∃ n, encBR 0x05 x0.toNat x1.toNat = n := ⟨_, rfl⟩
  obtain ⟨hlt, o, hg, kt, koff⟩ := fieldsBR hn (by decide) x0.isLt x1.isLt
  refine of_number (n := n) (by rw [← hn]; rfl) hlt fun hw => ?_
  clear hn
  unfold decodeNat
  rw [o]
  refine Eq.trans (b := settle n false [] (some (.bnz (fld n 18) (fld n 0)))) rfl ?_
  rw [fld_eq n 18 x0 (by first | assumption | omega), fld_eq n 0 x1 (by first | assumption | omega)]
  exact settle_ok (.inr (by assumption)) (fun _ h => nomatch h) hw

theorem bany (x0 : PReg) (x1 : BitVec 18) : Statement (.bany x0 x1) := by
  obtain ⟨n, hn⟩ : ∃ n, encBR 0x06 x0.toNat x1.toNat = n := ⟨_, rfl⟩
  obtain ⟨hlt, o, hg, kt, koff⟩ := fieldsBR hn (by decide) (by have := x0.isLt; omega) x1.isLt
  refine of_number (n := n) (by rw [← hn]; rfl) hlt fun hw => ?_
  clear hn
  unfold decodeNat
  rw [o]
  refine Eq.trans (b := settle n false [(22, 2)] (some (.bany (fld n 18) (fld n 0)))) rfl ?_
  rw [fld_eq n 18 x0 (by first | assumption | omega), fld_eq n 0 x1 (by first | assumption | omega)]
  exact settle_ok (.inr (by assumption)) (by intro z hz; simp only [List.mem_cons, List.not_mem_nil, or_false] at hz; rcases hz with rfl <;> dsimp only <;> omega) hw

theorem ball (x0 : PReg) (x1 : BitVec 18) : Statement (.ball x0 x1) := by
  obtain ⟨n, hn⟩ : ∃ n, encBR 0x07 x0.toNat x1.toNat = n := ⟨_, rfl⟩
  obtain ⟨hlt, o, hg, kt, koff⟩ := fieldsBR hn (by decide) (by have := x0.isLt; omega) x1.isLt
  refine of_number (n := n) (by rw [← hn]; rfl) hlt fun hw => ?_
  clear hn
  unfold decodeNat
  rw [o]
  refine Eq.trans (b := settle n false [(22, 2)] (some (.ball (fld n 18) (fld n 0)))) rfl ?_
  rw [fld_eq n 18 x0 (by first | assumption | omega), fld_eq n 0 x1 (by first | assumption | omega)]
  exact settle_ok (.inr (by assumption)) (by intro z hz; simp only [List.mem_cons, List.not_mem_nil, or_false] at hz; rcases hz with rfl <;> dsimp only <;> omega) hw

theorem bnone (x0 : PReg) (x1 : BitVec 18) : Statement (.bnone x0 x1) := by
  obtain ⟨n, hn⟩ : ∃ n, encBR 0x08 x0.toNat x1.toNat = n := ⟨_, rfl⟩
  obtain ⟨hlt, o, hg, kt, koff⟩ := fieldsBR hn (by decide) (by have := x0.isLt; omega) x1.isLt
  refine of_number (n := n) (by rw [← hn]; rfl) hlt fun hw => ?_
  clear hn
  unfold decodeNat
  rw [o]
  refine Eq.trans (b := settle n false [(22, 2)] (some (.bnone (fld n 18) (fld n 0)))) rfl ?_
  rw [fld_eq n 18 x0 (by first | assumption | omega), fld_eq n 0 x1 (by first | assumption | omega)]
  exact settle_ok (.inr (by assumption)) (by intro z hz; simp only [List.mem_cons, List.not_mem_nil, or_false] at hz; rcases hz with rfl <;> dsimp only <;> omega) hw

theorem jmpv (x0 : VReg) : Statement (.jmpv x0) := by
  obtain ⟨n, hn⟩ : ∃ n, encVR 0x09 0 0 x0.toNat 0 0 = n := ⟨_, rfl⟩
  obtain ⟨hlt, o, kg, kd, ka, kb, kfn⟩ := fieldsVR hn (by decide) (by decide) (by decide) x0.isLt (by decide) (by decide)
  refine of_number (n := n) (by rw [← hn]; rfl) hlt fun hw => ?_
  clear hn
  have p0 : n % 8 = 0 := by first | assumption | omega
  have e : decodeNat n = major09 n := by unfold decodeNat; rw [o]; rfl
  rw [e]
  unfold major09
  rw [p0]
  refine Eq.trans (b := settle n false [(3, 7), (17, 7)] (some (.jmpv (fld n 10)))) rfl ?_
  rw [fld_eq n 10 x0 (by first | assumption | omega)]
  exact settle_ok (.inr (by simpa using kg)) (by intro z hz; simp only [List.mem_cons, List.not_mem_nil, or_false] at hz; rcases hz with rfl | rfl <;> dsimp only <;> omega) hw

theorem add (x0 : SReg) (x1 : SReg) (x2 : SReg) : Statement (.add x0 x1 x2) := by
  obtain ⟨n, hn⟩ : ∃ n, encSR 0x0A x0.toNat x1.toNat x2.toNat 0 = n := ⟨_, rfl⟩
  obtain ⟨hlt, o, hg, kd, ka, kb, kfn⟩ := fieldsSR hn (by decide) x0.isLt x1.isLt x2.isLt (by decide)
  refine of_number (n := n) (by rw [← hn]; rfl) hlt fun hw => ?_
  clear hn
  have p0 : n % 64 = 0 := by first | assumption | omega
  have e : decodeNat n = major0A n := by unfold decodeNat; rw [o]; rfl
  rw [e]
  unfold major0A
  rw [p0]
  refine Eq.trans (b := settle n false [] (some (.add (fld n 18) (fld n 12) (fld n 6)))) rfl ?_
  rw [fld_eq n 18 x0 (by first | assumption | omega), fld_eq n 12 x1 (by first | assumption | omega), fld_eq n 6 x2 (by first | assumption | omega)]
  exact settle_ok (.inr (by assumption)) (fun _ h => nomatch h) hw

theorem sub (x0 : SReg) (x1 : SReg) (x2 : SReg) : Statement (.sub x0 x1 x2) := by
  obtain ⟨n, hn⟩ : ∃ n, encSR 0x0A x0.toNat x1.toNat x2.toNat 0x1 = n := ⟨_, rfl⟩
  obtain ⟨hlt, o, hg, kd, ka, kb, kfn⟩ := fieldsSR hn (by decide) x0.isLt x1.isLt x2.isLt (by decide)
  refine of_number (n := n) (by rw [← hn]; rfl) hlt fun hw => ?_
  clear hn
  have p0 : n % 64 = 1 := by first | assumption | omega
  have e : decodeNat n = major0A n := by unfold decodeNat; rw [o]; rfl
  rw [e]
  unfold major0A
  rw [p0]
  refine Eq.trans (b := settle n false [] (some (.sub (fld n 18) (fld n 12) (fld n 6)))) rfl ?_
  rw [fld_eq n 18 x0 (by first | assumption | omega), fld_eq n 12 x1 (by first | assumption | omega), fld_eq n 6 x2 (by first | assumption | omega)]
  exact settle_ok (.inr (by assumption)) (fun _ h => nomatch h) hw

theorem and (x0 : SReg) (x1 : SReg) (x2 : SReg) : Statement (.and x0 x1 x2) := by
  obtain ⟨n, hn⟩ : ∃ n, encSR 0x0A x0.toNat x1.toNat x2.toNat 0x2 = n := ⟨_, rfl⟩
  obtain ⟨hlt, o, hg, kd, ka, kb, kfn⟩ := fieldsSR hn (by decide) x0.isLt x1.isLt x2.isLt (by decide)
  refine of_number (n := n) (by rw [← hn]; rfl) hlt fun hw => ?_
  clear hn
  have p0 : n % 64 = 2 := by first | assumption | omega
  have e : decodeNat n = major0A n := by unfold decodeNat; rw [o]; rfl
  rw [e]
  unfold major0A
  rw [p0]
  refine Eq.trans (b := settle n false [] (some (.and (fld n 18) (fld n 12) (fld n 6)))) rfl ?_
  rw [fld_eq n 18 x0 (by first | assumption | omega), fld_eq n 12 x1 (by first | assumption | omega), fld_eq n 6 x2 (by first | assumption | omega)]
  exact settle_ok (.inr (by assumption)) (fun _ h => nomatch h) hw

theorem or (x0 : SReg) (x1 : SReg) (x2 : SReg) : Statement (.or x0 x1 x2) := by
  obtain ⟨n, hn⟩ : ∃ n, encSR 0x0A x0.toNat x1.toNat x2.toNat 0x3 = n := ⟨_, rfl⟩
  obtain ⟨hlt, o, hg, kd, ka, kb, kfn⟩ := fieldsSR hn (by decide) x0.isLt x1.isLt x2.isLt (by decide)
  refine of_number (n := n) (by rw [← hn]; rfl) hlt fun hw => ?_
  clear hn
  have p0 : n % 64 = 3 := by first | assumption | omega
  have e : decodeNat n = major0A n := by unfold decodeNat; rw [o]; rfl
  rw [e]
  unfold major0A
  rw [p0]
  refine Eq.trans (b := settle n false [] (some (.or (fld n 18) (fld n 12) (fld n 6)))) rfl ?_
  rw [fld_eq n 18 x0 (by first | assumption | omega), fld_eq n 12 x1 (by first | assumption | omega), fld_eq n 6 x2 (by first | assumption | omega)]
  exact settle_ok (.inr (by assumption)) (fun _ h => nomatch h) hw

theorem xor (x0 : SReg) (x1 : SReg) (x2 : SReg) : Statement (.xor x0 x1 x2) := by
  obtain ⟨n, hn⟩ : ∃ n, encSR 0x0A x0.toNat x1.toNat x2.toNat 0x4 = n := ⟨_, rfl⟩
  obtain ⟨hlt, o, hg, kd, ka, kb, kfn⟩ := fieldsSR hn (by decide) x0.isLt x1.isLt x2.isLt (by decide)
  refine of_number (n := n) (by rw [← hn]; rfl) hlt fun hw => ?_
  clear hn
  have p0 : n % 64 = 4 := by first | assumption | omega
  have e : decodeNat n = major0A n := by unfold decodeNat; rw [o]; rfl
  rw [e]
  unfold major0A
  rw [p0]
  refine Eq.trans (b := settle n false [] (some (.xor (fld n 18) (fld n 12) (fld n 6)))) rfl ?_
  rw [fld_eq n 18 x0 (by first | assumption | omega), fld_eq n 12 x1 (by first | assumption | omega), fld_eq n 6 x2 (by first | assumption | omega)]
  exact settle_ok (.inr (by assumption)) (fun _ h => nomatch h) hw

theorem sll (x0 : SReg) (x1 : SReg) (x2 : SReg) : Statement (.sll x0 x1 x2) := by
  obtain ⟨n, hn⟩ : ∃ n, encSR 0x0A x0.toNat x1.toNat x2.toNat 0x5 = n := ⟨_, rfl⟩
  obtain ⟨hlt, o, hg, kd, ka, kb, kfn⟩ := fieldsSR hn (by decide) x0.isLt x1.isLt x2.isLt (by decide)
  refine of_number (n := n) (by rw [← hn]; rfl) hlt fun hw => ?_
  clear hn
  have p0 : n % 64 = 5 := by first | assumption | omega
  have e : decodeNat n = major0A n := by unfold decodeNat; rw [o]; rfl
  rw [e]
  unfold major0A
  rw [p0]
  refine Eq.trans (b := settle n false [] (some (.sll (fld n 18) (fld n 12) (fld n 6)))) rfl ?_
  rw [fld_eq n 18 x0 (by first | assumption | omega), fld_eq n 12 x1 (by first | assumption | omega), fld_eq n 6 x2 (by first | assumption | omega)]
  exact settle_ok (.inr (by assumption)) (fun _ h => nomatch h) hw

theorem srl (x0 : SReg) (x1 : SReg) (x2 : SReg) : Statement (.srl x0 x1 x2) := by
  obtain ⟨n, hn⟩ : ∃ n, encSR 0x0A x0.toNat x1.toNat x2.toNat 0x6 = n := ⟨_, rfl⟩
  obtain ⟨hlt, o, hg, kd, ka, kb, kfn⟩ := fieldsSR hn (by decide) x0.isLt x1.isLt x2.isLt (by decide)
  refine of_number (n := n) (by rw [← hn]; rfl) hlt fun hw => ?_
  clear hn
  have p0 : n % 64 = 6 := by first | assumption | omega
  have e : decodeNat n = major0A n := by unfold decodeNat; rw [o]; rfl
  rw [e]
  unfold major0A
  rw [p0]
  refine Eq.trans (b := settle n false [] (some (.srl (fld n 18) (fld n 12) (fld n 6)))) rfl ?_
  rw [fld_eq n 18 x0 (by first | assumption | omega), fld_eq n 12 x1 (by first | assumption | omega), fld_eq n 6 x2 (by first | assumption | omega)]
  exact settle_ok (.inr (by assumption)) (fun _ h => nomatch h) hw

theorem sra (x0 : SReg) (x1 : SReg) (x2 : SReg) : Statement (.sra x0 x1 x2) := by
  obtain ⟨n, hn⟩ : ∃ n, encSR 0x0A x0.toNat x1.toNat x2.toNat 0x7 = n := ⟨_, rfl⟩
  obtain ⟨hlt, o, hg, kd, ka, kb, kfn⟩ := fieldsSR hn (by decide) x0.isLt x1.isLt x2.isLt (by decide)
  refine of_number (n := n) (by rw [← hn]; rfl) hlt fun hw => ?_
  clear hn
  have p0 : n % 64 = 7 := by first | assumption | omega
  have e : decodeNat n = major0A n := by unfold decodeNat; rw [o]; rfl
  rw [e]
  unfold major0A
  rw [p0]
  refine Eq.trans (b := settle n false [] (some (.sra (fld n 18) (fld n 12) (fld n 6)))) rfl ?_
  rw [fld_eq n 18 x0 (by first | assumption | omega), fld_eq n 12 x1 (by first | assumption | omega), fld_eq n 6 x2 (by first | assumption | omega)]
  exact settle_ok (.inr (by assumption)) (fun _ h => nomatch h) hw

theorem mul (x0 : SReg) (x1 : SReg) (x2 : SReg) : Statement (.mul x0 x1 x2) := by
  obtain ⟨n, hn⟩ : ∃ n, encSR 0x0A x0.toNat x1.toNat x2.toNat 0x8 = n := ⟨_, rfl⟩
  obtain ⟨hlt, o, hg, kd, ka, kb, kfn⟩ := fieldsSR hn (by decide) x0.isLt x1.isLt x2.isLt (by decide)
  refine of_number (n := n) (by rw [← hn]; rfl) hlt fun hw => ?_
  clear hn
  have p0 : n % 64 = 8 := by first | assumption | omega
  have e : decodeNat n = major0A n := by unfold decodeNat; rw [o]; rfl
  rw [e]
  unfold major0A
  rw [p0]
  refine Eq.trans (b := settle n false [] (some (.mul (fld n 18) (fld n 12) (fld n 6)))) rfl ?_
  rw [fld_eq n 18 x0 (by first | assumption | omega), fld_eq n 12 x1 (by first | assumption | omega), fld_eq n 6 x2 (by first | assumption | omega)]
  exact settle_ok (.inr (by assumption)) (fun _ h => nomatch h) hw

theorem mulh (x0 : SReg) (x1 : SReg) (x2 : SReg) : Statement (.mulh x0 x1 x2) := by
  obtain ⟨n, hn⟩ : ∃ n, encSR 0x0A x0.toNat x1.toNat x2.toNat 0x9 = n := ⟨_, rfl⟩
  obtain ⟨hlt, o, hg, kd, ka, kb, kfn⟩ := fieldsSR hn (by decide) x0.isLt x1.isLt x2.isLt (by decide)
  refine of_number (n := n) (by rw [← hn]; rfl) hlt fun hw => ?_
  clear hn
  have p0 : n % 64 = 9 := by first | assumption | omega
  have e : decodeNat n = major0A n := by unfold decodeNat; rw [o]; rfl
  rw [e]
  unfold major0A
  rw [p0]
  refine Eq.trans (b := settle n false [] (some (.mulh (fld n 18) (fld n 12) (fld n 6)))) rfl ?_
  rw [fld_eq n 18 x0 (by first | assumption | omega), fld_eq n 12 x1 (by first | assumption | omega), fld_eq n 6 x2 (by first | assumption | omega)]
  exact settle_ok (.inr (by assumption)) (fun _ h => nomatch h) hw

theorem mulhn (x0 : SReg) (x1 : SReg) (x2 : SReg) : Statement (.mulhn x0 x1 x2) := by
  obtain ⟨n, hn⟩ : ∃ n, encSR 0x0A x0.toNat x1.toNat x2.toNat 0xA = n := ⟨_, rfl⟩
  obtain ⟨hlt, o, hg, kd, ka, kb, kfn⟩ := fieldsSR hn (by decide) x0.isLt x1.isLt x2.isLt (by decide)
  refine of_number (n := n) (by rw [← hn]; rfl) hlt fun hw => ?_
  clear hn
  have p0 : n % 64 = 10 := by first | assumption | omega
  have e : decodeNat n = major0A n := by unfold decodeNat; rw [o]; rfl
  rw [e]
  unfold major0A
  rw [p0]
  refine Eq.trans (b := settle n false [] (some (.mulhn (fld n 18) (fld n 12) (fld n 6)))) rfl ?_
  rw [fld_eq n 18 x0 (by first | assumption | omega), fld_eq n 12 x1 (by first | assumption | omega), fld_eq n 6 x2 (by first | assumption | omega)]
  exact settle_ok (.inr (by assumption)) (fun _ h => nomatch h) hw

theorem div (x0 : SReg) (x1 : SReg) (x2 : SReg) : Statement (.div x0 x1 x2) := by
  obtain ⟨n, hn⟩ : ∃ n, encSR 0x0A x0.toNat x1.toNat x2.toNat 0xB = n := ⟨_, rfl⟩
  obtain ⟨hlt, o, hg, kd, ka, kb, kfn⟩ := fieldsSR hn (by decide) x0.isLt x1.isLt x2.isLt (by decide)
  refine of_number (n := n) (by rw [← hn]; rfl) hlt fun hw => ?_
  clear hn
  have p0 : n % 64 = 11 := by first | assumption | omega
  have e : decodeNat n = major0A n := by unfold decodeNat; rw [o]; rfl
  rw [e]
  unfold major0A
  rw [p0]
  refine Eq.trans (b := settle n false [] (some (.div (fld n 18) (fld n 12) (fld n 6)))) rfl ?_
  rw [fld_eq n 18 x0 (by first | assumption | omega), fld_eq n 12 x1 (by first | assumption | omega), fld_eq n 6 x2 (by first | assumption | omega)]
  exact settle_ok (.inr (by assumption)) (fun _ h => nomatch h) hw

theorem divn (x0 : SReg) (x1 : SReg) (x2 : SReg) : Statement (.divn x0 x1 x2) := by
  obtain ⟨n, hn⟩ : ∃ n, encSR 0x0A x0.toNat x1.toNat x2.toNat 0xC = n := ⟨_, rfl⟩
  obtain ⟨hlt, o, hg, kd, ka, kb, kfn⟩ := fieldsSR hn (by decide) x0.isLt x1.isLt x2.isLt (by decide)
  refine of_number (n := n) (by rw [← hn]; rfl) hlt fun hw => ?_
  clear hn
  have p0 : n % 64 = 12 := by first | assumption | omega
  have e : decodeNat n = major0A n := by unfold decodeNat; rw [o]; rfl
  rw [e]
  unfold major0A
  rw [p0]
  refine Eq.trans (b := settle n false [] (some (.divn (fld n 18) (fld n 12) (fld n 6)))) rfl ?_
  rw [fld_eq n 18 x0 (by first | assumption | omega), fld_eq n 12 x1 (by first | assumption | omega), fld_eq n 6 x2 (by first | assumption | omega)]
  exact settle_ok (.inr (by assumption)) (fun _ h => nomatch h) hw

theorem rem (x0 : SReg) (x1 : SReg) (x2 : SReg) : Statement (.rem x0 x1 x2) := by
  obtain ⟨n, hn⟩ : ∃ n, encSR 0x0A x0.toNat x1.toNat x2.toNat 0xD = n := ⟨_, rfl⟩
  obtain ⟨hlt, o, hg, kd, ka, kb, kfn⟩ := fieldsSR hn (by decide) x0.isLt x1.isLt x2.isLt (by decide)
  refine of_number (n := n) (by rw [← hn]; rfl) hlt fun hw => ?_
  clear hn
  have p0 : n % 64 = 13 := by first | assumption | omega
  have e : decodeNat n = major0A n := by unfold decodeNat; rw [o]; rfl
  rw [e]
  unfold major0A
  rw [p0]
  refine Eq.trans (b := settle n false [] (some (.rem (fld n 18) (fld n 12) (fld n 6)))) rfl ?_
  rw [fld_eq n 18 x0 (by first | assumption | omega), fld_eq n 12 x1 (by first | assumption | omega), fld_eq n 6 x2 (by first | assumption | omega)]
  exact settle_ok (.inr (by assumption)) (fun _ h => nomatch h) hw

theorem remn (x0 : SReg) (x1 : SReg) (x2 : SReg) : Statement (.remn x0 x1 x2) := by
  obtain ⟨n, hn⟩ : ∃ n, encSR 0x0A x0.toNat x1.toNat x2.toNat 0xE = n := ⟨_, rfl⟩
  obtain ⟨hlt, o, hg, kd, ka, kb, kfn⟩ := fieldsSR hn (by decide) x0.isLt x1.isLt x2.isLt (by decide)
  refine of_number (n := n) (by rw [← hn]; rfl) hlt fun hw => ?_
  clear hn
  have p0 : n % 64 = 14 := by first | assumption | omega
  have e : decodeNat n = major0A n := by unfold decodeNat; rw [o]; rfl
  rw [e]
  unfold major0A
  rw [p0]
  refine Eq.trans (b := settle n false [] (some (.remn (fld n 18) (fld n 12) (fld n 6)))) rfl ?_
  rw [fld_eq n 18 x0 (by first | assumption | omega), fld_eq n 12 x1 (by first | assumption | omega), fld_eq n 6 x2 (by first | assumption | omega)]
  exact settle_ok (.inr (by assumption)) (fun _ h => nomatch h) hw

theorem slt (x0 : SReg) (x1 : SReg) (x2 : SReg) : Statement (.slt x0 x1 x2) := by
  obtain ⟨n, hn⟩ : ∃ n, encSR 0x0A x0.toNat x1.toNat x2.toNat 0xF = n := ⟨_, rfl⟩
  obtain ⟨hlt, o, hg, kd, ka, kb, kfn⟩ := fieldsSR hn (by decide) x0.isLt x1.isLt x2.isLt (by decide)
  refine of_number (n := n) (by rw [← hn]; rfl) hlt fun hw => ?_
  clear hn
  have p0 : n % 64 = 15 := by first | assumption | omega
  have e : decodeNat n = major0A n := by unfold decodeNat; rw [o]; rfl
  rw [e]
  unfold major0A
  rw [p0]
  refine Eq.trans (b := settle n false [] (some (.slt (fld n 18) (fld n 12) (fld n 6)))) rfl ?_
  rw [fld_eq n 18 x0 (by first | assumption | omega), fld_eq n 12 x1 (by first | assumption | omega), fld_eq n 6 x2 (by first | assumption | omega)]
  exact settle_ok (.inr (by assumption)) (fun _ h => nomatch h) hw

theorem sltn (x0 : SReg) (x1 : SReg) (x2 : SReg) : Statement (.sltn x0 x1 x2) := by
  obtain ⟨n, hn⟩ : ∃ n, encSR 0x0A x0.toNat x1.toNat x2.toNat 0x10 = n := ⟨_, rfl⟩
  obtain ⟨hlt, o, hg, kd, ka, kb, kfn⟩ := fieldsSR hn (by decide) x0.isLt x1.isLt x2.isLt (by decide)
  refine of_number (n := n) (by rw [← hn]; rfl) hlt fun hw => ?_
  clear hn
  have p0 : n % 64 = 16 := by first | assumption | omega
  have e : decodeNat n = major0A n := by unfold decodeNat; rw [o]; rfl
  rw [e]
  unfold major0A
  rw [p0]
  refine Eq.trans (b := settle n false [] (some (.sltn (fld n 18) (fld n 12) (fld n 6)))) rfl ?_
  rw [fld_eq n 18 x0 (by first | assumption | omega), fld_eq n 12 x1 (by first | assumption | omega), fld_eq n 6 x2 (by first | assumption | omega)]
  exact settle_ok (.inr (by assumption)) (fun _ h => nomatch h) hw

theorem min (x0 : SReg) (x1 : SReg) (x2 : SReg) : Statement (.min x0 x1 x2) := by
  obtain ⟨n, hn⟩ : ∃ n, encSR 0x0A x0.toNat x1.toNat x2.toNat 0x11 = n := ⟨_, rfl⟩
  obtain ⟨hlt, o, hg, kd, ka, kb, kfn⟩ := fieldsSR hn (by decide) x0.isLt x1.isLt x2.isLt (by decide)
  refine of_number (n := n) (by rw [← hn]; rfl) hlt fun hw => ?_
  clear hn
  have p0 : n % 64 = 17 := by first | assumption | omega
  have e : decodeNat n = major0A n := by unfold decodeNat; rw [o]; rfl
  rw [e]
  unfold major0A
  rw [p0]
  refine Eq.trans (b := settle n false [] (some (.min (fld n 18) (fld n 12) (fld n 6)))) rfl ?_
  rw [fld_eq n 18 x0 (by first | assumption | omega), fld_eq n 12 x1 (by first | assumption | omega), fld_eq n 6 x2 (by first | assumption | omega)]
  exact settle_ok (.inr (by assumption)) (fun _ h => nomatch h) hw

theorem max (x0 : SReg) (x1 : SReg) (x2 : SReg) : Statement (.max x0 x1 x2) := by
  obtain ⟨n, hn⟩ : ∃ n, encSR 0x0A x0.toNat x1.toNat x2.toNat 0x12 = n := ⟨_, rfl⟩
  obtain ⟨hlt, o, hg, kd, ka, kb, kfn⟩ := fieldsSR hn (by decide) x0.isLt x1.isLt x2.isLt (by decide)
  refine of_number (n := n) (by rw [← hn]; rfl) hlt fun hw => ?_
  clear hn
  have p0 : n % 64 = 18 := by first | assumption | omega
  have e : decodeNat n = major0A n := by unfold decodeNat; rw [o]; rfl
  rw [e]
  unfold major0A
  rw [p0]
  refine Eq.trans (b := settle n false [] (some (.max (fld n 18) (fld n 12) (fld n 6)))) rfl ?_
  rw [fld_eq n 18 x0 (by first | assumption | omega), fld_eq n 12 x1 (by first | assumption | omega), fld_eq n 6 x2 (by first | assumption | omega)]
  exact settle_ok (.inr (by assumption)) (fun _ h => nomatch h) hw

theorem minn (x0 : SReg) (x1 : SReg) (x2 : SReg) : Statement (.minn x0 x1 x2) := by
  obtain ⟨n, hn⟩ : ∃ n, encSR 0x0A x0.toNat x1.toNat x2.toNat 0x13 = n := ⟨_, rfl⟩
  obtain ⟨hlt, o, hg, kd, ka, kb, kfn⟩ := fieldsSR hn (by decide) x0.isLt x1.isLt x2.isLt (by decide)
  refine of_number (n := n) (by rw [← hn]; rfl) hlt fun hw => ?_
  clear hn
  have p0 : n % 64 = 19 := by first | assumption | omega
  have e : decodeNat n = major0A n := by unfold decodeNat; rw [o]; rfl
  rw [e]
  unfold major0A
  rw [p0]
  refine Eq.trans (b := settle n false [] (some (.minn (fld n 18) (fld n 12) (fld n 6)))) rfl ?_
  rw [fld_eq n 18 x0 (by first | assumption | omega), fld_eq n 12 x1 (by first | assumption | omega), fld_eq n 6 x2 (by first | assumption | omega)]
  exact settle_ok (.inr (by assumption)) (fun _ h => nomatch h) hw

theorem maxn (x0 : SReg) (x1 : SReg) (x2 : SReg) : Statement (.maxn x0 x1 x2) := by
  obtain ⟨n, hn⟩ : ∃ n, encSR 0x0A x0.toNat x1.toNat x2.toNat 0x14 = n := ⟨_, rfl⟩
  obtain ⟨hlt, o, hg, kd, ka, kb, kfn⟩ := fieldsSR hn (by decide) x0.isLt x1.isLt x2.isLt (by decide)
  refine of_number (n := n) (by rw [← hn]; rfl) hlt fun hw => ?_
  clear hn
  have p0 : n % 64 = 20 := by first | assumption | omega
  have e : decodeNat n = major0A n := by unfold decodeNat; rw [o]; rfl
  rw [e]
  unfold major0A
  rw [p0]
  refine Eq.trans (b := settle n false [] (some (.maxn (fld n 18) (fld n 12) (fld n 6)))) rfl ?_
  rw [fld_eq n 18 x0 (by first | assumption | omega), fld_eq n 12 x1 (by first | assumption | omega), fld_eq n 6 x2 (by first | assumption | omega)]
  exact settle_ok (.inr (by assumption)) (fun _ h => nomatch h) hw

theorem seq (x0 : SReg) (x1 : SReg) (x2 : SReg) : Statement (.seq x0 x1 x2) := by
  obtain ⟨n, hn⟩ : ∃ n, encSR 0x0A x0.toNat x1.toNat x2.toNat 0x15 = n := ⟨_, rfl⟩
  obtain ⟨hlt, o, hg, kd, ka, kb, kfn⟩ := fieldsSR hn (by decide) x0.isLt x1.isLt x2.isLt (by decide)
  refine of_number (n := n) (by rw [← hn]; rfl) hlt fun hw => ?_
  clear hn
  have p0 : n % 64 = 21 := by first | assumption | omega
  have e : decodeNat n = major0A n := by unfold decodeNat; rw [o]; rfl
  rw [e]
  unfold major0A
  rw [p0]
  refine Eq.trans (b := settle n false [] (some (.seq (fld n 18) (fld n 12) (fld n 6)))) rfl ?_
  rw [fld_eq n 18 x0 (by first | assumption | omega), fld_eq n 12 x1 (by first | assumption | omega), fld_eq n 6 x2 (by first | assumption | omega)]
  exact settle_ok (.inr (by assumption)) (fun _ h => nomatch h) hw

theorem clz (x0 : SReg) (x1 : SReg) : Statement (.clz x0 x1) := by
  obtain ⟨n, hn⟩ : ∃ n, encSR 0x0A x0.toNat x1.toNat 0 0x16 = n := ⟨_, rfl⟩
  obtain ⟨hlt, o, hg, kd, ka, kb, kfn⟩ := fieldsSR hn (by decide) x0.isLt x1.isLt (by decide) (by decide)
  refine of_number (n := n) (by rw [← hn]; rfl) hlt fun hw => ?_
  clear hn
  have p0 : n % 64 = 22 := by first | assumption | omega
  have e : decodeNat n = major0A n := by unfold decodeNat; rw [o]; rfl
  rw [e]
  unfold major0A
  rw [p0]
  refine Eq.trans (b := settle n false [(6, 6)] (some (.clz (fld n 18) (fld n 12)))) rfl ?_
  rw [fld_eq n 18 x0 (by first | assumption | omega), fld_eq n 12 x1 (by first | assumption | omega)]
  exact settle_ok (.inr (by assumption)) (by intro z hz; simp only [List.mem_cons, List.not_mem_nil, or_false] at hz; rcases hz with rfl <;> dsimp only <;> omega) hw

theorem ctz (x0 : SReg) (x1 : SReg) : Statement (.ctz x0 x1) := by
  obtain ⟨n, hn⟩ : ∃ n, encSR 0x0A x0.toNat x1.toNat 0 0x17 = n := ⟨_, rfl⟩
  obtain ⟨hlt, o, hg, kd, ka, kb, kfn⟩ := fieldsSR hn (by decide) x0.isLt x1.isLt (by decide) (by decide)
  refine of_number (n := n) (by rw [← hn]; rfl) hlt fun hw => ?_
  clear hn
  have p0 : n % 64 = 23 := by first | assumption | omega
  have e : decodeNat n = major0A n := by unfold decodeNat; rw [o]; rfl
  rw [e]
  unfold major0A
  rw [p0]
  refine Eq.trans (b := settle n false [(6, 6)] (some (.ctz (fld n 18) (fld n 12)))) rfl ?_
  rw [fld_eq n 18 x0 (by first | assumption | omega), fld_eq n 12 x1 (by first | assumption | omega)]
  exact settle_ok (.inr (by assumption)) (by intro z hz; simp only [List.mem_cons, List.not_mem_nil, or_false] at hz; rcases hz with rfl <;> dsimp only <;> omega) hw

theorem popc (x0 : SReg) (x1 : SReg) : Statement (.popc x0 x1) := by
  obtain ⟨n, hn⟩ : ∃ n, encSR 0x0A x0.toNat x1.toNat 0 0x18 = n := ⟨_, rfl⟩
  obtain ⟨hlt, o, hg, kd, ka, kb, kfn⟩ := fieldsSR hn (by decide) x0.isLt x1.isLt (by decide) (by decide)
  refine of_number (n := n) (by rw [← hn]; rfl) hlt fun hw => ?_
  clear hn
  have p0 : n % 64 = 24 := by first | assumption | omega
  have e : decodeNat n = major0A n := by unfold decodeNat; rw [o]; rfl
  rw [e]
  unfold major0A
  rw [p0]
  refine Eq.trans (b := settle n false [(6, 6)] (some (.popc (fld n 18) (fld n 12)))) rfl ?_
  rw [fld_eq n 18 x0 (by first | assumption | omega), fld_eq n 12 x1 (by first | assumption | omega)]
  exact settle_ok (.inr (by assumption)) (by intro z hz; simp only [List.mem_cons, List.not_mem_nil, or_false] at hz; rcases hz with rfl <;> dsimp only <;> omega) hw

theorem addi (x0 : SReg) (x1 : SReg) (x2 : BitVec 12) : Statement (.addi x0 x1 x2) := by
  obtain ⟨n, hn⟩ : ∃ n, encSI 0x0B x0.toNat x1.toNat x2.toNat = n := ⟨_, rfl⟩
  obtain ⟨hlt, o, hg, kd, ka, kimm⟩ := fieldsSI hn (by decide) x0.isLt x1.isLt x2.isLt
  refine of_number (n := n) (by rw [← hn]; rfl) hlt fun hw => ?_
  clear hn
  unfold decodeNat
  rw [o]
  refine Eq.trans (b := settle n false [] (some (.addi (fld n 18) (fld n 12) (fld n 0)))) rfl ?_
  rw [fld_eq n 18 x0 (by first | assumption | omega), fld_eq n 12 x1 (by first | assumption | omega), fld_eq n 0 x2 (by first | assumption | omega)]
  exact settle_ok (.inr (by assumption)) (fun _ h => nomatch h) hw

theorem andi (x0 : SReg) (x1 : SReg) (x2 : BitVec 12) : Statement (.andi x0 x1 x2) := by
  obtain ⟨n, hn⟩ : ∃ n, encSI 0x0C x0.toNat x1.toNat x2.toNat = n := ⟨_, rfl⟩
  obtain ⟨hlt, o, hg, kd, ka, kimm⟩ := fieldsSI hn (by decide) x0.isLt x1.isLt x2.isLt
  refine of_number (n := n) (by rw [← hn]; rfl) hlt fun hw => ?_
  clear hn
  unfold decodeNat
  rw [o]
  refine Eq.trans (b := settle n false [] (some (.andi (fld n 18) (fld n 12) (fld n 0)))) rfl ?_
  rw [fld_eq n 18 x0 (by first | assumption | omega), fld_eq n 12 x1 (by first | assumption | omega), fld_eq n 0 x2 (by first | assumption | omega)]
  exact settle_ok (.inr (by assumption)) (fun _ h => nomatch h) hw

theorem ori (x0 : SReg) (x1 : SReg) (x2 : BitVec 12) : Statement (.ori x0 x1 x2) := by
  obtain ⟨n, hn⟩ : ∃ n, encSI 0x0D x0.toNat x1.toNat x2.toNat = n := ⟨_, rfl⟩
  obtain ⟨hlt, o, hg, kd, ka, kimm⟩ := fieldsSI hn (by decide) x0.isLt x1.isLt x2.isLt
  refine of_number (n := n) (by rw [← hn]; rfl) hlt fun hw => ?_
  clear hn
  unfold decodeNat
  rw [o]
  refine Eq.trans (b := settle n false [] (some (.ori (fld n 18) (fld n 12) (fld n 0)))) rfl ?_
  rw [fld_eq n 18 x0 (by first | assumption | omega), fld_eq n 12 x1 (by first | assumption | omega), fld_eq n 0 x2 (by first | assumption | omega)]
  exact settle_ok (.inr (by assumption)) (fun _ h => nomatch h) hw

theorem glyph (x0 : BitVec 8) (x1 : BitVec 7) (x2 : BitVec 7) (x3 : BitVec 2) : Statement (.glyph x0 x1 x2 x3) := by
  obtain ⟨n, hn⟩ : ∃ n, encG 0x0E x0.toNat x1.toNat x2.toNat x3.toNat = n := ⟨_, rfl⟩
  obtain ⟨hlt, o, hg, kgi, kpA, kpB, kkinds⟩ := fieldsG hn (by decide) x0.isLt x1.isLt x2.isLt x3.isLt
  refine of_number (n := n) (by rw [← hn]; rfl) hlt fun hw => ?_
  clear hn
  unfold decodeNat
  rw [o]
  refine Eq.trans (b := settle n false [] (some (.glyph (fld n 16) (fld n 9) (fld n 2) (fld n 0)))) rfl ?_
  rw [fld_eq n 16 x0 (by first | assumption | omega), fld_eq n 9 x1 (by first | assumption | omega), fld_eq n 2 x2 (by first | assumption | omega), fld_eq n 0 x3 (by first | assumption | omega)]
  exact settle_ok (.inr (by assumption)) (fun _ h => nomatch h) hw

theorem glyld (x0 : SReg) (x1 : BitVec 8) : Statement (.glyld x0 x1) := by
  obtain ⟨n, hn⟩ : ∃ n, encSI 0x0F 0 x0.toNat x1.toNat = n := ⟨_, rfl⟩
  obtain ⟨hlt, o, hg, kd, ka, kimm⟩ := fieldsSI hn (by decide) (by decide) x0.isLt (by have := x1.isLt; omega)
  refine of_number (n := n) (by rw [← hn]; rfl) hlt fun hw => ?_
  clear hn
  unfold decodeNat
  rw [o]
  refine Eq.trans (b := settle n false [(8, 4), (18, 6)] (some (.glyld (fld n 12) (fld n 0)))) rfl ?_
  rw [fld_eq n 12 x0 (by first | assumption | omega), fld_eq n 0 x1 (by first | assumption | omega)]
  exact settle_ok (.inr (by assumption)) (by intro z hz; simp only [List.mem_cons, List.not_mem_nil, or_false] at hz; rcases hz with rfl | rfl <;> dsimp only <;> omega) hw

theorem xori (x0 : SReg) (x1 : SReg) (x2 : BitVec 12) : Statement (.xori x0 x1 x2) := by
  obtain ⟨n, hn⟩ : ∃ n, encSI 0x10 x0.toNat x1.toNat x2.toNat = n := ⟨_, rfl⟩
  obtain ⟨hlt, o, hg, kd, ka, kimm⟩ := fieldsSI hn (by decide) x0.isLt x1.isLt x2.isLt
  refine of_number (n := n) (by rw [← hn]; rfl) hlt fun hw => ?_
  clear hn
  unfold decodeNat
  rw [o]
  refine Eq.trans (b := settle n false [] (some (.xori (fld n 18) (fld n 12) (fld n 0)))) rfl ?_
  rw [fld_eq n 18 x0 (by first | assumption | omega), fld_eq n 12 x1 (by first | assumption | omega), fld_eq n 0 x2 (by first | assumption | omega)]
  exact settle_ok (.inr (by assumption)) (fun _ h => nomatch h) hw

theorem slli (x0 : SReg) (x1 : SReg) (x2 : BitVec 6) : Statement (.slli x0 x1 x2) := by
  obtain ⟨n, hn⟩ : ∃ n, encSI 0x11 x0.toNat x1.toNat x2.toNat = n := ⟨_, rfl⟩
  obtain ⟨hlt, o, hg, kd, ka, kimm⟩ := fieldsSI hn (by decide) x0.isLt x1.isLt (by have := x2.isLt; omega)
  refine of_number (n := n) (by rw [← hn]; rfl) hlt fun hw => ?_
  clear hn
  have p0 : n / 2 ^ 6 % 4 = 0 := by first | assumption | omega
  have e : decodeNat n = major11 n := by unfold decodeNat; rw [o]; rfl
  rw [e]
  unfold major11
  rw [p0]
  refine Eq.trans (b := settle n false [(8, 4)] (some (.slli (fld n 18) (fld n 12) (fld n 0)))) rfl ?_
  rw [fld_eq n 18 x0 (by first | assumption | omega), fld_eq n 12 x1 (by first | assumption | omega), fld_eq n 0 x2 (by first | assumption | omega)]
  exact settle_ok (.inr (by assumption)) (by intro z hz; simp only [List.mem_cons, List.not_mem_nil, or_false] at hz; rcases hz with rfl <;> dsimp only <;> omega) hw

theorem srli (x0 : SReg) (x1 : SReg) (x2 : BitVec 6) : Statement (.srli x0 x1 x2) := by
  obtain ⟨n, hn⟩ : ∃ n, encSI 0x11 x0.toNat x1.toNat (x2.toNat + 0x40) = n := ⟨_, rfl⟩
  obtain ⟨hlt, o, hg, kd, ka, kimm⟩ := fieldsSI hn (by decide) x0.isLt x1.isLt (by have bx2 := x2.isLt; omega)
  refine of_number (n := n) (by rw [← hn]; rfl) hlt fun hw => ?_
  clear hn
  have p0 : n / 2 ^ 6 % 4 = 1 := by first | assumption | omega
  have e : decodeNat n = major11 n := by unfold decodeNat; rw [o]; rfl
  rw [e]
  unfold major11
  rw [p0]
  refine Eq.trans (b := settle n false [(8, 4)] (some (.srli (fld n 18) (fld n 12) (fld n 0)))) rfl ?_
  rw [fld_eq n 18 x0 (by first | assumption | omega), fld_eq n 12 x1 (by first | assumption | omega), fld_eq n 0 x2 (by first | assumption | omega)]
  exact settle_ok (.inr (by assumption)) (by intro z hz; simp only [List.mem_cons, List.not_mem_nil, or_false] at hz; rcases hz with rfl <;> dsimp only <;> omega) hw

theorem srai (x0 : SReg) (x1 : SReg) (x2 : BitVec 6) : Statement (.srai x0 x1 x2) := by
  obtain ⟨n, hn⟩ : ∃ n, encSI 0x11 x0.toNat x1.toNat (x2.toNat + 0x80) = n := ⟨_, rfl⟩
  obtain ⟨hlt, o, hg, kd, ka, kimm⟩ := fieldsSI hn (by decide) x0.isLt x1.isLt (by have bx2 := x2.isLt; omega)
  refine of_number (n := n) (by rw [← hn]; rfl) hlt fun hw => ?_
  clear hn
  have p0 : n / 2 ^ 6 % 4 = 2 := by first | assumption | omega
  have e : decodeNat n = major11 n := by unfold decodeNat; rw [o]; rfl
  rw [e]
  unfold major11
  rw [p0]
  refine Eq.trans (b := settle n false [(8, 4)] (some (.srai (fld n 18) (fld n 12) (fld n 0)))) rfl ?_
  rw [fld_eq n 18 x0 (by first | assumption | omega), fld_eq n 12 x1 (by first | assumption | omega), fld_eq n 0 x2 (by first | assumption | omega)]
  exact settle_ok (.inr (by assumption)) (by intro z hz; simp only [List.mem_cons, List.not_mem_nil, or_false] at hz; rcases hz with rfl <;> dsimp only <;> omega) hw

theorem slti (x0 : SReg) (x1 : SReg) (x2 : BitVec 12) : Statement (.slti x0 x1 x2) := by
  obtain ⟨n, hn⟩ : ∃ n, encSI 0x12 x0.toNat x1.toNat x2.toNat = n := ⟨_, rfl⟩
  obtain ⟨hlt, o, hg, kd, ka, kimm⟩ := fieldsSI hn (by decide) x0.isLt x1.isLt x2.isLt
  refine of_number (n := n) (by rw [← hn]; rfl) hlt fun hw => ?_
  clear hn
  unfold decodeNat
  rw [o]
  refine Eq.trans (b := settle n false [] (some (.slti (fld n 18) (fld n 12) (fld n 0)))) rfl ?_
  rw [fld_eq n 18 x0 (by first | assumption | omega), fld_eq n 12 x1 (by first | assumption | omega), fld_eq n 0 x2 (by first | assumption | omega)]
  exact settle_ok (.inr (by assumption)) (fun _ h => nomatch h) hw

theorem liz (x0 : SReg) (x1 : BitVec 2) (x2 : BitVec 16) : Statement (.liz x0 x1 x2) := by
  obtain ⟨n, hn⟩ : ∃ n, encSL 0x13 x0.toNat x1.toNat x2.toNat = n := ⟨_, rfl⟩
  obtain ⟨hlt, o, hg, kd, khw, kimm⟩ := fieldsSL hn (by decide) x0.isLt x1.isLt x2.isLt
  refine of_number (n := n) (by rw [← hn]; rfl) hlt fun hw => ?_
  clear hn
  unfold decodeNat
  rw [o]
  refine Eq.trans (b := settle n false [] (some (.liz (fld n 18) (fld n 16) (fld n 0)))) rfl ?_
  rw [fld_eq n 18 x0 (by first | assumption | omega), fld_eq n 16 x1 (by first | assumption | omega), fld_eq n 0 x2 (by first | assumption | omega)]
  exact settle_ok (.inr (by assumption)) (fun _ h => nomatch h) hw

theorem lik (x0 : SReg) (x1 : BitVec 2) (x2 : BitVec 16) : Statement (.lik x0 x1 x2) := by
  obtain ⟨n, hn⟩ : ∃ n, encSL 0x14 x0.toNat x1.toNat x2.toNat = n := ⟨_, rfl⟩
  obtain ⟨hlt, o, hg, kd, khw, kimm⟩ := fieldsSL hn (by decide) x0.isLt x1.isLt x2.isLt
  refine of_number (n := n) (by rw [← hn]; rfl) hlt fun hw => ?_
  clear hn
  unfold decodeNat
  rw [o]
  refine Eq.trans (b := settle n false [] (some (.lik (fld n 18) (fld n 16) (fld n 0)))) rfl ?_
  rw [fld_eq n 18 x0 (by first | assumption | omega), fld_eq n 16 x1 (by first | assumption | omega), fld_eq n 0 x2 (by first | assumption | omega)]
  exact settle_ok (.inr (by assumption)) (fun _ h => nomatch h) hw

theorem ld (x0 : SReg) (x1 : SReg) (x2 : BitVec 12) : Statement (.ld x0 x1 x2) := by
  obtain ⟨n, hn⟩ : ∃ n, encSI 0x15 x0.toNat x1.toNat x2.toNat = n := ⟨_, rfl⟩
  obtain ⟨hlt, o, hg, kd, ka, kimm⟩ := fieldsSI hn (by decide) x0.isLt x1.isLt x2.isLt
  refine of_number (n := n) (by rw [← hn]; rfl) hlt fun hw => ?_
  clear hn
  unfold decodeNat
  rw [o]
  refine Eq.trans (b := settle n false [] (some (.ld (fld n 18) (fld n 12) (fld n 0)))) rfl ?_
  rw [fld_eq n 18 x0 (by first | assumption | omega), fld_eq n 12 x1 (by first | assumption | omega), fld_eq n 0 x2 (by first | assumption | omega)]
  exact settle_ok (.inr (by assumption)) (fun _ h => nomatch h) hw

theorem st (x0 : SReg) (x1 : SReg) (x2 : BitVec 12) : Statement (.st x0 x1 x2) := by
  obtain ⟨n, hn⟩ : ∃ n, encSI 0x16 x0.toNat x1.toNat x2.toNat = n := ⟨_, rfl⟩
  obtain ⟨hlt, o, hg, kd, ka, kimm⟩ := fieldsSI hn (by decide) x0.isLt x1.isLt x2.isLt
  refine of_number (n := n) (by rw [← hn]; rfl) hlt fun hw => ?_
  clear hn
  unfold decodeNat
  rw [o]
  refine Eq.trans (b := settle n false [] (some (.st (fld n 18) (fld n 12) (fld n 0)))) rfl ?_
  rw [fld_eq n 18 x0 (by first | assumption | omega), fld_eq n 12 x1 (by first | assumption | omega), fld_eq n 0 x2 (by first | assumption | omega)]
  exact settle_ok (.inr (by assumption)) (fun _ h => nomatch h) hw

theorem ldk (x0 : SReg) (x1 : SReg) (x2 : BitVec 12) : Statement (.ldk x0 x1 x2) := by
  obtain ⟨n, hn⟩ : ∃ n, encSI 0x17 x0.toNat x1.toNat x2.toNat = n := ⟨_, rfl⟩
  obtain ⟨hlt, o, hg, kd, ka, kimm⟩ := fieldsSI hn (by decide) x0.isLt x1.isLt x2.isLt
  refine of_number (n := n) (by rw [← hn]; rfl) hlt fun hw => ?_
  clear hn
  unfold decodeNat
  rw [o]
  refine Eq.trans (b := settle n false [] (some (.ldk (fld n 18) (fld n 12) (fld n 0)))) rfl ?_
  rw [fld_eq n 18 x0 (by first | assumption | omega), fld_eq n 12 x1 (by first | assumption | omega), fld_eq n 0 x2 (by first | assumption | omega)]
  exact settle_ok (.inr (by assumption)) (fun _ h => nomatch h) hw

theorem mode (x0 : SReg) (x1 : SReg) (x2 : BitVec 8) : Statement (.mode x0 x1 x2) := by
  obtain ⟨n, hn⟩ : ∃ n, encSS 0x18 x0.toNat x1.toNat x2.toNat 0 = n := ⟨_, rfl⟩
  obtain ⟨hlt, o, hg, kd, ka, ksel, kfn⟩ := fieldsSS hn (by decide) x0.isLt x1.isLt x2.isLt (by decide)
  refine of_number (n := n) (by rw [← hn]; rfl) hlt fun hw => ?_
  clear hn
  have p0 : n % 16 = 0 := by first | assumption | omega
  have e : decodeNat n = major18 n := by unfold decodeNat; rw [o]; rfl
  rw [e]
  unfold major18
  rw [p0]
  refine Eq.trans (b := settle n false [] (some (.mode (fld n 18) (fld n 12) (fld n 4)))) rfl ?_
  rw [fld_eq n 18 x0 (by first | assumption | omega), fld_eq n 12 x1 (by first | assumption | omega), fld_eq n 4 x2 (by first | assumption | omega)]
  exact settle_ok (.inr (by assumption)) (fun _ h => nomatch h) hw

theorem mdr (x0 : SReg) : Statement (.mdr x0) := by
  obtain ⟨n, hn⟩ : ∃ n, encSS 0x18 x0.toNat 0 0 0x1 = n := ⟨_, rfl⟩
  obtain ⟨hlt, o, hg, kd, ka, ksel, kfn⟩ := fieldsSS hn (by decide) x0.isLt (by decide) (by decide) (by decide)
  refine of_number (n := n) (by rw [← hn]; rfl) hlt fun hw => ?_
  clear hn
  have p0 : n % 16 = 1 := by first | assumption | omega
  have p1 : n / 2 ^ 4 % 256 = 0 := by first | assumption | omega
  have e : decodeNat n = major18 n := by unfold decodeNat; rw [o]; rfl
  rw [e]
  unfold major18
  rw [p0, p1]
  refine Eq.trans (b := settle n false [(12, 6)] (some (.mdr (fld n 18)))) rfl ?_
  rw [fld_eq n 18 x0 (by first | assumption | omega)]
  exact settle_ok (.inr (by assumption)) (by intro z hz; simp only [List.mem_cons, List.not_mem_nil, or_false] at hz; rcases hz with rfl <;> dsimp only <;> omega) hw

theorem flr (x0 : SReg) : Statement (.flr x0) := by
  obtain ⟨n, hn⟩ : ∃ n, encSS 0x18 x0.toNat 0 0 0x2 = n := ⟨_, rfl⟩
  obtain ⟨hlt, o, hg, kd, ka, ksel, kfn⟩ := fieldsSS hn (by decide) x0.isLt (by decide) (by decide) (by decide)
  refine of_number (n := n) (by rw [← hn]; rfl) hlt fun hw => ?_
  clear hn
  have p0 : n % 16 = 2 := by first | assumption | omega
  have p1 : n / 2 ^ 4 % 256 = 0 := by first | assumption | omega
  have e : decodeNat n = major18 n := by unfold decodeNat; rw [o]; rfl
  rw [e]
  unfold major18
  rw [p0, p1]
  refine Eq.trans (b := settle n false [(12, 6)] (some (.flr (fld n 18)))) rfl ?_
  rw [fld_eq n 18 x0 (by first | assumption | omega)]
  exact settle_ok (.inr (by assumption)) (by intro z hz; simp only [List.mem_cons, List.not_mem_nil, or_false] at hz; rcases hz with rfl <;> dsimp only <;> omega) hw

theorem flclr (x0 : SReg) (x1 : SReg) (x2 : FlSel) : Statement (.flclr x0 x1 x2) := by
  obtain ⟨n, hn⟩ : ∃ n, encSS 0x18 x0.toNat x1.toNat x2.code 0x3 = n := ⟨_, rfl⟩
  obtain ⟨hlt, o, hg, kd, ka, ksel, kfn⟩ := fieldsSS hn (by decide) x0.isLt x1.isLt (Nat.lt_of_lt_of_le (FlSel.code_lt x2) (by decide)) (by decide)
  refine of_number (n := n) (by rw [← hn]; rfl) hlt fun hw => ?_
  clear hn
  have bx2 := FlSel.code_lt x2
  have p0 : n % 16 = 3 := by first | assumption | omega
  have ex2 : n / 2 ^ 4 % 256 = x2.code := by omega
  have e : decodeNat n = major18 n := by unfold decodeNat; rw [o]; rfl
  rw [e]
  unfold major18
  rw [p0, ex2, FlSel.ofCode_code]
  refine Eq.trans (b := settle n false [] (some (.flclr (fld n 18) (fld n 12) x2))) rfl ?_
  rw [fld_eq n 18 x0 (by first | assumption | omega), fld_eq n 12 x1 (by first | assumption | omega)]
  exact settle_ok (.inr (by assumption)) (fun _ h => nomatch h) hw

theorem sreadScalar (x0 : SReg) (x1 : Sel) : Statement (.sreadScalar x0 x1) := by
  obtain ⟨n, hn⟩ : ∃ n, encSS 0x18 x0.toNat 0 x1.code 0x4 = n := ⟨_, rfl⟩
  obtain ⟨hlt, o, hg, kd, ka, ksel, kfn⟩ := fieldsSS hn (by decide) x0.isLt (by decide) (Nat.lt_of_lt_of_le (Sel.code_lt x1) (by decide)) (by decide)
  refine of_number (n := n) (by rw [← hn]; rfl) hlt fun hw => ?_
  clear hn
  have bx1 := Sel.code_lt x1
  have p0 : n % 16 = 4 := by first | assumption | omega
  have ex1 : n / 2 ^ 4 % 256 = x1.code := by omega
  have e : decodeNat n = major18 n := by unfold decodeNat; rw [o]; rfl
  rw [e]
  unfold major18
  rw [p0, ex1, Sel.ofCode_code]
  refine Eq.trans (b := settle n false [(12, 6)] (some (.sreadScalar (fld n 18) x1))) rfl ?_
  rw [fld_eq n 18 x0 (by first | assumption | omega)]
  exact settle_ok (.inr (by assumption)) (by intro z hz; simp only [List.mem_cons, List.not_mem_nil, or_false] at hz; rcases hz with rfl <;> dsimp only <;> omega) hw

theorem swrite (x0 : SReg) (x1 : Sel) : Statement (.swrite x0 x1) := by
  obtain ⟨n, hn⟩ : ∃ n, encSS 0x18 0 x0.toNat x1.code 0x5 = n := ⟨_, rfl⟩
  obtain ⟨hlt, o, hg, kd, ka, ksel, kfn⟩ := fieldsSS hn (by decide) (by decide) x0.isLt (Nat.lt_of_lt_of_le (Sel.code_lt x1) (by decide)) (by decide)
  refine of_number (n := n) (by rw [← hn]; rfl) hlt fun hw => ?_
  clear hn
  have bx1 := Sel.code_lt x1
  have p0 : n % 16 = 5 := by first | assumption | omega
  have ex1 : n / 2 ^ 4 % 256 = x1.code := by omega
  have e : decodeNat n = major18 n := by unfold decodeNat; rw [o]; rfl
  rw [e]
  unfold major18
  rw [p0, ex1, Sel.ofCode_code]
  refine Eq.trans (b := settle n false [(18, 6)] (some (.swrite (fld n 12) x1))) rfl ?_
  rw [fld_eq n 12 x0 (by first | assumption | omega)]
  exact settle_ok (.inr (by assumption)) (by intro z hz; simp only [List.mem_cons, List.not_mem_nil, or_false] at hz; rcases hz with rfl <;> dsimp only <;> omega) hw

theorem sreadVector (x0 : Guard) (x1 : VReg) (x2 : Sel) : Statement (.sreadVector x0 x1 x2) := by
  obtain ⟨n, hn⟩ : ∃ n, encSV 0x18 x0.toNat x1.toNat x2.code 0 0x6 = n := ⟨_, rfl⟩
  obtain ⟨hlt, o, kg, kd, ka, kb, kfn⟩ := fieldsSV hn (by decide) x0.isLt x1.isLt (Nat.lt_of_lt_of_le (Sel.code_lt x2) (by decide)) (by decide) (by decide)
  refine of_number (n := n) (by rw [← hn]; rfl) hlt fun hw => ?_
  clear hn
  have bx2 := Sel.code_lt x2
  have p0 : n % 16 = 6 := by first | assumption | omega
  have ex2 : n / 2 ^ 10 % 64 = x2.code := by omega
  have e : decodeNat n = major18 n := by unfold decodeNat; rw [o]; rfl
  rw [e]
  unfold major18
  rw [p0, ex2, Sel.ofCode_code]
  refine Eq.trans (b := settle n true [(4, 6), (16, 1)] (some (.sreadVector (fld n 24) (fld n 17) x2))) rfl ?_
  rw [fld_eq n 24 x0 (by first | assumption | omega), fld_eq n 17 x1 (by first | assumption | omega)]
  exact settle_ok (.inl rfl) (by intro z hz; simp only [List.mem_cons, List.not_mem_nil, or_false] at hz; rcases hz with rfl | rfl <;> dsimp only <;> omega) hw

theorem pand (x0 : Guard) (x1 : PReg) (x2 : PReg) (x3 : PReg) : Statement (.pand x0 x1 x2 x3) := by
  obtain ⟨n, hn⟩ : ∃ n, encVR 0x19 x0.toNat x1.toNat x2.toNat x3.toNat 0 = n := ⟨_, rfl⟩
  obtain ⟨hlt, o, kg, kd, ka, kb, kfn⟩ := fieldsVR hn (by decide) x0.isLt (by have := x1.isLt; omega) (by have := x2.isLt; omega) (by have := x3.isLt; omega) (by decide)
  refine of_number (n := n) (by rw [← hn]; rfl) hlt fun hw => ?_
  clear hn
  have p0 : n % 8 = 0 := by first | assumption | omega
  have e : decodeNat n = major19 n := by unfold decodeNat; rw [o]; rfl
  rw [e]
  unfold major19
  rw [p0]
  refine Eq.trans (b := settle n true [(7, 3), (14, 3), (21, 3)] (some (.pand (fld n 24) (fld n 17) (fld n 10) (fld n 3)))) rfl ?_
  rw [fld_eq n 24 x0 (by first | assumption | omega), fld_eq n 17 x1 (by first | assumption | omega), fld_eq n 10 x2 (by first | assumption | omega), fld_eq n 3 x3 (by first | assumption | omega)]
  exact settle_ok (.inl rfl) (by intro z hz; simp only [List.mem_cons, List.not_mem_nil, or_false] at hz; rcases hz with rfl | rfl | rfl <;> dsimp only <;> omega) hw

theorem por (x0 : Guard) (x1 : PReg) (x2 : PReg) (x3 : PReg) : Statement (.por x0 x1 x2 x3) := by
  obtain ⟨n, hn⟩ : ∃ n, encVR 0x19 x0.toNat x1.toNat x2.toNat x3.toNat 0x1 = n := ⟨_, rfl⟩
  obtain ⟨hlt, o, kg, kd, ka, kb, kfn⟩ := fieldsVR hn (by decide) x0.isLt (by have := x1.isLt; omega) (by have := x2.isLt; omega) (by have := x3.isLt; omega) (by decide)
  refine of_number (n := n) (by rw [← hn]; rfl) hlt fun hw => ?_
  clear hn
  have p0 : n % 8 = 1 := by first | assumption | omega
  have e : decodeNat n = major19 n := by unfold decodeNat; rw [o]; rfl
  rw [e]
  unfold major19
  rw [p0]
  refine Eq.trans (b := settle n true [(7, 3), (14, 3), (21, 3)] (some (.por (fld n 24) (fld n 17) (fld n 10) (fld n 3)))) rfl ?_
  rw [fld_eq n 24 x0 (by first | assumption | omega), fld_eq n 17 x1 (by first | assumption | omega), fld_eq n 10 x2 (by first | assumption | omega), fld_eq n 3 x3 (by first | assumption | omega)]
  exact settle_ok (.inl rfl) (by intro z hz; simp only [List.mem_cons, List.not_mem_nil, or_false] at hz; rcases hz with rfl | rfl | rfl <;> dsimp only <;> omega) hw

theorem pxor (x0 : Guard) (x1 : PReg) (x2 : PReg) (x3 : PReg) : Statement (.pxor x0 x1 x2 x3) := by
  obtain ⟨n, hn⟩ : ∃ n, encVR 0x19 x0.toNat x1.toNat x2.toNat x3.toNat 0x2 = n := ⟨_, rfl⟩
  obtain ⟨hlt, o, kg, kd, ka, kb, kfn⟩ := fieldsVR hn (by decide) x0.isLt (by have := x1.isLt; omega) (by have := x2.isLt; omega) (by have := x3.isLt; omega) (by decide)
  refine of_number (n := n) (by rw [← hn]; rfl) hlt fun hw => ?_
  clear hn
  have p0 : n % 8 = 2 := by first | assumption | omega
  have e : decodeNat n = major19 n := by unfold decodeNat; rw [o]; rfl
  rw [e]
  unfold major19
  rw [p0]
  refine Eq.trans (b := settle n true [(7, 3), (14, 3), (21, 3)] (some (.pxor (fld n 24) (fld n 17) (fld n 10) (fld n 3)))) rfl ?_
  rw [fld_eq n 24 x0 (by first | assumption | omega), fld_eq n 17 x1 (by first | assumption | omega), fld_eq n 10 x2 (by first | assumption | omega), fld_eq n 3 x3 (by first | assumption | omega)]
  exact settle_ok (.inl rfl) (by intro z hz; simp only [List.mem_cons, List.not_mem_nil, or_false] at hz; rcases hz with rfl | rfl | rfl <;> dsimp only <;> omega) hw

theorem pmov (x0 : Guard) (x1 : PReg) (x2 : PReg) : Statement (.pmov x0 x1 x2) := by
  obtain ⟨n, hn⟩ : ∃ n, encVR 0x19 x0.toNat x1.toNat x2.toNat 0 0x3 = n := ⟨_, rfl⟩
  obtain ⟨hlt, o, kg, kd, ka, kb, kfn⟩ := fieldsVR hn (by decide) x0.isLt (by have := x1.isLt; omega) (by have := x2.isLt; omega) (by decide) (by decide)
  refine of_number (n := n) (by rw [← hn]; rfl) hlt fun hw => ?_
  clear hn
  have p0 : n % 8 = 3 := by first | assumption | omega
  have e : decodeNat n = major19 n := by unfold decodeNat; rw [o]; rfl
  rw [e]
  unfold major19
  rw [p0]
  refine Eq.trans (b := settle n true [(3, 7), (14, 3), (21, 3)] (some (.pmov (fld n 24) (fld n 17) (fld n 10)))) rfl ?_
  rw [fld_eq n 24 x0 (by first | assumption | omega), fld_eq n 17 x1 (by first | assumption | omega), fld_eq n 10 x2 (by first | assumption | omega)]
  exact settle_ok (.inl rfl) (by intro z hz; simp only [List.mem_cons, List.not_mem_nil, or_false] at hz; rcases hz with rfl | rfl | rfl <;> dsimp only <;> omega) hw

theorem pset (x0 : Guard) (x1 : PReg) (x2 : SReg) : Statement (.pset x0 x1 x2) := by
  obtain ⟨n, hn⟩ : ∃ n, encVR 0x19 x0.toNat x1.toNat x2.toNat 0 0x4 = n := ⟨_, rfl⟩
  obtain ⟨hlt, o, kg, kd, ka, kb, kfn⟩ := fieldsVR hn (by decide) x0.isLt (by have := x1.isLt; omega) (by have := x2.isLt; omega) (by decide) (by decide)
  refine of_number (n := n) (by rw [← hn]; rfl) hlt fun hw => ?_
  clear hn
  have p0 : n % 8 = 4 := by first | assumption | omega
  have e : decodeNat n = major19 n := by unfold decodeNat; rw [o]; rfl
  rw [e]
  unfold major19
  rw [p0]
  refine Eq.trans (b := settle n true [(3, 7), (16, 1), (21, 3)] (some (.pset (fld n 24) (fld n 17) (fld n 10)))) rfl ?_
  rw [fld_eq n 24 x0 (by first | assumption | omega), fld_eq n 17 x1 (by first | assumption | omega), fld_eq n 10 x2 (by first | assumption | omega)]
  exact settle_ok (.inl rfl) (by intro z hz; simp only [List.mem_cons, List.not_mem_nil, or_false] at hz; rcases hz with rfl | rfl | rfl <;> dsimp only <;> omega) hw

theorem pget (x0 : SReg) (x1 : PReg) : Statement (.pget x0 x1) := by
  obtain ⟨n, hn⟩ : ∃ n, encVR 0x19 0 x0.toNat x1.toNat 0 0x5 = n := ⟨_, rfl⟩
  obtain ⟨hlt, o, kg, kd, ka, kb, kfn⟩ := fieldsVR hn (by decide) (by decide) (by have := x0.isLt; omega) (by have := x1.isLt; omega) (by decide) (by decide)
  refine of_number (n := n) (by rw [← hn]; rfl) hlt fun hw => ?_
  clear hn
  have p0 : n % 8 = 5 := by first | assumption | omega
  have e : decodeNat n = major19 n := by unfold decodeNat; rw [o]; rfl
  rw [e]
  unfold major19
  rw [p0]
  refine Eq.trans (b := settle n false [(3, 7), (14, 3), (23, 1)] (some (.pget (fld n 17) (fld n 10)))) rfl ?_
  rw [fld_eq n 17 x0 (by first | assumption | omega), fld_eq n 10 x1 (by first | assumption | omega)]
  exact settle_ok (.inr (by simpa using kg)) (by intro z hz; simp only [List.mem_cons, List.not_mem_nil, or_false] at hz; rcases hz with rfl | rfl | rfl <;> dsimp only <;> omega) hw

theorem pcnt (x0 : SReg) (x1 : PReg) : Statement (.pcnt x0 x1) := by
  obtain ⟨n, hn⟩ : ∃ n, encVR 0x19 0 x0.toNat x1.toNat 0 0x6 = n := ⟨_, rfl⟩
  obtain ⟨hlt, o, kg, kd, ka, kb, kfn⟩ := fieldsVR hn (by decide) (by decide) (by have := x0.isLt; omega) (by have := x1.isLt; omega) (by decide) (by decide)
  refine of_number (n := n) (by rw [← hn]; rfl) hlt fun hw => ?_
  clear hn
  have p0 : n % 8 = 6 := by first | assumption | omega
  have e : decodeNat n = major19 n := by unfold decodeNat; rw [o]; rfl
  rw [e]
  unfold major19
  rw [p0]
  refine Eq.trans (b := settle n false [(3, 7), (14, 3), (23, 1)] (some (.pcnt (fld n 17) (fld n 10)))) rfl ?_
  rw [fld_eq n 17 x0 (by first | assumption | omega), fld_eq n 10 x1 (by first | assumption | omega)]
  exact settle_ok (.inr (by simpa using kg)) (by intro z hz; simp only [List.mem_cons, List.not_mem_nil, or_false] at hz; rcases hz with rfl | rfl | rfl <;> dsimp only <;> omega) hw

theorem pfirst (x0 : SReg) (x1 : PReg) : Statement (.pfirst x0 x1) := by
  obtain ⟨n, hn⟩ : ∃ n, encVR 0x19 0 x0.toNat x1.toNat 0 0x7 = n := ⟨_, rfl⟩
  obtain ⟨hlt, o, kg, kd, ka, kb, kfn⟩ := fieldsVR hn (by decide) (by decide) (by have := x0.isLt; omega) (by have := x1.isLt; omega) (by decide) (by decide)
  refine of_number (n := n) (by rw [← hn]; rfl) hlt fun hw => ?_
  clear hn
  have p0 : n % 8 = 7 := by first | assumption | omega
  have e : decodeNat n = major19 n := by unfold decodeNat; rw [o]; rfl
  rw [e]
  unfold major19
  rw [p0]
  refine Eq.trans (b := settle n false [(3, 7), (14, 3), (23, 1)] (some (.pfirst (fld n 17) (fld n 10)))) rfl ?_
  rw [fld_eq n 17 x0 (by first | assumption | omega), fld_eq n 10 x1 (by first | assumption | omega)]
  exact settle_ok (.inr (by simpa using kg)) (by intro z hz; simp only [List.mem_cons, List.not_mem_nil, or_false] at hz; rcases hz with rfl | rfl | rfl <;> dsimp only <;> omega) hw

theorem cvt (x0 : Guard) (x1 : VReg) (x2 : VReg) (x3 : ConvCode) : Statement (.cvt x0 x1 x2 x3) := by
  obtain ⟨n, hn⟩ : ∃ n, encVR 0x1A x0.toNat x1.toNat x2.toNat x3.code 0 = n := ⟨_, rfl⟩
  obtain ⟨hlt, o, kg, kd, ka, kb, kfn⟩ := fieldsVR hn (by decide) x0.isLt x1.isLt x2.isLt (Nat.lt_of_lt_of_le (ConvCode.code_lt x3) (by decide)) (by decide)
  refine of_number (n := n) (by rw [← hn]; rfl) hlt fun hw => ?_
  clear hn
  have bx3 := ConvCode.code_lt x3
  have p0 : n % 8 = 0 := by first | assumption | omega
  have ex3 : n / 2 ^ 3 % 128 = x3.code := by omega
  have e : decodeNat n = major1A n := by unfold decodeNat; rw [o]; rfl
  rw [e]
  unfold major1A
  rw [p0, ex3, ConvCode.ofCode_code]
  refine Eq.trans (b := settle n true [] (some (.cvt (fld n 24) (fld n 17) (fld n 10) x3))) rfl ?_
  rw [fld_eq n 24 x0 (by first | assumption | omega), fld_eq n 17 x1 (by first | assumption | omega), fld_eq n 10 x2 (by first | assumption | omega)]
  exact settle_ok (.inl rfl) (fun _ h => nomatch h) hw

theorem cvtFrom (x0 : Guard) (x1 : VReg) (x2 : VReg) (x3 : ConvCode) : Statement (.cvtFrom x0 x1 x2 x3) := by
  obtain ⟨n, hn⟩ : ∃ n, encVR 0x1A x0.toNat x1.toNat x2.toNat x3.code 0x1 = n := ⟨_, rfl⟩
  obtain ⟨hlt, o, kg, kd, ka, kb, kfn⟩ := fieldsVR hn (by decide) x0.isLt x1.isLt x2.isLt (Nat.lt_of_lt_of_le (ConvCode.code_lt x3) (by decide)) (by decide)
  refine of_number (n := n) (by rw [← hn]; rfl) hlt fun hw => ?_
  clear hn
  have bx3 := ConvCode.code_lt x3
  have p0 : n % 8 = 1 := by first | assumption | omega
  have ex3 : n / 2 ^ 3 % 128 = x3.code := by omega
  have e : decodeNat n = major1A n := by unfold decodeNat; rw [o]; rfl
  rw [e]
  unfold major1A
  rw [p0, ex3, ConvCode.ofCode_code]
  refine Eq.trans (b := settle n true [] (some (.cvtFrom (fld n 24) (fld n 17) (fld n 10) x3))) rfl ?_
  rw [fld_eq n 24 x0 (by first | assumption | omega), fld_eq n 17 x1 (by first | assumption | omega), fld_eq n 10 x2 (by first | assumption | omega)]
  exact settle_ok (.inl rfl) (fun _ h => nomatch h) hw

theorem quant (x0 : Guard) (x1 : VReg) (x2 : VReg) (x3 : BitVec 3) : Statement (.quant x0 x1 x2 x3) := by
  obtain ⟨n, hn⟩ : ∃ n, encVR 0x1B x0.toNat x1.toNat x2.toNat x3.toNat 0 = n := ⟨_, rfl⟩
  obtain ⟨hlt, o, kg, kd, ka, kb, kfn⟩ := fieldsVR hn (by decide) x0.isLt x1.isLt x2.isLt (by have := x3.isLt; omega) (by decide)
  refine of_number (n := n) (by rw [← hn]; rfl) hlt fun hw => ?_
  clear hn
  have p0 : n % 8 = 0 := by first | assumption | omega
  have e : decodeNat n = major1B n := by unfold decodeNat; rw [o]; rfl
  rw [e]
  unfold major1B
  rw [p0]
  refine Eq.trans (b := settle n true [(6, 4)] (some (.quant (fld n 24) (fld n 17) (fld n 10) (fld n 3)))) rfl ?_
  rw [fld_eq n 24 x0 (by first | assumption | omega), fld_eq n 17 x1 (by first | assumption | omega), fld_eq n 10 x2 (by first | assumption | omega), fld_eq n 3 x3 (by first | assumption | omega)]
  exact settle_ok (.inl rfl) (by intro z hz; simp only [List.mem_cons, List.not_mem_nil, or_false] at hz; rcases hz with rfl <;> dsimp only <;> omega) hw

theorem deq (x0 : Guard) (x1 : VReg) (x2 : VReg) (x3 : BitVec 3) : Statement (.deq x0 x1 x2 x3) := by
  obtain ⟨n, hn⟩ : ∃ n, encVR 0x1B x0.toNat x1.toNat x2.toNat x3.toNat 0x1 = n := ⟨_, rfl⟩
  obtain ⟨hlt, o, kg, kd, ka, kb, kfn⟩ := fieldsVR hn (by decide) x0.isLt x1.isLt x2.isLt (by have := x3.isLt; omega) (by decide)
  refine of_number (n := n) (by rw [← hn]; rfl) hlt fun hw => ?_
  clear hn
  have p0 : n % 8 = 1 := by first | assumption | omega
  have e : decodeNat n = major1B n := by unfold decodeNat; rw [o]; rfl
  rw [e]
  unfold major1B
  rw [p0]
  refine Eq.trans (b := settle n true [(6, 4)] (some (.deq (fld n 24) (fld n 17) (fld n 10) (fld n 3)))) rfl ?_
  rw [fld_eq n 24 x0 (by first | assumption | omega), fld_eq n 17 x1 (by first | assumption | omega), fld_eq n 10 x2 (by first | assumption | omega), fld_eq n 3 x3 (by first | assumption | omega)]
  exact settle_ok (.inl rfl) (by intro z hz; simp only [List.mem_cons, List.not_mem_nil, or_false] at hz; rcases hz with rfl <;> dsimp only <;> omega) hw

theorem vmovi (x0 : Guard) (x1 : VReg) (x2 : BitVec 10) : Statement (.vmovi x0 x1 x2) := by
  obtain ⟨n, hn⟩ : ∃ n, encVI 0x1C x0.toNat x1.toNat 0 x2.toNat = n := ⟨_, rfl⟩
  obtain ⟨hlt, o, kg, kd, ka, kimm⟩ := fieldsVI hn (by decide) x0.isLt x1.isLt (by decide) x2.isLt
  refine of_number (n := n) (by rw [← hn]; rfl) hlt fun hw => ?_
  clear hn
  unfold decodeNat
  rw [o]
  refine Eq.trans (b := settle n true [(10, 7)] (some (.vmovi (fld n 24) (fld n 17) (fld n 0)))) rfl ?_
  rw [fld_eq n 24 x0 (by first | assumption | omega), fld_eq n 17 x1 (by first | assumption | omega), fld_eq n 0 x2 (by first | assumption | omega)]
  exact settle_ok (.inl rfl) (by intro z hz; simp only [List.mem_cons, List.not_mem_nil, or_false] at hz; rcases hz with rfl <;> dsimp only <;> omega) hw

theorem vadd (x0 : Guard) (x1 : VReg) (x2 : VReg) (x3 : VReg) : Statement (.vadd x0 x1 x2 x3) := by
  obtain ⟨n, hn⟩ : ∃ n, encVR 0x1D x0.toNat x1.toNat x2.toNat x3.toNat 0 = n := ⟨_, rfl⟩
  obtain ⟨hlt, o, kg, kd, ka, kb, kfn⟩ := fieldsVR hn (by decide) x0.isLt x1.isLt x2.isLt x3.isLt (by decide)
  refine of_number (n := n) (by rw [← hn]; rfl) hlt fun hw => ?_
  clear hn
  have p0 : n % 8 = 0 := by first | assumption | omega
  have e : decodeNat n = major1D n := by unfold decodeNat; rw [o]; rfl
  rw [e]
  unfold major1D
  rw [p0]
  refine Eq.trans (b := settle n true [] (some (.vadd (fld n 24) (fld n 17) (fld n 10) (fld n 3)))) rfl ?_
  rw [fld_eq n 24 x0 (by first | assumption | omega), fld_eq n 17 x1 (by first | assumption | omega), fld_eq n 10 x2 (by first | assumption | omega), fld_eq n 3 x3 (by first | assumption | omega)]
  exact settle_ok (.inl rfl) (fun _ h => nomatch h) hw

theorem vsub (x0 : Guard) (x1 : VReg) (x2 : VReg) (x3 : VReg) : Statement (.vsub x0 x1 x2 x3) := by
  obtain ⟨n, hn⟩ : ∃ n, encVR 0x1D x0.toNat x1.toNat x2.toNat x3.toNat 0x1 = n := ⟨_, rfl⟩
  obtain ⟨hlt, o, kg, kd, ka, kb, kfn⟩ := fieldsVR hn (by decide) x0.isLt x1.isLt x2.isLt x3.isLt (by decide)
  refine of_number (n := n) (by rw [← hn]; rfl) hlt fun hw => ?_
  clear hn
  have p0 : n % 8 = 1 := by first | assumption | omega
  have e : decodeNat n = major1D n := by unfold decodeNat; rw [o]; rfl
  rw [e]
  unfold major1D
  rw [p0]
  refine Eq.trans (b := settle n true [] (some (.vsub (fld n 24) (fld n 17) (fld n 10) (fld n 3)))) rfl ?_
  rw [fld_eq n 24 x0 (by first | assumption | omega), fld_eq n 17 x1 (by first | assumption | omega), fld_eq n 10 x2 (by first | assumption | omega), fld_eq n 3 x3 (by first | assumption | omega)]
  exact settle_ok (.inl rfl) (fun _ h => nomatch h) hw

theorem vmul (x0 : Guard) (x1 : VReg) (x2 : VReg) (x3 : VReg) : Statement (.vmul x0 x1 x2 x3) := by
  obtain ⟨n, hn⟩ : ∃ n, encVR 0x1D x0.toNat x1.toNat x2.toNat x3.toNat 0x2 = n := ⟨_, rfl⟩
  obtain ⟨hlt, o, kg, kd, ka, kb, kfn⟩ := fieldsVR hn (by decide) x0.isLt x1.isLt x2.isLt x3.isLt (by decide)
  refine of_number (n := n) (by rw [← hn]; rfl) hlt fun hw => ?_
  clear hn
  have p0 : n % 8 = 2 := by first | assumption | omega
  have e : decodeNat n = major1D n := by unfold decodeNat; rw [o]; rfl
  rw [e]
  unfold major1D
  rw [p0]
  refine Eq.trans (b := settle n true [] (some (.vmul (fld n 24) (fld n 17) (fld n 10) (fld n 3)))) rfl ?_
  rw [fld_eq n 24 x0 (by first | assumption | omega), fld_eq n 17 x1 (by first | assumption | omega), fld_eq n 10 x2 (by first | assumption | omega), fld_eq n 3 x3 (by first | assumption | omega)]
  exact settle_ok (.inl rfl) (fun _ h => nomatch h) hw

theorem vmulh (x0 : Guard) (x1 : VReg) (x2 : VReg) (x3 : VReg) : Statement (.vmulh x0 x1 x2 x3) := by
  obtain ⟨n, hn⟩ : ∃ n, encVR 0x1D x0.toNat x1.toNat x2.toNat x3.toNat 0x3 = n := ⟨_, rfl⟩
  obtain ⟨hlt, o, kg, kd, ka, kb, kfn⟩ := fieldsVR hn (by decide) x0.isLt x1.isLt x2.isLt x3.isLt (by decide)
  refine of_number (n := n) (by rw [← hn]; rfl) hlt fun hw => ?_
  clear hn
  have p0 : n % 8 = 3 := by first | assumption | omega
  have e : decodeNat n = major1D n := by unfold decodeNat; rw [o]; rfl
  rw [e]
  unfold major1D
  rw [p0]
  refine Eq.trans (b := settle n true [] (some (.vmulh (fld n 24) (fld n 17) (fld n 10) (fld n 3)))) rfl ?_
  rw [fld_eq n 24 x0 (by first | assumption | omega), fld_eq n 17 x1 (by first | assumption | omega), fld_eq n 10 x2 (by first | assumption | omega), fld_eq n 3 x3 (by first | assumption | omega)]
  exact settle_ok (.inl rfl) (fun _ h => nomatch h) hw

theorem vmin (x0 : Guard) (x1 : VReg) (x2 : VReg) (x3 : VReg) : Statement (.vmin x0 x1 x2 x3) := by
  obtain ⟨n, hn⟩ : ∃ n, encVR 0x1D x0.toNat x1.toNat x2.toNat x3.toNat 0x4 = n := ⟨_, rfl⟩
  obtain ⟨hlt, o, kg, kd, ka, kb, kfn⟩ := fieldsVR hn (by decide) x0.isLt x1.isLt x2.isLt x3.isLt (by decide)
  refine of_number (n := n) (by rw [← hn]; rfl) hlt fun hw => ?_
  clear hn
  have p0 : n % 8 = 4 := by first | assumption | omega
  have e : decodeNat n = major1D n := by unfold decodeNat; rw [o]; rfl
  rw [e]
  unfold major1D
  rw [p0]
  refine Eq.trans (b := settle n true [] (some (.vmin (fld n 24) (fld n 17) (fld n 10) (fld n 3)))) rfl ?_
  rw [fld_eq n 24 x0 (by first | assumption | omega), fld_eq n 17 x1 (by first | assumption | omega), fld_eq n 10 x2 (by first | assumption | omega), fld_eq n 3 x3 (by first | assumption | omega)]
  exact settle_ok (.inl rfl) (fun _ h => nomatch h) hw

theorem vmax (x0 : Guard) (x1 : VReg) (x2 : VReg) (x3 : VReg) : Statement (.vmax x0 x1 x2 x3) := by
  obtain ⟨n, hn⟩ : ∃ n, encVR 0x1D x0.toNat x1.toNat x2.toNat x3.toNat 0x5 = n := ⟨_, rfl⟩
  obtain ⟨hlt, o, kg, kd, ka, kb, kfn⟩ := fieldsVR hn (by decide) x0.isLt x1.isLt x2.isLt x3.isLt (by decide)
  refine of_number (n := n) (by rw [← hn]; rfl) hlt fun hw => ?_
  clear hn
  have p0 : n % 8 = 5 := by first | assumption | omega
  have e : decodeNat n = major1D n := by unfold decodeNat; rw [o]; rfl
  rw [e]
  unfold major1D
  rw [p0]
  refine Eq.trans (b := settle n true [] (some (.vmax (fld n 24) (fld n 17) (fld n 10) (fld n 3)))) rfl ?_
  rw [fld_eq n 24 x0 (by first | assumption | omega), fld_eq n 17 x1 (by first | assumption | omega), fld_eq n 10 x2 (by first | assumption | omega), fld_eq n 3 x3 (by first | assumption | omega)]
  exact settle_ok (.inl rfl) (fun _ h => nomatch h) hw

theorem vabsd (x0 : Guard) (x1 : VReg) (x2 : VReg) (x3 : VReg) : Statement (.vabsd x0 x1 x2 x3) := by
  obtain ⟨n, hn⟩ : ∃ n, encVR 0x1D x0.toNat x1.toNat x2.toNat x3.toNat 0x6 = n := ⟨_, rfl⟩
  obtain ⟨hlt, o, kg, kd, ka, kb, kfn⟩ := fieldsVR hn (by decide) x0.isLt x1.isLt x2.isLt x3.isLt (by decide)
  refine of_number (n := n) (by rw [← hn]; rfl) hlt fun hw => ?_
  clear hn
  have p0 : n % 8 = 6 := by first | assumption | omega
  have e : decodeNat n = major1D n := by unfold decodeNat; rw [o]; rfl
  rw [e]
  unfold major1D
  rw [p0]
  refine Eq.trans (b := settle n true [] (some (.vabsd (fld n 24) (fld n 17) (fld n 10) (fld n 3)))) rfl ?_
  rw [fld_eq n 24 x0 (by first | assumption | omega), fld_eq n 17 x1 (by first | assumption | omega), fld_eq n 10 x2 (by first | assumption | omega), fld_eq n 3 x3 (by first | assumption | omega)]
  exact settle_ok (.inl rfl) (fun _ h => nomatch h) hw

theorem vavg (x0 : Guard) (x1 : VReg) (x2 : VReg) (x3 : VReg) : Statement (.vavg x0 x1 x2 x3) := by
  obtain ⟨n, hn⟩ : ∃ n, encVR 0x1D x0.toNat x1.toNat x2.toNat x3.toNat 0x7 = n := ⟨_, rfl⟩
  obtain ⟨hlt, o, kg, kd, ka, kb, kfn⟩ := fieldsVR hn (by decide) x0.isLt x1.isLt x2.isLt x3.isLt (by decide)
  refine of_number (n := n) (by rw [← hn]; rfl) hlt fun hw => ?_
  clear hn
  have p0 : n % 8 = 7 := by first | assumption | omega
  have e : decodeNat n = major1D n := by unfold decodeNat; rw [o]; rfl
  rw [e]
  unfold major1D
  rw [p0]
  refine Eq.trans (b := settle n true [] (some (.vavg (fld n 24) (fld n 17) (fld n 10) (fld n 3)))) rfl ?_
  rw [fld_eq n 24 x0 (by first | assumption | omega), fld_eq n 17 x1 (by first | assumption | omega), fld_eq n 10 x2 (by first | assumption | omega), fld_eq n 3 x3 (by first | assumption | omega)]
  exact settle_ok (.inl rfl) (fun _ h => nomatch h) hw

theorem vand (x0 : Guard) (x1 : VReg) (x2 : VReg) (x3 : VReg) : Statement (.vand x0 x1 x2 x3) := by
  obtain ⟨n, hn⟩ : ∃ n, encVR 0x1E x0.toNat x1.toNat x2.toNat x3.toNat 0 = n := ⟨_, rfl⟩
  obtain ⟨hlt, o, kg, kd, ka, kb, kfn⟩ := fieldsVR hn (by decide) x0.isLt x1.isLt x2.isLt x3.isLt (by decide)
  refine of_number (n := n) (by rw [← hn]; rfl) hlt fun hw => ?_
  clear hn
  have p0 : n % 8 = 0 := by first | assumption | omega
  have e : decodeNat n = major1E n := by unfold decodeNat; rw [o]; rfl
  rw [e]
  unfold major1E
  rw [p0]
  refine Eq.trans (b := settle n true [] (some (.vand (fld n 24) (fld n 17) (fld n 10) (fld n 3)))) rfl ?_
  rw [fld_eq n 24 x0 (by first | assumption | omega), fld_eq n 17 x1 (by first | assumption | omega), fld_eq n 10 x2 (by first | assumption | omega), fld_eq n 3 x3 (by first | assumption | omega)]
  exact settle_ok (.inl rfl) (fun _ h => nomatch h) hw

theorem vor (x0 : Guard) (x1 : VReg) (x2 : VReg) (x3 : VReg) : Statement (.vor x0 x1 x2 x3) := by
  obtain ⟨n, hn⟩ : ∃ n, encVR 0x1E x0.toNat x1.toNat x2.toNat x3.toNat 0x1 = n := ⟨_, rfl⟩
  obtain ⟨hlt, o, kg, kd, ka, kb, kfn⟩ := fieldsVR hn (by decide) x0.isLt x1.isLt x2.isLt x3.isLt (by decide)
  refine of_number (n := n) (by rw [← hn]; rfl) hlt fun hw => ?_
  clear hn
  have p0 : n % 8 = 1 := by first | assumption | omega
  have e : decodeNat n = major1E n := by unfold decodeNat; rw [o]; rfl
  rw [e]
  unfold major1E
  rw [p0]
  refine Eq.trans (b := settle n true [] (some (.vor (fld n 24) (fld n 17) (fld n 10) (fld n 3)))) rfl ?_
  rw [fld_eq n 24 x0 (by first | assumption | omega), fld_eq n 17 x1 (by first | assumption | omega), fld_eq n 10 x2 (by first | assumption | omega), fld_eq n 3 x3 (by first | assumption | omega)]
  exact settle_ok (.inl rfl) (fun _ h => nomatch h) hw

theorem vxor (x0 : Guard) (x1 : VReg) (x2 : VReg) (x3 : VReg) : Statement (.vxor x0 x1 x2 x3) := by
  obtain ⟨n, hn⟩ : ∃ n, encVR 0x1E x0.toNat x1.toNat x2.toNat x3.toNat 0x2 = n := ⟨_, rfl⟩
  obtain ⟨hlt, o, kg, kd, ka, kb, kfn⟩ := fieldsVR hn (by decide) x0.isLt x1.isLt x2.isLt x3.isLt (by decide)
  refine of_number (n := n) (by rw [← hn]; rfl) hlt fun hw => ?_
  clear hn
  have p0 : n % 8 = 2 := by first | assumption | omega
  have e : decodeNat n = major1E n := by unfold decodeNat; rw [o]; rfl
  rw [e]
  unfold major1E
  rw [p0]
  refine Eq.trans (b := settle n true [] (some (.vxor (fld n 24) (fld n 17) (fld n 10) (fld n 3)))) rfl ?_
  rw [fld_eq n 24 x0 (by first | assumption | omega), fld_eq n 17 x1 (by first | assumption | omega), fld_eq n 10 x2 (by first | assumption | omega), fld_eq n 3 x3 (by first | assumption | omega)]
  exact settle_ok (.inl rfl) (fun _ h => nomatch h) hw

theorem vandn (x0 : Guard) (x1 : VReg) (x2 : VReg) (x3 : VReg) : Statement (.vandn x0 x1 x2 x3) := by
  obtain ⟨n, hn⟩ : ∃ n, encVR 0x1E x0.toNat x1.toNat x2.toNat x3.toNat 0x3 = n := ⟨_, rfl⟩
  obtain ⟨hlt, o, kg, kd, ka, kb, kfn⟩ := fieldsVR hn (by decide) x0.isLt x1.isLt x2.isLt x3.isLt (by decide)
  refine of_number (n := n) (by rw [← hn]; rfl) hlt fun hw => ?_
  clear hn
  have p0 : n % 8 = 3 := by first | assumption | omega
  have e : decodeNat n = major1E n := by unfold decodeNat; rw [o]; rfl
  rw [e]
  unfold major1E
  rw [p0]
  refine Eq.trans (b := settle n true [] (some (.vandn (fld n 24) (fld n 17) (fld n 10) (fld n 3)))) rfl ?_
  rw [fld_eq n 24 x0 (by first | assumption | omega), fld_eq n 17 x1 (by first | assumption | omega), fld_eq n 10 x2 (by first | assumption | omega), fld_eq n 3 x3 (by first | assumption | omega)]
  exact settle_ok (.inl rfl) (fun _ h => nomatch h) hw

theorem vsll (x0 : Guard) (x1 : VReg) (x2 : VReg) (x3 : VReg) : Statement (.vsll x0 x1 x2 x3) := by
  obtain ⟨n, hn⟩ : ∃ n, encVR 0x1E x0.toNat x1.toNat x2.toNat x3.toNat 0x4 = n := ⟨_, rfl⟩
  obtain ⟨hlt, o, kg, kd, ka, kb, kfn⟩ := fieldsVR hn (by decide) x0.isLt x1.isLt x2.isLt x3.isLt (by decide)
  refine of_number (n := n) (by rw [← hn]; rfl) hlt fun hw => ?_
  clear hn
  have p0 : n % 8 = 4 := by first | assumption | omega
  have e : decodeNat n = major1E n := by unfold decodeNat; rw [o]; rfl
  rw [e]
  unfold major1E
  rw [p0]
  refine Eq.trans (b := settle n true [] (some (.vsll (fld n 24) (fld n 17) (fld n 10) (fld n 3)))) rfl ?_
  rw [fld_eq n 24 x0 (by first | assumption | omega), fld_eq n 17 x1 (by first | assumption | omega), fld_eq n 10 x2 (by first | assumption | omega), fld_eq n 3 x3 (by first | assumption | omega)]
  exact settle_ok (.inl rfl) (fun _ h => nomatch h) hw

theorem vsrl (x0 : Guard) (x1 : VReg) (x2 : VReg) (x3 : VReg) : Statement (.vsrl x0 x1 x2 x3) := by
  obtain ⟨n, hn⟩ : ∃ n, encVR 0x1E x0.toNat x1.toNat x2.toNat x3.toNat 0x5 = n := ⟨_, rfl⟩
  obtain ⟨hlt, o, kg, kd, ka, kb, kfn⟩ := fieldsVR hn (by decide) x0.isLt x1.isLt x2.isLt x3.isLt (by decide)
  refine of_number (n := n) (by rw [← hn]; rfl) hlt fun hw => ?_
  clear hn
  have p0 : n % 8 = 5 := by first | assumption | omega
  have e : decodeNat n = major1E n := by unfold decodeNat; rw [o]; rfl
  rw [e]
  unfold major1E
  rw [p0]
  refine Eq.trans (b := settle n true [] (some (.vsrl (fld n 24) (fld n 17) (fld n 10) (fld n 3)))) rfl ?_
  rw [fld_eq n 24 x0 (by first | assumption | omega), fld_eq n 17 x1 (by first | assumption | omega), fld_eq n 10 x2 (by first | assumption | omega), fld_eq n 3 x3 (by first | assumption | omega)]
  exact settle_ok (.inl rfl) (fun _ h => nomatch h) hw

theorem vsra (x0 : Guard) (x1 : VReg) (x2 : VReg) (x3 : VReg) : Statement (.vsra x0 x1 x2 x3) := by
  obtain ⟨n, hn⟩ : ∃ n, encVR 0x1E x0.toNat x1.toNat x2.toNat x3.toNat 0x6 = n := ⟨_, rfl⟩
  obtain ⟨hlt, o, kg, kd, ka, kb, kfn⟩ := fieldsVR hn (by decide) x0.isLt x1.isLt x2.isLt x3.isLt (by decide)
  refine of_number (n := n) (by rw [← hn]; rfl) hlt fun hw => ?_
  clear hn
  have p0 : n % 8 = 6 := by first | assumption | omega
  have e : decodeNat n = major1E n := by unfold decodeNat; rw [o]; rfl
  rw [e]
  unfold major1E
  rw [p0]
  refine Eq.trans (b := settle n true [] (some (.vsra (fld n 24) (fld n 17) (fld n 10) (fld n 3)))) rfl ?_
  rw [fld_eq n 24 x0 (by first | assumption | omega), fld_eq n 17 x1 (by first | assumption | omega), fld_eq n 10 x2 (by first | assumption | omega), fld_eq n 3 x3 (by first | assumption | omega)]
  exact settle_ok (.inl rfl) (fun _ h => nomatch h) hw

theorem vpopc (x0 : Guard) (x1 : VReg) (x2 : VReg) : Statement (.vpopc x0 x1 x2) := by
  obtain ⟨n, hn⟩ : ∃ n, encVR 0x1E x0.toNat x1.toNat x2.toNat 0 0x7 = n := ⟨_, rfl⟩
  obtain ⟨hlt, o, kg, kd, ka, kb, kfn⟩ := fieldsVR hn (by decide) x0.isLt x1.isLt x2.isLt (by decide) (by decide)
  refine of_number (n := n) (by rw [← hn]; rfl) hlt fun hw => ?_
  clear hn
  have p0 : n % 8 = 7 := by first | assumption | omega
  have e : decodeNat n = major1E n := by unfold decodeNat; rw [o]; rfl
  rw [e]
  unfold major1E
  rw [p0]
  refine Eq.trans (b := settle n true [(3, 7)] (some (.vpopc (fld n 24) (fld n 17) (fld n 10)))) rfl ?_
  rw [fld_eq n 24 x0 (by first | assumption | omega), fld_eq n 17 x1 (by first | assumption | omega), fld_eq n 10 x2 (by first | assumption | omega)]
  exact settle_ok (.inl rfl) (by intro z hz; simp only [List.mem_cons, List.not_mem_nil, or_false] at hz; rcases hz with rfl <;> dsimp only <;> omega) hw

theorem vadds (x0 : Guard) (x1 : VReg) (x2 : VReg) (x3 : VReg) : Statement (.vadds x0 x1 x2 x3) := by
  obtain ⟨n, hn⟩ : ∃ n, encVR 0x1F x0.toNat x1.toNat x2.toNat x3.toNat 0 = n := ⟨_, rfl⟩
  obtain ⟨hlt, o, kg, kd, ka, kb, kfn⟩ := fieldsVR hn (by decide) x0.isLt x1.isLt x2.isLt x3.isLt (by decide)
  refine of_number (n := n) (by rw [← hn]; rfl) hlt fun hw => ?_
  clear hn
  have p0 : n % 8 = 0 := by first | assumption | omega
  have e : decodeNat n = major1F n := by unfold decodeNat; rw [o]; rfl
  rw [e]
  unfold major1F
  rw [p0]
  refine Eq.trans (b := settle n true [] (some (.vadds (fld n 24) (fld n 17) (fld n 10) (fld n 3)))) rfl ?_
  rw [fld_eq n 24 x0 (by first | assumption | omega), fld_eq n 17 x1 (by first | assumption | omega), fld_eq n 10 x2 (by first | assumption | omega), fld_eq n 3 x3 (by first | assumption | omega)]
  exact settle_ok (.inl rfl) (fun _ h => nomatch h) hw

theorem vsubs (x0 : Guard) (x1 : VReg) (x2 : VReg) (x3 : VReg) : Statement (.vsubs x0 x1 x2 x3) := by
  obtain ⟨n, hn⟩ : ∃ n, encVR 0x1F x0.toNat x1.toNat x2.toNat x3.toNat 0x1 = n := ⟨_, rfl⟩
  obtain ⟨hlt, o, kg, kd, ka, kb, kfn⟩ := fieldsVR hn (by decide) x0.isLt x1.isLt x2.isLt x3.isLt (by decide)
  refine of_number (n := n) (by rw [← hn]; rfl) hlt fun hw => ?_
  clear hn
  have p0 : n % 8 = 1 := by first | assumption | omega
  have e : decodeNat n = major1F n := by unfold decodeNat; rw [o]; rfl
  rw [e]
  unfold major1F
  rw [p0]
  refine Eq.trans (b := settle n true [] (some (.vsubs (fld n 24) (fld n 17) (fld n 10) (fld n 3)))) rfl ?_
  rw [fld_eq n 24 x0 (by first | assumption | omega), fld_eq n 17 x1 (by first | assumption | omega), fld_eq n 10 x2 (by first | assumption | omega), fld_eq n 3 x3 (by first | assumption | omega)]
  exact settle_ok (.inl rfl) (fun _ h => nomatch h) hw

theorem vmad (x0 : Guard) (x1 : VReg) (x2 : VReg) (x3 : VReg) : Statement (.vmad x0 x1 x2 x3) := by
  obtain ⟨n, hn⟩ : ∃ n, encVR 0x1F x0.toNat x1.toNat x2.toNat x3.toNat 0x2 = n := ⟨_, rfl⟩
  obtain ⟨hlt, o, kg, kd, ka, kb, kfn⟩ := fieldsVR hn (by decide) x0.isLt x1.isLt x2.isLt x3.isLt (by decide)
  refine of_number (n := n) (by rw [← hn]; rfl) hlt fun hw => ?_
  clear hn
  have p0 : n % 8 = 2 := by first | assumption | omega
  have e : decodeNat n = major1F n := by unfold decodeNat; rw [o]; rfl
  rw [e]
  unfold major1F
  rw [p0]
  refine Eq.trans (b := settle n true [] (some (.vmad (fld n 24) (fld n 17) (fld n 10) (fld n 3)))) rfl ?_
  rw [fld_eq n 24 x0 (by first | assumption | omega), fld_eq n 17 x1 (by first | assumption | omega), fld_eq n 10 x2 (by first | assumption | omega), fld_eq n 3 x3 (by first | assumption | omega)]
  exact settle_ok (.inl rfl) (fun _ h => nomatch h) hw

theorem vdot4 (x0 : Guard) (x1 : VReg) (x2 : VReg) (x3 : VReg) : Statement (.vdot4 x0 x1 x2 x3) := by
  obtain ⟨n, hn⟩ : ∃ n, encVR 0x1F x0.toNat x1.toNat x2.toNat x3.toNat 0x3 = n := ⟨_, rfl⟩
  obtain ⟨hlt, o, kg, kd, ka, kb, kfn⟩ := fieldsVR hn (by decide) x0.isLt x1.isLt x2.isLt x3.isLt (by decide)
  refine of_number (n := n) (by rw [← hn]; rfl) hlt fun hw => ?_
  clear hn
  have p0 : n % 8 = 3 := by first | assumption | omega
  have e : decodeNat n = major1F n := by unfold decodeNat; rw [o]; rfl
  rw [e]
  unfold major1F
  rw [p0]
  refine Eq.trans (b := settle n true [] (some (.vdot4 (fld n 24) (fld n 17) (fld n 10) (fld n 3)))) rfl ?_
  rw [fld_eq n 24 x0 (by first | assumption | omega), fld_eq n 17 x1 (by first | assumption | omega), fld_eq n 10 x2 (by first | assumption | omega), fld_eq n 3 x3 (by first | assumption | omega)]
  exact settle_ok (.inl rfl) (fun _ h => nomatch h) hw

theorem vdiv (x0 : Guard) (x1 : VReg) (x2 : VReg) (x3 : VReg) : Statement (.vdiv x0 x1 x2 x3) := by
  obtain ⟨n, hn⟩ : ∃ n, encVR 0x1F x0.toNat x1.toNat x2.toNat x3.toNat 0x4 = n := ⟨_, rfl⟩
  obtain ⟨hlt, o, kg, kd, ka, kb, kfn⟩ := fieldsVR hn (by decide) x0.isLt x1.isLt x2.isLt x3.isLt (by decide)
  refine of_number (n := n) (by rw [← hn]; rfl) hlt fun hw => ?_
  clear hn
  have p0 : n % 8 = 4 := by first | assumption | omega
  have e : decodeNat n = major1F n := by unfold decodeNat; rw [o]; rfl
  rw [e]
  unfold major1F
  rw [p0]
  refine Eq.trans (b := settle n true [] (some (.vdiv (fld n 24) (fld n 17) (fld n 10) (fld n 3)))) rfl ?_
  rw [fld_eq n 24 x0 (by first | assumption | omega), fld_eq n 17 x1 (by first | assumption | omega), fld_eq n 10 x2 (by first | assumption | omega), fld_eq n 3 x3 (by first | assumption | omega)]
  exact settle_ok (.inl rfl) (fun _ h => nomatch h) hw

theorem vrem (x0 : Guard) (x1 : VReg) (x2 : VReg) (x3 : VReg) : Statement (.vrem x0 x1 x2 x3) := by
  obtain ⟨n, hn⟩ : ∃ n, encVR 0x1F x0.toNat x1.toNat x2.toNat x3.toNat 0x5 = n := ⟨_, rfl⟩
  obtain ⟨hlt, o, kg, kd, ka, kb, kfn⟩ := fieldsVR hn (by decide) x0.isLt x1.isLt x2.isLt x3.isLt (by decide)
  refine of_number (n := n) (by rw [← hn]; rfl) hlt fun hw => ?_
  clear hn
  have p0 : n % 8 = 5 := by first | assumption | omega
  have e : decodeNat n = major1F n := by unfold decodeNat; rw [o]; rfl
  rw [e]
  unfold major1F
  rw [p0]
  refine Eq.trans (b := settle n true [] (some (.vrem (fld n 24) (fld n 17) (fld n 10) (fld n 3)))) rfl ?_
  rw [fld_eq n 24 x0 (by first | assumption | omega), fld_eq n 17 x1 (by first | assumption | omega), fld_eq n 10 x2 (by first | assumption | omega), fld_eq n 3 x3 (by first | assumption | omega)]
  exact settle_ok (.inl rfl) (fun _ h => nomatch h) hw

theorem vclz (x0 : Guard) (x1 : VReg) (x2 : VReg) : Statement (.vclz x0 x1 x2) := by
  obtain ⟨n, hn⟩ : ∃ n, encVR 0x1F x0.toNat x1.toNat x2.toNat 0 0x6 = n := ⟨_, rfl⟩
  obtain ⟨hlt, o, kg, kd, ka, kb, kfn⟩ := fieldsVR hn (by decide) x0.isLt x1.isLt x2.isLt (by decide) (by decide)
  refine of_number (n := n) (by rw [← hn]; rfl) hlt fun hw => ?_
  clear hn
  have p0 : n % 8 = 6 := by first | assumption | omega
  have e : decodeNat n = major1F n := by unfold decodeNat; rw [o]; rfl
  rw [e]
  unfold major1F
  rw [p0]
  refine Eq.trans (b := settle n true [(3, 7)] (some (.vclz (fld n 24) (fld n 17) (fld n 10)))) rfl ?_
  rw [fld_eq n 24 x0 (by first | assumption | omega), fld_eq n 17 x1 (by first | assumption | omega), fld_eq n 10 x2 (by first | assumption | omega)]
  exact settle_ok (.inl rfl) (by intro z hz; simp only [List.mem_cons, List.not_mem_nil, or_false] at hz; rcases hz with rfl <;> dsimp only <;> omega) hw

theorem vabs (x0 : Guard) (x1 : VReg) (x2 : VReg) : Statement (.vabs x0 x1 x2) := by
  obtain ⟨n, hn⟩ : ∃ n, encVR 0x1F x0.toNat x1.toNat x2.toNat 0 0x7 = n := ⟨_, rfl⟩
  obtain ⟨hlt, o, kg, kd, ka, kb, kfn⟩ := fieldsVR hn (by decide) x0.isLt x1.isLt x2.isLt (by decide) (by decide)
  refine of_number (n := n) (by rw [← hn]; rfl) hlt fun hw => ?_
  clear hn
  have p0 : n % 8 = 7 := by first | assumption | omega
  have e : decodeNat n = major1F n := by unfold decodeNat; rw [o]; rfl
  rw [e]
  unfold major1F
  rw [p0]
  refine Eq.trans (b := settle n true [(3, 7)] (some (.vabs (fld n 24) (fld n 17) (fld n 10)))) rfl ?_
  rw [fld_eq n 24 x0 (by first | assumption | omega), fld_eq n 17 x1 (by first | assumption | omega), fld_eq n 10 x2 (by first | assumption | omega)]
  exact settle_ok (.inl rfl) (by intro z hz; simp only [List.mem_cons, List.not_mem_nil, or_false] at hz; rcases hz with rfl <;> dsimp only <;> omega) hw

theorem vaddi (x0 : Guard) (x1 : VReg) (x2 : VReg) (x3 : BitVec 10) : Statement (.vaddi x0 x1 x2 x3) := by
  obtain ⟨n, hn⟩ : ∃ n, encVI 0x20 x0.toNat x1.toNat x2.toNat x3.toNat = n := ⟨_, rfl⟩
  obtain ⟨hlt, o, kg, kd, ka, kimm⟩ := fieldsVI hn (by decide) x0.isLt x1.isLt x2.isLt x3.isLt
  refine of_number (n := n) (by rw [← hn]; rfl) hlt fun hw => ?_
  clear hn
  unfold decodeNat
  rw [o]
  refine Eq.trans (b := settle n true [] (some (.vaddi (fld n 24) (fld n 17) (fld n 10) (fld n 0)))) rfl ?_
  rw [fld_eq n 24 x0 (by first | assumption | omega), fld_eq n 17 x1 (by first | assumption | omega), fld_eq n 10 x2 (by first | assumption | omega), fld_eq n 0 x3 (by first | assumption | omega)]
  exact settle_ok (.inl rfl) (fun _ h => nomatch h) hw

theorem vslli (x0 : Guard) (x1 : VReg) (x2 : VReg) (x3 : BitVec 5) : Statement (.vslli x0 x1 x2 x3) := by
  obtain ⟨n, hn⟩ : ∃ n, encVI 0x21 x0.toNat x1.toNat x2.toNat x3.toNat = n := ⟨_, rfl⟩
  obtain ⟨hlt, o, kg, kd, ka, kimm⟩ := fieldsVI hn (by decide) x0.isLt x1.isLt x2.isLt (by have := x3.isLt; omega)
  refine of_number (n := n) (by rw [← hn]; rfl) hlt fun hw => ?_
  clear hn
  have p0 : n / 2 ^ 5 % 4 = 0 := by first | assumption | omega
  have e : decodeNat n = major21 n := by unfold decodeNat; rw [o]; rfl
  rw [e]
  unfold major21
  rw [p0]
  refine Eq.trans (b := settle n true [(7, 3)] (some (.vslli (fld n 24) (fld n 17) (fld n 10) (fld n 0)))) rfl ?_
  rw [fld_eq n 24 x0 (by first | assumption | omega), fld_eq n 17 x1 (by first | assumption | omega), fld_eq n 10 x2 (by first | assumption | omega), fld_eq n 0 x3 (by first | assumption | omega)]
  exact settle_ok (.inl rfl) (by intro z hz; simp only [List.mem_cons, List.not_mem_nil, or_false] at hz; rcases hz with rfl <;> dsimp only <;> omega) hw

theorem vsrli (x0 : Guard) (x1 : VReg) (x2 : VReg) (x3 : BitVec 5) : Statement (.vsrli x0 x1 x2 x3) := by
  obtain ⟨n, hn⟩ : ∃ n, encVI 0x21 x0.toNat x1.toNat x2.toNat (x3.toNat + 0x20) = n := ⟨_, rfl⟩
  obtain ⟨hlt, o, kg, kd, ka, kimm⟩ := fieldsVI hn (by decide) x0.isLt x1.isLt x2.isLt (by have bx3 := x3.isLt; omega)
  refine of_number (n := n) (by rw [← hn]; rfl) hlt fun hw => ?_
  clear hn
  have p0 : n / 2 ^ 5 % 4 = 1 := by first | assumption | omega
  have e : decodeNat n = major21 n := by unfold decodeNat; rw [o]; rfl
  rw [e]
  unfold major21
  rw [p0]
  refine Eq.trans (b := settle n true [(7, 3)] (some (.vsrli (fld n 24) (fld n 17) (fld n 10) (fld n 0)))) rfl ?_
  rw [fld_eq n 24 x0 (by first | assumption | omega), fld_eq n 17 x1 (by first | assumption | omega), fld_eq n 10 x2 (by first | assumption | omega), fld_eq n 0 x3 (by first | assumption | omega)]
  exact settle_ok (.inl rfl) (by intro z hz; simp only [List.mem_cons, List.not_mem_nil, or_false] at hz; rcases hz with rfl <;> dsimp only <;> omega) hw

theorem vsrai (x0 : Guard) (x1 : VReg) (x2 : VReg) (x3 : BitVec 5) : Statement (.vsrai x0 x1 x2 x3) := by
  obtain ⟨n, hn⟩ : ∃ n, encVI 0x21 x0.toNat x1.toNat x2.toNat (x3.toNat + 0x40) = n := ⟨_, rfl⟩
  obtain ⟨hlt, o, kg, kd, ka, kimm⟩ := fieldsVI hn (by decide) x0.isLt x1.isLt x2.isLt (by have bx3 := x3.isLt; omega)
  refine of_number (n := n) (by rw [← hn]; rfl) hlt fun hw => ?_
  clear hn
  have p0 : n / 2 ^ 5 % 4 = 2 := by first | assumption | omega
  have e : decodeNat n = major21 n := by unfold decodeNat; rw [o]; rfl
  rw [e]
  unfold major21
  rw [p0]
  refine Eq.trans (b := settle n true [(7, 3)] (some (.vsrai (fld n 24) (fld n 17) (fld n 10) (fld n 0)))) rfl ?_
  rw [fld_eq n 24 x0 (by first | assumption | omega), fld_eq n 17 x1 (by first | assumption | omega), fld_eq n 10 x2 (by first | assumption | omega), fld_eq n 0 x3 (by first | assumption | omega)]
  exact settle_ok (.inl rfl) (by intro z hz; simp only [List.mem_cons, List.not_mem_nil, or_false] at hz; rcases hz with rfl <;> dsimp only <;> omega) hw

theorem fadd (x0 : Guard) (x1 : VReg) (x2 : VReg) (x3 : VReg) : Statement (.fadd x0 x1 x2 x3) := by
  obtain ⟨n, hn⟩ : ∃ n, encVR 0x22 x0.toNat x1.toNat x2.toNat x3.toNat 0 = n := ⟨_, rfl⟩
  obtain ⟨hlt, o, kg, kd, ka, kb, kfn⟩ := fieldsVR hn (by decide) x0.isLt x1.isLt x2.isLt x3.isLt (by decide)
  refine of_number (n := n) (by rw [← hn]; rfl) hlt fun hw => ?_
  clear hn
  have p0 : n % 8 = 0 := by first | assumption | omega
  have e : decodeNat n = major22 n := by unfold decodeNat; rw [o]; rfl
  rw [e]
  unfold major22
  rw [p0]
  refine Eq.trans (b := settle n true [] (some (.fadd (fld n 24) (fld n 17) (fld n 10) (fld n 3)))) rfl ?_
  rw [fld_eq n 24 x0 (by first | assumption | omega), fld_eq n 17 x1 (by first | assumption | omega), fld_eq n 10 x2 (by first | assumption | omega), fld_eq n 3 x3 (by first | assumption | omega)]
  exact settle_ok (.inl rfl) (fun _ h => nomatch h) hw

theorem fsub (x0 : Guard) (x1 : VReg) (x2 : VReg) (x3 : VReg) : Statement (.fsub x0 x1 x2 x3) := by
  obtain ⟨n, hn⟩ : ∃ n, encVR 0x22 x0.toNat x1.toNat x2.toNat x3.toNat 0x1 = n := ⟨_, rfl⟩
  obtain ⟨hlt, o, kg, kd, ka, kb, kfn⟩ := fieldsVR hn (by decide) x0.isLt x1.isLt x2.isLt x3.isLt (by decide)
  refine of_number (n := n) (by rw [← hn]; rfl) hlt fun hw => ?_
  clear hn
  have p0 : n % 8 = 1 := by first | assumption | omega
  have e : decodeNat n = major22 n := by unfold decodeNat; rw [o]; rfl
  rw [e]
  unfold major22
  rw [p0]
  refine Eq.trans (b := settle n true [] (some (.fsub (fld n 24) (fld n 17) (fld n 10) (fld n 3)))) rfl ?_
  rw [fld_eq n 24 x0 (by first | assumption | omega), fld_eq n 17 x1 (by first | assumption | omega), fld_eq n 10 x2 (by first | assumption | omega), fld_eq n 3 x3 (by first | assumption | omega)]
  exact settle_ok (.inl rfl) (fun _ h => nomatch h) hw

theorem fmul (x0 : Guard) (x1 : VReg) (x2 : VReg) (x3 : VReg) : Statement (.fmul x0 x1 x2 x3) := by
  obtain ⟨n, hn⟩ : ∃ n, encVR 0x22 x0.toNat x1.toNat x2.toNat x3.toNat 0x2 = n := ⟨_, rfl⟩
  obtain ⟨hlt, o, kg, kd, ka, kb, kfn⟩ := fieldsVR hn (by decide) x0.isLt x1.isLt x2.isLt x3.isLt (by decide)
  refine of_number (n := n) (by rw [← hn]; rfl) hlt fun hw => ?_
  clear hn
  have p0 : n % 8 = 2 := by first | assumption | omega
  have e : decodeNat n = major22 n := by unfold decodeNat; rw [o]; rfl
  rw [e]
  unfold major22
  rw [p0]
  refine Eq.trans (b := settle n true [] (some (.fmul (fld n 24) (fld n 17) (fld n 10) (fld n 3)))) rfl ?_
  rw [fld_eq n 24 x0 (by first | assumption | omega), fld_eq n 17 x1 (by first | assumption | omega), fld_eq n 10 x2 (by first | assumption | omega), fld_eq n 3 x3 (by first | assumption | omega)]
  exact settle_ok (.inl rfl) (fun _ h => nomatch h) hw

theorem fmin (x0 : Guard) (x1 : VReg) (x2 : VReg) (x3 : VReg) : Statement (.fmin x0 x1 x2 x3) := by
  obtain ⟨n, hn⟩ : ∃ n, encVR 0x22 x0.toNat x1.toNat x2.toNat x3.toNat 0x3 = n := ⟨_, rfl⟩
  obtain ⟨hlt, o, kg, kd, ka, kb, kfn⟩ := fieldsVR hn (by decide) x0.isLt x1.isLt x2.isLt x3.isLt (by decide)
  refine of_number (n := n) (by rw [← hn]; rfl) hlt fun hw => ?_
  clear hn
  have p0 : n % 8 = 3 := by first | assumption | omega
  have e : decodeNat n = major22 n := by unfold decodeNat; rw [o]; rfl
  rw [e]
  unfold major22
  rw [p0]
  refine Eq.trans (b := settle n true [] (some (.fmin (fld n 24) (fld n 17) (fld n 10) (fld n 3)))) rfl ?_
  rw [fld_eq n 24 x0 (by first | assumption | omega), fld_eq n 17 x1 (by first | assumption | omega), fld_eq n 10 x2 (by first | assumption | omega), fld_eq n 3 x3 (by first | assumption | omega)]
  exact settle_ok (.inl rfl) (fun _ h => nomatch h) hw

theorem fmax (x0 : Guard) (x1 : VReg) (x2 : VReg) (x3 : VReg) : Statement (.fmax x0 x1 x2 x3) := by
  obtain ⟨n, hn⟩ : ∃ n, encVR 0x22 x0.toNat x1.toNat x2.toNat x3.toNat 0x4 = n := ⟨_, rfl⟩
  obtain ⟨hlt, o, kg, kd, ka, kb, kfn⟩ := fieldsVR hn (by decide) x0.isLt x1.isLt x2.isLt x3.isLt (by decide)
  refine of_number (n := n) (by rw [← hn]; rfl) hlt fun hw => ?_
  clear hn
  have p0 : n % 8 = 4 := by first | assumption | omega
  have e : decodeNat n = major22 n := by unfold decodeNat; rw [o]; rfl
  rw [e]
  unfold major22
  rw [p0]
  refine Eq.trans (b := settle n true [] (some (.fmax (fld n 24) (fld n 17) (fld n 10) (fld n 3)))) rfl ?_
  rw [fld_eq n 24 x0 (by first | assumption | omega), fld_eq n 17 x1 (by first | assumption | omega), fld_eq n 10 x2 (by first | assumption | omega), fld_eq n 3 x3 (by first | assumption | omega)]
  exact settle_ok (.inl rfl) (fun _ h => nomatch h) hw

theorem fabs (x0 : Guard) (x1 : VReg) (x2 : VReg) : Statement (.fabs x0 x1 x2) := by
  obtain ⟨n, hn⟩ : ∃ n, encVR 0x22 x0.toNat x1.toNat x2.toNat 0 0x5 = n := ⟨_, rfl⟩
  obtain ⟨hlt, o, kg, kd, ka, kb, kfn⟩ := fieldsVR hn (by decide) x0.isLt x1.isLt x2.isLt (by decide) (by decide)
  refine of_number (n := n) (by rw [← hn]; rfl) hlt fun hw => ?_
  clear hn
  have p0 : n % 8 = 5 := by first | assumption | omega
  have e : decodeNat n = major22 n := by unfold decodeNat; rw [o]; rfl
  rw [e]
  unfold major22
  rw [p0]
  refine Eq.trans (b := settle n true [(3, 7)] (some (.fabs (fld n 24) (fld n 17) (fld n 10)))) rfl ?_
  rw [fld_eq n 24 x0 (by first | assumption | omega), fld_eq n 17 x1 (by first | assumption | omega), fld_eq n 10 x2 (by first | assumption | omega)]
  exact settle_ok (.inl rfl) (by intro z hz; simp only [List.mem_cons, List.not_mem_nil, or_false] at hz; rcases hz with rfl <;> dsimp only <;> omega) hw

theorem fneg (x0 : Guard) (x1 : VReg) (x2 : VReg) : Statement (.fneg x0 x1 x2) := by
  obtain ⟨n, hn⟩ : ∃ n, encVR 0x22 x0.toNat x1.toNat x2.toNat 0 0x6 = n := ⟨_, rfl⟩
  obtain ⟨hlt, o, kg, kd, ka, kb, kfn⟩ := fieldsVR hn (by decide) x0.isLt x1.isLt x2.isLt (by decide) (by decide)
  refine of_number (n := n) (by rw [← hn]; rfl) hlt fun hw => ?_
  clear hn
  have p0 : n % 8 = 6 := by first | assumption | omega
  have e : decodeNat n = major22 n := by unfold decodeNat; rw [o]; rfl
  rw [e]
  unfold major22
  rw [p0]
  refine Eq.trans (b := settle n true [(3, 7)] (some (.fneg (fld n 24) (fld n 17) (fld n 10)))) rfl ?_
  rw [fld_eq n 24 x0 (by first | assumption | omega), fld_eq n 17 x1 (by first | assumption | omega), fld_eq n 10 x2 (by first | assumption | omega)]
  exact settle_ok (.inl rfl) (by intro z hz; simp only [List.mem_cons, List.not_mem_nil, or_false] at hz; rcases hz with rfl <;> dsimp only <;> omega) hw

theorem fsgnj (x0 : Guard) (x1 : VReg) (x2 : VReg) (x3 : VReg) : Statement (.fsgnj x0 x1 x2 x3) := by
  obtain ⟨n, hn⟩ : ∃ n, encVR 0x22 x0.toNat x1.toNat x2.toNat x3.toNat 0x7 = n := ⟨_, rfl⟩
  obtain ⟨hlt, o, kg, kd, ka, kb, kfn⟩ := fieldsVR hn (by decide) x0.isLt x1.isLt x2.isLt x3.isLt (by decide)
  refine of_number (n := n) (by rw [← hn]; rfl) hlt fun hw => ?_
  clear hn
  have p0 : n % 8 = 7 := by first | assumption | omega
  have e : decodeNat n = major22 n := by unfold decodeNat; rw [o]; rfl
  rw [e]
  unfold major22
  rw [p0]
  refine Eq.trans (b := settle n true [] (some (.fsgnj (fld n 24) (fld n 17) (fld n 10) (fld n 3)))) rfl ?_
  rw [fld_eq n 24 x0 (by first | assumption | omega), fld_eq n 17 x1 (by first | assumption | omega), fld_eq n 10 x2 (by first | assumption | omega), fld_eq n 3 x3 (by first | assumption | omega)]
  exact settle_ok (.inl rfl) (fun _ h => nomatch h) hw

theorem fma (x0 : Guard) (x1 : VReg) (x2 : VReg) (x3 : VReg) : Statement (.fma x0 x1 x2 x3) := by
  obtain ⟨n, hn⟩ : ∃ n, encVR 0x23 x0.toNat x1.toNat x2.toNat x3.toNat 0 = n := ⟨_, rfl⟩
  obtain ⟨hlt, o, kg, kd, ka, kb, kfn⟩ := fieldsVR hn (by decide) x0.isLt x1.isLt x2.isLt x3.isLt (by decide)
  refine of_number (n := n) (by rw [← hn]; rfl) hlt fun hw => ?_
  clear hn
  have p0 : n % 8 = 0 := by first | assumption | omega
  have e : decodeNat n = major23 n := by unfold decodeNat; rw [o]; rfl
  rw [e]
  unfold major23
  rw [p0]
  refine Eq.trans (b := settle n true [] (some (.fma (fld n 24) (fld n 17) (fld n 10) (fld n 3)))) rfl ?_
  rw [fld_eq n 24 x0 (by first | assumption | omega), fld_eq n 17 x1 (by first | assumption | omega), fld_eq n 10 x2 (by first | assumption | omega), fld_eq n 3 x3 (by first | assumption | omega)]
  exact settle_ok (.inl rfl) (fun _ h => nomatch h) hw

theorem fms (x0 : Guard) (x1 : VReg) (x2 : VReg) (x3 : VReg) : Statement (.fms x0 x1 x2 x3) := by
  obtain ⟨n, hn⟩ : ∃ n, encVR 0x23 x0.toNat x1.toNat x2.toNat x3.toNat 0x1 = n := ⟨_, rfl⟩
  obtain ⟨hlt, o, kg, kd, ka, kb, kfn⟩ := fieldsVR hn (by decide) x0.isLt x1.isLt x2.isLt x3.isLt (by decide)
  refine of_number (n := n) (by rw [← hn]; rfl) hlt fun hw => ?_
  clear hn
  have p0 : n % 8 = 1 := by first | assumption | omega
  have e : decodeNat n = major23 n := by unfold decodeNat; rw [o]; rfl
  rw [e]
  unfold major23
  rw [p0]
  refine Eq.trans (b := settle n true [] (some (.fms (fld n 24) (fld n 17) (fld n 10) (fld n 3)))) rfl ?_
  rw [fld_eq n 24 x0 (by first | assumption | omega), fld_eq n 17 x1 (by first | assumption | omega), fld_eq n 10 x2 (by first | assumption | omega), fld_eq n 3 x3 (by first | assumption | omega)]
  exact settle_ok (.inl rfl) (fun _ h => nomatch h) hw

theorem fnma (x0 : Guard) (x1 : VReg) (x2 : VReg) (x3 : VReg) : Statement (.fnma x0 x1 x2 x3) := by
  obtain ⟨n, hn⟩ : ∃ n, encVR 0x23 x0.toNat x1.toNat x2.toNat x3.toNat 0x2 = n := ⟨_, rfl⟩
  obtain ⟨hlt, o, kg, kd, ka, kb, kfn⟩ := fieldsVR hn (by decide) x0.isLt x1.isLt x2.isLt x3.isLt (by decide)
  refine of_number (n := n) (by rw [← hn]; rfl) hlt fun hw => ?_
  clear hn
  have p0 : n % 8 = 2 := by first | assumption | omega
  have e : decodeNat n = major23 n := by unfold decodeNat; rw [o]; rfl
  rw [e]
  unfold major23
  rw [p0]
  refine Eq.trans (b := settle n true [] (some (.fnma (fld n 24) (fld n 17) (fld n 10) (fld n 3)))) rfl ?_
  rw [fld_eq n 24 x0 (by first | assumption | omega), fld_eq n 17 x1 (by first | assumption | omega), fld_eq n 10 x2 (by first | assumption | omega), fld_eq n 3 x3 (by first | assumption | omega)]
  exact settle_ok (.inl rfl) (fun _ h => nomatch h) hw

theorem fdiv (x0 : Guard) (x1 : VReg) (x2 : VReg) (x3 : VReg) : Statement (.fdiv x0 x1 x2 x3) := by
  obtain ⟨n, hn⟩ : ∃ n, encVR 0x23 x0.toNat x1.toNat x2.toNat x3.toNat 0x3 = n := ⟨_, rfl⟩
  obtain ⟨hlt, o, kg, kd, ka, kb, kfn⟩ := fieldsVR hn (by decide) x0.isLt x1.isLt x2.isLt x3.isLt (by decide)
  refine of_number (n := n) (by rw [← hn]; rfl) hlt fun hw => ?_
  clear hn
  have p0 : n % 8 = 3 := by first | assumption | omega
  have e : decodeNat n = major23 n := by unfold decodeNat; rw [o]; rfl
  rw [e]
  unfold major23
  rw [p0]
  refine Eq.trans (b := settle n true [] (some (.fdiv (fld n 24) (fld n 17) (fld n 10) (fld n 3)))) rfl ?_
  rw [fld_eq n 24 x0 (by first | assumption | omega), fld_eq n 17 x1 (by first | assumption | omega), fld_eq n 10 x2 (by first | assumption | omega), fld_eq n 3 x3 (by first | assumption | omega)]
  exact settle_ok (.inl rfl) (fun _ h => nomatch h) hw

theorem fsqrt (x0 : Guard) (x1 : VReg) (x2 : VReg) : Statement (.fsqrt x0 x1 x2) := by
  obtain ⟨n, hn⟩ : ∃ n, encVR 0x23 x0.toNat x1.toNat x2.toNat 0 0x4 = n := ⟨_, rfl⟩
  obtain ⟨hlt, o, kg, kd, ka, kb, kfn⟩ := fieldsVR hn (by decide) x0.isLt x1.isLt x2.isLt (by decide) (by decide)
  refine of_number (n := n) (by rw [← hn]; rfl) hlt fun hw => ?_
  clear hn
  have p0 : n % 8 = 4 := by first | assumption | omega
  have e : decodeNat n = major23 n := by unfold decodeNat; rw [o]; rfl
  rw [e]
  unfold major23
  rw [p0]
  refine Eq.trans (b := settle n true [(3, 7)] (some (.fsqrt (fld n 24) (fld n 17) (fld n 10)))) rfl ?_
  rw [fld_eq n 24 x0 (by first | assumption | omega), fld_eq n 17 x1 (by first | assumption | omega), fld_eq n 10 x2 (by first | assumption | omega)]
  exact settle_ok (.inl rfl) (by intro z hz; simp only [List.mem_cons, List.not_mem_nil, or_false] at hz; rcases hz with rfl <;> dsimp only <;> omega) hw

theorem frsq (x0 : Guard) (x1 : VReg) (x2 : VReg) : Statement (.frsq x0 x1 x2) := by
  obtain ⟨n, hn⟩ : ∃ n, encVR 0x23 x0.toNat x1.toNat x2.toNat 0 0x5 = n := ⟨_, rfl⟩
  obtain ⟨hlt, o, kg, kd, ka, kb, kfn⟩ := fieldsVR hn (by decide) x0.isLt x1.isLt x2.isLt (by decide) (by decide)
  refine of_number (n := n) (by rw [← hn]; rfl) hlt fun hw => ?_
  clear hn
  have p0 : n % 8 = 5 := by first | assumption | omega
  have e : decodeNat n = major23 n := by unfold decodeNat; rw [o]; rfl
  rw [e]
  unfold major23
  rw [p0]
  refine Eq.trans (b := settle n true [(3, 7)] (some (.frsq (fld n 24) (fld n 17) (fld n 10)))) rfl ?_
  rw [fld_eq n 24 x0 (by first | assumption | omega), fld_eq n 17 x1 (by first | assumption | omega), fld_eq n 10 x2 (by first | assumption | omega)]
  exact settle_ok (.inl rfl) (by intro z hz; simp only [List.mem_cons, List.not_mem_nil, or_false] at hz; rcases hz with rfl <;> dsimp only <;> omega) hw

theorem fexp2 (x0 : Guard) (x1 : VReg) (x2 : VReg) : Statement (.fexp2 x0 x1 x2) := by
  obtain ⟨n, hn⟩ : ∃ n, encVR 0x23 x0.toNat x1.toNat x2.toNat 0 0x6 = n := ⟨_, rfl⟩
  obtain ⟨hlt, o, kg, kd, ka, kb, kfn⟩ := fieldsVR hn (by decide) x0.isLt x1.isLt x2.isLt (by decide) (by decide)
  refine of_number (n := n) (by rw [← hn]; rfl) hlt fun hw => ?_
  clear hn
  have p0 : n % 8 = 6 := by first | assumption | omega
  have e : decodeNat n = major23 n := by unfold decodeNat; rw [o]; rfl
  rw [e]
  unfold major23
  rw [p0]
  refine Eq.trans (b := settle n true [(3, 7)] (some (.fexp2 (fld n 24) (fld n 17) (fld n 10)))) rfl ?_
  rw [fld_eq n 24 x0 (by first | assumption | omega), fld_eq n 17 x1 (by first | assumption | omega), fld_eq n 10 x2 (by first | assumption | omega)]
  exact settle_ok (.inl rfl) (by intro z hz; simp only [List.mem_cons, List.not_mem_nil, or_false] at hz; rcases hz with rfl <;> dsimp only <;> omega) hw

theorem flog2 (x0 : Guard) (x1 : VReg) (x2 : VReg) : Statement (.flog2 x0 x1 x2) := by
  obtain ⟨n, hn⟩ : ∃ n, encVR 0x23 x0.toNat x1.toNat x2.toNat 0 0x7 = n := ⟨_, rfl⟩
  obtain ⟨hlt, o, kg, kd, ka, kb, kfn⟩ := fieldsVR hn (by decide) x0.isLt x1.isLt x2.isLt (by decide) (by decide)
  refine of_number (n := n) (by rw [← hn]; rfl) hlt fun hw => ?_
  clear hn
  have p0 : n % 8 = 7 := by first | assumption | omega
  have e : decodeNat n = major23 n := by unfold decodeNat; rw [o]; rfl
  rw [e]
  unfold major23
  rw [p0]
  refine Eq.trans (b := settle n true [(3, 7)] (some (.flog2 (fld n 24) (fld n 17) (fld n 10)))) rfl ?_
  rw [fld_eq n 24 x0 (by first | assumption | omega), fld_eq n 17 x1 (by first | assumption | omega), fld_eq n 10 x2 (by first | assumption | omega)]
  exact settle_ok (.inl rfl) (by intro z hz; simp only [List.mem_cons, List.not_mem_nil, or_false] at hz; rcases hz with rfl <;> dsimp only <;> omega) hw

theorem vcmp (x0 : Guard) (x1 : VCond) (x2 x3 : PReg) (x4 x5 : VReg) : Statement (.vcmp x0 x1 x2 x3 x4 x5) := by
  have hc := VCond.code_lt x1
  obtain ⟨n, hn⟩ : ∃ n, encPC (0x24 + x1.code / 4) x0.toNat x2.toNat x3.toNat x4.toNat x5.toNat (x1.code % 4) = n := ⟨_, rfl⟩
  obtain ⟨hlt, o, kg, kpd, kpe, ka, kb, kfn⟩ := fieldsPC hn (by omega) x0.isLt x2.isLt x3.isLt x4.isLt x5.isLt (by omega)
  refine of_number (n := n) (by rw [← hn]; rfl) hlt fun hw => ?_
  clear hn
  have p : n / 2 ^ 26 % 2 * 4 + n % 4 = x1.code := by omega
  have e : decodeNat n = major24 n := by
    have h : n / 2 ^ 26 % 64 = 36 ∨ n / 2 ^ 26 % 64 = 37 := by omega
    rcases h with h | h <;> (unfold decodeNat; rw [h]; rfl)
  rw [e]
  unfold major24
  rw [p, VCond.ofCode_code]
  refine Eq.trans (b := settle n true [] (some (.vcmp (fld n 24) x1 (fld n 20) (fld n 16) (fld n 9) (fld n 2)))) rfl ?_
  rw [fld_eq n 24 x0 kg, fld_eq n 20 x2 kpd, fld_eq n 16 x3 kpe, fld_eq n 9 x4 ka, fld_eq n 2 x5 kb]
  exact settle_ok (.inl rfl) (fun _ h => nomatch h) hw

theorem fcmp (x0 : Guard) (x1 : FCond) (x2 x3 : PReg) (x4 x5 : VReg) : Statement (.fcmp x0 x1 x2 x3 x4 x5) := by
  have hc := FCond.code_lt x1
  obtain ⟨n, hn⟩ : ∃ n, encPC (0x26 + x1.code / 4) x0.toNat x2.toNat x3.toNat x4.toNat x5.toNat (x1.code % 4) = n := ⟨_, rfl⟩
  obtain ⟨hlt, o, kg, kpd, kpe, ka, kb, kfn⟩ := fieldsPC hn (by omega) x0.isLt x2.isLt x3.isLt x4.isLt x5.isLt (by omega)
  refine of_number (n := n) (by rw [← hn]; rfl) hlt fun hw => ?_
  clear hn
  have p : n / 2 ^ 26 % 2 * 4 + n % 4 = x1.code := by omega
  have e : decodeNat n = major26 n := by
    have h : n / 2 ^ 26 % 64 = 38 ∨ n / 2 ^ 26 % 64 = 39 := by omega
    rcases h with h | h <;> (unfold decodeNat; rw [h]; rfl)
  rw [e]
  unfold major26
  rw [p, FCond.ofCode_code]
  refine Eq.trans (b := settle n true [] (some (.fcmp (fld n 24) x1 (fld n 20) (fld n 16) (fld n 9) (fld n 2)))) rfl ?_
  rw [fld_eq n 24 x0 kg, fld_eq n 20 x2 kpd, fld_eq n 16 x3 kpe, fld_eq n 9 x4 ka, fld_eq n 2 x5 kb]
  exact settle_ok (.inl rfl) (fun _ h => nomatch h) hw

theorem vsel (x0 : Guard) (x1 x2 x3 : VReg) (x4 : PReg) : Statement (.vsel x0 x1 x2 x3 x4) := by
  have hp := x4.isLt
  obtain ⟨n, hn⟩ : ∃ n, encVR (0x28 + x4.toNat / 8) x0.toNat x1.toNat x2.toNat x3.toNat (x4.toNat % 8) = n := ⟨_, rfl⟩
  obtain ⟨hlt, o, kg, kd, ka, kb, kfn⟩ := fieldsVR hn (by omega) x0.isLt x1.isLt x2.isLt x3.isLt (by omega)
  refine of_number (n := n) (by rw [← hn]; rfl) hlt fun hw => ?_
  clear hn
  have p : (BitVec.ofNat 4 (n / 2 ^ 26 % 2 * 8 + n % 8) : PReg) = x4 := by
    have h : n / 2 ^ 26 % 2 * 8 + n % 8 = x4.toNat := by omega
    rw [h, BitVec.ofNat_toNat, BitVec.setWidth_eq]
  have h : n / 2 ^ 26 % 64 = 40 ∨ n / 2 ^ 26 % 64 = 41 := by omega
  have e : decodeNat n = settle n true [] (some (.vsel (fld n 24) (fld n 17) (fld n 10) (fld n 3) (BitVec.ofNat 4 (n / 2 ^ 26 % 2 * 8 + n % 8)))) := by
    rcases h with h | h <;> (unfold decodeNat; rw [h]; rfl)
  rw [e, p, fld_eq n 24 x0 kg, fld_eq n 17 x1 kd, fld_eq n 10 x2 ka, fld_eq n 3 x3 kb]
  exact settle_ok (.inl rfl) (fun _ h => nomatch h) hw

theorem vmov (x0 : Guard) (x1 : VReg) (x2 : VReg) : Statement (.vmov x0 x1 x2) := by
  obtain ⟨n, hn⟩ : ∃ n, encVR 0x2A x0.toNat x1.toNat x2.toNat 0 0 = n := ⟨_, rfl⟩
  obtain ⟨hlt, o, kg, kd, ka, kb, kfn⟩ := fieldsVR hn (by decide) x0.isLt x1.isLt x2.isLt (by decide) (by decide)
  refine of_number (n := n) (by rw [← hn]; rfl) hlt fun hw => ?_
  clear hn
  have p0 : n % 8 = 0 := by first | assumption | omega
  have e : decodeNat n = major2A n := by unfold decodeNat; rw [o]; rfl
  rw [e]
  unfold major2A
  rw [p0]
  refine Eq.trans (b := settle n true [(3, 7)] (some (.vmov (fld n 24) (fld n 17) (fld n 10)))) rfl ?_
  rw [fld_eq n 24 x0 (by first | assumption | omega), fld_eq n 17 x1 (by first | assumption | omega), fld_eq n 10 x2 (by first | assumption | omega)]
  exact settle_ok (.inl rfl) (by intro z hz; simp only [List.mem_cons, List.not_mem_nil, or_false] at hz; rcases hz with rfl <;> dsimp only <;> omega) hw

theorem vbcast (x0 : Guard) (x1 : VReg) (x2 : SReg) : Statement (.vbcast x0 x1 x2) := by
  obtain ⟨n, hn⟩ : ∃ n, encVR 0x2A x0.toNat x1.toNat x2.toNat 0 0x1 = n := ⟨_, rfl⟩
  obtain ⟨hlt, o, kg, kd, ka, kb, kfn⟩ := fieldsVR hn (by decide) x0.isLt x1.isLt (by have := x2.isLt; omega) (by decide) (by decide)
  refine of_number (n := n) (by rw [← hn]; rfl) hlt fun hw => ?_
  clear hn
  have p0 : n % 8 = 1 := by first | assumption | omega
  have e : decodeNat n = major2A n := by unfold decodeNat; rw [o]; rfl
  rw [e]
  unfold major2A
  rw [p0]
  refine Eq.trans (b := settle n true [(3, 7), (16, 1)] (some (.vbcast (fld n 24) (fld n 17) (fld n 10)))) rfl ?_
  rw [fld_eq n 24 x0 (by first | assumption | omega), fld_eq n 17 x1 (by first | assumption | omega), fld_eq n 10 x2 (by first | assumption | omega)]
  exact settle_ok (.inl rfl) (by intro z hz; simp only [List.mem_cons, List.not_mem_nil, or_false] at hz; rcases hz with rfl | rfl <;> dsimp only <;> omega) hw

theorem shfl (x0 : Guard) (x1 : VReg) (x2 : VReg) (x3 : VReg) : Statement (.shfl x0 x1 x2 x3) := by
  obtain ⟨n, hn⟩ : ∃ n, encVR 0x2B x0.toNat x1.toNat x2.toNat x3.toNat 0 = n := ⟨_, rfl⟩
  obtain ⟨hlt, o, kg, kd, ka, kb, kfn⟩ := fieldsVR hn (by decide) x0.isLt x1.isLt x2.isLt x3.isLt (by decide)
  refine of_number (n := n) (by rw [← hn]; rfl) hlt fun hw => ?_
  clear hn
  have p0 : n % 8 = 0 := by first | assumption | omega
  have e : decodeNat n = major2B n := by unfold decodeNat; rw [o]; rfl
  rw [e]
  unfold major2B
  rw [p0]
  refine Eq.trans (b := settle n true [] (some (.shfl (fld n 24) (fld n 17) (fld n 10) (fld n 3)))) rfl ?_
  rw [fld_eq n 24 x0 (by first | assumption | omega), fld_eq n 17 x1 (by first | assumption | omega), fld_eq n 10 x2 (by first | assumption | omega), fld_eq n 3 x3 (by first | assumption | omega)]
  exact settle_ok (.inl rfl) (fun _ h => nomatch h) hw

theorem shflx (x0 : Guard) (x1 : VReg) (x2 : VReg) (x3 : SReg) : Statement (.shflx x0 x1 x2 x3) := by
  obtain ⟨n, hn⟩ : ∃ n, encVR 0x2B x0.toNat x1.toNat x2.toNat x3.toNat 0x1 = n := ⟨_, rfl⟩
  obtain ⟨hlt, o, kg, kd, ka, kb, kfn⟩ := fieldsVR hn (by decide) x0.isLt x1.isLt x2.isLt (by have := x3.isLt; omega) (by decide)
  refine of_number (n := n) (by rw [← hn]; rfl) hlt fun hw => ?_
  clear hn
  have p0 : n % 8 = 1 := by first | assumption | omega
  have e : decodeNat n = major2B n := by unfold decodeNat; rw [o]; rfl
  rw [e]
  unfold major2B
  rw [p0]
  refine Eq.trans (b := settle n true [(9, 1)] (some (.shflx (fld n 24) (fld n 17) (fld n 10) (fld n 3)))) rfl ?_
  rw [fld_eq n 24 x0 (by first | assumption | omega), fld_eq n 17 x1 (by first | assumption | omega), fld_eq n 10 x2 (by first | assumption | omega), fld_eq n 3 x3 (by first | assumption | omega)]
  exact settle_ok (.inl rfl) (by intro z hz; simp only [List.mem_cons, List.not_mem_nil, or_false] at hz; rcases hz with rfl <;> dsimp only <;> omega) hw

theorem shflu (x0 : Guard) (x1 : VReg) (x2 : VReg) (x3 : SReg) : Statement (.shflu x0 x1 x2 x3) := by
  obtain ⟨n, hn⟩ : ∃ n, encVR 0x2B x0.toNat x1.toNat x2.toNat x3.toNat 0x2 = n := ⟨_, rfl⟩
  obtain ⟨hlt, o, kg, kd, ka, kb, kfn⟩ := fieldsVR hn (by decide) x0.isLt x1.isLt x2.isLt (by have := x3.isLt; omega) (by decide)
  refine of_number (n := n) (by rw [← hn]; rfl) hlt fun hw => ?_
  clear hn
  have p0 : n % 8 = 2 := by first | assumption | omega
  have e : decodeNat n = major2B n := by unfold decodeNat; rw [o]; rfl
  rw [e]
  unfold major2B
  rw [p0]
  refine Eq.trans (b := settle n true [(9, 1)] (some (.shflu (fld n 24) (fld n 17) (fld n 10) (fld n 3)))) rfl ?_
  rw [fld_eq n 24 x0 (by first | assumption | omega), fld_eq n 17 x1 (by first | assumption | omega), fld_eq n 10 x2 (by first | assumption | omega), fld_eq n 3 x3 (by first | assumption | omega)]
  exact settle_ok (.inl rfl) (by intro z hz; simp only [List.mem_cons, List.not_mem_nil, or_false] at hz; rcases hz with rfl <;> dsimp only <;> omega) hw

theorem shfld (x0 : Guard) (x1 : VReg) (x2 : VReg) (x3 : SReg) : Statement (.shfld x0 x1 x2 x3) := by
  obtain ⟨n, hn⟩ : ∃ n, encVR 0x2B x0.toNat x1.toNat x2.toNat x3.toNat 0x3 = n := ⟨_, rfl⟩
  obtain ⟨hlt, o, kg, kd, ka, kb, kfn⟩ := fieldsVR hn (by decide) x0.isLt x1.isLt x2.isLt (by have := x3.isLt; omega) (by decide)
  refine of_number (n := n) (by rw [← hn]; rfl) hlt fun hw => ?_
  clear hn
  have p0 : n % 8 = 3 := by first | assumption | omega
  have e : decodeNat n = major2B n := by unfold decodeNat; rw [o]; rfl
  rw [e]
  unfold major2B
  rw [p0]
  refine Eq.trans (b := settle n true [(9, 1)] (some (.shfld (fld n 24) (fld n 17) (fld n 10) (fld n 3)))) rfl ?_
  rw [fld_eq n 24 x0 (by first | assumption | omega), fld_eq n 17 x1 (by first | assumption | omega), fld_eq n 10 x2 (by first | assumption | omega), fld_eq n 3 x3 (by first | assumption | omega)]
  exact settle_ok (.inl rfl) (by intro z hz; simp only [List.mem_cons, List.not_mem_nil, or_false] at hz; rcases hz with rfl <;> dsimp only <;> omega) hw

theorem vextr (x0 : Guard) (x1 : SReg) (x2 : VReg) (x3 : SReg) : Statement (.vextr x0 x1 x2 x3) := by
  obtain ⟨n, hn⟩ : ∃ n, encVR 0x2B x0.toNat x1.toNat x2.toNat x3.toNat 0x4 = n := ⟨_, rfl⟩
  obtain ⟨hlt, o, kg, kd, ka, kb, kfn⟩ := fieldsVR hn (by decide) x0.isLt (by have := x1.isLt; omega) x2.isLt (by have := x3.isLt; omega) (by decide)
  refine of_number (n := n) (by rw [← hn]; rfl) hlt fun hw => ?_
  clear hn
  have p0 : n % 8 = 4 := by first | assumption | omega
  have e : decodeNat n = major2B n := by unfold decodeNat; rw [o]; rfl
  rw [e]
  unfold major2B
  rw [p0]
  refine Eq.trans (b := settle n true [(9, 1), (23, 1)] (some (.vextr (fld n 24) (fld n 17) (fld n 10) (fld n 3)))) rfl ?_
  rw [fld_eq n 24 x0 (by first | assumption | omega), fld_eq n 17 x1 (by first | assumption | omega), fld_eq n 10 x2 (by first | assumption | omega), fld_eq n 3 x3 (by first | assumption | omega)]
  exact settle_ok (.inl rfl) (by intro z hz; simp only [List.mem_cons, List.not_mem_nil, or_false] at hz; rcases hz with rfl | rfl <;> dsimp only <;> omega) hw

theorem vins (x0 : Guard) (x1 : VReg) (x2 : SReg) (x3 : SReg) : Statement (.vins x0 x1 x2 x3) := by
  obtain ⟨n, hn⟩ : ∃ n, encVR 0x2B x0.toNat x1.toNat x2.toNat x3.toNat 0x5 = n := ⟨_, rfl⟩
  obtain ⟨hlt, o, kg, kd, ka, kb, kfn⟩ := fieldsVR hn (by decide) x0.isLt x1.isLt (by have := x2.isLt; omega) (by have := x3.isLt; omega) (by decide)
  refine of_number (n := n) (by rw [← hn]; rfl) hlt fun hw => ?_
  clear hn
  have p0 : n % 8 = 5 := by first | assumption | omega
  have e : decodeNat n = major2B n := by unfold decodeNat; rw [o]; rfl
  rw [e]
  unfold major2B
  rw [p0]
  refine Eq.trans (b := settle n true [(9, 1), (16, 1)] (some (.vins (fld n 24) (fld n 17) (fld n 10) (fld n 3)))) rfl ?_
  rw [fld_eq n 24 x0 (by first | assumption | omega), fld_eq n 17 x1 (by first | assumption | omega), fld_eq n 10 x2 (by first | assumption | omega), fld_eq n 3 x3 (by first | assumption | omega)]
  exact settle_ok (.inl rfl) (by intro z hz; simp only [List.mem_cons, List.not_mem_nil, or_false] at hz; rcases hz with rfl | rfl <;> dsimp only <;> omega) hw

theorem vcompact (x0 : Guard) (x1 : VReg) (x2 : VReg) : Statement (.vcompact x0 x1 x2) := by
  obtain ⟨n, hn⟩ : ∃ n, encVR 0x2B x0.toNat x1.toNat x2.toNat 0 0x6 = n := ⟨_, rfl⟩
  obtain ⟨hlt, o, kg, kd, ka, kb, kfn⟩ := fieldsVR hn (by decide) x0.isLt x1.isLt x2.isLt (by decide) (by decide)
  refine of_number (n := n) (by rw [← hn]; rfl) hlt fun hw => ?_
  clear hn
  have p0 : n % 8 = 6 := by first | assumption | omega
  have e : decodeNat n = major2B n := by unfold decodeNat; rw [o]; rfl
  rw [e]
  unfold major2B
  rw [p0]
  refine Eq.trans (b := settle n true [(3, 7)] (some (.vcompact (fld n 24) (fld n 17) (fld n 10)))) rfl ?_
  rw [fld_eq n 24 x0 (by first | assumption | omega), fld_eq n 17 x1 (by first | assumption | omega), fld_eq n 10 x2 (by first | assumption | omega)]
  exact settle_ok (.inl rfl) (by intro z hz; simp only [List.mem_cons, List.not_mem_nil, or_false] at hz; rcases hz with rfl <;> dsimp only <;> omega) hw

theorem vred (x0 : Guard) (x1 : VReg) (x2 : VReg) (x3 : RedOp) : Statement (.vred x0 x1 x2 x3) := by
  obtain ⟨n, hn⟩ : ∃ n, encVR 0x2C x0.toNat x1.toNat x2.toNat 0 x3.code = n := ⟨_, rfl⟩
  obtain ⟨hlt, o, kg, kd, ka, kb, kfn⟩ := fieldsVR hn (by decide) x0.isLt x1.isLt x2.isLt (by decide) (Nat.lt_of_lt_of_le (RedOp.code_lt x3) (by decide))
  refine of_number (n := n) (by rw [← hn]; rfl) hlt fun hw => ?_
  clear hn
  have bx3 := RedOp.code_lt x3
  have p0 : n % 8 = x3.code := by first | assumption | omega
  have e : decodeNat n = major2C n := by unfold decodeNat; rw [o]; rfl
  rw [e]
  unfold major2C
  rw [p0, RedOp.ofCode_code]
  refine Eq.trans (b := settle n true [(3, 7)] (some (.vred (fld n 24) (fld n 17) (fld n 10) x3))) rfl ?_
  rw [fld_eq n 24 x0 (by first | assumption | omega), fld_eq n 17 x1 (by first | assumption | omega), fld_eq n 10 x2 (by first | assumption | omega)]
  exact settle_ok (.inl rfl) (by intro z hz; simp only [List.mem_cons, List.not_mem_nil, or_false] at hz; rcases hz with rfl <;> dsimp only <;> omega) hw

theorem vscan (x0 : Guard) (x1 : VReg) (x2 : VReg) (x3 : RedOp) : Statement (.vscan x0 x1 x2 x3) := by
  obtain ⟨n, hn⟩ : ∃ n, encVR 0x2D x0.toNat x1.toNat x2.toNat 0 x3.code = n := ⟨_, rfl⟩
  obtain ⟨hlt, o, kg, kd, ka, kb, kfn⟩ := fieldsVR hn (by decide) x0.isLt x1.isLt x2.isLt (by decide) (Nat.lt_of_lt_of_le (RedOp.code_lt x3) (by decide))
  refine of_number (n := n) (by rw [← hn]; rfl) hlt fun hw => ?_
  clear hn
  have bx3 := RedOp.code_lt x3
  have p0 : n % 8 = x3.code := by first | assumption | omega
  have e : decodeNat n = major2D n := by unfold decodeNat; rw [o]; rfl
  rw [e]
  unfold major2D
  rw [p0, RedOp.ofCode_code]
  refine Eq.trans (b := settle n true [(3, 7)] (some (.vscan (fld n 24) (fld n 17) (fld n 10) x3))) rfl ?_
  rw [fld_eq n 24 x0 (by first | assumption | omega), fld_eq n 17 x1 (by first | assumption | omega), fld_eq n 10 x2 (by first | assumption | omega)]
  exact settle_ok (.inl rfl) (by intro z hz; simp only [List.mem_cons, List.not_mem_nil, or_false] at hz; rcases hz with rfl <;> dsimp only <;> omega) hw

theorem mma (x0 : Guard) (x1 : BitVec 2) (x2 : VReg) (x3 : BitVec 6) (x4 : BitVec 3) (x5 : BitVec 3) : Statement (.mma x0 x1 x2 x3 x4 x5) := by
  obtain ⟨n, hn⟩ : ∃ n, encX 0x2E x0.toNat x1.toNat x2.toNat x3.toNat x4.toNat x5.toNat 0 = n := ⟨_, rfl⟩
  obtain ⟨hlt, o, kg, kq, ka, kmg, kfa, kfb, kfn⟩ := fieldsX hn (by decide) x0.isLt x1.isLt x2.isLt x3.isLt x4.isLt x5.isLt (by decide)
  refine of_number (n := n) (by rw [← hn]; rfl) hlt fun hw => ?_
  clear hn
  have p0 : n % 8 = 0 := by first | assumption | omega
  have e : decodeNat n = major2E n := by unfold decodeNat; rw [o]; rfl
  rw [e]
  unfold major2E
  rw [p0]
  refine Eq.trans (b := settle n true [] (some (.mma (fld n 24) (fld n 22) (fld n 15) (fld n 9) (fld n 6) (fld n 3)))) rfl ?_
  rw [fld_eq n 24 x0 (by first | assumption | omega), fld_eq n 22 x1 (by first | assumption | omega), fld_eq n 15 x2 (by first | assumption | omega), fld_eq n 9 x3 (by first | assumption | omega), fld_eq n 6 x4 (by first | assumption | omega), fld_eq n 3 x5 (by first | assumption | omega)]
  exact settle_ok (.inl rfl) (fun _ h => nomatch h) hw

theorem azero (x0 : Guard) (x1 : BitVec 2) : Statement (.azero x0 x1) := by
  obtain ⟨n, hn⟩ : ∃ n, encX 0x2E x0.toNat x1.toNat 0 0 0 0 0x1 = n := ⟨_, rfl⟩
  obtain ⟨hlt, o, kg, kq, ka, kmg, kfa, kfb, kfn⟩ := fieldsX hn (by decide) x0.isLt x1.isLt (by decide) (by decide) (by decide) (by decide) (by decide)
  refine of_number (n := n) (by rw [← hn]; rfl) hlt fun hw => ?_
  clear hn
  have p0 : n % 8 = 1 := by first | assumption | omega
  have e : decodeNat n = major2E n := by unfold decodeNat; rw [o]; rfl
  rw [e]
  unfold major2E
  rw [p0]
  refine Eq.trans (b := settle n true [(3, 3), (6, 3), (9, 6), (15, 7)] (some (.azero (fld n 24) (fld n 22)))) rfl ?_
  rw [fld_eq n 24 x0 (by first | assumption | omega), fld_eq n 22 x1 (by first | assumption | omega)]
  exact settle_ok (.inl rfl) (by intro z hz; simp only [List.mem_cons, List.not_mem_nil, or_false] at hz; rcases hz with rfl | rfl | rfl | rfl <;> dsimp only <;> omega) hw

theorem cvta (x0 : Guard) (x1 : BitVec 2) (x2 : VReg) : Statement (.cvta x0 x1 x2) := by
  obtain ⟨n, hn⟩ : ∃ n, encX 0x2E x0.toNat x1.toNat x2.toNat 0 0 0 0x2 = n := ⟨_, rfl⟩
  obtain ⟨hlt, o, kg, kq, ka, kmg, kfa, kfb, kfn⟩ := fieldsX hn (by decide) x0.isLt x1.isLt x2.isLt (by decide) (by decide) (by decide) (by decide)
  refine of_number (n := n) (by rw [← hn]; rfl) hlt fun hw => ?_
  clear hn
  have p0 : n % 8 = 2 := by first | assumption | omega
  have e : decodeNat n = major2E n := by unfold decodeNat; rw [o]; rfl
  rw [e]
  unfold major2E
  rw [p0]
  refine Eq.trans (b := settle n true [(3, 3), (6, 3), (9, 6)] (some (.cvta (fld n 24) (fld n 22) (fld n 15)))) rfl ?_
  rw [fld_eq n 24 x0 (by first | assumption | omega), fld_eq n 22 x1 (by first | assumption | omega), fld_eq n 15 x2 (by first | assumption | omega)]
  exact settle_ok (.inl rfl) (by intro z hz; simp only [List.mem_cons, List.not_mem_nil, or_false] at hz; rcases hz with rfl | rfl | rfl <;> dsimp only <;> omega) hw

theorem inkz (x0 : BitVec 6) : Statement (.inkz x0) := by
  obtain ⟨n, hn⟩ : ∃ n, encX 0x2E 0 0 0 x0.toNat 0 0 0x3 = n := ⟨_, rfl⟩
  obtain ⟨hlt, o, kg, kq, ka, kmg, kfa, kfb, kfn⟩ := fieldsX hn (by decide) (by decide) (by decide) (by decide) x0.isLt (by decide) (by decide) (by decide)
  refine of_number (n := n) (by rw [← hn]; rfl) hlt fun hw => ?_
  clear hn
  have p0 : n % 8 = 3 := by first | assumption | omega
  have e : decodeNat n = major2E n := by unfold decodeNat; rw [o]; rfl
  rw [e]
  unfold major2E
  rw [p0]
  refine Eq.trans (b := settle n false [(3, 3), (6, 3), (15, 7), (22, 2)] (some (.inkz (fld n 9)))) rfl ?_
  rw [fld_eq n 9 x0 (by first | assumption | omega)]
  exact settle_ok (.inr (by simpa using kg)) (by intro z hz; simp only [List.mem_cons, List.not_mem_nil, or_false] at hz; rcases hz with rfl | rfl | rfl | rfl <;> dsimp only <;> omega) hw

theorem vld (x0 : Guard) (x1 : VReg) (x2 : VReg) (x3 : SReg) (x4 : Size) : Statement (.vld x0 x1 x2 x3 x4) := by
  obtain ⟨n, hn⟩ : ∃ n, encMV 0x2F x0.toNat x1.toNat x2.toNat x3.toNat (x4.code * 4) = n := ⟨_, rfl⟩
  obtain ⟨hlt, o, kg, kd, ka, kb, kfn⟩ := fieldsMV hn (by decide) x0.isLt x1.isLt x2.isLt x3.isLt (by have bx4 := Size.code_lt x4; omega)
  refine of_number (n := n) (by rw [← hn]; rfl) hlt fun hw => ?_
  clear hn
  have bx4 := Size.code_lt x4
  have p0 : n % 4 = 0 := by first | assumption | omega
  have ex4 : n / 2 ^ 2 % 4 = x4.code := by omega
  have e : decodeNat n = major2F n := by unfold decodeNat; rw [o]; rfl
  rw [e]
  unfold major2F
  rw [p0, ex4, Size.ofCode_code]
  refine Eq.trans (b := settle n true [] (some (.vld (fld n 24) (fld n 17) (fld n 10) (fld n 4) x4))) rfl ?_
  rw [fld_eq n 24 x0 (by first | assumption | omega), fld_eq n 17 x1 (by first | assumption | omega), fld_eq n 10 x2 (by first | assumption | omega), fld_eq n 4 x3 (by first | assumption | omega)]
  exact settle_ok (.inl rfl) (fun _ h => nomatch h) hw

theorem spld (x0 : Guard) (x1 : VReg) (x2 : VReg) (x3 : SReg) (x4 : Size) : Statement (.spld x0 x1 x2 x3 x4) := by
  obtain ⟨n, hn⟩ : ∃ n, encMV 0x2F x0.toNat x1.toNat x2.toNat x3.toNat (x4.code * 4 + 0x1) = n := ⟨_, rfl⟩
  obtain ⟨hlt, o, kg, kd, ka, kb, kfn⟩ := fieldsMV hn (by decide) x0.isLt x1.isLt x2.isLt x3.isLt (by have bx4 := Size.code_lt x4; omega)
  refine of_number (n := n) (by rw [← hn]; rfl) hlt fun hw => ?_
  clear hn
  have bx4 := Size.code_lt x4
  have p0 : n % 4 = 1 := by first | assumption | omega
  have ex4 : n / 2 ^ 2 % 4 = x4.code := by omega
  have e : decodeNat n = major2F n := by unfold decodeNat; rw [o]; rfl
  rw [e]
  unfold major2F
  rw [p0, ex4, Size.ofCode_code]
  refine Eq.trans (b := settle n true [] (some (.spld (fld n 24) (fld n 17) (fld n 10) (fld n 4) x4))) rfl ?_
  rw [fld_eq n 24 x0 (by first | assumption | omega), fld_eq n 17 x1 (by first | assumption | omega), fld_eq n 10 x2 (by first | assumption | omega), fld_eq n 4 x3 (by first | assumption | omega)]
  exact settle_ok (.inl rfl) (fun _ h => nomatch h) hw

theorem vtld (x0 : Guard) (x1 : VReg) (x2 : VReg) (x3 : SReg) (x4 : Size) : Statement (.vtld x0 x1 x2 x3 x4) := by
  obtain ⟨n, hn⟩ : ∃ n, encMV 0x2F x0.toNat x1.toNat x2.toNat x3.toNat (x4.code * 4 + 0x2) = n := ⟨_, rfl⟩
  obtain ⟨hlt, o, kg, kd, ka, kb, kfn⟩ := fieldsMV hn (by decide) x0.isLt x1.isLt x2.isLt x3.isLt (by have bx4 := Size.code_lt x4; omega)
  refine of_number (n := n) (by rw [← hn]; rfl) hlt fun hw => ?_
  clear hn
  have bx4 := Size.code_lt x4
  have p0 : n % 4 = 2 := by first | assumption | omega
  have ex4 : n / 2 ^ 2 % 4 = x4.code := by omega
  have e : decodeNat n = major2F n := by unfold decodeNat; rw [o]; rfl
  rw [e]
  unfold major2F
  rw [p0, ex4, Size.ofCode_code]
  refine Eq.trans (b := settle n true [] (some (.vtld (fld n 24) (fld n 17) (fld n 10) (fld n 4) x4))) rfl ?_
  rw [fld_eq n 24 x0 (by first | assumption | omega), fld_eq n 17 x1 (by first | assumption | omega), fld_eq n 10 x2 (by first | assumption | omega), fld_eq n 4 x3 (by first | assumption | omega)]
  exact settle_ok (.inl rfl) (fun _ h => nomatch h) hw

theorem slld (x0 : Guard) (x1 : VReg) (x2 : VReg) (x3 : SReg) (x4 : Size) : Statement (.slld x0 x1 x2 x3 x4) := by
  obtain ⟨n, hn⟩ : ∃ n, encMV 0x2F x0.toNat x1.toNat x2.toNat x3.toNat (x4.code * 4 + 0x3) = n := ⟨_, rfl⟩
  obtain ⟨hlt, o, kg, kd, ka, kb, kfn⟩ := fieldsMV hn (by decide) x0.isLt x1.isLt x2.isLt x3.isLt (by have bx4 := Size.code_lt x4; omega)
  refine of_number (n := n) (by rw [← hn]; rfl) hlt fun hw => ?_
  clear hn
  have bx4 := Size.code_lt x4
  have p0 : n % 4 = 3 := by first | assumption | omega
  have ex4 : n / 2 ^ 2 % 4 = x4.code := by omega
  have e : decodeNat n = major2F n := by unfold decodeNat; rw [o]; rfl
  rw [e]
  unfold major2F
  rw [p0, ex4, Size.ofCode_code]
  refine Eq.trans (b := settle n true [] (some (.slld (fld n 24) (fld n 17) (fld n 10) (fld n 4) x4))) rfl ?_
  rw [fld_eq n 24 x0 (by first | assumption | omega), fld_eq n 17 x1 (by first | assumption | omega), fld_eq n 10 x2 (by first | assumption | omega), fld_eq n 4 x3 (by first | assumption | omega)]
  exact settle_ok (.inl rfl) (fun _ h => nomatch h) hw

theorem vst (x0 : Guard) (x1 : VReg) (x2 : VReg) (x3 : SReg) (x4 : Size) : Statement (.vst x0 x1 x2 x3 x4) := by
  obtain ⟨n, hn⟩ : ∃ n, encMV 0x30 x0.toNat x1.toNat x2.toNat x3.toNat (x4.code * 4) = n := ⟨_, rfl⟩
  obtain ⟨hlt, o, kg, kd, ka, kb, kfn⟩ := fieldsMV hn (by decide) x0.isLt x1.isLt x2.isLt x3.isLt (by have bx4 := Size.code_lt x4; omega)
  refine of_number (n := n) (by rw [← hn]; rfl) hlt fun hw => ?_
  clear hn
  have bx4 := Size.code_lt x4
  have p0 : n % 4 = 0 := by first | assumption | omega
  have ex4 : n / 2 ^ 2 % 4 = x4.code := by omega
  have e : decodeNat n = major30 n := by unfold decodeNat; rw [o]; rfl
  rw [e]
  unfold major30
  rw [p0, ex4, Size.ofCode_code]
  refine Eq.trans (b := settle n true [] (some (.vst (fld n 24) (fld n 17) (fld n 10) (fld n 4) x4))) rfl ?_
  rw [fld_eq n 24 x0 (by first | assumption | omega), fld_eq n 17 x1 (by first | assumption | omega), fld_eq n 10 x2 (by first | assumption | omega), fld_eq n 4 x3 (by first | assumption | omega)]
  exact settle_ok (.inl rfl) (fun _ h => nomatch h) hw

theorem spst (x0 : Guard) (x1 : VReg) (x2 : VReg) (x3 : SReg) (x4 : Size) : Statement (.spst x0 x1 x2 x3 x4) := by
  obtain ⟨n, hn⟩ : ∃ n, encMV 0x30 x0.toNat x1.toNat x2.toNat x3.toNat (x4.code * 4 + 0x1) = n := ⟨_, rfl⟩
  obtain ⟨hlt, o, kg, kd, ka, kb, kfn⟩ := fieldsMV hn (by decide) x0.isLt x1.isLt x2.isLt x3.isLt (by have bx4 := Size.code_lt x4; omega)
  refine of_number (n := n) (by rw [← hn]; rfl) hlt fun hw => ?_
  clear hn
  have bx4 := Size.code_lt x4
  have p0 : n % 4 = 1 := by first | assumption | omega
  have ex4 : n / 2 ^ 2 % 4 = x4.code := by omega
  have e : decodeNat n = major30 n := by unfold decodeNat; rw [o]; rfl
  rw [e]
  unfold major30
  rw [p0, ex4, Size.ofCode_code]
  refine Eq.trans (b := settle n true [] (some (.spst (fld n 24) (fld n 17) (fld n 10) (fld n 4) x4))) rfl ?_
  rw [fld_eq n 24 x0 (by first | assumption | omega), fld_eq n 17 x1 (by first | assumption | omega), fld_eq n 10 x2 (by first | assumption | omega), fld_eq n 4 x3 (by first | assumption | omega)]
  exact settle_ok (.inl rfl) (fun _ h => nomatch h) hw

theorem vtst (x0 : Guard) (x1 : VReg) (x2 : VReg) (x3 : SReg) (x4 : Size) : Statement (.vtst x0 x1 x2 x3 x4) := by
  obtain ⟨n, hn⟩ : ∃ n, encMV 0x30 x0.toNat x1.toNat x2.toNat x3.toNat (x4.code * 4 + 0x2) = n := ⟨_, rfl⟩
  obtain ⟨hlt, o, kg, kd, ka, kb, kfn⟩ := fieldsMV hn (by decide) x0.isLt x1.isLt x2.isLt x3.isLt (by have bx4 := Size.code_lt x4; omega)
  refine of_number (n := n) (by rw [← hn]; rfl) hlt fun hw => ?_
  clear hn
  have bx4 := Size.code_lt x4
  have p0 : n % 4 = 2 := by first | assumption | omega
  have ex4 : n / 2 ^ 2 % 4 = x4.code := by omega
  have e : decodeNat n = major30 n := by unfold decodeNat; rw [o]; rfl
  rw [e]
  unfold major30
  rw [p0, ex4, Size.ofCode_code]
  refine Eq.trans (b := settle n true [] (some (.vtst (fld n 24) (fld n 17) (fld n 10) (fld n 4) x4))) rfl ?_
  rw [fld_eq n 24 x0 (by first | assumption | omega), fld_eq n 17 x1 (by first | assumption | omega), fld_eq n 10 x2 (by first | assumption | omega), fld_eq n 4 x3 (by first | assumption | omega)]
  exact settle_ok (.inl rfl) (fun _ h => nomatch h) hw

theorem slst (x0 : Guard) (x1 : VReg) (x2 : VReg) (x3 : SReg) (x4 : Size) : Statement (.slst x0 x1 x2 x3 x4) := by
  obtain ⟨n, hn⟩ : ∃ n, encMV 0x30 x0.toNat x1.toNat x2.toNat x3.toNat (x4.code * 4 + 0x3) = n := ⟨_, rfl⟩
  obtain ⟨hlt, o, kg, kd, ka, kb, kfn⟩ := fieldsMV hn (by decide) x0.isLt x1.isLt x2.isLt x3.isLt (by have bx4 := Size.code_lt x4; omega)
  refine of_number (n := n) (by rw [← hn]; rfl) hlt fun hw => ?_
  clear hn
  have bx4 := Size.code_lt x4
  have p0 : n % 4 = 3 := by first | assumption | omega
  have ex4 : n / 2 ^ 2 % 4 = x4.code := by omega
  have e : decodeNat n = major30 n := by unfold decodeNat; rw [o]; rfl
  rw [e]
  unfold major30
  rw [p0, ex4, Size.ofCode_code]
  refine Eq.trans (b := settle n true [] (some (.slst (fld n 24) (fld n 17) (fld n 10) (fld n 4) x4))) rfl ?_
  rw [fld_eq n 24 x0 (by first | assumption | omega), fld_eq n 17 x1 (by first | assumption | omega), fld_eq n 10 x2 (by first | assumption | omega), fld_eq n 4 x3 (by first | assumption | omega)]
  exact settle_ok (.inl rfl) (fun _ h => nomatch h) hw

theorem vldc (x0 : Guard) (x1 : VReg) (x2 : SReg) (x3 : BitVec 11) : Statement (.vldc x0 x1 x2 x3) := by
  obtain ⟨n, hn⟩ : ∃ n, encMC 0x31 x0.toNat x1.toNat x2.toNat x3.toNat = n := ⟨_, rfl⟩
  obtain ⟨hlt, o, kg, kd, kb, kimm⟩ := fieldsMC hn (by decide) x0.isLt x1.isLt x2.isLt x3.isLt
  refine of_number (n := n) (by rw [← hn]; rfl) hlt fun hw => ?_
  clear hn
  unfold decodeNat
  rw [o]
  refine Eq.trans (b := settle n true [] (some (.vldc (fld n 24) (fld n 17) (fld n 11) (fld n 0)))) rfl ?_
  rw [fld_eq n 24 x0 (by first | assumption | omega), fld_eq n 17 x1 (by first | assumption | omega), fld_eq n 11 x2 (by first | assumption | omega), fld_eq n 0 x3 (by first | assumption | omega)]
  exact settle_ok (.inl rfl) (fun _ h => nomatch h) hw

theorem vstc (x0 : Guard) (x1 : VReg) (x2 : SReg) (x3 : BitVec 11) : Statement (.vstc x0 x1 x2 x3) := by
  obtain ⟨n, hn⟩ : ∃ n, encMC 0x32 x0.toNat x1.toNat x2.toNat x3.toNat = n := ⟨_, rfl⟩
  obtain ⟨hlt, o, kg, kd, kb, kimm⟩ := fieldsMC hn (by decide) x0.isLt x1.isLt x2.isLt x3.isLt
  refine of_number (n := n) (by rw [← hn]; rfl) hlt fun hw => ?_
  clear hn
  unfold decodeNat
  rw [o]
  refine Eq.trans (b := settle n true [] (some (.vstc (fld n 24) (fld n 17) (fld n 11) (fld n 0)))) rfl ?_
  rw [fld_eq n 24 x0 (by first | assumption | omega), fld_eq n 17 x1 (by first | assumption | omega), fld_eq n 11 x2 (by first | assumption | omega), fld_eq n 0 x3 (by first | assumption | omega)]
  exact settle_ok (.inl rfl) (fun _ h => nomatch h) hw

theorem pref (x0 : Guard) (x1 : VReg) (x2 : SReg) (x3 : PrefSpace) : Statement (.pref x0 x1 x2 x3) := by
  obtain ⟨n, hn⟩ : ∃ n, encMV 0x33 x0.toNat 0 x1.toNat x2.toNat x3.code = n := ⟨_, rfl⟩
  obtain ⟨hlt, o, kg, kd, ka, kb, kfn⟩ := fieldsMV hn (by decide) x0.isLt (by decide) x1.isLt x2.isLt (Nat.lt_of_lt_of_le (PrefSpace.code_lt x3) (by decide))
  refine of_number (n := n) (by rw [← hn]; rfl) hlt fun hw => ?_
  clear hn
  have bx3 := PrefSpace.code_lt x3
  have ex3 : n % 16 = x3.code := by omega
  unfold decodeNat
  rw [o, ex3, PrefSpace.ofCode_code]
  refine Eq.trans (b := settle n true [(17, 7)] (some (.pref (fld n 24) (fld n 10) (fld n 4) x3))) rfl ?_
  rw [fld_eq n 24 x0 (by first | assumption | omega), fld_eq n 10 x1 (by first | assumption | omega), fld_eq n 4 x2 (by first | assumption | omega)]
  exact settle_ok (.inl rfl) (by intro z hz; simp only [List.mem_cons, List.not_mem_nil, or_false] at hz; rcases hz with rfl <;> dsimp only <;> omega) hw

theorem amov (x0 : Guard) (x1 x2 : VReg) (x3 : Scope) (x4 : Order) (x5 : AOp) : Statement (.amov x0 x1 x2 x3 x4 x5) := by
  have b3 := Scope.code_lt x3
  have b4 := Order.code_lt x4
  intro hw
  have hf : x5.code < 7 := by simpa [Instr.wf] using hw
  revert hw
  change Statement _
  obtain ⟨n, hn⟩ : ∃ n, encVR 0x34 x0.toNat x1.toNat x2.toNat (x3.code * 8 + x4.code) x5.code = n := ⟨_, rfl⟩
  obtain ⟨hlt, o, kg, kd, ka, kb, kfn⟩ := fieldsVR hn (by decide) x0.isLt x1.isLt x2.isLt (by omega) (by omega)
  refine of_number (n := n) (by rw [← hn]; rfl) hlt fun hw => ?_
  clear hn
  have e : decodeNat n = major34 n := by unfold decodeNat; rw [o]; rfl
  have p : n % 8 = x5.code := kfn
  have e3 : n / 2 ^ 6 % 8 = x3.code := by omega
  have e4 : n / 2 ^ 3 % 8 = x4.code := by omega
  rw [e]
  unfold major34
  rw [p, e3, e4, Scope.ofCode_code, Order.ofCode_code]
  refine Eq.trans (b := settle n true [(9, 1)] (some (.amov (fld n 24) (fld n 17) (fld n 10) x3 x4 x5))) ?_ ?_
  · cases x5 <;> first | rfl | exact absurd hf (by decide)
  rw [fld_eq n 24 x0 kg, fld_eq n 17 x1 kd, fld_eq n 10 x2 ka]
  exact settle_ok (.inl rfl) (by intro z hz; simp only [List.mem_cons, List.not_mem_nil, or_false] at hz; rcases hz with rfl <;> dsimp only <;> omega) hw

theorem casv (x0 : Guard) (x1 : VReg) (x2 : VReg) (x3 : Scope) (x4 : Order) : Statement (.casv x0 x1 x2 x3 x4) := by
  obtain ⟨n, hn⟩ : ∃ n, encVR 0x34 x0.toNat x1.toNat x2.toNat (x3.code * 8 + x4.code) 0x7 = n := ⟨_, rfl⟩
  obtain ⟨hlt, o, kg, kd, ka, kb, kfn⟩ := fieldsVR hn (by decide) x0.isLt x1.isLt x2.isLt (by have bx3 := Scope.code_lt x3; have bx4 := Order.code_lt x4; omega) (by decide)
  refine of_number (n := n) (by rw [← hn]; rfl) hlt fun hw => ?_
  clear hn
  have bx3 := Scope.code_lt x3
  have bx4 := Order.code_lt x4
  have p0 : n % 8 = 7 := by first | assumption | omega
  have ex3 : n / 2 ^ 6 % 8 = x3.code := by omega
  have ex4 : n / 2 ^ 3 % 8 = x4.code := by omega
  have e : decodeNat n = major34 n := by unfold decodeNat; rw [o]; rfl
  rw [e]
  unfold major34
  rw [p0, ex3, Scope.ofCode_code, ex4, Order.ofCode_code]
  refine Eq.trans (b := settle n true [(9, 1)] (some (.casv (fld n 24) (fld n 17) (fld n 10) x3 x4))) rfl ?_
  rw [fld_eq n 24 x0 (by first | assumption | omega), fld_eq n 17 x1 (by first | assumption | omega), fld_eq n 10 x2 (by first | assumption | omega)]
  exact settle_ok (.inl rfl) (by intro z hz; simp only [List.mem_cons, List.not_mem_nil, or_false] at hz; rcases hz with rfl <;> dsimp only <;> omega) hw

theorem redv (x0 : Guard) (x1 x2 : VReg) (x3 : Scope) (x4 : Order) (x5 : AOp) : Statement (.redv x0 x1 x2 x3 x4 x5) := by
  have b3 := Scope.code_lt x3
  have b4 := Order.code_lt x4
  intro hw
  have hf : x5 ≠ .swap ∧ x5.code < 7 := by
    simp only [Instr.wf, Bool.and_eq_true, decide_eq_true_eq, bne_iff_ne] at hw
    exact ⟨hw.1.2, hw.2⟩
  revert hw
  change Statement _
  obtain ⟨n, hn⟩ : ∃ n, encVR 0x35 x0.toNat x1.toNat x2.toNat (x3.code * 8 + x4.code) x5.code = n := ⟨_, rfl⟩
  obtain ⟨hlt, o, kg, kd, ka, kb, kfn⟩ := fieldsVR hn (by decide) x0.isLt x1.isLt x2.isLt (by omega) (by omega)
  refine of_number (n := n) (by rw [← hn]; rfl) hlt fun hw => ?_
  clear hn
  have e : decodeNat n = major35 n := by unfold decodeNat; rw [o]; rfl
  have p : n % 8 = x5.code := kfn
  have e3 : n / 2 ^ 6 % 8 = x3.code := by omega
  have e4 : n / 2 ^ 3 % 8 = x4.code := by omega
  rw [e]
  unfold major35
  rw [p, e3, e4, Scope.ofCode_code, Order.ofCode_code]
  refine Eq.trans (b := settle n true [(9, 1)] (some (.redv (fld n 24) (fld n 17) (fld n 10) x3 x4 x5))) ?_ ?_
  · cases x5 <;> first | rfl | exact absurd rfl hf.1 | exact absurd hf.2 (by decide)
  rw [fld_eq n 24 x0 kg, fld_eq n 17 x1 kd, fld_eq n 10 x2 ka]
  exact settle_ok (.inl rfl) (by intro z hz; simp only [List.mem_cons, List.not_mem_nil, or_false] at hz; rcases hz with rfl <;> dsimp only <;> omega) hw

theorem altakev (x0 : Guard) (x1 : PReg) (x2 : VReg) (x3 : SReg) : Statement (.altakev x0 x1 x2 x3) := by
  obtain ⟨n, hn⟩ : ∃ n, encVR 0x36 x0.toNat x1.toNat x2.toNat x3.toNat 0 = n := ⟨_, rfl⟩
  obtain ⟨hlt, o, kg, kd, ka, kb, kfn⟩ := fieldsVR hn (by decide) x0.isLt (by have := x1.isLt; omega) x2.isLt (by have := x3.isLt; omega) (by decide)
  refine of_number (n := n) (by rw [← hn]; rfl) hlt fun hw => ?_
  clear hn
  have p0 : n % 8 = 0 := by first | assumption | omega
  have e : decodeNat n = major36 n := by unfold decodeNat; rw [o]; rfl
  rw [e]
  unfold major36
  rw [p0]
  refine Eq.trans (b := settle n true [(9, 1), (21, 3)] (some (.altakev (fld n 24) (fld n 17) (fld n 10) (fld n 3)))) rfl ?_
  rw [fld_eq n 24 x0 (by first | assumption | omega), fld_eq n 17 x1 (by first | assumption | omega), fld_eq n 10 x2 (by first | assumption | omega), fld_eq n 3 x3 (by first | assumption | omega)]
  exact settle_ok (.inl rfl) (by intro z hz; simp only [List.mem_cons, List.not_mem_nil, or_false] at hz; rcases hz with rfl | rfl <;> dsimp only <;> omega) hw

theorem copyv (x0 : Guard) (x1 : BitVec 7) (x2 : VReg) (x3 : VReg) (x4 : PieceSize) : Statement (.copyv x0 x1 x2 x3 x4) := by
  obtain ⟨n, hn⟩ : ∃ n, encVR 0x37 x0.toNat x1.toNat x2.toNat x3.toNat x4.code = n := ⟨_, rfl⟩
  obtain ⟨hlt, o, kg, kd, ka, kb, kfn⟩ := fieldsVR hn (by decide) x0.isLt x1.isLt x2.isLt x3.isLt (Nat.lt_of_lt_of_le (PieceSize.code_lt x4) (by decide))
  refine of_number (n := n) (by rw [← hn]; rfl) hlt fun hw => ?_
  clear hn
  have bx4 := PieceSize.code_lt x4
  have p0 : n / 2 ^ 2 % 2 = 0 := by first | assumption | omega
  have ex4 : n % 4 = x4.code := by omega
  have e : decodeNat n = major37 n := by unfold decodeNat; rw [o]; rfl
  rw [e]
  unfold major37
  rw [p0, ex4, PieceSize.ofCode_code]
  refine Eq.trans (b := settle n true [] (some (.copyv (fld n 24) (fld n 17) (fld n 10) (fld n 3) x4))) rfl ?_
  rw [fld_eq n 24 x0 (by first | assumption | omega), fld_eq n 17 x1 (by first | assumption | omega), fld_eq n 10 x2 (by first | assumption | omega), fld_eq n 3 x3 (by first | assumption | omega)]
  exact settle_ok (.inl rfl) (fun _ h => nomatch h) hw

theorem amos (x0 x1 : SReg) (x2 : Scope) (x3 : Order) (x4 : AOp) : Statement (.amos x0 x1 x2 x3 x4) := by
  have b2 := Scope.code_lt x2
  have b3 := Order.code_lt x3
  have b4 : x4.code < 9 := by cases x4 <;> decide
  obtain ⟨n, hn⟩ : ∃ n, encSR 0x38 x0.toNat x1.toNat (x2.code * 8 + x3.code) x4.code = n := ⟨_, rfl⟩
  obtain ⟨hlt, o, hg, kd, ka, kb, kfn⟩ := fieldsSR hn (by decide) x0.isLt x1.isLt (by omega) (by omega)
  refine of_number (n := n) (by rw [← hn]; rfl) hlt fun hw => ?_
  clear hn
  have e : decodeNat n = major38 n := by unfold decodeNat; rw [o]; rfl
  have p : n / 16 % 4 = 0 := by omega
  have q : n % 16 = x4.code := by omega
  have e2 : n / 2 ^ 9 % 8 = x2.code := by omega
  have e3 : n / 2 ^ 6 % 8 = x3.code := by omega
  rw [e]
  unfold major38
  rw [p, q, e2, e3, AOp.ofCode_code, Scope.ofCode_code, Order.ofCode_code]
  refine Eq.trans (b := settle n false [] (some (.amos (fld n 18) (fld n 12) x2 x3 x4))) rfl ?_
  rw [fld_eq n 18 x0 kd, fld_eq n 12 x1 ka]
  exact settle_ok (.inr hg) (fun _ h => nomatch h) hw

theorem reds (x0 x1 : SReg) (x2 : Scope) (x3 : Order) (x4 : AOp) : Statement (.reds x0 x1 x2 x3 x4) := by
  have b2 := Scope.code_lt x2
  have b3 := Order.code_lt x3
  have b4 : x4.code < 9 := by cases x4 <;> decide
  intro hw
  have hf : x4.code ≠ 1 := by
    have : x4 ≠ .swap := by simpa [Instr.wf, bne_iff_ne] using (Bool.and_eq_true_iff.1 hw).2
    revert this; cases x4 <;> decide
  revert hw
  change Statement _
  obtain ⟨n, hn⟩ : ∃ n, encSR 0x38 x0.toNat x1.toNat (x2.code * 8 + x3.code) (x4.code + 0x10) = n := ⟨_, rfl⟩
  obtain ⟨hlt, o, hg, kd, ka, kb, kfn⟩ := fieldsSR hn (by decide) x0.isLt x1.isLt (by omega) (by omega)
  refine of_number (n := n) (by rw [← hn]; rfl) hlt fun hw => ?_
  clear hn
  have e : decodeNat n = major38 n := by unfold decodeNat; rw [o]; rfl
  have p : n / 16 % 4 = 1 := by omega
  have q : n % 16 = x4.code := by omega
  have e2 : n / 2 ^ 9 % 8 = x2.code := by omega
  have e3 : n / 2 ^ 6 % 8 = x3.code := by omega
  rw [e]
  unfold major38
  rw [p, q, e2, e3, AOp.ofCode_code, Scope.ofCode_code, Order.ofCode_code]
  refine Eq.trans (b := settle n false [] (some (.reds (fld n 18) (fld n 12) x2 x3 x4))) (if_neg hf) ?_
  rw [fld_eq n 18 x0 kd, fld_eq n 12 x1 ka]
  exact settle_ok (.inr hg) (fun _ h => nomatch h) hw

theorem cass (x0 x1 : SReg) (x2 : Scope) (x3 : Order) : Statement (.cass x0 x1 x2 x3) := by
  have b2 := Scope.code_lt x2
  have b3 := Order.code_lt x3
  obtain ⟨n, hn⟩ : ∃ n, encSR 0x38 x0.toNat x1.toNat (x2.code * 8 + x3.code) 0x20 = n := ⟨_, rfl⟩
  obtain ⟨hlt, o, hg, kd, ka, kb, kfn⟩ := fieldsSR hn (by decide) x0.isLt x1.isLt (by omega) (by decide)
  refine of_number (n := n) (by rw [← hn]; rfl) hlt fun hw => ?_
  clear hn
  have e : decodeNat n = major38 n := by unfold decodeNat; rw [o]; rfl
  have p : n / 16 % 4 = 2 := by omega
  have q : n % 64 = 0x20 := kfn
  have e2 : n / 2 ^ 9 % 8 = x2.code := by omega
  have e3 : n / 2 ^ 6 % 8 = x3.code := by omega
  rw [e]
  unfold major38
  rw [p, q, e2, e3, Scope.ofCode_code, Order.ofCode_code]
  refine Eq.trans (b := settle n false [] (some (.cass (fld n 18) (fld n 12) x2 x3))) rfl ?_
  rw [fld_eq n 18 x0 kd, fld_eq n 12 x1 ka]
  exact settle_ok (.inr hg) (fun _ h => nomatch h) hw

theorem lda (x0 x1 : SReg) (x2 : Scope) (x3 : Order) : Statement (.lda x0 x1 x2 x3) := by
  have b2 := Scope.code_lt x2
  have b3 := Order.code_lt x3
  obtain ⟨n, hn⟩ : ∃ n, encSR 0x38 x0.toNat x1.toNat (x2.code * 8 + x3.code) 0x28 = n := ⟨_, rfl⟩
  obtain ⟨hlt, o, hg, kd, ka, kb, kfn⟩ := fieldsSR hn (by decide) x0.isLt x1.isLt (by omega) (by decide)
  refine of_number (n := n) (by rw [← hn]; rfl) hlt fun hw => ?_
  clear hn
  have e : decodeNat n = major38 n := by unfold decodeNat; rw [o]; rfl
  have p : n / 16 % 4 = 2 := by omega
  have q : n % 64 = 0x28 := kfn
  have e2 : n / 2 ^ 9 % 8 = x2.code := by omega
  have e3 : n / 2 ^ 6 % 8 = x3.code := by omega
  rw [e]
  unfold major38
  rw [p, q, e2, e3, Scope.ofCode_code, Order.ofCode_code]
  refine Eq.trans (b := settle n false [] (some (.lda (fld n 18) (fld n 12) x2 x3))) rfl ?_
  rw [fld_eq n 18 x0 kd, fld_eq n 12 x1 ka]
  exact settle_ok (.inr hg) (fun _ h => nomatch h) hw

theorem strl (x0 x1 : SReg) (x2 : Scope) (x3 : Order) : Statement (.strl x0 x1 x2 x3) := by
  have b2 := Scope.code_lt x2
  have b3 := Order.code_lt x3
  obtain ⟨n, hn⟩ : ∃ n, encSR 0x38 x0.toNat x1.toNat (x2.code * 8 + x3.code) 0x29 = n := ⟨_, rfl⟩
  obtain ⟨hlt, o, hg, kd, ka, kb, kfn⟩ := fieldsSR hn (by decide) x0.isLt x1.isLt (by omega) (by decide)
  refine of_number (n := n) (by rw [← hn]; rfl) hlt fun hw => ?_
  clear hn
  have e : decodeNat n = major38 n := by unfold decodeNat; rw [o]; rfl
  have p : n / 16 % 4 = 2 := by omega
  have q : n % 64 = 0x29 := kfn
  have e2 : n / 2 ^ 9 % 8 = x2.code := by omega
  have e3 : n / 2 ^ 6 % 8 = x3.code := by omega
  rw [e]
  unfold major38
  rw [p, q, e2, e3, Scope.ofCode_code, Order.ofCode_code]
  refine Eq.trans (b := settle n false [] (some (.strl (fld n 18) (fld n 12) x2 x3))) rfl ?_
  rw [fld_eq n 18 x0 kd, fld_eq n 12 x1 ka]
  exact settle_ok (.inr hg) (fun _ h => nomatch h) hw

theorem fence (x0 : Scope) (x1 : Order) : Statement (.fence x0 x1) := by
  have b0 := Scope.code_lt x0
  have b1 := Order.code_lt x1
  obtain ⟨n, hn⟩ : ∃ n, encSR 0x38 0 0 (x0.code * 8 + x1.code) 0x30 = n := ⟨_, rfl⟩
  obtain ⟨hlt, o, hg, kd, ka, kb, kfn⟩ := fieldsSR hn (by decide) (by decide) (by decide) (by omega) (by decide)
  refine of_number (n := n) (by rw [← hn]; rfl) hlt fun hw => ?_
  clear hn
  have e : decodeNat n = major38 n := by unfold decodeNat; rw [o]; rfl
  have p : n / 16 % 4 = 3 := by omega
  have q : n % 64 = 0x30 := kfn
  have e2 : n / 2 ^ 9 % 8 = x0.code := by omega
  have e3 : n / 2 ^ 6 % 8 = x1.code := by omega
  rw [e]
  unfold major38
  rw [p, q, e2, e3, Scope.ofCode_code, Order.ofCode_code]
  refine Eq.trans (b := settle n false [(12, 6), (18, 6)] (some (.fence x0 x1))) rfl ?_
  exact settle_ok (.inr hg) (by intro z hz; simp only [List.mem_cons, List.not_mem_nil, or_false] at hz; rcases hz with rfl | rfl <;> dsimp only <;> omega) hw

theorem fenceo : Statement .fenceo := of_number (n := encSR 0x38 0 0 0 0x31) rfl (by decide) fun _ => rfl

theorem alinit (x0 : SReg) (x1 : SReg) (x2 : SReg) : Statement (.alinit x0 x1 x2) := by
  obtain ⟨n, hn⟩ : ∃ n, encSR 0x39 x0.toNat x1.toNat x2.toNat 0 = n := ⟨_, rfl⟩
  obtain ⟨hlt, o, hg, kd, ka, kb, kfn⟩ := fieldsSR hn (by decide) x0.isLt x1.isLt x2.isLt (by decide)
  refine of_number (n := n) (by rw [← hn]; rfl) hlt fun hw => ?_
  clear hn
  have p0 : n % 64 = 0 := by first | assumption | omega
  have e : decodeNat n = major39 n := by unfold decodeNat; rw [o]; rfl
  rw [e]
  unfold major39
  rw [p0]
  refine Eq.trans (b := settle n false [] (some (.alinit (fld n 18) (fld n 12) (fld n 6)))) rfl ?_
  rw [fld_eq n 18 x0 (by first | assumption | omega), fld_eq n 12 x1 (by first | assumption | omega), fld_eq n 6 x2 (by first | assumption | omega)]
  exact settle_ok (.inr (by assumption)) (fun _ h => nomatch h) hw

theorem altake (x0 : SReg) (x1 : SReg) (x2 : SReg) : Statement (.altake x0 x1 x2) := by
  obtain ⟨n, hn⟩ : ∃ n, encSR 0x39 x0.toNat x1.toNat x2.toNat 0x1 = n := ⟨_, rfl⟩
  obtain ⟨hlt, o, hg, kd, ka, kb, kfn⟩ := fieldsSR hn (by decide) x0.isLt x1.isLt x2.isLt (by decide)
  refine of_number (n := n) (by rw [← hn]; rfl) hlt fun hw => ?_
  clear hn
  have p0 : n % 64 = 1 := by first | assumption | omega
  have e : decodeNat n = major39 n := by unfold decodeNat; rw [o]; rfl
  rw [e]
  unfold major39
  rw [p0]
  refine Eq.trans (b := settle n false [] (some (.altake (fld n 18) (fld n 12) (fld n 6)))) rfl ?_
  rw [fld_eq n 18 x0 (by first | assumption | omega), fld_eq n 12 x1 (by first | assumption | omega), fld_eq n 6 x2 (by first | assumption | omega)]
  exact settle_ok (.inr (by assumption)) (fun _ h => nomatch h) hw

theorem algive (x0 : SReg) (x1 : SReg) (x2 : SReg) : Statement (.algive x0 x1 x2) := by
  obtain ⟨n, hn⟩ : ∃ n, encSR 0x39 x0.toNat x1.toNat x2.toNat 0x2 = n := ⟨_, rfl⟩
  obtain ⟨hlt, o, hg, kd, ka, kb, kfn⟩ := fieldsSR hn (by decide) x0.isLt x1.isLt x2.isLt (by decide)
  refine of_number (n := n) (by rw [← hn]; rfl) hlt fun hw => ?_
  clear hn
  have p0 : n % 64 = 2 := by first | assumption | omega
  have e : decodeNat n = major39 n := by unfold decodeNat; rw [o]; rfl
  rw [e]
  unfold major39
  rw [p0]
  refine Eq.trans (b := settle n false [] (some (.algive (fld n 18) (fld n 12) (fld n 6)))) rfl ?_
  rw [fld_eq n 18 x0 (by first | assumption | omega), fld_eq n 12 x1 (by first | assumption | omega), fld_eq n 6 x2 (by first | assumption | omega)]
  exact settle_ok (.inr (by assumption)) (fun _ h => nomatch h) hw

theorem alread (x0 : SReg) (x1 : SReg) : Statement (.alread x0 x1) := by
  obtain ⟨n, hn⟩ : ∃ n, encSR 0x39 x0.toNat x1.toNat 0 0x3 = n := ⟨_, rfl⟩
  obtain ⟨hlt, o, hg, kd, ka, kb, kfn⟩ := fieldsSR hn (by decide) x0.isLt x1.isLt (by decide) (by decide)
  refine of_number (n := n) (by rw [← hn]; rfl) hlt fun hw => ?_
  clear hn
  have p0 : n % 64 = 3 := by first | assumption | omega
  have e : decodeNat n = major39 n := by unfold decodeNat; rw [o]; rfl
  rw [e]
  unfold major39
  rw [p0]
  refine Eq.trans (b := settle n false [(6, 6)] (some (.alread (fld n 18) (fld n 12)))) rfl ?_
  rw [fld_eq n 18 x0 (by first | assumption | omega), fld_eq n 12 x1 (by first | assumption | omega)]
  exact settle_ok (.inr (by assumption)) (by intro z hz; simp only [List.mem_cons, List.not_mem_nil, or_false] at hz; rcases hz with rfl <;> dsimp only <;> omega) hw

theorem alfree (x0 : SReg) (x1 : SReg) : Statement (.alfree x0 x1) := by
  obtain ⟨n, hn⟩ : ∃ n, encSR 0x39 x0.toNat x1.toNat 0 0x4 = n := ⟨_, rfl⟩
  obtain ⟨hlt, o, hg, kd, ka, kb, kfn⟩ := fieldsSR hn (by decide) x0.isLt x1.isLt (by decide) (by decide)
  refine of_number (n := n) (by rw [← hn]; rfl) hlt fun hw => ?_
  clear hn
  have p0 : n % 64 = 4 := by first | assumption | omega
  have e : decodeNat n = major39 n := by unfold decodeNat; rw [o]; rfl
  rw [e]
  unfold major39
  rw [p0]
  refine Eq.trans (b := settle n false [(6, 6)] (some (.alfree (fld n 18) (fld n 12)))) rfl ?_
  rw [fld_eq n 18 x0 (by first | assumption | omega), fld_eq n 12 x1 (by first | assumption | omega)]
  exact settle_ok (.inr (by assumption)) (by intro z hz; simp only [List.mem_cons, List.not_mem_nil, or_false] at hz; rcases hz with rfl <;> dsimp only <;> omega) hw

theorem rdvinit (x0 : BitVec 5) (x1 : SReg) (x2 : SReg) : Statement (.rdvinit x0 x1 x2) := by
  obtain ⟨n, hn⟩ : ∃ n, encY 0x3A x0.toNat x1.toNat x2.toNat 0 = n := ⟨_, rfl⟩
  obtain ⟨hlt, o, hg, kpt, ka, kb, kfn⟩ := fieldsY hn (by decide) x0.isLt x1.isLt x2.isLt (by decide)
  refine of_number (n := n) (by rw [← hn]; rfl) hlt fun hw => ?_
  clear hn
  have p0 : n % 128 = 0 := by first | assumption | omega
  have e : decodeNat n = major3A n := by unfold decodeNat; rw [o]; rfl
  rw [e]
  unfold major3A
  rw [p0]
  refine Eq.trans (b := settle n false [] (some (.rdvinit (fld n 19) (fld n 13) (fld n 7)))) rfl ?_
  rw [fld_eq n 19 x0 (by first | assumption | omega), fld_eq n 13 x1 (by first | assumption | omega), fld_eq n 7 x2 (by first | assumption | omega)]
  exact settle_ok (.inr (by assumption)) (fun _ h => nomatch h) hw

theorem arrive (x0 : BitVec 5) (x1 : SReg) : Statement (.arrive x0 x1) := by
  obtain ⟨n, hn⟩ : ∃ n, encY 0x3A x0.toNat x1.toNat 0 0x1 = n := ⟨_, rfl⟩
  obtain ⟨hlt, o, hg, kpt, ka, kb, kfn⟩ := fieldsY hn (by decide) x0.isLt x1.isLt (by decide) (by decide)
  refine of_number (n := n) (by rw [← hn]; rfl) hlt fun hw => ?_
  clear hn
  have p0 : n % 128 = 1 := by first | assumption | omega
  have e : decodeNat n = major3A n := by unfold decodeNat; rw [o]; rfl
  rw [e]
  unfold major3A
  rw [p0]
  refine Eq.trans (b := settle n false [(7, 6)] (some (.arrive (fld n 19) (fld n 13)))) rfl ?_
  rw [fld_eq n 19 x0 (by first | assumption | omega), fld_eq n 13 x1 (by first | assumption | omega)]
  exact settle_ok (.inr (by assumption)) (by intro z hz; simp only [List.mem_cons, List.not_mem_nil, or_false] at hz; rcases hz with rfl <;> dsimp only <;> omega) hw

theorem expect (x0 : BitVec 5) (x1 : SReg) : Statement (.expect x0 x1) := by
  obtain ⟨n, hn⟩ : ∃ n, encY 0x3A x0.toNat x1.toNat 0 0x2 = n := ⟨_, rfl⟩
  obtain ⟨hlt, o, hg, kpt, ka, kb, kfn⟩ := fieldsY hn (by decide) x0.isLt x1.isLt (by decide) (by decide)
  refine of_number (n := n) (by rw [← hn]; rfl) hlt fun hw => ?_
  clear hn
  have p0 : n % 128 = 2 := by first | assumption | omega
  have e : decodeNat n = major3A n := by unfold decodeNat; rw [o]; rfl
  rw [e]
  unfold major3A
  rw [p0]
  refine Eq.trans (b := settle n false [(7, 6)] (some (.expect (fld n 19) (fld n 13)))) rfl ?_
  rw [fld_eq n 19 x0 (by first | assumption | omega), fld_eq n 13 x1 (by first | assumption | omega)]
  exact settle_ok (.inr (by assumption)) (by intro z hz; simp only [List.mem_cons, List.not_mem_nil, or_false] at hz; rcases hz with rfl <;> dsimp only <;> omega) hw

theorem waitp (x0 : BitVec 5) (x1 : SReg) : Statement (.waitp x0 x1) := by
  obtain ⟨n, hn⟩ : ∃ n, encY 0x3A x0.toNat x1.toNat 0 0x3 = n := ⟨_, rfl⟩
  obtain ⟨hlt, o, hg, kpt, ka, kb, kfn⟩ := fieldsY hn (by decide) x0.isLt x1.isLt (by decide) (by decide)
  refine of_number (n := n) (by rw [← hn]; rfl) hlt fun hw => ?_
  clear hn
  have p0 : n % 128 = 3 := by first | assumption | omega
  have e : decodeNat n = major3A n := by unfold decodeNat; rw [o]; rfl
  rw [e]
  unfold major3A
  rw [p0]
  refine Eq.trans (b := settle n false [(7, 6)] (some (.waitp (fld n 19) (fld n 13)))) rfl ?_
  rw [fld_eq n 19 x0 (by first | assumption | omega), fld_eq n 13 x1 (by first | assumption | omega)]
  exact settle_ok (.inr (by assumption)) (by intro z hz; simp only [List.mem_cons, List.not_mem_nil, or_false] at hz; rcases hz with rfl <;> dsimp only <;> omega) hw

theorem waity (x0 : BitVec 5) (x1 : SReg) (x2 : SReg) : Statement (.waity x0 x1 x2) := by
  obtain ⟨n, hn⟩ : ∃ n, encY 0x3A x0.toNat x1.toNat x2.toNat 0x4 = n := ⟨_, rfl⟩
  obtain ⟨hlt, o, hg, kpt, ka, kb, kfn⟩ := fieldsY hn (by decide) x0.isLt x1.isLt x2.isLt (by decide)
  refine of_number (n := n) (by rw [← hn]; rfl) hlt fun hw => ?_
  clear hn
  have p0 : n % 128 = 4 := by first | assumption | omega
  have e : decodeNat n = major3A n := by unfold decodeNat; rw [o]; rfl
  rw [e]
  unfold major3A
  rw [p0]
  refine Eq.trans (b := settle n false [] (some (.waity (fld n 19) (fld n 13) (fld n 7)))) rfl ?_
  rw [fld_eq n 19 x0 (by first | assumption | omega), fld_eq n 13 x1 (by first | assumption | omega), fld_eq n 7 x2 (by first | assumption | omega)]
  exact settle_ok (.inr (by assumption)) (fun _ h => nomatch h) hw

theorem arwait (x0 : BitVec 5) : Statement (.arwait x0) := by
  obtain ⟨n, hn⟩ : ∃ n, encY 0x3A x0.toNat 0 0 0x5 = n := ⟨_, rfl⟩
  obtain ⟨hlt, o, hg, kpt, ka, kb, kfn⟩ := fieldsY hn (by decide) x0.isLt (by decide) (by decide) (by decide)
  refine of_number (n := n) (by rw [← hn]; rfl) hlt fun hw => ?_
  clear hn
  have p0 : n % 128 = 5 := by first | assumption | omega
  have e : decodeNat n = major3A n := by unfold decodeNat; rw [o]; rfl
  rw [e]
  unfold major3A
  rw [p0]
  refine Eq.trans (b := settle n false [(7, 6), (13, 6)] (some (.arwait (fld n 19)))) rfl ?_
  rw [fld_eq n 19 x0 (by first | assumption | omega)]
  exact settle_ok (.inr (by assumption)) (by intro z hz; simp only [List.mem_cons, List.not_mem_nil, or_false] at hz; rcases hz with rfl | rfl <;> dsimp only <;> omega) hw

theorem rdvstat (x0 : BitVec 5) (x1 : SReg) (x2 : SReg) : Statement (.rdvstat x0 x1 x2) := by
  obtain ⟨n, hn⟩ : ∃ n, encY 0x3A x0.toNat x1.toNat x2.toNat 0x6 = n := ⟨_, rfl⟩
  obtain ⟨hlt, o, hg, kpt, ka, kb, kfn⟩ := fieldsY hn (by decide) x0.isLt x1.isLt x2.isLt (by decide)
  refine of_number (n := n) (by rw [← hn]; rfl) hlt fun hw => ?_
  clear hn
  have p0 : n % 128 = 6 := by first | assumption | omega
  have e : decodeNat n = major3A n := by unfold decodeNat; rw [o]; rfl
  rw [e]
  unfold major3A
  rw [p0]
  refine Eq.trans (b := settle n false [] (some (.rdvstat (fld n 19) (fld n 13) (fld n 7)))) rfl ?_
  rw [fld_eq n 19 x0 (by first | assumption | omega), fld_eq n 13 x1 (by first | assumption | omega), fld_eq n 7 x2 (by first | assumption | omega)]
  exact settle_ok (.inr (by assumption)) (fun _ h => nomatch h) hw

theorem garrive (x0 : BitVec 5) : Statement (.garrive x0) := by
  obtain ⟨n, hn⟩ : ∃ n, encY 0x3A x0.toNat 0 0 0x7 = n := ⟨_, rfl⟩
  obtain ⟨hlt, o, hg, kpt, ka, kb, kfn⟩ := fieldsY hn (by decide) x0.isLt (by decide) (by decide) (by decide)
  refine of_number (n := n) (by rw [← hn]; rfl) hlt fun hw => ?_
  clear hn
  have p0 : n % 128 = 7 := by first | assumption | omega
  have e : decodeNat n = major3A n := by unfold decodeNat; rw [o]; rfl
  rw [e]
  unfold major3A
  rw [p0]
  refine Eq.trans (b := settle n false [(7, 6), (13, 6)] (some (.garrive (fld n 19)))) rfl ?_
  rw [fld_eq n 19 x0 (by first | assumption | omega)]
  exact settle_ok (.inr (by assumption)) (by intro z hz; simp only [List.mem_cons, List.not_mem_nil, or_false] at hz; rcases hz with rfl | rfl <;> dsimp only <;> omega) hw

theorem gwait (x0 : BitVec 5) : Statement (.gwait x0) := by
  obtain ⟨n, hn⟩ : ∃ n, encY 0x3A x0.toNat 0 0 0x8 = n := ⟨_, rfl⟩
  obtain ⟨hlt, o, hg, kpt, ka, kb, kfn⟩ := fieldsY hn (by decide) x0.isLt (by decide) (by decide) (by decide)
  refine of_number (n := n) (by rw [← hn]; rfl) hlt fun hw => ?_
  clear hn
  have p0 : n % 128 = 8 := by first | assumption | omega
  have e : decodeNat n = major3A n := by unfold decodeNat; rw [o]; rfl
  rw [e]
  unfold major3A
  rw [p0]
  refine Eq.trans (b := settle n false [(7, 6), (13, 6)] (some (.gwait (fld n 19)))) rfl ?_
  rw [fld_eq n 19 x0 (by first | assumption | omega)]
  exact settle_ok (.inr (by assumption)) (by intro z hz; simp only [List.mem_cons, List.not_mem_nil, or_false] at hz; rcases hz with rfl | rfl <;> dsimp only <;> omega) hw

theorem phase (x0 : BitVec 5) (x1 : SReg) (x2 : SReg) : Statement (.phase x0 x1 x2) := by
  obtain ⟨n, hn⟩ : ∃ n, encY 0x3A x0.toNat x1.toNat x2.toNat 0x9 = n := ⟨_, rfl⟩
  obtain ⟨hlt, o, hg, kpt, ka, kb, kfn⟩ := fieldsY hn (by decide) x0.isLt x1.isLt x2.isLt (by decide)
  refine of_number (n := n) (by rw [← hn]; rfl) hlt fun hw => ?_
  clear hn
  have p0 : n % 128 = 9 := by first | assumption | omega
  have e : decodeNat n = major3A n := by unfold decodeNat; rw [o]; rfl
  rw [e]
  unfold major3A
  rw [p0]
  refine Eq.trans (b := settle n false [] (some (.phase (fld n 19) (fld n 13) (fld n 7)))) rfl ?_
  rw [fld_eq n 19 x0 (by first | assumption | omega), fld_eq n 13 x1 (by first | assumption | omega), fld_eq n 7 x2 (by first | assumption | omega)]
  exact settle_ok (.inr (by assumption)) (fun _ h => nomatch h) hw

theorem copy (x0 : BitVec 5) (x1 : SReg) (x2 : SReg) : Statement (.copy x0 x1 x2) := by
  obtain ⟨n, hn⟩ : ∃ n, encY 0x3B x0.toNat x1.toNat x2.toNat 0 = n := ⟨_, rfl⟩
  obtain ⟨hlt, o, hg, kpt, ka, kb, kfn⟩ := fieldsY hn (by decide) x0.isLt x1.isLt x2.isLt (by decide)
  refine of_number (n := n) (by rw [← hn]; rfl) hlt fun hw => ?_
  clear hn
  have p0 : n % 128 = 0 := by first | assumption | omega
  have e : decodeNat n = major3B n := by unfold decodeNat; rw [o]; rfl
  rw [e]
  unfold major3B
  rw [p0]
  refine Eq.trans (b := settle n false [] (some (.copy (fld n 19) (fld n 13) (fld n 7)))) rfl ?_
  rw [fld_eq n 19 x0 (by first | assumption | omega), fld_eq n 13 x1 (by first | assumption | omega), fld_eq n 7 x2 (by first | assumption | omega)]
  exact settle_ok (.inr (by assumption)) (fun _ h => nomatch h) hw

theorem copyt (x0 : BitVec 5) (x1 : SReg) (x2 : SReg) : Statement (.copyt x0 x1 x2) := by
  obtain ⟨n, hn⟩ : ∃ n, encY 0x3B x0.toNat x1.toNat x2.toNat 0x1 = n := ⟨_, rfl⟩
  obtain ⟨hlt, o, hg, kpt, ka, kb, kfn⟩ := fieldsY hn (by decide) x0.isLt x1.isLt x2.isLt (by decide)
  refine of_number (n := n) (by rw [← hn]; rfl) hlt fun hw => ?_
  clear hn
  have p0 : n % 128 = 1 := by first | assumption | omega
  have e : decodeNat n = major3B n := by unfold decodeNat; rw [o]; rfl
  rw [e]
  unfold major3B
  rw [p0]
  refine Eq.trans (b := settle n false [] (some (.copyt (fld n 19) (fld n 13) (fld n 7)))) rfl ?_
  rw [fld_eq n 19 x0 (by first | assumption | omega), fld_eq n 13 x1 (by first | assumption | omega), fld_eq n 7 x2 (by first | assumption | omega)]
  exact settle_ok (.inr (by assumption)) (fun _ h => nomatch h) hw

theorem ink (x0 : BitVec 5) (x1 : SReg) (x2 : SReg) : Statement (.ink x0 x1 x2) := by
  obtain ⟨n, hn⟩ : ∃ n, encY 0x3B x0.toNat x1.toNat x2.toNat 0x2 = n := ⟨_, rfl⟩
  obtain ⟨hlt, o, hg, kpt, ka, kb, kfn⟩ := fieldsY hn (by decide) x0.isLt x1.isLt x2.isLt (by decide)
  refine of_number (n := n) (by rw [← hn]; rfl) hlt fun hw => ?_
  clear hn
  have p0 : n % 128 = 2 := by first | assumption | omega
  have e : decodeNat n = major3B n := by unfold decodeNat; rw [o]; rfl
  rw [e]
  unfold major3B
  rw [p0]
  refine Eq.trans (b := settle n false [] (some (.ink (fld n 19) (fld n 13) (fld n 7)))) rfl ?_
  rw [fld_eq n 19 x0 (by first | assumption | omega), fld_eq n 13 x1 (by first | assumption | omega), fld_eq n 7 x2 (by first | assumption | omega)]
  exact settle_ok (.inr (by assumption)) (fun _ h => nomatch h) hw

theorem mmas (x0 : BitVec 5) (x1 : SReg) (x2 : SReg) : Statement (.mmas x0 x1 x2) := by
  obtain ⟨n, hn⟩ : ∃ n, encY 0x3B x0.toNat x1.toNat x2.toNat 0x3 = n := ⟨_, rfl⟩
  obtain ⟨hlt, o, hg, kpt, ka, kb, kfn⟩ := fieldsY hn (by decide) x0.isLt x1.isLt x2.isLt (by decide)
  refine of_number (n := n) (by rw [← hn]; rfl) hlt fun hw => ?_
  clear hn
  have p0 : n % 128 = 3 := by first | assumption | omega
  have e : decodeNat n = major3B n := by unfold decodeNat; rw [o]; rfl
  rw [e]
  unfold major3B
  rw [p0]
  refine Eq.trans (b := settle n false [] (some (.mmas (fld n 19) (fld n 13) (fld n 7)))) rfl ?_
  rw [fld_eq n 19 x0 (by first | assumption | omega), fld_eq n 13 x1 (by first | assumption | omega), fld_eq n 7 x2 (by first | assumption | omega)]
  exact settle_ok (.inr (by assumption)) (fun _ h => nomatch h) hw

theorem spawn (x0 : Guard) (x1 : PReg) (x2 : VReg) (x3 : SReg) : Statement (.spawn x0 x1 x2 x3) := by
  obtain ⟨n, hn⟩ : ∃ n, encVR 0x3C x0.toNat x1.toNat x2.toNat x3.toNat 0 = n := ⟨_, rfl⟩
  obtain ⟨hlt, o, kg, kd, ka, kb, kfn⟩ := fieldsVR hn (by decide) x0.isLt (by have := x1.isLt; omega) x2.isLt (by have := x3.isLt; omega) (by decide)
  refine of_number (n := n) (by rw [← hn]; rfl) hlt fun hw => ?_
  clear hn
  have p0 : n % 8 = 0 := by first | assumption | omega
  have e : decodeNat n = major3C n := by unfold decodeNat; rw [o]; rfl
  rw [e]
  unfold major3C
  rw [p0]
  refine Eq.trans (b := settle n true [(9, 1), (21, 3)] (some (.spawn (fld n 24) (fld n 17) (fld n 10) (fld n 3)))) rfl ?_
  rw [fld_eq n 24 x0 (by first | assumption | omega), fld_eq n 17 x1 (by first | assumption | omega), fld_eq n 10 x2 (by first | assumption | omega), fld_eq n 3 x3 (by first | assumption | omega)]
  exact settle_ok (.inl rfl) (by intro z hz; simp only [List.mem_cons, List.not_mem_nil, or_false] at hz; rcases hz with rfl | rfl <;> dsimp only <;> omega) hw

theorem launch (x0 : SReg) (x1 : SReg) (x2 : SReg) : Statement (.launch x0 x1 x2) := by
  obtain ⟨n, hn⟩ : ∃ n, encSR 0x3D x0.toNat x1.toNat x2.toNat 0 = n := ⟨_, rfl⟩
  obtain ⟨hlt, o, hg, kd, ka, kb, kfn⟩ := fieldsSR hn (by decide) x0.isLt x1.isLt x2.isLt (by decide)
  refine of_number (n := n) (by rw [← hn]; rfl) hlt fun hw => ?_
  clear hn
  have p0 : n % 64 = 0 := by first | assumption | omega
  have e : decodeNat n = major3D n := by unfold decodeNat; rw [o]; rfl
  rw [e]
  unfold major3D
  rw [p0]
  refine Eq.trans (b := settle n false [] (some (.launch (fld n 18) (fld n 12) (fld n 6)))) rfl ?_
  rw [fld_eq n 18 x0 (by first | assumption | omega), fld_eq n 12 x1 (by first | assumption | omega), fld_eq n 6 x2 (by first | assumption | omega)]
  exact settle_ok (.inr (by assumption)) (fun _ h => nomatch h) hw

theorem trap (x0 : BitVec 20) : Statement (.trap x0) := by
  obtain ⟨n, hn⟩ : ∃ n, encSM 0x3E x0.toNat 0 = n := ⟨_, rfl⟩
  obtain ⟨hlt, o, hg, kimm, kfn⟩ := fieldsSM hn (by decide) x0.isLt (by decide)
  refine of_number (n := n) (by rw [← hn]; rfl) hlt fun hw => ?_
  clear hn
  have p0 : n % 16 = 0 := by first | assumption | omega
  have e : decodeNat n = major3E n := by unfold decodeNat; rw [o]; rfl
  rw [e]
  unfold major3E
  rw [p0]
  refine Eq.trans (b := settle n false [] (some (.trap (fld n 4)))) rfl ?_
  rw [fld_eq n 4 x0 (by first | assumption | omega)]
  exact settle_ok (.inr (by assumption)) (fun _ h => nomatch h) hw

theorem hcall (x0 : Guard) (x1 : VReg) (x2 : VReg) (x3 : SReg) : Statement (.hcall x0 x1 x2 x3) := by
  obtain ⟨n, hn⟩ : ∃ n, encSV 0x3E x0.toNat x1.toNat x2.toNat x3.toNat 0x1 = n := ⟨_, rfl⟩
  obtain ⟨hlt, o, kg, kd, ka, kb, kfn⟩ := fieldsSV hn (by decide) x0.isLt x1.isLt x2.isLt x3.isLt (by decide)
  refine of_number (n := n) (by rw [← hn]; rfl) hlt fun hw => ?_
  clear hn
  have p0 : n % 16 = 1 := by first | assumption | omega
  have e : decodeNat n = major3E n := by unfold decodeNat; rw [o]; rfl
  rw [e]
  unfold major3E
  rw [p0]
  refine Eq.trans (b := settle n true [] (some (.hcall (fld n 24) (fld n 17) (fld n 10) (fld n 4)))) rfl ?_
  rw [fld_eq n 24 x0 (by first | assumption | omega), fld_eq n 17 x1 (by first | assumption | omega), fld_eq n 10 x2 (by first | assumption | omega), fld_eq n 4 x3 (by first | assumption | omega)]
  exact settle_ok (.inl rfl) (fun _ h => nomatch h) hw

theorem eret : Statement (.eret) := by
  obtain ⟨n, hn⟩ : ∃ n, encSS 0x3E 0 0 0 0x2 = n := ⟨_, rfl⟩
  obtain ⟨hlt, o, hg, kd, ka, ksel, kfn⟩ := fieldsSS hn (by decide) (by decide) (by decide) (by decide) (by decide)
  refine of_number (n := n) (by rw [← hn]; rfl) hlt fun hw => ?_
  clear hn
  have p0 : n % 16 = 2 := by first | assumption | omega
  have e : decodeNat n = major3E n := by unfold decodeNat; rw [o]; rfl
  rw [e]
  unfold major3E
  rw [p0]
  refine Eq.trans (b := settle n false [(4, 20)] (some (.eret))) rfl ?_
  exact settle_ok (.inr (by assumption)) (by intro z hz; simp only [List.mem_cons, List.not_mem_nil, or_false] at hz; rcases hz with rfl <;> dsimp only <;> omega) hw

theorem slcfg (x0 : SReg) (x1 : SReg) (x2 : SlcfgForm) : Statement (.slcfg x0 x1 x2) := by
  obtain ⟨n, hn⟩ : ∃ n, encSS 0x3E x0.toNat x1.toNat x2.code 0x3 = n := ⟨_, rfl⟩
  obtain ⟨hlt, o, hg, kd, ka, ksel, kfn⟩ := fieldsSS hn (by decide) x0.isLt x1.isLt (Nat.lt_of_lt_of_le (SlcfgForm.code_lt x2) (by decide)) (by decide)
  refine of_number (n := n) (by rw [← hn]; rfl) hlt fun hw => ?_
  clear hn
  have bx2 := SlcfgForm.code_lt x2
  have p0 : n % 16 = 3 := by first | assumption | omega
  have ex2 : n / 2 ^ 4 % 256 = x2.code := by omega
  have e : decodeNat n = major3E n := by unfold decodeNat; rw [o]; rfl
  rw [e]
  unfold major3E
  rw [p0, ex2, SlcfgForm.ofCode_code]
  refine Eq.trans (b := settle n false (if x2.code = 2 then [(12, 6)] else []) (some (.slcfg (fld n 18) (fld n 12) x2))) rfl ?_
  rw [fld_eq n 18 x0 (by first | assumption | omega), fld_eq n 12 x1 (by first | assumption | omega)]
  have hx : x2.code = 2 → x1.toNat = 0 := by
    intro h; cases x2 <;> simp_all [Instr.wf, SlcfgForm.code]
  exact settle_ok (.inr (by assumption)) (by intro z hz; split at hz <;> rename_i hc <;> simp only [List.mem_cons, List.not_mem_nil, or_false] at hz; have := hx hc; rcases hz with rfl; dsimp only; omega) hw

theorem tlbinv (x0 : SReg) (x1 : TlbForm) : Statement (.tlbinv x0 x1) := by
  obtain ⟨n, hn⟩ : ∃ n, encSS 0x3E 0 x0.toNat x1.code 0x4 = n := ⟨_, rfl⟩
  obtain ⟨hlt, o, hg, kd, ka, ksel, kfn⟩ := fieldsSS hn (by decide) (by decide) x0.isLt (Nat.lt_of_lt_of_le (TlbForm.code_lt x1) (by decide)) (by decide)
  refine of_number (n := n) (by rw [← hn]; rfl) hlt fun hw => ?_
  clear hn
  have bx1 := TlbForm.code_lt x1
  have p0 : n % 16 = 4 := by first | assumption | omega
  have ex1 : n / 2 ^ 4 % 256 = x1.code := by omega
  have e : decodeNat n = major3E n := by unfold decodeNat; rw [o]; rfl
  rw [e]
  unfold major3E
  rw [p0, ex1, TlbForm.ofCode_code]
  refine Eq.trans (b := settle n false (if x1.code = 1 then [(12, 6), (18, 6)] else [(18, 6)]) (some (.tlbinv (fld n 12) x1))) rfl ?_
  rw [fld_eq n 12 x0 (by first | assumption | omega)]
  have hx : x1.code = 1 → x0.toNat = 0 := by
    intro h; cases x1 <;> simp_all [Instr.wf, TlbForm.code]
  exact settle_ok (.inr (by assumption)) (by intro z hz; split at hz <;> rename_i hc <;> simp only [List.mem_cons, List.not_mem_nil, or_false] at hz <;> first | (have := hx hc; rcases hz with rfl | rfl <;> dsimp only <;> omega) | (rcases hz with rfl; dsimp only; omega)) hw

theorem cachecl (x0 : SReg) (x1 : CacheForm) : Statement (.cachecl x0 x1) := by
  obtain ⟨n, hn⟩ : ∃ n, encSS 0x3E 0 x0.toNat x1.code 0x5 = n := ⟨_, rfl⟩
  obtain ⟨hlt, o, hg, kd, ka, ksel, kfn⟩ := fieldsSS hn (by decide) (by decide) x0.isLt (Nat.lt_of_lt_of_le (CacheForm.code_lt x1) (by decide)) (by decide)
  refine of_number (n := n) (by rw [← hn]; rfl) hlt fun hw => ?_
  clear hn
  have bx1 := CacheForm.code_lt x1
  have p0 : n % 16 = 5 := by first | assumption | omega
  have ex1 : n / 2 ^ 4 % 256 = x1.code := by omega
  have e : decodeNat n = major3E n := by unfold decodeNat; rw [o]; rfl
  rw [e]
  unfold major3E
  rw [p0, ex1, CacheForm.ofCode_code]
  refine Eq.trans (b := settle n false [(18, 6)] (some (.cachecl (fld n 12) x1))) rfl ?_
  rw [fld_eq n 12 x0 (by first | assumption | omega)]
  exact settle_ok (.inr (by assumption)) (by intro z hz; simp only [List.mem_cons, List.not_mem_nil, or_false] at hz; rcases hz with rfl <;> dsimp only <;> omega) hw

theorem evrd (x0 : SReg) : Statement (.evrd x0) := by
  obtain ⟨n, hn⟩ : ∃ n, encSS 0x3E x0.toNat 0 0 0x6 = n := ⟨_, rfl⟩
  obtain ⟨hlt, o, hg, kd, ka, ksel, kfn⟩ := fieldsSS hn (by decide) x0.isLt (by decide) (by decide) (by decide)
  refine of_number (n := n) (by rw [← hn]; rfl) hlt fun hw => ?_
  clear hn
  have p0 : n % 16 = 6 := by first | assumption | omega
  have p1 : n / 2 ^ 4 % 256 = 0 := by first | assumption | omega
  have e : decodeNat n = major3E n := by unfold decodeNat; rw [o]; rfl
  rw [e]
  unfold major3E
  rw [p0, p1]
  refine Eq.trans (b := settle n false [(12, 6)] (some (.evrd (fld n 18)))) rfl ?_
  rw [fld_eq n 18 x0 (by first | assumption | omega)]
  exact settle_ok (.inr (by assumption)) (by intro z hz; simp only [List.mem_cons, List.not_mem_nil, or_false] at hz; rcases hz with rfl <;> dsimp only <;> omega) hw

theorem loadDataReturn (core_ : CoreId) (slot_ : SlotId) (reply_ : PeerReply) : Statement (.loadDataReturn core_ slot_ reply_) := of_event rfl

theorem mmaComplete (core_ : CoreId) (slot_ : SlotId) : Statement (.mmaComplete core_ slot_) := of_event rfl

theorem mmasComplete (op_ : Nat) : Statement (.mmasComplete op_) := of_event rfl

theorem inkComplete (op_ : Nat) : Statement (.inkComplete op_) := of_event rfl

theorem copySectorWritten (op_ : Nat) : Statement (.copySectorWritten op_) := of_event rfl

theorem waitWake (core_ : CoreId) (slot_ : SlotId) : Statement (.waitWake core_ slot_) := of_event rfl

theorem launchSignalStore (ctx_ : CtxId) (col_ : ColId) (line_ : LineId) (size_ : Nat) (off_ : Nat) (value_ : BitVec 64) : Statement (.launchSignalStore ctx_ col_ line_ size_ off_ value_) := of_event rfl

theorem launchPortRead (col_ : ColId) (line_ : LineId) : Statement (.launchPortRead col_ line_) := of_event rfl

theorem dependencePoll (grid_ : Nat) : Statement (.dependencePoll grid_) := of_event rfl

theorem teamAdmission (grid_ : Nat) : Statement (.teamAdmission grid_) := of_event rfl

theorem teamRetirement (team_ : Nat) : Statement (.teamRetirement team_) := of_event rfl

theorem gridRetirement (grid_ : Nat) : Statement (.gridRetirement grid_) := of_event rfl

theorem teamSave (team_ : Nat) : Statement (.teamSave team_) := of_event rfl

theorem allowanceReq (col_ : ColId) (home_ : ColId) : Statement (.allowanceReq col_ home_) := of_event rfl

theorem allowanceGive (col_ : ColId) (home_ : ColId) : Statement (.allowanceGive col_ home_) := of_event rfl

theorem allowanceFlush (col_ : ColId) (home_ : ColId) : Statement (.allowanceFlush col_ home_) := of_event rfl

theorem allowanceGrant (home_ : ColId) (col_ : ColId) : Statement (.allowanceGrant home_ col_) := of_event rfl

theorem allowanceRecall (home_ : ColId) (col_ : ColId) : Statement (.allowanceRecall home_ col_) := of_event rfl

theorem allowanceAck (col_ : ColId) (home_ : ColId) : Statement (.allowanceAck col_ home_) := of_event rfl

theorem allowanceRelease (home_ : ColId) (col_ : ColId) : Statement (.allowanceRelease home_ col_) := of_event rfl

theorem allowanceDrainServe (obj_ : Nat) : Statement (.allowanceDrainServe obj_) := of_event rfl

theorem giveReply (home_ : ColId) (col_ : ColId) : Statement (.giveReply home_ col_) := of_event rfl

theorem earlyCommit (team_ : Nat) : Statement (.earlyCommit team_) := of_event rfl

theorem journalLaunch (j_ : JournalId) : Statement (.journalLaunch j_) := of_event rfl

theorem journalCopy (j_ : JournalId) : Statement (.journalCopy j_) := of_event rfl

theorem journalCopySector (op_ : Nat) : Statement (.journalCopySector op_) := of_event rfl

theorem journalSignal (j_ : JournalId) : Statement (.journalSignal j_) := of_event rfl

theorem journalBarrier (j_ : JournalId) : Statement (.journalBarrier j_) := of_event rfl

theorem illegalEncoding (check_ : BitVec 3) (word_ : BitVec 32) : Statement (.illegalEncoding check_ word_) := of_event rfl

theorem instructionFetchFault (why_ : FetchFault) (va_ : BitVec 64) : Statement (.instructionFetchFault why_ va_) := of_event rfl

theorem parityDeltaAccept (write_ : Nat) : Statement (.parityDeltaAccept write_) := of_event rfl

theorem parityDeltaApply (stripe_ : Nat) : Statement (.parityDeltaApply stripe_) := of_event rfl

theorem spawnBinTimer (col_ : ColId) (bin_ : Nat) : Statement (.spawnBinTimer col_ bin_) := of_event rfl

theorem registerWrite (off_ : BitVec 24) (value_ : BitVec 64) (ide_ : Bool) : Statement (.registerWrite off_ value_ ide_) := of_event rfl

theorem levelRise (col_ : ColId) : Statement (.levelRise col_) := of_event rfl

theorem levelFall (col_ : ColId) : Statement (.levelFall col_) := of_event rfl

theorem leaseHoldExpiry (line_ : Nat) : Statement (.leaseHoldExpiry line_) := of_event rfl

theorem leaseExpiry (col_ : ColId) (line_ : Nat) : Statement (.leaseExpiry col_ line_) := of_event rfl

theorem pinwinApply (core_ : CoreId) : Statement (.pinwinApply core_) := of_event rfl

theorem storeFailure (core_ : CoreId) (slot_ : SlotId) (va_ : BitVec 64) (pa_ : BitVec 64) (how_ : StoreFailHow) : Statement (.storeFailure core_ slot_ va_ pa_ how_) := of_event rfl

theorem placementDiversionTimeout (grid_ : Nat) : Statement (.placementDiversionTimeout grid_) := of_event rfl

theorem headTeamHold (core_ : CoreId) : Statement (.headTeamHold core_) := of_event rfl

theorem groupAged (core_ : CoreId) (slot_ : SlotId) : Statement (.groupAged core_ slot_) := of_event rfl

theorem yieldHoldExpiry (core_ : CoreId) (slot_ : SlotId) : Statement (.yieldHoldExpiry core_ slot_) := of_event rfl

theorem preemptDeadline (ctx_ : CtxId) : Statement (.preemptDeadline ctx_) := of_event rfl

theorem deadlockWatchdog (ctx_ : CtxId) : Statement (.deadlockWatchdog ctx_) := of_event rfl

theorem scopeMarkPromotion (line_ : Nat) : Statement (.scopeMarkPromotion line_) := of_event rfl

theorem promotionStart (col_ : ColId) (ctx_ : CtxId) (va_ : BitVec 64) (frame_ : Nat) : Statement (.promotionStart col_ ctx_ va_ frame_) := of_event rfl

theorem promotionCommit (col_ : ColId) (frame_ : Nat) : Statement (.promotionCommit col_ frame_) := of_event rfl

theorem promotionAbandon (col_ : ColId) (frame_ : Nat) : Statement (.promotionAbandon col_ frame_) := of_event rfl

theorem submitWrite (j_ : JournalId) (value_ : BitVec 64) : Statement (.submitWrite j_ value_) := of_event rfl

theorem ajconsWrite (j_ : JournalId) (value_ : BitVec 64) : Statement (.ajconsWrite j_ value_) := of_event rfl

theorem seqMismatchReread (j_ : JournalId) : Statement (.seqMismatchReread j_) := of_event rfl

theorem ctxCreate : Statement (.ctxCreate) := of_event rfl

theorem ctxSet : Statement (.ctxSet) := of_event rfl

theorem ctxPreempt : Statement (.ctxPreempt) := of_event rfl

theorem ctxResume : Statement (.ctxResume) := of_event rfl

theorem ctxReset : Statement (.ctxReset) := of_event rfl

theorem ctxDestroy : Statement (.ctxDestroy) := of_event rfl

theorem ctxStop : Statement (.ctxStop) := of_event rfl

theorem hreplyWrite (col_ : ColId) (value_ : BitVec 64) : Statement (.hreplyWrite col_ value_) := of_event rfl

theorem hqheadWrite (col_ : ColId) (value_ : BitVec 64) : Statement (.hqheadWrite col_ value_) := of_event rfl

theorem fqdoneWrite (col_ : ColId) (value_ : BitVec 64) : Statement (.fqdoneWrite col_ value_) := of_event rfl

theorem fqheadWrite (col_ : ColId) (value_ : BitVec 64) : Statement (.fqheadWrite col_ value_) := of_event rfl

theorem tlbShootdownPage (vpn_ : BitVec 39) (ctx_ : CtxId) : Statement (.tlbShootdownPage vpn_ ctx_) := of_event rfl

theorem tlbShootdownContext (ctx_ : CtxId) : Statement (.tlbShootdownContext ctx_) := of_event rfl

theorem tlbShootdownAllContexts (vpn_ : BitVec 39) : Statement (.tlbShootdownAllContexts vpn_) := of_event rfl

theorem shootdownComplete : Statement (.shootdownComplete) := of_event rfl

theorem stackLost (stack_ : Fin 12) : Statement (.stackLost stack_) := of_event rfl

theorem restripeStart : Statement (.restripeStart) := of_event rfl

theorem restripeStripeDone : Statement (.restripeStripeDone) := of_event rfl

theorem patrolScrub (sector_ : Nat) (finding_ : EccFinding) : Statement (.patrolScrub sector_ finding_) := of_event rfl

theorem vaultRefresh (col_ : ColId) (bank_ : Fin 16) : Statement (.vaultRefresh col_ bank_) := of_event rfl

theorem refreshEnd (col_ : ColId) (bank_ : Fin 16) : Statement (.refreshEnd col_ bank_) := of_event rfl

theorem renew (col_ : ColId) (value_ : BitVec 64) : Statement (.renew col_ value_) := of_event rfl

theorem refreshLeaseLapse (col_ : ColId) : Statement (.refreshLeaseLapse col_) := of_event rfl

theorem checkpointSave : Statement (.checkpointSave) := of_event rfl

theorem checkpointRestore : Statement (.checkpointRestore) := of_event rfl

theorem checkpointComplete (fault_ : Bool) : Statement (.checkpointComplete fault_) := of_event rfl

theorem columnFence (col_ : ColId) (cause_ : FenceCause) : Statement (.columnFence col_ cause_) := of_event rfl

theorem suspectedCrackedConnection (col_ : ColId) (sensor_ : Fin 32) : Statement (.suspectedCrackedConnection col_ sensor_) := of_event rfl

theorem regulatorDroop (die_ : DieId) (mv_ : BitVec 32) : Statement (.regulatorDroop die_ mv_) := of_event rfl

theorem devreset (value_ : BitVec 64) : Statement (.devreset value_) := of_event rfl

theorem columnWaysWrite (col_ : ColId) (value_ : BitVec 64) : Statement (.columnWaysWrite col_ value_) := of_event rfl

theorem pinwinWrite (core_ : CoreId) (value_ : BitVec 64) : Statement (.pinwinWrite core_ value_) := of_event rfl

theorem govForce (col_ : ColId) (value_ : BitVec 64) : Statement (.govForce col_ value_) := of_event rfl

theorem logconsWrite (value_ : BitVec 64) : Statement (.logconsWrite value_) := of_event rfl

theorem powerOn : Statement (.powerOn) := of_event rfl

theorem bootStep (outcome_ : BootOutcome) : Statement (.bootStep outcome_) := of_event rfl

theorem pcieReset : Statement (.pcieReset) := of_event rfl

theorem managementRequest : Statement (.managementRequest) := of_event rfl

theorem dmcWatchdog (die_ : DieId) : Statement (.dmcWatchdog die_) := of_event rfl

theorem thermalTrip (die_ : DieId) (celsius_ : BitVec 8) : Statement (.thermalTrip die_ celsius_) := of_event rfl

theorem regulatorFault : Statement (.regulatorFault) := of_event rfl

theorem ucieFlitRetry (pair_ : PairId) (mod_ : Fin 16) : Statement (.ucieFlitRetry pair_ mod_) := of_event rfl

theorem ucieLaneRepaired (pair_ : PairId) (lane_ : BitVec 16) : Statement (.ucieLaneRepaired pair_ lane_) := of_event rfl

theorem ucieModuleDisabled (pair_ : PairId) (mod_ : Fin 16) : Statement (.ucieModuleDisabled pair_ mod_) := of_event rfl

theorem dieLinkLost (pair_ : PairId) : Statement (.dieLinkLost pair_) := of_event rfl

theorem ualinkPortTraining (port_ : PortId) (partnerIsZ7_ : Bool) (peer_ : PeerId) : Statement (.ualinkPortTraining port_ partnerIsZ7_ peer_) := of_event rfl

theorem doubleRateOffer (port_ : PortId) (trained_ : Bool) : Statement (.doubleRateOffer port_ trained_) := of_event rfl

theorem peerReadRequest (peer_ : PeerId) (pa_ : BitVec 64) (len_ : Nat) (lease_ : BitVec 8) : Statement (.peerReadRequest peer_ pa_ len_ lease_) := of_event rfl

theorem peerWriteRequest (peer_ : PeerId) (pa_ : BitVec 64) (data_ : MemRequest) : Statement (.peerWriteRequest peer_ pa_ data_) := of_event rfl

theorem ptpUnlocked (offset_ : BitVec 64) : Statement (.ptpUnlocked offset_) := of_event rfl

theorem heartbeat (peer_ : PeerId) : Statement (.heartbeat peer_) := of_event rfl

theorem goWrite (value_ : BitVec 64) : Statement (.goWrite value_) := of_event rfl

theorem backInvalidateResponse (line_ : Nat) : Statement (.backInvalidateResponse line_) := of_event rfl

theorem spdmGetMeasurements (block_ : Nat) : Statement (.spdmGetMeasurements block_) := of_event rfl

theorem keySlotLoad (slot_ : BitVec 7) (msg_ : KeyMessage) (k1_ : BitVec 256) (k2_ : BitVec 256) : Statement (.keySlotLoad slot_ msg_ k1_ k2_) := of_event rfl

theorem pldmGetSensorReading (sensor_ : BitVec 16) : Statement (.pldmGetSensorReading sensor_) := of_event rfl

theorem platformEventRetry (acked_ : Bool) : Statement (.platformEventRetry acked_) := of_event rfl

theorem cxlMemRequest (pa_ : BitVec 64) (data_ : MemRequest) (len_ : Nat) : Statement (.cxlMemRequest pa_ data_ len_) := of_event rfl

theorem hostCoreMemoryAccess (col_ : HostAgent) (pa_ : BitVec 64) (data_ : MemRequest) (len_ : Nat) : Statement (.hostCoreMemoryAccess col_ pa_ data_ len_) := of_event rfl

theorem ualinkPortDown (port_ : PortId) : Statement (.ualinkPortDown port_) := of_event rfl

theorem ptpLockRegained : Statement (.ptpLockRegained) := of_event rfl

theorem peerHeartbeat (peer_ : PeerId) : Statement (.peerHeartbeat peer_) := of_event rfl

theorem vaultHot (col_ : ColId) (bank_ : Fin 16) (celsius_ : BitVec 8) : Statement (.vaultHot col_ bank_ celsius_) := of_event rfl

theorem regulatorDroopCleared (die_ : DieId) : Statement (.regulatorDroopCleared die_) := of_event rfl

theorem logMergeSummary (cls_ : BitVec 8) (code_ : BitVec 8) (col_ : BitVec 8) : Statement (.logMergeSummary cls_ code_ col_) := of_event rfl

theorem tdispStateChange (tdi_ : TdispState) : Statement (.tdispStateChange tdi_) := of_event rfl


end Sys2Proof.Laws.Encoding
end

