-- ==== Sys2Proof/Laws/Turns.lean ====
section
/-! SUPPORT. What one turn of a group is, where no load waits to be performed late. -/
namespace Sys2Proof.Machine
set_option Elab.async false

@[simp] theorem State.lateFirst_none {s : State} (h : s.g.late = none) : s.lateFirst = s := by simp [State.lateFirst, h]

@[simp] theorem State.lateDone_none {s : State} (h : s.g.late = none) : s.lateDone = s := by simp [State.lateDone, h]

@[simp] theorem State.noteLate_off {s : State} (t : State) (h : s.g.defer = false) : t.noteLate s = t := by simp [State.noteLate, h]

/-- A group without a late load, and for which none is chosen, fetches and executes (R75, R157). -/
theorem State.issue_eq {s : State} (h : s.g.late = none) (hd : s.g.defer = false) : s.issue = s.issueNow := by
  unfold State.issue
  rw [State.lateFirst_none h]
  split
  · next t ht => rw [State.noteLate_off t hd, ht]
  · rfl

end Sys2Proof.Machine
end

