-- ==== Sys2Proof/Tests/Slice0.lean ====
section
/-! SUPPORT. Tests: ill-formed terms that the well-formedness check refuses, words written out from the encoding tables of the
spec, the worked examples of the spec, and for each statement with hypotheses a state that meets them. -/
namespace Sys2Proof.Tests
open Sys2Proof Sys2Proof.Machine Sys2Proof.Safety
set_option Elab.async false

/-! ### Well-formedness -/

theorem test_wf_refuses_glyph : (Instr.glyph 0 64 0 1).wf = false ∧ (Instr.glyph 0 0 64 2).wf = false ∧
    (Instr.glyph 0 64 64 0).wf = true := by decide
theorem test_wf_refuses_mode : (Instr.mode 1 2 0).wf = false ∧ (Instr.mode 1 2 64).wf = false ∧ (Instr.mode 1 2 63).wf = true := by decide
theorem test_wf_refuses_sread_lane : (Instr.sreadScalar 1 .lane).wf = false ∧ (Instr.sreadVector 0 1 .lane).wf = true := by decide
theorem test_wf_refuses_compare : (Instr.vcmp 0 .eq 3 3 1 2).wf = false ∧ (Instr.fcmp 0 .un 3 3 1 2).wf = false ∧
    (Instr.vcmp 0 .eq 0 0 1 2).wf = true := by decide
theorem test_wf_refuses_atomics : (Instr.amov 0 1 2 .dev .relaxed .minn).wf = false ∧
    (Instr.redv 0 1 2 .dev .acq .add).wf = false ∧ (Instr.redv 0 1 2 .dev .rel .swap).wf = false ∧
    (Instr.redv 0 1 2 .dev .rel .maxn).wf = false ∧ (Instr.reds 1 2 .dev .sc .add).wf = false ∧
    (Instr.reds 1 2 .dev .rel .swap).wf = false ∧ (Instr.lda 1 2 .dev .rel).wf = false ∧ (Instr.strl 1 2 .dev .acq).wf = false ∧
    (Instr.fence .dev .relaxed).wf = false := by decide
theorem test_wf_refuses_team_points : (Instr.rdvinit 24 1 2).wf = false ∧ (Instr.arrive 24 1).wf = false ∧
    (Instr.expect 24 1).wf = false ∧ (Instr.waitp 31 1).wf = false ∧ (Instr.waity 24 1 2).wf = false ∧
    (Instr.arwait 24).wf = false ∧ (Instr.rdvstat 24 1 2).wf = false ∧ (Instr.copy 24 1 2).wf = false ∧
    (Instr.copyt 24 1 2).wf = false ∧ (Instr.ink 24 1 2).wf = false ∧ (Instr.mmas 24 1 2).wf = false ∧
    (Instr.copyv 0 24 1 2 .p4).wf = false ∧ (Instr.rdvinit 23 1 2).wf = true := by decide
theorem test_wf_refuses_grid_points : (Instr.garrive 23).wf = false ∧ (Instr.garrive 28).wf = false ∧
    (Instr.gwait 23).wf = false ∧ (Instr.phase 28 1 2).wf = false ∧ (Instr.gwait 27).wf = true := by decide
theorem test_wf_refuses_forms : (Instr.slcfg 1 2 .query).wf = false ∧ (Instr.tlbinv 2 .core).wf = false ∧
    (Instr.slcfg 1 2 .resize).wf = true := by decide

/-- Words that no row of the table has: a nonzero must-be-zero field (step 4 of R75), and a reserved major (step 1). -/
theorem test_decode_refuses : (match decodeWord 0x0C000040 with | .ok _ => false | .error _ => true) = true ∧
    (match decodeWord 0x00000000 with | .ok _ => false | .error e => e.step == 1) = true ∧
    (match decodeWord 0xFC000000 with | .ok _ => false | .error e => e.step == 1) = true := by decide +kernel

/-! ### Words -/

theorem test_decode_scalarControl1 :
    decodeWord 0x045A96D1 = .ok (.branch 5936849) ∧
    decodeWord 0x085A96D1 = .ok (.call 5936849) ∧
    decodeWord 0x0C000000 = .ok (.nop) ∧
    decodeWord 0x0C009001 = .ok (.calls 9) ∧
    decodeWord 0x0C000002 = .ok (.ret) ∧
    decodeWord 0x0C009003 = .ok (.jmps 9) ∧
    decodeWord 0x0C000004 = .ok (.land) ∧
    decodeWord 0x0C000005 = .ok (.halt) ∧
    decodeWord 0x0C000006 = .ok (.poll) ∧
    decodeWord 0x0C000007 = .ok (.yield) ∧
    decodeWord 0x0C000008 = .ok (.endGroup) ∧
    decodeWord 0x102696D1 = .ok (.bz 9 169681) := by
  decide +kernel

theorem test_decode_scalarControl2 :
    decodeWord 0x142696D1 = .ok (.bnz 9 169681) ∧
    decodeWord 0x182E96D1 = .ok (.bany 11 169681) ∧
    decodeWord 0x1C2E96D1 = .ok (.ball 11 169681) ∧
    decodeWord 0x202E96D1 = .ok (.bnone 11 169681) ∧
    decodeWord 0x24008400 = .ok (.jmpv 33) := by
  decide +kernel

theorem test_decode_scalarAlu1 :
    decodeWord 0x28255980 = .ok (.add 9 21 38) ∧
    decodeWord 0x28255981 = .ok (.sub 9 21 38) ∧
    decodeWord 0x28255982 = .ok (.and 9 21 38) ∧
    decodeWord 0x28255983 = .ok (.or 9 21 38) ∧
    decodeWord 0x28255984 = .ok (.xor 9 21 38) ∧
    decodeWord 0x28255985 = .ok (.sll 9 21 38) ∧
    decodeWord 0x28255986 = .ok (.srl 9 21 38) ∧
    decodeWord 0x28255987 = .ok (.sra 9 21 38) ∧
    decodeWord 0x28255988 = .ok (.mul 9 21 38) ∧
    decodeWord 0x28255989 = .ok (.mulh 9 21 38) ∧
    decodeWord 0x2825598A = .ok (.mulhn 9 21 38) ∧
    decodeWord 0x2825598B = .ok (.div 9 21 38) := by
  decide +kernel

theorem test_decode_scalarAlu2 :
    decodeWord 0x2825598C = .ok (.divn 9 21 38) ∧
    decodeWord 0x2825598D = .ok (.rem 9 21 38) ∧
    decodeWord 0x2825598E = .ok (.remn 9 21 38) ∧
    decodeWord 0x2825598F = .ok (.slt 9 21 38) ∧
    decodeWord 0x28255990 = .ok (.sltn 9 21 38) ∧
    decodeWord 0x28255991 = .ok (.min 9 21 38) ∧
    decodeWord 0x28255992 = .ok (.max 9 21 38) ∧
    decodeWord 0x28255993 = .ok (.minn 9 21 38) ∧
    decodeWord 0x28255994 = .ok (.maxn 9 21 38) ∧
    decodeWord 0x28255995 = .ok (.seq 9 21 38) ∧
    decodeWord 0x28255016 = .ok (.clz 9 21) ∧
    decodeWord 0x28255017 = .ok (.ctz 9 21) := by
  decide +kernel

theorem test_decode_scalarAlu3 :
    decodeWord 0x28255018 = .ok (.popc 9 21) := by
  decide +kernel

theorem test_decode_immediates :
    decodeWord 0x2C2556D1 = .ok (.addi 9 21 1745) ∧
    decodeWord 0x302556D1 = .ok (.andi 9 21 1745) ∧
    decodeWord 0x342556D1 = .ok (.ori 9 21 1745) ∧
    decodeWord 0x38D14C9F = .ok (.glyph 209 38 39 3) ∧
    decodeWord 0x3C0090D1 = .ok (.glyld 9 209) ∧
    decodeWord 0x402556D1 = .ok (.xori 9 21 1745) ∧
    decodeWord 0x44255011 = .ok (.slli 9 21 17) ∧
    decodeWord 0x44255051 = .ok (.srli 9 21 17) ∧
    decodeWord 0x44255091 = .ok (.srai 9 21 17) ∧
    decodeWord 0x482556D1 = .ok (.slti 9 21 1745) ∧
    decodeWord 0x4C2696D1 = .ok (.liz 9 2 38609) ∧
    decodeWord 0x502696D1 = .ok (.lik 9 2 38609) := by
  decide +kernel

theorem test_decode_scalarMemory :
    decodeWord 0x542556D1 = .ok (.ld 9 21 1745) ∧
    decodeWord 0x582556D1 = .ok (.st 9 21 1745) ∧
    decodeWord 0x5C2556D1 = .ok (.ldk 9 21 1745) := by
  decide +kernel

theorem test_decode_system1 :
    decodeWord 0x602552D0 = .ok (.mode 9 21 45) ∧
    decodeWord 0x60240001 = .ok (.mdr 9) ∧
    decodeWord 0x60240002 = .ok (.flr 9) ∧
    decodeWord 0x60255013 = .ok (.flclr 9 21 .flags) ∧
    decodeWord 0x60240214 = .ok (.sreadScalar 9 .clk) ∧
    decodeWord 0x60009195 = .ok (.swrite 9 .gstat) ∧
    decodeWord 0x63428006 = .ok (.sreadVector 3 33 .evt) ∧
    decodeWord 0x64161868 = .ok (.pand 0 11 6 13) ∧
    decodeWord 0x65161869 = .ok (.por 1 11 6 13) ∧
    decodeWord 0x6616186A = .ok (.pxor 2 11 6 13) ∧
    decodeWord 0x67161803 = .ok (.pmov 3 11 6) ∧
    decodeWord 0x64162404 = .ok (.pset 0 11 9) := by
  decide +kernel

theorem test_decode_system2 :
    decodeWord 0x64122C05 = .ok (.pget 9 11) ∧
    decodeWord 0x64122C06 = .ok (.pcnt 9 11) ∧
    decodeWord 0x64122C07 = .ok (.pfirst 9 11) := by
  decide +kernel

theorem test_decode_convert :
    decodeWord 0x68431A08 = .ok (.cvt 0 33 70 (.slot 1)) ∧
    decodeWord 0x69431A09 = .ok (.cvtFrom 1 33 70 (.slot 1)) ∧
    decodeWord 0x6E431808 = .ok (.quant 2 33 70 1) ∧
    decodeWord 0x6F431809 = .ok (.deq 3 33 70 1) := by
  decide +kernel

theorem test_decode_vectorInt1 :
    decodeWord 0x704202D1 = .ok (.vmovi 0 33 721) ∧
    decodeWord 0x75431B28 = .ok (.vadd 1 33 70 101) ∧
    decodeWord 0x76431B29 = .ok (.vsub 2 33 70 101) ∧
    decodeWord 0x77431B2A = .ok (.vmul 3 33 70 101) ∧
    decodeWord 0x74431B2B = .ok (.vmulh 0 33 70 101) ∧
    decodeWord 0x75431B2C = .ok (.vmin 1 33 70 101) ∧
    decodeWord 0x76431B2D = .ok (.vmax 2 33 70 101) ∧
    decodeWord 0x77431B2E = .ok (.vabsd 3 33 70 101) ∧
    decodeWord 0x74431B2F = .ok (.vavg 0 33 70 101) ∧
    decodeWord 0x79431B28 = .ok (.vand 1 33 70 101) ∧
    decodeWord 0x7A431B29 = .ok (.vor 2 33 70 101) ∧
    decodeWord 0x7B431B2A = .ok (.vxor 3 33 70 101) := by
  decide +kernel

theorem test_decode_vectorInt2 :
    decodeWord 0x78431B2B = .ok (.vandn 0 33 70 101) ∧
    decodeWord 0x79431B2C = .ok (.vsll 1 33 70 101) ∧
    decodeWord 0x7A431B2D = .ok (.vsrl 2 33 70 101) ∧
    decodeWord 0x7B431B2E = .ok (.vsra 3 33 70 101) ∧
    decodeWord 0x78431807 = .ok (.vpopc 0 33 70) ∧
    decodeWord 0x7D431B28 = .ok (.vadds 1 33 70 101) ∧
    decodeWord 0x7E431B29 = .ok (.vsubs 2 33 70 101) ∧
    decodeWord 0x7F431B2A = .ok (.vmad 3 33 70 101) ∧
    decodeWord 0x7C431B2B = .ok (.vdot4 0 33 70 101) ∧
    decodeWord 0x7D431B2C = .ok (.vdiv 1 33 70 101) ∧
    decodeWord 0x7E431B2D = .ok (.vrem 2 33 70 101) ∧
    decodeWord 0x7F431806 = .ok (.vclz 3 33 70) := by
  decide +kernel

theorem test_decode_vectorInt3 :
    decodeWord 0x7C431807 = .ok (.vabs 0 33 70) ∧
    decodeWord 0x81431AD1 = .ok (.vaddi 1 33 70 721) ∧
    decodeWord 0x86431811 = .ok (.vslli 2 33 70 17) ∧
    decodeWord 0x87431831 = .ok (.vsrli 3 33 70 17) ∧
    decodeWord 0x84431851 = .ok (.vsrai 0 33 70 17) := by
  decide +kernel

theorem test_decode_vectorFloat1 :
    decodeWord 0x89431B28 = .ok (.fadd 1 33 70 101) ∧
    decodeWord 0x8A431B29 = .ok (.fsub 2 33 70 101) ∧
    decodeWord 0x8B431B2A = .ok (.fmul 3 33 70 101) ∧
    decodeWord 0x88431B2B = .ok (.fmin 0 33 70 101) ∧
    decodeWord 0x89431B2C = .ok (.fmax 1 33 70 101) ∧
    decodeWord 0x8A431805 = .ok (.fabs 2 33 70) ∧
    decodeWord 0x8B431806 = .ok (.fneg 3 33 70) ∧
    decodeWord 0x88431B2F = .ok (.fsgnj 0 33 70 101) ∧
    decodeWord 0x8D431B28 = .ok (.fma 1 33 70 101) ∧
    decodeWord 0x8E431B29 = .ok (.fms 2 33 70 101) ∧
    decodeWord 0x8F431B2A = .ok (.fnma 3 33 70 101) ∧
    decodeWord 0x8C431B2B = .ok (.fdiv 0 33 70 101) := by
  decide +kernel

theorem test_decode_vectorFloat2 :
    decodeWord 0x8D431804 = .ok (.fsqrt 1 33 70) ∧
    decodeWord 0x8E431805 = .ok (.frsq 2 33 70) ∧
    decodeWord 0x8F431806 = .ok (.fexp2 3 33 70) ∧
    decodeWord 0x8C431807 = .ok (.flog2 0 33 70) ∧
    decodeWord 0x91B64319 = .ok (.vcmp 1 .ne 11 6 33 70) := by
  decide +kernel

theorem test_decode_compareMove1 :
    decodeWord 0x9AB6431A = .ok (.fcmp 2 .lt 11 6 33 70) ∧
    decodeWord 0xA7431B2B = .ok (.vsel 3 33 70 101 11) ∧
    decodeWord 0xA8431800 = .ok (.vmov 0 33 70) ∧
    decodeWord 0xA9422401 = .ok (.vbcast 1 33 9) ∧
    decodeWord 0xAE431B28 = .ok (.shfl 2 33 70 101) ∧
    decodeWord 0xAF431849 = .ok (.shflx 3 33 70 9) ∧
    decodeWord 0xAC43184A = .ok (.shflu 0 33 70 9) ∧
    decodeWord 0xAD43184B = .ok (.shfld 1 33 70 9) ∧
    decodeWord 0xAE1284AC = .ok (.vextr 2 9 33 21) ∧
    decodeWord 0xAF4224AD = .ok (.vins 3 33 9 21) ∧
    decodeWord 0xAC431806 = .ok (.vcompact 0 33 70) ∧
    decodeWord 0xB1431801 = .ok (.vred 1 33 70 .min) := by
  decide +kernel

theorem test_decode_compareMove2 :
    decodeWord 0xB6431802 = .ok (.vscan 2 33 70 .max) := by
  decide +kernel

theorem test_decode_matrix :
    decodeWord 0xBB90A248 = .ok (.mma 3 2 33 17 1 1) ∧
    decodeWord 0xB8800001 = .ok (.azero 0 2) ∧
    decodeWord 0xB9908002 = .ok (.cvta 1 2 33) ∧
    decodeWord 0xB8002203 = .ok (.inkz 17) := by
  decide +kernel

theorem test_decode_memory :
    decodeWord 0xBF43189C = .ok (.vld 3 33 70 9 .b8) ∧
    decodeWord 0xBC431891 = .ok (.spld 0 33 70 9 .b1) ∧
    decodeWord 0xBD431896 = .ok (.vtld 1 33 70 9 .b2) ∧
    decodeWord 0xBE43189B = .ok (.slld 2 33 70 9 .b4) ∧
    decodeWord 0xC343189C = .ok (.vst 3 33 70 9 .b8) ∧
    decodeWord 0xC0431891 = .ok (.spst 0 33 70 9 .b1) ∧
    decodeWord 0xC1431896 = .ok (.vtst 1 33 70 9 .b2) ∧
    decodeWord 0xC243189B = .ok (.slst 2 33 70 9 .b4) ∧
    decodeWord 0xC7424ED1 = .ok (.vldc 3 33 9 1745) ∧
    decodeWord 0xC8424ED1 = .ok (.vstc 0 33 9 1745) ∧
    decodeWord 0xCD008492 = .ok (.pref 1 33 9 .vault) := by
  decide +kernel

theorem test_decode_atomics :
    decodeWord 0xD24318C6 = .ok (.amov 2 33 70 .col .relaxed .max) ∧
    decodeWord 0xD343190F = .ok (.casv 3 33 70 .die .acq) ∧
    decodeWord 0xD4431956 = .ok (.redv 0 33 70 .dev .rel .max) ∧
    decodeWord 0xD9168448 = .ok (.altakev 1 11 33 9) ∧
    decodeWord 0xDE2C8632 = .ok (.copyv 2 22 33 70 .p16) ∧
    decodeWord 0xE0255202 = .ok (.amos 9 21 .team .relaxed .and) ∧
    decodeWord 0xE0255496 = .ok (.reds 9 21 .core .rel .max) ∧
    decodeWord 0xE02556A0 = .ok (.cass 9 21 .col .rel) ∧
    decodeWord 0xE0255928 = .ok (.lda 9 21 .die .sc) ∧
    decodeWord 0xE0255AA9 = .ok (.strl 9 21 .dev .rel) ∧
    decodeWord 0xE0000CF0 = .ok (.fence .sys .ar) ∧
    decodeWord 0xE0000031 = .ok (.fenceo) := by
  decide +kernel

theorem test_decode_sync1 :
    decodeWord 0xE4255980 = .ok (.alinit 9 21 38) ∧
    decodeWord 0xE4255981 = .ok (.altake 9 21 38) ∧
    decodeWord 0xE4255982 = .ok (.algive 9 21 38) ∧
    decodeWord 0xE4255003 = .ok (.alread 9 21) ∧
    decodeWord 0xE4255004 = .ok (.alfree 9 21) ∧
    decodeWord 0xE8992A80 = .ok (.rdvinit 19 9 21) ∧
    decodeWord 0xE8992001 = .ok (.arrive 19 9) ∧
    decodeWord 0xE8992002 = .ok (.expect 19 9) ∧
    decodeWord 0xE8992003 = .ok (.waitp 19 9) ∧
    decodeWord 0xE8992A84 = .ok (.waity 19 9 21) ∧
    decodeWord 0xE8980005 = .ok (.arwait 19) ∧
    decodeWord 0xE8992A86 = .ok (.rdvstat 19 9 21) := by
  decide +kernel

theorem test_decode_sync2 :
    decodeWord 0xE8C80007 = .ok (.garrive 25) ∧
    decodeWord 0xE8C80008 = .ok (.gwait 25) ∧
    decodeWord 0xE8C92A89 = .ok (.phase 25 9 21) ∧
    decodeWord 0xEC992A80 = .ok (.copy 19 9 21) ∧
    decodeWord 0xEC992A81 = .ok (.copyt 19 9 21) ∧
    decodeWord 0xEC992A82 = .ok (.ink 19 9 21) ∧
    decodeWord 0xEC992A83 = .ok (.mmas 19 9 21) := by
  decide +kernel

theorem test_decode_launchTrap :
    decodeWord 0xF1168448 = .ok (.spawn 1 11 33 9) ∧
    decodeWord 0xF4255980 = .ok (.launch 9 21 38) ∧
    decodeWord 0xF8A96D10 = .ok (.trap 693969) ∧
    decodeWord 0xF8431891 = .ok (.hcall 0 33 70 9) ∧
    decodeWord 0xF8000002 = .ok (.eret) ∧
    decodeWord 0xF8240013 = .ok (.slcfg 9 0 .resize) ∧
    decodeWord 0xF8009024 = .ok (.tlbinv 9 .dev) ∧
    decodeWord 0xF8009025 = .ok (.cachecl 9 .clCol) ∧
    decodeWord 0xF8240006 = .ok (.evrd 9) := by
  decide +kernel


/-! ### The state of the witnesses -/

/-- An operation succeeds. -/
def isOk {ε α : Type} : Except ε α → Bool
  | .ok _ => true
  | .error _ => false

/-- A page entry: V, R, W, X, the key slot 0, HOME and a frame of 64 KiB. -/
def pte (home frame : Nat) : Word := BitVec.ofNat 64 (15 + 32 * home + 65536 * frame)

/-- A group of team 1 with whole budgets, its first registers set: s2 = 7, s3 = −1, s4 = −2^63, s5 = 0x100 and s6 = 1. -/
def grp : Group := { Group.reset with
  status := .ready
  team := 1
  vBud := 128
  aBud := 64
  live := BitVec.allOnes 64
  pc := 0x2000
  s := (((((Group.reset.s.set 2 7).set 3 0xFFFFFFFFFFFFFFFF).set 4 0x8000000000000000).set 5 0x100).set 6 1) }

/-- A team of grid 2 with one macro and 24 points, point 1 expecting two arrivals. -/
def team1 : Team := { Team.none with
  id := 1
  grid := 2
  place := .resident
  points := (List.replicate 24 Point.reset).set 1 ⟨2, 0, 0, false, false, false, 0, 0⟩
  macros := [Macro.reset] }

/-- Its grid: COHORT, every point declared, 64 KiB of scratchpad. -/
def grid2 : Grid := { Grid.none with
  id := 2
  launch := { Launch.none with points := 24, flags := 1, scratch := 16 } }

/-- The group in context 0, which runs and has a handler; core 0 knows two pages: 0 (HOME 1, frame 0) and 1 (HOME 0,
frame 1). A LAND stands at address 0, the VLWIN entry of column 0, one block, at 0x40; column 0 grants its slice scratch of 4 MiB,
and knows page 0 too, and page 2, which may be promoted. -/
def base : State :=
  (({ State.reset with
    g := grp
    teams := [team1]
    grids := [grid2]
    fresh := 10
    mem := { Memory.reset with cells := [(0, 4), (3, 12), (0x42, 1)] } }.modCtx 0 fun c =>
    { c with phase := .running, handler := 0x1000, keyCount := 1, vlwin := 0x40 }).modCore 0 fun c =>
    { c with dataTlb := [⟨0, 2, 0, pte 1 0⟩, ⟨0, 2, 1, pte 0 1⟩], fetchTlb := [⟨0, 2, 0, pte 1 0⟩] }).modCol 0 fun c =>
    { c with ways := 12, grant := some 0, stlb := [⟨0, 2, 0, pte 1 0⟩, ⟨0, 2, 2, 0x20013⟩] }

/-- The same with a group of one's own. -/
def withG (f : Group → Group) : State := { base with g := f base.g }

/-! ### Witnesses: encoding, scalar instructions -/

theorem test_DecodeEncode_witness : (Instr.add 1 2 3).wf = true ∧ encode (.add 1 2 3) = some 0x280420C0 ∧
    decodeWord 0x280420C0 = .ok (.add 1 2 3) := by decide +kernel

theorem test_ScalarResults_witness : base.sound [] [2, 3] [] = .ok () ∧ base.sound [] [2] [] = .ok () := by decide +kernel

/-- Division by 0, the overflow of −2^63 by −1, and an ordinary one: s0, s4 and s3, s2 and s3. -/
theorem test_ScalarDivision_witness : base.sound [] [2, 0] [] = .ok () ∧ base.g.sReg 0 = 0 ∧
    base.sound [] [4, 3] [] = .ok () ∧ (base.g.sReg 4).toInt = -2 ^ 63 ∧ (base.g.sReg 3).toInt = -1 ∧
    base.sound [] [2, 3] [] = .ok () ∧ base.g.sReg 3 ≠ 0 ∧ ¬((base.g.sReg 2).toInt = -2 ^ 63 ∧ (base.g.sReg 3).toInt = -1) := by
  decide +kernel

theorem test_LoadImmediates_witness : base.sound [] [2] [] = .ok () := by decide +kernel

theorem test_HardwiredRegisters_witness : (1 : SReg) ≠ 0 ∧ (2 : SReg) ≠ 1 ∧ (1 : PReg) ≠ 0 ∧ (2 : PReg) ≠ 1 := by decide

theorem test_RegisterOnlyFrame_witness : registerOnly (.add 1 2 3) = some (some 1, none) ∧
    registerOnly (.pand 1 2 3 4) = some (none, some (1, 2)) ∧ base.g.bad = [] ∧ base.g.glyph = none := by decide +kernel

/-! ### Witnesses: predicates, mode, special registers -/

theorem test_PredicateResults_witness : base.sound [] [] [base.g.guardIdx 0, 1, 2] = .ok () ∧
    base.sound [] [2] [base.g.guardIdx 0] = .ok () ∧ base.sound [] [] [1] = .ok () ∧ base.g.pReg 1 &&& base.g.live = 0 ∧
    (base.g.pReg 0 &&& base.g.live).getLsbD 0 = true := by decide +kernel

/-- MODE with s6 = 1 keeps a legal mode; with s3 it sets bits above 22. FLCLR with s6 is legal, with s3 it is not. -/
theorem test_ModeResults_witness : base.sound [] [6] [] = .ok () ∧ base.g.mmas = [] ∧
    (let new := (base.g.md &&& ~~~(modeBits 63)) ||| ((base.g.sReg 6).extractLsb' 0 32 &&& modeBits 63)
     (base.g.sReg 6).toNat < 2 ^ 23 ∧ new.toNat < 2 ^ 23 ∧ new.toNat % 16 < 10 ∧ new.toNat / 16 % 8 < 5) ∧
    ¬(base.g.sReg 3).toNat < 2 ^ 23 ∧ (base.g.sReg 3).toNat / 2 ^ 23 ≠ 0 ∧
    (base.g.sReg 6).toNat / 2 ^ 23 = 0 ∧ (base.g.sReg 6).toNat / 2 ^ 7 % 2 ^ 9 = 0 := by decide +kernel

theorem test_SpecialRegisters_witness : base.sound [] [5] [] = .ok () ∧ (base.g.sReg 5).toNat % 64 = 0 ∧
    (base.g.sReg 2).toNat % 64 ≠ 0 ∧ base.g.hnd = false ∧ (withG fun g => { g with hnd := true }).g.hnd = true ∧
    ((base.g.sReg 6).toNat < 2 ^ 23 ∧ (base.g.sReg 6).toNat % 16 < 10 ∧ (base.g.sReg 6).toNat / 16 % 8 < 5) ∧
    ¬(base.g.sReg 3).toNat < 2 ^ 23 := by decide +kernel

theorem test_SpecialRegisters_vector_witness :
    OperandsReady base [vSpan 127 1 false 0] [vSpan 127 1 false 0] anyType [] [base.g.guardIdx 0] := by
  simp only [OperandsReady, OperandFits]; decide +kernel

/-! ### Witnesses: control -/

/-- Branch targets on both sides of 2^55, conditions that hold and do not. -/
theorem test_ControlTransfers_branch_witness : (base.g.pc + 4 * (8 : BitVec 24).signExtend 64).toNat < 2 ^ 55 ∧
    2 ^ 55 ≤ (base.g.pc + 4 * (0x800000 : BitVec 24).signExtend 64).toNat ∧
    (base.g.pc + 4 * (8 : BitVec 18).signExtend 64).toNat < 2 ^ 55 ∧
    2 ^ 55 ≤ (base.g.pc + 4 * (0x20000 : BitVec 18).signExtend 64).toNat ∧
    base.sound [] [0] [] = .ok () ∧ base.g.sReg 0 = 0 ∧ base.g.sReg 2 ≠ 0 ∧ base.sound [] [] [1] = .ok () ∧
    base.g.pReg 0 &&& base.g.live = base.g.live ∧ base.g.pReg 1 &&& base.g.live = 0 := by decide +kernel

theorem test_ControlTransfers_call_witness : base.g.rs.length < 16 ∧ base.sound [] [0] [] = .ok () ∧
    base.indirect (base.g.sReg 0) = .ok () ∧ (base.g.sReg 2).toNat % 4 ≠ 0 ∧ base.g.rs = [] ∧ base.g.spilled = 0 ∧
    (withG fun g => { g with rs := [0x40] }).g.rs = [] ++ [0x40] := by decide +kernel

/-- JMPV: every lane of v0 and v1 holds 0, which is a multiple of 4. -/
theorem test_ControlTransfers_jmpv_witness :
    OperandsReady base [vSpan 0 2 true base.g.live] [vSpan 0 2 true base.g.live] anyType [] [] ∧ base.g.live ≠ 0 ∧
    (∀ L < 64, base.g.live.getLsbD L = true → base.g.lane64 (0 : VReg).toNat L = 0) ∧ base.indirect 0 = .ok () := by
  simp only [OperandsReady, OperandFits]; decide +kernel

/-- A group that has an INK in flight, one of a team with another group, and the last one of its team. -/
theorem test_GroupLife_witness : base.ctx.phase ≠ .saving ∧ base.ctx.phase ≠ .free ∧ base.team.version = none ∧ base.g.mmas = [] ∧
    (base.modCtx 0 fun c => { c with phase := .saving }).ctx.phase = .saving ∧
    ({ base with ops := [⟨9, 0, 0, 1, 0, 0, 0, 0, 1, 64, 0, .copy (.run 0 0 0 0), none, [], none, []⟩] } : State).asyncOf base.g = true ∧
    base.asyncOf base.g = false ∧
    (let e : State := { base with g := { base.g.settled with status := .ended }, others := [{ base.g with slot := 1 }] }
     e.teamDone e.team.id = false) ∧
    (let e : State := { base with g := { base.g.settled with status := .ended } }
     e.teamDone e.team.id = true ∧ e.team.children = 0) := by decide +kernel

/-- A full return stack without and with a place to spill to, an empty one with a spilled block, a far indirect target. -/
theorem test_ControlTransfers_stack_witness :
    (let s := withG fun g => { g with rs := List.replicate 16 0x40 }
     16 ≤ s.g.rs.length ∧ s.g.spillBase = 0) ∧
    (let s := withG fun g => { g with rs := List.replicate 16 0x40, spillBase := 0x1000 }
     16 ≤ s.g.rs.length ∧ isOk s.spill = true) ∧
    (let s := withG fun g => { g with rs := [], spilled := 1, spillBase := 0x1040 }
     s.g.rs = [] ∧ s.g.spilled ≠ 0 ∧ (match s.refill with
       | .ok u => u.g.rs == List.replicate 8 0
       | _ => false) = true) ∧
    (base.g.sReg 4).toNat % 4 = 0 ∧ 2 ^ 55 ≤ (base.g.sReg 4).toNat ∧ base.sound [] [4] [] = .ok () := by decide +kernel

/-- JMPV: every lane holds 7; lane 1 holds 4 where the others hold 0. -/
theorem test_ControlTransfers_divergent_witness :
    (let s := withG fun g => { g with v := put g.v 0 (Vector.replicate 64 7) }
     (∀ L < 64, s.g.live.getLsbD L = true → s.g.lane64 (0 : VReg).toNat L = 7) ∧ (7 : Word).toNat % 4 ≠ 0) ∧
    (let s := withG fun g => { g with v := put g.v 0 ((Vector.replicate 64 0).set 1 4) }
     s.g.live.getLsbD 0 = true ∧ s.g.lane64 (0 : VReg).toNat 0 = 0 ∧
     (∀ L < 64, (2 : Word).getLsbD L = (s.g.live.getLsbD L && s.g.lane64 (0 : VReg).toNat L != 0)) ∧ (2 : Word) ≠ 0) := by decide +kernel

/-- The last group of a team with a child, where the pending-retire records of the column are full, and one whose context is not saved. -/
theorem test_GroupLife_end_witness :
    (let e : State := { base with g := { base.g.settled with status := .ended } }
     (e.releaseTeam e.team.id).ctxs.get e.team.ctx = base.ctx ∧ base.ctx.phase ≠ .saving) ∧
    (let s := (base.modTeam 1 fun t => { t with children := 1 }).modCol 0 fun c => { c with retiring := List.replicate 1024 9 }
     let e : State := { s with g := { s.g.settled with status := .ended } }
     s.asyncOf s.g = false ∧ e.teamDone e.team.id = true ∧ e.team.children ≠ 0 ∧
     1024 ≤ (e.cols.get e.team.col).retiring.length) := by decide +kernel

/-! ### Witnesses: traps -/

theorem test_TrapEntry_witness : base.g.hnd = false ∧ base.entry.handler ≠ 0 ∧
    (base.takeTrap ⟨.softwareTrap, 5, 0, [], none⟩).g.pc = 0x1000 := by decide +kernel

theorem test_TrapHalts_witness : base.team.version = none ∧ base.ctx.phase ≠ .free ∧
    (base.modCtx 0 fun c => { c with handler := 0 }).entry.handler = 0 ∧
    (withG fun g => { g with hnd := true }).g.hnd = true := by decide +kernel

theorem test_TrapReturn_witness : base.g.hnd = false ∧ (withG fun g => { g with hnd := true }).g.hnd = true := by decide +kernel

theorem test_RaisedTraps_witness : base.g.firstFetch = false ∧ (withG fun g => { g with firstFetch := true }).g.firstFetch = true := by
  decide +kernel

/-! ### Witnesses: steps -/

/-- The group at `pc` 0, whose turn it is; memory holds four bytes there. -/
def stepping (bytes : List Byte) : State := { withG fun g => { g with pc := 0 } with
  mem := { Memory.reset with cells := bytes.zipIdx.filterMap fun b => if b.1 = 0 then none else some (b.2, b.1) }
  turns := [.issue 0 0] }

/-- The state in which that group is about to issue. -/
def stepped (s : State) : State := (({ s with turns := [] } : State).focus 0 0).getD s

/-- The turn brings its group on, whatever state that gives. -/
theorem stepped_focus {s : State} (h : (({ s with turns := [] } : State).focus 0 0).isSome = true) :
    ({ s with turns := [] } : State).focus 0 0 = some (stepped s) := by
  obtain ⟨u, hu⟩ := Option.isSome_iff_exists.mp h
  simp only [stepped, hu, Option.getD_some]

/-- LAND stands at 0, then a word of no instruction. -/
theorem test_StepRunsDecoded_witness : (stepping [4, 0, 0, 12]).turns = [.issue 0 0] ∧
    ({ stepping [4, 0, 0, 12] with turns := [] } : State).focus 0 0 = some (stepped (stepping [4, 0, 0, 12])) ∧
    (let u := stepped (stepping [4, 0, 0, 12])
     u.runnable u.g = true ∧ u.takesPort u.g = true ∧ u.g.glyph = none ∧ u.fetchBytes u.g.fetched u.g.pc.toNat = .ok (bytesOfWord 0x0C000004)) ∧
    decodeWord 0x0C000004 = .ok .land ∧
    (let u := stepped (stepping [])
     u.runnable u.g = true ∧ u.takesPort u.g = true ∧ u.fetchBytes u.g.fetched u.g.pc.toNat = .ok (bytesOfWord 0)) ∧
    (match decodeWord 0 with
     | .error e => e.step
     | .ok _ => 0) = 1 :=
  ⟨rfl, stepped_focus (by decide +kernel), by decide +kernel⟩

/-- A glyph in progress whose next word is LAND; the other turns. -/
theorem test_StepRunsDecoded_turns_witness :
    (let s : State := { withG fun g => { g with glyph := some ⟨[0x0C000004], 0, 0, 0, 0⟩ } with turns := [.issue 0 0] }
     (stepped s).runnable (stepped s).g = true ∧ (stepped s).takesPort (stepped s).g = true ∧ (stepped s).g.glyph = some ⟨[0x0C000004], 0, 0, 0, 0⟩) ∧
    chosenEvent (.levelRise 0) = true ∧ base.focus 0 1 = none ∧ base.turns = [] ∧
    (let s := withG fun g => { g with status := .halted }
     (stepped s).runnable (stepped s).g = false) ∧
    (let s : State := { base with others := [{ base.g with slot := 4, aged := true, index := 4 }] }
     s.takesPort s.g = false) := by decide +kernel

/-- No record of a trap waits; an event that may happen. -/
theorem test_StepRunsDecoded_event_witness : (stepped (stepping [4, 0, 0, 12])).recordWaits = false ∧ base.mayHappen (.levelRise 0) = true ∧
    base.mayHappen .nop = false := by decide +kernel

/-- A spawned team of one record, with budgets of eight registers. -/
theorem test_ResetAndCreation_witness : (let l : Launch := { Launch.none with vBud := [8, 8, 8, 8] }
    let g := newGroup { team1 with spawned := true, payloads := [[1, 2, 3, 4]] } l 0 0 0 Role.copy
    g.lane 3 0 = 4 ∧ g.live = 1 ∧ 8 ≤ l.vBud.getD Role.copy.code 0) ∧ team1.spawned = false := by
  decide +kernel

/-- The step of the smallest program, LAND, goes on, and memory has its form before it. -/
theorem test_StepKeepsMemoryForm_witness : (stepping [4, 0, 0, 12]).mem.wf = true ∧
    (match step (stepping [4, 0, 0, 12]) with
     | .next t => t.g.pc == 4
     | _ => false) = true := by decide +kernel

/-! ### Witnesses: vector computation -/

/-- The group under another MD.TYPE. -/
def typed (n : Nat) : State := withG fun g => { g with md := g.md &&& 0xFFFFFFF0 ||| BitVec.ofNat 32 n }

theorem test_VectorIntegerResults_witness : LaneReady (typed 4) 0 127 false [0, 1] intType ∧ LaneReady (typed 9) 0 126 false [0, 2] anyType ∧
    LaneReady (typed 3) 1 127 false [0] intType ∧ LaneReady (typed 0) 0 127 true [0, 1] intType ∧
    LaneReady (typed 5) 0 127 true [0, 1] (fun t => t == 4 || t == 5) ∧ LaneReady (typed 9) 0 126 false [] anyType := by
  simp only [LaneReady, laneOps, OperandsReady, OperandFits]; decide +kernel

theorem test_VectorFloatResults_witness : LaneReady (typed 9) 0 126 false [0, 2] floatType ∧ LaneReady (typed 7) 0 127 true [0, 1] floatType ∧
    LaneReady (typed 6) 0 127 false [0] floatType := by
  simp only [LaneReady, laneOps, OperandsReady, OperandFits]; decide +kernel

theorem test_CompareSelectMove_witness :
    (let s := typed 1; let m := s.g.active 0
     OperandsReady s [s.g.vOp 0 m, s.g.vOp 127 m] [s.g.vOp 0 m, s.g.vOp 127 m] intType [] [s.g.guardIdx 0]) ∧
    (let s := typed 9; let m := s.g.active 0
     OperandsReady s [s.g.vOp 0 m, s.g.vOp 126 m] [s.g.vOp 0 m, s.g.vOp 126 m] floatType [] [s.g.guardIdx 0]) ∧
    (let s := typed 0
     OperandsReady s (laneOps s 0 127 false [0, 1]) (laneOps s 0 127 false [0, 1]) anyType [] [s.g.guardIdx 0, 15] ∧
     LaneReady s 0 127 false [0] anyType ∧
     OperandsReady s (laneOps s 0 127 false []) (laneOps s 0 127 false []) anyType [63] [s.g.guardIdx 0]) := by
  simp only [LaneReady, laneOps, OperandsReady, OperandFits]; decide +kernel

theorem test_LaneMoves_witness :
    (let s := base; let m := s.g.active 0
     let ready := fun (named : List Opnd) (ss : List SReg) => OperandsReady s named named anyType ss [s.g.guardIdx 0]
     ready [s.g.vOp 127 0, s.g.vOp 0 m, s.g.vOp 1 m] [] ∧ ready [s.g.vOp 127 0, s.g.vOp 0 m] [63] ∧
     ready [s.g.vOp 0 (m &&& maskOf (· == 63))] [2] ∧ ready [s.g.vOp 127 0] [3, 2] ∧ ready [s.g.vOp 127 0, s.g.vOp 0 m] [] ∧
     s.g.active 0 ≠ 0 ∧ s.g.active 1 = 0) := by
  simp only [OperandsReady, OperandFits]; decide +kernel

/-- f32 to the slot of a format and back, and an empty slot. -/
def slotted (w : Word32) : State := { typed 6 with
  grids := [{ grid2 with launch := { grid2.launch with slots := List.replicate 8 w } }] }

theorem test_Conversions_witness : (typed 6).convElem (.type .f64) = some (elemOf .f64) ∧
    (typed 6).convElem (.slot 0) = none ∧
    (let s := typed 6; let n := convRegs (elemOf .f32) (elemOf .f64)
     let ops := [s.g.vSpanE 126 n false 0, s.g.vSpanE 0 1 false (s.g.active 0)]
     OperandsReady s ops ops anyType [] [s.g.guardIdx 0] ∧ (126 : VReg).toNat % n = 0 ∧
     ∀ o ∈ [s.g.vSpanE 126 1 false 0, s.g.vSpanE 0 1 false 0], OperandFits s.g o) := by
  simp only [OperandsReady, OperandFits]; decide +kernel

/-- A block of f32 values to e2m1 and back, at the top of the file; a slot of no format. -/
theorem test_Conversions_block_witness : blockElem false ((slotted 0x00200020).slotWord 7) = some .e2m1 ∧
    blockElem true ((slotted 0x00200020).slotWord 7) = some .e2m1 ∧ blockElem false (base.slotWord 0) = none ∧
    blockElem true (base.slotWord 0) = none ∧ (slotted 0x00200020).g.valueSpan = 32 ∧ codeSpan (some .e2m1) = 5 ∧
    (let s := slotted 0x00200020; let m := s.g.active 0
     let ready := fun (d nd a na : Nat) => OperandsReady s [⟨false, d, nd, false, 0⟩, ⟨false, a, na, false, m⟩]
       [⟨false, d, nd, false, 0⟩, ⟨false, a, na, false, m⟩] blockType [] [s.g.guardIdx 0]
     ready 123 5 0 32 ∧ ready 96 32 0 5 ∧ ready 127 1 0 32 ∧ ready 96 32 0 1) := by
  simp only [OperandsReady, OperandFits]; decide +kernel

theorem test_LaneFrame_witness : laneForm (.vadd 0 127 0 1) = some ⟨0, 127, false, [0, 1], [], [], intType⟩ ∧
    OperandsReady base (laneOps base 0 127 false [0, 1]) (laneOps base 0 127 false [0, 1]) intType [] (base.g.guardIdx 0 :: []) ∧
    base.g.glyph = none := by
  refine ⟨rfl, ?_, rfl⟩
  simp only [OperandsReady, laneOps, OperandFits]; decide +kernel

/-- Division of −128 by 0, by −1 and by 3 in eight bits. -/
theorem test_VectorIntegerResults_division_witness : 0x80 < 2 ^ elemWidth .i8x4 ∧ 0xFF < 2 ^ elemWidth .i8x4 ∧ elemInt .i8x4 0 = 0 ∧
    signedType .i8x4 = true ∧ elemInt .i8x4 0x80 = -2 ^ (elemWidth .i8x4 - 1) ∧ elemInt .i8x4 0xFF = -1 ∧ elemInt .i8x4 3 ≠ 0 ∧
    elemInt .i8x4 3 ≠ -1 := by decide +kernel

/-- A value within the format, one beyond every value of it, operands that are NaN and a magnitude other than zero. -/
theorem test_VectorFloatResults_rounding_witness :
    |numVal (.fin false 3 (-1))| ≤ numVal ((fmtOf .f16x2).decode false ((fmtOf .f16x2).maxBits false)) ∧
    (2 : Rat) ^ ((fmtOf .f16x2).emax + 1) ≤ |numVal (.fin true 1 16)| ∧ (Num.nan true false).isNan = true ∧ (3 : Nat) ≠ 0 := by
  refine ⟨?_, ?_, rfl, by decide⟩ <;> (norm_num [numVal, fmtOf, Fmt.decode, Fmt.maxBits]; try decide +kernel)

/-! ### Witnesses: memory -/

/-- LD and ST at s5 = 0x100: translated, loaded, stored; a misaligned address (s2 = 7) and one beyond 2^55 (s3). -/
theorem test_ScalarAccesses_witness : base.sound [] [5] [] = .ok () ∧ base.sound [] [2, 5] [] = .ok () ∧
    (base.g.sReg 5).toNat = 0x100 ∧ 2 ^ 55 ≤ (base.g.sReg 3).toNat ∧ (base.g.sReg 2).toNat < 2 ^ 55 ∧ (base.g.sReg 2).toNat % 8 ≠ 0 ∧
    base.xlatParts .read true [(0, 0x100, 8, 0)] = .ok [⟨0, 0x100, 8, 0, ⟨.mem 0x100, 1, 0, 0, false⟩⟩] ∧
    base.xlatParts .write true [(0, 0x100, 8, 0)] = .ok [⟨0, 0x100, 8, 0, ⟨.mem 0x100, 1, 0, 0, false⟩⟩] ∧
    (let ps : List Part := [⟨0, 0x100, 8, 0, ⟨.mem 0x100, 1, 0, 0, false⟩⟩]
     isOk (base.loadParts true ps) = true ∧ ps.filterMap base.partObj = [] ∧ base.core.constWord ps = none ∧
     base.objStores true ps = .ok () ∧ base.versionWrites ps = .ok () ∧
     (base.modCore 0 fun c => { c with consts := [(0x100, 0, 5)] }).core.constWord ps = some 5) ∧
    (base.keySlot 0).xts = false := by decide +kernel

/-- No bank of a vault is in its refresh. -/
theorem base_banks (c : ColId) : (base.cols.get c).vault.busy = [] := by
  simp only [base, State.modCol, State.modCore, State.modCtx, State.reset, Vector.get_eq_getElem, Vector.getElem_set,
    Vector.getElem_replicate]
  split <;> rfl

theorem test_Calm_witness : Calm base ∧ base.g.bad = [] ∧ base.mem.writes = [] := by
  refine ⟨⟨?_, ?_, ?_, ?_, ?_, ?_, ?_, ?_, ?_, ?_, ?_, ?_, ?_, ?_, ?_, ?_, ?_, base_banks⟩, ?_, ?_⟩ <;> decide +kernel

/-- Where no core buffers or caches anything, there is nothing to clean. -/
theorem cleanCores_of_clean {s : State} (h : ∀ c, (s.cores.get c).comb = [] ∧ (s.cores.get c).l1 = []) (hm : s.mem.copies = [])
    (ctx : CtxId) :
    s.cleanCores ctx = s := by
  unfold State.cleanCores
  induction List.finRange 256 with
  | nil => simp [hm]
  | cons c r ih =>
    have hd : s.drainComb c (fun e => e.who.ctx == ctx) = s := by simp [State.drainComb, (h c).1]
    simp only [List.foldl_cons, hd, (h c).2, List.any_nil, Bool.false_eq_true, if_false, ih]

theorem base_cores_clean (c : CoreId) : (base.cores.get c).comb = [] ∧ (base.cores.get c).l1 = [] := by
  simp only [base, State.modCol, State.modCore, State.modCtx, State.reset, Vector.get_eq_getElem, Vector.getElem_set,
    Vector.getElem_replicate]
  split <;> exact ⟨rfl, rfl⟩

/-- Where no core buffers or caches anything, removed translations leave nothing to perform. -/
theorem performAll_of_clean {s : State} (h : ∀ c, (s.cores.get c).comb = [] ∧ (s.cores.get c).l1 = []) (hit : CtxId → Nat → Bool) :
    s.performAll hit = s := by
  unfold State.performAll
  induction List.finRange 256 with
  | nil => rfl
  | cons c r ih =>
    have hd : s.drainComb c (fun e => hit e.who.ctx e.va.toNat) = s := by simp [State.drainComb, (h c).1]
    simp only [List.foldl_cons, hd, (h c).2, List.filter_nil, List.map_nil, List.foldl_nil, ih]

theorem dropTlb_clean {s : State} (h : s.cores = base.cores) (p : TlbEntry → Bool) (c : CoreId) :
    ((s.dropTlb p).cores.get c).comb = [] ∧ ((s.dropTlb p).cores.get c).l1 = [] := by
  have hb := base_cores_clean c
  simp only [Vector.get_eq_getElem] at hb
  simpa [State.dropTlb, h, Vector.get_eq_getElem] using hb

theorem dropCtxTlb_held {s : State} (h : s.cores = base.cores) (c : CtxId) : (s.dropCtxTlb c).ctxHeld c = s.ctxHeld c := by
  unfold State.dropCtxTlb
  rw [performAll_of_clean (dropTlb_clean h _)]; rfl

theorem shootdown_waits {s : State} (h : s.cores = base.cores) (vpn : Nat) (c : CtxId) :
    (s.shootdownDone (.page vpn c)).shootdownWaits (.page vpn c) = s.shootdownWaits (.page vpn c) := by
  unfold State.shootdownDone
  simp only
  rw [performAll_of_clean (dropTlb_clean h _)]; rfl

/-- The key slot of vault-local accesses is the model's free choice; after reset no slot encrypts. -/
theorem test_keySlot_plain (k : Nat) : (base.keySlot k).xts = false := by
  simp only [State.keySlot, base, State.modCol, State.modCore, State.modCtx, State.reset, atD]
  split <;> simp [KeySlot.plaintext]

/-- Loads and stores of the team's scratchpad, its vault window and its slice scratch. -/
theorem test_LocalAccesses_witness : base.g.active 0 ≠ 0 ∧ base.g.active 1 = 0 ∧ base.col.fenced = false ∧ (base.keySlot (Config.vaultKey base.ctxId.val)).xts = false ∧
    MemOperandsReady base (base.g.active 0) (base.g.memNamed 126 0 8) [vSpan 0 1 false (base.g.active 0)] anyType [0] [base.g.guardIdx 0] ∧
    MemOperandsReady base (base.g.active 0) (base.g.memNamed 126 0 8) [vSpan 126 (sizeRegs 8) false (base.g.active 0), vSpan 0 1 false (base.g.active 0)]
      anyType [0] [base.g.guardIdx 0] := by
  have hk := test_keySlot_plain (Config.vaultKey base.ctxId.val)
  simp only [MemOperandsReady, OperandFits, hk]; decide +kernel

/-- Every lane at offset 0 (v0 = 0), and at the last place of each space. -/
theorem test_LocalAccesses_space_witness : InSpace base .scratch (base.g.active 0) (laneEa base 0 0) 8 ∧
    InSpace base .scratch (base.g.active 0) (fun _ => 65528) 8 ∧ InSpace base .vault (base.g.active 0) (fun _ => 65528) 8 ∧
    InSpace base .slice (base.g.active 0) (fun _ => 2 ^ 22 - 8) 8 := by
  unfold InSpace; exact ⟨by decide +kernel, by decide +kernel, by decide +kernel, by decide +kernel⟩

theorem test_GlobalVectorAccesses_witness : (let s := base; let m := s.g.active 0
    m ≠ 0 ∧ MemOperandsReady s m (s.g.memNamed 127 0 4) [vSpan 0 1 false m] anyType [5] [s.g.guardIdx 0] ∧
    MemOperandsReady s m (s.g.memNamed 127 0 4) [vSpan 127 (sizeRegs 4) false m, vSpan 0 1 false m] anyType [5] [s.g.guardIdx 0] ∧
    MemOperandsReady s m [s.g.vOp 127 0] [s.g.vOp 127 0] anyType [5] [s.g.guardIdx 0] ∧
    MemOperandsReady s m [s.g.vOp 127 m] [s.g.vOp 127 m] anyType [5] [s.g.guardIdx 0] ∧
    MemOperandsReady s m [s.g.vOp 0 0] [vSpan 0 1 false m] anyType [5] [s.g.guardIdx 0] ∧
    (base.g.sReg 2).toNat % 4 ≠ 0 ∧ (base.g.sReg 5).toNat % 4 = 0) := by
  simp only [MemOperandsReady, OperandFits]; decide +kernel

/-- Translation and settlement of the lanes at s5 + v0, all at 0x100, and of a row from 0x100. -/
theorem test_GlobalVectorAccesses_parts_witness :
    (let lanes := (lanesOf (base.g.active 0)).map fun L => (L, (laneEa base 5 0 L) % 2 ^ 64)
     let row := (lanesOf (base.g.active 0)).map fun L => (L, (0x100 + 4 * L) % 2 ^ 64)
     [lanes, row].all fun l =>
      match base.spaceParts .global .read 4 l, base.spaceParts .global .write 4 l with
      | .ok ps, .ok qs => isOk (base.loadParts false ps) && isOk (base.objStores false qs) && isOk (base.versionWrites qs)
      | _, _ => false) = true := by decide +kernel

theorem test_ReadAfterWrite_witness : (base.keySlot 0).xts = false ∧ base.mem.poison = [] ∧ base.mem.dead = none := by
  decide +kernel

/-- AMOV, CASV and REDV on 64 lanes whose addresses are all 0 (v0 and v1). -/
theorem test_Atomics_vector_witness : (let s := base; let m := s.g.active 0
    let ready := fun (o : Opnd) (f : Nat → Bool) => MemOperandsReady s m [o, vSpan 0 2 true m] [o, vSpan 0 2 true m] f [] [s.g.guardIdx 0]
    ready (s.g.vOp 127 m) amovType ∧ ready (vSpan 126 2 true m) casvType ∧ ready (s.g.vOp 127 m) redvType ∧ m ≠ 0 ∧
    s.g.active 1 = 0 ∧
    MemOperandsReady s (s.g.active 1) [vSpan 125 2 true 0, vSpan 3 2 true 0] [] casvType [] [s.g.guardIdx 1]) := by
  simp only [MemOperandsReady, OperandFits]; decide +kernel

theorem test_Atomics_settled_witness : (match base.atomParts 4 (base.g.pairAddrs 3 0) with
    | .ok ps => isOk (base.returning false 4 ps .dev .relaxed fun _ old => some (old + 1)) &&
      isOk (base.reducing false 4 ps .dev .relaxed .i32 .add fun _ => 1)
    | .error _ => false) = true ∧ (3 : SReg).toNat % 2 = 1 ∧ (2 : SReg).toNat % 2 = 0 := by decide +kernel

theorem test_OrderedAccesses_witness : base.g.bad = [] ∧ (base.g.sReg 5).toNat < 2 ^ 55 ∧ (base.g.sReg 5).toNat % 8 = 0 ∧
    (let ps : List Part := [⟨0, 0x100, 8, 0, ⟨.mem 0x100, 1, 0, 0, false⟩⟩]
     isOk (base.reducing true 8 ps .dev .rel .i32 .add fun _ => 1) = true ∧ base.objStores true ps = .ok () ∧
     base.versionWrites ps = .ok () ∧ isOk (base.releasePart .dev .rel) = true ∧ base.markCheck base.me (partLines ps) = .ok () ∧
     base.scWaits .sc = .ok () ∧ isOk ((base.acquireRead .dev ps).loadParts true ps) = true) ∧
    base.g.imprecise = none ∧ isOk (base.releasePart .dev .ar) = true ∧ orderReleases .ar = true ∧ base.team.version = none ∧
    (withG fun g => { g with imprecise := some 8 }).g.imprecise = some 8 := by decide +kernel

/-- A write of the group that is held behind the host's answer. -/
def holding : State := { base with links := { base.links with
  held := [⟨0x500, 128, 1, [1], none, none, true, some ⟨0, 1, 0, 0⟩, false, 0, false, none, none⟩] } }

/-- A release that nothing waits for, and one that must wait. -/
theorem test_OrderedAccesses_release_witness : ReleaseReady base .dev ∧ (holding.sendOn holding.g.core .dev).performedBy holding.g.core .dev = false ∧
    holding.team.version = none ∧ holding.g.imprecise = none := by
  unfold ReleaseReady; decide +kernel

/-- A byte of the scratchpad that another group has written and released, which FENCEO marks as fenced. -/
theorem test_OrderedAccesses_scratch_witness :
    (let s : State := { base with mem := { base.mem with olds := [⟨64, 7, 1, some 1, none, false, false, true, [0], []⟩] } }
     s.fenceScratch.mem.olds = [⟨64, 7, 1, some 1, none, false, false, true, [0], [0]⟩] ∧ s.g.team = 1 ∧ s.g.index = 0) := by decide +kernel

/-! ### Witnesses: allowances, points, engines -/

/-- The group with scalar registers of one's own. -/
def withS (l : List (Nat × Word)) : State := withG fun g => { g with s := l.foldl (fun v x => put v x.1 x.2) g.s }

/-- An object with 10 units at home at address 0x400, location 8 · 128, of which column 0 holds 5. -/
def withObj (s : State) : State := { s with objs := [⟨8, 0, 10, 2, 6, .normal, []⟩] }.modCol 0 fun c => { c with alTable := [⟨8, 5, false⟩] }

/-- ALINIT of a new object with s10 = n, s11 = batch, s12 = cap, registered or with the table full. -/
theorem test_AllowanceInstructions_init_witness : (let s := withS [(9, 0x400), (10, 10), (11, 2), (12, 6)]
    s.g.bad = [] ∧ s.alAddress (s.g.sReg 9) = .ok (8, 0) ∧ (10 : SReg).toNat ≤ 61 ∧ (s.g.sReg 10).toNat < 2 ^ 63 ∧
    1 ≤ (s.g.sReg 11).toNat ∧ (s.g.sReg 11).toNat ≤ (s.g.sReg 12).toNat ∧ (s.g.sReg 12).toNat < 2 ^ 32 ∧ s.objOf 8 = none ∧
    s.objs.length < 8192 ∧ s.holdOf 8 = none) := by decide +kernel

/-- A device with n objects. -/
def objects (n : Nat) : State := { withS [(9, 0x400)] with objs := List.replicate n ⟨9, 1, 0, 1, 1, .normal, []⟩ }

theorem objects_full (n : Nat) : (objects n).objs.length = n ∧ (objects n).objOf 8 = none := by
  simp [objects, State.objOf]

theorem test_AllowanceInstructions_full_witness : 8192 ≤ (objects 8192).objs.length ∧ (objects 8192).objOf 8 = none :=
  ⟨(objects_full 8192).1.ge, (objects_full 8192).2⟩

/-- Takes of 0, 5 and 6 of the column's 5 units, and gives within the cap of 6. -/
theorem test_AllowanceInstructions_take_witness : (let s := withObj (withS [(9, 0x400), (10, 5), (11, 6)])
    s.g.bad = [] ∧ s.alObject (s.g.sReg 9) = .ok (⟨8, 0, 10, 2, 6, .normal, []⟩, 0) ∧ (s.g.sReg 0).toNat = 0 ∧
    s.col.localUnits 8 = some 5 ∧ (s.g.sReg 10).toNat ≤ 5 ∧ 5 < (s.g.sReg 11).toNat ∧ base.col.localUnits 8 = some 0 ∧
    (s.needEntry s.colId 8).1 = some ⟨8, 5, false⟩ ∧ 5 + 1 ≤ 6) ∧
    (base.modCol 0 fun c => { c with alTable := [⟨8, 5, true⟩] }).col.localUnits 8 = none := by decide +kernel

/-- ALTAKEV of the amounts of v0, all 0, covered by the 5 units. -/
theorem test_AllowanceInstructions_lanes_witness : (let s := withObj (withS [(9, 0x400)])
    OperandsReady s [vSpan 0 1 false (s.g.active 0)] [vSpan 0 1 false (s.g.active 0)] anyType [9] [s.g.guardIdx 0] ∧
    s.g.active 0 ≠ 0 ∧ s.g.active 1 = 0 ∧ s.col.localUnits 8 = some 5 ∧
    (((lanesOf (s.g.active 0)).map fun L => (L, (s.g.lane (0 : VReg).toNat L).toNat)).map (·.2)).sum ≤ 5) := by
  simp only [OperandsReady, OperandFits]; decide +kernel

/-- Counts where the clauses of a point meet: beyond and at the expected arrivals, pending −1, 0 and 1. -/
theorem test_RendezvousPoints_evaluate_witness : (let p : Point := ⟨2, 0, 0, false, false, false, 0, 0⟩
    (p.evaluate 3 0).2 = some .rdvArrivalOverflow ∧ (p.evaluate 2 (-1)).2 = some .rdvPendingUnderflow ∧
    (p.evaluate 2 0).1.phase = true ∧ (p.evaluate 2 1).1.phase = false ∧ (p.evaluate 1 0).1.arrivals = 1) := by decide +kernel

/-- Point 1 expects two arrivals, point 2 is not initialised, point 3 is busy; s6 = 1 is a token of the other phase, s0 of this. -/
theorem test_RendezvousPoints_witness : base.g.bad = [] ∧ base.g.mmas = [] ∧ (23 : BitVec 5).toNat < base.grid.launch.points ∧
    1 ≤ (base.g.sReg 6).toNat ∧ (base.g.sReg 6).toNat ≤ 1024 ∧ (base.team.point 2).arrivals = 0 ∧ (base.team.point 2).pending = 0 ∧
    (base.team.point 2).expected = 0 ∧ (base.team.point 1).expected ≠ 0 ∧ (base.team.point 1).pending + 7 ≤ 2 ^ 63 - 1 ∧
    base.g.imprecise = none ∧ (base.team.point 1).phase ≠ (base.g.sReg 6).getLsbD 0 ∧
    (base.team.point 1).phase = (base.g.sReg 0).getLsbD 0 ∧ (base.g.sReg 5).toNat % 4 = 0 ∧ (base.g.sReg 5).toNat < 2 ^ 55 ∧
    base.g.fl.extractLsb' 0 7 &&& base.g.fl.extractLsb' 16 7 = 0 ∧
    (withG fun g => { g with fl := 0x00010001 }).g.fl.extractLsb' 0 7 &&& (0x00010001 : Word32).extractLsb' 16 7 ≠ 0 ∧
    ((base.updPoint base.g.team 1 1 0).team.point 1).phase = (base.team.point 1).phase ∧
    (let s := base.modTeam 1 fun t => { t with points := t.points.set 1 ⟨1, 0, 0, false, false, false, 0, 0⟩ }
     ((s.updPoint s.g.team 1 1 0).team.point 1).phase ≠ (s.team.point 1).phase) ∧
    base.performedBy base.g.core .team = true ∧ holding.performedBy holding.g.core .team = false ∧
    (let s := base.modTeam 1 fun t => { t with points := t.points.set 3 ⟨1, 0, 64, false, false, false, 0, 0⟩ }
     ¬((s.team.point 3).arrivals = 0 ∧ (s.team.point 3).pending = 0)) := by decide +kernel

/-- The COHORT grid of the team and one that is not; an arrival of the team still open; a group other than 0. -/
theorem test_GridPoints_witness : base.g.bad = [] ∧ base.g.mmas = [] ∧ base.g.imprecise = none ∧ base.hasGrid 24 = .ok () ∧
    ¬(({ base with grids := [{ grid2 with launch := { grid2.launch with flags := 0 } }] } : State).grid.launch.flags.getLsbD 0 = true) ∧
    (withG fun g => { g with index := 1 }).g.index ≠ 0 ∧ base.g.index = 0 ∧ base.gvDone (gvOf 24) = true ∧
    (base.modTeam 1 fun t => { t with gvA := [1] }).gvDone (gvOf 24) = false ∧
    ReleaseReady base .dev ∧ (base.release .dev).gvDone (gvOf 24) = true ∧
    ((base.modTeam 1 fun t => { t with gvA := [1] }).release .dev).gvDone (gvOf 24) = false ∧ (base.g.sReg 2).toNat < 2 ^ 32 := by
  unfold ReleaseReady; decide +kernel

/-- A tile count of 2^32; an arrival that completes the phase of a grid of one team, and one of a grid of two. -/
theorem test_GridPoints_arrive_witness : 2 ^ 32 ≤ (base.g.sReg 4).toNat ∧ base.g.fl.extractLsb' 0 7 &&& base.g.fl.extractLsb' 16 7 = 0 ∧
    base.teamOf base.g.team = some team1 ∧ base.gridOf team1.grid = some grid2 ∧
    (let one := { grid2 with launch := { grid2.launch with x := 1, y := 1, z := 1 } }
     let s : State := { base with grids := [one] }
     s.gridOf team1.grid = some one ∧ (one.gvs.getD 0 ⟨0, 0, []⟩).count + 1 = one.launch.teams ∧
     (s.gridArrive 0 0 true).gvDone 0 = true) ∧
    (let two := { grid2 with launch := { grid2.launch with x := 2, y := 1, z := 1 } }
     let s : State := { base with grids := [two] }
     (two.gvs.getD 0 ⟨0, 0, []⟩).count + 1 ≠ two.launch.teams ∧ (s.gridArrive 0 0 true).gvDone 0 = false) := by decide +kernel

theorem test_CopyIssue_begin_witness : base.teamOf base.g.team = some team1 ∧ 1 < team1.points.length ∧ 0 < 64 ∧
    (team1.point 1).arrivals ≤ (team1.point 1).expected := by decide +kernel

/-- COPY of 0 and of 64 bytes, from 0x100 to 0x800. -/
theorem test_CopyIssue_run_witness : (let s := withS [(9, 0x100), (10, 0x800), (11, 64), (12, 0)]
    s.g.bad = [] ∧ (9 : SReg).toNat ≤ 62 ∧ (s.g.sReg 11).toNat < 2 ^ 36 ∧ (23 : BitVec 5).toNat < s.grid.launch.points ∧
    (s.g.sReg 12).toNat % 2 ^ 32 = 0 ∧ (s.g.sReg 11).toNat % 2 ^ 32 ≠ 0 ∧
    s.rangeCheck (.ofCode ((s.g.sReg 11).toNat / 2 ^ 32 % 4)) (s.g.sReg 9).toNat ((s.g.sReg 11).toNat % 2 ^ 32 : Nat) = .ok () ∧
    s.rangeCheck (.ofCode ((s.g.sReg 11).toNat / 2 ^ 34 % 4)) (s.g.sReg 10).toNat ((s.g.sReg 11).toNat % 2 ^ 32 : Nat) = .ok ()) := by
  decide +kernel

/-- COPYT by a record at 0x200: 64 bytes of rank 1 in global memory. -/
theorem test_CopyIssue_box_witness : (let s : State := { withS [(9, 0x200)] with
      mem := { base.mem with cells := [(0x218, 64), (0x21A, 1), (0x21C, 1), (0x21E, 1)] } }
    (s.g.sReg 9).toNat % 64 = 0 ∧
    (match s.xlatParts .read true (spillCuts (s.g.sReg 9).toNat) with
     | .ok ps => match s.loadParts true ps with
       | .ok (vals, u) =>
         let t := Tensor.ofWords (laneValue vals)
         let base := t.src + s.g.sReg 0
         t.bytes == 64 && t.illegal == none && t.misaligned base == none && isOk (u.declared 0) &&
         isOk (u.rangeCheck (.ofCode (t.ctrl / 16 % 4)) (base.toNat + t.spread.1) (t.spread.2 - t.spread.1 + (2 ^ t.esz : Nat))) &&
         isOk (u.rangeCheck (.ofCode (t.ctrl / 64 % 4)) t.dst.toNat t.bytes)
       | _ => false
     | _ => false) = true) := by decide +kernel

theorem test_CopyIssue_pieces_witness : (let m := base.g.active 0
    MemOperandsReady base m [vSpan 0 2 true m, vSpan 2 1 false m] [vSpan 0 2 true m, vSpan 2 1 false m] anyType [] [base.g.guardIdx 0] ∧
    m ≠ 0 ∧ base.g.active 1 = 0 ∧ (23 : BitVec 7).toNat < base.grid.launch.points ∧
    ∀ L < 64, m.getLsbD L = true → (base.g.lane 2 L).toNat + pieceBytes .p32 ≤ base.scratchBytes ∧
      (base.g.lane64 0 L).toNat % pieceBytes .p32 = 0 ∧ (base.g.lane 2 L).toNat % pieceBytes .p32 = 0 ∧ (base.g.lane64 0 L).toNat < 2 ^ 55) := by
  simp only [MemOperandsReady, OperandFits]; decide +kernel

/-- A group of the matrix role, every slot int8 with blocks of 32. -/
def matrix : State := { withG fun g => { g with role := .matrix } with
  grids := [{ grid2 with launch := { grid2.launch with slots := List.replicate 8 0x00200011 } }] }

theorem test_EngineIssue_witness : (let s := matrix; let w := s.slotWord 7
    s.g.bad = [] ∧ s.g.mmas = [] ∧ (s.g.sReg 0).toNat % 64 < s.team.macros.length ∧ bAllowed (slotCode w) (slotWide w) = true ∧
    slotBlock w = 32 ∧ (s.g.sReg 0).toNat + inkBytes w ≤ s.scratchBytes ∧ base.g.role ≠ .matrix ∧ s.g.role = .matrix ∧
    s.macroOk 0 = .ok () ∧ s.aSlotOk 7 = .ok () ∧ s.bSlotOk 7 = .ok () ∧ s.bSlotFits 0 7 = .ok () ∧
    (s.g.sReg 0).toNat + mmasBytes w ≤ s.scratchBytes ∧ 16 * (3 : BitVec 2).toNat + 16 ≤ s.g.aBud ∧
    s.g.unseenQ 3 = false ∧ s.mmasBefore s.g.team 0 s.fresh = false ∧
    (s.drainMacro s.g.team 0).mmaBefore s.g.team 0 s.fresh = false) := by decide +kernel

theorem test_EngineIssue_ready_witness : (let s := matrix
    let ready := fun (ops : List Opnd) (f : Nat → Bool) => OperandsReady s ops ops f [] [s.g.guardIdx 0]
    ready [s.g.vSpanE 111 17 false 0, quarterOp 3] anyType ∧ ready [quarterOp 3] anyType ∧
    ready [s.g.vSpanE 112 s.g.cvtaSpan false 0, quarterOp 3] cvtaType ∧ s.g.active 0 ≠ 0 ∧ s.g.active 1 = 0) := by
  simp only [OperandsReady, OperandFits]; decide +kernel

theorem test_LaunchAndSpawn_witness : base.g.bad = [] ∧ (withG fun g => { g with index := 1 }).g.index ≠ 0 ∧ base.g.index = 0 ∧
    8 ≤ (base.g.sReg 5).toNat ∧ (base.g.sReg 2).toNat < 8 ∧ (base.g.sReg 2).toNat % 256 ≠ 0 ∧ (base.g.sReg 5).toNat % 256 = 0 ∧
    (base.g.sReg 5).toNat < 2 ^ 55 ∧ (withS [(9, 0xFFFFFFFFFFFFFF00)]).g.sReg 9 = 0xFFFFFFFFFFFFFF00 ∧
    ReleaseReady base .dev ∧ ReleaseReady base .col ∧
    (let s : State := { base with grids := [{ grid2 with depth := 10 }] }
     10 ≤ (s.release .dev).grid.depth) := by unfold ReleaseReady; decide +kernel

theorem test_LaunchAndSpawn_lanes_witness : (let m := base.g.active 0
    OperandsReady base [vSpan 124 4 false m] [vSpan 124 4 false m] anyType [5] [base.g.guardIdx 0] ∧ m ≠ 0 ∧ base.g.active 1 = 0 ∧
    (base.g.sReg 5).toNat % 4 = 0 ∧ (base.g.sReg 5).toNat < 2 ^ 55) := by
  simp only [OperandsReady, OperandFits]; decide +kernel

theorem test_HostCallsAndMaintenance_call_witness : (let m := base.g.active 0
    OperandsReady base [vSpan 127 1 false 0, vSpan 0 2 true m] [vSpan 127 1 false 0, vSpan 0 2 true m] anyType [3] [base.g.guardIdx 0] ∧
    2 ^ 32 ≤ (base.g.sReg 3).toNat ∧ (base.g.sReg 2).toNat < 2 ^ 32 ∧ m ≠ 0 ∧ base.g.active 1 = 0 ∧
    (base.release .col).col.hqRoom = false ∧
    ReleaseReady base .col ∧ ((base.modCol 0 fun c => { c with hqLog := 4 }).release .col).col.hqRoom = true) := by
  simp only [OperandsReady, OperandFits, ReleaseReady]; decide +kernel

theorem test_HostCallsAndMaintenance_witness : base.entry.capSlice = false ∧ base.entry.capTlbDev = false ∧
    (let s := (withS [(9, 16), (10, 0x10000)]).modCtx 0 fun c => { c with capSlice := true, capTlbDev := true }
     s.entry.capSlice = true ∧ s.g.sReg 9 = 16 ∧ s.col.waysPend = none ∧ s.col.grant = some s.ctxId ∧ s.sliceBusy s.colId = false ∧
     s.entry.capTlbDev = true ∧ (s.modCol 0 fun c => { c with grant := some 1 }).col.grant = some 1 ∧
     s.xlatParts .read true [(0, 0x10000, 1, 0)] = .ok [⟨0, 0x10000, 1, 0, ⟨.mem 0x10000, 0, 0, 0, false⟩⟩] ∧
     s.partObj ⟨0, 0x10000, 1, 0, ⟨.mem 0x10000, 0, 0, 0, false⟩⟩ = none ∧
     s.xlatParts .read true [(0, 0, 1, 0)] = .ok [⟨0, 0, 1, 0, ⟨.mem 0, 1, 0, 0, false⟩⟩]) := by decide +kernel

/-- TLBINV.dev of page 1 with nothing to wait for, and with a write of that page held; CACHECL of a peer's line. -/
def pageHolding : State := { base with links := { base.links with
  held := [⟨0x10000, 128, 0, [1], none, none, true, some ⟨0, 1, 0, 0⟩, false, 0x10000, false, none, none⟩] } }

theorem dropPage_held {s : State} (h : s.cores = base.cores) (p : TlbEntry → Bool) (q : CtxId → Nat → Bool) :
    ((s.dropTlb p).performAll q).pageHeld 0x10000 = s.pageHeld 0x10000 ∧ ((s.dropTlb p).performAll q).peerOut (· == 0) = s.peerOut (· == 0) ∧
      ∀ hit, ((s.dropTlb p).performAll q).alOut hit = s.alOut hit ∧ ((s.dropTlb p).performAll q).versionOut hit = s.versionOut hit := by
  rw [performAll_of_clean (dropTlb_clean h _)]; exact ⟨rfl, rfl, fun _ => ⟨rfl, rfl⟩⟩

theorem test_HostCallsAndMaintenance_page_witness :
    (let drop := fun (s : State) => (s.dropTlb fun e => e.ctx == s.ctxId && e.covers 0x10000).performAll fun c y =>
       c == s.ctxId && nearPage y 0x10000
     ((drop base).pageHeld 0x10000 = false ∧ (drop base).peerOut (· == 0) = false ∧ (drop base).alOut (fun _ _ => true) = false ∧
       (drop base).versionOut (fun _ _ => true) = false) ∧ (drop pageHolding).pageHeld 0x10000 = true) := by
  have h := dropPage_held (s := base) rfl (fun e => e.ctx == base.ctxId && e.covers 0x10000) fun c y => c == base.ctxId && nearPage y 0x10000
  simp only
  rw [h.1, h.2.1, (h.2.2 _).1, (h.2.2 _).2, (dropPage_held (s := pageHolding) rfl _ _).1]; decide +kernel

/-- GLYLD of a body of one ADD at 0x304, its header at 0x300; a body that may not stand there; GLYPH of an entry of one's own, of
another's, and of none. -/
theorem test_Glyphs_witness : (let s : State := { withS [(9, 0x300)] with
      mem := { base.mem with cells := [(0x300, 1), (0x304, 0xC0), (0x305, 0x20), (0x306, 4), (0x307, 0x28)] } }
    s.g.bad = [] ∧ (base.g.sReg 2).toNat % 4 ≠ 0 ∧ (s.g.sReg 9).toNat % 4 = 0 ∧ s.glyphRunning s.g.core = false ∧
    (match s.xlatParts .read true [(0, 0x300, 4, 0)] with
     | .ok hp => match s.loadParts true hp with
       | .ok (hv, t) => match t.xlatParts .read true (bodyCuts 0x304 (laneValue hv 0)) with
         | .ok bp => match t.loadAfter (peerAsks (s.askParts hp)) true bp with
           | .ok (bv, _) => laneValue hv 0 == 1 && wordsOf (laneValue bv 0) 1 == [0x280420C0] && badStep 0 [0x280420C0] == none
           | _ => false
         | _ => false
       | _ => false
     | _ => false) = true ∧ badStep 0 [0] = some (0, 0)) := by decide +kernel

theorem test_Glyphs_entry_witness : base.core.glyphEntry 7 = none ∧ base.g.glyphStart = 0 ∧
    (let s := base.modCore 0 fun c => { c with glyphs := [⟨7, 0, [0x280420C0]⟩, ⟨8, 1, [0x280420C0]⟩] }
     s.core.glyphEntry 7 = some ⟨7, 0, [0x280420C0]⟩ ∧ s.core.glyphEntry 8 = some ⟨8, 1, [0x280420C0]⟩ ∧ (1 : CtxId) ≠ s.ctxId ∧
     badPlace 0 0 [0x280420C0] = none ∧ s.residentOn 1 s.g.core = false) := by decide +kernel

/-- A header of no step and one of 33; an entry of another context that has a resident team on the core. -/
theorem test_Glyphs_refused_witness :
    (let head := fun (n : Byte) => ({ withS [(9, 0x300)] with mem := { base.mem with cells := (base.mem.cells ++ [(0x300, n)]) } } : State)
     let count := fun (s : State) => match s.xlatParts .read true [(0, 0x300, 4, 0)] with
       | .ok hp => (match s.loadParts true hp with
         | .ok (hv, _) => laneValue hv 0
         | _ => 1)
       | _ => 1
     (count (withS [(9, 0x300)]) = 0 ∧ 32 < count (head 33))) ∧
    (let s : State := { base.modCore 0 fun c => { c with glyphs := [⟨8, 1, [0x280420C0]⟩] } with
       teams := [team1, { team1 with id := 4, ctx := 1 }] }
     s.core.glyphEntry 8 = some ⟨8, 1, [0x280420C0]⟩ ∧ (1 : CtxId) ≠ s.ctxId ∧ s.residentOn 1 s.g.core = true) := by decide +kernel

/-- ALINIT with n, batch and cap out of their ranges, and of a line that holds an object. -/
theorem test_AllowanceInstructions_refused_witness : (let s := withObj (withS [(9, 0x400), (10, 10), (11, 2), (12, 6)])
    2 ^ 63 ≤ (base.g.sReg 4).toNat ∧ (s.g.sReg 10).toNat < 2 ^ 63 ∧ (s.g.sReg 0).toNat = 0 ∧ (s.g.sReg 12).toNat < (s.g.sReg 10).toNat ∧
    2 ^ 32 ≤ (s.g.sReg 4).toNat ∧ s.objOf 8 = some ⟨8, 0, 10, 2, 6, .normal, []⟩ ∧
    s.alAddress (s.g.sReg 9) = .ok (8, 0)) ∧ (⟨0, .group 0 0 1, .init⟩ : AlReq).kind = .init := by decide +kernel

/-! ### Witnesses: messages of allowance counters -/

/-- The home of an object with a queue of one's own, and a message in flight, from column 0 to column 1 (up) or back (down). -/
def alState (mode : AlMode) (queue : List AlReq) (down : Bool) (body : AlBody) : State :=
  ({ base with objs := [⟨8, 0, 10, 2, 6, mode, queue⟩], msgs := [if down then ⟨1, 0, 8, body⟩ else ⟨0, 1, 8, body⟩] }).modCol 0 fun c =>
    { c with alTable := [⟨8, 3, false⟩] }

/-- The message that a column, or the home, receives next. -/
def upMsg (s : State) : Option AlMsg := s.msgs.find? fun m => m.between true 0 1
def downMsg (s : State) : Option AlMsg := s.msgs.find? fun m => m.between false 1 0

/-- Takes of 10 and 11 of the 10 units at a NORMAL home, and a request while a round is under way or the object is gone. -/
theorem test_AllowanceMessages_req_witness : (let r : AlReq := ⟨0, .group 0 0 1, .take 10⟩
    let s := alState .normal [] false (.req r 0)
    upMsg s = some ⟨0, 1, 8, .req r 0⟩ ∧ s.objOf 8 = some ⟨8, 0, 10, 2, 6, .normal, []⟩ ∧
    10 ≤ Nat.min (2 ^ 63 - 1) (10 + 0) ∧ Nat.min (2 ^ 63 - 1) (10 + 0) < 11 ∧
    (alState .drain [] false (.req r 0)).objOf 8 = some ⟨8, 0, 10, 2, 6, .drain, []⟩ ∧ ({ s with objs := [] } : State).objOf 8 = none) := by
  decide +kernel

theorem test_AllowanceMessages_up_witness : upMsg (alState .normal [] false (.give (.group 0 0 1) 5)) = some ⟨0, 1, 8, .give (.group 0 0 1) 5⟩ ∧
    upMsg (alState .normal [] false (.flush 5)) = some ⟨0, 1, 8, .flush 5⟩ ∧ (base.cols.get 0).fenced = false ∧
    upMsg (alState (.recalling [0]) [] false (.ack 5)) = some ⟨0, 1, 8, .ack 5⟩ ∧
    (alState (.recalling [0]) [] false (.ack 5)).objOf 8 = some ⟨8, 0, 10, 2, 6, .recalling [0], []⟩ ∧
    (alState (.recalling [0, 1]) [] false (.ack 5)).objOf 8 = some ⟨8, 0, 10, 2, 6, .recalling [0, 1], []⟩ := by decide +kernel

/-- A grant of 3 units within the cap of 6 to the group that waits for ALTAKE; a recall; both releases; the reply of a give. -/
theorem test_AllowanceMessages_down_witness : (let s := alState .normal [] true (.grant (.group 0 0 1) .granted 3 6)
    let b := s.dropAl false 1 0
    downMsg s = some ⟨1, 0, 8, .grant (.group 0 0 1) .granted 3 6⟩ ∧ (b.cols.get 0).fenced = false ∧
    (b.needEntry 0 8).1 = some ⟨8, 3, false⟩ ∧ 3 + 3 ≤ 6) ∧
    (let s := { alState .normal [] true (.grant (.group 0 0 1) .granted 0 6) with
       g := { base.g with status := .allowance 8 0x400 (.take 7) } }
     ((((s.dropAl false 1 0).takeTopUp 0 1 8 0 6).focus 0 0).map fun u => u.g.status) = some (.allowance 8 0x400 (.take 7))) ∧
    (let s := { alState .normal [] true (.giveReply (.group 0 0 1) 2) with g := { base.g with status := .allowance 8 0x400 (.give 7 1) } }
     downMsg s = some ⟨1, 0, 8, .giveReply (.group 0 0 1) 2⟩ ∧
     (((s.dropAl false 1 0).focus 0 0).map fun u => u.g.status) = some (.allowance 8 0x400 (.give 7 1))) ∧
    downMsg (alState .normal [] true .recall) = some ⟨1, 0, 8, .recall⟩ ∧
    (((alState .normal [] true .recall).dropAl false 1 0).needEntry 0 8).1 = some ⟨8, 3, false⟩ ∧
    downMsg (alState .normal [] true (.release false)) = some ⟨1, 0, 8, .release false⟩ ∧
    downMsg (alState .normal [] true (.release true)) = some ⟨1, 0, 8, .release true⟩ := by decide +kernel

/-- A recall at a column that has acknowledged the round without an entry, and a flush of a fenced column. -/
theorem test_AllowanceMessages_full_witness :
    (let s := (alState .normal [] true .recall).modCol 0 fun c => { c with alTable := [], alRounds := [8] }
     downMsg s = some ⟨1, 0, 8, .recall⟩ ∧ ((s.dropAl false 1 0).needEntry 0 8).1 = none) ∧
    (let s := (alState .normal [] false (.flush 5)).modCol 0 fun c => { c with fenced := true }
     upMsg s = some ⟨0, 1, 8, .flush 5⟩ ∧ (s.cols.get 0).fenced = true) := by decide +kernel

/-- An acknowledgement of a column whose last FLUSH is under way, and of one that has sent none. -/
theorem test_AllowanceMessages_ack_witness :
    (alState (.recalling [0]) [] false (.ack 5)).lastFlush 0 8 = false ∧
    (let s := { alState (.recalling [0]) [] false (.ack 5) with msgs := [⟨0, 1, 8, .ack 5⟩, ⟨0, 1, 8, .flush 3⟩] }.modCol 0 fun c =>
       { c with fenced := true }
     upMsg s = some ⟨0, 1, 8, .ack 5⟩ ∧ s.lastFlush 0 8 = true) := by decide +kernel

/-- A home in DRAIN: no request, a read, a take of all 10 units. -/
theorem test_AllowanceMessages_drain_witness : (alState .drain [] true .recall).objOf 8 = some ⟨8, 0, 10, 2, 6, .drain, []⟩ ∧
    (alState .drain [⟨0, .group 0 0 1, .read⟩] true .recall).objOf 8 = some ⟨8, 0, 10, 2, 6, .drain, [⟨0, .group 0 0 1, .read⟩]⟩ ∧
    (alState .drain [⟨0, .group 0 0 1, .take 10⟩] true .recall).objOf 8 =
      some ⟨8, 0, 10, 2, 6, .drain, [⟨0, .group 0 0 1, .take 10⟩]⟩ := by decide +kernel

/-! ### Witnesses: wakes, engines -/

/-- The group blocked. -/
def blockedAt (w : Wake) : State := withG fun g => { g with status := .blocked w }

/-- What holds of the group of core 0 in slot 0. -/
def focused (s : State) (p : State → Bool) : Bool := ((s.focus 0 0).map p).getD false

theorem test_WakesAndCompletions_wake_witness :
    focused (blockedAt (.point 1 true)) (fun u => u.g.status == .blocked (.point 1 true) && (u.team.point 1).phase != true &&
      (u.ctxs.get u.ctxId).phase == .running) = true ∧
    focused (blockedAt (.point 1 false)) (fun u => (u.team.point 1).phase == false) = true ∧
    focused (blockedAt (.waity 1 true 0x40)) (fun u => u.g.status == .blocked (.waity 1 true 0x40)) = true ∧
    focused (blockedAt (.gridPoint 0 .wait 0)) (fun u => u.g.status == .blocked (.gridPoint 0 .wait 0) &&
      (u.grid.gvs.getD 0 ⟨0, 0, []⟩).done == u.team.gvA.getD 0 0) = true ∧
    focused ((blockedAt (.gridPoint 0 .wait 0)).modTeam 1 fun t => { t with gvA := [1] })
      (fun u => (u.grid.gvs.getD 0 ⟨0, 0, []⟩).done != u.team.gvA.getD 0 0) = true ∧
    focused (blockedAt .immediate) (fun u => u.g.status == .blocked .immediate) = true ∧
    focused (withG fun g => { g with
      status := .blocked (.hcallReply 3)
      hcall := some ⟨7, 1, 1, Vector.replicate 64 0, some (0, [])⟩ })
      (fun u => u.g.status == .blocked (.hcallReply 3) && (u.g.hcall.bind fun h => h.reply) == some (0, [])) = true ∧
    focused base (fun u => u.g.status == .ready) = true ∧
    (blockedAt .peerLoad).g.isAt 0 0 = true ∧ (blockedAt .peerLoad).g.peerData = none ∧ (blockedAt .peerFetch).g.fetched = none := by
  decide +kernel

/-- One operation in flight, numbered 5, of 64 bytes at point 1. -/
def inFlight (s : State) (kind : EngineKind) (pos : Nat) : State :=
  { s with ops := [⟨5, 0, 0, 1, 0, 0, 0, 0, 1, 64, pos, kind, none, [], none, []⟩] }

/-- The operation numbered 5. -/
def theOp (s : State) : EngineOp := ((s.ops.find? fun x => x.id == 5)).getD ⟨0, 0, 0, 0, 0, 0, 0, 0, 0, 0, 0, .copy (.run 0 0 0 0), none, [], none, []⟩

theorem test_WakesAndCompletions_engine_witness :
    (let s := inFlight matrix (.mmas 0 3 0 0x00200011 0x00200011 []) 0
     s.ops.find? (fun x => x.id == 5) = some (theOp s) ∧ s.mmasReady (theOp s) 3 0 0x00200011 0x00200011 = true) ∧
    (let s := inFlight matrix (.ink 0 0 0x00200011 false) 0
     s.inkReady (theOp s) 0 = true ∧ (s.teamOf (theOp s).team).isSome = true ∧ 0 < team1.macros.length) := by decide +kernel

/-- A copy whose next sector moves, whatever the free choice of an early stop is, one whose source is not mapped, the last and a middle
sector of a journal's copy. -/
theorem test_WakesAndCompletions_copy_witness :
    (let s := inFlight base (.copy (.run 0x800 0x100 0 0)) 32
     (match s.copySector (theOp s) (.run 0x800 0x100 0 0) (.copy 0 0 0) with
      | .moved _ n => n == 32
      | _ => false) = true ∧ (theOp s).held = none ∧ (theOp s).alWait = none ∧ (theOp s).pos + 32 = (theOp s).total) ∧
    (let s := inFlight base (.copy (.run 0x80000 0x90000 0 0)) 0
     (match s.copySector (theOp s) (.run 0x80000 0x90000 0 0) (.copy 0 0 0) with
      | .stopped _ _ _ _ => true
      | _ => false) = true) ∧
    (let s := inFlight base (.journalCopy (.run 0x800 0x100 0 0) 0 1 0 none 0 0) 0
     (theOp s).pos < (theOp s).total ∧ (match s.copySector (theOp s) (.run 0x800 0x100 0 0) (.journal 0) with
      | .moved _ n => n == 32
      | _ => false) = true ∧ (theOp (inFlight base (theOp s).kind 64)).total ≤ (theOp (inFlight base (theOp s).kind 64)).pos) := by
  simp only [State.copySector]
  generalize Config.stopsEarly (inFlight base (.copy (.run 0x800 0x100 0 0)) 32).tick = x
  generalize Config.stopsEarly (inFlight base (.copy (.run 0x80000 0x90000 0 0)) 0).tick = y
  generalize Config.stopsEarly (inFlight base (.journalCopy (.run 0x800 0x100 0 0) 0 1 0 none 0 0) 0).tick = z
  revert x y z; decide +kernel

/-- A copy whose source its core's held reduction changes waits for it. -/
theorem test_WakesAndCompletions_wait_witness :
    (let s : State := { inFlight base (.copy (.run 0x800 0x100 0 0)) 0 with links := { base.links with
       held := [⟨0x100, 128, 1, [], some ⟨0x100, 8, .add, .i32, true, 1, ⟨0, 1, 0, 0⟩, 0x100, 128, 1, []⟩, none, true, some ⟨0, 1, 0, 0⟩,
         false, 0x100, false, none, none⟩] } }
     (match s.copySector (theOp s) (.run 0x800 0x100 0 0) (.copy 0 0 0) with
      | .waits _ => true
      | _ => false) = true) := by decide +kernel

/-! ### Witnesses: launching, retiring -/

/-- A record of so many bytes, with the bytes given by offset. -/
def record (size : Nat) (l : List (Nat × Byte)) : List Byte := tabList (fun i => ((l.find? fun x => x.1 == i).map (·.2)).getD 0) 0 size

/-- The listed cells of bytes that stand from an address. -/
def cellsAt (a : Nat) (bs : List Byte) : List Host.Cell := bs.zipIdx.filterMap fun b => if b.1 = 0 then none else some (a + b.2, b.1)

/-- A launch record of one team of one general group, whose columns are column 0. -/
def launchRec (x : Byte) : List Byte := record 256 [(0x10, x), (0x14, 1), (0x18, 1), (0x23, 1), (0x2B, 8), (0xA0, 1)]

/-- Line 0 of column 0 with a record to take, and context 0 at column 0 alone. -/
def atPort (rec : Word) (bytes : List Byte) : State :=
  (base.modCtx 0 fun c => { c with colmask := 1 }).modLine 0 0 fun l => { l with queue := [⟨0, rec, 0, 1, none, none, none, none, bytes⟩] }

theorem test_Launching_port_witness : recordAddr 0x1000 = true ∧ ((base.cols.get 0).lines.get 0).queued < 64 ∧
    (((atPort 0x1000 (launchRec 1)).cols.get 0).lines.get 0).queue.find? (fun e => e.grid.isNone && e.held.isNone) =
      some ⟨0, 0x1000, 0, 1, none, none, none, none, launchRec 1⟩ ∧ launchRec 1 ≠ [] ∧
    (atPort 0x1000 (launchRec 0)).badField 0 (launchRec 0) = some 0x10 ∧ (atPort 0x1000 (launchRec 1)).badField 0 (launchRec 1) = none ∧
    (match (atPort 0x1000 (launchRec 1)).gridTable (portAgent 0 0) (parseLaunch (launchRec 1)) with
     | .ok es => es.isEmpty
     | _ => false) = true ∧ (atPort 0x1000 (launchRec 1)).badAdmission 0 (parseLaunch (launchRec 1)) = none ∧
    (match (atPort 0x90000 []).agentAcquire (portAgent 0 0) 0x90000 256 with
     | .error (.fail _ _ _) => true
     | _ => false) = true := by decide +kernel

/-- A grid of that record: held for its first dependence, a word at 0x100 that holds 0, or offered. -/
def gridOf3 (stage : GridPhase) (threshold : Word) : Grid := { Grid.none with
  id := 3
  stage := stage
  depsOk := [false, true, true, true]
  launch := { parseLaunch (launchRec 1) with deps := [(0x100, threshold)] } }

def withGrid (x : Grid) : State := { atPort 0 [] with grids := [grid2, x] }

theorem test_Launching_grid_witness : (withGrid (gridOf3 .held 0)).gridOf 3 = some (gridOf3 .held 0) ∧ (gridOf3 .held 0).depWait = [] ∧
    (match (withGrid (gridOf3 .held 0)).agentAcquire (portAgent 0 0) 0x100 8 with
     | .ok bs => leNat bs == 0
     | _ => false) = true ∧
    (let s := withGrid (gridOf3 .offered 0); let x := gridOf3 .offered 0
     s.gridOf 3 = some x ∧ s.mayAdmit x = true ∧ s.admits x.ctx = true ∧ s.waitingOf x = [] ∧ x.launch.cohort = false ∧
     (s.placeLaunched x x.nextHead x.next x.diverted).isSome = true ∧ s.placeLaunched x x.nextHead x.next false ≠ none) ∧
    (let x : Grid := { gridOf3 .offered 0 with launch := { (gridOf3 .offered 0).launch with groups := [0, 0, 0, 33] } }
     (withGrid x).placeLaunched x x.nextHead x.next false = none) := by decide +kernel

theorem test_Launching_bin_witness : (let s := base.modCol 0 fun c => { c with bins := [⟨4, 0, 2, 0x40, [[1, 2, 3, 4]]⟩] }
    (s.cols.get 0).bins.find? (fun b => b.id == 4) = some ⟨4, 0, 2, 0x40, [[1, 2, 3, 4]]⟩ ∧ (s.ctxs.get 0).phase = .running ∧
    (s.gridOf 2).isSome = true) := by decide +kernel

/-- A record whose bytes have been read and whose glyph table stands at no multiple of 8, and one without a table. -/
theorem test_Launching_table_witness :
    (let e : QueueEntry := ⟨0, 0x1000, 0, 1, none, none, none, none, record 256 [(0x10, 1), (0xF0, 4)]⟩
     e.bytes ≠ [] ∧ (match base.gridTable (portAgent 0 0) (parseLaunch e.bytes) with
       | .bad => true
       | _ => false) = true) ∧
    (let x := gridOf3 .offered 0
     x.launch.glyphs = 0) := by decide +kernel

/-- The team with an uncommitted version whose group waits for the commit; a team whose only group has ended; one that runs. -/
theorem test_Retiring_team_witness :
    (let s := (blockedAt .earlyCommit).modTeam 1 fun t => { t with version := some [] }
     (s.teamOf 1).map (fun t => s.oldestVersion t && s.commitWanted t) = some true) ∧
    (let s := withG fun g => { g with status := .ended }
     (s.teamOf 1).map (fun t => s.mayRetire t && t.version.isNone) = some true) ∧
    (base.teamOf 1).map (fun t => base.mayRetire t) = some false := by decide +kernel

theorem withGrid_cores (x : Grid) : (withGrid x).cores = base.cores := by
  simp only [withGrid, atPort, State.modLine, State.modCol, State.modCtx]

theorem withGrid_cleanCores (x : Grid) : (withGrid x).cleanCores 0 = withGrid x :=
  cleanCores_of_clean (by rw [withGrid_cores]; exact base_cores_clean) rfl 0

/-- A grid whose teams are gone, without and with a completion store to 0x100. -/
theorem test_Retiring_grid_witness :
    (let x := { gridOf3 .placed 0 with launch := Launch.none }
     (withGrid x).gridOf 3 = some x ∧ (withGrid x).gridDone x = true ∧ x.launch.doneAddr = 0) ∧
    (let x := { gridOf3 .placed 0 with launch := { Launch.none with doneAddr := 0x100, doneValue := 9 } }
     (withGrid x).gridDone x = true ∧ x.haltSeen = false ∧ ((withGrid x).cleanCores 0).outstanding 0 = false ∧
     (match ((withGrid x).cleanCores 0).agentWrite (portAgent 0 0) .write 0x100 9 (some (.completion 3)) with
      | .ok w => !(w.tagPending (.completion 3))
      | _ => false) = true) := by
  simp only [withGrid_cleanCores]
  decide +kernel

/-- A team without groups of a context that is being saved, whose area fits in 64 KiB, or in no byte at all. -/
def saving (size : BitVec 14) : State := { (base.modCtx 0 fun c => { c with phase := .saving }) with
  g := Group.reset
  teams := [{ team1 with macros := [] }]
  grids := [{ grid2 with launch := { grid2.launch with flags := 0, scratch := 0 } }]
  dev := { base.dev with saveSz := size } }

theorem test_Retiring_save_witness : (let s := saving 1
    (s.teamOf 1).map (fun t => t.place == .resident && (s.cohortOf t).all s.canSave) = some true ∧ (s.ctxs.get 0).phase = .saving ∧
    (s.teamOf 1).map (fun t => let u := (s.cohortOf t).foldl State.saveTeam s
      decide ((u.saveArea 0).length ≤ s.saveSize)) = some true) ∧
    (let s := saving 0
     (s.teamOf 1).map (fun t => let u := (s.cohortOf t).foldl State.saveTeam s
      decide (s.saveSize < (u.saveArea 0).length)) = some true) := by decide +kernel

theorem test_Retiring_saved_witness : (let s := saving 1
    (s.teamOf 1).map (fun t => ((((s.cohortOf t).foldl State.saveTeam s).writeArea 0).teams.any fun x =>
      x.ctx == 0 && x.place == .resident)) = some false) := by decide +kernel

/-- The writes of the team's core are performed, and the save area can be written; a held write that is not; a version that may be committed. -/
theorem test_Retiring_performed_witness :
    (let s := saving 1
     (s.teamOf 1).map (fun t =>
       let s1 := (s.cohortOf t).foldl (fun (u : State) x => u.sendOn x.core .dev) s
       let u := (s.cohortOf t).foldl State.saveTeam s1
       (s.cohortOf t).all (fun x => s1.performedBy x.core .dev) && s1.devOpen (s.saveBase t.ctx) (u.saveArea t.ctx).length &&
         !((u.writeArea t.ctx).teams.any fun x => x.ctx == t.ctx && x.place == .resident)) = some true) ∧
    (let s : State := { saving 1 with links := holding.links }
     (s.teamOf 1).map (fun t =>
       let s1 := (s.cohortOf t).foldl (fun (u : State) x => u.sendOn x.core .dev) s
       (s.cohortOf t).all (fun x => s1.performedBy x.core .dev)) = some false) ∧
    (let s := (blockedAt .earlyCommit).modTeam 1 fun t => { t with version := some [] }
     (s.teamOf 1).map (fun t => (s.commitFirst t).mayCommit t) = some true ∧
     (let u : State := { s with links := holding.links }
      (u.teamOf 1).map (fun t => (u.commitFirst t).mayCommit t) = some false)) := by decide +kernel

theorem test_Retiring_core_witness : (let s := withGrid (gridOf3 .offered 0)
    leastBy s.offerKey (s.grids.filter fun x => (s.headOn x 0).isSome) = some (gridOf3 .offered 0) ∧
    (s.headOn (gridOf3 .offered 0) 0).isSome = true ∧ (s.cores.get 0).headHold = none ∧
    s.g.isAt 0 0 = true ∧ s.g.status = .ready) := by decide +kernel

/-! ### Witnesses: journals, contexts -/

/-- Journal j with one command posted, at 0x1000, its accepted entries at 0x2000. -/
def commanded (j : JournalId) (cmd : List (Nat × Byte)) : State :=
  { base with mem := { base.mem with cells := cellsAt 0x1000 (record 128 ((0, 1) :: cmd)) } }.modJrn j fun x =>
    { x with base := 0x1000, entries := 64, accBase := 0x2000, accEntries := 64, submit := 1 }

/-- The next command, if it is a good one. -/
def goodCmd (s : State) (j : JournalId) : Option Nat :=
  (s.nextCmd j).bind fun c => if cmdRefusal j c.2 = none then some (cmdOp c.2) else none

/-- Where the next command is a good one, nothing is accepted as bad. -/
theorem acceptBad_of_good {s : State} {j : JournalId} {n : Nat} (h : goodCmd s j = some n) (k : Nat) :
    State.acceptBad j (k + 1) s = s := by
  obtain ⟨c, hc, hr⟩ := Option.bind_eq_some_iff.mp h
  split at hr
  · next hn => simp only [State.acceptBad, hc, hn]
  · cases hr

/-- LAUNCH of 0x100 to line 7 of column 0, with room and without, COPY, SIGNAL, BARRIER. -/
theorem test_Journals_witness : goodCmd (commanded 0 [(8, 1), (0x11, 1), (0x19, 7)]) 0 = some 1 ∧
    (commanded 0 [(8, 1), (0x11, 1), (0x19, 7)]).acceptBads 0 = commanded 0 [(8, 1), (0x11, 1), (0x19, 7)] ∧
    recordAddr 0x100 = true ∧ ((base.cols.get 0).lines.get 7).queued < 64 ∧
    (let s := (commanded 0 [(8, 1), (0x11, 1), (0x19, 7)]).modLine 0 7 fun l =>
       { l with queue := List.replicate 64 ⟨0, 0x100, 0, 1, none, none, none, none, []⟩ }
     goodCmd s 0 = some 1 ∧ 64 ≤ ((s.cols.get 0).lines.get 7).queued) ∧
    goodCmd (commanded 0 [(8, 2), (0x20, 64)]) 0 = some 2 ∧ goodCmd (commanded 0 [(8, 3), (0x11, 1)]) 0 = some 3 ∧
    goodCmd (commanded 0 [(8, 4)]) 0 = some 4 :=
  have h : goodCmd (commanded 0 [(8, 1), (0x11, 1), (0x19, 7)]) 0 = some 1 := by decide +kernel
  ⟨h, acceptBad_of_good h 65535, by decide +kernel⟩

/-- Writes of SUBMIT at, below and beyond the room, of AJCONS; an entry with a wrong number, read 98 and 99 times. -/
theorem test_Journals_pages_witness : (let x := (commanded 0 []).jrns.get 0
    (1 : Word).toNat ≤ x.submit.toNat ∧ x.submit.toNat < (64 : Word).toNat ∧ (64 : Word).toNat ≤ x.accepted.toNat + x.entries ∧
    x.accepted.toNat + x.entries < (65 : Word).toNat ∧ (0 : Word).toNat ≤ x.ajcons.toNat) ∧
    (let x := ((commanded 0 []).modJrn 0 fun x => { x with accepted := 1 }).jrns.get 0
     x.ajcons.toNat < (1 : Word).toNat ∧ (1 : Word).toNat ≤ x.accepted.toNat) ∧
    (let s := { commanded 0 [] with mem := { base.mem with cells := [(0x1000, 2)] } }
     (s.nextEntry 0).map (fun e => cmdSeq e.2 != e.1 % 2 ^ 64) = some true ∧ (s.jrns.get 0).rereads < 99 ∧
     99 ≤ ((s.modJrn 0 fun x => { x with rereads := 99 }).jrns.get 0).rereads ∧ (s.jrns.get 0).signal = none) := by decide +kernel

/-- A good entry of a context, at the place of context 1 in the table at 0x4000. -/
def entryRec : List Byte := record 256 [(0x19, 1), (0x20, 1), (0x31, 1), (0x33, 0xE1), (0x51, 1), (0x55, 1)]

/-- The management journal with a command about context 1, in a phase of its own. -/
def managed (op : Byte) (phase : CtxPhase) (entry : List Byte) : State :=
  let s := (commanded 64 [(8, op), (0x10, 1)]).modCtx 1 fun c => { c with phase := phase }
  { s with
    mem := { s.mem with cells := s.mem.cells ++ cellsAt 0x4100 entry }
    dev := { s.dev with ctxtbl := 1 } }

theorem managed_cores (op : Byte) (phase : CtxPhase) (entry : List Byte) : (managed op phase entry).cores = base.cores := by
  simp only [managed, commanded, State.modCtx, State.modJrn]

theorem test_ContextCommands_create_witness : goodCmd (managed 0x10 .free entryRec) 64 = some 0x10 ∧
    ((managed 0x10 .free entryRec).ctxs.get 1).phase = .free ∧
    badEntry ((managed 0x10 .free entryRec).physRead ((managed 0x10 .free entryRec).ctxEntry 1) 256) true = none ∧
    badEntry ((managed 0x10 .free []).physRead ((managed 0x10 .free []).ctxEntry 1) 256) true = some 0x18 ∧
    goodCmd (managed 0x10 .running entryRec) 64 = some 0x10 ∧ ((managed 0x10 .running entryRec).ctxs.get 1).phase ≠ .free ∧
    goodCmd (managed 0x11 .stopped entryRec) 64 = some 0x11 ∧ ((managed 0x11 .stopped entryRec).dropCtxTlb 1).ctxHeld 1 = false ∧
    badEntry ((managed 0x11 .stopped entryRec).physRead ((managed 0x11 .stopped entryRec).ctxEntry 1) 256) false = none := by
  rw [dropCtxTlb_held (managed_cores _ _ _)]; decide +kernel

/-- The same with a resident team of context 1. -/
def teamed (s : State) : State := { s with teams := [{ team1 with ctx := 1 }] }

theorem test_ContextCommands_state_witness : goodCmd (teamed (managed 0x12 .running [])) 64 = some 0x12 ∧
    ((teamed (managed 0x12 .running [])).teams.any fun t => t.ctx == 1 && t.place == .resident) = true ∧
    (teamed (managed 0x12 .stopped [])).residentSets 1 ≠ [] ∧ goodCmd (teamed (managed 0x12 .stopped [])) 64 = some 0x12 ∧
    (teamed (managed 0x12 .stopped [])).standsStill 1 = true ∧ goodCmd (managed 0x13 .saved []) 64 = some 0x13 ∧
    (managed 0x13 .saved []).binRoom 1 = true ∧ goodCmd (managed 0x14 .stopped []) 64 = some 0x14 ∧
    ((managed 0x14 .stopped []).dropCtxTlb 1).ctxHeld 1 = false ∧
    ((managed 0x14 .stopped []).jrns.get (CtxId.journal 1)).accepted = ((managed 0x14 .stopped []).jrns.get (CtxId.journal 1)).submit ∧
    goodCmd (managed 0x15 .saved []) 64 = some 0x15 ∧ goodCmd (managed 0x16 .running []) 64 = some 0x16 ∧
    goodCmd (managed 0x16 .free []) 64 = some 0x16 ∧ ((managed 0x16 .free []).ctxs.get 1).phase = .free := by
  rw [dropCtxTlb_held (managed_cores _ _ _)]; decide +kernel

theorem test_ContextCommands_timers_witness : ((saving 1).ctxs.get 0).phase = .saving ∧
    (let s : State := { blockedAt (.point 1 false) with ptp := 0xFFFFFFFFFFFFFFFF }
     (s.ctxs.get 0).phase = .running ∧ (s.ctxs.get 0).issuedAt + (s.ctxs.get 0).watchdog ≤ s.ptp.toNat ∧
     ((s.groupsOf 0).filter Group.waits).any s.waitsInside = true) := by decide +kernel

/-- A command whose accepted entry can be written, and one whose entry's line a peer holds under a lease. -/
theorem test_Journals_accept_witness : (commanded 0 [(8, 4)]).acceptOpen 0 1 = true ∧ (commanded 64 [(8, 0x16)]).acceptOpen 64 1 = true ∧
    (let leased := fun (s : State) => ({ s with links := { s.links with leases := [⟨0x2000 / 128, 100⟩] } } : State)
     goodCmd (leased (commanded 0 [(8, 4)])) 0 = some 4 ∧ (leased (commanded 0 [(8, 4)])).acceptOpen 0 1 = false ∧
     (leased (managed 0x16 .running [])).acceptOpen 64 1 = false ∧ goodCmd (leased (managed 0x16 .running [])) 64 = some 0x16) := by
  decide +kernel

/-! ### Witnesses: queues, registers -/

/-- Column 0 with queues of 16 records, the group waiting for the reply to record 3, or parked on the fault of record 2. -/
def queued (w : Wake) : State :=
  (withG fun g => { g with
    status := .blocked w
    hcall := some ⟨7, 1, 1, Vector.replicate 64 0, none⟩
    kept := [⟨0x90000, 0, 2, some 2, false⟩] }).modCol 0 fun c =>
    { c with hqLog := 4, fqLog := 4, hq := [⟨3, 1, 0⟩], fq := [⟨some 2, 0, 9, 0, 1, false⟩] }

theorem test_QueueWrites_witness : (let s := queued (.hcallReply 3); let c := s.cols.get 0
    c.hq.find? (fun r => r.record % 2 ^ c.hqLog.toNat == (3 : Word).toNat % 1024) = some ⟨3, 1, 0⟩ ∧
    s.groups.find? (Group.awaits ⟨3, 1, 0⟩) = some s.g ∧ focused s (fun t => t.g.hcall.isSome && t.ctx.phase == .running) = true ∧
    focused (s.modCtx 0 fun c => { c with phase := .saving }) (fun t => t.ctx.phase != .running) = true) ∧
    (base.cols.get 0).hq = [] ∧ (base.cols.get 0).fq = [] ∧ ((base.waiters 0).filter fun w => w.fault.record.isNone) = [] ∧
    (let s := queued .fault; let c := s.cols.get 0
     c.fq.find? (fun r => !r.done && (r.record.map fun k => k % 2 ^ c.fqLog.toNat) == some ((2 : Word).toNat % 4096)) =
       some ⟨some 2, 0, 9, 0, 1, false⟩ ∧ s.g.isAt 0 0 = true ∧ s.g.status = .blocked .fault) := by decide +kernel

/-- So many shootdowns of page 5 of context 0 in flight. -/
def shooting (n : Nat) : State := { base with dev := { base.dev with shootdowns := List.replicate n (.page 5 0) } }

/-- A write that the first has translated, held. -/
def shotHeld : State := { shooting 1 with links := { base.links with
  held := [⟨0x50000, 128, 1, [1], none, none, true, some ⟨0, 1, 0, 0⟩, false, 0x50000, false, none, none⟩] } }

theorem test_QueueWrites_shootdown_witness : (shooting 15).dev.shootdowns.length < 16 ∧ 16 ≤ (shooting 16).dev.shootdowns.length ∧
    (shooting 1).dev.shootdowns = .page 5 0 :: [] ∧ ((shooting 1).shootdownDone (.page 5 0)).shootdownWaits (.page 5 0) = false ∧
    (shotHeld.shootdownDone (.page 5 0)).shootdownWaits (.page 5 0) = true := by
  refine ⟨by decide +kernel, by decide +kernel, rfl, ?_, ?_⟩
  · rw [shootdown_waits (s := shooting 1) rfl]; decide +kernel
  · rw [shootdown_waits (s := shotHeld) rfl]; decide +kernel

/-- A write that TDISP refuses; CTXTBL and the save area with and without a context in the way; register numbers at the ends. -/
theorem test_RegisterWrites_witness : ({ base with dev := { base.dev with tdisp := .run } } : State).tdispRefuses 0 false = true ∧
    base.tdispRefuses 0 false = false ∧ (∀ c, (State.reset.ctxs.get c).phase = .free) ∧ (base.ctxs.get 0).phase ≠ .free ∧
    (∀ c, (State.reset.ctxs.get c).phase ≠ .saving ∧ (State.reset.ctxs.get c).phase ≠ .saved) ∧ ((saving 1).ctxs.get 0).phase = .saving ∧
    (let v : Word := 0x50003; v.extractLsb' 55 9 = 0 ∧ v.extractLsb' 6 8 = 0 ∧ v.extractLsb' 14 2 = 0 ∧ 3 = (v.extractLsb' 0 6).toNat) ∧
    (let v : Word := 0x58000; v.extractLsb' 55 9 = 0 ∧ v.extractLsb' 6 8 = 0 ∧ v.extractLsb' 14 2 = 2) ∧
    (0x50000 : BitVec 24).toNat = 0x10000 + 0x1000 * (64 : JournalId).val ∧
    (0x13F0E8 : BitVec 24).toNat = 0x1000D0 + 8 * (3 : Fin 4).val + 0x1000 * (63 : ColId).val ∧
    base.log.reserve = [] ∧ (let s : State := { base with dev := { base.dev with logHead := 5, logCons := 2 } }
      s.dev.logCons.toNat < 5 ∧ 5 ≤ s.dev.logHead.toNat ∧ 2 ≤ s.dev.logCons.toNat ∧ s.dev.logHead.toNat < 6) := by decide +kernel

/-! ### Witnesses: vaults, governors -/

/-- Column 0 asks for a level, at 2 ms. -/
def governed (g : Governor) : State := { base with ptp := 2000000 }.modCol 0 fun c => { c with gov := g }

theorem test_VaultAndGovernor_witness : (15 : Fin 16).val ∉ (base.cols.get 0).vault.busy ∧
    ((base.modCol 0 fun c => { c with vault := { c.vault with busy := [15] } }).cols.get 0).vault.busy = [15] ∧
    (let v := (base.cols.get 0).vault; v.owner = true) ∧
    (let v := ((base.modCol 0 fun c => { c with vault := { c.vault with owner := false } }).cols.get 0).vault
     v.owner = false ∧ v.leaseEnd ≤ base.ptp.toNat) ∧
    (let s := governed ⟨0, true, 0, 0, none, [none, none, none]⟩
     (s.cols.get 0).gov.level.toNat < s.levelAsked 0 ∧ s.mayChange 0 = true) ∧
    (let s := governed ⟨0, false, 0, 0, none, [some 0, some 0, some 0]⟩
     s.levelAsked 0 ≤ (s.cols.get 0).gov.level.toNat ∧ (s.cols.get 0).gov.level = 0) ∧
    (let s := governed ⟨1, false, 0, 0, some 1900000, [some 1000000, some 0, some 0]⟩
     0 < (s.cols.get 0).gov.level.toNat ∧ (s.cols.get 0).gov.since.getD ((s.cols.get 0).gov.level.toNat - 1) none = some 1000000 ∧
     s.levelAsked 0 < (s.cols.get 0).gov.level.toNat ∧ 1000000 + 1000000 ≤ s.ptp.toNat ∧ s.mayChange 0 = true) := by decide +kernel

theorem test_VaultAndGovernor_ways_witness : (base.cols.get 0).waysPend = none ∧
    ((base.modCol 0 fun c => { c with waysPend := some 8 }).cols.get 0).waysPend = some 8 ∧ base.grantElsewhere 0 0 = false ∧
    base.grantElsewhere 0 1 = true ∧ base.sliceBusy 0 = false ∧ ((0x8 : Word).extractLsb' 0 5).toNat = 8 ∧
    ((0x9 : Word).extractLsb' 0 5).toNat ≠ 8 ∧ ((128 : Word).extractLsb' 0 8).toNat ≤ 128 ∧ 128 < ((129 : Word).extractLsb' 0 8).toNat ∧
    (let s := base.modCore 0 fun c => { c with pinPend := some 2 }
     (s.cores.get 0).pinPend = some 2 ∧ 2 ≠ (s.cores.get 0).pinwin ∧
     2 = ((s.modCore 0 fun c => { c with pinwin := 2 }).cores.get 0).pinwin ∧
     (s.teams.any fun t => t.place == .resident && t.core == 0 && t.units.any fun u => 256 - 2 ≤ u) = false ∧
     ((s.modTeam 1 fun t => { t with units := [254] }).teams.any fun t =>
       t.place == .resident && t.core == 0 && t.units.any fun u => 256 - 2 ≤ u) = true) := by decide +kernel

/-- A temperature 3 °C below the threshold of level 1, a lease that has run out and one that has not. -/
theorem test_VaultAndGovernor_time_witness :
    (let s := governed ⟨1, false, 92, 0, some 1900000, [some 1000000, some 0, some 0]⟩
     s.levelCool 0 1 = true ∧ s.levelAsked 0 < (s.cols.get 0).gov.level.toNat) ∧
    (let v := ((base.modCol 0 fun c => { c with vault := { c.vault with owner := false, leaseEnd := 9 } }).cols.get 0).vault
     ¬(v.owner = true ∨ ({ base with ptp := 9 } : State).ptp.toNat < v.leaseEnd) ∧ base.ptp.toNat < v.leaseEnd) := by decide +kernel

/-! ### Witnesses: main memory -/

/-- Writes of one byte of stripe 7 on their way to parity, in the order of acceptance. -/
def writing (stages : List WriteStage) : State := { base with mem := { base.mem with
  writes := stages.zipIdx.map fun x => ⟨x.2, none, 7, [(0x5000, 1, 2)], x.1⟩ } }

theorem test_ParityAndStacks_witness :
    (let w : PendWrite := ⟨0, none, 7, [(0x5000, 1, 2)], .sent⟩; let s := writing [.sent, .sent]
     s.mem.writes.find? (fun x => x.id == w.id) = some w ∧
     (s.mem.writes.any fun v => v.id < w.id && v.stage != .accepted && v.sameBlock w) = false) ∧
    (let w : PendWrite := ⟨1, none, 7, [(0x5000, 1, 2)], .sent⟩; let s := writing [.sent, .sent]
     s.mem.writes.find? (fun x => x.id == w.id) = some w ∧
     (s.mem.writes.any fun v => v.id < w.id && v.stage != .accepted && v.sameBlock w) = true) ∧
    (writing [.accepted]).mem.writes.find? (fun w => w.stripe == 7 && w.stage == .accepted) =
      some ⟨0, none, 7, [(0x5000, 1, 2)], .accepted⟩ ∧ 7 ∉ base.mem.badParity ∧ hbmCoord 5 = hbmCoord 5 := by
  decide +kernel

/-- The parity block of stripe 7 in error, on a stack that stands. -/
theorem test_ParityAndStacks_parity_witness :
    (let s : State := { writing [.accepted] with mem := { (writing [.accepted]).mem with badParity := [7] } }
     7 ∈ s.mem.badParity ∧ (s.dev.stripeAt 7).2 ∉ s.dev.missing s.mem (s.dev.stripeAt 7).1) := by decide +kernel

/-- A stored sector that can be rebuilt, one that cannot, one that is poisoned. -/
theorem test_MemoryEngines_store_witness : base.reconstructible (0x500 : Word).toNat = true ∧ base.mem.poisoned (0x500 : Word).toNat = false ∧
    hasSectors (0x500 : Word).toNat = true ∧
    ({ base with mem := { base.mem with poison := [0x500 / 32] } } : State).mem.poisoned (0x500 : Word).toNat = true ∧
    ({ base with mem := { base.mem with poison := [12] } } : State).reconstructible (0x80 : Word).toNat = false := by decide +kernel

/-- Memory degraded by the loss of stack 3, the watermark at 2, at 1 and at the top. -/
def degraded (mode : MemMode) (watermark maxpa : Nat) : State := { base with dev := { base.dev with
  mode := mode
  lost := some 3
  watermark := watermark
  maxpa := BitVec.ofNat 36 maxpa } }

theorem test_ParityAndStacks_stack_witness : 3 ∈ (degraded .degraded 0 0xB00000).lostStacks ∧ 11 ∉ base.lostStacks ∧
    base.dev.mode = .normal ∧ base.dev.lost = none ∧ base.mem.dead = none ∧ 4 ∉ (degraded .degraded 0 0xB00000).lostStacks ∧
    (degraded .degraded 0 0xB00000).dev.restripeRefusal = some 1 ∧ base.dev.restripeRefusal = some 4 ∧
    (degraded .degraded 0 0xA00000).dev.restripeRefusal = none ∧
    (degraded .restriping 2 0xA00000).dev.watermark = 1 + 1 ∧ (degraded .restriping 1 0xA00000).dev.watermark = 0 + 1 ∧
    ((degraded .restriping 2 0xA00000).mem.writes.any fun w => (tabList id (10 * 1) 10).any w.inBlock) = false := by decide +kernel

theorem test_MemoryEngines_witness : ({ base with dev := { base.dev with scrubh := 0 } } : State).dev.scrubh = 0 ∧ base.dev.scrubh ≠ 0 ∧
    isVault (32 * 4) = false ∧ base.dev.isHbm (32 * 4) = true ∧ (base.dev.place (32 * 4)).1 ∉ base.lostStacks ∧
    base.mem.poisoned (32 * 4) = false ∧ base.reconstructible (32 * 4) = true ∧
    ({ base with mem := { base.mem with poison := [12] } } : State).reconstructible (32 * 4) = false ∧ base.dev.ckBusy = false ∧
    base.ckRefusal false = some 1 ∧ State.reset.ckRefusal false = none ∧
    ({ base with dev := { base.dev with ckState := .saving } } : State).dev.ckBusy = true ∧
    hasSectors (0x500 : Word).toNat = true := by decide +kernel

/-- A byte of the line of the sector differs from 0 and its write was encrypted, so that all four sectors are stored; a line of zeros has
none; a sector of a vault. -/
theorem test_MemoryEngines_sector_witness : base.mem.checked (32 * 4) = false ∧
    (let m : Memory := { base.mem with cells := (0x80, 1) :: base.mem.cells, cipherBlocks := [1] }
     m.checked (32 * 4) = true) ∧
    (let v := vaultLoc 0 0 / 32
     isVault (32 * v) = true ∧ (base.cols.get (vaultCol (32 * v))).fenced = false ∧ base.mem.poisoned (32 * v) = false ∧
     base.reconstructible (32 * v) = false ∧ base.mem.checked (32 * v) = true) := by decide +kernel

/-- The write of a group to a peer that fails. -/
theorem test_MemoryEngines_peer_witness : (let w : PeerWrite := ⟨9, 0x500, [1], none, some ⟨0, 1, 0, 0⟩, 0x900, false, none⟩
    let s : State := { base with links := { base.links with peerWrites := [w] } }
    s.links.peerWrites = [w] ∧ w.pa = (0x500 : Word).toNat ∧ w.who = some ⟨0, 1, 0, 0⟩ ∧ w.tag = none) := by decide +kernel

/-! ### Witnesses: marks, replicas, leases, links -/

/-- A mark on line 4 that stands since PTP time 0, at such a time. -/
def marked (ptp : Word) : State := { base with mem := { base.mem with marks := [⟨4, ⟨0, 0, 1⟩, .core, 0, [], false⟩] }, ptp := ptp }

theorem test_HeldAndPromoted_mark_witness : (marked 1242).mem.marks.find?
      (fun m => m.line == 4 && 40960 ≤ ((marked 1242).ptp.toNat - m.time.toNat) * 33) = some ⟨4, ⟨0, 0, 1⟩, .core, 0, [], false⟩ ∧
    base.mem.marks = [] ∧ base.links.held = [] := by decide +kernel

/-- Column 0 with one frame for replicas, and page 2 of context 0 read through. -/
def readPage : State := base.modCol 0 fun c => { c with
  replN := 1
  pageReads := [⟨0, 2, (List.range 2048).map fun i => (i, 0)⟩] }

theorem test_HeldAndPromoted_start_witness : (readPage.cols.get 0).fenced = false ∧ 0 < (readPage.cols.get 0).replN.toNat ∧
    (readPage.cols.get 0).frameFree 0 readPage.ptp.toNat = true ∧ (0x20000 : Word).toNat / 2 ^ 16 = 2 ∧
    (readPage.cols.get 0).readThrough 0 2 readPage.ptp.toNat = true ∧
    readPage.promotable 0 0 2 = some ⟨.mem 0x20000, 0, 0, 0, true⟩ := by
  have hc : (readPage.cols.get 0).pageReads = [⟨0, 2, (List.range 2048).map fun i => (i, 0)⟩] := by decide +kernel
  have hp : readPage.ptp.toNat = 0 := by decide +kernel
  refine ⟨by decide +kernel, by decide +kernel, by decide +kernel, by decide +kernel, ?_, by decide +kernel⟩
  simp [ColState.readThrough, hc, hp]

theorem test_HeldAndPromoted_witness :
    (let r := fun f page gen => (⟨f, page, 0, gen, false, true, 0⟩ : Replica)
     let s := base.modCol 0 fun c => { c with replN := 1, replicas := [r 0 2 0, r 1 2 1, r 2 5 0] }
     (s.cols.get 0).replicas.find? (fun r => r.frame == 0 && r.copying) = some (r 0 2 0) ∧ s.mem.copies = [] ∧
     s.mem.poison = [] ∧ s.mem.dead = none ∧ (0 : BitVec 12) ≠ 1 ∧ s.ptp.toNat < 100000 ∧
     s.promotable 0 0 2 = some ⟨.mem 0x20000, 0, 0, 0, true⟩ ∧
     (s.cols.get 0).replicas.find? (fun r => r.frame == 1 && r.copying) = some (r 1 2 1) ∧
     (s.cols.get 0).replicas.find? (fun r => r.frame == 2 && r.copying) = some (r 2 5 0) ∧ s.promotable 0 0 5 = none ∧
     100000 ≤ ({ s with ptp := 100000 } : State).ptp.toNat) := by
  decide +kernel

theorem test_HeldAndPromoted_held_witness : (let h : HeldWrite := ⟨0x500, 128, 1, [1], none, some 100, false, none, false, 0, false, none, none⟩
    let s : State := { base with links := { base.links with held := [h] } }
    s.links.held = [h] ∧ h.loc / 128 = 10 ∧ h.red = none ∧ h.who = none ∧ h.tag = none ∧ h.bytes ≠ [] ∧ h.due = some 100 ∧ h.host = false ∧
    s.ptp.toNat < 100 ∧ 100 ≤ ({ s with ptp := 100 } : State).ptp.toNat ∧
    ({ h with due := none, host := true, who := some ⟨0, 1, 0, 0⟩ } : HeldWrite).due = none) := by decide +kernel

/-- The same entry where the host caches its line, or does not. -/
theorem test_HeldAndPromoted_host_witness :
    (let h : HeldWrite := ⟨0x500, 128, 1, [1], none, some 0, false, none, false, 0, false, none, none⟩
     let s : State := { base with links := { base.links with held := [h] } }
     s.mem.hostHas 10 = false ∧ h.writes = true ∧
     ({ s with mem := { s.mem with hostFilter := [10] } } : State).mem.hostHas 10 = true) := by decide +kernel

theorem test_LinkEvents_witness : (let retry := fun n => (List.replicate n (3, 15, 0) ++ [(3, 15, 0)] : List (Nat × Nat × Nat))
    ((retry 6).filter fun r => r.1 == 3 && r.2.1 == 15).length < 8 ∧ 8 ≤ ((retry 7).filter fun r => r.1 == 3 && r.2.1 == 15).length) ∧
    (15 ∈ base.links.modules.getD 3 [] ∧ ((base.links.modules.getD 3 []).filter fun x => x != 15) ≠ []) ∧
    (15 ∉ (base.links.modules.set 3 []).getD 3 []) ∧ (base.links.modules.set 3 []).getD 3 [] = [] ∧
    base.links.modules.getD 3 [] ≠ [] ∧ base.links.lostPairs = [] ∧
    (let s : State := { base with links := { base.links with lostPairs := [2] } }
     (2 : PairId) ∈ s.links.lostPairs ∧ (3 : PairId) ∉ s.links.lostPairs ∧ s.links.lostPairs ≠ []) ∧
    base.flash.alternate.contains (7, BitVec.ofNat 8 (63 : PortId).val) = false ∧ (base.links.ports.get 63).up = false ∧
    (let s : State := { base with links := { base.links with ports := base.links.ports.set 63 ⟨true, some 9, false, false, []⟩ } }
     (s.links.ports.get 63).up = true ∧ (s.links.ports.get 63).fellBack = false) := by decide +kernel

theorem test_OutsideAgents_peer_witness : (9 : PeerId).val ∉ base.dev.peerFenced ∧ base.reachable false 0x100 8 = true ∧
    base.outsideBehind (.peer 9) (runLines 0x100 8) = false ∧ base.reachable false 0x100 0 = false ∧
    (let u : State := { base with tick := base.tick + 1 }
     (u.outsideRead none 0x100 8).2 ≠ [] ∧
     (u.outsideRead none 0x100 8).1.grantLease (0x100 / 128) (20 : BitVec 8).toNat = some 20000 ∧
     (u.outsideRead none 0x100 8).1.grantLease (0x100 / 128) (0 : BitVec 8).toNat = none) ∧
    ([1] : List Byte).length ≤ 256 ∧ base.bankBusy 0x100 = false ∧
    ({ base with dev := { base.dev with peerFenced := [9] } } : State).dev.peerFenced = [(9 : PeerId).val] ∧
    ({ base with dev := { base.dev with peerLive := [9] } } : State).dev.peerLive = [(9 : PeerId).val] ∧ base.links.misses = [] ∧
    (let v : Word := 0x8000000000000009; v.extractLsb' 10 53 = 0 ∧ v.getLsbD 63 = true) ∧ (9 : Word).getLsbD 63 = false ∧
    base.links.ptpLocked = true ∧
    ({ base with links := { base.links with ptpLocked := false, misses := [(9, 2)] } } : State).links.misses = [((9 : PeerId).val, 2)] := by
  decide +kernel

theorem test_OutsideAgents_witness : ({ base with dev := { base.dev with hdm := 1 } } : State).dev.hdm * 2 ^ 30 = 0x40000000 ∧
    base.reachable true 0x800000000000 8 = true ∧ base.reachable true 0x100 8 = true ∧
    base.outsideBehind (.hostCore 0) (runLines 0x100 8) = false ∧ base.outsideBehind .cxl (runLines 0x100 8) = false ∧
    base.bankBusy (0x100 + 8 - 1) = false ∧ base.holdOf (0x100 / 128) = none ∧ base.mem.marks = [] ∧ base.mem.copies = [] ∧
    ((base.outsideRead (some (.hostCore 0)) 0x100 8).1.mem.poison = [] ∧ (base.outsideRead (some (.hostCore 0)) 0x100 8).1.mem.dead = none) ∧
    (∀ l ∈ runLines 0x100 8, base.objOf l = none) ∧ base.outsidePending (.hostCore 0) = false ∧ base.outsidePending (.dmc 3) = false := by
  decide +kernel

/-! ### Witnesses: fencing, resets, telemetry -/

theorem test_Fencing_witness : (base.cols.get 63).fenced = false ∧
    ((base.modCol 63 fun c => { c with fenced := true }).cols.get 63).fenced = true := by decide +kernel

/-- Column 0 short alone for 10 ms, its sensor 3 the worst; every column of die 0 short, by 40 mV. -/
def drooping (d : Droop) : State := { base with ptp := 10000000 }.modCol 0 fun c => { c with droop := d }

theorem test_Fencing_droop_witness :
    (let s := drooping ⟨(List.replicate 32 700).set 3 600, 700, some 0, some 0⟩
     s.tenMs (s.cols.get 0).droop.alone = true ∧ (s.cols.get 0).droop.worst = (3 : Fin 32).val ∧ (s.cols.get 0).droop.worst ≠ (4 : Fin 32).val) ∧
    base.tenMs (base.cols.get 0).droop.alone = false ∧ base.dieShort 0 = false ∧ (0 : DieId) ∉ base.dev.droop ∧
    (let d : Droop := ⟨List.replicate 32 660, 700, some 0, none⟩
     let s : State := (dieCols 0).foldl (fun t c => t.modCol c fun x => { x with droop := d }) { base with ptp := 10000000 }
     s.dieShort 0 = true ∧ s.sharedShortfall 0 = 40 ∧ ((dieCols 0).all fun c => 30 < (s.cols.get c).droop.shortfall) = true) ∧
    ((dieCols 0).all fun c => 30 < (base.cols.get c).droop.shortfall) = false := by decide +kernel

/-- A column without teams, and the end of the steps of its fencing. -/
theorem test_Fencing_steps_witness : (State.reset.cols.get 0).fenced = false ∧ State.reset.teams = [] ∧ State.reset.grids = [] := by
  decide +kernel

theorem test_ResetsAndBoot_witness : (115 : Byte).toNat ≤ 115 ∧ 115 < (116 : Byte).toNat ∧
    (0x5A370001 : Word).extractLsb' 0 32 = 0x5A370001 ∧ (0 : Word).extractLsb' 0 32 ≠ 0x5A370001 ∧ base.flash.records = [] ∧
    base.dev.bootFail = false ∧ ({ base with dev := { base.dev with bootFail := true } } : State).dev.bootFail = true ∧
    (let s := fun n alt => ({ base with flash := { base.flash with step := n, alternate := alt } } : State)
     1 < (s 2 []).flash.step ∧ (s 8 []).flash.step < 9 ∧ (s 9 []).flash.step = 9 ∧ 2 < (s 3 []).flash.step ∧
     (s 3 []).flash.alternate.contains (3, 7) = false ∧ (s 4 [(4, 7)]).flash.alternate.contains (4, 7) = true ∧
     (s 3 [(3, 7)]).flash.alternate.contains (3, 7) = true) := by decide +kernel

/-- A message that has been sent at PTP time 0. -/
def event : PlatformEvent := ⟨IncCode.deviceReset.entry, 0, false⟩

theorem test_ManagementAnswers_witness : base.dev.tdisp = .unlocked ∧ base.links.held = [] ∧ (base.sensor 0x400).isSome = true ∧
    base.sensor 0xFFFF = none ∧ base.log.events = [] ∧
    (let s : State := { base with log := { base.log with events := [event], merges := [⟨11, 2, 3, [], 5, 0⟩] } }
     s.log.events = event :: [] ∧ s.log.merges = [⟨11, 2, 3, [], 5, 0⟩] ∧ 11 = (11 : Byte).toNat) := by decide +kernel

/-- A device whose interface is locked, without and with an IDE stream; messages before and after 1 s; boot steps 2 and 9. -/
theorem test_ManagementAnswers_locked_witness :
    ({ base with dev := { base.dev with tdisp := .run } } : State).dev.tdisp ≠ .unlocked ∧ base.dev.ideStreams = [] ∧
    (let s : State := { base with log := { base.log with events := [event] }, ptp := 1000000000 }
     ¬s.ptp.toNat < event.sent + 1000000000 ∧ base.ptp.toNat < event.sent + 1000000000) ∧
    (let s := fun n => ({ base with flash := { base.flash with step := n } } : State)
     (s 2).dev.bootFail = false ∧ (s 2).flash.step = 2 ∧ (s 9).flash.step = 9 ∧ stepUnit 4 7 = 7 ∧ stepUnit 3 7 = 0xFF) := by
  decide +kernel

/-- What the completions of DeviceEventsComplete and HostCallsAndMaintenance ask besides. -/
theorem test_DeviceEventsComplete_quiet_witness :
    (let s := governed ⟨1, false, 0, 0, none, [some 0, some 0, some 0]⟩
     s.levelCool 0 1 = true) ∧ State.reset.sliceBusy 0 = false ∧ 7 ∉ (writing [.accepted]).mem.badParity ∧
    ({ base with mem := { base.mem with poison := [12] } } : State).reconstructible (0x80 : Word).toNat = false ∧
    hasSectors (0x80 : Word).toNat = true ∧ base.mem.hostHas 10 = false ∧
    (⟨0x500, 128, 1, [], none, some 0, false, none, false, 0, false, none, some (.commit 7)⟩ : HeldWrite).service = false ∧
    State.reset.dev.logRoom = false ∧ (withG fun g => { g with status := .stalled }).g.status = .stalled ∧
    (let s := base.modCol 0 fun c => { c with hqLog := 4 }
     s.hqOpen s.colId = true ∧ ({ s with links := { s.links with leases := [⟨s.col.hqNext / 128, 100⟩] } } : State).hqOpen s.colId = false) ∧
    (let s := base.modCol 0 fun c => { c with waysPend := some 8, waysBy := none }
     s.col.waysPend ≠ none ∧ s.col.waysBy ≠ some (s.g.core, s.g.slot, s.g.team)) ∧
    ({ base with dev := { base.dev with bootFail := true } } : State).dev.bootFail = true ∧ 0x10000 ≤ (0x10000 : BitVec 24).toNat := by
  decide +kernel

/-! ### Witnesses: the events complete -/

/-- Line 0 of column 0 with an entry for the launch record that stands at 0x400. -/
def portState : State :=
  let s := atPort 0x400 []
  { s with mem := { s.mem with cells := s.mem.cells ++ cellsAt 0x400 (launchRec 1) } }

theorem test_LaunchEventsComplete_port_witness : (0x1000 : Word).toNat < 2 ^ 55 ∧ (0x1000 : Word).toNat % 256 = 0 ∧
    ((base.cols.get 0).lines.get 0).queued < 64 ∧
    (let e : QueueEntry := ⟨0, 0x400, 0, 1, none, none, none, none, []⟩
     ((portState.cols.get 0).lines.get 0).queue.find? (fun e => e.grid.isNone && e.held.isNone) = some e ∧ e.bytes = [] ∧
     (match portState.agentAcquire (portAgent 0 0) 0x400 256 with
      | .ok bs => bs == launchRec 1
      | _ => false) = true ∧
     portState.badField 0 (launchRec 1) = none ∧ (parseLaunch (launchRec 1)).glyphs = 0 ∧
     portState.badAdmission 0 (parseLaunch (launchRec 1)) = none) := by decide +kernel

theorem test_LaunchEventsComplete_grid_witness :
    (let s := withGrid (gridOf3 .held 0); let x := gridOf3 .held 0
     s.gridOf 3 = some x ∧ x.stage = .held ∧ x.depsOk = [false, true, true, true] ∧ x.depWait = [] ∧
     (match s.agentAcquire (portAgent 0 0) 0x100 8 with
      | .ok bs => decide ((x.launch.deps.getD 0 (0, 0)).2.toNat ≤ leNat bs)
      | _ => false) = true) ∧
    (let s := withGrid (gridOf3 .offered 0); let x := gridOf3 .offered 0
     s.gridOf 3 = some x ∧ x.stage = .offered ∧ x.launch.glyphs = 0 ∧ x.launch.cohort = false ∧ s.waitingOf x = [] ∧
     s.admits x.ctx = true ∧ s.mayAdmit x = true ∧ (s.placeLaunched x x.nextHead x.next x.diverted).isSome = true ∧
     leastBy s.offerKey (s.grids.filter fun x => (s.headOn x 0).isSome) = some x ∧ s.headOn x 0 = some x.nextHead ∧
     (s.cores.get 0).headHold = none) ∧
    (let x : Grid := { gridOf3 .offered 0 with launch := { (gridOf3 .offered 0).launch with groups := [0, 0, 0, 33] } }
     (withGrid x).gridOf 3 = some x ∧ x.stage = .offered ∧ (withGrid x).placeLaunched x x.nextHead x.next false = none) ∧
    (let s := base.modCol 0 fun c => { c with bins := [⟨4, 0, 2, 0x40, [[1, 2, 3, 4]]⟩] }
     (s.cols.get 0).bins.find? (fun b => b.id == 4) = some ⟨4, 0, 2, 0x40, [[1, 2, 3, 4]]⟩ ∧ (s.ctxs.get 0).phase = .running ∧
     (s.gridOf 2).isSome = true) ∧ base.g.isAt 0 0 = true ∧ base.g.status = .ready := by decide +kernel

/-- The context that the next command of the management journal names. -/
def cmdOf (s : State) : Option CtxId := (s.nextCmd 64).map fun c => cmdCtx c.2

theorem test_CommandEventsComplete_context_witness : cmdOf (managed 0x10 .free entryRec) = some 1 ∧
    goodCmd (managed 0x10 .free entryRec) 64 = some 0x10 ∧ ((managed 0x10 .free entryRec).ctxs.get 1).phase = .free ∧
    badEntry ((managed 0x10 .free entryRec).physRead ((managed 0x10 .free entryRec).ctxEntry 1) 256) true = none ∧
    goodCmd (managed 0x11 .stopped entryRec) 64 = some 0x11 ∧ ((managed 0x11 .stopped entryRec).ctxs.get 1).phase ≠ .free ∧
    badEntry ((managed 0x11 .stopped entryRec).physRead ((managed 0x11 .stopped entryRec).ctxEntry 1) 256) false = none ∧
    ((managed 0x11 .stopped entryRec).dropCtxTlb 1).ctxHeld 1 = false ∧
    goodCmd (teamed (managed 0x12 .running [])) 64 = some 0x12 ∧
    ((teamed (managed 0x12 .running [])).teams.any fun t => t.ctx == 1 && t.place == .resident) = true ∧
    goodCmd (managed 0x13 .saved []) 64 = some 0x13 ∧ (managed 0x13 .saved []).binRoom 1 = true ∧
    goodCmd (managed 0x14 .stopped []) 64 = some 0x14 ∧ ((managed 0x14 .stopped []).dropCtxTlb 1).ctxHeld 1 = false ∧
    ((managed 0x14 .stopped []).jrns.get (CtxId.journal 1)).accepted = ((managed 0x14 .stopped []).jrns.get (CtxId.journal 1)).submit ∧
    goodCmd (managed 0x15 .stopped []) 64 = some 0x15 ∧ ((managed 0x15 .stopped []).dropCtxTlb 1).ctxHeld 1 = false ∧
    goodCmd (managed 0x16 .running []) 64 = some 0x16 ∧ ((managed 0x16 .running []).ctxs.get 1).phase = .running := by
  rw [dropCtxTlb_held (managed_cores _ _ _), dropCtxTlb_held (managed_cores _ _ _), dropCtxTlb_held (managed_cores _ _ _)]
  decide +kernel

theorem test_CommandEventsComplete_queue_witness :
    (let s := queued (.hcallReply 3)
     (s.cols.get 0).hq.find? (fun r => r.record % 2 ^ (s.cols.get 0).hqLog.toNat == (3 : Word).toNat % 1024) = some ⟨3, 1, 0⟩ ∧
     s.g.present = true ∧ s.g.awaits ⟨3, 1, 0⟩ = true ∧ s.g.hcall.isSome = true ∧ s.ctx.phase = .running ∧
     (s.readReply ((s.cols.get 0).hqSlot 3)).1 = 0) ∧
    (let s := queued .fault
     (s.cols.get 0).fq.find? (fun r => !r.done && (r.record.map fun k => k % 2 ^ (s.cols.get 0).fqLog.toNat) ==
       some ((2 : Word).toNat % 4096)) = some ⟨some 2, 0, 9, 0, 1, false⟩ ∧
     ((s.waiters 0).filter fun w => w.fault.record == some 2).map (·.holder) = [.group s.g.core s.g.slot] ∧ s.g.present = true ∧
     s.g.status = .blocked .fault) ∧
    (shooting 1).dev.shootdowns = .page 5 0 :: [] ∧ ((base.waiters 0).filter fun w => w.fault.record.isNone) = [] := by decide +kernel

/-- Column 0 under a governor that rises, and one that falls. -/
theorem test_DeviceEventsComplete_column_witness :
    (let s := governed ⟨0, true, 0, 0, none, [none, none, none]⟩
     (s.cols.get 0).gov.force = true ∧ (s.cols.get 0).gov.level ≠ 3 ∧ (s.cols.get 0).gov.lastChange = none) ∧
    (let s := governed ⟨1, false, 0, 0, none, [some 0, some 0, some 0]⟩
     (s.cols.get 0).gov.level = 1 ∧ s.levelAsked 0 = 0 ∧ (s.cols.get 0).gov.since.getD 0 none = some 0 ∧ 0 + 1000000 ≤ s.ptp.toNat ∧
     (s.cols.get 0).gov.lastChange = none) ∧
    (15 : Fin 16).val ∉ (base.cols.get 0).vault.busy ∧ ((State.reset.cols.get 0).ways = 16 ∧ (State.reset.cols.get 0).waysPend = none ∧
      (State.reset.cols.get 0).grant = none ∧ ((12 : Word).extractLsb' 0 5).toNat = 12) ∧
    (let s := base.modCore 0 fun c => { c with pinPend := some 2 }
     (s.cores.get 0).pinPend = some 2 ∧ ∀ tm ∈ s.teams, tm.place = .resident → tm.core = 0 → tm.units = []) := by decide +kernel

theorem test_DeviceEventsComplete_memory_witness :
    (∃ w, (writing [.sent]).mem.writes = [w] ∧ w.stage = .sent) ∧ (∃ w, (writing [.accepted]).mem.writes = [w] ∧ w.stage = .accepted) ∧
    base.dev.mode = .normal ∧ (11 : Fin 12).val ∉ base.lostStacks ∧ (degraded .degraded 0 0xA00000).dev.restripeRefusal = none ∧
    ((degraded .restriping 2 0xA00000).dev.mode = .restriping ∧ (degraded .restriping 2 0xA00000).mem.writes = [] ∧
      1 < (degraded .restriping 2 0xA00000).dev.watermark) ∧
    base.dev.scrubh ≠ 0 ∧ isVault (32 * (vaultLoc 0 0 / 32)) = true ∧ base.mem.checked (32 * (vaultLoc 0 0 / 32)) = true ∧
    State.reset.dev.ckBusy = false ∧ State.reset.ckRefusal false = none ∧
    ((State.reset.putImage State.reset.image).imageAt.map fun i => decide (i.capacity ≤ State.reset.dev.capacity)) = some true ∧
    ({ base with dev := { base.dev with ckState := .saving } } : State).dev.ckState = .saving ∧ hasSectors (0x500 : Word).toNat = true ∧
    (base.ctxs.get 0).phase ≠ .free :=
  ⟨⟨_, rfl, rfl⟩, ⟨_, rfl, rfl⟩, by decide +kernel⟩

theorem test_DeviceEventsComplete_held_witness :
    (∃ m, (marked 1242).mem.marks = [m] ∧ m.line = 4 ∧ 40960 ≤ ((marked 1242).ptp.toNat - m.time.toNat) * 33) ∧
    (readPage.cols.get 0).replicas = [] ∧
    (let r : Replica := ⟨0, 2, 0, 0, false, true, 0⟩
     let s := base.modCol 0 fun c => { c with replN := 1, replicas := [r] }
     (s.cols.get 0).replicas = [r] ∧ r.copying = true ∧ s.promotable 0 0 2 = some ⟨.mem 0x20000, 0, 0, 0, true⟩) ∧
    (let l : LLine := ⟨0, 4, [], 0, 9⟩
     let s : State := { base with links := { base.links with llines := [l] } }
     s.links.llines = [l] ∧ l.col = 0 ∧ l.line = 4 ∧ l.expiry ≤ s.ptp.toNat) ∧
    (let h : HeldWrite := ⟨0x500, 128, 1, [], none, some 0, false, none, false, 0, false, none, some (.commit 7)⟩
     let s : State := { base with links := { base.links with held := [h] } }
     s.links.held = [h] ∧ h.loc / 128 = 10 ∧ h.due = some 0 ∧ 0 ≤ s.ptp.toNat ∧ h.host = false ∧ h.writes = false) :=
  ⟨⟨_, rfl, rfl, by decide +kernel⟩, by decide +kernel⟩

theorem test_DeviceEventsComplete_agents_witness : base.links.modules.getD 3 [] ≠ [] ∧ 15 ∈ base.links.modules.getD 3 [] ∧
    (base.links.modules.set 3 []).getD 3 [] = [] ∧ base.links.lostPairs = [] ∧ base.flash.alternate = [] ∧
    (base.links.ports.get 63).up = false ∧ base.links.ptpLocked = true ∧ base.links.misses = [] ∧
    (9 : PeerId).val ∈ ({ base with dev := { base.dev with peerLive := [9] } } : State).dev.peerLive ∧
    (9 : PeerId).val ∉ base.dev.peerFenced ∧ (base.cols.get 63).fenced = false ∧ base.dev.tdisp = .unlocked ∧ base.links.held = [] ∧
    base.flash.records = [] ∧ base.dev.bootFail = false ∧ ({ base with flash := { base.flash with step := 9 } } : State).flash.step = 9 ∧
    (let s : State := { base with log := { base.log with events := [event], merges := [⟨11, 2, 3, [], 0, 0⟩] } }
     s.log.events = event :: [] ∧ s.log.merges = [⟨11, 2, 3, [], 0, 0⟩]) := by decide +kernel

/-! ### Witnesses: further forms and clauses -/

theorem test_SpecialRegisters_status_witness : base.g.rs.length ≤ 31 := by decide +kernel

/-- JMPV: every lane of v0 and v1 holds 2^55; a target that translates for execution, and one that does not. -/
theorem test_ControlTransfers_far_witness :
    (let s := withG fun g => { g with v := put g.v 1 (Vector.replicate 64 0x800000) }
     (∀ L < 64, s.g.live.getLsbD L = true → s.g.lane64 (0 : VReg).toNat L = 0x80000000000000) ∧
     (0x80000000000000 : Word).toNat % 4 = 0 ∧ 2 ^ 55 ≤ (0x80000000000000 : Word).toNat) ∧
    (match base.indirect 0x900000 with
     | .error (.trap _) => true
     | _ => false) = true := by decide +kernel

/-- A full stack whose spill does not translate, and where the fault is recoverable; an empty one whose refill does so. -/
theorem test_ControlTransfers_spill_witness :
    (let s := withG fun g => { g with rs := List.replicate 16 0x40, spillBase := 0x900000 }
     16 ≤ s.g.rs.length ∧ s.g.spillBase ≠ 0 ∧ s.indirect (s.g.sReg 0) = .ok () ∧ s.sound [] [0] [] = .ok () ∧
     (match s.xlatParts .write true (spillCuts s.g.spillBase.toNat) with
      | .error (.trap _) => true
      | _ => false) = true ∧
     (match (s.modCol 0 fun c => { c with fqLog := 4 }).xlatParts .write true (spillCuts s.g.spillBase.toNat) with
      | .error (.park _ _) => true
      | _ => false) = true) ∧
    (let s := withG fun g => { g with rs := [], spilled := 1, spillBase := 0x900040 }
     s.g.rs = [] ∧ s.g.spilled ≠ 0 ∧
     (match s.xlatParts .read true (spillCuts (s.g.spillBase - 64).toNat) with
      | .error (.trap _) => true
      | _ => false) = true ∧
     (match (s.modCol 0 fun c => { c with fqLog := 4 }).xlatParts .read true (spillCuts (s.g.spillBase - 64).toNat) with
      | .error (.park _ _) => true
      | _ => false) = true) := by decide +kernel

/-- With the LANDING flag: LAND stands at 0, and at 8 nothing. -/
def landing : State := { base with grids := [{ grid2 with launch := { grid2.launch with flags := 0x21 } }] }

theorem test_ControlTransfers_landing_witness : landing.grid.launch.flags.getLsbD 5 = true ∧ base.grid.launch.flags.getLsbD 5 = false ∧
    base.execXlat 0 = .ok () ∧ landing.execXlat 0 = .ok () ∧ landing.execXlat 8 = .ok () ∧
    (let s := landing
     s.fetchBytes (if s.g.peerFor == s.landAsk 0 then s.g.peerData else none) 0 = .ok [4, 0, 0, 12] ∧ leNat ([4, 0, 0, 12] : List Byte) = 0x0C000004 ∧
     s.fetchBytes (if s.g.peerFor == s.landAsk 8 then s.g.peerData else none) 8 = .ok [0, 0, 0, 0] ∧ leNat ([0, 0, 0, 0] : List Byte) ≠ 0x0C000004) ∧
    (withS [(9, 8)]).g.sReg 9 = 8 := by decide +kernel

/-- An MMA of the group that waits for its unit behind an MMAS of the team: END waits with it. -/
def waitingMma : State := { withG fun g => { g with mmas := [⟨9, 0, 0, 0x11, 0x11, g.live, [], []⟩] } with
  ops := [⟨5, 0, 0, 1, 0, 0, 0, 0, 1, 64, 0, .mmas 0 0 0 0x11 0x11 [], none, [], none, []⟩] }

theorem test_GroupLife_release_witness : base.teamOf 1 = some team1 ∧ (waitingMma.drainMmas.g.mmas.isEmpty) = false ∧
    waitingMma.drainMmas.asyncOf waitingMma.drainMmas.g = true := by decide +kernel

/-- A spawned team whose role's budget does not reach its payloads. -/
theorem test_ResetAndCreation_budget_witness : (let l : Launch := { Launch.none with vBud := [4, 4, 4, 4] }
    ({ team1 with spawned := true, payloads := [[1, 2, 3, 4]] } : Team).spawned = true ∧ l.vBud.getD Role.copy.code 0 < 8) := by decide +kernel

/-- A group whose environment has chosen nothing, and one of whose loads waits: it is performed before LAND. -/
theorem test_StepRunsDecoded_late_witness : (stepped (stepping [4, 0, 0, 12])).g.late = none ∧ (stepped (stepping [4, 0, 0, 12])).g.defer = false ∧
    (let u := stepped { stepping [4, 0, 0, 12] with g := { (stepping [4, 0, 0, 12]).g with late := some ⟨.ld 7 5 0, 0x1000, 0x100⟩ } }
     let v := u.lateFirst
     u.runnable u.g = true ∧ u.takesPort u.g = true ∧ v.g.late = none ∧ v.g.glyph = none ∧ v.recordWaits = false ∧
     v.fetchBytes v.g.fetched v.g.pc.toNat = .ok (bytesOfWord 0x0C000004)) := by decide +kernel

/-- Finite numbers other than zero, 1 among them and 3/2 between it and 2, and their bounds. -/
theorem test_VectorFloatResults_functions_witness : numVal (.fin false 1 0) = (1 : Int) ∧ |numVal (.fin false 1 0)| < 2 ^ 14 ∧
    ((1 : Int) : Rat) < numVal (.fin false 3 (-1)) ∧ numVal (.fin false 3 (-1)) < (1 : Int) + 1 ∧
    2 ^ 14 ≤ numVal (.fin false 1 14) ∧ numVal (.fin true 1 14) ≤ -2 ^ 14 ∧ numVal (.fin false 1 3) = (2 : Rat) ^ (3 : Int) ∧
    (2 : Rat) ^ (0 : Int) < numVal (.fin false 3 (-1)) ∧ numVal (.fin false 3 (-1)) < (2 : Rat) ^ ((0 : Int) + 1) ∧
    numVal (.fin true 0 0) = 0 ∧ numVal (.fin true 1 0) < 0 := by
  refine ⟨?_, ?_, ?_, ?_, ?_, ?_, ?_, ?_, ?_, ?_, ?_⟩ <;> norm_num [numVal]

/-- FMIN and FMAX of f16 values: 1, 2, −0, +0, an infinity, a quiet and a signalling NaN. -/
theorem test_VectorFloatResults_minMax_witness : (let F := fmtOf .f16x2
    let v := F.decode false
    0x3C00 < 2 ^ F.width ∧ (v 0x3C00).isNan = false ∧ (v 0x3C00).isInf = false ∧ (v 0x4000).isNan = false ∧ (v 0x4000).isInf = false ∧
    (v 0x7C00) = .inf false ∧ (v 0x7E00).isNan = true ∧ (v 0x7E00).isSnan = false ∧ (v 0x7D00).isSnan = true) := by decide +kernel

/-- The type of floats, and one of integers. -/
theorem test_LaneMoves_type_witness : floatType (typed 9).g.typeCode = true ∧ floatType (typed 4).g.typeCode = false := by decide +kernel

/-- Integers that are too small, too great and within; a float that is no number, infinite, and finite; a NaN code and a block that is none. -/
theorem test_Conversions_values_witness : (Elem.int true 8 ≠ .int false 8) ∧ readInt true 8 0x80 < intLo false 8 ∧
    intHi true 8 < readInt false 8 0xFF ∧ (elemOf .f32) ≠ .int true 8 ∧ ((elemOf .f32).decode false 0x7FC00000).isNan = true ∧
    (elemOf .f32).decode false 0xFF800000 = .inf true ∧ ((elemOf .f32).decode false 0x3F800000).isNan = false ∧
    ((elemOf .f32).decode false 0x3F800000).isInf = false ∧ elemOf .f32 ≠ .e2m1 := by decide +kernel

theorem test_Conversions_quantise_witness : (let xs : List Machine.Num := [.fin false 3 (-1), .fin true 0 0]
    (∀ x ∈ xs, x.isNan = false ∧ x.isInf = false) ∧ (∃ x ∈ xs, (2 : Rat) ^ (0 : Int) ≤ |numVal x|) ∧
    (∀ x ∈ xs, |numVal x| < (2 : Rat) ^ ((0 : Int) + 1)) ∧ (∀ x ∈ ([.fin true 0 0] : List Machine.Num), numVal x = 0) ∧
    (let base : Int := 0 - quantBinade .e4m3
     (base - 1 ≤ base ∧ base ≤ base + 1 ∧ -127 ≤ base ∧ base ≤ 127)) ∧
    ¬(∀ x ∈ ([.inf true] : List Machine.Num), x.isNan = false ∧ x.isInf = false)) := by
  refine ⟨?_, ?_, ?_, ?_, ?_, ?_⟩ <;> simp [numVal, Num.isNan, Num.isInf, quantBinade] <;> norm_num

/-- A greatest element so great, or so small, that no scale around it is a code; a scale and a code of DEQ. -/
theorem test_Conversions_scale_witness : 127 < (300 : Int) - quantBinade .e4m3 - 1 ∧ (-300 : Int) - quantBinade .e4m3 + 1 < -127 ∧
    (127 : Nat) ≠ 255 ∧ (Elem.e4m3.value 0x7F).isNan = true ∧ Elem.e5m2.value 0x7C = .inf false ∧ (Elem.e4m3.value 0x38).isNan = false ∧
    (Elem.e4m3.value 0x38).isInf = false := by decide +kernel

/-- VLD, VST, VLDC and VSTC with no Active lane, at the top of the file. -/
theorem test_GlobalVectorAccesses_empty_witness : (let s := base; let m := s.g.active 1
    m = 0 ∧ MemOperandsReady s m (s.g.memNamed 127 0 4) [vSpan 0 1 false m] anyType [5] [s.g.guardIdx 1] ∧
    MemOperandsReady s m (s.g.memNamed 126 0 8) [vSpan 126 (sizeRegs 8) false m, vSpan 0 1 false m] anyType [5] [s.g.guardIdx 1] ∧
    MemOperandsReady s m [s.g.vOp 127 0] [] anyType [5] [s.g.guardIdx 1] ∧
    MemOperandsReady s m [s.g.vOp 127 0] [s.g.vOp 127 m] anyType [5] [s.g.guardIdx 1]) := by
  simp only [MemOperandsReady, OperandFits]; decide +kernel

/-- An address of an object that is misaligned, beyond 2^55, not mapped, on a HOME 0 page, of a HOME 4 page, in another context's object, and
one where no object is. -/
theorem test_AllowanceInstructions_address_witness : 61 < (62 : SReg).toNat ∧ (base.g.sReg 2).toNat % 128 ≠ 0 ∧
    (base.g.sReg 4).toNat % 128 = 0 ∧ 2 ^ 55 ≤ (base.g.sReg 4).toNat ∧
    (match base.groupXlat 0x900000 128 .readWrite with
     | .error (.fault _ _) => true
     | _ => false) = true ∧
    (let s := base.modCore 0 fun c => { c with dataTlb := [⟨0, 2, 0, 0x0050900001230387⟩] }
     let t := s.modCtx 0 fun c => { c with keyCount := 4 }
     (match t.groupXlat 0 128 .readWrite with
      | .ok x => (1 < x.home) && (match x.site with | .mem _ => true | _ => false)
      | _ => false) = true) ∧
    base.groupXlat 0x400 128 .readWrite = .ok ⟨.mem 0x400, 1, 0, 0, false⟩ ∧ base.objOf 8 = none ∧
    (({ base with objs := [⟨8, 1, 10, 2, 6, .normal, []⟩] } : State).objOf 8).map (fun o => o.ctx != base.ctxId) = some true ∧
    OperandsReady base [vSpan 0 1 false (base.g.active 0)] [vSpan 0 1 false (base.g.active 0)] anyType [9] [base.g.guardIdx 0] ∧
    base.g.active 0 ≠ 0 := by
  simp only [OperandsReady, OperandFits]; decide +kernel

/-- RDVINIT of 0, of more than 1,024 arrivals (s3), and a flag word of 7; EXPECT of more than the pending count can hold; a point beyond
those declared; a store that has failed. -/
theorem test_RendezvousPoints_illegal_witness : (base.g.sReg 0).toNat = 0 ∧ 1024 < (base.g.sReg 3).toNat ∧ 1 ≤ (base.g.sReg 6).toNat ∧
    (base.g.sReg 6).toNat ≤ 1024 ∧ 1 < (base.g.sReg 2).toNat ∧ (base.team.point 2).expected = 0 ∧ base.g.imprecise = none ∧
    2 ^ 63 - 1 < (base.team.point 1).pending + (base.g.sReg 3).toNat ∧ (base.g.sReg 2).toNat % 4 ≠ 0 ∧ (base.g.sReg 4).toNat % 4 = 0 ∧
    2 ^ 55 ≤ (base.g.sReg 4).toNat ∧
    (let s : State := { base with grids := [{ grid2 with launch := { grid2.launch with points := 4 } }] }
     s.grid.launch.points ≤ (4 : BitVec 5).toNat) ∧ (withG fun g => { g with imprecise := some 8 }).g.imprecise = some 8 := by decide +kernel

/-- A table of one column, and one of a column without tiles; a selection flip that does not choose anew; arrivals by PHASE and by GARRIVE. -/
theorem test_GridPoints_flip_witness : columnTimes 0 [⟨1, 0, 5, 100, true⟩] = [(0, 100, 5)] ∧ predictTable [(0, 100, 5)] 1 = some (100, 5) ∧
    predictTable [(0, 100, 5)] 4 = none ∧
    (let x : Selector := ⟨0, some (100, 5), false, 0, [], []⟩
     ¬(x.first = true ∨ (∃ c ∈ x.throttled, tableWeight (([1] : List (BitVec 128)).getD x.table 0) c ≠ 0) ∨ x.predicted = none ∨
       ∃ p, x.predicted = some p ∧ 9 * p.1 * 5 < 100 * 8 * p.2)) ∧
    (⟨1, 0, 5, 100, true⟩ : Arrival).byPhase = true ∧ (⟨1, 0, 5, 100, false⟩ : Arrival).byPhase = false :=
  ⟨by decide +kernel, by decide +kernel, by decide +kernel, by simp, rfl, rfl⟩

/-- The line with room, with its own entries occupied, and with the team's reservation in use too. -/
def lined (n : Nat) (reserved : List Nat) : State := (base.modCol 0 fun c => { c with reserved := reserved }).modLine 0 0 fun l =>
  { l with queue := List.replicate n ⟨0, 0x100, 0, 1, none, none, none, none, []⟩ }

theorem test_LaunchAndSpawn_line_witness : base.grid.depth < 10 ∧ ((base.cols.get 0).lines.get 0).queued < 64 ∧
    64 ≤ (((lined 64 []).cols.get 0).lines.get 0).queued ∧ (32 * (base.g.core.val % 4) + base.g.slot.val) ∉ (lined 64 []).col.reserved ∧
    (32 * (base.g.core.val % 4) + base.g.slot.val) ∈ (lined 64 [0]).col.reserved ∧ base.teamOf base.g.team = some team1 := by decide +kernel

/-- A bin of the key with so many records; the column's bins all of other keys, or none. -/
def binned (n : Nat) : State := base.modCol 0 fun c => { c with bins := [⟨4, 0, 2, 0x40, List.replicate n [1, 2, 3, 4]⟩] }

theorem test_LaunchAndSpawn_bin_witness : (let mine := fun (s : State) => (s.cols.get 0).bins.find? fun b => b.ctx == 0 && b.grid == 2 && b.entry == 0x40
    (mine (binned 256)).map (fun b => decide (256 ≤ b.records.length)) = some true ∧
    (mine (binned 62)).map (fun b => decide (b.records.length < 63)) = some true ∧
    (mine (binned 63)).map (fun b => (b.records.length == 63 && ((binned 63).gridOf b.grid).isSome)) = some true ∧ mine base = none ∧
    (base.cols.get 0).bins.length < 64 ∧
    (let s := base.modCol 0 fun c => { c with bins := List.replicate 64 ⟨4, 1, 2, 0x40, []⟩ }
     mine s = none ∧ 64 ≤ (s.cols.get 0).bins.length)) ∧ ([3, 5] : List Nat)[1]? = some 5 ∧
    (base.g.sReg 2).toNat % 4 ≠ 0 ∧ (base.g.sReg 4).toNat % 4 = 0 ∧ 2 ^ 55 ≤ (base.g.sReg 4).toNat := by decide +kernel

/-- TLBINV.dev of a page in which the team has written under its version, and of another. -/
theorem test_HostCallsAndMaintenance_version_witness :
    (let s := base.modTeam 1 fun t => { t with version := some [(0x10000, 1)], versionLines := [⟨512, 0, 0x10000, 0⟩] }
     s.team.version ≠ none ∧ (∃ l ∈ s.team.versionLines, nearPage l.va 0x10000 = true) ∧
     (∀ l ∈ s.team.versionLines, nearPage l.va 0x40000000 = false)) ∧ base.team.version = none := by decide +kernel

/-- One MMA that has retired and not written its accumulators, with nothing ahead of it, on an empty macro. -/
def oneMma : State := withG fun g => { g with mmas := [⟨9, 0, 0, 0x00200011, 0x00200011, g.live, [], []⟩] }

theorem test_WakesAndCompletions_mma_witness : (let s := oneMma
    s.mmasAhead s.g.team 9 0 0 0x00200011 0x00200011 = false ∧ s.g.unseenQ 0 = false ∧ s.g.bad = [] ∧
    (s.macroView s.g.team 0 s.g.index 9).badCells = [] ∧ (s.macroView s.g.team 0 s.g.index 9).badCols = [] ∧ s.g.mmas.length = 1) := by
  decide +kernel

/-- An MMAS that may end, its group in its slot, nothing in error and no byte unsettled. -/
theorem test_WakesAndCompletions_mmas_witness : (let s := inFlight matrix (.mmas 0 3 0 0x00200011 0x00200011 []) 0; let o := theOp s
    s.mmasReady o 3 0 0x00200011 0x00200011 = true ∧ ((s.dropOp 5).opGroup o).map (fun g => (g.bad.isEmpty && g.unseen.isEmpty)) = some true ∧
    (s.macroView o.team 0 0 5).badCells = [] ∧ (s.macroView o.team 0 0 5).badCols = [] ∧ o.ahead = [] ∧ s.mem.olds = [] ∧
    s.mem.poison = [] ∧ s.mem.badBytes = [] ∧ s.mem.dead = none ∧ s.teamOf 1 = some team1 ∧ (team1.macros.getD 0 Macro.reset).old = []) := by
  decide +kernel

/-- Slots of one and of two blocks of K to a row; a scale that is none; an element that is no number. -/
theorem test_WakesAndCompletions_blocks_witness : Macro.reset.badCells = [] ∧ Macro.reset.badCols = [] ∧
    aPasses (slotCode 0x00200011) ≠ some 16 ∧ aPasses (slotCode 0x00200021) = some 16 ∧
    (blockInts (slotCode 0x00200011) 15 [.fin false 3 0]).isSome = true ∧ KCol.reset.nan = false ∧ (0x7F : Nat) ≠ 0xFF ∧
    (blockInts 0x30 15 [.inf true]).isSome = false ∧ (a96Value 0).isNan = false ∧ (a96Value a96Nan).isNan = true ∧ 0 < 15 := by
  decide +kernel

theorem test_WakesAndCompletions_align_witness : (let xs : List Machine.Num := [.fin false 3 (-1), .fin true 0 0]
    (∀ x ∈ xs, x.isNan = false ∧ x.isInf = false) ∧ (∃ x ∈ xs, (2 : Rat) ^ (0 : Int) ≤ |numVal x|) ∧
    (∀ x ∈ xs, |numVal x| < (2 : Rat) ^ ((0 : Int) + 1)) ∧ (∀ x ∈ ([.fin true 0 0] : List Machine.Num), numVal x = 0) ∧
    (∃ x ∈ ([.inf true] : List Machine.Num), x.isNan = true ∨ x.isInf = true)) := by
  refine ⟨?_, ?_, ?_, ?_, ?_⟩ <;> simp [numVal, Num.isNan, Num.isInf] <;> norm_num

/-- A COHORT grid whose teams find a core, and one whose teams ask for more groups than a core has. -/
theorem test_Launching_cohort_witness :
    (let x : Grid := { gridOf3 .offered 0 with launch := { (gridOf3 .offered 0).launch with flags := 1 } }
     x.launch.cohort = true ∧ (withGrid x).gridOf 3 = some x ∧ (withGrid x).nextStuck x = false) ∧
    (let x : Grid := { gridOf3 .offered 0 with launch := { (gridOf3 .offered 0).launch with flags := 1, groups := [0, 0, 0, 33] } }
     x.launch.cohort = true ∧ (withGrid x).nextStuck x = true) := by decide +kernel

/-- A SIGNAL that a scope mark keeps; a device whose boot has stopped, and one whose boot has not. -/
theorem test_Journals_kept_witness : (((commanded 0 []).modJrn 0 fun x => { x with signal := some (0x100, 1, false, 0, none) }).jrns.get 0).signal =
      some (0x100, 1, false, 0, none) ∧
    ({ base with dev := { base.dev with bootFail := true } } : State).dev.bootFail = true ∧ base.dev.bootFail = false ∧
    (commanded 0 []).dev.bootFail = false ∧ (queued .fault).dev.bootFail = false ∧ (governed ⟨0, true, 0, 0, none, [none, none, none]⟩).dev.bootFail = false := by
  decide +kernel

/-- The parity block of stripe 7 in error on a stack that stands, a data block of the stripe on a lost one. -/
theorem test_ParityAndStacks_lost_witness :
    (let s : State := { degraded .degraded 0 0xB00000 with mem := { (writing [.accepted]).mem with badParity := [7] } }
     let x := s.dev.stripeAt 7
     7 ∈ s.mem.badParity ∧ x.2 ∉ s.dev.missing s.mem x.1 ∧
     ((s.dev.stripeBlocks x.1).any fun b => (s.dev.missing s.mem (256 * b)).contains (s.dev.place (256 * b)).1) = true) ∧
    (let s : State := { writing [.accepted] with mem := { (writing [.accepted]).mem with badParity := [7] } }
     let x := s.dev.stripeAt 7
     ((s.dev.stripeBlocks x.1).any fun b => (s.dev.missing s.mem (256 * b)).contains (s.dev.place (256 * b)).1) = false) := by decide +kernel

/-- A block stored as it is, one of zeros, which is stored encoded, and a sector that can be rebuilt with all it holds, or not. -/
theorem test_MemoryEngines_encoded_witness : isVault 0x80 = false ∧ base.mem.sizeCode (0x80 / 128) ≠ 0 ∧
    (let s : State := { base with mem := { base.mem with cells := (0x80, 1) :: base.mem.cells, cipherBlocks := [1] } }
     s.mem.sizeCode (0x80 / 128) = 0 ∧ s.mem.checked (32 * 4) = true ∧ s.mem.poisoned (32 * 4) = false ∧ s.mem.encodedIn (32 * 4) = [0x80] ∧
     s.reconstructible 0x80 = true ∧
     ({ s with mem := { s.mem with poison := [12] } } : State).mem.encodedIn (32 * 4) = [0x80] ∧
     ({ s with mem := { s.mem with poison := [12] } } : State).reconstructible 0x80 = false) := by decide +kernel

/-- A checkpoint whose peer is fenced; a restore that a lease holds back, and one that nothing does; a write to a peer among others. -/
theorem test_MemoryEngines_restore_witness :
    (let s : State := { State.reset with dev := { State.reset.dev with peerFenced := [State.reset.dev.ckPeer] } }
     s.dev.ckBusy = false ∧ s.ckRefusal false = none ∧ s.dev.ckPeer ∈ s.dev.peerFenced) ∧ State.reset.dev.ckPeer ∉ State.reset.dev.peerFenced ∧
    (let s : State := { base with dev := { base.dev with ckState := .restoring }, links := { base.links with leases := [⟨10, 100⟩] } }
     s.dev.ckState = .restoring ∧ s.restoreHeld = [10]) ∧ base.restoreHeld = [] ∧
    (let w : PeerWrite := ⟨9, 0x500, [1], none, some ⟨0, 1, 0, 0⟩, 0x900, false, none⟩
     let s : State := { base with links := { base.links with peerWrites := [w, w] } }
     s.links.peerWrites.find? (fun w => w.pa == (0x500 : Word).toNat && w.va == 0x900 && w.who == some ⟨0, 1, 0, 0⟩) = some w) := by decide +kernel

/-- A held entry that keeps the place of an access, and one of an agent that is no group. -/
theorem test_HeldAndPromoted_place_witness : (⟨0x500, 128, 1, [], none, some 0, false, none, false, 0, false, none, some (.commit 7)⟩ : HeldWrite).writes = false ∧
    (⟨0x500, 128, 1, [], none, some 0, false, none, false, 0, false, none, some (.commit 7)⟩ : HeldWrite).service = false ∧
    (⟨0, 0, 0, 0⟩ : Origin).team = 0 ∧ (⟨0, 1, 0, 0⟩ : Origin).team ≠ 0 ∧ ([1] : List Byte) ≠ [] := by decide +kernel

/-- Step 1 with an image that is not accepted, on the first bank and on the second; the images that are. -/
theorem test_ResetsAndBoot_images_witness :
    (let bad := { DmcImage.reset with magic := 0 }
     let s : State := { base with flash := { base.flash with step := 1, images := [[bad], [bad]] } }
     s.dev.bootFail = false ∧ s.flash.step = 1 ∧ s.flash.rejected = some 0 ∧ s.flash.alternate.contains (1, 0xFF) = false ∧
     ({ s with flash := { s.flash with alternate := [(1, 0xFF)] } } : State).flash.alternate.contains (1, 0xFF) = true) := by decide +kernel

/-- Writes and marks, replicas, leased lines and misses of their own among others. -/
theorem test_DeviceEventsComplete_among_witness :
    (let w : PendWrite := ⟨1, none, 8, [(0x5A00, 1, 2)], .sent⟩
     let s : State := { base with mem := { base.mem with writes := [⟨0, none, 7, [(0x5000, 1, 2)], .accepted⟩, w] } }
     s.mem.writes.find? (fun v => v.id == w.id) = some w ∧ ∀ v ∈ s.mem.writes, v.id < w.id → v.stage = .accepted ∨ v.sameBlock w = false) ∧
    (marked 1242).mem.marks.find? (fun m => m.line == 4 && 40960 ≤ ((marked 1242).ptp.toNat - m.time.toNat) * 33) =
      some ⟨4, ⟨0, 0, 1⟩, .core, 0, [], false⟩ ∧ (readPage.cols.get 0).frameFree 0 readPage.ptp.toNat = true ∧
    (∀ m ∈ ([(3, 1)] : List (Nat × Nat)), m.1 ≠ (9 : PeerId).val) ∧
    (let m : MergeCount := ⟨11, 2, 3, [], 5, 0⟩
     let s : State := { base with log := { base.log with merges := [⟨11, 2, 4, [], 1, 0⟩, m] }, ptp := 1000000000 }
     s.log.merges.find? (fun m => m.of (11 : Byte).toNat (2 : Byte).toNat (3 : Byte).toNat) = some m ∧ m.replaced ≠ 0 ∧
     m.since + 1000000000 ≤ s.ptp.toNat ∧ base.ptp.toNat < m.since + 1000000000) := by decide +kernel

/-- A key load through a standing IDE stream, and one beside it. -/
theorem test_ManagementAnswers_ide_witness :
    (let s : State := { base with dev := { base.dev with tdisp := .run, ideStreams := [⟨1, false⟩] } }
     s.dev.tdisp ≠ .unlocked ∧ s.dev.ideStreams ≠ []) ∧ base.dev.tdisp = .unlocked := by decide +kernel

/-! ### Witnesses: an image that is accepted -/

/-- The ECDSA key and the signature of the image below: r = s = the digest of the bytes that it covers, the abscissa of a point R of the
curve, and the key R less the base point, so that both multiples of the check are 1. -/
def signedR : Nat := 0xB3AD9E609AE88B34D8015C265E85901BF06B11B81DB6424A137F5A1D29304EF27DCF6B9C711409407C1FF56F5B7F98B0
def signedEcdsaKey : List Byte :=
  bytesBE 48 0xB8BA0FA9F9409D3A037B0E1A3AAD84E2E4D0A39330732804A49A0EEA9886203760DF9B9E1D3F6077967696200A5E0EA9 ++
  bytesBE 48 0xE03CA55DFDBA9AB999A43A5866529FAF44BFFA525C1C491957AC21246C58E97AC5A0F1471C3260D6122F268E623DA088

/-- An LMS signature of zeros, and the bytes of the image that both signatures cover. -/
def signedLms : List Byte := bytesBE 4 0 ++ bytesBE 4 3 ++ List.replicate 2176 0 ++ bytesBE 4 6 ++ List.replicate 320 0
def signedImage : DmcImage := { DmcImage.reset with
  version := 1
  ecdsa := bytesBE 48 signedR ++ bytesBE 48 signedR
  lms := signedLms
  ecdsaKey := signedEcdsaKey
  lmsKey := [] }
def signedBytes : List Byte := signedImage.signed

/-- The root that the path of an LMS signature leads to, and a key that holds it, for zeros as the identifier. -/
def lmsRoot (I msg sig : List Byte) : List Byte :=
  let q := natBE (slice sig 0 4)
  treeRoot I (tabList (fun i => slice sig (2188 + 32 * i) 32) 0 10) (1024 + q)
    (sha256 (I ++ bytesBE 4 (1024 + q) ++ bytesBE 2 0x8282 ++ otsKey I q msg (slice sig 8 2176)))
def lmsKeyOf (root : List Byte) : List Byte := bytesBE 4 6 ++ bytesBE 4 3 ++ List.replicate 16 0 ++ root
def signedLmsKey : List Byte := lmsKeyOf (lmsRoot (List.replicate 16 0) signedBytes signedLms)

theorem sha256Block_length {h b : List _} (hl : h.length = 8) : (sha256Block h b).length = 8 := by
  have step : ∀ (ks : List (Word32 × Word32)) (x : List Word32), x.length = 8 → (ks.foldl sha256Round x).length = 8 := by
    intro ks
    induction ks with
    | nil => exact fun _ hx => hx
    | cons k r ih =>
      intro x hx
      refine ih _ ?_
      match x, hx with
      | [_, _, _, _, _, _, _, _], _ => rfl
  simp only [sha256Block, List.length_map, List.length_zip, step _ _ hl, hl, Nat.min_self]

theorem sha256Blocks_length (k : Nat) : ∀ (bs : List Byte) (h : List Word32), h.length = 8 → (sha256Blocks k bs h).length = 8 := by
  induction k with
  | zero => exact fun _ _ hl => hl
  | succ k ih => exact fun _ _ hl => ih _ _ (sha256Block_length hl)

theorem bytesBE_length (k n : Nat) : (bytesBE k n).length = k := by
  induction k with
  | zero => rfl
  | succ k ih => simp [bytesBE, ih]

theorem sha256_length (bs : List Byte) : (sha256 bs).length = 32 := by
  simp only [sha256, List.length_flatten, List.map_map, Function.comp_def, bytesBE_length, List.map_const', List.sum_replicate]
  rw [sha256Blocks_length _ _ _ rfl]; rfl

theorem treeRoot_length (I : List Byte) (path : List (List Byte)) : ∀ (node : Nat) (v : List Byte), v.length = 32 →
    (treeRoot I path node v).length = 32 := by
  induction path with
  | nil => exact fun _ _ hv => hv
  | cons _ r ih => exact fun _ _ _ => ih _ _ (sha256_length _)

theorem lmsRoot_length (I msg sig : List Byte) : (lmsRoot I msg sig).length = 32 := treeRoot_length _ _ _ _ (sha256_length _)

theorem lmsKeyOf_fields {root : List Byte} (h : root.length = 32) : slice (lmsKeyOf root) 8 16 = List.replicate 16 0 ∧
    slice (lmsKeyOf root) 24 32 = root ∧ natBE (slice (lmsKeyOf root) 0 4) = 6 ∧ natBE (slice (lmsKeyOf root) 4 4) = 3 ∧
    (lmsKeyOf root).length = 56 := by
  refine ⟨by simp [lmsKeyOf, slice, bytesBE], ?_, rfl, rfl, by simp [lmsKeyOf, bytesBE_length, h]⟩
  simp [lmsKeyOf, slice, bytesBE, ← h]

theorem lms_verifies {root msg sig : List Byte} (h : root = lmsRoot (List.replicate 16 0) msg sig) (hl : sig.length = 2508)
    (ht : natBE (slice sig 4 4) = 3) (ht' : natBE (slice sig 2184 4) = 6) (hq : natBE (slice sig 0 4) < 1024) :
    lmsVerifies (lmsKeyOf root) msg sig = true := by
  obtain ⟨h1, h2, h3, h4, h5⟩ := lmsKeyOf_fields (root := root) (h ▸ lmsRoot_length _ _ _)
  simp only [lmsVerifies, h1, h2, h3, h4, h5, hl, ht, ht', hq, beq_self_eq_true, decide_true, Bool.and_self, Bool.true_and]
  exact beq_iff_eq.mpr h.symm

theorem signedLms_fields : signedLms.length = 2508 ∧ natBE (slice signedLms 4 4) = 3 ∧ natBE (slice signedLms 2184 4) = 6 ∧
    natBE (slice signedLms 0 4) < 1024 := by decide +kernel

theorem ecdsa_verifies : ecdsaVerifies signedEcdsaKey signedBytes (bytesBE 48 signedR ++ bytesBE 48 signedR) = true := by decide +kernel
theorem digest_empty : sha384 [] = emptyDigest := by decide +kernel

/-- The image with that key, in both banks under fuses that hold its keys' hashes, is accepted. -/
def acceptedImage : DmcImage := { signedImage with lmsKey := signedLmsKey }
def acceptedFlash : Flash := { Flash.reset with
  images := List.replicate 2 (List.replicate 4 acceptedImage)
  ecdsaHash := sha384 signedEcdsaKey
  lmsHash := sha384 signedLmsKey }

theorem acceptedImage_accepted : acceptedImage.accepted acceptedFlash = true := by
  obtain ⟨h1, h2, h3, h4⟩ := signedLms_fields
  have hl : lmsVerifies acceptedImage.lmsKey acceptedImage.signed acceptedImage.lms = true := lms_verifies rfl h1 h2 h3 h4
  have he : ecdsaVerifies acceptedImage.ecdsaKey acceptedImage.signed acceptedImage.ecdsa = true := ecdsa_verifies
  have hd : acceptedImage.digest = sha384 acceptedImage.body := digest_empty.symm
  have hk : sha384 acceptedImage.ecdsaKey = acceptedFlash.ecdsaHash ∧ sha384 acceptedImage.lmsKey = acceptedFlash.lmsHash := by
    simp only [acceptedFlash, acceptedImage, signedImage, and_self]
  simp only [DmcImage.accepted, hl, he, hd, hk, beq_self_eq_true, Bool.and_true]
  rfl

theorem test_ResetsAndBoot_accepted_witness : acceptedFlash.rejected = none := by
  have h : ∀ k < 4, acceptedFlash.bankImages[k]? = some acceptedImage := by
    intro k hk
    interval_cases k <;> rfl
  simp only [Flash.rejected, List.find?_eq_none, List.mem_range]
  intro k hk
  simp [h k hk, acceptedImage_accepted]

/-! ### Worked examples of the spec -/

/-- The example of R22: guards 1 to 3 under MD = 0x00161417 with LIVE, p4 and p5 as given. -/
def r22 : Group := { grp with
  md := 0x00161417
  live := 0xFFFF
  p := (grp.p.set 4 0x0F0F).set 5 0xFFFF000000000003 }

theorem test_guard_r22 : r22.active 1 = 0xF0F0 ∧ r22.active 2 = 0 ∧ r22.active 3 = 3 ∧ r22.active 0 = 0xFFFF := by decide +kernel

/-- R75's example: VMOVI v5, -3 ?g2, and a word with a bit set in its unused va field. -/
theorem test_vmovi_r75 : decodeWord 0x720A03FD = .ok (.vmovi 2 5 (-3)) ∧
    (match decodeWord 0x720A07FD with
     | .error e => ((BitVec.ofNat 3 e.step).append (0x720A07FD : Word32)).zeroExtend 64
     | .ok _ => (0 : Word)) = 0x4720A07FD := by decide +kernel

/-- R116's example under i8x4: VADD wraps, VADDS clamps with SAT. -/
theorem test_vadd_r116 : perElem .i8x4 (fun j => wrapInt .i8x4 (elemInt .i8x4 (elemAt .i8x4 0x7F0580F0 j) + elemInt .i8x4 (elemAt .i8x4 0x0103FF20 j))) =
      (0x80087F10, 0) ∧
    perElem .i8x4 (fun j => clampElem .i8x4 (elemInt .i8x4 (elemAt .i8x4 0x7F0580F0 j) + elemInt .i8x4 (elemAt .i8x4 0x0103FF20 j))) =
      (0x7F088010, flSat) := by decide +kernel

/-- The same by a step: VADDS v4, v5, v6 from its word. -/
theorem test_vadds_step : decodeWord 0x7C081430 = .ok (.vadds 0 4 5 6) ∧
    (match exec (.vadds 0 4 5 6) (withG fun g => { g with
       md := 0x000C4104
       v := (put (put g.v 5 (Vector.replicate 64 0x7F0580F0)) 6 (Vector.replicate 64 0x0103FF20)) }) with
     | .next t => t.g.lane 4 63 == 0x7F088010 && t.g.fl == 0x10 && t.g.pc == 0x2004
     | _ => false) = true := by decide +kernel

/-- R85: the four results of a division by zero, and −2^63 by −1. -/
theorem test_div_r85 : (match exec (.div 1 2 0) base, exec (.remn 1 2 0) base, exec (.div 1 4 3) base, exec (.rem 1 4 3) base with
    | .next a, .next b, .next c, .next d => a.g.sReg 1 == BitVec.allOnes 64 && b.g.sReg 1 == 7 &&
      c.g.sReg 1 == 0x8000000000000000 && d.g.sReg 1 == 0
    | _, _, _, _ => false) = true := by decide +kernel

/-- Conversions: 1.5 · 2^−15 ties to 0x08 in c8; 0.625 to 0x1 in e2m1, with UNF and INX. -/
theorem test_narrow_examples : (Elem.c8.encode 0 false (.fin false 3 (-16))).1 = 0x08 ∧
    Elem.e2m1.encode 0 false (.fin false 5 (-3)) = (1, flUnf ||| flInx) := by decide +kernel

/-- The worked alignment of R56: 3.5, 1.75 · 2^−10 and 1.5 · 2^−14 under W = 15. -/
theorem test_align_r56 : alignBlock [.fin false 7 (-1), .fin false 7 (-12), .fin false 3 (-15)] 15 = some ([28672, 14, 0], -13) := by
  decide +kernel

/-- Its saturation example: D = 3,211,264 with T = 243 exceeds the A96 range. -/
theorem test_saturation_r57 : roundA96 false 3211264 243 = (BitVec.ofNat 96 (510 * 2 ^ 86 + (2 ^ 86 - 1)), flSat) := by decide +kernel

/-- A macro with one integer in its first cells, and zeros behind. -/
theorem cell_replicate (k n : Nat) : ({ Macro.reset with cells := List.replicate k 3 } : Macro).cell n = if n < k then 3 else 0 := by
  by_cases h : n < k <;> simp [Macro.cell, Macro.reset, List.getD_eq_getElem?_getD, h]

/-- R181's example: every element of A is 2, every cell 3, in columns 16 to 31 of the macro, the accumulators +0. -/
theorem test_mma_r181 : accumulate { Macro.reset with cells := List.replicate 4096 3 } ⟨1, 3, 0x00200011, 0x00200011, []⟩
    ⟨leNat (List.replicate 64 2), 0, [], []⟩ 0 0 = (0x41E000000000000000000000, 0) := by
  simp only [accumulate, cell_replicate]
  decide +kernel

/-- R322's example: the indices of VA 0x00123456789ABC00; R2's: c45 lies on d2. -/
theorem test_page_r322 : levelPage 0 0x00123456789ABC00 % 2 ^ 13 = 0x48D ∧ levelPage 1 0x00123456789ABC00 % 2 ^ 13 = 0x2B3 ∧
    levelPage 2 0x00123456789ABC00 % 2 ^ 13 = 0x189A ∧ colDie 45 = 2 := by decide +kernel

/-- R323's example: a HOME 4 page in the vault of c9 at offset 0x01230000, readable and writable, key 3, generation 5. -/
theorem test_pte_r323 : (match ((base.modCtx 0 fun c => { c with keyCount := 4 }).modCol 0 fun c =>
      { c with stlb := [⟨0, 2, 0, 0x0050900001230387⟩] }).translate (portAgent 0 0) 8 8 .readWrite with
    | .ok x => x.site == .mem (vaultLoc 9 0x01230008) && x.key == 3 && x.gen == 5 && x.home == 4
    | .error _ => false) = true := by decide +kernel

/-- SHFLX with 1 swaps neighbouring lanes (R129). -/
theorem test_shflx_r129 : (match exec (.shflx 0 10 11 6) (withG fun g => { g with v := put g.v 11 (Vector.ofFn fun (L : Fin 64) => BitVec.ofNat 32 L.val) }) with
    | .next t => t.g.lane 10 0 == 1 && t.g.lane 10 63 == 62
    | _ => false) = true := by decide +kernel

/-- ST then LD of the same eight bytes, one step each (R88, R89). -/
theorem test_store_load : (match exec (.st 3 5 8) base with
    | .next t => match exec (.ld 7 5 8) t with
      | .next u => u.g.sReg 7 == BitVec.allOnes 64 && u.mem.wf
      | _ => false
    | _ => false) = true := by decide +kernel

/-- A trap and ERET (R191, R194): back at the trapping instruction with MD as it was. -/
theorem test_trap_eret : (match exec (.trap 5) base with
    | .next t => match exec .eret t with
      | .next u => t.g.tcause == 0x1E && t.g.taddr == 5 && t.g.pc == 0x1000 && u.g.pc == 0x2000 && u.g.md == base.g.md && !u.g.hnd
      | _ => false
    | _ => false) = true := by decide +kernel

end Sys2Proof.Tests
end

section
/-! The bytes of memory: a read after a write of a run (R5, R356). -/
namespace Sys2Proof.Machine
set_option Elab.async false

/-- A run written byte by byte: its own bytes at its locations, and elsewhere what was there. -/
theorem cellsGet_cellsPutAll_run (base : Blank) (bs : List Byte) (m : List Host.Cell) (loc a : Nat) :
    cellsGet base (cellsPutAll base m ((tabList id loc bs.length).zip bs)) a =
      if loc ≤ a ∧ a < loc + bs.length then bs.getD (a - loc) 0 else cellsGet base m a := by
  induction bs generalizing m loc with
  | nil => simp [tabList, cellsPutAll]
  | cons b r ih =>
    simp only [List.length_cons, tabList, id, List.zip_cons_cons, cellsPutAll]
    rw [ih, cellsGet_cellsSet]
    rcases Nat.lt_trichotomy a loc with h | rfl | h
    · rw [if_neg (by omega), if_neg (by omega), if_neg (by omega)]
    · simp
    · obtain ⟨i, rfl⟩ : ∃ i, a = loc + 1 + i := ⟨a - (loc + 1), by omega⟩
      have hi : loc + 1 + i - loc = i + 1 := by omega
      rw [if_neg (by omega : loc + 1 + i ≠ loc), hi, List.getD_cons_succ, Nat.add_sub_cancel_left]
      simp only [show (loc + 1 ≤ loc + 1 + i ∧ loc + 1 + i < loc + 1 + r.length) ↔
        (loc ≤ loc + 1 + i ∧ loc + 1 + i < loc + (r.length + 1)) by omega]

/-- Under a slot without encryption a run is stored as it is (R356). -/
theorem Memory.storedRun_plain {m : Memory} {k : KeySlot} (hk : k.xts = false) (loc : Nat) (bs : List Byte) :
    m.storedRun k loc bs = (tabList id loc bs.length).zip bs := by
  simp [Memory.storedRun, hk]

/-- Where no sector is poisoned and no stack is lost, poison keeps no byte back (R354). -/
theorem Memory.accepts_clean {m : Memory} (hp : m.poison = []) (hd : m.dead = none) (loc len a : Nat) :
    m.accepts loc len a = true := by
  simp [Memory.accepts, Memory.sectorPoisoned, hp, hd]

/-- Settles O30: the store writes the run byte by byte, and nothing keeps a byte back. -/
theorem readAfterWrite : Obligations.ReadAfterWrite := by
  intro m k loc bs a hk hp hd
  have stored : (m.store k loc bs).cells = cellsPutAll m.base m.cells ((tabList id loc bs.length).zip bs) := by
    simp only [Memory.store, Memory.storedRun_plain hk, Memory.accepts_clean hp hd, List.filter_true]
  rw [stored]
  exact cellsGet_cellsPutAll_run m.base bs m.cells loc a

end Sys2Proof.Machine
end

section
/-! Every operation of the machine keeps the canonical form of memory: how the form is carried through branches, folds and the ends of
instructions, and one lemma for each operation, in the order in which the model defines them. -/
namespace Sys2Proof.Machine
open State
-- One proof at a time: proofs elaborated side by side each take a thread and its stack.
set_option Elab.async false

/-! ### How the form is carried -/

/-- Whichever branch is taken, the form stands. -/
theorem ite_wf {c : Prop} [Decidable c] {s t : State} (hs : s.mem.wf = true) (ht : t.mem.wf = true) :
    (if c then s else t).mem.wf = true := by
  split
  · exact hs
  · exact ht

theorem dite_wf {c : Prop} [Decidable c] {f : c → State} {g : ¬c → State} (hf : ∀ hc, (f hc).mem.wf = true)
    (hg : ∀ hc, (g hc).mem.wf = true) : (if hc : c then f hc else g hc).mem.wf = true := by
  split
  · exact hf _
  · exact hg _

/-- A list worked through, each entry keeping the form. -/
theorem foldl_wf {α : Type} {f : State → α → State} {l : List α} {s : State}
    (hf : ∀ (t : State) x, t.mem.wf = true → (f t x).mem.wf = true) (h : s.mem.wf = true) : (l.foldl f s).mem.wf = true := by
  induction l generalizing s with
  | nil => exact h
  | cons x r ih => exact ih (hf s x h)

/-- A stop that has changed the state already leaves memory in its form. -/
def Stop.Wf : Stop → Prop
  | .wait t => t.mem.wf = true
  | _ => True

/-- What a meaning answers holds `P`, and a stop leaves memory in its form. -/
def ResWf {α : Type} (P : α → Prop) : Except Stop α → Prop
  | .ok a => P a
  | .error e => e.Wf

/-- A check, whose answer is of no account: where it stops, it leaves memory in its form. -/
abbrev CheckWf {α : Type} (r : Except Stop α) : Prop := ResWf (fun _ => True) r

/-- A meaning whose state has memory in its form. -/
abbrev StateWf (r : Res) : Prop := ResWf (fun t => t.mem.wf = true) r

/-- Likewise, of a meaning that gives values with its state. -/
abbrev PairWf {α : Type} (r : Except Stop (α × State)) : Prop := ResWf (fun x => x.2.mem.wf = true) r

/-- The state that an outcome goes on to has memory in its form. -/
def NextWf : Host.Outcome State Fault Refusal → Prop
  | .next t => t.mem.wf = true
  | _ => True

theorem ResWf.bind {α β : Type} {Q : α → Prop} {P : β → Prop} {x : Except Stop α} {f : α → Except Stop β} (hx : ResWf Q x)
    (hf : ∀ a, Q a → ResWf P (f a)) : ResWf P (x >>= f) := by
  cases x with
  | ok a => exact hf a hx
  | error e => exact hx

theorem ResWf.ite {α : Type} {P : α → Prop} {c : Prop} [Decidable c] {x y : Except Stop α} (hx : ResWf P x) (hy : ResWf P y) :
    ResWf P (if c then x else y) := by
  split
  · exact hx
  · exact hy

/-- Traps named otherwise wait in the same state. -/
theorem ResWf.mapError_asCause {α : Type} {P : α → Prop} {x : Except Stop α} {c : Cause} (hx : ResWf P x) :
    ResWf P (x.mapError (asCause c)) := by
  cases x with
  | ok a => exact hx
  | error e => cases e <;> exact hx

theorem need_wf {c : Bool} {e : Stop} (he : e.Wf := by exact trivial) : CheckWf (need c e) := by
  cases c
  · exact he
  · trivial

/-! ### Stores, the log and incidents -/

section
variable {s : State} {core : CoreId} {col : ColId} {ctx : CtxId} {j : JournalId} {host : Bool} {line team acc level : Nat} {va : Word}
variable {l : SliceLine} {who : Option Origin} {changed : List (Nat × Byte × Byte)} {tag : Option WriteTag} {lines seen : List Nat}
variable {root : Option Word} {f : State → State} {i : Incident} {t : Trap} {src : FaultSource} {access : Access}
variable {faults : List (Word × Nat)} {r : Res}
variable (h : s.mem.wf = true)
include h

theorem State.trimSlice_wf : (s.trimSlice col host line).mem.wf = true := (s.trimSlice_cells col host line).wf h

theorem State.readLine_wf : (s.readLine col host line).mem.wf = true := (s.readLine_cells col host line).wf h

theorem State.ownLine_wf : (s.ownLine col host line).mem.wf = true := (s.ownLine_cells col host line).wf h

theorem State.dropLine_wf : (s.dropLine l).mem.wf = true := (s.dropLine_cells l).wf h

theorem State.freeLine_wf : (s.freeLine line).mem.wf = true := (s.freeLine_cells line).wf h

theorem State.bufferAll_wf : (s.bufferAll who changed).mem.wf = true :=
  (s.bufferAll_cells who changed).wf h

theorem State.dropPlaces_wf :
    (s.dropPlaces who tag lines).mem.wf = true := ite_wf h h

theorem State.msiJournal_wf : (s.msiJournal j).mem.wf = true := ite_wf h h

theorem State.pageWrite_wf (hf : (f s).mem.wf = true) : (s.pageWrite f).mem.wf = true := ite_wf h hf

theorem State.caused_wf (hf : ∀ t : State, t.mem.wf = true → (f t).mem.wf = true) :
    (s.caused root f).mem.wf = true := hf _ h

theorem State.errorState_wf : (s.errorState ctx).mem.wf = true := publishCtx_wf _ h

/-! ### Taking an exception -/

theorem State.freeGlyphs_wf : (s.freeGlyphs ctx core).mem.wf = true := ite_wf h h

theorem State.redispatch_wf : (s.redispatch team).mem.wf = true := freeGlyphs_wf h

theorem State.halt_wf : (s.halt i).mem.wf = true :=
  have hr := report_wf _ h
  ite_wf (redispatch_wf (report_wf _ hr)) (errorState_wf hr)

theorem State.takeTrap_wf : (s.takeTrap t).mem.wf = true :=
  have hr := reportAll_wf t.incs h
  ite_wf (halt_wf hr) (ite_wf (halt_wf hr) hr)

/-! ### The fault queue, and how an instruction ends -/

theorem State.raiseFault_wf : (s.raiseFault col src ctx va acc level).2.mem.wf = true := by
  unfold State.raiseFault; dsimp only
  repeat' split
  exacts [devKeep_wf _ _ h, physWrite_wf _ _ h, devKeep_wf _ _ h, physWrite_wf _ _ h, h]

theorem State.raiseAll_wf :
    (State.raiseAll access seen faults s).2.mem.wf = true := by
  induction faults generalizing seen s with
  | nil => exact h
  | cons x r ih =>
    unfold State.raiseAll
    split
    · exact ih h
    · exact ih (raiseFault_wf h)

theorem State.parkOn_wf : (s.parkOn access faults).mem.wf = true := raiseAll_wf h

/-- An instruction ends with memory in its form where its meaning does: its own effect, or its stop taken from the state before it. -/
theorem finish_wf  (hr : StateWf r) : NextWf (finish s r) := by
  cases r with
  | ok t => exact hr
  | error e =>
    cases e with
    | trap t => exact takeTrap_wf h
    | park acc faults => exact parkOn_wf h
    | block w => exact h
    | stall => exact h
    | wait t => exact hr

end

end Sys2Proof.Machine
end

section
/-! The accesses of groups keep the form: launch signals, allowance tables, caches and buffers between a core and memory, loads, stores. -/
namespace Sys2Proof.Machine
open State
-- One proof at a time: proofs elaborated side by side each take a thread and its stack.
set_option Elab.async false

section
variable {s : State} {core : CoreId} {col : ColId} {ctx : CtxId} {l : LineId} {off size : Nat} {value : Word} {corr : Word32}
variable {agent : AlAgent} {obj : Nat} {kind : AlKind} {va : Word} {w : AlWait}
variable (h : s.mem.wf = true)
include h

/-! ### Launch signals and allowance tables -/

theorem State.dropLaunch_wf : (s.dropLaunch ctx col l value corr).mem.wf = true := report_wf _ h

theorem State.signalStore_wf : (s.signalStore ctx col off size value corr).mem.wf = true :=
  dite_wf (fun _ => ite_wf h (ite_wf (dropLaunch_wf h) h)) fun _ => h

theorem State.needEntry_wf : (s.needEntry col obj).2.mem.wf = true := by
  unfold State.needEntry; dsimp only
  repeat' split
  all_goals exact h

theorem State.sendReq_wf : (s.sendReq col agent obj kind).mem.wf = true := by
  unfold State.sendReq
  split <;> exact h

theorem State.alWaits_wf : (s.alWaits obj va kind w).mem.wf = true := sendReq_wf h

end

section
variable {s : State} {core : CoreId} {col : ColId} {ctx : CtxId} {host : Bool} {line loc pa va key len team index size : Nat}
  {bs : List Byte}
variable {code : IncCode} {o : Origin} {word : Word} {party : Option Party} {w : Writer} {a : HeldAs} {x : L1Line} {q : L1Line → Bool}
variable {e : CombEntry} {held : CombEntry → Bool} {parts : List Part} {p : Part} {replica : Option Nat} {meets : OldByte → Bool}
variable {pw : PeerWrite} {olds : List OldByte} {value : Nat → Nat} {access : Access} {scope : Scope} {lines : List Nat}
variable (h : s.mem.wf = true)
include h

/-! ### Stores at their homes -/

theorem State.failStore_wf : (s.failStore code o word pa).mem.wf = true := errorState_wf (report_wf _ h)

theorem State.noteRelease_wf : (s.noteRelease party loc len).mem.wf = true := by
  cases party <;> exact h

theorem State.storeHome_wf : (s.storeHome col w loc bs).mem.wf = true := ite_wf (storeLine_wf _ _ _ _ _ h) (storeRunBy_wf _ _ _ _ h)

theorem State.performAt_wf : (s.performAt col w party loc bs).mem.wf = true :=
  foldl_wf (fun _ _ => failStore_wf) (noteRelease_wf (storeHome_wf h))

theorem State.performWrite_wf : (s.performWrite w party loc bs).mem.wf = true := performAt_wf h

theorem State.writeHomeAs_wf : (s.writeHomeAs w a loc bs).mem.wf = true := by
  unfold State.writeHomeAs
  split
  · exact performWrite_wf h
  · exact h

theorem State.writeHome_wf : (s.writeHome w loc bs).mem.wf = true := writeHomeAs_wf h

/-! ### The L1 -/

theorem State.cleanLine_wf : (s.cleanLine x).mem.wf = true := foldl_wf (fun _ _ => writeHomeAs_wf) h

theorem State.cleanWhere_wf : (s.cleanWhere core q).mem.wf = true := foldl_wf (fun _ _ => cleanLine_wf) h

theorem State.cleanL1_wf : (s.cleanL1 core).mem.wf = true := cleanWhere_wf h

theorem State.cleanDrop_wf : (s.cleanDrop core line).mem.wf = true := ite_wf (foldl_wf (fun _ _ => cleanLine_wf) h) h

theorem State.l1Keep_wf : (s.l1Keep core x).mem.wf = true := by
  unfold State.l1Keep; dsimp only
  repeat' split
  exacts [h, cleanDrop_wf h, h]

theorem State.l1Rekey_wf : (s.l1Rekey core line key).mem.wf = true := ite_wf (cleanDrop_wf h) h

theorem State.l1Write_wf : (s.l1Write w party loc bs).mem.wf = true := l1Keep_wf (l1Rekey_wf h)

/-! ### Reductions on their way to memory -/

theorem State.reduceNow_wf : (s.reduceNow e).mem.wf = true := by
  unfold State.reduceNow; dsimp only
  split
  · exact foldl_wf (fun _ _ => failStore_wf) (performAt_wf h)
  · exact performAt_wf h

theorem State.reduceMem_wf : (s.reduceMem e).mem.wf = true := by
  unfold State.reduceMem
  split
  · exact reduceNow_wf h
  · exact h

theorem State.mergeCopies_wf : (s.mergeCopies line).mem.wf = true := ite_wf (foldl_wf (fun _ _ => reduceMem_wf) h) h

theorem State.devReady_wf : (s.devReady pa len).mem.wf = true := devKeep_wf _ _ (foldl_wf (fun _ _ => mergeCopies_wf) h)

theorem State.makeRoom_wf : (s.makeRoom col line).mem.wf = true := by
  unfold State.makeRoom; dsimp only
  repeat' split
  exacts [h, h, mergeCopies_wf h, h]

theorem State.reduceSlice_wf : (s.reduceSlice e).mem.wf = true := by
  have clean := cleanDrop_wf (core := e.who.core) (line := e.loc / 128) h
  have merged := mergeCopies_wf (line := e.loc / 128) clean
  unfold State.reduceSlice; dsimp only
  refine ite_wf (ite_wf ?joined (ite_wf ?other ?new)) (reduceMem_wf merged)
  case joined => exact trimSlice_wf (ite_wf clean (makeRoom_wf clean))
  case other => exact trimSlice_wf (ite_wf merged (makeRoom_wf merged))
  case new => exact trimSlice_wf (ite_wf clean (makeRoom_wf clean))

theorem State.drainComb_wf : (s.drainComb core held).mem.wf = true := ite_wf h (foldl_wf (fun _ _ => reduceSlice_wf) h)

theorem State.combine_wf : (s.combine e).mem.wf = true := by
  have drained {p} := drainComb_wf (core := e.who.core) (held := p) h
  unfold State.combine; dsimp only
  repeat' split
  exacts [h, reduceSlice_wf drained, drained, drained]

theorem State.activateAt_wf : (s.activateAt loc).mem.wf = true := ite_wf h h

theorem State.activate_wf : (s.activate parts).mem.wf = true := by
  refine foldl_wf (fun t p ht => ?_) h
  split
  · exact activateAt_wf ht
  · exact ht

theorem State.settle_wf : (s.settle core parts).mem.wf = true := by
  refine foldl_wf (fun t p ht => ?_) h
  split
  · exact foldl_wf (fun _ _ => mergeCopies_wf) (drainComb_wf ht)
  · exact ht

/-! ### Reading -/

theorem State.dropReplicas_wf : (s.dropReplicas ctx core parts).mem.wf = true := ite_wf h h

theorem State.l1Fetch_wf : (s.l1Fetch w replica loc len).mem.wf = true :=
  have rekeyed := l1Rekey_wf h
  have held := ite_wf (readLine_wf rekeyed) rekeyed
  ite_wf h (ite_wf (ite_wf held (l1Keep_wf held)) (l1Keep_wf rekeyed))

theorem State.noteReads_wf : (s.noteReads w p replica loc len).mem.wf = true := ite_wf h (ite_wf h (ite_wf (foldl_wf (fun _ _ => id) h) h))

theorem State.l1Reads_wf : (s.l1Reads o p).mem.wf = true := foldl_wf (fun _ _ => noteReads_wf) h

theorem State.l1Load_wf : (s.l1Load o p).mem.wf = true := foldl_wf (fun _ _ => l1Fetch_wf) h

theorem State.seen_wf : s.seen.mem.wf = true := ite_wf h h

theorem State.caughtUp_wf : (s.caughtUp meets).mem.wf = true := ite_wf h h

theorem State.catchUp_wf : (s.catchUp parts).mem.wf = true := caughtUp_wf h

/-! ### Writing -/

theorem State.storeSpan_wf : (s.storeSpan w loc bs).mem.wf = true := ite_wf (l1Write_wf h) (writeHome_wf h)

theorem State.storeRunAt_wf : (s.storeRunAt p loc bs).mem.wf = true := ite_wf (storeSpan_wf h) (storeSpan_wf (storeSpan_wf h))

theorem State.putVersion_wf : (s.putVersion o va key loc bs).mem.wf = true := foldl_wf (fun _ _ => trimSlice_wf) (ite_wf h h)

theorem State.noteVersionRelease_wf : (s.noteVersionRelease party loc len).mem.wf = true := by
  cases party <;> exact h

theorem State.notePeer_wf : (s.notePeer party pa len).mem.wf = true := ite_wf h (noteRelease_wf h)

theorem State.sendPeer_notePeer_wf : ((s.sendPeer pw).notePeer party pa len).mem.wf = true := notePeer_wf h

theorem State.storePart_wf : (s.storePart p bs).mem.wf = true := by
  unfold State.storePart
  split
  · exact ite_wf (putVersion_wf h) (storeRunAt_wf h)
  · exact ite_wf (failStore_wf h) (ite_wf (putVersion_wf h) (sendPeer_notePeer_wf h))
  · exact signalStore_wf h
  · exact failStore_wf h

theorem State.storeParts_wf : (s.storeParts parts size value).mem.wf = true :=
  foldl_wf (fun _ _ => storePart_wf) (activate_wf (settle_wf h))

/-! ### Scopes -/

theorem State.widenBy_wf : (s.widenBy core scope).mem.wf = true := by
  unfold State.widenBy Memory.widenMarks
  dsimp only
  split <;> exact h

theorem State.sendOn_wf : (s.sendOn core scope).mem.wf = true :=
  have drained := ite_wf (drainComb_wf h) h
  ite_wf (cleanL1_wf drained) drained

theorem State.admitBy_wf : (s.admitBy scope).mem.wf = true := ite_wf h h

theorem State.releaseBy_wf : (s.releaseBy core scope).mem.wf = true := widenBy_wf (sendOn_wf h)

theorem State.releaseSoon_wf : (s.releaseSoon core scope).mem.wf = true := ite_wf (widenBy_wf (sendOn_wf h)) (sendOn_wf h)

theorem State.acquireBy_wf : (s.acquireBy core scope).mem.wf = true :=
  have drained := ite_wf (drainComb_wf h) h
  have dropped := ite_wf (s := State.dropClean _ _) drained drained
  ite_wf dropped dropped

theorem State.noteScratchRelease_wf : (s.noteScratchRelease team index).mem.wf = true := ite_wf h h

theorem State.noteScratchAcquire_wf : (s.noteScratchAcquire team index).mem.wf = true := ite_wf h h

theorem State.release_wf : (s.release scope).mem.wf = true :=
  have admitted := admitBy_wf (releaseBy_wf h)
  ite_wf (noteScratchRelease_wf admitted) admitted

theorem State.acquire_wf : (s.acquire scope).mem.wf = true :=
  have acquired := acquireBy_wf h
  ite_wf (noteScratchAcquire_wf acquired) acquired

theorem State.recordRelease_wf : (s.recordRelease scope lines).mem.wf = true := ite_wf h h

end

end Sys2Proof.Machine
end

section
/-! The checks of operands and accesses, and the scalar and vector accesses with the atomics, keep the form. -/
namespace Sys2Proof.Machine
open State
-- One proof at a time: proofs elaborated side by side each take a thread and its stack.
set_option Elab.async false

/-! ### Checks -/

section
variable {s : State} {g : Group} {ops named read : List Opnd} {d a : Opnd} {accepts : Nat → Bool} {ss : List SReg} {ps : List PReg}
variable {m ea : Word} {G : Guard} {access : Access} {scalar : Bool} {cuts : List (Nat × Nat × Nat × Nat)} {lanes : List (Nat × Nat)}
variable {parts : List Part} {sp : Space} {size : Nat} {scope : Scope} {who : Releaser} {lines : List Nat} {od : Order}

theorem spanCheck_wf : CheckWf (spanCheck ops) := by
  induction ops with
  | nil => trivial
  | cons o r ih => exact .ite trivial ih

theorem evenCheck_wf : CheckWf (evenCheck ops) := by
  induction ops with
  | nil => trivial
  | cons o r ih => exact .ite trivial ih

theorem Group.budgetCheck_wf : CheckWf (g.budgetCheck ops) := by
  unfold Group.budgetCheck
  split <;> trivial

theorem Group.step6_wf : CheckWf (g.step6 ops) := .bind spanCheck_wf fun _ _ => Group.budgetCheck_wf

theorem Group.step7_wf : CheckWf (g.step7 accepts) := need_wf

theorem State.sound_wf : CheckWf (s.sound ops ss ps) := by
  unfold State.sound; dsimp only
  split <;> trivial

theorem State.operands_wf : CheckWf (s.operands ops accepts ss ps) :=
  .bind Group.step6_wf fun _ _ => .bind Group.step7_wf fun _ _ => .bind sound_wf fun _ _ => evenCheck_wf

theorem State.operandsOf_wf : CheckWf (s.operandsOf m named read accepts ss ps) :=
  .bind Group.step6_wf fun _ _ => .bind Group.step7_wf fun _ _ => .bind sound_wf fun _ _ => .ite trivial evenCheck_wf

theorem State.laneOperands_wf : CheckWf (s.laneOperands d a accepts G) :=
  have rest : CheckWf (if s.g.active G = 0 then .ok () else evenCheck [a, d]) := .ite trivial evenCheck_wf
  .bind Group.step6_wf fun _ _ => .bind Group.step7_wf fun _ _ =>
  .ite (.bind (Q := fun _ => True) trivial fun _ _ => rest) (.bind sound_wf fun _ _ => rest)

theorem State.xlatParts_wf : CheckWf (s.xlatParts access scalar cuts) := by
  unfold State.xlatParts; dsimp only
  repeat' split
  all_goals trivial

theorem scalarAddr_wf : CheckWf (scalarAddr ea) := .bind need_wf fun _ _ => need_wf

theorem State.scalarPart_wf : CheckWf (s.scalarPart access ea) := xlatParts_wf

theorem State.scalarAtom_wf : CheckWf (s.scalarAtom access ea) := .bind scalarAddr_wf fun _ _ => scalarPart_wf

theorem State.boundCheck_wf : CheckWf (s.boundCheck sp size lanes) := by
  unfold State.boundCheck; dsimp only
  split
  · trivial
  · exact need_wf
  · trivial

theorem State.spaceParts_wf : CheckWf (s.spaceParts sp access size lanes) := .bind boundCheck_wf fun _ _ => .ite xlatParts_wf trivial

theorem alignCheck_wf : CheckWf (alignCheck size lanes) := by
  unfold alignCheck; dsimp only
  split <;> trivial

theorem State.atomParts_wf : CheckWf (s.atomParts size lanes) := by
  unfold State.atomParts
  split
  · trivial
  · exact .bind boundCheck_wf fun _ _ => .bind alignCheck_wf fun _ _ => xlatParts_wf

theorem State.banksFree_wf : CheckWf (s.banksFree parts) := need_wf

theorem State.poisonCheck_wf : CheckWf (s.poisonCheck scalar parts) := by
  unfold State.poisonCheck; dsimp only
  split <;> trivial

theorem State.earlierWrites_wf : CheckWf (s.earlierWrites parts) := need_wf

theorem State.objStores_wf : CheckWf (s.objStores scalar parts) := by
  unfold State.objStores
  split
  · exact banksFree_wf
  · trivial

theorem State.versionWrites_wf : CheckWf (s.versionWrites parts) := by
  unfold State.versionWrites
  split
  · trivial
  · exact need_wf

theorem State.versionScope_wf : CheckWf (s.versionScope scope) := need_wf

theorem State.versionSpace_wf : CheckWf (s.versionSpace sp parts) := by
  unfold State.versionSpace
  split
  · exact versionWrites_wf
  · trivial
  · exact need_wf

theorem State.versionReduces_wf : CheckWf (s.versionReduces parts) := need_wf

theorem State.markCheck_wf : CheckWf (s.markCheck who lines) := need_wf

theorem State.scWaits_wf : CheckWf (s.scWaits od) := need_wf

theorem State.impreciseCheck_wf : CheckWf s.impreciseCheck := by
  unfold State.impreciseCheck
  split <;> trivial

end

section
variable {s : State} {core : CoreId} {col : ColId} {scalar : Bool} {first vals : List (Nat × Nat)} {parts : List Part} {wait : State → Stop}
variable {line size x : Nat} {by' : Option Party} {p : Part} {scope : Scope} {od : Order} {f : Nat → Nat → Option Nat} {sent : List Byte}
variable {run : AtomRun} {t : EType} {op : AOp} {lane : Nat → Nat} {word ea : Word} {sp : Space} {olds : List OldByte}
variable {d a : SReg} {v w : VReg} {m : Word} {G : Guard} {imm : BitVec 12} {row : BitVec 11} {sz : Size} {space : PrefSpace}
variable (h : s.mem.wf = true)
include h

/-! ### Loads and stores -/

theorem State.peerReads_wf (hw : ∀ t : State, t.mem.wf = true → (wait t).Wf) : CheckWf (s.peerReads scalar first parts wait) := by
  unfold State.peerReads; dsimp only
  split
  · trivial
  split
  · split <;> trivial
  split
  · trivial
  split
  · split <;> trivial
  · exact hw _ h

theorem State.objReads_wf : CheckWf (s.objReads parts) := by
  unfold State.objReads
  split
  · trivial
  · exact alWaits_wf h

theorem State.loadAfter_wf : PairWf (s.loadAfter first scalar parts) :=
  .bind (peerReads_wf h fun _ ht => ht) fun _ _ => .bind (objReads_wf h) fun _ _ => .bind earlierWrites_wf fun _ _ =>
  .bind banksFree_wf fun _ _ => .bind poisonCheck_wf fun _ _ =>
  seen_wf (foldl_wf (fun _ _ => l1Load_wf) (foldl_wf (fun _ _ => l1Reads_wf) (activate_wf (settle_wf (dropReplicas_wf h)))))

theorem State.loadParts_wf : PairWf (s.loadParts scalar parts) := loadAfter_wf h

theorem State.loadWord_wf : PairWf (s.loadWord ea) :=
  .bind scalarAddr_wf fun _ _ => .bind scalarPart_wf fun _ _ => .bind (loadParts_wf h) fun _ ht => ht

theorem State.releaseFirst_wf : StateWf (s.releaseFirst scope) :=
  .bind versionScope_wf fun _ _ => .bind (need_wf (sendOn_wf h)) fun _ _ => release_wf h

theorem State.releasePart_wf : StateWf (s.releasePart scope od) := .ite (releaseFirst_wf h) h

theorem State.vecLoad_wf {addr : Nat → Nat} : StateWf (s.vecLoad sp v m size addr) :=
  .ite h (.bind spaceParts_wf fun _ _ => .bind (loadParts_wf h) fun _ ht => ht)

theorem State.noteScratch_wf : (s.noteScratch sp parts).mem.wf = true := by
  refine ite_wf (foldl_wf (fun t p ht => ?_) h) h
  split <;> exact ht

theorem State.vecStore_wf {addr : Nat → Nat} : StateWf (s.vecStore sp v m size addr) :=
  .ite h (.bind spaceParts_wf fun _ _ => .bind objStores_wf fun _ _ => .bind versionSpace_wf fun _ _ => storeParts_wf (noteScratch_wf h))

theorem loadOp_wf : NextWf (loadOp s sp G v w d sz) := finish_wf h (.bind operandsOf_wf fun _ _ => vecLoad_wf h)

theorem storeOp_wf : NextWf (storeOp s sp G v w d sz) := finish_wf h (.bind operandsOf_wf fun _ _ => vecStore_wf h)

theorem execVldc_wf : NextWf (execVldc G v d row s) :=
  finish_wf h (.bind operandsOf_wf fun _ _ => .bind need_wf fun _ _ => vecLoad_wf h)

theorem execVstc_wf : NextWf (execVstc G v d row s) :=
  finish_wf h (.bind operandsOf_wf fun _ _ => .bind need_wf fun _ _ => vecStore_wf h)

theorem State.l1Fill_wf {o : Origin} {va key : Nat} : (s.l1Fill o va key line).mem.wf = true := l1Fetch_wf (mergeCopies_wf h)

theorem State.prefLane_wf : (s.prefLane x).mem.wf = true := by
  unfold State.prefLane
  repeat' split
  exacts [l1Fill_wf h, h, h, h]

theorem State.prefRow_wf : (s.prefRow x).mem.wf = true := ite_wf h (activate_wf h)

theorem execPref_wf : NextWf (execPref G v d space s) :=
  finish_wf h (.bind operandsOf_wf fun _ _ => foldl_wf (fun _ _ ht => ite_wf (prefLane_wf ht) (prefRow_wf ht)) h)

theorem execLd_wf : NextWf (execLd d a imm s) := finish_wf h (.bind sound_wf fun _ _ => .bind (loadWord_wf h) fun _ ht => ht)

theorem execSt_wf : NextWf (execSt d a imm s) :=
  finish_wf h (.bind sound_wf fun _ _ => .bind scalarAddr_wf fun _ _ => .bind scalarPart_wf fun _ _ => .bind objStores_wf fun _ _ =>
    .bind versionWrites_wf fun _ _ => storeParts_wf h)

theorem execLdk_wf : NextWf (execLdk d a imm s) := by
  refine finish_wf h (.bind sound_wf fun _ _ => .bind scalarAddr_wf fun _ _ => .bind scalarPart_wf fun _ _ => .bind need_wf fun _ _ => ?_)
  split
  · exact foldl_wf (fun _ _ => mergeCopies_wf) h
  · exact .bind (loadParts_wf h) fun _ ht => ht

/-! ### Atomics and reductions -/

theorem State.atomPlace_wf : (s.atomPlace p).2.mem.wf = true := by
  unfold State.atomPlace
  repeat' split
  exacts [ownLine_wf h, h, h]

theorem State.atomWrite_wf : (s.atomWrite col by' p size x).mem.wf = true := by
  unfold State.atomWrite
  split
  · exact ite_wf (noteVersionRelease_wf (storePart_wf h)) (performAt_wf h)
  · exact storePart_wf h

theorem State.passL1_wf : (s.passL1 parts).mem.wf = true := foldl_wf (fun _ _ => cleanDrop_wf) h

theorem State.lineFree_wf : CheckWf (s.lineFree line) := .ite (.ite h h) trivial

theorem State.holdsDone_wf : CheckWf (s.holdsDone parts) := by
  unfold State.holdsDone
  split
  · trivial
  · exact lineFree_wf h

theorem State.orderEnds_wf : (s.orderEnds scope od parts).mem.wf = true := ite_wf (recordRelease_wf h) h

theorem State.peerAtomics_wf : CheckWf (s.peerAtomics scalar parts) := peerReads_wf h fun _ ht => ht

theorem State.atomLanes_wf : (State.atomLanes size by' f parts sent s).2.mem.wf = true := by
  induction parts generalizing sent s with
  | nil => exact h
  | cons p r ih =>
    refine ih (ite_wf h ?_)
    have placed := atomPlace_wf (p := p) h
    rcases hp : s.atomPlace p with ⟨col, s0⟩
    rw [hp] at placed
    dsimp only
    split
    · exact atomWrite_wf placed
    · exact placed

theorem State.atomReady_wf : (((((s.dropPlaces (some s.origin) none (partLines parts)).settle core parts).passL1 parts).activate
    parts).catchUp parts).mem.wf = true := catchUp_wf (activate_wf (passL1_wf (settle_wf (dropPlaces_wf h))))

theorem State.atomPiece_wf : PairWf (s.atomPiece size run scope od f) := by
  refine .bind (holdsDone_wf h) fun _ _ => ?_
  dsimp only
  have performed {piece c} := atomLanes_wf (size := size) (by' := s.releaser od) (f := f) (sent := run.sent) (parts := piece)
    (atomReady_wf (core := c) (parts := piece) h)
  refine .ite (orderEnds_wf performed) ?_
  refine ite_wf (orderEnds_wf ?_) (orderEnds_wf ?_)
  exacts [ite_wf (acquire_wf performed) performed, ite_wf (acquire_wf performed) performed]

theorem State.atomStart_wf : StateWf (s.atomStart scalar parts scope od) :=
  .bind objStores_wf fun _ _ => .bind poisonCheck_wf fun _ _ => .bind versionWrites_wf fun _ _ => .bind versionScope_wf fun _ _ =>
  .bind markCheck_wf fun _ _ => .bind earlierWrites_wf fun _ _ => .bind (releasePart_wf h) fun _ ht =>
  .bind (peerAtomics_wf ht) fun _ _ => ht

theorem State.returning_wf : PairWf (s.returning scalar size parts scope od f) := by
  unfold State.returning
  split
  · exact atomPiece_wf h
  · exact .bind (atomStart_wf h) fun _ ht => atomPiece_wf ht

theorem execAmov_wf : NextWf (execAmov G v w scope od op s) :=
  finish_wf h (.bind laneOperands_wf fun _ _ => .ite h (.bind atomParts_wf fun _ _ => .bind (returning_wf h) fun _ ht => ht))

theorem execCasv_wf : NextWf (execCasv G v w scope od s) :=
  finish_wf h (.bind laneOperands_wf fun _ _ => .ite h (.bind atomParts_wf fun _ _ => .bind (returning_wf h) fun _ ht => ht))

theorem State.reducePart_wf : (s.reducePart scalar size t op x p).mem.wf = true := by
  unfold State.reducePart
  split
  · exact ite_wf (storePart_wf h) (combine_wf (cleanDrop_wf h))
  · exact ite_wf (failStore_wf h) (sendPeer_notePeer_wf h)
  · exact storePart_wf h

theorem State.reducing_wf : StateWf (s.reducing scalar size parts scope od t op lane) :=
  .bind objStores_wf fun _ _ => .bind versionWrites_wf fun _ _ => .bind versionReduces_wf fun _ _ => .bind (releasePart_wf h) fun _ ht =>
  foldl_wf (fun _ _ => reducePart_wf) (catchUp_wf ht)

theorem execRedv_wf : NextWf (execRedv G v w scope od op s) :=
  finish_wf h (.bind laneOperands_wf fun _ _ => .ite h (.bind atomParts_wf fun _ _ => .bind (reducing_wf h) fun _ ht => ht))

theorem execAmos_wf : NextWf (execAmos d a scope od op s) :=
  finish_wf h (.bind sound_wf fun _ _ => .bind scalarAtom_wf fun _ _ => .bind (returning_wf h) fun _ ht => ht)

theorem execCass_wf : NextWf (execCass d a scope od s) :=
  finish_wf h (.bind sound_wf fun _ _ => .bind need_wf fun _ _ => .bind scalarAtom_wf fun _ _ => .bind (returning_wf h) fun _ ht => ht)

theorem execReds_wf : NextWf (execReds d a scope od op s) :=
  finish_wf h (.bind sound_wf fun _ _ => .bind scalarAtom_wf fun _ _ => .bind (reducing_wf h) fun _ ht => ht)

/-! ### Ordered accesses and fences -/

theorem State.acquireRead_wf : (s.acquireRead scope parts).mem.wf = true := acquire_wf (acquire_wf (acquire_wf h))

theorem execLda_wf : NextWf (execLda d a scope od s) :=
  finish_wf h (.bind sound_wf fun _ _ => .bind scalarAtom_wf fun _ _ => .bind markCheck_wf fun _ _ => .bind scWaits_wf fun _ _ =>
    .bind (loadParts_wf (acquireRead_wf h)) fun _ ht => ht)

theorem State.storeRelease_wf : (s.storeRelease scope od p word).mem.wf = true := by
  unfold State.storeRelease; dsimp only
  split
  · exact ite_wf (noteVersionRelease_wf (storePart_wf h)) (ite_wf (l1Write_wf h) (writeHomeAs_wf (cleanDrop_wf h)))
  · exact ite_wf (storePart_wf h) (ite_wf (noteVersionRelease_wf (storePart_wf h)) (sendPeer_notePeer_wf h))
  · exact storePart_wf h

theorem execStrl_wf : NextWf (execStrl d a scope od s) :=
  finish_wf h (.bind sound_wf fun _ _ => .bind scalarAtom_wf fun _ _ => .bind objStores_wf fun _ _ => .bind versionWrites_wf fun _ _ =>
    .bind (releasePart_wf h) fun _ ht => orderEnds_wf (foldl_wf (fun _ _ => storeRelease_wf) (activate_wf (settle_wf ht))))

theorem execFence_wf : NextWf (execFence scope od s) :=
  finish_wf h (.bind impreciseCheck_wf fun _ _ => .bind (releasePart_wf h) fun _ ht => ite_wf (acquire_wf ht) ht)

theorem State.fenceScratch_wf : s.fenceScratch.mem.wf = true := ite_wf h h

theorem execFenceo_wf : NextWf (execFenceo s) := fenceScratch_wf (drainComb_wf h)

end

end Sys2Proof.Machine
end

section
/-! Allowances, conversions, engine operations, control flow and rendezvous keep the form. -/
namespace Sys2Proof.Machine
open State
-- One proof at a time: proofs elaborated side by side each take a thread and its stack.
set_option Elab.async false

/-! ### Allowances -/

section
variable {s t : State} {core : CoreId} {slot : SlotId} {col home : ColId} {line obj key k : Nat} {A va : Word} {ob : AlObject} {r : AlReq}
variable {rest : List AlReq} {agent : AlAgent} {w : AlWait} {res : AlResult} {body : AlBody} {G : Guard} {d a b : SReg} {v : VReg}
  {p : PReg}
variable {units cap n taken : Nat}

theorem xstop_wf {ea : Word} {acc : Access} {x : XStop} : (xstop ea acc x).Wf := by
  cases x <;> trivial

theorem State.alAddress_wf : CheckWf (s.alAddress A) := by
  refine .bind need_wf fun _ _ => .bind need_wf fun _ _ => ?_
  split
  · trivial
  · exact xstop_wf
  · split
    · refine .bind need_wf fun _ _ => ?_
      split
      · exact .bind need_wf fun _ _ => trivial
      · exact .bind (Q := fun _ => True) trivial fun _ _ => trivial
    · trivial

theorem State.alObject_wf : CheckWf (s.alObject A) := by
  refine .bind alAddress_wf fun x _ => ?_
  dsimp only
  split <;> trivial

/-- Another group in focus: the state is the same but for which of its groups is the current one. -/
theorem State.focus_mem (hf : s.focus core slot = some t) : t.mem = s.mem := by
  unfold State.focus at hf
  split at hf
  · cases hf; rfl
  · split at hf
    · cases hf
    · cases hf; rfl

variable (h : s.mem.wf = true)
include h

theorem State.focus_wf (hf : s.focus core slot = some t) : t.mem.wf = true := by
  rw [focus_mem hf]; exact h

theorem State.dropConsts_wf : (s.dropConsts line).mem.wf = true := h

theorem State.purgeLine_wf : (s.purgeLine line).mem.wf = true := by
  unfold State.purgeLine
  refine dropConsts_wf (freeLine_wf (mergeCopies_wf (foldl_wf (fun u c hu => ?_) h)))
  have drained {held} := drainComb_wf (core := c) (held := held) hu
  exact ite_wf (cleanDrop_wf drained) drained

theorem execAlinit_wf : NextWf (execAlinit d a b s) := by
  refine finish_wf h (.bind need_wf fun _ _ => .bind sound_wf fun _ _ => .bind alAddress_wf fun x _ => ?_)
  dsimp only
  split
  · trivial
  · have purged : ((s.dropPlaces (some s.origin) none [x.1]).purgeLine x.1).mem.wf = true := purgeLine_wf (dropPlaces_wf h)
    exact .ite (alWaits_wf h) (.ite h (.bind (lineFree_wf h) fun _ _ => purged))

theorem execAltake_wf : NextWf (execAltake d a b s) := by
  refine finish_wf h (.bind sound_wf fun _ _ => .bind alObject_wf fun x _ => .ite h ?_)
  split
  · exact .ite h (alWaits_wf h)
  · exact alWaits_wf h

theorem execAltakev_wf : NextWf (execAltakev G p v b s) := by
  refine finish_wf h (.bind operands_wf fun _ _ => .ite h (.bind alObject_wf fun x _ => ?_))
  dsimp only
  split
  · exact .ite (ite_wf (s := s) h h) (alWaits_wf h)
  · exact alWaits_wf h

theorem State.sendGive_wf : (s.sendGive obj A d n taken).mem.wf = true := h

theorem execAlgive_wf : NextWf (execAlgive d a b s) := by
  refine finish_wf h (.bind sound_wf fun _ _ => .bind alObject_wf fun x _ => .ite h ?_)
  have entry := needEntry_wf (col := s.colId) (obj := x.1.obj) h
  split
  next heq =>
    rw [heq] at entry
    exact .ite (sendGive_wf h) (.ite entry (sendGive_wf entry))
  next => exact sendGive_wf h

theorem execAlread_wf : NextWf (execAlread d a s) := finish_wf h (.bind sound_wf fun _ _ => .bind alObject_wf fun _ _ => alWaits_wf h)

theorem execAlfree_wf : NextWf (execAlfree d a s) := finish_wf h (.bind sound_wf fun _ _ => .bind alObject_wf fun _ _ => alWaits_wf h)

theorem State.castAl_wf : (s.castAl home obj body).mem.wf = true := foldl_wf (fun _ _ => id) h

theorem State.startRound_wf : (s.startRound home obj).mem.wf = true := castAl_wf h

theorem State.serveNormal_wf : (State.serveNormal home obj k s).mem.wf = true := by
  induction k generalizing s with
  | zero => exact h
  | succ k ih =>
    unfold State.serveNormal; dsimp only
    split
    · split
      · split
        · exact ite_wf (ih h) (startRound_wf h)
        · exact ite_wf (ih h) (startRound_wf h)
        · exact startRound_wf h
        · exact startRound_wf h
        · exact ih h
      · exact h
    · exact h

theorem done_wf : NextWf (done s) := h

theorem execAllowanceReq_wf : NextWf (execAllowanceReq col home s) := by
  refine done_wf ?_
  split
  · split
    · dsimp only
      split
      · exact h
      · exact serveNormal_wf h
    · exact h
  · exact h

theorem execAllowanceGive_wf : NextWf (execAllowanceGive col home s) := by
  refine done_wf ?_
  split
  · split
    · dsimp only
      split <;> exact h
    · exact h
  · exact h

theorem execAllowanceFlush_wf : NextWf (execAllowanceFlush col home s) := by
  refine done_wf ?_
  split
  · split <;> exact h
  · exact h

theorem execAllowanceAck_wf : NextWf (execAllowanceAck col home s) := by
  refine done_wf ?_
  split
  · split <;> exact h
  · exact h

theorem State.freeObj_wf : (s.freeObj ob key).mem.wf = true := storeRun_wf _ _ _ h

theorem State.drainOne_wf : (s.drainOne ob r rest).mem.wf = true := by
  unfold State.drainOne; dsimp only
  split
  · exact ite_wf h h
  · exact h
  · exact h
  · exact h
  · exact castAl_wf (foldl_wf (fun _ _ => id) (freeObj_wf h))

theorem execAllowanceDrainServe_wf : NextWf (execAllowanceDrainServe obj s) := by
  refine done_wf ?_
  split
  · refine ite_wf ?_ h
    split
    · exact drainOne_wf h
    · exact castAl_wf h
  · exact h

theorem State.alResult_wf : (s.alResult va obj w res).mem.wf = true := by
  unfold State.alResult; dsimp only
  split
  case h_3 => exact takeTrap_wf h
  all_goals exact h

theorem State.alDeliver_wf : (s.alDeliver agent obj res).mem.wf = true := by
  unfold State.alDeliver
  split
  · exact h
  · split
    · exact h
    · have focused := focus_wf h (by assumption)
      split
      · exact ite_wf (alResult_wf focused) h
      · exact h
  · exact h
  · exact h

theorem State.takeTopUp_wf : (s.takeTopUp col home obj n cap).mem.wf = true := by
  refine ite_wf h (ite_wf h ?_)
  have entry := needEntry_wf (col := col) (obj := obj) h
  split
  next heq =>
    rw [heq] at entry
    exact ite_wf entry entry
  next => exact h

theorem execAllowanceGrant_wf : NextWf (execAllowanceGrant home col s) := by
  refine done_wf ?_
  split
  · split
    · exact alDeliver_wf (takeTopUp_wf h)
    · exact h
  · exact h

theorem execAllowanceRecall_wf : NextWf (execAllowanceRecall home col s) := by
  refine done_wf ?_
  split
  next m _ =>
    refine ite_wf h ?_
    have entry := needEntry_wf (s := s.dropAl false home col) (col := col) (obj := m.obj) h
    split
    next heq =>
      rw [heq] at entry
      exact entry
    next => exact h
  next => exact h

theorem execAllowanceRelease_wf : NextWf (execAllowanceRelease home col s) := by
  refine done_wf ?_
  split
  · split <;> exact h
  · exact h

theorem execGiveReply_wf : NextWf (execGiveReply home col s) := by
  refine done_wf ?_
  split
  · split
    · exact alDeliver_wf h
    · exact h
  · exact h

end

/-! ### Conversions and engine operations -/

section
variable {s : State} {i : Instr} {G : Guard} {v w : VReg} {pair : Option (Elem × Elem)} {k team mg : Nat} {c : ConvCode} {slot : BitVec 3}
variable {p : Group → Bool}
variable (h : s.mem.wf = true)
include h

theorem State.begin_wf : (s.begin i).mem.wf = true := ite_wf (s := s) h h

theorem convertOp_wf : NextWf (convertOp s G v w pair k) := by
  refine finish_wf h ?_
  dsimp only
  split
  · exact .bind Group.step6_wf fun _ _ => trivial
  · exact .bind Group.step6_wf fun _ _ => .bind sound_wf fun _ _ => .bind need_wf fun _ _ => .bind evenCheck_wf fun _ _ => h

theorem execCvt_wf : NextWf (execCvt G v w c s) := convertOp_wf h

theorem execCvtFrom_wf : NextWf (execCvtFrom G v w c s) := convertOp_wf h

theorem execQuant_wf : NextWf (execQuant G v w slot s) := by
  refine finish_wf h (.bind Group.step6_wf fun _ _ => .bind Group.step7_wf fun _ _ => .bind sound_wf fun _ _ => ?_)
  dsimp only
  split
  · trivial
  · exact h

theorem execDeq_wf : NextWf (execDeq G v w slot s) := by
  refine finish_wf h (.bind Group.step6_wf fun _ _ => .bind Group.step7_wf fun _ _ => .bind sound_wf fun _ _ => ?_)
  dsimp only
  split
  · trivial
  · exact h

theorem State.drainMmas_wf : s.drainMmas.mem.wf = true := ite_wf h (reportAll_wf _ h)

omit h in
theorem mmasSettled_wf : CheckWf s.mmasSettled := need_wf

theorem State.drainOthers_wf : (s.drainOthers p).mem.wf = true := ite_wf (reportAll_wf _ h) h

theorem State.drainMacro_wf : (s.drainMacro team mg).mem.wf = true := drainOthers_wf (ite_wf (drainMmas_wf h) h)

end

end Sys2Proof.Machine
end

section
/-! Control flow, rendezvous, asynchronous copies, agents and glyphs keep the form. -/
namespace Sys2Proof.Machine
open State
-- One proof at a time: proofs elaborated side by side each take a thread and its stack.
set_option Elab.async false

/-! ### Control flow -/

section
variable {s : State} {ss : List SReg} {ps : List PReg} {off : BitVec 18} {off24 : BitVec 24} {taken : Bool} {target : Word} {a : SReg}
  {p : PReg}
variable {v : VReg} {team : Nat}

theorem targetOk_wf : CheckWf (targetOk target) := need_wf

theorem State.execXlat_wf : CheckWf (s.execXlat target) := by
  unfold State.execXlat
  split
  · trivial
  · exact xstop_wf

variable (h : s.mem.wf = true)
include h

theorem State.spill_wf : StateWf s.spill :=
  .bind need_wf fun _ _ => .bind xlatParts_wf.mapError_asCause fun _ _ => .bind objStores_wf.mapError_asCause fun _ _ =>
  .bind versionWrites_wf fun _ _ => storeParts_wf h

theorem State.push_wf : StateWf (s.push target) := .ite (.bind (spill_wf h) fun _ ht => ht) h

theorem State.refill_wf : StateWf s.refill :=
  .bind xlatParts_wf.mapError_asCause fun _ _ => .bind (loadParts_wf h).mapError_asCause fun _ ht => ht

theorem branchIf_wf : NextWf (branchIf s ss ps off taken) := finish_wf h (.bind sound_wf fun _ _ => .ite (.bind targetOk_wf fun _ _ => h) h)

theorem execBranch_wf : NextWf (execBranch off24 s) := finish_wf h (.bind targetOk_wf fun _ _ => h)

theorem execCall_wf : NextWf (execCall off24 s) := finish_wf h (.bind targetOk_wf fun _ _ => .bind (push_wf h) fun _ ht => ht)

theorem State.landing_wf : CheckWf (s.landing target) := by
  refine .ite ?_ trivial
  split
  · exact need_wf
  · trivial
  · trivial
  · exact h
  · trivial
  · trivial

theorem State.indirect_wf : CheckWf (s.indirect target) :=
  .bind need_wf fun _ _ => .bind need_wf fun _ _ => .bind execXlat_wf fun _ _ => landing_wf h

theorem execJmps_wf : NextWf (execJmps a s) := finish_wf h (.bind sound_wf fun _ _ => .bind (indirect_wf h) fun _ _ => h)

theorem execCalls_wf : NextWf (execCalls a s) :=
  finish_wf h (.bind sound_wf fun _ _ => .bind (indirect_wf h) fun _ _ => .bind (push_wf h) fun _ ht => ht)

theorem execRet_wf : NextWf (execRet s) :=
  finish_wf h (.ite (.bind (.ite trivial (refill_wf h)) fun _ ht => ht) h)

theorem execJmpv_wf : NextWf (execJmpv v s) := by
  refine finish_wf h (.bind operands_wf fun _ _ => ?_)
  dsimp only
  generalize maskOf _ = d
  exact .bind need_wf fun _ _ => .bind (indirect_wf h) fun _ _ => h

theorem execHalt_wf : NextWf (execHalt s) := halt_wf h

theorem execPoll_wf : NextWf (execPoll s) := by
  refine done_wf ?_
  split <;> exact h

theorem State.releaseTeam_wf : (s.releaseTeam team).mem.wf = true :=
  freeGlyphs_wf (ite_wf (s := s.sendOn ((s.teamOf team).getD Team.none).core .dev) (sendOn_wf h) (sendOn_wf h))

end

/-! ### Rendezvous -/

section
variable {s : State} {team pt arrivals n op : Nat} {bytes : Int} {q : Point} {inc : Option IncCode} {p5 : BitVec 5} {a b : SReg}
  {byPhase : Bool}
variable {g : Group}

theorem Group.flagTest_wf : CheckWf g.flagTest := need_wf

theorem State.declared_wf : CheckWf (s.declared p5) := need_wf

theorem State.ready_wf : CheckWf (s.ready p5) := .bind declared_wf fun _ _ => need_wf

theorem State.hasGrid_wf : CheckWf (s.hasGrid p5) := need_wf

theorem State.leader_wf : CheckWf s.leader := need_wf

variable (h : s.mem.wf = true)
include h

theorem State.markFlip_wf : (s.markFlip team pt).mem.wf = true := ite_wf h h

theorem State.putPoint_wf : (s.putPoint team pt q inc).mem.wf = true := by
  unfold State.putPoint; dsimp only
  split
  · exact report_wf _ (ite_wf h (markFlip_wf h))
  · exact ite_wf h (markFlip_wf h)

theorem State.updPoint_wf : (s.updPoint team pt arrivals bytes).mem.wf = true := putPoint_wf h

theorem State.sawCopies_wf : (s.sawCopies pt).mem.wf = true := ite_wf h h

theorem State.observe_wf : (s.observe pt).mem.wf = true := sawCopies_wf (noteScratchAcquire_wf h)

theorem execRdvinit_wf : NextWf (execRdvinit p5 a b s) :=
  finish_wf h (.bind sound_wf fun _ _ => .bind declared_wf fun _ _ => .bind need_wf fun _ _ => .bind need_wf fun _ _ =>
    .bind need_wf fun _ _ => putPoint_wf h)

theorem execArrive_wf : NextWf (execArrive p5 a s) :=
  finish_wf h (.bind ready_wf fun _ _ => .bind (releaseFirst_wf h) fun _ ht => updPoint_wf ht)

theorem execExpect_wf : NextWf (execExpect p5 a s) :=
  finish_wf h (.bind sound_wf fun _ _ => .bind ready_wf fun _ _ => .bind need_wf fun _ _ => updPoint_wf h)

theorem execWaitp_wf : NextWf (execWaitp p5 a s) :=
  have hd := drainMmas_wf h
  finish_wf hd (.bind mmasSettled_wf fun _ _ => .bind impreciseCheck_wf fun _ _ => .bind sound_wf fun _ _ =>
    .bind Group.flagTest_wf fun _ _ => .bind ready_wf fun _ _ => .ite trivial (observe_wf hd))

theorem execWaity_wf : NextWf (execWaity p5 a b s) :=
  finish_wf h (.bind impreciseCheck_wf fun _ _ => .bind sound_wf fun _ _ => .bind ready_wf fun _ _ => .bind need_wf fun _ _ =>
    .bind need_wf fun _ _ => .ite trivial (observe_wf h))

theorem execArwait_wf : NextWf (execArwait p5 s) :=
  have hd := drainMmas_wf h
  finish_wf hd (.bind mmasSettled_wf fun _ _ => .bind impreciseCheck_wf fun _ _ => .bind Group.flagTest_wf fun _ _ =>
    .bind ready_wf fun _ _ =>
    .bind (releaseFirst_wf hd) fun _ ht => .ite (updPoint_wf ht) (observe_wf (updPoint_wf ht)))

theorem execRdvstat_wf : NextWf (execRdvstat p5 a b s) := finish_wf h (.bind declared_wf fun _ _ => h)

theorem State.gridArrive_wf : (s.gridArrive pt n byPhase).mem.wf = true := h

theorem State.garrive_wf : (s.garrive pt).mem.wf = true := ite_wf (acquire_wf h) (gridArrive_wf h)

theorem execGarrive_wf : NextWf (execGarrive p5 s) :=
  finish_wf h (.bind impreciseCheck_wf fun _ _ => .bind hasGrid_wf fun _ _ => .bind leader_wf fun _ _ =>
    .bind (releaseFirst_wf h) fun _ ht =>
    .ite (garrive_wf ht) ht)

theorem execGwait_wf : NextWf (execGwait p5 s) :=
  have hd := drainMmas_wf h
  finish_wf hd (.bind mmasSettled_wf fun _ _ => .bind impreciseCheck_wf fun _ _ => .bind Group.flagTest_wf fun _ _ =>
    .bind hasGrid_wf fun _ _ =>
    .ite (acquire_wf hd) trivial)

theorem State.phaseEnd_wf : (s.phaseEnd pt b).mem.wf = true := ite_wf (acquire_wf h) h

theorem execPhase_wf : NextWf (execPhase p5 a b s) :=
  finish_wf h (.bind impreciseCheck_wf fun _ _ => .bind sound_wf fun _ _ => .bind hasGrid_wf fun _ _ => .bind leader_wf fun _ _ =>
    .bind need_wf fun _ _ => .bind (releaseFirst_wf h) fun _ ht => .ite (phaseEnd_wf ht) ht)

theorem State.wake_wf : s.wake.mem.wf = true := by
  unfold State.wake; dsimp only
  split
  · exact h
  · exact h
  · exact observe_wf (s := { s with g := { s.g with status := .ready } }) h
  · exact observe_wf (s := { s with g := { s.g with status := .ready } }) h
  · exact acquire_wf (s := { s with g := { s.g with status := .ready } }) h
  · have acquired := acquire_wf (s := { s with g := { s.g with status := .ready } }) (scope := .dev) h
    exact ite_wf acquired (garrive_wf acquired)
  · exact phaseEnd_wf (gridArrive_wf (acquire_wf (s := { s with g := { s.g with status := .ready } }) h))
  · exact phaseEnd_wf (s := { s with g := { s.g with status := .ready } }) h
  · exact h

end

/-! ### Asynchronous copies -/

/-- What a stretch of a copy leaves has memory in its form. -/
def CopyOutcome.Wf : CopyOutcome → Prop
  | .waits t => t.mem.wf = true
  | .moved t _ => t.mem.wf = true
  | .stopped t _ _ _ => t.mem.wf = true

theorem CopyOutcome.ite_wf {c : Prop} [Decidable c] {x y : CopyOutcome} (hx : x.Wf) (hy : y.Wf) : (if c then x else y).Wf := by
  split
  · exact hx
  · exact hy

section
variable {s : State} {o : EngineOp} {lines : List Nat} {key x loc n code va op k pt : Nat} {bs : List Byte} {home : Nat → Byte} {sp : Space}
variable {incs : List Incident} {c : CopyShape} {src : FaultSource} {early : Bool} {kind : EngineKind} {addr len unit : Int}
variable {p5 : BitVec 5} {p7 : BitVec 7} {a b : SReg} {v w : VReg} {G : Guard} {sz : PieceSize} {cause : Cause} {R : Word}
  {off : Option Nat}
variable {olds : List OldByte} {lanes : List (Nat × Nat)} {ok : Nat → Nat → Bool}

theorem State.rangeCheck_wf : CheckWf (s.rangeCheck sp addr len unit) := by
  unfold State.rangeCheck
  split
  · exact .bind need_wf fun _ _ => need_wf
  · exact .bind need_wf fun _ _ => .bind need_wf fun _ _ => need_wf

theorem recordStop_wf : CheckWf (recordStop cause R off) := by
  cases off <;> trivial

theorem lanesNeed_wf : CheckWf (lanesNeed cause lanes ok) := by
  unfold lanesNeed; dsimp only
  split <;> trivial

variable (h : s.mem.wf = true)
include h

theorem State.copySettle_wf : (s.copySettle o lines).mem.wf = true := by
  unfold State.copySettle; dsimp only
  split
  · exact foldl_wf (fun _ _ => mergeCopies_wf) (drainComb_wf h)
  · exact foldl_wf (fun _ _ => mergeCopies_wf) h

theorem State.copyToVersion_wf : (s.copyToVersion o key x loc bs home).mem.wf = true := putVersion_wf h

theorem State.noteOlds_wf : (s.noteOlds olds).mem.wf = true := h

theorem State.disown_wf : (s.disown n).mem.wf = true := h

theorem State.engineWrite_wf : (s.engineWrite o sp x bs).mem.wf = true := by
  unfold State.engineWrite; dsimp only
  split
  · exact h
  · split
    · refine ite_wf (copyToVersion_wf h) (ite_wf (noteOlds_wf (disown_wf (writeHomeAs_wf ?_))) (noteOlds_wf (storeRun_wf _ _ _ ?_)))
      all_goals split
      exacts [cleanDrop_wf h, h, cleanDrop_wf h, h]
    · exact ite_wf (copyToVersion_wf h) (sendPeer_notePeer_wf h)
    · exact signalStore_wf h
    · exact h

theorem State.activateAll_wf : (lines.foldl State.activateAt s).mem.wf = true := foldl_wf (fun _ _ => activateAt_wf) h

theorem State.ticked_wf : ({ s with tick := n } : State).mem.wf = true := h

theorem State.copyTurn_wf : (s.copyTurn o c src early).Wf := by
  unfold State.copyTurn; dsimp only
  have settled := copySettle_wf (o := o) (lines := s.copyLines o c o.pos ((c.chunk o.pos).min (o.total - o.pos))) h
  generalize s.copySettle o _ = u at settled ⊢
  refine CopyOutcome.ite_wf settled ?_
  have ahead {locs} := activateAll_wf (lines := locs) (seen_wf settled)
  split
  · exact ahead
  · split
    · exact raiseFault_wf settled
    · exact ahead
    · exact sendReq_wf settled
    · exact ahead
    · exact CopyOutcome.ite_wf (engineWrite_wf (ticked_wf ahead)) ahead
    · exact engineWrite_wf (ticked_wf ahead)

theorem State.copySector_wf : (s.copySector o c src).Wf := copyTurn_wf h

theorem State.copyWritten_wf : (s.copyWritten o n).mem.wf = true := updPoint_wf (ite_wf (s := s.dropOp o.id) h h)

theorem State.copyStops_wf : (s.copyStops o code va incs).mem.wf = true := by
  have reported := reportAll_wf (s := s.dropOp o.id) incs h
  unfold State.copyStops; dsimp only
  split
  · exact reported
  · exact putPoint_wf reported

theorem execCopySectorWritten_wf : NextWf (execCopySectorWritten op s) := by
  refine done_wf ?_
  split
  next o _ =>
    split
    next c _ =>
      have turn := copySector_wf (o := o) (c := c) (src := .copy o.core o.slot o.pc) h
      generalize s.copySector o c (.copy o.core o.slot o.pc) = outcome at turn ⊢
      cases outcome with
      | waits t => exact turn
      | stopped t code va incs => exact copyStops_wf turn
      | moved t n => exact copyWritten_wf (s := t.modOp _ _) turn
    next => exact h
  next => exact h

theorem State.engineAhead_wf : (s.engineAhead op k).mem.wf = true := by
  have settled {o lines} := copySettle_wf (o := o) (lines := lines) h
  unfold State.engineAhead; dsimp only
  split
  · exact h
  · split
    · refine ite_wf settled ?_
      split
      · exact seen_wf (activateAll_wf settled)
      · exact settled
    · refine ite_wf settled ?_
      split
      · exact seen_wf (activateAll_wf settled)
      · exact settled
    · exact ite_wf h (seen_wf h)
    · exact ite_wf h (seen_wf h)

theorem State.beginOp_wf : (s.beginOp pt n kind).mem.wf = true := updPoint_wf (s := { s with ops := _, fresh := _ }) h

theorem execCopy_wf : NextWf (execCopy p5 a b s) :=
  finish_wf h (.bind sound_wf fun _ _ => .bind need_wf fun _ _ => .bind need_wf fun _ _ => .bind declared_wf fun _ _ => .ite h
    (.bind rangeCheck_wf fun _ _ => .bind rangeCheck_wf fun _ _ => beginOp_wf h))

theorem execCopyt_wf : NextWf (execCopyt p5 a b s) :=
  finish_wf h (.bind sound_wf fun _ _ => .bind need_wf fun _ _ => .bind need_wf fun _ _ => .bind xlatParts_wf fun _ _ =>
    .bind (loadParts_wf h) fun _ ht => .bind recordStop_wf fun _ _ => .bind recordStop_wf fun _ _ => .bind declared_wf fun _ _ =>
    .bind rangeCheck_wf fun _ _ => .bind rangeCheck_wf fun _ _ => beginOp_wf ht)

theorem execCopyv_wf : NextWf (execCopyv G p7 v w sz s) :=
  finish_wf h (.bind Group.step6_wf fun _ _ => .bind sound_wf fun _ _ => .ite h (.bind evenCheck_wf fun _ _ => .bind declared_wf fun _ _ =>
    .bind lanesNeed_wf fun _ _ => .bind lanesNeed_wf fun _ _ => .bind lanesNeed_wf fun _ _ => beginOp_wf h))

end

/-! ### Agents and glyphs -/

/-- A write of an agent that is made leaves memory in its form. -/
def AgentWf : Except AgentStop State → Prop
  | .ok t => t.mem.wf = true
  | .error _ => True

section
variable {s : State} {a : Agent} {ctx : CtxId} {rel : Option Party} {va key loc x len : Nat} {bs : List Byte} {tag : Option WriteTag}
variable {acc : Access} {l : Launch} {sa : SReg} {gi : BitVec 8} {pA pB : BitVec 7} {kinds : BitVec 2}
variable (h : s.mem.wf = true)
include h

theorem State.agentRows_wf : (s.agentRows a va len).mem.wf = true := by
  unfold State.agentRows
  split
  · exact activate_wf h
  · exact h

theorem State.agentPerform_wf : (s.agentPerform ctx rel va key loc bs tag).mem.wf = true :=
  foldl_wf (fun _ _ => report_wf _) (noteRelease_wf (storeRun_wf _ _ _ (activateAt_wf h)))

theorem State.agentStore_wf : (s.agentStore ctx rel va key loc bs tag).mem.wf = true := by
  have merged := mergeCopies_wf (line := loc / 128) h
  unfold State.agentStore; dsimp only
  split
  · exact merged
  · exact agentPerform_wf merged

theorem State.agentAdd_wf : (s.agentAdd ctx rel va key loc x tag).mem.wf = true := by
  have merged := mergeCopies_wf (line := loc / 128) h
  unfold State.agentAdd; dsimp only
  split
  · exact merged
  · exact agentPerform_wf merged

theorem State.agentWrite_wf : AgentWf (s.agentWrite a acc va x tag) := by
  unfold State.agentWrite
  cases s.agentParts a acc (laneCuts 0 va 8) with
  | error e => trivial
  | ok ps =>
    cases ps with
    | nil => exact h
    | cons p r =>
      dsimp only [bind, Except.bind]
      split
      · split
        · trivial
        · exact ite_wf (agentAdd_wf h) (agentStore_wf h)
      · split
        · trivial
        · exact sendPeer_notePeer_wf h
      · exact signalStore_wf h
      · trivial

theorem execGlyld_wf : NextWf (execGlyld sa gi s) := by
  refine finish_wf h (.bind sound_wf fun _ _ => .bind need_wf fun _ _ => .bind need_wf fun _ _ => .bind xlatParts_wf fun _ _ =>
    .bind (loadParts_wf h) fun x hx => .bind need_wf fun _ _ => .bind xlatParts_wf fun _ _ => .bind (loadAfter_wf hx) fun y hy => ?_)
  dsimp only
  split
  · trivial
  · split
    · exact .bind need_wf fun _ _ => .bind need_wf fun _ _ => hy
    · exact .bind (Q := fun _ => True) trivial fun _ _ => .bind need_wf fun _ _ => hy

theorem execGlyph_wf : NextWf (execGlyph gi pA pB kinds s) := by
  refine finish_wf h ?_
  dsimp only
  split
  · trivial
  · refine .bind need_wf fun _ _ => ?_
    split
    · trivial
    · exact h

theorem State.tableRows_wf : (s.tableRows a l).mem.wf = true := by
  have rows {t : State} {at' n} (ht : t.mem.wf = true) := agentRows_wf (a := a) (va := at') (len := n) ht
  unfold State.tableRows; dsimp only
  refine ite_wf h ?_
  split
  · split
    · refine foldl_wf (fun t at' ht => ?_) (rows h)
      split
      · exact rows ht
      · exact ht
    · exact h
  · exact h

end

end Sys2Proof.Machine
end

section
/-! Placement, launches, journals and the retirement of teams and grids keep the form. -/
namespace Sys2Proof.Machine
open State
-- One proof at a time: proofs elaborated side by side each take a thread and its stack.
set_option Elab.async false

/-- A state, where there is one, has memory in its form. -/
def OptWf : Option State → Prop
  | some t => t.mem.wf = true
  | none => True

theorem OptWf.map {α : Type} {o : Option α} {f : α → State} (hf : ∀ a, (f a).mem.wf = true) : OptWf (o.map f) := by
  cases o with
  | none => trivial
  | some a => exact hf a

theorem OptWf.map_state {o : Option State} {f : State → State} (ho : OptWf o)
    (hf : ∀ t : State, t.mem.wf = true → (f t).mem.wf = true) : OptWf (o.map f) := by
  cases o with
  | none => trivial
  | some t => exact hf t ho

theorem OptWf.bind {o : Option State} {f : State → Option State} (ho : OptWf o) (hf : ∀ t : State, t.mem.wf = true → OptWf (f t)) :
    OptWf (o.bind f) := by
  cases o with
  | none => trivial
  | some t => exact hf t ho

theorem OptWf.bind_any {α : Type} {o : Option α} {f : α → Option State} (hf : ∀ a, OptWf (f a)) : OptWf (o.bind f) := by
  cases o with
  | none => trivial
  | some a => exact hf a

theorem OptWf.ite {c : Prop} [Decidable c] {x y : Option State} (hx : OptWf x) (hy : OptWf y) : OptWf (if c then x else y) := by
  split
  · exact hx
  · exact hy

theorem OptWf.getD {o : Option State} {s : State} (ho : OptWf o) (h : s.mem.wf = true) : (o.getD s).mem.wf = true := by
  cases o with
  | none => exact h
  | some t => exact ho

/-! ### Placement -/

section
variable {s : State} {x : Grid} {t : Team} {oc : Option CoreId} {core : CoreId} {slot : SlotId} {acc : Access} {va level id k grid : Nat}
variable {ts : List Team}
variable (h : s.mem.wf = true)
include h

theorem State.dropHolds_wf : s.dropHolds.mem.wf = true := ite_wf h h

theorem State.tableFails_wf : (s.tableFails x oc).mem.wf = true := errorState_wf (report_wf _ h)

theorem State.holdTable_wf : (s.holdTable x oc acc va level).mem.wf = true := ite_wf h (raiseFault_wf h)

theorem State.loadGlyphs_wf : (s.loadGlyphs x core).mem.wf = true := by
  refine ite_wf h ?_
  split
  · exact ite_wf (tableRows_wf h) h
  · exact h
  · exact holdTable_wf h
  · exact tableFails_wf h

theorem State.admitTeam_wf : (s.admitTeam x t core).mem.wf = true := by
  have taken {incs units} := takeUnits_wf t core units (reportAll_wf incs h)
  unfold State.admitTeam; dsimp only
  exact loadGlyphs_wf (acquireBy_wf (ite_wf taken taken))

theorem State.admitNext_wf : OptWf (s.admitNext x) := .map fun _ => admitTeam_wf h

theorem State.admitAll_wf : OptWf (State.admitAll id k s) := by
  induction k generalizing s with
  | zero => exact h
  | succ k ih =>
    unfold State.admitAll
    split
    · exact .bind (admitNext_wf h) fun _ ht => ih ht
    · trivial

theorem State.admitEach_wf : OptWf (State.admitEach x ts s) := by
  induction ts generalizing s with
  | nil => exact h
  | cons t r ih => exact .bind_any fun _ => ih (admitTeam_wf h)

theorem State.tryAdmit_wf : OptWf (s.tryAdmit x) := by
  refine .ite (.ite (.bind (admitAll_wf h) fun _ ht => admitEach_wf ht) (.ite (admitEach_wf h) (.bind_any fun _ => admitEach_wf h))) ?_
  split
  · exact admitEach_wf h
  · exact .ite (admitNext_wf h) trivial

theorem State.askTable_wf : (s.askTable x).mem.wf = true := by
  refine ite_wf ?_ h
  split
  · exact holdTable_wf h
  · exact h

theorem execTeamAdmission_wf : NextWf (execTeamAdmission grid s) := by
  refine done_wf ?_
  split
  next x0 _ =>
    generalize hl : List.foldl _ s (s.coresOf x0) = u
    have loaded : u.mem.wf = true := by
      subst hl
      refine foldl_wf (fun t c ht => ?_) h
      split
      · exact loadGlyphs_wf ht
      · exact ht
    dsimp only
    split
    · exact ite_wf (OptWf.getD (.map_state (tryAdmit_wf loaded) fun _ => dropHolds_wf) loaded) (askTable_wf loaded)
    · exact loaded
  next => exact h

theorem execPlacementDiversionTimeout_wf : NextWf (execPlacementDiversionTimeout grid s) := by
  refine done_wf ?_
  split
  · exact ite_wf (s := State.modGrid _ _ _) h h
  · exact h

theorem execHeadTeamHold_wf : NextWf (execHeadTeamHold core s) := by
  refine done_wf ?_
  split
  · split
    · exact foldl_wf (fun _ _ => id) h
    · exact h
  · exact h

theorem execGroupAged_wf : NextWf (execGroupAged core slot s) := h

theorem execYieldHoldExpiry_wf : NextWf (execYieldHoldExpiry core slot s) := h

end

/-! ### Launches -/

section
variable {s : State} {l line : LineId} {value E : Word} {d a b : SReg} {col : ColId} {bin : SpawnBin} {ctx : CtxId}
  {grid n size off va level : Nat}
variable {payload : List Word32} {payloads : Nat → List Word32} {lanes acc : List Nat} {p : PReg} {v : VReg} {G : Guard} {e : QueueEntry}
variable {parent field : Option Nat} {incs : List Incident} {bs : List Byte} {access : Access} {x : Grid} {id i k : Nat}
variable (h : s.mem.wf = true)
include h

theorem State.launchOn_wf : (s.launchOn l value).2.mem.wf = true := by
  unfold State.launchOn; dsimp only
  repeat' split
  exacts [h, h, dropLaunch_wf h, h]

theorem execLaunch_wf : NextWf (execLaunch d a b s) := by
  refine finish_wf h (.bind sound_wf fun _ _ => .bind leader_wf fun _ _ => ?_)
  split
  · exact .bind need_wf fun _ _ => .bind need_wf fun _ _ => .bind (releaseFirst_wf h) fun _ ht => launchOn_wf ht
  · trivial

theorem State.formTeam_wf : (s.formTeam col bin).mem.wf = true := by
  unfold State.formTeam; dsimp only
  split <;> exact h

theorem State.offerRecord_wf : OptWf (s.offerRecord col ctx grid E payload) := by
  unfold State.offerRecord; dsimp only
  split
  · split
    · trivial
    · exact ite_wf (formTeam_wf (s := s.modCol _ _) h) h
  · split
    · trivial
    · exact h

theorem State.offerLanes_wf : (s.offerLanes E payloads lanes acc).2.mem.wf = true := by
  induction lanes generalizing s acc with
  | nil => exact h
  | cons L r ih =>
    unfold State.offerLanes
    have offered := offerRecord_wf (col := s.colId) (ctx := s.ctxId) (grid := s.team.grid) (E := E) (payload := payloads L) h
    split
    next heq =>
      rw [heq] at offered
      exact ih offered
    next => exact h

theorem execSpawn_wf : NextWf (execSpawn G p v b s) :=
  finish_wf h (.bind operands_wf fun _ _ => .ite h (.bind need_wf fun _ _ => .bind need_wf fun _ _ => .bind (releaseFirst_wf h) fun _ ht =>
    offerLanes_wf ht))

theorem execSpawnBinTimer_wf : NextWf (execSpawnBinTimer col n s) := by
  refine done_wf ?_
  split
  · exact ite_wf (formTeam_wf h) h
  · exact h

theorem execLaunchSignalStore_wf : NextWf (execLaunchSignalStore ctx col line size off value s) := done_wf (ite_wf (signalStore_wf h) h)

theorem State.childGone_wf : (s.childGone parent).mem.wf = true := by
  cases parent <;> exact h

theorem State.rejectRecord_wf : (s.rejectRecord col line e field incs).mem.wf = true := childGone_wf (reportAll_wf _ h)

theorem State.acceptRecord_wf : (s.acceptRecord col line e bs).mem.wf = true := h

theorem State.holdEntry_wf : (s.holdEntry col line e access va level).mem.wf = true := raiseFault_wf h

theorem State.checkTable_wf : (s.checkTable col line e).mem.wf = true := by
  unfold State.checkTable; dsimp only
  split
  · exact holdEntry_wf h
  · exact rejectRecord_wf h
  · exact h
  · split
    · exact rejectRecord_wf (tableRows_wf h)
    · exact acceptRecord_wf (tableRows_wf h)

theorem State.checkRecord_wf : (s.checkRecord col line e).mem.wf = true := by
  unfold State.checkRecord
  split
  · exact rejectRecord_wf h
  · exact checkTable_wf h

theorem execLaunchPortRead_wf : NextWf (execLaunchPortRead col line s) := by
  refine done_wf ?_
  split
  · exact h
  · refine ite_wf (checkTable_wf h) ?_
    split
    · exact holdEntry_wf h
    · exact h
    · exact rejectRecord_wf h
    · exact checkRecord_wf (s := State.modLine _ _ _ _) (agentRows_wf h)

theorem State.rejectGrid_wf : (s.rejectGrid x off incs).mem.wf = true := by
  unfold State.rejectGrid; dsimp only
  split
  · exact rejectRecord_wf h
  · exact h

theorem State.pollDeps_wf : (State.pollDeps id i k s).mem.wf = true := by
  induction k generalizing s i with
  | zero => exact h
  | succ k ih =>
    unfold State.pollDeps; dsimp only
    split
    · exact h
    · refine ite_wf (ih h) ?_
      split
      · exact ih (s := State.modGrid _ _ _) (agentRows_wf h)
      · exact ih (s := State.modGrid _ _ _) (raiseFault_wf h)
      · exact ih h
      · exact rejectGrid_wf h

theorem execDependencePoll_wf : NextWf (execDependencePoll grid s) := by
  refine done_wf ?_
  split
  · exact ite_wf (pollDeps_wf h) h
  · exact h

end

/-! ### Journals -/

/-- What a command leaves has memory in its form. -/
def CmdWf : Option (State × CmdStatus × Nat) → Prop
  | some x => x.1.mem.wf = true
  | none => True

theorem CmdWf.ite {c : Prop} [Decidable c] {x y : Option (State × CmdStatus × Nat)} (hx : CmdWf x) (hy : CmdWf y) :
    CmdWf (if c then x else y) := by
  split
  · exact hx
  · exact hy

section
variable {s : State} {j : JournalId} {n k detail op code va : Nat} {bs : List Byte} {st : CmdStatus} {value : BitVec 64}
  {addr word : Word} {add : Bool}
variable {corr : Word32} {o : EngineOp} {incs : List Incident} {f : List Byte → Option (State × CmdStatus × Nat)}
variable (h : s.mem.wf = true)
include h

theorem State.acceptKeep_wf : (s.acceptKeep j n).mem.wf = true := devReady_wf h

theorem State.accept_wf : (s.accept j n bs st detail).mem.wf = true := msiJournal_wf (physWrite_wf _ _ h)

theorem State.acceptBad_wf : (State.acceptBad j k s).mem.wf = true := by
  induction k generalizing s with
  | zero => exact h
  | succ k ih =>
    unfold State.acceptBad
    split
    · split
      · exact ite_wf (ih (accept_wf h)) (acceptKeep_wf h)
      · exact h
    · exact h

theorem State.acceptBads_wf : (s.acceptBads j).mem.wf = true := by
  unfold State.acceptBads
  exact acceptBad_wf h

theorem State.perform_wf (hf : ∀ bs, CmdWf (f bs)) : (s.perform j op f).mem.wf = true := by
  unfold State.perform
  split
  next n bs _ =>
    refine ite_wf (ite_wf (acceptKeep_wf h) ?_) h
    have performed := hf bs
    split
    next heq =>
      rw [heq] at performed
      exact acceptBads_wf (accept_wf performed)
    next => exact h
  next => exact h

theorem execSubmitWrite_wf : NextWf (execSubmitWrite j value s) :=
  done_wf (pageWrite_wf h (ite_wf h (ite_wf (report_wf _ h) (acceptBads_wf (s := s.modJrn _ _) h))))

theorem execAjconsWrite_wf : NextWf (execAjconsWrite j value s) :=
  done_wf (pageWrite_wf h (ite_wf (acceptBads_wf (s := s.modJrn _ _) h) h))

theorem execSeqMismatchReread_wf : NextWf (execSeqMismatchReread j s) := by
  refine done_wf ?_
  split
  · exact ite_wf h (ite_wf (acceptBads_wf h) (ite_wf h (ite_wf (acceptBads_wf (accept_wf h)) (acceptKeep_wf h))))
  · exact h

theorem execJournalLaunch_wf : NextWf (execJournalLaunch j s) :=
  done_wf (perform_wf h fun _ => .ite (report_wf _ h) (signalStore_wf h))

theorem execJournalBarrier_wf : NextWf (execJournalBarrier j s) := done_wf (perform_wf h fun _ => h)

theorem State.signal_wf : (s.signal j addr word add corr).mem.wf = true := by
  unfold State.signal; dsimp only
  have written := agentWrite_wf (a := portAgent (journalCtx j) (s.journalCol j)) (acc := if add then .readWrite else .write)
    (va := addr.toNat)
    (x := word.toNat) (tag := some (.journal j corr)) h
  split
  next heq =>
    rw [heq] at written
    exact written
  next => exact h
  next => exact raiseFault_wf h
  next => exact reportAll_wf _ h

theorem execJournalSignal_wf : NextWf (execJournalSignal j s) := by
  refine done_wf ?_
  split
  · exact acceptBads_wf (signal_wf h)
  · exact perform_wf h fun _ => signal_wf h

theorem execJournalCopy_wf : NextWf (execJournalCopy j s) := done_wf (perform_wf h fun _ => h)

theorem State.notify_wf : (s.notify o n).mem.wf = true := by
  unfold State.notify; dsimp only
  split
  · split
    · exact ite_wf h (updPoint_wf (s := s.dropClean _) h)
    · exact ite_wf h (report_wf _ h)
  · exact h

theorem State.journalStops_wf : (s.journalStops o code va incs).mem.wf = true := by
  have reported := reportAll_wf (s := s.dropOp o.id) incs h
  unfold State.journalStops; dsimp only
  split
  · split
    · exact putPoint_wf reported
    · exact reported
  · exact reported

theorem State.journalDone_wf : (s.journalDone o).mem.wf = true := by
  unfold State.journalDone; dsimp only
  split
  next shape j seq corr notify da dv _ =>
    refine ite_wf h (ite_wf h ?_)
    have written := agentWrite_wf (a := portAgent o.ctx o.col) (acc := .write) (va := da.toNat) (x := dv.toNat)
      (tag := some (.journal j corr)) h
    split
    next heq =>
      rw [heq] at written
      exact written
    next => exact h
    next => exact raiseFault_wf h
    next => exact reportAll_wf (s := s.dropOp o.id) _ h
  next => exact h

theorem execJournalCopySector_wf : NextWf (execJournalCopySector op s) := by
  refine done_wf ?_
  split
  next o _ =>
    split
    next c j _ corr _ _ _ _ =>
      refine acceptBads_wf (ite_wf (journalDone_wf h) ?_)
      have turn := copySector_wf (o := o) (c := c) (src := .journal corr) h
      generalize s.copySector o c (.journal corr) = outcome at turn ⊢
      cases outcome with
      | waits t => exact turn
      | stopped t code va incs => exact journalStops_wf turn
      | moved t n =>
        dsimp only
        have told {f m} := notify_wf (s := t.modOp op f) (o := o) (n := m) turn
        refine ite_wf ?_ told
        split
        · exact journalDone_wf told
        · exact told
    next => exact h
  next => exact h

end

/-! ### Retirement -/

section
variable {s : State} {t : Team} {team grid : Nat} {run : Nat × List Byte} {ctx : CtxId} {x : Grid} {incs : List Incident}
variable (h : s.mem.wf = true)
include h

theorem State.commitFirst_wf : (s.commitFirst t).mem.wf = true :=
  foldl_wf (fun _ _ ht => ite_wf (s := State.keepPlace _ _ _ _) ht ht) (sendOn_wf h)

theorem State.commitRun_wf : (s.commitRun t run).mem.wf = true :=
  ite_wf (ite_wf (failStore_wf h) (sendPeer_notePeer_wf h)) (performAt_wf (mergeCopies_wf (cleanDrop_wf h)))

theorem State.commit_wf : (s.commit t).mem.wf = true :=
  foldl_wf (fun _ _ => noteRelease_wf) (foldl_wf (fun _ _ => commitRun_wf) (dropPlaces_wf (releaseBy_wf h)))

theorem execEarlyCommit_wf : NextWf (execEarlyCommit team s) := by
  refine done_wf ?_
  split
  · exact ite_wf (ite_wf (commitFirst_wf h) (report_wf _ (commit_wf (commitFirst_wf h)))) h
  · exact h

theorem execTeamRetirement_wf : NextWf (execTeamRetirement team s) := by
  refine done_wf ?_
  split
  · have first {t} := ite_wf (c := t.version.isSome) (commitFirst_wf (t := t) h) h
    exact ite_wf (ite_wf first (freeGlyphs_wf (s := { State.modCol _ _ _ with teams := _ }) (ite_wf (commit_wf first) h))) h
  · exact h

theorem State.cleanCores_wf : (s.cleanCores ctx).mem.wf = true := by
  unfold State.cleanCores
  refine foldl_wf (fun _ _ => mergeCopies_wf) (foldl_wf (fun u c hu => ?_) h)
  have drained {held} := drainComb_wf (core := c) (held := held) hu
  exact ite_wf (cleanWhere_wf drained) drained

theorem State.endGrid_wf : (s.endGrid x).mem.wf = true := by
  have gone := childGone_wf (parent := x.parent) h
  unfold State.endGrid; dsimp only
  split <;> exact gone

theorem State.completionFails_wf : (s.completionFails x incs).mem.wf = true := endGrid_wf (errorState_wf (reportAll_wf _ h))

theorem execGridRetirement_wf : NextWf (execGridRetirement grid s) := by
  refine done_wf ?_
  split
  next x _ =>
    have clean := cleanCores_wf (ctx := x.ctx) h
    obtain ⟨u, hu⟩ : ∃ u, s.cleanCores x.ctx = u := ⟨_, rfl⟩
    rw [hu] at clean ⊢
    refine ite_wf (ite_wf (endGrid_wf clean) (ite_wf clean ?_)) h
    have written := agentWrite_wf (a := portAgent x.ctx x.col) (acc := .write) (va := x.launch.doneAddr.toNat)
      (x := x.launch.doneValue.toNat)
      (tag := some (.completion grid)) clean
    split
    next heq =>
      rw [heq] at written
      exact ite_wf written (endGrid_wf written)
    next => exact raiseFault_wf clean
    next => exact clean
    next => exact completionFails_wf clean
  next => exact h

end

end Sys2Proof.Machine
end

section
/-! Modes, host calls, caches, faults and saves keep the form. -/
namespace Sys2Proof.Machine
open State
-- One proof at a time: proofs elaborated side by side each take a thread and its stack.
set_option Elab.async false

/-! ### Modes and special registers -/

section
variable {s : State} {d a : SReg} {ss : List SReg} {value : Word} {mask : BitVec 8} {sel : FlSel} {reg : Sel} {G : Guard} {v : VReg}
variable {imm : BitVec 20} {check : BitVec 3} {word : BitVec 32} {cause : Cause} {why : FetchFault}
variable (h : s.mem.wf = true)
include h

theorem scalarOp_wf : NextWf (scalarOp s d ss value) := finish_wf h (.bind sound_wf fun _ _ => h)

theorem execMode_wf : NextWf (execMode d a mask s) :=
  finish_wf h (.bind sound_wf fun _ _ => .bind need_wf fun _ _ => .bind need_wf fun _ _ => h)

theorem execMdr_wf : NextWf (execMdr d s) := scalarOp_wf h

theorem execFlr_wf : NextWf (execFlr d s) :=
  have drained := drainMmas_wf h
  finish_wf drained (.bind mmasSettled_wf fun _ _ => drained)

theorem execFlclr_wf : NextWf (execFlclr d a sel s) :=
  have drained := drainMmas_wf h
  finish_wf drained (.bind mmasSettled_wf fun _ _ => .bind sound_wf fun _ _ => .bind need_wf fun _ _ => drained)

theorem execSreadScalar_wf : NextWf (execSreadScalar d reg s) := scalarOp_wf h

theorem execSreadVector_wf : NextWf (execSreadVector G v reg s) := finish_wf h (.bind operands_wf fun _ _ => h)

theorem execSwrite_wf : NextWf (execSwrite a reg s) :=
  finish_wf h (.bind sound_wf fun _ _ => .bind need_wf fun _ _ => .bind need_wf fun _ _ => .bind need_wf fun _ _ => h)

theorem execTrap_wf : NextWf (execTrap imm s) := takeTrap_wf h

theorem execEret_wf : NextWf (execEret s) := finish_wf h (.bind need_wf fun _ _ => h)

theorem execIllegalEncoding_wf : NextWf (execIllegalEncoding check word s) := takeTrap_wf h

theorem State.handlerFetchFails_wf : (s.handlerFetchFails cause value).mem.wf = true := halt_wf h

theorem execInstructionFetchFault_wf : NextWf (execInstructionFetchFault why value s) := by
  cases why with
  | peer => exact h
  | recoverable level => exact done_wf (ite_wf (handlerFetchFails_wf h) (parkOn_wf h))
  | access => exact done_wf (ite_wf (handlerFetchFails_wf h) (takeTrap_wf h))
  | poisoned => exact done_wf (ite_wf (handlerFetchFails_wf h) (takeTrap_wf h))

end

/-! ### Host calls -/

section
variable {s : State} {c : HcallRec} {G : Guard} {v w : VReg} {b : SReg} {status : Word32} {replies : List Word32} {col : ColId}
  {value : BitVec 64}
variable (h : s.mem.wf = true)
include h

theorem State.sendHcall_wf : (s.sendHcall c).mem.wf = true := physWrite_wf _ _ (physWrite_wf _ _ h)

theorem execHcall_wf : NextWf (execHcall G v w b s) :=
  finish_wf h (.bind operands_wf fun _ _ => .bind need_wf fun _ _ => .ite h (.bind (releaseFirst_wf h) fun _ ht =>
    have ready := ite_wf (devReady_wf ht) ht
    .ite (sendHcall_wf ready) ready))

theorem State.deliverHcall_wf : (s.deliverHcall c status replies).mem.wf = true :=
  have acquired := acquire_wf (s := { s with g := { s.g with status := .ready, hcall := none } }) h
  ite_wf acquired (takeTrap_wf acquired)

theorem execHreplyWrite_wf : NextWf (execHreplyWrite col value s) := by
  refine done_wf (pageWrite_wf h ?_)
  dsimp only
  split
  · exact h
  · split
    · split
      next hf _ =>
        have focused := focus_wf (s := s.modCol _ _) h hf
        exact ite_wf (deliverHcall_wf focused) focused
      next => exact h
    · exact h

theorem execHqheadWrite_wf : NextWf (execHqheadWrite col value s) := done_wf (pageWrite_wf h h)

end

/-! ### The ways of a slice, translations and cache maintenance -/

section
variable {s : State} {col : ColId} {core : CoreId} {ctx : CtxId} {w line : Nat} {r : WaysReq} {value ea : Word} {d a : SReg}
  {form : SlcfgForm}
variable {tform : TlbForm} {cform : CacheForm} {hit : CtxId → Nat → Bool} {k : PeerId}
variable (h : s.mem.wf = true)
include h

theorem State.modCol_wf {f : ColState → ColState} : (s.modCol col f).mem.wf = true := h

theorem State.drainSlice_wf : (s.drainSlice col).mem.wf = true := foldl_wf (fun _ _ => drainComb_wf) h

/-- Bytes of memory dropped, with whatever else memory keeps of them. -/
theorem State.dropBytes_wf {p : Host.Cell → Bool} {poison badBytes : List Nat} {olds : List OldByte} :
    ({ s with mem := { s.mem with cells := s.mem.cells.filter p, poison, badBytes, olds } } : State).mem.wf = true := by
  rw [Memory.wf_iff] at *
  exact ⟨cellsWf_filter p h.1, h.2⟩

theorem State.resizeWays_wf : (s.resizeWays col ctx w).mem.wf = true :=
  foldl_wf (fun _ _ => trimSlice_wf) (foldl_wf (fun _ _ ht => ite_wf (makeRoom_wf ht) ht) (dropBytes_wf (modCol_wf (drainSlice_wf h))))

theorem State.waysRequest_wf : (s.waysRequest col r).mem.wf = true := by
  unfold State.waysRequest; dsimp only
  refine ite_wf h ?_
  split
  · exact ite_wf h (ite_wf h (resizeWays_wf (s := s.modCol _ _) h))
  · exact ite_wf h h

theorem State.waysNext_wf : (s.waysNext col).mem.wf = true := foldl_wf (fun _ _ => waysRequest_wf) h

theorem State.waysWrite_wf : (s.waysWrite col value).mem.wf = true := ite_wf (waysRequest_wf h) h

theorem State.waysApply_wf : (s.waysApply col).mem.wf = true := by
  unfold State.waysApply; dsimp only
  split
  · exact ite_wf h (waysNext_wf (resizeWays_wf h))
  · exact ite_wf h (waysNext_wf h)
  · exact h

theorem execSlcfg_wf : NextWf (execSlcfg d a form s) := by
  cases form with
  | query => exact finish_wf h h
  | resize =>
    refine finish_wf h (.bind sound_wf fun _ _ => .bind need_wf fun _ _ => .bind need_wf fun _ _ => ?_)
    have resized := resizeWays_wf (col := s.colId) (ctx := s.ctxId) (w := (s.g.sReg a).toNat) h
    exact .ite (ite_wf h (waysRequest_wf h)) (.ite (ite_wf (waysNext_wf h) h) (.ite h (ite_wf (waysNext_wf resized) resized)))

theorem State.performAll_wf : (s.performAll hit).mem.wf = true := by
  unfold State.performAll
  exact foldl_wf (fun _ _ ht => foldl_wf (fun _ _ => cleanDrop_wf) (drainComb_wf ht)) h

theorem waitOrRetire_wf {c : Bool} : StateWf (do need c (.wait s.stallHere); .ok s.retire) := .bind (need_wf h) fun _ _ => h

theorem execTlbinv_wf : NextWf (execTlbinv a tform s) := by
  cases tform with
  | core => exact finish_wf h h
  | page => exact finish_wf h (.bind sound_wf fun _ _ => h)
  | dev =>
    refine finish_wf h (.bind sound_wf fun _ _ => .bind need_wf fun _ _ => .bind need_wf fun _ _ => ?_)
    dsimp only
    have performed {p hit} := performAll_wf (s := s.dropTlb p) (hit := hit) h
    exact waitOrRetire_wf performed

theorem State.cleanKeep_wf : (s.cleanKeep core line).mem.wf = true := cleanWhere_wf h

theorem State.cleanSlice_wf : (s.cleanSlice col line).mem.wf = true := by
  unfold State.cleanSlice; dsimp only
  split
  · exact bufferAll_wf (s := { s with mem := { s.mem with slices := _, dir := _ } }) h
  · exact h

theorem State.dropSlice_wf : (s.dropSlice col line).mem.wf = true := by
  unfold State.dropSlice
  split
  · exact dropLine_wf h
  · exact h

theorem State.maintain_wf : (s.maintain cform line).mem.wf = true := by
  cases cform with
  | clCore => exact h
  | clCol => exact cleanKeep_wf h
  | clDev => exact cleanSlice_wf (cleanKeep_wf h)
  | cliCore => exact cleanDrop_wf h
  | cliCol => exact cleanDrop_wf h
  | cliDev => exact dropSlice_wf (cleanDrop_wf h)

theorem State.maintainPeer_wf : (s.maintainPeer cform k line).mem.wf = true := ite_wf h h

theorem execCachecl_wf : NextWf (execCachecl a cform s) := by
  refine finish_wf h (.bind sound_wf fun _ _ => .bind need_wf fun _ _ => .bind xlatParts_wf fun _ _ => ?_)
  split
  · exact h
  · split
    · exact maintain_wf (mergeCopies_wf (drainComb_wf h))
    · exact maintainPeer_wf h
    · exact h

theorem execEvrd_wf : NextWf (execEvrd d s) := h

end

/-! ### Writes that are answered, and faults -/

section
variable {s : State} {tag : Option WriteTag} {n va : Nat} {w : PeerWrite} {core : CoreId} {slot : SlotId} {reply : PeerReply} {col : ColId}
variable {holder : Holder} {old new : KeptFault} {o : EngineOp} {l : LineId} {e : QueueEntry} {refused : Bool} {wt : Waiter}
  {value : BitVec 64}
variable (h : s.mem.wf = true)
include h

theorem State.writeDone_wf : (s.writeDone tag n).mem.wf = true := by
  unfold State.writeDone
  split
  · split
    · split
      · exact copyWritten_wf h
      · exact notify_wf h
    · exact h
  · split
    · exact ite_wf h (endGrid_wf h)
    · exact h
  · exact h

theorem State.failPeerWrite_wf : (s.failPeerWrite w).mem.wf = true := by
  unfold State.failPeerWrite; dsimp only
  split
  · split
    · split
      · exact acceptBads_wf (journalStops_wf h)
      · exact copyStops_wf h
    · exact h
  · split
    · exact completionFails_wf h
    · exact h
  · exact report_wf _ h
  · split
    · exact failStore_wf h
    · exact report_wf _ h

theorem execWaitWake_wf : NextWf (execWaitWake core slot s) := by
  refine done_wf ?_
  split
  · exact h
  · have focused := focus_wf h (by assumption)
    refine ite_wf ?_ h
    split
    · split
      · exact deliverHcall_wf focused
      · exact h
    · exact wake_wf focused

theorem execLoadDataReturn_wf : NextWf (execLoadDataReturn core slot reply s) := done_wf (ite_wf h h)

theorem State.setFault_wf : (s.setFault col holder old new).mem.wf = true := by
  cases holder <;> exact h

theorem State.refuseOp_wf : (s.refuseOp o va).mem.wf = true := by
  unfold State.refuseOp
  split
  · exact acceptBads_wf (ite_wf (report_wf (s := s.dropOp _) _ h) (journalStops_wf h))
  · exact copyStops_wf h

theorem State.refuseEntry_wf : (s.refuseEntry col l e).mem.wf = true := rejectRecord_wf h

theorem State.serve_wf : (s.serve col refused wt).mem.wf = true := by
  unfold State.serve; dsimp only
  split
  · exact h
  · split
    · exact ite_wf (refuseOp_wf h) h
    · exact h
  · exact ite_wf (refuseEntry_wf h) h
  · split
    · exact ite_wf (rejectGrid_wf h) h
    · exact h
  · split
    · exact ite_wf (completionFails_wf h) h
    · exact h
  · split
    · exact ite_wf (tableFails_wf (s := s.modGrid _ _) h) h
    · exact h
  · split
    · exact acceptBads_wf (ite_wf (s := State.modJrn _ _ _) (report_wf _ h) (signal_wf h))
    · exact h

theorem execFqdoneWrite_wf : NextWf (execFqdoneWrite col value s) := by
  refine done_wf (pageWrite_wf h ?_)
  dsimp only
  split
  · exact h
  · exact foldl_wf (fun _ _ => serve_wf) h

theorem State.enterQueue_wf : (s.enterQueue col wt).mem.wf = true := setFault_wf (raiseFault_wf h)

theorem State.queueFaults_wf : (s.queueFaults col).mem.wf = true := foldl_wf (fun _ _ => enterQueue_wf) h

theorem execFqheadWrite_wf : NextWf (execFqheadWrite col value s) := done_wf (pageWrite_wf h (queueFaults_wf (s := s.modCol _ _) h))

end

/-! ### Saves -/

section
variable {s : State} {ctx : CtxId} {t : Team} {place : Place} {cause : Option Word} {sets : List (List Team)} {team : Nat}
variable (h : s.mem.wf = true)
include h

theorem State.writeArea_wf : (s.writeArea ctx).mem.wf = true := physWrite_wf _ _ h

theorem State.discard_wf : (s.discard t place cause).mem.wf = true := redispatch_wf (report_wf _ h)

theorem State.dropGroups_wf : (s.dropGroups team).mem.wf = true := h

theorem State.modTeam_wf {f : Team → Team} : (s.modTeam team f).mem.wf = true := h

theorem State.saveTeam_wf : (s.saveTeam t).mem.wf = true := by
  have released := releaseSoon_wf (core := t.core) (scope := .dev) h
  exact ite_wf (discard_wf released)
    (freeGlyphs_wf (dropGroups_wf (modTeam_wf (reportAll_wf _ (drainOthers_wf (ite_wf (drainMmas_wf released) released))))))

theorem State.stopCtx_wf : (s.stopCtx ctx).mem.wf = true := publishCtx_wf _ h

theorem State.finishSave_wf : (s.finishSave ctx).mem.wf = true := ite_wf h (publishCtx_wf _ h)

theorem State.saveSets_wf : (State.saveSets ctx sets s).1.mem.wf = true := by
  induction sets generalizing s with
  | nil => exact finishSave_wf h
  | cons set rest ih =>
    have sent := foldl_wf (l := set) (f := fun (u : State) t => u.sendOn t.core .dev) (fun _ _ => sendOn_wf) h
    unfold State.saveSets; dsimp only
    repeat' split
    · exact sent
    · exact stopCtx_wf (report_wf _ sent)
    · exact ih (writeArea_wf (foldl_wf (fun _ _ => saveTeam_wf) sent))
    · exact devReady_wf sent

theorem State.saveEnds_wf : (s.saveEnds ctx).mem.wf = true := ite_wf (saveSets_wf h) h

theorem execTeamSave_wf : NextWf (execTeamSave team s) := by
  refine done_wf ?_
  refine foldl_wf (fun _ _ => saveEnds_wf) ?_
  split
  · exact ite_wf (saveSets_wf h) h
  · exact h

theorem execEndGroup_wf : NextWf (execEndGroup s) :=
  have drained := drainMmas_wf h
  finish_wf h (.ite drained (.ite drained (.ite drained (saveEnds_wf (releaseTeam_wf (s := { s.drainMmas with g := _ }) drained)))))

end

end Sys2Proof.Machine
end

section
/-! Deadlines, the fencing of columns, context commands, the memory's own events and checkpoints keep the form. -/
namespace Sys2Proof.Machine
open State
-- One proof at a time: proofs elaborated side by side each take a thread and its stack.
set_option Elab.async false

/-! ### Fencing a column -/

section
variable {s : State} {ctx : CtxId} {root : Option Word} {i : Incident} {is : List Incident} {col : ColId} {id n k grid : Nat} {b : SpawnBin}
variable {t : Team} {x : Grid} {dst : Option ColId} {cause : FenceCause} {teams : List Team} {next : List (Grid × Nat)}
variable (h : s.mem.wf = true)
include h

theorem execPreemptDeadline_wf : NextWf (execPreemptDeadline ctx s) := done_wf (ite_wf (errorState_wf (stopCtx_wf (report_wf _ h))) h)

theorem execDeadlockWatchdog_wf : NextWf (execDeadlockWatchdog ctx s) :=
  done_wf (ite_wf h (ite_wf (errorState_wf (stopCtx_wf (report_wf _ (reportAll_wf _ h)))) (ite_wf (report_wf (s := s.modCtx _ _) _ h) h)))

theorem State.chained_wf : (s.chained root i).2.mem.wf = true := by
  cases root with
  | some r => exact report_wf _ h
  | none => exact report_wf _ h

theorem State.chainAll_wf : (State.chainAll is root s).2.mem.wf = true := by
  induction is generalizing s root with
  | nil => exact h
  | cons i r ih => exact ih (chained_wf h)

theorem State.stopCores_wf : (s.stopCores col).mem.wf = true := foldl_wf (fun _ _ => id) h

theorem State.flushColumn_wf : (s.flushColumn col).mem.wf = true := foldl_wf (fun _ _ => id) h

theorem State.clearMarks_wf : (s.clearMarks col).mem.wf = true := h

theorem State.emptySlice_wf : (s.emptySlice col).mem.wf = true := modCol_wf (resizeWays_wf h)

theorem State.formFull_wf : (State.formFull col id k s).mem.wf = true := by
  induction k generalizing s with
  | zero => exact h
  | succ k ih =>
    unfold State.formFull
    split
    · exact ite_wf (ih (formTeam_wf h)) h
    · exact h

theorem State.putBin_wf : (s.putBin col b).mem.wf = true := by
  unfold State.putBin; dsimp only
  split
  · exact formFull_wf (modCol_wf h)
  · exact h

theorem State.moveBins_wf : (s.moveBins col).mem.wf = true := by
  unfold State.moveBins
  split
  · exact foldl_wf (fun _ _ => putBin_wf) (modCol_wf h)
  · exact h

theorem State.restartTeam_wf : (s.restartTeam t dst).mem.wf = true := redispatch_wf h

theorem State.modGrid_wf {f : Grid → Grid} : (s.modGrid id f).mem.wf = true := h

theorem State.loseTeam_wf : (s.loseTeam t x root).mem.wf = true := errorState_wf (chained_wf h)

theorem State.strike_wf : (s.strike root t).mem.wf = true := ite_wf (report_wf _ (restartTeam_wf h)) (loseTeam_wf h)

theorem State.strikeNext_wf : (s.strikeNext root col x n).mem.wf = true :=
  ite_wf (chained_wf h) (ite_wf (loseTeam_wf h) (modGrid_wf (loseTeam_wf h)))

theorem State.loseUnplaced_wf : (s.loseUnplaced root x).mem.wf = true := ite_wf (modGrid_wf (foldl_wf (fun _ _ => loseTeam_wf) h)) h

theorem State.loseStranded_wf : (s.loseStranded root t).mem.wf = true := ite_wf (loseTeam_wf h) h

theorem State.fenceSteps_wf : (s.fenceSteps col cause root).2.mem.wf = true :=
  chained_wf (moveBins_wf (chainAll_wf (emptySlice_wf (clearMarks_wf (flushColumn_wf (stopCores_wf h))))))

theorem State.strikeAll_wf : (s.strikeAll col root teams next).mem.wf = true :=
  foldl_wf (fun _ _ => loseUnplaced_wf) (foldl_wf (fun _ _ => loseStranded_wf) (foldl_wf (fun _ _ => strikeNext_wf)
    (foldl_wf (fun _ _ => strike_wf) h)))

theorem State.fence_wf : (s.fence col cause root).mem.wf = true := strikeAll_wf (fenceSteps_wf h)

theorem execColumnFence_wf : NextWf (execColumnFence col cause s) := done_wf (ite_wf h (fence_wf h))

end

/-! ### Context commands -/

/-- A command on a context that answers, or that waits, leaves memory in its form. -/
def CtxWf (r : State × Option (CmdStatus × Nat)) : Prop := r.1.mem.wf = true

theorem CtxWf.of {t : State} {r : Option (CmdStatus × Nat)} (ht : t.mem.wf = true) : CtxWf (t, r) := ht

theorem CtxWf.ite {c : Prop} [Decidable c] {x y : State × Option (CmdStatus × Nat)} (hx : CtxWf x) (hy : CtxWf y) :
    CtxWf (if c then x else y) := by
  split
  · exact hx
  · exact hy

section
variable {s : State} {ctx : CtxId} {op k detail : Nat} {f : CtxId → State → State × Option (CmdStatus × Nat)} {j : JournalId}
variable {last : CtxPhase} {x : Shootdown} {vpn : BitVec 39}
variable (h : s.mem.wf = true)
include h

theorem State.performCtx_wf (hf : ∀ c (t : State), t.mem.wf = true → CtxWf (f c t)) : (s.performCtx op f).mem.wf = true := by
  unfold State.performCtx
  split
  next n bs _ =>
    refine ite_wf (ite_wf (acceptKeep_wf h) ?_) h
    have performed := hf (cmdCtx bs) s h
    split
    next heq =>
      rw [heq] at performed
      exact acceptBads_wf (accept_wf performed)
    next heq =>
      rw [heq] at performed
      exact performed
  next => exact h

theorem State.wrongState_wf : CtxWf (s.wrongState ctx) := h

theorem State.dropCtxTlb_wf : (s.dropCtxTlb ctx).mem.wf = true := performAll_wf h

theorem State.modCtx_wf {f : Ctx → Ctx} : (s.modCtx ctx f).mem.wf = true := h

theorem State.modTeams_wf {ts : List Team} : ({ s with teams := ts } : State).mem.wf = true := h

theorem execCtxCreate_wf : NextWf (execCtxCreate s) := by
  refine done_wf (performCtx_wf h fun c t ht => ?_)
  refine .ite (wrongState_wf ht) ?_
  split
  · exact ht
  · exact publishCtx_wf _ ht

theorem execCtxSet_wf : NextWf (execCtxSet s) := by
  refine done_wf (performCtx_wf h fun c t ht => ?_)
  refine .ite (wrongState_wf ht) ?_
  split
  · exact ht
  · exact .ite (.of (dropCtxTlb_wf ht)) (.of (modCtx_wf (modTeams_wf (dropCtxTlb_wf ht))))

theorem execCtxPreempt_wf : NextWf (execCtxPreempt s) := by
  refine done_wf (performCtx_wf h fun c t ht => ?_)
  dsimp only
  split
  · exact saveEnds_wf (publishCtx_wf _ ht)
  · exact .ite (saveSets_wf ht) ht
  · exact wrongState_wf ht

theorem execCtxResume_wf : NextWf (execCtxResume s) := by
  refine done_wf (performCtx_wf h fun c t ht => ?_)
  have moved {l} := foldl_wf (l := l) (f := fun (u : State) (b : ColId × SpawnBin) => u.putBin (u.binHome b.1) b.2) (fun _ _ => putBin_wf)
    (s := { t with savedBins := t.savedBins.filter fun b => b.2.ctx != c }) ht
  exact .ite (wrongState_wf ht) (.ite ht (publishCtx_wf _ (dropHolds_wf moved)))

theorem State.acceptState_wf : (State.acceptState j detail k s).mem.wf = true := by
  induction k generalizing s with
  | zero => exact h
  | succ k ih =>
    unfold State.acceptState
    split
    · exact ite_wf (ih (accept_wf h)) (acceptKeep_wf h)
    · exact h

theorem State.clearCtx_wf : (s.clearCtx ctx).mem.wf = true := h

theorem State.resetCtx_wf : CtxWf (s.resetCtx ctx last) := by
  have dropped := dropCtxTlb_wf (ctx := ctx) h
  have accepted {k} := acceptState_wf (k := k) (j := CtxId.journal ctx) (detail := (s.ctxs.get ctx).stateWord) dropped
  exact .ite (wrongState_wf h) (.ite dropped (.ite accepted (publishCtx_wf _ (clearCtx_wf accepted))))

theorem execCtxReset_wf : NextWf (execCtxReset s) := done_wf (performCtx_wf h fun _ _ => resetCtx_wf)

theorem execCtxDestroy_wf : NextWf (execCtxDestroy s) := by
  refine done_wf (performCtx_wf h fun c t ht => ?_)
  have gone := resetCtx_wf (ctx := c) (last := .free) ht
  dsimp only
  split
  next heq =>
    rw [heq] at gone
    exact gone
  next => exact gone

theorem execCtxStop_wf : NextWf (execCtxStop s) := by
  refine done_wf (performCtx_wf h fun c t ht => ?_)
  split
  · exact stopCtx_wf ht
  · exact stopCtx_wf ht
  · exact wrongState_wf ht

theorem State.shootdown_wf : (s.shootdown x).mem.wf = true := ite_wf h h

theorem State.shootdownDone_wf : (s.shootdownDone x).mem.wf = true := by
  unfold State.shootdownDone
  split
  · exact performAll_wf h
  · exact performAll_wf h
  · exact dropCtxTlb_wf h

theorem State.modDev_wf {d : Device} : ({ s with dev := d } : State).mem.wf = true := h

theorem execShootdownComplete_wf : NextWf (execShootdownComplete s) := by
  refine done_wf ?_
  split
  next x rest _ =>
    have finished := shootdownDone_wf (x := x) h
    exact ite_wf finished (modDev_wf finished)
  next => exact h

end

end Sys2Proof.Machine
end

section
/-! Errors of memory, parity, checkpoints, vaults, the governor and the boot keep the form. -/
namespace Sys2Proof.Machine
open State
-- One proof at a time: proofs elaborated side by side each take a thread and its stack.
set_option Elab.async false

/-! ### Sectors, stacks and parity -/

section
variable {s : State} {loc S bank stack write stripe sector : Nat} {st : Fin 12} {mode : MemMode} {finding : EccFinding} {symbols : List Nat}
variable {sec : Fin 8} {col : ColId} {b : Fin 16} {core : CoreId} {slot : SlotId} {va pa : BitVec 64} {how : StoreFailHow}
variable {cs : List (Nat × Byte)} {u : State} {l : List Nat}
variable (h : s.mem.wf = true)
include h

theorem State.putCells_wf : ({ s with mem := { s.mem with cells := cellsPutAll s.mem.base s.mem.cells cs } } : State).mem.wf = true := by
  rw [Memory.wf_iff] at *
  exact ⟨cellsWf_cellsPutAll _ h.1, h.2⟩

theorem State.rebuildSector_wf : (s.rebuildSector loc).mem.wf = true := putCells_wf h

theorem State.addPoison_wf : ({ s with mem := s.mem.addPoison loc } : State).mem.wf = true := Memory.addPoison_wf loc h

theorem State.stripeReport_wf : s.stripeReport.mem.wf = true := by
  unfold State.stripeReport; dsimp only
  split
  · refine ite_wf h ?_
    split
    · exact report_wf _ h
    · exact h
  · exact h

theorem State.spreadPoison_wf : s.spreadPoison.mem.wf = true :=
  foldl_wf (fun _ _ => loseSector_wf _) (foldl_wf (fun _ _ => poisonSector_wf _) h)

theorem State.loseStack_wf : (s.loseStack st mode).mem.wf = true := by
  unfold State.loseStack; dsimp only
  exact caused_wf (chainAll_wf h) fun _ => spreadPoison_wf

theorem execStackLost_wf : NextWf (execStackLost st s) := done_wf (ite_wf h (loseStack_wf h))

theorem State.controllerFails_wf : (s.controllerFails st).mem.wf = true := by
  refine ite_wf h (ite_wf (loseStack_wf h) (ite_wf h ?_))
  exact chainAll_wf h

theorem State.countStack_wf : (s.countStack stack).mem.wf = true := dite_wf (fun _ => ite_wf (loseStack_wf h) h) fun _ => h

theorem State.countBank_wf : (s.countBank loc).mem.wf = true := ite_wf (fence_wf (modCol_wf h)) h

theorem State.parityUpset_wf : (s.parityUpset S).mem.wf = true := ite_wf h (spreadPoison_wf h)

theorem State.settleParity_wf : (s.settleParity S).mem.wf = true := by
  refine ite_wf h ?_
  split
  · exact countStack_wf (report_wf _ (mendParity_wf _ _ h))
  · exact countStack_wf (mendParity_wf _ _ h)

theorem State.rebuildAll_wf : (l.foldl State.rebuildSector s).mem.wf = true := foldl_wf (fun _ _ => rebuildSector_wf) h

theorem State.poisonAll_wf :
    (l.foldl (fun (t : State) a => (t.poisonSector a).report (u.sectorIncident .sectorPoisoned a)) s).mem.wf = true :=
  foldl_wf (fun _ _ ht => report_wf _ (poisonSector_wf _ ht)) h

theorem State.settleSector_wf : (s.settleSector loc finding).mem.wf = true := by
  refine ite_wf h ?_
  split
  · exact h
  · exact report_wf _ h
  · have settled := ite_wf (c := (s.mem.encodedIn loc).all s.reconstructible)
      (report_wf (s.sectorIncident .sectorReconstructed loc) (rebuildAll_wf (l := s.mem.encodedIn loc) h))
      (poisonAll_wf (u := s) (l := s.mem.encodedIn loc) h)
    exact ite_wf (countBank_wf (report_wf _ (addPoison_wf h)))
      (ite_wf (settleParity_wf (countStack_wf settled)) (countStack_wf settled))

theorem State.memUpset_wf : (s.memUpset loc symbols).mem.wf = true := by
  have settled := settleSector_wf (s := { s with tick := s.tick + 1 }) (loc := loc) (finding := s.finding symbols) h
  exact ite_wf (ite_wf h h) (ite_wf h (ite_wf (putCells_wf settled) settled))

theorem State.paritySymbols_wf : (s.paritySymbols S sec symbols).mem.wf = true := by
  refine ite_wf h ?_
  split
  · exact h
  · exact report_wf _ h
  · exact settleParity_wf (parityUpset_wf h)

theorem State.parityScrub_wf : (s.parityScrub S).mem.wf = true := ite_wf h (settleParity_wf h)

theorem State.refreshMissed_wf : (s.refreshMissed col b).mem.wf = true := ite_wf h (fence_wf h)

theorem execStoreFailure_wf : NextWf (execStoreFailure core slot va pa how s) := by
  refine done_wf ?_
  cases how with
  | sector team index ctx =>
    have failed {code o w a} := failStore_wf (code := code) (o := o) (word := w) (pa := a) (poisonSector_wf pa.toNat h)
    exact ite_wf h (ite_wf (settleSector_wf h) (ite_wf failed (ite_wf (countBank_wf failed) (countStack_wf failed))))
  | peer team index ctx =>
    dsimp only
    split
    · exact failPeerWrite_wf (s := { s with links := _ }) h
    · exact h

theorem execPatrolScrub_wf : NextWf (execPatrolScrub sector finding s) :=
  done_wf (ite_wf h (ite_wf (ite_wf h (settleSector_wf h)) (ite_wf (settleSector_wf h) h)))

theorem execParityDeltaAccept_wf : NextWf (execParityDeltaAccept write s) := by
  refine done_wf ?_
  split
  · exact ite_wf h h
  · exact h

theorem State.applied_wf {w : PendWrite} {ws : List PendWrite} :
    ({ s with mem := { s.mem.applyDelta w with writes := ws } } : State).mem.wf = true := Memory.applyDelta_wf w h

theorem execParityDeltaApply_wf : NextWf (execParityDeltaApply stripe s) := by
  refine done_wf ?_
  split
  · exact applied_wf (settleParity_wf h)
  · exact h

theorem State.restripe_wf : s.restripe.mem.wf = true := by
  unfold State.restripe
  split
  · exact report_wf _ h
  · exact Memory.shrink_wf h

theorem execRestripeStripeDone_wf : NextWf (execRestripeStripeDone s) :=
  have moved := moveStripe_wf (s.dev.watermark - 1) h
  done_wf (ite_wf h (ite_wf (report_wf _ (modDev_wf moved)) moved))

end

/-! ### Checkpoints -/

section
variable {s : State} {save restore fault : Bool} {err : Nat} {i : CkImage}
variable (h : s.mem.wf = true)
include h

theorem State.ckFails_wf : (s.ckFails err).mem.wf = true := h

theorem State.ckMoved_wf {d : Device} {n : Nat} {is : List CkImage} :
    ({ s with dev := d, tick := n, images := is } : State).mem.wf = true := h

theorem State.putImage_wf : (s.putImage i).mem.wf = true := h

theorem State.checkpoint_wf : (s.checkpoint save restore).mem.wf = true := by
  refine ite_wf h ?_
  split
  · exact h
  · exact ite_wf (report_wf _ (ckFails_wf h)) (ite_wf h (ite_wf h h))

theorem execCheckpointSave_wf : NextWf (execCheckpointSave s) := checkpoint_wf h

theorem execCheckpointRestore_wf : NextWf (execCheckpointRestore s) := checkpoint_wf h

theorem State.ckEnds_wf : (s.ckEnds fault).mem.wf = true := by
  have left {c : Prop} [Decidable c] {image} := ite_wf (c := c) h (restored_wf s image)
  exact ite_wf (report_wf _ (ckFails_wf (ckMoved_wf left)))
    (ite_wf (report_wf _ (putImage_wf (ticked_wf (modDev_wf left)))) (modDev_wf left))

theorem execCheckpointComplete_wf : NextWf (execCheckpointComplete fault s) :=
  done_wf (ite_wf h (ite_wf (foldl_wf (fun _ _ => devKeep_wf _ _) h) (ckEnds_wf h)))

end

/-! ### Vaults and the governor -/

section
variable {s : State} {col : ColId} {b : Fin 16} {value : BitVec 64} {die : DieId} {mv : BitVec 32} {celsius : BitVec 8} {core : CoreId}
variable {level trigger predicted : Nat} {readings : List Nat} {sensor : Fin 32} {f : Vault → Vault}
variable (h : s.mem.wf = true)
include h

theorem State.modVault_wf : (s.modVault col f).mem.wf = true := h

theorem State.takeOver_wf : (s.takeOver col).mem.wf = true := ite_wf h (report_wf _ (modVault_wf h))

theorem State.renew_wf : (s.renew col value).mem.wf = true :=
  have owned := takeOver_wf h
  ite_wf (ite_wf (report_wf _ (modVault_wf owned)) (modVault_wf owned)) h

theorem execRenew_wf : NextWf (execRenew col value s) := renew_wf h

theorem execRefreshLeaseLapse_wf : NextWf (execRefreshLeaseLapse col s) := takeOver_wf h

theorem State.watchLevels_wf : (s.watchLevels col).mem.wf = true := h

theorem State.watchDie_wf : (s.watchDie die).mem.wf = true := foldl_wf (fun _ _ => watchLevels_wf) h

theorem State.modCore_wf {f : CoreState → CoreState} : (s.modCore core f).mem.wf = true := h

theorem State.modGrids_wf {gs : List Grid} : ({ s with grids := gs } : State).mem.wf = true := h

theorem State.throttle_wf : (s.throttle col level trigger).mem.wf = true :=
  report_wf _ (modGrids_wf (foldl_wf (fun _ _ ht => modCore_wf ht) (modCol_wf h)))

theorem execLevelRise_wf : NextWf (execLevelRise col s) := done_wf (ite_wf (throttle_wf h) h)

theorem execLevelFall_wf : NextWf (execLevelFall col s) := by
  refine done_wf ?_
  dsimp only
  split
  · exact ite_wf (throttle_wf h) h
  · exact h

theorem State.govWrite_wf : (s.govWrite col value).mem.wf = true := h

theorem execGovForce_wf : NextWf (execGovForce col value s) := done_wf (pageWrite_wf h (govWrite_wf h))

theorem State.watchDroop_wf : (s.watchDroop col).mem.wf = true := h

theorem State.droopSample_wf : (s.droopSample col readings predicted).mem.wf = true := foldl_wf (fun _ _ => watchDroop_wf) (modCol_wf h)

theorem execSuspectedCrackedConnection_wf : NextWf (execSuspectedCrackedConnection col sensor s) :=
  done_wf (ite_wf h (fence_wf (report_wf _ h)))

theorem execRegulatorDroop_wf : NextWf (execRegulatorDroop die mv s) := done_wf (ite_wf h (report_wf _ (watchDie_wf (modDev_wf h))))

theorem execRegulatorDroopCleared_wf : NextWf (execRegulatorDroopCleared die s) := done_wf (ite_wf h (watchDie_wf (modDev_wf h)))

theorem execVaultHot_wf : NextWf (execVaultHot col b celsius s) :=
  have watched {f} := watchLevels_wf (col := col) (modVault_wf (col := col) (f := f) h)
  done_wf (ite_wf (report_wf _ watched) watched)

theorem execColumnWaysWrite_wf : NextWf (execColumnWaysWrite col value s) := done_wf (pageWrite_wf h (waysWrite_wf h))

theorem State.pinWrite_wf : (s.pinWrite core value).mem.wf = true := ite_wf h h

theorem execPinwinWrite_wf : NextWf (execPinwinWrite core value s) := done_wf (pageWrite_wf h (pinWrite_wf h))

theorem execPinwinApply_wf : NextWf (execPinwinApply core s) := by
  refine done_wf ?_
  split
  · exact ite_wf h (ite_wf (modCore_wf h) (dropBytes_wf (modCore_wf h)))
  · exact h

end

/-! ### The boot -/

section
variable {s : State} {step kind dmc cause : Nat} {unit : Byte} {detail : Word32} {p : PortId} {again : Bool} {n : Nat}
  {outcome : BootOutcome}
variable {more : List Incident} {value : Word} {die : DieId} {celsius : BitVec 8} {fl : Flash}
variable (h : s.mem.wf = true)
include h

theorem State.bootRecord_wf : (s.bootRecord step kind unit detail).mem.wf = true := logAppend_wf _ h

theorem State.modFlash_wf : ({ s with flash := fl } : State).mem.wf = true := h

theorem State.atStep_wf {d : Device} : ({ s with flash := fl, dev := d } : State).mem.wf = true := h

theorem State.raiseFloor_wf : s.raiseFloor.mem.wf = true := ite_wf (report_wf _ (modFlash_wf h)) h

theorem State.rejectImage_wf : (s.rejectImage dmc).mem.wf = true := report_wf _ h

theorem State.bootStops_wf : s.bootStops.mem.wf = true := report_wf _ (modDev_wf h)

theorem State.trainModules_wf : s.trainModules.mem.wf = true := ite_wf h (bootStops_wf (bootRecord_wf h))

theorem State.alternatePath_wf : (s.alternatePath step n again).mem.wf = true := by
  refine ite_wf (ite_wf h h) (ite_wf (trainModules_wf h) (ite_wf (dite_wf (fun hn => ?_) fun _ => h)
    (ite_wf (dite_wf (fun _ => h) fun _ => h) (ite_wf (dite_wf (fun _ => ite_wf h (fence_wf h)) fun _ => h)
    (ite_wf (dite_wf (fun _ => h) fun _ => h) (ite_wf h h))))))
  have lost := execStackLost_wf (st := ⟨n, hn⟩) h
  split
  next heq =>
    rw [heq] at lost
    exact lost
  next => exact h

theorem State.takeAlternate_wf : (s.takeAlternate step unit again).mem.wf = true :=
  alternatePath_wf (report_wf _ (modFlash_wf (bootRecord_wf h)))

theorem State.startStep_wf : (s.startStep step).mem.wf = true :=
  foldl_wf (fun _ _ => takeAlternate_wf) (foldl_wf (fun _ _ => bootRecord_wf) (atStep_wf h))

theorem State.unitDone_wf : (s.unitDone unit).mem.wf = true := ite_wf (bootRecord_wf h) h

theorem State.stepDone_wf : s.stepDone.mem.wf = true := by
  have recorded {n} := foldl_wf (l := s.unitsLeft n) (f := fun (t : State) u => t.bootRecord n 2 u 0) (fun _ _ => bootRecord_wf) h
  have raised {n} := ite_wf (c := n = 1) (raiseFloor_wf (recorded (n := n))) (recorded (n := n))
  exact ite_wf (startStep_wf raised) (atStep_wf raised)

theorem State.stepFails_wf : (s.stepFails unit detail).mem.wf = true :=
  have recorded {n} := bootRecord_wf (step := n) (kind := 3) (unit := unit) (detail := detail) h
  ite_wf (takeAlternate_wf recorded) (ite_wf (bootRecord_wf recorded) (bootStops_wf recorded))

theorem execBootStep_wf : NextWf (execBootStep outcome s) := by
  refine done_wf (ite_wf h ?_)
  split
  · split
    · exact stepFails_wf (rejectImage_wf h)
    · exact stepDone_wf h
  · exact stepFails_wf (ite_wf (rejectImage_wf h) h)

omit h in
theorem State.deviceReset_wf : (s.deviceReset cause more).mem.wf = true := by
  unfold State.deviceReset; dsimp only
  exact startStep_wf (reportAll_wf _ rfl)

omit h in
theorem execPowerOn_wf : NextWf (execPowerOn s) := deviceReset_wf

theorem State.devresetWrite_wf : (s.devresetWrite value).mem.wf = true := ite_wf deviceReset_wf h

theorem execDevreset_wf : NextWf (execDevreset value s) := devresetWrite_wf h

omit h in
theorem execPcieReset_wf : NextWf (execPcieReset s) := deviceReset_wf

omit h in
theorem execManagementRequest_wf : NextWf (execManagementRequest s) := deviceReset_wf

omit h in
theorem execDmcWatchdog_wf : NextWf (execDmcWatchdog die s) := deviceReset_wf

theorem execThermalTrip_wf : NextWf (execThermalTrip die celsius s) := done_wf (ite_wf deviceReset_wf h)

omit h in
theorem execRegulatorFault_wf : NextWf (execRegulatorFault s) := deviceReset_wf

end

end Sys2Proof.Machine
end

section
/-! Lanes, predicates, links and agents outside, the matrix unit, replicas and registers keep the form. -/
namespace Sys2Proof.Machine
open State
-- One proof at a time: proofs elaborated side by side each take a thread and its stack.
set_option Elab.async false

/-! ### Lanes and predicates -/

section
variable {s : State} {G : Guard} {d a b : VReg} {readsD : Bool} {srcs bv : List VReg} {ss : List SReg} {ps : List PReg}
  {accepts : Nat → Bool}
variable {pd pe pa pb : PReg} {sd sa sb : SReg} {x : Word} {src : Nat → Nat} {op : RedOp} {imm : BitVec 10}
variable {cnt : BitVec 5}
variable (h : s.mem.wf = true)
include h

theorem lanewiseWith_wf {f : EType → Nat → Nat × Flags} : NextWf (lanewiseWith s G d readsD srcs ss ps accepts f) :=
  finish_wf h (.bind operands_wf fun _ _ => h)

theorem lanewise_wf {f : EType → Nat → Nat × Flags} : NextWf (lanewise s G d readsD srcs accepts f) := lanewiseWith_wf h

theorem elemwise1_wf {f : EType → Nat → Nat × Flags} : NextWf (elemwise1 s G d a accepts f) := lanewise_wf h

theorem elemwise2_wf {f : EType → Nat → Nat → Nat × Flags} : NextWf (elemwise2 s G d a b accepts f) := lanewise_wf h

theorem elemwise3_wf {f : EType → Nat → Nat → Nat → Nat × Flags} : NextWf (elemwise3 s G d a b accepts f) := lanewise_wf h

theorem float1_wf {f : Fmt → Num → Nat × Flags} : NextWf (float1 s G d a f) := elemwise1_wf h

theorem float2_wf {f : Fmt → Num → Num → Nat × Flags} : NextWf (float2 s G d a b f) := elemwise2_wf h

theorem float3_wf {f : Fmt → Num → Num → Num → Nat × Flags} : NextWf (float3 s G d a b f) := elemwise3_wf h

theorem faithful_wf {f : Fmt → Bool → Num → Nat × Flags} : NextWf (faithful s G d a f) := lanewise_wf (s := tickOn s) h

theorem bitwise_wf {f : Nat → Nat → Nat} : NextWf (bitwise s G d a b f) := lanewise_wf h

theorem execVmovi_wf : NextWf (execVmovi G d imm s) := lanewise_wf h

theorem execVdot4_wf : NextWf (execVdot4 G d a b s) := lanewise_wf h

theorem execVmov_wf : NextWf (execVmov G d a s) := lanewise_wf h

theorem execVadd_wf : NextWf (execVadd G d a b s) := elemwise2_wf h

theorem execVsub_wf : NextWf (execVsub G d a b s) := elemwise2_wf h

theorem execVmul_wf : NextWf (execVmul G d a b s) := elemwise2_wf h

theorem execVmulh_wf : NextWf (execVmulh G d a b s) := elemwise2_wf h

theorem execVmin_wf : NextWf (execVmin G d a b s) := elemwise2_wf h

theorem execVmax_wf : NextWf (execVmax G d a b s) := elemwise2_wf h

theorem execVabsd_wf : NextWf (execVabsd G d a b s) := elemwise2_wf h

theorem execVavg_wf : NextWf (execVavg G d a b s) := elemwise2_wf h

theorem execVsll_wf : NextWf (execVsll G d a b s) := elemwise2_wf h

theorem execVsrl_wf : NextWf (execVsrl G d a b s) := elemwise2_wf h

theorem execVsra_wf : NextWf (execVsra G d a b s) := elemwise2_wf h

theorem execVadds_wf : NextWf (execVadds G d a b s) := elemwise2_wf h

theorem execVsubs_wf : NextWf (execVsubs G d a b s) := elemwise2_wf h

theorem execVdiv_wf : NextWf (execVdiv G d a b s) := elemwise2_wf h

theorem execVrem_wf : NextWf (execVrem G d a b s) := elemwise2_wf h

theorem execFmin_wf : NextWf (execFmin G d a b s) := elemwise2_wf h

theorem execFmax_wf : NextWf (execFmax G d a b s) := elemwise2_wf h

theorem execFsgnj_wf : NextWf (execFsgnj G d a b s) := elemwise2_wf h

theorem execVand_wf : NextWf (execVand G d a b s) := bitwise_wf h

theorem execVor_wf : NextWf (execVor G d a b s) := bitwise_wf h

theorem execVxor_wf : NextWf (execVxor G d a b s) := bitwise_wf h

theorem execVandn_wf : NextWf (execVandn G d a b s) := bitwise_wf h

theorem execVpopc_wf : NextWf (execVpopc G d a s) := elemwise1_wf h

theorem execVclz_wf : NextWf (execVclz G d a s) := elemwise1_wf h

theorem execVabs_wf : NextWf (execVabs G d a s) := elemwise1_wf h

theorem execVaddi_wf : NextWf (execVaddi G d a imm s) := elemwise1_wf h

theorem execVslli_wf : NextWf (execVslli G d a cnt s) := elemwise1_wf h

theorem execVsrli_wf : NextWf (execVsrli G d a cnt s) := elemwise1_wf h

theorem execVsrai_wf : NextWf (execVsrai G d a cnt s) := elemwise1_wf h

theorem execVmad_wf : NextWf (execVmad G d a b s) := elemwise3_wf h

theorem execFadd_wf : NextWf (execFadd G d a b s) := float2_wf h

theorem execFsub_wf : NextWf (execFsub G d a b s) := float2_wf h

theorem execFmul_wf : NextWf (execFmul G d a b s) := float2_wf h

theorem execFdiv_wf : NextWf (execFdiv G d a b s) := float2_wf h

theorem execFabs_wf : NextWf (execFabs G d a s) := float1_wf h

theorem execFneg_wf : NextWf (execFneg G d a s) := float1_wf h

theorem execFsqrt_wf : NextWf (execFsqrt G d a s) := float1_wf h

theorem execFrsq_wf : NextWf (execFrsq G d a s) := float1_wf h

theorem execFma_wf : NextWf (execFma G d a b s) := float3_wf h

theorem execFms_wf : NextWf (execFms G d a b s) := float3_wf h

theorem execFnma_wf : NextWf (execFnma G d a b s) := float3_wf h

theorem execFexp2_wf : NextWf (execFexp2 G d a s) := faithful_wf h

theorem execFlog2_wf : NextWf (execFlog2 G d a s) := faithful_wf h

theorem execVsel_wf : NextWf (execVsel G d a b pa s) := lanewiseWith_wf h

theorem execVbcast_wf : NextWf (execVbcast G d sa s) := lanewiseWith_wf h

theorem compareOp_wf {f : EType → Nat → Nat → Bool × Flags} : NextWf (compareOp s G pd pe a b accepts f) :=
  finish_wf h (.bind operands_wf fun _ _ => h)

theorem execVcmp_wf {c : VCond} : NextWf (execVcmp G c pd pe a b s) := compareOp_wf h

theorem execFcmp_wf {c : FCond} : NextWf (execFcmp G c pd pe a b s) := compareOp_wf h

theorem shuffleOp_wf : NextWf (shuffleOp s G d a bv ss src) := finish_wf h (.bind operands_wf fun _ _ => h)

theorem execVextr_wf : NextWf (execVextr G sd a sb s) := finish_wf h (.bind operands_wf fun _ _ => h)

theorem execVins_wf : NextWf (execVins G d sa sb s) := finish_wf h (.bind operands_wf fun _ _ => h)

theorem execVcompact_wf : NextWf (execVcompact G d a s) := finish_wf h (.bind operands_wf fun _ _ => h)

theorem execVred_wf : NextWf (execVred G d a op s) := finish_wf h (.bind operands_wf fun _ _ => h)

theorem execVscan_wf : NextWf (execVscan G d a op s) := finish_wf h (.bind operands_wf fun _ _ => h)

theorem predOp_wf : NextWf (predOp s G pd ss ps x) := finish_wf h (.bind sound_wf fun _ _ => h)

theorem predScalar_wf : NextWf (predScalar s sd pa x) := finish_wf h (.bind sound_wf fun _ _ => h)

end

/-! ### Links between dies and devices -/

section
variable {s : State} {pair : PairId} {m n loc key len line : Nat} {mod : Fin 16} {lane : BitVec 16} {port : PortId} {peer : PeerId}
  {flag : Bool}
variable {who rel : Option Party} {party : Party} {bs : List Byte} {tag : WriteTag} {red : Option CombEntry} {due : Option Nat}
  {host answers : Bool}
variable {lines : List Nat} {e : CombEntry} {compare : Option Nat} {op : AOp} {type : Option EType} {r : MemRequest} {pa value : BitVec 64}
variable {lease : BitVec 8} {hw : HeldWrite} {f : HeldWrite → HeldWrite} {col : ColId} {c : Nat × List Byte} {agent : HostAgent}
  {ls : Links}
variable (h : s.mem.wf = true)
include h

theorem State.modLinks_wf : ({ s with links := ls } : State).mem.wf = true := h

theorem State.losePair_wf : (s.losePair pair).mem.wf = true := by
  have lost {root} := caused_wf (root := root) (f := fun u => u.report (linkRecord .dieLinkLost pair.val))
    (modLinks_wf (ls := { s.links with lostPairs := pair :: s.links.lostPairs }) h) fun _ => report_wf _
  exact ite_wf lost (caused_wf lost fun _ _ => deviceReset_wf)

theorem State.disableModule_wf : (s.disableModule pair m).mem.wf = true := by
  have disabled {ls i} := report_wf i (modLinks_wf (ls := ls) h)
  exact ite_wf (ite_wf (modLinks_wf disabled) disabled) h

theorem execUcieFlitRetry_wf : NextWf (execUcieFlitRetry pair mod s) := done_wf (ite_wf (disableModule_wf (modLinks_wf h)) (modLinks_wf h))

theorem execUcieLaneRepaired_wf : NextWf (execUcieLaneRepaired pair lane s) := report_wf _ h

theorem execUcieModuleDisabled_wf : NextWf (execUcieModuleDisabled pair mod s) := disableModule_wf h

theorem execDieLinkLost_wf : NextWf (execDieLinkLost pair s) := done_wf (ite_wf (losePair_wf h) h)

theorem State.modPort_wf {g : UaPort → UaPort} : (s.modPort port g).mem.wf = true := h

theorem execUalinkPortTraining_wf : NextWf (execUalinkPortTraining port flag peer s) :=
  done_wf (ite_wf h (ite_wf (modPort_wf h) (report_wf _ (modPort_wf h))))

theorem execUalinkPortDown_wf : NextWf (execUalinkPortDown port s) := done_wf (ite_wf (report_wf _ (modPort_wf h)) h)

theorem State.storeNow_wf : (s.storeNow who rel loc key bs).mem.wf = true := by
  refine foldl_wf (fun _ _ => report_wf _) (noteRelease_wf ?_)
  split
  · exact ite_wf (storeLine_wf _ _ _ _ _ h) (storeRun_wf _ _ _ (activateAt_wf h))
  · exact storeRun_wf _ _ _ (activateAt_wf h)

theorem State.holdOutside_wf : (s.holdOutside tag rel loc bs red due host).mem.wf = true := h

theorem State.outsideStore_wf : (s.outsideStore party rel loc bs).mem.wf = true := by
  refine foldl_wf (fun t c ht => ite_wf ht ?_) h
  have merged := mergeCopies_wf (line := c.1 / 128) ht
  dsimp only
  split
  · exact holdOutside_wf merged
  · exact storeNow_wf merged

theorem State.outsideRead_wf : (s.outsideRead who loc len).1.mem.wf = true := by
  have merged := foldl_wf (l := runLines loc len) (f := State.mergeCopies) (fun _ _ => mergeCopies_wf) h
  refine seen_wf ?_
  split
  · exact ite_wf (foldl_wf (fun _ _ => readLine_wf) merged) (activateAt_wf merged)
  · exact activateAt_wf merged

theorem State.refuseMarked_wf : (s.refuseMarked party lines).mem.wf = true := h

theorem State.outsideAcquires_wf : (s.outsideAcquires party flag).mem.wf = true := ite_wf h h

theorem State.answered_wf : ({ s with answer := bs } : State).mem.wf = true := h

theorem State.atomicNow_wf : (s.atomicNow party rel e compare answers).mem.wf = true := by
  have read := outsideRead_wf (who := some party) (loc := e.loc) (len := e.size) h
  exact ite_wf (answered_wf read) (answered_wf (caughtUp_wf (ite_wf (storeNow_wf read) read)))

theorem State.outsideAtomic_wf {x : Nat} : (s.outsideAtomic party rel loc op type x compare answers).mem.wf = true := by
  have merged := mergeCopies_wf (line := loc / 128) h
  unfold State.outsideAtomic; dsimp only
  split
  · exact holdOutside_wf merged
  · exact atomicNow_wf merged

theorem State.outsideRequest_wf : (s.outsideRequest party loc len r).mem.wf = true := by
  unfold State.outsideRequest; dsimp only
  refine ite_wf h ?_
  split
  · exact ite_wf (refuseMarked_wf h) (ite_wf h (answered_wf (outsideRead_wf (outsideAcquires_wf h))))
  · exact ite_wf h (outsideStore_wf h)
  · exact ite_wf (answered_wf h) (ite_wf (refuseMarked_wf h) (ite_wf h (outsideAtomic_wf (outsideAcquires_wf h))))
  · exact ite_wf h (outsideAcquires_wf h)

theorem State.granted_wf : ({ s with answer := bs, links := ls } : State).mem.wf = true := h

theorem execPeerReadRequest_wf : NextWf (execPeerReadRequest peer pa len lease s) := by
  have read := outsideRead_wf (s := { s with tick := s.tick + 1 }) (who := none) (loc := pa.toNat % 2 ^ 40) (len := len) h
  refine done_wf (ite_wf h (ite_wf h (ite_wf h (ite_wf (answered_wf read) ?_))))
  split
  · exact granted_wf read
  · exact answered_wf read

theorem execPeerWriteRequest_wf : NextWf (execPeerWriteRequest peer pa r s) :=
  done_wf (ite_wf h (ite_wf h (outsideRequest_wf (ticked_wf h))))

theorem State.performHeld_wf : (s.performHeld hw).mem.wf = true := by
  unfold State.performHeld; dsimp only
  refine ite_wf h (writeDone_wf ?_)
  split
  · split
    · exact atomicNow_wf h
    · exact storeNow_wf h
  · refine ite_wf (agentPerform_wf h) ?_
    split
    · exact reduceNow_wf h
    · exact ite_wf (disown_wf (performWrite_wf h)) (performWrite_wf h)

theorem State.service_wf : s.service.mem.wf = true := by
  unfold State.service
  exact foldl_wf (fun _ _ => queueFaults_wf) (logDrain_wf _ (devDrain_wf _ h))

theorem State.releaseHeld_wf : (s.releaseHeld line f).mem.wf = true := by
  have performed {l ls} := foldl_wf (l := l) (f := State.performHeld) (fun _ _ => performHeld_wf) (modLinks_wf (ls := ls) h)
  exact ite_wf (service_wf performed) performed

theorem State.holdEnds_wf : (s.holdEnds line).mem.wf = true := ite_wf (releaseHeld_wf (modLinks_wf h)) h

theorem State.holdsEnd_wf : s.holdsEnd.mem.wf = true := ite_wf h (foldl_wf (fun _ _ => holdEnds_wf) h)

theorem execLeaseHoldExpiry_wf : NextWf (execLeaseHoldExpiry line s) := holdEnds_wf h

theorem execBackInvalidateResponse_wf : NextWf (execBackInvalidateResponse line s) :=
  done_wf (releaseHeld_wf (s := { s with mem := _ }) h)

omit h in
theorem Memory.hostTake_wf {m : Memory} (hm : m.wf = true) : (m.hostTake line).wf = true := by
  unfold Memory.hostTake; dsimp only
  repeat' split
  all_goals exact hm

theorem State.hostTakes_wf : ({ s with mem := lines.foldl Memory.hostTake s.mem } : State).mem.wf = true := by
  have taken : ∀ (ls : List Nat) (m : Memory), m.wf = true → (ls.foldl Memory.hostTake m).wf = true := fun ls => by
    induction ls with
    | nil => exact fun _ hm => hm
    | cons l r ih => exact fun m hm => ih _ (Memory.hostTake_wf hm)
  exact taken lines s.mem h

theorem State.hostGives_wf : (s.hostGives line).mem.wf = true := ite_wf h h

theorem State.hostStore_wf : (s.hostStore rel c).mem.wf = true := ite_wf h (ite_wf (storeNow_wf h) (outsideStore_wf (hostGives_wf h)))

theorem execCxlMemRequest_wf : NextWf (execCxlMemRequest pa r len s) := by
  refine done_wf (ite_wf h ?_)
  split
  · have requested {r} := outsideRequest_wf (party := .cxl) (loc := pa.toNat) (len := len) (r := r) h
    exact ite_wf requested (hostTakes_wf requested)
  · exact ite_wf h (foldl_wf (fun _ _ => hostStore_wf) h)
  · exact outsideRequest_wf (foldl_wf (fun _ _ => hostGives_wf) h)

theorem execHostCoreMemoryAccess_wf : NextWf (execHostCoreMemoryAccess agent pa r len s) := by
  refine done_wf ?_
  dsimp only
  split
  · exact outsideRequest_wf h
  · refine ite_wf h ?_
    split
    · exact sendReq_wf h
    · exact outsideRequest_wf h
  · exact ite_wf (outsideRequest_wf h) h

theorem execPtpUnlocked_wf : NextWf (execPtpUnlocked value s) := done_wf (ite_wf (report_wf _ (modLinks_wf h)) h)

theorem State.modGroups_wf {p : Group → Bool} {g : Group → Group} : (s.modGroups p g).mem.wf = true := h

theorem State.peerDropped_wf {d : Device} : ({ s with dev := d, links := ls } : State).mem.wf = true := h

theorem State.fencePeer_wf : (s.fencePeer peer).mem.wf = true := by
  unfold State.fencePeer
  refine modGroups_wf (caused_wf (report_wf _ (peerDropped_wf h)) fun t ht => ?_)
  have failed {l} := foldl_wf (l := l) (f := State.failPeerWrite) (fun _ _ => failPeerWrite_wf) ht
  exact ite_wf (ckEnds_wf failed) failed

theorem execHeartbeat_wf : NextWf (execHeartbeat peer s) := done_wf (ite_wf (ite_wf (fencePeer_wf h) h) h)

theorem execPeerHeartbeat_wf : NextWf (execPeerHeartbeat peer s) := done_wf (ite_wf h h)

theorem State.goWrite_wf : (s.goWrite value).mem.wf = true := ite_wf h h

end

/-! ### The matrix unit -/

section
variable {s : State} {o : EngineOp} {off mg op team : Nat} {w wa wb : Word32} {zeroed : Bool} {q : BitVec 2} {old : List (Nat × Byte)}
variable {p5 : BitVec 5} {a b : SReg} {G : Guard} {v : VReg} {mg6 : BitVec 6} {fa fb : BitVec 3} {core : CoreId} {slot : SlotId}
  {fl : Flags}

theorem State.macroOk_wf : CheckWf (s.macroOk mg) := need_wf

theorem State.aSlotOk_wf : CheckWf (s.aSlotOk fa) := need_wf

theorem State.bSlotOk_wf : CheckWf (s.bSlotOk fb) := need_wf

theorem State.bSlotFits_wf : CheckWf (s.bSlotFits mg fb) := by
  unfold State.bSlotFits; dsimp only
  split
  · trivial
  · exact need_wf

theorem State.tileOk_wf {n : Nat} : CheckWf (s.tileOk off n) := .bind need_wf fun _ _ => need_wf

variable (h : s.mem.wf = true)
include h

theorem State.modMacro_wf {f : Macro → Macro} : (s.modMacro team mg f).mem.wf = true := h

theorem execInk_wf : NextWf (execInk p5 a b s) :=
  finish_wf h (.bind sound_wf fun _ _ => .bind need_wf fun _ _ => .bind declared_wf fun _ _ => .bind macroOk_wf fun _ _ =>
    .bind bSlotOk_wf fun _ _ => .bind tileOk_wf fun _ _ => beginOp_wf (modMacro_wf (drainMacro_wf h)))

theorem execInkz_wf : NextWf (execInkz mg6 s) := by
  have drained := drainMacro_wf (team := s.g.team) (mg := mg6.toNat) h
  exact finish_wf h (.bind macroOk_wf fun _ _ => .bind need_wf fun _ _ => .ite drained drained)

theorem State.orFlagsOf_wf : (s.orFlagsOf o fl).mem.wf = true := ite_wf h h

theorem State.inkDone_wf : (s.inkDone o off mg w zeroed).mem.wf = true := by
  unfold State.inkDone; dsimp only
  exact updPoint_wf (orFlagsOf_wf (reportAll_wf _ h))

theorem execInkComplete_wf : NextWf (execInkComplete op s) := by
  refine done_wf ?_
  split
  · split
    · exact ite_wf (inkDone_wf h) h
    · exact h
  · exact h

theorem execMma_wf : NextWf (execMma G q v mg6 fa fb s) :=
  finish_wf h (.bind operands_wf fun _ _ => .bind macroOk_wf fun _ _ => .bind aSlotOk_wf fun _ _ => .bind bSlotOk_wf fun _ _ =>
    .bind bSlotFits_wf fun _ _ => .ite h h)

theorem execMmaComplete_wf : NextWf (execMmaComplete core slot s) := done_wf (ite_wf (drainMmas_wf h) (drainOthers_wf h))

theorem execAzero_wf : NextWf (execAzero G q s) :=
  have drained := drainMmas_wf h
  finish_wf drained (.bind operands_wf fun _ _ => .bind mmasSettled_wf fun _ _ => drained)

theorem execCvta_wf : NextWf (execCvta G q v s) :=
  have drained := drainMmas_wf h
  finish_wf drained (.bind operands_wf fun _ _ => .bind mmasSettled_wf fun _ _ => reportAll_wf _ drained)

theorem execMmas_wf : NextWf (execMmas p5 a b s) :=
  have drained := drainMmas_wf h
  finish_wf drained (.bind sound_wf fun _ _ => .bind need_wf fun _ _ => .bind need_wf fun _ _ => .bind declared_wf fun _ _ =>
    .bind macroOk_wf fun _ _ => .bind aSlotOk_wf fun _ _ => .bind bSlotOk_wf fun _ _ => .bind bSlotFits_wf fun _ _ =>
    .bind tileOk_wf fun _ _ => .bind Group.budgetCheck_wf fun _ _ => .bind mmasSettled_wf fun _ _ => beginOp_wf drained)

theorem State.mmasDone_wf : (s.mmasDone o off q mg wa wb old).mem.wf = true := by
  unfold State.mmasDone; dsimp only
  split
  · exact updPoint_wf h
  · exact updPoint_wf (reportAll_wf _ h)

theorem execMmasComplete_wf : NextWf (execMmasComplete op s) := by
  refine done_wf ?_
  split
  · split
    · exact ite_wf (mmasDone_wf h) h
    · exact h
  · exact h

end

/-! ### Replicas -/

section
variable {s : State} {col : ColId} {x : Xlat} {loc frame line : Nat} {ctx : CtxId} {va : BitVec 64}
variable (h : s.mem.wf = true)
include h

theorem execScopeMarkPromotion_wf : NextWf (execScopeMarkPromotion line s) := by
  refine done_wf ?_
  split
  · exact releaseSoon_wf h
  · exact h

theorem execPromotionStart_wf : NextWf (execPromotionStart col ctx va frame s) := by
  refine done_wf (ite_wf h ?_)
  split <;> exact h

theorem State.addPoisons_wf {offs : List Nat} :
    ({ s with mem := offs.foldl (fun m o => m.addPoison (loc + o)) s.mem } : State).mem.wf = true := by
  have added : ∀ (l : List Nat) (m : Memory), m.wf = true → (l.foldl (fun m o => m.addPoison (loc + o)) m).wf = true := fun l => by
    induction l with
    | nil => exact fun _ hm => hm
    | cons o r ih => exact fun m hm => ih _ (Memory.addPoison_wf _ hm)
  exact added offs s.mem h

theorem State.copyPage_wf : (s.copyPage col x loc frame).mem.wf = true := addPoisons_wf (storeRun_wf _ _ _ h)

theorem execPromotionCommit_wf : NextWf (execPromotionCommit col frame s) := by
  refine done_wf ?_
  split
  · dsimp only
    split
    · split
      · exact ite_wf (modCol_wf (copyPage_wf (foldl_wf (fun _ _ => mergeCopies_wf) h))) (modCol_wf h)
      · exact h
    · exact h
  · exact h

theorem execPromotionAbandon_wf : NextWf (execPromotionAbandon col frame s) := done_wf (ite_wf (modCol_wf h) h)

end

/-! ### Registers -/

section
variable {s : State} {o : Host.Outcome State Fault Refusal} {off : Nat} {value : Word} {j : JournalId} {col : ColId} {ide : Bool}
variable (h : s.mem.wf = true)
include h

theorem after_wf (ho : NextWf o) : (after o s).mem.wf = true := by
  cases o with
  | next t => exact ho
  | _ => exact h

theorem State.setDev_wf {f : Device → Device} : (s.setDev f).mem.wf = true := h

theorem State.journalRegister_wf : (s.journalRegister off value).mem.wf = true := ite_wf h (ite_wf h (ite_wf h h))

theorem State.shootdownWrite_wf : (s.shootdownWrite value).mem.wf = true := ite_wf h (shootdown_wf h)

theorem State.logconsWrite_wf : (s.logconsWrite value).mem.wf = true := by
  unfold State.logconsWrite
  exact ite_wf (logDrain_wf _ (setDev_wf h)) h

theorem State.logRegister_wf : (s.logRegister off value).mem.wf = true := by
  unfold State.logRegister
  exact ite_wf (logconsWrite_wf h) (ite_wf (ite_wf h h) (ite_wf h (ite_wf h (ite_wf (logDrain_wf _ (setDev_wf h)) h))))

theorem State.unitRegister_wf : (s.unitRegister off value).mem.wf = true := by
  unfold State.unitRegister
  exact ite_wf h (ite_wf (ite_wf (restripe_wf (setDev_wf h)) h) (ite_wf h (ite_wf h (ite_wf (checkpoint_wf h) (ite_wf h (ite_wf h
    (ite_wf (goWrite_wf h) (ite_wf (devresetWrite_wf h) h))))))))

theorem State.deviceRegister_wf : (s.deviceRegister off value).mem.wf = true := by
  unfold State.deviceRegister
  exact ite_wf (ite_wf h h) (ite_wf (journalRegister_wf h) (ite_wf (shootdownWrite_wf h) (ite_wf (ite_wf h h) (ite_wf (ite_wf h h)
    (ite_wf (logRegister_wf h) (unitRegister_wf h))))))

theorem State.doorbell_wf : (s.doorbell j off value).mem.wf = true :=
  ite_wf (after_wf h (execSubmitWrite_wf h)) (ite_wf (after_wf h (execAjconsWrite_wf h)) (ite_wf h h))

theorem State.queueRegister_wf : (s.queueRegister col off value).mem.wf = true := by
  unfold State.queueRegister
  exact ite_wf (ite_wf h h) (ite_wf (ite_wf h h) (ite_wf (after_wf h (execHqheadWrite_wf h)) (ite_wf (after_wf h (execHreplyWrite_wf h))
    (ite_wf (ite_wf h h) (ite_wf (ite_wf h h) (ite_wf (after_wf h (execFqheadWrite_wf h))
      (ite_wf (after_wf h (execFqdoneWrite_wf h)) h)))))))

theorem State.columnRegister_wf : (s.columnRegister col off value).mem.wf = true := by
  unfold State.columnRegister
  exact ite_wf (queueRegister_wf h) (ite_wf h (ite_wf (renew_wf h) (ite_wf h (ite_wf (govWrite_wf h) (ite_wf (waysWrite_wf h)
    (ite_wf (pinWrite_wf h) h))))))

theorem State.registerWrite_wf : (s.registerWrite off value ide).mem.wf = true :=
  ite_wf (report_wf _ h) (ite_wf (deviceRegister_wf h) (ite_wf h (dite_wf (fun _ => doorbell_wf h) fun _ =>
    dite_wf (fun _ => columnRegister_wf h) fun _ => h)))

end

/-! ### Keys and telemetry -/

section
variable {s : State} {slot : Nat} {slot7 : BitVec 7} {msg : KeyMessage} {k1 k2 : BitVec 256} {cls code col : BitVec 8}
variable (h : s.mem.wf = true)
include h

theorem State.settleKey_wf : (s.settleKey slot).mem.wf = true := by
  unfold State.settleKey
  exact foldl_wf (fun _ _ ht => modCore_wf (foldl_wf (fun _ _ => cleanDrop_wf) (drainComb_wf ht))) (foldl_wf (fun _ _ => mergeCopies_wf) h)

theorem State.rekeyed_wf {n : Nat} {ks : Vector KeySlot 128} : ({ s with tick := n, keys := ks } : State).mem.wf = true := h

theorem execKeySlotLoad_wf : NextWf (execKeySlotLoad slot7 msg k1 k2 s) := by
  unfold execKeySlotLoad
  have settled := settleKey_wf (slot := slot7.toNat) h
  obtain ⟨t, ht⟩ : ∃ t, s.settleKey slot7.toNat = t := ⟨_, rfl⟩
  rw [ht] at settled ⊢
  exact done_wf (ite_wf (report_wf _ h) (ite_wf h (report_wf _ (rekeyed_wf settled))))

theorem execLogMergeSummary_wf : NextWf (execLogMergeSummary cls code col s) := by
  refine done_wf ?_
  dsimp only
  split
  · exact ite_wf h (report_wf _ h)
  · exact h

end

end Sys2Proof.Machine
end

section
/-! Every instruction, event and turn of the machine keeps the form; the obligation follows. -/
namespace Sys2Proof.Machine
open State
-- One proof at a time: proofs elaborated side by side each take a thread and its stack.
set_option Elab.async false

variable {s : State}

/-- Every instruction and event keeps the form. -/
theorem exec_wf (i : Instr) (h : s.mem.wf = true) : NextWf (exec i s) := by
  cases i with
  | branch => exact execBranch_wf h
  | call => exact execCall_wf h
  | nop | land | yield | leaseExpiry | vaultRefresh | refreshEnd | doubleRateOffer | spdmGetMeasurements
  | platformEventRetry | ptpLockRegained | tdispStateChange | pldmGetSensorReading => exact h
  | registerWrite => exact registerWrite_wf h
  | tlbShootdownPage | tlbShootdownContext | tlbShootdownAllContexts => exact shootdown_wf h
  | restripeStart => exact restripe_wf h
  | logconsWrite => exact logconsWrite_wf h
  | goWrite => exact goWrite_wf h
  | calls => exact execCalls_wf h
  | ret => exact execRet_wf h
  | jmps => exact execJmps_wf h
  | halt => exact execHalt_wf h
  | poll => exact execPoll_wf h
  | endGroup => exact execEndGroup_wf h
  | bz | bnz | bany | ball | bnone => exact branchIf_wf h
  | jmpv => exact execJmpv_wf h
  | add | sub | and | or | xor | sll | srl | sra | mul | mulh | mulhn | div | divn | rem | remn | slt | sltn | min
  | max | minn | maxn | seq | clz | ctz | popc | addi | andi | ori | xori | slli | srli | srai | slti | liz | lik => exact scalarOp_wf h
  | glyph => exact execGlyph_wf h
  | glyld => exact execGlyld_wf h
  | ld => exact execLd_wf h
  | st => exact execSt_wf h
  | ldk => exact execLdk_wf h
  | mode => exact execMode_wf h
  | mdr => exact execMdr_wf h
  | flr => exact execFlr_wf h
  | flclr => exact execFlclr_wf h
  | sreadScalar => exact execSreadScalar_wf h
  | swrite => exact execSwrite_wf h
  | sreadVector => exact execSreadVector_wf h
  | pand | por | pxor | pmov | pset => exact predOp_wf h
  | pget | pcnt | pfirst => exact predScalar_wf h
  | cvt => exact execCvt_wf h
  | cvtFrom => exact execCvtFrom_wf h
  | quant => exact execQuant_wf h
  | deq => exact execDeq_wf h
  | vmovi => exact execVmovi_wf h
  | vadd => exact execVadd_wf h
  | vsub => exact execVsub_wf h
  | vmul => exact execVmul_wf h
  | vmulh => exact execVmulh_wf h
  | vmin => exact execVmin_wf h
  | vmax => exact execVmax_wf h
  | vabsd => exact execVabsd_wf h
  | vavg => exact execVavg_wf h
  | vand => exact execVand_wf h
  | vor => exact execVor_wf h
  | vxor => exact execVxor_wf h
  | vandn => exact execVandn_wf h
  | vsll => exact execVsll_wf h
  | vsrl => exact execVsrl_wf h
  | vsra => exact execVsra_wf h
  | vpopc => exact execVpopc_wf h
  | vadds => exact execVadds_wf h
  | vsubs => exact execVsubs_wf h
  | vmad => exact execVmad_wf h
  | vdot4 => exact execVdot4_wf h
  | vdiv => exact execVdiv_wf h
  | vrem => exact execVrem_wf h
  | vclz => exact execVclz_wf h
  | vabs => exact execVabs_wf h
  | vaddi => exact execVaddi_wf h
  | vslli => exact execVslli_wf h
  | vsrli => exact execVsrli_wf h
  | vsrai => exact execVsrai_wf h
  | fadd => exact execFadd_wf h
  | fsub => exact execFsub_wf h
  | fmul => exact execFmul_wf h
  | fmin => exact execFmin_wf h
  | fmax => exact execFmax_wf h
  | fabs => exact execFabs_wf h
  | fneg => exact execFneg_wf h
  | fsgnj => exact execFsgnj_wf h
  | fma => exact execFma_wf h
  | fms => exact execFms_wf h
  | fnma => exact execFnma_wf h
  | fdiv => exact execFdiv_wf h
  | fsqrt => exact execFsqrt_wf h
  | frsq => exact execFrsq_wf h
  | fexp2 => exact execFexp2_wf h
  | flog2 => exact execFlog2_wf h
  | vcmp => exact execVcmp_wf h
  | fcmp => exact execFcmp_wf h
  | vsel => exact execVsel_wf h
  | vmov => exact execVmov_wf h
  | vbcast => exact execVbcast_wf h
  | shfl | shflx | shflu | shfld => exact shuffleOp_wf h
  | vextr => exact execVextr_wf h
  | vins => exact execVins_wf h
  | vcompact => exact execVcompact_wf h
  | vred => exact execVred_wf h
  | vscan => exact execVscan_wf h
  | mma => exact execMma_wf h
  | azero => exact execAzero_wf h
  | cvta => exact execCvta_wf h
  | inkz => exact execInkz_wf h
  | vld | spld | vtld | slld => exact loadOp_wf h
  | vst | spst | vtst | slst => exact storeOp_wf h
  | vldc => exact execVldc_wf h
  | vstc => exact execVstc_wf h
  | pref => exact execPref_wf h
  | amov => exact execAmov_wf h
  | casv => exact execCasv_wf h
  | redv => exact execRedv_wf h
  | altakev => exact execAltakev_wf h
  | copyv => exact execCopyv_wf h
  | amos => exact execAmos_wf h
  | reds => exact execReds_wf h
  | cass => exact execCass_wf h
  | lda => exact execLda_wf h
  | strl => exact execStrl_wf h
  | fence => exact execFence_wf h
  | fenceo => exact execFenceo_wf h
  | alinit => exact execAlinit_wf h
  | altake => exact execAltake_wf h
  | algive => exact execAlgive_wf h
  | alread => exact execAlread_wf h
  | alfree => exact execAlfree_wf h
  | rdvinit => exact execRdvinit_wf h
  | arrive => exact execArrive_wf h
  | expect => exact execExpect_wf h
  | waitp => exact execWaitp_wf h
  | waity => exact execWaity_wf h
  | arwait => exact execArwait_wf h
  | rdvstat => exact execRdvstat_wf h
  | garrive => exact execGarrive_wf h
  | gwait => exact execGwait_wf h
  | phase => exact execPhase_wf h
  | copy => exact execCopy_wf h
  | copyt => exact execCopyt_wf h
  | ink => exact execInk_wf h
  | mmas => exact execMmas_wf h
  | spawn => exact execSpawn_wf h
  | launch => exact execLaunch_wf h
  | trap => exact execTrap_wf h
  | hcall => exact execHcall_wf h
  | eret => exact execEret_wf h
  | slcfg => exact execSlcfg_wf h
  | tlbinv => exact execTlbinv_wf h
  | cachecl => exact execCachecl_wf h
  | evrd => exact execEvrd_wf h
  | loadDataReturn => exact execLoadDataReturn_wf h
  | mmaComplete => exact execMmaComplete_wf h
  | mmasComplete => exact execMmasComplete_wf h
  | inkComplete => exact execInkComplete_wf h
  | copySectorWritten => exact execCopySectorWritten_wf h
  | waitWake => exact execWaitWake_wf h
  | launchSignalStore => exact execLaunchSignalStore_wf h
  | launchPortRead => exact execLaunchPortRead_wf h
  | dependencePoll => exact execDependencePoll_wf h
  | teamAdmission => exact execTeamAdmission_wf h
  | teamRetirement => exact execTeamRetirement_wf h
  | gridRetirement => exact execGridRetirement_wf h
  | teamSave => exact execTeamSave_wf h
  | allowanceReq => exact execAllowanceReq_wf h
  | allowanceGive => exact execAllowanceGive_wf h
  | allowanceFlush => exact execAllowanceFlush_wf h
  | allowanceGrant => exact execAllowanceGrant_wf h
  | allowanceRecall => exact execAllowanceRecall_wf h
  | allowanceAck => exact execAllowanceAck_wf h
  | allowanceRelease => exact execAllowanceRelease_wf h
  | allowanceDrainServe => exact execAllowanceDrainServe_wf h
  | giveReply => exact execGiveReply_wf h
  | earlyCommit => exact execEarlyCommit_wf h
  | journalLaunch => exact execJournalLaunch_wf h
  | journalCopy => exact execJournalCopy_wf h
  | journalCopySector => exact execJournalCopySector_wf h
  | journalSignal => exact execJournalSignal_wf h
  | journalBarrier => exact execJournalBarrier_wf h
  | illegalEncoding => exact execIllegalEncoding_wf h
  | instructionFetchFault => exact execInstructionFetchFault_wf h
  | parityDeltaAccept => exact execParityDeltaAccept_wf h
  | parityDeltaApply => exact execParityDeltaApply_wf h
  | spawnBinTimer => exact execSpawnBinTimer_wf h
  | levelRise => exact execLevelRise_wf h
  | levelFall => exact execLevelFall_wf h
  | leaseHoldExpiry => exact execLeaseHoldExpiry_wf h
  | pinwinApply => exact execPinwinApply_wf h
  | storeFailure _ slot => exact execStoreFailure_wf (slot := slot) h
  | placementDiversionTimeout => exact execPlacementDiversionTimeout_wf h
  | headTeamHold => exact execHeadTeamHold_wf h
  | groupAged => exact execGroupAged_wf h
  | yieldHoldExpiry => exact execYieldHoldExpiry_wf h
  | preemptDeadline => exact execPreemptDeadline_wf h
  | deadlockWatchdog => exact execDeadlockWatchdog_wf h
  | scopeMarkPromotion => exact execScopeMarkPromotion_wf h
  | promotionStart => exact execPromotionStart_wf h
  | promotionCommit => exact execPromotionCommit_wf h
  | promotionAbandon => exact execPromotionAbandon_wf h
  | submitWrite => exact execSubmitWrite_wf h
  | ajconsWrite => exact execAjconsWrite_wf h
  | seqMismatchReread => exact execSeqMismatchReread_wf h
  | ctxCreate => exact execCtxCreate_wf h
  | ctxSet => exact execCtxSet_wf h
  | ctxPreempt => exact execCtxPreempt_wf h
  | ctxResume => exact execCtxResume_wf h
  | ctxReset => exact execCtxReset_wf h
  | ctxDestroy => exact execCtxDestroy_wf h
  | ctxStop => exact execCtxStop_wf h
  | hreplyWrite => exact execHreplyWrite_wf h
  | hqheadWrite => exact execHqheadWrite_wf h
  | fqdoneWrite => exact execFqdoneWrite_wf h
  | fqheadWrite => exact execFqheadWrite_wf h
  | shootdownComplete => exact execShootdownComplete_wf h
  | stackLost => exact execStackLost_wf h
  | restripeStripeDone => exact execRestripeStripeDone_wf h
  | patrolScrub => exact execPatrolScrub_wf h
  | renew => exact execRenew_wf h
  | refreshLeaseLapse => exact execRefreshLeaseLapse_wf h
  | checkpointSave => exact execCheckpointSave_wf h
  | checkpointRestore => exact execCheckpointRestore_wf h
  | checkpointComplete => exact execCheckpointComplete_wf h
  | columnFence => exact execColumnFence_wf h
  | suspectedCrackedConnection => exact execSuspectedCrackedConnection_wf h
  | regulatorDroop => exact execRegulatorDroop_wf h
  | devreset => exact execDevreset_wf h
  | columnWaysWrite => exact execColumnWaysWrite_wf h
  | pinwinWrite => exact execPinwinWrite_wf h
  | govForce => exact execGovForce_wf h
  | powerOn => exact execPowerOn_wf
  | bootStep => exact execBootStep_wf h
  | pcieReset => exact execPcieReset_wf
  | managementRequest => exact execManagementRequest_wf
  | dmcWatchdog die => exact execDmcWatchdog_wf (die := die)
  | thermalTrip => exact execThermalTrip_wf h
  | regulatorFault => exact execRegulatorFault_wf
  | ucieFlitRetry => exact execUcieFlitRetry_wf h
  | ucieLaneRepaired => exact execUcieLaneRepaired_wf h
  | ucieModuleDisabled => exact execUcieModuleDisabled_wf h
  | dieLinkLost => exact execDieLinkLost_wf h
  | ualinkPortTraining => exact execUalinkPortTraining_wf h
  | peerReadRequest => exact execPeerReadRequest_wf h
  | peerWriteRequest => exact execPeerWriteRequest_wf h
  | ptpUnlocked => exact execPtpUnlocked_wf h
  | heartbeat => exact execHeartbeat_wf h
  | backInvalidateResponse => exact execBackInvalidateResponse_wf h
  | keySlotLoad => exact execKeySlotLoad_wf h
  | cxlMemRequest => exact execCxlMemRequest_wf h
  | hostCoreMemoryAccess => exact execHostCoreMemoryAccess_wf h
  | ualinkPortDown => exact execUalinkPortDown_wf h
  | peerHeartbeat => exact execPeerHeartbeat_wf h
  | vaultHot => exact execVaultHot_wf h
  | regulatorDroopCleared => exact execRegulatorDroopCleared_wf h
  | logMergeSummary => exact execLogMergeSummary_wf h

/-! ### What the environment does between the instructions -/

section
variable {core : CoreId} {slot : SlotId} {col : ColId} {line loc key ns : Nat} {fetch : Bool} {ctx : CtxId} {va : Word} {jtemp : Byte}
  {power : Nat}
variable {x : LLine} {peer : PeerId} {turn : Turn} {t u : State}
variable (h : s.mem.wf = true)
include h

theorem State.l1Takes_wf : (s.l1Takes core line).mem.wf = true := by
  unfold State.l1Takes; dsimp only
  split
  · exact ite_wf (l1Fetch_wf (mergeCopies_wf h)) h
  · exact h

theorem State.tlbFill_wf : (s.tlbFill core fetch ctx va).mem.wf = true := by
  unfold State.tlbFill; dsimp only
  split
  · exact ite_wf h h
  · exact h

theorem State.stlbFill_wf : (s.stlbFill col ctx va).mem.wf = true := ite_wf h h

theorem State.constFill_wf : (s.constFill core loc key).mem.wf = true := ite_wf (modCore_wf (mergeCopies_wf h)) h

theorem State.combDrain_wf : (s.combDrain core).mem.wf = true := by
  unfold State.combDrain
  split
  · exact reduceSlice_wf (modCore_wf h)
  · exact h

theorem State.reading_wf : (s.reading col jtemp power).mem.wf = true := watchDie_wf h

theorem State.leaseFill_wf : (s.leaseFill x).mem.wf = true := ite_wf (trimSlice_wf (modLinks_wf (makeRoom_wf h))) h

theorem State.elapse_wf : (s.elapse ns).mem.wf = true := holdsEnd_wf h

theorem State.peerAck_wf : (s.peerAck peer).mem.wf = true := by
  unfold State.peerAck; dsimp only
  split
  · exact ite_wf h (writeDone_wf (modLinks_wf h))
  · exact h

theorem State.move_wf : (s.move turn).mem.wf = true := by
  cases turn with
  | elapse => exact elapse_wf h
  | l1Fill => exact l1Takes_wf h
  | l1Evict => exact cleanDrop_wf h
  | tlbFill => exact tlbFill_wf h
  | stlbFill => exact stlbFill_wf h
  | combDrain => exact combDrain_wf h
  | constFill => exact constFill_wf h
  | copyEvict => exact service_wf (mergeCopies_wf h)
  | engineRead => exact engineAhead_wf h
  | memUpset => exact memUpset_wf h
  | parityUpset => exact parityUpset_wf h
  | parityScrub => exact parityScrub_wf h
  | stripeReport => exact stripeReport_wf h
  | droopSample => exact droopSample_wf h
  | controllerFailure => exact controllerFails_wf h
  | refreshMissed => exact refreshMissed_wf h
  | reading => exact reading_wf h
  | waysApply => exact waysApply_wf h
  | leaseFill => exact leaseFill_wf h
  | peerAck => exact peerAck_wf h
  | linkLost => exact after_wf h (execDieLinkLost_wf h)
  | bootUnitDone => exact unitDone_wf h
  | paritySymbols => exact paritySymbols_wf h
  | upset | savedUpset | cellUpset | constEvict | ideKeys | eventAck | deltaSent | refreshEnds | hdmDecoder | splitAtomic
  | lateLoad | issue | event => exact h

/-! ### Loads that return late, and issue -/

theorem State.modG_wf {g : Group} : ({ s with g := g } : State).mem.wf = true := h

omit h in
theorem exec_next_wf {i : Instr} (he : exec i s = .next t) (h : s.mem.wf = true) : t.mem.wf = true := by
  have kept := exec_wf i h
  rw [he] at kept
  exact kept

theorem State.lateDone_wf : s.lateDone.mem.wf = true := by
  unfold State.lateDone; dsimp only
  split
  · exact h
  next l _ =>
    split
    · exact h
    next b d _ =>
      split
      next heq => exact ite_wf (modG_wf (exec_next_wf heq h)) h
      next => exact h

theorem State.lateFirst_wf : s.lateFirst.mem.wf = true := by
  unfold State.lateFirst
  split
  · exact h
  · split
    · exact ite_wf h (lateDone_wf h)
    · exact lateDone_wf h

omit h in
theorem State.noteLate_wf (ht : t.mem.wf = true) : (t.noteLate u).mem.wf = true := by
  refine ite_wf ht ?_
  split
  · split
    · exact ite_wf (modG_wf ht) ht
    · exact ht
  · exact ht

theorem State.lateLoad_wf : (s.lateLoad core slot).mem.wf = true := by
  unfold State.lateLoad
  split
  · exact h
  · have focused := focus_wf h (by assumption)
    exact ite_wf (lateDone_wf focused) (modG_wf focused)

theorem State.issueNow_wf : NextWf s.issueNow := by
  unfold State.issueNow
  split
  · exact exec_wf _ (begin_wf h)
  · exact exec_wf _ (begin_wf h)
  · exact exec_wf _ (reportAll_wf _ h)
  · exact h

theorem State.issue_wf : NextWf s.issue := by
  unfold State.issue
  have issued := issueNow_wf (lateFirst_wf h)
  split
  next heq =>
    rw [heq] at issued
    exact noteLate_wf issued
  next => exact issued

omit h in
theorem NextWf.ite {c : Prop} [Decidable c] {a b : Host.Outcome State Fault Refusal} (ha : NextWf a) (hb : NextWf b) :
    NextWf (if c then a else b) := by
  split
  · exact ha
  · exact hb

theorem State.take_wf : NextWf (s.take turn) := by
  unfold State.take
  split
  · split
    · trivial
    · have focused := focus_wf h (by assumption)
      exact .ite (issue_wf focused) focused
  · exact .ite (exec_wf _ h) h
  · exact lateLoad_wf h
  · exact move_wf h

theorem State.ageGroups_wf : s.ageGroups.mem.wf = true := h

theorem State.ownStep_wf : NextWf s.ownStep := by
  have aged := ageGroups_wf (elapse_wf (ns := 1) h)
  unfold State.ownStep; dsimp only
  split
  · exact take_wf aged
  · exact aged

/-- Whatever one step does, it keeps the form. -/
theorem step_wf : NextWf (step s) := by
  unfold step
  split
  · exact take_wf (s := { s with turns := _ }) h
  · exact ownStep_wf h

end

/-- Settles O20: `step_wf`, the form carried through whatever a step does, operation by operation. -/
theorem stepKeepsMemoryForm : Obligations.StepKeepsMemoryForm := by
  unfold Obligations.StepKeepsMemoryForm
  intro s t h hs
  have kept := step_wf h
  rw [hs] at kept
  exact kept

end Sys2Proof.Machine
end

section
/-! Tables and registers: what a read gives after a write, to the same register and to another (R14 to R16, R22). -/
namespace Sys2Proof.Machine
-- One proof at a time: proofs elaborated side by side each take a thread and its stack.
set_option Elab.async false

/-! ### Tables -/

theorem atD_put_same {α : Type} {n i : Nat} (x : Vector α n) (a d : α) (h : i < n) : atD (put x i a) i d = a := by
  simp [atD, put, h]

theorem atD_put_ne {α : Type} {n i j : Nat} (x : Vector α n) (a d : α) (h : j ≠ i) : atD (put x i a) j d = atD x j d := by
  by_cases hi : i < n
  · simp [atD, put, hi, Vector.getElem_set_ne _ _ h.symm]
  · simp [put, hi]

theorem at0_put_same {n w i : Nat} (x : Vector (BitVec w) n) (a : BitVec w) (h : i < n) : at0 (put x i a) i = a :=
  atD_put_same x a 0 h

theorem at0_put_ne {n w i j : Nat} (x : Vector (BitVec w) n) (a : BitVec w) (h : j ≠ i) : at0 (put x i a) j = at0 x j :=
  atD_put_ne x a 0 h

@[simp] theorem at0_replicate_zero (n w i : Nat) : at0 (Vector.replicate n (0 : BitVec w)) i = 0 := by simp [at0]

theorem tabList_getElem {α : Type} (f : Nat → α) (i k j : Nat) (h : j < (tabList f i k).length) : (tabList f i k)[j] = f (i + j) := by
  induction k generalizing i j with
  | zero => simp [tabList] at h
  | succ k ih =>
    cases j with
    | zero => rfl
    | succ j => simp only [tabList, List.getElem_cons_succ, ih]; congr 1; omega

theorem atD_tab {α : Type} {n i : Nat} (f : Nat → α) (d : α) : atD (tab n f) i d = if i < n then f i else d := by
  unfold atD
  split
  · simp [tab, tabList_getElem]
  · rfl

theorem at0_tab {n w i : Nat} (f : Nat → BitVec w) : at0 (tab n f) i = if i < n then f i else 0 := atD_tab f 0

/-! ### Registers -/

@[simp] theorem Group.sReg_zero (g : Group) : g.sReg 0 = 0 := rfl
@[simp] theorem Group.setS_zero (g : Group) (x : Word) : g.setS 0 x = g := rfl
@[simp] theorem Group.pReg_zero (g : Group) : g.pReg 0 = BitVec.allOnes 64 := rfl
@[simp] theorem Group.setP_zero (g : Group) (m x : Word) : g.setP 0 m x = g := rfl

theorem Group.sReg_setS_same (g : Group) (x : Word) {r : SReg} (h : r ≠ 0) : (g.setS r x).sReg r = x := by
  simp only [Group.sReg, Group.setS, if_neg h]
  exact at0_put_same _ _ r.isLt

theorem Group.sReg_setS_ne (g : Group) (x : Word) {r q : SReg} (h : q ≠ r) : (g.setS r x).sReg q = g.sReg q := by
  unfold Group.setS
  split
  · rfl
  · simp only [Group.sReg, at0_put_ne _ _ (mt BitVec.eq_of_toNat_eq h)]

theorem Group.pReg_setP_same (g : Group) (m x : Word) {r : PReg} (h : r ≠ 0) :
    (g.setP r m x).pReg r = (g.pReg r &&& ~~~m) ||| (x &&& m) := by
  simp only [Group.setP, if_neg h]
  rw [Group.pReg, if_neg h]
  exact at0_put_same _ _ r.isLt

theorem Group.pReg_setP_ne (g : Group) (m x : Word) {r q : PReg} (h : q ≠ r) : (g.setP r m x).pReg q = g.pReg q := by
  unfold Group.setP
  split
  · rfl
  · simp only [Group.pReg, at0_put_ne _ _ (mt BitVec.eq_of_toNat_eq h)]

/-- A predicate takes the new value in the lanes of the mask and keeps the old one elsewhere (R15, R22). -/
theorem Group.getLsbD_pReg_setP (g : Group) (m x : Word) {r : PReg} (h : r ≠ 0) (k : Nat) :
    ((g.setP r m x).pReg r).getLsbD k = if m.getLsbD k then x.getLsbD k else (g.pReg r).getLsbD k := by
  rw [g.pReg_setP_same m x h]
  by_cases hk : k < 64
  · cases hm : m[k] <;> simp [hm, hk]
  · simp [BitVec.getLsbD_of_ge _ k (Nat.le_of_not_lt hk)]

/-- Settles O7: the rules of `Group.setS` and `Group.setP`. -/
theorem hardwiredRegisters : Obligations.HardwiredRegisters := by
  refine ⟨fun g x r => ⟨g.sReg_zero, g.setS_zero x, g.sReg_setS_same x, fun q => g.sReg_setS_ne x⟩,
    fun g m x r => ⟨g.pReg_zero, g.setP_zero m x, fun h k _ => g.getLsbD_pReg_setP m x h k, fun q => g.pReg_setP_ne m x⟩⟩

/-! ### Vector registers -/

/-- A write of a vector register changes it in the lanes of the mask (R22). -/
theorem Group.lane_setV_same (g : Group) (m : Word) (f : Nat → Word32) {i : Nat} (h : i < 128) (L : Nat) :
    (g.setV i m f).lane i L = if m.getLsbD L then f L else g.lane i L := by
  have written : (g.setV i m f).vReg i = tab 64 fun L => if bit m L then f L else g.lane i L := atD_put_same _ _ _ h
  rw [Group.lane, written, at0_tab]
  by_cases hL : L < 64
  · rw [if_pos hL]; rfl
  · rw [if_neg hL, BitVec.getLsbD_of_ge m L (Nat.le_of_not_lt hL)]
    simp [Group.lane, at0, hL]

theorem Group.lane_setV_ne (g : Group) (m : Word) (f : Nat → Word32) {i k : Nat} (h : k ≠ i) (L : Nat) :
    (g.setV i m f).lane k L = g.lane k L := by
  have kept : (g.setV i m f).vReg k = g.vReg k := atD_put_ne _ _ _ h
  rw [Group.lane, kept, Group.lane]

/-- A register beyond the file is not written. -/
theorem Group.lane_setV_beyond (g : Group) (m : Word) (f : Nat → Word32) {i : Nat} (h : ¬i < 128) (k L : Nat) :
    (g.setV i m f).lane k L = g.lane k L := by
  simp [Group.lane, Group.vReg, Group.setV, put, h]

/-- The lanes outside the mask and the other registers keep their words (R22). -/
theorem Group.lane_setV_frame (g : Group) (m : Word) (f : Nat → Word32) {i k L : Nat} (h : m.getLsbD L = false ∨ k ≠ i) :
    (g.setV i m f).lane k L = g.lane k L := by
  by_cases hk : k = i
  · by_cases hi : i < 128
    · rw [hk, g.lane_setV_same m f hi, h.resolve_right (not_not_intro hk)]; rfl
    · exact g.lane_setV_beyond m f hi k L
  · exact g.lane_setV_ne m f hk L

/-- A destination of the width of MD.TYPE keeps its lanes outside the mask, and the other registers theirs (R16, R22). -/
theorem Group.lane_setRaw_frame (g : Group) (d : VReg) (m : Word) (f : Nat → Nat) {k L : Nat}
    (h : m.getLsbD L = false ∨ k < d.toNat ∨ d.toNat + (if g.wide then 2 else 1) ≤ k) :
    (g.setRaw d m f).lane k L = g.lane k L := by
  unfold Group.setRaw
  split
  · rw [if_pos ‹_›] at h
    rw [Group.setV64, Group.lane_setV_frame _ _ _ (h.imp_right (by omega)), Group.lane_setV_frame _ _ _ (h.imp_right (by omega))]
  · rw [if_neg ‹_›] at h
    exact g.lane_setV_frame _ _ (h.imp_right (by omega))

theorem Group.setRaw_eq (g : Group) (d : VReg) (m : Word) (f : Nat → Nat) :
    g.setRaw d m f = { g with v := (g.setRaw d m f).v, bad := (g.setRaw d m f).bad } := by
  unfold Group.setRaw; split <;> rfl

end Sys2Proof.Machine
end

section
/-! The lane-wise instructions have one shape, and what it leaves alone (R16, R22, R23, R113). -/
namespace Sys2Proof.Machine
open Sys2Proof.Safety
-- One proof at a time: proofs elaborated side by side each take a thread and its stack.
set_option Elab.async false

theorem Group.lane_compute_frame (g : Group) (d : VReg) (m : Word) (f : Nat → Nat × Flags) {k L : Nat}
    (h : m.getLsbD L = false ∨ k < d.toNat ∨ d.toNat + (if g.wide then 2 else 1) ≤ k) :
    (g.compute d m f).lane k L = g.lane k L :=
  g.lane_setRaw_frame d m _ h

/-- A lane-wise computation changes vector registers, flags and the errors that the write heals, and nothing else of the group. -/
theorem Group.compute_eq (g : Group) (d : VReg) (m : Word) (f : Nat → Nat × Flags) :
    g.compute d m f = { g with v := (g.compute d m f).v, fl := (g.compute d m f).fl, bad := (g.compute d m f).bad } := by
  simp only [Group.compute, Group.orFlags]
  rw [Group.setRaw_eq]

/-- Flags are ORed into FL[6:0] (R23, R24). -/
theorem Group.compute_fl (g : Group) (d : VReg) (m : Word) (f : Nat → Nat × Flags) :
    ∃ x : BitVec 7, (g.compute d m f).fl = g.fl ||| x.zeroExtend 32 := by
  simp only [Group.compute, Group.orFlags]
  rw [Group.setRaw_eq]
  exact ⟨_, rfl⟩

/-- Outside a glyph the next word follows (R111). -/
theorem Group.retire_of_glyph_none {g : Group} (h : g.glyph = none) :
    g.retire = { g with alReads := [], peerData := none, fetched := none, kept := [], pc := pcOf (g.pc + 4) } := by
  simp [Group.retire, h, Group.settled]

/-- Every lane-wise instruction has the shape that its form gives; FEXP2 and FLOG2 use a free value besides (R43). -/
theorem exec_eq_lanewiseWith {i : Instr} {x : LaneForm} (s : State) (hx : laneForm i = some x) :
    ∃ u f, (u = s ∨ u = tickOn s) ∧ exec i s = lanewiseWith u x.guard x.d x.readsD x.srcs x.ss x.ps x.accepts f := by
  unfold laneForm at hx
  split at hx
  case h_49 => cases hx  -- an instruction without a form
  all_goals
    obtain rfl := Option.some.inj hx
    unfold exec
    dsimp only
  case h_44 | h_45 =>  -- FEXP2, FLOG2
    simp only [execFexp2, execFlog2, faithful, lanewise]
    exact ⟨tickOn s, _, .inr rfl, rfl⟩
  all_goals
    simp only [execVadd, execVsub, execVmul, execVmulh, execVmin, execVmax, execVabsd, execVavg, execVsll, execVsrl, execVsra,
      execVadds, execVsubs, execVdiv, execVrem, execVand, execVor, execVxor, execVandn, execVpopc, execVclz, execVabs, execVaddi,
      execVslli, execVsrli, execVsrai, execVmad, execVdot4, execVmovi, execFadd, execFsub, execFmul, execFdiv, execFmin, execFmax,
      execFsgnj, execFma, execFms, execFnma, execFabs, execFneg, execFsqrt, execFrsq, execVsel, execVmov, execVbcast,
      bitwise, float1, float2, float3, elemwise1, elemwise2, elemwise3, lanewise]
    exact ⟨s, _, .inl rfl, rfl⟩

/-- With its operands ready, a lane-wise instruction computes its destination in the Active lanes and retires (R113). -/
theorem exec_of_laneForm {i : Instr} {x : LaneForm} {s : State} (hx : laneForm i = some x)
    (hr : OperandsReady s (laneOps s x.guard x.d x.readsD x.srcs) (laneOps s x.guard x.d x.readsD x.srcs) x.accepts x.ss
      (s.g.guardIdx x.guard :: x.ps)) :
    ∃ n f, exec i s = .next { s with tick := n, g := (s.g.compute x.d (s.g.active x.guard) f).retire } := by
  obtain ⟨u, f, rfl | rfl, he⟩ := exec_eq_lanewiseWith s hx
  · exact ⟨u.tick, _, he.trans (lanewiseWith_ok hr)⟩
  · exact ⟨s.tick + 1, _, he.trans (lanewiseWith_ok (s := tickOn s) hr)⟩

/-- Settles O26: what `Group.compute` leaves alone, through the one shape of the lane-wise instructions. -/
theorem laneFrame : Obligations.LaneFrame := by
  intro i x s hx hr hg
  obtain ⟨n, f, he⟩ := exec_of_laneForm hx hr
  have hc := s.g.compute_eq x.d (s.g.active x.guard) f
  have hlane := fun k L => s.g.lane_compute_frame x.d (s.g.active x.guard) f (k := k) (L := L)
  obtain ⟨y, hfl⟩ := s.g.compute_fl x.d (s.g.active x.guard) f
  generalize s.g.compute x.d (s.g.active x.guard) f = c at he hc hlane hfl
  have hret := Group.retire_of_glyph_none (g := c) (by rw [hc]; exact hg)
  refine ⟨_, he, rfl, ?_, ?_, ?_, ?_, ?_⟩
  · rw [hret, hc]
  · intro k L h
    rw [hret]
    exact hlane k L h
  · intro k hk
    rw [hret, hfl]
    simp [hk]
  · intro k hk
    rw [hret, hfl]
    simp [hk]
  · rw [hret, hc]

end Sys2Proof.Machine
end

section
/-! The special registers: what SREAD and SWRITE do, and the fields of GSTAT and EVT (R28, R30 to R32, R104, R105). -/
namespace Sys2Proof.Machine
open Sys2Proof.Safety
-- One proof at a time: proofs elaborated side by side each take a thread and its stack.
set_option Elab.async false

/-! ### Reading -/

/-- An instruction that reads no register meets none in error (R197). -/
theorem sound_nothing (s : State) : s.sound [] [] [] = .ok () := by
  have noHit : poisonHits s.g.live [] [] [] s.g.bad = [] := by simp [poisonHits, BadReg.hit]
  simp [State.sound, noHit, leastNat]

theorem exec_sreadScalar_eq (s : State) (d : SReg) (sel : Sel) :
    exec (.sreadScalar d sel) s = .next (s.retireWith (s.g.setS d (s.special sel))) := scalarOp_ok (sound_nothing s)

theorem exec_sreadVector_ok {s : State} {G : Guard} {v : VReg} (sel : Sel)
    (h : OperandsReady s [vSpan v 1 false 0] [vSpan v 1 false 0] anyType [] [s.g.guardIdx G]) :
    exec (.sreadVector G v sel) s = .next (s.retireWith (s.g.setV v.toNat (s.g.active G) fun L =>
      if sel = .lane then BitVec.ofNat 32 L else (s.special sel).extractLsb' 0 32)) := by
  simp only [exec_sreadVector, execSreadVector, operands_ok h]; rfl

/-! ### Fields of a packed register -/

/-- A field of a packed register, as a number. -/
theorem toNat_field_ofNat (n : Nat) {lo k : Nat} (h : lo + k ≤ 64) :
    ((BitVec.ofNat 64 n).extractLsb' lo k).toNat = n / 2 ^ lo % 2 ^ k := by
  rw [BitVec.extractLsb'_toNat, BitVec.toNat_ofNat, Nat.shiftRight_eq_div_pow, show 64 = lo + (64 - lo) by omega, Nat.pow_add,
    Nat.mod_mul_right_div_self, Nat.mod_mod_of_dvd _ (Nat.pow_dvd_pow 2 (by omega))]

theorem getLsbD_ofNat_64 (n : Nat) {k : Nat} (h : k < 64) : (BitVec.ofNat 64 n).getLsbD k = decide (n / 2 ^ k % 2 = 1) := by
  rw [BitVec.getLsbD_ofNat, Nat.testBit_eq_decide_div_mod_eq]; simp [h]

/-- GSTAT: SPILLED in [31:16], HND in [5], RSDEPTH in [4:0], zero elsewhere (R28). -/
theorem Group.gstat_fields (g : Group) (h : g.rs.length ≤ 31) :
    g.gstat.extractLsb' 16 16 = g.spilled ∧ g.gstat.getLsbD 5 = g.hnd ∧ (g.gstat.extractLsb' 0 5).toNat = g.rs.length ∧
      g.gstat.extractLsb' 6 10 = 0 ∧ g.gstat.extractLsb' 32 32 = 0 := by
  have hs := g.spilled.isLt
  unfold Group.gstat
  refine ⟨BitVec.eq_of_toNat_eq ?_, ?_, ?_, BitVec.eq_of_toNat_eq ?_, BitVec.eq_of_toNat_eq ?_⟩
  · rw [toNat_field_ofNat _ (by omega)]; split <;> omega
  · rw [getLsbD_ofNat_64 _ (by omega)]; cases g.hnd <;> simp <;> omega
  · rw [toNat_field_ofNat _ (by omega)]; split <;> omega
  · rw [toNat_field_ofNat _ (by omega)]; split <;> simp <;> omega
  · rw [toNat_field_ofNat _ (by omega)]; split <;> simp <;> omega

/-- EVT: the throttle events in [15:8], PEND in [2], LEVEL in [1:0], zero elsewhere (R31). -/
theorem CoreState.evt_fields (c : CoreState) :
    (c.evt.extractLsb' 8 8).toNat = c.evtCount.toNat % 256 ∧ c.evt.getLsbD 2 = c.evtPend ∧ c.evt.extractLsb' 0 2 = c.evtLevel ∧
      c.evt.extractLsb' 3 5 = 0 ∧ c.evt.extractLsb' 16 48 = 0 := by
  have hl := c.evtLevel.isLt
  have hn := c.evtCount.isLt
  unfold CoreState.evt
  refine ⟨?_, ?_, BitVec.eq_of_toNat_eq ?_, BitVec.eq_of_toNat_eq ?_, BitVec.eq_of_toNat_eq ?_⟩
  · rw [toNat_field_ofNat _ (by omega)]; split <;> omega
  · rw [getLsbD_ofNat_64 _ (by omega)]; cases c.evtPend <;> simp <;> omega
  · rw [toNat_field_ofNat _ (by omega)]; split <;> omega
  · rw [toNat_field_ofNat _ (by omega)]; split <;> simp <;> omega
  · rw [toNat_field_ofNat _ (by omega)]; split <;> simp <;> omega

/-! ### Writing -/

theorem legalMode_iff (x : Word) : legalMode x = true ↔ x.toNat < 2 ^ 23 ∧ x.toNat % 16 < 10 ∧ x.toNat / 16 % 8 < 5 := by
  simp only [legalMode, Bool.and_eq_true, beq_iff_eq, decide_eq_true_eq, Nat.div_eq_zero_iff, and_assoc]
  omega

section
variable {s : State} {a : SReg} {sel : Sel}
variable (hs : s.sound [] [a] [] = .ok ())
include hs

/-- SWRITE after its source: the permission, the alignment of SPILLBASE, the legality of TMD, the write (R105). -/
theorem exec_swrite_eq : exec (.swrite a sel) s = finish s (do
    need (sel == .spillbase || (trapSel sel && s.g.hnd)) (trapN .privilege sel.code)
    need (sel != .spillbase || (s.g.sReg a).toNat % 64 == 0) (trapN .illegalOperand a.toNat)
    need (sel != .tmd || legalMode (s.g.sReg a)) (trapN .illegalMode 0)
    .ok (s.retireWith (s.g.writeSpecial sel (s.g.sReg a)))) := by
  simp only [exec_swrite, execSwrite, hs]; rfl

theorem exec_swrite_privilege (hp : (sel == .spillbase || (trapSel sel && s.g.hnd)) = false) :
    exec (.swrite a sel) s = .next (s.takeTrap ⟨.privilege, BitVec.ofNat 64 sel.code, 0, [], none⟩) := by
  rw [exec_swrite_eq hs, hp]; rfl

theorem exec_swrite_spillbase (hx : (s.g.sReg a).toNat % 64 = 0) :
    exec (.swrite a .spillbase) s = .next (s.retireWith { s.g with spillBase := s.g.sReg a }) := by
  rw [exec_swrite_eq hs, hx]; rfl

theorem exec_swrite_misaligned (hx : (s.g.sReg a).toNat % 64 ≠ 0) :
    exec (.swrite a .spillbase) s = .next (s.takeTrap ⟨.illegalOperand, a.zeroExtend 64, 0, [], none⟩) := by
  rw [exec_swrite_eq hs, beq_false_of_ne hx, BitVec.zeroExtend, ← BitVec.ofNat_toNat]; rfl

theorem exec_swrite_trapRegister (ht : trapSel sel = true) (hh : s.g.hnd = true) (hl : sel = .tmd → legalMode (s.g.sReg a) = true) :
    exec (.swrite a sel) s = .next (s.retireWith (s.g.writeSpecial sel (s.g.sReg a))) := by
  have aligned : (sel != .spillbase) = true := bne_iff_ne.2 (by rintro rfl; cases ht)
  have legal : (sel != .tmd || legalMode (s.g.sReg a)) = true := by
    by_cases h : sel = .tmd
    · simp [hl h]
    · simp [h]
  rw [exec_swrite_eq hs, ht, hh, aligned, legal, Bool.and_self, Bool.or_true]; rfl

theorem exec_swrite_illegalMode (hh : s.g.hnd = true) (hl : legalMode (s.g.sReg a) = false) :
    exec (.swrite a .tmd) s = .next (s.takeTrap ⟨.illegalMode, 0, 0, [], none⟩) := by
  rw [exec_swrite_eq hs, hh, hl]; rfl

end

theorem trapSel_iff (sel : Sel) : trapSel sel = true ↔
    sel = .tcause ∨ sel = .taddr ∨ sel = .tmask ∨ sel = .tpc ∨ sel = .tstep ∨ sel = .tmd := by
  cases sel <;> decide

/-- Settles O11: SREAD and SWRITE by their rules, GSTAT and EVT by their fields. -/
theorem specialRegisters : Obligations.SpecialRegisters := by
  constructor
  · intro s G d v sel
    refine ⟨exec_sreadScalar_eq s d sel, exec_sreadVector_ok sel, rfl, rfl, rfl, rfl, rfl, rfl, rfl, rfl, rfl, rfl, rfl, rfl, rfl,
      rfl, rfl, rfl, rfl, rfl, rfl, rfl, rfl, s.g.gstat_fields, s.core.evt_fields⟩
  · intro s a sel hs x trapRegister legal writes
    have hlegal : legalMode x = true ↔ legal := legalMode_iff x
    refine ⟨?_, ?_, fun hh => ⟨?_, ?_, ?_, ?_, ?_, ?_, ?_⟩, ?_⟩
    · rintro rfl hx; exact exec_swrite_spillbase hs hx
    · rintro rfl hx; exact exec_swrite_misaligned hs hx
    · rintro rfl; exact exec_swrite_trapRegister hs rfl hh nofun
    · rintro rfl; exact exec_swrite_trapRegister hs rfl hh nofun
    · rintro rfl; exact exec_swrite_trapRegister hs rfl hh nofun
    · rintro rfl; exact exec_swrite_trapRegister hs rfl hh nofun
    · rintro rfl; exact exec_swrite_trapRegister hs rfl hh nofun
    · rintro rfl hx; exact exec_swrite_trapRegister hs rfl hh fun _ => hlegal.2 hx
    · rintro rfl hx; exact exec_swrite_illegalMode hs hh (Bool.eq_false_iff.2 (mt hlegal.1 hx))
    · intro hb ht
      refine exec_swrite_privilege hs ?_
      rw [beq_false_of_ne hb, Bool.false_or, ← Bool.not_eq_true, Bool.and_eq_true, trapSel_iff]
      exact ht

end Sys2Proof.Machine
end

section
/-! The state after reset and the registers of a new group (R33). -/
namespace Sys2Proof.Machine
-- One proof at a time: proofs elaborated side by side each take a thread and its stack.
set_option Elab.async false

/-- Bit `k` of the number whose bits a list gives, the lowest first. -/
theorem testBit_foldr_bits (l : List Bool) (k : Nat) :
    (l.foldr (fun (b : Bool) n => (if b then 1 else 0) + 2 * n) 0).testBit k = l.getD k false := by
  induction l generalizing k with
  | nil => simp
  | cons b r ih =>
    rw [List.foldr_cons]
    cases k with
    | zero => cases b <;> simp
    | succ k =>
      rw [Nat.testBit_succ, List.getD_cons_succ, ← ih]
      congr 1
      split <;> omega

/-- A mask of lanes holds the lanes below 64 that satisfy its function. -/
theorem getLsbD_maskOf (f : Nat → Bool) {k : Nat} (h : k < 64) : (maskOf f).getLsbD k = f k := by
  rw [maskOf, BitVec.getLsbD_ofNat, testBit_foldr_bits, List.getD_eq_getElem _ _ (by rwa [tabList_length]), tabList_getElem]
  simp [h]

/-- Each register of the first n takes its entry, and the others stand. -/
theorem atD_foldl_put {α : Type} {m : Nat} (x : Vector α m) (f : Nat → α) (d : α) {n : Nat} (hn : n ≤ m) (i : Nat) :
    atD ((List.range n).foldl (fun v j => put v j (f j)) x) i d = if i < n then f i else atD x i d := by
  induction n with
  | zero => simp
  | succ n ih =>
    rw [List.range_succ, List.foldl_append, List.foldl_cons, List.foldl_nil]
    rcases eq_or_ne i n with rfl | hi
    · rw [atD_put_same _ _ _ (by omega), if_pos (by omega)]
    · rw [atD_put_ne _ _ _ hi, ih (by omega)]
      simp only [show i < n + 1 ↔ i < n by omega]

section
variable (t : Team) (l : Launch) (core : CoreId) (slot : SlotId) (k : Nat) (role : Role)

theorem newGroup_sReg (r : SReg) : (newGroup t l core slot k role).sReg r = if r = 1 then l.args else 0 := by
  split
  next h => subst h; exact at0_put_same (i := 1) Group.reset.s l.args (by decide)
  next h =>
    rw [Group.sReg]
    split
    · rfl
    · exact (at0_put_ne _ _ (mt BitVec.eq_of_toNat_eq h)).trans (at0_replicate_zero ..)

theorem newGroup_pReg {p : PReg} (h : p ≠ 0) : (newGroup t l core slot k role).pReg p = 0 := by
  rw [Group.pReg, if_neg h]; exact at0_replicate_zero ..

theorem newGroup_acc (i L : Nat) : (newGroup t l core slot k role).acc i L = 0 := by
  have blank : atD Group.reset.a i (Vector.replicate 64 0) = Vector.replicate 64 0 := by simp [atD, Group.reset]
  exact (congrArg (at0 · L) blank).trans (at0_replicate_zero ..)

theorem Group.lane_reset (i L : Nat) : Group.reset.lane i L = 0 := by
  have blank : Group.reset.vReg i = Vector.replicate 64 0 := by simp [Group.vReg, atD, Group.reset]
  rw [Group.lane, blank]; exact at0_replicate_zero ..

/-- A lane of a new group: its payload where it is a spawned one and the budget reaches v0 to v3, otherwise 0 (R33). -/
theorem newGroup_lane (i L : Nat) : (newGroup t l core slot k role).lane i L =
    if t.spawned = true ∧ 8 ≤ l.vBud.getD role.code 0 ∧ i < 4 ∧ L < 64 then (t.payloads.getD L []).getD i 0 else 0 := by
  have regs : (newGroup t l core slot k role).vReg i =
      if (t.spawned = true ∧ 8 ≤ l.vBud.getD role.code 0) ∧ i < 4 then payloadReg t.payloads i else Group.reset.vReg i := by
    rw [ite_and]
    unfold Group.vReg
    rw [← atD_foldl_put _ _ _ (by decide : 4 ≤ 128)]
    simp only [newGroup, Bool.and_eq_true, decide_eq_true_eq]
    split <;> rfl
  rw [Group.lane, regs]
  by_cases h : (t.spawned = true ∧ 8 ≤ l.vBud.getD role.code 0) ∧ i < 4
  · obtain ⟨⟨hs, hb⟩, hi⟩ := h
    rw [if_pos ⟨⟨hs, hb⟩, hi⟩, payloadReg, at0_tab]
    simp only [hs, hb, hi, true_and]
  · rw [if_neg h, if_neg fun ⟨hs, hb, hi, _⟩ => h ⟨⟨hs, hb⟩, hi⟩]
    exact Group.lane_reset i L

theorem newGroup_live {L : Nat} (h : L < 64) :
    (newGroup t l core slot k role).live.getLsbD L = true ↔ t.spawned = false ∨ L < t.payloads.length := by
  have live : (newGroup t l core slot k role).live = if t.spawned then lowMask t.payloads.length else BitVec.allOnes 64 := rfl
  rw [live]
  cases t.spawned
  · simp only [Bool.false_eq_true, if_false, BitVec.getLsbD_allOnes, h, decide_true, true_or]
  · simp [lowMask, getLsbD_maskOf _ h]

theorem newGroup_gstat : (newGroup t l core slot k role).gstat = 0 := by simp [Group.gstat, newGroup, Group.reset]

end

/-- Settles O19: the reset state as it is written, and the registers of a new group, file by file. -/
theorem resetAndCreation : Obligations.ResetAndCreation := by
  constructor
  · have ctx (c : CtxId) : State.reset.ctxs.get c = Ctx.reset := Vector.get_replicate ..
    have col (c : ColId) : State.reset.cols.get c = ColState.reset := Vector.get_replicate ..
    have jrn (j : JournalId) : State.reset.jrns.get j = Journal.reset := Vector.get_replicate ..
    refine ⟨rfl, rfl, rfl, rfl, rfl, fun c => ?_, fun c => ?_, rfl, rfl, rfl, fun j => ?_, rfl, rfl, rfl⟩
    · rw [ctx]; rfl
    · rw [col]; exact ⟨rfl, rfl, rfl, rfl, rfl, rfl⟩
    · rw [jrn]; exact ⟨rfl, rfl⟩
  · intro t l core slot k role g
    have lanes := newGroup_lane t l core slot k role
    refine ⟨rfl, newGroup_sReg t l core slot k role 1, fun r hr => (newGroup_sReg t l core slot k role r).trans (if_neg hr),
      fun p => newGroup_pReg t l core slot k role, fun i L hi => (lanes i L).trans (if_neg ?_),
      fun hs i L => (lanes i L).trans (if_neg ?_), fun hs hb i hi L hL => (lanes i L).trans (if_pos ⟨hs, hb, hi, hL⟩),
      fun hs hb i L => (lanes i L).trans (if_neg ?_), newGroup_acc t l core slot k role,
      rfl, rfl, rfl, rfl, rfl, rfl, newGroup_gstat t l core slot k role, rfl, rfl, rfl, rfl, rfl, rfl,
      fun L => newGroup_live t l core slot k role, rfl, rfl⟩
    · rintro ⟨_, _, h, _⟩; omega
    · rintro ⟨h, _⟩; rw [hs] at h; cases h
    · rintro ⟨_, h, _⟩; omega

end Sys2Proof.Machine
end

section
/-! Encoding: every word decodes to the instruction that it encodes (R59 to R82). -/
namespace Sys2Proof.Laws.Encoding
open Sys2Proof
set_option Elab.async false

/-- The round trip of every instruction, row by row of R77; an event of the device has no word. -/
theorem decode_encode (i : Instr) : Statement i := by
  cases i with
  | branch => apply branch
  | call => apply call
  | nop => apply nop
  | calls => apply calls
  | ret => apply ret
  | jmps => apply jmps
  | land => apply land
  | halt => apply halt
  | poll => apply poll
  | yield => apply yield
  | endGroup => apply endGroup
  | bz => apply bz
  | bnz => apply bnz
  | bany => apply bany
  | ball => apply ball
  | bnone => apply bnone
  | jmpv => apply jmpv
  | add => apply add
  | sub => apply sub
  | and => apply and
  | or => apply or
  | xor => apply xor
  | sll => apply sll
  | srl => apply srl
  | sra => apply sra
  | mul => apply mul
  | mulh => apply mulh
  | mulhn => apply mulhn
  | div => apply div
  | divn => apply divn
  | rem => apply rem
  | remn => apply remn
  | slt => apply slt
  | sltn => apply sltn
  | min => apply min
  | max => apply max
  | minn => apply minn
  | maxn => apply maxn
  | seq => apply seq
  | clz => apply clz
  | ctz => apply ctz
  | popc => apply popc
  | addi => apply addi
  | andi => apply andi
  | ori => apply ori
  | glyph => apply glyph
  | glyld => apply glyld
  | xori => apply xori
  | slli => apply slli
  | srli => apply srli
  | srai => apply srai
  | slti => apply slti
  | liz => apply liz
  | lik => apply lik
  | ld => apply ld
  | st => apply st
  | ldk => apply ldk
  | mode => apply mode
  | mdr => apply mdr
  | flr => apply flr
  | flclr => apply flclr
  | sreadScalar => apply sreadScalar
  | swrite => apply swrite
  | sreadVector => apply sreadVector
  | pand => apply pand
  | por => apply por
  | pxor => apply pxor
  | pmov => apply pmov
  | pset => apply pset
  | pget => apply pget
  | pcnt => apply pcnt
  | pfirst => apply pfirst
  | cvt => apply cvt
  | cvtFrom => apply cvtFrom
  | quant => apply quant
  | deq => apply deq
  | vmovi => apply vmovi
  | vadd => apply vadd
  | vsub => apply vsub
  | vmul => apply vmul
  | vmulh => apply vmulh
  | vmin => apply vmin
  | vmax => apply vmax
  | vabsd => apply vabsd
  | vavg => apply vavg
  | vand => apply vand
  | vor => apply vor
  | vxor => apply vxor
  | vandn => apply vandn
  | vsll => apply vsll
  | vsrl => apply vsrl
  | vsra => apply vsra
  | vpopc => apply vpopc
  | vadds => apply vadds
  | vsubs => apply vsubs
  | vmad => apply vmad
  | vdot4 => apply vdot4
  | vdiv => apply vdiv
  | vrem => apply vrem
  | vclz => apply vclz
  | vabs => apply vabs
  | vaddi => apply vaddi
  | vslli => apply vslli
  | vsrli => apply vsrli
  | vsrai => apply vsrai
  | fadd => apply fadd
  | fsub => apply fsub
  | fmul => apply fmul
  | fmin => apply fmin
  | fmax => apply fmax
  | fabs => apply fabs
  | fneg => apply fneg
  | fsgnj => apply fsgnj
  | fma => apply fma
  | fms => apply fms
  | fnma => apply fnma
  | fdiv => apply fdiv
  | fsqrt => apply fsqrt
  | frsq => apply frsq
  | fexp2 => apply fexp2
  | flog2 => apply flog2
  | vcmp => apply vcmp
  | fcmp => apply fcmp
  | vsel => apply vsel
  | vmov => apply vmov
  | vbcast => apply vbcast
  | shfl => apply shfl
  | shflx => apply shflx
  | shflu => apply shflu
  | shfld => apply shfld
  | vextr => apply vextr
  | vins => apply vins
  | vcompact => apply vcompact
  | vred => apply vred
  | vscan => apply vscan
  | mma => apply mma
  | azero => apply azero
  | cvta => apply cvta
  | inkz => apply inkz
  | vld => apply vld
  | spld => apply spld
  | vtld => apply vtld
  | slld => apply slld
  | vst => apply vst
  | spst => apply spst
  | vtst => apply vtst
  | slst => apply slst
  | vldc => apply vldc
  | vstc => apply vstc
  | pref => apply pref
  | amov => apply amov
  | casv => apply casv
  | redv => apply redv
  | altakev => apply altakev
  | copyv => apply copyv
  | amos => apply amos
  | reds => apply reds
  | cass => apply cass
  | lda => apply lda
  | strl => apply strl
  | fence => apply fence
  | fenceo => apply fenceo
  | alinit => apply alinit
  | altake => apply altake
  | algive => apply algive
  | alread => apply alread
  | alfree => apply alfree
  | rdvinit => apply rdvinit
  | arrive => apply arrive
  | expect => apply expect
  | waitp => apply waitp
  | waity => apply waity
  | arwait => apply arwait
  | rdvstat => apply rdvstat
  | garrive => apply garrive
  | gwait => apply gwait
  | phase => apply phase
  | copy => apply copy
  | copyt => apply copyt
  | ink => apply ink
  | mmas => apply mmas
  | spawn => apply spawn
  | launch => apply launch
  | trap => apply trap
  | hcall => apply hcall
  | eret => apply eret
  | slcfg => apply slcfg
  | tlbinv => apply tlbinv
  | cachecl => apply cachecl
  | evrd => apply evrd
  | _ => exact of_event rfl

/-- Settles O1: `decode_encode`, the round trip of each row. -/
theorem decodeEncode : Obligations.DecodeEncode :=
  fun i w hw h => decode_encode i hw w h

end Sys2Proof.Laws.Encoding
end

section
/-! Encoding: what a word decodes to is well-formed and is encoded by that word alone (R59 to R82). A decoded instruction is faithful to
its word when the encoder gives the word back; each format of R61 has one lemma, which asks for the word's fields, and each row of the
decoder is a case of that lemma. -/
namespace Sys2Proof.Laws.Encoding
open Sys2Proof
set_option Elab.async false

/-! ### Codes: a code that names a value is that value's code -/

theorem FlSel.code_of_ofCode {k : Nat} {x : FlSel} (h : FlSel.ofCode? k = some x) : k = x.code := by
  unfold FlSel.ofCode? at h; split at h <;> cases h <;> rfl

theorem Sel.code_of_ofCode {k : Nat} {x : Sel} (h : Sel.ofCode? k = some x) : k = x.code := by
  unfold Sel.ofCode? at h; split at h <;> cases h <;> rfl

theorem EType.code_of_ofCode {k : Nat} {x : EType} (h : EType.ofCode? k = some x) : k = x.code := by
  unfold EType.ofCode? at h; split at h <;> cases h <;> rfl

theorem VCond.code_of_ofCode {k : Nat} {x : VCond} (h : VCond.ofCode? k = some x) : k = x.code := by
  unfold VCond.ofCode? at h; split at h <;> cases h <;> rfl

theorem FCond.code_of_ofCode {k : Nat} {x : FCond} (h : FCond.ofCode? k = some x) : k = x.code := by
  unfold FCond.ofCode? at h; split at h <;> cases h <;> rfl

theorem RedOp.code_of_ofCode {k : Nat} {x : RedOp} (h : RedOp.ofCode? k = some x) : k = x.code := by
  unfold RedOp.ofCode? at h; split at h <;> cases h <;> rfl

theorem AOp.code_of_ofCode {k : Nat} {x : AOp} (h : AOp.ofCode? k = some x) : k = x.code := by
  unfold AOp.ofCode? at h; split at h <;> cases h <;> rfl

theorem Size.code_of_ofCode {k : Nat} {x : Size} (h : Size.ofCode? k = some x) : k = x.code := by
  unfold Size.ofCode? at h; split at h <;> cases h <;> rfl

theorem PrefSpace.code_of_ofCode {k : Nat} {x : PrefSpace} (h : PrefSpace.ofCode? k = some x) : k = x.code := by
  unfold PrefSpace.ofCode? at h; split at h <;> cases h <;> rfl

theorem Scope.code_of_ofCode {k : Nat} {x : Scope} (h : Scope.ofCode? k = some x) : k = x.code := by
  unfold Scope.ofCode? at h; split at h <;> cases h <;> rfl

theorem Order.code_of_ofCode {k : Nat} {x : Order} (h : Order.ofCode? k = some x) : k = x.code := by
  unfold Order.ofCode? at h; split at h <;> cases h <;> rfl

theorem PieceSize.code_of_ofCode {k : Nat} {x : PieceSize} (h : PieceSize.ofCode? k = some x) : k = x.code := by
  unfold PieceSize.ofCode? at h; split at h <;> cases h <;> rfl

theorem SlcfgForm.code_of_ofCode {k : Nat} {x : SlcfgForm} (h : SlcfgForm.ofCode? k = some x) : k = x.code := by
  unfold SlcfgForm.ofCode? at h; split at h <;> cases h <;> rfl

theorem TlbForm.code_of_ofCode {k : Nat} {x : TlbForm} (h : TlbForm.ofCode? k = some x) : k = x.code := by
  unfold TlbForm.ofCode? at h; split at h <;> cases h <;> rfl

theorem CacheForm.code_of_ofCode {k : Nat} {x : CacheForm} (h : CacheForm.ofCode? k = some x) : k = x.code := by
  unfold CacheForm.ofCode? at h; split at h <;> cases h <;> rfl

theorem ConvCode.code_of_ofCode {k : Nat} {x : ConvCode} (h : ConvCode.ofCode? k = some x) : k = x.code := by
  unfold ConvCode.ofCode? at h
  split at h
  · obtain ⟨t, ht, rfl⟩ := Option.map_eq_some_iff.mp h
    exact EType.code_of_ofCode ht
  · split at h
    · cases h
      simp only [ConvCode.code, BitVec.toNat_ofNat]
      omega
    · cases h

/-! ### Fields of a word -/

theorem toNat_fld (n lo w : Nat) : n / 2 ^ lo % 2 ^ w = (fld n lo : BitVec w).toNat := by
  simp only [fld, BitVec.toNat_ofNat]

theorem toNat_fld_zero (n w : Nat) : n % 2 ^ w = (fld n 0 : BitVec w).toNat := by
  simpa only [Nat.pow_zero, Nat.div_one] using toNat_fld n 0 w

/-- An operand narrower than its place in the format, the rest of which is zero (R62). -/
theorem toNat_fld_padded (lo w k : Nat) {n : Nat} (h : n / 2 ^ (lo + w) % 2 ^ k = 0) :
    n / 2 ^ lo % 2 ^ (w + k) = (fld n lo : BitVec w).toNat := by
  rw [← toNat_fld, Nat.pow_add, Nat.mod_mul, Nat.div_div_eq_div_mul, ← Nat.pow_add, h, Nat.mul_zero, Nat.add_zero]

/-! ### What the checks of R75 leave -/

/-- The unused fields of a word are zero. -/
def Zeros (n : Nat) : List (Nat × Nat) → Prop
  | [] => True
  | (lo, w) :: zs => n / 2 ^ lo % 2 ^ w = 0 ∧ Zeros n zs

theorem zeros_of_any {n : Nat} {zs : List (Nat × Nat)} (h : (zs.any fun z => n / 2 ^ z.1 % 2 ^ z.2 != 0) = false) : Zeros n zs := by
  induction zs with
  | nil => trivial
  | cons z zs ih =>
    rw [List.any_cons, Bool.or_eq_false_iff, bne_eq_false_iff_eq] at h
    exact ⟨h.1, ih h.2⟩

/-- An instruction comes from a word with a zero guard, where the guard must be, and zeros in the unused fields, and is well-formed. -/
theorem settle_eq_ok {n : Nat} {lane : Bool} {zs : List (Nat × Nat)} {r : Option Instr} {i : Instr} (h : settle n lane zs r = .ok i) :
    (lane = false → n / 2 ^ 24 % 2 ^ 2 = 0) ∧ Zeros n zs ∧ r = some i ∧ i.wf = true := by
  unfold settle at h
  split at h
  · cases h
  next guard =>
  split at h
  · cases h
  next unused =>
  split at h
  · cases h
  · split at h
    · cases h
      exact ⟨fun hl => by simpa [hl] using guard, zeros_of_any (Bool.eq_false_iff.mpr unused), rfl, by assumption⟩
    · cases h

/-- Where the decoder answers an instruction, that is well-formed and the encoder gives the word back. -/
def Faithful (n : Nat) (r : Except DecodeError Instr) : Prop :=
  ∀ i, r = .ok i → i.wf = true ∧ encode i = some (BitVec.ofNat 32 n)

section
variable {n : Nat} {lane : Bool} {zs : List (Nat × Nat)}

theorem Faithful.error {e : DecodeError} : Faithful n (.error e) := fun _ h => by cases h

theorem Faithful.settle {i : Instr}
    (h : (lane = false → n / 2 ^ 24 % 2 ^ 2 = 0) → Zeros n zs → encode i = some (BitVec.ofNat 32 n)) :
    Faithful n (settle n lane zs (some i)) := by
  intro j hj
  obtain ⟨guard, unused, hi, hw⟩ := settle_eq_ok hj
  cases hi
  exact ⟨hw, h guard unused⟩

/-- A row with a coded operand, for each value that the code may name. -/
theorem Faithful.code {α : Type} {o : Option α} {f : α → Option Instr}
    (h : ∀ c, o = some c → Faithful n (Sys2Proof.settle n lane zs (f c))) : Faithful n (Sys2Proof.settle n lane zs (o.bind f)) := by
  cases o with
  | none =>
    intro _ hj
    obtain ⟨_, _, named, _⟩ := settle_eq_ok hj
    cases named
  | some c => exact h c rfl

/-- A row with a condition on its fields. -/
theorem Faithful.cond {c : Prop} [Decidable c] {r : Option Instr} (h : c → Faithful n (Sys2Proof.settle n lane zs r)) :
    Faithful n (Sys2Proof.settle n lane zs (if c then r else none)) := by
  split
  next hc => exact h hc
  next =>
    intro _ hj
    obtain ⟨_, _, named, _⟩ := settle_eq_ok hj
    cases named

end

/-! ### The formats of R61: a word is the sum of its fields -/

section
variable {n op : Nat} {i : Instr} {lane : Bool} {zs : List (Nat × Nat)} (hn : n < 2 ^ 32) (o : n / 2 ^ 26 % 64 = op)
include hn o

theorem faithful_VR {g d a b fn : Nat} (he : encode i = some (BitVec.ofNat 32 (encVR op g d a b fn))) (hfn : n % 2 ^ 3 = fn)
    (fields : (lane = false → n / 2 ^ 24 % 2 ^ 2 = 0) → Zeros n zs →
      n / 2 ^ 24 % 2 ^ 2 = g ∧ n / 2 ^ 17 % 2 ^ 7 = d ∧ n / 2 ^ 10 % 2 ^ 7 = a ∧ n / 2 ^ 3 % 2 ^ 7 = b) :
    Faithful n (settle n lane zs (some i)) := by
  refine .settle fun guard unused => ?_
  obtain ⟨hg, hd, ha, hb⟩ := fields guard unused
  have word : encVR op g d a b fn = n := by unfold encVR; omega
  rw [he, word]

theorem faithful_VI {g d a imm : Nat} (he : encode i = some (BitVec.ofNat 32 (encVI op g d a imm)))
    (fields : (lane = false → n / 2 ^ 24 % 2 ^ 2 = 0) → Zeros n zs →
      n / 2 ^ 24 % 2 ^ 2 = g ∧ n / 2 ^ 17 % 2 ^ 7 = d ∧ n / 2 ^ 10 % 2 ^ 7 = a ∧ n % 2 ^ 10 = imm) :
    Faithful n (settle n lane zs (some i)) := by
  refine .settle fun guard unused => ?_
  obtain ⟨hg, hd, ha, himm⟩ := fields guard unused
  have word : encVI op g d a imm = n := by unfold encVI; omega
  rw [he, word]

theorem faithful_SR {d a b fn : Nat} (he : encode i = some (BitVec.ofNat 32 (encSR op d a b fn))) (hfn : n % 2 ^ 6 = fn)
    (fields : Zeros n zs → n / 2 ^ 18 % 2 ^ 6 = d ∧ n / 2 ^ 12 % 2 ^ 6 = a ∧ n / 2 ^ 6 % 2 ^ 6 = b) :
    Faithful n (settle n false zs (some i)) := by
  refine .settle fun guard unused => ?_
  have hg := guard rfl
  obtain ⟨hd, ha, hb⟩ := fields unused
  have word : encSR op d a b fn = n := by unfold encSR; omega
  rw [he, word]

theorem faithful_SI {d a imm : Nat} (he : encode i = some (BitVec.ofNat 32 (encSI op d a imm)))
    (fields : Zeros n zs → n / 2 ^ 18 % 2 ^ 6 = d ∧ n / 2 ^ 12 % 2 ^ 6 = a ∧ n % 2 ^ 12 = imm) :
    Faithful n (settle n false zs (some i)) := by
  refine .settle fun guard unused => ?_
  have hg := guard rfl
  obtain ⟨hd, ha, himm⟩ := fields unused
  have word : encSI op d a imm = n := by unfold encSI; omega
  rw [he, word]

theorem faithful_SL {d hw imm : Nat} (he : encode i = some (BitVec.ofNat 32 (encSL op d hw imm)))
    (fields : Zeros n zs → n / 2 ^ 18 % 2 ^ 6 = d ∧ n / 2 ^ 16 % 2 ^ 2 = hw ∧ n % 2 ^ 16 = imm) :
    Faithful n (settle n false zs (some i)) := by
  refine .settle fun guard unused => ?_
  have hg := guard rfl
  obtain ⟨hd, hhw, himm⟩ := fields unused
  have word : encSL op d hw imm = n := by unfold encSL; omega
  rw [he, word]

theorem faithful_BR {t off : Nat} (he : encode i = some (BitVec.ofNat 32 (encBR op t off)))
    (fields : Zeros n zs → n / 2 ^ 18 % 2 ^ 6 = t ∧ n % 2 ^ 18 = off) :
    Faithful n (settle n false zs (some i)) := by
  refine .settle fun guard unused => ?_
  have hg := guard rfl
  obtain ⟨ht, hoff⟩ := fields unused
  have word : encBR op t off = n := by unfold encBR; omega
  rw [he, word]

theorem faithful_J {off : Nat} (he : encode i = some (BitVec.ofNat 32 (encJ op off)))
    (fields : Zeros n zs → n % 2 ^ 24 = off) :
    Faithful n (settle n false zs (some i)) := by
  refine .settle fun guard unused => ?_
  have hg := guard rfl
  have hoff := fields unused
  have word : encJ op off = n := by unfold encJ; omega
  rw [he, word]

theorem faithful_MV {g d a b fn : Nat} (he : encode i = some (BitVec.ofNat 32 (encMV op g d a b fn))) (hfn : n % 2 ^ 4 = fn)
    (fields : (lane = false → n / 2 ^ 24 % 2 ^ 2 = 0) → Zeros n zs →
      n / 2 ^ 24 % 2 ^ 2 = g ∧ n / 2 ^ 17 % 2 ^ 7 = d ∧ n / 2 ^ 10 % 2 ^ 7 = a ∧ n / 2 ^ 4 % 2 ^ 6 = b) :
    Faithful n (settle n lane zs (some i)) := by
  refine .settle fun guard unused => ?_
  obtain ⟨hg, hd, ha, hb⟩ := fields guard unused
  have word : encMV op g d a b fn = n := by unfold encMV; omega
  rw [he, word]

theorem faithful_MC {g d b imm : Nat} (he : encode i = some (BitVec.ofNat 32 (encMC op g d b imm)))
    (fields : (lane = false → n / 2 ^ 24 % 2 ^ 2 = 0) → Zeros n zs →
      n / 2 ^ 24 % 2 ^ 2 = g ∧ n / 2 ^ 17 % 2 ^ 7 = d ∧ n / 2 ^ 11 % 2 ^ 6 = b ∧ n % 2 ^ 11 = imm) :
    Faithful n (settle n lane zs (some i)) := by
  refine .settle fun guard unused => ?_
  obtain ⟨hg, hd, hb, himm⟩ := fields guard unused
  have word : encMC op g d b imm = n := by unfold encMC; omega
  rw [he, word]

theorem faithful_PC {g pd pe a b fn : Nat} (he : encode i = some (BitVec.ofNat 32 (encPC op g pd pe a b fn))) (hfn : n % 2 ^ 2 = fn)
    (fields : (lane = false → n / 2 ^ 24 % 2 ^ 2 = 0) → Zeros n zs →
      n / 2 ^ 24 % 2 ^ 2 = g ∧ n / 2 ^ 20 % 2 ^ 4 = pd ∧ n / 2 ^ 16 % 2 ^ 4 = pe ∧ n / 2 ^ 9 % 2 ^ 7 = a ∧ n / 2 ^ 2 % 2 ^ 7 = b) :
    Faithful n (settle n lane zs (some i)) := by
  refine .settle fun guard unused => ?_
  obtain ⟨hg, hpd, hpe, ha, hb⟩ := fields guard unused
  have word : encPC op g pd pe a b fn = n := by unfold encPC; omega
  rw [he, word]

theorem faithful_X {g q a mg fa fb fn : Nat} (he : encode i = some (BitVec.ofNat 32 (encX op g q a mg fa fb fn))) (hfn : n % 2 ^ 3 = fn)
    (fields : (lane = false → n / 2 ^ 24 % 2 ^ 2 = 0) → Zeros n zs →
      n / 2 ^ 24 % 2 ^ 2 = g ∧ n / 2 ^ 22 % 2 ^ 2 = q ∧ n / 2 ^ 15 % 2 ^ 7 = a ∧
      n / 2 ^ 9 % 2 ^ 6 = mg ∧ n / 2 ^ 6 % 2 ^ 3 = fa ∧ n / 2 ^ 3 % 2 ^ 3 = fb) :
    Faithful n (settle n lane zs (some i)) := by
  refine .settle fun guard unused => ?_
  obtain ⟨hg, hq, ha, hmg, hfa, hfb⟩ := fields guard unused
  have word : encX op g q a mg fa fb fn = n := by unfold encX; omega
  rw [he, word]

theorem faithful_Y {pt a b fn : Nat} (he : encode i = some (BitVec.ofNat 32 (encY op pt a b fn))) (hfn : n % 2 ^ 7 = fn)
    (fields : Zeros n zs → n / 2 ^ 19 % 2 ^ 5 = pt ∧ n / 2 ^ 13 % 2 ^ 6 = a ∧ n / 2 ^ 7 % 2 ^ 6 = b) :
    Faithful n (settle n false zs (some i)) := by
  refine .settle fun guard unused => ?_
  have hg := guard rfl
  obtain ⟨hpt, ha, hb⟩ := fields unused
  have word : encY op pt a b fn = n := by unfold encY; omega
  rw [he, word]

theorem faithful_G {gi pA pB kinds : Nat} (he : encode i = some (BitVec.ofNat 32 (encG op gi pA pB kinds)))
    (fields : Zeros n zs → n / 2 ^ 16 % 2 ^ 8 = gi ∧ n / 2 ^ 9 % 2 ^ 7 = pA ∧ n / 2 ^ 2 % 2 ^ 7 = pB ∧ n % 2 ^ 2 = kinds) :
    Faithful n (settle n false zs (some i)) := by
  refine .settle fun guard unused => ?_
  have hg := guard rfl
  obtain ⟨hgi, hpA, hpB, hkinds⟩ := fields unused
  have word : encG op gi pA pB kinds = n := by unfold encG; omega
  rw [he, word]

theorem faithful_SS {d a sel fn : Nat} (he : encode i = some (BitVec.ofNat 32 (encSS op d a sel fn))) (hfn : n % 2 ^ 4 = fn)
    (fields : Zeros n zs → n / 2 ^ 18 % 2 ^ 6 = d ∧ n / 2 ^ 12 % 2 ^ 6 = a ∧ n / 2 ^ 4 % 2 ^ 8 = sel) :
    Faithful n (settle n false zs (some i)) := by
  refine .settle fun guard unused => ?_
  have hg := guard rfl
  obtain ⟨hd, ha, hsel⟩ := fields unused
  have word : encSS op d a sel fn = n := by unfold encSS; omega
  rw [he, word]

theorem faithful_SV {g d a b fn : Nat} (he : encode i = some (BitVec.ofNat 32 (encSV op g d a b fn))) (hfn : n % 2 ^ 4 = fn)
    (fields : (lane = false → n / 2 ^ 24 % 2 ^ 2 = 0) → Zeros n zs →
      n / 2 ^ 24 % 2 ^ 2 = g ∧ n / 2 ^ 17 % 2 ^ 7 = d ∧ n / 2 ^ 10 % 2 ^ 7 = a ∧ n / 2 ^ 4 % 2 ^ 6 = b) :
    Faithful n (settle n lane zs (some i)) := by
  refine .settle fun guard unused => ?_
  obtain ⟨hg, hd, ha, hb⟩ := fields guard unused
  have word : encSV op g d a b fn = n := by unfold encSV; omega
  rw [he, word]

theorem faithful_SM {imm fn : Nat} (he : encode i = some (BitVec.ofNat 32 (encSM op imm fn))) (hfn : n % 2 ^ 4 = fn)
    (fields : Zeros n zs → n / 2 ^ 4 % 2 ^ 20 = imm) :
    Faithful n (settle n false zs (some i)) := by
  refine .settle fun guard unused => ?_
  have hg := guard rfl
  have himm := fields unused
  have word : encSM op imm fn = n := by unfold encSM; omega
  rw [he, word]

end

/-! ### The rows of each major opcode -/

section
variable {n : Nat} (hn : n < 2 ^ 32)
include hn

theorem major03_faithful (o : n / 2 ^ 26 % 64 = 0x03) : Faithful n (major03 n) := by
  unfold major03
  split
  case h_2 | h_4 => exact faithful_SR hn o rfl (by assumption) fun ⟨hb, hd, _⟩ => ⟨hd, toNat_fld .., hb⟩
  case h_10 => exact .error
  all_goals exact faithful_SR hn o rfl (by assumption) fun ⟨hb, ha, hd, _⟩ => ⟨hd, ha, hb⟩

theorem major09_faithful (o : n / 2 ^ 26 % 64 = 0x09) : Faithful n (major09 n) := by
  unfold major09
  split
  · exact faithful_VR hn o rfl (by assumption) fun hg ⟨hb, hd, _⟩ => ⟨hg rfl, hd, toNat_fld .., hb⟩
  · exact .error

theorem major0A_faithful (o : n / 2 ^ 26 % 64 = 0x0A) : Faithful n (major0A n) := by
  unfold major0A
  split
  case h_23 | h_24 | h_25 => exact faithful_SR hn o rfl (by assumption) fun ⟨hb, _⟩ => ⟨toNat_fld .., toNat_fld .., hb⟩
  case h_26 => exact .error
  all_goals exact faithful_SR hn o rfl (by assumption) fun _ => ⟨toNat_fld .., toNat_fld .., toNat_fld ..⟩

/-- The counts of the three shifts stand below the code of the shift. -/
theorem major11_faithful (o : n / 2 ^ 26 % 64 = 0x11) : Faithful n (major11 n) := by
  have cnt := toNat_fld_zero n 6
  unfold major11
  split
  case h_4 => exact .error
  all_goals exact faithful_SI hn o rfl fun ⟨above, _⟩ => ⟨toNat_fld .., toNat_fld .., by omega⟩

theorem major18_faithful (o : n / 2 ^ 26 % 64 = 0x18) : Faithful n (major18 n) := by
  unfold major18
  split
  case h_1 => exact faithful_SS hn o rfl (by assumption) fun _ => ⟨toNat_fld .., toNat_fld .., toNat_fld ..⟩
  case h_2 | h_3 => exact .cond fun hsel => faithful_SS hn o rfl (by assumption) fun ⟨ha, _⟩ => ⟨toNat_fld .., ha, hsel⟩
  case h_4 =>
    exact .code fun _ hs => faithful_SS hn o rfl (by assumption) fun _ => ⟨toNat_fld .., toNat_fld .., FlSel.code_of_ofCode hs⟩
  case h_5 => exact .code fun _ hs => faithful_SS hn o rfl (by assumption) fun ⟨ha, _⟩ => ⟨toNat_fld .., ha, Sel.code_of_ofCode hs⟩
  case h_6 => exact .code fun _ hs => faithful_SS hn o rfl (by assumption) fun ⟨hd, _⟩ => ⟨hd, toNat_fld .., Sel.code_of_ofCode hs⟩
  case h_7 =>
    refine .code fun sel hs => faithful_SV hn o rfl (by assumption) fun _ ⟨hb, above, _⟩ => ⟨toNat_fld .., toNat_fld .., ?_, hb⟩
    have := Sel.code_of_ofCode hs
    omega
  case h_8 => exact .error

theorem major19_faithful (o : n / 2 ^ 26 % 64 = 0x19) : Faithful n (major19 n) := by
  unfold major19
  split
  case h_4 =>
    exact faithful_VR hn o rfl (by assumption) fun _ ⟨hb, ha, hd, _⟩ =>
      ⟨toNat_fld .., toNat_fld_padded 17 4 3 hd, toNat_fld_padded 10 4 3 ha, hb⟩
  case h_5 =>
    exact faithful_VR hn o rfl (by assumption) fun _ ⟨hb, ha, hd, _⟩ =>
      ⟨toNat_fld .., toNat_fld_padded 17 4 3 hd, toNat_fld_padded 10 6 1 ha, hb⟩
  case h_6 | h_7 | h_8 =>
    exact faithful_VR hn o rfl (by assumption) fun hg ⟨hb, ha, hd, _⟩ =>
      ⟨hg rfl, toNat_fld_padded 17 6 1 hd, toNat_fld_padded 10 4 3 ha, hb⟩
  case h_9 => exact .error
  all_goals exact faithful_VR hn o rfl (by assumption) fun _ ⟨hb, ha, hd, _⟩ =>
    ⟨toNat_fld .., toNat_fld_padded 17 4 3 hd, toNat_fld_padded 10 4 3 ha, toNat_fld_padded 3 4 3 hb⟩

theorem major1A_faithful (o : n / 2 ^ 26 % 64 = 0x1A) : Faithful n (major1A n) := by
  unfold major1A
  split
  case h_3 => exact .error
  all_goals exact .code fun _ hc => faithful_VR hn o rfl (by assumption) fun _ _ =>
    ⟨toNat_fld .., toNat_fld .., toNat_fld .., ConvCode.code_of_ofCode hc⟩

theorem major1B_faithful (o : n / 2 ^ 26 % 64 = 0x1B) : Faithful n (major1B n) := by
  unfold major1B
  split
  case h_3 => exact .error
  all_goals exact faithful_VR hn o rfl (by assumption) fun _ ⟨hb, _⟩ =>
    ⟨toNat_fld .., toNat_fld .., toNat_fld .., toNat_fld_padded 3 3 4 hb⟩

theorem major1D_faithful (o : n / 2 ^ 26 % 64 = 0x1D) : Faithful n (major1D n) := by
  unfold major1D
  split
  case h_9 => exact .error
  all_goals exact faithful_VR hn o rfl (by assumption) fun _ _ => ⟨toNat_fld .., toNat_fld .., toNat_fld .., toNat_fld ..⟩

theorem major1E_faithful (o : n / 2 ^ 26 % 64 = 0x1E) : Faithful n (major1E n) := by
  unfold major1E
  split
  case h_8 => exact faithful_VR hn o rfl (by assumption) fun _ ⟨hb, _⟩ => ⟨toNat_fld .., toNat_fld .., toNat_fld .., hb⟩
  case h_9 => exact .error
  all_goals exact faithful_VR hn o rfl (by assumption) fun _ _ => ⟨toNat_fld .., toNat_fld .., toNat_fld .., toNat_fld ..⟩

theorem major1F_faithful (o : n / 2 ^ 26 % 64 = 0x1F) : Faithful n (major1F n) := by
  unfold major1F
  split
  case h_7 | h_8 => exact faithful_VR hn o rfl (by assumption) fun _ ⟨hb, _⟩ => ⟨toNat_fld .., toNat_fld .., toNat_fld .., hb⟩
  case h_9 => exact .error
  all_goals exact faithful_VR hn o rfl (by assumption) fun _ _ => ⟨toNat_fld .., toNat_fld .., toNat_fld .., toNat_fld ..⟩

theorem major21_faithful (o : n / 2 ^ 26 % 64 = 0x21) : Faithful n (major21 n) := by
  have cnt := toNat_fld_zero n 5
  unfold major21
  split
  case h_4 => exact .error
  all_goals exact faithful_VI hn o rfl fun _ ⟨above, _⟩ => ⟨toNat_fld .., toNat_fld .., toNat_fld .., by omega⟩

theorem major22_faithful (o : n / 2 ^ 26 % 64 = 0x22) : Faithful n (major22 n) := by
  unfold major22
  split
  case h_6 | h_7 => exact faithful_VR hn o rfl (by assumption) fun _ ⟨hb, _⟩ => ⟨toNat_fld .., toNat_fld .., toNat_fld .., hb⟩
  case h_9 => exact .error
  all_goals exact faithful_VR hn o rfl (by assumption) fun _ _ => ⟨toNat_fld .., toNat_fld .., toNat_fld .., toNat_fld ..⟩

theorem major23_faithful (o : n / 2 ^ 26 % 64 = 0x23) : Faithful n (major23 n) := by
  unfold major23
  split
  case h_5 | h_6 | h_7 | h_8 =>
    exact faithful_VR hn o rfl (by assumption) fun _ ⟨hb, _⟩ => ⟨toNat_fld .., toNat_fld .., toNat_fld .., hb⟩
  case h_9 => exact .error
  all_goals exact faithful_VR hn o rfl (by assumption) fun _ _ => ⟨toNat_fld .., toNat_fld .., toNat_fld .., toNat_fld ..⟩

/-- The condition of a compare is the low bit of the opcode above the two bits of fn (R64). -/
theorem major24_faithful (o : n / 2 ^ 26 % 64 / 2 = 0x12) : Faithful n (major24 n) := by
  unfold major24
  split
  next c hc =>
    have code := VCond.code_of_ofCode hc
    have op : n / 2 ^ 26 % 64 = 0x24 + c.code / 4 := by omega
    have fn : n % 2 ^ 2 = c.code % 4 := by omega
    exact faithful_PC hn op rfl fn fun _ _ => ⟨toNat_fld .., toNat_fld .., toNat_fld .., toNat_fld .., toNat_fld ..⟩
  next => exact .error

theorem major26_faithful (o : n / 2 ^ 26 % 64 / 2 = 0x13) : Faithful n (major26 n) := by
  unfold major26
  split
  next c hc =>
    have code := FCond.code_of_ofCode hc
    have op : n / 2 ^ 26 % 64 = 0x26 + c.code / 4 := by omega
    have fn : n % 2 ^ 2 = c.code % 4 := by omega
    exact faithful_PC hn op rfl fn fun _ _ => ⟨toNat_fld .., toNat_fld .., toNat_fld .., toNat_fld .., toNat_fld ..⟩
  next => exact .error

/-- The predicate of VSEL is the low bit of the opcode above fn (R77). -/
theorem vsel_faithful (o : n / 2 ^ 26 % 64 / 2 = 0x14) : Faithful n (settle n true []
    (some (.vsel (fld n 24) (fld n 17) (fld n 10) (fld n 3) (BitVec.ofNat 4 (n / 2 ^ 26 % 2 * 8 + n % 8))))) := by
  have p : (BitVec.ofNat 4 (n / 2 ^ 26 % 2 * 8 + n % 8)).toNat = n / 2 ^ 26 % 2 * 8 + n % 8 := by
    rw [BitVec.toNat_ofNat]; omega
  generalize BitVec.ofNat 4 (n / 2 ^ 26 % 2 * 8 + n % 8) = x at p
  have op : n / 2 ^ 26 % 64 = 0x28 + x.toNat / 8 := by omega
  have fn : n % 2 ^ 3 = x.toNat % 8 := by omega
  exact faithful_VR hn op rfl fn fun _ _ => ⟨toNat_fld .., toNat_fld .., toNat_fld .., toNat_fld ..⟩

theorem major2A_faithful (o : n / 2 ^ 26 % 64 = 0x2A) : Faithful n (major2A n) := by
  unfold major2A
  split
  · exact faithful_VR hn o rfl (by assumption) fun _ ⟨hb, _⟩ => ⟨toNat_fld .., toNat_fld .., toNat_fld .., hb⟩
  · exact faithful_VR hn o rfl (by assumption) fun _ ⟨hb, ha, _⟩ => ⟨toNat_fld .., toNat_fld .., toNat_fld_padded 10 6 1 ha, hb⟩
  · exact .error

theorem major2B_faithful (o : n / 2 ^ 26 % 64 = 0x2B) : Faithful n (major2B n) := by
  unfold major2B
  split
  case h_1 => exact faithful_VR hn o rfl (by assumption) fun _ _ => ⟨toNat_fld .., toNat_fld .., toNat_fld .., toNat_fld ..⟩
  case h_5 =>
    exact faithful_VR hn o rfl (by assumption) fun _ ⟨hb, hd, _⟩ =>
      ⟨toNat_fld .., toNat_fld_padded 17 6 1 hd, toNat_fld .., toNat_fld_padded 3 6 1 hb⟩
  case h_6 =>
    exact faithful_VR hn o rfl (by assumption) fun _ ⟨hb, ha, _⟩ =>
      ⟨toNat_fld .., toNat_fld .., toNat_fld_padded 10 6 1 ha, toNat_fld_padded 3 6 1 hb⟩
  case h_7 => exact faithful_VR hn o rfl (by assumption) fun _ ⟨hb, _⟩ => ⟨toNat_fld .., toNat_fld .., toNat_fld .., hb⟩
  case h_8 => exact .error
  all_goals exact faithful_VR hn o rfl (by assumption) fun _ ⟨hb, _⟩ =>
    ⟨toNat_fld .., toNat_fld .., toNat_fld .., toNat_fld_padded 3 6 1 hb⟩

theorem major2C_faithful (o : n / 2 ^ 26 % 64 = 0x2C) : Faithful n (major2C n) := by
  unfold major2C
  split
  next hf =>
    exact faithful_VR hn o rfl (RedOp.code_of_ofCode hf) fun _ ⟨hb, _⟩ => ⟨toNat_fld .., toNat_fld .., toNat_fld .., hb⟩
  next => exact .error

theorem major2D_faithful (o : n / 2 ^ 26 % 64 = 0x2D) : Faithful n (major2D n) := by
  unfold major2D
  split
  next hf =>
    exact faithful_VR hn o rfl (RedOp.code_of_ofCode hf) fun _ ⟨hb, _⟩ => ⟨toNat_fld .., toNat_fld .., toNat_fld .., hb⟩
  next => exact .error

theorem major2E_faithful (o : n / 2 ^ 26 % 64 = 0x2E) : Faithful n (major2E n) := by
  unfold major2E
  split
  · exact faithful_X hn o rfl (by assumption) fun _ _ =>
      ⟨toNat_fld .., toNat_fld .., toNat_fld .., toNat_fld .., toNat_fld .., toNat_fld ..⟩
  · exact faithful_X hn o rfl (by assumption) fun _ ⟨hfb, hfa, hmg, ha, _⟩ => ⟨toNat_fld .., toNat_fld .., ha, hmg, hfa, hfb⟩
  · exact faithful_X hn o rfl (by assumption) fun _ ⟨hfb, hfa, hmg, _⟩ => ⟨toNat_fld .., toNat_fld .., toNat_fld .., hmg, hfa, hfb⟩
  · exact faithful_X hn o rfl (by assumption) fun hg ⟨hfb, hfa, ha, hq, _⟩ => ⟨hg rfl, hq, ha, toNat_fld .., hfa, hfb⟩
  · exact .error

/-- The size of an access stands in fn above the code of its space (R68). -/
theorem major2F_faithful (o : n / 2 ^ 26 % 64 = 0x2F) : Faithful n (major2F n) := by
  unfold major2F
  split
  case h_5 => exact .error
  all_goals
    refine .code fun sz hs => ?_
    have size := Size.code_of_ofCode hs
    exact faithful_MV hn o rfl (by omega) fun _ _ => ⟨toNat_fld .., toNat_fld .., toNat_fld .., toNat_fld ..⟩

theorem major30_faithful (o : n / 2 ^ 26 % 64 = 0x30) : Faithful n (major30 n) := by
  unfold major30
  split
  case h_5 => exact .error
  all_goals
    refine .code fun sz hs => ?_
    have size := Size.code_of_ofCode hs
    exact faithful_MV hn o rfl (by omega) fun _ _ => ⟨toNat_fld .., toNat_fld .., toNat_fld .., toNat_fld ..⟩

omit hn in
/-- The scope and the order of an atomic share a field, the scope above (R80). -/
theorem scopeOrder_of_ofCode {lo : Nat} {sc : Scope} {od : Order} (hs : Scope.ofCode? (n / 2 ^ (lo + 3) % 8) = some sc)
    (ho : Order.ofCode? (n / 2 ^ lo % 8) = some od) : n / 2 ^ lo % 2 ^ 6 = sc.code * 8 + od.code := by
  have scope := Scope.code_of_ofCode hs
  have order := Order.code_of_ofCode ho
  rw [Nat.pow_add, ← Nat.div_div_eq_div_mul] at scope
  omega

/-- A row of the vector atomics, whatever the instruction of its scope and order. -/
theorem vectorAtomic_faithful {op fn : Nat} (o : n / 2 ^ 26 % 64 = op) (hfn : n % 2 ^ 3 = fn) {f : Scope → Order → Instr}
    (he : ∀ sc od, encode (f sc od) = some (BitVec.ofNat 32 (encVR op (fld n 24 : BitVec 2).toNat (fld n 17 : BitVec 7).toNat
      (fld n 10 : BitVec 7).toNat (sc.code * 8 + od.code) fn))) :
    Faithful n (settle n true [(9, 1)] ((Scope.ofCode? (n / 2 ^ 6 % 8)).bind fun sc =>
      (Order.ofCode? (n / 2 ^ 3 % 8)).bind fun od => some (f sc od))) := by
  refine .code fun sc hs => .code fun od ho => faithful_VR hn o (he sc od) hfn fun _ ⟨above, _⟩ =>
    ⟨toNat_fld .., toNat_fld .., toNat_fld .., ?_⟩
  have := scopeOrder_of_ofCode (lo := 3) hs ho
  omega

theorem scalarAtomic_faithful {op d a fn : Nat} {zs : List (Nat × Nat)} (o : n / 2 ^ 26 % 64 = op) (hfn : n % 2 ^ 6 = fn)
    {f : Scope → Order → Instr}
    (he : ∀ sc od, encode (f sc od) = some (BitVec.ofNat 32 (encSR op d a (sc.code * 8 + od.code) fn)))
    (fields : Zeros n zs → n / 2 ^ 18 % 2 ^ 6 = d ∧ n / 2 ^ 12 % 2 ^ 6 = a) :
    Faithful n (settle n false zs ((Scope.ofCode? (n / 2 ^ 9 % 8)).bind fun sc =>
      (Order.ofCode? (n / 2 ^ 6 % 8)).bind fun od => some (f sc od))) := by
  refine .code fun sc hs => .code fun od ho => faithful_SR hn o (he sc od) hfn fun unused => ?_
  obtain ⟨hd, ha⟩ := fields unused
  exact ⟨hd, ha, scopeOrder_of_ofCode (lo := 6) hs ho⟩

theorem major34_faithful (o : n / 2 ^ 26 % 64 = 0x34) : Faithful n (major34 n) := by
  unfold major34
  split
  next hfn => exact vectorAtomic_faithful hn o hfn fun _ _ => rfl
  next =>
    split
    next hf => exact vectorAtomic_faithful hn o (AOp.code_of_ofCode hf) fun _ _ => rfl
    next => exact .error

theorem major35_faithful (o : n / 2 ^ 26 % 64 = 0x35) : Faithful n (major35 n) := by
  unfold major35
  split
  · exact .error
  · exact .error
  · split
    next hf => exact vectorAtomic_faithful hn o (AOp.code_of_ofCode hf) fun _ _ => rfl
    next => exact .error

theorem major36_faithful (o : n / 2 ^ 26 % 64 = 0x36) : Faithful n (major36 n) := by
  unfold major36
  split
  · exact faithful_VR hn o rfl (by assumption) fun _ ⟨hb, hd, _⟩ =>
      ⟨toNat_fld .., toNat_fld_padded 17 4 3 hd, toNat_fld .., toNat_fld_padded 3 6 1 hb⟩
  · exact .error

theorem major37_faithful (o : n / 2 ^ 26 % 64 = 0x37) : Faithful n (major37 n) := by
  unfold major37
  split
  · refine .code fun sz hs => ?_
    have size := PieceSize.code_of_ofCode hs
    exact faithful_VR hn o rfl (by omega) fun _ _ => ⟨toNat_fld .., toNat_fld .., toNat_fld .., toNat_fld ..⟩
  · exact .error

theorem major38_faithful (o : n / 2 ^ 26 % 64 = 0x38) : Faithful n (major38 n) := by
  unfold major38
  split
  · split
    next hf =>
      have code := AOp.code_of_ofCode hf
      exact scalarAtomic_faithful hn o (by omega) (fun _ _ => rfl) fun _ => ⟨toNat_fld .., toNat_fld ..⟩
    next => exact .error
  · split
    · exact .error
    · split
      next hf =>
        have code := AOp.code_of_ofCode hf
        exact scalarAtomic_faithful hn o (by omega) (fun _ _ => rfl) fun _ => ⟨toNat_fld .., toNat_fld ..⟩
      next => exact .error
  · split
    case h_4 => exact scalarAtomic_faithful hn o (by assumption) (fun _ _ => rfl) fun ⟨ha, hd, _⟩ => ⟨hd, ha⟩
    case h_5 => exact faithful_SR hn o rfl (by assumption) fun ⟨hb, ha, hd, _⟩ => ⟨hd, ha, hb⟩
    case h_6 => exact .error
    all_goals exact scalarAtomic_faithful hn o (by assumption) (fun _ _ => rfl) fun _ => ⟨toNat_fld .., toNat_fld ..⟩

theorem major39_faithful (o : n / 2 ^ 26 % 64 = 0x39) : Faithful n (major39 n) := by
  unfold major39
  split
  case h_4 | h_5 => exact faithful_SR hn o rfl (by assumption) fun ⟨hb, _⟩ => ⟨toNat_fld .., toNat_fld .., hb⟩
  case h_6 => exact .error
  all_goals exact faithful_SR hn o rfl (by assumption) fun _ => ⟨toNat_fld .., toNat_fld .., toNat_fld ..⟩

theorem major3A_faithful (o : n / 2 ^ 26 % 64 = 0x3A) : Faithful n (major3A n) := by
  unfold major3A
  split
  case h_2 | h_3 | h_4 => exact faithful_Y hn o rfl (by assumption) fun ⟨hb, _⟩ => ⟨toNat_fld .., toNat_fld .., hb⟩
  case h_6 | h_8 | h_9 => exact faithful_Y hn o rfl (by assumption) fun ⟨hb, ha, _⟩ => ⟨toNat_fld .., ha, hb⟩
  case h_11 => exact .error
  all_goals exact faithful_Y hn o rfl (by assumption) fun _ => ⟨toNat_fld .., toNat_fld .., toNat_fld ..⟩

theorem major3B_faithful (o : n / 2 ^ 26 % 64 = 0x3B) : Faithful n (major3B n) := by
  unfold major3B
  split
  case h_5 => exact .error
  all_goals exact faithful_Y hn o rfl (by assumption) fun _ => ⟨toNat_fld .., toNat_fld .., toNat_fld ..⟩

theorem major3C_faithful (o : n / 2 ^ 26 % 64 = 0x3C) : Faithful n (major3C n) := by
  unfold major3C
  split
  · exact faithful_VR hn o rfl (by assumption) fun _ ⟨hb, hd, _⟩ =>
      ⟨toNat_fld .., toNat_fld_padded 17 4 3 hd, toNat_fld .., toNat_fld_padded 3 6 1 hb⟩
  · exact .error

theorem major3D_faithful (o : n / 2 ^ 26 % 64 = 0x3D) : Faithful n (major3D n) := by
  unfold major3D
  split
  · exact faithful_SR hn o rfl (by assumption) fun _ => ⟨toNat_fld .., toNat_fld .., toNat_fld ..⟩
  · exact .error

theorem major3E_faithful (o : n / 2 ^ 26 % 64 = 0x3E) : Faithful n (major3E n) := by
  unfold major3E
  split
  case h_1 => exact faithful_SM hn o rfl (by assumption) fun _ => toNat_fld ..
  case h_2 => exact faithful_SV hn o rfl (by assumption) fun _ _ => ⟨toNat_fld .., toNat_fld .., toNat_fld .., toNat_fld ..⟩
  case h_3 => exact faithful_SS hn o rfl (by assumption) fun ⟨unused, _⟩ => by omega
  case h_4 =>
    exact .code fun _ hf => faithful_SS hn o rfl (by assumption) fun _ => ⟨toNat_fld .., toNat_fld .., SlcfgForm.code_of_ofCode hf⟩
  case h_5 =>
    refine .code fun form hf => faithful_SS hn o rfl (by assumption) fun unused => ⟨?_, toNat_fld .., TlbForm.code_of_ofCode hf⟩
    split at unused
    · exact unused.2.1
    · exact unused.1
  case h_6 =>
    exact .code fun _ hf => faithful_SS hn o rfl (by assumption) fun ⟨hd, _⟩ => ⟨hd, toNat_fld .., CacheForm.code_of_ofCode hf⟩
  case h_7 => exact .cond fun hsel => faithful_SS hn o rfl (by assumption) fun ⟨ha, _⟩ => ⟨toNat_fld .., ha, hsel⟩
  case h_8 => exact .error

/-- The decoder is faithful to every number of 32 bits. -/
theorem decodeNat_faithful : Faithful n (decodeNat n) := by
  unfold decodeNat
  split
  next o => exact faithful_J hn o rfl fun _ => toNat_fld_zero ..
  next o => exact faithful_J hn o rfl fun _ => toNat_fld_zero ..
  next o => exact major03_faithful hn o
  next o => exact faithful_BR hn o rfl fun _ => ⟨toNat_fld .., toNat_fld_zero ..⟩
  next o => exact faithful_BR hn o rfl fun _ => ⟨toNat_fld .., toNat_fld_zero ..⟩
  next o => exact faithful_BR hn o rfl fun ⟨ht, _⟩ => ⟨toNat_fld_padded 18 4 2 ht, toNat_fld_zero ..⟩
  next o => exact faithful_BR hn o rfl fun ⟨ht, _⟩ => ⟨toNat_fld_padded 18 4 2 ht, toNat_fld_zero ..⟩
  next o => exact faithful_BR hn o rfl fun ⟨ht, _⟩ => ⟨toNat_fld_padded 18 4 2 ht, toNat_fld_zero ..⟩
  next o => exact major09_faithful hn o
  next o => exact major0A_faithful hn o
  next o => exact faithful_SI hn o rfl fun _ => ⟨toNat_fld .., toNat_fld .., toNat_fld_zero ..⟩
  next o => exact faithful_SI hn o rfl fun _ => ⟨toNat_fld .., toNat_fld .., toNat_fld_zero ..⟩
  next o => exact faithful_SI hn o rfl fun _ => ⟨toNat_fld .., toNat_fld .., toNat_fld_zero ..⟩
  next o => exact faithful_G hn o rfl fun _ => ⟨toNat_fld .., toNat_fld .., toNat_fld .., toNat_fld_zero ..⟩
  next o =>
    have index := toNat_fld_zero n 8
    exact faithful_SI hn o rfl fun ⟨above, hd, _⟩ => ⟨hd, toNat_fld .., by omega⟩
  next o => exact faithful_SI hn o rfl fun _ => ⟨toNat_fld .., toNat_fld .., toNat_fld_zero ..⟩
  next o => exact major11_faithful hn o
  next o => exact faithful_SI hn o rfl fun _ => ⟨toNat_fld .., toNat_fld .., toNat_fld_zero ..⟩
  next o => exact faithful_SL hn o rfl fun _ => ⟨toNat_fld .., toNat_fld .., toNat_fld_zero ..⟩
  next o => exact faithful_SL hn o rfl fun _ => ⟨toNat_fld .., toNat_fld .., toNat_fld_zero ..⟩
  next o => exact faithful_SI hn o rfl fun _ => ⟨toNat_fld .., toNat_fld .., toNat_fld_zero ..⟩
  next o => exact faithful_SI hn o rfl fun _ => ⟨toNat_fld .., toNat_fld .., toNat_fld_zero ..⟩
  next o => exact faithful_SI hn o rfl fun _ => ⟨toNat_fld .., toNat_fld .., toNat_fld_zero ..⟩
  next o => exact major18_faithful hn o
  next o => exact major19_faithful hn o
  next o => exact major1A_faithful hn o
  next o => exact major1B_faithful hn o
  next o => exact faithful_VI hn o rfl fun _ ⟨ha, _⟩ => ⟨toNat_fld .., toNat_fld .., ha, toNat_fld_zero ..⟩
  next o => exact major1D_faithful hn o
  next o => exact major1E_faithful hn o
  next o => exact major1F_faithful hn o
  next o => exact faithful_VI hn o rfl fun _ _ => ⟨toNat_fld .., toNat_fld .., toNat_fld .., toNat_fld_zero ..⟩
  next o => exact major21_faithful hn o
  next o => exact major22_faithful hn o
  next o => exact major23_faithful hn o
  next o => exact major24_faithful hn (by rw [o])
  next o => exact major24_faithful hn (by rw [o])
  next o => exact major26_faithful hn (by rw [o])
  next o => exact major26_faithful hn (by rw [o])
  next o => exact vsel_faithful hn (by rw [o])
  next o => exact vsel_faithful hn (by rw [o])
  next o => exact major2A_faithful hn o
  next o => exact major2B_faithful hn o
  next o => exact major2C_faithful hn o
  next o => exact major2D_faithful hn o
  next o => exact major2E_faithful hn o
  next o => exact major2F_faithful hn o
  next o => exact major30_faithful hn o
  next o => exact faithful_MC hn o rfl fun _ _ => ⟨toNat_fld .., toNat_fld .., toNat_fld .., toNat_fld_zero ..⟩
  next o => exact faithful_MC hn o rfl fun _ _ => ⟨toNat_fld .., toNat_fld .., toNat_fld .., toNat_fld_zero ..⟩
  next o =>
    exact .code fun _ hs => faithful_MV hn o rfl (PrefSpace.code_of_ofCode hs) fun _ ⟨hd, _⟩ =>
      ⟨toNat_fld .., hd, toNat_fld .., toNat_fld ..⟩
  next o => exact major34_faithful hn o
  next o => exact major35_faithful hn o
  next o => exact major36_faithful hn o
  next o => exact major37_faithful hn o
  next o => exact major38_faithful hn o
  next o => exact major39_faithful hn o
  next o => exact major3A_faithful hn o
  next o => exact major3B_faithful hn o
  next o => exact major3C_faithful hn o
  next o => exact major3D_faithful hn o
  next o => exact major3E_faithful hn o
  next => exact .error

end

/-- Settles O2: `decodeNat_faithful`, the number of the word being the word again. -/
theorem decodeUnambiguous : Obligations.DecodeUnambiguous := by
  intro w i h
  obtain ⟨wf, word⟩ := decodeNat_faithful w.isLt i h
  rw [BitVec.ofNat_toNat, BitVec.setWidth_eq] at word
  exact ⟨wf, word⟩

end Sys2Proof.Laws.Encoding
end

section
/-! One turn of a group: what it fetches, and that a step runs it (R59, R75, R111, R227). -/
namespace Sys2Proof.Machine
set_option Elab.async false

/-! ### The bytes of a word -/

/-- A number below 2^32 put together from its four bytes. -/
theorem bytes_sum {n : Nat} (h : n < 2 ^ 32) :
    (n % 2 ^ 8 + n / 2 ^ 8 % 2 ^ 8 * 2 ^ 8 + n / 2 ^ 16 % 2 ^ 8 * 2 ^ 16 + n / 2 ^ 24 % 2 ^ 8 * 2 ^ 24) % 2 ^ 32 = n := by
  omega

/-- The four bytes of a word, read as a word again, are the word (R59). -/
theorem wordOfBytes_bytes (w : Word32) :
    wordOfBytes (.ofNat 8 w.toNat) (.ofNat 8 (w.toNat / 2 ^ 8)) (.ofNat 8 (w.toNat / 2 ^ 16)) (.ofNat 8 (w.toNat / 2 ^ 24)) = w := by
  apply BitVec.eq_of_toNat_eq
  simp only [wordOfBytes, BitVec.toNat_ofNat]
  exact bytes_sum w.isLt

section
-- The decoder stands here as a variable that equals it, so that checking these proofs does not evaluate it on a word that is not known.
variable {decode : Word32 → Except DecodeError Instr} (hd : decodeWord = decode) {b0 b1 b2 b3 : Byte} {rest : List Byte} {w : Word32}
  (hw : wordOfBytes b0 b1 b2 b3 = w)
include hd hw

theorem decodeBytes_ok {i : Instr} (h : decode w = .ok i) : decodeBytes (b0 :: b1 :: b2 :: b3 :: rest) = .instr i rest := by
  rw [decodeBytes.eq_def, hd]
  simp only [hw, h]

theorem decodeBytes_error {e : DecodeError} (h : decode w = .error e) :
    decodeBytes (b0 :: b1 :: b2 :: b3 :: rest) = .illegal e w rest := by
  rw [decodeBytes.eq_def, hd]
  simp only [hw, h]

end

theorem fetchedResult_ok {w : Word32} {i : Instr} (h : decodeWord w = .ok i) : fetchedResult (bytesOfWord w) = .instr i := by
  rw [fetchedResult, bytesOfWord, decodeBytes_ok rfl (wordOfBytes_bytes w) h]

theorem fetchedResult_error {w : Word32} {e : DecodeError} (h : decodeWord w = .error e) :
    fetchedResult (bytesOfWord w) = .illegal e w := by
  rw [fetchedResult, bytesOfWord, decodeBytes_error rfl (wordOfBytes_bytes w) h]

/-! ### What a group fetches -/

section
variable {v : State} {w : Word32}

/-- Outside a glyph the bytes at the program counter are what is fetched (R92). -/
theorem State.fetch_bytes {bs : List Byte} (hg : v.g.glyph = none) (hr : v.recordWaits = false)
    (hb : v.fetchBytes v.g.fetched v.g.pc.toNat = .ok bs) : v.fetch = fetchedResult bs := by
  simp only [State.fetch, hg, hr, hb, Bool.false_eq_true, if_false]

/-- Within a glyph it is the word of the step, its placeholders replaced (R111). -/
theorem State.fetch_step {b : GlyphRun} {i : Instr} (hb : v.g.glyph = some b) (hi : decodeWord (b.body.getD b.k 0) = .ok i) :
    v.fetch = .instr (substStep b.pA b.pB i) := by
  simp only [State.fetch, hb, hi]

theorem State.issueNow_instr {i : Instr} (h : v.fetch = .instr i) : v.issueNow = exec i (v.begin i) := by
  simp only [State.issueNow, h]

theorem State.issueNow_illegal {e : DecodeError} (h : v.fetch = .illegal e w) :
    v.issueNow = exec (.illegalEncoding (BitVec.ofNat 3 e.step) w) (v.begin .nop) := by
  simp only [State.issueNow, h]

end

/-! ### The turns -/

section
variable {s u : State} {r : List Turn} {core : CoreId} {slot : SlotId}

theorem step_turn {t : Turn} (h : s.turns = t :: r) : step s = ({ s with turns := r } : State).take t := by
  simp only [step, h]

theorem step_ownStep (h : s.turns = []) : step s = s.ownStep := by
  simp only [step, h]

/-- A group that may issue and that its port takes issues (R227, R228). -/
theorem State.take_issue (hf : s.focus core slot = some u) (hr : u.runnable u.g = true) (hp : u.takesPort u.g = true) :
    s.take (.issue core slot) = u.issue := by
  simp only [State.take, hf, hr, hp, Bool.and_self, if_true]

theorem State.take_idle (hf : s.focus core slot = some u) (h : u.runnable u.g = false ∨ u.takesPort u.g = false) :
    s.take (.issue core slot) = .next u := by
  simp only [State.take, hf]
  rw [if_neg]
  rcases h with h | h <;> simp [h]

theorem State.take_empty (hf : s.focus core slot = none) : s.take (.issue core slot) = .fault .noSuchGroup := by
  simp only [State.take, hf]

end

/-- Settles O18: a step is the turn that is taken, a turn of a group runs what it fetches, and what it fetches is the word at its program
counter or the step of its glyph. -/
theorem stepRunsDecoded : Obligations.StepRunsDecoded := by
  refine ⟨fun s u core slot r w hs hf hr hp => ?_, fun s r => ⟨fun i hs => step_turn hs, fun core slot hs hf => ?_,
    fun core slot u hs hf h => ?_, step_ownStep⟩⟩
  · intro v ran
    -- `ran` is what `State.issue` makes of the outcome of the instruction.
    have issued : step s = ran v.issueNow := by
      rw [step_turn hs, State.take_issue hf hr hp]; rfl
    refine ⟨fun hg hw hb => ⟨fun i hi => ?_, fun e he => ?_⟩, fun b hb hw i hi => ?_, fun hl => ?_⟩
    · rw [issued, State.issueNow_instr]
      rw [State.fetch_bytes hg hw hb, fetchedResult_ok hi]
    · rw [issued, State.issueNow_illegal]
      rw [State.fetch_bytes hg hw hb, fetchedResult_error he]
    · rw [issued, State.issueNow_instr]
      exact State.fetch_step hb (hw ▸ hi)
    · have same : v = u := State.lateFirst_none hl
      refine ⟨same, fun hd x => ?_⟩
      cases x with
      | next t => exact congrArg _ (State.noteLate_off t (same ▸ hd))
      | fault => rfl
      | refused => rfl
  · rw [step_turn hs, State.take_empty hf]
  · rw [step_turn hs, State.take_idle hf h]

end Sys2Proof.Machine
end

section
/-! Checks in sequence, and scalar arithmetic: what the words of the scalar instructions are, as numbers and bit by bit (R84 to R87). -/
namespace Sys2Proof.Machine
-- One proof at a time: proofs elaborated side by side each take a thread and its stack.
set_option Elab.async false

/-! ### Checks in sequence -/

/-- A check that succeeds is followed by what stands after it. -/
@[simp] theorem ok_bind {ε α β : Type} (x : α) (f : α → Except ε β) : (Except.ok x >>= f) = f x := rfl

/-- A check that fails ends the sequence. -/
@[simp] theorem error_bind {ε α β : Type} (e : ε) (f : α → Except ε β) : ((Except.error e : Except ε α) >>= f) = .error e := rfl

/-! ### Comparison and products -/

theorem flagWord_slt (x y : Word) : flagWord (x.slt y) = if x.toInt < y.toInt then 1 else 0 := by
  simp [flagWord, BitVec.slt_eq_decide]

theorem flagWord_ult (x y : Word) : flagWord (x.ult y) = if x.toNat < y.toNat then 1 else 0 := by
  simp [flagWord, BitVec.ult_eq_decide]

theorem flagWord_eq (x y : Word) : flagWord (x == y) = if x = y then 1 else 0 := by
  simp [flagWord]

/-- Bits [127:64] of the low 128 bits of an integer. -/
theorem high_of_ofInt (p : Int) : (BitVec.ofInt 128 p).extractLsb' 64 64 = BitVec.ofInt 64 (p / 2 ^ 64) := by
  apply BitVec.eq_of_toNat_eq
  rw [BitVec.extractLsb'_toNat, BitVec.toNat_ofInt, BitVec.toNat_ofInt, Nat.shiftRight_eq_div_pow]
  omega

theorem mulHigh_eq (x y : Word) : mulHigh x y = BitVec.ofInt 64 (x.toInt * y.toInt / 2 ^ 64) := by
  have wide (z : Word) : z.signExtend 128 = BitVec.ofInt 128 z.toInt := by
    rw [← BitVec.toInt_signExtend_of_le (by omega : 64 ≤ 128), BitVec.ofInt_toInt]
  rw [mulHigh, wide, wide, ← BitVec.ofInt_mul, high_of_ofInt]

theorem mulHighN_eq (x y : Word) : mulHighN x y = BitVec.ofNat 64 (x.toNat * y.toNat / 2 ^ 64) := by
  have bound : x.toNat * y.toNat < 2 ^ 128 := by
    calc x.toNat * y.toNat < 2 ^ 64 * 2 ^ 64 := Nat.mul_lt_mul'' x.isLt y.isLt
      _ = 2 ^ 128 := by norm_num
  have wide (z : Word) : (z.zeroExtend 128).toNat = z.toNat := by
    have := z.isLt
    rw [BitVec.zeroExtend, BitVec.toNat_setWidth, Nat.mod_eq_of_lt (by omega)]
  apply BitVec.eq_of_toNat_eq
  rw [mulHighN, BitVec.extractLsb'_toNat, BitVec.toNat_mul, wide, wide, Nat.mod_eq_of_lt bound, Nat.shiftRight_eq_div_pow,
    BitVec.toNat_ofNat]

/-! ### Counts of bits -/

theorem tabList_eq_map {α : Type} (f : Nat → α) (i k : Nat) : tabList f i k = (List.range' i k).map f := by
  induction k generalizing i with
  | zero => rfl
  | succ k ih => rw [tabList, ih, List.range'_succ, List.map_cons]

theorem popCount_eq {w : Nat} (x : BitVec w) : popCount x = (List.range w).countP fun k => x.getLsbD k := by
  rw [popCount, tabList_eq_map, ← List.range_eq_range', List.filter_map, List.length_map, List.countP_eq_length_filter]
  rfl

theorem clzOf_le {w : Nat} (x : BitVec w) : clzOf x ≤ w := by unfold clzOf; split <;> omega

/-- The bits that CLZ counts are zero. -/
theorem getLsbD_of_clzOf {w : Nat} (x : BitVec w) {k : Nat} (h : w - clzOf x ≤ k) : x.getLsbD k = false := by
  rw [← BitVec.testBit_toNat]
  unfold clzOf at h
  split at h
  · rename_i zero
    rw [zero, Nat.zero_testBit]
  · rename_i nonzero
    have top : x.toNat.log2 < w := (Nat.log2_lt nonzero).2 x.isLt
    exact Nat.testBit_lt_two_pow ((Nat.log2_lt nonzero).1 (by omega))

/-- The bit below them is set. -/
theorem getLsbD_clzOf {w : Nat} (x : BitVec w) (h : clzOf x < w) : x.getLsbD (w - 1 - clzOf x) = true := by
  rw [← BitVec.testBit_toNat]
  unfold clzOf at h ⊢
  split at h
  · omega
  · rename_i nonzero
    have top : x.toNat.log2 < w := (Nat.log2_lt nonzero).2 x.isLt
    rw [if_neg nonzero, show w - 1 - (w - 1 - x.toNat.log2) = x.toNat.log2 by omega]
    exact Nat.testBit_log2 nonzero

/-- The count from bit `i` stays within the bits looked at, passes zero bits alone and ends at a bit set. -/
theorem ctzFrom_spec {w : Nat} (x : BitVec w) (i k : Nat) :
    ctzFrom x i k ≤ k ∧ (∀ j < ctzFrom x i k, x.getLsbD (i + j) = false) ∧
      (ctzFrom x i k < k → x.getLsbD (i + ctzFrom x i k) = true) := by
  induction k generalizing i with
  | zero => simp [ctzFrom]
  | succ k ih =>
    obtain ⟨within, zeros, ends⟩ := ih (i + 1)
    unfold ctzFrom
    by_cases here : x.getLsbD i = true
    · simp [here]
    · rw [if_neg here]
      refine ⟨by omega, fun j hj => ?_, fun hk => ?_⟩
      · obtain _ | j := j
        · simpa using here
        · rw [show i + (j + 1) = i + 1 + j by omega]
          exact zeros j (by omega)
      · rw [show i + (1 + ctzFrom x (i + 1) k) = i + 1 + ctzFrom x (i + 1) k by omega]
        exact ends (by omega)

theorem ctzOf_le {w : Nat} (x : BitVec w) : ctzOf x ≤ w := (ctzFrom_spec x 0 w).1

theorem getLsbD_of_lt_ctzOf {w : Nat} (x : BitVec w) {k : Nat} (h : k < ctzOf x) : x.getLsbD k = false := by
  simpa using (ctzFrom_spec x 0 w).2.1 k h

theorem getLsbD_ctzOf {w : Nat} (x : BitVec w) (h : ctzOf x < w) : x.getLsbD (ctzOf x) = true := by
  simpa [ctzOf] using (ctzFrom_spec x 0 w).2.2 h

/-- The number of zero bits below the lowest bit set is the place of that bit. -/
theorem ctzOf_eq_of_lowest {w : Nat} {x : BitVec w} {L : Nat} (set : x.getLsbD L = true) (low : ∀ k < L, x.getLsbD k = false) :
    ctzOf x = L := by
  have hL : L < w := BitVec.lt_of_getLsbD set
  have above : ¬L < ctzOf x := fun h => by simp [getLsbD_of_lt_ctzOf x h] at set
  have below : ¬ctzOf x < L := fun h => by simpa [low _ h] using getLsbD_ctzOf x (h.trans hL)
  omega

theorem ctzOf_zero (w : Nat) : ctzOf (0 : BitVec w) = w := by
  have := ctzOf_le (0 : BitVec w)
  have : ¬ctzOf (0 : BitVec w) < w := fun h => by simpa using getLsbD_ctzOf _ h
  omega

/-! ### Results and immediates -/

/-- Settles O4: each instruction writes the word that its operation gives, which the lemmas above read as a number. -/
theorem scalarResults : Obligations.ScalarResults := by
  constructor
  · intro s d a b h x y gives
    have result {i : Instr} {r r' : Word} (e : exec i s = scalarOp s d [a, b] r) (hr : r = r') : gives i r' :=
      hr ▸ e.trans (scalarOp_ok h)
    refine ⟨result rfl rfl, result rfl rfl, result rfl rfl, result rfl rfl, result rfl rfl, result rfl rfl, result rfl rfl,
      result rfl rfl, result rfl rfl, result rfl (mulHigh_eq x y), result rfl (mulHighN_eq x y), result rfl (flagWord_slt x y),
      result rfl (flagWord_ult x y), result rfl ?_, result rfl ?_, result rfl ?_, result rfl ?_, result rfl (flagWord_eq x y)⟩
    · simp only [BitVec.slt_eq_decide, decide_eq_true_eq, x, y]
    · simp only [BitVec.slt_eq_decide, decide_eq_true_eq, x, y]
    · simp only [BitVec.ult_eq_decide, decide_eq_true_eq, x, y]
    · simp only [BitVec.ult_eq_decide, decide_eq_true_eq, x, y]
  · intro s d a imm cnt h x i gives
    have result {j : Instr} {r r' : Word} (e : exec j s = scalarOp s d [a] r) (hr : r = r') : gives j r' :=
      hr ▸ e.trans (scalarOp_ok h)
    refine ⟨⟨clzOf x, result rfl rfl, clzOf_le x, fun k hk => getLsbD_of_clzOf x hk, fun hn => ?_⟩,
      ⟨ctzOf x, result rfl rfl, ctzOf_le x, fun k hk => getLsbD_of_lt_ctzOf x hk, getLsbD_ctzOf x⟩,
      result rfl (congrArg _ (popCount_eq x)), result rfl rfl, result rfl rfl, result rfl rfl, result rfl rfl,
      result rfl (flagWord_slt x i), result rfl rfl, result rfl rfl, result rfl rfl⟩
    exact getLsbD_clzOf x hn

/-! ### Division -/

section
variable {s : State} {d a b : SReg} (h : s.sound [] [a, b] [] = .ok ())
include h

theorem exec_div_ok : exec (.div d a b) s = .next (s.retireWith (s.g.setS d (quotS (s.g.sReg a) (s.g.sReg b)))) := scalarOp_ok h

theorem exec_divn_ok : exec (.divn d a b) s = .next (s.retireWith (s.g.setS d (quotN (s.g.sReg a) (s.g.sReg b)))) := scalarOp_ok h

theorem exec_rem_ok : exec (.rem d a b) s = .next (s.retireWith (s.g.setS d (remS (s.g.sReg a) (s.g.sReg b)))) := scalarOp_ok h

theorem exec_remn_ok : exec (.remn d a b) s = .next (s.retireWith (s.g.setS d (remN (s.g.sReg a) (s.g.sReg b)))) := scalarOp_ok h

end

/-- Outside the overflow of R85 the signed quotient is representable. -/
theorem toInt_quotS {x y : Word} (hy : y ≠ 0) (h : ¬(x.toInt = -2 ^ 63 ∧ y.toInt = -1)) :
    (quotS x y).toInt = Int.tdiv x.toInt y.toInt := by
  have apart : x ≠ BitVec.intMin 64 ∨ y ≠ -1#64 := by
    by_contra both
    push Not at both
    obtain ⟨rfl, rfl⟩ := both
    exact h (by decide)
  rw [quotS, if_neg hy, BitVec.toInt_ofInt, ← BitVec.toInt_sdiv, BitVec.toInt_sdiv_of_ne_or_ne x y apart]

/-- The signed remainder is always representable. -/
theorem toInt_remS {x y : Word} (hy : y ≠ 0) : (remS x y).toInt = Int.tmod x.toInt y.toInt := by
  rw [remS, if_neg hy, ← BitVec.toInt_srem, BitVec.ofInt_toInt]

/-- Settles O5: the fixed results by R85's own cases, and elsewhere a = q·b + r from `Int.tdiv` and `Int.tmod`. -/
theorem scalarDivision : Obligations.ScalarDivision := by
  intro s d a b h x y gives
  have div : gives (.div d a b) (quotS x y) := exec_div_ok h
  have divn : gives (.divn d a b) (quotN x y) := exec_divn_ok h
  have rem : gives (.rem d a b) (remS x y) := exec_rem_ok h
  have remn : gives (.remn d a b) (remN x y) := exec_remn_ok h
  refine ⟨fun hy => ?_, fun hx hy => ?_, fun hy => ?_, fun hy regular => ?_⟩
  · simp only [quotS, quotN, remS, remN, if_pos hy] at div divn rem remn
    exact ⟨div, divn, rem, remn⟩
  · have least : x = BitVec.intMin 64 := BitVec.eq_of_toInt_eq hx
    have minusOne : y = -1#64 := BitVec.eq_of_toInt_eq hy
    rw [least, minusOne] at div rem
    exact ⟨div, rem⟩
  · simp only [quotN, remN, if_neg hy] at divn remn
    exact ⟨divn, remn⟩
  · refine ⟨_, _, div, rem, toInt_quotS hy regular, ?_, toInt_remS hy⟩
    rw [toInt_quotS hy regular, toInt_remS hy, Int.mul_comm, Int.mul_tdiv_add_tmod]

/-! ### Halfwords -/

/-- A halfword immediate is the immediate times 2^(16·hw) (R70). -/
theorem halfword_eq (hw : BitVec 2) (imm : BitVec 16) : halfword hw imm = BitVec.ofNat 64 (imm.toNat * 2 ^ (16 * hw.toNat)) := by
  apply BitVec.eq_of_toNat_eq
  rw [halfword, zext64, BitVec.zeroExtend, BitVec.toNat_shiftLeft, BitVec.toNat_setWidth_of_le (by omega), BitVec.toNat_ofNat,
    Nat.shiftLeft_eq]

theorem getLsbD_halfword (hw : BitVec 2) (imm : BitVec 16) {k : Nat} (hk : k < 64) :
    (halfword hw imm).getLsbD k = (decide (16 * hw.toNat ≤ k) && imm.getLsbD (k - 16 * hw.toNat)) := by
  by_cases low : k < 16 * hw.toNat
  · simp [halfword, zext64, hk, low]
  · simp [halfword, zext64, hk, low, Nat.le_of_not_lt low]

/-- Settles O6: LIZ writes the halfword in its place; LIK's bits are the immediate's within the halfword and the old ones outside it. -/
theorem loadImmediates : Obligations.LoadImmediates := by
  intro s d hw imm
  refine ⟨halfword_eq hw imm ▸ scalarOp_ok (sound_nothing s), fun h => ⟨_, scalarOp_ok h, fun k hk => ?_⟩⟩
  rw [BitVec.getLsbD_or, BitVec.getLsbD_and, BitVec.getLsbD_not, getLsbD_halfword hw _ hk, getLsbD_halfword hw _ hk]
  have ones (j : Nat) : (0xFFFF : BitVec 16).getLsbD j = decide (j < 16) := BitVec.getLsbD_allOnes
  rw [ones]
  by_cases low : 16 * hw.toNat ≤ k
  · by_cases high : k < 16 * hw.toNat + 16
    · simp [hk, low, high, show k - 16 * hw.toNat < 16 by omega]
    · simp [hk, low, high, show ¬k - 16 * hw.toNat < 16 by omega, BitVec.getLsbD_of_ge imm _ (show 16 ≤ k - 16 * hw.toNat by omega)]
  · simp [hk, low]

end Sys2Proof.Machine
end

section
/-! The instructions that compute in registers alone have two shapes, and what these leave alone (R84 to R87, R101, R106, R107). -/
namespace Sys2Proof.Machine
open Sys2Proof.Safety
-- One proof at a time: proofs elaborated side by side each take a thread and its stack.
set_option Elab.async false

/-- With no register in error, an instruction that computes in registers alone writes its scalar register, or its predicate in the Active
lanes, and retires. -/
theorem exec_of_registerOnly {i : Instr} {ds : Option SReg} {dp : Option (Guard × PReg)} {s : State}
    (hi : registerOnly i = some (ds, dp)) (hb : s.g.bad = []) :
    (∃ d x, ds = some d ∧ dp = none ∧ exec i s = .next (s.retireWith (s.g.setS d x))) ∨
      ∃ G p x, ds = none ∧ dp = some (G, p) ∧ exec i s = .next (s.retireWith (s.g.setP p (s.g.active G) x)) := by
  unfold registerOnly at hi
  split at hi
  case h_45 => cases hi  -- an instruction of another kind
  case h_40 | h_41 | h_42 | h_43 | h_44 =>  -- PAND, POR, PXOR, PMOV, PSET
    cases hi
    exact .inr ⟨_, _, _, rfl, rfl, predOp_ok (sound_ok hb _ _ _)⟩
  case h_37 | h_38 | h_39 =>  -- PGET, PCNT, PFIRST
    cases hi
    exact .inl ⟨_, _, rfl, rfl, predScalar_ok (sound_ok hb _ _ _)⟩
  all_goals
    cases hi
    exact .inl ⟨_, _, rfl, rfl, scalarOp_ok (sound_ok hb _ _ _)⟩

section
variable {g : Group} (hb : g.bad = [])
include hb

/-- With no register in error there is nothing that a write could heal. -/
theorem Group.setS_eq (d : SReg) (x : Word) : g.setS d x = { g with s := (g.setS d x).s } := by
  unfold Group.setS
  split
  · rfl
  · simp only [hb, healed]

theorem Group.setP_eq (p : PReg) (m x : Word) : g.setP p m x = { g with p := (g.setP p m x).p } := by
  unfold Group.setP
  split
  · rfl
  · simp only [hb, healed]

end

/-- Outside the mask a predicate keeps its lanes (R15, R22). -/
theorem Group.getLsbD_pReg_setP_off (g : Group) {m : Word} (x : Word) (p : PReg) {k : Nat} (h : m.getLsbD k = false) :
    ((g.setP p m x).pReg p).getLsbD k = (g.pReg p).getLsbD k := by
  by_cases hp : p = 0
  · subst hp; rfl
  · rw [g.getLsbD_pReg_setP m x hp, h]; rfl

/-- Settles O8: both shapes write one register; `Group.retire` moves the program counter and forgets what was waited for. -/
theorem registerOnlyFrame : Obligations.RegisterOnlyFrame := by
  intro i ds dp s hi hb hg
  obtain ⟨d, x, rfl, rfl, he⟩ | ⟨G, p, x, rfl, rfl, he⟩ := exec_of_registerOnly hi hb
  · have same := Group.setS_eq hb d x
    have retired := Group.retire_of_glyph_none (g := s.g.setS d x) (by rw [same]; exact hg)
    refine ⟨_, he, rfl, ?_, fun r hr => ?_, fun p _ => ?_, nofun, ?_⟩
    · simp only [State.retireWith, retired]; rw [same]
    · simp only [State.retireWith, retired]
      exact s.g.sReg_setS_ne x fun e => hr (congrArg some e.symm)
    · simp only [State.retireWith, retired]; rw [same]; rfl
    · simp only [State.retireWith, retired]; rw [same]
  · have same := Group.setP_eq hb p (s.g.active G) x
    have retired := Group.retire_of_glyph_none (g := s.g.setP p (s.g.active G) x) (by rw [same]; exact hg)
    refine ⟨_, he, rfl, ?_, fun r _ => ?_, fun q hq => ?_, ?_, ?_⟩
    · simp only [State.retireWith, retired]; rw [same]
    · simp only [State.retireWith, retired]; rw [same]; rfl
    · simp only [State.retireWith, retired]
      exact s.g.pReg_setP_ne (s.g.active G) x fun e => hq G (by rw [e])
    · rintro _ _ ⟨⟩ k _ off
      simp only [State.retireWith, retired]
      exact s.g.getLsbD_pReg_setP_off x p off
    · simp only [State.retireWith, retired]; rw [same]

/-- Settles O9: the two shapes of the predicate instructions; PCNT counts the lanes, PFIRST finds the lowest. -/
theorem predicateResults : Obligations.PredicateResults := by
  intro s G d a b x act gives scalar
  refine ⟨fun h => ⟨predOp_ok h, predOp_ok h, predOp_ok h⟩, predOp_ok, predOp_ok, fun h => ?_⟩
  intro m
  have pfirst : scalar (.pfirst x a) (BitVec.ofNat 64 (ctzOf m)) := predScalar_ok h
  refine ⟨predScalar_ok h, ?_, fun none => ?_, fun L _ set low => ?_⟩
  · rw [← popCount_eq]; exact predScalar_ok h
  · rwa [none, ctzOf_zero] at pfirst
  · rwa [ctzOf_eq_of_lowest set low] at pfirst

end Sys2Proof.Machine
end

section
/-! Mode and flags: MODE, MDR, FLR and FLCLR (R101 to R103, R24). -/
namespace Sys2Proof.Machine
open Sys2Proof.Safety
-- One proof at a time: proofs elaborated side by side each take a thread and its stack.
set_option Elab.async false

/-! ### MMAs that are still to be performed -/

theorem State.drainMmas_of_nil {s : State} (h : s.g.mmas = []) : s.drainMmas = s := by simp [State.drainMmas, h]

theorem State.mmasSettled_ok {s : State} (h : s.g.mmas = []) : s.mmasSettled = .ok () := by simp [State.mmasSettled, h]

theorem State.mmasSettled_stall {s : State} (h : s.g.mmas ≠ []) : s.mmasSettled = .error .stall := by
  rw [State.mmasSettled, List.isEmpty_eq_false_iff.2 h]; rfl

/-! ### MODE -/

theorem toNat_zext64 {w : Nat} (x : BitVec w) (h : w ≤ 64) : (zext64 x).toNat = x.toNat := by
  rw [zext64, BitVec.zeroExtend, BitVec.toNat_setWidth_of_le h]

section
variable {s : State} {d a : SReg} {mask : BitVec 8}
variable (h : s.sound [] [a] [] = .ok ())
include h

/-- MODE after its source: no bit above 22 of the operand, the new MD legal, then the write (R102). -/
theorem exec_mode_eq : exec (.mode d a mask) s = finish s (do
    need ((s.g.sReg a).toNat / 2 ^ 23 == 0) (trapN .illegalMode 0)
    need (legalMode (zext64 (newMode s.g.md (s.g.sReg a) mask))) (trapN .illegalMode 0)
    .ok (s.retireWith { s.g.setS d (zext64 s.g.md) with md := newMode s.g.md (s.g.sReg a) mask })) := by
  simp only [exec_mode, execMode, h]; rfl

theorem exec_mode_ok (hx : (s.g.sReg a).toNat < 2 ^ 23) (hl : legalMode (zext64 (newMode s.g.md (s.g.sReg a) mask)) = true) :
    exec (.mode d a mask) s =
      .next (s.retireWith { s.g.setS d (s.g.md.zeroExtend 64) with md := newMode s.g.md (s.g.sReg a) mask }) := by
  rw [exec_mode_eq h, Nat.div_eq_of_lt hx, hl]; rfl

theorem exec_mode_trap
    (hx : ¬((s.g.sReg a).toNat < 2 ^ 23 ∧ legalMode (zext64 (newMode s.g.md (s.g.sReg a) mask)) = true)) :
    exec (.mode d a mask) s = .next (s.takeTrap ⟨.illegalMode, 0, 0, [], none⟩) := by
  rw [exec_mode_eq h]
  by_cases low : (s.g.sReg a).toNat < 2 ^ 23
  · rw [Nat.div_eq_of_lt low, Bool.eq_false_iff.2 fun hl => hx ⟨low, hl⟩]; rfl
  · rw [beq_false_of_ne (show (s.g.sReg a).toNat / 2 ^ 23 ≠ 0 by omega)]; rfl

end

/-! ### FLR and FLCLR -/

section
variable {s : State} {d a : SReg} {sel : FlSel}

theorem exec_flr_ok (h : s.drainMmas.g.mmas = []) :
    exec (.flr d) s = .next (s.drainMmas.retireWith (s.drainMmas.g.setS d (s.drainMmas.g.fl.zeroExtend 64))) := by
  simp only [exec_flr, execFlr, State.mmasSettled_ok h]; rfl

theorem exec_flr_stall (h : s.drainMmas.g.mmas ≠ []) : exec (.flr d) s = .next s.drainMmas.stallHere := by
  simp only [exec_flr, execFlr, State.mmasSettled_stall h]; rfl

theorem exec_flclr_stall (h : s.drainMmas.g.mmas ≠ []) : exec (.flclr d a sel) s = .next s.drainMmas.stallHere := by
  simp only [exec_flclr, execFlclr, State.mmasSettled_stall h]; rfl

variable (hm : s.drainMmas.g.mmas = []) (hs : s.drainMmas.sound [] [a] [] = .ok ())
include hm hs

/-- FLCLR after its source: the reserved bits, then the write (R103). -/
theorem exec_flclr_eq : exec (.flclr d a sel) s = finish s.drainMmas (do
    need ((s.drainMmas.g.sReg a).toNat / 2 ^ 23 == 0 && (s.drainMmas.g.sReg a).toNat / 2 ^ 7 % 2 ^ 9 == 0)
      (trapN .illegalOperand a.toNat)
    .ok (s.drainMmas.retireWith { s.drainMmas.g.setS d (zext64 s.drainMmas.g.fl) with
      fl := clearFlags s.drainMmas.g.fl (s.drainMmas.g.sReg a) sel })) := by
  simp only [exec_flclr, execFlclr, State.mmasSettled_ok hm, hs]; rfl

theorem exec_flclr_ok
    (hx : (s.drainMmas.g.sReg a).toNat / 2 ^ 23 = 0 ∧ (s.drainMmas.g.sReg a).toNat / 2 ^ 7 % 2 ^ 9 = 0) :
    exec (.flclr d a sel) s = .next (s.drainMmas.retireWith { s.drainMmas.g.setS d (s.drainMmas.g.fl.zeroExtend 64) with
      fl := clearFlags s.drainMmas.g.fl (s.drainMmas.g.sReg a) sel }) := by
  rw [exec_flclr_eq hm hs, hx.1, hx.2]; rfl

theorem exec_flclr_trap
    (hx : (s.drainMmas.g.sReg a).toNat / 2 ^ 23 ≠ 0 ∨ (s.drainMmas.g.sReg a).toNat / 2 ^ 7 % 2 ^ 9 ≠ 0) :
    exec (.flclr d a sel) s = .next (s.drainMmas.takeTrap ⟨.illegalOperand, a.zeroExtend 64, 0, [], none⟩) := by
  have reserved : ((s.drainMmas.g.sReg a).toNat / 2 ^ 23 == 0 && (s.drainMmas.g.sReg a).toNat / 2 ^ 7 % 2 ^ 9 == 0) = false := by
    rcases hx with hx | hx
    · rw [beq_false_of_ne hx, Bool.false_and]
    · rw [beq_false_of_ne hx, Bool.and_false]
  rw [exec_flclr_eq hm hs, reserved, BitVec.zeroExtend, ← BitVec.ofNat_toNat]; rfl

end

theorem getLsbD_flagBits {k : Nat} (h : k < 32) : (0x7F : Word32).getLsbD k = decide (k < 7) := by
  revert k; decide

theorem getLsbD_armBits {k : Nat} (h : k < 32) : (0x7F0000 : Word32).getLsbD k = decide (16 ≤ k ∧ k < 23) := by
  revert k; decide

/-- FLCLR bit by bit: the flags that x names are cleared, ARM is replaced, each where the selector asks for it (R103). -/
theorem getLsbD_clearFlags (fl : Word32) (x : Word) (sel : FlSel) {k : Nat} (hk : k < 32) :
    (clearFlags fl x sel).getLsbD k =
      if k < 7 ∧ (sel = .flags ∨ sel = .both) then fl.getLsbD k && !x.getLsbD k
      else if 16 ≤ k ∧ k < 23 ∧ (sel = .arm ∨ sel = .both) then x.getLsbD k
      else fl.getLsbD k := by
  have disjoint : k < 7 → ¬16 ≤ k := fun _ => by omega
  cases sel <;> simp only [clearFlags, reduceCtorEq, if_true, if_false, BitVec.getLsbD_or, BitVec.getLsbD_and, BitVec.getLsbD_not,
    getLsbD_flagBits hk, getLsbD_armBits hk, BitVec.getLsbD_extractLsb', Nat.zero_add, hk]
  case flags => by_cases low : k < 7 <;> simp [low]
  case arm => by_cases arm : 16 ≤ k ∧ k < 23 <;> simp [arm]
  case both =>
    by_cases low : k < 7
    · simp [low, disjoint low]
    · by_cases arm : 16 ≤ k ∧ k < 23 <;> simp [low, arm]

/-- Settles O10: MODE and FLCLR by their rules, and the new MD and the new FL by their bits. -/
theorem modeResults : Obligations.ModeResults := by
  constructor
  · intro s d a mask
    refine ⟨scalarOp_ok (sound_nothing s), fun hm => ?_, exec_flr_ok, exec_flr_stall, fun hs => ?_⟩
    · have same := State.drainMmas_of_nil hm
      have read := exec_flr_ok (s := s) (d := d) (by rw [same]; exact hm)
      rwa [same] at read
    · intro x new
      have legal : legalMode (zext64 new) = true ↔ new.toNat < 2 ^ 23 ∧ new.toNat % 16 < 10 ∧ new.toNat / 16 % 8 < 5 := by
        rw [legalMode_iff, toNat_zext64 new (by omega)]
      exact ⟨fun ⟨hx, hn⟩ => exec_mode_ok hs hx (legal.2 hn), fun hx => exec_mode_trap hs fun ⟨hl, hn⟩ => hx ⟨hl, legal.1 hn⟩⟩
  · intro s d a sel t
    exact ⟨State.drainMmas_of_nil, exec_flclr_stall, fun hm hs => ⟨exec_flclr_trap hm hs,
      fun hx => ⟨_, exec_flclr_ok hm hs hx, fun k hk => getLsbD_clearFlags _ _ sel hk⟩⟩⟩

end Sys2Proof.Machine
end

section
/-! A calm state: nothing stands between the issuing group and the bytes of memory, so that a load reads them and a store writes them
(R89, R152, R173, R251, R356, R358, R370). -/
namespace Sys2Proof.Machine
open Sys2Proof.Safety
-- One proof at a time: proofs elaborated side by side each take a thread and its stack.
set_option Elab.async false

/-! ### Rows that accesses activate -/

theorem rowsOnly_refl (s : State) : RowsOnly s s := fun _ => rfl

theorem rowsOnly_trans {s t u : State} (h : RowsOnly s t) (k : RowsOnly t u) : RowsOnly s u := fun c => by rw [k c, h c]

theorem rowsOnly_of_cols {s t : State} (h : t.cols = s.cols) : RowsOnly s t := fun c => by rw [h]

theorem State.activateAt_rowsOnly (s : State) (loc : Nat) : RowsOnly s (s.activateAt loc) := by
  intro c
  unfold State.activateAt
  split
  · rw [State.modCol_get]
    split
    · subst c; rfl
    · rfl
  · rfl

theorem State.activateAt_eq (s : State) (loc : Nat) : s.activateAt loc = { s with cols := (s.activateAt loc).cols } := by
  unfold State.activateAt
  split <;> rfl

/-- Rows activated change the refresh buffers of the vaults alone (R358). -/
theorem State.activate_rows (s : State) (parts : List Part) :
    RowsOnly s (s.activate parts) ∧ s.activate parts = { s with cols := (s.activate parts).cols } := by
  unfold State.activate
  induction parts generalizing s with
  | nil => exact ⟨rowsOnly_refl s, rfl⟩
  | cons p r ih =>
    rw [List.foldl_cons]
    split
    · rename_i loc _
      obtain ⟨rows, same⟩ := ih (s.activateAt loc)
      refine ⟨rowsOnly_trans (s.activateAt_rowsOnly loc) rows, ?_⟩
      rw [same, s.activateAt_eq loc]
    · exact ih s

theorem State.activate_rowsOnly (s : State) (parts : List Part) : RowsOnly s (s.activate parts) := (s.activate_rows parts).1

theorem State.activate_eq (s : State) (parts : List Part) : s.activate parts = { s with cols := (s.activate parts).cols } :=
  (s.activate_rows parts).2

/-! ### Bytes -/

theorem plain_of_xts_false (m : Memory) {k : KeySlot} (hk : k.xts = false) (a : Nat) : m.plain k a = cellsGet m.base m.cells a := by
  simp [Memory.plain, hk]

/-- The write buffers take what has changed and nothing else does (R344). -/
theorem State.bufferAll_eq (s : State) (who : Option Origin) (l : List (Nat × Byte × Byte)) :
    ∃ ws n, s.bufferAll who l = { s with mem := { s.mem with writes := ws }, fresh := n } := by
  have one (t : State) (b : List (Nat × Byte × Byte)) :
      ∃ ws n, t.bufferWrite who b = { t with mem := { t.mem with writes := ws }, fresh := n } := by
    unfold State.bufferWrite
    split
    · exact ⟨_, _, rfl⟩
    · dsimp only
      split
      · exact ⟨_, _, rfl⟩
      · exact ⟨_, _, rfl⟩
  unfold State.bufferAll
  induction byBlock l generalizing s with
  | nil => exact ⟨_, _, rfl⟩
  | cons b r ih =>
    obtain ⟨ws, n, first⟩ := one s b
    obtain ⟨ws', n', rest⟩ := ih (s.bufferWrite who b)
    exact ⟨ws', n', by rw [List.foldl_cons, rest, first]⟩

end Sys2Proof.Machine

namespace Sys2Proof.Safety
open Sys2Proof.Machine

/-! ### What a calm state leaves out -/

/-- A state stays calm when the rows of the vaults alone change. -/
theorem Calm.of_rows {s t : State} (h : Calm s) (rows : RowsOnly s t) (same : t = { s with cols := t.cols }) : Calm t := by
  have replicas : t.col.replicas = [] := by
    rw [State.col, rows, same]; exact h.replicas
  have banks : ∀ c, (t.cols.get c).vault.busy = [] := fun c => by rw [rows]; exact h.banks c
  rw [same] at replicas banks ⊢
  exact { h with replicas, banks }

section
variable {s : State} (h : Calm s)
include h

theorem Calm.mergeCopies (line : Nat) : s.mergeCopies line = s := by simp [State.mergeCopies, h.copies]

theorem Calm.settle (parts : List Part) : s.settle s.g.core parts = s := by
  have merged (lines : List Nat) : lines.foldl State.mergeCopies s = s := List.foldl_fixed' h.mergeCopies lines
  have drained (p : CombEntry → Bool) : s.drainComb s.g.core p = s := by simp [State.drainComb, h.comb]
  refine List.foldl_fixed' (fun p => ?_) parts
  split
  · rw [drained, merged]
  · rfl

theorem Calm.dropReplicas (parts : List Part) : s.dropReplicas s.ctxId s.g.core parts = s := by
  have none : (s.cols.get (coreCol s.g.core)).replicas = [] := h.replicas
  simp [State.dropReplicas, none]

theorem Calm.banksFree (parts : List Part) : s.banksFree parts = .ok () := by
  have free (loc : Nat) : s.bankBusy loc = false := by simp [State.bankBusy, h.banks]
  rw [State.banksFree, List.any_eq_false.2]
  · rfl
  · intro p _
    split
    · simp [free]
    · simp

theorem Calm.objOf (obj : Nat) : s.objOf obj = none := by simp [State.objOf, h.objs]

theorem Calm.partObjs (p : Part) : s.partObjs p = [] := by simp [State.partObjs, h.objOf]

theorem Calm.partObj (p : Part) : s.partObj p = none := by simp [State.partObj, h.partObjs]

theorem Calm.objReads (parts : List Part) : s.objReads parts = .ok () := by
  have none : (parts.map s.partObjs).flatten = [] := by simp [h.partObjs]
  simp [State.objReads, none]

theorem Calm.earlierWrites (parts : List Part) : s.earlierWrites parts = .ok () := by
  simp [State.earlierWrites, h.peers, h.held]

theorem Calm.versionByte (index loc : Nat) : s.versionByte s.g.team index loc = none := by
  have none : ((s.teamOf s.g.team).bind (·.version)) = none := by
    have := h.version
    unfold State.team at this
    cases ht : s.teamOf s.g.team with
    | none => rfl
    | some t => simpa [ht] using this
  simp [State.versionByte, none]

theorem Calm.heldByte (o : Origin) (a : Nat) : s.heldByte o a = none := by simp [State.heldByte, h.held]

theorem Calm.replicaAt (p : Part) : s.replicaAt s.ctxId s.g.core p = none := by
  have none : (s.cols.get (coreCol s.g.core)).replicas = [] := h.replicas
  simp [State.replicaAt, none]

theorem Calm.servedPart (p : Part) : s.servedPart p = p := by
  unfold State.servedPart
  rw [h.replicaAt]
  split
  · simp_all
  · rfl

theorem Calm.poisoned (a : Nat) : s.mem.poisoned a = false := by
  simp [Memory.poisoned, Memory.sectorPoisoned, h.poison, h.dead, h.bad]

theorem Calm.seen : s.seen = s := by simp [State.seen, h.olds]

theorem Calm.seenByte (reader : Option (Nat × Nat)) (k : KeySlot) (a : Nat) : s.seenByte reader k a = s.mem.plain k a := by
  simp [State.seenByte, Memory.unseen, h.olds, State.pickOld, chooseOld]

theorem Calm.holdOf (line : Nat) : s.holdOf line = none := by
  simp [State.holdOf, h.held, State.leaseDue, h.leases, Memory.hostHas, h.filter, h.snoops]

theorem Calm.versionWrites (parts : List Part) : s.versionWrites parts = .ok () := by simp [State.versionWrites, h.version]

theorem Calm.objStores (scalar : Bool) (parts : List Part) : s.objStores scalar parts = .ok () := by
  have none : (parts.filter fun p => (s.partObj p).isSome) = [] := by simp [h.partObj]
  simp only [State.objStores, none, h.banksFree]

end

/-! ### Loads -/

/-- A part of an access that lies in memory outside HOME 0, under a slot without encryption. -/
structure PlainPart (s : State) (p : Part) (loc : Nat) : Prop where
  site : p.x.site = .mem loc
  home : p.x.home ≠ 0
  key : (s.keySlot p.x.key).xts = false

section
variable {s : State} {p : Part} {loc : Nat} (h : Calm s) (hp : PlainPart s p loc)
include hp

theorem PlainPart.isPeer : p.isPeer = false := by simp [Part.isPeer, hp.site]

theorem PlainPart.l1Spans (t : State) (o : Origin) : t.l1Spans o p = [] := by simp [State.l1Spans, hp.site, hp.home]

include h

theorem PlainPart.partByte (i : Nat) : s.partByte p i = .inr (loc + i) := by
  have noObj : s.byteObj p (loc + i) = none := by simp [State.byteObj, h.objOf]
  simp [State.partByte, hp.site, noObj, h.versionByte, hp.home, h.heldByte, h.replicaAt]

/-- The bytes of such a part are those of memory at its place (R5). -/
theorem PlainPart.partBytes : s.partBytes p = tabList (memByte s) loc p.len := by
  apply List.ext_getElem
  · simp [State.partBytes, tabList_length]
  · intro i _ _
    simp only [State.partBytes, tabList_getElem, hp.partByte h, h.seenByte, plain_of_xts_false _ hp.key, Nat.zero_add]
    rfl

theorem PlainPart.partPoison : s.partPoison p = none := by
  simp [State.partPoison, hp.site, hp.partByte h, h.poisoned]

end

/-- In a calm state the load of one plain part reads the bytes of memory at its place; the row that it activates is all that it changes
(R89, R358). -/
theorem PlainPart.loadParts {s : State} {p : Part} {loc : Nat} (h : Calm s) (hp : PlainPart s p loc) (scalar : Bool) :
    s.loadParts scalar [p] = .ok ([(p.lane, memNat s loc p.len * 256 ^ p.off)], s.activate [p]) := by
  have asks : s.askParts [p] = [] := by simp [State.askParts, hp.isPeer]
  have peers (wait : State → Stop) : s.peerReads scalar [] [] wait = .ok () := rfl
  have calm : Calm (s.activate [p]) := h.of_rows (s.activate_rowsOnly [p]) (s.activate_eq [p])
  have plain : PlainPart (s.activate [p]) p loc := ⟨hp.site, hp.home, by rw [s.activate_eq]; exact hp.key⟩
  have clean : (s.activate [p]).poisonCheck scalar [p] = .ok () := by simp [State.poisonCheck, plain.partPoison calm]
  have reads : (s.activate [p]).l1Reads s.origin p = s.activate [p] := by simp [State.l1Reads, hp.l1Spans]
  have loads : (s.activate [p]).l1Load s.origin p = s.activate [p] := by simp [State.l1Load, hp.l1Spans]
  have bytes : (s.activate [p]).partBytes p = tabList (memByte s) loc p.len := by
    rw [plain.partBytes calm, s.activate_eq]; rfl
  have gathered (sent : List Byte) : (s.activate [p]).gatherParts [p] sent = [(p.lane, memNat s loc p.len * 256 ^ p.off)] := by
    simp only [State.gatherParts, hp.site, bytes]; rfl
  simp only [State.loadParts, State.loadAfter, asks, peers, h.objReads, h.earlierWrites, h.dropReplicas, h.settle, List.map_cons,
    List.map_nil, h.servedPart, h.banksFree, clean, List.foldl_cons, List.foldl_nil, reads, loads, gathered, calm.seen]
  rfl

/-! ### Stores -/

/-- t is the calm state s after a run of bytes has been put into memory, and is calm itself. -/
structure Stores (s : State) (loc : Nat) (bs : List Byte) (t : State) : Prop where
  same : s.MemOf t
  calm : Calm t
  bytes : ∀ a, memByte t a = if loc ≤ a ∧ a < loc + bs.length then bs.getD (a - loc) 0 else memByte s a

/-- Two runs side by side are one run. -/
theorem Stores.append {s t u : State} {loc : Nat} {bs cs : List Byte} (h : Stores s loc bs t)
    (k : Stores t (loc + bs.length) cs u) : Stores s loc (bs ++ cs) u := by
  refine ⟨h.same.trans k.same, k.calm, fun a => ?_⟩
  rw [k.bytes, h.bytes, List.length_append]
  by_cases first : a < loc + bs.length
  · rw [if_neg (by omega)]
    by_cases below : loc ≤ a
    · rw [if_pos ⟨below, first⟩, if_pos (by omega), List.getD_append _ _ _ _ (by omega)]
    · rw [if_neg (by omega), if_neg (by omega)]
  · by_cases last : a < loc + bs.length + cs.length
    · rw [if_pos (by omega), if_pos (by omega), List.getD_append_right _ _ _ _ (by omega)]
      congr 1
      omega
    · rw [if_neg (by omega), if_neg (by omega), if_neg (by omega)]

/-- The first bytes of a run after a store are its number (R5). -/
theorem Stores.memNat {s t : State} {loc : Nat} {bs : List Byte} (h : Stores s loc bs t) : memNat t loc bs.length = leNat bs := by
  have run : tabList (memByte t) loc bs.length = bs := by
    apply List.ext_getElem
    · simp [tabList_length]
    · intro i _ hi
      rw [tabList_getElem, h.bytes, if_pos (by omega), Nat.add_sub_cancel_left, List.getD_eq_getElem _ _ hi]
  rw [Safety.memNat, run]

theorem Stores.other {s t : State} {loc : Nat} {bs : List Byte} (h : Stores s loc bs t) {b : Nat}
    (hb : b < loc ∨ loc + bs.length ≤ b) : memByte t b = memByte s b := by
  rw [h.bytes, if_neg (by omega)]

section
variable {s : State} (h : Calm s)
include h

/-- A run stored past the caches in a calm state (R240, R344). -/
theorem Calm.storeRunBy (who : Option Origin) {k : KeySlot} (hk : k.xts = false) (loc : Nat) (bs : List Byte) :
    Stores s loc bs (s.storeRunBy who k loc bs) := by
  have stored : ∃ ws n, s.storeRunBy who k loc bs = { s with mem := { s.mem.store k loc bs with writes := ws }, fresh := n } := by
    unfold State.storeRunBy
    split
    · have free : s.freeLines loc bs.length = s := by simp [State.freeLines, h.slices]
      rw [free]
      exact State.bufferAll_eq _ _ _
    · exact ⟨_, _, rfl⟩
  obtain ⟨ws, n, eq⟩ := stored
  rw [eq]
  refine ⟨⟨_, _, rfl⟩, ?_, fun a => readAfterWrite s.mem k loc bs a hk h.poison h.dead⟩
  refine { h with poison := ?_, bad := ?_, olds := ?_ }
  · simp [Memory.store, h.poison]
  · simp [Memory.store, h.bad]
  · simp [Memory.store, Memory.oldsAfter, h.olds]

/-- A run written at a home other than 0 (R241). -/
theorem Calm.storeSpan {w : Writer} (hw : w.home ≠ 0) (hk : (s.keySlot w.key).xts = false) (loc : Nat) (bs : List Byte) :
    Stores s loc bs (s.storeSpan w loc bs) := by
  have whole : s.mem.failsAt loc bs.length = [] := by simp [Memory.failsAt, Memory.accepts_clean h.poison h.dead]
  simp only [State.storeSpan, if_neg hw, State.writeHome, State.writeHomeAs, h.holdOf, State.performWrite, State.performAt, whole,
    List.foldl_nil, HeldAs.plain, State.noteRelease, State.storeHome, decide_eq_false hw, Bool.false_and, Bool.false_eq_true, if_false]
  exact h.storeRunBy _ hk loc bs

/-- A part written at a home other than 0, cut where its line ends. -/
theorem Calm.storeRunAt {p : Part} (hp : p.x.home ≠ 0) (hk : (s.keySlot p.x.key).xts = false) (loc : Nat) (bs : List Byte) :
    Stores s loc bs (s.storeRunAt p loc bs) := by
  unfold State.storeRunAt
  dsimp only
  split
  · exact h.storeSpan (w := s.writer p) hp hk loc bs
  · rename_i long
    have first := h.storeSpan (w := s.writer p) hp hk loc (bs.take (128 - loc % 128))
    have length : (bs.take (128 - loc % 128)).length = 128 - loc % 128 := by rw [List.length_take]; omega
    have second := first.calm.storeSpan
      (w := { s.writer p with va := (s.writer p).va + BitVec.ofNat 64 (128 - loc % 128) }) hp
      (by rw [State.keySlot, first.same.keys]; exact hk) (loc + (128 - loc % 128)) (bs.drop (128 - loc % 128))
    rw [← List.take_append_drop (128 - loc % 128) bs]
    conv => arg 4; rw [List.take_append_drop]
    refine first.append ?_
    rw [length]
    exact second

/-- A plain part stored in a calm state (R137). -/
theorem PlainPart.storePart {p : Part} {loc : Nat} (hp : PlainPart s p loc) (bs : List Byte) :
    Stores s loc bs (s.storePart p bs) := by
  simp only [State.storePart, hp.site, h.version, Option.isSome_none, Bool.false_and, Bool.false_eq_true, if_false]
  exact h.storeRunAt hp.home hp.key loc bs

end

end Sys2Proof.Safety
end

section
/-! The scalar loads and stores (R88 to R90). -/
namespace Sys2Proof.Machine
open Sys2Proof.Safety
-- One proof at a time: proofs elaborated side by side each take a thread and its stack.
set_option Elab.async false

/-! ### Addresses and bytes -/

theorem scalarAddr_ok {ea : Word} (h : ea.toNat < 2 ^ 55) (aligned : ea.toNat % 8 = 0) : scalarAddr ea = .ok () := by
  rw [scalarAddr, decide_eq_true h, aligned]; rfl

theorem scalarAddr_beyond {ea : Word} (h : 2 ^ 55 ≤ ea.toNat) : scalarAddr ea = .error (trap .accessFault ea 0) := by
  rw [scalarAddr, decide_eq_false (Nat.not_lt.2 h)]; rfl

theorem scalarAddr_misaligned {ea : Word} (h : ea.toNat < 2 ^ 55) (unaligned : ea.toNat % 8 ≠ 0) :
    scalarAddr ea = .error (trap .misaligned ea 0) := by
  rw [scalarAddr, decide_eq_true h, beq_false_of_ne unaligned]; rfl

theorem leBytes_length (k n : Nat) : (leBytes k n).length = k := by
  induction k generalizing n with
  | zero => rfl
  | succ k ih => rw [leBytes, List.length_cons, ih]

/-- The little-endian bytes of a number give the number again (R5). -/
theorem leNat_leBytes {k n : Nat} (h : n < 256 ^ k) : leNat (leBytes k n) = n := by
  induction k generalizing n with
  | zero => rw [Nat.pow_zero] at h; rw [leBytes, leNat]; omega
  | succ k ih =>
    rw [Nat.pow_succ] at h
    rw [leBytes, leNat, ih (Nat.div_lt_of_lt_mul (by rwa [Nat.mul_comm] at h)), BitVec.toNat_ofNat]
    omega

/-- The value of the one part of a scalar access. -/
theorem laneValue_one (x : Nat) : laneValue [(0, x)] 0 = x := by simp [laneValue]

/-! ### Loads -/

section
variable {s : State} {d a : SReg} {imm : BitVec 12} (h : s.sound [] [a] [] = .ok ())
include h

theorem exec_ld_addr {e : Stop} (he : scalarAddr (scalarEa s.g a imm) = .error e) : exec (.ld d a imm) s = finish s (.error e) := by
  simp only [exec_ld, execLd, State.loadWord, h, he]; rfl

theorem exec_ldk_addr {e : Stop} (he : scalarAddr (scalarEa s.g a imm) = .error e) : exec (.ldk d a imm) s = finish s (.error e) := by
  simp only [exec_ldk, execLdk, h, he]; rfl

variable (hea : scalarAddr (scalarEa s.g a imm) = .ok ()) {ps : List Part}
  (hps : s.xlatParts .read true [(0, (scalarEa s.g a imm).toNat, 8, 0)] = .ok ps)
include hea hps

/-- LD whose translation and load are settled (R89). -/
theorem exec_ld_ok {vals : List (Nat × Nat)} {t : State} (hl : s.loadParts true ps = .ok (vals, t)) :
    exec (.ld d a imm) s = .next (t.retireWith (t.g.setS d (BitVec.ofNat 64 (laneValue vals 0)))) := by
  simp only [exec_ld, execLd, State.loadWord, State.scalarPart, h, hea, hps, hl, ok_bind]; rfl

/-- LDK whose translation is settled and whose line is no allowance object's, past the constant cache (R90). -/
theorem exec_ldk_miss (ho : ps.filterMap s.partObj = []) (hc : s.core.constWord ps = none) {vals : List (Nat × Nat)} {t : State}
    (hl : s.loadParts true ps = .ok (vals, t)) :
    exec (.ldk d a imm) s = .next (t.retireWith (t.g.setS d (BitVec.ofNat 64 (laneValue vals 0)))) := by
  simp only [exec_ldk, execLdk, State.scalarPart, h, hea, hps, ho, hc, hl, ok_bind]; rfl

/-- LDK of a word that the constant cache holds (R90, R251). -/
theorem exec_ldk_hit (ho : ps.filterMap s.partObj = []) {x : Word} (hc : s.core.constWord ps = some x) :
    let merged := ((ps.map Part.lines).flatten).foldl State.mergeCopies s
    exec (.ldk d a imm) s = .next (merged.retireWith (merged.g.setS d x)) := by
  simp only [exec_ldk, execLdk, State.scalarPart, h, hea, hps, ho, hc, ok_bind]; rfl

end

/-! ### Stores -/

section
variable {s : State} {d a : SReg} {imm : BitVec 12} (h : s.sound [] [d, a] [] = .ok ())
include h

theorem exec_st_addr {e : Stop} (he : scalarAddr (scalarEa s.g a imm) = .error e) : exec (.st d a imm) s = finish s (.error e) := by
  simp only [exec_st, execSt, h, he]; rfl

/-- ST whose translation and whose checks of objects and versions are settled (R89). -/
theorem exec_st_ok (hea : scalarAddr (scalarEa s.g a imm) = .ok ()) {ps : List Part}
    (hps : s.xlatParts .write true [(0, (scalarEa s.g a imm).toNat, 8, 0)] = .ok ps) (ho : s.objStores true ps = .ok ())
    (hv : s.versionWrites ps = .ok ()) :
    exec (.st d a imm) s = .next (s.storeParts ps 8 fun _ => (s.g.sReg d).toNat).retire := by
  simp only [exec_st, execSt, State.scalarPart, h, hea, hps, ho, hv, ok_bind]; rfl

end

/-! ### A calm state -/

section
variable {s : State} {p : Part} {loc : Nat} (h : Calm s) (hp : PlainPart s p loc) (hlen : p.len = 8) (hoff : p.off = 0)
include h hp hlen hoff

/-- The word that a scalar load of a plain part gives. -/
theorem loadParts_word (hlane : p.lane = 0) : ∃ vals, s.loadParts true [p] = .ok (vals, s.activate [p]) ∧ laneValue vals 0 = memNat s loc 8 := by
  refine ⟨_, hp.loadParts h true, ?_⟩
  rw [hlane, hlen, hoff, Nat.pow_zero, Nat.mul_one, laneValue_one]

/-- The eight bytes that a scalar store of a plain part puts into memory. -/
theorem storeParts_word (x : Word) :
    ∃ u, RowsOnly s u ∧ u = { s with cols := u.cols } ∧ Stores u loc (leBytes 8 x.toNat) (s.storeParts [p] 8 fun _ => x.toNat) := by
  have calm : Calm (s.activate [p]) := h.of_rows (s.activate_rowsOnly [p]) (s.activate_eq [p])
  have plain : PlainPart (s.activate [p]) p loc := ⟨hp.site, hp.home, by rw [s.activate_eq]; exact hp.key⟩
  refine ⟨s.activate [p], s.activate_rowsOnly [p], s.activate_eq [p], ?_⟩
  have whole : ((leBytes 8 x.toNat).drop p.off).take p.len = leBytes 8 x.toNat := by
    rw [hoff, hlen, List.drop_zero, List.take_of_length_le (leBytes_length 8 x.toNat).le]
  simp only [State.storeParts, h.settle, List.foldl_cons, List.foldl_nil, whole]
  exact plain.storePart calm _

end

/-- Settles O27: the checks of R89 in their order, and in a calm state the bytes of memory at the part's place. -/
theorem scalarAccesses : Obligations.ScalarAccesses := by
  constructor
  · intro s d a imm ea traps
    refine ⟨fun h => ⟨fun far => ?_, fun near odd => ?_, fun near aligned ps vals t hps hl => ?_⟩, fun h => ⟨fun far => ?_,
      fun near odd => ?_, fun near aligned ps hps ho hv => ?_⟩⟩
    · exact ⟨exec_ld_addr h (scalarAddr_beyond far), exec_ldk_addr h (scalarAddr_beyond far)⟩
    · exact ⟨exec_ld_addr h (scalarAddr_misaligned near odd), exec_ldk_addr h (scalarAddr_misaligned near odd)⟩
    · have good : scalarAddr ea = .ok () := scalarAddr_ok near aligned
      exact ⟨exec_ld_ok h good hps hl, fun ho hc => exec_ldk_miss h good hps ho hc hl, fun ho x hc => exec_ldk_hit h good hps ho hc⟩
    · exact exec_st_addr h (scalarAddr_beyond far)
    · exact exec_st_addr h (scalarAddr_misaligned near odd)
    · exact exec_st_ok h (scalarAddr_ok near aligned) hps ho hv
  · intro s d a imm p loc calm hb ea near aligned site hlen hoff hlane home key read
    have hp : PlainPart s p loc := ⟨site, home, key⟩
    have good : scalarAddr ea = .ok () := scalarAddr_ok near aligned
    obtain ⟨vals, hl, hv⟩ := loadParts_word calm hp hlen hoff hlane
    have gives {i : Instr} (he : exec i s = .next ((s.activate [p]).retireWith ((s.activate [p]).g.setS d
        (BitVec.ofNat 64 (laneValue vals 0))))) : read i := by
      refine ⟨_, he, s.activate_rowsOnly [p], ?_⟩
      rw [hv, s.activate_eq [p]]; rfl
    refine ⟨fun hps => ⟨gives (exec_ld_ok (sound_ok hb _ _ _) good hps hl), fun hc => ?_⟩, fun hps => ?_⟩
    · have noObj : [p].filterMap s.partObj = [] := by simp [calm.partObj]
      exact gives (exec_ldk_miss (sound_ok hb _ _ _) good hps noObj hc hl)
    · obtain ⟨u, rows, same, stored⟩ := storeParts_word calm hp hlen hoff (s.g.sReg d)
      have group : (s.storeParts [p] 8 fun _ => (s.g.sReg d).toNat).g = s.g := by rw [stored.same.g, same]
      have word := stored.memNat
      rw [leBytes_length, leNat_leBytes (s.g.sReg d).isLt] at word
      refine ⟨_, exec_st_ok (sound_ok hb _ _ _) good hps (calm.objStores true [p]) (calm.versionWrites [p]), ?_, ?_, word,
        fun b hb => ?_⟩
      · exact congrArg Group.retire group
      · exact rowsOnly_trans rows (rowsOnly_of_cols stored.same.cols)
      · have kept := stored.other (b := b) (by rwa [leBytes_length])
        rw [same] at kept
        exact kept

end Sys2Proof.Machine
end

section
/-! Glyphs: loading a body and binding it (R108 to R111). -/
namespace Sys2Proof.Machine
open Sys2Proof.Safety
-- One proof at a time: proofs elaborated side by side each take a thread and its stack.
set_option Elab.async false

/-! ### GLYLD -/

section
variable {s : State} {a : SReg} (gi : BitVec 8) (h : s.sound [] [a] [] = .ok ())
include h

theorem exec_glyld_misaligned (odd : (s.g.sReg a).toNat % 4 ≠ 0) :
    exec (.glyld a gi) s = .next (s.takeTrap ⟨.misaligned, s.g.sReg a, 0, [], none⟩) := by
  simp only [exec_glyld, execGlyld, h, beq_false_of_ne odd, need_false, ok_bind]; rfl

variable (aligned : (s.g.sReg a).toNat % 4 = 0)
include aligned

theorem exec_glyld_beyond (far : 2 ^ 55 ≤ (s.g.sReg a).toNat) :
    exec (.glyld a gi) s = .next (s.takeTrap ⟨.accessFault, s.g.sReg a, 0, [], none⟩) := by
  simp only [exec_glyld, execGlyld, h, aligned, beq_self_eq_true, decide_eq_false (Nat.not_lt.2 far), need_true, need_false, ok_bind]
  rfl

variable (near : (s.g.sReg a).toNat < 2 ^ 55) {hp : List Part} {hv : List (Nat × Nat)} {t : State}
  (header : s.xlatParts .read true [(0, (s.g.sReg a).toNat, 4, 0)] = .ok hp) (read : s.loadParts true hp = .ok (hv, t))
include near header read

/-- A header that no body may have traps with the header (R109, R110). -/
theorem exec_glyld_header (bad : headerOk (laneValue hv 0) = false) :
    exec (.glyld a gi) s = .next (s.takeTrap ⟨.glyphBody, BitVec.ofNat 64 (laneValue hv 0), 0, [], none⟩) := by
  simp only [exec_glyld, execGlyld, h, aligned, beq_self_eq_true, decide_eq_true near, header, read, bad, need_true, need_false,
    ok_bind, glyphBody, Nat.zero_mul, Nat.zero_add]
  rfl

variable (good : headerOk (laneValue hv 0) = true) {bp : List Part} {bv : List (Nat × Nat)} {u : State}
  (steps : t.xlatParts .read true (bodyCuts (s.g.sReg a + 4).toNat (laneValue hv 0)) = .ok bp)
  (loaded : t.loadAfter (peerAsks (s.askParts hp)) true bp = .ok (bv, u))
include good steps loaded

/-- A step that no body may hold traps with its number and its word (R109, R110). -/
theorem exec_glyld_step {k : Nat} {w : Word32} (bad : badStep 0 (bodyWords bv (laneValue hv 0)) = some (k, w)) :
    exec (.glyld a gi) s = .next (s.takeTrap ⟨.glyphBody, BitVec.ofNat 64 ((k + 1) * 2 ^ 32 + w.toNat), 0, [], none⟩) := by
  simp only [exec_glyld, execGlyld, h, aligned, beq_self_eq_true, decide_eq_true near, header, read, good, need_true, ok_bind, steps,
    loaded, bad]
  rfl

variable (whole : badStep 0 (bodyWords bv (laneValue hv 0)) = none)
include whole

/-- An entry of another context with a resident team there stays (R109). -/
theorem exec_glyld_busy {e : GlyphEntry} (he : u.core.glyphEntry gi = some e) (other : e.owner ≠ u.ctxId)
    (resident : u.residentOn e.owner u.g.core = true) :
    exec (.glyld a gi) s = .next (s.takeTrap ⟨.glyphBusy, gi.zeroExtend 64, 0, [], none⟩) := by
  rw [BitVec.zeroExtend, ← BitVec.ofNat_toNat]
  simp only [exec_glyld, execGlyld, h, aligned, beq_self_eq_true, decide_eq_true near, header, read, good, need_true, ok_bind, steps,
    loaded, whole, he, beq_false_of_ne other, resident]
  rfl

/-- Otherwise the body replaces the entry whole, once no GLYPH of the core runs (R109, R112). -/
theorem exec_glyld_ok (idle : s.glyphRunning s.g.core = false)
    (free : ∀ e, u.core.glyphEntry gi = some e → e.owner = u.ctxId ∨ u.residentOn e.owner u.g.core = false) :
    exec (.glyld a gi) s =
      .next (u.modCore u.g.core fun x => x.putGlyph ⟨gi, u.ctxId, bodyWords bv (laneValue hv 0)⟩).retire := by
  cases he : u.core.glyphEntry gi with
  | none =>
    simp only [exec_glyld, execGlyld, h, aligned, beq_self_eq_true, decide_eq_true near, header, read, good, need_true, ok_bind, steps,
      loaded, whole, he, idle]
    rfl
  | some e =>
    have mayReplace : (e.owner == u.ctxId || !(u.residentOn e.owner u.g.core)) = true := by
      rcases free e he with own | gone
      · simp [own]
      · simp [gone]
    simp only [exec_glyld, execGlyld, h, aligned, beq_self_eq_true, decide_eq_true near, header, read, good, need_true, ok_bind, steps,
      loaded, whole, he, mayReplace, idle]
    rfl

end

theorem headerOk_iff (n : Nat) : headerOk n = true ↔ 1 ≤ n ∧ n ≤ 32 := by simp [headerOk]

/-! ### GLYPH -/

section
variable {s : State} {gi : BitVec 8} (pA pB : BitVec 7) (kinds : BitVec 2)

/-- The trap of a GLYPH whose entry is absent, with the step at which it is entered (R111). -/
theorem exec_glyph_absent (h : ∀ e, s.core.glyphEntry gi = some e → e.owner ≠ s.ctxId ∨ e.body.length ≤ s.g.glyphStart) :
    exec (.glyph gi pA pB kinds) s = .next (s.takeTrap ⟨.glyphAbsent, gi.zeroExtend 64, 0, [], some s.g.glyphStart⟩) := by
  rw [BitVec.zeroExtend, ← BitVec.ofNat_toNat]
  cases he : s.core.glyphEntry gi with
  | none => simp only [exec_glyph, execGlyph, he]; rfl
  | some e =>
    have missing : (e.owner == s.ctxId && decide (s.g.glyphStart < e.body.length)) = false := by
      rcases h e he with other | short
      · simp [other]
      · simp [Nat.not_lt.2 short]
    simp only [exec_glyph, execGlyph, he, missing, need_false, error_bind]; rfl

/-- A GLYPH of its context's entry binds the body as it stands (R111). -/
theorem exec_glyph_ok {e : GlyphEntry} (he : s.core.glyphEntry gi = some e) (own : e.owner = s.ctxId)
    (within : s.g.glyphStart < e.body.length) (fits : badPlace kinds 0 e.body = none) :
    exec (.glyph gi pA pB kinds) s =
      .next { s with g := { s.g with glyph := some ⟨e.body, s.g.glyphStart, pA, pB, kinds⟩, glyphResume := none } } := by
  simp only [exec_glyph, execGlyph, he, own, beq_self_eq_true, decide_eq_true within, Bool.and_self, need_true, ok_bind, fits]; rfl

end

/-- Settles O40: GLYLD by its checks in their order, GLYPH by the entry that it finds. -/
theorem glyphs : Obligations.Glyphs := by
  intro s a gi pA pB kinds hb A
  have h : s.sound [] [a] [] = .ok () := sound_ok hb _ _ _
  refine ⟨exec_glyld_misaligned gi h, exec_glyld_beyond gi h, fun aligned near hp hv t header read bad => ?_,
    ?_, fun none => ?_, fun e he absent => ?_,
    fun e he own within fits => exec_glyph_ok pA pB kinds he own within fits⟩
  · refine exec_glyld_header gi h aligned near header read (Bool.eq_false_iff.2 fun good => ?_)
    have := (headerOk_iff _).1 good
    omega
  · intro aligned near idle hp hv t bp bv u header read n low high steps loaded body
    have good := (headerOk_iff n).2 ⟨low, high⟩
    exact ⟨fun k w bad => exec_glyld_step gi h aligned near header read good steps loaded bad,
      fun whole free => exec_glyld_ok gi h aligned near header read good steps loaded whole idle free,
      fun whole e he other resident => exec_glyld_busy gi h aligned near header read good steps loaded whole he other resident⟩
  · exact exec_glyph_absent pA pB kinds fun e he => by rw [none] at he; cases he
  · refine exec_glyph_absent pA pB kinds fun e' he' => ?_
    rw [he] at he'
    cases he'
    exact absent

end Sys2Proof.Machine
end

section
/-! What the device log, the rings and the context table leave alone when a record is written (R310, R385, R386). -/
namespace Sys2Proof.Machine
-- One proof at a time: proofs elaborated side by side each take a thread and its stack.
set_option Elab.async false

/-- t is s after records have been written out: the number of records made, the states of the contexts and the pending retirements of the
columns stand. -/
structure State.WrittenOut (s t : State) : Prop where
  count : t.log.count = s.log.count
  phase : ∀ c, (t.ctxs.get c).phase = (s.ctxs.get c).phase
  error : ∀ c, (t.ctxs.get c).error = (s.ctxs.get c).error
  retiring : ∀ c, (t.cols.get c).retiring = (s.cols.get c).retiring

theorem State.WrittenOut.refl (s : State) : s.WrittenOut s := ⟨rfl, fun _ => rfl, fun _ => rfl, fun _ => rfl⟩

section
variable {r s : State} (h : r.WrittenOut s)
include h

theorem State.WrittenOut.trans {t : State} (k : s.WrittenOut t) : r.WrittenOut t :=
  ⟨k.count.trans h.count, fun c => (k.phase c).trans (h.phase c), fun c => (k.error c).trans (h.error c),
    fun c => (k.retiring c).trans (h.retiring c)⟩

/-- What neither the log, nor the contexts, nor the columns hold may change. -/
theorem State.WrittenOut.same {t : State} (log : t.log.count = s.log.count) (ctxs : t.ctxs = s.ctxs) (cols : t.cols = s.cols) :
    r.WrittenOut t :=
  h.trans ⟨log, fun _ => by rw [ctxs], fun _ => by rw [ctxs], fun _ => by rw [cols]⟩

theorem State.WrittenOut.memOf {t : State} (k : s.MemOf t) : r.WrittenOut t := h.same (by rw [k.log]) k.ctxs k.cols

theorem State.devKeep_writtenOut (pa len : Nat) : r.WrittenOut (s.devKeep pa len) := by
  have one (t : State) (l : Nat) (ht : r.WrittenOut t) : r.WrittenOut (t.keepPlace none none l) := ht.same rfl rfl rfl
  unfold State.devKeep
  induction runLines pa len generalizing s with
  | nil => exact h
  | cons l rest ih =>
    refine ih ?_
    dsimp only
    split
    · exact one s l h
    · exact h

theorem State.logged_writtenOut (i : Incident) : r.WrittenOut (s.logged i) := by
  have told : r.WrittenOut (if h : i.col < 64 then s.modCol ⟨i.col, h⟩ fun x => { x with imsic := x.imsic ++ [4] } else s) := by
    split
    · refine h.trans ⟨rfl, fun _ => rfl, fun _ => rfl, fun c => ?_⟩
      rw [State.modCol_get]
      split
      · subst c; rfl
      · rfl
    · exact h
  unfold State.logged
  dsimp only
  split
  · exact told.same rfl rfl rfl
  · exact told

theorem State.logWrite_writtenOut (x : LogRec) : r.WrittenOut (s.logWrite x) := by
  have stored : r.WrittenOut (s.physWrite s.dev.logPlace x.bytes) := h.memOf (State.storeRunBy_memOf ..)
  unfold State.logWrite
  dsimp only
  split
  · refine State.logged_writtenOut ?_ _
    exact stored.same rfl rfl rfl
  · exact stored.same rfl rfl rfl

theorem State.logDrain_writtenOut (k : Nat) : r.WrittenOut (s.logDrain k) := by
  induction k generalizing s with
  | zero => exact h
  | succ k ih =>
    unfold State.logDrain
    split
    · split
      · exact h
      · split
        · refine ih (State.logWrite_writtenOut ?_ _)
          exact h.same rfl rfl rfl
        · exact State.devKeep_writtenOut h _ _
    · exact h

theorem State.logAppend_writtenOut (x : LogRec) : r.WrittenOut (s.logAppend x) := by
  unfold State.logAppend
  dsimp only
  refine State.logDrain_writtenOut ?_ 4097
  split
  · split
    · exact h.same rfl rfl rfl
    · exact h.same rfl rfl rfl
  · exact h.same rfl rfl rfl

theorem State.devPerform_writtenOut (w : DevWrite) : r.WrittenOut (s.devPerform w) := by
  cases w with
  | ring i =>
    unfold State.devPerform
    dsimp only
    split
    · have stored := h.memOf (State.storeRunBy_memOf s none KeySlot.plaintext (s.devPlace (.ring i)).1 i.bytes)
      refine stored.trans ⟨rfl, fun c => ?_, fun c => ?_, fun _ => rfl⟩
      · rw [State.modCtx_get]
        split
        · subst c; rfl
        · rfl
      · rw [State.modCtx_get]
        split
        · subst c; rfl
        · rfl
    · exact h
  | table c msi =>
    have stored := h.memOf (State.storeRunBy_memOf s none KeySlot.plaintext (s.devPlace (.table c msi)).1
      (leBytes 8 (s.ctxs.get c).stateWord ++ leBytes 8 (s.ctxs.get c).errSeq.toNat ++ leBytes 8 (s.ctxs.get c).irHead.toNat))
    unfold State.devPerform
    dsimp only
    split
    · exact stored.same (congrArg _ (State.msiJournal_log ..)) (State.msiJournal_ctxs ..) (State.msiJournal_cols ..)
    · exact stored

theorem State.devDrain_writtenOut (k : Nat) : r.WrittenOut (s.devDrain k) := by
  induction k generalizing s with
  | zero => exact h
  | succ k ih =>
    unfold State.devDrain
    split
    · exact h
    · dsimp only
      split
      · refine ih (State.devPerform_writtenOut ?_ _)
        exact h.same rfl rfl rfl
      · exact State.devKeep_writtenOut h _ _

theorem State.devWrite_writtenOut (l : List DevWrite) : r.WrittenOut (s.devWrite l) := by
  refine State.devDrain_writtenOut ?_ _
  exact h.same rfl rfl rfl

end

/-! ### One record -/

/-- A record that no summary replaces is counted, and otherwise only written out (R386, R387). -/
theorem State.report_counts {s : State} {i : Incident} (h : s.mergesNow i = false) :
    ({ s with log := { s.log with count := s.log.count + 1 } } : State).WrittenOut (s.report i) := by
  have appended (j : Incident) : ({ s with log := { s.log with count := s.log.count + 1 } } : State).WrittenOut
      ((({ s with log := { s.log with count := s.log.count + 1 } } : State).countSeen j).logAppend (.incident j)) := by
    refine State.logAppend_writtenOut ?_ _
    exact (State.WrittenOut.refl _).same rfl rfl rfl
  unfold State.report
  rw [if_neg (by rw [h]; exact Bool.false_ne_true)]
  dsimp only
  split
  · split
    · exact appended _
    · exact State.devWrite_writtenOut (appended _) _
  · exact appended _

/-- A record leaves the states of the contexts and the pending retirements as they are. -/
theorem State.report_keeps (s : State) (i : Incident) :
    (∀ c, ((s.report i).ctxs.get c).phase = (s.ctxs.get c).phase) ∧ (∀ c, ((s.report i).ctxs.get c).error = (s.ctxs.get c).error) ∧
      ∀ c, ((s.report i).cols.get c).retiring = (s.cols.get c).retiring := by
  by_cases h : s.mergesNow i = true
  · have merged : s.report i = (s.countSeen i).countMerged i.cls i.code i.col := by simp [State.report, h]
    rw [merged]
    exact ⟨fun _ => rfl, fun _ => rfl, fun _ => rfl⟩
  · obtain ⟨_, phase, error, retiring⟩ := State.report_counts (Bool.eq_false_iff.2 h)
    exact ⟨phase, error, retiring⟩

/-- The error state of a context leaves the pending retirements as they are. -/
theorem State.errorState_retiring (s : State) (c : CtxId) (d : ColId) :
    ((s.errorState c).cols.get d).retiring = (s.cols.get d).retiring :=
  (State.devWrite_writtenOut (State.WrittenOut.refl _) _).retiring d

/-- A context that is not free enters the error state (R310). -/
theorem State.errorState_error (s : State) {c : CtxId} (h : (s.ctxs.get c).phase ≠ .free) :
    ((s.errorState c).ctxs.get c).error = true := by
  have written := State.devWrite_writtenOut (State.WrittenOut.refl
    (s.modCtx c fun x => if x.phase == .free || x.error then x else { x with error := true, errSeq := s.lastSeq })) [.table c false]
  refine (written.error c).trans ?_
  rw [State.modCtx_get, if_pos rfl, beq_false_of_ne h, Bool.false_or]
  split
  · assumption
  · rfl

theorem State.errorState_count (s : State) (c : CtxId) : (s.errorState c).log.count = s.log.count :=
  (State.devWrite_writtenOut (State.WrittenOut.refl _) _).count

end Sys2Proof.Machine
end

section
/-! What an access to memory leaves alone: the issuing group but for its mark of a failed store (R196), the teams but for such marks and
their versions (R267), the grids, the pending retirements, and an empty combining buffer. One lemma for each operation between a core and
memory, in the order in which the model defines them. -/
namespace Sys2Proof.Machine
open State
-- One proof at a time: proofs elaborated side by side each take a thread and its stack.
set_option Elab.async false

/-- A team after accesses: the marks of its saved groups and its version alone may have changed. -/
def Team.Accessed (x y : Team) : Prop :=
  y = { x with groups := y.groups, version := y.version, versionLines := y.versionLines, versionRels := y.versionRels }

/-- t is s after accesses to memory. -/
structure State.Accessed (s t : State) : Prop where
  group : ∃ x, t.g = { s.g with imprecise := x }
  teams : List.Forall₂ Team.Accessed s.teams t.teams
  grids : t.grids = s.grids
  retiring : ∀ c, (t.cols.get c).retiring = (s.cols.get c).retiring
  comb : ∀ c, (s.cores.get c).comb = [] → (t.cores.get c).comb = []

theorem Team.Accessed.refl (x : Team) : x.Accessed x := rfl

theorem Team.Accessed.trans {x y z : Team} (h : x.Accessed y) (k : y.Accessed z) : x.Accessed z := by
  unfold Team.Accessed at h k ⊢
  rw [k, h]

theorem teamsAccessed_refl (l : List Team) : List.Forall₂ Team.Accessed l l :=
  List.forall₂_same.2 fun x _ => .refl x

theorem teamsAccessed_trans {k l m : List Team} (h : List.Forall₂ Team.Accessed k l) (i : List.Forall₂ Team.Accessed l m) :
    List.Forall₂ Team.Accessed k m := by
  induction h generalizing m with
  | nil => exact i
  | cons hx _ ih =>
    cases i with
    | cons hy hr => exact .cons (hx.trans hy) (ih hr)

theorem teamsAccessed_updWhere {p : Team → Bool} {f : Team → Team} (hf : ∀ x : Team, x.Accessed (f x)) (l : List Team) :
    List.Forall₂ Team.Accessed l (updWhere p f l) := by
  induction l with
  | nil => exact .nil
  | cons x r ih =>
    refine .cons ?_ ih
    split
    · exact hf x
    · exact .refl x

/-- The team of an identifier after accesses. -/
theorem find_teamsAccessed {l m : List Team} (h : List.Forall₂ Team.Accessed l m) {id : Nat} {x : Team}
    (hx : l.find? (fun t => t.id == id) = some x) : ∃ y, m.find? (fun t => t.id == id) = some y ∧ x.Accessed y := by
  induction h with
  | nil => cases hx
  | @cons a b _ _ hab _ ih =>
    have sameId : b.id = a.id := by rw [hab]
    rw [List.find?_cons] at hx ⊢
    rw [sameId]
    split at hx
    · cases hx
      exact ⟨b, rfl, hab⟩
    · exact ih hx

theorem mem_teamsAccessed {l m : List Team} (h : List.Forall₂ Team.Accessed l m) {x : Team} (hx : x ∈ l) :
    ∃ y ∈ m, x.Accessed y := by
  induction h with
  | nil => cases hx
  | @cons a b _ _ hab _ ih =>
    cases hx with
    | head => exact ⟨b, List.mem_cons_self .., hab⟩
    | tail _ hx =>
      obtain ⟨y, hy, hxy⟩ := ih hx
      exact ⟨y, List.mem_cons_of_mem _ hy, hxy⟩

theorem State.Accessed.refl (s : State) : s.Accessed s :=
  ⟨⟨s.g.imprecise, rfl⟩, teamsAccessed_refl _, rfl, fun _ => rfl, fun _ => id⟩

theorem State.Accessed.trans {r s t : State} (h : r.Accessed s) (k : s.Accessed t) : r.Accessed t := by
  refine ⟨?_, teamsAccessed_trans h.teams k.teams, k.grids.trans h.grids, fun c => (k.retiring c).trans (h.retiring c),
    fun c hc => k.comb c (h.comb c hc)⟩
  obtain ⟨x, hx⟩ := h.group
  obtain ⟨y, hy⟩ := k.group
  exact ⟨y, by rw [hy, hx]⟩

/-! ### How accesses are carried -/

section
variable {r s : State} (h : r.Accessed s)
include h

/-- What none of these parts of the state holds may change. -/
theorem State.Accessed.same {t : State} (g : t.g = s.g) (teams : t.teams = s.teams) (grids : t.grids = s.grids)
    (cores : t.cores = s.cores) (cols : t.cols = s.cols) : r.Accessed t :=
  h.trans ⟨⟨s.g.imprecise, g⟩, teams ▸ teamsAccessed_refl _, grids, fun _ => by rw [cols], fun _ hc => by rwa [cores]⟩

theorem State.Accessed.withMem (m : Memory) : r.Accessed { s with mem := m } := h.same rfl rfl rfl rfl rfl

theorem State.Accessed.memOf {t : State} (k : s.MemOf t) : r.Accessed t := h.same k.g k.teams k.grids k.cores k.cols

theorem State.Accessed.modCore {c : CoreId} {f : CoreState → CoreState} (hf : ∀ x : CoreState, x.comb = [] → (f x).comb = []) :
    r.Accessed (s.modCore c f) := by
  refine h.trans ⟨⟨s.g.imprecise, rfl⟩, teamsAccessed_refl _, rfl, fun _ => rfl, fun d hd => ?_⟩
  rw [State.modCore_get]
  split
  · subst d; exact hf _ hd
  · exact hd

theorem State.Accessed.modCol {c : ColId} {f : ColState → ColState} (hf : ∀ x : ColState, (f x).retiring = x.retiring) :
    r.Accessed (s.modCol c f) := by
  refine h.trans ⟨⟨s.g.imprecise, rfl⟩, teamsAccessed_refl _, rfl, fun d => ?_, fun _ => id⟩
  rw [State.modCol_get]
  split
  · subst d; exact hf _
  · rfl

theorem State.Accessed.modTeam {id : Nat} {f : Team → Team} (hf : ∀ x : Team, x.Accessed (f x)) : r.Accessed (s.modTeam id f) :=
  h.trans ⟨⟨s.g.imprecise, rfl⟩, teamsAccessed_updWhere hf _, rfl, fun _ => rfl, fun _ hc => hc⟩

omit h in
theorem State.Accessed.ite {c : Prop} [Decidable c] {t u : State} (ht : r.Accessed t) (hu : r.Accessed u) :
    r.Accessed (if c then t else u) := by
  split
  · exact ht
  · exact hu

theorem State.Accessed.foldl {α : Type} {f : State → α → State} {l : List α} (hf : ∀ t x, r.Accessed t → r.Accessed (f t x)) :
    r.Accessed (l.foldl f s) := by
  induction l generalizing s with
  | nil => exact h
  | cons x rest ih => exact ih (hf s x h)

/-! ### Incidents and failed stores -/

theorem State.report_accessed (i : Incident) : r.Accessed (s.report i) := by
  refine h.trans ⟨⟨s.g.imprecise, s.report_g i⟩, by rw [State.report_teams]; exact teamsAccessed_refl _, s.report_grids i,
    (s.report_keeps i).2.2, fun _ => by rw [State.report_cores]; exact id⟩

theorem State.errorState_accessed (c : CtxId) : r.Accessed (s.errorState c) := by
  refine h.trans ⟨⟨s.g.imprecise, s.errorState_g c⟩, by rw [State.errorState_teams]; exact teamsAccessed_refl _,
    s.errorState_grids c, s.errorState_retiring c, fun _ => by rw [State.errorState_cores]; exact id⟩

theorem State.failStore_accessed (code : IncCode) (o : Origin) (va : Word) (pa : Nat) : r.Accessed (s.failStore code o va pa) := by
  unfold State.failStore
  refine State.Accessed.modTeam ?_ fun _ => rfl
  refine (errorState_accessed (report_accessed h _) o.ctx).trans ⟨?_, teamsAccessed_refl _, rfl, fun _ => rfl, fun _ => id⟩
  unfold State.modGroups
  dsimp only
  split
  · exact ⟨_, rfl⟩
  · exact ⟨_, rfl⟩

/-! ### Stores at their homes -/

theorem State.noteRelease_accessed (p : Option Party) (loc len : Nat) : r.Accessed (s.noteRelease p loc len) := by
  cases p
  · exact h
  · exact h.same rfl rfl rfl rfl rfl

theorem State.storeHome_accessed (col : ColId) (w : Writer) (loc : Nat) (bs : List Byte) : r.Accessed (s.storeHome col w loc bs) :=
  .ite (h.memOf (s.storeLine_memOf ..)) (h.memOf (s.storeRunBy_memOf ..))

theorem State.performAt_accessed (col : ColId) (w : Writer) (p : Option Party) (loc : Nat) (bs : List Byte) :
    r.Accessed (s.performAt col w p loc bs) :=
  .foldl (noteRelease_accessed (storeHome_accessed h ..) ..) fun _ _ ht => failStore_accessed ht ..

theorem State.hold_accessed (x : HeldWrite) : r.Accessed (s.hold x) := h.same rfl rfl rfl rfl rfl

theorem State.writeHomeAs_accessed (w : Writer) (a : HeldAs) (loc : Nat) (bs : List Byte) :
    r.Accessed (s.writeHomeAs w a loc bs) := by
  unfold State.writeHomeAs
  split
  · exact performAt_accessed h ..
  · exact hold_accessed h _

/-! ### The L1 -/

theorem State.cleanLine_accessed (l : L1Line) : r.Accessed (s.cleanLine l) := .foldl h fun _ _ ht => writeHomeAs_accessed ht ..

theorem State.cleanWhere_accessed (c : CoreId) (p : L1Line → Bool) : r.Accessed (s.cleanWhere c p) := by
  unfold State.cleanWhere
  refine State.Accessed.modCore (.foldl h fun _ _ ht => cleanLine_accessed ht _) ?_
  exact fun _ hx => hx

theorem State.cleanDrop_accessed (c : CoreId) (line : Nat) : r.Accessed (s.cleanDrop c line) :=
  .ite (.modCore (.foldl h fun _ _ ht => cleanLine_accessed ht _) fun _ => id) h

theorem State.l1Keep_accessed (c : CoreId) (l : L1Line) : r.Accessed (s.l1Keep c l) := by
  have kept := h.modCore (c := c) (f := fun x => { x with l1 := l :: x.l1.filter fun y => y.line != l.line }) fun _ => id
  unfold State.l1Keep
  dsimp only
  split
  · exact kept
  · split
    · exact cleanDrop_accessed kept ..
    · exact kept

theorem State.l1Rekey_accessed (c : CoreId) (line key : Nat) : r.Accessed (s.l1Rekey c line key) :=
  .ite (cleanDrop_accessed h ..) h

theorem State.l1Write_accessed (w : Writer) (p : Option Party) (loc : Nat) (bs : List Byte) : r.Accessed (s.l1Write w p loc bs) :=
  l1Keep_accessed (l1Rekey_accessed h ..) ..

/-! ### Reductions on their way to memory -/

theorem State.reduceNow_accessed (e : CombEntry) : r.Accessed (s.reduceNow e) := by
  unfold State.reduceNow
  dsimp only
  split
  · exact .foldl (performAt_accessed h ..) fun _ _ ht => failStore_accessed ht ..
  · exact performAt_accessed h ..

theorem State.reduceMem_accessed (e : CombEntry) : r.Accessed (s.reduceMem e) := by
  unfold State.reduceMem
  split
  · exact reduceNow_accessed h e
  · exact hold_accessed h _

theorem State.mergeCopies_accessed (line : Nat) : r.Accessed (s.mergeCopies line) := by
  unfold State.mergeCopies
  refine .ite (.foldl ?_ fun _ _ ht => reduceMem_accessed ht _) h
  exact h.same rfl rfl rfl rfl rfl

theorem State.makeRoom_accessed (col : ColId) (line : Nat) : r.Accessed (s.makeRoom col line) := by
  unfold State.makeRoom
  dsimp only
  split
  · exact h
  · split
    · exact h.same rfl rfl rfl rfl rfl
    · exact mergeCopies_accessed h _
    · exact h

theorem State.reduceSlice_accessed (e : CombEntry) : r.Accessed (s.reduceSlice e) := by
  have clean := cleanDrop_accessed h e.who.core (e.loc / 128)
  have merged := mergeCopies_accessed clean (e.loc / 128)
  -- A state in which an update-only copy of the line has been put into the slice.
  have copied {t : State} (ht : r.Accessed t) (ws : List CombEntry) : r.Accessed
      (({ t with mem := { t.mem with copies := ⟨coreCol e.who.core, e.loc / 128, ws⟩ :: t.mem.copies.filter fun c =>
        !(c.col == coreCol e.who.core && c.line == e.loc / 128) } } : State).trimSlice (coreCol e.who.core) false (e.loc / 128)) := by
    refine State.Accessed.memOf ?_ (State.trimSlice_memOf ..)
    exact ht.same rfl rfl rfl rfl rfl
  unfold State.reduceSlice
  dsimp only
  refine .ite (.ite ?joined (.ite ?other ?new)) (reduceMem_accessed merged e)
  case joined => exact copied (.ite clean (makeRoom_accessed clean ..)) _
  case other => exact copied (.ite merged (makeRoom_accessed merged ..)) _
  case new => exact copied (.ite clean (makeRoom_accessed clean ..)) _

theorem State.drainComb_accessed (c : CoreId) (p : CombEntry → Bool) : r.Accessed (s.drainComb c p) := by
  have taken := h.modCore (c := c) (f := fun x => { x with comb := x.comb.filter fun e => !p e }) fun x hx => by simp [hx]
  exact .ite h (.foldl taken fun _ _ ht => reduceSlice_accessed ht _)

theorem State.activate_accessed (parts : List Part) : r.Accessed (s.activate parts) := by
  refine .foldl h fun t p ht => ?_
  split
  · exact .ite (ht.modCol fun _ => rfl) ht
  · exact ht

theorem State.settle_accessed (c : CoreId) (parts : List Part) : r.Accessed (s.settle c parts) := by
  refine .foldl h fun t p ht => ?_
  split
  · exact .foldl (drainComb_accessed ht ..) fun _ _ ht => mergeCopies_accessed ht _
  · exact ht

/-! ### Reading -/

theorem State.dropReplicas_accessed (ctx : CtxId) (c : CoreId) (parts : List Part) : r.Accessed (s.dropReplicas ctx c parts) :=
  .ite (h.modCol fun _ => rfl) h

theorem State.l1Fetch_accessed (w : Writer) (replica : Option Nat) (loc len : Nat) : r.Accessed (s.l1Fetch w replica loc len) := by
  have rekeyed := l1Rekey_accessed h w.who.core (loc / 128) w.key
  have held := State.Accessed.ite (c := (replica.isNone && s.dev.isHbm loc) = true)
    (rekeyed.memOf (State.readLine_memOf _ (coreCol w.who.core) false (loc / 128))) rekeyed
  exact .ite h (.ite (.ite (held.modCore fun _ => id) (l1Keep_accessed held ..)) (l1Keep_accessed rekeyed ..))

theorem State.noteReads_accessed (w : Writer) (p : Part) (replica : Option Nat) (loc len : Nat) :
    r.Accessed (s.noteReads w p replica loc len) :=
  .ite (h.modCol fun _ => rfl) (.ite h (.ite (.foldl h fun _ _ ht => ht.modCol fun _ => rfl) h))

theorem State.l1Reads_accessed (o : Origin) (p : Part) : r.Accessed (s.l1Reads o p) := .foldl h fun _ _ ht => noteReads_accessed ht ..

theorem State.l1Load_accessed (o : Origin) (p : Part) : r.Accessed (s.l1Load o p) := .foldl h fun _ _ ht => l1Fetch_accessed ht ..

theorem State.seen_accessed : r.Accessed s.seen := .ite (h.same rfl rfl rfl rfl rfl) h

/-! ### Writing -/

theorem State.storeSpan_accessed (w : Writer) (loc : Nat) (bs : List Byte) : r.Accessed (s.storeSpan w loc bs) :=
  .ite (l1Write_accessed h ..) (writeHomeAs_accessed h ..)

theorem State.storeRunAt_accessed (p : Part) (loc : Nat) (bs : List Byte) : r.Accessed (s.storeRunAt p loc bs) :=
  .ite (storeSpan_accessed h ..) (storeSpan_accessed (storeSpan_accessed h ..) ..)

theorem State.putVersion_accessed (o : Origin) (va key loc : Nat) (bs : List Byte) : r.Accessed (s.putVersion o va key loc bs) := by
  unfold State.putVersion
  refine .foldl (.ite ?_ (.withMem ?_ _)) fun _ _ ht => ht.memOf (State.trimSlice_memOf ..)
  all_goals
    refine h.modTeam fun _ => ?_
    rfl

theorem State.sendPeer_accessed (w : PeerWrite) : r.Accessed (s.sendPeer w) := h.same rfl rfl rfl rfl rfl

theorem State.notePeer_accessed (p : Option Party) (pa len : Nat) : r.Accessed (s.notePeer p pa len) := by
  unfold State.notePeer
  refine .ite h (noteRelease_accessed ?_ ..)
  exact h.same rfl rfl rfl rfl rfl

theorem State.modLine_accessed (c : ColId) (l : LineId) (f : LaunchLine → LaunchLine) : r.Accessed (s.modLine c l f) :=
  h.modCol fun _ => rfl

theorem State.signalStore_accessed (ctx : CtxId) (c : ColId) (off size : Nat) (value : Word) (corr : Word32) :
    r.Accessed (s.signalStore ctx c off size value corr) := by
  unfold State.signalStore
  split
  · refine .ite h (.ite (report_accessed (modLine_accessed h ..) _) (modLine_accessed ?_ ..))
    exact h.same rfl rfl rfl rfl rfl
  · exact h

theorem State.storePart_accessed (p : Part) (bs : List Byte) : r.Accessed (s.storePart p bs) := by
  unfold State.storePart
  split
  · exact .ite (putVersion_accessed h ..) (storeRunAt_accessed h ..)
  · exact .ite (failStore_accessed h ..) (.ite (putVersion_accessed h ..) (notePeer_accessed (sendPeer_accessed h _) ..))
  · exact signalStore_accessed h ..
  · exact failStore_accessed h ..

theorem State.storeParts_accessed (parts : List Part) (size : Nat) (value : Nat → Nat) :
    r.Accessed (s.storeParts parts size value) :=
  .foldl (activate_accessed (settle_accessed h ..) _) fun _ _ ht => storePart_accessed ht ..

/-! ### Scopes -/

theorem State.sendOn_accessed (c : CoreId) (sc : Scope) : r.Accessed (s.sendOn c sc) :=
  have drained := State.Accessed.ite (drainComb_accessed h c fun _ => true) h
  .ite (cleanWhere_accessed drained ..) drained

theorem State.acquireBy_accessed (c : CoreId) (sc : Scope) : r.Accessed (s.acquireBy c sc) := by
  have drained := State.Accessed.ite (c := 2 ≤ sc.code) (drainComb_accessed h c fun _ => true) h
  have dropped := State.Accessed.ite (c := 3 ≤ sc.code) (t := State.dropClean _ c) (drained.modCore fun _ => id) drained
  exact .ite (dropped.same rfl rfl rfl rfl rfl) dropped

end

/-- A load is an access. -/
theorem State.loadParts_accessed {s t : State} {scalar : Bool} {parts : List Part} {vals : List (Nat × Nat)}
    (h : s.loadParts scalar parts = .ok (vals, t)) : s.Accessed t := by
  unfold State.loadParts State.loadAfter at h
  simp only [bind, Except.bind] at h
  split at h
  · cases h
  · split at h
    · cases h
    · split at h
      · cases h
      · split at h
        · cases h
        · split at h
          · cases h
          · cases h
            refine seen_accessed (.foldl (.foldl ?_ fun _ _ ht => l1Reads_accessed ht ..) fun _ _ ht => l1Load_accessed ht ..)
            exact activate_accessed (settle_accessed (dropReplicas_accessed (.refl s) ..) ..) _

end Sys2Proof.Machine
end

section
/-! Transfers of control: branches, calls, returns and jumps, with the return stack and its spills (R28 to R30, R91 to R95). -/
namespace Sys2Proof.Machine
open Sys2Proof.Safety
-- One proof at a time: proofs elaborated side by side each take a thread and its stack.
set_option Elab.async false

/-! ### Masks and the lowest lane -/

theorem maskOf_eq {f : Nat → Bool} {m : Word} (h : ∀ L < 64, m.getLsbD L = f L) : maskOf f = m :=
  BitVec.eq_of_getLsbD_eq fun L hL => by rw [getLsbD_maskOf f hL, h L hL]

theorem exists_lowest {m : Word} (h : m ≠ 0) : ∃ L < 64, m.getLsbD L = true ∧ ∀ k < L, m.getLsbD k = false := by
  have some : ctzOf m < 64 := by
    refine Nat.lt_of_le_of_ne (ctzOf_le m) fun all => h (BitVec.eq_of_getLsbD_eq fun L hL => ?_)
    rw [getLsbD_of_lt_ctzOf m (by omega)]
    simp
  exact ⟨ctzOf m, some, getLsbD_ctzOf m some, fun k hk => getLsbD_of_lt_ctzOf m hk⟩

/-- The first lane is the lowest of LIVE (R27). -/
theorem Group.firstLane_eq {g : Group} {L : Nat} (hL : L < 64) (set : g.live.getLsbD L = true)
    (low : ∀ k < L, g.live.getLsbD k = false) : g.firstLane = L := by
  have found : (List.range 64).find? (fun i => bit g.live i) = some L := by
    rw [List.find?_range_eq_some]
    exact ⟨set, List.mem_range.2 hL, fun k hk => by simp [bit, low k hk]⟩
  rw [Group.firstLane, lanesOf, tabList_eq_map, List.map_id, ← List.range_eq_range', List.headD_eq_head?_getD, List.head?_filter, found]
  rfl

/-! ### Direct branches -/

theorem targetOk_near {t : Word} (h : t.toNat < 2 ^ 55) : targetOk t = .ok () := by rw [targetOk, decide_eq_true h]; rfl

theorem targetOk_far {t : Word} (h : 2 ^ 55 ≤ t.toNat) : targetOk t = .error (trap .accessFault t 0) := by
  rw [targetOk, decide_eq_false (Nat.not_lt.2 h)]; rfl

/-- What a conditional branch does (R91): it goes to its target where its condition holds, and past itself where it does not. -/
theorem branchIf_goes {s : State} {ss : List SReg} {ps : List PReg} (h : s.sound [] ss ps = .ok ()) (off : BitVec 18) {taken : Bool}
    {c : Prop} (hc : taken = true ↔ c) :
    (c → (target s.g.pc off).toNat < 2 ^ 55 → branchIf s ss ps off taken = .next (s.jump (target s.g.pc off))) ∧
      (c → 2 ^ 55 ≤ (target s.g.pc off).toNat →
        branchIf s ss ps off taken = .next (s.takeTrap ⟨.accessFault, target s.g.pc off, 0, [], none⟩)) ∧
      (¬c → branchIf s ss ps off taken = .next s.retire) := by
  refine ⟨fun go near => ?_, fun go far => ?_, fun stay => ?_⟩
  · simp only [branchIf, h, ok_bind, if_pos (hc.2 go), targetOk_near near]; rfl
  · simp only [branchIf, h, ok_bind, if_pos (hc.2 go), targetOk_far far]; rfl
  · simp only [branchIf, h, ok_bind, if_neg (mt hc.1 stay)]; rfl

/-! ### The return stack -/

section
variable {s : State} {e : Stop}

theorem State.push_room (h : s.g.rs.length < 16) (a : Word) :
    s.push a = .ok { s with g := { s.g with rs := s.g.rs ++ [a] } } := by
  simp only [State.push, if_neg (Nat.not_le.2 h), ok_bind]

theorem State.push_spill (h : 16 ≤ s.g.rs.length) {u : State} (hu : s.spill = .ok u) (a : Word) :
    s.push a = .ok { u with g := { u.g with rs := u.g.rs ++ [a] } } := by
  simp only [State.push, if_pos h, hu, ok_bind]

theorem State.push_fails (h : 16 ≤ s.g.rs.length) (he : s.spill = .error e) (a : Word) : s.push a = .error e := by
  simp only [State.push, if_pos h, he, error_bind]

theorem State.spill_nowhere (h : s.g.spillBase = 0) : s.spill = .error (trap .stackSpill 0 0) := by
  simp only [State.spill, h, ne_eq, not_true_eq_false, decide_false, need_false, error_bind]

/-- A spill that cannot translate its block stops as the call reports it (R29). -/
theorem State.spill_fails (h : s.g.spillBase ≠ 0) (he : s.xlatParts .write true (spillCuts s.g.spillBase.toNat) = .error e) :
    s.spill = .error (asCause .stackSpill e) := by
  simp only [State.spill, ne_eq, h, not_false_eq_true, decide_true, need_true, ok_bind, he, Except.mapError, error_bind]

theorem State.refill_fails (he : s.xlatParts .read true (spillCuts (s.g.spillBase - 64).toNat) = .error e) :
    s.refill = .error (asCause .stackFill e) := by
  simp only [State.refill, he, Except.mapError, error_bind]

/-- A spill moves SPILLBASE up by a block, counts it, and takes the eight oldest entries off the stack (R29). -/
theorem State.spill_stack {u : State} (h : s.spill = .ok u) :
    u.g.spillBase = s.g.spillBase + 64 ∧ u.g.spilled = s.g.spilled + 1 ∧ u.g.rs = s.g.rs.drop 8 := by
  unfold State.spill at h
  simp only [bind, Except.bind] at h
  split at h
  · cases h
  · split at h
    · cases h
    · split at h
      · cases h
      · split at h
        · cases h
        · cases h
          rename_i ps _ _ _ _ _ _ _
          obtain ⟨x, hx⟩ := (State.storeParts_accessed (.refl s) ps 8 fun i => (s.g.rs.getD i 0).toNat).group
          refine ⟨?_, ?_, ?_⟩
          · simp only [hx]
          · simp only [hx]
          · simp only [hx]

/-- A refill moves SPILLBASE down by a block and counts it (R30). -/
theorem State.refill_stack {u : State} (h : s.refill = .ok u) :
    u.g.spillBase = s.g.spillBase - 64 ∧ u.g.spilled = s.g.spilled - 1 := by
  unfold State.refill at h
  simp only [bind, Except.bind] at h
  split at h
  · cases h
  · rename_i ps _
    cases hl : s.loadParts true ps with
    | error e => rw [hl] at h; cases h
    | ok x =>
      rw [hl] at h
      cases h
      obtain ⟨vals, t⟩ := x
      obtain ⟨y, hy⟩ := (State.loadParts_accessed hl).group
      refine ⟨rfl, ?_⟩
      simp only [hy]

/-- A return takes the youngest entry of a stack that holds one (R93). -/
theorem exec_ret_youngest {r : List Word} {t : Word} (h : s.g.rs = r ++ [t]) :
    exec .ret s = .next (({ s with g := { s.g with rs := r } } : State).jump t) := by
  have holds : s.g.rs.isEmpty = false := by simp [h]
  have pops : s.g.rs.dropLast = r := by rw [h, List.dropLast_concat]
  have youngest : s.g.rs.getLastD 0 = t := by rw [h, List.getLastD_concat]
  simp only [exec, execRet, holds, Bool.false_eq_true, if_false, ok_bind, pops, youngest, finish_ok]

theorem exec_ret_empty (h : s.g.rs = []) (none : s.g.spilled = 0) :
    exec .ret s = .next (s.takeTrap ⟨.returnStackEmpty, 0, 0, [], .none⟩) := by
  simp only [exec, execRet, h, List.isEmpty_nil, if_true, if_pos none, error_bind]; rfl

/-- A return from an empty stack takes the youngest entry of the block that it refills (R30). -/
theorem exec_ret_refill (h : s.g.rs = []) (spilled : s.g.spilled ≠ 0) {u : State} (hu : s.refill = .ok u) {r : List Word} {t : Word}
    (hr : u.g.rs = r ++ [t]) : exec .ret s = .next (({ u with g := { u.g with rs := r } } : State).jump t) := by
  have pops : u.g.rs.dropLast = r := by rw [hr, List.dropLast_concat]
  have youngest : u.g.rs.getLastD 0 = t := by rw [hr, List.getLastD_concat]
  simp only [exec, execRet, h, List.isEmpty_nil, if_true, if_neg spilled, hu, ok_bind, pops, youngest, finish_ok]

theorem exec_ret_stops (h : s.g.rs = []) (spilled : s.g.spilled ≠ 0) (he : s.refill = .error e) :
    exec .ret s = finish s (.error e) := by
  simp only [exec, execRet, h, List.isEmpty_nil, if_true, if_neg spilled, he, error_bind]

end

/-! ### Calls -/

section
variable {s u : State} {e : Stop} {far : BitVec 24} {a : SReg}

theorem exec_call_far (h : 2 ^ 55 ≤ (target s.g.pc far).toNat) :
    exec (.call far) s = .next (s.takeTrap ⟨.accessFault, target s.g.pc far, 0, [], none⟩) := by
  simp only [exec, execCall, targetOk_far h, error_bind]; rfl

theorem exec_call_pushes (h : (target s.g.pc far).toNat < 2 ^ 55) (hp : s.push (s.g.pc + 4) = .ok u) :
    exec (.call far) s = .next (u.jump (target s.g.pc far)) := by
  simp only [exec, execCall, targetOk_near h, hp, ok_bind, finish_ok]

theorem exec_call_stops (h : (target s.g.pc far).toNat < 2 ^ 55) (he : s.push (s.g.pc + 4) = .error e) :
    exec (.call far) s = finish s (.error e) := by
  simp only [exec, execCall, targetOk_near h, he, ok_bind, error_bind]

theorem exec_calls_pushes (hs : s.sound [] [a] [] = .ok ()) (hi : s.indirect (s.g.sReg a) = .ok ()) (hp : s.push (s.g.pc + 4) = .ok u) :
    exec (.calls a) s = .next (u.jump (s.g.sReg a)) := by
  simp only [exec, execCalls, hs, hi, hp, ok_bind, finish_ok]

theorem exec_calls_stops (hs : s.sound [] [a] [] = .ok ()) (hi : s.indirect (s.g.sReg a) = .ok ())
    (he : s.push (s.g.pc + 4) = .error e) : exec (.calls a) s = finish s (.error e) := by
  simp only [exec, execCalls, hs, hi, he, ok_bind, error_bind]

theorem exec_jmps_goes (hs : s.sound [] [a] [] = .ok ()) (hi : s.indirect (s.g.sReg a) = .ok ()) :
    exec (.jmps a) s = .next (s.jump (s.g.sReg a)) := by
  simp only [exec, execJmps, hs, hi, ok_bind, finish_ok]

/-- A target that the checks of R93 refuse traps a jump and a call alike, before the stack is touched. -/
theorem exec_indirect_traps (hs : s.sound [] [a] [] = .ok ()) {x : Trap} (hi : s.indirect (s.g.sReg a) = .error (.trap x)) :
    exec (.jmps a) s = .next (s.takeTrap x) ∧ exec (.calls a) s = .next (s.takeTrap x) := by
  constructor
  · simp only [exec, execJmps, hs, hi, ok_bind, error_bind, finish_trap]
  · simp only [exec, execCalls, hs, hi, ok_bind, error_bind, finish_trap]

end

/-! ### The checks of an indirect target -/

section
variable {s : State} {t : Word}

theorem State.indirect_misaligned (h : t.toNat % 4 ≠ 0) : s.indirect t = .error (.trap ⟨.misaligned, t, 0, [], none⟩) := by
  rw [State.indirect, beq_eq_false_iff_ne.2 h]; rfl

theorem State.indirect_far (h4 : t.toNat % 4 = 0) (far : 2 ^ 55 ≤ t.toNat) :
    s.indirect t = .error (.trap ⟨.accessFault, t, 0, [], none⟩) := by
  rw [State.indirect, beq_iff_eq.2 h4, decide_eq_false (Nat.not_lt.2 far)]; rfl

/-- A target that passes the first checks and translates for execution is left to the landing check (R93). -/
theorem State.indirect_eq_landing (h4 : t.toNat % 4 = 0) (near : t.toNat < 2 ^ 55) (hx : s.execXlat t = .ok ()) :
    s.indirect t = s.landing t := by
  rw [State.indirect, beq_iff_eq.2 h4, decide_eq_true near, hx]; rfl

theorem State.landing_off (h : s.grid.launch.flags.getLsbD 5 = false) : s.landing t = .ok () := by
  rw [State.landing, Launch.landing, h]; rfl

/-- Under LANDING the word at the target decides (R95). -/
theorem State.landing_on (h : s.grid.launch.flags.getLsbD 5 = true) {bs : List Byte}
    (hb : s.fetchBytes (if s.g.peerFor == s.landAsk t then s.g.peerData else none) t.toNat = .ok bs) :
    s.landing t = need (leNat bs == landWord) (trap .landingPoint t 0) := by
  rw [State.landing, Launch.landing, h, if_pos rfl, hb]

end

/-! ### JMPV -/

section
variable {s : State} {v : VReg} {t : Word} (ready : OperandsReady s [vSpan v 2 true s.g.live] [vSpan v 2 true s.g.live] anyType [] [])
include ready

/-- Where the lanes of LIVE hold one target, JMPV is left to the checks of an indirect target (R94). -/
theorem exec_jmpv_agree (live : s.g.live ≠ 0) (h : ∀ L < 64, s.g.live.getLsbD L = true → s.g.lane64 v.toNat L = t) :
    exec (.jmpv v) s = finish s (do s.indirect t; .ok (s.jump t)) := by
  obtain ⟨low, hlow, set, below⟩ := exists_lowest live
  have first : s.g.lane64 v.toNat s.g.firstLane = t := by rw [Group.firstLane_eq hlow set below]; exact h low hlow set
  have differs : (maskOf fun L => bit s.g.live L && s.g.lane64 v.toNat L != t) = 0 := maskOf_eq fun L hL => by
    cases hb : s.g.live.getLsbD L with
    | false => simp [bit, hb]
    | true => simp [bit, hb, h L hL hb]
  simp only [exec, execJmpv, operands_ok ready, ok_bind, first, differs, beq_self_eq_true, need_true]

/-- Where a lane of LIVE holds another target than the lowest, JMPV traps with the lanes that do (R94). -/
theorem exec_jmpv_differ {low : Nat} (hlow : low < 64) (set : s.g.live.getLsbD low = true)
    (below : ∀ k < low, s.g.live.getLsbD k = false) (ht : t = s.g.lane64 v.toNat low) {other : Word}
    (ho : ∀ L < 64, other.getLsbD L = (s.g.live.getLsbD L && s.g.lane64 v.toNat L != t)) (some : other ≠ 0) :
    exec (.jmpv v) s = .next (s.takeTrap ⟨.vectorTargetDivergent, t, other, [], none⟩) := by
  have first : s.g.lane64 v.toNat s.g.firstLane = t := by rw [Group.firstLane_eq hlow set below, ht]
  have differs : (maskOf fun L => bit s.g.live L && s.g.lane64 v.toNat L != t) = other := maskOf_eq ho
  simp only [exec, execJmpv, operands_ok ready, ok_bind, first, differs, beq_eq_false_iff_ne.2 some, need_false, error_bind]; rfl

end

/-! ### The obligation -/

/-- B goes to its target, or traps (R91). -/
theorem exec_branch_goes (s : State) (far : BitVec 24) :
    ((target s.g.pc far).toNat < 2 ^ 55 → exec (.branch far) s = .next (s.jump (target s.g.pc far))) ∧
      (2 ^ 55 ≤ (target s.g.pc far).toNat →
        exec (.branch far) s = .next (s.takeTrap ⟨.accessFault, target s.g.pc far, 0, [], none⟩)) := by
  constructor
  · intro near; simp only [exec, execBranch, targetOk_near near, ok_bind, finish_ok]
  · intro far; simp only [exec, execBranch, targetOk_far far, error_bind]; rfl

/-- Settles O12: a transfer checks its target, then moves the stack, then goes. -/
theorem controlTransfers : Obligations.ControlTransfers := by
  unfold Obligations.ControlTransfers
  refine ⟨fun s off far r p => ?_, fun s far a v t => ?_, fun s far a x acc pages => ?_, fun s a t h4 near hx => ?_⟩
  · obtain ⟨goes, traps⟩ := exec_branch_goes s far
    exact ⟨goes, traps, fun hs => ⟨branchIf_goes hs off beq_iff_eq, branchIf_goes hs off bne_iff_ne⟩,
      fun hs => ⟨branchIf_goes hs off bne_iff_ne, branchIf_goes hs off beq_iff_eq, branchIf_goes hs off beq_iff_eq⟩⟩
  · refine ⟨rfl, exec_call_far, fun room near => exec_call_pushes near (State.push_room room _), fun full near => ⟨fun h0 => ?_, fun u hu => ?_⟩,
      fun hs ht => ?_, fun r hr => exec_ret_youngest hr, exec_ret_empty, fun empty spilled u r hu hr => ?_, fun ready live => ⟨fun agree => ?_,
        fun low hlow set below ht other ho some => exec_jmpv_differ ready hlow set below ht ho some⟩⟩
    · rw [exec_call_stops near (State.push_fails full (State.spill_nowhere h0) _)]; rfl
    · obtain ⟨base, count, rs⟩ := State.spill_stack hu
      exact ⟨base, count, rs, exec_call_pushes near (State.push_spill full hu _)⟩
    · subst ht
      refine ⟨exec_jmps_goes hs, fun hi room => exec_calls_pushes hs hi (State.push_room room _), fun hi full => ⟨fun h0 => ?_, fun u hu => ?_⟩,
        fun odd => exec_indirect_traps hs (State.indirect_misaligned odd), fun h4 far => exec_indirect_traps hs (State.indirect_far h4 far)⟩
      · rw [exec_calls_stops hs hi (State.push_fails full (State.spill_nowhere h0) _)]; rfl
      · exact exec_calls_pushes hs hi (State.push_spill full hu _)
    · obtain ⟨base, count⟩ := State.refill_stack hu
      exact ⟨base, count, exec_ret_refill empty spilled hu hr⟩
    · rw [exec_jmpv_agree ready live agree]
      refine ⟨fun hi => ?_, fun odd => ?_, fun h4 far => ?_, fun x hi => ?_⟩
      · rw [hi]; rfl
      · rw [State.indirect_misaligned odd]; rfl
      · rw [State.indirect_far h4 far]; rfl
      · rw [hi]; rfl
  · refine ⟨fun full based near => ?_, fun full based hs hi he => ?_, fun empty spilled => ?_⟩
    · have stops := fun {e : Stop} (he : s.xlatParts .write true (spillCuts s.g.spillBase.toNat) = .error e) =>
        exec_call_stops near (State.push_fails full (State.spill_fails based he) _)
      exact ⟨fun he => by rw [stops he]; rfl, fun he => by rw [stops he]; rfl⟩
    · rw [exec_calls_stops hs hi (State.push_fails full (State.spill_fails based he) _)]; rfl
    · exact ⟨fun he => by rw [exec_ret_stops empty spilled (State.refill_fails he)]; rfl,
        fun he => by rw [exec_ret_stops empty spilled (State.refill_fails he)]; rfl⟩
  · rw [State.indirect_eq_landing h4 near hx]
    refine ⟨State.landing_off, fun on bs hb => ?_⟩
    rw [State.landing_on on hb]
    refine ⟨fun land => by rw [land]; rfl, fun other => ?_⟩
    have refused : need (leNat bs == landWord) (trap .landingPoint t 0) = .error (.trap ⟨.landingPoint, t, 0, [], none⟩) := by
      rw [beq_eq_false_iff_ne.2 (show leNat bs ≠ landWord from other)]; rfl
    refine ⟨refused, fun hs ht => exec_indirect_traps hs ?_⟩
    rw [ht, State.indirect_eq_landing h4 near hx, State.landing_on on hb, refused]

end Sys2Proof.Machine
end

section
/-! The life of a group: NOP, LAND, POLL, YIELD, HALT and END, and what the last END of a team frees (R95 to R100, R229). -/
namespace Sys2Proof.Machine
open Sys2Proof.Safety
-- One proof at a time: proofs elaborated side by side each take a thread and its stack.
set_option Elab.async false

/-! ### HALT -/

/-- A halt of a group whose team has no uncommitted version stops the group, its context in the error state, with one record (R97). -/
theorem State.halt_stops {s : State} (unversioned : s.team.version = none) {i : Incident} (sev : i.sev = 3) :
    (s.halt i).g = { s.g with status := .halted, glyph := none } ∧
      (s.ctx.phase ≠ .free → ((s.halt i).ctxs.get s.ctxId).error = true) ∧ (s.halt i).log.count = s.log.count + 1 := by
  have apart : s.mergesNow (i.ofCtx s.ctxId) = false := by
    show ((decide (i.sev < 2) && _) && _) = false
    rw [sev]; rfl
  have halts : s.halt i = ((({ (s.report (i.ofCtx s.ctxId)).errorState s.ctxId with g := { s.g with status := .halted, glyph := none } } :
      State).modTeam s.team.id fun t => { t with haltSeen := true }).modGrid s.team.grid fun x => { x with haltSeen := true }) := by
    simp [State.halt, unversioned]
  rw [halts]
  refine ⟨rfl, fun live => ?_, ?_⟩
  · refine State.errorState_error _ ?_
    rw [(State.report_keeps s _).1]
    exact live
  · exact (State.errorState_count ..).trans (State.report_counts apart).count

/-! ### END -/

section
variable {s : State}

theorem State.asyncOf_iff (g : Group) :
    s.asyncOf g = true ↔ g.mmas ≠ [] ∨ ∃ o ∈ s.ops, o.core = g.core ∧ o.slot = g.slot ∧ o.team = g.team := by
  simp [State.asyncOf, List.any_eq_true, and_assoc]

theorem State.teamDone_iff (team : Nat) :
    s.teamDone team = true ↔ ∀ g ∈ s.groups, g.team = team → g.status = .ended ∨ g.status = .halted := by
  simp only [State.teamDone, List.all_eq_true, Bool.or_eq_true, bne_iff_ne, beq_iff_eq, or_assoc, ne_eq, imp_iff_not_or]

theorem State.saveEnds_other {c : CtxId} (h : (s.ctxs.get c).phase ≠ .saving) : s.saveEnds c = s := by
  simp [State.saveEnds, h]

end

/-! ### What the last END frees -/

section
variable {s : State} {team : Nat} {t : Team}

theorem State.drainComb_all_comb (s : State) (c : CoreId) : ((s.drainComb c fun _ => true).cores.get c).comb = [] := by
  unfold State.drainComb
  dsimp only
  split
  · next none => simpa using none
  · have taken : ((s.modCore c fun x => { x with comb := x.comb.filter fun _ => !true }).cores.get c).comb = [] := by
      rw [State.modCore_get, if_pos rfl]; simp
    exact (State.Accessed.foldl (.refl _) fun _ _ h => State.reduceSlice_accessed h _).comb c taken

/-- What is sent on at device scope leaves nothing in the combining buffer (R155). -/
theorem State.sendOn_dev_comb (s : State) (c : CoreId) : ((s.sendOn c .dev).cores.get c).comb = [] :=
  (State.cleanWhere_accessed (.refl _) c _).comb c (s.drainComb_all_comb c)

theorem State.dropGroups_groups (s : State) (team : Nat) : ∀ g ∈ (s.dropGroups team).groups, g.team ≠ team := by
  intro g hg
  obtain ⟨listed, present⟩ := List.mem_filter.1 hg
  rcases List.mem_cons.1 listed with issuing | other
  · intro ht
    subst issuing
    simp only [State.dropGroups] at ht present
    split at ht
    · simp_all [Group.present]
    · simp_all
  · simpa using (List.mem_filter.1 other).2

section
variable (s : State) (c : CtxId) (core : CoreId)

theorem State.freeGlyphs_teams : (s.freeGlyphs c core).teams = s.teams := by unfold State.freeGlyphs; split <;> rfl

theorem State.freeGlyphs_groups : (s.freeGlyphs c core).groups = s.groups := by unfold State.freeGlyphs; split <;> rfl

theorem State.freeGlyphs_cols : (s.freeGlyphs c core).cols = s.cols := by unfold State.freeGlyphs; split <;> rfl

theorem State.freeGlyphs_comb : ((s.freeGlyphs c core).cores.get core).comb = (s.cores.get core).comb := by
  unfold State.freeGlyphs
  split
  · rfl
  · rw [State.modCore_get, if_pos rfl]

end

theorem State.modCol_retiring (s : State) (c : ColId) (team : Nat) :
    ((s.modCol c fun x => { x with retiring := x.retiring ++ [team] }).cols.get c).retiring = (s.cols.get c).retiring ++ [team] := by
  rw [State.modCol_get, if_pos rfl]

/-- The entry that a key finds is found as it is changed. -/
theorem find_updWhere {α : Type} {p : α → Bool} {f : α → α} (hf : ∀ x, p (f x) = p x) (l : List α) :
    (updWhere p f l).find? p = (l.find? p).map f := by
  induction l with
  | nil => rfl
  | cons a l ih =>
    rw [updWhere, List.find?_cons, List.find?_cons]
    cases ha : p a with
    | true => simp only [if_true, hf, ha, Option.map_some]
    | false => simp only [Bool.false_eq_true, if_false, ha, ih]

/-- A team without what it held of its core (R229). -/
def Team.released (x : Team) : Team := { x with place := .pendingRetire, points := [], macros := [], units := [] }

/-- The release of a team (R229): it stands as pending retirement without what it held of its core, its groups are gone, its core buffers no
reduction, and with children it takes a pending-retire record. -/
theorem State.releaseTeam_frees (ht : s.teamOf team = some t) :
    (∃ after, (s.releaseTeam team).teamOf team = some after ∧ after.place = .pendingRetire ∧ after.points = [] ∧ after.macros = [] ∧
      after.units = [] ∧ after.children = t.children) ∧
    (∀ g ∈ (s.releaseTeam team).groups, g.team ≠ team) ∧ ((s.releaseTeam team).cores.get t.core).comb = [] ∧
    ((s.releaseTeam team).cols.get t.col).retiring = (s.cols.get t.col).retiring ++ (if t.children = 0 then [] else [team]) := by
  have sent := State.sendOn_accessed (.refl s) t.core .dev
  obtain ⟨x, found, same⟩ := find_teamsAccessed sent.teams ht
  unfold State.releaseTeam
  rw [ht, Option.getD_some]
  dsimp only
  refine ⟨⟨x.released, ?_, rfl, rfl, rfl, rfl, ?_⟩, ?_, ?_, ?_⟩
  · rw [State.teamOf, State.freeGlyphs_teams]
    refine (find_updWhere (f := Team.released) (fun _ => rfl) _).trans ?_
    have kept : List.find? (fun u => u.id == team) (s.sendOn t.core .dev).teams = some x := found
    split
    · rw [kept]; rfl
    · rw [State.modCol_teams, kept]; rfl
  · exact (congrArg Team.children same).trans rfl
  · rw [State.freeGlyphs_groups]
    exact State.dropGroups_groups _ _
  · rw [State.freeGlyphs_comb]
    have empty := s.sendOn_dev_comb t.core
    split <;> exact empty
  · rw [State.freeGlyphs_cols]
    split
    · exact (sent.retiring t.col).trans (List.append_nil _).symm
    · exact (State.modCol_retiring (s.sendOn t.core .dev) t.col team).trans (by rw [sent.retiring])

end

/-- END, by what the group still has in flight and by what its team waits for (R100, R229). -/
theorem exec_endGroup_waits {s : State} (h : s.drainMmas.asyncOf s.drainMmas.g = true) :
    exec .endGroup s = .next s.drainMmas.stallHere := by
  simp only [exec, execEndGroup, h, if_true, finish_wait]

/-- Settles O13: the life of a group ends with a halt, or with END once nothing of it is in flight. -/
theorem groupLife : Obligations.GroupLife := by
  unfold Obligations.GroupLife
  refine ⟨fun s => ?_, fun s => ?_, fun s team t ht => State.releaseTeam_frees ht⟩
  · refine ⟨rfl, rfl, fun h => ?_, fun h => ?_, rfl, ⟨_, rfl, rfl, rfl, rfl, rfl, (by decide : (0 ||| 1) % 16 = 1), rfl, rfl, rfl, rfl, rfl, rfl, rfl⟩,
      fun unversioned => ⟨_, rfl, State.halt_stops unversioned rfl⟩⟩
    · simp only [exec, execPoll, beq_false_of_ne h, Bool.false_eq_true, if_false]; rfl
    · simp only [exec, execPoll, h, beq_self_eq_true, if_true]; rfl
  · refine ⟨State.drainMmas_of_nil, State.asyncOf_iff _, State.teamDone_iff _, exec_endGroup_waits, fun none going => ?_,
      fun none last room => ⟨?_, State.saveEnds_other⟩, fun none last children full => ?_⟩
    · simp only [exec, execEndGroup, none, going, Bool.false_eq_true, if_false, Bool.not_false, if_true, finish_ok]
    · simp only [exec, execEndGroup, none, last, Bool.false_eq_true, if_false, Bool.not_true]
      rw [if_neg (by simpa [imp_iff_not_or] using room), finish_ok]
    · simp only [exec, execEndGroup, none, last, Bool.false_eq_true, if_false, Bool.not_true]
      rw [if_pos (by simpa using ⟨children, full⟩), finish_wait]

end Sys2Proof.Machine
end

section
/-! The events at the ports, in placement and at issue complete (R99, R187, R219 to R223, R225 to R227). -/
namespace Sys2Proof.Machine
open Sys2Proof.Safety
-- One proof at a time: proofs elaborated side by side each take a thread and its stack.
set_option Elab.async false

/-! ### Entries that are changed -/

theorem State.gridOf_modGrid (s : State) (id : Nat) {f : Grid → Grid} (hf : ∀ x, (f x).id = x.id) :
    (s.modGrid id f).gridOf id = (s.gridOf id).map f :=
  find_updWhere (fun x => by rw [hf]) s.grids

theorem State.gridOf_id {s : State} {id : Nat} {x : Grid} (h : s.gridOf id = some x) : x.id = id := by
  simpa using List.find?_some h

theorem State.modLine_get (s : State) (c : ColId) (l : LineId) (f : LaunchLine → LaunchLine) :
    ((s.modLine c l f).cols.get c).lines.get l = f ((s.cols.get c).lines.get l) := by
  rw [State.modLine, State.modCol_get, if_pos rfl]
  exact (get_set_entry _ _ _ _).trans (if_pos rfl)

theorem State.modLine_fenced (s : State) (c : ColId) (l : LineId) (f : LaunchLine → LaunchLine) (k : ColId) :
    ((s.modLine c l f).cols.get k).fenced = (s.cols.get k).fenced := by
  rw [State.modLine, State.modCol_get]
  split
  · next eq => rw [← eq]
  · rfl

/-! ### Launch ports -/

/-- A good store to a launch-signal line queues the record of its address (R220). -/
theorem State.signalStore_queues {s : State} {c : ColId} {l : LineId} {value : Word} (near : value.toNat < 2 ^ 55)
    (aligned : value.toNat % 256 = 0) (room : ((s.cols.get c).lines.get l).queued < 64) (ctx : CtxId) :
    s.signalStore ctx c (128 * l.val + 0) 8 value = s.pushEntry c l value ctx 1 none none := by
  have frame : (128 * l.val + 0) / 128 = l.val := by omega
  have word0 : (128 * l.val + 0) % 128 = 0 := by omega
  have good : recordAddr value = true := by rw [recordAddr, decide_eq_true near, beq_iff_eq.2 aligned]; rfl
  unfold State.signalStore
  simp only [frame, word0, good, Nat.not_le.2 room, l.isLt]
  rfl

section
variable (s : State) (a : Agent) (va len : Nat)

/-- Rows are all that an agent's read changes (R358). -/
theorem State.agentRows_eq : RowsOnly s (s.agentRows a va len) ∧ s.agentRows a va len = { s with cols := (s.agentRows a va len).cols } := by
  unfold State.agentRows
  split
  · exact ⟨s.activate_rowsOnly _, s.activate_eq _⟩
  · exact ⟨rowsOnly_refl s, rfl⟩

theorem State.agentRows_g : (s.agentRows a va len).g = s.g := by rw [(s.agentRows_eq a va len).2]

theorem State.agentRows_mem : (s.agentRows a va len).mem = s.mem := by rw [(s.agentRows_eq a va len).2]

theorem State.agentRows_teams : (s.agentRows a va len).teams = s.teams := by rw [(s.agentRows_eq a va len).2]

theorem State.agentRows_grids : (s.agentRows a va len).grids = s.grids := by rw [(s.agentRows_eq a va len).2]

theorem State.agentRows_ctxs : (s.agentRows a va len).ctxs = s.ctxs := by rw [(s.agentRows_eq a va len).2]

theorem State.agentRows_cores : (s.agentRows a va len).cores = s.cores := by rw [(s.agentRows_eq a va len).2]

end

section
variable {s t : State} (ctxs : t.ctxs = s.ctxs) (fenced : ∀ k, (t.cols.get k).fenced = (s.cols.get k).fenced)
include ctxs fenced

theorem State.columnsOf_congr (c : CtxId) (l : Launch) : t.columnsOf c l = s.columnsOf c l := by
  simp only [State.columnsOf, ctxs, fenced]

/-- The field pass of a record looks at the columns of the context alone (R221). -/
theorem State.badField_congr (c : CtxId) (bs : List Byte) : t.badField c bs = s.badField c bs := by
  simp only [State.badField, State.columnsOf_congr ctxs fenced]

/-- The admission pass of a record looks at the columns of the context and at their cores (R221). -/
theorem State.badAdmission_congr (cores : t.cores = s.cores) (c : CtxId) (l : Launch) : t.badAdmission c l = s.badAdmission c l := by
  simp only [State.badAdmission, State.columnsOf_congr ctxs fenced, cores]

end

theorem State.gridTable_none (s : State) (a : Agent) {l : Launch} (h : l.glyphs = 0) : s.gridTable a l = .ok [] := by
  rw [State.gridTable, if_pos h]

theorem State.tableRows_none (s : State) (a : Agent) {l : Launch} (h : l.glyphs = 0) : s.tableRows a l = s := by
  simp [State.tableRows, h]

/-- A record without a glyph table that passes every check is accepted (R221). -/
theorem State.checkRecord_accepts {s : State} {col : ColId} {line : LineId} {e : QueueEntry}
    (fields : s.badField e.ctx e.bytes = none) (table : (parseLaunch e.bytes).glyphs = 0)
    (admission : s.badAdmission e.ctx (parseLaunch e.bytes) = none) :
    s.checkRecord col line e = s.acceptRecord col line e e.bytes := by
  simp only [State.checkRecord, fields, State.checkTable, s.gridTable_none _ table, s.tableRows_none _ table, admission]

/-- The grid of an accepted record (R221). -/
theorem State.acceptRecord_grid (s : State) (col : ColId) (line : LineId) (e : QueueEntry) (bs : List Byte) :
    ∃ x, (s.acceptRecord col line e bs).grids = s.grids ++ [x] ∧ x.ctx = e.ctx ∧ x.record = e.record ∧ x.launch = parseLaunch bs ∧
      x.depth = e.depth ∧ x.next = 0 ∧ (x.stage = .offered ↔ ∀ d ∈ (parseLaunch bs).deps, d.1 = 0) := by
  refine ⟨_, rfl, rfl, rfl, rfl, rfl, rfl, ?_⟩
  dsimp only
  split
  · next met => simpa using met
  · next unmet => simpa using unmet

theorem State.acceptRecord_keeps (s : State) (col : ColId) (line : LineId) (e : QueueEntry) (bs : List Byte) :
    (s.acceptRecord col line e bs).g = s.g ∧ (s.acceptRecord col line e bs).mem = s.mem ∧
      (s.acceptRecord col line e bs).teams = s.teams := ⟨rfl, rfl, rfl⟩

section
variable {s : State} {col : ColId} {line : LineId} {e : QueueEntry} {bs : List Byte}
  (he : ((s.cols.get col).lines.get line).queue.find? (fun e => e.grid.isNone && e.held.isNone) = some e) (fresh : e.bytes = [])
  (read : s.agentAcquire (portAgent e.ctx col) e.record.toNat 256 = .ok bs) (fields : s.badField e.ctx bs = none)
  (table : (parseLaunch bs).glyphs = 0) (admission : s.badAdmission e.ctx (parseLaunch bs) = none)
include he fresh read fields table admission

/-- A record that the port has read and found good is accepted (R221). -/
theorem exec_launchPortRead_accepts :
    exec (.launchPortRead col line) s = .next (((s.agentRows (portAgent e.ctx col) e.record.toNat 256).modLine col line fun l =>
      l.setEntry { e with bytes := bs }).acceptRecord col line { e with bytes := bs } bs) := by
  obtain ⟨rows, _⟩ := s.agentRows_eq (portAgent e.ctx col) e.record.toNat 256
  have fenced (f : LaunchLine → LaunchLine) (k : ColId) :
      (((s.agentRows (portAgent e.ctx col) e.record.toNat 256).modLine col line f).cols.get k).fenced = (s.cols.get k).fenced := by
    rw [State.modLine_fenced, rows]
  simp only [exec, execLaunchPortRead, he, fresh, read, done_eq, List.isEmpty_nil, Bool.not_true, Bool.false_eq_true, if_false]
  refine congrArg Host.Outcome.next (State.checkRecord_accepts ?_ table ?_)
  · refine (State.badField_congr (s := s) ?_ (fenced _) ..).trans fields
    exact s.agentRows_ctxs ..
  · refine (State.badAdmission_congr (s := s) ?_ (fenced _) ?_ ..).trans admission
    · exact s.agentRows_ctxs ..
    · exact s.agentRows_cores ..

/-- The port makes a grid of a good record, and leaves groups, memory and teams as they are (R221). -/
theorem exec_launchPortRead_grid :
    ∃ t x, exec (.launchPortRead col line) s = .next t ∧ t.grids = s.grids ++ [x] ∧ x.ctx = e.ctx ∧ x.record = e.record ∧
      x.launch = parseLaunch bs ∧ x.depth = e.depth ∧ x.next = 0 ∧ (x.stage = .offered ↔ ∀ d ∈ (parseLaunch bs).deps, d.1 = 0) ∧
      t.g = s.g ∧ t.mem = s.mem ∧ t.teams = s.teams := by
  have accepted := exec_launchPortRead_accepts he fresh read fields table admission
  have rg := s.agentRows_g (portAgent e.ctx col) e.record.toNat 256
  have rmem := s.agentRows_mem (portAgent e.ctx col) e.record.toNat 256
  have rteams := s.agentRows_teams (portAgent e.ctx col) e.record.toNat 256
  have rgrids := s.agentRows_grids (portAgent e.ctx col) e.record.toNat 256
  generalize s.agentRows (portAgent e.ctx col) e.record.toNat 256 = r at accepted rg rmem rteams rgrids
  obtain ⟨g, mem, teams⟩ := State.acceptRecord_keeps (r.modLine col line fun l => l.setEntry { e with bytes := bs })
    col line { e with bytes := bs } bs
  obtain ⟨x, grids, ctx, record, launch, depth, next, stage⟩ := State.acceptRecord_grid
    (r.modLine col line fun l => l.setEntry { e with bytes := bs }) col line { e with bytes := bs } bs
  exact ⟨_, x, accepted, grids.trans (congrArg (· ++ [x]) rgrids), ctx, record, launch, depth, next, stage, g.trans rg, mem.trans rmem,
    teams.trans rteams⟩

end

/-! ### Dependences -/

theorem State.pollDeps_met {s : State} {id : Nat} {x : Grid} (h : s.gridOf id = some x) (met : ∀ i, x.depsOk.getD i true = true)
    (i k : Nat) : State.pollDeps id i k s = s := by
  induction k generalizing i with
  | zero => rfl
  | succ k ih => simp only [State.pollDeps, h, met, Bool.true_or, if_true, ih]

/-- A dependence whose word has reached its threshold is met (R223). -/
theorem State.pollDeps_reads {s : State} {id i : Nat} {x : Grid} {bs : List Byte} (h : s.gridOf id = some x)
    (unmet : x.depsOk.getD i true = false) (free : x.depWait = [])
    (read : s.agentAcquire (portAgent x.ctx x.col) (x.launch.deps.getD i (0, 0)).1.toNat 8 = .ok bs)
    (reached : (x.launch.deps.getD i (0, 0)).2.toNat ≤ leNat bs) (k : Nat) :
    State.pollDeps id i (k + 1) s =
      State.pollDeps id (i + 1) k ((s.agentRows (portAgent x.ctx x.col) (x.launch.deps.getD i (0, 0)).1.toNat 8).modGrid id fun y =>
        { y with depsOk := y.depsOk.set i true }) := by
  simp only [State.pollDeps, h, unmet, free, read, decide_eq_true reached, List.any_nil, Bool.or_self, Bool.false_eq_true, if_false]

/-- The poll of a grid that waits for its first dependence alone, once that is met, offers it (R223). -/
theorem exec_dependencePoll_offers {s : State} {grid : Nat} {x : Grid} {bs : List Byte} (h : s.gridOf grid = some x)
    (held : x.stage = .held) (deps : x.depsOk = [false, true, true, true]) (free : x.depWait = [])
    (read : s.agentAcquire (portAgent x.ctx x.col) (x.launch.deps.getD 0 (0, 0)).1.toNat 8 = .ok bs)
    (reached : (x.launch.deps.getD 0 (0, 0)).2.toNat ≤ leNat bs) :
    ∃ t, exec (.dependencePoll grid) s = .next t ∧
      t.gridOf grid = some { x with stage := .offered, depsOk := [true, true, true, true] } ∧ t.g = s.g ∧ t.mem = s.mem := by
  have polled := State.pollDeps_reads h (by rw [deps]; rfl) free read reached 3
  have met : ((s.agentRows (portAgent x.ctx x.col) (x.launch.deps.getD 0 (0, 0)).1.toNat 8).modGrid grid fun y =>
      { y with depsOk := y.depsOk.set 0 true }).gridOf grid = some { x with depsOk := [true, true, true, true] } := by
    rw [State.gridOf_modGrid, State.gridOf, State.agentRows_grids]
    · refine (congrArg (Option.map _) h).trans ?_
      simp [deps]
    · exact fun _ => rfl
  rw [State.pollDeps_met met fun i => by rcases i with _ | _ | _ | _ | _ <;> rfl] at polled
  refine ⟨_, by simp only [exec, execDependencePoll, h, held, if_true, polled, done_eq]; rfl, ?_, ?_, ?_⟩
  · rw [State.gridOf_modGrid, met]
    · rfl
    · intro y; split <;> rfl
  · exact s.agentRows_g ..
  · exact s.agentRows_mem ..

/-! ### Admission -/

section
variable {s : State} {x : Grid} {t : Team} {core : CoreId}

theorem State.loadGlyphs_none (s : State) (core : CoreId) (h : x.launch.glyphs = 0) : s.loadGlyphs x core = s := by
  simp [State.loadGlyphs, h]

theorem State.leaveBehind_grids (s : State) (t : Team) : (s.leaveBehind t).grids = s.grids := by
  unfold State.leaveBehind; split <;> rfl

theorem State.takeUnits_grids (s : State) (t : Team) (core : CoreId) (units : List Nat) : (s.takeUnits t core units).grids = s.grids :=
  s.leaveBehind_grids t

theorem mem_updWhere {α : Type} {p : α → Bool} {f : α → α} {l : List α} {x : α} (h : x ∈ l) (hp : p x = true) : f x ∈ updWhere p f l := by
  induction l with
  | nil => cases h
  | cons a l ih =>
    rcases List.mem_cons.1 h with rfl | h
    · rw [updWhere, if_pos hp]; exact List.mem_cons_self ..
    · exact List.mem_cons_of_mem _ (ih h)

/-- A team that takes the place of the one of an identifier, or joins the others, is among them. -/
theorem State.joins_teams (s : State) (id : Nat) (t : Team) :
    t ∈ (if (s.teamOf id).isSome then s.modTeam id fun _ => t else { s with teams := s.teams ++ [t] } : State).teams := by
  split
  · next known =>
    obtain ⟨u, hu⟩ := Option.isSome_iff_exists.1 known
    exact mem_updWhere (f := fun _ => t) (List.mem_of_find?_eq_some hu) (List.find?_some (p := fun u : Team => u.id == id) hu)
  · exact List.mem_append_right _ (List.mem_singleton_self t)

/-- It is there still after the acquire of its core. -/
theorem State.joins_acquired (s : State) (id : Nat) (t : Team) (core : CoreId) (sc : Scope) :
    ∃ tm ∈ ((if (s.teamOf id).isSome then s.modTeam id fun _ => t else { s with teams := s.teams ++ [t] } : State).acquireBy core sc).teams,
      t.Accessed tm :=
  mem_teamsAccessed (State.acquireBy_accessed (.refl _) core sc).teams (s.joins_teams id t)

theorem State.joins_grids (s : State) (id : Nat) (t : Team) :
    (if (s.teamOf id).isSome then s.modTeam id fun _ => t else { s with teams := s.teams ++ [t] } : State).grids = s.grids := by
  split <;> rfl

theorem State.acquireBy_grids (s : State) (c : CoreId) (sc : Scope) : (s.acquireBy c sc).grids = s.grids :=
  (State.acquireBy_accessed (.refl s) c sc).grids

/-- A launched team that is admitted is resident on its core, and the grids stand (R225). -/
theorem State.admitTeam_launched (table : x.launch.glyphs = 0) (id i : Nat) :
    (∃ tm ∈ (s.admitTeam x (x.launched id i) core).teams, tm.grid = x.id ∧ tm.ctx = x.ctx ∧ tm.value = BitVec.ofNat 64 i ∧
      tm.place = .resident ∧ tm.core = core) ∧ (s.admitTeam x (x.launched id i) core).grids = s.grids := by
  unfold State.admitTeam
  dsimp only
  rw [State.loadGlyphs_none _ _ table]
  constructor
  · rw [State.modCore_teams]
    refine (State.joins_acquired _ _ _ core _).imp fun tm ⟨among, same⟩ => ⟨among, ?_⟩
    rw [same]
    exact ⟨rfl, rfl, rfl, rfl, rfl⟩
  · rw [State.modCore_grids, State.acquireBy_grids, State.joins_grids]
    exact (State.takeUnits_grids _ _ core ((s.freeUnits core).take x.launch.scratch)).trans (State.reportAll_grids _ s)

theorem State.dropHolds_teams (s : State) : s.dropHolds.teams = s.teams := by
  unfold State.dropHolds; dsimp only; split <;> rfl

theorem State.dropHolds_grids (s : State) : s.dropHolds.grids = s.grids := by
  unfold State.dropHolds; dsimp only; split <;> rfl

/-- The glyph tables that an admission loads first change nothing where the grid has none. -/
theorem exec_teamAdmission_next {grid : Nat} (h : s.gridOf grid = some x) (stage : x.stage = .offered)
    (table : x.launch.glyphs = 0) (cohort : x.launch.cohort = false) (waiting : s.waitingOf x = []) (admits : s.admits x.ctx = true)
    (may : s.mayAdmit x = true) : exec (.teamAdmission grid) s = .next (((s.admitNext x).map State.dropHolds).getD s) := by
  have tries : s.tryAdmit x = s.admitNext x := by simp [State.tryAdmit, cohort, waiting, admits, stage]
  simp only [exec, execTeamAdmission, h, done_eq]
  rw [List.foldl_fixed' (fun c => by rw [h]; exact s.loadGlyphs_none c table)]
  simp only [h, may, tries, if_true]

/-- The next launched team of a grid is admitted to the core at which it is placed, and the grid goes on to the one after it (R225). -/
theorem State.admitNext_admits {dst : CoreId} (table : x.launch.glyphs = 0)
    (place : s.placeLaunched x x.nextHead x.next x.diverted = some dst) (h : s.gridOf x.id = some x) :
    ∃ t, s.admitNext x = some t ∧
      (∃ tm ∈ t.teams, tm.grid = x.id ∧ tm.ctx = x.ctx ∧ tm.value = BitVec.ofNat 64 x.next ∧ tm.place = .resident ∧ tm.core = dst) ∧
      ∃ y, t.gridOf x.id = some y ∧ y.next = x.next + 1 := by
  obtain ⟨among, grids⟩ := State.admitTeam_launched (s := s.takeId.2) (core := dst) table s.takeId.1 x.next
  have found : (s.takeId.2.admitTeam x (x.launched s.takeId.1 x.next) dst).gridOf x.id = some x := by
    rw [State.gridOf, grids]; exact h
  rw [State.admitNext, place, Option.map_some]
  refine ⟨_, rfl, among, ?_⟩
  rw [State.gridOf_modGrid, found]
  · exact ⟨_, rfl, rfl⟩
  · exact fun _ => rfl

end

/-- A grid whose next launched team finds no core may place it elsewhere from then on (R225). -/
theorem exec_placementDiversionTimeout_diverts {s : State} {grid : Nat} {x : Grid} (h : s.gridOf grid = some x) (stage : x.stage = .offered)
    (stuck : s.placeLaunched x x.nextHead x.next false = none) :
    ∃ t, exec (.placementDiversionTimeout grid) s = .next t ∧ t.gridOf grid = some { x with diverted := true } ∧ t.g = s.g ∧
      t.mem = s.mem := by
  have next : s.nextStuck x = true := by rw [State.nextStuck, stuck]; rfl
  refine ⟨_, by simp only [exec, execPlacementDiversionTimeout, h, stage, next, decide_true, Bool.and_self, if_true, done_eq]; rfl, ?_, ?_, ?_⟩
  · rw [State.gridOf_modGrid]
    · exact congrArg (Option.map _) h
    · exact fun _ => rfl
  · rfl
  · rfl

/-! ### Spawn bins -/

/-- A team of all the records of a bin, which leaves its column (R187). -/
theorem State.formTeam_all {s : State} {col : ColId} {b : SpawnBin} {x : Grid} (h : s.gridOf b.grid = some x) (few : b.records.length ≤ 64) :
    ∃ tm, (s.formTeam col b).teams = s.teams ++ [tm] ∧ tm.grid = b.grid ∧ tm.entry = b.entry ∧ tm.payloads = b.records ∧
      tm.spawned = true ∧ tm.place = .waiting ∧ ((s.formTeam col b).cols.get col).bins.find? (fun c => c.id == b.id) = none ∧
      (s.formTeam col b).g = s.g ∧ (s.formTeam col b).mem = s.mem := by
  have rest : b.records.drop 64 = [] := List.drop_eq_nil_of_le few
  unfold State.formTeam
  simp only [h, rest, List.isEmpty_nil, if_true]
  refine ⟨_, rfl, rfl, rfl, List.take_of_length_le few, rfl, rfl, ?_, rfl, rfl⟩
  refine List.find?_eq_none.2 fun c hc => ?_
  simp only [State.modGrid_cols, State.modCol_get, if_true, List.mem_filter] at hc
  simpa using hc.2

/-! ### Holds of cores -/

/-- The head of a core for a grid without COHORT is one team (R226). -/
theorem State.headOn_single {s : State} {x : Grid} {core : CoreId} {h : HeadTeam} (hh : s.headOn x core = some h)
    (single : x.launch.cohort = false) (g : Nat) : h ≠ .cohort g := by
  have waits (t : Team) : x.teamHead t = .waiting t.id := by simp [Grid.teamHead, single]
  have next : x.nextHead = .launched x.id x.next := by simp [Grid.nextHead, single]
  unfold State.headOn at hh
  rcases (Option.orElse_eq_some ..).1 hh with waiting | ⟨_, launched⟩
  · obtain ⟨t, _, ht⟩ := Option.map_eq_some_iff.1 waiting
    simp [← ht, waits]
  · simp only [Option.ite_none_right_eq_some, Option.some.injEq, next] at launched
    simp [← launched.2]

/-- The first team that waits on a core holds it (R226). -/
theorem exec_headTeamHold_holds {s : State} {core : CoreId} {x : Grid} {h : HeadTeam}
    (first : leastBy s.offerKey (s.grids.filter fun x => (s.headOn x core).isSome) = some x) (hh : s.headOn x core = some h)
    (single : x.launch.cohort = false) :
    exec (.headTeamHold core) s = .next (s.modCore core fun y => { y with
      headHold := if (y.headHold.map s.headStands).getD false then y.headHold else some h }) := by
  simp only [exec, execHeadTeamHold, first, hh, done_eq]
  cases h with
  | cohort g => exact absurd rfl (State.headOn_single hh single g)
  | launched g i => rfl
  | waiting team => rfl

/-! ### The obligation -/

/-- Settles O58: each event, by what it does to the column, the grid, the core or the group that it names. -/
theorem launchEventsComplete : Obligations.LaunchEventsComplete := by
  unfold Obligations.LaunchEventsComplete
  intro s col line ctx core slot grid bin
  refine ⟨fun value near aligned room => ?_, fun e bs he fresh read fields table admission => ?_, fun x bs hx held deps free read reached => ?_,
    fun x dst hx stage table cohort waiting admits may place => ?_, fun x hx stage stuck => ?_, fun b x hb running hx few => ?_,
    fun x h first hh single free => ?_, fun here ready => ?_, fun here => ?_⟩
  · refine ⟨s.pushEntry col line value ctx 1 none none, ?_, ?_, rfl, rfl, rfl, rfl⟩
    · exact congrArg Host.Outcome.next (State.signalStore_queues near aligned room ctx)
    · exact congrArg LaunchLine.queue (State.modLine_get _ col line _)
  · exact exec_launchPortRead_grid he fresh read fields table admission
  · exact exec_dependencePoll_offers hx held deps free read reached
  · have known : x.id = grid := State.gridOf_id hx
    subst known
    obtain ⟨t, admitted, among, next⟩ := State.admitNext_admits table place hx
    refine ⟨_, exec_teamAdmission_next hx stage table cohort waiting admits may, ?_⟩
    rw [admitted, Option.map_some, Option.getD_some, State.dropHolds_teams, State.gridOf, State.dropHolds_grids]
    exact ⟨among, next⟩
  · exact exec_placementDiversionTimeout_diverts hx stage stuck
  · have known : b.id = bin := by simpa using List.find?_some hb
    subst known
    obtain ⟨tm, facts⟩ := State.formTeam_all (col := col) hx few
    refine ⟨_, tm, ?_, facts⟩
    simp only [exec, execSpawnBinTimer, hb, running, if_true, done_eq]
  · refine ⟨_, exec_headTeamHold_holds first hh single, ?_, rfl, rfl, rfl⟩
    rw [State.modCore_get, if_pos rfl, free]
    rfl
  · refine ⟨_, rfl, ?_, rfl, rfl⟩
    exact (if_pos here).trans (if_pos (by simpa using ready))
  · refine ⟨_, rfl, ?_, rfl, rfl⟩
    exact if_pos here

end Sys2Proof.Machine
end

section
/-! The shapes of the lane-wise instructions with their operands ready (R113, R115). -/
namespace Sys2Proof.Machine
open Sys2Proof.Safety
-- One proof at a time: proofs elaborated side by side each take a thread and its stack.
set_option Elab.async false

section
variable {s : State} {G : Guard} {d a b : VReg} {accepts : Nat → Bool}

theorem lanewise_ok {rd : Bool} {srcs : List VReg} {f : EType → Nat → Nat × Flags} (h : LaneReady s G d rd srcs accepts) :
    lanewise s G d rd srcs accepts f = .next (laneResult s G d f) := lanewiseWith_ok h

theorem elemwise1_ok {f : EType → Nat → Nat × Flags} (h : LaneReady s G d false [a] accepts) :
    elemwise1 s G d a accepts f = .next (laneResult s G d (each1 s a f)) :=
  lanewise_ok (f := each1 s a f) h

theorem elemwise2_ok {f : EType → Nat → Nat → Nat × Flags} (h : LaneReady s G d false [a, b] accepts) :
    elemwise2 s G d a b accepts f = .next (laneResult s G d (each2 s a b f)) :=
  lanewise_ok (f := each2 s a b f) h

theorem elemwise3_ok {f : EType → Nat → Nat → Nat → Nat × Flags} (h : LaneReady s G d true [a, b] accepts) :
    elemwise3 s G d a b accepts f = .next (laneResult s G d (each3 s a b d f)) :=
  lanewise_ok (f := each3 s a b d f) h

end

end Sys2Proof.Machine
end


section
/-! Integers of a width as bit vectors, and the vector integer instructions (R36, R115 to R118). -/
namespace Sys2Proof.Machine
open Sys2Proof.Safety
-- One proof at a time: proofs elaborated side by side each take a thread and its stack.
set_option Elab.async false

theorem field_zero (x w : Nat) : field x 0 w = x % 2 ^ w := by simp [field]

/-- The sign bit of a pattern. -/
theorem field_top (w x : Nat) : (field x (w - 1) 1 == 1) = x.testBit (w - 1) := by
  rw [field, Nat.testBit_eq_decide_div_mod_eq]; rfl

theorem readInt_unsigned (w x : Nat) : readInt false w x = (x % 2 ^ w : Nat) := by simp [readInt, field_zero]

/-- Two's complement (R36). -/
theorem readInt_signed {w : Nat} (hw : 0 < w) (x : Nat) : readInt true w x = (BitVec.ofNat w x).toInt := by
  have top : (BitVec.ofNat w x).msb = x.testBit (w - 1) := by
    rw [BitVec.msb_eq_getLsbD_last, BitVec.getLsbD_ofNat, decide_eq_true (by omega), Bool.true_and]
  rw [BitVec.toInt_eq_msb_cond, top, readInt, field_top, field_zero, BitVec.toNat_ofNat]
  simp

theorem elemWidth_pos (t : EType) : 0 < elemWidth t := by cases t <;> decide

theorem elemInt_signed {t : EType} (ht : signedType t = true) (x : Nat) : elemInt t x = (BitVec.ofNat (elemWidth t) x).toInt := by
  rw [elemInt, ht, readInt_signed (elemWidth_pos t)]

theorem elemInt_unsigned {t : EType} (ht : signedType t = false) (x : Nat) : elemInt t x = (x % 2 ^ elemWidth t : Nat) := by
  rw [elemInt, ht, readInt_unsigned]

/-- Outside its overflow the signed quotient is representable, at every width (R117). -/
theorem toInt_quotS_regular {w : Nat} {x y : BitVec w} (hy : y ≠ 0) (h : ¬(x = BitVec.intMin w ∧ y = -1#w)) :
    (quotS x y).toInt = Int.tdiv x.toInt y.toInt := by
  rw [quotS, if_neg hy, BitVec.toInt_ofInt, ← BitVec.toInt_sdiv, BitVec.toInt_sdiv_of_ne_or_ne x y (by tauto)]

theorem toInt_remS_nonzero {w : Nat} {x y : BitVec w} (hy : y ≠ 0) : (remS x y).toInt = Int.tmod x.toInt y.toInt := by
  rw [remS, if_neg hy, ← BitVec.toInt_srem, BitVec.ofInt_toInt]

section
variable {t : EType} {x y : Nat}

theorem elemInt_eq_zero (hy : y < 2 ^ elemWidth t) (h : elemInt t y = 0) : BitVec.ofNat (elemWidth t) y = 0 := by
  cases ht : signedType t with
  | true => rw [elemInt_signed ht] at h; exact BitVec.eq_of_toInt_eq (by simpa using h)
  | false =>
    rw [elemInt_unsigned ht, Nat.mod_eq_of_lt hy] at h
    rw [show y = 0 by omega]; rfl

theorem elemInt_ne_zero (h : elemInt t y ≠ 0) : BitVec.ofNat (elemWidth t) y ≠ 0 := by
  intro zero
  cases ht : signedType t with
  | true => rw [elemInt_signed ht, zero] at h; simp at h
  | false =>
    have : y % 2 ^ elemWidth t = 0 := by simpa using congrArg BitVec.toNat zero
    rw [elemInt_unsigned ht, this] at h
    exact h rfl

/-- Division by zero: all ones and the dividend (R117). -/
theorem divElem_zero (hx : x < 2 ^ elemWidth t) (h : BitVec.ofNat (elemWidth t) y = 0) :
    divElem t x y = 2 ^ elemWidth t - 1 ∧ remElem t x y = x := by
  constructor
  · simp only [divElem, quotS, quotN, h, if_true, ite_self, BitVec.toNat_allOnes]
  · simp only [remElem, remS, remN, h, if_true, ite_self, BitVec.toNat_ofNat, Nat.mod_eq_of_lt hx]

/-- The most negative value by -1: itself and 0 (R117). -/
theorem divElem_overflow (ht : signedType t = true) (hx : x < 2 ^ elemWidth t) (ha : elemInt t x = -2 ^ (elemWidth t - 1))
    (hb : elemInt t y = -1) : divElem t x y = x ∧ remElem t x y = 0 := by
  rw [elemInt_signed ht] at ha hb
  have hy : BitVec.ofNat (elemWidth t) y ≠ 0 := fun zero => by rw [zero] at hb; simp at hb
  have quotient : quotS (BitVec.ofNat (elemWidth t) x) (BitVec.ofNat (elemWidth t) y) = BitVec.ofNat (elemWidth t) x := by
    have least : BitVec.ofNat (elemWidth t) x = BitVec.intMin (elemWidth t) :=
      BitVec.eq_of_toInt_eq (by rw [ha, BitVec.toInt_intMin_of_pos (elemWidth_pos t)])
    rw [quotS, if_neg hy, ha, hb, Int.tdiv_neg, Int.tdiv_one, BitVec.ofInt_neg, ← BitVec.intMin_eq_neg_two_pow, BitVec.neg_intMin,
      least]
  have remainder : remS (BitVec.ofNat (elemWidth t) x) (BitVec.ofNat (elemWidth t) y) = 0 := by
    rw [remS, if_neg hy, hb, Int.tmod_neg, Int.tmod_one]; rfl
  rw [divElem, remElem, if_pos ht, if_pos ht, quotient, remainder, BitVec.toNat_ofNat, Nat.mod_eq_of_lt hx]
  exact ⟨rfl, rfl⟩

/-- Otherwise the quotient toward zero and the remainder with the sign of the dividend (R117). -/
theorem elemInt_divElem (hy : BitVec.ofNat (elemWidth t) y ≠ 0)
    (regular : ¬(signedType t = true ∧ elemInt t x = -2 ^ (elemWidth t - 1) ∧ elemInt t y = -1)) :
    elemInt t (divElem t x y) = Int.tdiv (elemInt t x) (elemInt t y) ∧
      elemInt t (remElem t x y) = Int.tmod (elemInt t x) (elemInt t y) := by
  cases ht : signedType t with
  | true =>
    have apart : ¬(BitVec.ofNat (elemWidth t) x = BitVec.intMin (elemWidth t) ∧ BitVec.ofNat (elemWidth t) y = -1#(elemWidth t)) := by
      rintro ⟨least, minusOne⟩
      refine regular ⟨ht, ?_, ?_⟩
      · rw [elemInt_signed ht, least, BitVec.toInt_intMin_of_pos (elemWidth_pos t)]
      · rw [elemInt_signed ht, minusOne]; cases t <;> rfl
    simp only [elemInt_signed ht, divElem, remElem, if_pos ht, BitVec.ofNat_toNat, BitVec.setWidth_eq]
    exact ⟨toInt_quotS_regular hy apart, toInt_remS_nonzero hy⟩
  | false =>
    have small {k : Nat} (hk : k ≤ x % 2 ^ elemWidth t) : k % 2 ^ elemWidth t = k :=
      Nat.mod_eq_of_lt (hk.trans_lt (Nat.mod_lt _ (Nat.two_pow_pos _)))
    simp only [elemInt_unsigned ht, divElem, remElem, quotN, remN, if_neg hy, ht, Bool.false_eq_true, if_false, BitVec.toNat_ofNat,
      small (Nat.div_le_self _ _), small (Nat.mod_le _ _)]
    exact ⟨Int.ofNat_tdiv .., Int.ofNat_tmod ..⟩

end

/-- The bits set in an element (R116). -/
theorem popCount_ofNat (w x : Nat) : popCount (BitVec.ofNat w x) = (List.range w).countP fun k => x.testBit k := by
  rw [popCount_eq]
  refine List.countP_congr fun k hk => ?_
  rw [BitVec.getLsbD_ofNat, decide_eq_true (List.mem_range.1 hk), Bool.true_and]

/-- Settles O21: each instruction has the shape of its sources, and division the three cases of R117. -/
theorem vectorIntegerResults : Obligations.VectorIntegerResults := by
  refine ⟨?_, ?_, ?_⟩
  · intro s G d a b h
    have two {i : Instr} {f : EType → Nat → Nat → Nat × Flags} (e : exec i s = elemwise2 s G d a b intType f) :
        exec i s = .next (laneResult s G d (each2 s a b f)) := e.trans (elemwise2_ok h)
    exact ⟨two rfl, two rfl, two rfl, two rfl, two rfl, two rfl, two rfl, two rfl, two rfl, two rfl, two rfl, two rfl, two rfl, two rfl,
      two rfl⟩
  · intro s G d a b imm cnt
    refine ⟨fun h => ?_, fun h => ?_, fun h => (exec_vmad ..).trans (elemwise3_ok h), fun h => (exec_vdot4 ..).trans (lanewise_ok h),
      fun h => (exec_vmovi ..).trans (lanewise_ok h)⟩
    · simp only [exec_vand, execVand, exec_vor, execVor, exec_vxor, execVxor, exec_vandn, execVandn, bitwise, lanewise_ok h, and_self]
    · have one {i : Instr} {f : EType → Nat → Nat × Flags} (e : exec i s = elemwise1 s G d a intType f) :
          exec i s = .next (laneResult s G d (each1 s a f)) := e.trans (elemwise1_ok h)
      refine ⟨one ?_, one rfl, one rfl, one rfl, one rfl, one rfl, one rfl⟩
      simp only [exec_vpopc, execVpopc, popCount_ofNat]
  · intro t x y hx hy
    exact ⟨fun hb => divElem_zero hx (elemInt_eq_zero hy hb), fun ht ha hb => divElem_overflow ht hx ha hb,
      fun hb regular => elemInt_divElem (elemInt_ne_zero hb) regular⟩

end Sys2Proof.Machine
end

section
/-! Masks and the flags of their lanes, compares, selects and moves (R121 to R123). -/
namespace Sys2Proof.Machine
open Sys2Proof.Safety
-- One proof at a time: proofs elaborated side by side each take a thread and its stack.
set_option Elab.async false

theorem mem_lanesOf {m : Word} {L : Nat} : L ∈ lanesOf m ↔ m.getLsbD L = true := by
  rw [lanesOf, List.mem_filter, tabList_eq_map, List.map_id, List.mem_range'_1, bit]
  exact ⟨fun h => h.2, fun h => ⟨by have := BitVec.lt_of_getLsbD h; omega, h⟩⟩

theorem maskOf_congr {f g : Nat → Bool} (h : ∀ L < 64, f L = g L) : maskOf f = maskOf g :=
  maskOf_eq fun L hL => by rw [getLsbD_maskOf g hL, h L hL]

/-- Only the results of the lanes in the mask set flags. -/
theorem laneFlags_congr {m : Word} {f g : Nat → Flags} (h : ∀ L, m.getLsbD L = true → f L = g L) : laneFlags m f = laneFlags m g := by
  unfold laneFlags
  exact List.foldl_ext _ _ _ fun acc L hL => by rw [h L (mem_lanesOf.1 hL)]

/-- A compare whose operands are ready writes both predicates in the Active lanes (R121). -/
theorem compareOp_ok {s : State} {G : Guard} {pd pe : PReg} {a b : VReg} {accepts : Nat → Bool} {f : EType → Nat → Nat → Bool × Flags}
    (h : OperandsReady s [s.g.vOp a (s.g.active G), s.g.vOp b (s.g.active G)] [s.g.vOp a (s.g.active G), s.g.vOp b (s.g.active G)]
      accepts [] [s.g.guardIdx G]) :
    let m := s.g.active G
    let r := fun L => f s.g.ety (elemAt s.g.ety (s.g.raw a L) 0) (elemAt s.g.ety (s.g.raw b L) 0)
    compareOp s G pd pe a b accepts f = .next (s.retireWith (((s.g.setP pd m (maskOf fun L => bit m L && (r L).1)).setP pe m
      (~~~(maskOf fun L => bit m L && (r L).1))).orFlags (laneFlags m fun L => if bit m L then (r L).2 else 0))) := by
  intro m r
  have entry {L : Nat} (hL : L < 64) : atD (tab 64 fun L => if bit m L then r L else (false, 0)) L (false, 0) =
      if bit m L then r L else (false, 0) := by rw [atD_tab, if_pos hL]
  have hits : (maskOf fun L => (atD (tab 64 fun L => if bit m L then r L else (false, 0)) L (false, 0)).1) =
      maskOf fun L => bit m L && (r L).1 :=
    maskOf_congr fun L hL => by rw [entry hL]; cases bit m L <;> rfl
  have flags : (laneFlags m fun L => (atD (tab 64 fun L => if bit m L then r L else (false, 0)) L (false, 0)).2) =
      laneFlags m fun L => if bit m L then (r L).2 else 0 :=
    laneFlags_congr fun L set => by rw [entry (BitVec.lt_of_getLsbD set)]; cases bit m L <;> rfl
  rw [← hits, ← flags]
  simp only [compareOp, operands_ok h]
  rfl

/-- Settles O23: the compares through `compareOp_ok`, the moves through the shape of the lane-wise instructions. -/
theorem compareSelectMove : Obligations.CompareSelectMove := by
  intro s G vc fc pd pe p d a b x
  exact ⟨fun h => (exec_vcmp ..).trans (compareOp_ok h), fun h => (exec_fcmp ..).trans (compareOp_ok h),
    fun h => (exec_vsel ..).trans (lanewiseWith_ok h), fun h => (exec_vmov ..).trans (lanewise_ok h),
    fun h => (exec_vbcast ..).trans (lanewiseWith_ok h)⟩

end Sys2Proof.Machine
end

section
/-! Shuffles and lane moves, the tree of VRED and the prefixes of VSCAN (R129 to R133). -/
namespace Sys2Proof.Machine
open Sys2Proof.Safety
-- One proof at a time: proofs elaborated side by side each take a thread and its stack.
set_option Elab.async false

/-! ### The tree of VRED (R132) -/

/-- The model's combination of two lanes is that of R132. -/
theorem combineLanes_eq (f : Nat → Nat → Nat × Flags) (x y : Option Nat) : combineLanes f x y = combined f x y := by
  cases x <;> cases y <;> rfl

section
variable (f : Nat → Nat → Nat × Flags) (x : Nat → Option Nat)

/-- What the lanes hold after the first level, by the number of the pair. -/
def pairedLanes (i : Nat) : Option Nat := (combined f (x (2 * i)) (x (2 * i + 1))).1

/-- The flags of the first level over n pairs from pair i on. -/
def pairedFlags (i : Nat) : Nat → Flags
  | 0 => 0
  | n + 1 => (combined f (x (2 * i)) (x (2 * i + 1))).2 ||| pairedFlags (i + 1) n

theorem pairUp_tabList (i n : Nat) :
    pairUp f (tabList x (2 * i) (2 * n)) = (tabList (pairedLanes f x) i n, pairedFlags f x i n) := by
  induction n generalizing i with
  | zero => rfl
  | succ n ih =>
    rw [show 2 * (n + 1) = 2 * n + 1 + 1 by omega]
    simp only [tabList, pairUp, combineLanes_eq]
    rw [show 2 * i + 1 + 1 = 2 * (i + 1) by omega, ih]
    rfl

theorem pairedFlags_add (i m n : Nat) : pairedFlags f x i (m + n) = pairedFlags f x i m ||| pairedFlags f x (i + m) n := by
  induction m generalizing i with
  | zero => simp [pairedFlags]
  | succ m ih => rw [show m + 1 + n = m + n + 1 by omega, pairedFlags, pairedFlags, ih, BitVec.or_assoc, show i + 1 + m = i + (m + 1) by omega]

/-- A tree of k + 1 levels is one of k levels over the pairs, with the flags of the pairs. -/
theorem treeOf_succ (k i : Nat) :
    (treeOf f x (k + 1) (2 * i)).1 = (treeOf f (pairedLanes f x) k i).1 ∧
      (treeOf f x (k + 1) (2 * i)).2 = pairedFlags f x i (2 ^ k) ||| (treeOf f (pairedLanes f x) k i).2 := by
  induction k generalizing i with
  | zero => simp [treeOf, pairedLanes, pairedFlags]
  | succ k ih =>
    obtain ⟨lane, flags⟩ := ih i
    obtain ⟨lane', flags'⟩ := ih (i + 2 ^ k)
    rw [show 2 * (i + 2 ^ k) = 2 * i + 2 ^ (k + 1) by ring] at lane' flags'
    rw [treeOf, lane, flags, lane', flags', treeOf, pow_succ, Nat.mul_two, pairedFlags_add]
    refine ⟨rfl, ?_⟩
    dsimp only
    ac_rfl

/-- The levels over a list of 2^k lanes leave what the tree gives. -/
theorem treeReduce_tabList (k : Nat) (fl : Flags) :
    treeReduce f k (tabList x 0 (2 ^ k)) fl = ((treeOf f x k 0).1, fl ||| (treeOf f x k 0).2) := by
  induction k generalizing x fl with
  | zero => simp [treeReduce, tabList, treeOf]
  | succ k ih =>
    obtain ⟨lane, flags⟩ := treeOf_succ f x k 0
    have level := pairUp_tabList f x 0 (2 ^ k)
    rw [Nat.mul_zero] at lane flags level
    rw [pow_succ, Nat.mul_comm, treeReduce, level, ih, lane, flags, BitVec.or_assoc]

end

/-! ### The prefixes of VSCAN (R133) -/

section
variable (f : Nat → Nat → Nat × Flags)

theorem scanLanes_values (acc : Option Nat) (xs : List Nat) : (scanLanes f acc xs).1 = (prefixes f acc xs).map fun r => r.1.getD 0 := by
  induction xs generalizing acc with
  | nil => rfl
  | cons x r ih => rw [scanLanes, prefixes, List.map_cons, combineLanes_eq, ih]

theorem scanLanes_flags (acc : Option Nat) (xs : List Nat) (k : Nat) :
    (scanLanes f acc xs).2.getLsbD k = (prefixes f acc xs).any fun r => r.2.getLsbD k := by
  induction xs generalizing acc with
  | nil => simp [scanLanes, prefixes]
  | cons x r ih => rw [scanLanes, prefixes, List.any_cons, combineLanes_eq, BitVec.getLsbD_or, ih]

end

/-! ### The instructions -/

section
variable {s : State} {G : Guard}

/-- A shuffle whose operands are ready (R129). -/
theorem shuffleOp_ok {d a : VReg} {bv : List VReg} {ss : List SReg} {src : Nat → Nat} {named : List Opnd}
    (he : named = s.g.vOp d 0 :: s.g.vOp a ((maskOf fun L => (lanesOf (s.g.active G)).any fun j => src j == L) &&& s.g.live) ::
      bv.map fun r => s.g.vOp r (s.g.active G))
    (h : OperandsReady s named named anyType ss [s.g.guardIdx G]) :
    shuffleOp s G d a bv ss src = .next (s.retireWith (s.g.setRaw d (s.g.active G) fun L => s.g.raw a (src L))) := by
  subst he
  simp only [shuffleOp, operands_ok h]; rfl

theorem exec_vextr_ok {d : SReg} {a : VReg} {b : SReg} :
    let k := (s.g.sReg b).toNat % 64
    OperandsReady s [s.g.vOp a (s.g.active G &&& maskOf (· == k))] [s.g.vOp a (s.g.active G &&& maskOf (· == k))] anyType [b]
      [s.g.guardIdx G] →
    exec (.vextr G d a b) s =
      .next (s.retireWith (s.g.setS d (if (s.g.active G).getLsbD k then BitVec.ofNat 64 (s.g.raw a k) else 0))) := by
  intro k h
  have checked := operands_ok h
  simp only [k] at checked
  simp only [exec_vextr, execVextr, checked]; rfl

theorem exec_vins_ok {d : VReg} {a b : SReg} (h : OperandsReady s [s.g.vOp d 0] [s.g.vOp d 0] anyType [a, b] [s.g.guardIdx G]) :
    exec (.vins G d a b) s = .next (s.retireWith
      (s.g.setRaw d (s.g.active G &&& maskOf (· == (s.g.sReg b).toNat % 64)) fun _ => (s.g.sReg a).toNat)) := by
  simp only [exec_vins, execVins, operands_ok h]; rfl

variable {d a : VReg} (h : OperandsReady s [s.g.vOp d 0, s.g.vOp a (s.g.active G)] [s.g.vOp d 0, s.g.vOp a (s.g.active G)] anyType []
  [s.g.guardIdx G])
include h

theorem exec_vcompact_ok : exec (.vcompact G d a) s = .next (s.retireWith (if s.g.active G = 0 then s.g else
    s.g.setRaw d s.g.live fun L => ((lanesOf (s.g.active G)).map (s.g.raw a)).getD L 0)) := by
  simp only [exec_vcompact, execVcompact, operands_ok h]; rfl

theorem exec_vred_ok (f : RedOp) :
    let tree := treeReduce (redLane s.g f) 6 (tabList (fun L => if bit (s.g.active G) L then some (s.g.raw a L) else none) 0 64) 0
    exec (.vred G d a f) s = .next (s.retireWith ((s.g.setRaw d (s.g.active G) fun _ => tree.1.getD 0).orFlags tree.2)) := by
  simp only [exec_vred, execVred, operands_ok h]; rfl

theorem exec_vscan_ok (f : RedOp) :
    let scan := scanLanes (redLane s.g f) none ((lanesOf (s.g.active G)).map (s.g.raw a))
    exec (.vscan G d a f) s = .next (s.retireWith
      ((s.g.setRaw d (s.g.active G) fun L => scan.1.getD ((lanesOf (s.g.active G)).idxOf L) 0).orFlags scan.2)) := by
  simp only [exec_vscan, execVscan, operands_ok h]; rfl

end

/-- Settles O24: the lane moves by their checks, VRED by the tree over pairs of lanes, VSCAN by its list of prefixes. -/
theorem laneMoves : Obligations.LaneMoves := by
  refine ⟨?_, ?_, ?_, ?_⟩
  · intro s G d a b x y
    refine ⟨fun h => ?_, fun h => ?_, fun h => ?_, fun h => ?_, fun h => exec_vextr_ok h, fun h => exec_vins_ok h,
      fun h => ⟨fun hm => ?_, fun hm => ?_⟩⟩
    · exact (exec_shfl ..).trans (shuffleOp_ok (bv := [b]) rfl h)
    · exact (exec_shflx ..).trans (shuffleOp_ok (bv := []) rfl h)
    · exact (exec_shflu ..).trans (shuffleOp_ok (bv := []) rfl h)
    · exact (exec_shfld ..).trans (shuffleOp_ok (bv := []) rfl h)
    · exact (exec_vcompact_ok h).trans (by rw [if_pos hm]; rfl)
    · exact (exec_vcompact_ok h).trans (by rw [if_neg hm])
  · intro s G d a f m h
    exact ⟨exec_vred_ok h f, exec_vscan_ok h f⟩
  · intro f x xs acc
    refine ⟨?_, scanLanes_values f acc xs, scanLanes_flags f acc xs⟩
    exact (treeReduce_tabList f x 6 0).trans (Prod.ext rfl (BitVec.zero_or ..))
  · intro g x y
    refine ⟨rfl, rfl, rfl, fun float => ?_, fun int => ?_⟩
    · simp only [redLane, float, if_true, and_self]
    · simp only [redLane, int, Bool.false_eq_true, if_false, and_self]

end Sys2Proof.Machine
end

section
/-! Exact numbers: values, powers of two, order and sums (R38 to R41). -/
namespace Sys2Proof.Machine
open Sys2Proof.Safety
-- One proof at a time: proofs elaborated side by side each take a thread and its stack.
set_option Elab.async false

/-! ### Signs and powers of two -/

section
variable {α : Type} [Field α]

/-- The sign of a number as a factor. -/
def sgn (n : Bool) : α := if n then -1 else 1

@[simp] theorem sgn_false : sgn (α := α) false = 1 := rfl
@[simp] theorem sgn_true : sgn (α := α) true = -1 := rfl

theorem sgn_ne_zero (n : Bool) : sgn (α := α) n ≠ 0 := by cases n <;> simp
theorem sgn_mul_sgn_mul (n : Bool) (x y : α) : sgn n * x * (sgn n * y) = x * y := by cases n <;> simp
theorem sgn_bne (n k : Bool) : sgn (α := α) (n != k) = sgn n * sgn k := by cases n <;> cases k <;> simp
theorem sgn_not (n : Bool) : sgn (α := α) (!n) = -sgn n := by cases n <;> simp
theorem sgn_cast (n : Bool) : ((sgn n : ℚ) : α) = sgn n := by cases n <;> simp

theorem pow2_ne_zero (k : ℤ) : pow2 k ≠ 0 := (Nat.two_pow_pos _).ne'

variable [LinearOrder α]

theorem abs_sgn_mul (n : Bool) (x : α) : |sgn n * x| = |x| := by cases n <;> simp

variable [IsStrictOrderedRing α]

theorem two_zpow_pos (e : ℤ) : (0 : α) < 2 ^ e := zpow_pos two_pos e

/-- A magnitude counted in smaller quanta (R40). -/
theorem quanta_mul (m : ℕ) {e q : ℤ} (h : q ≤ e) : ((m * pow2 (e - q) : ℕ) : α) * 2 ^ q = m * 2 ^ e := by
  have split : (2 : α) ^ e = 2 ^ (e - q).toNat * 2 ^ q := by
    rw [← zpow_natCast, ← zpow_add₀ two_ne_zero, Int.toNat_of_nonneg (by omega), sub_add_cancel]
  rw [split, pow2]
  push_cast
  ring

/-- A larger quantum holds a whole number of smaller ones. -/
theorem quantum_split {e q : ℤ} (h : e ≤ q) : (2 : α) ^ q = ((2 ^ (q - e).toNat : ℕ) : α) * 2 ^ e := by
  have := quanta_mul (α := α) 1 h
  rwa [Nat.one_mul, pow2, Nat.cast_one, one_mul, eq_comm] at this

/-- A magnitude lies in its binade. -/
theorem binade_le {m : ℕ} (hm : m ≠ 0) (e : ℤ) : (2 : α) ^ binade m e ≤ m * 2 ^ e := by
  rw [binade, zpow_add₀ two_ne_zero, zpow_natCast]
  exact mul_le_mul_of_nonneg_right (by exact_mod_cast Nat.log2_self_le hm) (two_zpow_pos e).le

theorem lt_binade (m : ℕ) (e : ℤ) : (m : α) * 2 ^ e < 2 ^ (binade m e + 1) := by
  rw [binade, add_right_comm, zpow_add₀ two_ne_zero, ← Nat.cast_succ, zpow_natCast]
  exact mul_lt_mul_of_pos_right (by exact_mod_cast Nat.lt_log2_self) (two_zpow_pos e)

/-- The binade of a magnitude between two powers of two. -/
theorem binade_eq {m : ℕ} {e k : ℤ} (lo : (2 : α) ^ k ≤ m * 2 ^ e) (hi : (m : α) * 2 ^ e < 2 ^ (k + 1)) : binade m e = k := by
  have hm : m ≠ 0 := by rintro rfl; simpa using lo.trans_lt' (two_zpow_pos k)
  have below := (zpow_lt_zpow_iff_right₀ one_lt_two).1 (lo.trans_lt (lt_binade (α := α) m e))
  have above := (zpow_lt_zpow_iff_right₀ one_lt_two).1 ((binade_le (α := α) hm e).trans_lt hi)
  omega

end

/-! ### Values -/

theorem numVal_fin (n : Bool) (m : ℕ) (e : ℤ) : numVal (.fin n m e) = sgn n * (m * 2 ^ e) := by
  cases n <;> simp [numVal]

theorem abs_numVal (n : Bool) (m : ℕ) (e : ℤ) : |numVal (.fin n m e)| = m * 2 ^ e := by
  rw [numVal_fin, abs_sgn_mul, abs_of_nonneg (mul_nonneg (Nat.cast_nonneg m) (two_zpow_pos e).le)]

theorem numVal_eq_zero {n : Bool} {m : ℕ} {e : ℤ} : numVal (.fin n m e) = 0 ↔ m = 0 := by
  rw [← abs_eq_zero, abs_numVal, mul_eq_zero, Nat.cast_eq_zero]
  exact or_iff_left (two_zpow_pos e).ne'

theorem numVal_negate (x : Num) : numVal x.negate = -numVal x := by
  obtain _ | _ | ⟨n, m, e⟩ := x
  · simp [Num.negate, numVal]
  · simp [Num.negate, numVal]
  · cases n <;> simp [Num.negate, numVal_fin]

theorem numVal_scale (x : Num) (k : ℤ) : numVal (x.scale k) = numVal x * 2 ^ k := by
  obtain _ | _ | ⟨n, m, e⟩ := x
  · simp [Num.scale, numVal]
  · simp [Num.scale, numVal]
  · rw [Num.scale, numVal_fin, numVal_fin, zpow_add₀ two_ne_zero]; ring

theorem numVal_numOfInt (n : ℤ) : numVal (numOfInt n) = n := by
  rw [numOfInt, numVal_fin, zpow_zero, mul_one]
  rcases lt_or_ge n 0 with h | h
  · rw [decide_eq_true h, sgn_true, ← Int.cast_natCast, Int.ofNat_natAbs_of_nonpos h.le]; push_cast; ring
  · rw [decide_eq_false (not_lt.2 h), sgn_false, ← Int.cast_natCast, Int.natAbs_of_nonneg h, one_mul]

/-- A number that is no NaN and no infinity. -/
theorem exists_fin {x : Num} (hn : x.isNan = false) (hi : x.isInf = false) : ∃ n m e, x = .fin n m e := by
  obtain _ | _ | ⟨n, m, e⟩ := x
  · cases hn
  · cases hi
  · exact ⟨n, m, e, rfl⟩

/-! ### Order -/

/-- Two finite numbers in a common quantum compare as their magnitudes there. -/
theorem less_fin (z x y : Bool) (m k : ℕ) (e f : ℤ) :
    Num.less z (.fin x m e) (.fin y k f) = true ↔
      numVal (.fin x m e) < numVal (.fin y k f) ∨ (m = 0 ∧ k = 0 ∧ z = true ∧ x = true ∧ y = false) := by
  set lo := if e ≤ f then e else f with hlo
  have he : lo ≤ e := by rw [hlo]; split <;> omega
  have hf : lo ≤ f := by rw [hlo]; split <;> omega
  set p := m * pow2 (e - lo) with hp
  set q := k * pow2 (f - lo) with hq
  have vp : (m : ℚ) * 2 ^ e = p * 2 ^ lo := (quanta_mul m he).symm
  have vq : (k : ℚ) * 2 ^ f = q * 2 ^ lo := (quanta_mul k hf).symm
  have zp : m = 0 ↔ p = 0 := by rw [hp, Nat.mul_eq_zero, or_iff_left (pow2_ne_zero _)]
  have zq : k = 0 ↔ q = 0 := by rw [hq, Nat.mul_eq_zero, or_iff_left (pow2_ne_zero _)]
  have order (a b : ℤ) : (a : ℚ) * 2 ^ lo < b * 2 ^ lo ↔ a < b := by
    rw [mul_lt_mul_iff_left₀ (two_zpow_pos lo), Int.cast_lt]
  have signed (s : Bool) (n : ℕ) : (sgn s : ℚ) * (n * 2 ^ lo) = ((if s then -(n : ℤ) else n : ℤ) : ℚ) * 2 ^ lo := by
    cases s <;> simp
  rw [numVal_fin, numVal_fin, vp, vq, signed, signed, order, zp, zq]
  simp only [Num.less, ← hlo, ← hp, ← hq]
  cases x <;> cases y <;> cases z <;> simp <;> omega

/-! ### Sums -/

/-- The exact sum (R41), with the sign of an exact zero. -/
theorem numVal_exactAdd (mode : ℕ) (na : Bool) (ma : ℕ) (ea : ℤ) (nb : Bool) (mb : ℕ) (eb : ℤ) :
    let r := exactAdd mode na ma ea nb mb eb
    numVal (.fin r.1 r.2.1 r.2.2) = numVal (.fin na ma ea) + numVal (.fin nb mb eb) ∧
      (numVal (.fin na ma ea) + numVal (.fin nb mb eb) = 0 → r.1 = if na = nb then na else mode == 3) := by
  intro r
  set lo := if ea ≤ eb then ea else eb with hlo
  have he : lo ≤ ea := by rw [hlo]; split <;> omega
  have hf : lo ≤ eb := by rw [hlo]; split <;> omega
  have vp := quanta_mul (α := ℚ) ma he
  have vq := quanta_mul (α := ℚ) mb hf
  have hr : r = exactAdd mode na ma ea nb mb eb := rfl
  simp only [exactAdd, ← hlo] at hr
  rw [numVal_fin na, numVal_fin nb, ← vp, ← vq]
  generalize ma * pow2 (ea - lo) = p at *
  generalize mb * pow2 (eb - lo) = q at *
  have pos := two_zpow_pos (α := ℚ) lo
  rw [hr]
  rcases eq_or_ne na nb with rfl | hn
  · rw [if_pos rfl, if_pos rfl, numVal_fin]
    exact ⟨by push_cast; ring, fun _ => rfl⟩
  · have opposite : sgn (α := ℚ) nb = -sgn na := by cases na <;> cases nb <;> simp at hn ⊢
    have equal (zero : (sgn na : ℚ) * (p * 2 ^ lo) + -sgn na * (q * 2 ^ lo) = 0) : p = q := by
      have : (sgn na : ℚ) * ((p - q) * 2 ^ lo) = 0 := by linear_combination zero
      exact Nat.cast_injective (R := ℚ) (by simpa [sgn_ne_zero, pos.ne', sub_eq_zero] using this)
    rw [if_neg hn, if_neg hn, opposite]
    rcases lt_trichotomy p q with h | rfl | h
    · rw [if_neg (by omega), if_neg (by omega), numVal_fin, opposite, Nat.cast_sub h.le]
      exact ⟨by ring, fun zero => absurd (equal zero) h.ne⟩
    · rw [if_pos rfl, numVal_fin]
      exact ⟨by push_cast; ring, fun _ => rfl⟩
    · rw [if_neg (by omega), if_pos h, numVal_fin, Nat.cast_sub h.le]
      exact ⟨by ring, fun zero => absurd (equal zero) h.ne'⟩

end Sys2Proof.Machine
end

section
/-! Rounding on a scale of magnitudes: a strictly rising sequence of values, of which a code names one (R40). -/
namespace Sys2Proof.Machine
open Sys2Proof.Safety
-- One proof at a time: proofs elaborated side by side each take a thread and its stack.
set_option Elab.async false

/-- A magnitude Y in the cell of code c: its value, or between it and the next, both among the codes up to `top`. -/
structure InCell {α : Type} [LinearOrder α] (V : ℕ → α) (top : ℕ) (Y : α) (c : ℕ) : Prop where
  le_top : c ≤ top
  lo : V c ≤ Y
  hi : V c < Y → c < top ∧ Y < V (c + 1)

theorem InCell.exact {α : Type} [LinearOrder α] {V : ℕ → α} {top c : ℕ} (h : c ≤ top) : InCell V top (V c) c :=
  ⟨h, le_rfl, fun lt => absurd lt (lt_irrefl _)⟩

/-- The codes at most c name values at most Y, and the others values at or above the upper neighbour. -/
theorem InCell.le_iff {α : Type} [LinearOrder α] {V : ℕ → α} {top c p : ℕ} {Y : α} (rises : StrictMonoOn V (Set.Iic top))
    (cell : InCell V top Y c) (hp : p ≤ top) : V p ≤ Y ↔ p ≤ c := by
  refine ⟨fun h => ?_, fun h => (rises.le_iff_le hp cell.le_top).2 h |>.trans cell.lo⟩
  by_contra above
  have strict : V c < V p := (rises.lt_iff_lt cell.le_top hp).2 (not_le.1 above)
  obtain ⟨below, next⟩ := cell.hi (strict.trans_le h)
  exact absurd h (not_le.2 (next.trans_le ((rises.le_iff_le (Nat.succ_le_of_lt below) hp).2 (not_le.1 above))))

section
variable {α : Type} [Field α] [LinearOrder α]

/-- A magnitude Y between the neighbours lo and hi goes up to hi under a mode; `odd` is the parity of lo's code (R40). Mode 5 is the one
of the upper neighbour (R43). -/
def GoesUp (mode : ℕ) (neg odd : Bool) (lo hi Y : α) : Prop :=
  lo < Y ∧ (mode = 0 → lo + hi < 2 * Y ∨ (lo + hi = 2 * Y ∧ odd = true)) ∧ mode ≠ 1 ∧ (mode = 2 → neg = false) ∧
    (mode = 3 → neg = true) ∧ (mode = 4 → lo + hi ≤ 2 * Y)

/-- Of the codes up to `top`, c names the nearest value to Y, the even one of two. -/
def NearestEven (V : ℕ → α) (top : ℕ) (Y : α) (c : ℕ) : Prop :=
  c ≤ top ∧ ∀ p ≤ top, |V c - Y| ≤ |V p - Y| ∧ (p ≠ c → |V c - Y| = |V p - Y| → c % 2 = 0)

/-- Of the codes up to `top`, c names the value that a mode chooses for the magnitude Y of a number with a sign (R40). -/
structure MagRounded (V : ℕ → α) (top mode : ℕ) (neg : Bool) (Y : α) (c : ℕ) : Prop where
  le_top : c ≤ top
  even : mode = 0 → NearestEven V top Y c
  away : mode = 4 → ∀ p ≤ top, |V c - Y| ≤ |V p - Y| ∧ (|V c - Y| = |V p - Y| → p ≤ c)
  down : mode = 1 ∨ (mode = 2 ∧ neg = true) ∨ (mode = 3 ∧ neg = false) → V c ≤ Y ∧ ∀ p ≤ top, V p ≤ Y → p ≤ c
  up : mode = 5 ∨ (mode = 2 ∧ neg = false) ∨ (mode = 3 ∧ neg = true) → Y ≤ V c ∧ ∀ p ≤ top, Y ≤ V p → c ≤ p

variable [IsStrictOrderedRing α] {V : ℕ → α} {top c : ℕ} {Y : α}

section
variable (rises : StrictMonoOn V (Set.Iic top)) (cell : InCell V top Y c)
include rises cell

theorem InCell.dist_below {p : ℕ} (h : p ≤ c) : |V c - Y| ≤ |V p - Y| ∧ (p ≠ c → |V c - Y| < |V p - Y|) := by
  have hp : p ≤ top := h.trans cell.le_top
  have le : V p ≤ V c := (rises.le_iff_le hp cell.le_top).2 h
  rw [abs_of_nonpos (sub_nonpos.2 cell.lo), abs_of_nonpos (sub_nonpos.2 (le.trans cell.lo))]
  refine ⟨by linarith, fun ne => ?_⟩
  have : V p < V c := (rises.lt_iff_lt hp cell.le_top).2 (lt_of_le_of_ne h ne)
  linarith

omit cell in
theorem dist_above (hc : c < top) (hi : Y < V (c + 1)) {p : ℕ} (hp : p ≤ top) (h : c < p) :
    |V (c + 1) - Y| ≤ |V p - Y| ∧ (p ≠ c + 1 → |V (c + 1) - Y| < |V p - Y|) := by
  have le : V (c + 1) ≤ V p := (rises.le_iff_le (Nat.succ_le_of_lt hc) hp).2 h
  rw [abs_of_pos (sub_pos.2 hi), abs_of_pos (sub_pos.2 (hi.trans_le le))]
  refine ⟨by linarith, fun ne => ?_⟩
  have : V (c + 1) < V p := (rises.lt_iff_lt (Nat.succ_le_of_lt hc) hp).2 (lt_of_le_of_ne h (Ne.symm ne))
  linarith

/-- A value that is met exactly is what every mode chooses. -/
theorem InCell.magRounded_of_eq (h : V c = Y) (mode : ℕ) (neg : Bool) : MagRounded V top mode neg Y c := by
  have far {p : ℕ} (hp : p ≤ top) : |V c - Y| ≤ |V p - Y| ∧ (|V c - Y| = |V p - Y| → p = c) := by
    rw [h, sub_self, abs_zero]
    refine ⟨abs_nonneg _, fun tie => rises.injOn hp cell.le_top ?_⟩
    rw [h, ← sub_eq_zero, ← abs_eq_zero, tie]
  exact ⟨cell.le_top, fun _ => ⟨cell.le_top, fun p hp => ⟨(far hp).1, fun ne tie => absurd ((far hp).2 tie) ne⟩⟩,
    fun _ p hp => ⟨(far hp).1, fun tie => ((far hp).2 tie).le⟩, fun _ => ⟨h.le, fun p hp le => (cell.le_iff rises hp).1 le⟩,
    fun _ => ⟨h.ge, fun p hp le => (rises.le_iff_le cell.le_top hp).1 (h.le.trans le)⟩⟩

/-- The lower neighbour is what a mode chooses that does not go up. -/
theorem InCell.magRounded_lower {mode : ℕ} {neg : Bool}
    (stays : ¬GoesUp mode neg (c % 2 == 1) (V c) (V (c + 1)) Y) : MagRounded V top mode neg Y c := by
  rcases cell.lo.eq_or_lt with h | strict
  · exact cell.magRounded_of_eq rises h mode neg
  obtain ⟨hc, hi⟩ := cell.hi strict
  have near (half : 2 * Y ≤ V c + V (c + 1)) {p : ℕ} (hp : p ≤ top) :
      |V c - Y| ≤ |V p - Y| ∧ (p ≠ c → |V c - Y| = |V p - Y| → 2 * Y = V c + V (c + 1)) := by
    rcases Nat.lt_or_ge c p with above | below
    · have next := (dist_above rises hc hi hp above).1
      rw [abs_of_pos (sub_pos.2 hi)] at next
      rw [abs_of_neg (sub_neg.2 strict)]
      exact ⟨by linarith, fun _ tie => by linarith⟩
    · exact ⟨(cell.dist_below rises below).1, fun ne tie => absurd tie ((cell.dist_below rises below).2 ne).ne⟩
  refine ⟨cell.le_top, fun h0 => ⟨cell.le_top, fun p hp => ?_⟩, fun h4 p hp => ?_, fun _ => ⟨cell.lo, fun p hp => (cell.le_iff rises hp).1⟩,
    fun hup => absurd ⟨strict, ?_⟩ stays⟩
  · subst h0
    simp only [GoesUp, strict, true_and, forall_const, not_and_or, not_or, not_lt] at stays
    simp at stays
    exact ⟨(near stays.1 hp).1, fun ne tie => stays.2.resolve_left (not_not_intro ((near stays.1 hp).2 ne tie).symm)⟩
  · subst h4
    simp only [GoesUp, strict, true_and, forall_const] at stays
    simp at stays
    refine ⟨(near stays.le hp).1, fun tie => ?_⟩
    by_contra above
    exact stays.ne ((near stays.le hp).2 (by omega) tie)
  · rcases hup with rfl | ⟨rfl, rfl⟩ | ⟨rfl, rfl⟩ <;> simp

/-- The upper neighbour is what a mode chooses that goes up. -/
theorem InCell.magRounded_upper {mode : ℕ} {neg : Bool} (goes : GoesUp mode neg (c % 2 == 1) (V c) (V (c + 1)) Y) :
    MagRounded V top mode neg Y (c + 1) := by
  obtain ⟨strict, nearest, notDown, plus, minus, away⟩ := goes
  obtain ⟨hc, hi⟩ := cell.hi strict
  have near (half : V c + V (c + 1) ≤ 2 * Y) {p : ℕ} (hp : p ≤ top) :
      |V (c + 1) - Y| ≤ |V p - Y| ∧ (p ≠ c + 1 → |V (c + 1) - Y| = |V p - Y| → p ≤ c ∧ V c + V (c + 1) = 2 * Y) := by
    rcases Nat.lt_or_ge c p with above | below
    · have next := dist_above rises hc hi hp above
      exact ⟨next.1, fun ne tie => absurd tie (next.2 ne).ne⟩
    · have lower := (cell.dist_below rises below).1
      rw [abs_of_neg (sub_neg.2 strict)] at lower
      rw [abs_of_pos (sub_pos.2 hi)]
      exact ⟨by linarith, fun _ tie => ⟨below, by linarith⟩⟩
  refine ⟨hc, fun h0 => ⟨hc, fun p hp => ?_⟩, fun h4 p hp => ?_, fun hdown => ?_, fun _ => ⟨hi.le, fun p hp le => ?_⟩⟩
  · have half : V c + V (c + 1) ≤ 2 * Y := (nearest h0).elim le_of_lt fun h => h.1.le
    refine ⟨(near half hp).1, fun ne tie => ?_⟩
    have := ((nearest h0).resolve_left (((near half hp).2 ne tie).2 ▸ lt_irrefl _)).2
    simp at this
    omega
  · refine ⟨(near (away h4) hp).1, fun tie => ?_⟩
    by_contra above
    have := ((near (away h4) hp).2 (by omega) tie).1
    omega
  · rcases hdown with rfl | ⟨rfl, hn⟩ | ⟨rfl, hn⟩
    · exact absurd rfl notDown
    · rw [plus rfl] at hn; cases hn
    · rw [minus rfl] at hn; cases hn
  · by_contra below
    exact absurd (le.trans ((rises.le_iff_le hp cell.le_top).2 (by omega))) (not_le.2 strict)

end

/-! ### With signs -/

omit [IsStrictOrderedRing α] in
theorem dist_same_sign (n : Bool) (x y : α) : |sgn n * x - sgn n * y| = |x - y| := by rw [← mul_sub, abs_sgn_mul]

section
variable (nonneg : ∀ p, 0 ≤ V p) (hY : 0 ≤ Y) (n : Bool)
include nonneg hY

/-- A number of the scale with a sign lies no nearer than its magnitude; of the opposite sign it lies as near only where both vanish. -/
theorem dist_signed (p : ℕ) (k : Bool) : |V p - Y| ≤ |sgn k * V p - sgn n * Y| ∧
    (|V p - Y| = |sgn k * V p - sgn n * Y| → sgn k * V p = sgn n * V p ∨ Y = 0) := by
  have hp := nonneg p
  have same : sgn n * V p - sgn n * Y = sgn n * (V p - Y) := by ring
  rcases eq_or_ne k n with rfl | hk
  · rw [same, abs_sgn_mul]
    exact ⟨le_rfl, fun _ => .inl rfl⟩
  · have opposite : sgn k * V p - sgn n * Y = -(sgn n * (V p + Y)) := by
      rw [(Bool.eq_not.2 hk), sgn_not]; ring
    rw [opposite, abs_neg, abs_sgn_mul, abs_of_nonneg (add_nonneg hp hY)]
    refine ⟨abs_le.2 ⟨by linarith, by linarith⟩, fun tie => ?_⟩
    rcases le_total Y (V p) with le | le
    · rw [abs_of_nonneg (sub_nonneg.2 le)] at tie
      exact .inr (by linarith)
    · rw [abs_of_nonpos (sub_nonpos.2 le)] at tie
      rw [show V p = 0 by linarith]
      exact .inl (by simp)

variable (zero : V 0 = 0)
include zero

/-- Among the numbers of the scale with either sign, the one of the nearest magnitude and the same sign is the nearest. -/
theorem NearestEven.signed (h : NearestEven V top Y c) {p : ℕ} (hp : p ≤ top) (k : Bool) :
    |sgn n * V c - sgn n * Y| ≤ |sgn k * V p - sgn n * Y| ∧
      (sgn k * V p ≠ sgn n * V c → |sgn n * V c - sgn n * Y| = |sgn k * V p - sgn n * Y| → c % 2 = 0) := by
  obtain ⟨_, near⟩ := h
  obtain ⟨least, ties⟩ := near p hp
  obtain ⟨far, equal⟩ := dist_signed nonneg hY n p k
  rw [dist_same_sign]
  refine ⟨least.trans far, fun ne tie => ?_⟩
  rcases eq_or_ne p c with rfl | hpc
  · rcases equal tie with same | hY0
    · exact absurd same ne
    · have vanishes : V p = 0 := by
        have := (near 0 (Nat.zero_le _)).1
        rw [hY0, zero, sub_zero, sub_zero, abs_zero] at this
        exact abs_eq_zero.1 (le_antisymm this (abs_nonneg _))
      exact absurd (by rw [vanishes, mul_zero, mul_zero]) ne
  · exact ties hpc (le_antisymm least (tie ▸ far))

omit n in
/-- The least magnitude not below Y is the least number not below it. -/
theorem le_signed_of_up (rises : StrictMonoOn V (Set.Iic top)) (h : Y ≤ V c ∧ ∀ p ≤ top, Y ≤ V p → c ≤ p) (hc : c ≤ top) {p : ℕ}
    (hp : p ≤ top) (k : Bool) (le : Y ≤ sgn k * V p) : V c ≤ sgn k * V p := by
  cases k with
  | false => simpa using (rises.le_iff_le hc hp).2 (h.2 p hp (by simpa using le))
  | true =>
    have := nonneg p
    simp only [sgn_true, neg_mul, one_mul] at le ⊢
    have least : V c ≤ V 0 := (rises.le_iff_le hc (Nat.zero_le _)).2 (h.2 0 (Nat.zero_le _) (by rw [zero]; linarith))
    linarith

omit hY zero n in
/-- The greatest magnitude not above Y is the greatest number not above it. -/
theorem signed_le_of_down (rises : StrictMonoOn V (Set.Iic top)) (h : V c ≤ Y ∧ ∀ p ≤ top, V p ≤ Y → p ≤ c) (hc : c ≤ top) {p : ℕ}
    (hp : p ≤ top) (k : Bool) (le : sgn k * V p ≤ Y) : sgn k * V p ≤ V c := by
  cases k with
  | false => simpa using (rises.le_iff_le hp hc).2 (h.2 p hp (by simpa using le))
  | true =>
    have := nonneg p
    have := nonneg c
    simp only [sgn_true, neg_mul, one_mul]
    linarith

/-- What a mode chooses among the numbers of the scale with either sign (R40). -/
theorem MagRounded.signed (rises : StrictMonoOn V (Set.Iic top)) {mode : ℕ} (h : MagRounded V top mode n Y c) :
    (mode = 1 → |sgn n * V c| ≤ |sgn n * Y| ∧ 0 ≤ sgn n * V c * (sgn n * Y)) ∧ (mode = 2 → sgn n * Y ≤ sgn n * V c) ∧
    (mode = 3 → sgn n * V c ≤ sgn n * Y) ∧ ∀ p ≤ top, ∀ k : Bool,
      (mode = 0 → |sgn n * V c - sgn n * Y| ≤ |sgn k * V p - sgn n * Y| ∧
        (sgn k * V p ≠ sgn n * V c → |sgn n * V c - sgn n * Y| = |sgn k * V p - sgn n * Y| → c % 2 = 0)) ∧
      (mode = 1 → |sgn k * V p| ≤ |sgn n * Y| → |sgn k * V p| ≤ |sgn n * V c|) ∧
      (mode = 2 → sgn n * Y ≤ sgn k * V p → sgn n * V c ≤ sgn k * V p) ∧
      (mode = 3 → sgn k * V p ≤ sgn n * Y → sgn k * V p ≤ sgn n * V c) ∧
      (mode = 4 → |sgn n * V c - sgn n * Y| ≤ |sgn k * V p - sgn n * Y| ∧
        (|sgn n * V c - sgn n * Y| = |sgn k * V p - sgn n * Y| → |sgn k * V p| ≤ |sgn n * V c|)) := by
  have mono {p q : ℕ} (hp : p ≤ top) (hq : q ≤ top) (le : p ≤ q) : V p ≤ V q := (rises.le_iff_le hp hq).2 le
  refine ⟨fun h1 => ?_, fun h2 => ?_, fun h3 => ?_, fun p hp k => ⟨fun h0 => (h.even h0).signed nonneg hY n zero hp k, fun h1 => ?_,
    fun h2 => ?_, fun h3 => ?_, fun h4 => ?_⟩⟩
  · obtain ⟨le, _⟩ := h.down (.inl h1)
    rw [abs_sgn_mul, abs_sgn_mul, abs_of_nonneg (nonneg c), abs_of_nonneg hY, sgn_mul_sgn_mul]
    exact ⟨le, mul_nonneg (nonneg c) hY⟩
  · cases n with
    | false => simpa using (h.up (.inr (.inl ⟨h2, rfl⟩))).1
    | true => simpa using (h.down (.inr (.inl ⟨h2, rfl⟩))).1
  · cases n with
    | false => simpa using (h.down (.inr (.inr ⟨h3, rfl⟩))).1
    | true => simpa using (h.up (.inr (.inr ⟨h3, rfl⟩))).1
  · obtain ⟨_, greatest⟩ := h.down (.inl h1)
    rw [abs_sgn_mul, abs_sgn_mul, abs_sgn_mul, abs_of_nonneg (nonneg p), abs_of_nonneg (nonneg c), abs_of_nonneg hY]
    exact fun le => mono hp h.le_top (greatest p hp le)
  · cases n with
    | false =>
      simpa using le_signed_of_up nonneg hY zero rises (h.up (.inr (.inl ⟨h2, rfl⟩))) h.le_top hp k
    | true =>
      have := signed_le_of_down nonneg rises (h.down (.inr (.inl ⟨h2, rfl⟩))) h.le_top hp (!k)
      rw [sgn_not] at this
      simpa [neg_le] using this
  · cases n with
    | false =>
      simpa using signed_le_of_down nonneg rises (h.down (.inr (.inr ⟨h3, rfl⟩))) h.le_top hp k
    | true =>
      have := le_signed_of_up nonneg hY zero rises (h.up (.inr (.inr ⟨h3, rfl⟩))) h.le_top hp (!k)
      rw [sgn_not] at this
      simpa [le_neg] using this
  · obtain ⟨least, ties⟩ := h.away h4 p hp
    obtain ⟨far, _⟩ := dist_signed nonneg hY n p k
    rw [dist_same_sign, abs_sgn_mul, abs_sgn_mul, abs_of_nonneg (nonneg p), abs_of_nonneg (nonneg c)]
    exact ⟨least.trans far, fun tie => mono hp h.le_top (ties (le_antisymm least (tie ▸ far)))⟩

end

end

end Sys2Proof.Machine
end

section
/-! Rounding to a whole number of quanta, also of a value that is known to its leading bits and a last bit for the rest (R40, R43). -/
namespace Sys2Proof.Machine
open Sys2Proof.Safety
-- One proof at a time: proofs elaborated side by side each take a thread and its stack.
set_option Elab.async false

section
variable {α : Type} [Field α] [LinearOrder α]

/-- m · 2^e stands for the magnitude Y where it is rounded to quanta of 2^q: it is Y, or it is odd and Y lies strictly between the even
neighbours, with two bits or more below the quantum. -/
def StandsFor (m : ℕ) (e : ℤ) (Y : α) (q : ℤ) : Prop :=
  m * 2 ^ e = Y ∨ (e + 2 ≤ q ∧ m % 2 = 1 ∧ ((m : α) - 1) * 2 ^ e < Y ∧ Y < (m + 1) * 2 ^ e)

variable [IsStrictOrderedRing α]

/-- An even count compares with an odd m as with every value strictly between its neighbours. -/
theorem cast_lt_iff_of_odd {m h : ℕ} {t : α} (odd : m % 2 = 1) (even : h % 2 = 0) (lo : (m : α) - 1 < t) (hi : t < m + 1) :
    ((h : α) < t ↔ h < m) ∧ (h : α) ≠ t ∧ h ≠ m := by
  have ne : h ≠ m := by rintro rfl; omega
  rcases Nat.lt_or_ge h m with lt | ge
  · have : (h : α) + 1 ≤ m := by exact_mod_cast lt
    have below : (h : α) < t := by linarith
    exact ⟨⟨fun _ => lt, fun _ => below⟩, below.ne, ne⟩
  · have : (m : α) + 1 ≤ h := by exact_mod_cast lt_of_le_of_ne ge ne.symm
    have above : t < (h : α) := by linarith
    exact ⟨⟨fun lt => absurd lt above.not_gt, fun lt => absurd lt ge.not_gt⟩, above.ne', ne⟩

/-- A count of quanta that is even where the value is not exact compares with Y as with m. -/
theorem StandsFor.compare {m : ℕ} {e q : ℤ} {Y : α} (h : StandsFor m e Y q) {k : ℕ} (even : e + 2 ≤ q → k % 2 = 0) :
    (k * 2 ^ e < Y ↔ k < m) ∧ (k * 2 ^ e = Y ↔ k = m) := by
  have pos := two_zpow_pos (α := α) e
  rcases h with rfl | ⟨hq, odd, lo, hi⟩
  · rw [mul_lt_mul_iff_left₀ pos, Nat.cast_lt, mul_left_inj' pos.ne', Nat.cast_inj]
    exact ⟨Iff.rfl, Iff.rfl⟩
  · obtain ⟨lt, ne, ne'⟩ := cast_lt_iff_of_odd odd (even hq) ((lt_div_iff₀ pos).2 lo) ((div_lt_iff₀ pos).2 hi)
    rw [lt_div_iff₀ pos] at lt
    rw [ne_eq, eq_div_iff pos.ne'] at ne
    exact ⟨lt, iff_of_false ne ne'⟩

omit [IsStrictOrderedRing α] in
/-- The model's choice to go up is the one of R40, from the remainder below the quantum. -/
theorem roundsUp_iff {mode : ℕ} {neg : Bool} {K r d : ℕ} {lo hi Y : α} (mode_le : mode ≤ 5) (zero : r = 0 ↔ ¬lo < Y)
    (half : 2 ^ (d - 1) < r ↔ lo + hi < 2 * Y) (tie : r = 2 ^ (d - 1) ↔ lo + hi = 2 * Y) :
    roundsUp mode neg K r d = true ↔ GoesUp mode neg (K % 2 == 1) lo hi Y := by
  unfold roundsUp GoesUp
  have hle : 2 ^ (d - 1) ≤ r ↔ lo + hi ≤ 2 * Y := by rw [Nat.le_iff_lt_or_eq, le_iff_lt_or_eq, half, ← tie, eq_comm]
  by_cases hr : r = 0
  · simp [hr, zero.1 hr]
  · have strict : lo < Y := by rwa [zero, not_not] at hr
    simp only [if_neg hr, strict, true_and]
    obtain rfl | rfl | rfl | rfl | rfl | rfl : mode = 0 ∨ mode = 1 ∨ mode = 2 ∨ mode = 3 ∨ mode = 4 ∨ mode = 5 := by omega
    · simp [half, tie]
    · simp
    · simp
    · simp
    · simp [hle]
    · simp

/-- Rounding to quanta gives the count of the cell that Y lies in, or the next, as the mode has it (R40). -/
theorem roundTo_spec {mode : ℕ} (mode_le : mode ≤ 5) (neg : Bool) {m : ℕ} {e q : ℤ} {Y : α} (h : StandsFor m e Y q) :
    ∃ K : ℕ, (K : α) * 2 ^ q ≤ Y ∧ Y < (K + 1) * 2 ^ q ∧ ((roundTo mode neg m e q).2 = true ↔ (K : α) * 2 ^ q ≠ Y) ∧
      ((roundTo mode neg m e q).1 = K ∧ ¬GoesUp mode neg (K % 2 == 1) ((K : α) * 2 ^ q) ((K + 1) * 2 ^ q) Y ∨
        (roundTo mode neg m e q).1 = K + 1 ∧ GoesUp mode neg (K % 2 == 1) ((K : α) * 2 ^ q) ((K + 1) * 2 ^ q) Y) := by
  unfold roundTo
  split
  case isTrue hq =>
    have exact : ((m * pow2 (e - q) : ℕ) : α) * 2 ^ q = Y := by
      rw [quanta_mul m hq]
      exact h.resolve_right (by omega)
    refine ⟨_, exact.le, ?_, iff_of_false Bool.false_ne_true (not_not_intro exact), .inl ⟨rfl, fun goes => goes.1.ne exact⟩⟩
    rw [← exact]
    exact mul_lt_mul_of_pos_right (lt_add_one _) (two_zpow_pos q)
  case isFalse hq =>
    dsimp only
    obtain ⟨d, hd⟩ : ∃ d, (q - e).toNat = d + 1 := ⟨(q - e).toNat - 1, by omega⟩
    have quantum := quantum_split (α := α) (not_le.1 hq).le
    rw [hd] at quantum ⊢
    have whole : 2 ^ (d + 1) * (m / 2 ^ (d + 1)) + m % 2 ^ (d + 1) = m := Nat.div_add_mod ..
    have small : m % 2 ^ (d + 1) < 2 ^ (d + 1) := Nat.mod_lt _ (Nat.two_pow_pos _)
    generalize m / 2 ^ (d + 1) = K at *
    generalize m % 2 ^ (d + 1) = r at *
    have twice : 2 ^ (d + 1) = 2 * 2 ^ d := by ring
    -- the ends of the cell and its middle, counted in units of 2^e
    have lo : (K : α) * 2 ^ q = ((2 ^ (d + 1) * K : ℕ) : α) * 2 ^ e := by rw [quantum]; push_cast; ring
    have hi : ((K : α) + 1) * 2 ^ q = ((2 ^ (d + 1) * (K + 1) : ℕ) : α) * 2 ^ e := by rw [quantum]; push_cast; ring
    have mid : (K : α) * 2 ^ q + (K + 1) * 2 ^ q = 2 * (((2 ^ d * (2 * K + 1) : ℕ) : α) * 2 ^ e) := by
      rw [quantum]; push_cast; ring
    have evenly (k : ℕ) : 2 ^ (d + 1) * k % 2 = 0 := by rw [twice, Nat.mul_assoc, Nat.mul_mod_right]
    obtain ⟨loLt, loEq⟩ := h.compare fun _ => evenly K
    obtain ⟨hiLt, hiEq⟩ := h.compare fun _ => evenly (K + 1)
    obtain ⟨midLt, midEq⟩ := h.compare (k := 2 ^ d * (2 * K + 1)) fun wide => by
      obtain ⟨j, rfl⟩ : ∃ j, d = j + 1 := ⟨d - 1, by omega⟩
      rw [pow_succ, Nat.mul_comm _ 2, Nat.mul_assoc, Nat.mul_mod_right]
    rw [← lo] at loLt loEq
    rw [← hi] at hiLt hiEq
    have up := roundsUp_iff (neg := neg) (K := K) (r := r) (d := d + 1) (lo := (K : α) * 2 ^ q) (hi := (K + 1) * 2 ^ q) (Y := Y) mode_le
      (by rw [loLt]; omega)
      (by rw [mid, mul_lt_mul_iff_right₀ two_pos, midLt, Nat.add_sub_cancel, Nat.mul_add, ← Nat.mul_assoc, Nat.mul_comm _ 2, ← twice]; omega)
      (by rw [mid, mul_right_inj' two_ne_zero, midEq, Nat.add_sub_cancel, Nat.mul_add, ← Nat.mul_assoc, Nat.mul_comm _ 2, ← twice]; omega)
    refine ⟨K, ?_, ?_, ?_, ?_⟩
    · rcases Nat.eq_zero_or_pos r with h0 | h0
      · exact (loEq.2 (by omega)).le
      · exact (loLt.2 (by omega)).le
    · refine lt_of_not_ge fun le => ?_
      rcases le.eq_or_lt with eq | lt
      · have := hiEq.1 eq
        rw [Nat.mul_add] at this
        omega
      · have := hiLt.1 lt
        rw [Nat.mul_add] at this
        omega
    · rw [ne_eq, loEq, bne_iff_ne]
      omega
    · by_cases goes : roundsUp mode neg K r (d + 1) = true
      · exact .inr ⟨if_pos goes, up.1 goes⟩
      · exact .inl ⟨if_neg goes, mt up.2 goes⟩

end

end Sys2Proof.Machine
end

section
/-! The scale of a binary format: magnitudes of a fraction and an exponent field, and rounding on it (R38, R40, R44). -/
namespace Sys2Proof.Machine
open Sys2Proof.Safety
-- One proof at a time: proofs elaborated side by side each take a thread and its stack.
set_option Elab.async false

/-- The magnitude that a code without its sign stands for, with fb fraction bits and a bias: a subnormal one in the quantum of the
smallest normal binade. -/
def gridVal (α : Type) [Field α] (fb bias c : ℕ) : α :=
  if c < 2 ^ fb then c * 2 ^ (1 - (bias : ℤ) - fb) else ((c % 2 ^ fb + 2 ^ fb : ℕ) : α) * 2 ^ (((c / 2 ^ fb : ℕ) : ℤ) - bias - fb)

/-- K quanta of 2^q, K at most 2^(fb+1), as a code without its sign. -/
def gridPack (fb bias K : ℕ) (q : ℤ) : ℕ :=
  if K < 2 ^ fb then K
  else if K = 2 ^ (fb + 1) then (q + 1 + fb + bias).toNat * 2 ^ fb
  else (q + fb + bias).toNat * 2 ^ fb + (K - 2 ^ fb)

theorem Fmt.pack_eq (F : Fmt) (K : ℕ) (q : ℤ) : F.pack K q = gridPack F.fb F.bias K q := rfl

/-- K quanta of 2^q are a magnitude of the scale: normal, or in the smallest quantum. -/
def OnGrid (fb bias K : ℕ) (q : ℤ) : Prop := 1 - (bias : ℤ) - fb ≤ q ∧ (2 ^ fb ≤ K ∨ q = 1 - bias - fb)

section
variable {fb bias K : ℕ} {q : ℤ}

theorem gridPack_succ (h : OnGrid fb bias K q) (hK : K < 2 ^ (fb + 1)) : gridPack fb bias (K + 1) q = gridPack fb bias K q + 1 := by
  obtain ⟨hq, normal⟩ := h
  have twice : 2 ^ (fb + 1) = 2 * 2 ^ fb := by ring
  have pos : 0 < 2 ^ fb := Nat.two_pow_pos fb
  unfold gridPack
  rcases lt_trichotomy (K + 1) (2 ^ fb) with below | first | above
  · rw [if_pos below, if_pos (by omega)]
  · rw [if_neg (by omega), if_neg (by omega), if_pos (by omega), normal.resolve_left (by omega), first,
      show (1 - (bias : ℤ) - fb + fb + bias).toNat = 1 by omega]
    omega
  · rw [if_neg (by omega), if_neg (show ¬K < 2 ^ fb by omega), if_neg (show ¬K = 2 ^ (fb + 1) by omega)]
    split
    · rw [show (q + 1 + fb + bias).toNat = (q + fb + bias).toNat + 1 by omega, Nat.add_mul]
      omega
    · omega

/-- A code has the parity of its count of quanta. -/
theorem gridPack_mod_two (hfb : 1 ≤ fb) (h : OnGrid fb bias K q) : gridPack fb bias K q % 2 = K % 2 := by
  obtain ⟨j, rfl⟩ : ∃ j, fb = j + 1 := ⟨fb - 1, by omega⟩
  have even (n : ℕ) : n * 2 ^ (j + 1) % 2 = 0 := by rw [pow_succ, ← Nat.mul_assoc, Nat.mul_mod_left]
  have even' := even 1
  unfold gridPack
  split
  · rfl
  · split
    · rename_i top
      rw [even, top, pow_succ, Nat.mul_mod_left]
    · have := even (q + (j + 1 : ℕ) + bias).toNat
      omega

/-- The code of a count of quanta below the next binade: its exponent and its fraction. -/
theorem gridPack_of_lt (h : OnGrid fb bias K q) (hK : K < 2 ^ (fb + 1)) :
    (K < 2 ^ fb ∧ gridPack fb bias K q = K ∧ q = 1 - bias - fb) ∨
      (2 ^ fb ≤ K ∧ gridPack fb bias K q / 2 ^ fb = (q + fb + bias).toNat ∧ gridPack fb bias K q % 2 ^ fb = K - 2 ^ fb ∧
        0 < (q + fb + bias).toNat) := by
  obtain ⟨hq, normal⟩ := h
  have pos : 0 < 2 ^ fb := Nat.two_pow_pos fb
  have twice : 2 ^ (fb + 1) = 2 * 2 ^ fb := by ring
  rcases Nat.lt_or_ge K (2 ^ fb) with below | above
  · exact .inl ⟨below, if_pos below, normal.resolve_left (by omega)⟩
  · have code : gridPack fb bias K q = (K - 2 ^ fb) + 2 ^ fb * (q + fb + bias).toNat := by
      rw [gridPack, if_neg (by omega), if_neg (by omega), Nat.mul_comm, Nat.add_comm]
    refine .inr ⟨above, ?_, ?_, by omega⟩
    · rw [code, Nat.add_mul_div_left _ _ pos, Nat.div_eq_of_lt (by omega), Nat.zero_add]
    · rw [code, Nat.add_mul_mod_self_left, Nat.mod_eq_of_lt (by omega)]

/-- Every code is the one of some count of quanta. -/
theorem exists_gridPack (fb bias c : ℕ) : ∃ K q, OnGrid fb bias K q ∧ K < 2 ^ (fb + 1) ∧ gridPack fb bias K q = c := by
  have pos : 0 < 2 ^ fb := Nat.two_pow_pos fb
  have twice : 2 ^ (fb + 1) = 2 * 2 ^ fb := by ring
  rcases Nat.lt_or_ge c (2 ^ fb) with below | above
  · exact ⟨c, 1 - bias - fb, ⟨le_rfl, .inr rfl⟩, by omega, if_pos below⟩
  · have fraction : c % 2 ^ fb < 2 ^ fb := Nat.mod_lt _ pos
    have exponent : 0 < c / 2 ^ fb := Nat.div_pos above pos
    have whole : 2 ^ fb * (c / 2 ^ fb) + c % 2 ^ fb = c := Nat.div_add_mod ..
    refine ⟨c % 2 ^ fb + 2 ^ fb, ((c / 2 ^ fb : ℕ) : ℤ) - bias - fb, ⟨by omega, .inl (by omega)⟩, by omega, ?_⟩
    rw [gridPack, if_neg (by omega), if_neg (by omega), show (((c / 2 ^ fb : ℕ) : ℤ) - bias - fb + fb + bias).toNat = c / 2 ^ fb by omega,
      Nat.add_sub_cancel, Nat.mul_comm, whole]

section
variable {α : Type} [Field α]

theorem gridVal_cast [CharZero α] (fb bias c : ℕ) : ((gridVal ℚ fb bias c : ℚ) : α) = gridVal α fb bias c := by
  unfold gridVal; split <;> push_cast <;> rfl

@[simp] theorem gridVal_zero (fb bias : ℕ) : gridVal α fb bias 0 = 0 := by simp [gridVal]

theorem gridVal_pack_of_lt (h : OnGrid fb bias K q) (hK : K < 2 ^ (fb + 1)) : gridVal α fb bias (gridPack fb bias K q) = K * 2 ^ q := by
  obtain ⟨below, code, hq⟩ | ⟨above, exponent, fraction, pos⟩ := gridPack_of_lt h hK
  · rw [code, gridVal, if_pos below, hq]
  · have normal : ¬gridPack fb bias K q < 2 ^ fb := fun lt => by rw [← exponent, Nat.div_eq_of_lt lt] at pos; exact pos.false
    rw [gridVal, if_neg normal, exponent, fraction, Nat.sub_add_cancel above]
    congr 2
    omega

variable [LinearOrder α] [IsStrictOrderedRing α]

/-- The smallest normal magnitude. -/
theorem gridVal_smallest (fb bias : ℕ) : gridVal α fb bias (2 ^ fb) = 2 ^ (1 - (bias : ℤ)) := by
  rw [gridVal, if_neg (lt_irrefl _), Nat.mod_self, Nat.zero_add, Nat.div_self (Nat.two_pow_pos _), Nat.cast_pow, Nat.cast_two,
    ← zpow_natCast, ← zpow_add₀ two_ne_zero]
  congr 1
  push_cast
  ring

/-- The value of a count of quanta, up to the first of the next binade. -/
theorem gridVal_pack (h : OnGrid fb bias K q) (hK : K ≤ 2 ^ (fb + 1)) : gridVal α fb bias (gridPack fb bias K q) = K * 2 ^ q := by
  rcases hK.eq_or_lt with rfl | lt
  · have first : OnGrid fb bias (2 ^ fb) (q + 1) := ⟨by have := h.1; omega, .inl le_rfl⟩
    have same : gridPack fb bias (2 ^ (fb + 1)) q = gridPack fb bias (2 ^ fb) (q + 1) := by
      have : 2 ^ (fb + 1) = 2 * 2 ^ fb := by ring
      have := Nat.two_pow_pos fb
      rw [gridPack, gridPack, if_neg (by omega), if_pos rfl, if_neg (lt_irrefl _), if_neg (by omega), Nat.sub_self, Nat.add_zero]
    rw [same, gridVal_pack_of_lt first (Nat.pow_lt_pow_right (by omega) (by omega)), zpow_add₀ two_ne_zero]
    push_cast
    ring
  · exact gridVal_pack_of_lt h lt

theorem gridVal_pack_succ (h : OnGrid fb bias K q) (hK : K < 2 ^ (fb + 1)) :
    gridVal α fb bias (gridPack fb bias K q + 1) = (K + 1) * 2 ^ q := by
  have next : OnGrid fb bias (K + 1) q := ⟨h.1, h.2.imp (by omega) id⟩
  rw [← gridPack_succ h hK, gridVal_pack next hK]
  push_cast
  ring

theorem gridVal_strictMono (fb bias : ℕ) : StrictMono (gridVal α fb bias) := by
  refine strictMono_nat_of_lt_succ fun c => ?_
  obtain ⟨K, q, on, hK, rfl⟩ := exists_gridPack fb bias c
  rw [gridVal_pack_succ on hK, gridVal_pack_of_lt on hK]
  exact mul_lt_mul_of_pos_right (lt_add_one _) (two_zpow_pos q)

theorem gridVal_nonneg (fb bias c : ℕ) : 0 ≤ gridVal α fb bias c := by
  simpa using (gridVal_strictMono (α := α) fb bias).monotone (Nat.zero_le c)

end

end

/-! ### Rounding on the scale -/

section
variable {α : Type} [Field α] [LinearOrder α]

/-- m · 2^e stands for the magnitude Y in a format of fb fraction bits: it is Y, or it has two bits more than a tie needs, of which the last
is 1 and says that more follows (R43). -/
def Jams (fb m : ℕ) (e : ℤ) (Y : α) : Prop :=
  m * 2 ^ e = Y ∨ (fb + 2 ≤ Nat.log2 m ∧ m % 2 = 1 ∧ ((m : α) - 1) * 2 ^ e < Y ∧ Y < (m + 1) * 2 ^ e)

/-- The quantum in which a magnitude of binade E is rounded: of its own binade, or of the smallest normal one. -/
def gridQuantum (fb bias : ℕ) (E : ℤ) : ℤ := (if E < 1 - (bias : ℤ) then 1 - (bias : ℤ) else E) - fb

variable [IsStrictOrderedRing α] {fb bias m : ℕ} {e : ℤ} {Y : α}

theorem Jams.binade_le (h : Jams fb m e Y) (hm : m ≠ 0) : (2 : α) ^ binade m e ≤ Y := by
  rcases h with rfl | ⟨wide, odd, lo, _⟩
  · exact Machine.binade_le hm e
  · refine le_trans ?_ lo.le
    have even : 2 ^ Nat.log2 m % 2 = 0 := by
      rw [show Nat.log2 m = (Nat.log2 m - 1) + 1 by omega, pow_succ, Nat.mul_mod_left]
    have le : 2 ^ Nat.log2 m + 1 ≤ m := by
      have := Nat.log2_self_le hm
      omega
    rw [binade, zpow_add₀ two_ne_zero, zpow_natCast]
    refine mul_le_mul_of_nonneg_right (le_sub_iff_add_le.2 ?_) (two_zpow_pos e).le
    exact_mod_cast le

theorem Jams.lt_binade (h : Jams fb m e Y) : Y < 2 ^ (binade m e + 1) := by
  rcases h with rfl | ⟨wide, odd, _, hi⟩
  · exact Machine.lt_binade m e
  · refine hi.trans_le ?_
    have le : m + 1 ≤ 2 ^ (Nat.log2 m + 1) := Nat.lt_log2_self
    rw [binade, add_right_comm, zpow_add₀ two_ne_zero, show (Nat.log2 m : ℤ) + 1 = (Nat.log2 m + 1 : ℕ) from rfl, zpow_natCast]
    refine mul_le_mul_of_nonneg_right ?_ (two_zpow_pos e).le
    exact_mod_cast le

omit [IsStrictOrderedRing α] in
theorem Jams.standsFor (h : Jams fb m e Y) {q : ℤ} (hq : binade m e - fb ≤ q) : StandsFor m e Y q :=
  h.imp_right fun ⟨wide, odd, lo, hi⟩ => ⟨by rw [binade] at hq; omega, odd, lo, hi⟩

/-- Rounded to the quantum of its binade, a magnitude of the cell of a code gives that code or the next, as the mode has it (R40). -/
theorem gridRound {mode : ℕ} (mode_le : mode ≤ 5) (neg : Bool) (hfb : 1 ≤ fb) (hm : m ≠ 0) (h : Jams fb m e Y) :
    let r := roundTo mode neg m e (gridQuantum fb bias (binade m e))
    ∃ c, gridVal α fb bias c ≤ Y ∧ Y < gridVal α fb bias (c + 1) ∧ (r.2 = true ↔ gridVal α fb bias c ≠ Y) ∧
      (gridPack fb bias r.1 (gridQuantum fb bias (binade m e)) = c ∧
          ¬GoesUp mode neg (c % 2 == 1) (gridVal α fb bias c) (gridVal α fb bias (c + 1)) Y ∨
        gridPack fb bias r.1 (gridQuantum fb bias (binade m e)) = c + 1 ∧
          GoesUp mode neg (c % 2 == 1) (gridVal α fb bias c) (gridVal α fb bias (c + 1)) Y) ∧
      OnGrid fb bias r.1 (gridQuantum fb bias (binade m e)) ∧ r.1 ≤ 2 ^ (fb + 1) := by
  intro r
  set q := gridQuantum fb bias (binade m e) with hq
  have binade_le_q : binade m e - fb ≤ q := by rw [hq, gridQuantum]; split <;> omega
  have least : 1 - (bias : ℤ) - fb ≤ q := by rw [hq, gridQuantum]; split <;> omega
  obtain ⟨K, lo, hi, inexact, result⟩ := roundTo_spec mode_le neg (h.standsFor binade_le_q)
  have pos := two_zpow_pos (α := α) q
  have below : K < 2 ^ (fb + 1) := by
    have : (K : α) * 2 ^ q < 2 ^ (fb + 1) * 2 ^ q := by
      refine (lo.trans_lt h.lt_binade).trans_le ?_
      rw [← zpow_natCast, ← zpow_add₀ two_ne_zero]
      exact zpow_le_zpow_right₀ one_le_two (by push_cast; omega)
    exact_mod_cast lt_of_mul_lt_mul_right this pos.le
  have on : OnGrid fb bias K q := by
    refine ⟨least, ?_⟩
    by_cases small : binade m e < 1 - (bias : ℤ)
    · exact .inr (by rw [hq, gridQuantum, if_pos small])
    · refine .inl (Nat.lt_succ_iff.1 ?_)
      have : (2 : α) ^ fb * 2 ^ q < (K + 1) * 2 ^ q := by
        refine lt_of_le_of_lt ?_ ((h.binade_le hm).trans_lt hi)
        rw [← zpow_natCast, ← zpow_add₀ two_ne_zero, hq, gridQuantum, if_neg small]
        exact zpow_le_zpow_right₀ one_le_two (by omega)
      exact_mod_cast lt_of_mul_lt_mul_right this pos.le
  have value := gridVal_pack_of_lt (α := α) on below
  have next := gridVal_pack_succ (α := α) on below
  have parity := gridPack_mod_two hfb on
  refine ⟨gridPack fb bias K q, ?_⟩
  rw [value, next, parity]
  refine ⟨lo, hi, inexact, ?_⟩
  rcases result with ⟨eq, stays⟩ | ⟨eq, goes⟩
  · rw [show r.1 = K from eq]
    exact ⟨.inl ⟨rfl, stays⟩, on, below.le⟩
  · rw [show r.1 = K + 1 from eq]
    exact ⟨.inr ⟨gridPack_succ on below, goes⟩, ⟨on.1, on.2.imp (by omega) id⟩, below⟩

/-- Up to the value of a code, the code that a magnitude takes in the quantum of its binade is the one that the mode chooses. -/
theorem gridRound_within {mode top : ℕ} {neg : Bool} (mode_le : mode ≤ 5) (hfb : 1 ≤ fb) (hm : m ≠ 0) (h : Jams fb m e Y)
    (hY : Y ≤ gridVal α fb bias top) {q : ℤ} (hq : gridQuantum fb bias (binade m e) = q) {r : ℕ × Bool}
    (hr : roundTo mode neg m e q = r) :
    MagRounded (gridVal α fb bias) top mode neg Y (gridPack fb bias r.1 q) ∧
      (r.2 = false ↔ gridVal α fb bias (gridPack fb bias r.1 q) = Y) ∧ OnGrid fb bias r.1 q ∧ r.1 ≤ 2 ^ (fb + 1) ∧
      (1 - (bias : ℤ) ≤ binade m e → 2 ^ fb ≤ gridPack fb bias r.1 q) := by
  have mono := gridVal_strictMono (α := α) fb bias
  have rises := mono.strictMonoOn (Set.Iic top)
  obtain ⟨c, lo, hi, inexact, result, on, kMax⟩ := gridRound (bias := bias) mode_le neg hfb hm h
  rw [hq, hr] at inexact result on kMax
  have cell : InCell (gridVal α fb bias) top Y c :=
    ⟨mono.le_iff_le.1 (lo.trans hY), lo, fun strict => ⟨mono.lt_iff_lt.1 (strict.trans_le hY), hi⟩⟩
  refine ⟨?_, ?_, on, kMax, fun normal => ?_⟩
  · rcases result with ⟨eq, stays⟩ | ⟨eq, goes⟩
    · exact eq ▸ cell.magRounded_lower rises stays
    · exact eq ▸ cell.magRounded_upper rises goes
  · rw [← Bool.not_eq_true, inexact, not_not]
    rcases result with ⟨eq, stays⟩ | ⟨eq, goes⟩
    · rw [eq]
    · rw [eq]
      exact iff_of_false goes.1.ne (cell.hi goes.1).2.ne'
  · have : 2 ^ fb < c + 1 := by
      refine mono.lt_iff_lt.1 (lt_of_le_of_lt ?_ hi)
      rw [gridVal_smallest]
      exact (zpow_le_zpow_right₀ one_le_two normal).trans (h.binade_le hm)
    rcases result with ⟨eq, _⟩ | ⟨eq, _⟩ <;> omega

end

end Sys2Proof.Machine
end

section
/-! The IEEE formats: patterns as signed codes of their scale, and what a rounding gives (R38 to R42). -/
namespace Sys2Proof.Machine
open Sys2Proof.Safety
-- One proof at a time: proofs elaborated side by side each take a thread and its stack.
set_option Elab.async false

/-- A format with a fraction and two exponent bits or more, as each of R38. -/
structure Fmt.Proper (F : Fmt) : Prop where
  fraction : 1 ≤ F.fb
  exponent : 2 ≤ F.eb

theorem fmtOf_proper (t : EType) : (fmtOf t).Proper := by cases t <;> exact ⟨by decide, by decide⟩

/-- The code of a pattern without its sign, its sign bit, and the code of the infinity, which is the first beyond the finite ones. -/
def Fmt.mag (F : Fmt) (p : ℕ) : ℕ := p % 2 ^ (F.eb + F.fb)
def Fmt.negBit (F : Fmt) (p : ℕ) : Bool := field p (F.eb + F.fb) 1 == 1
def Fmt.infCode (F : Fmt) : ℕ := (2 ^ F.eb - 1) * 2 ^ F.fb

theorem Fmt.infBits_eq (F : Fmt) (n : Bool) : F.infBits n = F.signBit n + F.infCode := rfl

section
variable (F : Fmt)

theorem Fmt.infCode_lt : F.infCode < 2 ^ (F.eb + F.fb) := by
  rw [Fmt.infCode, pow_add]
  exact Nat.mul_lt_mul_of_pos_right (by have := Nat.two_pow_pos F.eb; omega) (Nat.two_pow_pos _)

theorem Fmt.width_eq : 2 ^ F.width = 2 * 2 ^ (F.eb + F.fb) := by rw [Fmt.width, Nat.add_assoc, pow_add, pow_one]

theorem Fmt.exponentField (p : ℕ) : field p F.fb F.eb = F.mag p / 2 ^ F.fb := by
  rw [field, Fmt.mag, Nat.add_comm, pow_add, Nat.mod_mul_right_div_self]

theorem Fmt.fractionField (p : ℕ) : field p 0 F.fb = F.mag p % 2 ^ F.fb := by
  rw [field_zero, Fmt.mag, Nat.mod_mod_of_dvd _ (Nat.pow_dvd_pow 2 (Nat.le_add_left ..))]

theorem Fmt.mag_lt (p : ℕ) : F.mag p < 2 ^ (F.eb + F.fb) := Nat.mod_lt _ (Nat.two_pow_pos _)

/-- The exponent field is all ones from the infinity on. -/
theorem Fmt.exponent_eq_iff (p : ℕ) : F.mag p / 2 ^ F.fb = 2 ^ F.eb - 1 ↔ F.infCode ≤ F.mag p := by
  have pos : 0 < 2 ^ F.fb := Nat.two_pow_pos _
  have bound : F.mag p / 2 ^ F.fb < 2 ^ F.eb := by
    rw [Nat.div_lt_iff_lt_mul pos, ← pow_add]
    exact F.mag_lt p
  rw [Fmt.infCode, ← Nat.le_div_iff_mul_le pos]
  omega

/-- A pattern read without specials is its sign and its code's magnitude (R38, R44). -/
theorem Fmt.miniValue_eq (p : ℕ) :
    ∃ m e, miniValue F.eb F.fb F.bias p = .fin (F.negBit p) m e ∧ (m : ℚ) * 2 ^ e = gridVal ℚ F.fb F.bias (F.mag p) := by
  unfold miniValue
  simp only [F.exponentField, F.fractionField]
  rw [gridVal]
  by_cases sub : F.mag p < 2 ^ F.fb
  · rw [if_pos (Nat.div_eq_of_lt sub), if_pos sub]
    exact ⟨_, _, rfl, by rw [Nat.mod_eq_of_lt sub]⟩
  · rw [if_neg (by rw [Nat.div_eq_zero_iff]; simpa using sub), if_neg sub]
    exact ⟨_, _, rfl, rfl⟩

theorem Fmt.decode_eq_miniValue {p : ℕ} (h : F.mag p < F.infCode) : F.decode false p = miniValue F.eb F.fb F.bias p := by
  have finite : field p F.fb F.eb ≠ 2 ^ F.eb - 1 := by rw [F.exponentField, ne_eq, F.exponent_eq_iff]; omega
  exact if_neg finite

theorem Fmt.decode_finite {p : ℕ} (h : F.mag p < F.infCode) :
    ∃ m e, F.decode false p = .fin (F.negBit p) m e ∧ (m : ℚ) * 2 ^ e = gridVal ℚ F.fb F.bias (F.mag p) := by
  rw [F.decode_eq_miniValue h]
  exact F.miniValue_eq p

theorem Fmt.decode_special {p : ℕ} (h : F.infCode ≤ F.mag p) : (F.decode false p).isNan = true ∨ (F.decode false p).isInf = true := by
  have special := (F.exponent_eq_iff p).2 h
  unfold Fmt.decode
  simp only [F.exponentField, special, if_true]
  split
  · exact .inr rfl
  · exact .inl rfl

theorem Fmt.isFinite_iff {p : ℕ} : IsFinite F p ↔ F.mag p < F.infCode := by
  constructor
  · rintro ⟨notNan, notInf⟩
    by_contra above
    rcases F.decode_special (not_lt.1 above) with h | h
    · rw [notNan] at h; cases h
    · rw [notInf] at h; cases h
  · intro h
    obtain ⟨m, e, eq, _⟩ := F.decode_finite h
    rw [IsFinite, eq]
    exact ⟨rfl, rfl⟩

theorem Fmt.numVal_decode {p : ℕ} (h : F.mag p < F.infCode) :
    numVal (F.decode false p) = sgn (F.negBit p) * gridVal ℚ F.fb F.bias (F.mag p) := by
  obtain ⟨m, e, eq, value⟩ := F.decode_finite h
  rw [eq, numVal_fin, value]

theorem Fmt.neg_decode {p : ℕ} (h : F.mag p < F.infCode) : (F.decode false p).neg = F.negBit p := by
  obtain ⟨m, e, eq, _⟩ := F.decode_finite h
  rw [eq]; rfl

/-! ### A pattern put together of its sign and its code -/

section
variable (n : Bool) {c : ℕ} (hc : c < 2 ^ (F.eb + F.fb))
include hc

theorem Fmt.signBit_add_lt : F.signBit n + c < 2 ^ F.width := by
  rw [F.width_eq, Fmt.signBit]; split <;> omega

omit hc in
theorem Fmt.signBit_even (hfb : 1 ≤ F.fb) : F.signBit n % 2 = 0 := by
  rw [Fmt.signBit, show F.eb + F.fb = F.eb + F.fb - 1 + 1 by omega, pow_succ]
  split <;> omega

theorem Fmt.mag_signBit_add : F.mag (F.signBit n + c) = c := by
  rw [Fmt.mag, Fmt.signBit]
  split
  · rw [Nat.add_mod_left, Nat.mod_eq_of_lt hc]
  · rw [Nat.zero_add, Nat.mod_eq_of_lt hc]

theorem Fmt.negBit_signBit_add : F.negBit (F.signBit n + c) = n := by
  have pos : 0 < 2 ^ (F.eb + F.fb) := Nat.two_pow_pos _
  cases n with
  | false => simp [Fmt.negBit, Fmt.signBit, field, Nat.div_eq_of_lt hc]
  | true => simp [Fmt.negBit, Fmt.signBit, field, Nat.add_div_left c pos, Nat.div_eq_of_lt hc]

end

/-- Every pattern is put together so. -/
theorem Fmt.eq_signBit_add {p : ℕ} (hp : p < 2 ^ F.width) : p = F.signBit (F.negBit p) + F.mag p := by
  have pos : 0 < 2 ^ (F.eb + F.fb) := Nat.two_pow_pos _
  rw [F.width_eq] at hp
  have split := Nat.div_add_mod p (2 ^ (F.eb + F.fb))
  have quotient : p / 2 ^ (F.eb + F.fb) < 2 := Nat.div_lt_of_lt_mul (by rwa [Nat.mul_comm])
  rw [Fmt.negBit, field, pow_one, Nat.mod_eq_of_lt quotient, Fmt.mag, Fmt.signBit]
  generalize p / 2 ^ (F.eb + F.fb) = k at *
  obtain rfl | rfl : k = 0 ∨ k = 1 := by omega
  · simpa using split.symm
  · simpa using split.symm

end

/-! ### The ends of the scale -/

section
variable {F : Fmt} (hF : F.Proper)
include hF

theorem Fmt.Proper.bias_pos : 1 ≤ F.bias := by
  have : 2 ^ 1 ≤ 2 ^ (F.eb - 1) := Nat.pow_le_pow_right (by omega) (by have := hF.exponent; omega)
  rw [Fmt.bias]; omega

theorem Fmt.Proper.exponents : 2 ^ F.eb = 2 * (F.bias + 1) := by
  have := hF.bias_pos
  obtain ⟨j, hj⟩ : ∃ j, F.eb = j + 1 := ⟨F.eb - 1, by have := hF.exponent; omega⟩
  rw [Fmt.bias] at this ⊢
  rw [hj, Nat.add_sub_cancel] at this ⊢
  rw [pow_succ]
  omega

theorem Fmt.Proper.smallest_lt_infCode : 2 ^ F.fb < F.infCode := by
  have := hF.bias_pos
  have := hF.exponents
  rw [Fmt.infCode]
  exact lt_of_lt_of_le (by have := Nat.two_pow_pos F.fb; omega) (Nat.mul_le_mul_right (2 ^ F.fb) (show 2 ≤ 2 ^ F.eb - 1 by omega))

theorem Fmt.Proper.infCode_pos : 0 < F.infCode := (Nat.two_pow_pos _).trans hF.smallest_lt_infCode

variable {α : Type} [Field α] [LinearOrder α] [IsStrictOrderedRing α]

/-- The code beyond the finite ones continues the scale. -/
theorem Fmt.Proper.gridVal_infCode : gridVal α F.fb F.bias F.infCode = 2 ^ (F.emax + 1) := by
  have pos : 0 < 2 ^ F.fb := Nat.two_pow_pos _
  have exponents := hF.exponents
  have normal : ¬F.infCode < 2 ^ F.fb := by have := hF.smallest_lt_infCode; omega
  rw [gridVal, if_neg normal, Fmt.infCode, Nat.mul_mod_left, Nat.zero_add, Nat.mul_div_cancel _ pos, Nat.cast_pow, Nat.cast_two,
    ← zpow_natCast, ← zpow_add₀ two_ne_zero]
  congr 1
  rw [Fmt.emax]
  omega

omit hF in
theorem Fmt.rises (F : Fmt) : StrictMonoOn (gridVal α F.fb F.bias) (Set.Iic (F.infCode - 1)) :=
  (gridVal_strictMono F.fb F.bias).strictMonoOn _

theorem Fmt.Proper.maxBits_eq (n : Bool) : F.maxBits n = F.signBit n + (F.infCode - 1) := by
  have := hF.infCode_pos
  rw [Fmt.maxBits, Fmt.infBits_eq]; omega

theorem Fmt.Proper.max_lt : F.infCode - 1 < F.infCode := by have := hF.infCode_pos; omega

theorem Fmt.Proper.numVal_max : numVal (F.decode false (F.maxBits false)) = gridVal ℚ F.fb F.bias (F.infCode - 1) := by
  have below := hF.max_lt.trans F.infCode_lt
  rw [hF.maxBits_eq, F.numVal_decode (by rw [F.mag_signBit_add _ below]; exact hF.max_lt), F.mag_signBit_add _ below,
    F.negBit_signBit_add _ below, sgn_false, one_mul]

/-! ### What a rounding gives -/

variable {mode omode m : ℕ} {neg : Bool} {e : ℤ} {Y : α}

omit hF in
/-- A code is a subnormal one where its count of quanta is. -/
theorem gridPack_cases {fb bias K : ℕ} {q : ℤ} (h : OnGrid fb bias K q) :
    (K < 2 ^ fb ∧ gridPack fb bias K q = K) ∨ (2 ^ fb ≤ K ∧ 2 ^ fb ≤ gridPack fb bias K q) := by
  have exponent (j : ℕ) (hj : 1 ≤ j) : 2 ^ fb ≤ j * 2 ^ fb := Nat.le_mul_of_pos_left _ hj
  have least := h.1
  by_cases below : K < 2 ^ fb
  · exact .inl ⟨below, if_pos below⟩
  · refine .inr ⟨not_lt.1 below, ?_⟩
    rw [gridPack, if_neg below]
    split
    · exact exponent _ (by omega)
    · exact (exponent _ (by omega)).trans (Nat.le_add_right ..)

omit hF in
/-- A zero of either sign is exact. -/
theorem Fmt.roundWith_zero (F : Fmt) (mode omode : ℕ) (ftz neg : Bool) (e : ℤ) : F.roundWith mode omode ftz neg 0 e = (F.signBit neg, 0) :=
  if_pos rfl

omit hF in
/-- Below the smallest normal binade: the codes of the smallest quantum, which FTZ replaces but for zero and the first normal one. -/
theorem Fmt.roundWith_low (hm : m ≠ 0) (low : binade m e < F.emin) (top : F.emin ≤ F.emax) {r : ℕ × Bool}
    (hr : roundTo mode neg m e (F.emin - F.fb) = r) :
    ∃ b, ∀ omode ftz, F.roundWith mode omode ftz neg m e =
      if ftz && r.1 != 0 && r.1 < 2 ^ F.fb then (F.signBit neg, flUnf ||| flInx)
      else (F.signBit neg + F.pack r.1 (F.emin - F.fb), flIf r.2 (flInx ||| flIf b flUnf)) := by
  have within (c : Prop) [Decidable c] : ¬F.emax < if c then binade m e + 1 else binade m e := by split <;> omega
  refine ⟨decide ((if (roundTo mode neg m e (binade m e - F.fb)).1 = 2 ^ (F.fb + 1) then binade m e + 1 else binade m e) < F.emin),
    fun omode ftz => ?_⟩
  simp only [Fmt.roundWith, if_neg hm, if_neg (within _), if_neg (show ¬F.emin ≤ binade m e by omega), hr]

omit hF in
/-- From there on: the codes of the binade's own quantum, or an overflow where the rounded exponent passes the greatest. -/
theorem Fmt.roundWith_high (hm : m ≠ 0) (high : F.emin ≤ binade m e) (ftz : Bool) {r : ℕ × Bool}
    (hr : roundTo mode neg m e (binade m e - F.fb) = r) :
    F.roundWith mode omode ftz neg m e =
      if F.emax < (if r.1 = 2 ^ (F.fb + 1) then binade m e + 1 else binade m e) then (F.overflow omode neg, flOvf ||| flInx)
      else (F.signBit neg + F.pack r.1 (binade m e - F.fb), flIf r.2 flInx) := by
  simp only [Fmt.roundWith, if_neg hm, if_pos high, hr]

omit hF in
theorem flIf_and_inx (i b : Bool) : (flIf i (flInx ||| flIf b flUnf) &&& flInx = 0 ↔ i = false) ∧ (flIf i flInx &&& flInx = 0 ↔ i = false) := by
  cases i <;> cases b <;> decide

/-- A power of two up to the greatest finite magnitude lies in the greatest binade or below. -/
theorem Fmt.Proper.le_emax {k : ℤ} (hk : (2 : α) ^ k ≤ gridVal α F.fb F.bias (F.infCode - 1)) : k ≤ F.emax := by
  have := hk.trans_lt (gridVal_strictMono F.fb F.bias hF.max_lt)
  rw [hF.gridVal_infCode] at this
  exact Int.lt_add_one_iff.1 ((zpow_lt_zpow_iff_right₀ one_lt_two).1 this)

/-- A magnitude up to the greatest finite one becomes the code that the mode chooses, with INX where its value differs; under FTZ a result
below the smallest normal value is a zero with UNF and INX (R40 to R42). -/
theorem Fmt.Proper.roundWith_within (mode_le : mode ≤ 5) (h : Jams F.fb m e Y) (hY : Y ≤ gridVal α F.fb F.bias (F.infCode - 1)) :
    ∃ c fl, MagRounded (gridVal α F.fb F.bias) (F.infCode - 1) mode neg Y c ∧ (fl &&& flInx = 0 ↔ gridVal α F.fb F.bias c = Y) ∧
      (∀ omode, F.roundWith mode omode false neg m e = (F.signBit neg + c, fl)) ∧
      ∀ omode, F.roundWith mode omode true neg m e =
        if 0 < c ∧ c < 2 ^ F.fb then (F.signBit neg, flUnf ||| flInx) else (F.signBit neg + c, fl) := by
  by_cases hm : m = 0
  · subst hm
    have exact : gridVal α F.fb F.bias 0 = Y := by
      rcases h with eq | ⟨_, odd, _⟩
      · simpa using eq
      · cases odd
    refine ⟨0, 0, exact ▸ (InCell.exact (Nat.zero_le _)).magRounded_of_eq F.rises rfl mode neg, by simp [exact], fun _ => ?_, fun _ => ?_⟩
    · rw [Fmt.roundWith_zero]; rfl
    · rw [Fmt.roundWith_zero, if_neg (by omega)]; rfl
  by_cases low : binade m e < F.emin
  · have quantum : gridQuantum F.fb F.bias (binade m e) = F.emin - F.fb := congrArg (· - _) (if_pos low)
    obtain ⟨rounded, flag, on, _⟩ := gridRound_within (neg := neg) mode_le hF.fraction hm h hY quantum rfl
    obtain ⟨b, eq⟩ := Fmt.roundWith_low (mode := mode) (neg := neg) hm low (by have := hF.bias_pos; rw [Fmt.emin, Fmt.emax]; omega) rfl
    refine ⟨_, _, rounded, (flIf_and_inx _ b).1.trans flag, fun omode => ?_, fun omode => ?_⟩
    · rw [eq, Bool.false_and, Bool.false_and, if_neg Bool.false_ne_true, Fmt.pack_eq]
    · rw [eq, Fmt.pack_eq]
      refine if_congr ?_ rfl rfl
      have := gridPack_cases on
      simp
      omega
  · have quantum : gridQuantum F.fb F.bias (binade m e) = binade m e - F.fb := congrArg (· - _) (if_neg low)
    obtain ⟨rounded, flag, on, kMax, normal⟩ := gridRound_within (neg := neg) mode_le hF.fraction hm h hY quantum rfl
    have finite : ¬F.emax < if (roundTo mode neg m e (binade m e - F.fb)).1 = 2 ^ (F.fb + 1) then binade m e + 1 else binade m e := by
      rw [not_lt]
      split
      · rename_i carry
        have value := gridVal_pack (α := α) on kMax
        refine hF.le_emax (α := α) (le_of_eq_of_le ?_ ((gridVal_strictMono F.fb F.bias).monotone rounded.le_top))
        rw [value, carry, Nat.cast_pow, Nat.cast_two, ← zpow_natCast, ← zpow_add₀ two_ne_zero]
        congr 1
        push_cast
        ring
      · exact hF.le_emax ((h.binade_le hm).trans hY)
    have eq (omode : ℕ) (ftz : Bool) := Fmt.roundWith_high (omode := omode) (mode := mode) (neg := neg) hm (not_lt.1 low) ftz rfl
    simp only [if_neg finite, Fmt.pack_eq] at eq
    refine ⟨_, _, rounded, (flIf_and_inx _ false).2.trans flag, fun omode => eq omode false, fun omode => ?_⟩
    rw [eq, if_neg (by have := normal (not_lt.1 low); omega)]

/-- A magnitude beyond every finite one overflows (R41). -/
theorem Fmt.Proper.roundWith_beyond (h : Jams F.fb m e Y) (hY : (2 : α) ^ (F.emax + 1) ≤ Y) (ftz : Bool) :
    F.roundWith mode omode ftz neg m e = (F.overflow omode neg, flOvf ||| flInx) := by
  have above : F.emax + 1 < binade m e + 1 := (zpow_lt_zpow_iff_right₀ one_lt_two).1 (hY.trans_lt h.lt_binade)
  have hm : m ≠ 0 := by
    rintro rfl
    rcases h with eq | ⟨_, odd, _⟩
    · rw [Nat.cast_zero, zero_mul] at eq
      exact absurd (hY.trans_eq eq.symm) (not_le.2 (two_zpow_pos _))
    · cases odd
  rw [Fmt.roundWith_high hm (by have := hF.bias_pos; rw [Fmt.emin]; rw [Fmt.emax] at above; omega) ftz rfl]
  exact if_pos (by split <;> omega)

end

end Sys2Proof.Machine
end

section
/-! Lanes put together of elements, spans of registers, and the conversion instructions (R113, R115, R124 to R126). -/
namespace Sys2Proof.Machine
open Sys2Proof.Safety
-- One proof at a time: proofs elaborated side by side each take a thread and its stack.
set_option Elab.async false

/-! ### Elements put together -/

theorem field_add_high {lo w h : ℕ} (a b : ℕ) (hh : lo + w ≤ h) : field (a + b * 2 ^ h) lo w = field a lo w := by
  obtain ⟨j, rfl⟩ := Nat.exists_eq_add_of_le hh
  rw [field, field, pow_add, pow_add, Nat.mul_assoc, Nat.mul_left_comm, Nat.add_mul_div_left _ _ (Nat.two_pow_pos lo), Nat.mul_left_comm,
    Nat.add_mul_mod_self_left]

theorem field_add_here {lo w : ℕ} {a : ℕ} (b : ℕ) (ha : a < 2 ^ lo) : field (a + b * 2 ^ lo) lo w = b % 2 ^ w := by
  rw [field, Nat.mul_comm, Nat.add_mul_div_left _ _ (Nat.two_pow_pos lo), Nat.div_eq_of_lt ha, Nat.zero_add]

section
variable (w : ℕ) (f : ℕ → ℕ × Flags) (k : ℕ)

theorem joinElems_lt : (joinElems w f k).1 < 2 ^ (w * k) := by
  induction k with
  | zero => exact Nat.two_pow_pos _
  | succ k ih =>
    have elem : (f k).1 % 2 ^ w + 1 ≤ 2 ^ w := Nat.mod_lt _ (Nat.two_pow_pos w)
    calc (joinElems w f k).1 + (f k).1 % 2 ^ w * 2 ^ (w * k) < ((f k).1 % 2 ^ w + 1) * 2 ^ (w * k) := by rw [Nat.add_mul]; omega
      _ ≤ 2 ^ w * 2 ^ (w * k) := Nat.mul_le_mul_right _ elem
      _ = 2 ^ (w * (k + 1)) := by rw [← pow_add, Nat.mul_succ, Nat.add_comm]

theorem field_joinElems {j : ℕ} (hj : j < k) : field (joinElems w f k).1 (w * j) w = (f j).1 % 2 ^ w := by
  induction k with
  | zero => omega
  | succ k ih =>
    rw [joinElems]
    rcases Nat.lt_succ_iff_lt_or_eq.1 hj with before | rfl
    · rw [field_add_high _ _ (by rw [← Nat.mul_succ]; exact Nat.mul_le_mul_left w before), ih before]
    · rw [field_add_here _ (joinElems_lt w f j), Nat.mod_mod]

theorem getLsbD_joinElems (i : ℕ) : (joinElems w f k).2.getLsbD i = (List.range k).any fun j => (f j).2.getLsbD i := by
  induction k with
  | zero => simp [joinElems]
  | succ k ih => rw [joinElems, BitVec.getLsbD_or, ih, List.range_succ, List.any_append, List.any_cons, List.any_nil, Bool.or_false]

end

/-! ### Spans of registers -/

section
variable (g : Group) (first : ℕ) (m : Word) (f : ℕ → ℕ)

theorem Group.setSpan_fl (n : ℕ) : (g.setSpan first m f n).fl = g.fl := by
  induction n with
  | zero => rfl
  | succ n ih => exact ih

/-- The lanes outside the mask and the registers outside the span keep their words (R22). -/
theorem Group.lane_setSpan_frame {n i L : ℕ} (h : m.getLsbD L = false ∨ i < first ∨ first + n ≤ i) :
    (g.setSpan first m f n).lane i L = g.lane i L := by
  induction n with
  | zero => rfl
  | succ n ih =>
    rw [Group.setSpan, Group.lane_setV_frame _ _ _ (h.imp_right (by omega)), ih (h.imp_right (Or.imp_right (by omega)))]

/-- Word r of a lane of the mask is bits [32r+31:32r] of its value. -/
theorem Group.lane_setSpan {n r L : ℕ} (set : m.getLsbD L = true) (hr : r < n) (hi : first + r < 128) :
    (g.setSpan first m f n).lane (first + r) L = BitVec.ofNat 32 (f L / 2 ^ (32 * r)) := by
  induction n with
  | zero => omega
  | succ n ih =>
    rw [Group.setSpan]
    rcases Nat.lt_succ_iff_lt_or_eq.1 hr with before | rfl
    · rw [Group.lane_setV_ne _ _ _ (by omega), ih before]
    · rw [Group.lane_setV_same _ _ _ hi, if_pos set]

end

/-! ### CVT and CVT.FROM (R124, R125) -/

section
variable {s : State} {G : Guard} {d a : VReg}

/-- A conversion whose operands are ready and whose destination is a multiple of its registers (R125). -/
theorem convertOp_ok {src tgt : Elem} {k : ℕ} (wide : ℕ) (hw : wide = if src.width = 64 then 2 else 1)
    (h : OperandsReady s [s.g.vSpanE d (convRegs src tgt) false 0, s.g.vSpanE a wide false (s.g.active G)]
      [vSpan a wide false (s.g.active G)] anyType [] [s.g.guardIdx G]) (hd : d.toNat % convRegs src tgt = 0) :
    convertOp s G d a (some (src, tgt)) k = .next (s.retireWith ((s.g.setSpan d.toNat (s.g.active G)
      (fun L => (convLane src tgt s.g.round s.g.ftz (s.g.convSource src a L)).1) (convRegs src tgt)).orFlags
      (laneFlags (s.g.active G) fun L => (convLane src tgt s.g.round s.g.ftz (s.g.convSource src a L)).2))) := by
  subst hw
  obtain ⟨fits, _, sound⟩ := h
  have even := evenCheck_ok fun o ho => (fits o ho).2.2
  have multiple : (d.toNat % convRegs src tgt == 0) = true := by rw [hd]; rfl
  simp only [convertOp, step6_ok fits, sound, multiple, need_true, even]
  rfl

/-- An empty slot traps with its index (R125). -/
theorem convertOp_empty {k : ℕ} (h : ∀ o ∈ [s.g.vSpanE d 1 false 0, s.g.vSpanE a 1 false 0], OperandFits s.g o) :
    convertOp s G d a none k = .next (s.takeTrap ⟨.illegalOperand, BitVec.ofNat 64 k, 0, [], none⟩) := by
  simp only [convertOp, step6_ok h]
  rfl

end

/-! ### QUANT and DEQ (R126) -/

section
variable {s : State} {G : Guard} {d a : VReg} {slot : BitVec 3}

/-- What a write of n registers of a span leaves in the lanes of a mask, with the flags of these. -/
theorem Group.span_written (g : Group) (d : VReg) (m : Word) (f : ℕ → ℕ × Flags) (n : ℕ) :
    let rs := tab 64 fun L => if bit m L then f L else (0, 0)
    let t := (g.setSpan d.toNat m (fun L => (atD rs L (0, 0)).1) n).orFlags (laneFlags m fun L => (atD rs L (0, 0)).2)
    (∀ L < 64, m.getLsbD L = true → ∀ r < n, d.toNat + r < 128 → t.lane (d.toNat + r) L = BitVec.ofNat 32 ((f L).1 / 2 ^ (32 * r))) ∧
      (∀ i L, (m.getLsbD L = false ∨ i < d.toNat ∨ d.toNat + n ≤ i) → t.lane i L = g.lane i L) ∧
      t.fl = g.fl ||| (laneFlags m fun L => (f L).2).zeroExtend 32 := by
  intro rs t
  have entry {L : ℕ} (set : m.getLsbD L = true) : atD rs L (0, 0) = f L := by
    rw [atD_tab, if_pos (BitVec.lt_of_getLsbD set)]; exact if_pos set
  refine ⟨fun L hL set r hr hi => ?_, fun i L h => g.lane_setSpan_frame d.toNat m _ h, ?_⟩
  · rw [← entry set]
    exact g.lane_setSpan d.toNat m _ set hr hi
  · rw [← laneFlags_congr fun L set => congrArg Prod.snd (entry set)]
    exact congrArg (· ||| _) (g.setSpan_fl d.toNat m _ n)

/-- The codes and the scale of a lane (R53, R126). -/
def State.quantLane (s : State) (a : VReg) (el : Elem) (L : ℕ) : ℕ × Flags :=
  let F := fmtOf s.g.ety
  let x := s.g.spanLane a.toNat L s.g.valueSpan
  let q := quantise el ((List.range 32).map fun i => F.decode false (field x (F.width * i) F.width))
  ((joinElems el.width (fun i => (q.2.1.getD i 0, 0)) 32).1 + q.1 * 2 ^ (32 * (codeSpan (some el) - 1)), q.2.2)

/-- The values of a lane (R51, R126). -/
def State.deqLane (s : State) (a : VReg) (el : Elem) (L : ℕ) : ℕ × Flags :=
  let F := fmtOf s.g.ety
  let x := s.g.spanLane a.toNat L (codeSpan (some el))
  joinElems F.width (fun i => deqElem el F s.g.round s.g.ftz (field x (32 * (codeSpan (some el) - 1)) 8)
    (field x (el.width * i) el.width)) 32

/-- An instruction retires with n registers of a span written in the lanes of a mask, and with the flags of these (R22, R24). -/
def WritesSpan (s : State) (i : Instr) (d : VReg) (m : Word) (f : ℕ → ℕ × Flags) (n : ℕ) : Prop :=
  ∃ g : Group, exec i s = .next (s.retireWith g) ∧
    (∀ L < 64, m.getLsbD L = true → ∀ r < n, d.toNat + r < 128 → g.lane (d.toNat + r) L = BitVec.ofNat 32 ((f L).1 / 2 ^ (32 * r))) ∧
    (∀ i L, (m.getLsbD L = false ∨ i < d.toNat ∨ d.toNat + n ≤ i) → g.lane i L = s.g.lane i L) ∧
    g.fl = s.g.fl ||| (laneFlags m fun L => (f L).2).zeroExtend 32

variable {el : Elem} {named : List Opnd} (ready : OperandsReady s named named blockType [] [s.g.guardIdx G])
include ready

theorem exec_quant_empty (he : blockElem false (s.slotWord slot) = none)
    (hn : named = [vSpan d 1 false 0, vSpan a s.g.valueSpan false (s.g.active G)]) :
    exec (.quant G d a slot) s = .next (s.takeTrap ⟨.illegalOperand, slot.zeroExtend 64, 0, [], none⟩) := by
  subst hn
  obtain ⟨fits, type, sound⟩ := ready
  have address : BitVec.ofNat 64 slot.toNat = slot.zeroExtend 64 := BitVec.ofNat_toNat ..
  simp only [exec_quant, execQuant, he, codeSpan, step6_ok fits, Group.step7, type, need_true, sound, ← address]
  rfl

theorem exec_deq_empty (he : blockElem true (s.slotWord slot) = none)
    (hn : named = [vSpan d s.g.valueSpan false 0, vSpan a 1 false (s.g.active G)]) :
    exec (.deq G d a slot) s = .next (s.takeTrap ⟨.illegalOperand, slot.zeroExtend 64, 0, [], none⟩) := by
  subst hn
  obtain ⟨fits, type, sound⟩ := ready
  have address : BitVec.ofNat 64 slot.toNat = slot.zeroExtend 64 := BitVec.ofNat_toNat ..
  simp only [exec_deq, execDeq, he, codeSpan, step6_ok fits, Group.step7, type, need_true, sound, ← address]
  rfl

theorem exec_quant_ok (he : blockElem false (s.slotWord slot) = some el)
    (hn : named = [vSpan d (codeSpan (some el)) false 0, vSpan a s.g.valueSpan false (s.g.active G)]) :
    WritesSpan s (.quant G d a slot) d (s.g.active G) (s.quantLane a el) (codeSpan (some el)) := by
  subst hn
  obtain ⟨fits, type, sound⟩ := ready
  refine ⟨_, ?_, s.g.span_written d (s.g.active G) (s.quantLane a el) (codeSpan (some el))⟩
  simp only [exec_quant, execQuant, he, step6_ok fits, Group.step7, type, need_true, sound]
  rfl

theorem exec_deq_ok (he : blockElem true (s.slotWord slot) = some el)
    (hn : named = [vSpan d s.g.valueSpan false 0, vSpan a (codeSpan (some el)) false (s.g.active G)]) :
    WritesSpan s (.deq G d a slot) d (s.g.active G) (s.deqLane a el) s.g.valueSpan := by
  subst hn
  obtain ⟨fits, type, sound⟩ := ready
  refine ⟨_, ?_, s.g.span_written d (s.g.active G) (s.deqLane a el) s.g.valueSpan⟩
  simp only [exec_deq, execDeq, he, step6_ok fits, Group.step7, type, need_true, sound]
  rfl

end

end Sys2Proof.Machine
end

section
/-! Conversions into integers (R51). -/
namespace Sys2Proof.Machine
open Sys2Proof.Safety
-- One proof at a time: proofs elaborated side by side each take a thread and its stack.
set_option Elab.async false

/-- A magnitude Y rounded to a whole number k, by the mode and the sign (R40). -/
structure WholeRounded (mode : ℕ) (n : Bool) (Y : ℚ) (k : ℕ) : Prop where
  near : |(k : ℚ) - Y| < 1
  half : mode = 0 ∨ mode = 4 → |(k : ℚ) - Y| ≤ 1 / 2
  even : mode = 0 → |(k : ℚ) - Y| = 1 / 2 → k % 2 = 0
  away : mode = 4 → |(k : ℚ) - Y| = 1 / 2 → Y ≤ k
  down : mode = 1 ∨ (mode = 2 ∧ n = true) ∨ (mode = 3 ∧ n = false) → (k : ℚ) ≤ Y
  up : (mode = 2 ∧ n = false) ∨ (mode = 3 ∧ n = true) → Y ≤ k

theorem WholeRounded.lower {mode K : ℕ} {n : Bool} {Y : ℚ} (lo : (K : ℚ) ≤ Y) (hi : Y < K + 1)
    (stays : ¬GoesUp mode n (K % 2 == 1) (K : ℚ) (K + 1) Y) : WholeRounded mode n Y K := by
  rcases lo.eq_or_lt with exact | strict
  · have zero : |(K : ℚ) - Y| = 0 := by rw [exact, sub_self, abs_zero]
    exact ⟨by rw [zero]; norm_num, fun _ => by rw [zero]; norm_num, fun _ tie => by rw [zero] at tie; norm_num at tie,
      fun _ _ => exact.ge, fun _ => lo, fun _ => exact.ge⟩
  · have dist : |(K : ℚ) - Y| = Y - K := by rw [abs_of_neg (by linarith), neg_sub]
    rw [GoesUp, and_iff_right strict] at stays
    have low (h : mode = 0 ∨ mode = 4) : 2 * Y ≤ K + (K + 1) := by
      rcases h with rfl | rfl
      · simp [not_or] at stays; exact stays.1
      · simp at stays; exact stays.le
    refine ⟨by rw [dist]; linarith, fun h => ?_, fun h0 tie => ?_, fun h4 tie => ?_, fun _ => lo, fun hup => ?_⟩
    · rw [dist]; linarith [low h]
    · subst h0
      simp [not_or] at stays
      exact stays.2 (by rw [dist] at tie; linarith)
    · subst h4
      simp at stays
      rw [dist] at tie
      linarith
    · rcases hup with ⟨rfl, rfl⟩ | ⟨rfl, rfl⟩ <;> simp at stays

theorem WholeRounded.upper {mode K : ℕ} {n : Bool} {Y : ℚ} (hi : Y < K + 1)
    (goes : GoesUp mode n (K % 2 == 1) (K : ℚ) (K + 1) Y) : WholeRounded mode n Y (K + 1) := by
  obtain ⟨strict, nearest, notDown, plus, minus, away⟩ := goes
  have dist : |((K + 1 : ℕ) : ℚ) - Y| = K + 1 - Y := by push_cast; rw [abs_of_pos (by linarith)]
  refine ⟨by rw [dist]; linarith, fun h => ?_, fun h0 tie => ?_, fun _ _ => by push_cast; exact hi.le, fun hdown => ?_,
    fun _ => by push_cast; exact hi.le⟩
  · rw [dist]
    rcases h with h0 | h4
    · rcases nearest h0 with lt | ⟨eq, _⟩ <;> linarith
    · linarith [away h4]
  · rw [dist] at tie
    have odd := ((nearest h0).resolve_left (by linarith)).2
    simp at odd
    omega
  · rcases hdown with rfl | ⟨rfl, hn⟩ | ⟨rfl, hn⟩
    · exact absurd rfl notDown
    · rw [plus rfl] at hn; cases hn
    · rw [minus rfl] at hn; cases hn

theorem roundTo_whole {mode : ℕ} (mode_le : mode ≤ 5) (n : Bool) (m : ℕ) (e : ℤ) :
    WholeRounded mode n (m * 2 ^ e) (roundTo mode n m e 0).1 ∧
      ((roundTo mode n m e 0).2 = true ↔ ((roundTo mode n m e 0).1 : ℚ) ≠ m * 2 ^ e) := by
  obtain ⟨K, lo, hi, inexact, result⟩ := roundTo_spec mode_le n (q := 0) (.inl (rfl : (m : ℚ) * 2 ^ e = m * 2 ^ e))
  simp only [zpow_zero, mul_one] at lo hi inexact result
  rw [inexact]
  rcases result with ⟨eq, stays⟩ | ⟨eq, goes⟩
  · rw [eq]
    exact ⟨.lower lo hi stays, Iff.rfl⟩
  · rw [eq]
    exact ⟨.upper hi goes, iff_of_true goes.1.ne (by push_cast; exact hi.ne')⟩

/-- An integer by its sign and its magnitude. -/
def signedInt (n : Bool) (k : ℕ) : ℤ := if n then -(k : ℤ) else k

theorem signedInt_cast (n : Bool) (k : ℕ) : ((signedInt n k : ℤ) : ℚ) = sgn n * k := by cases n <;> simp [signedInt]

/-- The integer of a rounded magnitude and the sign is the one that the mode chooses (R40, R51). -/
theorem WholeRounded.signed {mode : ℕ} {n : Bool} {Y : ℚ} {k : ℕ} (h : WholeRounded mode n Y k) (hY : 0 ≤ Y) :
    RoundedInt mode (sgn n * Y) (signedInt n k) := by
  have dist : |((signedInt n k : ℤ) : ℚ) - sgn n * Y| = |(k : ℚ) - Y| := by rw [signedInt_cast, dist_same_sign]
  have parity : k % 2 = 0 → signedInt n k % 2 = 0 := by intro even; cases n <;> simp only [signedInt] <;> omega
  have hk : (0 : ℚ) ≤ k := Nat.cast_nonneg k
  have near := abs_lt.1 h.near
  rw [RoundedInt, dist, signedInt_cast, abs_sgn_mul, abs_sgn_mul, abs_of_nonneg hk, abs_of_nonneg hY, sgn_mul_sgn_mul]
  refine ⟨fun h0 => ⟨h.half (.inl h0), fun tie => parity (h.even h0 tie)⟩, fun h1 => ⟨h.down (.inl h1), h.near, mul_nonneg hk hY⟩,
    fun h2 => ?_, fun h3 => ?_, fun h4 => ⟨h.half (.inr h4), h.away h4⟩⟩
  · cases n with
    | false =>
      have := h.up (.inl ⟨h2, rfl⟩)
      constructor <;> simp <;> linarith
    | true =>
      have := h.down (.inr (.inl ⟨h2, rfl⟩))
      constructor <;> simp <;> linarith
  · cases n with
    | false =>
      have := h.down (.inr (.inr ⟨h3, rfl⟩))
      constructor <;> simp <;> linarith
    | true =>
      have := h.up (.inr ⟨h3, rfl⟩)
      constructor <;> simp <;> linarith

theorem toInteger_eq (b : Bool) (u mode : ℕ) (n : Bool) (m : ℕ) (e : ℤ) :
    toInteger b u mode (.fin n m e) =
      let c := clampInt (intLo b u) (intHi b u) (signedInt n (roundTo mode n m e 0).1)
      (intBits u c.1, if c.2 then flSat ||| flInv else flIf (roundTo mode n m e 0).2 flInx) := rfl

/-- A finite number becomes the integer that the mode chooses, clamped with SAT and INV, or with INX where it differs (R51). -/
theorem toInteger_fin {mode : ℕ} (mode_le : mode ≤ 5) (b : Bool) (u : ℕ) (n : Bool) (m : ℕ) (e : ℤ) :
    ∃ k : ℤ, RoundedInt mode (numVal (.fin n m e)) k ∧ toInteger b u mode (.fin n m e) =
      if k < intLo b u then (intBits u (intLo b u), flSat ||| flInv)
      else if intHi b u < k then (intBits u (intHi b u), flSat ||| flInv)
      else (intBits u k, if (k : ℚ) = numVal (.fin n m e) then 0 else flInx) := by
  obtain ⟨rounded, inexact⟩ := roundTo_whole mode_le n m e
  refine ⟨signedInt n (roundTo mode n m e 0).1, ?_, ?_⟩
  · rw [numVal_fin]
    exact rounded.signed (mul_nonneg (Nat.cast_nonneg m) (two_zpow_pos e).le)
  · have exact : ((signedInt n (roundTo mode n m e 0).1 : ℤ) : ℚ) = numVal (.fin n m e) ↔ (roundTo mode n m e 0).2 = false := by
      rw [numVal_fin, signedInt_cast, mul_right_inj' (sgn_ne_zero n), ← Bool.not_eq_true, inexact, not_not]
    rw [toInteger_eq]
    simp only [exact]
    generalize signedInt n (roundTo mode n m e 0).1 = k
    unfold clampInt
    split
    · rfl
    · split
      · rfl
      · cases (roundTo mode n m e 0).2 <;> rfl

end Sys2Proof.Machine
end

section
/-! Conversions into the narrow formats: the nearest finite code (R44 to R48, R51, R52). -/
namespace Sys2Proof.Machine
open Sys2Proof.Safety
-- One proof at a time: proofs elaborated side by side each take a thread and its stack.
set_option Elab.async false

/-- A code that a conversion may give: it stands for a finite number, and is not the one that the device never writes (R45). -/
def NarrowCode (T : Elem) (p : ℕ) : Prop :=
  p < 2 ^ T.width ∧ (T.value p).isNan = false ∧ (T.value p).isInf = false ∧ (T = .mx8 → p ≠ 0x80)

/-- The finite codes of a format are the magnitudes of a scale with either sign. -/
structure NarrowScale (T : Elem) (V : ℕ → ℚ) (top : ℕ) : Prop where
  rises : StrictMonoOn V (Set.Iic top)
  zero : V 0 = 0
  nonneg : ∀ c, 0 ≤ V c
  codes : ∀ p, NarrowCode T p → ∃ k, ∃ c ≤ top, numVal (T.value p) = sgn k * V c
  attains : ∃ p, NarrowCode T p ∧ numVal (T.value p) = V top

/-- A conversion gives the code nearest to a magnitude Y, with the sign, and its flags. -/
structure NarrowResult (T : Elem) (V : ℕ → ℚ) (top : ℕ) (n : Bool) (Y : ℚ) (r : ℕ × Flags) : Prop where
  ofCode : ∃ c, NearestEven V top Y c ∧ numVal (T.value r.1) = sgn n * V c ∧ r.1 % 2 = c % 2 ∧ (r.2 &&& flInx = 0 ↔ V c = Y)
  code : NarrowCode T r.1
  sat : T ≠ .mx8 → (r.2 &&& flSat ≠ 0 ↔ V top < Y)

/-- What R51 says of a conversion into a narrow format, of the value y. -/
def ConvertsTo (T : Elem) (y : ℚ) (r : ℕ × Flags) : Prop :=
  let u := fun p => numVal (T.value p)
  NarrowCode T r.1 ∧ (∀ p, NarrowCode T p → |u r.1 - y| ≤ |u p - y| ∧ (u p ≠ u r.1 → |u r.1 - y| = |u p - y| → r.1 % 2 = 0)) ∧
    (r.2 &&& flInx = 0 ↔ u r.1 = y) ∧ (T ≠ .mx8 → (r.2 &&& flSat ≠ 0 ↔ ∀ p, NarrowCode T p → |u p| < |y|)) ∧ 0 ≤ u r.1 * y

theorem NarrowResult.convertsTo {T : Elem} {V : ℕ → ℚ} {top : ℕ} {n : Bool} {Y : ℚ} {r : ℕ × Flags} (S : NarrowScale T V top)
    (hY : 0 ≤ Y) (R : NarrowResult T V top n Y r) : ConvertsTo T (sgn n * Y) r := by
  obtain ⟨c, near, value, parity, inexact⟩ := R.ofCode
  refine ⟨R.code, fun p hp => ?_, ?_, fun hT => (R.sat hT).trans ⟨fun beyond p hp => ?_, fun all => ?_⟩, ?_⟩
  · obtain ⟨k, d, hd, hv⟩ := S.codes p hp
    dsimp only
    rw [value, hv, parity]
    exact near.signed S.nonneg hY n S.zero hd k
  · dsimp only
    rw [value, inexact, mul_right_inj' (sgn_ne_zero n)]
  · obtain ⟨k, d, hd, hv⟩ := S.codes p hp
    dsimp only
    rw [hv, abs_sgn_mul, abs_sgn_mul, abs_of_nonneg (S.nonneg d), abs_of_nonneg hY]
    exact ((S.rises.le_iff_le hd (le_refl top)).2 hd).trans_lt beyond
  · obtain ⟨p, hp, hv⟩ := S.attains
    have := all p hp
    dsimp only at this
    rwa [hv, abs_sgn_mul, abs_of_nonneg (S.nonneg top), abs_of_nonneg hY] at this
  · dsimp only
    rw [value, sgn_mul_sgn_mul]
    exact mul_nonneg (S.nonneg c) hY

/-- Beyond the scale its greatest code is the nearest. -/
theorem NearestEven.top {V : ℕ → ℚ} {top : ℕ} {Y : ℚ} (rises : StrictMonoOn V (Set.Iic top)) (h : V top ≤ Y) :
    NearestEven V top Y top := by
  refine ⟨le_rfl, fun p hp => ?_⟩
  have le : V p ≤ V top := (rises.le_iff_le hp (le_refl top)).2 hp
  rw [abs_of_nonpos (sub_nonpos.2 h), abs_of_nonpos (sub_nonpos.2 (le.trans h))]
  refine ⟨by linarith, fun ne tie => absurd (rises.injOn hp (le_refl top) ?_) ne⟩
  linarith

/-- A value of the scale is nearest to itself. -/
theorem NearestEven.exact {V : ℕ → ℚ} {top c : ℕ} {Y : ℚ} (rises : StrictMonoOn V (Set.Iic top)) (hc : c ≤ top) (h : V c = Y) :
    NearestEven V top Y c := by
  subst h
  exact ((InCell.exact hc).magRounded_of_eq rises rfl 0 false).even rfl

/-! ### e4m3, e5m2 and e2m1 (R51, R52) -/

section
variable (F : Fmt) (top : ℕ) (onNan : Bool → ℕ) (onInf : Bool → ℕ × Flags) (n : Bool) (m : ℕ) (x : ℤ)

theorem toMini_zero : toMini F.eb F.fb F.bias top onNan onInf (.fin n 0 x) = (F.signBit n, 0) := by
  unfold toMini
  exact if_pos rfl

/-- A magnitude beyond the greatest code saturates, another is rounded in the quantum of its binade. -/
theorem toMini_nonzero (hm : m ≠ 0) {kt : ℕ} {et : ℤ} {k : Bool} (ht : miniValue F.eb F.fb F.bias top = .fin k kt et) {q : ℤ}
    (hq : gridQuantum F.fb F.bias (binade m x) = q) {r : ℕ × Bool} (hr : roundTo 0 n m x q = r) :
    ∃ tiny, toMini F.eb F.fb F.bias top onNan onInf (.fin n m x) =
      if Num.less false (.fin false kt et) (.fin false m x) then (F.signBit n + top, flSat ||| flInx)
      else (F.signBit n + gridPack F.fb F.bias r.1 q, flIf r.2 (flInx ||| flIf tiny flUnf)) := by
  subst hq hr
  simp only [toMini, if_neg hm, ht]
  exact ⟨_, rfl⟩

theorem satInx_flags : (flSat ||| flInx) &&& flInx ≠ 0 ∧ (flSat ||| flInx) &&& flSat ≠ 0 := by decide

theorem flIf_and_sat (i b : Bool) : flIf i (flInx ||| flIf b flUnf) &&& flSat = 0 := by cases i <;> cases b <;> decide

theorem toMini_fin (hF : 1 ≤ F.fb) (ht : top < 2 ^ (F.eb + F.fb)) :
    let r := toMini F.eb F.fb F.bias top onNan onInf (.fin n m x)
    let V := gridVal ℚ F.fb F.bias
    let Y : ℚ := m * 2 ^ x
    ∃ c, NearestEven V top Y c ∧ r.1 = F.signBit n + c ∧ (r.2 &&& flInx = 0 ↔ V c = Y) ∧ (r.2 &&& flSat ≠ 0 ↔ V top < Y) := by
  intro r V Y
  have mono : StrictMono V := gridVal_strictMono F.fb F.bias
  have rises := mono.strictMonoOn (Set.Iic top)
  by_cases hm : m = 0
  · have hY : Y = 0 := by simp [Y, hm]
    have hr : r = (F.signBit n, 0) := by simp only [r, hm, toMini_zero]
    have zero : V 0 = Y := by rw [hY]; exact gridVal_zero _ _
    rw [hr]
    refine ⟨0, .exact rises (Nat.zero_le _) zero, rfl, ?_, ?_⟩
    · simp [zero]
    · rw [hY]
      simpa using gridVal_nonneg (α := ℚ) F.fb F.bias top
  obtain ⟨kt, et, hv, value⟩ := F.miniValue_eq top
  have magTop : F.mag top = top := Nat.mod_eq_of_lt ht
  obtain ⟨tiny, hr⟩ := toMini_nonzero F top onNan onInf n m x hm hv rfl rfl
  have large : Num.less false (.fin false kt et) (.fin false m x) = true ↔ V top < Y := by
    rw [less_fin, numVal_fin, numVal_fin, value, magTop]
    simp [V, Y]
  by_cases beyond : V top < Y
  · rw [if_pos (large.2 beyond)] at hr
    rw [show r = _ from hr]
    exact ⟨top, .top rises beyond.le, rfl, iff_of_false satInx_flags.1 beyond.ne, iff_of_true satInx_flags.2 beyond⟩
  · rw [if_neg (mt large.1 beyond)] at hr
    rw [show r = _ from hr]
    obtain ⟨rounded, exact, _⟩ := gridRound_within (top := top) (neg := n) (mode := 0) (by omega) hF hm (.inl (rfl : (m : ℚ) * 2 ^ x = Y))
      (not_lt.1 beyond) rfl rfl
    exact ⟨_, rounded.even rfl, rfl, (flIf_and_inx _ tiny).1.trans exact, iff_of_false (not_not_intro (flIf_and_sat _ _)) beyond⟩

end

end Sys2Proof.Machine
end

section
/-! What each narrow format gives for a finite number: e4m3, e5m2, e2m1, c8 and MXINT8 (R44 to R48, R51). -/
namespace Sys2Proof.Machine
open Sys2Proof.Safety
-- One proof at a time: proofs elaborated side by side each take a thread and its stack.
set_option Elab.async false

/-! ### e4m3, e5m2 and e2m1 -/

/-- A narrow format with the layout F, whose finite codes are those of the magnitudes up to `top`. -/
structure MiniFormat (T : Elem) (F : Fmt) (top : ℕ) : Prop where
  width : T.width = F.width
  notMx : T ≠ .mx8
  fraction : 1 ≤ F.fb
  top_lt : top < 2 ^ (F.eb + F.fb)
  finite : ∀ p, F.mag p ≤ top → T.value p = miniValue F.eb F.fb F.bias p
  special : ∀ p, top < F.mag p → (T.value p).isNan = true ∨ (T.value p).isInf = true
  encode : ∃ onNan onInf, ∀ mode ftz v, T.encode mode ftz v = toMini F.eb F.fb F.bias top onNan onInf v

theorem miniFormat_e2m1 : MiniFormat .e2m1 ⟨2, 1⟩ 7 where
  width := rfl
  notMx := by decide
  fraction := by decide
  top_lt := by decide
  encode := ⟨_, _, fun _ _ _ => rfl⟩
  finite _ _ := rfl
  special p h := by have : p % 2 ^ 3 < 2 ^ 3 := Nat.mod_lt _ (by decide); exact absurd h (by simp only [Fmt.mag]; omega)

theorem miniFormat_e4m3 : MiniFormat .e4m3 ⟨4, 3⟩ 0x7E where
  width := rfl
  notMx := by decide
  fraction := by decide
  top_lt := by decide
  encode := ⟨_, _, fun _ _ _ => rfl⟩
  finite p h := if_neg (by simp only [Fmt.mag, field] at *; omega)
  special p h := by
    have nan : field p 0 7 = 0x7F := by simp only [Fmt.mag, field] at *; omega
    exact .inl (by simp only [Elem.value, Elem.decode, nan, if_true]; rfl)

theorem miniFormat_e5m2 : MiniFormat .e5m2 ⟨5, 2⟩ 0x7B where
  width := rfl
  notMx := by decide
  fraction := by decide
  top_lt := by decide
  encode := ⟨_, _, fun _ _ _ => rfl⟩
  finite p h := if_neg (by simp only [Fmt.mag, field] at *; omega)
  special p h := by
    have ones : field p 2 5 = 31 := by simp only [Fmt.mag, field] at *; omega
    simp only [Elem.value, Elem.decode, ones, if_true]
    split
    · exact .inr rfl
    · exact .inl rfl

section
variable {T : Elem} {F : Fmt} {top : ℕ} (M : MiniFormat T F top)
include M

theorem MiniFormat.value {p : ℕ} (h : F.mag p ≤ top) :
    ∃ m e, T.value p = .fin (F.negBit p) m e ∧ numVal (T.value p) = sgn (F.negBit p) * gridVal ℚ F.fb F.bias (F.mag p) := by
  obtain ⟨m, e, eq, value⟩ := F.miniValue_eq p
  refine ⟨m, e, (M.finite p h).trans eq, ?_⟩
  rw [M.finite p h, eq, numVal_fin, value]

theorem MiniFormat.narrowCode_iff {p : ℕ} : NarrowCode T p ↔ p < 2 ^ F.width ∧ F.mag p ≤ top := by
  rw [NarrowCode, M.width]
  refine and_congr_right fun _ => ⟨fun ⟨notNan, notInf, _⟩ => not_lt.1 fun above => ?_, fun h => ?_⟩
  · rcases M.special p above with nan | inf
    · rw [notNan] at nan; cases nan
    · rw [notInf] at inf; cases inf
  · obtain ⟨m, e, eq, _⟩ := M.value h
    rw [eq]
    exact ⟨rfl, rfl, fun mx => absurd mx M.notMx⟩

theorem MiniFormat.narrowScale : NarrowScale T (gridVal ℚ F.fb F.bias) top where
  rises := (gridVal_strictMono F.fb F.bias).strictMonoOn _
  zero := gridVal_zero _ _
  nonneg := gridVal_nonneg _ _
  codes p h := by
    have within := (M.narrowCode_iff.1 h).2
    obtain ⟨_, _, _, value⟩ := M.value within
    exact ⟨_, _, within, value⟩
  attains := by
    have mag := F.mag_signBit_add false M.top_lt
    obtain ⟨_, _, _, value⟩ := M.value (p := F.signBit false + top) mag.le
    refine ⟨_, M.narrowCode_iff.2 ⟨F.signBit_add_lt false M.top_lt, mag.le⟩, ?_⟩
    rw [value, mag, F.negBit_signBit_add false M.top_lt, sgn_false, one_mul]

theorem MiniFormat.narrowResult (mode : ℕ) (ftz n : Bool) (m : ℕ) (x : ℤ) :
    NarrowResult T (gridVal ℚ F.fb F.bias) top n (m * 2 ^ x) (T.encode mode ftz (.fin n m x)) := by
  obtain ⟨onNan, onInf, encode⟩ := M.encode
  rw [encode]
  obtain ⟨c, near, code, inexact, beyond⟩ := toMini_fin F top onNan onInf n m x M.fraction M.top_lt
  have hc : c < 2 ^ (F.eb + F.fb) := near.1.trans_lt M.top_lt
  have mag := F.mag_signBit_add n hc
  obtain ⟨_, _, _, value⟩ := M.value (p := F.signBit n + c) (mag.trans_le near.1)
  have even := F.signBit_even n M.fraction
  refine ⟨⟨c, near, ?_, by rw [code]; omega, inexact⟩, ?_, fun _ => beyond⟩
  · rw [code, value, mag, F.negBit_signBit_add n hc]
  · rw [code, M.narrowCode_iff, mag]
    exact ⟨F.signBit_add_lt n hc, near.1⟩

end

/-! ### c8 (R46 to R48) -/

/-- The magnitude of a c8 code. -/
def c8Mag (c : ℕ) : ℚ := |numVal (c8Value c)|

theorem c8Value_finite : ∀ c < 128, (c8Value c).isNan = false ∧ (c8Value c).isInf = false ∧ (c8Value c).neg = false := by decide

theorem c8Value_rises : ∀ c < 127, Num.less false (c8Value c) (c8Value (c + 1)) = true := by decide

theorem c8Value_high : ∀ c < 128, c ≠ 0 → c8Value (128 + c) = (c8Value c).negate := by decide

theorem c8Value_fin {c : ℕ} (hc : c < 128) : ∃ m e, c8Value c = .fin false m e ∧ c8Mag c = m * 2 ^ e := by
  obtain ⟨notNan, notInf, pos⟩ := c8Value_finite c hc
  obtain ⟨n, m, e, eq⟩ := exists_fin notNan notInf
  rw [eq] at pos
  cases (show n = false from pos)
  exact ⟨m, e, eq, by rw [c8Mag, eq, abs_numVal]⟩

theorem numVal_c8Value {c : ℕ} (hc : c < 128) : numVal (c8Value c) = c8Mag c := by
  obtain ⟨m, e, eq, value⟩ := c8Value_fin hc
  rw [value, eq, numVal_fin, sgn_false, one_mul]

theorem c8Mag_zero : c8Mag 0 = 0 := by
  rw [← numVal_c8Value (by decide), show c8Value 0 = .fin false 0 0 by decide, numVal_eq_zero]

theorem c8Mag_top : c8Mag 127 = 31 * 2 ^ (-3 : ℤ) := by
  rw [c8Mag, show c8Value 127 = .fin false 31 (-3) by decide, abs_numVal]
  norm_num

theorem c8Mag_rises : StrictMonoOn c8Mag (Set.Iic 127) := by
  refine strictMonoOn_of_lt_succ Set.ordConnected_Iic fun c _ _ hc => ?_
  have hc : c + 1 ≤ 127 := hc
  obtain ⟨m, e, eq, value⟩ := c8Value_fin (c := c) (by omega)
  obtain ⟨m', e', eq', value'⟩ := c8Value_fin (c := c + 1) (by omega)
  have less := c8Value_rises c (by omega)
  rw [eq, eq', less_fin] at less
  have lt := less.resolve_right fun h => Bool.false_ne_true h.2.2.1
  rw [numVal_fin, numVal_fin, ← value, ← value', sgn_false, one_mul, one_mul] at lt
  exact lt

/-- The search meets the nearest code below the one it starts from, the even one of two (R48). -/
theorem c8Search_nearest {m : ℕ} {x : ℤ} (hm : m ≠ 0) {c : ℕ} (hc : c ≤ 127) (hY : (m : ℚ) * 2 ^ x ≤ c8Mag c) :
    NearestEven c8Mag 127 (m * 2 ^ x) (c8Search m x c) := by
  induction c with
  | zero =>
    rw [c8Mag_zero] at hY
    exact absurd hY (not_le.2 (mul_pos (by exact_mod_cast Nat.pos_of_ne_zero hm) (two_zpow_pos x)))
  | succ c ih =>
    obtain ⟨mh, eh, eqh, vh⟩ := c8Value_fin (c := c + 1) (by omega)
    obtain ⟨ml, el, eql, vl⟩ := c8Value_fin (c := c) (by omega)
    set lo := if x ≤ eh then (if x ≤ el then x else el) else (if eh ≤ el then eh else el) with hlo
    have hx : lo ≤ x := by rw [hlo]; split <;> split <;> omega
    have hh : lo ≤ eh := by rw [hlo]; split <;> split <;> omega
    have hl : lo ≤ el := by rw [hlo]; split <;> split <;> omega
    have ch := quanta_mul (α := ℚ) mh hh
    have cl := quanta_mul (α := ℚ) ml hl
    have cv := quanta_mul (α := ℚ) m hx
    simp only [c8Search, eqh, eql, ← hlo]
    rw [← vh] at ch
    rw [← vl] at cl
    rw [← cv] at hY ih ⊢
    generalize mh * pow2 (eh - lo) = h at *
    generalize ml * pow2 (el - lo) = l at *
    generalize m * pow2 (x - lo) = v at *
    have pos := two_zpow_pos (α := ℚ) lo
    have count (a b : ℕ) : (a : ℚ) * 2 ^ lo ≤ b * 2 ^ lo ↔ a ≤ b := by rw [mul_le_mul_iff_left₀ pos, Nat.cast_le]
    have rises : l < h := by
      have := c8Mag_rises (show c ≤ 127 by omega) (show c + 1 ≤ 127 from hc) (Nat.lt_succ_self c)
      rw [← ch, ← cl] at this
      exact_mod_cast lt_of_mul_lt_mul_right this pos.le
    rw [← ch, count] at hY
    split
    case isFalse below =>
      refine ih (by omega) ?_
      rw [← cl, count]
      omega
    case isTrue above =>
      have goesUp_iff : GoesUp 0 false (c % 2 == 1) (c8Mag c) (c8Mag (c + 1)) (v * 2 ^ lo) ↔
          l < v ∧ (h + l < 2 * v ∨ (h + l = 2 * v ∧ c % 2 = 1)) := by
        have sum : c8Mag c + c8Mag (c + 1) = ((h + l : ℕ) : ℚ) * 2 ^ lo := by rw [← ch, ← cl]; push_cast; ring
        have twice : 2 * ((v : ℚ) * 2 ^ lo) = ((2 * v : ℕ) : ℚ) * 2 ^ lo := by push_cast; ring
        rw [GoesUp, sum, twice, ← cl, mul_lt_mul_iff_left₀ pos, mul_lt_mul_iff_left₀ pos, mul_left_inj' pos.ne', Nat.cast_lt, Nat.cast_lt,
          Nat.cast_inj]
        simp
      rcases hY.eq_or_lt with rfl | inside
      · rw [if_neg (by omega), if_pos (by omega), ch]
        exact .exact c8Mag_rises hc rfl
      · have cell : InCell c8Mag 127 (v * 2 ^ lo) c := by
          refine ⟨by omega, by rw [← cl, count]; exact above, fun _ => ⟨hc, ?_⟩⟩
          rw [← ch, mul_lt_mul_iff_left₀ pos]
          exact_mod_cast inside
        by_cases goes : GoesUp 0 false (c % 2 == 1) (c8Mag c) (c8Mag (c + 1)) (v * 2 ^ lo)
        · have up := goesUp_iff.1 goes
          rw [if_neg (by omega), show (if h + l < 2 * v then c + 1 else if c % 2 = 0 then c else c + 1) = c + 1 by split_ifs <;> omega]
          exact (cell.magRounded_upper c8Mag_rises goes).even rfl
        · have stays := mt goesUp_iff.2 goes
          rw [show (if 2 * v < h + l then c else if h + l < 2 * v then c + 1 else if c % 2 = 0 then c else c + 1) = c by
            split_ifs <;> omega]
          exact (cell.magRounded_lower c8Mag_rises goes).even rfl

/-- The code of a sign and a magnitude; zero has none. -/
def c8Code (n : Bool) (c : ℕ) : ℕ := if c = 0 then 0 else (if n then 0x80 else 0) + c

theorem numVal_c8Code (n : Bool) {c : ℕ} (hc : c < 128) : numVal (c8Value (c8Code n c)) = sgn n * c8Mag c := by
  unfold c8Code
  split
  case isTrue h => rw [h, numVal_c8Value (by decide), c8Mag_zero, mul_zero]
  case isFalse h =>
    cases n with
    | false => simp [numVal_c8Value hc]
    | true => rw [if_pos rfl, c8Value_high c hc h, numVal_negate, numVal_c8Value hc, sgn_true, neg_one_mul]

theorem c8Code_narrow : ∀ n, ∀ c < 128, c8Code n c < 256 ∧ (c8Value (c8Code n c)).isNan = false ∧ (c8Value (c8Code n c)).isInf = false ∧
    c8Code n c % 2 = c % 2 := by decide

theorem exists_c8Code {p : ℕ} (hp : p < 256) (notNan : (c8Value p).isNan = false) : ∃ n, p = c8Code n (p % 128) := by
  have notNar : p ≠ 128 := by rintro rfl; exact absurd notNan (by decide)
  by_cases low : p < 128
  · exact ⟨false, by rw [Nat.mod_eq_of_lt low, c8Code]; split <;> simp [*]⟩
  · exact ⟨true, by rw [c8Code, if_neg (by omega), if_pos rfl]; omega⟩

theorem narrowCode_c8Code (n : Bool) {c : ℕ} (hc : c < 128) : NarrowCode .c8 (c8Code n c) := by
  obtain ⟨lt, notNan, notInf, _⟩ := c8Code_narrow n c hc
  exact ⟨lt, notNan, notInf, fun mx => by cases mx⟩

theorem narrowScale_c8 : NarrowScale .c8 c8Mag 127 where
  rises := c8Mag_rises
  zero := c8Mag_zero
  nonneg _ := abs_nonneg _
  codes p h := by
    obtain ⟨n, eq⟩ := exists_c8Code h.1 h.2.1
    have mag : p % 128 < 128 := Nat.mod_lt _ (by decide)
    refine ⟨n, p % 128, by omega, ?_⟩
    rw [← numVal_c8Code n mag, ← eq]
    rfl
  attains := ⟨_, narrowCode_c8Code false (c := 127) (by decide), (numVal_c8Code false (c := 127) (by decide)).trans (one_mul _)⟩

theorem flIf_c8 (same tiny : Bool) :
    (flIf (!same) (flInx ||| flIf tiny flUnf) &&& flInx = 0 ↔ same = true) ∧ flIf (!same) (flInx ||| flIf tiny flUnf) &&& flSat = 0 := by
  cases same <;> cases tiny <;> decide

theorem toC8_nonzero {n : Bool} {m : ℕ} {x : ℤ} (hm : m ≠ 0) {c : ℕ} (hc : c8Search m x 0x7F = c) {k : ℕ} {f : ℤ}
    (hv : c8Value c = .fin false k f) : ∃ tiny, toC8 (.fin n m x) =
      if Num.less false (.fin false 31 (-3)) (.fin false m x) then (if n then 0xFF else 0x7F, flSat ||| flInx)
      else (c8Code n c, flIf (!(!(Num.less false (.fin false k f) (.fin false m x)) && !(Num.less false (.fin false m x) (.fin false k f))))
        (flInx ||| flIf tiny flUnf)) := by
  simp only [toC8, if_neg hm, hc, hv]
  exact ⟨_, rfl⟩

theorem less_pos (m k : ℕ) (e f : ℤ) : Num.less false (.fin false m e) (.fin false k f) = true ↔ (m : ℚ) * 2 ^ e < k * 2 ^ f := by
  rw [less_fin, numVal_fin, numVal_fin, sgn_false, one_mul, one_mul]
  simp

theorem narrowResult_c8 (n : Bool) (m : ℕ) (x : ℤ) : NarrowResult .c8 c8Mag 127 n (m * 2 ^ x) (toC8 (.fin n m x)) := by
  by_cases hm : m = 0
  · subst hm
    have zero : toC8 (.fin n 0 x) = (c8Code n 0, 0) := rfl
    have value := numVal_c8Code n (c := 0) (by decide)
    rw [zero, Nat.cast_zero, zero_mul]
    exact ⟨⟨0, .exact c8Mag_rises (Nat.zero_le _) c8Mag_zero, value, rfl, by simp [c8Mag_zero]⟩, narrowCode_c8Code n (c := 0) (by decide),
      fun _ => iff_of_false (not_not_intro (BitVec.zero_and)) (not_lt.2 (abs_nonneg _))⟩
  have large := less_pos 31 m (-3) x
  rw [Nat.cast_ofNat, ← c8Mag_top] at large
  by_cases beyond : c8Mag 127 < m * 2 ^ x
  · have eq : toC8 (.fin n m x) = (c8Code n 127, flSat ||| flInx) := by
      simp only [toC8, if_neg hm, if_pos (large.2 beyond)]
      cases n <;> rfl
    rw [eq]
    exact ⟨⟨127, .top c8Mag_rises beyond.le, numVal_c8Code n (c := 127) (by decide), (c8Code_narrow n 127 (by decide)).2.2.2,
      iff_of_false satInx_flags.1 beyond.ne⟩, narrowCode_c8Code n (c := 127) (by decide), fun _ => iff_of_true satInx_flags.2 beyond⟩
  · have near := c8Search_nearest hm le_rfl (not_lt.1 beyond)
    obtain ⟨c, hc⟩ : ∃ c, c8Search m x 127 = c := ⟨_, rfl⟩
    rw [hc] at near
    have lt : c < 128 := Nat.lt_succ_of_le near.1
    obtain ⟨k, f, eqc, value⟩ := c8Value_fin lt
    obtain ⟨tiny, eq⟩ := toC8_nonzero (n := n) hm hc eqc
    rw [if_neg (mt large.1 beyond)] at eq
    obtain ⟨inexact, unsaturated⟩ := flIf_c8
      (!(Num.less false (.fin false k f) (.fin false m x)) && !(Num.less false (.fin false m x) (.fin false k f))) tiny
    have same : (!(Num.less false (.fin false k f) (.fin false m x)) && !(Num.less false (.fin false m x) (.fin false k f))) = true ↔
        c8Mag c = m * 2 ^ x := by
      rw [Bool.and_eq_true, Bool.not_eq_true', Bool.not_eq_true', ← Bool.not_eq_true, ← Bool.not_eq_true, less_pos, less_pos, value, not_lt,
        not_lt, le_antisymm_iff, and_comm]
    rw [eq]
    exact ⟨⟨c, near, numVal_c8Code n lt, (c8Code_narrow n c lt).2.2.2, inexact.trans same⟩, narrowCode_c8Code n lt,
      fun _ => iff_of_false (not_not_intro unsaturated) beyond⟩

/-! ### MXINT8 (R45) -/

/-- The magnitude of an MXINT8 element. -/
def mx8Mag (c : ℕ) : ℚ := c * 2 ^ (-6 : ℤ)

theorem mx8Mag_strictMono : StrictMono mx8Mag := fun _ _ h => mul_lt_mul_of_pos_right (Nat.cast_lt.2 h) (two_zpow_pos _)

theorem numVal_mx8 (p : ℕ) : numVal (Elem.mx8.value p) = readInt true 8 p * 2 ^ (-6 : ℤ) := by
  rw [← numVal_numOfInt, ← numVal_scale]
  rfl

theorem readInt_intBits_byte : ∀ n, ∀ k ≤ 127,
    readInt true 8 (intBits 8 (signedInt n k)) = signedInt n k ∧ intBits 8 (signedInt n k) < 256 ∧ intBits 8 (signedInt n k) ≠ 0x80 ∧
      intBits 8 (signedInt n k) % 2 = k % 2 := by decide

theorem exists_signedInt (i : ℤ) : ∃ n, i = signedInt n i.natAbs := by
  rcases lt_or_ge i 0 with h | h
  · exact ⟨true, by simp only [signedInt, if_true]; omega⟩
  · exact ⟨false, by simp only [signedInt, Bool.false_eq_true, if_false]; omega⟩

theorem readInt_byte_le {p : ℕ} (hp : p < 256) (ne : p ≠ 0x80) : (readInt true 8 p).natAbs ≤ 127 := by
  have top : (field p 7 1 == 1) = decide (128 ≤ p) := by
    rw [Bool.eq_iff_iff, beq_iff_eq, decide_eq_true_iff, field]; omega
  rw [readInt, top, field, Bool.true_and]
  split <;> simp only [decide_eq_true_iff] at * <;> omega

theorem numVal_mx8_signed (n : Bool) {k : ℕ} (hk : k ≤ 127) : numVal (Elem.mx8.value (intBits 8 (signedInt n k))) = sgn n * mx8Mag k := by
  rw [numVal_mx8, (readInt_intBits_byte n k hk).1, signedInt_cast, mx8Mag, mul_assoc]

theorem narrowCode_mx8 (n : Bool) {k : ℕ} (hk : k ≤ 127) : NarrowCode .mx8 (intBits 8 (signedInt n k)) := by
  obtain ⟨_, lt, ne, _⟩ := readInt_intBits_byte n k hk
  exact ⟨lt, rfl, rfl, fun _ => ne⟩

theorem narrowScale_mx8 : NarrowScale .mx8 mx8Mag 127 where
  rises := mx8Mag_strictMono.strictMonoOn _
  zero := by simp [mx8Mag]
  nonneg c := mul_nonneg (Nat.cast_nonneg c) (two_zpow_pos _).le
  codes p h := by
    obtain ⟨lt, _, _, ne⟩ := h
    obtain ⟨n, eq⟩ := exists_signedInt (readInt true 8 p)
    refine ⟨n, _, readInt_byte_le lt (ne rfl), ?_⟩
    rw [numVal_mx8, eq, signedInt_cast, mul_assoc, mx8Mag, ← eq]
  attains := ⟨_, narrowCode_mx8 false (k := 127) le_rfl, (numVal_mx8_signed false (k := 127) le_rfl).trans (one_mul _)⟩

/-- A magnitude rounded to a whole number is as near to no other (R40). -/
theorem WholeRounded.nearest {n : Bool} {Z : ℚ} {k : ℕ} (h : WholeRounded 0 n Z k) (p : ℕ) :
    |(k : ℚ) - Z| ≤ |(p : ℚ) - Z| ∧ (p ≠ k → |(k : ℚ) - Z| = |(p : ℚ) - Z| → k % 2 = 0) := by
  have half := h.half (.inl rfl)
  rcases eq_or_ne p k with rfl | ne
  · exact ⟨le_rfl, fun ne => absurd rfl ne⟩
  · have apart : (1 : ℚ) ≤ |(p : ℚ) - k| := by
      have : (1 : ℤ) ≤ |(p : ℤ) - k| := Int.one_le_abs (by omega)
      exact_mod_cast this
    have triangle := abs_sub_le (p : ℚ) Z k
    rw [abs_sub_comm Z] at triangle
    have far : 1 / 2 ≤ |(p : ℚ) - Z| := by linarith
    exact ⟨half.trans far, fun _ tie => h.even rfl (le_antisymm half (tie ▸ far))⟩

theorem WholeRounded.nearestEven {n : Bool} {Y : ℚ} {k : ℕ} (h : WholeRounded 0 n (Y * 2 ^ (6 : ℤ)) k) (hk : k ≤ 127) :
    NearestEven mx8Mag 127 Y k := by
  have unit := two_zpow_pos (α := ℚ) (-6)
  have dist (p : ℕ) : |mx8Mag p - Y| = |(p : ℚ) - Y * 2 ^ (6 : ℤ)| * 2 ^ (-6 : ℤ) := by
    have : mx8Mag p - Y = ((p : ℚ) - Y * 2 ^ (6 : ℤ)) * 2 ^ (-6 : ℤ) := by
      rw [sub_mul, mul_assoc Y, ← zpow_add₀ two_ne_zero, mx8Mag]
      simp
    rw [this, abs_mul, abs_of_pos unit]
  refine ⟨hk, fun p _ => ?_⟩
  rw [dist, dist, mul_le_mul_iff_left₀ unit, mul_left_inj' unit.ne']
  exact h.nearest p

theorem narrowResult_mx8 (n : Bool) (m : ℕ) (x : ℤ) : NarrowResult .mx8 mx8Mag 127 n (m * 2 ^ x) (toMx8 (.fin n m x)) := by
  obtain ⟨rounded, inexact⟩ := roundTo_whole (mode := 0) (by decide) n m (x + 6)
  have units : (m : ℚ) * 2 ^ (x + 6) = m * 2 ^ x * 2 ^ (6 : ℤ) := by rw [zpow_add₀ two_ne_zero, mul_assoc]
  rw [units] at rounded inexact
  have eq : toMx8 (.fin n m x) = if 127 < (roundTo 0 n m (x + 6) 0).1 then (intBits 8 (signedInt n 127), flSat ||| flInx)
      else (intBits 8 (signedInt n (roundTo 0 n m (x + 6) 0).1), flIf (roundTo 0 n m (x + 6) 0).2 flInx) := by
    cases n <;> rfl
  rw [eq]
  generalize roundTo 0 n m (x + 6) 0 = r at *
  obtain ⟨k, i⟩ := r
  have value (c : ℕ) : mx8Mag c * 2 ^ (6 : ℤ) = c := by rw [mx8Mag, mul_assoc, ← zpow_add₀ two_ne_zero]; simp
  have sixtyFour := two_zpow_pos (α := ℚ) 6
  split
  case isTrue beyond =>
    have beyond : 127 < k := beyond
    have above : mx8Mag 127 < m * 2 ^ x := by
      have near := (abs_le.1 (rounded.half (.inl rfl))).2
      have : (128 : ℚ) ≤ k := by exact_mod_cast beyond
      rw [← mul_lt_mul_iff_left₀ sixtyFour, value]
      push_cast
      dsimp only at near
      linarith
    exact ⟨⟨127, .top narrowScale_mx8.rises above.le, numVal_mx8_signed n le_rfl, (readInt_intBits_byte n 127 le_rfl).2.2.2,
      iff_of_false satInx_flags.1 above.ne⟩, narrowCode_mx8 n le_rfl, fun ne => absurd rfl ne⟩
  case isFalse within =>
    have within : k ≤ 127 := not_lt.1 within
    have exact : flIf i flInx &&& flInx = 0 ↔ i = false := by cases i <;> decide
    refine ⟨⟨k, rounded.nearestEven within, numVal_mx8_signed n within, (readInt_intBits_byte n k within).2.2.2, exact.trans ?_⟩,
      narrowCode_mx8 n within, fun ne => absurd rfl ne⟩
    rw [← Bool.not_eq_true, inexact, not_not, ← value k, mul_left_inj' sixtyFour.ne']

/-! ### Every narrow format -/

/-- The formats of R44 to R48. -/
def IsNarrow (T : Elem) : Prop := T = .e2m1 ∨ T = .e4m3 ∨ T = .e5m2 ∨ T = .c8 ∨ T = .mx8

/-- A finite number becomes the nearest finite code (R51). -/
theorem encode_convertsTo {T : Elem} (h : IsNarrow T) (mode : ℕ) (ftz : Bool) (n : Bool) (m : ℕ) (e : ℤ) :
    ConvertsTo T (numVal (.fin n m e)) (T.encode mode ftz (.fin n m e)) := by
  have nonneg : (0 : ℚ) ≤ m * 2 ^ e := mul_nonneg (Nat.cast_nonneg m) (two_zpow_pos e).le
  rw [numVal_fin]
  rcases h with rfl | rfl | rfl | rfl | rfl
  · exact (miniFormat_e2m1.narrowResult mode ftz n m e).convertsTo miniFormat_e2m1.narrowScale nonneg
  · exact (miniFormat_e4m3.narrowResult mode ftz n m e).convertsTo miniFormat_e4m3.narrowScale nonneg
  · exact (miniFormat_e5m2.narrowResult mode ftz n m e).convertsTo miniFormat_e5m2.narrowScale nonneg
  · exact (narrowResult_c8 n m e).convertsTo narrowScale_c8 nonneg
  · exact (narrowResult_mx8 n m e).convertsTo narrowScale_mx8 nonneg

end Sys2Proof.Machine
end

section
/-! One element converted (R51, R124). -/
namespace Sys2Proof.Machine
open Sys2Proof.Safety
-- One proof at a time: proofs elaborated side by side each take a thread and its stack.
set_option Elab.async false

section
variable {src tgt : Elem} {mode : ℕ} {ftz : Bool} {x : ℕ}

theorem convert_self (src : Elem) (mode : ℕ) (ftz : Bool) (x : ℕ) : convert src src mode ftz x = (x, 0) := if_pos rfl

/-- Between integers the value is clamped, with SAT. -/
theorem convert_int_int {a b : Bool} {w u : ℕ} (ne : Elem.int a w ≠ .int b u) :
    convert (.int a w) (.int b u) mode ftz x =
      if readInt a w x < intLo b u then (intBits u (intLo b u), flSat)
      else if intHi b u < readInt a w x then (intBits u (intHi b u), flSat) else (intBits u (readInt a w x), 0) := by
  unfold convert
  rw [if_neg ne]
  unfold clampInt
  dsimp only
  split
  · rfl
  · split
    · rfl
    · rfl

/-- Into a float the value is read under FTZ and rounded. -/
theorem convert_ieee {F : Fmt} (ne : src ≠ .ieee F) : convert src (.ieee F) mode ftz x = F.encode mode ftz (src.decode ftz x) := by
  unfold convert
  rw [if_neg ne]
  cases src <;> rfl

/-- Into another format than a float the value is read exactly. -/
theorem convert_exact (ne : src ≠ tgt) (notFloat : ∀ F, tgt ≠ .ieee F) (notInts : ∀ a w b u, src = .int a w → tgt ≠ .int b u) :
    convert src tgt mode ftz x = tgt.encode mode false (src.decode false x) := by
  unfold convert
  rw [if_neg ne]
  cases tgt with
  | int b u =>
    cases src with
    | int a w => exact absurd rfl (notInts a w b u rfl)
    | _ => rfl
  | ieee F => exact absurd rfl (notFloat F)
  | _ => cases src <;> rfl

/-- From a float or a narrow format into an integer (R51). -/
theorem convert_integer {b : Bool} {u : ℕ} (notInt : ∀ a w, src ≠ .int a w) :
    convert src (.int b u) mode ftz x = toInteger b u mode (src.decode false x) :=
  convert_exact (notInt b u) (fun _ h => by cases h) fun a w _ _ h => absurd h (notInt a w)

theorem convert_narrow (narrow : IsNarrow tgt) (ne : src ≠ tgt) (notNan : (src.decode false x).isNan = false)
    (notInf : (src.decode false x).isInf = false) : ConvertsTo tgt (numVal (src.decode false x)) (convert src tgt mode ftz x) := by
  obtain ⟨n, m, e, eq⟩ := exists_fin notNan notInf
  rw [convert_exact ne (by rintro F rfl; simp [IsNarrow] at narrow) (by rintro a w b u - rfl; simp [IsNarrow] at narrow), eq]
  exact encode_convertsTo narrow mode false n m e

theorem convert_finite_integer {b : Bool} {u : ℕ} (mode_lt : mode < 5) (notInt : ∀ a w, src ≠ .int a w)
    (notNan : (src.decode false x).isNan = false) (notInf : (src.decode false x).isInf = false) :
    ∃ k : ℤ, RoundedInt mode (numVal (src.decode false x)) k ∧ convert src (.int b u) mode ftz x =
      if k < intLo b u then (intBits u (intLo b u), flSat ||| flInv)
      else if intHi b u < k then (intBits u (intHi b u), flSat ||| flInv)
      else (intBits u k, if (k : ℚ) = numVal (src.decode false x) then 0 else flInx) := by
  obtain ⟨n, m, e, eq⟩ := exists_fin notNan notInf
  rw [convert_integer notInt, eq]
  exact toInteger_fin (by omega) b u n m e

end

/-! ### One element of a block (R51, R126) -/

section
variable (el : Elem) (F : Fmt) (mode : ℕ) (ftz : Bool) (scale code : ℕ)

theorem deqElem_nan (h : scale = 255 ∨ (el.value code).isNan = true) : deqElem el F mode ftz scale code = (F.nanBits, flScaleNan) := by
  refine if_pos ?_
  rcases h with h | h
  · rw [h]; rfl
  · rw [h, Bool.or_true]

variable (hs : scale ≠ 255)
include hs

theorem deqElem_eq (notNan : (el.value code).isNan = false) :
    deqElem el F mode ftz scale code = F.encode mode ftz ((el.value code).scale ((scale : ℤ) - 127)) :=
  if_neg (by rw [notNan]; simp [hs])

theorem deqElem_inf {n : Bool} (h : el.value code = .inf n) : deqElem el F mode ftz scale code = (F.infBits n, 0) := by
  rw [deqElem_eq el F mode ftz scale code hs (by rw [h]; rfl), h]
  rfl

/-- The exact product of the value and the scale is rounded once. -/
theorem deqElem_finite (notNan : (el.value code).isNan = false) (notInf : (el.value code).isInf = false) :
    ∃ n m e, deqElem el F mode ftz scale code = F.round mode ftz n m e ∧ n = (el.value code).neg ∧
      numVal (.fin n m e) = numVal (el.value code) * (2 : ℚ) ^ ((scale : ℤ) - 127) := by
  obtain ⟨n, m, e, eq⟩ := exists_fin notNan notInf
  refine ⟨n, m, e + ((scale : ℤ) - 127), ?_, by rw [eq]; rfl, ?_⟩
  · rw [deqElem_eq el F mode ftz scale code hs notNan, eq]
    rfl
  · rw [← numVal_scale, eq]
    rfl

end

/-! ### One lane (R125) -/

/-- A lane converted holds each converted element, and all flags of these. -/
theorem convLane_spec (src tgt : Elem) (mode : ℕ) (ftz : Bool) (x : ℕ) :
    let lane := convLane src tgt mode ftz x
    let each := fun (j : ℕ) => convert src tgt mode ftz (field x (src.width * j) src.width)
    lane.1 < 2 ^ (tgt.width * convCount src) ∧
      (∀ j < convCount src, field lane.1 (tgt.width * j) tgt.width = (each j).1 % 2 ^ tgt.width) ∧
      ∀ k, lane.2.getLsbD k = (List.range (convCount src)).any fun j => (each j).2.getLsbD k :=
  ⟨joinElems_lt _ _ _, fun _ hj => field_joinElems _ _ _ hj, fun _ => getLsbD_joinElems _ _ _ _⟩

end Sys2Proof.Machine
end

section
/-! The quantiser: the exact error of a block at a scale, and the scale of least error (R53, R54). -/
namespace Sys2Proof.Machine
open Sys2Proof.Safety
-- One proof at a time: proofs elaborated side by side each take a thread and its stack.
set_option Elab.async false

/-! ### Exact dyadic numbers -/

/-- The value of a dyadic number. -/
def Dyadic.val (a : Dyadic) : ℚ := a.m * 2 ^ a.e

theorem int_quanta_mul (m : ℤ) {e q : ℤ} (h : q ≤ e) : ((m * pow2 (e - q) : ℤ) : ℚ) * 2 ^ q = m * 2 ^ e := by
  have unit := quanta_mul (α := ℚ) 1 h
  rw [Nat.one_mul, Nat.cast_one, one_mul] at unit
  rw [← unit]
  push_cast
  ring

theorem Dyadic.val_add (a b : Dyadic) : (a.add b).val = a.val + b.val := by
  have ha : (if a.e ≤ b.e then a.e else b.e) ≤ a.e := by split <;> omega
  have hb : (if a.e ≤ b.e then a.e else b.e) ≤ b.e := by split <;> omega
  simp only [Dyadic.val, Dyadic.add]
  rw [← int_quanta_mul a.m ha, ← int_quanta_mul b.m hb, ← add_mul]
  push_cast
  rfl

theorem Dyadic.val_square (a : Dyadic) : a.square.val = a.val ^ 2 := by
  simp only [Dyadic.val, Dyadic.square]
  rw [mul_pow, ← zpow_natCast ((2 : ℚ) ^ a.e), ← zpow_mul, mul_comm a.e, Int.cast_mul, sq]
  rfl

theorem Dyadic.lt_iff (a b : Dyadic) : a.lt b = true ↔ a.val < b.val := by
  have ha : (if a.e ≤ b.e then a.e else b.e) ≤ a.e := by split <;> omega
  have hb : (if a.e ≤ b.e then a.e else b.e) ≤ b.e := by split <;> omega
  rw [Dyadic.val, Dyadic.val, ← int_quanta_mul a.m ha, ← int_quanta_mul b.m hb, mul_lt_mul_iff_left₀ (two_zpow_pos _), Int.cast_lt]
  exact decide_eq_true_iff

theorem Num.val_dyadic (x : Num) : x.dyadic.val = numVal x := by
  obtain _ | _ | ⟨n, m, e⟩ := x
  · simp [Num.dyadic, Dyadic.val, numVal]
  · simp [Num.dyadic, Dyadic.val, numVal]
  · cases n <;> simp [Num.dyadic, Dyadic.val, numVal_fin]

/-! ### A block at a scale -/

/-- The codes and flags of a block at a scale, and its exact error. -/
def quantCodes (T : Elem) (s : ℤ) (xs : List Num) : List (ℕ × Flags) := xs.map fun x => T.encode 0 false (x.scale (-s))

def quantErr (T : Elem) (xs : List Num) (s : ℤ) : ℚ :=
  ((xs.zip (quantCodes T s xs)).map fun p => (numVal p.1 - numVal (T.value p.2.1) * (2 : ℚ) ^ s) ^ 2).sum

section
variable (T : Elem) (s : ℤ) (xs : List Num)

theorem quantAt_codes : (quantAt T s xs).1 = (quantCodes T s xs).map (·.1) := rfl

theorem quantAt_flags : (quantAt T s xs).2.1 = ((quantCodes T s xs).map (·.2)).foldl (· ||| ·) 0 := by
  rw [List.foldl_map]
  rfl

/-- The sum that the quantiser forms is the exact one. -/
theorem val_foldl_errors (ps : List (Num × ℕ × Flags)) (acc : Dyadic) :
    (ps.foldl (fun acc p => acc.add
        (p.1.dyadic.add ⟨-((T.value p.2.1).scale s).dyadic.m, ((T.value p.2.1).scale s).dyadic.e⟩).square) acc).val =
      acc.val + (ps.map fun p => (numVal p.1 - numVal (T.value p.2.1) * (2 : ℚ) ^ s) ^ 2).sum := by
  induction ps generalizing acc with
  | nil => simp
  | cons p ps ih =>
    have negated (d : Dyadic) : Dyadic.val ⟨-d.m, d.e⟩ = -d.val := by simp [Dyadic.val]
    rw [List.foldl_cons, ih, List.map_cons, List.sum_cons, Dyadic.val_add, Dyadic.val_square, Dyadic.val_add, negated, Num.val_dyadic,
      Num.val_dyadic, numVal_scale]
    ring

theorem quantAt_error : (quantAt T s xs).2.2.val = quantErr T xs s := by
  refine (val_foldl_errors T s _ _).trans ?_
  rw [show Dyadic.val ⟨0, 0⟩ = 0 by simp [Dyadic.val], zero_add]
  rfl

end

theorem Num.scale_zero (x : Num) : x.scale (-0) = x := by
  obtain _ | _ | ⟨n, m, e⟩ := x
  · rfl
  · rfl
  · rw [Num.scale, neg_zero, Int.add_zero]

/-! ### The greatest binade -/

theorem maxBinade_none {xs : List Num} (h : maxBinade xs = none) {x : Num} (hx : x ∈ xs) : numVal x = 0 := by
  induction xs with
  | nil => cases hx
  | cons y ys ih =>
    obtain _ | _ | ⟨n, m, e⟩ := y
    · rcases List.mem_cons.1 hx with rfl | hx
      · rfl
      · exact ih h hx
    · rcases List.mem_cons.1 hx with rfl | hx
      · rfl
      · exact ih h hx
    · rw [maxBinade] at h
      split at h
      case isTrue zero =>
        rcases List.mem_cons.1 hx with rfl | hx
        · exact numVal_eq_zero.2 zero
        · exact ih h hx
      case isFalse =>
        split at h <;> cases h

/-- The greatest binade is met, and nothing lies above it. -/
theorem maxBinade_some {xs : List Num} {b : ℤ} (h : maxBinade xs = some b) :
    (∃ x ∈ xs, (2 : ℚ) ^ b ≤ |numVal x|) ∧ ∀ x ∈ xs, |numVal x| < (2 : ℚ) ^ (b + 1) := by
  induction xs generalizing b with
  | nil => cases h
  | cons y ys ih =>
    -- an element of value zero changes nothing
    have skip (hy : numVal y = 0) (h : maxBinade ys = some b) :
        (∃ x ∈ y :: ys, (2 : ℚ) ^ b ≤ |numVal x|) ∧ ∀ x ∈ y :: ys, |numVal x| < (2 : ℚ) ^ (b + 1) := by
      obtain ⟨⟨x, hx, met⟩, below⟩ := ih h
      refine ⟨⟨x, List.mem_cons_of_mem _ hx, met⟩, List.forall_mem_cons.2 ⟨?_, below⟩⟩
      rw [hy, abs_zero]
      exact two_zpow_pos _
    obtain _ | _ | ⟨n, m, e⟩ := y
    · exact skip rfl h
    · exact skip rfl h
    · rw [maxBinade] at h
      split at h
      case isTrue zero => exact skip (numVal_eq_zero.2 zero) h
      case isFalse hm =>
        have lo : (2 : ℚ) ^ binade m e ≤ |numVal (.fin n m e)| := by rw [abs_numVal]; exact binade_le hm e
        have hi : |numVal (.fin n m e)| < (2 : ℚ) ^ (binade m e + 1) := by rw [abs_numVal]; exact lt_binade m e
        split at h
        case h_1 none =>
          cases h
          refine ⟨⟨_, List.mem_cons_self .., lo⟩, List.forall_mem_cons.2 ⟨hi, fun x hx => ?_⟩⟩
          rw [maxBinade_none none hx, abs_zero]
          exact two_zpow_pos _
        case h_2 b' some =>
          obtain ⟨⟨x, hx, met⟩, below⟩ := ih some
          cases h
          split
          case isTrue le =>
            exact ⟨⟨_, List.mem_cons_self .., lo⟩, List.forall_mem_cons.2 ⟨hi, fun x hx =>
              (below x hx).trans_le (zpow_le_zpow_right₀ one_le_two (by omega))⟩⟩
          case isFalse gt =>
            exact ⟨⟨x, List.mem_cons_of_mem _ hx, met⟩, List.forall_mem_cons.2
              ⟨hi.trans_le (zpow_le_zpow_right₀ one_le_two (by omega)), below⟩⟩

theorem maxBinade_eq_none {xs : List Num} (h : ∀ x ∈ xs, numVal x = 0) : maxBinade xs = none := by
  rw [Option.eq_none_iff_forall_ne_some]
  intro b hb
  obtain ⟨⟨x, hx, met⟩, _⟩ := maxBinade_some hb
  rw [h x hx, abs_zero] at met
  exact absurd met (not_le.2 (two_zpow_pos b))

theorem maxBinade_eq_some {xs : List Num} {top : ℤ} (met : ∃ x ∈ xs, (2 : ℚ) ^ top ≤ |numVal x|)
    (below : ∀ x ∈ xs, |numVal x| < (2 : ℚ) ^ (top + 1)) : maxBinade xs = some top := by
  obtain ⟨x, hx, lo⟩ := met
  cases h : maxBinade xs with
  | none =>
    rw [maxBinade_none h hx, abs_zero] at lo
    exact absurd lo (not_le.2 (two_zpow_pos top))
  | some b =>
    obtain ⟨⟨x', hx', lo'⟩, below'⟩ := maxBinade_some h
    have le : top < b + 1 := (zpow_lt_zpow_iff_right₀ one_lt_two).1 (lo.trans_lt (below' x hx))
    have ge : b < top + 1 := (zpow_lt_zpow_iff_right₀ one_lt_two).1 (lo'.trans_lt (below x' hx'))
    rw [show b = top by omega]

/-! ### The scale of least error -/

/-- A scale of a list whose error is the least, the greatest of those. -/
def LeastError (err : ℤ → ℚ) (l : List ℤ) (s : ℤ) : Prop := s ∈ l ∧ ∀ r ∈ l, err s ≤ err r ∧ (err s = err r → r ≤ s)

/-- One candidate more: it replaces the best so far where its error is no greater. -/
def pickScale (T : Elem) (xs : List Num) (best : Option (ℤ × List ℕ × Flags × Dyadic)) (s : ℤ) :
    Option (ℤ × List ℕ × Flags × Dyadic) :=
  let now := quantAt T s xs
  match best with
  | none => some (s, now)
  | some (s0, old) => if old.2.2.lt now.2.2 then some (s0, old) else some (s, now)

section
variable (T : Elem) (xs : List Num)

theorem pickScale_some (s0 s : ℤ) : pickScale T xs (some (s0, quantAt T s0 xs)) s =
    if quantErr T xs s0 < quantErr T xs s then some (s0, quantAt T s0 xs) else some (s, quantAt T s xs) := by
  simp only [pickScale, Dyadic.lt_iff, quantAt_error]

theorem foldl_pickScale (l : List ℤ) (s0 : ℤ) (sorted : List.Pairwise (· < ·) (s0 :: l)) :
    ∃ s, l.foldl (pickScale T xs) (some (s0, quantAt T s0 xs)) = some (s, quantAt T s xs) ∧ LeastError (quantErr T xs) (s0 :: l) s := by
  induction l generalizing s0 with
  | nil => exact ⟨s0, rfl, List.mem_cons_self .., by simp⟩
  | cons a l ih =>
    obtain ⟨before, sorted'⟩ := List.pairwise_cons.1 sorted
    have lt : s0 < a := before a (List.mem_cons_self ..)
    rw [List.foldl_cons, pickScale_some]
    split
    case isTrue better =>
      obtain ⟨s, eq, mem, least⟩ := ih s0 (sorted.sublist (by simp))
      refine ⟨s, eq, by rw [List.mem_cons] at mem ⊢; simp; tauto, ?_⟩
      obtain ⟨first, rest⟩ := List.forall_mem_cons.1 least
      have strict := first.1.trans_lt better
      exact List.forall_mem_cons.2 ⟨first, List.forall_mem_cons.2 ⟨⟨strict.le, fun tie => absurd tie strict.ne⟩, rest⟩⟩
    case isFalse worse =>
      obtain ⟨s, eq, mem, least⟩ := ih a sorted'
      refine ⟨s, eq, List.mem_cons_of_mem _ mem, List.forall_mem_cons.2 ⟨?_, least⟩⟩
      have first := least a (List.mem_cons_self ..)
      refine ⟨first.1.trans (not_lt.1 worse), fun tie => ?_⟩
      have := first.2 (le_antisymm first.1 (tie ▸ not_lt.1 worse))
      omega

/-- From a rising list the quantiser takes the scale of least error, the greatest of those. -/
theorem foldl_pickScale_none {l : List ℤ} (sorted : List.Pairwise (· < ·) l) (ne : l ≠ []) :
    ∃ s, l.foldl (pickScale T xs) none = some (s, quantAt T s xs) ∧ LeastError (quantErr T xs) l s := by
  cases l with
  | nil => exact absurd rfl ne
  | cons a l => exact foldl_pickScale T xs l a sorted

end

/-- The scales about a base that have a code (R53, R54). -/
def scaleCandidates (base : ℤ) : List ℤ := [base - 1, base, base + 1].filter fun s => 0 ≤ s + 127 && s + 127 ≤ 254

theorem mem_scaleCandidates {base s : ℤ} : s ∈ scaleCandidates base ↔ base - 1 ≤ s ∧ s ≤ base + 1 ∧ -127 ≤ s ∧ s ≤ 127 := by
  simp only [scaleCandidates, List.mem_filter, List.mem_cons, List.not_mem_nil, or_false, Bool.and_eq_true, decide_eq_true_iff]
  omega

theorem scaleCandidates_rise (base : ℤ) : List.Pairwise (· < ·) (scaleCandidates base) := by
  refine List.Pairwise.filter _ ?_
  simp

section
variable {T : Elem} {xs : List Num}

theorem quantise_not_finite (h : ¬∀ x ∈ xs, x.isNan = false ∧ x.isInf = false) : quantise T xs = (0xFF, xs.map fun _ => 0, flInv) := by
  refine if_pos ?_
  simpa [List.any_eq_true, or_iff_not_imp_left] using h

/-- A block of finite numbers (R53). -/
theorem quantise_finite (h : ∀ x ∈ xs, x.isNan = false ∧ x.isInf = false) :
    quantise T xs = match maxBinade xs with
      | none => (0x7F, xs.map fun x => (T.encode 0 false x).1, 0)
      | some top => match (scaleCandidates (top - quantBinade T)).foldl (pickScale T xs) none with
        | some (s, q, f, _) => ((s + 127).toNat, q, f)
        | none =>
          let s : ℤ := if 127 < top - quantBinade T then 127 else -127
          ((s + 127).toNat, (quantAt T s xs).1, (quantAt T s xs).2.1) := by
  unfold quantise
  rw [if_neg]
  · rfl
  · rw [List.any_eq_true]
    rintro ⟨x, hx, special⟩
    obtain ⟨notNan, notInf⟩ := h x hx
    rw [notNan, notInf] at special
    cases special

/-- The scale code, the codes and the flags of a block at a scale. -/
def quantGives (T : Elem) (xs : List Num) (s : ℤ) : ℕ × List ℕ × Flags :=
  ((s + 127).toNat, (quantCodes T s xs).map (·.1), ((quantCodes T s xs).map (·.2)).foldl (· ||| ·) 0)

theorem quantGives_eq (s : ℤ) : ((s + 127).toNat, (quantAt T s xs).1, (quantAt T s xs).2.1) = quantGives T xs s := by
  rw [quantAt_codes, quantAt_flags, quantGives]

variable (finite : ∀ x ∈ xs, x.isNan = false ∧ x.isInf = false)
include finite

theorem quantise_zero (h : ∀ x ∈ xs, numVal x = 0) : quantise T xs = (0x7F, (quantCodes T 0 xs).map (·.1), 0) := by
  rw [quantise_finite finite, maxBinade_eq_none h, quantCodes, List.map_map]
  simp only [Function.comp_def, Num.scale_zero]

variable {top : ℤ} (met : ∃ x ∈ xs, (2 : ℚ) ^ top ≤ |numVal x|) (below : ∀ x ∈ xs, |numVal x| < (2 : ℚ) ^ (top + 1))
include met below

theorem quantise_least {s : ℤ} (h : s ∈ scaleCandidates (top - quantBinade T)) :
    ∃ s, LeastError (quantErr T xs) (scaleCandidates (top - quantBinade T)) s ∧ quantise T xs = quantGives T xs s := by
  obtain ⟨s, eq, least⟩ := foldl_pickScale_none T xs (scaleCandidates_rise _) (List.ne_nil_of_mem h)
  refine ⟨s, least, ?_⟩
  rw [quantise_finite finite, maxBinade_eq_some met below]
  simp only [eq]
  exact quantGives_eq s

theorem quantise_clamped (h : scaleCandidates (top - quantBinade T) = []) :
    quantise T xs = quantGives T xs (if 127 < top - quantBinade T then 127 else -127) := by
  rw [quantise_finite finite, maxBinade_eq_some met below]
  simp only [h, List.foldl_nil]
  exact quantGives_eq _

end

end Sys2Proof.Machine
end

section
/-! The conversion instructions and QUANT and DEQ (R124 to R126). -/
namespace Sys2Proof.Machine
open Sys2Proof.Safety
-- One proof at a time: proofs elaborated side by side each take a thread and its stack.
set_option Elab.async false

/-- Settles O25: the instructions by their shapes, each conversion by its target, the quantiser by its fold over the candidate scales. -/
theorem conversions : Obligations.Conversions := by
  refine ⟨?_, ?_, convLane_spec, ?_, ?_, rfl, rfl, rfl, rfl, ?_⟩
  · intro s G d a c el m runs
    refine ⟨fun he => ⟨?_, ?_⟩, fun he fits => ⟨?_, ?_⟩⟩
    · intro ready multiple
      rw [exec_cvt, execCvt, he]
      exact convertOp_ok _ rfl ready multiple
    · intro ready multiple
      rw [exec_cvtFrom, execCvtFrom, he]
      exact convertOp_ok _ rfl ready multiple
    · rw [exec_cvt, execCvt, he]
      exact convertOp_empty fits
    · rw [exec_cvtFrom, execCvtFrom, he]
      exact convertOp_empty fits
  · intro s G d a slot m F ready writes
    exact ⟨fun el he h => exec_quant_ok h he rfl, fun el he h => exec_deq_ok h he rfl,
      fun he h => exec_quant_empty h he rfl, fun he h => exec_deq_empty h he rfl⟩
  · intro src tgt mode ftz x hmode get v
    refine ⟨convert_self .., ?_, ?_, ?_, fun narrow ne notNan notInf => convert_narrow narrow ne notNan notInf⟩
    · rintro a w b u rfl rfl ne
      exact convert_int_int ne
    · rintro b u rfl notInt
      refine ⟨fun nan => ?_, fun n inf => ?_, convert_finite_integer hmode notInt⟩
      · refine (convert_integer notInt).trans ?_
        cases h : src.decode false x with
        | nan => rfl
        | _ => rw [show v = _ from h] at nan; cases nan
      · exact (convert_integer notInt).trans (by rw [show src.decode false x = _ from inf]; rfl)
    · rintro F rfl ne n m e eq
      exact (convert_ieee ne).trans (by rw [eq]; rfl)
  · intro T xs _ finite at' err gives
    refine ⟨quantise_not_finite, quantise_zero, fun h top met below => ⟨fun ⟨s, hs⟩ => ?_, fun above => ?_, fun under => ?_⟩⟩
    · obtain ⟨s, ⟨mem, least⟩, eq⟩ := quantise_least h met below (mem_scaleCandidates.2 hs)
      exact ⟨s, mem_scaleCandidates.1 mem, eq, fun r hr => least r (mem_scaleCandidates.2 hr)⟩
    · refine (quantise_clamped h met below (List.eq_nil_iff_forall_not_mem.2 fun s mem => ?_)).trans (by rw [if_pos (by omega)]; rfl)
      have := mem_scaleCandidates.1 mem
      omega
    · refine (quantise_clamped h met below (List.eq_nil_iff_forall_not_mem.2 fun s mem => ?_)).trans (by rw [if_neg (by omega)]; rfl)
      have := mem_scaleCandidates.1 mem
      omega
  · intro el F mode ftz scale code v get
    exact ⟨deqElem_nan el F mode ftz scale code, fun hs n => deqElem_inf el F mode ftz scale code hs,
      fun hs => deqElem_finite el F mode ftz scale code hs⟩

end Sys2Proof.Machine
end

section
/-! The float instructions with their operands ready (R43, R119, R120). -/
namespace Sys2Proof.Machine
open Sys2Proof.Safety
-- One proof at a time: proofs elaborated side by side each take a thread and its stack.
set_option Elab.async false

section
variable {s : State} {G : Guard} {d a b : VReg}

theorem float1_ok {f : Fmt → Num → Nat × Flags} (h : LaneReady s G d false [a] floatType) :
    float1 s G d a f = .next (laneResult s G d (each1 s a fun t x => f (fmtOf t) ((fmtOf t).decode s.g.ftz x))) := elemwise1_ok h

theorem float2_ok {f : Fmt → Num → Num → Nat × Flags} (h : LaneReady s G d false [a, b] floatType) :
    float2 s G d a b f = .next (laneResult s G d
      (each2 s a b fun t x y => f (fmtOf t) ((fmtOf t).decode s.g.ftz x) ((fmtOf t).decode s.g.ftz y))) := elemwise2_ok h

theorem float3_ok {f : Fmt → Num → Num → Num → Nat × Flags} (h : LaneReady s G d true [a, b] floatType) :
    float3 s G d a b f = .next (laneResult s G d (each3 s a b d fun t x y w =>
      f (fmtOf t) ((fmtOf t).decode s.g.ftz x) ((fmtOf t).decode s.g.ftz y) ((fmtOf t).decode s.g.ftz w))) := elemwise3_ok h

/-- The choice of a neighbour is free, by lane and element; the next instruction meets others. -/
theorem faithful_ok {f : Fmt → Bool → Num → Nat × Flags} (h : LaneReady s G d false [a] floatType) :
    faithful s G d a f = .next (laneResult (tickOn s) G d fun t L => perElem t fun j =>
      f (fmtOf t) (Config.upperNeighbour s.tick L j) ((fmtOf t).decode s.g.ftz (elemAt t (s.g.raw a L) j))) :=
  lanewise_ok (s := tickOn s) h

end

end Sys2Proof.Machine
end

section
/-! One rounding into an IEEE format, of an exact value or of one known to its leading bits (R40 to R43). -/
namespace Sys2Proof.Machine
open Sys2Proof.Safety
-- One proof at a time: proofs elaborated side by side each take a thread and its stack.
set_option Elab.async false

theorem Jams.nonneg {α : Type} [Field α] [LinearOrder α] [IsStrictOrderedRing α] {fb m : ℕ} {e : ℤ} {Y : α} (h : Jams fb m e Y) :
    0 ≤ Y := by
  rcases h with rfl | ⟨_, odd, lo, _⟩
  · exact mul_nonneg (Nat.cast_nonneg m) (two_zpow_pos e).le
  · have : (1 : α) ≤ m := by exact_mod_cast (show 1 ≤ m by omega)
    exact (mul_nonneg (sub_nonneg.2 this) (two_zpow_pos e).le).trans lo.le

section
variable {F : Fmt} (hF : F.Proper) {n : Bool} {c : ℕ}
include hF

theorem Fmt.Proper.lt_infCode (hc : c ≤ F.infCode - 1) : c < F.infCode := hc.trans_lt hF.max_lt

omit hF in
/-- A finite code with a sign is a finite pattern of its value. -/
theorem Fmt.signed_finite (F : Fmt) (hc : c < F.infCode) : F.signBit n + c < 2 ^ F.width ∧ IsFinite F (F.signBit n + c) ∧
    (F.decode false (F.signBit n + c)).neg = n ∧ numVal (F.decode false (F.signBit n + c)) = sgn n * gridVal ℚ F.fb F.bias c := by
  have lt := hc.trans F.infCode_lt
  have mag := F.mag_signBit_add n lt
  have finite : F.mag (F.signBit n + c) < F.infCode := mag.trans_lt hc
  exact ⟨F.signBit_add_lt n lt, F.isFinite_iff.2 finite, (F.neg_decode finite).trans (F.negBit_signBit_add n lt),
    by rw [F.numVal_decode finite, mag, F.negBit_signBit_add n lt]⟩

omit hF in
theorem Fmt.realVal_signed (F : Fmt) (hc : c < F.infCode) : realVal F (F.signBit n + c) = sgn n * gridVal ℝ F.fb F.bias c := by
  rw [realVal, (F.signed_finite hc).2.2.2, Rat.cast_mul, sgn_cast, gridVal_cast]

theorem Fmt.Proper.realMax_eq : realMax F = gridVal ℝ F.fb F.bias (F.infCode - 1) := by
  rw [realMax, realVal, hF.numVal_max, gridVal_cast]

/-- The code that a mode chooses, with the sign, is the pattern that R40 asks for. -/
theorem Fmt.Proper.roundedReal {mode : ℕ} {Y : ℝ} (hY : 0 ≤ Y)
    (h : MagRounded (gridVal ℝ F.fb F.bias) (F.infCode - 1) mode n Y c) : RoundedReal F mode (sgn n * Y) (F.signBit n + c) := by
  have hc := hF.lt_infCode h.le_top
  obtain ⟨lt, finite, _, _⟩ := F.signed_finite (n := n) hc
  obtain ⟨toward, plus, minus, others⟩ := h.signed (gridVal_nonneg F.fb F.bias) hY n (gridVal_zero _ _) F.rises
  have even := F.signBit_even n hF.fraction
  refine ⟨lt, finite, ?_⟩
  dsimp only
  rw [F.realVal_signed hc, show (F.signBit n + c) % 2 = c % 2 by omega]
  refine ⟨toward, plus, minus, fun p _ hp => ?_⟩
  have hp := F.isFinite_iff.1 hp
  rw [realVal, F.numVal_decode hp, Rat.cast_mul, sgn_cast, gridVal_cast]
  exact others _ (by omega) _

omit hF in
/-- A magnitude below the smallest normal one is the one of a code below it, but for zero. -/
theorem Fmt.subnormal_iff (F : Fmt) : (0 < |sgn n * gridVal ℝ F.fb F.bias c| ∧ |sgn n * gridVal ℝ F.fb F.bias c| < (2 : ℝ) ^ F.emin) ↔
    0 < c ∧ c < 2 ^ F.fb := by
  have mono := gridVal_strictMono (α := ℝ) F.fb F.bias
  rw [abs_sgn_mul, abs_of_nonneg (gridVal_nonneg _ _ _), Fmt.emin, ← gridVal_smallest F.fb, mono.lt_iff_lt]
  refine and_congr_left fun _ => ?_
  rw [← mono.lt_iff_lt, gridVal_zero]

omit hF in
theorem Fmt.overflow_eq (F : Fmt) (mode : ℕ) (n : Bool) : F.overflow mode n =
    if mode = 1 ∨ (mode = 2 ∧ n = true) ∨ (mode = 3 ∧ n = false) then F.maxBits n else F.infBits n := by
  refine if_congr ?_ rfl rfl
  simp [or_assoc]

/-- A number that stands for a real magnitude is rounded once (R40 to R42). -/
theorem Fmt.Proper.roundsOnce {mode m : ℕ} {e : ℤ} {Y : ℝ} (mode_le : mode ≤ 5) (h : Jams F.fb m e Y) :
    RoundsOnce F mode n (sgn n * Y) (F.round mode false n m e) (F.round mode true n m e) := by
  rw [RoundsOnce, abs_sgn_mul, abs_of_nonneg h.nonneg, hF.realMax_eq]
  refine ⟨fun within => ?_, fun beyond => ?_⟩
  · obtain ⟨c, fl, rounded, inexact, unflushed, flushed⟩ := hF.roundWith_within (neg := n) mode_le h within
    have hc := hF.lt_infCode rounded.le_top
    obtain ⟨_, _, sign, _⟩ := F.signed_finite (n := n) hc
    simp only [Fmt.round, unflushed, flushed, F.realVal_signed hc, F.subnormal_iff]
    exact ⟨hF.roundedReal h.nonneg rounded, sign, inexact.trans (mul_right_inj' (sgn_ne_zero n)).symm, fun small => if_pos small,
      fun normal => if_neg normal⟩
  · rw [Fmt.round, Fmt.round, hF.roundWith_beyond h beyond, hF.roundWith_beyond h beyond, F.overflow_eq]
    exact ⟨rfl, rfl, rfl⟩

/-- Rounded toward zero and away from it, a magnitude gives the codes about it (R43). -/
theorem Fmt.Proper.neighbours {m omode : ℕ} {e : ℤ} (within : |numVal (.fin n m e)| ≤ numVal (F.decode false (F.maxBits false))) :
    Neighbours F (numVal (.fin n m e)) (F.roundWith 1 omode false n m e) (F.roundWith 5 omode false n m e) := by
  rw [abs_numVal, hF.numVal_max] at within
  have mono := gridVal_strictMono (α := ℚ) F.fb F.bias
  have nonneg := gridVal_nonneg (α := ℚ) F.fb F.bias
  obtain ⟨c, fl, down, inexact, eqDown, _⟩ := hF.roundWith_within (mode := 1) (neg := n) (by decide) (.inl rfl) within
  obtain ⟨d, fl', up, inexact', eqUp, _⟩ := hF.roundWith_within (mode := 5) (neg := n) (by decide) (.inl rfl) within
  obtain ⟨_, finite, _, value⟩ := F.signed_finite (n := n) (hF.lt_infCode down.le_top)
  obtain ⟨_, finite', _, value'⟩ := F.signed_finite (n := n) (hF.lt_infCode up.le_top)
  obtain ⟨lo, greatest⟩ := down.down (.inl rfl)
  obtain ⟨hi, least⟩ := up.up (.inl rfl)
  have hY : (0 : ℚ) ≤ m * 2 ^ e := mul_nonneg (Nat.cast_nonneg m) (two_zpow_pos e).le
  rw [Neighbours, eqDown, eqUp, numVal_fin]
  dsimp only
  rw [value, value', mul_right_inj' (sgn_ne_zero n), mul_right_inj' (sgn_ne_zero n), abs_sgn_mul, abs_sgn_mul, abs_sgn_mul,
    abs_of_nonneg (nonneg c), abs_of_nonneg (nonneg d), abs_of_nonneg hY, sgn_mul_sgn_mul, sgn_mul_sgn_mul]
  refine ⟨finite, finite', lo, hi, mul_nonneg (nonneg c) hY, mul_nonneg (nonneg d) hY, ⟨fun eq => ?_, fun eq => ?_⟩, inexact, inexact',
    fun p _ hp => ?_⟩
  · exact le_antisymm ((mono.le_iff_le.2 (least c down.le_top eq.ge)).trans lo) hi
  · exact le_antisymm lo (hi.trans (mono.le_iff_le.2 (greatest d up.le_top eq.le)))
  · have hp := F.isFinite_iff.1 hp
    rw [F.numVal_decode hp, abs_sgn_mul, abs_of_nonneg (nonneg _), mono.lt_iff_lt, mono.lt_iff_lt]
    rintro ⟨above, below⟩
    rcases le_total (gridVal ℚ F.fb F.bias (F.mag p)) (m * 2 ^ e) with le | ge
    · exact absurd (greatest _ (by omega) le) (not_le.2 above)
    · exact absurd (least _ (by omega) ge) (not_le.2 below)

end

/-! ### Exact values -/

/-- What a rounding of a rational value gives is what R40 asks for of it as a real one. -/
theorem roundedTo_of_real {F : Fmt} {mode x : ℕ} {y : ℚ} (h : RoundedReal F mode (y : ℝ) x) : RoundedTo F mode y x := by
  unfold RoundedReal realVal at h
  unfold RoundedTo
  dsimp only at h ⊢
  exact_mod_cast h

theorem Fmt.Proper.round_exact {F : Fmt} (hF : F.Proper) {r : ℕ} (hr : r < 5) (n : Bool) (m : ℕ) (e : ℤ) :
    let y := numVal (.fin n m e)
    let x := F.round r false n m e
    let flushed := F.round r true n m e
    let v := numVal (F.decode false x.1)
    (|y| ≤ numVal (F.decode false (F.maxBits false)) →
      RoundedTo F r y x.1 ∧ (F.decode false x.1).neg = n ∧ (x.2 &&& flInx = 0 ↔ v = y) ∧
      (0 < |v| ∧ |v| < (2 : ℚ) ^ F.emin → flushed = (F.signBit n, flUnf ||| flInx)) ∧
      (¬(0 < |v| ∧ |v| < (2 : ℚ) ^ F.emin) → flushed = x)) ∧
    ((2 : ℚ) ^ (F.emax + 1) ≤ |y| → x = flushed ∧ x.2 = flOvf ||| flInx ∧
      x.1 = if r = 1 ∨ (r = 2 ∧ n = true) ∨ (r = 3 ∧ n = false) then F.maxBits n else F.infBits n) := by
  intro y x flushed v
  have real : (y : ℝ) = sgn n * (m * 2 ^ e) := by rw [show y = _ from numVal_fin n m e, Rat.cast_mul, sgn_cast]; push_cast; rfl
  have once : RoundsOnce F r n (y : ℝ) x flushed := real ▸ hF.roundsOnce (by omega) (.inl rfl)
  obtain ⟨within, beyond⟩ := once
  have power (k : ℤ) : (2 : ℝ) ^ k = ((2 ^ k : ℚ) : ℝ) := by push_cast; rfl
  unfold realMax realVal at within
  rw [power] at within beyond
  refine ⟨fun h => ?_, fun h => beyond (by exact_mod_cast h)⟩
  obtain ⟨rounded, sign, inexact, small, normal⟩ := within (by exact_mod_cast h)
  exact ⟨roundedTo_of_real rounded, sign, by exact_mod_cast inexact, by exact_mod_cast small, by exact_mod_cast normal⟩

end Sys2Proof.Machine
end

section
/-! Exact sums and products, NaN operands and invalid operations (R39, R41, R119, R120). -/
namespace Sys2Proof.Machine
open Sys2Proof.Safety
-- One proof at a time: proofs elaborated side by side each take a thread and its stack.
set_option Elab.async false

section
variable (F : Fmt) (r : ℕ) (z : Bool)

/-! ### Finite operands -/

section
variable (na nb nc : Bool) (ma mb mc : ℕ) (ea eb ec : ℤ)

theorem Fmt.addNum_fin : ∃ n m e, F.addNum r z (.fin na ma ea) (.fin nb mb eb) = F.round r z n m e ∧
    numVal (.fin n m e) = numVal (.fin na ma ea) + numVal (.fin nb mb eb) ∧
    (numVal (.fin na ma ea) + numVal (.fin nb mb eb) = 0 → n = if na = nb then na else r == 3) :=
  ⟨_, _, _, rfl, numVal_exactAdd r na ma ea nb mb eb⟩

theorem numVal_product : numVal (.fin (na != nb) (ma * mb) (ea + eb)) = numVal (.fin na ma ea) * numVal (.fin nb mb eb) := by
  rw [numVal_fin, numVal_fin, numVal_fin, sgn_bne, zpow_add₀ two_ne_zero]
  push_cast
  ring

theorem Fmt.mulNum_fin : ∃ m e, F.mulNum r z (.fin na ma ea) (.fin nb mb eb) = F.round r z (na != nb) m e ∧
    numVal (.fin (na != nb) m e) = numVal (.fin na ma ea) * numVal (.fin nb mb eb) :=
  ⟨_, _, rfl, numVal_product na nb ma mb ea eb⟩

theorem Fmt.fmaNum_fin : ∃ n m e, F.fmaNum r z (.fin na ma ea) (.fin nb mb eb) (.fin nc mc ec) = F.round r z n m e ∧
    numVal (.fin n m e) = numVal (.fin na ma ea) * numVal (.fin nb mb eb) + numVal (.fin nc mc ec) := by
  obtain ⟨n, m, e, eq, value, _⟩ := F.addNum_fin r z (na != nb) nc (ma * mb) mc (ea + eb) ec
  exact ⟨n, m, e, eq, by rw [value, numVal_product]⟩

end

/-! ### NaN operands (R39) -/

/-- The canonical NaN, with INV for a signalling operand. -/
def Fmt.nanResult (F : Fmt) (inv : Bool) : ℕ × Flags := (F.nanBits, if inv then flInv else 0)

section
variable {a b c : Num}

theorem Num.isSnan_of_not_nan (h : a.isNan = false) : a.isSnan = false := by
  cases a with
  | nan => cases h
  | _ => rfl

theorem Fmt.addNum_nan (h : a.isNan = true ∨ b.isNan = true) : F.addNum r z a b = F.nanResult (a.isSnan || b.isSnan) := by
  cases a with
  | nan => rfl
  | inf | fin =>
    cases b with
    | nan => rfl
    | inf | fin => simp [Num.isNan] at h

theorem Fmt.divNum_nan (h : a.isNan = true ∨ b.isNan = true) : F.divNum r z a b = F.nanResult (a.isSnan || b.isSnan) := by
  cases a with
  | nan => rfl
  | inf | fin =>
    cases b with
    | nan => rfl
    | inf | fin => simp [Num.isNan] at h

theorem Fmt.mulNum_nan (h : a.isNan = true ∨ b.isNan = true) : F.mulNum r z a b = F.nanResult (a.isSnan || b.isSnan) :=
  if_pos (Bool.or_eq_true_iff.2 h)

theorem Fmt.fmaNum_nan (h : a.isNan = true ∨ b.isNan = true) : F.fmaNum r z a b c = F.nanResult (a.isSnan || b.isSnan || c.isSnan) := by
  have special : (a.isNan || b.isNan) = true := Bool.or_eq_true_iff.2 h
  simp only [Fmt.fmaNum, special, Bool.true_or, if_true]
  rfl

theorem Fmt.fmaNum_addend_nan (na nb : Bool) (ma mb : ℕ) (ea eb : ℤ) (h : c.isNan = true) :
    F.fmaNum r z (.fin na ma ea) (.fin nb mb eb) c = F.nanResult c.isSnan := if_pos h

theorem Fmt.sqrtNum_nan (h : c.isNan = true) : F.sqrtNum r z c = F.nanResult c.isSnan ∧ F.rsqrtNum r z c = F.nanResult c.isSnan := by
  cases c with
  | nan => exact ⟨rfl, rfl⟩
  | _ => cases h

end

/-! ### Zeros and infinities (R41, R120) -/

section
variable (na nb : Bool) (ma mb : ℕ) (ea eb : ℤ) (c : Num)

theorem Fmt.addNum_opposite_inf : F.addNum r z (.inf na) (.inf (!na)) = F.nanResult true := if_neg (by simp)

theorem Fmt.mulNum_inf_zero : F.mulNum r z (.inf na) (.fin nb 0 eb) = F.nanResult true := rfl

theorem Fmt.fmaNum_inf_zero : F.fmaNum r z (.inf na) (.fin nb 0 eb) c = F.nanResult true ∧
    F.fmaNum r z (.fin nb 0 eb) (.inf na) c = F.nanResult true := ⟨rfl, rfl⟩

theorem Fmt.divNum_by_zero (hm : ma ≠ 0) : F.divNum r z (.fin na ma ea) (.fin nb 0 eb) = (F.infBits (na != nb), 0) := by
  simp only [Fmt.divNum, if_neg hm, if_true]

theorem Fmt.divNum_zero (hm : mb ≠ 0) : F.divNum r z (.fin na 0 ea) (.fin nb mb eb) = (F.signBit (na != nb), 0) := by
  simp only [Fmt.divNum, if_neg hm, if_true]

theorem Fmt.sqrtNum_negative (hm : ma ≠ 0) :
    F.sqrtNum r z (.fin true ma ea) = F.nanResult true ∧ F.rsqrtNum r z (.fin true ma ea) = F.nanResult true :=
  ⟨(if_neg hm).trans rfl, (if_neg hm).trans rfl⟩

theorem Fmt.sqrtNum_inf : F.sqrtNum r z (.inf na) = (if na then F.nanResult true else (F.infBits false, 0)) ∧
    F.rsqrtNum r z (.inf na) = if na then F.nanResult true else (F.signBit false, 0) := ⟨rfl, rfl⟩

end

end

end Sys2Proof.Machine
end

section
/-! Quotients and square roots: leading bits and a last bit for the rest stand for the exact real value (R43, R120). -/
namespace Sys2Proof.Machine
open Sys2Proof.Safety
-- One proof at a time: proofs elaborated side by side each take a thread and its stack.
set_option Elab.async false

/-! ### The integer square root -/

/-- Building the root from bit i down, the root stays between the part so far and the part with all lower bits. -/
theorem isqrtFrom_bounds (n i r : ℕ) (lo : r * r ≤ n) (hi : n < (r + 2 ^ (i + 1)) * (r + 2 ^ (i + 1))) :
    isqrtFrom n i r * isqrtFrom n i r ≤ n ∧ n < (isqrtFrom n i r + 1) * (isqrtFrom n i r + 1) := by
  induction i generalizing r with
  | zero =>
    rw [isqrtFrom]
    split
    case isTrue set => exact ⟨set, hi⟩
    case isFalse clear => exact ⟨lo, not_le.1 clear⟩
  | succ i ih =>
    rw [isqrtFrom]
    split
    case isTrue set => exact ih _ set (by rwa [Nat.add_assoc, ← two_mul, ← pow_succ'])
    case isFalse clear => exact ih _ lo (not_le.1 clear)

theorem isqrt_eq (n : ℕ) : isqrt n = Nat.sqrt n := by
  have start : n < (0 + 2 ^ (Nat.log2 n / 2 + 1 + 1)) * (0 + 2 ^ (Nat.log2 n / 2 + 1 + 1)) := by
    rw [Nat.zero_add, ← pow_add]
    exact Nat.lt_log2_self.trans_le (Nat.pow_le_pow_right (by decide) (by omega))
  exact Nat.eq_sqrt.2 (isqrtFrom_bounds n _ 0 (Nat.zero_le _) start)

/-! ### Leading bits of a real value -/

/-- The whole part of a value with enough bits, doubled, with a last bit that is 1 where more follows, stands for the value. -/
theorem jams_of_floor {fb r : ℕ} {k : ℤ} {t : ℝ} (wide : 2 ^ (fb + 1) ≤ r) (lo : r ≤ t) (hi : t < r + 1) {P : Prop} [Decidable P]
    (exact : P ↔ t = r) : Jams fb (2 * r + if P then 0 else 1) (k - 1) (t * 2 ^ k) := by
  have half : (2 : ℝ) ^ k = 2 * 2 ^ (k - 1) := by rw [← zpow_one_add₀ two_ne_zero, add_sub_cancel]
  have pos := two_zpow_pos (α := ℝ) (k - 1)
  split
  case isTrue h =>
    left
    rw [exact.1 h, half]
    push_cast
    ring
  case isFalse h =>
    have strict : (r : ℝ) < t := lt_of_le_of_ne lo fun eq => h (exact.2 eq.symm)
    refine .inr ⟨?_, by omega, ?_, ?_⟩
    · rw [Nat.le_log2 (by omega), pow_succ]
      omega
    · rw [half, ← mul_assoc]
      refine mul_lt_mul_of_pos_right ?_ pos
      push_cast
      linarith
    · rw [half, ← mul_assoc]
      refine mul_lt_mul_of_pos_right ?_ pos
      push_cast
      linarith

/-! ### Quotients -/

theorem quotJam_eq (ma mb k : ℕ) : quotJam ma mb k =
    (2 * (ma * 2 ^ (k + 4 + Nat.log2 mb) / mb) + (if ma * 2 ^ (k + 4 + Nat.log2 mb) % mb = 0 then 0 else 1),
      -((k + 4 + Nat.log2 mb : ℕ) : ℤ) - 1) := rfl

theorem quotJam_jams {ma mb : ℕ} (ha : ma ≠ 0) (hb : mb ≠ 0) (k : ℕ) (ea eb : ℤ) :
    Jams k (quotJam ma mb k).1 ((quotJam ma mb k).2 + ea - eb) ((ma * 2 ^ ea : ℝ) / (mb * 2 ^ eb)) := by
  rw [quotJam_eq]
  dsimp only
  have wide : 2 ^ (k + 1) ≤ ma * 2 ^ (k + 4 + Nat.log2 mb) / mb := by
    rw [Nat.le_div_iff_mul_le (Nat.pos_of_ne_zero hb)]
    calc 2 ^ (k + 1) * mb ≤ 2 ^ (k + 1) * 2 ^ (Nat.log2 mb + 1) := Nat.mul_le_mul_left _ Nat.lt_log2_self.le
      _ = 2 ^ (k + 2 + Nat.log2 mb) := by rw [← pow_add]; congr 1; omega
      _ ≤ 2 ^ (k + 4 + Nat.log2 mb) := Nat.pow_le_pow_right (by decide) (by omega)
      _ ≤ ma * 2 ^ (k + 4 + Nat.log2 mb) := Nat.le_mul_of_pos_left _ (Nat.pos_of_ne_zero ha)
  generalize k + 4 + Nat.log2 mb = s at *
  have whole := Nat.div_add_mod (ma * 2 ^ s) mb
  have small := Nat.mod_lt (ma * 2 ^ s) (Nat.pos_of_ne_zero hb)
  have hmb : (0 : ℝ) < mb := Nat.cast_pos.2 (Nat.pos_of_ne_zero hb)
  have value : (ma * 2 ^ ea : ℝ) / (mb * 2 ^ eb) = ((ma * 2 ^ s : ℕ) : ℝ) / mb * 2 ^ (-(s : ℤ) + ea - eb) := by
    rw [zpow_sub₀ two_ne_zero, zpow_add₀ two_ne_zero, zpow_neg, zpow_natCast]
    push_cast
    field_simp
  rw [value, show -(s : ℤ) - 1 + ea - eb = -(s : ℤ) + ea - eb - 1 by ring]
  generalize ma * 2 ^ s = n at *
  refine jams_of_floor wide ?_ ?_ ?_
  · rw [le_div_iff₀ hmb]
    exact_mod_cast (show n / mb * mb ≤ n from Nat.div_mul_le_self n mb)
  · rw [div_lt_iff₀ hmb]
    exact_mod_cast (Nat.div_lt_iff_lt_mul (Nat.pos_of_ne_zero hb)).1 (Nat.lt_succ_self (n / mb))
  · rw [div_eq_iff hmb.ne']
    have : (n : ℝ) = (n / mb : ℕ) * mb ↔ n = n / mb * mb := by exact_mod_cast Iff.rfl
    rw [this, Nat.mul_comm]
    omega

/-! ### Square roots -/

/-- The root of a natural number lies above its whole part and below the next. -/
theorem floor_sqrt_bounds {n r : ℕ} (h : isqrt n = r) : r * r ≤ n ∧ n < (r + 1) * (r + 1) := by
  rw [isqrt_eq] at h
  exact Nat.eq_sqrt.1 h.symm

theorem two_pow_le_isqrt {j n : ℕ} (h : 2 ^ (2 * j) ≤ n) : 2 ^ j ≤ isqrt n := by
  rw [isqrt_eq, Nat.le_sqrt, ← pow_add, ← two_mul]
  exact h

theorem sqrtJam_eq (m : ℕ) (e : ℤ) (k : ℕ) : ∃ s, 2 * (k + 4) ≤ s ∧ (e - (s : ℕ)) % 2 = 0 ∧
    sqrtJam m e k = (2 * isqrt (m * 2 ^ s) + (if isqrt (m * 2 ^ s) * isqrt (m * 2 ^ s) = m * 2 ^ s then 0 else 1), (e - (s : ℕ)) / 2 - 1) := by
  refine ⟨2 * (k + 4) + (if (e - (2 * (k + 4) : ℕ)) % 2 = 0 then 0 else 1), Nat.le_add_right .., ?_, rfl⟩
  split <;> omega

theorem sqrtJam_jams {m : ℕ} (hm : m ≠ 0) (k : ℕ) (e : ℤ) : Jams k (sqrtJam m e k).1 (sqrtJam m e k).2 √(m * 2 ^ e : ℝ) := by
  obtain ⟨s, hs, even, eq⟩ := sqrtJam_eq m e k
  rw [eq]
  dsimp only
  obtain ⟨j, hj⟩ : ∃ j : ℤ, e - (s : ℕ) = 2 * j := ⟨(e - (s : ℕ)) / 2, by omega⟩
  have value : √(m * 2 ^ e : ℝ) = √((m * 2 ^ s : ℕ) : ℝ) * 2 ^ j := by
    have square : (m * 2 ^ e : ℝ) = ((m * 2 ^ s : ℕ) : ℝ) * (2 ^ j) ^ 2 := by
      rw [show e = (s : ℕ) + 2 * j by omega, zpow_add₀ two_ne_zero, zpow_natCast, zpow_mul, zpow_ofNat, ← zpow_natCast ((2 : ℝ) ^ j) 2,
        ← zpow_mul, ← zpow_natCast ((2 : ℝ)) 2, ← zpow_mul]
      push_cast
      rw [mul_comm j]
      ring
    rw [square, Real.sqrt_mul (Nat.cast_nonneg _), Real.sqrt_sq (two_zpow_pos j).le]
  rw [value, hj, Int.mul_ediv_cancel_left _ two_ne_zero]
  have wide : 2 ^ (k + 4) ≤ isqrt (m * 2 ^ s) := by
    refine two_pow_le_isqrt ((Nat.pow_le_pow_right (by decide) hs).trans (Nat.le_mul_of_pos_left _ (Nat.pos_of_ne_zero hm)))
  generalize m * 2 ^ s = n at *
  obtain ⟨r, hr⟩ : ∃ r, isqrt n = r := ⟨_, rfl⟩
  obtain ⟨lo, hi⟩ := floor_sqrt_bounds hr
  rw [hr] at wide ⊢
  refine jams_of_floor ((Nat.pow_le_pow_right (by decide) (by omega)).trans wide) ?_ ?_ ?_
  · exact Real.le_sqrt_of_sq_le (by rw [sq]; exact_mod_cast lo)
  · rw [Real.sqrt_lt' (by positivity), sq]
    exact_mod_cast hi
  · rw [Real.sqrt_eq_iff_mul_self_eq (Nat.cast_nonneg _) (Nat.cast_nonneg _)]
    exact_mod_cast eq_comm

/-! ### Reciprocals of square roots -/

theorem rsqrtJam_eq (m : ℕ) (e : ℤ) (k : ℕ) : ∃ M h t, t = k + 4 + Nat.log2 M ∧ (M = m ∧ e = 2 * h ∨ M = 2 * m ∧ e = 2 * h + 1) ∧
    rsqrtJam m e k = (2 * isqrt (2 ^ (2 * t) / M) +
      (if isqrt (2 ^ (2 * t) / M) * isqrt (2 ^ (2 * t) / M) * M = 2 ^ (2 * t) then 0 else 1), -(t : ℤ) - h - 1) := by
  by_cases odd : e % 2 ≠ 0
  · exact ⟨2 * m, (e - 1) / 2, _, rfl, .inr ⟨rfl, by omega⟩, by simp only [rsqrtJam, if_pos odd]⟩
  · exact ⟨m, e / 2, _, rfl, .inl ⟨rfl, by omega⟩, by simp only [rsqrtJam, if_neg odd]⟩

theorem rsqrtJam_jams {m : ℕ} (hm : m ≠ 0) (k : ℕ) (e : ℤ) : Jams k (rsqrtJam m e k).1 (rsqrtJam m e k).2 (1 / √(m * 2 ^ e : ℝ)) := by
  obtain ⟨M, h, t, ht, hM, eq⟩ := rsqrtJam_eq m e k
  rw [eq]
  dsimp only
  have pos : 0 < M := by omega
  have posR : (0 : ℝ) < M := Nat.cast_pos.2 pos
  have value : 1 / √(m * 2 ^ e : ℝ) = √(2 ^ (2 * t) / M : ℝ) * 2 ^ (-(t : ℤ) - h) := by
    have square : (m * 2 ^ e : ℝ) = M * (2 ^ h) ^ 2 := by
      rw [← zpow_natCast ((2 : ℝ) ^ h) 2, ← zpow_mul, mul_comm h]
      rcases hM with ⟨rfl, rfl⟩ | ⟨rfl, rfl⟩
      · rfl
      · rw [zpow_add₀ two_ne_zero]
        push_cast
        ring
    rw [square, Real.sqrt_mul posR.le, Real.sqrt_sq (two_zpow_pos h).le, Real.sqrt_div (by positivity), mul_comm 2 t, pow_mul,
      Real.sqrt_sq (by positivity), zpow_sub₀ two_ne_zero, zpow_neg, zpow_natCast]
    field_simp
  have wide : 2 ^ (k + 3) ≤ isqrt (2 ^ (2 * t) / M) := by
    refine two_pow_le_isqrt ?_
    rw [Nat.le_div_iff_mul_le pos]
    calc 2 ^ (2 * (k + 3)) * M ≤ 2 ^ (2 * (k + 3)) * 2 ^ (Nat.log2 M + 1) := Nat.mul_le_mul_left _ Nat.lt_log2_self.le
      _ = 2 ^ (2 * (k + 3) + (Nat.log2 M + 1)) := by rw [← pow_add]
      _ ≤ 2 ^ (2 * t) := Nat.pow_le_pow_right (by decide) (by omega)
  rw [value]
  obtain ⟨r, hr⟩ : ∃ r, isqrt (2 ^ (2 * t) / M) = r := ⟨_, rfl⟩
  obtain ⟨lo, hi⟩ := floor_sqrt_bounds hr
  rw [hr] at wide ⊢
  rw [Nat.le_div_iff_mul_le pos] at lo
  rw [Nat.div_lt_iff_lt_mul pos] at hi
  refine jams_of_floor ((Nat.pow_le_pow_right (by decide) (by omega)).trans wide) ?_ ?_ ?_
  · refine Real.le_sqrt_of_sq_le ?_
    rw [sq, le_div_iff₀ posR]
    exact_mod_cast lo
  · rw [Real.sqrt_lt' (by positivity), sq, div_lt_iff₀ posR]
    exact_mod_cast hi
  · rw [Real.sqrt_eq_iff_mul_self_eq (by positivity) (Nat.cast_nonneg _), div_eq_iff posR.ne']
    exact_mod_cast eq_comm

/-! ### Division and square roots round once -/

section
variable {F : Fmt} (hF : F.Proper) {r : ℕ} (hr : r < 5) {na nb : Bool} {ma mb : ℕ} {ea eb : ℤ} (ha : ma ≠ 0)
include hF hr ha

theorem Fmt.Proper.divNum_roundsOnce (hb : mb ≠ 0) :
    RoundsOnce F r (na != nb) ((numVal (.fin na ma ea) / numVal (.fin nb mb eb) : ℚ) : ℝ) (F.divNum r false (.fin na ma ea) (.fin nb mb eb))
      (F.divNum r true (.fin na ma ea) (.fin nb mb eb)) := by
  have quotient (z : Bool) : F.divNum r z (.fin na ma ea) (.fin nb mb eb) =
      F.round r z (na != nb) (quotJam ma mb F.fb).1 ((quotJam ma mb F.fb).2 + ea - eb) := by
    simp only [Fmt.divNum, if_neg ha, if_neg hb]
  have value : ((numVal (.fin na ma ea) / numVal (.fin nb mb eb) : ℚ) : ℝ) = sgn (na != nb) * ((ma * 2 ^ ea) / (mb * 2 ^ eb)) := by
    rw [numVal_fin, numVal_fin, sgn_bne]
    push_cast
    rw [sgn_cast, sgn_cast]
    cases nb <;> simp [mul_div_assoc, div_neg]
  rw [quotient, quotient, value]
  exact hF.roundsOnce (by omega) (quotJam_jams ha hb F.fb ea eb)

omit hF hr ha in
theorem numVal_pos_cast : ((numVal (.fin false ma ea) : ℚ) : ℝ) = ma * 2 ^ ea := by
  rw [numVal_fin, sgn_false, one_mul]
  push_cast
  rfl

theorem Fmt.Proper.sqrtNum_roundsOnce : RoundsOnce F r false √((numVal (.fin false ma ea) : ℚ) : ℝ) (F.sqrtNum r false (.fin false ma ea))
    (F.sqrtNum r true (.fin false ma ea)) := by
  have root (z : Bool) : F.sqrtNum r z (.fin false ma ea) = F.round r z false (sqrtJam ma ea F.fb).1 (sqrtJam ma ea F.fb).2 := by
    simp only [Fmt.sqrtNum, if_neg ha, Bool.false_eq_true, if_false]
  have once := hF.roundsOnce (n := false) (mode := r) (by omega) (sqrtJam_jams ha F.fb ea)
  rwa [sgn_false, one_mul, ← numVal_pos_cast, ← root, ← root] at once

theorem Fmt.Proper.rsqrtNum_roundsOnce : RoundsOnce F r false (1 / √((numVal (.fin false ma ea) : ℚ) : ℝ))
    (F.rsqrtNum r false (.fin false ma ea)) (F.rsqrtNum r true (.fin false ma ea)) := by
  have root (z : Bool) : F.rsqrtNum r z (.fin false ma ea) = F.round r z false (rsqrtJam ma ea F.fb).1 (rsqrtJam ma ea F.fb).2 := by
    simp only [Fmt.rsqrtNum, if_neg ha, Bool.false_eq_true, if_false]
  have once := hF.roundsOnce (n := false) (mode := r) (by omega) (rsqrtJam_jams ha F.fb ea)
  rwa [sgn_false, one_mul, ← numVal_pos_cast, ← root, ← root] at once

end

end Sys2Proof.Machine
end

section
/-! FEXP2 and FLOG2: the value of which either neighbour is delivered (R43). -/
namespace Sys2Proof.Machine
open Sys2Proof.Safety
-- One proof at a time: proofs elaborated side by side each take a thread and its stack.
set_option Elab.async false

/-! ### 2^f by roots -/

theorem two_pow_odd_ne_square (p r : ℕ) : r * r ≠ 2 ^ (2 * p + 1) := by
  intro h
  obtain ⟨j, _, rfl⟩ := (Nat.dvd_prime_pow Nat.prime_two).1 (Dvd.intro r h)
  rw [← pow_add] at h
  have := Nat.pow_right_injective le_rfl h
  omega

section
variable {p c acc : ℕ} (hc : 2 ^ p ≤ c) (hacc : 2 ^ p ≤ acc)
include hc

/-- A root of a power of two from 1 up lies between 1 and it. -/
theorem root_bounds : 2 ^ p ≤ isqrt (c * 2 ^ p) ∧ isqrt (c * 2 ^ p) ≤ c ∧ isqrt (c * 2 ^ p) * isqrt (c * 2 ^ p) ≤ c * 2 ^ p := by
  obtain ⟨lo, hi⟩ := floor_sqrt_bounds (n := c * 2 ^ p) rfl
  refine ⟨?_, ?_, lo⟩
  · rw [isqrt_eq, Nat.le_sqrt]
    exact Nat.mul_le_mul_right _ hc
  · exact Nat.mul_self_le_mul_self_iff.1 (lo.trans (Nat.mul_le_mul_left c hc))

include hacc

/-- A factor taken in keeps the product with the next factor. -/
theorem root_step (b : Bool) :
    let root := isqrt (c * 2 ^ p)
    2 ^ p ≤ (if b then acc * root / 2 ^ p else acc) ∧ (if b then acc * root / 2 ^ p else acc) * root ≤ acc * c := by
  intro root
  obtain ⟨least, most, square⟩ := root_bounds hc
  have pos : 0 < 2 ^ p := Nat.two_pow_pos p
  cases b with
  | false => exact ⟨hacc, Nat.mul_le_mul_left acc most⟩
  | true =>
    refine ⟨?_, ?_⟩
    · rw [if_pos rfl, Nat.le_div_iff_mul_le pos]
      exact Nat.mul_le_mul hacc least
    · rw [if_pos rfl]
      refine Nat.le_of_mul_le_mul_right (c := 2 ^ p) ?_ pos
      calc acc * root / 2 ^ p * root * 2 ^ p = acc * root / 2 ^ p * 2 ^ p * root := by ring
        _ ≤ acc * root * root := Nat.mul_le_mul_right _ (Nat.div_mul_le_self _ _)
        _ = acc * (root * root) := Nat.mul_assoc ..
        _ ≤ acc * (c * 2 ^ p) := Nat.mul_le_mul_left _ square
        _ = acc * c * 2 ^ p := (Nat.mul_assoc ..).symm

/-- The product of the factors of the bits lies between 1 and 2. -/
theorem exp2Frac_bounds (bits : List Bool) (h : acc * c < 2 ^ (2 * p + 1)) :
    2 ^ p ≤ exp2Frac p bits c acc ∧ exp2Frac p bits c acc < 2 ^ (p + 1) := by
  induction bits generalizing c acc with
  | nil =>
    refine ⟨hacc, Nat.lt_of_mul_lt_mul_right (a := 2 ^ p) ((Nat.mul_le_mul_left acc hc).trans_lt (h.trans_eq ?_))⟩
    rw [← pow_add]
    congr 1
    omega
  | cons b bits ih =>
    obtain ⟨least, product⟩ := root_step hc hacc b
    exact ih (root_bounds hc).1 least (product.trans_lt h)

end

/-- The first root is no square, so 2^f lies below 2. -/
theorem exp2Frac_start (p : ℕ) {bits : List Bool} (ne : bits ≠ []) :
    2 ^ p ≤ exp2Frac p bits (2 ^ (p + 1)) (2 ^ p) ∧ exp2Frac p bits (2 ^ (p + 1)) (2 ^ p) < 2 ^ (p + 1) := by
  have hc : 2 ^ p ≤ 2 ^ (p + 1) := Nat.pow_le_pow_right (by decide) (by omega)
  have product : 2 ^ (p + 1) * 2 ^ p = 2 ^ (2 * p + 1) := by rw [← pow_add]; congr 1; omega
  cases bits with
  | nil => exact absurd rfl ne
  | cons b bits =>
    obtain ⟨least, _, square⟩ := root_bounds hc
    have strict : isqrt (2 ^ (p + 1) * 2 ^ p) * isqrt (2 ^ (p + 1) * 2 ^ p) < 2 ^ (2 * p + 1) := by
      rw [product] at square ⊢
      exact lt_of_le_of_ne square (two_pow_odd_ne_square p _)
    refine exp2Frac_bounds least (root_step hc le_rfl b).1 bits ?_
    split
    · rw [Nat.mul_div_cancel_left _ (Nat.two_pow_pos p)]
      exact strict
    · exact (Nat.mul_le_mul_right _ least).trans_lt strict

theorem fracBits_ne_nil {d : ℕ} (h : d ≠ 0) (x : ℕ) : fracBits d x ≠ [] := by
  cases d with
  | zero => exact absurd rfl h
  | succ d => exact List.cons_ne_nil _ _

/-! ### FEXP2 -/

section
variable {F : Fmt} {mode : ℕ} {ftz up n : Bool} {m : ℕ} {e : ℤ}

/-- The neighbour that a choice takes. -/
def Fmt.eitherWay (F : Fmt) (mode : ℕ) (ftz up n : Bool) (m : ℕ) (e : ℤ) : ℕ × Flags :=
  F.roundWith (if up then 5 else 1) mode ftz n m e

/-- One is a value of every format, whatever the mode. -/
theorem Fmt.Proper.round_one (hF : F.Proper) (mode pick : ℕ) (ftz : Bool) :
    F.round mode ftz false 1 0 = F.roundWith pick mode ftz false 1 0 := by
  have zero : binade 1 0 = 0 := by decide
  have exact (mode : ℕ) : roundTo mode false 1 0 (binade 1 0 - F.fb) = (1 * pow2 (0 - (binade 1 0 - F.fb)), false) :=
    if_pos (by rw [zero]; omega)
  have normal : F.emin ≤ binade 1 0 := by have := hF.bias_pos; rw [zero, Fmt.emin]; omega
  rw [Fmt.round, Fmt.roundWith_high one_ne_zero normal ftz (exact mode), Fmt.roundWith_high one_ne_zero normal ftz (exact pick)]

/-- The argument in units of its last bit, and the number of these in 1. -/
def exp2Units (n : Bool) (m : ℕ) (e : ℤ) : ℤ := signedInt n (m * pow2 e)

theorem numVal_exp2Units (n : Bool) (m : ℕ) (e : ℤ) : numVal (.fin n m e) = exp2Units n m e / (2 ^ (-e).toNat : ℕ) := by
  have units : (2 : ℚ) ^ e * (2 ^ (-e).toNat : ℕ) = pow2 e := by
    rw [pow2, Nat.cast_pow, Nat.cast_pow, Nat.cast_two, ← zpow_natCast, ← zpow_natCast, ← zpow_add₀ two_ne_zero]
    congr 1
    omega
  rw [numVal_fin, exp2Units, signedInt_cast, eq_div_iff (by positivity), Nat.cast_mul, ← units]
  ring

section
variable (hm : m ≠ 0)
include hm

theorem exp2Num_large (h : 14 ≤ binade m e) : F.exp2Num mode ftz up (.fin n m e) =
    if n then F.eitherWay mode ftz up false 1 (F.emin - F.fb - 3) else F.round mode ftz false 1 (F.emax + 2) := by
  simp only [Fmt.exp2Num, if_neg hm, if_pos h, Fmt.eitherWay]

theorem exp2Num_tiny (h : binade m e < -(F.fb : ℤ) - 4) : F.exp2Num mode ftz up (.fin n m e) =
    F.eitherWay mode ftz up false (if n then 2 ^ (2 * F.fb + 8) - 1 else 2 ^ (2 * F.fb + 8) + 1) (-((2 * F.fb + 8 : ℕ) : ℤ)) := by
  cases n <;>
    simp only [Fmt.exp2Num, if_neg hm, if_neg (show ¬14 ≤ binade m e by omega), if_pos h, Fmt.eitherWay, Bool.false_eq_true, if_true, if_false]

theorem exp2Num_middle (lo : ¬14 ≤ binade m e) (hi : ¬binade m e < -(F.fb : ℤ) - 4) : F.exp2Num mode ftz up (.fin n m e) =
    if (exp2Units n m e % (2 ^ (-e).toNat : ℕ)).toNat = 0 then F.eitherWay mode ftz up false 1 (exp2Units n m e / (2 ^ (-e).toNat : ℕ))
    else F.eitherWay mode ftz up false
      (2 * exp2Frac 256 (fracBits (-e).toNat (exp2Units n m e % (2 ^ (-e).toNat : ℕ)).toNat) (2 ^ (256 + 1)) (2 ^ 256) + 1)
      (exp2Units n m e / (2 ^ (-e).toNat : ℕ) - (256 : ℕ) - 1) := by
  rw [show exp2Units n m e = if n then -((m * pow2 e : ℕ) : ℤ) else ((m * pow2 e : ℕ) : ℤ) from rfl]
  simp only [Fmt.exp2Num, if_neg hm, if_neg lo, if_neg hi, Fmt.eitherWay]

/-- The greatest binade below which the power is formed. -/
theorem large_iff : 14 ≤ binade m e ↔ (2 : ℚ) ^ 14 ≤ |numVal (.fin n m e)| := by
  rw [abs_numVal]
  refine ⟨fun h => le_trans ?_ (binade_le hm e), fun h => ?_⟩
  · exact_mod_cast zpow_le_zpow_right₀ (one_le_two (α := ℚ)) h
  · by_contra low
    have below : (m : ℚ) * 2 ^ e < 2 ^ (14 : ℤ) := (lt_binade m e).trans_le (zpow_le_zpow_right₀ one_le_two (by omega))
    exact absurd h (not_le.2 (by exact_mod_cast below))

omit hm in
theorem lt_one_of_tiny (h : binade m e < -(F.fb : ℤ) - 4) : |numVal (.fin n m e)| < 1 := by
  rw [abs_numVal, ← zpow_zero (2 : ℚ)]
  exact (lt_binade m e).trans_le (zpow_le_zpow_right₀ one_le_two (by omega))

end

/-- Between two whole numbers a quotient has the lower one as its whole part and a remainder. -/
theorem ediv_of_between {a k : ℤ} {D : ℕ} (hD : 0 < D) (lo : (k : ℚ) < a / D) (hi : (a : ℚ) / D < k + 1) : a / D = k ∧ a % D ≠ 0 := by
  have pos : (0 : ℚ) < D := Nat.cast_pos.2 hD
  rw [lt_div_iff₀ pos] at lo
  rw [div_lt_iff₀ pos] at hi
  have lo : k * D < a := by exact_mod_cast lo
  have hi : a < (k + 1) * D := by exact_mod_cast hi
  have quotient : a / D = k :=
    le_antisymm (Int.lt_add_one_iff.1 (Int.ediv_lt_of_lt_mul (by exact_mod_cast hD) hi)) (Int.le_ediv_of_mul_le (by exact_mod_cast hD) lo.le)
  refine ⟨quotient, fun exact => ?_⟩
  have := Int.emod_add_mul_ediv a D
  rw [exact, quotient, mul_comm] at this
  omega

section
variable {k : ℤ}

/-- An integer argument gives its power of two. -/
theorem Fmt.Proper.exp2Num_integer (hF : F.Proper) (hx : numVal (.fin n m e) = k) (small : |numVal (.fin n m e)| < 2 ^ 14) :
    F.exp2Num mode ftz up (.fin n m e) = F.eitherWay mode ftz up false 1 k := by
  by_cases hm : m = 0
  · subst hm
    have : k = 0 := by rw [numVal_eq_zero.2 rfl] at hx; exact_mod_cast hx.symm
    rw [this]
    exact hF.round_one mode _ ftz
  · have low : ¬14 ≤ binade m e := fun h => absurd ((large_iff hm).1 h) (not_le.2 small)
    have notTiny : ¬binade m e < -(F.fb : ℤ) - 4 := fun h => by
      have lt := lt_one_of_tiny (n := n) h
      have ne : numVal (.fin n m e) ≠ 0 := mt numVal_eq_zero.1 hm
      rw [hx] at lt ne
      have : |k| < 1 := by exact_mod_cast lt
      exact ne (by exact_mod_cast Int.abs_lt_one_iff.1 this)
    have units : exp2Units n m e = k * (2 ^ (-e).toNat : ℕ) := by
      rw [numVal_exp2Units, div_eq_iff (by positivity)] at hx
      exact_mod_cast hx
    have pos : ((2 ^ (-e).toNat : ℕ) : ℤ) ≠ 0 := by positivity
    rw [exp2Num_middle hm low notTiny, units, Int.mul_emod_left, Int.mul_ediv_cancel _ pos]
    exact if_pos rfl

/-- Between two integers the value lies strictly between their powers of two. -/
theorem exp2Num_between (lo : (k : ℚ) < numVal (.fin n m e)) (hi : numVal (.fin n m e) < k + 1)
    (small : |numVal (.fin n m e)| < 2 ^ 14) : ∃ m' e', (∀ up, F.exp2Num mode ftz up (.fin n m e) = F.eitherWay mode ftz up false m' e') ∧
      (2 : ℚ) ^ k < numVal (.fin false m' e') ∧ numVal (.fin false m' e') < (2 : ℚ) ^ (k + 1) := by
  have hm : m ≠ 0 := by
    rintro rfl
    rw [numVal_eq_zero.2 rfl] at lo hi
    have : k < 0 := by exact_mod_cast lo
    have : 0 < k + 1 := by exact_mod_cast hi
    omega
  have low : ¬14 ≤ binade m e := fun h => absurd ((large_iff hm).1 h) (not_le.2 small)
  by_cases tiny : binade m e < -(F.fb : ℤ) - 4
  · refine ⟨_, _, fun up => exp2Num_tiny hm tiny, ?_⟩
    have near := abs_lt.1 (lt_one_of_tiny (n := n) tiny)
    have magnitude : (0 : ℚ) < m * 2 ^ e := mul_pos (Nat.cast_pos.2 (Nat.pos_of_ne_zero hm)) (two_zpow_pos e)
    have wide : (2 : ℚ) < 2 ^ (2 * F.fb + 8) := by
      calc (2 : ℚ) = 2 ^ 1 := (pow_one 2).symm
        _ < 2 ^ (2 * F.fb + 8) := pow_lt_pow_right₀ one_lt_two (by omega)
    have pos : (0 : ℚ) < 2 ^ (2 * F.fb + 8) := by positivity
    rw [numVal_fin, sgn_false, one_mul, zpow_neg, zpow_natCast, ← div_eq_mul_inv, lt_div_iff₀ pos, div_lt_iff₀ pos]
    cases n with
    | true =>
      have : k = -1 := by
        rw [numVal_fin, sgn_true] at lo hi near
        have : (k : ℚ) < 0 := by linarith
        have : (-1 : ℚ) < k + 1 := by linarith
        have : k < 0 := by exact_mod_cast ‹(k : ℚ) < 0›
        have : -1 < k + 1 := by exact_mod_cast ‹(-1 : ℚ) < k + 1›
        omega
      rw [this, if_pos rfl, Nat.cast_sub Nat.one_le_two_pow]
      push_cast
      norm_num
      linarith
    | false =>
      have : k = 0 := by
        rw [numVal_fin, sgn_false] at lo hi near
        have : (k : ℚ) < 1 := by linarith
        have : (0 : ℚ) < k + 1 := by linarith
        have : k < 1 := by exact_mod_cast ‹(k : ℚ) < 1›
        have : 0 < k + 1 := by exact_mod_cast ‹(0 : ℚ) < k + 1›
        omega
      rw [this, if_neg Bool.false_ne_true]
      push_cast
      norm_num
      linarith
  · rw [numVal_exp2Units] at lo hi
    obtain ⟨whole, frac⟩ := ediv_of_between (Nat.two_pow_pos _) lo hi
    have part : 0 ≤ exp2Units n m e % (2 ^ (-e).toNat : ℕ) := Int.emod_nonneg _ (by positivity)
    have digits : (-e).toNat ≠ 0 := fun h => by rw [h, pow_zero, Nat.cast_one, Int.emod_one] at frac; exact frac rfl
    have fraction : ¬(exp2Units n m e % (2 ^ (-e).toNat : ℕ)).toNat = 0 := by omega
    refine ⟨_, _, fun up => (exp2Num_middle hm low tiny).trans (if_neg fraction), ?_⟩
    obtain ⟨least, below⟩ := exp2Frac_start 256 (fracBits_ne_nil digits (exp2Units n m e % (2 ^ (-e).toNat : ℕ)).toNat)
    generalize exp2Frac 256 (fracBits (-e).toNat (exp2Units n m e % (2 ^ (-e).toNat : ℕ)).toNat) (2 ^ (256 + 1)) (2 ^ 256) = y at *
    have unit : (2 : ℚ) ^ k = ((2 ^ 257 : ℕ) : ℚ) * 2 ^ (k - (256 : ℕ) - 1) := by
      rw [Nat.cast_pow, Nat.cast_two, ← zpow_natCast, ← zpow_add₀ two_ne_zero]
      congr 1
      push_cast
      ring
    rw [numVal_fin, sgn_false, one_mul, whole, zpow_add_one₀ two_ne_zero, unit, mul_right_comm, mul_lt_mul_iff_left₀ (two_zpow_pos _),
      mul_lt_mul_iff_left₀ (two_zpow_pos _)]
    have double : (2 : ℕ) ^ 257 = 2 * 2 ^ 256 := by rw [← pow_succ']
    have double' : (2 : ℕ) ^ (256 + 1) = 2 * 2 ^ 256 := by rw [← pow_succ']
    rw [double'] at below
    rw [double]
    generalize (2 : ℕ) ^ 256 = P at *
    refine ⟨?_, ?_⟩
    · exact_mod_cast (show 2 * P < 2 * y + 1 by omega)
    · exact_mod_cast (show 2 * y + 1 < 2 * P * 2 by omega)

theorem exp2Num_beyond (h : (2 : ℚ) ^ 14 ≤ |numVal (.fin n m e)|) : F.exp2Num mode ftz up (.fin n m e) =
    if n then F.eitherWay mode ftz up false 1 (F.emin - F.fb - 3) else F.round mode ftz false 1 (F.emax + 2) := by
  have hm : m ≠ 0 := by
    rintro rfl
    rw [numVal_eq_zero.2 rfl, abs_zero] at h
    norm_num at h
  exact exp2Num_large hm ((large_iff hm).2 h)

end

/-! ### FLOG2 -/

/-- As many bits as asked for follow those before. -/
theorem log2Bits_lt (p w y acc : ℕ) : log2Bits p w y acc < (acc + 1) * 2 ^ w := by
  induction w generalizing y acc with
  | zero => simp [log2Bits]
  | succ w ih =>
    have double : (acc + 1) * 2 ^ (w + 1) = (2 * acc + 1 + 1) * 2 ^ w := by ring
    rw [log2Bits, double]
    split
    case isTrue => exact ih _ _
    case isFalse => exact (ih _ _).trans_le (Nat.mul_le_mul_right _ (by omega))

/-- The bits of the logarithm between two integers. -/
def log2Fraction (F : Fmt) (m : ℕ) : ℕ :=
  log2Bits (2 * (2 * F.fb + 80) + 64) (2 * F.fb + 80) (m * 2 ^ (2 * (2 * F.fb + 80) + 64 - Nat.log2 m)) 0

theorem log2Fraction_lt (F : Fmt) (m : ℕ) : log2Fraction F m < 2 ^ (2 * F.fb + 80) :=
  (log2Bits_lt _ _ _ 0).trans_eq (by rw [Nat.zero_add, Nat.one_mul])

section
variable (hm : m ≠ 0)
include hm

theorem log2Num_power (h : m = 2 ^ Nat.log2 m) :
    F.log2Num mode ftz up (.fin false m e) = F.round mode ftz (decide (binade m e < 0)) (binade m e).natAbs 0 := by
  simp only [Fmt.log2Num, if_neg hm, if_pos h, Bool.false_eq_true, if_false]

theorem log2Num_other (h : ¬m = 2 ^ Nat.log2 m) {v : ℤ} (hv : binade m e * (2 ^ (2 * F.fb + 80) : ℕ) + log2Fraction F m = v) :
    F.log2Num mode ftz up (.fin false m e) =
      F.eitherWay mode ftz up (decide (binade m e < 0)) (if binade m e < 0 then 2 * (v.natAbs - 1) + 1 else 2 * v.natAbs + 1)
        (-((2 * F.fb + 80 : ℕ) : ℤ) - 1) := by
  subst hv
  by_cases low : binade m e < 0
  · simp only [Fmt.log2Num, if_neg hm, if_neg h, if_pos low, Bool.false_eq_true, if_false, Fmt.eitherWay, log2Fraction, decide_eq_true low]
  · simp only [Fmt.log2Num, if_neg hm, if_neg h, if_neg low, Bool.false_eq_true, if_false, Fmt.eitherWay, log2Fraction, decide_eq_false low]

end

/-- A positive number has no sign and a magnitude. -/
theorem pos_fin (h : 0 < numVal (.fin n m e)) : n = false ∧ m ≠ 0 ∧ numVal (.fin n m e) = m * 2 ^ e := by
  have magnitude : (0 : ℚ) ≤ m * 2 ^ e := mul_nonneg (Nat.cast_nonneg m) (two_zpow_pos e).le
  cases n with
  | true => rw [numVal_fin, sgn_true] at h; linarith
  | false => exact ⟨rfl, fun zero => h.ne' (numVal_eq_zero.2 zero), by rw [numVal_fin, sgn_false, one_mul]⟩

section
variable {k : ℤ}

/-- A power of two has its exponent for its logarithm. -/
theorem log2Num_two_pow (hx : numVal (.fin n m e) = (2 : ℚ) ^ k) :
    F.log2Num mode ftz up (.fin n m e) = F.round mode ftz (decide (k < 0)) k.natAbs 0 := by
  obtain ⟨rfl, hm, value⟩ := pos_fin (hx ▸ two_zpow_pos k)
  rw [hx] at value
  have exponent : binade m e = k :=
    binade_eq (α := ℚ) value.le (value ▸ zpow_lt_zpow_right₀ one_lt_two (by omega))
  have power : m = 2 ^ Nat.log2 m := by
    rw [← exponent, binade, zpow_add₀ two_ne_zero, mul_left_inj' (two_zpow_pos e).ne', zpow_natCast] at value
    exact_mod_cast value.symm
  rw [log2Num_power hm power, exponent]

/-- Between two powers of two the value lies strictly between their exponents. -/
theorem log2Num_between (lo : (2 : ℚ) ^ k < numVal (.fin n m e)) (hi : numVal (.fin n m e) < (2 : ℚ) ^ (k + 1)) :
    ∃ n' m' e', (∀ up, F.log2Num mode ftz up (.fin n m e) = F.eitherWay mode ftz up n' m' e') ∧
      (k : ℚ) < numVal (.fin n' m' e') ∧ numVal (.fin n' m' e') < k + 1 := by
  obtain ⟨rfl, hm, value⟩ := pos_fin ((two_zpow_pos k).trans lo)
  rw [value] at lo hi
  have exponent : binade m e = k := binade_eq (α := ℚ) lo.le hi
  have noPower : ¬m = 2 ^ Nat.log2 m := fun h => by
    have : (m : ℚ) = 2 ^ (Nat.log2 m : ℤ) := by rw [zpow_natCast]; exact_mod_cast h
    rw [this, ← zpow_add₀ two_ne_zero, ← binade, exponent] at lo
    exact lo.false
  obtain ⟨v, hv⟩ : ∃ v : ℤ, binade m e * (2 ^ (2 * F.fb + 80) : ℕ) + log2Fraction F m = v := ⟨_, rfl⟩
  refine ⟨_, _, _, fun up => log2Num_other hm noPower hv, ?_⟩
  have bits := log2Fraction_lt F m
  have signed : numVal (.fin (decide (binade m e < 0)) (if binade m e < 0 then 2 * (v.natAbs - 1) + 1 else 2 * v.natAbs + 1)
      (-((2 * F.fb + 80 : ℕ) : ℤ) - 1)) = ((2 * v + 1 : ℤ) : ℚ) * 2 ^ (-((2 * F.fb + 80 : ℕ) : ℤ) - 1) := by
    rw [numVal_fin, ← mul_assoc, ← signedInt_cast]
    congr 2
    have pos : (0 : ℤ) < (2 ^ (2 * F.fb + 80) : ℕ) := by positivity
    by_cases low : binade m e < 0
    · have : binade m e * (2 ^ (2 * F.fb + 80) : ℕ) ≤ -1 * (2 ^ (2 * F.fb + 80) : ℕ) := by gcongr; omega
      rw [decide_eq_true low, if_pos low, signedInt, if_pos rfl]
      omega
    · have : 0 ≤ binade m e * (2 ^ (2 * F.fb + 80) : ℕ) := mul_nonneg (by omega) pos.le
      rw [decide_eq_false low, if_neg low, signedInt, if_neg Bool.false_ne_true]
      omega
  have unit : (2 : ℚ) ^ (-((2 * F.fb + 80 : ℕ) : ℤ) - 1) = ((2 * 2 ^ (2 * F.fb + 80) : ℕ) : ℚ)⁻¹ := by
    rw [← neg_add', zpow_neg, ← Nat.cast_succ, zpow_natCast, pow_succ']
    push_cast
    rfl
  rw [signed, unit, ← div_eq_mul_inv, lt_div_iff₀ (by positivity), div_lt_iff₀ (by positivity)]
  rw [exponent] at hv
  generalize 2 ^ (2 * F.fb + 80) = P at *
  subst hv
  refine ⟨?_, ?_⟩
  · have : k * (2 * P : ℕ) < 2 * (k * P + log2Fraction F m) + 1 := by push_cast; linarith
    exact_mod_cast this
  · have : 2 * (k * P + log2Fraction F m) + 1 < (k + 1) * (2 * P : ℕ) := by push_cast; linarith
    exact_mod_cast this

end

theorem log2Num_zero (hx : numVal (.fin n m e) = 0) : F.log2Num mode ftz up (.fin n m e) = (F.infBits true, 0) :=
  if_pos (numVal_eq_zero.1 hx)

theorem log2Num_negative (hx : numVal (.fin n m e) < 0) : F.log2Num mode ftz up (.fin n m e) = (F.nanBits, flInv) := by
  have hm : m ≠ 0 := fun zero => hx.ne (numVal_eq_zero.2 zero)
  have magnitude : (0 : ℚ) ≤ m * 2 ^ e := mul_nonneg (Nat.cast_nonneg m) (two_zpow_pos e).le
  cases n with
  | true => exact if_neg hm
  | false => rw [numVal_fin, sgn_false] at hx; linarith

end

end Sys2Proof.Machine
end

section
/-! FMIN and FMAX: a pattern's value is rounded back to it, and the choice between two operands (R119). -/
namespace Sys2Proof.Machine
open Sys2Proof.Safety
-- One proof at a time: proofs elaborated side by side each take a thread and its stack.
set_option Elab.async false

/-! ### A value of the format is its own rounding -/

section
variable {F : Fmt} (hF : F.Proper)
include hF

theorem Fmt.Proper.round_decoded {c : ℕ} (hc : c < F.infCode) {n : Bool} {m : ℕ} {e : ℤ}
    (value : (m : ℚ) * 2 ^ e = gridVal ℚ F.fb F.bias c) :
    (F.round 0 false n m e).1 = F.signBit n + c := by
  have mono := gridVal_strictMono (α := ℚ) F.fb F.bias
  obtain ⟨d, fl, rounded, _, unflushed, _⟩ := hF.roundWith_within (mode := 0) (neg := n) (by decide) (.inl value) (mono.monotone (by omega))
  obtain ⟨_, near⟩ := rounded.even rfl
  have zero := (near c (by omega)).1
  rw [sub_self, abs_zero, abs_nonpos_iff, sub_eq_zero] at zero
  rw [Fmt.round, unflushed, mono.injective zero]

omit hF in
/-- A pattern of an infinity. -/
theorem Fmt.infinite_pattern (F : Fmt) {p : ℕ} (h : F.infCode ≤ F.mag p) (notNan : (F.decode false p).isNan = false) :
    F.decode false p = .inf (F.negBit p) ∧ F.mag p = F.infCode := by
  have ones := (F.exponent_eq_iff p).2 h
  unfold Fmt.decode at notNan ⊢
  simp only [F.exponentField, F.fractionField, ones, if_true] at notNan ⊢
  by_cases fraction : F.mag p % 2 ^ F.fb = 0
  · rw [if_pos fraction]
    have := Nat.div_add_mod (F.mag p) (2 ^ F.fb)
    rw [fraction, ones, Nat.add_zero, Nat.mul_comm] at this
    exact ⟨rfl, this.symm⟩
  · rw [if_neg fraction] at notNan
    cases notNan

theorem Fmt.Proper.encode_decode {p : ℕ} (hp : p < 2 ^ F.width) (notNan : (F.decode false p).isNan = false) :
    (F.encode 0 false (F.decode false p)).1 = p := by
  by_cases finite : F.mag p < F.infCode
  · obtain ⟨m, e, eq, value⟩ := F.decode_finite finite
    rw [eq]
    exact (hF.round_decoded finite value).trans (F.eq_signBit_add hp).symm
  · obtain ⟨eq, mag⟩ := F.infinite_pattern (not_lt.1 finite) notNan
    have whole := F.eq_signBit_add hp
    rw [mag, ← Fmt.infBits_eq] at whole
    rw [eq]
    exact whole.symm

end

/-! ### The lesser and the greater -/

/-- The operand that FMIN or FMAX takes where neither is a NaN. -/
def chosen (greater : Bool) (a b : Num) : Num := if (a.less true b) != greater then a else b

section
variable (F : Fmt) (greater z : Bool) (x y : ℕ)

theorem Fmt.minMax_signalling (h : (F.decode z x).isSnan = true ∨ (F.decode z y).isSnan = true) :
    F.minMax greater z x y = (F.nanBits, flInv) := if_pos (Bool.or_eq_true_iff.2 h)

variable (ha : (F.decode z x).isSnan = false) (hb : (F.decode z y).isSnan = false)
include ha hb

theorem Fmt.minMax_left_nan (h : (F.decode z x).isNan = true) : F.minMax greater z x y =
    if (F.decode z y).isNan then (F.nanBits, 0) else ((F.encode 0 false (F.decode z y)).1, 0) := by
  cases hy : (F.decode z y).isNan <;> simp [Fmt.minMax, ha, hb, h, hy]

theorem Fmt.minMax_right_nan (hx : (F.decode z x).isNan = false) (h : (F.decode z y).isNan = true) :
    F.minMax greater z x y = ((F.encode 0 false (F.decode z x)).1, 0) := by
  simp [Fmt.minMax, ha, hb, hx, h]

theorem Fmt.minMax_chosen (hx : (F.decode z x).isNan = false) (hy : (F.decode z y).isNan = false) :
    F.minMax greater z x y = ((F.encode 0 false (chosen greater (F.decode z x) (F.decode z y))).1, 0) := by
  simp only [Fmt.minMax, ha, hb, hx, hy, chosen, Bool.or_self, Bool.and_self, Bool.false_eq_true, if_false]
  split
  · rfl
  · rfl

end

section
variable (greater : Bool)

/-- Beside an infinity: the lesser of all for FMIN, the greater of all for FMAX. -/
theorem chosen_infinite {a b : Num} (ha : a.isNan = false) (hb : b.isNan = false) :
    (a = .inf (!greater) ∨ b = .inf (!greater) → chosen greater a b = .inf (!greater)) ∧ (a = .inf greater → chosen greater a b = b) ∧
      (b = .inf greater → chosen greater a b = a) := by
  cases a with
  | nan => cases ha
  | inf n =>
    cases b with
    | nan => cases hb
    | inf k => revert greater n k; decide
    | fin => cases n <;> cases greater <;> simp [chosen, Num.less]
  | fin =>
    cases b with
    | nan => cases hb
    | inf k => cases k <;> cases greater <;> simp [chosen, Num.less]
    | fin => simp

/-- Equal numbers have the same sign, or both are zeros. -/
theorem sign_of_numVal_eq {n k : Bool} {m l : ℕ} {e f : ℤ} (h : numVal (.fin n m e) = numVal (.fin k l f)) :
    n = k ∨ (m = 0 ∧ l = 0) := by
  by_cases hm : m = 0
  · subst hm
    rw [numVal_eq_zero.2 rfl, eq_comm, numVal_eq_zero] at h
    exact .inr ⟨rfl, h⟩
  · left
    rw [numVal_fin, numVal_fin] at h
    have pos : (0 : ℚ) < m * 2 ^ e := mul_pos (Nat.cast_pos.2 (Nat.pos_of_ne_zero hm)) (two_zpow_pos e)
    have nonneg : (0 : ℚ) ≤ l * 2 ^ f := mul_nonneg (Nat.cast_nonneg l) (two_zpow_pos f).le
    cases n <;> cases k <;> simp at h ⊢ <;> linarith

theorem eq_or_and_of_imp : ∀ n k : Bool, (n = true → k = true) → k = (n || k) ∧ n = (n && k) := by decide

/-- Of two finite numbers the lesser, -0 below +0, or the greater. -/
theorem chosen_finite {a b : Num} (ha : a.isNan = false) (hb : b.isNan = false) (ha' : a.isInf = false) (hb' : b.isInf = false) :
    (greater = false → numVal (chosen greater a b) ≤ numVal a ∧ numVal (chosen greater a b) ≤ numVal b ∧
      (numVal a = numVal b → (chosen greater a b).neg = (a.neg || b.neg))) ∧
    (greater = true → numVal a ≤ numVal (chosen greater a b) ∧ numVal b ≤ numVal (chosen greater a b) ∧
      (numVal a = numVal b → (chosen greater a b).neg = (a.neg && b.neg))) := by
  obtain ⟨n, m, e, rfl⟩ := exists_fin ha ha'
  obtain ⟨k, l, f, rfl⟩ := exists_fin hb hb'
  have order := less_fin true n k m l e f
  have sign := sign_of_numVal_eq (n := n) (m := m) (e := e) (k := k) (l := l) (f := f)
  by_cases less : Num.less true (.fin n m e) (.fin k l f) = true
  · have le : numVal (.fin n m e) ≤ numVal (.fin k l f) := by
      rcases order.1 less with lt | ⟨hm, hl, _⟩
      · exact lt.le
      · rw [numVal_eq_zero.2 hm, numVal_eq_zero.2 hl]
    have signs (eq : numVal (.fin n m e) = numVal (.fin k l f)) : n = true ∧ k = false :=
      ((order.1 less).resolve_left eq.not_lt).2.2.2
    refine ⟨?_, ?_⟩
    · rintro rfl
      rw [chosen, less, if_pos (show (true != false) = true from rfl)]
      exact ⟨le_rfl, le, fun eq => by simp [Num.neg, (signs eq).1]⟩
    · rintro rfl
      rw [chosen, less, if_neg (show ¬(true != true) = true by decide)]
      exact ⟨le, le_rfl, fun eq => by simp [Num.neg, (signs eq).2]⟩
  · have ge : numVal (.fin k l f) ≤ numVal (.fin n m e) := not_lt.1 fun lt => less (order.2 (.inl lt))
    have signs (eq : numVal (.fin n m e) = numVal (.fin k l f)) : n = true → k = true := by
      rcases sign eq with same | ⟨hm, hl⟩
      · exact fun h => same ▸ h
      · intro h
        by_contra hk
        exact less (order.2 (.inr ⟨hm, hl, rfl, h, by simpa using hk⟩))
    rw [Bool.not_eq_true] at less
    refine ⟨?_, ?_⟩
    · rintro rfl
      rw [chosen, less, if_neg (show ¬(false != false) = true by decide)]
      exact ⟨ge, le_rfl, fun eq => (eq_or_and_of_imp n k (signs eq)).1⟩
    · rintro rfl
      rw [chosen, less, if_pos (show (false != true) = true from rfl)]
      exact ⟨le_rfl, ge, fun eq => (eq_or_and_of_imp n k (signs eq)).2⟩

end

end Sys2Proof.Machine
end

section
/-! The vector float instructions (R39 to R43, R119, R120). -/
namespace Sys2Proof.Machine
open Sys2Proof.Safety
-- One proof at a time: proofs elaborated side by side each take a thread and its stack.
set_option Elab.async false

/-- Settles O22: the instructions by their shapes; a rounding by its quantum on the scale of the format; quotients and roots by their leading
bits; FEXP2 and FLOG2 by bounds on the value that is rounded. -/
theorem vectorFloatResults : Obligations.VectorFloatResults := by
  refine ⟨?_, ?_, fun t r n m e hr => (fmtOf_proper t).round_exact hr n m e, ?_, ?_, ?_, ?_⟩
  · intro s G d a b z r num two three one
    refine ⟨fun h => ?_, fun h => ?_, fun h => ?_⟩
    · exact ⟨(exec_fadd ..).trans (float2_ok h), (exec_fsub ..).trans (float2_ok h), (exec_fmul ..).trans (float2_ok h),
        (exec_fdiv ..).trans (float2_ok h), (exec_fmin ..).trans (elemwise2_ok h), (exec_fmax ..).trans (elemwise2_ok h),
        (exec_fsgnj ..).trans (elemwise2_ok h)⟩
    · exact ⟨(exec_fma ..).trans (float3_ok h), (exec_fms ..).trans (float3_ok h), (exec_fnma ..).trans (float3_ok h)⟩
    · exact ⟨(exec_fabs ..).trans (float1_ok h), (exec_fneg ..).trans (float1_ok h), (exec_fsqrt ..).trans (float1_ok h),
        (exec_frsq ..).trans (float1_ok h)⟩
  · intro s G d a h next
    exact ⟨Config.upperNeighbour s.tick, (exec_fexp2 ..).trans (faithful_ok h), (exec_flog2 ..).trans (faithful_ok h)⟩
  · intro F r z na nb nc ma mb mc ea eb ec a b c p q w nan
    exact ⟨F.addNum_fin r z na nb ma mb ea eb, F.mulNum_fin r z na nb ma mb ea eb, F.fmaNum_fin r z na nb nc ma mb mc ea eb ec,
      fun h => ⟨F.addNum_nan r z h, F.mulNum_nan r z h, F.divNum_nan r z h, F.fmaNum_nan r z h⟩,
      fun h => ⟨F.fmaNum_addend_nan r z na nb ma mb ea eb h, F.sqrtNum_nan r z h⟩,
      F.addNum_opposite_inf r z na, rfl, F.mulNum_inf_zero r z na nb eb, (F.fmaNum_inf_zero r z na nb eb c).1,
      (F.fmaNum_inf_zero r z na nb eb c).2, fun hm => ⟨F.divNum_by_zero r z na nb ma ea eb hm, F.sqrtNum_negative r z ma ea hm⟩,
      rfl, rfl, rfl, F.divNum_zero r z na nb mb ea eb, rfl, (F.sqrtNum_inf r z na).1, rfl, (F.sqrtNum_inf r z na).2⟩
  · intro t r na nb ma mb ea eb hr ha hb F p q pos
    have hF := fmtOf_proper t
    exact ⟨hF.divNum_roundsOnce hr ha hb, hF.sqrtNum_roundsOnce hr ha, hF.rsqrtNum_roundsOnce hr ha, hF.neighbours⟩
  · intro t r z n m e k _ F p x either
    refine ⟨fun hx small up => (fmtOf_proper t).exp2Num_integer hx small, exp2Num_between, fun h up => ?_, fun h up => ?_,
      fun hx up => log2Num_two_pow hx, log2Num_between,
      fun up => ⟨log2Num_zero, log2Num_negative, rfl, rfl⟩⟩
    · have positive : n = false := (pos_fin (lt_of_lt_of_le (by norm_num) h)).1
      exact (exp2Num_beyond (h.trans (le_abs_self _))).trans (by rw [positive]; rfl)
    · have negative : n = true := by
        cases hn : n with
        | true => rfl
        | false =>
          have : (0 : ℚ) ≤ m * 2 ^ e := mul_nonneg (Nat.cast_nonneg m) (two_zpow_pos e).le
          rw [show x = m * 2 ^ e by rw [show x = _ from numVal_fin n m e, hn, sgn_false, one_mul]] at h
          linarith
      exact (exp2Num_beyond (le_abs.2 (.inr (le_neg.1 h)))).trans (by rw [negative]; rfl)
  · intro t z x y F a b bits
    refine ⟨fun hx notNan => Prod.ext ((fmtOf_proper t).encode_decode hx notNan) rfl, fun greater => ⟨?_, ?_, ?_, ?_⟩⟩
    · exact F.minMax_signalling greater z x y
    · exact F.minMax_left_nan greater z x y
    · intro ha hb hs
      exact F.minMax_right_nan greater z x y (Num.isSnan_of_not_nan ha) hs ha hb
    · intro ha hb
      refine ⟨chosen greater a b, ?_, F.minMax_chosen greater z x y (Num.isSnan_of_not_nan ha) (Num.isSnan_of_not_nan hb) ha hb, ?_⟩
      · unfold chosen
        split
        · exact .inl rfl
        · exact .inr rfl
      · obtain ⟨all, left, right⟩ := chosen_infinite greater ha hb
        exact ⟨all, left, right, chosen_finite greater ha hb⟩

end Sys2Proof.Machine
end

section
/-! Accesses of several lanes: the values that a load gives lane by lane, and the bytes that a store leaves (R135 to R139). -/
namespace Sys2Proof.Machine
open Sys2Proof.Safety
-- One proof at a time: proofs elaborated side by side each take a thread and its stack.
set_option Elab.async false

/-! ### Lanes -/

/-- A list worked through by steps that each leave the state alone leaves it alone. -/
theorem foldl_eq_self {α β : Type} {f : β → α → β} {b : β} {l : List α} (h : ∀ a ∈ l, f b a = b) : l.foldl f b = b :=
  List.foldlRecOn (motive := (· = b)) l f rfl fun x hx a ha => by rw [hx, h a ha]

theorem lanesOf_sorted (m : Word) : (lanesOf m).Pairwise (· < ·) := by
  rw [lanesOf, tabList_eq_map, List.map_id]
  exact List.Pairwise.filter _ List.pairwise_lt_range'

/-- An Active lane stands before the higher ones. -/
theorem lanesOf_split {m : Word} {L : Nat} (h : m.getLsbD L = true) :
    ∃ l r, lanesOf m = l ++ L :: r ∧ ∀ M ∈ r, L < M ∧ m.getLsbD M = true := by
  obtain ⟨l, r, eq⟩ := List.append_of_mem (mem_lanesOf.2 h)
  have sorted := lanesOf_sorted m
  rw [eq, List.pairwise_append, List.pairwise_cons] at sorted
  exact ⟨l, r, eq, fun M hM => ⟨sorted.2.1.1 M hM, mem_lanesOf.1 (by rw [eq]; simp [hM])⟩⟩

/-- The value of a lane that has one part. -/
theorem laneValue_lanes {m : Word} {f : Nat → Nat} {L : Nat} (h : m.getLsbD L = true) :
    laneValue ((lanesOf m).map fun L => (L, f L)) L = f L := by
  have once : (lanesOf m).filter (· == L) = [L] := by
    rw [List.filter_beq, List.count_eq_one_of_mem (lanesOf_sorted m).nodup (mem_lanesOf.2 h)]; rfl
  have same : (fun v : Nat × Nat => v.1 == L) ∘ (fun L => (L, f L)) = (· == L) := rfl
  rw [laneValue, List.filter_map, same, once]
  simp

/-! ### Registers -/

theorem Group.setV_congr (g : Group) (i : Nat) {m : Word} {f h : Nat → Word32} (same : ∀ L, m.getLsbD L = true → f L = h L) :
    g.setV i m f = g.setV i m h := by
  have entry : (fun L => if bit m L then f L else g.lane i L) = fun L => if bit m L then h L else g.lane i L := by
    funext L
    split
    · exact same L ‹_›
    · rfl
  rw [Group.setV, entry, Group.setV]

theorem Group.setV64_congr (g : Group) (i : Nat) {m : Word} {f h : Nat → Word} (same : ∀ L, m.getLsbD L = true → f L = h L) :
    g.setV64 i m f = g.setV64 i m h := by
  unfold Group.setV64
  rw [g.setV_congr i (h := fun L => (h L).extractLsb' 0 32) fun L hL => by rw [same L hL],
    Group.setV_congr _ (i + 1) (h := fun L => (h L).extractLsb' 32 32) fun L hL => by rw [same L hL]]

/-- A load writes the values of its Active lanes alone (R137). -/
theorem Group.putLoad_congr (g : Group) (d : VReg) {m : Word} (size : Nat) {f h : Nat → Nat}
    (same : ∀ L, m.getLsbD L = true → f L = h L) : g.putLoad d m size f = g.putLoad d m size h := by
  unfold Group.putLoad
  split
  · exact g.setV64_congr _ fun L hL => by rw [same L hL]
  · exact g.setV_congr _ fun L hL => by rw [same L hL]

end Sys2Proof.Machine

namespace Sys2Proof.Safety
open Sys2Proof.Machine

/-! ### Loads of several parts -/

/-- Every part lies in memory outside HOME 0, under a slot without encryption. -/
def PlainParts (s : State) (ps : List Part) : Prop := ∀ p ∈ ps, PlainPart s p p.place

theorem PlainPart.place {s : State} {p : Part} {loc : Nat} (hp : PlainPart s p loc) : p.place = loc := by
  simp [Part.place, hp.site]

section
variable {s : State} {ps : List Part} (h : Calm s) (hp : PlainParts s ps)
include h hp

theorem PlainParts.gatherParts (sent : List Byte) :
    s.gatherParts ps sent = ps.map fun p => (p.lane, memNat s p.place p.len * 256 ^ p.off) := by
  induction ps with
  | nil => rfl
  | cons p r ih =>
    have first := hp p (List.mem_cons_self ..)
    rw [List.map_cons, ← ih fun q hq => hp q (List.mem_cons_of_mem _ hq)]
    simp only [State.gatherParts, first.site, first.partBytes h]
    rfl

/-- In a calm state the load of plain parts reads the bytes of memory at their places; the rows that it activates are all that it changes
(R137, R358). -/
theorem PlainParts.loadParts (scalar : Bool) :
    s.loadParts scalar ps = .ok (ps.map fun p => (p.lane, memNat s p.place p.len * 256 ^ p.off), s.activate ps) := by
  have eq := s.activate_eq ps
  have asks : s.askParts ps = [] := List.filter_eq_nil_iff.2 fun p m => by simp [(hp p m).isPeer]
  have peers (wait : State → Stop) : s.peerReads scalar [] [] wait = .ok () := rfl
  have served : ps.map s.servedPart = ps := by rw [List.map_congr_left fun p _ => h.servedPart p, List.map_id']
  have calm : Calm (s.activate ps) := h.of_rows (s.activate_rowsOnly ps) eq
  have plain : PlainParts (s.activate ps) ps := fun p m => ⟨(hp p m).site, (hp p m).home, by rw [eq]; exact (hp p m).key⟩
  have clean : (s.activate ps).poisonCheck scalar ps = .ok () := by
    have none : (ps.filterMap fun p => ((s.activate ps).partPoison p).map fun va => (p, va)) = [] :=
      List.filterMap_eq_nil_iff.2 fun p m => by simp [(plain p m).partPoison calm]
    simp only [State.poisonCheck, none]
  have reads : ps.foldl (fun (x : State) p => x.l1Reads s.origin p) (s.activate ps) = s.activate ps :=
    foldl_eq_self fun p m => by simp [State.l1Reads, (plain p m).l1Spans]
  have loads : ps.foldl (fun (x : State) p => x.l1Load s.origin p) (s.activate ps) = s.activate ps :=
    foldl_eq_self fun p m => by simp [State.l1Load, (plain p m).l1Spans]
  have bytes : memNat (s.activate ps) = memNat s := by rw [eq]; rfl
  simp only [State.loadParts, State.loadAfter, asks, peers, h.objReads, h.earlierWrites, h.dropReplicas, h.settle, served, h.banksFree,
    clean, reads, loads, plain.gatherParts calm, bytes, calm.seen]
  rfl

end

end Sys2Proof.Safety
end

section
/-! The scratchpad, the vault window and the slice scratch: places outside HBM, whose bytes a load reads and a store writes at once (R135 to
R139, R156). -/
namespace Sys2Proof.Machine
open Sys2Proof.Safety
-- One proof at a time: proofs elaborated side by side each take a thread and its stack.
set_option Elab.async false

/-! ### Places -/

theorem Device.capacity_lt (d : Device) : d.capacity < 0x800000000000 := by
  unfold Device.capacity; split <;> decide

theorem localLoc_outside (s : State) (sp : Space) (a : Nat) : s.dev.capacity ≤ localLoc s sp a := by
  have := s.dev.capacity_lt
  cases sp <;> simp only [localLoc, scratchLoc, vaultLoc, sliceLoc] <;> omega

/-- The scratchpads and the slice scratches lie beside the vaults. -/
theorem isVault_localLoc {sp : Space} (h : sp ≠ .vault) (s : State) (a : Nat) : isVault (localLoc s sp a) = false := by
  have beyond (n : Nat) (hn : 0x800800000000 ≤ n) : isVault n = false := by simp [isVault]; omega
  cases sp with
  | vault => exact absurd rfl h
  | global | scratch => exact beyond _ (by simp only [localLoc, scratchLoc]; omega)
  | slice => exact beyond _ (by simp only [localLoc, sliceLoc]; omega)

theorem State.activate_of_no_vault {s : State} {ps : List Part} (h : ∀ p ∈ ps, isVault p.place = false) : s.activate ps = s :=
  foldl_eq_self fun p m => by
    split
    · have := h p m
      simp_all [State.activateAt, Part.place]
    · rfl

/-! ### Bytes of a number -/

/-- Byte k of a number (R5). -/
theorem leBytes_getD {size k : Nat} (h : k < size) (n : Nat) : (leBytes size n).getD k 0 = BitVec.ofNat 8 (n / 256 ^ k) := by
  induction size generalizing k n with
  | zero => omega
  | succ size ih =>
    cases k with
    | zero => simp [leBytes]
    | succ k => rw [leBytes, List.getD_cons_succ, ih (by omega), Nat.div_div_eq_div_mul, Nat.pow_succ']

/-! ### Checks -/

section
variable {s : State} {sp : Space} {m : Word} {addr : Nat → Nat} {size : Nat}

theorem boundCheck_of_inSpace (h : InSpace s sp m addr size) : s.boundCheck sp size (laneList m addr) = .ok () := by
  have lane {l : Nat × Nat} (hl : l ∈ laneList m addr) :
      s.boundFail sp l.2 size = none ∧ (sp = .slice → s.col.grant = some s.ctxId) := by
    obtain ⟨L, hL, rfl⟩ := List.mem_map.1 hl
    exact h L (BitVec.lt_of_getLsbD (mem_lanesOf.1 hL)) (mem_lanesOf.1 hL)
  have none : ((laneList m addr).filterMap fun l => (s.boundFail sp l.2 size).map fun c => (l, c)) = [] :=
    List.filterMap_eq_nil_iff.2 fun l hl => by simp [(lane hl).1]
  unfold State.boundCheck
  rw [none]
  cases hl : laneList m addr with
  | nil => rfl
  | cons l r =>
    have granted : (sp != .slice || s.col.grant == some s.ctxId) = true := by
      by_cases hs : sp = .slice
      · simp [(lane (hl ▸ List.mem_cons_self ..)).2 hs]
      · simp [hs]
    simp only [granted, need_true]

/-- The parts of an access outside global memory whose lanes lie within their space. -/
theorem spaceParts_of_inSpace (h : InSpace s sp m addr size) (apart : sp ≠ .global) (acc : Access) :
    s.spaceParts sp acc size (laneList m addr) = .ok ((laneList m addr).map (s.localPart sp size)) := by
  rw [State.spaceParts, boundCheck_of_inSpace h, ok_bind, if_neg apart]

end

section
variable {s : State} (fenced : s.col.fenced = false)
include fenced

theorem State.localPart_site (sp : Space) (size : Nat) (l : Nat × Nat) : (s.localPart sp size l).x.site = .mem (localLoc s sp l.2) := by
  cases sp <;> simp [State.localPart, localLoc, fenced]

theorem State.localPart_place (sp : Space) (size : Nat) (l : Nat × Nat) : (s.localPart sp size l).place = localLoc s sp l.2 := by
  simp [Part.place, State.localPart_site fenced]

theorem State.localPart_plain (key : (s.keySlot (Config.vaultKey s.ctxId.val)).xts = false) (sp : Space) (size : Nat) (l : Nat × Nat) :
    PlainPart s (s.localPart sp size l) (s.localPart sp size l).place := by
  rw [State.localPart_place fenced]
  exact ⟨State.localPart_site fenced sp size l, (by decide : (8 : Nat) ≠ 0), key⟩

end

/-! ### Stores outside HBM -/

/-- t is s but for bytes stored outside HBM, and what memory keeps beside the bytes of a scratchpad. -/
def State.LocalOf (s t : State) : Prop :=
  ∃ cells cipher releasers olds,
    t = { s with mem := { s.mem with cells := cells, cipherBlocks := cipher, releasers := releasers, olds := olds } }

/-- A run stored at its location, past every cache and buffer. -/
def State.storedAt (s : State) (k : KeySlot) (loc : Nat) (bs : List Byte) : State := { s with mem := s.mem.store k loc bs }

theorem State.storedAt_olds {t : State} (h : t.mem.olds = []) (k : KeySlot) (loc : Nat) (bs : List Byte) :
    (t.storedAt k loc bs).mem.olds = [] := by simp [State.storedAt, Memory.store, Memory.oldsAfter, h]

section
variable {s : State} (h : Calm s) {t : State} (ht : s.LocalOf t)
include h ht

theorem State.LocalOf.storedAt (k : KeySlot) (loc : Nat) (bs : List Byte) : s.LocalOf (t.storedAt k loc bs) := by
  obtain ⟨_, _, _, _, eq⟩ := ht
  let u := t.storedAt k loc bs
  refine ⟨u.mem.cells, u.mem.cipherBlocks, u.mem.releasers, u.mem.olds, ?_⟩
  subst eq
  simp only [u, State.storedAt, Memory.store, h.poison, h.bad, List.filter_nil]

theorem State.LocalOf.memByte_storedAt {k : KeySlot} (hk : k.xts = false) (loc : Nat) (bs : List Byte) (a : Nat) :
    memByte (t.storedAt k loc bs) a = if loc ≤ a ∧ a < loc + bs.length then bs.getD (a - loc) 0 else memByte t a := by
  obtain ⟨_, _, _, _, rfl⟩ := ht
  exact readAfterWrite _ k loc bs a hk h.poison h.dead

/-- A run written at a home other than 0 and outside HBM (R241). -/
theorem State.LocalOf.storeSpan {w : Writer} (hw : w.home ≠ 0) {loc : Nat} (out : s.dev.capacity ≤ loc) (bs : List Byte) :
    t.storeSpan w loc bs = t.storedAt (s.keySlot w.key) loc bs := by
  have free : t.holdOf (loc / 128) = none := by obtain ⟨_, _, _, _, rfl⟩ := ht; exact h.holdOf _
  have poison : t.mem.poison = [] := by obtain ⟨_, _, _, _, rfl⟩ := ht; exact h.poison
  have dead : t.mem.dead = none := by obtain ⟨_, _, _, _, rfl⟩ := ht; exact h.dead
  have whole : t.mem.failsAt loc bs.length = [] := by simp [Memory.failsAt, Memory.accepts_clean poison dead]
  have away : t.dev.isHbm loc = false := by obtain ⟨_, _, _, _, rfl⟩ := ht; exact decide_eq_false (Nat.not_lt.2 out)
  have keys : t.keySlot w.key = s.keySlot w.key := by obtain ⟨_, _, _, _, rfl⟩ := ht; rfl
  simp only [State.storeSpan, if_neg hw, State.writeHome, State.writeHomeAs, free, State.performWrite, State.performAt, whole,
    List.foldl_nil, HeldAs.plain, State.noteRelease, State.storeHome, away, Bool.and_false, Bool.false_eq_true, if_false,
    State.storeRunBy, keys, State.storedAt, Bool.false_and]

/-- A part written at such a place is one run, or two where its line ends. -/
theorem State.LocalOf.storePart {p : Part} {loc : Nat} (hp : PlainPart s p loc) (out : s.dev.capacity ≤ loc) (bs : List Byte) :
    let k := s.keySlot p.x.key
    t.storePart p bs = t.storedAt k loc bs ∨
      ∃ n < bs.length, t.storePart p bs = (t.storedAt k loc (bs.take n)).storedAt k (loc + n) (bs.drop n) := by
  have version : t.team.version = none := by obtain ⟨_, _, _, _, rfl⟩ := ht; exact h.version
  simp only [State.storePart, hp.site, version, Option.isSome_none, Bool.false_and, Bool.false_eq_true, if_false, State.storeRunAt]
  split
  · exact .inl (ht.storeSpan h (w := t.writer p) hp.home out bs)
  · refine .inr ⟨128 - loc % 128, by omega, ?_⟩
    rw [ht.storeSpan h (w := t.writer p) hp.home out,
      (ht.storedAt h _ _ _).storeSpan h (w := { t.writer p with va := _ }) hp.home (out.trans (Nat.le_add_right ..))]
    rfl

/-- Two runs side by side leave the bytes of one. -/
theorem State.LocalOf.memByte_storedAt_split {k : KeySlot} (hk : k.xts = false) (loc : Nat) {bs : List Byte} {n : Nat}
    (hn : n < bs.length) (a : Nat) :
    memByte ((t.storedAt k loc (bs.take n)).storedAt k (loc + n) (bs.drop n)) a =
      if loc ≤ a ∧ a < loc + bs.length then bs.getD (a - loc) 0 else memByte t a := by
  rw [(ht.storedAt h _ _ _).memByte_storedAt h hk, ht.memByte_storedAt h hk, List.length_drop, List.length_take, Nat.min_eq_left hn.le]
  simp only [List.getD_eq_getElem?_getD, List.getElem?_take, List.getElem?_drop]
  by_cases second : loc + n ≤ a ∧ a < loc + n + (bs.length - n)
  · rw [if_pos second, if_pos (by omega), show n + (a - (loc + n)) = a - loc by omega]
  · rw [if_neg second]
    by_cases first : loc ≤ a ∧ a < loc + n
    · rw [if_pos first, if_pos (by omega), if_pos (by omega)]
    · rw [if_neg first, if_neg (by omega)]

theorem State.LocalOf.memByte_storePart {p : Part} {loc : Nat} (hp : PlainPart s p loc) (out : s.dev.capacity ≤ loc) (bs : List Byte)
    (a : Nat) :
    memByte (t.storePart p bs) a = if loc ≤ a ∧ a < loc + bs.length then bs.getD (a - loc) 0 else memByte t a := by
  obtain eq | ⟨n, hn, eq⟩ := ht.storePart h hp out bs
  · rw [eq, ht.memByte_storedAt h hp.key]
  · rw [eq, ht.memByte_storedAt_split h hp.key loc hn]

theorem State.LocalOf.of_storePart {p : Part} {loc : Nat} (hp : PlainPart s p loc) (out : s.dev.capacity ≤ loc) (bs : List Byte) :
    s.LocalOf (t.storePart p bs) ∧ (t.mem.olds = [] → (t.storePart p bs).mem.olds = []) := by
  obtain eq | ⟨n, _, eq⟩ := ht.storePart h hp out bs
  · rw [eq]
    exact ⟨ht.storedAt h _ _ _, fun ho => State.storedAt_olds ho _ _ _⟩
  · rw [eq]
    exact ⟨(ht.storedAt h _ _ _).storedAt h _ _ _, fun ho => State.storedAt_olds (State.storedAt_olds ho _ _ _) _ _ _⟩

end

/-! ### Stores of several lanes -/

/-- The parts stored one after the other, each the bytes that `bs` gives for it. -/
def State.storeAll (t : State) (ps : List Part) (bs : Part → List Byte) : State := ps.foldl (fun v p => v.storePart p (bs p)) t

section
variable {s : State} (h : Calm s) {bs : Part → List Byte}
include h

theorem State.LocalOf.storeAll {ps : List Part} {t : State} (ht : s.LocalOf t) (hp : PlainParts s ps)
    (out : ∀ p ∈ ps, s.dev.capacity ≤ p.place) :
    s.LocalOf (t.storeAll ps bs) ∧ (t.mem.olds = [] → (t.storeAll ps bs).mem.olds = []) := by
  induction ps generalizing t with
  | nil => exact ⟨ht, id⟩
  | cons p r ih =>
    obtain ⟨first, olds⟩ := ht.of_storePart h (hp p (List.mem_cons_self ..)) (out p (List.mem_cons_self ..)) (bs p)
    obtain ⟨rest, olds'⟩ := ih first (fun q m => hp q (List.mem_cons_of_mem _ m)) fun q m => out q (List.mem_cons_of_mem _ m)
    exact ⟨rest, fun ho => olds' (olds ho)⟩

/-- A byte that no part covers stays. -/
theorem State.LocalOf.memByte_storeAll_other {ps : List Part} {t : State} (ht : s.LocalOf t) (hp : PlainParts s ps)
    (out : ∀ p ∈ ps, s.dev.capacity ≤ p.place) {a : Nat} (away : ∀ p ∈ ps, a < p.place ∨ p.place + (bs p).length ≤ a) :
    memByte (t.storeAll ps bs) a = memByte t a := by
  induction ps generalizing t with
  | nil => rfl
  | cons p r ih =>
    have plain := hp p (List.mem_cons_self ..)
    have far := out p (List.mem_cons_self ..)
    have apart := away p (List.mem_cons_self ..)
    have first := (ht.of_storePart h plain far (bs p)).1
    rw [State.storeAll, List.foldl_cons, ← State.storeAll, ih first (fun q m => hp q (List.mem_cons_of_mem _ m))
      (fun q m => out q (List.mem_cons_of_mem _ m)) fun q m => away q (List.mem_cons_of_mem _ m),
      ht.memByte_storePart h plain far, if_neg (by omega)]

/-- The last part that covers a byte gives it. -/
theorem State.LocalOf.memByte_storeAll_last {l r : List Part} {p : Part} {t : State} (ht : s.LocalOf t)
    (hp : PlainParts s (l ++ p :: r)) (out : ∀ q ∈ l ++ p :: r, s.dev.capacity ≤ q.place) {k : Nat} (hk : k < (bs p).length)
    (away : ∀ q ∈ r, p.place + k < q.place ∨ q.place + (bs q).length ≤ p.place + k) :
    memByte (t.storeAll (l ++ p :: r) bs) (p.place + k) = (bs p).getD k 0 := by
  have before := (ht.storeAll h (ps := l) (bs := bs) (fun q m => hp q (by simp [m])) fun q m => out q (by simp [m])).1
  have plain := hp p (by simp)
  have far := out p (by simp)
  have there := (before.of_storePart h plain far (bs p)).1
  rw [State.storeAll, List.foldl_append, List.foldl_cons, ← State.storeAll, ← State.storeAll,
    there.memByte_storeAll_other h (fun q m => hp q (by simp [m])) (fun q m => out q (by simp [m])) away,
    before.memByte_storePart h plain far, if_pos (by omega), Nat.add_sub_cancel_left]

end

end Sys2Proof.Machine
end

section
/-! The loads and stores of the scratchpad, the vault window and the slice scratch (R135 to R139). -/
namespace Sys2Proof.Machine
open Sys2Proof.Safety
-- One proof at a time: proofs elaborated side by side each take a thread and its stack.
set_option Elab.async false

/-! ### Loads -/

section
variable {s : State} {sp : Space} {G : Guard} {d a : VReg} {b : SReg} {sz : Size}

/-- With no Active lane a load, and likewise a store, does nothing (R139). -/
theorem loadOp_idle (ready : MemOperandsReady s (s.g.active G) (s.g.memNamed d a (sizeBytes sz)) [vSpan a 1 false (s.g.active G)] anyType
    [b] [s.g.guardIdx G]) (idle : s.g.active G = 0) : loadOp s sp G d a b sz = .next s.retire := by
  simp only [loadOp, operandsOf_ok ready, ok_bind, State.vecLoad, if_pos idle, finish_ok]

theorem storeOp_idle (ready : MemOperandsReady s (s.g.active G) (s.g.memNamed d a (sizeBytes sz))
    [vSpan d (sizeRegs (sizeBytes sz)) false (s.g.active G), vSpan a 1 false (s.g.active G)] anyType [b] [s.g.guardIdx G])
    (idle : s.g.active G = 0) : storeOp s sp G d a b sz = .next s.retire := by
  simp only [storeOp, operandsOf_ok ready, ok_bind, State.vecStore, if_pos idle, finish_ok]

/-- A load whose lanes are translated and read (R137). -/
theorem loadOp_ok (ready : MemOperandsReady s (s.g.active G) (s.g.memNamed d a (sizeBytes sz)) [vSpan a 1 false (s.g.active G)] anyType
    [b] [s.g.guardIdx G]) (some' : s.g.active G ≠ 0) {ps : List Part}
    (hps : s.spaceParts sp .read (sizeBytes sz) (laneList (s.g.active G) fun L => laneAddr sp (s.g.sReg b).toNat (s.g.lane a.toNat L).toNat) =
      .ok ps) {vals : List (Nat × Nat)} {t : State} (hl : s.loadParts false ps = .ok (vals, t)) :
    loadOp s sp G d a b sz = .next (t.retireWith (t.g.putLoad d (s.g.active G) (sizeBytes sz) (laneValue vals))) := by
  simp only [loadOp, operandsOf_ok ready, ok_bind, State.vecLoad, if_neg some', hps, hl, finish_ok]

/-- A store whose lanes are translated and may be stored (R137). -/
theorem storeOp_ok (ready : MemOperandsReady s (s.g.active G) (s.g.memNamed d a (sizeBytes sz))
    [vSpan d (sizeRegs (sizeBytes sz)) false (s.g.active G), vSpan a 1 false (s.g.active G)] anyType [b] [s.g.guardIdx G])
    (some' : s.g.active G ≠ 0) {ps : List Part}
    (hps : s.spaceParts sp .write (sizeBytes sz) (laneList (s.g.active G) fun L => laneAddr sp (s.g.sReg b).toNat (s.g.lane a.toNat L).toNat) =
      .ok ps) (ho : s.objStores false ps = .ok ()) (hv : s.versionSpace sp ps = .ok ()) :
    storeOp s sp G d a b sz = .next ((s.noteScratch sp ps).storeParts ps (sizeBytes sz) (s.g.storeValue d (sizeBytes sz))).retire := by
  simp only [storeOp, operandsOf_ok ready, ok_bind, State.vecStore, if_neg some', hps, ho, hv, finish_ok]

end

/-- The parts of the Active lanes in a space outside global memory. -/
def localParts (s : State) (sp : Space) (m : Word) (addr : Nat → Nat) (size : Nat) : List Part :=
  (laneList m addr).map (s.localPart sp size)

/-- Steps 1 and 2 of R138 for lanes that lie within a space outside global memory. -/
theorem spaceParts_local {s : State} {sp : Space} (apart : sp ≠ .global) {m : Word} {a : VReg} {b : SReg} {size : Nat}
    (within : InSpace s sp m (laneEa s b a) size) (acc : Access) :
    s.spaceParts sp acc size (laneList m fun L => laneAddr sp (s.g.sReg b).toNat (s.g.lane a.toNat L).toNat) =
      .ok (localParts s sp m (laneEa s b a) size) := by
  have exact' : (fun L => laneAddr sp (s.g.sReg b).toNat (s.g.lane a.toNat L).toNat) = laneEa s b a := by
    funext L; rw [laneAddr, if_neg apart]; rfl
  rw [exact']
  exact spaceParts_of_inSpace within apart acc

section
variable {s : State} {sp : Space} {m : Word} {addr : Nat → Nat} {size : Nat} (fenced : s.col.fenced = false)
include fenced

theorem localParts_plain (key : (s.keySlot (Config.vaultKey s.ctxId.val)).xts = false) :
    PlainParts s (localParts s sp m addr size) := by
  intro p hp
  obtain ⟨l, _, rfl⟩ := List.mem_map.1 hp
  exact State.localPart_plain fenced key sp size l

theorem localParts_outside : ∀ p ∈ localParts s sp m addr size, s.dev.capacity ≤ p.place := by
  intro p hp
  obtain ⟨l, _, rfl⟩ := List.mem_map.1 hp
  rw [State.localPart_place fenced]
  exact localLoc_outside s sp l.2

theorem activate_localParts (h : sp ≠ .vault) (t : State) : t.activate (localParts s sp m addr size) = t := by
  refine State.activate_of_no_vault fun p hp => ?_
  obtain ⟨l, _, rfl⟩ := List.mem_map.1 hp
  rw [State.localPart_place fenced]
  exact isVault_localLoc h s l.2

/-- What the parts give, lane by lane. -/
theorem localParts_values (f : Nat → Nat → Nat) :
    (localParts s sp m addr size).map (fun p => (p.lane, f p.place p.len * 256 ^ p.off)) =
      (lanesOf m).map fun L => (L, f (localLoc s sp (addr L)) size) := by
  simp only [localParts, laneList, List.map_map]
  refine List.map_congr_left fun L _ => ?_
  simp only [Function.comp_apply, State.localPart_place fenced]
  simp [State.localPart]

end

/-- A load in a calm state takes the bytes of memory at the places of its lanes (R137). -/
theorem loadOp_local {s : State} {sp : Space} {G : Guard} {d a : VReg} {b : SReg} {sz : Size} (apart : sp ≠ .global)
    (ready : MemOperandsReady s (s.g.active G) (s.g.memNamed d a (sizeBytes sz)) [vSpan a 1 false (s.g.active G)] anyType [b] [s.g.guardIdx G])
    (some' : s.g.active G ≠ 0) (calm : Calm s) (fenced : s.col.fenced = false)
    (key : (s.keySlot (Config.vaultKey s.ctxId.val)).xts = false) (within : InSpace s sp (s.g.active G) (laneEa s b a) (sizeBytes sz)) :
    ∃ t, loadOp s sp G d a b sz = .next t ∧ RowsOnly s t ∧ (sp ≠ .vault → t.cols = s.cols) ∧ t = { s with
      g := (s.g.putLoad d (s.g.active G) (sizeBytes sz) fun L => memNat s (localLoc s sp (laneEa s b a L)) (sizeBytes sz)).retire
      cols := t.cols } := by
  let ps := localParts s sp (s.g.active G) (laneEa s b a) (sizeBytes sz)
  have loaded := (localParts_plain fenced key (sp := sp) (m := s.g.active G) (addr := laneEa s b a) (size := sizeBytes sz)).loadParts
    calm false
  rw [localParts_values fenced (memNat s)] at loaded
  refine ⟨_, loadOp_ok ready some' (spaceParts_local apart within .read) loaded, s.activate_rowsOnly ps, fun outside => ?_, ?_⟩
  · change (s.activate ps).cols = s.cols
    rw [activate_localParts fenced outside]
  · have values := s.g.putLoad_congr d (sizeBytes sz) fun L (hL : (s.g.active G).getLsbD L = true) =>
      laneValue_lanes (f := fun L => memNat s (localLoc s sp (laneEa s b a L)) (sizeBytes sz)) hL
    rw [← values, s.activate_eq]
    rfl

/-! ### Stores -/

/-- What is beside a store to the scratchpad goes on to be seen by MMAS (R156): it concerns no byte, and nothing in the other spaces. -/
theorem State.noteScratch_eq (s : State) (sp : Space) (ps : List Part) :
    ∃ olds, s.noteScratch sp ps = { s with mem := { s.mem with olds := olds } } ∧ (sp ≠ .scratch → olds = s.mem.olds) := by
  unfold State.noteScratch
  split
  · rename_i noted
    have scratch : sp = .scratch := by simp_all
    have listed (l : List Part) (t : State) (ht : ∃ olds, t = { s with mem := { s.mem with olds := olds } }) :
        ∃ olds, l.foldl (fun (t : State) p => match p.x.site with
          | .mem loc => t.noteOlds (tabList (fun a =>
              ⟨a, s.mem.plain (s.keySlot p.x.key) a, s.g.team, some s.g.index, none, false, false, false, [], []⟩) loc p.len)
          | _ => t) t = { s with mem := { s.mem with olds := olds } } :=
      List.foldlRecOn (motive := fun t => ∃ olds, t = { s with mem := { s.mem with olds := olds } }) l _ ht fun u hu p _ => by
        obtain ⟨olds, rfl⟩ := hu
        split <;> exact ⟨_, rfl⟩
    obtain ⟨olds, eq⟩ := listed ps s ⟨s.mem.olds, rfl⟩
    exact ⟨olds, eq, fun other => absurd scratch other⟩
  · exact ⟨_, rfl, fun _ => rfl⟩

/-- With no reduction buffered in the core and no update-only copy, nothing is to be settled (R152, R251). -/
theorem State.settle_of_empty {s : State} {core : CoreId} (comb : (s.cores.get core).comb = []) (copies : s.mem.copies = [])
    (ps : List Part) : s.settle core ps = s := by
  have merged (line : Nat) : s.mergeCopies line = s := by simp [State.mergeCopies, copies]
  refine List.foldl_fixed' (fun p => ?_) ps
  split
  · have drained (q : CombEntry → Bool) : s.drainComb core q = s := by simp [State.drainComb, comb]
    rw [drained]
    exact List.foldl_fixed' merged _
  · rfl

/-- The bytes that a store of several lanes puts at the place of each part (R137). -/
def partStored (size : Nat) (value : Nat → Nat) (p : Part) : List Byte := ((leBytes size (value p.lane)).drop p.off).take p.len

theorem partStored_localPart (s : State) (sp : Space) (size : Nat) (value : Nat → Nat) (l : Nat × Nat) :
    partStored size value (s.localPart sp size l) = leBytes size (value l.1) := by
  have length := leBytes_length size (value l.1)
  simp [partStored, State.localPart, length]

section
variable {s : State} {sp : Space} {m : Word} {addr : Nat → Nat} {size : Nat} {value : Nat → Nat} (fenced : s.col.fenced = false)
include fenced

/-- A place lies outside every part where it lies outside the access of every Active lane. -/
theorem localParts_away {lanes : List Nat} {x : Nat}
    (h : ∀ L ∈ lanes, x < localLoc s sp (addr L) ∨ localLoc s sp (addr L) + size ≤ x) :
    ∀ p ∈ (lanes.map fun L => (L, addr L)).map (s.localPart sp size), x < p.place ∨ p.place + (partStored size value p).length ≤ x := by
  intro p hp
  obtain ⟨l, hl, rfl⟩ := List.mem_map.1 hp
  obtain ⟨L, hL, rfl⟩ := List.mem_map.1 hl
  rw [State.localPart_place fenced, partStored_localPart, leBytes_length]
  exact h L hL

variable {r : State} (calm : Calm r) {t : State} (ht : r.LocalOf t) (plain : PlainParts r (localParts s sp m addr size))
  (out : ∀ p ∈ localParts s sp m addr size, r.dev.capacity ≤ p.place)
include calm ht plain out

/-- A byte that no Active lane covers stays. -/
theorem memByte_storeAll_localParts_other {x : Nat}
    (away : ∀ L < 64, m.getLsbD L = true → x < localLoc s sp (addr L) ∨ localLoc s sp (addr L) + size ≤ x) :
    memByte (t.storeAll (localParts s sp m addr size) (partStored size value)) x = memByte t x := by
  refine ht.memByte_storeAll_other calm plain out (localParts_away fenced fun L hL => ?_)
  exact away L (BitVec.lt_of_getLsbD (mem_lanesOf.1 hL)) (mem_lanesOf.1 hL)

/-- A byte that an Active lane covers, and no higher one, is the lane's. -/
theorem memByte_storeAll_localParts_last {L k : Nat} (hL : m.getLsbD L = true) (hk : k < size)
    (away : ∀ M < 64, L < M → m.getLsbD M = true →
      localLoc s sp (addr L) + k < localLoc s sp (addr M) ∨ localLoc s sp (addr M) + size ≤ localLoc s sp (addr L) + k) :
    memByte (t.storeAll (localParts s sp m addr size) (partStored size value)) (localLoc s sp (addr L) + k) =
      BitVec.ofNat 8 (value L / 256 ^ k) := by
  obtain ⟨l, r', eq, higher⟩ := lanesOf_split hL
  have cut : localParts s sp m addr size = (l.map fun L => (L, addr L)).map (s.localPart sp size) ++
      s.localPart sp size (L, addr L) :: (r'.map fun L => (L, addr L)).map (s.localPart sp size) := by
    rw [localParts, laneList, eq, List.map_append, List.map_cons, List.map_append, List.map_cons]
  rw [cut] at plain out ⊢
  have place := State.localPart_place fenced sp size (L, addr L)
  have stored := partStored_localPart s sp size value (L, addr L)
  have last := ht.memByte_storeAll_last calm (bs := partStored size value) plain out (k := k)
    (by rw [stored, leBytes_length]; exact hk) (by
      rw [place]
      exact localParts_away fenced fun M hM => away M (BitVec.lt_of_getLsbD (higher M hM).2) (higher M hM).1 (higher M hM).2)
  rw [place, stored, leBytes_getD hk] at last
  exact last

end

theorem State.activate_of_mem {s w : State} {mem' : Memory} (h : w = { s with mem := mem' }) (ps : List Part) :
    w.activate ps = { s with mem := mem', cols := (w.activate ps).cols } ∧ RowsOnly s (w.activate ps) := by
  subst h
  exact ⟨State.activate_eq _ ps, State.activate_rowsOnly _ ps⟩

/-- The state u in which a store outside global memory puts its bytes: the scratchpad is noted and the rows are activated, and nothing else is
changed of s. -/
theorem storeParts_localParts {s : State} (calm : Calm s) {sp : Space} (fenced : s.col.fenced = false) (m : Word) (addr : Nat → Nat)
    (size : Nat) (value : Nat → Nat) :
    let ps := localParts s sp m addr size
    ∃ base u, (s.noteScratch sp ps).storeParts ps size value = u.storeAll ps (partStored size value) ∧
      base = { s with cols := base.cols } ∧ RowsOnly s base ∧ (sp ≠ .vault → base.cols = s.cols) ∧ base.LocalOf u ∧
      memByte u = memByte s ∧ (sp ≠ .scratch → u.mem.olds = []) := by
  intro ps
  obtain ⟨olds, noted, kept⟩ := s.noteScratch_eq sp ps
  obtain ⟨eq, rows⟩ := State.activate_of_mem noted ps
  refine ⟨{ s with cols := ((s.noteScratch sp ps).activate ps).cols }, (s.noteScratch sp ps).activate ps, ?_, rfl, rows,
    fun outside => ?_, ⟨_, _, _, _, eq⟩, ?_, fun outside => ?_⟩
  · rw [State.storeParts, State.settle_of_empty (by rw [noted]; exact calm.comb) (by rw [noted]; exact calm.copies)]
    rfl
  · rw [activate_localParts fenced outside, noted]
  · rw [eq]; rfl
  · rw [eq]; exact (kept outside).trans calm.olds

/-- A store in a calm state puts the bytes of its lanes at their places, the highest lane last (R137). -/
theorem storeOp_local {s : State} {sp : Space} {G : Guard} {d a : VReg} {b : SReg} {sz : Size} (apart : sp ≠ .global)
    (ready : MemOperandsReady s (s.g.active G) (s.g.memNamed d a (sizeBytes sz))
      [vSpan d (sizeRegs (sizeBytes sz)) false (s.g.active G), vSpan a 1 false (s.g.active G)] anyType [b] [s.g.guardIdx G])
    (some' : s.g.active G ≠ 0) (calm : Calm s) (fenced : s.col.fenced = false)
    (key : (s.keySlot (Config.vaultKey s.ctxId.val)).xts = false) (within : InSpace s sp (s.g.active G) (laneEa s b a) (sizeBytes sz)) :
    let m := s.g.active G
    let size := sizeBytes sz
    let at' := fun L => localLoc s sp (laneEa s b a L)
    ∃ t, storeOp s sp G d a b sz = .next t ∧ RowsOnly s t ∧ (sp ≠ .vault → t.cols = s.cols) ∧ t = { s with
        g := s.g.retire, cols := t.cols
        mem := { s.mem with cells := t.mem.cells, cipherBlocks := t.mem.cipherBlocks, releasers := t.mem.releasers, olds := t.mem.olds } } ∧
      (sp ≠ .scratch → t.mem.olds = []) ∧
      (∀ L < 64, m.getLsbD L = true → ∀ k < size,
        (∀ M < 64, L < M → m.getLsbD M = true → at' L + k < at' M ∨ at' M + size ≤ at' L + k) →
        memByte t (at' L + k) = BitVec.ofNat 8 (s.g.storeValue d size L / 256 ^ k)) ∧
      ∀ x, (∀ L < 64, m.getLsbD L = true → x < at' L ∨ at' L + size ≤ x) → memByte t x = memByte s x := by
  intro m size at'
  let ps := localParts s sp m (laneEa s b a) size
  have version : s.versionSpace sp ps = .ok () := by
    cases sp with
    | global => exact absurd rfl apart
    | scratch => rfl
    | vault | slice => simp [State.versionSpace, calm.version]
  have done := storeOp_ok ready some' (spaceParts_local apart within .write) (calm.objStores false _) version
  obtain ⟨base, u, stored, same, rows, cols, local0, bytes, quiet⟩ := storeParts_localParts calm fenced m (laneEa s b a) size
    (s.g.storeValue d size) (sp := sp)
  have calm' : Calm base := calm.of_rows rows same
  have plain : PlainParts base ps := fun p hp => by
    obtain ⟨site, home, plain⟩ := localParts_plain fenced key p hp
    exact ⟨site, home, by rw [same]; exact plain⟩
  have out : ∀ p ∈ ps, base.dev.capacity ≤ p.place := by rw [same]; exact localParts_outside fenced
  obtain ⟨⟨_, _, _, _, final⟩, still⟩ := local0.storeAll calm' (bs := partStored size (s.g.storeValue d size)) plain out
  have finalCols : (u.storeAll ps (partStored size (s.g.storeValue d size))).cols = base.cols := by rw [final]
  rw [stored] at done
  refine ⟨_, done, ?_, ?_, ?_, fun outside => still (quiet outside), fun L _ hL k hk away => ?_, fun x away => ?_⟩
  · exact rowsOnly_trans rows (rowsOnly_of_cols finalCols)
  · exact fun outside => finalCols.trans (cols outside)
  · generalize u.storeAll ps (partStored size (s.g.storeValue d size)) = t at final
    subst final
    rw [same]
    rfl
  · exact memByte_storeAll_localParts_last fenced calm' local0 plain out hL hk away
  · exact (memByte_storeAll_localParts_other fenced calm' local0 plain out away).trans (congrFun bytes x)

/-- Settles O28: a load by the bytes that its parts read, a store by the parts that it stores one after the other. -/
theorem localAccesses : Obligations.LocalAccesses := by
  constructor
  · intro s sp G d a b sz i hi m size ready
    have run : sp ≠ .global ∧ exec i s = loadOp s sp G d a b sz := by
      rcases hi with ⟨rfl, rfl⟩ | ⟨rfl, rfl⟩ | ⟨rfl, rfl⟩ <;> exact ⟨by decide, rfl⟩
    rw [run.2]
    exact ⟨loadOp_idle ready, fun some' calm fenced key within => loadOp_local run.1 ready some' calm fenced key within⟩
  · intro s sp G d a b sz i hi m size at' ready
    have run : sp ≠ .global ∧ exec i s = storeOp s sp G d a b sz := by
      rcases hi with ⟨rfl, rfl⟩ | ⟨rfl, rfl⟩ | ⟨rfl, rfl⟩ <;> exact ⟨by decide, rfl⟩
    rw [run.2]
    exact ⟨storeOp_idle ready, fun some' calm fenced key within => storeOp_local run.1 ready some' calm fenced key within⟩

end Sys2Proof.Machine
end

section
/-! Atomics and reductions (R146 to R153): the checks of the lanes, and the scalar forms where nothing stands between their core and memory. -/
namespace Sys2Proof.Safety
open Sys2Proof.Machine
-- One proof at a time: proofs elaborated side by side each take a thread and its stack.
set_option Elab.async false

/-! ### What a calm state leaves out -/

section
variable {s : State} (h : Calm s)
include h

theorem Calm.marked (who : Party) (lines : List Nat) : s.marked who lines = false := by simp [State.marked, h.marks]

theorem Calm.markCheck (who : Releaser) (lines : List Nat) : s.markCheck who lines = .ok () := by simp [State.markCheck, h.marked]

theorem Calm.versionScope (sc : Scope) : s.versionScope sc = .ok () := by simp [State.versionScope, h.version]

theorem Calm.dropPlaces (who : Option Origin) (tag : Option WriteTag) (lines : List Nat) : s.dropPlaces who tag lines = s := by
  simp [State.dropPlaces, h.held]

theorem Calm.cleanDrop (line : Nat) : s.cleanDrop s.g.core line = s := by simp [State.cleanDrop, h.l1]

theorem Calm.passL1 (parts : List Part) : s.passL1 parts = s := List.foldl_fixed' h.cleanDrop _

theorem Calm.catchUp (parts : List Part) : s.catchUp parts = s := by simp [State.catchUp, State.caughtUp, h.olds]

theorem Calm.holdsDone (parts : List Part) : s.holdsDone parts = .ok () := by
  have none : ((partLines parts).find? fun l => (s.holdOf l).isSome) = none := by simp [h.holdOf]
  rw [State.holdsDone, none]

/-- A run performed at a home other than 0 (R241), with the agent of a release write noted or not (R263). -/
theorem Calm.performAt (col : ColId) {w : Writer} (hw : w.home ≠ 0) (hk : (s.keySlot w.key).xts = false) (by' : Option Party) (loc : Nat)
    (bs : List Byte) : Stores s loc bs (s.performAt col w by' loc bs) := by
  have whole : s.mem.failsAt loc bs.length = [] := by simp [Memory.failsAt, Memory.accepts_clean h.poison h.dead]
  have run := h.storeRunBy (if w.who.team = 0 then none else some w.who) hk loc bs
  have home : s.storeHome col w loc bs = s.storeRunBy (if w.who.team = 0 then none else some w.who) (s.keySlot w.key) loc bs := by
    simp only [State.storeHome, decide_eq_false hw, Bool.false_and, Bool.false_eq_true, if_false]
  rw [State.performAt, whole, List.foldl_nil, home]
  cases by' with
  | none => exact run
  | some p => exact ⟨run.same.trans ⟨_, _, rfl⟩, { run.calm with }, run.bytes⟩

end

/-! ### One part -/

section
variable {s : State} {p : Part} {loc : Nat} (h : Calm s) (hp : PlainPart s p loc)
include hp

/-- Beyond HOME 0 no slice takes the line for an atomic (R249). -/
theorem PlainPart.atomPlace : s.atomPlace p = (s.colId, s) := by simp [State.atomPlace, hp.site, hp.home]

theorem PlainPart.poisonCheck (h : Calm s) (scalar : Bool) : s.poisonCheck scalar [p] = .ok () := by
  simp [State.poisonCheck, hp.partPoison h]

theorem PlainPart.activate : PlainPart (s.activate [p]) p loc := ⟨hp.site, hp.home, by rw [s.activate_eq]; exact hp.key⟩

include h

/-- The word that an atomic finds (R150). -/
theorem PlainPart.atomRead : s.atomRead p = memNat s loc p.len := by rw [State.atomRead, hp.partBytes h]; rfl

theorem PlainPart.atomWrite (col : ColId) (by' : Option Party) (size x : Nat) :
    Stores s loc (leBytes size x) (s.atomWrite col by' p size x) := by
  simp only [State.atomWrite, hp.site, h.version, Option.isSome_none, Bool.false_eq_true, if_false]
  exact h.performAt col (w := s.writer p) hp.home hp.key by' loc _

end

end Sys2Proof.Safety

namespace Sys2Proof.Machine
open Sys2Proof.Safety

/-! ### A scalar atomic in a calm state -/

theorem leNat_lt (l : List Byte) : leNat l < 256 ^ l.length := by
  induction l with
  | nil => simp [leNat]
  | cons b r ih =>
    have := b.isLt
    rw [leNat, List.length_cons, Nat.pow_succ]
    omega

theorem memNat_lt (s : State) (loc k : Nat) : memNat s loc k < 256 ^ k := by
  have := leNat_lt (tabList (memByte s) loc k)
  rwa [tabList_length] at this

theorem leNat_leBytes_mod (k n : Nat) : leNat (leBytes k n) = n % 256 ^ k := by
  induction k generalizing n with
  | zero => simp [leBytes, leNat, Nat.mod_one]
  | succ k ih =>
    rw [leBytes, leNat, ih, BitVec.toNat_ofNat, Nat.pow_succ' (n := k), Nat.mod_mul]

/-- The state after an operation at a part: the new word, if there is one, is written. -/
def State.atomDone (s : State) (by' : Option Party) (p : Part) (size : Nat) : Option Nat → State
  | some x => s.atomWrite s.colId by' p size x
  | none => s

section
variable {s : State} {p : Part} {loc : Nat} (h : Calm s) (hp : PlainPart s p loc)
include h hp

/-- A scalar atomic with a relaxed order meets no check that stops it. -/
theorem atomStart_calm (sc : Scope) : s.atomStart true [p] sc .relaxed = .ok s := by
  have peers : s.peerAtomics true [p] = .ok () := by simp [State.peerAtomics, State.peerReads, hp.isPeer]
  have relaxed : s.releasePart sc .relaxed = .ok s := rfl
  simp only [State.atomStart, h.objStores, h.settle, hp.poisonCheck h, h.versionWrites, h.versionScope, h.markCheck, h.earlierWrites,
    relaxed, peers, ok_bind]

/-- The one operation of a scalar atomic: the old word is what memory holds (R150). -/
theorem atomLanes_one (size : Nat) (by' : Option Party) (f : Nat → Nat → Option Nat) (sent : List Byte) :
    State.atomLanes size by' f [p] sent s =
      ([(p.lane, memNat s loc p.len)], s.atomDone by' p size (f p.lane (memNat s loc p.len))) := by
  cases hf : f p.lane (memNat s loc p.len) <;>
    simp only [State.atomLanes, hp.isPeer, hp.atomRead h, hp.atomPlace, hf, State.atomDone, Bool.false_eq_true, if_false]

theorem returning_calm (sc : Scope) (f : Nat → Nat → Option Nat) :
    s.returning true 8 [p] sc .relaxed f = .ok ([(p.lane, memNat s loc p.len)],
      (s.activate [p]).atomDone none p 8 (f p.lane (memNat s loc p.len))) := by
  have calm : Calm (s.activate [p]) := h.of_rows (s.activate_rowsOnly [p]) (s.activate_eq [p])
  have same : memNat (s.activate [p]) = memNat s := by rw [s.activate_eq]; rfl
  have one : s.g.pieceLength 1 = 1 := by unfold Group.pieceLength; split <;> simp_all; omega
  have whole : [p].take 1 = [p] := rfl
  have plain : s.releaser .relaxed = none := rfl
  have ends (t : State) (ps : List Part) : t.orderEnds sc .relaxed ps = t := rfl
  have lanes := atomLanes_one calm hp.activate 8 none f s.g.come
  rw [same] at lanes
  simp only [State.returning, if_true, atomStart_calm h hp, State.atomPiece, List.length_nil, List.drop_zero, h.holdsDone,
    List.length_singleton, one, whole, h.dropPlaces, h.settle, h.passL1, calm.catchUp, ok_bind, plain, lanes, ends, lt_irrefl, if_false,
    orderAcquires, Bool.false_eq_true, List.nil_append, List.isEmpty_nil]

/-- What a scalar atomic leaves of a calm state: the issuing group as it was, the new word in its place if there is one, and every other
byte of memory. -/
theorem atomDone_calm (new : Option Nat) :
    let t := (s.activate [p]).atomDone none p 8 new
    t.g = s.g ∧ memNat t loc 8 = (new.getD (memNat s loc 8)) % 2 ^ 64 ∧ ∀ b, b < loc ∨ loc + 8 ≤ b → memByte t b = memByte s b := by
  intro t
  have calm : Calm (s.activate [p]) := h.of_rows (s.activate_rowsOnly [p]) (s.activate_eq [p])
  have bytes : memByte (s.activate [p]) = memByte s := by rw [s.activate_eq]; rfl
  have group : (s.activate [p]).g = s.g := by rw [s.activate_eq]
  cases new with
  | none =>
    refine ⟨group, ?_, fun b _ => congrFun bytes b⟩
    rw [Option.getD_none, Nat.mod_eq_of_lt (lt_of_lt_of_eq (memNat_lt s loc 8) (by norm_num))]
    simp only [memNat, t, State.atomDone, bytes]
  | some x =>
    have stored := hp.activate.atomWrite calm (s.activate [p]).colId none 8 x
    have word := stored.memNat
    rw [leBytes_length, leNat_leBytes_mod] at word
    refine ⟨stored.same.g.trans group, word, fun b hb => ?_⟩
    exact (stored.other (by rwa [leBytes_length])).trans (congrFun bytes b)

end

/-! ### The instructions -/

section
variable {s : State} {G : Guard} {d a : VReg} {sc : Scope} {od : Order} {f : AOp}

/-- With no Active lane the lane-wise atomics and reductions do nothing (R139, R153). -/
theorem exec_amov_idle (ready : s.laneOperands (s.g.vOp d (s.g.active G)) (vSpan a 2 true (s.g.active G)) amovType G = .ok ())
    (idle : s.g.active G = 0) : exec (.amov G d a sc od f) s = .next s.retire := by
  simp only [exec_amov, execAmov, ready, ok_bind, if_pos idle, finish_ok]

theorem exec_casv_idle (ready : s.laneOperands (vSpan d 2 true (s.g.active G)) (vSpan a 2 true (s.g.active G)) casvType G = .ok ())
    (idle : s.g.active G = 0) : exec (.casv G d a sc od) s = .next s.retire := by
  simp only [exec_casv, execCasv, ready, ok_bind, if_pos idle, finish_ok]

theorem exec_redv_idle (ready : s.laneOperands (s.g.vOp d (s.g.active G)) (vSpan a 2 true (s.g.active G)) redvType G = .ok ())
    (idle : s.g.active G = 0) : exec (.redv G d a sc od f) s = .next s.retire := by
  simp only [exec_redv, execRedv, ready, ok_bind, if_pos idle, finish_ok]

variable (active : s.g.active G ≠ 0) {ps : List Part} {vals : List (Nat × Nat)} {t : State}
include active

/-- AMOV with its lanes translated and its operations made (R147). -/
theorem exec_amov_ok (ready : s.laneOperands (s.g.vOp d (s.g.active G)) (vSpan a 2 true (s.g.active G)) amovType G = .ok ())
    (hps : s.atomParts s.g.elemBytes (s.g.pairAddrs (s.g.active G) a) = .ok ps)
    (hr : s.returning false s.g.elemBytes ps sc od (fun L old => some (aopApply false s.g.ety f old (s.g.raw d L))) = .ok (vals, t)) :
    exec (.amov G d a sc od f) s = .next (t.retireWith (t.g.setRaw d (s.g.active G) (laneValue vals))) := by
  simp only [exec_amov, execAmov, ready, ok_bind, if_neg active, hps, hr, finish_ok]

/-- CASV likewise (R149). -/
theorem exec_casv_ok (ready : s.laneOperands (vSpan d 2 true (s.g.active G)) (vSpan a 2 true (s.g.active G)) casvType G = .ok ())
    (hps : s.atomParts 4 (s.g.pairAddrs (s.g.active G) a) = .ok ps)
    (hr : s.returning false 4 ps sc od (fun L old =>
      if old = (s.g.lane d.toNat L).toNat then some (s.g.lane (d.toNat + 1) L).toNat else none) = .ok (vals, t)) :
    exec (.casv G d a sc od) s = .next (t.retireWith (t.g.setV d.toNat (s.g.active G) fun L => BitVec.ofNat 32 (laneValue vals L))) := by
  simp only [exec_casv, execCasv, ready, ok_bind, if_neg active, hps, hr, finish_ok]

/-- REDV likewise (R152). -/
theorem exec_redv_ok (ready : s.laneOperands (s.g.vOp d (s.g.active G)) (vSpan a 2 true (s.g.active G)) redvType G = .ok ())
    (hps : s.atomParts s.g.elemBytes (s.g.pairAddrs (s.g.active G) a) = .ok ps)
    (hr : s.reducing false s.g.elemBytes ps sc od s.g.ety f (s.g.raw d) = .ok t) : exec (.redv G d a sc od f) s = .next t.retire := by
  simp only [exec_redv, execRedv, ready, ok_bind, if_neg active, hps, hr, finish_ok]

end

section
variable {s : State} {d a : SReg} {sc : Scope} {od : Order} (hb : s.g.bad = [])
include hb

/-- CASS from an odd register (R151, R153). -/
theorem exec_cass_odd (odd : d.toNat % 2 = 1) :
    exec (.cass d a sc od) s = .next (s.takeTrap ⟨.illegalOperand, d.zeroExtend 64, 0, [], none⟩) := by
  have refused : (d.toNat % 2 == 0) = false := by rw [odd]; rfl
  simp only [exec_cass, execCass, sound_ok hb, ok_bind, refused, need_false, error_bind, trapN, trap, BitVec.ofNat_toNat, finish_trap,
    BitVec.zeroExtend]

variable (near : (s.g.sReg a).toNat < 2 ^ 55) (aligned : (s.g.sReg a).toNat % 8 = 0) {ps : List Part}
  (hps : s.xlatParts .write true [(0, (s.g.sReg a).toNat, 8, 0)] = .ok ps) {vals : List (Nat × Nat)} {t : State}
include near aligned hps

/-- AMOS with its word translated and its operation made (R151). -/
theorem exec_amos_ok {f : AOp}
    (hr : s.returning true 8 ps sc od (fun _ old => some (aopApply true .i32 f old (s.g.sReg d).toNat)) = .ok (vals, t)) :
    exec (.amos d a sc od f) s = .next (t.retireWith (t.g.setS d (BitVec.ofNat 64 (laneValue vals 0)))) := by
  simp only [exec_amos, execAmos, State.scalarAtom, State.scalarPart, sound_ok hb, scalarAddr_ok near aligned, hps, hr, ok_bind, finish_ok]

/-- CASS likewise, from an even register (R151). -/
theorem exec_cass_ok (even : d.toNat % 2 = 0)
    (hr : s.returning true 8 ps sc od (fun _ old => if old = (s.g.sReg d).toNat then some (s.g.sReg (d + 1)).toNat else none) = .ok (vals, t)) :
    exec (.cass d a sc od) s = .next (t.retireWith (t.g.setS d (BitVec.ofNat 64 (laneValue vals 0)))) := by
  simp only [exec_cass, execCass, State.scalarAtom, State.scalarPart, sound_ok hb, even, beq_self_eq_true, need_true,
    scalarAddr_ok near aligned, hps, hr, ok_bind, finish_ok]

end

/-- Settles O31: the lane-wise forms by their shapes, the scalar ones by the one operation that they make in a calm state. -/
theorem atomics : Obligations.Atomics := by
  constructor
  · intro s G d a sc od f m e ready
    refine ⟨fun h => ⟨exec_amov_idle (laneOperands_ok h), fun active ps vals t hps hr => ?_⟩,
      fun h => ⟨exec_casv_idle (laneOperands_ok h), fun active ps vals t hps hr => ?_⟩,
      fun h => ⟨exec_redv_idle (laneOperands_ok h), fun active ps t hps hr => ?_⟩⟩
    · exact exec_amov_ok active (laneOperands_ok h) hps hr
    · exact exec_casv_ok active (laneOperands_ok h) hps hr
    · exact exec_redv_ok active (laneOperands_ok h) hps hr
  · intro s d a sc f p loc calm hb ea near aligned site hlen hoff hlane home key hps old gives
    have hp : PlainPart s p loc := ⟨site, home, key⟩
    have given {i : Instr} {op : Nat → Nat → Option Nat}
        (he : ∀ vals t, s.returning true 8 [p] sc .relaxed op = .ok (vals, t) →
          exec i s = .next (t.retireWith (t.g.setS d (BitVec.ofNat 64 (laneValue vals 0))))) :
        gives i ((op 0 old).getD old) := by
      have done := he _ _ (returning_calm calm hp sc op)
      rw [hlane, hlen, laneValue_one] at done
      obtain ⟨group, word, others⟩ := atomDone_calm calm hp (op 0 old)
      exact ⟨_, done, by rw [← group]; rfl, word, others⟩
    refine ⟨given fun vals t hr => exec_amos_ok hb near aligned hps hr, fun even => ?_, exec_cass_odd hb⟩
    have compared := given fun vals t hr => exec_cass_ok (d := d) hb near aligned hps even hr
    by_cases same : old = (s.g.sReg d).toNat
    · rwa [if_pos same] at compared ⊢
    · rwa [if_neg same] at compared ⊢

end Sys2Proof.Machine
end

section
/-! Ordered accesses and fences, and the releases and acquires that they make (R152 to R156, R261 to R263). -/
namespace Sys2Proof.Machine
open Sys2Proof.Safety
-- One proof at a time: proofs elaborated side by side each take a thread and its stack.
set_option Elab.async false

/-- A core that a change leaves as it is. -/
theorem State.modCore_self {s : State} {c : CoreId} {f : CoreState → CoreState} (h : f (s.cores.get c) = s.cores.get c) :
    s.modCore c f = s := by
  rw [State.modCore, h]
  simp [Vector.get_eq_getElem]

/-- An entry of a list whose entries are changed where a test holds comes from an entry of the list. -/
theorem exists_of_mem_updWhere {α : Type} {p : α → Bool} {f : α → α} {l : List α} {y : α} (h : y ∈ updWhere p f l) :
    ∃ x ∈ l, y = if p x then f x else x := by
  induction l with
  | nil => cases h
  | cons x r ih =>
    rcases List.mem_cons.1 h with rfl | h
    · exact ⟨x, List.mem_cons_self .., rfl⟩
    · obtain ⟨z, hz, eq⟩ := ih h
      exact ⟨z, List.mem_cons_of_mem _ hz, eq⟩

end Sys2Proof.Machine

namespace Sys2Proof.Safety
open Sys2Proof.Machine

/-! ### Releases and acquires in a calm state -/

section
variable {s : State} (h : Calm s)
include h

theorem Calm.drainComb (p : CombEntry → Bool) : s.drainComb s.g.core p = s := by simp [State.drainComb, h.comb]

theorem Calm.cleanL1 : s.cleanL1 s.g.core = s := by
  have same : ∀ c : CoreState, c.l1 = [] → ({ c with l1 := updWhere (fun _ => true) L1Line.cleaned c.l1 } : CoreState) = c := by
    rintro ⟨⟩ rfl; rfl
  rw [State.cleanL1, State.cleanWhere, h.l1]
  exact State.modCore_self (same _ h.l1)

theorem Calm.dropClean : s.dropClean s.g.core = s := by
  have same : ∀ c : CoreState, c.l1 = [] → ({ c with
      l1 := (c.l1.map fun l => { l with bytes := l.bytes.filter (·.dirty) }).filter fun l => !l.bytes.isEmpty } : CoreState) = c := by
    rintro ⟨⟩ rfl; rfl
  exact State.modCore_self (same _ h.l1)

/-- There is nothing to send on (R155). -/
theorem Calm.sendOn (sc : Scope) : s.sendOn s.g.core sc = s := by simp [State.sendOn, h.drainComb, h.cleanL1]

theorem Calm.widenBy (core : CoreId) (sc : Scope) : s.widenBy core sc = s := by simp [State.widenBy, Memory.widenMarks, h.marks]

theorem Calm.noteScratchRelease (team index : Nat) : s.noteScratchRelease team index = s := by simp [State.noteScratchRelease, h.olds]

theorem Calm.noteScratchAcquire (team index : Nat) : s.noteScratchAcquire team index = s := by simp [State.noteScratchAcquire, h.olds]

/-- A release changes nothing (R155, R262). -/
theorem Calm.release (sc : Scope) : s.release sc = s := by
  simp [State.release, State.releaseBy, h.sendOn, h.widenBy, State.admitBy, h.marks, h.noteScratchRelease]

theorem Calm.fenceScratch : s.fenceScratch = s := by simp [State.fenceScratch, h.olds]

theorem Calm.scWaits (od : Order) : s.scWaits od = .ok () := by simp [State.scWaits, h.held, h.peers]

/-- With no write on its way to HBM a release waits for nothing (R261). -/
theorem Calm.releasePart (writes : s.mem.writes = []) (sc : Scope) (od : Order) : s.releasePart sc od = .ok s := by
  have ready : ReleaseReady s sc := ⟨.inl h.version, by simp [h.sendOn, State.performedBy, h.held, h.peers, writes]⟩
  unfold State.releasePart
  split
  · rw [releaseFirst_ok ready, h.release]
  · rfl

end

/-- t is s but for the lines of peers that the slices hold under leases (R369). -/
def LeasesOf (s t : State) : Prop := ∃ l, t = { s with links := { s.links with llines := l } }

theorem LeasesOf.calm {s t : State} (ht : LeasesOf s t) (h : Calm s) : Calm t := by
  obtain ⟨_, rfl⟩ := ht; exact { h with }

theorem LeasesOf.trans {s t u : State} (h : LeasesOf s t) (k : LeasesOf t u) : LeasesOf s u := by
  obtain ⟨_, rfl⟩ := h; obtain ⟨_, rfl⟩ := k; exact ⟨_, rfl⟩

/-- An acquire drops what slices hold under leases at most (R155, R369). -/
theorem Calm.acquire {s : State} (h : Calm s) (sc : Scope) : LeasesOf s (s.acquire sc) := by
  have quiet : LeasesOf s (s.acquireBy s.g.core sc) := by
    simp only [State.acquireBy, h.drainComb, ite_self, h.dropClean]
    split
    · exact ⟨_, rfl⟩
    · exact ⟨s.links.llines, rfl⟩
  unfold State.acquire
  dsimp only
  rw [(quiet.calm h).noteScratchAcquire, ite_self]
  exact quiet

/-- So does the acquire of a read, widened or not (R263). -/
theorem Calm.acquireRead {s : State} (h : Calm s) (sc : Scope) (ps : List Part) : LeasesOf s (s.acquireRead sc ps) := by
  have first := h.acquire sc
  have second := first.trans ((first.calm h).acquire ((s.acquire sc).widened sc ps))
  exact second.trans ((second.calm h).acquire _)

/-! ### One part -/

section
variable {s : State} {p : Part} {loc : Nat} (h : Calm s) (hp : PlainPart s p loc)
include h hp

/-- The release write of a plain part, at its home at once (R262, R263). -/
theorem PlainPart.storeRelease (sc : Scope) (od : Order) (x : Word) : Stores s loc (leBytes 8 x.toNat) (s.storeRelease sc od p x) := by
  have beyond : (decide (p.x.home = 0) && decide (sc.code < 3)) = false := by simp [hp.home]
  simp only [State.storeRelease, hp.site, h.version, Option.isSome_none, Bool.false_eq_true, if_false, beyond, h.cleanDrop,
    State.writeHomeAs, h.holdOf, State.performWrite]
  exact h.performAt _ (w := s.writer p) hp.home hp.key _ loc _

/-- A reduction of a plain part rests in the combining buffer of its core (R152). -/
theorem PlainPart.reducePart (scalar : Bool) (size : Nat) (ty : EType) (op : AOp) (x : Nat) :
    s.reducePart scalar size ty op x p = s.modCore s.g.core fun c => { c with comb := c.comb ++
      [⟨loc, size, op, ty, scalar, BitVec.ofNat 64 x, s.origin, BitVec.ofNat 64 p.va, p.x.key, p.x.home, []⟩] } := by
  have core : s.origin.core = s.g.core := rfl
  simp only [State.reducePart, hp.site, h.version, Option.isSome_none, Bool.false_eq_true, if_false, h.cleanDrop, State.combine, core,
    h.comb, List.any_nil, h.drainComb]

end

end Sys2Proof.Safety

namespace Sys2Proof.Machine
open Sys2Proof.Safety

/-- The marks of a release write concern no byte and no group (R262). -/
theorem State.orderEnds_eq (s : State) (sc : Scope) (od : Order) (ps : List Part) :
    ∃ marks, s.orderEnds sc od ps = { s with mem := { s.mem with marks := marks } } := by
  unfold State.orderEnds State.recordRelease
  split
  · split
    · exact ⟨_, rfl⟩
    · exact ⟨_, rfl⟩
  · exact ⟨_, rfl⟩

/-! ### The instructions -/

section
variable {s : State} {sc : Scope} {od : Order}

theorem exec_fence_imprecise {va : Word} (hi : s.g.imprecise = some va) :
    exec (.fence sc od) s = .next (s.takeTrap ⟨.impreciseStore, va, 0, [], none⟩) := by
  simp only [exec_fence, execFence, State.impreciseCheck, hi, error_bind, trap, finish_trap]

/-- FENCE once its release is made (R155). -/
theorem exec_fence_ok (hi : s.g.imprecise = none) {t : State} (ht : s.releasePart sc od = .ok t) :
    exec (.fence sc od) s = .next (if orderAcquires od then t.acquire sc else t).retire := by
  simp only [exec_fence, execFence, State.impreciseCheck, hi, ht, ok_bind, finish_ok]

/-- FENCE while its release waits (R261). -/
theorem exec_fence_waits (hi : s.g.imprecise = none) (releases : orderReleases od = true) {e : Stop} (he : s.releaseFirst sc = .error e) :
    exec (.fence sc od) s = finish s (.error e) := by
  simp only [exec_fence, execFence, State.impreciseCheck, hi, State.releasePart, releases, if_true, he, ok_bind, error_bind]

variable {d a : SReg} (hb : s.g.bad = []) (near : (s.g.sReg a).toNat < 2 ^ 55) (aligned : (s.g.sReg a).toNat % 8 = 0) {ps : List Part}
include hb near aligned

section
variable (hps : s.xlatParts .write true [(0, (s.g.sReg a).toNat, 8, 0)] = .ok ps) {t : State}
include hps

theorem exec_reds_ok {f : AOp} (ht : s.reducing true 8 ps sc od .i32 f (fun _ => (s.g.sReg d).toNat) = .ok t) :
    exec (.reds d a sc od f) s = .next t.retire := by
  simp only [exec_reds, execReds, State.scalarAtom, State.scalarPart, sound_ok hb, scalarAddr_ok near aligned, hps, ht, ok_bind, finish_ok]

/-- STRL once its release is made (R154). -/
theorem exec_strl_ok (ho : s.objStores true ps = .ok ()) (hv : s.versionWrites ps = .ok ()) (ht : s.releasePart sc od = .ok t) :
    exec (.strl d a sc od) s = .next (((ps.foldl (fun (v : State) p => v.storeRelease sc od p (s.g.sReg d))
      ((t.settle t.g.core ps).activate ps)).orderEnds sc od ps).retire) := by
  simp only [exec_strl, execStrl, State.scalarAtom, State.scalarPart, sound_ok hb, scalarAddr_ok near aligned, hps, ho, hv, ht, ok_bind,
    finish_ok]

end

/-- LDA that nothing refuses (R154). -/
theorem exec_lda_ok (hps : s.xlatParts .read true [(0, (s.g.sReg a).toNat, 8, 0)] = .ok ps)
    (hm : s.markCheck s.me (partLines ps) = .ok ()) (hw : s.scWaits od = .ok ()) {vals : List (Nat × Nat)} {t : State}
    (hl : (s.acquireRead sc ps).loadParts true ps = .ok (vals, t)) :
    exec (.lda d a sc od) s = .next (t.retireWith (t.g.setS d (BitVec.ofNat 64 (laneValue vals 0)))) := by
  simp only [exec_lda, execLda, State.scalarAtom, State.scalarPart, sound_ok hb, scalarAddr_ok near aligned, hps, hm, hw, hl, ok_bind,
    finish_ok]

end

/-- What an acquired byte of the scratchpad is to a later MMAS of its group once FENCEO has been made (R156). -/
theorem fenceScratch_fences {s : State} {o : OldByte} (ho : o ∈ s.fenceScratch.mem.olds) (team : o.team = s.g.team)
    (acquired : o.acquired.contains s.g.index = true) : o.fenced.contains s.g.index = true := by
  unfold State.fenceScratch at ho
  dsimp only at ho
  split at ho
  · simp_all
  · obtain ⟨x, _, eq⟩ := exists_of_mem_updWhere ho
    split at eq
    · rw [eq]; simp
    · subst eq; simp_all

/-! ### The instructions in a calm state -/

section
variable {s : State} {d a : SReg} {sc : Scope} {od : Order} (h : Calm s) (writes : s.mem.writes = [])
include h

theorem exec_fenceo_calm : exec .fenceo s = .next s.retire := by rw [exec_fenceo, execFenceo, h.drainComb, h.fenceScratch]; rfl

/-- FENCE changes no byte (R155). -/
theorem exec_fence_calm (writes : s.mem.writes = []) (hi : s.g.imprecise = none) :
    ∃ t, exec (.fence sc od) s = .next t ∧ t.g = s.g.retire ∧ ∀ b, memByte t b = memByte s b := by
  obtain ⟨_, eq⟩ := h.acquire sc
  refine ⟨_, exec_fence_ok hi (h.releasePart writes sc od), ?_⟩
  split
  · rw [eq]; exact ⟨rfl, fun _ => rfl⟩
  · exact ⟨rfl, fun _ => rfl⟩

variable (hb : s.g.bad = []) (near : (s.g.sReg a).toNat < 2 ^ 55) (aligned : (s.g.sReg a).toNat % 8 = 0)
  {p : Part} {loc : Nat} (hp : PlainPart s p loc)
include hb near aligned hp

/-- LDA gives the word at its place (R154). -/
theorem exec_lda_calm (hlen : p.len = 8) (hoff : p.off = 0) (hlane : p.lane = 0)
    (hps : s.xlatParts .read true [(0, (s.g.sReg a).toNat, 8, 0)] = .ok [p]) :
    ∃ t, exec (.lda d a sc od) s = .next t ∧ t.g = (s.g.setS d (BitVec.ofNat 64 (memNat s loc 8))).retire ∧
      ∀ b, memByte t b = memByte s b := by
  have leases := h.acquireRead sc [p]
  obtain ⟨_, eq⟩ := leases
  have plain : PlainPart (s.acquireRead sc [p]) p loc := ⟨hp.site, hp.home, by rw [eq]; exact hp.key⟩
  obtain ⟨vals, loaded, word⟩ := loadParts_word ((h.acquireRead sc [p]).calm h) plain hlen hoff hlane
  refine ⟨_, exec_lda_ok hb near aligned hps (h.markCheck _ _) (h.scWaits od) loaded, ?_⟩
  rw [word, State.activate_eq, eq]
  exact ⟨rfl, fun _ => rfl⟩

variable (hps : s.xlatParts .write true [(0, (s.g.sReg a).toNat, 8, 0)] = .ok [p])
include writes hps

/-- STRL stores its word (R154). -/
theorem exec_strl_calm :
    ∃ t, exec (.strl d a sc od) s = .next t ∧ t.g = s.g.retire ∧ memNat t loc 8 = (s.g.sReg d).toNat ∧
      ∀ b, b < loc ∨ loc + 8 ≤ b → memByte t b = memByte s b := by
  have calm : Calm (s.activate [p]) := h.of_rows (s.activate_rowsOnly [p]) (s.activate_eq [p])
  have stored := hp.activate.storeRelease calm sc od (s.g.sReg d)
  obtain ⟨marks, ends⟩ := ((s.activate [p]).storeRelease sc od p (s.g.sReg d)).orderEnds_eq sc od [p]
  refine ⟨_, exec_strl_ok hb near aligned hps (h.objStores true [p]) (h.versionWrites [p]) (h.releasePart writes sc od), ?_⟩
  rw [h.settle, List.foldl_cons, List.foldl_nil, ends]
  have word := stored.memNat
  rw [leBytes_length, leNat_leBytes (s.g.sReg d).isLt] at word
  refine ⟨congrArg Group.retire (stored.same.g.trans (by rw [s.activate_eq])), word, fun b hb => ?_⟩
  exact (stored.other (by rwa [leBytes_length])).trans (by rw [s.activate_eq]; rfl)

/-- REDS leaves its operation in the combining buffer (R152). -/
theorem exec_reds_calm (f : AOp) :
    ∃ t e, exec (.reds d a sc od f) s = .next t ∧ t.g = s.g.retire ∧ (∀ b, memByte t b = memByte s b) ∧ (t.cores.get s.g.core).comb = [e] ∧
      e.loc = loc ∧ e.size = 8 ∧ e.op = f ∧ e.scalar = true ∧ e.val = s.g.sReg d ∧ e.who = s.origin := by
  have reduced : s.reducing true 8 [p] sc od .i32 f (fun _ => (s.g.sReg d).toNat) = .ok (s.reducePart true 8 .i32 f (s.g.sReg d).toNat p) := by
    have unversioned : s.versionReduces [p] = .ok () := by simp [State.versionReduces, h.version]
    simp only [State.reducing, h.objStores, h.versionWrites, unversioned, h.releasePart writes, h.catchUp, ok_bind, List.foldl_cons,
      List.foldl_nil]
  rw [hp.reducePart h] at reduced
  refine ⟨_, ⟨loc, 8, f, .i32, true, s.g.sReg d, s.origin, BitVec.ofNat 64 p.va, p.x.key, p.x.home, []⟩,
    exec_reds_ok hb near aligned hps reduced, rfl, fun _ => rfl, ?_, rfl, rfl, rfl, rfl, rfl, rfl⟩
  simp [h.comb]

end

/-- Settles O32: each instruction by its checks and its release; in a calm state a release and an acquire change no byte, and a release write
goes home at once. -/
theorem orderedAccesses : Obligations.OrderedAccesses := by
  constructor
  · intro s d a sc od f ps ea sent
    refine ⟨releaseFirst_ok, fun version waits hi releases => ?_, fun near aligned hb => ⟨fun hps => ⟨fun t ht => ?_, fun ho hv t ht => ?_⟩,
      fun hps hm hw vals t hl => ?_⟩, fun hi t ht => exec_fence_ok hi ht, fun va hi => exec_fence_imprecise hi, ⟨rfl, exec_fenceo_calm⟩,
      fun o ho => fenceScratch_fences ho⟩
    · exact exec_fence_waits hi releases (releaseFirst_waits (.inl version) waits)
    · exact exec_reds_ok hb near aligned hps ht
    · exact exec_strl_ok hb near aligned hps ho hv ht
    · exact exec_lda_ok hb near aligned hps hm hw hl
  · intro s d a sc od f p loc calm writes hb ea same
    refine ⟨exec_fence_calm calm writes, fun near aligned site hlen hoff hlane home key => ⟨fun hps => ?_, fun hps => ⟨?_, ?_⟩⟩⟩
    · exact exec_lda_calm calm hb near aligned ⟨site, home, key⟩ hlen hoff hlane hps
    · exact exec_strl_calm calm writes hb near aligned ⟨site, home, key⟩ hps
    · exact exec_reds_calm calm writes hb near aligned ⟨site, home, key⟩ hps f

end Sys2Proof.Machine
end

section
/-! Global vector accesses, contiguous rows and PREF (R135 to R139, R143, R144): what a line taken into an L1 keeps (R239, R363, R364). -/
namespace Sys2Proof.Machine
open Sys2Proof.Safety
-- One proof at a time: proofs elaborated side by side each take a thread and its stack.
set_option Elab.async false

/-! ### Lines of the slices -/

@[simp] theorem State.bufferAll_copies (s : State) (who : Option Origin) (l : List (Nat × Byte × Byte)) :
    (s.bufferAll who l).mem.copies = s.mem.copies := by
  obtain ⟨ws, n, eq⟩ := s.bufferAll_eq who l
  rw [eq]

@[simp] theorem Memory.untrack_copies (m : Memory) (line : Nat) : (m.untrack line).copies = m.copies := by
  unfold Memory.untrack; split <;> rfl

@[simp] theorem State.dropLine_copies (s : State) (l : SliceLine) : (s.dropLine l).mem.copies = s.mem.copies := by
  simp [State.dropLine]

theorem State.trimSlice_copies (s : State) (col : ColId) (host : Bool) (line : Nat) :
    (s.trimSlice col host line).mem.copies = s.mem.copies := by
  unfold State.trimSlice
  dsimp only
  generalize (if host = true then hostLines else _) = ways
  split
  · rfl
  · split
    · exact s.dropLine_copies _
    · rfl

theorem State.trimDir_copies (s : State) (line : Nat) : (s.trimDir line).mem.copies = s.mem.copies := by
  unfold State.trimDir
  dsimp only
  split
  · rfl
  · split
    · exact List.foldlRecOn (motive := fun t : State => t.mem.copies = s.mem.copies) _ _ rfl fun t ht l _ => (t.dropLine_copies l).trans ht
    · rfl

theorem State.putDir_copies (s : State) (d : DirEntry) : (s.putDir d).mem.copies = s.mem.copies := State.trimDir_copies _ _

theorem State.putLine_copies (s : State) (l : SliceLine) : (s.putLine l).mem.copies = s.mem.copies := State.trimSlice_copies _ _ _ _

theorem State.dirRequest_copies (s : State) (own : Bool) (die : DieId) (line : Nat) :
    (s.dirRequest own die line).mem.copies = s.mem.copies := by
  unfold State.dirRequest
  split
  · split
    · rfl
    · exact s.putDir_copies _
  · split
    · exact s.putDir_copies _
    · exact s.putDir_copies _

theorem State.readLine_copies (s : State) (col : ColId) (host : Bool) (line : Nat) : (s.readLine col host line).mem.copies = s.mem.copies := by
  unfold State.readLine
  split
  · exact s.putLine_copies _
  · exact (State.putLine_copies _ _).trans (State.dirRequest_copies _ _ _ _)

/-! ### Clean lines -/

/-- No byte of the line waits to be written back. -/
def L1Line.Clean (l : L1Line) : Prop := ∀ b ∈ l.bytes, b.by' = none

theorem dirtyRuns_clean {l : List L1Byte} (h : ∀ b ∈ l, b.by' = none) : dirtyRuns l = [] := by
  induction l with
  | nil => rfl
  | cons b r ih => rw [dirtyRuns, h b (List.mem_cons_self ..)]; exact ih fun c hc => h c (List.mem_cons_of_mem _ hc)

theorem L1Line.Clean.runs {l : L1Line} (h : l.Clean) (m : Memory) : l.runs m = [] := by
  have dirty (k : Nat) : l.bytes.filter (fun b => b.dirty && b.off / 32 == k) = [] :=
    List.filter_eq_nil_iff.2 fun b hb => by simp [L1Byte.dirty, h b hb]
  have whole : l.wholeSectors m = [] := List.filter_eq_nil_iff.2 fun k _ => by simp [dirty k]
  rw [L1Line.runs, whole, dirtyRuns_clean fun b hb => h b (List.mem_filter.1 hb).1]
  rfl

theorem L1Line.Clean.cleanLine {l : L1Line} (h : l.Clean) (s : State) : s.cleanLine l = s := by rw [State.cleanLine, h.runs]; rfl

theorem mem_l1Put {l : List L1Byte} {b c : L1Byte} (h : c ∈ l1Put l b) : c = b ∨ c ∈ l := by
  induction l with
  | nil => simpa [l1Put] using h
  | cons x r ih =>
    unfold l1Put at h
    split at h
    · simpa using h
    · split at h
      · simp only [List.mem_cons] at h ⊢; tauto
      · simp only [List.mem_cons] at h ⊢; tauto

theorem L1Line.Clean.fetch {l : L1Line} (h : l.Clean) {f : Nat → L1Byte} (hf : ∀ i, (f i).by' = none) (sector : Nat) :
    (l.fetch f sector).Clean := by
  refine List.foldlRecOn (motive := fun bs : List L1Byte => ∀ b ∈ bs, b.by' = none) _ _ h fun bs hbs i _ => ?_
  split
  · exact hbs
  · intro b hb
    rcases mem_l1Put hb with rfl | hb
    · exact hf i
    · exact hbs b hb

theorem L1Line.Clean.forget {l : L1Line} (h : l.Clean) (sector : Nat) : (l.forget sector).Clean :=
  fun b hb => h b (List.mem_filter.1 hb).1

theorem L1Line.Clean.tagged {l : L1Line} (h : l.Clean) (w : Writer) (loc : Nat) : (l.tagged w loc).Clean := by
  unfold L1Line.tagged; dsimp only; split <;> exact h

/-! ### PREF -/

/-- What PREF keeps in a calm state s (R144): the groups, the teams and the bytes of memory are those of s, no update-only copy comes up,
and no line of the core waits to be written back. -/
structure Prefetched (s t : State) : Prop where
  g : t.g = s.g
  others : t.others = s.others
  teams : t.teams = s.teams
  bytes : memByte t = memByte s
  copies : t.mem.copies = []
  clean : ∀ l ∈ (t.cores.get s.g.core).l1, l.Clean

theorem Prefetched.refl {s : State} (calm : Calm s) : Prefetched s s where
  g := rfl
  others := rfl
  teams := rfl
  bytes := rfl
  copies := calm.copies
  clean := by simp [calm.l1]

section
variable {s t : State} (h : Prefetched s t)
include h

/-- Other lines in the core's L1, every one of them clean. -/
theorem Prefetched.modCore {f : CoreState → CoreState} (clean : ∀ l ∈ (f (t.cores.get s.g.core)).l1, l.Clean) :
    Prefetched s (t.modCore s.g.core f) where
  g := h.g
  others := h.others
  teams := h.teams
  bytes := h.bytes
  copies := h.copies
  clean := by simpa using clean

theorem Prefetched.readLine (col : ColId) (host : Bool) (line : Nat) : Prefetched s (t.readLine col host line) := by
  have same := t.readLine_memOf col host line
  obtain ⟨base, cells, _, _⟩ := t.readLine_cells col host line
  exact ⟨same.g.trans h.g, same.others.trans h.others, same.teams.trans h.teams,
    (by funext x; rw [memByte, base, cells]; exact congrFun h.bytes x), (t.readLine_copies col host line).trans h.copies,
    same.cores ▸ h.clean⟩

theorem Prefetched.activate (ps : List Part) : Prefetched s (t.activate ps) := by
  rw [t.activate_eq ps]
  exact ⟨h.g, h.others, h.teams, h.bytes, h.copies, h.clean⟩

/-- A clean line is dropped without a write. -/
theorem Prefetched.cleanDrop (line : Nat) : Prefetched s (t.cleanDrop s.g.core line) := by
  unfold State.cleanDrop
  split
  · have written : ((t.cores.get s.g.core).l1.filter fun l => l.line == line).foldl State.cleanLine t = t :=
      foldl_eq_self fun l hl => (h.clean l (List.mem_filter.1 hl).1).cleanLine t
    rw [written]
    exact h.modCore fun l hl => h.clean l (List.mem_filter.1 hl).1
  · exact h

theorem Prefetched.l1Rekey (line key : Nat) : Prefetched s (t.l1Rekey s.g.core line key) := by
  unfold State.l1Rekey
  split
  · exact h.cleanDrop line
  · exact h

theorem Prefetched.l1Keep {l : L1Line} (clean : l.Clean) : Prefetched s (t.l1Keep s.g.core l) := by
  have kept : Prefetched s (t.modCore s.g.core fun c => { c with l1 := l :: c.l1.filter fun x => x.line != l.line }) :=
    h.modCore fun x hx => (List.mem_cons.1 hx).elim (· ▸ clean) fun hx => h.clean x (List.mem_filter.1 hx).1
  unfold State.l1Keep
  dsimp only
  split
  · exact kept
  · split
    · exact kept.cleanDrop _
    · exact kept

theorem Prefetched.l1Line (w : Writer) (loc : Nat) : ((t.cores.get s.g.core).l1Line w loc).Clean := by
  unfold CoreState.l1Line
  cases found : (t.cores.get s.g.core).l1.find? fun l => l.line == loc / 128 with
  | some l => exact h.clean l (List.mem_of_find?_eq_some found)
  | none => exact fun b hb => absurd hb List.not_mem_nil

/-- A line that is clean and taken into the L1, or given up where nothing of it is left. -/
theorem Prefetched.l1Take {l new : L1Line} (clean : new.Clean) (w : Writer) (loc : Nat) :
    Prefetched s (if new.bytes.isEmpty then t.modCore s.g.core fun c => { c with l1 := c.l1.filter fun x => x.line != l.line }
      else t.l1Keep s.g.core (new.tagged w loc)) := by
  split
  · exact h.modCore fun x hx => h.clean x (List.mem_filter.1 hx).1
  · exact h.l1Keep (clean.tagged w loc)

theorem Prefetched.l1Fetch {w : Writer} (core : w.who.core = s.g.core) (replica : Option Nat) (loc len : Nat) :
    Prefetched s (t.l1Fetch w replica loc len) := by
  unfold State.l1Fetch
  rw [core]
  extract_lets c s1 l s2 first k byte new
  have rekeyed : Prefetched s s1 := h.l1Rekey _ _
  have line : l.Clean := rekeyed.l1Line w loc
  have read : Prefetched s s2 := by
    unfold s2
    split
    · exact rekeyed.readLine _ _ _
    · exact rekeyed
  have filled : new.Clean := List.foldlRecOn (motive := L1Line.Clean) _ _ line fun x hx sector _ => by
    split
    · exact hx.fetch (fun _ => rfl) sector
    · exact hx.forget sector
  split
  · exact h
  · split
    · exact read.l1Take filled w loc
    · exact rekeyed.l1Keep (line.tagged w loc)

theorem Prefetched.prefLane (va : Nat) : Prefetched s (t.prefLane va) := by
  unfold State.prefLane
  split
  · split
    · split
      · rename_i x _ _ loc _ _
        have merged : t.mergeCopies (loc / 128) = t := by simp [State.mergeCopies, h.copies]
        rw [State.l1Fill, merged]
        exact h.l1Fetch (congrArg Group.core h.g) _ _ _
      · exact h
    · exact h
  · exact h

theorem Prefetched.prefRow (a : Nat) : Prefetched s (t.prefRow a) := by
  unfold State.prefRow
  split
  · exact h
  · exact h.activate _

end

/-- PREF in a calm state retires, and what it keeps is kept lane by lane (R144). -/
theorem exec_pref_calm {s : State} {G : Guard} {a : VReg} {b : SReg} (sp : PrefSpace)
    (ready : MemOperandsReady s 0 [s.g.vOp a 0] [vSpan a 1 false (s.g.active G)] anyType [b] [s.g.guardIdx G]) (calm : Calm s) :
    ∃ t, Prefetched s t ∧ exec (.pref G a b sp) s = .next t.retire := by
  simp only [exec_pref, execPref, operandsOf_ok ready, ok_bind, finish_ok]
  refine ⟨_, ?_, rfl⟩
  refine List.foldlRecOn (motive := Prefetched s) _ _ (.refl calm) fun t ht L _ => ?_
  split
  · exact ht.prefLane _
  · exact ht.prefRow _

/-! ### Global memory -/

/-- The lanes of an access of consecutive elements, with their addresses (R143). -/
def Group.rowLanes (g : Group) (m : Word) (b : SReg) (imm : BitVec 11) : List (Nat × Nat) := laneList m (g.rowAddr b imm)

section
variable {g : Group} {m : Word} {b : SReg} {imm : BitVec 11}

theorem Group.rowAligned_idle (idle : m = 0) : g.rowAligned m b imm = .ok () := by simp [Group.rowAligned, idle]

theorem Group.rowAligned_ok (aligned : (g.rowBase b imm).toNat % g.elemBytes = 0) : g.rowAligned m b imm = .ok () := by
  simp [Group.rowAligned, aligned]

theorem Group.rowAligned_error (some' : m ≠ 0) (odd : (g.rowBase b imm).toNat % g.elemBytes ≠ 0) :
    g.rowAligned m b imm = .error (trap .misaligned (g.rowBase b imm) m) := by
  have refused : (m == 0 || (g.rowBase b imm).toNat % g.elemBytes == 0) = false := by simpa using ⟨some', odd⟩
  rw [Group.rowAligned, refused, need_false]

end

section
variable {s : State} {G : Guard} {d : VReg} {b : SReg} {imm : BitVec 11}
  (ready : MemOperandsReady s (s.g.active G) [s.g.vOp d 0] [] anyType [b] [s.g.guardIdx G])
include ready

theorem exec_vldc_idle (idle : s.g.active G = 0) : exec (.vldc G d b imm) s = .next s.retire := by
  simp only [exec_vldc, execVldc, operandsOf_ok ready, Group.rowAligned_idle idle, ok_bind, State.vecLoad, if_pos idle, finish_ok]

theorem exec_vldc_misaligned (some' : s.g.active G ≠ 0) (odd : (s.g.rowBase b imm).toNat % s.g.elemBytes ≠ 0) :
    exec (.vldc G d b imm) s = .next (s.takeTrap ⟨.misaligned, s.g.rowBase b imm, s.g.active G, [], none⟩) := by
  simp only [exec_vldc, execVldc, operandsOf_ok ready, Group.rowAligned_error some' odd, ok_bind, error_bind]
  rfl

theorem exec_vldc_ok (some' : s.g.active G ≠ 0) (aligned : (s.g.rowBase b imm).toNat % s.g.elemBytes = 0) {ps : List Part}
    (hps : s.spaceParts .global .read s.g.elemBytes (s.g.rowLanes (s.g.active G) b imm) = .ok ps) {vals : List (Nat × Nat)} {t : State}
    (hl : s.loadParts false ps = .ok (vals, t)) :
    exec (.vldc G d b imm) s = .next (t.retireWith (t.g.putLoad d (s.g.active G) s.g.elemBytes (laneValue vals))) := by
  rw [Group.rowLanes] at hps
  simp only [exec_vldc, execVldc, operandsOf_ok ready, Group.rowAligned_ok aligned, ok_bind, State.vecLoad, if_neg some', hps, hl, finish_ok]

end

section
variable {s : State} {G : Guard} {d : VReg} {b : SReg} {imm : BitVec 11}
  (ready : MemOperandsReady s (s.g.active G) [s.g.vOp d 0] [s.g.vOp d (s.g.active G)] anyType [b] [s.g.guardIdx G])
include ready

theorem exec_vstc_idle (idle : s.g.active G = 0) : exec (.vstc G d b imm) s = .next s.retire := by
  simp only [exec_vstc, execVstc, operandsOf_ok ready, Group.rowAligned_idle idle, ok_bind, State.vecStore, if_pos idle, finish_ok]

theorem exec_vstc_misaligned (some' : s.g.active G ≠ 0) (odd : (s.g.rowBase b imm).toNat % s.g.elemBytes ≠ 0) :
    exec (.vstc G d b imm) s = .next (s.takeTrap ⟨.misaligned, s.g.rowBase b imm, s.g.active G, [], none⟩) := by
  simp only [exec_vstc, execVstc, operandsOf_ok ready, Group.rowAligned_error some' odd, ok_bind, error_bind]
  rfl

theorem exec_vstc_ok (some' : s.g.active G ≠ 0) (aligned : (s.g.rowBase b imm).toNat % s.g.elemBytes = 0) {ps : List Part}
    (hps : s.spaceParts .global .write s.g.elemBytes (s.g.rowLanes (s.g.active G) b imm) = .ok ps) (ho : s.objStores false ps = .ok ())
    (hv : s.versionWrites ps = .ok ()) :
    exec (.vstc G d b imm) s = .next (s.storeParts ps s.g.elemBytes (s.g.storeValue d s.g.elemBytes)).retire := by
  rw [Group.rowLanes] at hps
  have version : s.versionSpace .global ps = .ok () := hv
  simp only [exec_vstc, execVstc, operandsOf_ok ready, Group.rowAligned_ok aligned, ok_bind, State.vecStore, if_neg some', hps, ho, version,
    finish_ok]
  rfl

end

/-- Settles O29: a load by the parts it reads, a store by the parts it stores, PREF by what every lane of it keeps. -/
theorem globalVectorAccesses : Obligations.GlobalVectorAccesses := by
  intro s G d a b sz imm sp m size lanes e row rowLanes
  refine ⟨fun some' ps => ⟨?_, ?_, ?_, ?_⟩, fun idle => ⟨?_, ?_, ?_, ?_⟩, fun ready calm => ?_⟩
  · exact fun ready hps vals t hl => loadOp_ok ready some' hps hl
  · exact fun ready hps ho hv => storeOp_ok ready some' hps ho hv
  · exact fun ready => ⟨exec_vldc_misaligned ready some', fun aligned hps vals t hl => exec_vldc_ok ready some' aligned hps hl⟩
  · exact fun ready => ⟨exec_vstc_misaligned ready some', fun aligned hps ho hv => exec_vstc_ok ready some' aligned hps ho hv⟩
  · exact fun ready => loadOp_idle ready idle
  · exact fun ready => storeOp_idle ready idle
  · exact fun ready => exec_vldc_idle ready idle
  · exact fun ready => exec_vstc_idle ready idle
  · obtain ⟨t, kept, run⟩ := exec_pref_calm sp ready calm
    exact ⟨t.retire, run, congrArg Group.retire kept.g, kept.others, kept.teams, fun x => congrFun kept.bytes x⟩

end Sys2Proof.Machine
end

section
/-! The allowance instructions: their checks, what they do by themselves, and what they ask of the home (R157 to R163, R269 to R272). -/
namespace Sys2Proof.Machine
open Sys2Proof.Safety
-- One proof at a time: proofs elaborated side by side each take a thread and its stack.
set_option Elab.async false

/-! ### The address -/

section
variable {s : State} {A : Word}

theorem alAddress_misaligned (odd : A.toNat % 128 ≠ 0) : s.alAddress A = .error (trap .misaligned A 0) := by
  have refused : (A.toNat % 128 == 0) = false := by simpa using odd
  simp only [State.alAddress, refused, need_false, error_bind]

variable (aligned : A.toNat % 128 = 0)
include aligned

theorem alAddress_far (far : 2 ^ 55 ≤ A.toNat) : s.alAddress A = .error (trap .accessFault A 0) := by
  have passes : (A.toNat % 128 == 0) = true := by simpa using aligned
  have refused : decide (A.toNat < 2 ^ 55) = false := by simpa using far
  simp only [State.alAddress, passes, need_true, ok_bind, refused, need_false, error_bind]

variable (near : A.toNat < 2 ^ 55)
include near

theorem alAddress_fault {c : Cause} {incs : List Incident} (hx : s.groupXlat A.toNat 128 .readWrite = .error (.fault c incs)) :
    s.alAddress A = .error (.trap ⟨.accessFault, A, 0, incs, none⟩) := by
  have passes : (A.toNat % 128 == 0) = true := by simpa using aligned
  simp only [State.alAddress, passes, near, decide_true, need_true, ok_bind, hx]

variable {y : Xlat} (hx : s.groupXlat A.toNat 128 .readWrite = .ok y)
include hx

theorem alAddress_outside (site : ∀ loc, y.site ≠ .mem loc) : s.alAddress A = .error (trap .alPlacement A 0) := by
  have passes : (A.toNat % 128 == 0) = true := by simpa using aligned
  simp only [State.alAddress, passes, near, decide_true, need_true, ok_bind, hx]

theorem alAddress_home (home : 1 < y.home) : s.alAddress A = .error (trap .alPlacement A 0) := by
  have passes : (A.toNat % 128 == 0) = true := by simpa using aligned
  have refused : decide (y.home ≤ 1) = false := by simpa using home
  simp only [State.alAddress, passes, near, decide_true, need_true, ok_bind, hx, refused, need_false, error_bind]
  split <;> rfl

variable {loc : Nat} (site : y.site = .mem loc) (home : y.home ≤ 1)
include site home

theorem alAddress_otherCtx {o : AlObject} (obj : s.objOf (loc / 128) = some o) (other : o.ctx ≠ s.ctxId) :
    s.alAddress A = .error (trap .alPlacement A 0) := by
  have passes : (A.toNat % 128 == 0) = true := by simpa using aligned
  have refused : (o.ctx == s.ctxId) = false := by simpa using other
  simp only [State.alAddress, passes, near, home, decide_true, need_true, ok_bind, hx, site, obj, refused, need_false, error_bind]

theorem alAddress_new (obj : s.objOf (loc / 128) = none) : s.alAddress A = .ok (loc / 128, y.key) := by
  have passes : (A.toNat % 128 == 0) = true := by simpa using aligned
  simp only [State.alAddress, passes, near, home, decide_true, need_true, ok_bind, hx, site, obj]

end

theorem alObject_refused {s : State} {A : Word} {e : Stop} (h : s.alAddress A = .error e) : s.alObject A = .error e := by
  rw [State.alObject, h, error_bind]

theorem alObject_unregistered {s : State} {A : Word} {line key : Nat} (h : s.alAddress A = .ok (line, key)) (obj : s.objOf line = none) :
    s.alObject A = .error (trap .alUnregistered A 0) := by
  simp only [State.alObject, h, ok_bind, obj]

/-! ### ALTAKE, ALGIVE, ALREAD and ALFREE -/

section
variable {s : State} {G : Guard} {d a b : SReg} {p : PReg} {v : VReg} (hb : s.g.bad = [])
include hb

/-- An object that the checks refuse traps in every instruction on objects (R157). -/
theorem exec_al_refused {t : Trap} (h : s.alObject (s.g.sReg a) = .error (.trap t)) :
    exec (.altake d a b) s = .next (s.takeTrap t) ∧ exec (.algive d a b) s = .next (s.takeTrap t) ∧
    exec (.alread d a) s = .next (s.takeTrap t) ∧ exec (.alfree d a) s = .next (s.takeTrap t) ∧
    (OperandsReady s [vSpan v 1 false (s.g.active G)] [vSpan v 1 false (s.g.active G)] anyType [a] [s.g.guardIdx G] → s.g.active G ≠ 0 →
      exec (.altakev G p v a) s = .next (s.takeTrap t)) := by
  refine ⟨?_, ?_, ?_, ?_, fun ready some' => ?_⟩
  · simp only [exec_altake, execAltake, sound_ok hb, ok_bind, h, error_bind, finish_trap]
  · simp only [exec_algive, execAlgive, sound_ok hb, ok_bind, h, error_bind, finish_trap]
  · simp only [exec_alread, execAlread, sound_ok hb, ok_bind, h, error_bind, finish_trap]
  · simp only [exec_alfree, execAlfree, sound_ok hb, ok_bind, h, error_bind, finish_trap]
  · simp only [exec_altakev, execAltakev, operands_ok ready, ok_bind, if_neg some', h, error_bind, finish_trap]

variable {o : AlObject} {key : Nat} (ho : s.alObject (s.g.sReg a) = .ok (o, key))
include ho

theorem exec_altake_zero (zero : (s.g.sReg b).toNat = 0) : exec (.altake d a b) s = .next (s.retireWith (s.g.setS d 1)) := by
  simp only [exec_altake, execAltake, sound_ok hb, ok_bind, ho, if_pos zero, finish_ok]

/-- A take that the column's units cover (R272). -/
theorem exec_altake_local (some' : (s.g.sReg b).toNat ≠ 0) {u : Nat} (units : s.col.localUnits o.obj = some u)
    (enough : (s.g.sReg b).toNat ≤ u) : exec (.altake d a b) s =
      .next ((s.putUnits s.colId o.obj (u - (s.g.sReg b).toNat)).retireWith (s.g.setS d 1)) := by
  simp only [exec_altake, execAltake, sound_ok hb, ok_bind, ho, if_neg some', units, if_pos enough, finish_ok]

/-- A take that they do not cover asks the home (R272). -/
theorem exec_altake_asks (some' : (s.g.sReg b).toNat ≠ 0)
    (short : s.col.localUnits o.obj = none ∨ ∃ u, s.col.localUnits o.obj = some u ∧ u < (s.g.sReg b).toNat) :
    exec (.altake d a b) s = .next (s.alWaits o.obj (s.g.sReg a) (.take (s.g.sReg b).toNat) (.take d)) := by
  obtain units | ⟨u, units, few⟩ := short
  · simp only [exec_altake, execAltake, sound_ok hb, ok_bind, ho, if_neg some', units, finish_wait]
  · simp only [exec_altake, execAltake, sound_ok hb, ok_bind, ho, if_neg some', units, if_neg few.not_ge, finish_wait]

theorem exec_algive_zero (zero : (s.g.sReg b).toNat = 0) : exec (.algive d a b) s = .next (s.retireWith (s.g.setS d 0)) := by
  simp only [exec_algive, execAlgive, sound_ok hb, ok_bind, ho, if_pos zero, finish_ok]

section
variable (some' : (s.g.sReg b).toNat ≠ 0)
include some'

/-- A give into an entry that can be used: what fits of it, and the rest to the home (R272). -/
theorem exec_algive_entry {e : AlEntry} {t : State} (entry : s.needEntry s.colId o.obj = (some e, t)) (kept : e.recalled = false) :
    let n := (s.g.sReg b).toNat
    let units := Nat.min o.c (e.units + n)
    let u := t.putUnits s.colId o.obj units
    exec (.algive d a b) s = .next (if e.units + n - units = 0 then u.retireWith (u.g.setS d (BitVec.ofNat 64 n))
      else u.sendGive o.obj (s.g.sReg a) d (e.units + n - units) (n - (e.units + n - units))) := by
  simp only [exec_algive, execAlgive, sound_ok hb, ok_bind, ho, if_neg some', entry, kept, Bool.false_eq_true, if_false]
  split <;> rfl

/-- A give that the entry can hold (R161). -/
theorem exec_algive_fits {e : AlEntry} {t : State} (entry : s.needEntry s.colId o.obj = (some e, t)) (kept : e.recalled = false)
    (fits : e.units + (s.g.sReg b).toNat ≤ o.c) :
    exec (.algive d a b) s = .next ((t.putUnits s.colId o.obj (e.units + (s.g.sReg b).toNat)).retireWith
      ((t.putUnits s.colId o.obj (e.units + (s.g.sReg b).toNat)).g.setS d (BitVec.ofNat 64 (s.g.sReg b).toNat))) := by
  have all : Nat.min o.c (e.units + (s.g.sReg b).toNat) = e.units + (s.g.sReg b).toNat := Nat.min_eq_right fits
  rw [exec_algive_entry hb ho some' entry kept, all, if_pos (Nat.sub_self _)]

/-- A give beyond the cap: the entry is filled, and the home gets what is left (R161). -/
theorem exec_algive_exceeds {e : AlEntry} {t : State} (entry : s.needEntry s.colId o.obj = (some e, t)) (kept : e.recalled = false)
    (more : o.c < e.units + (s.g.sReg b).toNat) (within : e.units ≤ o.c) :
    exec (.algive d a b) s = .next ((t.putUnits s.colId o.obj o.c).sendGive o.obj (s.g.sReg a) d
      (e.units + (s.g.sReg b).toNat - o.c) (o.c - e.units)) := by
  have full : Nat.min o.c (e.units + (s.g.sReg b).toNat) = o.c := Nat.min_eq_left more.le
  have taken : (s.g.sReg b).toNat - (e.units + (s.g.sReg b).toNat - o.c) = o.c - e.units := by omega
  rw [exec_algive_entry hb ho some' entry kept, full, if_neg (Nat.sub_ne_zero_of_lt more), taken]

/-- Without an entry that can be used, the whole give goes to the home (R272). -/
theorem exec_algive_asks
    (no : (s.needEntry s.colId o.obj).1 = none ∨ ∃ e, (s.needEntry s.colId o.obj).1 = some e ∧ e.recalled = true) :
    exec (.algive d a b) s = .next (s.sendGive o.obj (s.g.sReg a) d (s.g.sReg b).toNat 0) := by
  simp only [exec_algive, execAlgive, sound_ok hb, ok_bind, ho, if_neg some']
  generalize s.needEntry s.colId o.obj = r at no ⊢
  obtain ⟨entry, t⟩ := r
  obtain rfl | ⟨e, rfl, recalled⟩ := no
  · rfl
  · simp only [recalled, if_true, finish_wait]

end

theorem exec_alread_asks : exec (.alread d a) s = .next (s.alWaits o.obj (s.g.sReg a) .read (.read d)) := by
  simp only [exec_alread, execAlread, sound_ok hb, ok_bind, ho, finish_wait]

theorem exec_alfree_asks : exec (.alfree d a) s = .next (s.alWaits o.obj (s.g.sReg a) (.free key) (.free d)) := by
  simp only [exec_alfree, execAlfree, sound_ok hb, ok_bind, ho, finish_wait]

end

/-! ### ALTAKEV -/

theorem amountSum_eq (us : List (Nat × Nat)) : amountSum us = (us.map (·.2)).sum := List.sum_eq_foldl.symm

section
variable {s : State} {G : Guard} {a : SReg} {p : PReg} {v : VReg}
  (ready : OperandsReady s [vSpan v 1 false (s.g.active G)] [vSpan v 1 false (s.g.active G)] anyType [a] [s.g.guardIdx G])
include ready

theorem exec_altakev_idle (idle : s.g.active G = 0) : exec (.altakev G p v a) s = .next s.retire := by
  simp only [exec_altakev, execAltakev, operands_ok ready, ok_bind, if_pos idle, finish_ok]

variable (some' : s.g.active G ≠ 0) {o : AlObject} {key : Nat} (ho : s.alObject (s.g.sReg a) = .ok (o, key))
include some' ho

/-- A vector take that the column's units cover; one of no units from none leaves the entry as it is (R160, R272). -/
theorem exec_altakev_local {u : Nat} (units : s.col.localUnits o.obj = some u)
    (enough : ((s.g.amounts (s.g.active G) v).map (·.2)).sum ≤ u) :
    exec (.altakev G p v a) s = .next ((if u = 0 then s
      else s.putUnits s.colId o.obj (u - ((s.g.amounts (s.g.active G) v).map (·.2)).sum)).retireWith (s.g.setP p (s.g.active G) (s.g.active G))) := by
  simp only [exec_altakev, execAltakev, operands_ok ready, ok_bind, if_neg some', ho, units, amountSum_eq, if_pos enough, finish_ok]

/-- A vector take that they do not cover asks the home (R272). -/
theorem exec_altakev_asks (short : s.col.localUnits o.obj = none ∨
      ∃ u, s.col.localUnits o.obj = some u ∧ u < ((s.g.amounts (s.g.active G) v).map (·.2)).sum) :
    exec (.altakev G p v a) s = .next (s.alWaits o.obj (s.g.sReg a) (.vtake (s.g.amounts (s.g.active G) v))
      (.vtake p (s.g.active G) (s.g.amounts (s.g.active G) v))) := by
  obtain units | ⟨u, units, few⟩ := short
  · simp only [exec_altakev, execAltakev, operands_ok ready, ok_bind, if_neg some', ho, units, finish_wait]
  · simp only [exec_altakev, execAltakev, operands_ok ready, ok_bind, if_neg some', ho, units, amountSum_eq, if_neg few.not_ge, finish_wait]

end

/-! ### ALINIT -/

section
variable {T b c : Nat}

theorem badInit_value (large : 2 ^ 63 ≤ T) : badInit T b c = some 0 := if_pos (by rw [alMax]; omega)

variable (value : T < 2 ^ 63)
include value

theorem badInit_batch (zero : b = 0) : badInit T b c = some 1 := by
  rw [badInit, if_neg (by rw [alMax]; omega), if_pos zero]

variable (batch : 1 ≤ b)
include batch

theorem badInit_cap (cap : c < b ∨ 2 ^ 32 ≤ c) : badInit T b c = some 2 := by
  rw [badInit, if_neg (by rw [alMax]; omega), if_neg (by omega), if_pos (by simp only [Bool.or_eq_true, decide_eq_true_eq]; omega)]

theorem badInit_none (ordered : b ≤ c) (cap : c < 2 ^ 32) : badInit T b c = none := by
  rw [badInit, if_neg (by rw [alMax]; omega), if_neg (by omega), if_neg (by simp only [Bool.or_eq_true, decide_eq_true_eq]; omega)]

end

section
variable {s : State} {d a b : SReg}

/-- ALINIT reads three registers from sb (R158). -/
theorem exec_alinit_beyond (last : 61 < b.toNat) :
    exec (.alinit d a b) s = .next (s.takeTrap ⟨.illegalOperand, b.zeroExtend 64, 0, [], none⟩) := by
  have refused : decide (b.toNat ≤ 61) = false := by simpa using last
  simp only [exec_alinit, execAlinit, refused, need_false, error_bind, trapN, trap, BitVec.ofNat_toNat, finish_trap, BitVec.zeroExtend]

variable (hb : s.g.bad = []) (first : b.toNat ≤ 61)
include hb first

theorem exec_alinit_refused {t : Trap} (h : s.alAddress (s.g.sReg a) = .error (.trap t)) : exec (.alinit d a b) s = .next (s.takeTrap t) := by
  simp only [exec_alinit, execAlinit, first, decide_true, need_true, sound_ok hb, ok_bind, h, error_bind, finish_trap]

variable {line key : Nat} (ha : s.alAddress (s.g.sReg a) = .ok (line, key))
include ha

theorem exec_alinit_bad {k : Nat} (bad : badInit (s.g.sReg b).toNat (s.g.sReg (b + 1)).toNat (s.g.sReg (b + 2)).toNat = some k) :
    exec (.alinit d a b) s = .next (s.takeTrap ⟨.illegalOperand, BitVec.ofNat 64 (b.toNat + k), 0, [], none⟩) := by
  simp only [exec_alinit, execAlinit, first, decide_true, need_true, sound_ok hb, ok_bind, ha, bad]
  rfl

variable (good : badInit (s.g.sReg b).toNat (s.g.sReg (b + 1)).toNat (s.g.sReg (b + 2)).toNat = none)
include good

/-- On a line that holds an object the home is asked (R158). -/
theorem exec_alinit_asks {o : AlObject} (obj : s.objOf line = some o) :
    exec (.alinit d a b) s = .next (s.alWaits line (s.g.sReg a) .init (.init d)) := by
  simp only [exec_alinit, execAlinit, first, decide_true, need_true, sound_ok hb, ok_bind, ha, good, obj, Option.isSome_some, if_true,
    finish_wait]

variable (obj : s.objOf line = none)
include obj

theorem exec_alinit_full (full : 8192 ≤ s.objs.length) : exec (.alinit d a b) s = .next (s.retireWith (s.g.setS d 2)) := by
  simp only [exec_alinit, execAlinit, first, decide_true, need_true, sound_ok hb, ok_bind, ha, good, obj, Option.isSome_none,
    Bool.false_eq_true, if_false, if_pos full, finish_ok]

/-- A new object on a line that no lease and no host copy holds (R158). -/
theorem exec_alinit_new (room : s.objs.length < 8192) (free : s.holdOf line = none) :
    let u := (s.dropPlaces (some s.origin) none [line]).purgeLine line
    exec (.alinit d a b) s = .next { u with
      objs := u.objs ++ [⟨line, s.ctxId, (s.g.sReg b).toNat, (s.g.sReg (b + 1)).toNat, (s.g.sReg (b + 2)).toNat, .normal, []⟩]
      g := (u.g.setS d 0).retire } := by
  have lineFree : s.lineFree line = .ok () := by simp [State.lineFree, free]
  simp only [exec_alinit, execAlinit, first, decide_true, need_true, sound_ok hb, ok_bind, ha, good, obj, Option.isSome_none,
    Bool.false_eq_true, if_false, if_neg room.not_ge, lineFree, finish_ok]

end

/-- The home answers 1 to the ALINIT of an object that it holds (R158). -/
theorem State.drainOne_init (t : State) (o : AlObject) {r : AlReq} (rest : List AlReq) (init : r.kind = .init) :
    t.drainOne o r rest = (t.modObj o.obj fun x => { x with h := o.h, queue := rest }).sendAl (objHome o.obj) r.col o.obj
      (.grant r.agent (.status 1) 0 o.c) := by
  simp only [State.drainOne, init]
  rfl

/-- Settles O33: every instruction by the check that stops it, the entry of its column, or what it asks of the home. -/
theorem allowanceInstructions : Obligations.AllowanceInstructions := by
  intro s G d a b p v hb A n
  refine ⟨?_, exec_alinit_beyond, ?_, fun t o r rest => t.drainOne_init o rest, fun t va obj x => rfl, ?_, ?_⟩
  · intro line key ha first batch cap refuses
    refine ⟨?_, ?_, ?_, ?_, ?_⟩
    · exact fun large => exec_alinit_bad hb first ha (badInit_value large)
    · exact fun value zero => exec_alinit_bad hb first ha (badInit_batch value zero)
    · exact fun value some' out => exec_alinit_bad hb first ha (badInit_cap value some' out)
    · exact fun value some' ordered within o obj => exec_alinit_asks hb first ha (badInit_none value some' ordered within) obj
    · intro value some' ordered within obj
      have good := badInit_none value some' ordered within
      exact ⟨exec_alinit_full hb first ha good obj, fun room free => ⟨_, exec_alinit_new hb first ha good obj room free, rfl, rfl⟩⟩
  · intro m x takes each
    have refused {t : Trap} (h : s.alAddress A = .error (.trap t)) : each t :=
      ⟨exec_al_refused hb (alObject_refused h), fun first => exec_alinit_refused hb first h⟩
    refine ⟨fun odd => refused (alAddress_misaligned odd), fun aligned far => refused (alAddress_far aligned far),
      fun aligned near => ⟨fun c incs hx => refused (alAddress_fault aligned near hx), ?_, ?_⟩⟩
    · rintro y hx (outside | home)
      · exact refused (alAddress_outside aligned near hx outside)
      · exact refused (alAddress_home aligned near hx home)
    · exact fun y loc hx site home =>
        ⟨fun o obj other => refused (alAddress_otherCtx aligned near hx site home obj other), fun obj =>
          exec_al_refused hb (alObject_unregistered (alAddress_new aligned near hx site home obj) obj)⟩
  · intro o key ho
    refine ⟨?_, ?_, ?_, ?_, ?_, ?_, ?_, ?_⟩
    · exact fun zero => ⟨exec_altake_zero hb ho zero, exec_algive_zero hb ho zero⟩
    · exact fun some' u => exec_altake_local hb ho some'
    · exact fun some' => exec_altake_asks hb ho some'
    · exact fun some' e t => exec_algive_fits hb ho some'
    · exact fun some' e t => exec_algive_exceeds hb ho some'
    · exact fun some' => exec_algive_asks hb ho some'
    · exact exec_alread_asks hb ho
    · exact exec_alfree_asks hb ho
  · intro m us ready
    refine ⟨exec_altakev_idle ready, fun some' o key ho => ⟨fun u units positive enough => ?_, fun units zero => ?_,
      exec_altakev_asks ready some' ho⟩⟩
    · have taken := exec_altakev_local (p := p) ready some' ho units enough
      rwa [if_neg positive.ne'] at taken
    · exact exec_altakev_local (p := p) ready some' ho units zero.le

end Sys2Proof.Machine
end

section
/-! Rendezvous points at an update, and the copies that count into them: COPY, COPYT and COPYV at issue (R165, R173 to R176). -/
namespace Sys2Proof.Machine
open Sys2Proof.Safety
-- One proof at a time: proofs elaborated side by side each take a thread and its stack.
set_option Elab.async false

/-! ### Points -/

theorem State.teamOf_modTeam {s : State} {id : Nat} {t : Team} {f : Team → Team} (h : s.teamOf id = some t) (hf : ∀ t, (f t).id = t.id) :
    (s.modTeam id f).teamOf id = some (f t) :=
  (find_updWhere (fun t => by rw [hf]) s.teams).trans (congrArg _ h)

theorem State.team_of_teamOf {s : State} {t : Team} (h : s.teamOf s.g.team = some t) : s.team = t := by rw [State.team, h, Option.getD_some]

section
variable {p : Point} {arrivals : Nat} {pending : Int}

/-- More arrivals than expected (R165). -/
theorem Point.evaluate_overflow (more : p.expected < arrivals) :
    p.evaluate arrivals pending = (p.errorFlip 5, some .rdvArrivalOverflow) := if_pos more

variable (within : arrivals ≤ p.expected)
include within

/-- More bytes subtracted than were counted (R165). -/
theorem Point.evaluate_underflow (neg : pending < 0) : p.evaluate arrivals pending = (p.errorFlip 4, some .rdvPendingUnderflow) := by
  rw [Point.evaluate, if_neg within.not_gt, if_pos neg]

/-- The expected arrivals with nothing pending (R165). -/
theorem Point.evaluate_flip (all : arrivals = p.expected) (nothing : pending = 0) (init : p.expected ≠ 0) :
    p.evaluate arrivals pending = (p.flip, none) := by
  rw [Point.evaluate, if_neg within.not_gt, if_neg nothing.not_lt, if_pos ⟨all, nothing, init⟩]

/-- Otherwise the counts stand (R165). -/
theorem Point.evaluate_stands (nonneg : 0 ≤ pending) (unended : ¬(arrivals = p.expected ∧ pending = 0 ∧ p.expected ≠ 0)) :
    p.evaluate arrivals pending = ({ p with arrivals := arrivals, pending := pending.toNat }, none) := by
  rw [Point.evaluate, if_neg within.not_gt, if_neg nonneg.not_gt, if_neg unended]

end

/-- A point replaced by one of the same phase is all that changes. -/
theorem State.putPoint_same {s : State} {team pt : Nat} {p : Point} (h : p.phase = (((s.teamOf team).getD Team.none).point pt).phase) :
    s.putPoint team pt p none = s.modTeam team fun x => { x with points := x.points.set pt p } := if_pos h

/-! ### Operations that begin -/

/-- The bytes of an operation that begins keep its point from flipping (R165, R173). -/
theorem State.beginOp_points {s : State} {pt n : Nat} {tm : Team} (kind : EngineKind) (ht : s.teamOf s.g.team = some tm) (some' : 0 < n)
    (few : (tm.point pt).arrivals ≤ (tm.point pt).expected) :
    s.beginOp pt n kind = ({ s with
      ops := s.ops ++ [⟨s.fresh, s.ctxId, s.colId, s.g.team, s.g.core, s.g.slot, s.g.index, s.g.pc, pt, n, 0, kind, none, [], none, []⟩]
      fresh := s.fresh + 1 } : State).modTeam s.g.team fun x => { x with
        points := x.points.set pt { tm.point pt with pending := (tm.point pt).pending + n } } := by
  have known (ops : List EngineOp) (k : Nat) : (({ s with ops := ops, fresh := k } : State).teamOf s.g.team).getD Team.none = tm := by
    rw [show ({ s with ops := ops, fresh := k } : State).teamOf s.g.team = some tm from ht, Option.getD_some]
  have stands := Point.evaluate_stands (p := tm.point pt) (pending := (tm.point pt).pending + n) few (by omega) (by omega)
  unfold State.beginOp State.updPoint
  simp only [known, Nat.add_zero, stands]
  rw [State.putPoint_same (by rw [known])]
  congr

section
variable {s : State} (hb : s.g.bad = [])

theorem State.declared_ok {pt : BitVec 5} (h : pt.toNat < s.grid.launch.points) : s.declared pt = .ok () := by
  rw [State.declared, decide_eq_true h, need_true]

/-- A check over lanes that each passes. -/
theorem lanesNeed_ok {c : Cause} {m : Word} {addr : Nat → Nat} {ok : Nat → Nat → Bool}
    (h : ∀ L < 64, m.getLsbD L = true → ok L (addr L) = true) : lanesNeed c (laneList m addr) ok = .ok () := by
  have none : ((laneList m addr).filter fun l => !(ok l.1 l.2)) = [] := by
    refine List.filter_eq_nil_iff.2 fun l hl => ?_
    obtain ⟨L, hL, rfl⟩ := List.mem_map.1 hl
    have active := mem_lanesOf.1 hL
    simp [h L (BitVec.lt_of_getLsbD active) active]
  rw [lanesNeed, none]

section
variable {pt : BitVec 5} {a b : SReg}
include hb

section
variable (pair : a.toNat ≤ 62) (fields : (s.g.sReg b).toNat < 2 ^ 36) (point : pt.toNat < s.grid.launch.points)
include pair fields point

/-- COPY of no bytes (R174). -/
theorem exec_copy_empty (none : (s.g.sReg b).toNat % 2 ^ 32 = 0) : exec (.copy pt a b) s = .next s.retire := by
  have high : ((s.g.sReg b).toNat / 2 ^ 36 == 0) = true := by simpa using Nat.div_eq_of_lt fields
  simp only [exec_copy, execCopy, sound_ok hb, ok_bind, pair, decide_true, need_true, high, State.declared_ok point, field, pow_zero,
    Nat.div_one, if_pos none, finish_ok]

theorem exec_copy_ok (some' : (s.g.sReg b).toNat % 2 ^ 32 ≠ 0)
    (dst : s.rangeCheck (.ofCode ((s.g.sReg b).toNat / 2 ^ 32 % 4)) (s.g.sReg a).toNat ((s.g.sReg b).toNat % 2 ^ 32 : Nat) = .ok ())
    (src : s.rangeCheck (.ofCode ((s.g.sReg b).toNat / 2 ^ 34 % 4)) (s.g.sReg (a + 1)).toNat ((s.g.sReg b).toNat % 2 ^ 32 : Nat) = .ok ()) :
    exec (.copy pt a b) s = .next (s.beginOp pt.toNat ((s.g.sReg b).toNat % 2 ^ 32) (.copy (.run (s.g.sReg a).toNat (s.g.sReg (a + 1)).toNat
      ((s.g.sReg b).toNat / 2 ^ 32 % 4) ((s.g.sReg b).toNat / 2 ^ 34 % 4)))).retire := by
  have high : ((s.g.sReg b).toNat / 2 ^ 36 == 0) = true := by simpa using Nat.div_eq_of_lt fields
  have two : (2 : Nat) ^ 2 = 4 := rfl
  simp only [exec_copy, execCopy, sound_ok hb, ok_bind, pair, decide_true, need_true, high, State.declared_ok point, field, pow_zero,
    Nat.div_one, if_neg some', two, dst, src, finish_ok]

end

/-- COPYT once its record is read (R175). -/
theorem exec_copyt_ok (aligned : (s.g.sReg a).toNat % 64 = 0) (near : (s.g.sReg a).toNat < 2 ^ 55) {ps : List Part}
    {vals : List (Nat × Nat)} {u : State} (hps : s.xlatParts .read true (spillCuts (s.g.sReg a).toNat) = .ok ps)
    (hl : s.loadParts true ps = .ok (vals, u)) {t : Tensor} (ht : Tensor.ofWords (laneValue vals) = t) {base : Word}
    (hbase : t.src + s.g.sReg b = base) (legal : t.illegal = none) (even : t.misaligned base = none) (point : u.declared pt = .ok ())
    (src : u.rangeCheck (.ofCode (t.ctrl / 16 % 4)) (base.toNat + t.spread.1) (t.spread.2 - t.spread.1 + (2 ^ t.esz : Nat)) (2 ^ t.esz : Nat)
      = .ok ())
    (dst : u.rangeCheck (.ofCode (t.ctrl / 64 % 4)) t.dst.toNat t.bytes (2 ^ t.esz : Nat) = .ok ()) :
    exec (.copyt pt a b) s = .next (u.beginOp pt.toNat t.bytes (.copy
      (.box t.dst.toNat base.toNat (t.ctrl / 64 % 4) (t.ctrl / 16 % 4) t.esz t.extents t.strides))).retire := by
  have quad : ((s.g.sReg a).toNat % 64 == 0) = true := by simpa using aligned
  rw [Nat.cast_pow, Nat.cast_ofNat] at src dst
  simp only [exec_copyt, execCopyt, sound_ok hb, ok_bind, quad, need_true, near, decide_true, hps, hl, ht, hbase, legal, even, recordStop,
    point, src, dst, finish_ok]

end

section
variable {G : Guard} {n : BitVec 7} {v w : VReg} {sz : PieceSize}
  (ready : MemOperandsReady s (s.g.active G) [vSpan v 2 true (s.g.active G), vSpan w 1 false (s.g.active G)]
    [vSpan v 2 true (s.g.active G), vSpan w 1 false (s.g.active G)] anyType [] [s.g.guardIdx G])
include ready

theorem exec_copyv_idle (idle : s.g.active G = 0) : exec (.copyv G n v w sz) s = .next s.retire := by
  simp only [exec_copyv, execCopyv, step6_of_mem ready, ready.2.2, ok_bind, if_pos idle, finish_ok]

/-- COPYV with pieces that lie within the scratchpad and at multiples of their size (R176). -/
theorem exec_copyv_ok (some' : s.g.active G ≠ 0) (five : n.toNat < 32) (point : n.toNat < s.grid.launch.points)
    (pieces : ∀ L < 64, (s.g.active G).getLsbD L = true → (s.g.lane w.toNat L).toNat + pieceBytes sz ≤ s.scratchBytes ∧
      (s.g.lane64 v.toNat L).toNat % pieceBytes sz = 0 ∧ (s.g.lane w.toNat L).toNat % pieceBytes sz = 0 ∧
      (s.g.lane64 v.toNat L).toNat < 2 ^ 55) :
    exec (.copyv G n v w sz) s = .next (s.beginOp n.toNat (pieceBytes sz * (lanesOf (s.g.active G)).length) (.copy (.pieces (pieceBytes sz)
      ((lanesOf (s.g.active G)).map fun L => ((s.g.lane w.toNat L).toNat, (s.g.lane64 v.toNat L).toNat))))).retire := by
  have even : evenCheck [vSpan v 2 true (s.g.active G), vSpan w 1 false (s.g.active G)] = .ok () :=
    evenCheck_ok fun o ho => by have := ready.1 o ho; rw [if_neg some'] at this; exact this.2.2
  have named : (n.extractLsb' 0 5).toNat = n.toNat := by simp; omega
  have declared : s.declared (n.extractLsb' 0 5) = .ok () := State.declared_ok (by rw [named]; exact point)
  simp only [exec_copyv, execCopyv, step6_of_mem ready, ready.2.2, ok_bind, if_neg some', even, declared]
  rw [lanesNeed_ok fun L hL set => by simpa using (pieces L hL set).1, ok_bind,
    lanesNeed_ok fun L hL set => by simpa using ⟨(pieces L hL set).2.1, (pieces L hL set).2.2.1⟩, ok_bind,
    lanesNeed_ok fun L hL set => by simpa using (pieces L hL set).2.2.2, ok_bind, finish_ok]

end

end

/-- Settles O36: the operation that begins, and each form of copy by the checks that it passes. -/
theorem copyIssue : Obligations.CopyIssue := by
  unfold Obligations.CopyIssue
  refine ⟨fun s pt n kind tm ht within some' few => ?_, fun s pt a b G n v w sz hb => ⟨fun pair fields point => ⟨?_, ?_⟩, ?_, ?_⟩⟩
  · dsimp only
    rw [State.beginOp_points kind ht some' few]
    refine ⟨_, rfl, rfl, rfl, rfl, rfl, rfl, rfl, rfl, rfl, rfl, rfl, rfl, rfl, rfl, _,
      State.teamOf_modTeam ht fun _ => rfl, rfl⟩
  · exact exec_copy_empty hb pair fields point
  · exact exec_copy_ok hb pair fields point
  · intro R aligned near ps vals u hps hl t base legal even point src dst
    exact exec_copyt_ok hb aligned near hps hl rfl rfl legal even point src dst
  · intro m src dst ready
    exact ⟨exec_copyv_idle ready, exec_copyv_ok ready⟩

end Sys2Proof.Machine
end

section
/-! The instructions on rendezvous points: RDVINIT, ARRIVE, EXPECT, WAITP, WAITY, ARWAIT and RDVSTAT (R164 to R171, R25). -/
namespace Sys2Proof.Machine
open Sys2Proof.Safety
-- One proof at a time: proofs elaborated side by side each take a thread and its stack.
set_option Elab.async false

/-! ### Checks -/

theorem trapN_toNat {w : Nat} (c : Cause) (x : BitVec w) : trapN c x.toNat = .trap ⟨c, x.zeroExtend 64, 0, [], none⟩ := by
  rw [trapN, trap, BitVec.ofNat_toNat]

section
variable {s : State}

theorem State.impreciseCheck_ok (h : s.g.imprecise = none) : s.impreciseCheck = .ok () := by rw [State.impreciseCheck, h]

/-- A store that has failed before is reported first (R196). -/
theorem State.impreciseCheck_reports {va : Word} (h : s.g.imprecise = some va) :
    s.impreciseCheck = .error (.trap ⟨.impreciseStore, va, 0, [], none⟩) := by rw [State.impreciseCheck, h]; rfl

/-- The flags that are set and armed (R25). -/
def Group.armed (g : Group) : BitVec 7 := g.fl.extractLsb' 0 7 &&& g.fl.extractLsb' 16 7

theorem Group.flagTest_ok {g : Group} (h : g.armed = 0) : g.flagTest = .ok () := by
  rw [Group.flagTest, show g.fl.extractLsb' 0 7 &&& g.fl.extractLsb' 16 7 = 0 from h]; rfl

theorem Group.flagTest_traps {g : Group} (h : g.armed ≠ 0) :
    g.flagTest = .error (.trap ⟨.flagTrap, 0, g.armed.zeroExtend 64, [], none⟩) := by
  have refused : (g.fl.extractLsb' 0 7 &&& g.fl.extractLsb' 16 7 == 0) = false := by simpa [Group.armed] using h
  rw [Group.flagTest, refused]; rfl

variable {pt : BitVec 5}

theorem State.declared_beyond (h : s.grid.launch.points ≤ pt.toNat) :
    s.declared pt = .error (.trap ⟨.illegalOperand, pt.zeroExtend 64, 0, [], none⟩) := by
  rw [State.declared, decide_eq_false h.not_gt, need_false, trapN_toNat]

theorem State.ready_beyond (h : s.grid.launch.points ≤ pt.toNat) :
    s.ready pt = .error (.trap ⟨.illegalOperand, pt.zeroExtend 64, 0, [], none⟩) := by
  rw [State.ready, State.declared_beyond h, error_bind]

theorem State.ready_uninit (point : pt.toNat < s.grid.launch.points) (h : (s.team.point pt.toNat).expected = 0) :
    s.ready pt = .error (.trap ⟨.rdvUninit, pt.zeroExtend 64, 0, [], none⟩) := by
  rw [State.ready, State.declared_ok point, ok_bind, h, trapN_toNat]; rfl

theorem State.ready_ok (point : pt.toNat < s.grid.launch.points) (h : (s.team.point pt.toNat).expected ≠ 0) : s.ready pt = .ok () := by
  rw [State.ready, State.declared_ok point, ok_bind, bne_iff_ne.2 h, need_true]

/-- A release of team scope sends nothing on: it waits for the writes of its core alone (R155, R261). -/
theorem State.releaseFirst_team (performed : s.performedBy s.g.core .team = true) : s.releaseFirst .team = .ok (s.release .team) :=
  releaseFirst_ok ⟨.inr le_rfl, performed⟩

theorem State.releaseFirst_team_waits (waits : s.performedBy s.g.core .team = false) :
    s.releaseFirst .team = .error (.wait s.stallHere) :=
  releaseFirst_waits (sc := .team) (.inr le_rfl) waits

end

/-! ### RDVINIT, ARRIVE, EXPECT and RDVSTAT -/

section
variable {s : State} {pt : BitVec 5} {a b : SReg} (hb : s.g.bad = [])

section
include hb

theorem exec_rdvinit_beyond (beyond : s.grid.launch.points ≤ pt.toNat) :
    exec (.rdvinit pt a b) s = .next (s.takeTrap ⟨.illegalOperand, pt.zeroExtend 64, 0, [], none⟩) := by
  simp only [exec_rdvinit, execRdvinit, sound_ok hb, ok_bind, State.declared_beyond beyond, error_bind, finish_trap]

theorem exec_expect_beyond (beyond : s.grid.launch.points ≤ pt.toNat) :
    exec (.expect pt a) s = .next (s.takeTrap ⟨.illegalOperand, pt.zeroExtend 64, 0, [], none⟩) := by
  simp only [exec_expect, execExpect, sound_ok hb, ok_bind, State.ready_beyond beyond, error_bind, finish_trap]

variable (point : pt.toNat < s.grid.launch.points)
include point

theorem exec_rdvinit_count (out : (s.g.sReg a).toNat = 0 ∨ 1024 < (s.g.sReg a).toNat) :
    exec (.rdvinit pt a b) s = .next (s.takeTrap ⟨.illegalOperand, a.zeroExtend 64, 0, [], none⟩) := by
  have refused : (decide (1 ≤ (s.g.sReg a).toNat) && decide ((s.g.sReg a).toNat ≤ 1024)) = false := by
    rw [Bool.and_eq_false_iff, decide_eq_false_iff_not, decide_eq_false_iff_not]; omega
  simp only [exec_rdvinit, execRdvinit, sound_ok hb, ok_bind, State.declared_ok point, refused, need_false, error_bind, trapN_toNat,
    finish_trap]

section
variable (least : 1 ≤ (s.g.sReg a).toNat) (most : (s.g.sReg a).toNat ≤ 1024)
include least most

theorem exec_rdvinit_flag (flag : 1 < (s.g.sReg b).toNat) :
    exec (.rdvinit pt a b) s = .next (s.takeTrap ⟨.illegalOperand, b.zeroExtend 64, 0, [], none⟩) := by
  simp only [exec_rdvinit, execRdvinit, sound_ok hb, ok_bind, State.declared_ok point, least, most, decide_true, Bool.and_self,
    need_true, decide_eq_false flag.not_ge, need_false, error_bind, trapN_toNat, finish_trap]

variable (flag : (s.g.sReg b).toNat ≤ 1)
include flag

/-- RDVINIT of a point that is in its initial counts (R168). -/
theorem exec_rdvinit_ok (arrivals : (s.team.point pt.toNat).arrivals = 0) (pending : (s.team.point pt.toNat).pending = 0) :
    exec (.rdvinit pt a b) s = .next (s.putPoint s.g.team pt.toNat { s.team.point pt.toNat with
      expected := (s.g.sReg a).toNat, ext := (s.g.sReg b).toNat == 1, err := false, errcode := 0, erraddr := 0 } none).retire := by
  have free : ((s.team.point pt.toNat).arrivals == 0 && (s.team.point pt.toNat).pending == 0) = true := by simp [arrivals, pending]
  simp only [exec_rdvinit, execRdvinit, sound_ok hb, ok_bind, State.declared_ok point, least, most, decide_true, Bool.and_self,
    need_true, flag, free, finish_ok]

theorem exec_rdvinit_busy (busy : ¬((s.team.point pt.toNat).arrivals = 0 ∧ (s.team.point pt.toNat).pending = 0)) :
    exec (.rdvinit pt a b) s = .next (s.takeTrap ⟨.rdvBusy, pt.zeroExtend 64, 0, [], none⟩) := by
  have refused : ((s.team.point pt.toNat).arrivals == 0 && (s.team.point pt.toNat).pending == 0) = false := by
    simpa [Bool.and_eq_false_iff, not_and_or] using busy
  simp only [exec_rdvinit, execRdvinit, sound_ok hb, ok_bind, State.declared_ok point, least, most, decide_true, Bool.and_self,
    need_true, flag, refused, need_false, error_bind, trapN_toNat, finish_trap]

end

theorem exec_expect_uninit (uninit : (s.team.point pt.toNat).expected = 0) :
    exec (.expect pt a) s = .next (s.takeTrap ⟨.rdvUninit, pt.zeroExtend 64, 0, [], none⟩) := by
  simp only [exec_expect, execExpect, sound_ok hb, ok_bind, State.ready_uninit point uninit, error_bind, finish_trap]

variable (init : (s.team.point pt.toNat).expected ≠ 0)
include init

theorem exec_expect_ok (fits : (s.team.point pt.toNat).pending + (s.g.sReg a).toNat ≤ 2 ^ 63 - 1) :
    exec (.expect pt a) s = .next (s.updPoint s.g.team pt.toNat 0 (s.g.sReg a).toNat).retire := by
  simp only [exec_expect, execExpect, sound_ok hb, ok_bind, State.ready_ok point init, fits, decide_true, need_true, finish_ok]

theorem exec_expect_overflow (large : 2 ^ 63 - 1 < (s.team.point pt.toNat).pending + (s.g.sReg a).toNat) :
    exec (.expect pt a) s = .next (s.takeTrap ⟨.illegalOperand, a.zeroExtend 64, 0, [], none⟩) := by
  simp only [exec_expect, execExpect, sound_ok hb, ok_bind, State.ready_ok point init, decide_eq_false large.not_ge, need_false,
    error_bind, trapN_toNat, finish_trap]

end

theorem exec_arrive_refused {t : Trap} (h : s.ready pt = .error (.trap t)) : exec (.arrive pt a) s = .next (s.takeTrap t) := by
  simp only [exec_arrive, execArrive, h, error_bind, finish_trap]

section
variable (ready : s.ready pt = .ok ())
include ready

/-- ARRIVE gives the phase in which it arrived (R169). -/
theorem exec_arrive_ok (performed : s.performedBy s.g.core .team = true) :
    let u := (s.release .team).updPoint s.g.team pt.toNat 1 0
    exec (.arrive pt a) s = .next (u.retireWith (u.g.setS a (if (s.team.point pt.toNat).phase then 1 else 0))) := by
  simp only [exec_arrive, execArrive, ready, ok_bind, State.releaseFirst_team performed, finish_ok]

theorem exec_arrive_held (waits : s.performedBy s.g.core .team = false) : exec (.arrive pt a) s = .next s.stallHere := by
  simp only [exec_arrive, execArrive, ready, ok_bind, State.releaseFirst_team_waits waits, error_bind, finish_wait]

end

theorem exec_rdvstat_beyond (beyond : s.grid.launch.points ≤ pt.toNat) :
    exec (.rdvstat pt a b) s = .next (s.takeTrap ⟨.illegalOperand, pt.zeroExtend 64, 0, [], none⟩) := by
  simp only [exec_rdvstat, execRdvstat, State.declared_beyond beyond, error_bind, finish_trap]

/-- RDVSTAT writes the status first and the error address last (R171, log entry 34). -/
theorem exec_rdvstat_ok (point : pt.toNat < s.grid.launch.points) : exec (.rdvstat pt a b) s =
    .next (s.retireWith ((s.g.setS a (s.team.point pt.toNat).status).setS b (s.team.point pt.toNat).erraddr)) := by
  simp only [exec_rdvstat, execRdvstat, State.declared_ok point, ok_bind, finish_ok]

/-! ### WAITP, WAITY and ARWAIT -/

theorem exec_waity_imprecise {va : Word} (imprecise : s.g.imprecise = some va) :
    exec (.waity pt a b) s = .next (s.takeTrap ⟨.impreciseStore, va, 0, [], none⟩) := by
  simp only [exec_waity, execWaity, State.impreciseCheck_reports imprecise, error_bind, finish_trap]

section
variable (hb : s.g.bad = []) (precise : s.g.imprecise = none)
include hb precise

theorem exec_waity_refused {t : Trap} (h : s.ready pt = .error (.trap t)) : exec (.waity pt a b) s = .next (s.takeTrap t) := by
  simp only [exec_waity, execWaity, State.impreciseCheck_ok precise, ok_bind, sound_ok hb, h, error_bind, finish_trap]

variable (ready : s.ready pt = .ok ())
include ready

theorem exec_waity_misaligned (odd : (s.g.sReg b).toNat % 4 ≠ 0) :
    exec (.waity pt a b) s = .next (s.takeTrap ⟨.misaligned, s.g.sReg b, 0, [], none⟩) := by
  have refused : ((s.g.sReg b).toNat % 4 == 0) = false := by simpa using odd
  simp only [exec_waity, execWaity, State.impreciseCheck_ok precise, ok_bind, sound_ok hb, ready, refused, need_false, error_bind, trap,
    finish_trap]

variable (aligned : (s.g.sReg b).toNat % 4 = 0)
include aligned

theorem exec_waity_far (far : 2 ^ 55 ≤ (s.g.sReg b).toNat) :
    exec (.waity pt a b) s = .next (s.takeTrap ⟨.accessFault, s.g.sReg b, 0, [], none⟩) := by
  have quad : ((s.g.sReg b).toNat % 4 == 0) = true := by simpa using aligned
  simp only [exec_waity, execWaity, State.impreciseCheck_ok precise, ok_bind, sound_ok hb, ready, quad, need_true,
    decide_eq_false far.not_gt, need_false, error_bind, trap, finish_trap]

/-- WAITY at a continuation that it may take (R170). -/
theorem exec_waity_eq (near : (s.g.sReg b).toNat < 2 ^ 55) : exec (.waity pt a b) s =
    .next (if (s.team.point pt.toNat).phase = (s.g.sReg a).getLsbD 0 then s.blockOn (.waity pt.toNat ((s.g.sReg a).getLsbD 0) (s.g.sReg b))
      else (s.observe pt.toNat).jump (s.g.sReg b)) := by
  have quad : ((s.g.sReg b).toNat % 4 == 0) = true := by simpa using aligned
  simp only [exec_waity, execWaity, State.impreciseCheck_ok precise, ok_bind, sound_ok hb, ready, quad, near, decide_true, need_true]
  split <;> rfl

end

section
variable (settled : s.g.mmas = [])
include settled

theorem exec_waitp_imprecise {va : Word} (imprecise : s.g.imprecise = some va) :
    exec (.waitp pt a) s = .next (s.takeTrap ⟨.impreciseStore, va, 0, [], none⟩) := by
  simp only [exec_waitp, execWaitp, State.drainMmas_of_nil settled, State.mmasSettled_ok settled, ok_bind,
    State.impreciseCheck_reports imprecise, error_bind, finish_trap]

theorem exec_arwait_imprecise {va : Word} (imprecise : s.g.imprecise = some va) :
    exec (.arwait pt) s = .next (s.takeTrap ⟨.impreciseStore, va, 0, [], none⟩) := by
  simp only [exec_arwait, execArwait, State.drainMmas_of_nil settled, State.mmasSettled_ok settled, ok_bind,
    State.impreciseCheck_reports imprecise, error_bind, finish_trap]

variable (precise : s.g.imprecise = none)
include precise

/-- WAITP by its flag test and the checks of its point (R170). -/
theorem exec_waitp_eq (hb : s.g.bad = []) : exec (.waitp pt a) s = finish s (do
    s.g.flagTest
    s.ready pt
    if (s.team.point pt.toNat).phase = (s.g.sReg a).getLsbD 0 then .error (.block (.point pt.toNat ((s.g.sReg a).getLsbD 0)))
    else .ok (s.observe pt.toNat).retire) := by
  simp only [exec_waitp, execWaitp, State.drainMmas_of_nil settled, State.mmasSettled_ok settled, ok_bind,
    State.impreciseCheck_ok precise, sound_ok hb]

/-- ARWAIT likewise, with its arrival before the wait (R169). -/
theorem exec_arwait_eq : exec (.arwait pt) s = finish s (do
    s.g.flagTest
    s.ready pt
    let r ← s.releaseFirst .team
    let u := r.updPoint s.g.team pt.toNat 1 0
    if (u.team.point pt.toNat).phase = (s.team.point pt.toNat).phase then .ok (u.blockOn (.point pt.toNat (s.team.point pt.toNat).phase))
    else .ok (u.observe pt.toNat).retire) := by
  simp only [exec_arwait, execArwait, State.drainMmas_of_nil settled, State.mmasSettled_ok settled, ok_bind,
    State.impreciseCheck_ok precise]

/-- An armed flag that is set traps in WAITP and ARWAIT (R25). -/
theorem exec_waits_flag (hb : s.g.bad = []) (flag : s.g.armed ≠ 0) :
    exec (.waitp pt a) s = .next (s.takeTrap ⟨.flagTrap, 0, s.g.armed.zeroExtend 64, [], none⟩) ∧
    exec (.arwait pt) s = .next (s.takeTrap ⟨.flagTrap, 0, s.g.armed.zeroExtend 64, [], none⟩) := by
  rw [exec_waitp_eq settled precise hb, exec_arwait_eq settled precise, Group.flagTest_traps flag, error_bind, error_bind, finish_trap]
  exact ⟨rfl, rfl⟩

variable (quiet : s.g.armed = 0)
include quiet

theorem exec_waits_unready (hb : s.g.bad = []) {t : Trap} (h : s.ready pt = .error (.trap t)) :
    exec (.waitp pt a) s = .next (s.takeTrap t) ∧ exec (.arwait pt) s = .next (s.takeTrap t) := by
  rw [exec_waitp_eq settled precise hb, exec_arwait_eq settled precise, Group.flagTest_ok quiet, ok_bind, ok_bind, h, error_bind,
    error_bind, finish_trap]
  exact ⟨rfl, rfl⟩

variable (ready : s.ready pt = .ok ())
include ready

theorem exec_waitp_ready (hb : s.g.bad = []) : exec (.waitp pt a) s =
    .next (if (s.team.point pt.toNat).phase = (s.g.sReg a).getLsbD 0 then s.blockOn (.point pt.toNat ((s.g.sReg a).getLsbD 0))
      else (s.observe pt.toNat).retire) := by
  rw [exec_waitp_eq settled precise hb, Group.flagTest_ok quiet, ok_bind, ready, ok_bind]
  split <;> rfl

theorem exec_arwait_ready (performed : s.performedBy s.g.core .team = true) :
    let u := (s.release .team).updPoint s.g.team pt.toNat 1 0
    exec (.arwait pt) s = .next (if (u.team.point pt.toNat).phase = (s.team.point pt.toNat).phase
      then u.blockOn (.point pt.toNat (s.team.point pt.toNat).phase) else (u.observe pt.toNat).retire) := by
  rw [exec_arwait_eq settled precise, Group.flagTest_ok quiet, ok_bind, ready, ok_bind, State.releaseFirst_team performed, ok_bind]
  dsimp only
  split <;> rfl

theorem exec_arwait_held (waits : s.performedBy s.g.core .team = false) : exec (.arwait pt) s = .next s.stallHere := by
  rw [exec_arwait_eq settled precise, Group.flagTest_ok quiet, ok_bind, ready, ok_bind, State.releaseFirst_team_waits waits, error_bind,
    finish_wait]

end

end

/-! ### The obligation -/

theorem Point.evaluate_keeps (p : Point) (arrivals : Nat) (pending : Int) :
    let q := (p.evaluate arrivals pending).1
    q.expected = p.expected ∧ q.ext = p.ext ∧ q.erraddr = p.erraddr := by
  unfold Point.evaluate
  split_ifs <;> exact ⟨rfl, rfl, rfl⟩

/-- Settles O34: a point after an update, and each instruction by the first check that it does not pass, or its effect. -/
theorem rendezvousPoints : Obligations.RendezvousPoints := by
  unfold Obligations.RendezvousPoints
  refine ⟨fun p arrivals pending => ?_, fun s pt a b hb settled point => ?_, fun s pt a b hb settled => ?_⟩
  · obtain ⟨expected, ext, erraddr⟩ := p.evaluate_keeps arrivals pending
    refine ⟨expected, ext, erraddr, fun more => ?_, fun within neg => ?_, fun all nothing init => ?_, fun within nonneg stands => ?_⟩
    · rw [Point.evaluate_overflow more]; exact ⟨⟨rfl, rfl, rfl⟩, rfl, rfl, rfl⟩
    · rw [Point.evaluate_underflow within neg]; exact ⟨⟨rfl, rfl, rfl⟩, rfl, rfl, rfl⟩
    · rw [Point.evaluate_flip all.le all nothing init]; exact ⟨⟨rfl, rfl, rfl⟩, rfl, rfl, rfl⟩
    · rw [Point.evaluate_stands within nonneg stands]; exact ⟨rfl, rfl, Int.toNat_of_nonneg nonneg, rfl⟩
  · intro k p u x y traps
    refine ⟨fun least most flag => ⟨exec_rdvinit_ok hb point least most flag, exec_rdvinit_busy hb point least most flag⟩,
      exec_rdvinit_count hb point, exec_rdvinit_flag hb point, fun uninit => ?_, fun init => ?_, exec_rdvstat_ok point⟩
    · have unready := State.ready_uninit point uninit
      exact ⟨exec_arrive_refused unready, exec_expect_uninit hb point uninit, fun precise =>
        ⟨exec_waity_refused hb precise unready, fun quiet => exec_waits_unready settled precise quiet hb unready⟩⟩
    · have ready := State.ready_ok point init
      refine ⟨exec_arrive_ok ready, exec_arrive_held ready, exec_expect_ok hb point init, exec_expect_overflow hb point init,
        fun precise => ⟨exec_waity_misaligned hb precise ready, exec_waity_far hb precise ready, ?_, ?_, fun quiet => ⟨?_, ?_, ?_, ?_⟩,
          exec_waits_flag settled precise hb⟩⟩
      · intro other aligned near
        rw [exec_waity_eq hb precise ready aligned near, if_neg other]
      · intro same aligned near
        rw [exec_waity_eq hb precise ready aligned near, if_pos same]
      · intro other
        rw [exec_waitp_ready settled precise quiet ready hb, if_neg other]
      · intro same
        rw [exec_waitp_ready settled precise quiet ready hb, if_pos same]
      · intro performed
        have runs := exec_arwait_ready settled precise quiet ready performed
        exact ⟨fun other => runs.trans (by rw [if_neg other]), fun same => runs.trans (by rw [if_pos same])⟩
      · exact exec_arwait_held settled precise quiet ready
  · intro noFlag traps
    refine ⟨fun va imprecise =>
        ⟨exec_waitp_imprecise settled imprecise, exec_waity_imprecise imprecise, exec_arwait_imprecise settled imprecise⟩,
      fun beyond => ?_⟩
    have unready := State.ready_beyond beyond
    exact ⟨exec_rdvinit_beyond hb beyond, exec_arrive_refused unready, exec_expect_beyond hb beyond, exec_rdvstat_beyond beyond,
      fun precise => ⟨exec_waity_refused hb precise unready, fun quiet => exec_waits_unready settled precise quiet hb unready⟩⟩

end Sys2Proof.Machine
end

section
/-! Accumulators: what a write of some lanes leaves of them, and of the quarter that an instruction or a job writes (R22, R57, R65). -/
namespace Sys2Proof.Machine
open Sys2Proof.Safety
-- One proof at a time: proofs elaborated side by side each take a thread and its stack.
set_option Elab.async false

theorem Group.acc_setA (g : Group) {i : Nat} (hi : i < 64) (m : Word) (f : Nat → Acc) (k L : Nat) :
    (g.setA i m f).acc k L = if k = i ∧ m.getLsbD L = true then f L else g.acc k L := by
  unfold Group.acc Group.setA
  rcases eq_or_ne k i with rfl | other
  · rw [atD_put_same _ _ _ hi, at0_tab]
    by_cases hL : L < 64
    · rw [if_pos hL]; simp only [bit, true_and]; rfl
    · have off : m.getLsbD L = false := BitVec.getLsbD_of_ge _ _ (by omega)
      rw [if_neg hL, off, if_neg (by simp), at0, dif_neg hL]
  · rw [atD_put_ne _ _ _ other, if_neg fun h => other h.1]

/-- Writes of accumulators change no register of another file and no flag. -/
theorem Group.setA_eq (g : Group) (i : Nat) (m : Word) (f : Nat → Acc) :
    g.setA i m f = { g with a := (g.setA i m f).a, bad := (g.setA i m f).bad } := rfl

/-- The first k registers from a base on written in the lanes of a mask, one after the other. -/
def Group.setAs (g : Group) (base : Nat) (m : Word) (F : Group → Nat → Nat → Acc) (k : Nat) : Group :=
  (List.range k).foldl (fun (x : Group) n => x.setA (base + n) m (F x n)) g

section
variable (g : Group) (base : Nat) (m : Word) (F : Group → Nat → Nat → Acc)

theorem Group.setAs_succ (k : Nat) :
    g.setAs base m F (k + 1) = (g.setAs base m F k).setA (base + k) m (F (g.setAs base m F k) k) := by
  rw [Group.setAs, List.range_succ, List.foldl_append]; rfl

theorem Group.setAs_eq (k : Nat) : g.setAs base m F k = { g with a := (g.setAs base m F k).a, bad := (g.setAs base m F k).bad } := by
  induction k with
  | zero => rfl
  | succ k ih =>
    rw [Group.setAs_succ, Group.setA_eq]
    generalize (g.setAs base m F k).setA (base + k) m _ = x
    rw [ih]

/-- The lanes of the mask take the values given, and every other accumulator stands. -/
theorem Group.acc_setAs {f : Nat → Nat → Acc} {k : Nat} (same : ∀ x, ∀ n < k, ∀ L, m.getLsbD L = true → F x n L = f n L)
    (within : base + k ≤ 64) (i L : Nat) :
    (g.setAs base m F k).acc i L = if (base ≤ i ∧ i < base + k) ∧ m.getLsbD L = true then f (i - base) L else g.acc i L := by
  induction k with
  | zero => rw [if_neg (by omega)]; rfl
  | succ k ih =>
    rw [Group.setAs_succ, Group.acc_setA _ (by omega), ih (fun x n hn => same x n (by omega)) (by omega)]
    by_cases set : m.getLsbD L = true
    · rcases eq_or_ne i (base + k) with rfl | other
      · rw [if_pos ⟨rfl, set⟩, if_pos ⟨by omega, set⟩, Nat.add_sub_cancel_left, same _ k (by omega) L set]
      · rw [if_neg fun h => other h.1]
        simp only [set, and_true, show (base ≤ i ∧ i < base + (k + 1)) ↔ (base ≤ i ∧ i < base + k) by omega]
    · simp only [set, and_false, Bool.false_eq_true, if_false]

end

/-- What the writes of a quarter leave as a record of the MMAS on it is no register. -/
theorem Group.stain_eq (g : Group) (q : Nat) (m : Word) : g.stain q m = { g with unseen := (g.stain q m).unseen } := by
  unfold Group.stain; split <;> rfl

theorem Group.stain_acc (g : Group) (q : Nat) (m : Word) (i L : Nat) : (g.stain q m).acc i L = g.acc i L := by
  rw [Group.stain_eq]; rfl

/-- With no register in error the accumulators are read as they are (R197). -/
theorem Group.soundAccs_of_sound {g : Group} (hb : g.bad = []) (ctx : CtxId) (first count : Nat) (m : Word) :
    g.soundAccs ctx first count m = (g, []) := by
  simp [Group.soundAccs, hb]

end Sys2Proof.Machine
end

section
/-! The matrix instructions at issue: INK, INKZ, MMA, AZERO, CVTA and MMAS (R127, R134, R177 to R183). -/
namespace Sys2Proof.Machine
open Sys2Proof.Safety
-- One proof at a time: proofs elaborated side by side each take a thread and its stack.
set_option Elab.async false

/-! ### INK and INKZ -/

theorem State.tileOk_ok {s : State} {off n : Nat} (aligned : off % 64 = 0) (within : off + n ≤ s.scratchBytes) : s.tileOk off n = .ok () := by
  have whole : (off % 64 == 0) = true := by simpa using aligned
  rw [State.tileOk, whole, need_true, ok_bind, decide_eq_true within, need_true]

theorem State.macroOk_ok {s : State} {mg : Nat} (h : mg < s.team.macros.length) : s.macroOk mg = .ok () := by
  rw [State.macroOk, decide_eq_true h, need_true]

section
variable {s : State} {pt : BitVec 5} {a b : SReg} (hb : s.g.bad = []) (point : pt.toNat < s.grid.launch.points)
include hb point

/-- INK of a tile that passes its checks (R179). -/
theorem exec_ink_ok (fields : (s.g.sReg b).toNat < 512) (owned : (s.g.sReg b).toNat % 64 < s.team.macros.length) {slot : Word32}
    (hs : s.slotWord (BitVec.ofNat 3 ((s.g.sReg b).toNat / 64)) = slot) (allowed : bAllowed (slotCode slot) (slotWide slot) = true)
    (block : slotBlock slot = 32) (aligned : (s.g.sReg a).toNat % 64 = 0) (within : (s.g.sReg a).toNat + inkBytes slot ≤ s.scratchBytes) :
    exec (.ink pt a b) s = .next (((s.drainMacro s.g.team ((s.g.sReg b).toNat % 64)).modMacro s.g.team ((s.g.sReg b).toNat % 64) fun y =>
      { y with fmt := some (BitVec.ofNat 8 (slotCode slot), slotWide slot) }).beginOp pt.toNat (inkBytes slot)
        (.ink (s.g.sReg a).toNat ((s.g.sReg b).toNat % 64) slot false)).retire := by
  have high : ((s.g.sReg b).toNat / 512 == 0) = true := by simpa using Nat.div_eq_of_lt fields
  have fits : s.bSlotOk (BitVec.ofNat 3 ((s.g.sReg b).toNat / 64)) = .ok () := by
    simp only [State.bSlotOk, hs, allowed, block, BEq.rfl, Bool.and_self, need_true]
  simp only [exec_ink, execInk, sound_ok hb, ok_bind, high, need_true, State.declared_ok point, State.macroOk_ok owned, fits, hs,
    State.tileOk_ok aligned within, finish_ok]

end

/-- What INKZ makes of an operation: a load of the same cells will leave each cleared or loaded (R180). -/
def EngineOp.cleared (team mg : Nat) (o : EngineOp) : EngineOp :=
  match o.kind with
  | .ink off m w _ => if o.team = team && m = mg then { o with kind := .ink off m w true } else o
  | _ => o

theorem EngineOp.cleared_other {team mg : Nat} {o : EngineOp} (h : o.team ≠ team ∨ ∀ off w z, o.kind ≠ .ink off mg w z) :
    o.cleared team mg = o := by
  unfold EngineOp.cleared
  split
  next off m w z kind =>
    refine if_neg fun same => ?_
    obtain ⟨team', rfl⟩ : o.team = team ∧ m = mg := by simpa using same
    exact h.elim (fun other => other team') fun none => none off w z kind
  next => rfl

/-- INKZ once no MMA or MMAS reads what it clears (R180). -/
theorem exec_inkz_ok {s : State} {mg : BitVec 6} (owned : mg.toNat < s.team.macros.length)
    (noMmas : s.mmasBefore s.g.team mg.toNat s.fresh = false)
    (noMma : (s.drainMacro s.g.team mg.toNat).mmaBefore s.g.team mg.toNat s.fresh = false) :
    exec (.inkz mg) s = .next (({ (s.drainMacro s.g.team mg.toNat).modMacro s.g.team mg.toNat (fun _ => Macro.reset) with
      ops := (s.drainMacro s.g.team mg.toNat).ops.map (EngineOp.cleared s.g.team mg.toNat) } : State).retire) := by
  simp only [exec_inkz, execInkz, State.macroOk_ok owned, ok_bind, noMmas, Bool.not_false, need_true, noMma, Bool.false_eq_true, if_false]
  rfl

/-! ### MMA, AZERO and CVTA -/

/-- The sixteen results of a lane where no MMAS on the quarter is unseen (R51, R127). -/
theorem Group.cvtaLane_eq {g : Group} {q : BitVec 2} (seen : g.unseenQ q.toNat = false) (tick L : Nat) : g.cvtaLane q.toNat tick L =
    joinElems (elemWidth g.ety) (fun n => (elemOf g.ety).encode g.round g.ftz (a96Value (g.acc (16 * q.toNat + n) L))) 16 := by
  simp only [Group.cvtaLane, seen, Bool.false_eq_true, if_false]

section
variable {s : State} {G : Guard} {q : BitVec 2}

section
variable {a : VReg} {mg : BitVec 6} {fa fb : BitVec 3}
  (ready : OperandsReady s [s.g.vSpanE a 17 false 0, quarterOp q] [s.g.vSpanE a 17 false 0, quarterOp q] anyType [] [s.g.guardIdx G])
  (hm : s.macroOk mg.toNat = .ok ()) (ha : s.aSlotOk fa = .ok ()) (hb : s.bSlotOk fb = .ok ()) (hf : s.bSlotFits mg.toNat fb = .ok ())
include ready hm ha hb hf

theorem exec_mma_idle (idle : s.g.active G = 0) : exec (.mma G q a mg fa fb) s = .next s.retire := by
  simp only [exec_mma, execMma, operands_ok ready, ok_bind, hm, ha, hb, hf, if_pos idle, finish_ok]

/-- MMA takes its operands at issue (R181). -/
theorem exec_mma_ok (some' : s.g.active G ≠ 0) : exec (.mma G q a mg fa fb) s =
    .next (({ s with g := { s.g with mmas := s.g.mmas ++ [⟨s.fresh, q, mg.toNat, s.slotWord fa, s.slotWord fb, s.g.active G,
      (List.range 17).map fun i => s.g.vReg (a.toNat + i), s.g.aErrors a⟩] }, fresh := s.fresh + 1 } : State).retire) := by
  simp only [exec_mma, execMma, operands_ok ready, ok_bind, hm, ha, hb, hf, if_neg some', finish_ok]

end

variable (settled : s.g.mmas = [])
include settled

/-- AZERO clears the Active lanes of its quarter (R183). -/
theorem exec_azero_ok (ready : OperandsReady s [quarterOp q] [quarterOp q] anyType [] [s.g.guardIdx G]) : exec (.azero G q) s =
    .next (s.retireWith ((s.g.setAs (16 * q.toNat) (s.g.active G) (fun _ _ _ => 0) 16).stain q.toNat (s.g.active G))) := by
  simp only [exec_azero, execAzero, State.drainMmas_of_nil settled, operands_ok ready, ok_bind, State.mmasSettled_ok settled, finish_ok]
  rfl

variable {d : VReg}

/-- CVTA writes the converted accumulators to its span, with the flags (R127). -/
theorem exec_cvta_ok (sound : s.g.bad = [])
    (ready : OperandsReady s [s.g.vSpanE d s.g.cvtaSpan false 0, quarterOp q] [s.g.vSpanE d s.g.cvtaSpan false 0, quarterOp q] cvtaType []
      [s.g.guardIdx G]) :
    let m := s.g.active G
    let rs := tab 64 fun L => if bit m L then s.g.cvtaLane q.toNat s.tick L else (0, 0)
    exec (.cvta G q d) s = .next (({ s with tick := s.tick + 1 } : State).retireWith
      ((s.g.setSpan d.toNat m (fun L => (atD rs L (0, 0)).1) s.g.cvtaSpan).orFlags (laneFlags m fun L => (atD rs L (0, 0)).2))) := by
  simp only [exec_cvta, execCvta, State.drainMmas_of_nil settled, operands_ok ready, ok_bind, State.mmasSettled_ok settled,
    Group.soundAccs_of_sound sound, finish_ok]
  rfl

end

/-! ### MMAS -/

/-- The budget of a group that holds the quarter (R19). -/
theorem Group.budgetCheck_quarter {g : Group} {q : BitVec 2} (h : 16 * q.toNat + 16 ≤ g.aBud) : g.budgetCheck [quarterOp q] = .ok () := by
  have vectors : lowestOver false g.vBud [quarterOp q] = none := lowestOver_eq_none fun o ho acc => by
    obtain rfl := List.mem_singleton.1 ho; cases acc
  have accs : lowestOver true g.aBud [quarterOp q] = none := lowestOver_eq_none fun o ho _ => by
    obtain rfl := List.mem_singleton.1 ho; exact h
  rw [Group.budgetCheck, vectors, accs]

section
variable {s : State} {pt : BitVec 5} {a b : SReg} (hb : s.g.bad = []) (settled : s.g.mmas = [])
include hb settled

theorem exec_mmas_role (role : s.g.role ≠ .matrix) :
    exec (.mmas pt a b) s = .next (s.takeTrap ⟨.notLeader, BitVec.ofNat 64 s.g.role.code, 0, [], none⟩) := by
  have refused : (s.g.role == .matrix) = false := beq_false_of_ne role
  simp only [exec_mmas, execMmas, State.drainMmas_of_nil settled, sound_ok hb, ok_bind, refused, need_false, error_bind, trapN, trap,
    finish_trap]

/-- MMAS of a tile that passes its checks (R134, R182). -/
theorem exec_mmas_ok (point : pt.toNat < s.grid.launch.points) (role : s.g.role = .matrix) (fields : (s.g.sReg b).toNat < 2 ^ 14)
    {q : BitVec 2} (hq : BitVec.ofNat 2 (s.g.sReg b).toNat = q) {mg : Nat} (hmg : (s.g.sReg b).toNat / 4 % 64 = mg) {fa fb : BitVec 3}
    (hfa : BitVec.ofNat 3 ((s.g.sReg b).toNat / 256) = fa) (hfb : BitVec.ofNat 3 ((s.g.sReg b).toNat / 2048) = fb)
    (owned : s.macroOk mg = .ok ()) (okA : s.aSlotOk fa = .ok ()) (okB : s.bSlotOk fb = .ok ()) (fits : s.bSlotFits mg fb = .ok ())
    (aligned : (s.g.sReg a).toNat % 64 = 0) (within : (s.g.sReg a).toNat + mmasBytes (s.slotWord fa) ≤ s.scratchBytes)
    (budget : 16 * q.toNat + 16 ≤ s.g.aBud) :
    exec (.mmas pt a b) s = .next (({ s with g := { s.g with unseen := s.g.unseen ++
      [⟨q.toNat, pt.toNat, s.fresh, [⟨0, s.g.quarter q.toNat, s.g.badIn q.toNat⟩], false⟩] } } : State).beginOp pt.toNat
      (mmasBytes (s.slotWord fa)) (.mmas (s.g.sReg a).toNat q mg (s.slotWord fa) (s.slotWord fb)
        (s.oldTile (s.g.sReg a).toNat (mmasBytes (s.slotWord fa))))).retire := by
  have high : ((s.g.sReg b).toNat / 2 ^ 14 == 0) = true := by simpa using Nat.div_eq_of_lt fields
  have matrix : (s.g.role == .matrix) = true := beq_iff_eq.2 role
  have named : field (s.g.sReg b).toNat 2 6 = mg := hmg
  simp only [exec_mmas, execMmas, State.drainMmas_of_nil settled, sound_ok hb, ok_bind, matrix, need_true, high, State.declared_ok point,
    hq, named, hfa, hfb, owned, okA, okB, fits, State.tileOk_ok aligned within, Group.budgetCheck_quarter budget,
    State.mmasSettled_ok settled, finish_ok]

end

/-- Settles O37: each instruction by what it does once its checks pass. -/
theorem engineIssue : Obligations.EngineIssue := by
  unfold Obligations.EngineIssue
  refine ⟨fun s pt a b hb settled point => ⟨?_, exec_mmas_role hb settled, ?_⟩, fun s G q a d mg fa fb => ⟨?_, ?_, ?_, ?_⟩⟩
  · intro fields owned slot allowed block aligned within
    exact exec_ink_ok hb point fields owned rfl allowed block aligned within
  · intro role fields q m slot slotB owned okA okB fits aligned within budget marked
    refine ⟨exec_mmas_ok hb settled point role fields rfl rfl rfl rfl owned okA okB fits aligned within budget, ?_⟩
    simp [Group.unseenQ, marked]
  · intro ready hm ha hb hf
    refine ⟨exec_mma_idle ready hm ha hb hf, fun some' => ⟨_, rfl, rfl, rfl, rfl, rfl, fun i hi => ?_, exec_mma_ok ready hm ha hb hf some'⟩⟩
    simp [List.getD_eq_getElem?_getD, hi]
  · intro settled ready
    refine ⟨_, exec_azero_ok settled ready, fun i L => ?_, ?_⟩
    · rw [Group.stain_acc, Group.acc_setAs (f := fun _ _ => 0) _ _ _ _ (fun _ _ _ _ _ => rfl) (by have := q.isLt; omega)]
      simp only [and_assoc]
    · rw [Group.stain_eq, Group.setAs_eq]
  · intro settled sound seen ready lane
    have lanes : s.g.cvtaLane q.toNat s.tick = lane := funext fun L => Group.cvtaLane_eq seen s.tick L
    obtain ⟨written, kept, flags⟩ := s.g.span_written d (s.g.active G) lane s.g.cvtaSpan
    refine ⟨_, exec_cvta_ok settled sound ready, ?_⟩
    rw [lanes]
    refine ⟨fun L hL set r hr => written L hL set r hr ?_, kept, flags⟩
    have span := (ready.1 (s.g.vSpanE d s.g.cvtaSpan false 0) (List.mem_cons_self ..)).1
    have room : d.toNat + s.g.cvtaSpan ≤ 128 := by
      refine le_trans (Nat.add_le_add_left ?_ _) span
      show _ ≤ if s.g.wide then Nat.max 2 s.g.cvtaSpan else s.g.cvtaSpan
      split
      · exact Nat.le_max_right ..
      · exact le_rfl
    omega
  · intro owned noMmas u noMma
    exact ⟨_, fun o => EngineOp.cleared_other, exec_inkz_ok owned noMmas noMma⟩

end Sys2Proof.Machine
end

section
/-! The schedule selector: what a selection flip measures, and how it chooses among the tables (R188). -/
namespace Sys2Proof.Machine
-- One proof at a time: proofs elaborated side by side each take a thread and its stack.
set_option Elab.async false

/-- A prediction is a fraction with a positive denominator. -/
theorem predictTable_pos {cols : List (ColId × Nat × Nat)} {t : BitVec 128} {m : Nat × Nat} (h : predictTable cols t = some m) : 0 < m.2 := by
  unfold predictTable at h
  dsimp only at h
  split at h
  · cases h
  next tilesPositive =>
    refine List.foldlRecOn (motive := fun o : Option (Nat × Nat) => ∀ m, o = some m → 0 < m.2) _ _ (fun m hm => ?_)
      (fun o ih c _ m hm => ?_) m h
    · cases hm; exact Nat.one_pos
    · obtain ⟨best, known, found⟩ := Option.bind_eq_some_iff.1 hm
      split at found
      next c' tau tiles _ =>
        split at found
        · cases found
        next some' =>
          cases found
          split
          · exact ih best known
          · exact Nat.mul_pos (Nat.pos_of_ne_zero tilesPositive) (Nat.pos_of_ne_zero some')
      next => cases found

section
variable {cols : List (ColId × Nat × Nat)}

theorem chooseTable_eq_none {i : Nat} {l : List (BitVec 128)} : chooseTable cols i l = none ↔ ∀ t ∈ l, predictTable cols t = none := by
  induction l generalizing i with
  | nil => simp [chooseTable]
  | cons t r ih =>
    rw [List.forall_mem_cons, ← ih (i := i + 1), chooseTable]
    cases predictTable cols t <;> cases chooseTable cols (i + 1) r <;> simp
    split <;> simp

/-- The table with the least prediction, the first among equals (R188 step 4). -/
theorem chooseTable_least {i k : Nat} {l : List (BitVec 128)} {m : Nat × Nat} (h : chooseTable cols i l = some (k, m)) :
    ∃ j t, k = i + j ∧ l[j]? = some t ∧ predictTable cols t = some m ∧
      ∀ j' u n, l[j']? = some u → predictTable cols u = some n → m.1 * n.2 ≤ n.1 * m.2 ∧ (j' < j → m.1 * n.2 < n.1 * m.2) := by
  induction l generalizing i k m with
  | nil => cases h
  | cons t r ih =>
    rw [chooseTable] at h
    cases ht : predictTable cols t with
    | none =>
      rw [ht] at h
      obtain ⟨j, u, rfl, hu, predicted, least⟩ := ih h
      refine ⟨j + 1, u, by omega, hu, predicted, fun j' v n hv hn => ?_⟩
      cases j' with
      | zero => cases hv; rw [ht] at hn; cases hn
      | succ j' => exact ⟨(least j' v n hv hn).1, fun before => (least j' v n hv hn).2 (by omega)⟩
    | some p =>
      cases hr : chooseTable cols (i + 1) r with
      | none =>
        rw [ht, hr] at h
        cases h
        refine ⟨0, t, rfl, rfl, ht, fun j' v n hv hn => ⟨?_, fun before => by omega⟩⟩
        cases j' with
        | zero => cases hv; rw [ht] at hn; cases hn; exact le_rfl
        | succ j' => rw [chooseTable_eq_none.1 hr v (List.mem_of_getElem? hv)] at hn; cases hn
      | some x =>
        obtain ⟨k', n'⟩ := x
        obtain ⟨j, u, rfl, hu, predicted, least⟩ := ih hr
        rw [ht, hr] at h
        dsimp only at h
        split at h
        next le =>
          cases h
          have first : m.1 * n'.2 ≤ n'.1 * m.2 := by simpa [fracLe] using le
          refine ⟨0, t, rfl, rfl, ht, fun j' v n hv hn => ⟨?_, fun before => by omega⟩⟩
          cases j' with
          | zero => cases hv; rw [ht] at hn; cases hn; exact le_rfl
          | succ j' =>
            have second := (least j' v n hv hn).1
            have positive := predictTable_pos predicted
            refine Nat.le_of_mul_le_mul_right ?_ positive
            calc m.1 * n.2 * n'.2 = m.1 * n'.2 * n.2 := by ring
              _ ≤ n'.1 * m.2 * n.2 := Nat.mul_le_mul_right _ first
              _ = n'.1 * n.2 * m.2 := by ring
              _ ≤ n.1 * n'.2 * m.2 := Nat.mul_le_mul_right _ second
              _ = n.1 * m.2 * n'.2 := by ring
        next gt =>
          cases h
          have strict : m.1 * p.2 < p.1 * m.2 := by simpa [fracLe] using gt
          refine ⟨j + 1, u, by omega, hu, predicted, fun j' v n hv hn => ?_⟩
          cases j' with
          | zero => cases hv; rw [ht] at hn; cases hn; exact ⟨strict.le, fun _ => strict⟩
          | succ j' => exact ⟨(least j' v n hv hn).1, fun before => (least j' v n hv hn).2 (by omega)⟩

end

section
variable (x : Selector) (sched : List (BitVec 128)) (arrived : List Arrival)

/-- When a selection flip chooses anew (R188): at the first of the grid, where a column that the table weighs was throttled, and where the
longest column time passes the predicted phase time by more than an eighth, or nothing was predicted. -/
def Selector.choosesAnew : Prop :=
  let cols := columnTimes x.base arrived
  let longest := (cols.map (·.2.1)).foldl Nat.max 0
  let total := (arrived.map (·.tiles)).sum
  x.first = true ∨ (∃ c ∈ x.throttled, tableWeight (sched.getD x.table 0) c ≠ 0) ∨ x.predicted = none ∨
    ∃ p, x.predicted = some p ∧ 9 * p.1 * total < longest * 8 * p.2

variable {x sched arrived} (now : Nat)

/-- Choosing anew takes the first of the tables with the least prediction, or table 0 where none has one (R188 step 4). -/
theorem Selector.flip_anew (h : x.choosesAnew sched arrived) :
    (x.flip sched arrived now).table = ((chooseTable (columnTimes x.base arrived) 0 sched).map (·.1)).getD 0 ∧
    (x.flip sched arrived now).predicted = (chooseTable (columnTimes x.base arrived) 0 sched).map (·.2) := by
  unfold Selector.flip
  dsimp only
  rw [if_pos]
  · cases chooseTable (columnTimes x.base arrived) 0 sched <;> exact ⟨rfl, rfl⟩
  · rw [Bool.or_eq_true, Bool.or_eq_true]
    rcases h with first | ⟨c, hc, weight⟩ | none' | ⟨p, hp, late⟩
    · exact .inl (.inl first)
    · exact .inl (.inr (List.any_eq_true.2 ⟨c, hc, bne_iff_ne.2 weight⟩))
    · rw [none']; exact .inr rfl
    · rw [hp]; exact .inr (decide_eq_true (by rwa [List.sum_eq_foldl] at late))

theorem Selector.flip_stands (h : ¬x.choosesAnew sched arrived) :
    (x.flip sched arrived now).table = x.table ∧ (x.flip sched arrived now).predicted = x.predicted := by
  simp only [Selector.choosesAnew, not_or, not_exists, not_and, Bool.not_eq_true, List.sum_eq_foldl] at h
  obtain ⟨first, cool, known, inTime⟩ := h
  obtain ⟨p, hp⟩ := Option.ne_none_iff_exists'.1 known
  have notHot : (x.throttled.any fun c => tableWeight (sched.getD x.table 0) c != 0) = false :=
    List.any_eq_false.2 fun c hc => by simpa using cool c hc
  unfold Selector.flip
  dsimp only
  rw [if_neg]
  · exact ⟨rfl, rfl⟩
  · rw [first, notHot, hp]
    exact fun late => inTime p hp (of_decide_eq_true late)

theorem Selector.flip_begins :
    (x.flip sched arrived now).first = false ∧ (x.flip sched arrived now).base = now ∧ (x.flip sched arrived now).throttled = [] :=
  ⟨rfl, rfl, rfl⟩

end

end Sys2Proof.Machine
end

section
/-! Grid points: GARRIVE, GWAIT and PHASE, and what an arrival does (R172, R188). -/
namespace Sys2Proof.Machine
open Sys2Proof.Safety
-- One proof at a time: proofs elaborated side by side each take a thread and its stack.
set_option Elab.async false

section
variable {s : State} {pt : BitVec 5} {a b : SReg}

/-! ### Checks -/

theorem State.hasGrid_ok : s.hasGrid pt = .ok () ↔ s.grid.launch.flags.getLsbD 0 = true ∧ s.team.spawned = false := by
  rw [State.hasGrid, Launch.cohort]
  cases s.grid.launch.flags.getLsbD 0 <;> cases s.team.spawned <;> simp

theorem State.hasGrid_absent (h : ¬(s.grid.launch.flags.getLsbD 0 = true ∧ s.team.spawned = false)) :
    s.hasGrid pt = .error (.trap ⟨.gridRdvAbsent, pt.zeroExtend 64, 0, [], none⟩) := by
  have refused : (s.grid.launch.cohort && !s.team.spawned) = false := by
    rw [Bool.and_eq_false_iff, Launch.cohort, Bool.not_eq_false']
    exact (not_and_or.1 h).imp Bool.eq_false_iff.2 eq_true_of_ne_false
  rw [State.hasGrid, refused, need_false, trapN_toNat]

theorem State.leader_ok (h : s.g.index = 0) : s.leader = .ok () := by rw [State.leader, h]; rfl

theorem State.leader_refused (h : s.g.index ≠ 0) : s.leader = .error (.trap ⟨.notLeader, BitVec.ofNat 64 s.g.index, 0, [], none⟩) := by
  rw [State.leader, beq_false_of_ne h]; rfl

theorem State.gvDone_iff (s : State) (k : Nat) :
    s.gvDone k = true ↔ (s.grid.gvs.getD k ⟨0, 0, []⟩).done = s.team.gvA.getD k 0 := beq_iff_eq

/-! ### The instructions -/

/-- A store that has failed before is reported first (R196). -/
theorem exec_gridPoints_imprecise (settled : s.g.mmas = []) {va : Word} (imprecise : s.g.imprecise = some va) :
    let reports := fun (i : Instr) => exec i s = .next (s.takeTrap ⟨.impreciseStore, va, 0, [], none⟩)
    reports (.garrive pt) ∧ reports (.phase pt a b) ∧ reports (.gwait pt) := by
  refine ⟨?_, ?_, ?_⟩
  · simp only [exec_garrive, execGarrive, State.impreciseCheck_reports imprecise, error_bind, finish_trap]
  · simp only [exec_phase, execPhase, State.impreciseCheck_reports imprecise, error_bind, finish_trap]
  · simp only [exec_gwait, execGwait, State.drainMmas_of_nil settled, State.mmasSettled_ok settled, ok_bind,
      State.impreciseCheck_reports imprecise, error_bind, finish_trap]

variable (precise : s.g.imprecise = none)
include precise

section
variable (settled : s.g.mmas = []) (quiet : s.g.armed = 0)
include settled quiet

theorem exec_gwait_refused {t : Trap} (h : s.hasGrid pt = .error (.trap t)) : exec (.gwait pt) s = .next (s.takeTrap t) := by
  simp only [exec_gwait, execGwait, State.drainMmas_of_nil settled, State.mmasSettled_ok settled, ok_bind, State.impreciseCheck_ok precise,
    Group.flagTest_ok quiet, h, error_bind, finish_trap]

theorem exec_gwait_ok (grid : s.hasGrid pt = .ok ()) : exec (.gwait pt) s =
    .next (if s.gvDone (gvOf pt) then (s.acquire .dev).retire else s.blockOn (.gridPoint (gvOf pt) .wait 0)) := by
  simp only [exec_gwait, execGwait, State.drainMmas_of_nil settled, State.mmasSettled_ok settled, ok_bind, State.impreciseCheck_ok precise,
    Group.flagTest_ok quiet, grid]
  split <;> rfl

end

theorem exec_garrive_absent {t : Trap} (h : s.hasGrid pt = .error (.trap t)) : exec (.garrive pt) s = .next (s.takeTrap t) := by
  simp only [exec_garrive, execGarrive, State.impreciseCheck_ok precise, ok_bind, h, error_bind, finish_trap]

theorem exec_phase_absent (hb : s.g.bad = []) {t : Trap} (h : s.hasGrid pt = .error (.trap t)) :
    exec (.phase pt a b) s = .next (s.takeTrap t) := by
  simp only [exec_phase, execPhase, State.impreciseCheck_ok precise, ok_bind, sound_ok hb, h, error_bind, finish_trap]

variable (grid : s.hasGrid pt = .ok ())
include grid

theorem exec_garrive_follower {t : Trap} (h : s.leader = .error (.trap t)) : exec (.garrive pt) s = .next (s.takeTrap t) := by
  simp only [exec_garrive, execGarrive, State.impreciseCheck_ok precise, ok_bind, grid, h, error_bind, finish_trap]

theorem exec_phase_follower (hb : s.g.bad = []) {t : Trap} (h : s.leader = .error (.trap t)) :
    exec (.phase pt a b) s = .next (s.takeTrap t) := by
  simp only [exec_phase, execPhase, State.impreciseCheck_ok precise, ok_bind, sound_ok hb, grid, h, error_bind, finish_trap]

variable (leads : s.g.index = 0)
include leads

theorem exec_garrive_ok (ready : ReleaseReady s .dev) : exec (.garrive pt) s =
    .next (if (s.release .dev).gvDone (gvOf pt) then (s.release .dev).garrive (gvOf pt)
      else (s.release .dev).blockOn (.gridPoint (gvOf pt) .arrive 0)) := by
  simp only [exec_garrive, execGarrive, State.impreciseCheck_ok precise, ok_bind, grid, State.leader_ok leads, releaseFirst_ok ready]
  split <;> rfl

variable (hb : s.g.bad = [])
include hb

theorem exec_phase_tiles (many : 2 ^ 32 ≤ (s.g.sReg a).toNat) :
    exec (.phase pt a b) s = .next (s.takeTrap ⟨.illegalOperand, a.zeroExtend 64, 0, [], none⟩) := by
  simp only [exec_phase, execPhase, State.impreciseCheck_ok precise, ok_bind, sound_ok hb, grid, State.leader_ok leads,
    decide_eq_false many.not_gt, need_false, error_bind, trapN_toNat, finish_trap]

theorem exec_phase_ok (ready : ReleaseReady s .dev) (few : (s.g.sReg a).toNat < 2 ^ 32) : exec (.phase pt a b) s =
    .next (if (s.release .dev).gvDone (gvOf pt)
      then ((s.release .dev).gridArrive (gvOf pt) (s.g.sReg a).toNat true).phaseEnd (gvOf pt) b
      else (s.release .dev).blockOn (.gridPoint (gvOf pt) (.phaseArrive (s.g.sReg a).toNat) b)) := by
  simp only [exec_phase, execPhase, State.impreciseCheck_ok precise, ok_bind, sound_ok hb, grid, State.leader_ok leads, few, decide_true,
    need_true, releaseFirst_ok ready]
  split <;> rfl

end

/-! ### An arrival -/

/-- An entry of a list that is filled up to n entries, one of which is replaced. -/
theorem getD_set_filled {α : Type} (l : List α) (d x : α) {n k : Nat} (hk : k < n) (j : Nat) :
    ((l ++ List.replicate (n - l.length) d).set k x).getD j d = if j = k then x else l.getD j d := by
  have long : k < (l ++ List.replicate (n - l.length) d).length := by simp; omega
  rcases eq_or_ne j k with rfl | other
  · simp [List.getD_eq_getElem?_getD, List.getElem?_set_self long]
  · rw [List.getD_eq_getElem?_getD, List.getElem?_set_ne other.symm, if_neg other, List.getD_eq_getElem?_getD, List.getElem?_append]
    split
    · rfl
    next beyond => simp [List.getElem?_eq_none (Nat.le_of_not_lt beyond), List.getElem?_replicate]; split <;> rfl

/-- A grid after an arrival of one of its teams at a point, and the last arrival of a phase (R172, R188). -/
def Grid.arrival (x : Grid) (k : Nat) (me : Arrival) : Grid :=
  let v := x.gvs.getD k ⟨0, 0, []⟩
  let arrived := v.arrived ++ [me]
  let gvs := x.gvs ++ List.replicate (4 - x.gvs.length) ⟨0, 0, []⟩
  if v.count + 1 = x.launch.teams then
    { x with
      gvs := gvs.set k ⟨0, (v.done + 1) % 2 ^ 32, []⟩
      selector := if arrived.any (·.byPhase) then x.selector.flip x.launch.sched arrived me.time else x.selector }
  else { x with gvs := gvs.set k { v with count := v.count + 1, arrived := arrived } }

theorem Grid.arrival_id (x : Grid) (k : Nat) (me : Arrival) : (x.arrival k me).id = x.id := by
  unfold Grid.arrival; dsimp only; split <;> rfl

section
variable {x : Grid} {k : Nat} (hk : k < 4) (me : Arrival)
include hk

/-- The other points of the grid stand. -/
theorem Grid.arrival_other {j : Nat} (other : j ≠ k) : (x.arrival k me).gvs.getD j ⟨0, 0, []⟩ = x.gvs.getD j ⟨0, 0, []⟩ := by
  unfold Grid.arrival
  dsimp only
  split <;> exact (getD_set_filled _ _ _ hk j).trans (if_neg other)

/-- An arrival that is not the last (R172). -/
theorem Grid.arrival_more (more : (x.gvs.getD k ⟨0, 0, []⟩).count + 1 ≠ x.launch.teams) :
    (x.arrival k me).selector = x.selector ∧ (x.arrival k me).gvs.getD k ⟨0, 0, []⟩ = { x.gvs.getD k ⟨0, 0, []⟩ with
      count := (x.gvs.getD k ⟨0, 0, []⟩).count + 1, arrived := (x.gvs.getD k ⟨0, 0, []⟩).arrived ++ [me] } := by
  unfold Grid.arrival
  dsimp only
  rw [if_neg more]
  exact ⟨rfl, (getD_set_filled _ _ _ hk k).trans (if_pos rfl)⟩

/-- The last arrival completes the phase and begins the next; a selection flip where one came by PHASE (R172, R188). -/
theorem Grid.arrival_last (last : (x.gvs.getD k ⟨0, 0, []⟩).count + 1 = x.launch.teams) :
    let arrived := (x.gvs.getD k ⟨0, 0, []⟩).arrived ++ [me]
    (x.arrival k me).selector = (if arrived.any (·.byPhase) then x.selector.flip x.launch.sched arrived me.time else x.selector) ∧
      (x.arrival k me).gvs.getD k ⟨0, 0, []⟩ = ⟨0, ((x.gvs.getD k ⟨0, 0, []⟩).done + 1) % 2 ^ 32, []⟩ := by
  unfold Grid.arrival
  dsimp only
  rw [if_pos last]
  exact ⟨rfl, (getD_set_filled _ _ _ hk k).trans (if_pos rfl)⟩

end

/-- An arrival counts at its team and at the point of its grid (R172). -/
theorem State.gridArrive_eq (s : State) (k n : Nat) (byPhase : Bool) : s.gridArrive k n byPhase =
    (s.modTeam s.g.team fun t => { t with gvA := (padded t.gvA 4).set k ((t.gvA.getD k 0 + 1) % 2 ^ 32) }).modGrid s.team.grid
      fun x => x.arrival k ⟨s.g.team, s.colId, n, s.ptp.toNat, byPhase⟩ := rfl

/-! ### The obligation -/

/-- Settles O35: the instructions by the check that stops them or the state of the point, an arrival by whether it is the last, and a
selection flip by whether it chooses anew. -/
theorem gridPoints : Obligations.GridPoints := by
  unfold Obligations.GridPoints
  refine ⟨fun s pt a b hb settled precise => ?_, fun s k n byPhase tm x hk ht hx => ?_, fun x sched arrived now => ?_⟩
  · intro k t x noFlag traps
    refine ⟨State.hasGrid_ok, s.gvDone_iff k, ?_, fun absent => ?_,
      fun grid => ⟨fun follower => ?_, ?_, fun quiet => ?_, fun leads ready => ?_⟩⟩
    · rintro va u rfl
      exact exec_gridPoints_imprecise (s := { s with g := { s.g with imprecise := some va } }) settled rfl
    · have refused := State.hasGrid_absent (pt := pt) absent
      exact ⟨exec_garrive_absent precise refused, exec_phase_absent precise hb refused,
        fun quiet => exec_gwait_refused precise settled quiet refused⟩
    · have refused := State.leader_refused follower
      exact ⟨exec_garrive_follower precise grid refused, exec_phase_follower precise grid hb refused⟩
    · exact fun leads => exec_phase_tiles precise grid leads hb
    · have runs := exec_gwait_ok precise settled quiet grid
      exact ⟨fun done => runs.trans (by rw [if_pos done]), fun waits => runs.trans (by rw [if_neg (Bool.eq_false_iff.1 waits)])⟩
    · have arrives := exec_garrive_ok precise grid leads ready
      refine ⟨fun done => arrives.trans (by rw [if_pos done]; rfl), fun waits => arrives.trans (by rw [if_neg (Bool.eq_false_iff.1 waits)]),
        fun few done => ?_, fun few waits => ?_⟩
      · have runs := exec_phase_ok (b := b) precise grid leads hb ready few
        rw [if_pos done] at runs
        exact ⟨fun complete => runs.trans (by rw [State.phaseEnd, if_pos complete]),
          fun waits => runs.trans (by rw [State.phaseEnd, if_neg (Bool.eq_false_iff.1 waits)])⟩
      · exact (exec_phase_ok precise grid leads hb ready few).trans (by rw [if_neg (Bool.eq_false_iff.1 waits)])
  · rw [State.gridArrive_eq, State.team_of_teamOf ht]
    generalize hme : (⟨s.g.team, s.colId, n, s.ptp.toNat, byPhase⟩ : Arrival) = me
    have now : s.ptp.toNat = me.time := by rw [← hme]
    refine ⟨_, _, State.teamOf_modTeam ht fun _ => rfl,
      (State.gridOf_modGrid _ _ fun y => y.arrival_id k me).trans (congrArg _ hx), ?_, ?_, ?_, ?_⟩
    · exact (getD_set_filled _ _ _ hk k).trans (if_pos rfl)
    · intro more
      obtain ⟨selector, point⟩ := Grid.arrival_more hk me more
      rw [point]
      exact ⟨rfl, rfl, selector⟩
    · refine ⟨fun more => ?_, fun last => ?_⟩
      · rw [(Grid.arrival_more hk me more).2]
      · obtain ⟨selector, point⟩ := Grid.arrival_last hk me last
        rw [point, selector, now]
        refine ⟨rfl, rfl, rfl, fun chosen => if_pos (List.any_eq_true.2 chosen),
          fun none => if_neg (Bool.eq_false_iff.1 (List.any_eq_false.2 fun r hr => Bool.eq_false_iff.1 (none r hr)))⟩
    · exact fun j other => ⟨(getD_set_filled _ _ _ hk j).trans (if_neg other), Grid.arrival_other hk me other⟩
  · intro y cols longest total anew
    obtain ⟨first, base, throttled⟩ := Selector.flip_begins (x := x) (sched := sched) (arrived := arrived) now
    refine ⟨first, base, throttled, Selector.flip_stands now, fun chooses none => ?_, fun chooses ⟨t, ht, finite⟩ => ?_⟩
    · obtain ⟨table, predicted⟩ := Selector.flip_anew now (x := x) chooses
      rw [chooseTable_eq_none.2 none] at table predicted
      exact ⟨table, predicted⟩
    · obtain ⟨table, predicted⟩ := Selector.flip_anew now (x := x) chooses
      obtain ⟨⟨k, m⟩, hc⟩ := Option.ne_none_iff_exists'.1 fun none => finite (chooseTable_eq_none.1 none t ht)
      rw [hc] at table predicted
      obtain ⟨j, u, rfl, hu, hm, least⟩ := chooseTable_least hc
      have place : y.table = j := table.trans (Nat.zero_add j)
      rw [place]
      exact ⟨u, m, hu, hm, predicted, least⟩

end Sys2Proof.Machine
end

section
/-! A record leaves the launch-signal lines of every column as they are (R219, R385, R386). -/
namespace Sys2Proof.Machine
-- One proof at a time: proofs elaborated side by side each take a thread and its stack.
set_option Elab.async false

/-- t holds the launch-signal lines of s. -/
def State.LinesKept (s t : State) : Prop := ∀ c, (t.cols.get c).lines = (s.cols.get c).lines

theorem State.LinesKept.trans {r s t : State} (h : r.LinesKept s) (k : s.LinesKept t) : r.LinesKept t := fun c => (k c).trans (h c)

theorem State.LinesKept.of_cols {s t : State} (h : t.cols = s.cols) : s.LinesKept t := fun _ => by rw [h]

theorem State.devKeep_lines (s : State) (pa len : Nat) : s.LinesKept (s.devKeep pa len) := by
  unfold State.devKeep
  induction runLines pa len generalizing s with
  | nil => exact .of_cols rfl
  | cons l rest ih =>
    refine .trans ?_ (ih _)
    dsimp only
    split
    · exact .of_cols rfl
    · exact .of_cols rfl

theorem State.logged_lines (s : State) (i : Incident) : s.LinesKept (s.logged i) := by
  have told : s.LinesKept (if h : i.col < 64 then s.modCol ⟨i.col, h⟩ fun x => { x with imsic := x.imsic ++ [4] } else s) := by
    split
    · intro c
      rw [State.modCol_get]
      split
      · subst c; rfl
      · rfl
    · exact .of_cols rfl
  unfold State.logged
  dsimp only
  split
  · exact told.trans (.of_cols rfl)
  · exact told

theorem State.logWrite_lines (s : State) (x : LogRec) : s.LinesKept (s.logWrite x) := by
  have stored : s.LinesKept (s.physWrite s.dev.logPlace x.bytes) := .of_cols (State.storeRunBy_memOf ..).cols
  unfold State.logWrite
  dsimp only
  split
  · refine .trans ?_ (State.logged_lines _ _)
    exact stored.trans (.of_cols rfl)
  · exact stored.trans (.of_cols rfl)

theorem State.logDrain_lines (k : Nat) (s : State) : s.LinesKept (State.logDrain k s) := by
  induction k generalizing s with
  | zero => exact .of_cols rfl
  | succ k ih =>
    unfold State.logDrain
    split
    · split
      · exact .of_cols rfl
      · split
        · refine .trans ?_ (ih _)
          refine .trans ?_ (State.logWrite_lines _ _)
          exact .of_cols rfl
        · exact State.devKeep_lines s _ _
    · exact .of_cols rfl

theorem State.logAppend_lines (s : State) (x : LogRec) : s.LinesKept (s.logAppend x) := by
  unfold State.logAppend
  dsimp only
  refine .trans ?_ (State.logDrain_lines 4097 _)
  repeat' split
  all_goals exact .of_cols rfl

theorem State.devPerform_lines (s : State) (w : DevWrite) : s.LinesKept (s.devPerform w) := by
  have stored (place : Nat) (bytes : List Byte) := (State.storeRunBy_memOf s none KeySlot.plaintext place bytes).cols
  cases w with
  | ring i =>
    unfold State.devPerform
    dsimp only
    split
    · exact .of_cols (stored ..)
    · exact .of_cols rfl
  | table c msi =>
    unfold State.devPerform
    dsimp only
    split
    · exact .of_cols ((State.msiJournal_cols ..).trans (stored ..))
    · exact .of_cols (stored ..)

theorem State.devDrain_lines (k : Nat) (s : State) : s.LinesKept (State.devDrain k s) := by
  induction k generalizing s with
  | zero => exact .of_cols rfl
  | succ k ih =>
    unfold State.devDrain
    split
    · exact .of_cols rfl
    · dsimp only
      split
      · refine .trans ?_ (ih _)
        refine .trans ?_ (State.devPerform_lines _ _)
        exact .of_cols rfl
      · exact State.devKeep_lines s _ _

theorem State.devWrite_lines (s : State) (l : List DevWrite) : s.LinesKept (s.devWrite l) := by
  refine .trans ?_ (State.devDrain_lines _ _)
  exact .of_cols rfl

theorem State.report_lines (s : State) (i : Incident) : s.LinesKept (s.report i) := by
  have appended (j : Incident) : s.LinesKept
      ((({ s with log := { s.log with count := s.log.count + 1 } } : State).countSeen j).logAppend (.incident j)) := by
    refine .trans ?_ (State.logAppend_lines _ _)
    exact .of_cols rfl
  unfold State.report
  dsimp only
  split
  · exact .of_cols rfl
  · split
    · split
      · exact appended _
      · exact .trans (appended _) (State.devWrite_lines _ _)
    · exact appended _

end Sys2Proof.Machine
end

section
/-! What LAUNCH and SPAWN answer, and what they queue (R186, R187, R219, R222). -/
namespace Sys2Proof.Machine
open Sys2Proof.Safety
-- One proof at a time: proofs elaborated side by side each take a thread and its stack.
set_option Elab.async false

/-! ### The line -/

/-- A refused store leaves what the line holds (R220). -/
theorem State.dropLaunch_queue (s : State) (ctx : CtxId) (c : ColId) (l : LineId) (value : Word) :
    (((s.dropLaunch ctx c l value).cols.get c).lines.get l).queue = ((s.cols.get c).lines.get l).queue := by
  unfold State.dropLaunch
  rw [State.report_lines, State.modLine_get]

theorem State.dropLaunch_teams (s : State) (ctx : CtxId) (c : ColId) (l : LineId) (value : Word) :
    (s.dropLaunch ctx c l value).teams = s.teams :=
  State.report_teams ..

theorem State.pushEntry_queue (s : State) (c : ColId) (l : LineId) (record : Word) (ctx : CtxId) (depth : Nat) (parent reserved : Option Nat) :
    (((s.pushEntry c l record ctx depth parent reserved).cols.get c).lines.get l).queue =
      ((s.cols.get c).lines.get l).queue ++ [⟨s.fresh, record, ctx, depth, parent, reserved, none, none, []⟩] := by
  rw [State.pushEntry, State.modLine_get]

theorem State.pushEntry_reserved (s : State) (c : ColId) (l : LineId) (record : Word) (ctx : CtxId) (depth : Nat)
    (parent reserved : Option Nat) :
    ((s.pushEntry c l record ctx depth parent reserved).cols.get c).reserved = (s.cols.get c).reserved := by
  rw [State.pushEntry, State.modLine, State.modCol_get, if_pos rfl]

section
variable {s : State} (l : LineId) (A : Word)

/-- A line at depth 10 queues nothing (R186). -/
theorem State.launchOn_deep (deep : 10 ≤ s.grid.depth) : s.launchOn l A = (2, s) := by
  unfold State.launchOn; exact if_pos deep

variable (shallow : s.grid.depth < 10)
include shallow

/-- One of the line's own entries is free. -/
theorem State.launchOn_own (room : ((s.cols.get s.colId).lines.get l).queued < 64) :
    s.launchOn l A = (0, (s.pushEntry s.colId l A s.ctxId (s.grid.depth + 1) (some s.g.team) none).modTeam s.g.team
      fun t => { t with children := t.children + 1 }) := by
  unfold State.launchOn; exact (if_neg shallow.not_ge).trans (if_pos room)

variable (full : 64 ≤ ((s.cols.get s.colId).lines.get l).queued)
include full

/-- The line's own entries are occupied, and the team's reservation is free (R222). -/
theorem State.launchOn_reserves (free : s.reservation ∉ s.col.reserved) :
    s.launchOn l A = (0, ((s.modCol s.colId fun x => { x with reserved := s.reservation :: x.reserved }).pushEntry s.colId l A s.ctxId
      (s.grid.depth + 1) (some s.g.team) (some s.reservation)).modTeam s.g.team fun t => { t with children := t.children + 1 }) := by
  unfold State.launchOn
  exact (if_neg shallow.not_ge).trans ((if_neg full.not_gt).trans (if_neg (by simpa using free)))

theorem State.launchOn_refused (used : s.reservation ∈ s.col.reserved) : s.launchOn l A = (1, s.dropLaunch s.ctxId s.colId l A) := by
  unfold State.launchOn
  exact (if_neg shallow.not_ge).trans ((if_neg full.not_gt).trans (if_pos (by simpa using used)))

end

/-! ### LAUNCH -/

section
variable {s : State} {d a b : SReg} (hb : s.g.bad = [])
include hb

/-- LAUNCH is the leader's (R186). -/
theorem exec_launch_follower (h : s.g.index ≠ 0) :
    exec (.launch d a b) s = .next (s.takeTrap ⟨.notLeader, BitVec.ofNat 64 s.g.index, 0, [], none⟩) := by
  simp only [exec_launch, execLaunch, sound_ok hb, ok_bind, State.leader_refused h, error_bind, finish_trap]

variable (leads : s.g.index = 0)
include leads

theorem exec_launch_line (h : 8 ≤ (s.g.sReg b).toNat) :
    exec (.launch d a b) s = .next (s.takeTrap ⟨.illegalOperand, b.zeroExtend 64, 0, [], none⟩) := by
  simp only [exec_launch, execLaunch, sound_ok hb, ok_bind, State.leader_ok leads, dif_neg h.not_gt, trapN_toNat, finish_trap]

variable (h : (s.g.sReg b).toNat < 8)
include h

theorem exec_launch_misaligned (odd : (s.g.sReg a).toNat % 256 ≠ 0) :
    exec (.launch d a b) s = .next (s.takeTrap ⟨.misaligned, s.g.sReg a, 0, [], none⟩) := by
  simp only [exec_launch, execLaunch, sound_ok hb, ok_bind, State.leader_ok leads, dif_pos h, beq_false_of_ne odd, need_false, trap,
    error_bind, finish_trap]

variable (quad : (s.g.sReg a).toNat % 256 = 0)
include quad

theorem exec_launch_far (far : 2 ^ 55 ≤ (s.g.sReg a).toNat) :
    exec (.launch d a b) s = .next (s.takeTrap ⟨.accessFault, s.g.sReg a, 0, [], none⟩) := by
  simp only [exec_launch, execLaunch, sound_ok hb, ok_bind, State.leader_ok leads, dif_pos h, beq_iff_eq.2 quad, need_true,
    decide_eq_false far.not_gt, need_false, trap, error_bind, finish_trap]

theorem exec_launch_ok (near : (s.g.sReg a).toNat < 2 ^ 55) (ready : ReleaseReady s .dev) :
    let r := (s.release .dev).launchOn ⟨(s.g.sReg b).toNat, h⟩ (s.g.sReg a)
    exec (.launch d a b) s = .next (r.2.retireWith (r.2.g.setS d (BitVec.ofNat 64 r.1))) := by
  simp only [exec_launch, execLaunch, sound_ok hb, ok_bind, State.leader_ok leads, dif_pos h, beq_iff_eq.2 quad, need_true,
    decide_eq_true near, releaseFirst_ok ready, finish_ok]

end

/-! ### SPAWN -/

section
variable {s : State} {G : Guard} {p : PReg} {v : VReg} {a : SReg}
  (ready : OperandsReady s [vSpan v 4 false (s.g.active G)] [vSpan v 4 false (s.g.active G)] anyType [a] [s.g.guardIdx G])
include ready

theorem exec_spawn_idle (idle : s.g.active G = 0) : exec (.spawn G p v a) s = .next s.retire := by
  simp only [exec_spawn, execSpawn, operands_ok ready, ok_bind, if_pos idle, finish_ok]

variable (some' : s.g.active G ≠ 0)
include some'

theorem exec_spawn_misaligned (odd : (s.g.sReg a).toNat % 4 ≠ 0) :
    exec (.spawn G p v a) s = .next (s.takeTrap ⟨.misaligned, s.g.sReg a, 0, [], none⟩) := by
  simp only [exec_spawn, execSpawn, operands_ok ready, ok_bind, if_neg some', beq_false_of_ne odd, need_false, trap, error_bind, finish_trap]

variable (quad : (s.g.sReg a).toNat % 4 = 0)
include quad

theorem exec_spawn_far (far : 2 ^ 55 ≤ (s.g.sReg a).toNat) :
    exec (.spawn G p v a) s = .next (s.takeTrap ⟨.accessFault, s.g.sReg a, 0, [], none⟩) := by
  simp only [exec_spawn, execSpawn, operands_ok ready, ok_bind, if_neg some', beq_iff_eq.2 quad, need_true, decide_eq_false far.not_gt,
    need_false, trap, error_bind, finish_trap]

theorem exec_spawn_ok (near : (s.g.sReg a).toNat < 2 ^ 55) (released : ReleaseReady s .col) :
    let r := (s.release .col).offerLanes (s.g.sReg a) (fun L => (List.range 4).map fun i => s.g.lane (v.toNat + i) L)
      (lanesOf (s.g.active G)) []
    exec (.spawn G p v a) s = .next (r.2.retireWith (r.2.g.setP p (s.g.active G) (maskOf fun L => r.1.contains L))) := by
  simp only [exec_spawn, execSpawn, operands_ok ready, ok_bind, if_neg some', beq_iff_eq.2 quad, need_true, decide_eq_true near,
    releaseFirst_ok released, finish_ok]

end

/-! ### Bins -/

theorem updWhere_eq_map {α : Type} (p : α → Bool) (f : α → α) (l : List α) : updWhere p f l = l.map fun x => if p x then f x else x := by
  induction l with
  | nil => rfl
  | cons x r ih => rw [updWhere, ih, List.map_cons]

/-- Entries that are changed and then dropped. -/
theorem filter_updWhere_not {α : Type} {p : α → Bool} {f : α → α} (hf : ∀ x, p x = true → p (f x) = true) (l : List α) :
    ((updWhere p f l).filter fun x => !p x) = l.filter fun x => !p x := by
  induction l with
  | nil => rfl
  | cons x r ih =>
    rw [updWhere, List.filter_cons, List.filter_cons, ih]
    by_cases h : p x = true
    · simp [h, hf x h]
    · simp [h]

/-- A team of all the records of a bin, and the bin dropped (R187). -/
theorem State.formTeam_bins {s : State} {col : ColId} {b : SpawnBin} {x : Grid} (h : s.gridOf b.grid = some x) (few : b.records.length ≤ 64) :
    ∃ tm, (s.formTeam col b).teams = s.teams ++ [tm] ∧ tm.ctx = b.ctx ∧ tm.grid = b.grid ∧ tm.entry = b.entry ∧ tm.payloads = b.records ∧
      tm.spawned = true ∧ tm.place = .waiting ∧ ((s.formTeam col b).cols.get col).bins = (s.cols.get col).bins.filter fun y => y.id != b.id := by
  have rest : b.records.drop 64 = [] := List.drop_eq_nil_of_le few
  unfold State.formTeam
  simp only [h, rest, List.isEmpty_nil, if_true]
  refine ⟨_, rfl, rfl, rfl, rfl, List.take_of_length_le few, rfl, rfl, ?_⟩
  simp only [State.modGrid_cols, State.modCol_get, if_true]
  rfl

section
variable {s : State} {col : ColId} {ctx : CtxId} {grid : Nat} {E : Word} (x : List Word32)

section
variable {b : SpawnBin} (mine : ((s.cols.get col).bins.find? fun b => b.ctx == ctx && b.grid == grid && b.entry == E) = some b)
include mine

/-- A bin of 256 records takes no more (R187). -/
theorem State.offerRecord_full (full : 256 ≤ b.records.length) : s.offerRecord col ctx grid E x = none := by
  unfold State.offerRecord
  simp only [mine, if_pos full]

/-- A record joins its bin behind those it holds. -/
theorem State.offerRecord_joins (few : b.records.length < 63) :
    s.offerRecord col ctx grid E x = some (s.modCol col fun c => { c with
      bins := updWhere (fun y => y.id == b.id) (fun _ => { b with records := b.records ++ [x] }) c.bins }) := by
  have room : ¬256 ≤ b.records.length := by omega
  have small : ¬64 ≤ (b.records ++ [x]).length := by rw [List.length_append, List.length_singleton]; omega
  unfold State.offerRecord
  simp only [mine, if_neg room, if_neg small]

/-- The record that makes 64 forms a team. -/
theorem State.offerRecord_forms (last : b.records.length = 63) :
    s.offerRecord col ctx grid E x = some ((s.modCol col fun c => { c with
      bins := updWhere (fun y => y.id == b.id) (fun _ => { b with records := b.records ++ [x] }) c.bins }).formTeam col
        { b with records := b.records ++ [x] }) := by
  have room : ¬256 ≤ b.records.length := by omega
  have enough : 64 ≤ (b.records ++ [x]).length := by rw [List.length_append, List.length_singleton]; omega
  unfold State.offerRecord
  simp only [mine, if_neg room, if_pos enough]

end

variable (none' : ((s.cols.get col).bins.find? fun b => b.ctx == ctx && b.grid == grid && b.entry == E) = none)
include none'

theorem State.offerRecord_noBin (used : 64 ≤ (s.cols.get col).bins.length) : s.offerRecord col ctx grid E x = none := by
  unfold State.offerRecord
  simp only [none', if_pos used]

theorem State.offerRecord_opens (free : (s.cols.get col).bins.length < 64) :
    s.offerRecord col ctx grid E x =
      some { s.modCol col (fun c => { c with bins := c.bins ++ [⟨s.fresh, ctx, grid, E, [x]⟩] }) with fresh := s.fresh + 1 } := by
  unfold State.offerRecord
  simp only [none', if_neg free.not_ge]

end

/-- The lanes accepted are those before the first whose record finds no room. -/
theorem State.offerLanes_takes (E : Word) (f : Nat → List Word32) (lanes : List Nat) (s : State) (acc : List Nat) :
    ∃ n ≤ lanes.length, (s.offerLanes E f lanes acc).1 = acc ++ lanes.take n ∧ ∀ L, lanes[n]? = some L →
      let t := (s.offerLanes E f lanes acc).2
      t.offerRecord t.colId t.ctxId t.team.grid E (f L) = none := by
  induction lanes generalizing s acc with
  | nil => exact ⟨0, le_rfl, (List.append_nil _).symm, fun L h => by cases h⟩
  | cons L rest ih =>
    cases h : s.offerRecord s.colId s.ctxId s.team.grid E (f L) with
    | none =>
      rw [State.offerLanes, h]
      exact ⟨0, Nat.zero_le _, (List.append_nil _).symm, fun K hK => by cases hK; exact h⟩
    | some t =>
      obtain ⟨n, few, taken, stops⟩ := ih t (acc ++ [L])
      rw [State.offerLanes, h]
      exact ⟨n + 1, Nat.succ_le_succ few, by rw [taken, List.take_succ_cons, List.append_assoc]; rfl, stops⟩

/-! ### The obligation -/

/-- Settles O38: the two instructions by the check that stops them, the line by the entry that is free, a bin by what it holds, and the lanes
by induction. -/
theorem launchAndSpawn : Obligations.LaunchAndSpawn := by
  unfold Obligations.LaunchAndSpawn
  refine ⟨fun s G d a b p v hb =>
      ⟨exec_launch_follower hb, exec_launch_line hb, fun leads h => ⟨?_, ?_, ?_⟩, fun ready => ⟨?_, ?_, ?_, ?_⟩⟩,
    fun s l A => ?_, fun s col ctx grid E x => ⟨fun b mine => ⟨?_, ?_, ?_⟩, fun none' => ⟨?_, ?_⟩⟩, fun s E f lanes => ?_⟩
  · exact exec_launch_misaligned hb leads h
  · exact exec_launch_far hb leads h
  · exact exec_launch_ok hb leads h
  · exact exec_spawn_idle ready
  · exact exec_spawn_misaligned ready
  · exact exec_spawn_far ready
  · exact exec_spawn_ok ready
  · refine ⟨State.launchOn_deep l A, fun shallow => ⟨fun room => ?_, fun full free => ?_, fun full used => ?_⟩⟩
    · dsimp only
      rw [State.launchOn_own l A shallow room]
      refine ⟨⟨rfl, rfl, State.pushEntry_queue .., fun tm ht => ⟨_, State.teamOf_modTeam ?_ fun _ => rfl, rfl⟩⟩,
        State.pushEntry_reserved ..⟩
      exact ht
    · dsimp only
      rw [State.launchOn_reserves l A shallow full free]
      refine ⟨⟨rfl, rfl, (State.pushEntry_queue ..).trans ?_, fun tm ht => ⟨_, State.teamOf_modTeam ?_ fun _ => rfl, rfl⟩⟩,
        (State.pushEntry_reserved ..).trans ?_⟩
      · rw [State.modCol_get, if_pos rfl]; rfl
      · exact ht
      · rw [State.modCol_get, if_pos rfl]; rfl
    · dsimp only
      rw [State.launchOn_refused l A shallow full used]
      exact ⟨rfl, State.dropLaunch_queue .., State.dropLaunch_teams ..⟩
  · exact State.offerRecord_full x mine
  · intro few
    refine ⟨_, State.offerRecord_joins x mine few, rfl, ?_⟩
    simp only [State.modCol_get, if_true, updWhere_eq_map, beq_iff_eq]
  · intro last y hy
    obtain ⟨tm, teams, inCtx, inGrid, entry, records, spawned, place, bins⟩ := State.formTeam_bins (col := col)
      (s := s.modCol col fun c => { c with bins := updWhere (fun y => y.id == b.id) (fun _ => { b with records := b.records ++ [x] }) c.bins })
      (b := { b with records := b.records ++ [x] }) hy (by simp [last])
    refine ⟨_, tm, State.offerRecord_forms x mine last, teams, inCtx, inGrid, entry, records, spawned, place, bins.trans ?_⟩
    simp only [State.modCol_get, if_true]
    exact filter_updWhere_not (p := fun y : SpawnBin => y.id == b.id) (f := fun _ => { b with records := b.records ++ [x] })
      (fun _ _ => beq_self_eq_true b.id) _
  · exact State.offerRecord_noBin x none'
  · intro free
    refine ⟨_, State.offerRecord_opens x none' free, rfl, ?_⟩
    simp only [State.modCol_get, if_true]
  · obtain ⟨n, few, taken, stops⟩ := State.offerLanes_takes E f lanes s []
    exact ⟨n, few, taken, stops⟩

end Sys2Proof.Machine
end

section
/-! Blocked groups that go on (R142, R170, R172, R198, R233). -/
namespace Sys2Proof.Machine
open Sys2Proof.Safety
-- One proof at a time: proofs elaborated side by side each take a thread and its stack.
set_option Elab.async false

/-! ### The condition -/

section
variable {u : State} (running : (u.ctxs.get u.ctxId).phase = .running)
include running

theorem State.wakeHolds_point {pt : Nat} {token : Bool} (status : u.g.status = .blocked (.point pt token)) :
    u.wakeHolds u.g = ((u.team.point pt).phase != token) := by
  rw [State.wakeHolds, status]
  exact congrArg (fun p => (p == .running || p == .saving) && ((u.team.point pt).phase != token)) running

theorem State.wakeHolds_waity {pt : Nat} {token : Bool} {C : Word} (status : u.g.status = .blocked (.waity pt token C)) :
    u.wakeHolds u.g = ((u.team.point pt).phase != token) := by
  rw [State.wakeHolds, status]
  exact congrArg (fun p => (p == .running || p == .saving) && ((u.team.point pt).phase != token)) running

theorem State.wakeHolds_gridPoint {gv : Nat} {k : GridStage} {b : SReg} (status : u.g.status = .blocked (.gridPoint gv k b)) :
    u.wakeHolds u.g = ((u.grid.gvs.getD gv ⟨0, 0, []⟩).done == u.team.gvA.getD gv 0) := by
  rw [State.wakeHolds, status]
  exact congrArg (fun p => (p == .running || p == .saving) && ((u.grid.gvs.getD gv ⟨0, 0, []⟩).done == u.team.gvA.getD gv 0)) running

theorem State.wakeHolds_immediate (status : u.g.status = .blocked .immediate) : u.wakeHolds u.g = true := by
  rw [State.wakeHolds, status]
  exact congrArg (fun p => (p == .running || p == .saving) && p == .running) running

theorem State.wakeHolds_reply {n : Nat} {h : HcallRec} {r : Word32 × List Word32} (status : u.g.status = .blocked (.hcallReply n))
    (held : u.g.hcall = some h) (reply : h.reply = some r) : u.wakeHolds u.g = true := by
  rw [State.wakeHolds, status, held, Option.bind_some, reply]
  exact congrArg (fun p => (p == .running || p == .saving) && (p == .running && true)) running

end

/-- A group that is not blocked has nothing to wake from. -/
theorem State.wakeHolds_ready {u : State} (status : u.g.status = .ready) : u.wakeHolds u.g = false := by
  rw [State.wakeHolds, status]
  exact Bool.and_false _

/-! ### The event -/

section
variable {s u : State} {core : CoreId} {slot : SlotId} (focus : s.focus core slot = some u)
include focus

/-- A group whose condition does not hold stays blocked (R233). -/
theorem exec_waitWake_stays (waits : u.wakeHolds u.g = false) : exec (.waitWake core slot) s = .next s := by
  simp only [exec_waitWake, execWaitWake, focus, waits, Bool.false_eq_true, if_false, done_eq]

/-- A group whose condition holds, and that waits for no reply, wakes (R170, R172, R233). -/
theorem exec_waitWake_wakes (holds : u.wakeHolds u.g = true) (other : ∀ n, u.g.status ≠ .blocked (.hcallReply n)) :
    exec (.waitWake core slot) s = .next u.wake := by
  simp only [exec_waitWake, execWaitWake, focus, holds, if_true, done_eq]
  split
  next n _ status _ => exact absurd status (other n)
  next => rfl

/-- The reply to an HCALL is delivered (R198). -/
theorem exec_waitWake_reply (running : (u.ctxs.get u.ctxId).phase = .running) {n : Nat} {h : HcallRec} {r : Word32 × List Word32}
    (status : u.g.status = .blocked (.hcallReply n)) (held : u.g.hcall = some h) (reply : h.reply = some r) :
    exec (.waitWake core slot) s = .next (u.deliverHcall h r.1 r.2) := by
  simp only [exec_waitWake, execWaitWake, focus, State.wakeHolds_reply running status held reply, if_true, status, held, reply, done_eq]

end

/-! ### The bytes of a peer -/

/-- What a peer answers goes to one group, where the peers are within reach (R142, R367). -/
theorem exec_loadDataReturn_reached {s : State} {core : CoreId} (slot : SlotId) (reply : PeerReply)
    (reach : s.links.reachesPeers (colDie (coreCol core)) = true) : ∃ t, exec (.loadDataReturn core slot reply) s = .next t ∧
      t.mem = s.mem ∧
      (s.g.isAt core slot = true → s.g.status = .blocked .peerLoad → s.g.peerData = none →
        t.g = { s.g with status := .ready, peerData := some reply }) ∧
      (s.g.isAt core slot = true → s.g.status = .blocked .peerFetch → s.g.fetched = none →
        t.g = { s.g with status := .ready, fetched := some reply }) := by
  simp only [exec_loadDataReturn, execLoadDataReturn, reach, Bool.not_true, Bool.false_eq_true, if_false, done_eq]
  refine ⟨_, rfl, rfl, fun here status none' => ?_, fun here status none' => ?_⟩
  · refine (if_pos here).trans ?_
    rw [if_neg (by rw [status]; decide), if_pos status, Group.beforeReply, none']
    rfl
  · refine (if_pos here).trans ?_
    rw [if_pos status, none']
    rfl

end Sys2Proof.Machine
end

section
/-! What a matrix job leaves in the accumulators and the flags of its group (R57, R181). -/
namespace Sys2Proof.Machine
open Sys2Proof.Safety
-- One proof at a time: proofs elaborated side by side each take a thread and its stack.
set_option Elab.async false

/-! ### The rows of a job -/

/-- The rows of a job over the lanes of a mask. -/
def laneRows (m : Word) (row : Nat → ARow) : List (Nat × ARow) := (lanesOf m).map fun L => (L, row L)

theorem any_laneRows {m : Word} {row : Nat → ARow} (L : Nat) : ((laneRows m row).any fun r => r.1 == L) = m.getLsbD L := by
  rw [Bool.eq_iff_iff, laneRows, List.any_map, List.any_eq_true]
  simp [mem_lanesOf]

theorem find_laneRows {m : Word} {row : Nat → ARow} (L : Nat) :
    ((laneRows m row).find? fun r => r.1 == L) = if m.getLsbD L = true then some (L, row L) else none := by
  rw [laneRows, List.find?_map]
  cases h : (lanesOf m).find? ((fun r : Nat × ARow => r.1 == L) ∘ fun L => (L, row L)) with
  | none =>
    have clear : ¬m.getLsbD L = true := fun set => by simpa using List.find?_eq_none.1 h L (mem_lanesOf.2 set)
    rw [if_neg clear]; rfl
  | some K =>
    have same : K = L := by simpa using List.find?_some h
    subst same
    rw [if_pos (mem_lanesOf.1 (List.mem_of_find?_eq_some h))]; rfl

theorem maskOf_laneRows (m : Word) (row : Nat → ARow) : maskOf (fun L => (laneRows m row).any fun r => r.1 == L) = m :=
  maskOf_eq fun L _ => (any_laneRows L).symm

/-- A flag of several results set one after the other. -/
theorem getLsbD_foldl_or {α : Type} {w : Nat} (f : α → BitVec w) (l : List α) (start : BitVec w) (k : Nat) :
    (l.foldl (fun fl x => fl ||| f x) start).getLsbD k = true ↔ start.getLsbD k = true ∨ ∃ x ∈ l, (f x).getLsbD k = true := by
  induction l generalizing start with
  | nil => simp
  | cons x r ih => rw [List.foldl_cons, ih, BitVec.getLsbD_or, Bool.or_eq_true, List.exists_mem_cons_iff, or_assoc]

/-! ### The table of results -/

/-- A result of a job, by element of the quarter and lane. -/
def jobResult (B : Macro) (job : MatJob) (start : Nat → Nat → Acc) (i : Nat) : Option (Acc × Flags) :=
  (job.rows.find? fun r => r.1 == i % 64).map fun r => accumulate B job r.2 (i / 64) (start (16 * job.q + i / 64) r.1)

/-- A job is the writes of a quarter, and the flags. -/
theorem Group.multiply_eq (g : Group) (B : Macro) (job : MatJob) (start : Nat → Nat → Acc) : g.multiply B job start =
    (g.setAs (16 * job.q) (maskOf fun L => job.rows.any fun r => r.1 == L) (fun x n L =>
      (atD (tab 1024 (jobResult B job start)) (64 * n + L) none).elim (x.acc (16 * job.q + n) L) Prod.fst) 16).orFlags
    ((List.range 1024).foldl (fun fl i => fl ||| (atD (tab 1024 (jobResult B job start)) i none).elim 0 Prod.snd) 0) := by
  unfold Group.multiply Group.setAs
  dsimp only
  generalize made : tab 1024 _ = rs
  have table : tab 1024 (jobResult B job start) = rs := by
    rw [← made]
    refine congrArg (tab 1024) (funext fun i => ?_)
    unfold jobResult
    cases job.rows.find? fun r => r.1 == i % 64 <;> rfl
  rw [table]
  refine congrArg₂ Group.orFlags (congrArg (fun f => (List.range 16).foldl f g) (funext₂ fun x n => congrArg (x.setA _ _) (funext fun L => ?_)))
    (congrArg (fun f => (List.range 1024).foldl f 0) (funext₂ fun fl i => ?_))
  · cases atD rs (64 * n + L) none <;> rfl
  · cases atD rs i none with
    | none => exact BitVec.or_zero.symm
    | some r => rfl

theorem Group.acc_orFlags (g : Group) (f : Flags) (i L : Nat) : (g.orFlags f).acc i L = g.acc i L := rfl

section
variable (g : Group) (B : Macro) {job : MatJob} (start : Nat → Nat → Acc) {m : Word} {row : Nat → ARow}
  (rows : job.rows = laneRows m row)
include rows

theorem jobResult_lane {i : Nat} : jobResult B job start i =
    if m.getLsbD (i % 64) = true then some (accumulate B job (row (i % 64)) (i / 64) (start (16 * job.q + i / 64) (i % 64))) else none := by
  rw [jobResult, rows, find_laneRows]
  split <;> rfl

/-- A job writes its quarter in the lanes of its rows (R57). -/
theorem Group.acc_multiply (quarter : job.q < 4) (i L : Nat) : (g.multiply B job start).acc i L =
    if i / 16 = job.q ∧ m.getLsbD L = true then (accumulate B job (row L) (i % 16) (start i L)).1 else g.acc i L := by
  have same (x : Group) (n : Nat) (hn : n < 16) (L : Nat) (set : m.getLsbD L = true) :
      (atD (tab 1024 (jobResult B job start)) (64 * n + L) none).elim (x.acc (16 * job.q + n) L) Prod.fst =
        (accumulate B job (row L) n (start (16 * job.q + n) L)).1 := by
    have hL := BitVec.lt_of_getLsbD set
    rw [atD_tab, if_pos (by omega), jobResult_lane B start rows, show (64 * n + L) % 64 = L by omega, show (64 * n + L) / 64 = n by omega,
      if_pos set]
    rfl
  rw [Group.multiply_eq, rows, maskOf_laneRows]
  rw [Group.acc_orFlags, Group.acc_setAs g (16 * job.q) m _ same (by omega)]
  simp only [show (16 * job.q ≤ i ∧ i < 16 * job.q + 16) ↔ i / 16 = job.q by omega]
  split
  next inside =>
    obtain ⟨here, _⟩ := inside
    rw [show i - 16 * job.q = i % 16 by omega, show 16 * job.q + i % 16 = i by omega]
  next => rfl

/-- A job sets the flags of its results (R57). -/
theorem Group.fl_multiply {k : Nat} (hk : k < 7) : (g.multiply B job start).fl.getLsbD k = true ↔ g.fl.getLsbD k = true ∨
    ∃ n < 16, ∃ L, m.getLsbD L = true ∧ (accumulate B job (row L) n (start (16 * job.q + n) L)).2.getLsbD k = true := by
  rw [Group.multiply_eq, Group.orFlags, Group.setAs_eq]
  dsimp only
  rw [BitVec.getLsbD_or, Bool.or_eq_true, BitVec.getLsbD_setWidth]
  simp only [show k < 32 by omega, decide_true, Bool.true_and, getLsbD_foldl_or, BitVec.ofNat_eq_ofNat, BitVec.getLsbD_zero,
    Bool.false_eq_true, false_or, List.mem_range]
  refine or_congr Iff.rfl ⟨?_, ?_⟩
  · rintro ⟨i, hi, set⟩
    rw [atD_tab, if_pos hi, jobResult_lane B start rows] at set
    by_cases active : m.getLsbD (i % 64) = true
    · rw [if_pos active] at set
      exact ⟨i / 64, by omega, i % 64, active, set⟩
    · rw [if_neg active] at set
      simp at set
  · rintro ⟨n, hn, L, active, set⟩
    have hL := BitVec.lt_of_getLsbD active
    refine ⟨64 * n + L, by omega, ?_⟩
    rw [atD_tab, if_pos (by omega), jobResult_lane B start rows, show (64 * n + L) % 64 = L by omega, show (64 * n + L) / 64 = n by omega,
      if_pos active]
    exact set

end

end Sys2Proof.Machine
end

section
/-! The MMAs of a group performed (R57, R181, R184, R197). -/
namespace Sys2Proof.Machine
open Sys2Proof.Safety
-- One proof at a time: proofs elaborated side by side each take a thread and its stack.
set_option Elab.async false

/-! ### A job performed -/

/-- Operands that hold no error make no record (R58). -/
theorem jobIncidents_nil (g : Group) (ctx : CtxId) {B : Macro} {job : MatJob} (cells : B.badCells = []) (cols : B.badCols = [])
    (rows : ∀ r ∈ job.rows, r.2.failed = [] ∧ r.2.failedBlocks = []) : jobIncidents g ctx B job = [] := by
  simp only [jobIncidents, cells, cols, List.filter_nil, List.map_nil, List.append_nil, List.flatten_eq_nil_iff, List.mem_map]
  rintro _ ⟨r, hr, rfl⟩
  rw [(rows r hr).1, (rows r hr).2]
  rfl

section
variable {g : Group} (hb : g.bad = []) (ctx : CtxId) (B : Macro) (job : MatJob)
include hb

/-- With no register in error a job starts from the accumulators as they are (R197). -/
theorem Group.perform_sound : g.perform ctx B job none =
    ((g.multiply B job g.acc).orFlags (flIf (!(jobIncidents g ctx B job).isEmpty) flOpz), jobIncidents g ctx B job) := by
  unfold Group.perform
  simp only [Group.soundAccs_of_sound hb, List.nil_append]

theorem Group.acc_perform {m : Word} {row : Nat → ARow} (rows : job.rows = laneRows m row) (quarter : job.q < 4) (i L : Nat) :
    (g.perform ctx B job none).1.acc i L =
      if i / 16 = job.q ∧ m.getLsbD L = true then (accumulate B job (row L) (i % 16) (g.acc i L)).1 else g.acc i L := by
  rw [Group.perform_sound hb, Group.acc_orFlags, Group.acc_multiply g B g.acc rows quarter]

end

theorem Group.multiply_team (g : Group) (B : Macro) (job : MatJob) (start : Nat → Nat → Acc) : (g.multiply B job start).team = g.team := by
  rw [Group.multiply_eq, Group.orFlags_team, Group.setAs_eq]

theorem Group.soundAccs_team (g : Group) (ctx : CtxId) (first count : Nat) (m : Word) : (g.soundAccs ctx first count m).1.team = g.team := by
  unfold Group.soundAccs
  dsimp only
  split
  · rfl
  · exact List.foldlRecOn (motive := fun x : Group => x.team = g.team) _ _ rfl fun x h b _ => by rw [Group.setA_eq]; exact h

/-- A group stays with its team while its jobs are performed. -/
theorem Group.perform_team (g : Group) (ctx : CtxId) (B : Macro) (job : MatJob) (given : Option (Nat → Nat → Acc × Bool)) :
    (g.perform ctx B job given).1.team = g.team := by
  unfold Group.perform
  cases given with
  | none =>
    dsimp only
    rw [Group.orFlags_team, Group.multiply_team, Group.soundAccs_team]
  | some f =>
    dsimp only
    rw [Group.orFlags_team, Group.multiply_team, Group.orFlags_team]

/-! ### The MMAs of a group -/

/-- No MMA is left where none waits for an MMAS ahead of it on its unit (R184). -/
theorem State.runMmas_rest (s : State) (ctx : CtxId) {l : List MmaOp} {g : Group}
    (free : ∀ x ∈ l, s.mmasAhead g.team x.id x.q x.mg x.slotA x.slotB = false) : (s.runMmas ctx l g).2.2 = [] := by
  induction l generalizing g with
  | nil => rfl
  | cons x r ih =>
    obtain ⟨first, others⟩ := List.forall_mem_cons.1 free
    rw [State.runMmas, if_neg (by rw [first]; exact Bool.false_ne_true)]
    refine ih fun y hy => ?_
    rw [Group.stain_eq, Group.perform_team]
    exact others y hy

/-- One MMA that waits for none ahead of it and whose quarter is no target of an MMAS (R181, R182). -/
theorem State.runMmas_single {s : State} (ctx : CtxId) {x : MmaOp} {g : Group}
    (free : s.mmasAhead g.team x.id x.q x.mg x.slotA x.slotB = false) (seen : g.unseenQ x.q.toNat = false) :
    s.runMmas ctx [x] g = (((g.perform ctx (s.macroView g.team x.mg g.index x.id) x.job none).1.stain x.q.toNat x.active),
      (g.perform ctx (s.macroView g.team x.mg g.index x.id) x.job none).2, []) := by
  have target : g.unseenQ x.job.q = false := seen
  rw [State.runMmas, if_neg (by rw [free]; exact Bool.false_ne_true)]
  simp only [target, State.runMmas, List.append_nil, Bool.false_eq_true, if_false]
  rfl

/-- The rows of an MMA none of whose registers held an error (R58). -/
theorem MmaOp.row_sound {x : MmaOp} (hb : x.bad = []) (L : Nat) : (x.row L).failed = [] ∧ (x.row L).failedBlocks = [] := by
  simp [MmaOp.row, hb]

/-! ### The completion -/

section
variable {s : State} {core : CoreId} {slot : SlotId}

/-- The MMAs of the issuing group are performed (R181). -/
theorem exec_mmaComplete_drains (here : s.g.isAt core slot = true) : exec (.mmaComplete core slot) s = .next s.drainMmas := by
  simp only [exec_mmaComplete, execMmaComplete, here, if_true, done_eq]

theorem State.drainMmas_ops (s : State) : s.drainMmas.ops = s.ops := by
  unfold State.drainMmas
  split
  · rfl
  · exact State.reportAll_ops ..

theorem State.drainMmas_empty (free : ∀ x ∈ s.g.mmas, s.mmasAhead s.g.team x.id x.q x.mg x.slotA x.slotB = false) :
    s.drainMmas.g.mmas = [] := by
  unfold State.drainMmas
  split
  next none' => exact List.isEmpty_iff.1 none'
  next => exact (congrArg Group.mmas (State.reportAll_g ..)).trans (State.runMmas_rest s s.ctxId free)

variable {x : MmaOp} (one : s.g.mmas = [x]) (free : s.mmasAhead s.g.team x.id x.q x.mg x.slotA x.slotB = false)
  (seen : s.g.unseenQ x.q.toNat = false)
include one free seen

theorem State.drainMmas_g : s.drainMmas.g =
    { (s.g.perform s.ctxId (s.macroView s.g.team x.mg s.g.index x.id) x.job none).1.stain x.q.toNat x.active with mmas := [] } := by
  unfold State.drainMmas
  rw [one, State.runMmas_single s.ctxId free seen]
  exact State.reportAll_g ..

variable (hb : s.g.bad = [])
include hb

/-- The accumulators of the quarter in the Active lanes, each from what it held (R57). -/
theorem State.drainMmas_acc (i L : Nat) : s.drainMmas.g.acc i L = if i / 16 = x.q.toNat ∧ x.active.getLsbD L = true
    then (accumulate (s.macroView s.g.team x.mg s.g.index x.id) x.job (x.row L) (i % 16) (s.g.acc i L)).1 else s.g.acc i L := by
  have left := State.drainMmas_g one free seen
  rw [left]
  exact (Group.stain_acc ..).trans (Group.acc_perform hb s.ctxId _ x.job (row := x.row) rfl x.q.isLt i L)

/-- The flags of an MMA whose operands hold no error are those of its results. -/
theorem State.drainMmas_fl (sound : x.bad = []) (cells : (s.macroView s.g.team x.mg s.g.index x.id).badCells = [])
    (cols : (s.macroView s.g.team x.mg s.g.index x.id).badCols = []) {k : Nat} (hk : k < 7) :
    s.drainMmas.g.fl.getLsbD k = true ↔ s.g.fl.getLsbD k = true ∨ ∃ n < 16, ∃ L, x.active.getLsbD L = true ∧
      (accumulate (s.macroView s.g.team x.mg s.g.index x.id) x.job (x.row L) n (s.g.acc (16 * x.q.toNat + n) L)).2.getLsbD k = true := by
  generalize made : s.macroView s.g.team x.mg s.g.index x.id = M at cells cols ⊢
  have silent : jobIncidents s.g s.ctxId M x.job = [] := jobIncidents_nil s.g s.ctxId cells cols fun r hr => by
    obtain ⟨L, _, rfl⟩ := List.mem_map.1 hr
    exact MmaOp.row_sound sound L
  have flags : s.drainMmas.g.fl = (s.g.multiply M x.job s.g.acc).fl := by
    rw [State.drainMmas_g one free seen, made, Group.perform_sound hb, silent, Group.stain_eq]
    exact BitVec.or_zero
  rw [flags, Group.fl_multiply s.g M s.g.acc (row := x.row) rfl hk]
  rfl

end

end Sys2Proof.Machine
end

section
/-! MMAS and the loads of macros completed (R179, R182, R184, R185). -/
namespace Sys2Proof.Machine
open Sys2Proof.Safety
-- One proof at a time: proofs elaborated side by side each take a thread and its stack.
set_option Elab.async false

/-! ### The group on a slot -/

/-- The first entry that a key finds, where it still finds it once it is changed. -/
theorem find_updWhere_hit {α : Type} {p : α → Bool} {f : α → α} (hf : ∀ x, p x = true → p (f x) = true) (l : List α) :
    (updWhere p f l).find? p = (l.find? p).map f := by
  induction l with
  | nil => rfl
  | cons x r ih =>
    rw [updWhere, List.find?_cons, List.find?_cons, ih]
    cases h : p x with
    | false => simp [h]
    | true => simp [hf x h]

theorem State.groupAt_eq (s : State) (core : CoreId) (slot : SlotId) :
    s.groupAt core slot = (s.g :: s.others).find? fun g => g.isAt core slot := by
  rw [State.groupAt, State.groups, List.find?_filter]
  refine congrArg (fun p => List.find? p (s.g :: s.others)) (funext fun g => ?_)
  cases h : g.isAt core slot with
  | false => simp
  | true =>
    have present : g.present = true := (Bool.and_eq_true_iff.1 (Bool.and_eq_true_iff.1 h).1).1
    simp [present]

/-- The group of a slot once it is changed. -/
theorem State.groupAt_modGroup {s : State} {core : CoreId} {slot : SlotId} {f : Group → Group} {g : Group}
    (hf : ∀ g, g.isAt core slot = true → (f g).isAt core slot = true) (h : s.groupAt core slot = some g) :
    (s.modGroup core slot f).groupAt core slot = some (f g) := by
  rw [State.groupAt_eq] at h ⊢
  exact (find_updWhere_hit hf (s.g :: s.others)).trans (congrArg _ h)

theorem State.groupAt_of_opGroup {s : State} {o : EngineOp} {g : Group} (h : s.opGroup o = some g) : s.groupAt o.core o.slot = some g :=
  (Option.filter_eq_some_iff.1 h).1

theorem State.groupAt_isAt {s : State} {core : CoreId} {slot : SlotId} {g : Group} (h : s.groupAt core slot = some g) :
    g.isAt core slot = true := by
  rw [State.groupAt_eq] at h
  exact (List.find?_some h :)

/-! ### What an operation reads -/

/-- An operation that has left reads its cells as it did before: the loads that it meets are older. -/
theorem State.macroView_dropOp (s : State) (team mg index op : Nat) :
    (s.dropOp op).macroView team mg index op = s.macroView team mg index op := by
  have older : ((s.ops.filter fun o => o.id != op).filter fun o => o.team == team && o.id < op) =
      s.ops.filter fun o => o.team == team && o.id < op := by
    rw [List.filter_filter]
    refine List.filter_congr fun o _ => ?_
    by_cases h : o.id < op
    · simp [h, h.ne]
    · simp [h]
  have loads : (s.dropOp op).inksInFlight team mg op = s.inksInFlight team mg op := by
    rw [State.inksInFlight, State.inksInFlight, ← older]; rfl
  rw [State.macroView, State.macroView, loads]
  rfl

/-- Macros whose loads are all done and seen are read as they are (R185). -/
theorem State.macroView_settled {s : State} {team mg index id : Nat} {t : Team} (h : s.teamOf team = some t)
    (seen : (t.macros.getD mg Macro.reset).old = [])
    (done : ∀ x ∈ s.ops, x.team = team → x.id < id → ∀ off w z, x.kind ≠ .ink off mg w z) :
    s.macroView team mg index id = t.macros.getD mg Macro.reset := by
  have none' : s.inksInFlight team mg id = [] := by
    refine List.filterMap_eq_nil_iff.2 fun o ho => ?_
    obtain ⟨mem, older⟩ := List.mem_filter.1 ho
    obtain ⟨mine, before⟩ := Bool.and_eq_true_iff.1 older
    split
    next off m w z kind =>
      rw [if_neg]
      rintro rfl
      exact done o mem (beq_iff_eq.1 mine) (of_decide_eq_true before) off w z kind
    next => rfl
  rw [State.macroView, none', h, Option.getD_some, seen]
  rfl

/-- A byte of a tile is the byte of the scratchpad where none may still be seen as it was. -/
theorem State.nibByte_settled {s : State} (olds : s.mem.olds = []) (team o : Nat) : s.nibByte [] team o = memByte s (scratchLoc team o) := by
  have none' : s.mem.unseen none (scratchLoc team o) = [] := by rw [Memory.unseen, olds, List.filter_nil]
  rw [State.nibByte, State.scratchByte, none']
  rfl

section
variable {s : State} (poison : s.mem.poison = []) (bytes : s.mem.badBytes = []) (alive : s.mem.dead = none)
include poison bytes alive

/-- No byte of the scratchpad is in error. -/
theorem State.scratchBad_sound (team o : Nat) : s.scratchBad team o = false := by
  simp [State.scratchBad, Memory.poisoned, Memory.sectorPoisoned, poison, bytes, alive]

variable (olds : s.mem.olds = [])
include olds

/-- A row of a tile, little-endian, with its scale codes behind the elements of the tile (R182). -/
theorem State.tileRow_settled (team off : Nat) (w : Word32) (L : Nat) : s.tileRow team off w [] L =
    ⟨leNat (tabList (fun x => memByte s (scratchLoc team x)) (off + mmasRow w * L) (mmasRow w)),
      if slotScaled w then leNat (tabList (fun x => memByte s (scratchLoc team x)) (off + 64 * mmasRow w + mmasBlocks w * L) (mmasBlocks w))
      else 0, [], []⟩ := by
  have read : s.nibByte [] team = fun x => memByte s (scratchLoc team x) := funext (State.nibByte_settled olds team)
  have sound (l : List Nat) : (l.any fun _ => false) = false := by simp
  simp only [State.tileRow, read, State.scratchBad_sound poison bytes alive, sound, List.filter_false, ite_self]

end

/-! ### MMAS -/

section
variable {s : State} {op : Nat} {o : EngineOp} (found : s.ops.find? (fun x => x.id == op) = some o)
include found

theorem exec_mmasComplete_ready {off mg : Nat} {q : BitVec 2} {a b : Word32} {old : List (Nat × Byte)} (kind : o.kind = .mmas off q mg a b old)
    (ready : s.mmasReady o q mg a b = true) : exec (.mmasComplete op) s = .next (s.mmasDone o off q mg a b old) := by
  simp only [exec_mmasComplete, execMmasComplete, found, kind, ready, if_true, done_eq]

theorem exec_inkComplete_ready {off mg : Nat} {w : Word32} {zeroed : Bool} (kind : o.kind = .ink off mg w zeroed)
    (ready : s.inkReady o mg = true) : exec (.inkComplete op) s = .next (s.inkDone o off mg w zeroed) := by
  simp only [exec_inkComplete, execInkComplete, found, kind, ready, if_true, done_eq]

end

section
variable {s : State} {o : EngineOp} {off : Nat} {q : BitVec 2} {mg : Nat} {a b : Word32} {old : List (Nat × Byte)}

/-- An MMAS whose group has left changes no group (R182). -/
theorem State.mmasDone_left (left : (s.dropOp o.id).opGroup o = none) :
    s.mmasDone o off q mg a b old = (s.dropOp o.id).updPoint o.team o.point 0 (-(o.total : Int)) := by
  unfold State.mmasDone
  simp only [left]

/-- An MMAS whose quarter no instruction has written since its issue leaves what its job does (R182). -/
theorem State.mmasDone_group {g : Group} (stands : (s.dropOp o.id).opGroup o = some g) : ∃ (after : Group) (incs : List Incident),
    s.mmasDone o off q mg a b old = (State.reportAll incs
      ({ (s.dropOp o.id).modGroup o.core o.slot (fun _ => after) with tick := s.tick + 1 } : State)).updPoint o.team o.point 0 (-(o.total : Int)) ∧
    (g.bad = [] → o.ahead = [] → old = [] → (∀ e ∈ g.unseen, e.op = o.id → e.starts.length ≤ 1) →
      ∃ unseen, after = { (g.perform o.ctx (s.macroView o.team mg g.index o.id)
        ⟨q.toNat, mg, a, b, laneRows g.live fun L => s.tileRow o.team off a [] L⟩ none).1 with unseen := unseen }) := by
  unfold State.mmasDone
  simp only [stands]
  refine ⟨_, _, rfl, fun hb ahead none' few => ?_⟩
  have quiet : writtenLanes (((g.unseen.find? fun u => u.op == o.id).map (·.starts)).getD []) = 0 := by
    cases found : g.unseen.find? fun u => u.op == o.id with
    | none => rfl
    | some u =>
      have one := few u (List.mem_of_find?_eq_some found) (beq_iff_eq.1 (List.find?_some found :))
      rw [Option.map_some, Option.getD_some, writtenLanes, List.drop_eq_nil_of_le one]
      rfl
  subst none'
  simp only [quiet, if_true, Group.settleQuarter, State.macroView_dropOp, State.tileView, ahead, List.isEmpty_nil, List.filter_nil]
  exact ⟨_, rfl⟩

end

theorem Group.perform_isAt {g : Group} (hb : g.bad = []) (ctx : CtxId) (B : Macro) (job : MatJob) (core : CoreId) (slot : SlotId) :
    (g.perform ctx B job none).1.isAt core slot = g.isAt core slot := by
  have flags (x : Group) (f : Flags) : (x.orFlags f).isAt core slot = x.isAt core slot := rfl
  rw [Group.perform_sound hb, flags, Group.multiply_eq, flags, Group.setAs_eq]
  generalize g.setAs _ _ _ _ = x
  rfl

section
variable {s : State} {o : EngineOp}

/-- An MMAS ends its operation, and leaves in each lane of LIVE the accumulators of its quarter (R57, R182). -/
theorem State.mmasDone_leaves (off : Nat) (q : BitVec 2) (mg : Nat) (a b : Word32) (old : List (Nat × Byte)) :
    ∃ u : State, s.mmasDone o off q mg a b old = u.updPoint o.team o.point 0 (-(o.total : Int)) ∧
      u.ops = s.ops.filter (fun x => x.id != o.id) ∧ u.teams = s.teams ∧
      ∀ g, (s.dropOp o.id).opGroup o = some g → g.bad = [] → o.ahead = [] → old = [] →
        (∀ e ∈ g.unseen, e.op = o.id → e.starts.length ≤ 1) →
        let row := fun (L : Nat) => (s.tileRow o.team off a [] L)
        let job : MatJob := ⟨q.toNat, mg, a, b, (lanesOf g.live).map fun L => (L, row L)⟩
        ∃ after, u.groupAt o.core o.slot = some after ∧ ∀ i L, after.acc i L =
          if i / 16 = q.toNat ∧ g.live.getLsbD L = true then
            (accumulate (s.macroView o.team mg g.index o.id) job (row L) (i % 16) (g.acc i L)).1 else g.acc i L := by
  cases stands : (s.dropOp o.id).opGroup o with
  | none => exact ⟨_, State.mmasDone_left stands, rfl, rfl, fun g h => by cases h⟩
  | some g =>
    obtain ⟨after, incs, done, result⟩ := State.mmasDone_group (off := off) (q := q) (mg := mg) (a := a) (b := b) (old := old) stands
    refine ⟨_, done, State.reportAll_ops .., State.reportAll_teams .., fun g' same hb ahead none' few => ?_⟩
    cases same
    obtain ⟨unseen, eq⟩ := result hb ahead none' few
    have there := State.groupAt_of_opGroup stands
    have here := Group.perform_isAt hb o.ctx (s.macroView o.team mg g.index o.id)
      ⟨q.toNat, mg, a, b, laneRows g.live fun L => s.tileRow o.team off a [] L⟩ o.core o.slot
    have written := Group.acc_perform hb o.ctx (s.macroView o.team mg g.index o.id)
      ⟨q.toNat, mg, a, b, laneRows g.live fun L => s.tileRow o.team off a [] L⟩ rfl q.isLt
    generalize (g.perform _ _ _ none).1 = performed at eq here written
    subst eq
    refine ⟨{ performed with unseen := unseen }, ?_, written⟩
    rw [State.groupAt_eq, State.reportAll_g, State.reportAll_others]
    exact (State.groupAt_eq ..).symm.trans (State.groupAt_modGroup
      (f := fun _ => { performed with unseen := unseen }) (fun x _ => here.trans (State.groupAt_isAt there)) there)

theorem State.orFlagsOf_keeps (s : State) (o : EngineOp) (f : Flags) : (s.orFlagsOf o f).ops = s.ops ∧ (s.orFlagsOf o f).teams = s.teams := by
  unfold State.orFlagsOf; split <;> exact ⟨rfl, rfl⟩

/-- An INK ends its operation, and leaves the columns of its tile (R55, R179). -/
theorem State.inkDone_leaves (off mg : Nat) (w : Word32) (zeroed : Bool) :
    ∃ u : State, s.inkDone o off mg w zeroed = u.updPoint o.team o.point 0 (-(o.total : Int)) ∧
      u.ops = s.ops.filter (fun x => x.id != o.id) ∧
      ∀ team, s.teamOf o.team = some team → mg < team.macros.length → zeroed = false → ∃ after, u.teamOf o.team = some after ∧
        (after.macros.getD mg Macro.reset).cells =
          (((s.dropOp o.id).tileView o off).inkMacro o.team off w (team.macros.getD mg Macro.reset)).1.cells := by
  unfold State.inkDone
  dsimp only
  generalize made : ((s.dropOp o.id).tileView o off).inkMacro o.team off w _ = r
  obtain ⟨loaded, failed⟩ := r
  dsimp only
  refine ⟨_, rfl, ?_, fun team known within loads => ?_⟩
  · rw [(State.orFlagsOf_keeps ..).1, State.reportAll_ops]; rfl
  · have same : (s.dropOp o.id).teamOf o.team = some team := known
    rw [same, Option.getD_some] at made
    rw [made, loads, State.teamOf, (State.orFlagsOf_keeps ..).2, State.reportAll_teams]
    refine ⟨_, State.teamOf_modTeam same fun _ => rfl, ?_⟩
    rw [List.getD_eq_getElem _ _ (by rw [List.length_set]; exact within), List.getElem_set_self]
    rfl

end

end Sys2Proof.Machine
end

section
/-! A sector of a copy written (R173, R313). -/
namespace Sys2Proof.Machine
open Sys2Proof.Safety
-- One proof at a time: proofs elaborated side by side each take a thread and its stack.
set_option Elab.async false

section
variable {s : State} {op : Nat} {o : EngineOp} {c : CopyShape} (kind : o.kind = .copy c)
  (turn : s.ops.find? (fun x => x.id == op && x.held.isNone && x.alWait.isNone && x.pos < x.total) = some o)
include kind turn

/-- The bytes moved are subtracted, but for those that wait, and the last performed ends the operation (R173). -/
theorem exec_copySectorWritten_moved {t : State} {n : Nat} (moved : s.copySector o c (.copy o.core o.slot o.pc) = .moved t n) :
    let u := t.modOp op fun _ => { o with pos := o.pos + n }
    exec (.copySectorWritten op) s = .next ((if o.pos + n = o.total ∧ u.copyPending op = false then u.dropOp op else u).updPoint
      o.team o.point 0 (-((n - (t.copyWaiting op - s.copyWaiting op) : Nat) : Int))) := by
  have found := List.find?_some turn
  obtain ⟨⟨⟨rfl, _⟩, _⟩, _⟩ : ((o.id = op ∧ o.held.isNone) ∧ o.alWait.isNone) ∧ o.pos < o.total := by simpa using found
  simp only [exec_copySectorWritten, execCopySectorWritten, turn, kind, moved, done_eq, State.copyWritten, Bool.and_eq_true, decide_eq_true_eq,
    Bool.not_eq_true']

/-- A copy that fails ends with an error flip (R173). -/
theorem exec_copySectorWritten_stopped {t : State} {code va : Nat} {incs : List Incident}
    (stopped : s.copySector o c (.copy o.core o.slot o.pc) = .stopped t code va incs) :
    exec (.copySectorWritten op) s = .next (t.copyStops o code va incs) := by
  simp only [exec_copySectorWritten, execCopySectorWritten, turn, kind, stopped, done_eq]

theorem exec_copySectorWritten_waits {t : State} (waits : s.copySector o c (.copy o.core o.slot o.pc) = .waits t) :
    exec (.copySectorWritten op) s = .next t := by
  simp only [exec_copySectorWritten, execCopySectorWritten, turn, kind, waits, done_eq]

end

section
variable {s : State} {op : Nat} {o : EngineOp} {c : CopyShape} {j : JournalId} {seq : Nat} {corr : Word32}
  {who : Option (Word × Nat × Bool)} {da dv : Word} (kind : o.kind = .journalCopy c j seq corr who da dv)
  (turn : s.ops.find? (fun x => x.id == op && x.held.isNone && x.alWait.isNone) = some o)
include kind turn

/-- The done word of a copy of a journal whose bytes are all moved (R313). -/
theorem exec_journalCopySector_done (all : o.total ≤ o.pos) : exec (.journalCopySector op) s = .next ((s.journalDone o).acceptBads j) := by
  simp only [exec_journalCopySector, execJournalCopySector, turn, kind, if_pos all, done_eq]

/-- A sector of a copy of a journal that is not its last notifies (R313). -/
theorem exec_journalCopySector_moved (more : o.pos < o.total) {t : State} {n : Nat} (moved : s.copySector o c (.journal corr) = .moved t n)
    (unended : o.pos + n ≠ o.total) : exec (.journalCopySector op) s =
      .next (((t.modOp op fun x => { x with pos := x.pos + n }).notify o (n - (t.copyWaiting op - s.copyWaiting op))).acceptBads j) := by
  simp only [exec_journalCopySector, execJournalCopySector, turn, kind, if_neg more.not_ge, moved, if_neg unended, done_eq]

end

end Sys2Proof.Machine
end

section
/-! A96: patterns as signed codes of its scale, and one rounding into it (R49, R50). -/
namespace Sys2Proof.Machine
open Sys2Proof.Safety
-- One proof at a time: proofs elaborated side by side each take a thread and its stack.
set_option Elab.async false

/-! ### Values -/

/-- The code of the greatest magnitude of A96; every code above it is a NaN. -/
def a96Top : ℕ := 511 * 2 ^ 86 - 1

/-- A pattern of A96 from its sign and its code. -/
def a96Bits (n : Bool) (c : ℕ) : Acc := BitVec.ofNat 96 ((if n then 2 ^ 95 else 0) + c)

theorem a96Value_isNan (x : Acc) : (a96Value x).isNan = false ↔ x.toNat % 2 ^ 95 ≤ a96Top := by
  have exponent : field x.toNat 86 9 = x.toNat % 2 ^ 95 / 2 ^ 86 := by rw [field]; omega
  simp only [a96Value, exponent]
  have small : x.toNat % 2 ^ 95 < 2 ^ 95 := Nat.mod_lt _ (Nat.two_pow_pos _)
  generalize x.toNat % 2 ^ 95 = c at small ⊢
  rw [a96Top]
  split
  next nan => exact ⟨(nomatch ·), fun h => by omega⟩
  next number =>
    refine ⟨fun _ => by omega, fun _ => ?_⟩
    split <;> rfl

/-- The value of a pattern that is no NaN (R49). -/
theorem numVal_a96Value {x : Acc} (h : x.toNat % 2 ^ 95 ≤ a96Top) :
    numVal (a96Value x) = sgn (x.getLsbD 95) * gridVal ℚ 86 255 (x.toNat % 2 ^ 95) := by
  have exponent : field x.toNat 86 9 = x.toNat % 2 ^ 95 / 2 ^ 86 := by rw [field]; omega
  have fraction : field x.toNat 0 86 = x.toNat % 2 ^ 95 % 2 ^ 86 := by rw [field]; omega
  have sign : (field x.toNat 95 1 == 1) = x.getLsbD 95 := by
    rw [BitVec.getLsbD, Nat.testBit_eq_decide_div_mod_eq, field]; rfl
  have small : ¬x.toNat % 2 ^ 95 / 2 ^ 86 = 511 := by rw [a96Top] at h; omega
  generalize x.toNat % 2 ^ 95 = c at *
  simp only [a96Value, exponent, fraction, sign, if_neg small]
  split
  next zero =>
    rw [numVal_fin, gridVal, if_pos (by omega), Nat.mod_eq_of_lt (by omega)]
    norm_num
  next normal =>
    rw [numVal_fin, gridVal, if_neg (by omega)]
    congr 3
    push_cast
    ring

section
variable {n : Bool} {c : ℕ} (h : c ≤ a96Top)
include h

theorem a96Bits_toNat : (a96Bits n c).toNat = (if n then 2 ^ 95 else 0) + c := by
  rw [a96Bits, BitVec.toNat_ofNat, Nat.mod_eq_of_lt]
  rw [a96Top] at h
  split <;> omega

theorem a96Bits_code : (a96Bits n c).toNat % 2 ^ 95 = c := by
  rw [a96Bits_toNat h]
  rw [a96Top] at h
  split <;> omega

theorem a96Bits_sign : (a96Bits n c).getLsbD 95 = n := by
  rw [BitVec.getLsbD, Nat.testBit_eq_decide_div_mod_eq, a96Bits_toNat h]
  rw [a96Top] at h
  cases n <;> simp <;> omega

theorem a96Bits_even : (a96Bits n c).getLsbD 0 = false ↔ c % 2 = 0 := by
  rw [BitVec.getLsbD, Nat.testBit_eq_decide_div_mod_eq, a96Bits_toNat h, decide_eq_false_iff_not]
  split <;> omega

theorem numVal_a96Bits : numVal (a96Value (a96Bits n c)) = sgn n * gridVal ℚ 86 255 c := by
  have code := a96Bits_code (n := n) h
  rw [numVal_a96Value (by rwa [code]), code, a96Bits_sign h]

end

/-- The greatest magnitude, and the next of the scale, which is out of range (R50). -/
theorem gridVal_a96Top : gridVal ℚ 86 255 a96Top = (2 - (2 : ℚ) ^ (-86 : ℤ)) * 2 ^ 255 ∧ gridVal ℚ 86 255 (a96Top + 1) = 2 ^ 256 := by
  constructor <;> norm_num [gridVal, a96Top]

theorem a96Pack_eq (neg : Bool) (k : ℕ) (q : ℤ) : a96Pack neg k q = a96Bits neg (gridPack 86 255 k q) := by
  unfold a96Pack gridPack a96Bits
  dsimp only
  split
  · rfl
  · split
    · rw [show q + 1 + (86 : ℕ) + (255 : ℕ) = q + 342 by push_cast; ring]
    · rw [show q + (86 : ℕ) + (255 : ℕ) = q + 341 by push_cast; ring, Nat.add_assoc]

/-! ### One rounding -/

/-- The exponent of a rounded count of quanta passes the range exactly where its code passes the greatest (R50). -/
theorem a96_overflows {k : ℕ} {q : ℤ} (on : OnGrid 86 255 k q) (hk : k ≤ 2 ^ (86 + 1)) :
    255 < (if k = 2 ^ 87 then q + 87 else q + 86) ↔ a96Top < gridPack 86 255 k q := by
  obtain ⟨least, normal⟩ := on
  push_cast at least normal
  rw [gridPack, a96Top]
  rcases lt_trichotomy k (2 ^ 87) with below | first | above
  · rw [if_neg below.ne]
    split
    · omega
    · rw [if_neg (by omega)]
      have exponent : ((q + (86 : ℕ) + (255 : ℕ)).toNat : ℤ) = q + 341 := by omega
      omega
  · rw [if_pos first, if_neg (by omega), if_pos first]
    have exponent : ((q + 1 + (86 : ℕ) + (255 : ℕ)).toNat : ℤ) = q + 342 := by omega
    omega
  · omega

/-- A count of quanta is subnormal exactly where its code is. -/
theorem gridPack_subnormal {fb bias k : ℕ} {q : ℤ} (on : OnGrid fb bias k q) : gridPack fb bias k q < 2 ^ fb ↔ k < 2 ^ fb := by
  obtain ⟨least, _⟩ := on
  have reaches {E : ℤ} (h : 1 ≤ E) : 2 ^ fb ≤ E.toNat * 2 ^ fb := Nat.le_mul_of_pos_left _ (by omega)
  rw [gridPack]
  split
  next below => exact Iff.rfl
  next normal =>
    refine iff_of_false (not_lt.2 ?_) normal
    split
    · exact reaches (by omega)
    · exact (reaches (by omega)).trans (Nat.le_add_right ..)

/-- The code of a magnitude Y rounded in the quantum of its binade: beyond the greatest exactly where Y is nearer to the next of the
scale, else the nearest; and whether it is inexact (R50). -/
theorem a96_code {neg : Bool} {m : ℕ} {e : ℤ} (hm : m ≠ 0) {q : ℤ} (hq : gridQuantum 86 255 (binade m e) = q) {r : ℕ × Bool}
    (hr : roundTo 0 neg m e q = r) :
    let Y : ℚ := m * 2 ^ e
    let c := gridPack 86 255 r.1 q
    OnGrid 86 255 r.1 q ∧ r.1 ≤ 2 ^ (86 + 1) ∧ (a96Top < c ↔ (2 - (2 : ℚ) ^ (-87 : ℤ)) * 2 ^ 255 ≤ Y) ∧
      (c ≤ a96Top → NearestEven (gridVal ℚ 86 255) a96Top Y c) ∧ (r.2 = true ↔ gridVal ℚ 86 255 c ≠ Y) := by
  intro Y c
  have mono := gridVal_strictMono (α := ℚ) 86 255
  have rises := mono.strictMonoOn (Set.Iic a96Top)
  obtain ⟨top, next⟩ := gridVal_a96Top
  have middle : gridVal ℚ 86 255 a96Top + gridVal ℚ 86 255 (a96Top + 1) = 2 * ((2 - (2 : ℚ) ^ (-87 : ℤ)) * 2 ^ 255) := by
    rw [top, next]; norm_num
  have between : gridVal ℚ 86 255 a96Top < gridVal ℚ 86 255 (a96Top + 1) := mono (Nat.lt_succ_self _)
  have odd : (a96Top % 2 == 1) = true := by decide
  obtain ⟨b, lo, hi, inexact, result, on, most⟩ :=
    gridRound (fb := 86) (bias := 255) (Y := Y) (show 0 ≤ 5 by omega) neg (by omega) hm (.inl rfl)
  rw [hq, hr] at inexact result on most
  have rounded : (a96Top < c ↔ (2 - (2 : ℚ) ^ (-87 : ℤ)) * 2 ^ 255 ≤ Y) := by
    rcases lt_trichotomy b a96Top with below | rfl | above
    · have small : Y < gridVal ℚ 86 255 a96Top := hi.trans_le (mono.monotone below)
      have within : c ≤ b + 1 := by rcases result with ⟨eq, _⟩ | ⟨eq, _⟩ <;> exact eq.le.trans (by omega)
      exact iff_of_false (by omega) (by linarith)
    · have goes : GoesUp 0 neg (a96Top % 2 == 1) (gridVal ℚ 86 255 a96Top) (gridVal ℚ 86 255 (a96Top + 1)) Y ↔
          (2 - (2 : ℚ) ^ (-87 : ℤ)) * 2 ^ 255 ≤ Y := by
        refine ⟨fun ⟨_, tie, _⟩ => ?_, fun far => ⟨by linarith, fun _ => ?_, by omega, by omega, by omega, by omega⟩⟩
        · rcases tie rfl with far | ⟨far, _⟩ <;> linarith
        · rcases far.lt_or_eq with far | far
          · exact .inl (by linarith)
          · exact .inr ⟨by linarith, odd⟩
      rw [← goes]
      rcases result with ⟨eq, stays⟩ | ⟨eq, up⟩
      · exact iff_of_false (eq.le.not_gt) stays
      · exact iff_of_true ((Nat.lt_succ_self _).trans_eq eq.symm) up
    · have large : gridVal ℚ 86 255 (a96Top + 1) ≤ Y := (mono.monotone above).trans lo
      have beyond : b ≤ c := by rcases result with ⟨eq, _⟩ | ⟨eq, _⟩ <;> exact le_trans (by omega) eq.ge
      exact iff_of_true (by omega) (by linarith)
  refine ⟨on, most, rounded, fun within => ?_, ?_⟩
  · rcases le_or_gt Y (gridVal ℚ 86 255 a96Top) with le | gt
    · exact ((gridRound_within (show 0 ≤ 5 by omega) (by omega) hm (.inl rfl) le hq hr).1).even rfl
    · have last : c = a96Top := by
        have : a96Top < b + 1 := mono.lt_iff_lt.1 (gt.trans hi)
        have : b ≤ c := by rcases result with ⟨eq, _⟩ | ⟨eq, _⟩ <;> exact le_trans (by omega) eq.ge
        omega
      rw [last]
      exact NearestEven.top rises gt.le
  · rw [inexact]
    rcases result with ⟨eq, _⟩ | ⟨eq, up⟩
    · rw [show c = b from eq]
    · rw [show c = b + 1 from eq]
      exact iff_of_true up.1.ne hi.ne'

theorem roundA96_eq {neg : Bool} {m : ℕ} {e : ℤ} (hm : m ≠ 0) {q : ℤ} (hq : gridQuantum 86 255 (binade m e) = q) {r : ℕ × Bool}
    (hr : roundTo 0 neg m e q = r) : roundA96 neg m e =
      if a96Top < gridPack 86 255 r.1 q then (a96Bits neg a96Top, flSat)
      else (a96Bits neg (gridPack 86 255 r.1 q), flIf (r.2 && gridPack 86 255 r.1 q < 2 ^ 86) flUnf) := by
  obtain ⟨on, most, -⟩ := a96_code (neg := neg) hm hq hr
  have quantum : (if binade m e < -254 then -254 else binade m e) - 86 = q := hq
  unfold roundA96
  rw [if_neg hm]
  dsimp only
  rw [quantum, hr]
  obtain ⟨k, inexact⟩ := r
  dsimp only
  have greatest : BitVec.ofNat 96 ((if neg = true then 2 ^ 95 else 0) + 510 * 2 ^ 86 + (2 ^ 86 - 1)) = a96Bits neg a96Top := by
    rw [a96Bits, a96Top, Nat.add_assoc, show 510 * 2 ^ 86 + (2 ^ 86 - 1) = 511 * 2 ^ 86 - 1 by norm_num]
  simp only [a96_overflows on most, gridPack_subnormal on, a96Pack_eq, greatest]

/-- An exact zero is +0 (R50). -/
theorem roundedA96_zero : RoundedA96 0 (0, 0) := by
  have value : a96Value 0 = .fin false 0 (-340) := by decide
  have zero : numVal (a96Value 0) = 0 := by rw [value, numVal_eq_zero]
  refine ⟨by decide, fun _ => rfl, fun h => absurd h (lt_irrefl _), fun h => absurd h (lt_irrefl _),
    fun _ => ⟨fun p _ => ?_, ?_⟩, fun h => ?_⟩
  · rw [zero, sub_zero, abs_zero]
    exact ⟨abs_nonneg _, fun _ _ => rfl⟩
  · rw [if_neg fun h => h.1 zero]
  · norm_num at h

/-- RoundA96 gives the exact value rounded once into A96 (R50). -/
theorem roundedA96_round (neg : Bool) (m : ℕ) (e : ℤ) : RoundedA96 (numVal (.fin neg m e)) (roundA96 neg m e) := by
  rcases Nat.eq_zero_or_pos m with rfl | hm
  · rw [numVal_eq_zero.2 rfl]
    exact roundedA96_zero
  obtain ⟨q, hq⟩ : ∃ q, gridQuantum 86 255 (binade m e) = q := ⟨_, rfl⟩
  obtain ⟨r, hr⟩ : ∃ r, roundTo 0 neg m e q = r := ⟨_, rfl⟩
  obtain ⟨on, most, beyond, nearest, inexact⟩ := a96_code (neg := neg) hm.ne' hq hr
  rw [roundA96_eq hm.ne' hq hr]
  generalize gridPack 86 255 r.1 q = c at beyond nearest inexact ⊢
  have mono := gridVal_strictMono (α := ℚ) 86 255
  have nonneg := gridVal_nonneg (α := ℚ) 86 255
  obtain ⟨top, -⟩ := gridVal_a96Top
  have pos : (0 : ℚ) < m * 2 ^ e := mul_pos (Nat.cast_pos.2 hm) (two_zpow_pos e)
  rw [numVal_fin]
  generalize (m : ℚ) * 2 ^ e = Y at beyond nearest inexact pos ⊢
  have abs_eq : |(sgn neg : ℚ) * Y| = Y := by rw [abs_sgn_mul, abs_of_pos pos]
  have nonzero : (sgn neg : ℚ) * Y ≠ 0 := mul_ne_zero (sgn_ne_zero neg) pos.ne'
  have negative (h : (sgn neg : ℚ) * Y < 0) : neg = true := by
    cases neg with
    | true => rfl
    | false => rw [sgn_false, one_mul] at h; exact absurd h pos.not_gt
  have positive (h : 0 < (sgn neg : ℚ) * Y) : neg = false := by
    cases neg with
    | true => rw [sgn_true, neg_one_mul] at h; linarith
    | false => rfl
  unfold RoundedA96
  rw [abs_eq]
  split
  next past =>
    have far := beyond.1 past
    have code := a96Bits_code (n := neg) (le_refl a96Top)
    have sign := a96Bits_sign (n := neg) (le_refl a96Top)
    refine ⟨(a96Value_isNan _).2 code.le, fun h => absurd h nonzero, fun h => sign.trans (negative h), fun h => sign.trans (positive h),
      fun near => absurd near far.not_gt, fun _ => ⟨?_, rfl⟩⟩
    dsimp only
    rw [numVal_a96Bits le_rfl, abs_sgn_mul, abs_of_nonneg (nonneg _), top]
  next within =>
    have hc := not_lt.1 within
    have near := lt_of_not_ge (mt beyond.2 within)
    have sign := a96Bits_sign (n := neg) hc
    have value := numVal_a96Bits (n := neg) hc
    refine ⟨(a96Value_isNan _).2 ((a96Bits_code hc).le.trans hc), fun h => absurd h nonzero, fun h => sign.trans (negative h),
      fun h => sign.trans (positive h), fun _ => ⟨fun p hp => ?_, ?_⟩, fun far => absurd near far.not_gt⟩
    · have code := (a96Value_isNan p).1 hp
      dsimp only
      rw [value, numVal_a96Value code]
      obtain ⟨least, ties⟩ := NearestEven.signed nonneg pos.le neg (gridVal_zero 86 255) (nearest hc) code (p.getLsbD 95)
      exact ⟨least, fun ne tie => (a96Bits_even hc).2 (ties ne tie)⟩
    · have differs : (sgn neg : ℚ) * gridVal ℚ 86 255 c ≠ sgn neg * Y ↔ r.2 = true := by
        rw [inexact, ne_eq, mul_right_inj' (sgn_ne_zero neg)]
      have small : |(sgn neg : ℚ) * gridVal ℚ 86 255 c| < (2 : ℚ) ^ (-254 : ℤ) ↔ c < 2 ^ 86 := by
        rw [abs_sgn_mul, abs_of_nonneg (nonneg c), show (-254 : ℤ) = 1 - (255 : ℕ) by norm_num, ← gridVal_smallest 86, mono.lt_iff_lt]
      dsimp only
      rw [value]
      simp only [differs, small, flIf, Bool.and_eq_true, decide_eq_true_eq]

/-- An accumulator that is no NaN plus D · 2^T, rounded once (R50, R57). -/
theorem roundedA96_add {x : Acc} (h : (a96Value x).isNan = false) (d t : ℤ) :
    RoundedA96 (numVal (a96Value x) + d * (2 : ℚ) ^ t) (a96Add x d t) := by
  have finite : (a96Value x).isInf = false := by
    unfold a96Value
    dsimp only
    split
    · rfl
    · split <;> rfl
  obtain ⟨n, m, e, eq⟩ := exists_fin h finite
  have sum := (numVal_exactAdd 0 n m e (d < 0) d.natAbs t).1
  have addend : numVal (.fin (d < 0) d.natAbs t) = d * (2 : ℚ) ^ t := by
    have := numVal_scale (numOfInt d) t
    rwa [numVal_numOfInt, numOfInt, Num.scale, zero_add] at this
  rw [addend] at sum
  unfold a96Add
  rw [eq]
  dsimp only
  rw [← sum]
  exact roundedA96_round ..

end Sys2Proof.Machine
end

section
/-! One accumulator through the K-blocks of a row (R57). -/
namespace Sys2Proof.Machine
open Sys2Proof.Safety
-- One proof at a time: proofs elaborated side by side each take a thread and its stack.
set_option Elab.async false

/-- What K-block j of a row, the one numbered `block` in the B operand, makes of an accumulator and the flags so far (R55 to R57). -/
def BlockStep (M : Macro) (job : MatJob) (row : ARow) (n j block : Nat) (st r : Acc × Flags) : Prop :=
  let code := slotCode job.slotA
  let wide := slotWide job.slotB
  let cols := if wide then 32 else 64
  let column := if wide then 16 * (job.q % 2) + n else 16 * job.q + n
  let B := M.cols.getD (cols * block + column) KCol.reset
  let cA := if slotScaled job.slotA then field row.scales (8 * j) 8 else 0x7F
  let cB := if slotScaled job.slotB then B.scale.toNat else 0x7F
  let xs := (List.range 32).map fun k => (matElem code).decode false (field row.bits (matBits code * (32 * j + k)) (matBits code))
  (blockInts code 15 xs = none ∨ B.nan = true ∨ cA = 0xFF ∨ cB = 0xFF → r = (a96Nan, st.2 ||| flScaleNan)) ∧
  ∀ as eA, blockInts code 15 xs = some (as, eA) → B.nan = false → cA ≠ 0xFF → cB ≠ 0xFF →
    ((a96Value st.1).isNan = true → r = st) ∧
    ((a96Value st.1).isNan = false →
      let D := ((List.range 32).map fun k => as.getD k 0 * M.cells.getD (cols * (32 * block + k) + column) 0).sum
      ∃ x, RoundedA96 (numVal (a96Value st.1) + D * (2 : Rat) ^ ((cA : Int) - 127 + ((cB : Int) - 127) + eA + B.eB)) x ∧
        r = (x.1, st.2 ||| x.2))

/-- Operands that hold no error enter as they are (R58). -/
theorem blockNums_sound (code bits j : Nat) : (blockNums code bits j fun _ => false) =
    (List.range 32).map fun k => (matElem code).decode false (field bits (matBits code * (32 * j + k)) (matBits code)) := rfl

theorem foldl_add_eq_sum {α : Type} (f : α → Int) (l : List α) : l.foldl (fun acc x => acc + f x) 0 = (l.map f).sum := by
  rw [List.sum_eq_foldl, List.foldl_map]

/-- One step or two, each of which keeps to a rule. -/
theorem exists_foldl_blocks {β : Type} (P : Nat → β → β → Prop) {F : β → Nat → β} (h : ∀ j st, P j st (F st j)) (x : β) (c : Prop)
    [Decidable c] : ∃ f : Nat → β → β, List.foldl F x (if c then [0] else [0, 1]) = (if c then f 0 x else f 1 (f 0 x)) ∧
      ∀ j st, P j st (f j st) := by
  refine ⟨fun j st => F st j, ?_, h⟩
  split <;> rfl

section
variable {M : Macro} {row : ARow} (cells : M.badCells = []) (cols : M.badCols = []) (failed : row.failed = [])
  (blocks : row.failedBlocks = [])
include cells cols failed blocks

/-- The K-blocks of a row one after the other: one of a format of 16 passes, two of another. -/
theorem accumulate_steps (job : MatJob) (n : Nat) (start : Acc) : ∃ f : Nat → Acc × Flags → Acc × Flags,
    accumulate M job row n start = (if aPasses (slotCode job.slotA) = some 16 then f 0 (start, 0) else f 1 (f 0 (start, 0))) ∧
    ∀ j st, BlockStep M job row n j ((if aPasses (slotCode job.slotA) = some 16 ∧ slotKhi job.slotA = true then 1 else 0) + j) st (f j st) := by
  unfold accumulate
  simp only [cols, failed, blocks, List.contains_nil, Bool.not_false, Bool.and_true, Bool.or_false, blockNums_sound, Macro.cell,
    Macro.col, macroCols, cells, Bool.false_eq_true, if_false, foldl_add_eq_sum, beq_iff_eq, Bool.and_eq_true]
  refine exists_foldl_blocks (fun j st r => BlockStep M job row n j _ st r) (fun j st => ?_) _ _
  generalize (if aPasses (slotCode job.slotA) = some 16 ∧ slotKhi job.slotA = true then 1 else 0) + j = block
  unfold BlockStep
  dsimp only
  generalize M.cols.getD _ KCol.reset = B
  generalize (if slotScaled job.slotA = true then _ else 0x7F) = cA
  generalize (if slotScaled job.slotB = true then _ else 0x7F) = cB
  split
  next lost => exact ⟨fun _ => rfl, fun as eA known => by rw [lost] at known; cases known⟩
  next as eA known =>
    rw [known]
    by_cases nan : B.nan = true ∨ cA = 0xFF ∨ cB = 0xFF
    · rw [if_pos (by simpa [or_assoc] using nan)]
      refine ⟨fun _ => rfl, fun _ _ _ h1 h2 h3 => absurd nan (by simp [h1, h2, h3])⟩
    · rw [if_neg (by simpa [or_assoc] using nan)]
      refine ⟨fun h => absurd h (by simpa using nan), fun as' eA' same _ _ _ => ⟨fun stays => if_pos stays, fun adds => ?_⟩⟩
      cases same
      refine ⟨_, roundedA96_add adds _ _, ?_⟩
      rw [if_neg (by rw [adds]; exact Bool.false_ne_true)]

/-- A row of a format of 16 passes is one K-block, that of KHI; another is both in order. -/
theorem accumulate_blocks (job : MatJob) (n : Nat) (start : Acc) :
    (aPasses (slotCode job.slotA) = some 16 →
      BlockStep M job row n 0 (if slotKhi job.slotA then 1 else 0) (start, 0) (accumulate M job row n start)) ∧
    (aPasses (slotCode job.slotA) ≠ some 16 →
      ∃ mid, BlockStep M job row n 0 0 (start, 0) mid ∧ BlockStep M job row n 1 1 mid (accumulate M job row n start)) := by
  obtain ⟨f, result, steps⟩ := accumulate_steps cells cols failed blocks job n start
  rw [result]
  refine ⟨fun sixteen => ?_, fun other => ?_⟩
  · simp only [sixteen, true_and, if_true] at steps ⊢
    exact steps 0 (start, 0)
  · simp only [other, false_and, if_false, Nat.zero_add] at steps ⊢
    exact ⟨_, steps 0 (start, 0), steps 1 _⟩

end

end Sys2Proof.Machine
end

section
/-! The integers of a K-block (R55, R56). -/
namespace Sys2Proof.Machine
open Sys2Proof.Safety
-- One proof at a time: proofs elaborated side by side each take a thread and its stack.
set_option Elab.async false

/-! ### AlignBlock -/

/-- The whole part of a magnitude scaled by a power of two. -/
theorem floor_mul_zpow (m : ℕ) (k : ℤ) : ⌊(m : ℚ) * 2 ^ k⌋ = ((if 0 ≤ k then m * pow2 k else m / pow2 (-k) : ℕ) : ℤ) := by
  split
  next up =>
    obtain ⟨j, rfl⟩ := Int.eq_ofNat_of_zero_le up
    rw [zpow_natCast, pow2, Int.toNat_natCast]
    exact_mod_cast Int.floor_natCast (R := ℚ) (m * 2 ^ j)
  next down =>
    obtain ⟨j, hj⟩ := Int.eq_ofNat_of_zero_le (show 0 ≤ -k by omega)
    rw [hj, pow2, Int.toNat_natCast, show k = -(j : ℤ) by omega, zpow_neg, zpow_natCast, ← div_eq_mul_inv]
    exact_mod_cast Rat.floor_natCast_div_natCast m (2 ^ j)

/-- A block that holds a NaN or an infinity has no integers. -/
theorem alignBlock_nan {xs : List Num} (h : ∃ x ∈ xs, x.isNan = true ∨ x.isInf = true) (w : ℕ) : alignBlock xs w = none := by
  unfold alignBlock
  exact if_pos (List.any_eq_true.2 (by simpa using h))

section
variable {xs : List Num} (finite : ∀ x ∈ xs, x.isNan = false ∧ x.isInf = false) (w : ℕ)
include finite

theorem any_nanInf_of_finite : (xs.any fun x => x.isNan || x.isInf) = false :=
  List.any_eq_false.2 fun x hx => by simp [finite x hx]

/-- A block of zeros. -/
theorem alignBlock_zero (zero : ∀ x ∈ xs, numVal x = 0) : alignBlock xs w = some (xs.map fun _ => 0, 0) := by
  unfold alignBlock
  rw [any_nanInf_of_finite finite, maxBinade_eq_none zero]
  rfl

/-- Each element of a block in units of its greatest binade, W bits wide, cut towards zero (R56). -/
theorem alignBlock_some (wide : 0 < w) {top : ℤ} (met : ∃ x ∈ xs, (2 : ℚ) ^ top ≤ |numVal x|)
    (below : ∀ x ∈ xs, |numVal x| < (2 : ℚ) ^ (top + 1)) :
    let floor := fun (x : Num) => ⌊|numVal x| * (2 : ℚ) ^ ((w : ℤ) - 1 - top)⌋
    alignBlock xs w = some (xs.map (fun x => if numVal x < 0 then -floor x else floor x), top - (w - 1)) := by
  intro floor
  have unit : ((w - 1 : ℕ) : ℤ) = w - 1 := by omega
  unfold alignBlock
  rw [any_nanInf_of_finite finite, maxBinade_eq_some met below]
  simp only [Bool.false_eq_true, if_false, unit]
  refine congrArg some (congrArg (·, _) (List.map_congr_left fun x hx => ?_))
  obtain ⟨n, m, e, rfl⟩ := exists_fin (finite x hx).1 (finite x hx).2
  have cut : floor (.fin n m e) = ((if 0 ≤ e + ((w : ℤ) - 1) - top then m * pow2 (e + ((w : ℤ) - 1) - top)
      else m / pow2 (-(e + ((w : ℤ) - 1) - top)) : ℕ) : ℤ) := by
    rw [← floor_mul_zpow]
    dsimp only [floor]
    rw [abs_numVal, mul_assoc, ← zpow_add₀ two_ne_zero, show e + ((w : ℤ) - 1 - top) = e + ((w : ℤ) - 1) - top by ring]
  dsimp only
  rw [← cut]
  cases n with
  | false =>
    have positive : ¬numVal (.fin false m e) < 0 := by
      rw [numVal_fin, sgn_false, one_mul]; exact not_lt.2 (mul_nonneg (Nat.cast_nonneg m) (two_zpow_pos e).le)
    rw [if_neg positive]; rfl
  | true =>
    rcases Nat.eq_zero_or_pos m with rfl | hm
    · have nothing : floor (.fin true 0 e) = 0 := by
        dsimp only [floor]
        rw [numVal_eq_zero.2 rfl, abs_zero, zero_mul, Int.floor_zero]
      simp [nothing]
    · have negative : numVal (.fin true m e) < 0 := by
        rw [numVal_fin, sgn_true, neg_one_mul]; exact neg_lt_zero.2 (mul_pos (Nat.cast_pos.2 hm) (two_zpow_pos e))
      rw [if_pos negative]; rfl

end

/-! ### The formats -/

theorem numOfInt_dyadic (k : ℤ) : (numOfInt k).dyadic.m = k := by
  have value := (numOfInt k).val_dyadic
  rw [numVal_numOfInt, Dyadic.val, show (numOfInt k).dyadic.e = 0 from rfl, zpow_zero, mul_one] at value
  exact_mod_cast value

/-- Integers stand for themselves (R55). -/
theorem blockInts_int {code : ℕ} (h : code = 0x10 ∨ code = 0x11 ∨ code = 0x12) (w : ℕ) (ks : List ℤ) :
    blockInts code w (ks.map numOfInt) = some (ks, 0) := by
  have same : (ks.map numOfInt).map (fun x => x.dyadic.m) = ks := by simp [Function.comp_def, numOfInt_dyadic]
  rcases h with rfl | rfl | rfl <;> exact congrArg (fun l => some (l, (0 : ℤ))) same

/-- The values of e2m1 are whole numbers of halves (R46). -/
theorem e2m1_halves (p : ℕ) : ∃ n m e, (matElem 0x20).decode false p = .fin n m e ∧ -1 ≤ e := by
  change ∃ n m e, miniValue 2 1 1 p = .fin n m e ∧ -1 ≤ e
  unfold miniValue
  dsimp only
  split
  · exact ⟨_, _, _, rfl, by norm_num⟩
  · exact ⟨_, _, _, rfl, by push_cast; omega⟩

/-- A number of halves, doubled, is a whole number. -/
theorem half_of_double (n : Bool) (m : ℕ) {e : ℤ} (h : -1 ≤ e) :
    let x := ((Num.fin n m e).scale 1).dyadic
    ((x.m * pow2 x.e / pow2 (-x.e) : ℤ) : ℚ) / 2 = numVal (.fin n m e) := by
  intro x
  have value : x.val = numVal (.fin n m e) * 2 := by rw [Num.val_dyadic, numVal_scale, zpow_one]
  have exponent : 0 ≤ x.e := by change 0 ≤ e + 1; omega
  have whole : pow2 (-x.e) = 1 := by rw [pow2, Int.toNat_of_nonpos (by omega), pow_zero]
  have power : (2 : ℚ) ^ x.e = pow2 x.e := by
    rw [pow2, Nat.cast_pow, Nat.cast_two, ← zpow_natCast, Int.toNat_of_nonneg exponent]
  rw [whole, Nat.cast_one, Int.ediv_one, Int.cast_mul, Int.cast_natCast, ← power]
  rw [Dyadic.val] at value
  rw [value, mul_div_cancel_right₀ _ two_ne_zero]

/-- The elements of e2m1 as halves (R55). -/
theorem blockInts_e2m1 (w : ℕ) (ps : List ℕ) :
    ∃ as : List ℤ, blockInts 0x20 w (ps.map fun p => (matElem 0x20).decode false p) = some (as, -1) ∧
      (as.map fun (k : ℤ) => (k : ℚ) / 2) = ps.map fun p => numVal ((matElem 0x20).decode false p) := by
  refine ⟨_, rfl, ?_⟩
  rw [List.map_map, List.map_map]
  refine List.map_congr_left fun p _ => ?_
  obtain ⟨n, m, e, eq, least⟩ := e2m1_halves p
  simp only [Function.comp_apply, eq]
  exact half_of_double n m least

theorem blockInts_aligned {code : ℕ} (h : code = 0x21 ∨ code = 0x22 ∨ code = 0x23 ∨ code = 0x30 ∨ code = 0x31) (w : ℕ) (xs : List Num) :
    blockInts code w xs = alignBlock xs w := by
  rcases h with rfl | rfl | rfl | rfl | rfl <;> rfl

end Sys2Proof.Machine
end

section
/-! The obligation of wakes and completions (R170, R173, R179, R181, R182, R233, R313). -/
namespace Sys2Proof.Machine
open Sys2Proof.Safety
-- One proof at a time: proofs elaborated side by side each take a thread and its stack.
set_option Elab.async false

section
variable {s u : State} {core : CoreId} {slot : SlotId} (focus : s.focus core slot = some u)
  (running : (u.ctxs.get u.ctxId).phase = .running)
include focus running

/-- A wait on a point ends when the phase differs from the token (R170). -/
theorem exec_waitWake_point {pt : Nat} {token : Bool} (status : u.g.status = .blocked (.point pt token)) :
    ((u.team.point pt).phase ≠ token → exec (.waitWake core slot) s =
      .next (({ u with g := { u.g with status := .ready } } : State).observe pt).retire) ∧
    ((u.team.point pt).phase = token → exec (.waitWake core slot) s = .next s) := by
  have holds := State.wakeHolds_point running status
  refine ⟨fun turned => ?_, fun same => exec_waitWake_stays focus (by rw [holds, same, bne_self_eq_false])⟩
  rw [exec_waitWake_wakes focus (by rw [holds, bne_iff_ne]; exact turned) (by rw [status]; exact fun _ => nofun), State.wake, status]

theorem exec_waitWake_waity {pt : Nat} {token : Bool} {C : Word} (status : u.g.status = .blocked (.waity pt token C)) :
    ((u.team.point pt).phase ≠ token → exec (.waitWake core slot) s =
      .next ((({ u with g := { u.g with status := .ready } } : State).observe pt).jump C)) ∧
    ((u.team.point pt).phase = token → exec (.waitWake core slot) s = .next s) := by
  have holds := State.wakeHolds_waity running status
  refine ⟨fun turned => ?_, fun same => exec_waitWake_stays focus (by rw [holds, same, bne_self_eq_false])⟩
  rw [exec_waitWake_wakes focus (by rw [holds, bne_iff_ne]; exact turned) (by rw [status]; exact fun _ => nofun), State.wake, status]

/-- A wait on a grid point ends when the arrival of its team is complete (R172). -/
theorem exec_waitWake_gridPoint {gv : Nat} {b : SReg} (status : u.g.status = .blocked (.gridPoint gv .wait b)) :
    ((u.grid.gvs.getD gv ⟨0, 0, []⟩).done = u.team.gvA.getD gv 0 → exec (.waitWake core slot) s =
      .next (({ u with g := { u.g with status := .ready } } : State).acquire .dev).retire) ∧
    ((u.grid.gvs.getD gv ⟨0, 0, []⟩).done ≠ u.team.gvA.getD gv 0 → exec (.waitWake core slot) s = .next s) := by
  have holds := State.wakeHolds_gridPoint running status
  refine ⟨fun done => ?_, fun waits => exec_waitWake_stays focus (by rw [holds, beq_eq_false_iff_ne]; exact waits)⟩
  rw [exec_waitWake_wakes focus (by rw [holds, beq_iff_eq]; exact done) (by rw [status]; exact fun _ => nofun), State.wake, status]

theorem exec_waitWake_immediate (status : u.g.status = .blocked .immediate) :
    exec (.waitWake core slot) s = .next ({ u with g := { u.g with status := .ready } } : State) := by
  rw [exec_waitWake_wakes focus (State.wakeHolds_immediate running status) (by rw [status]; exact fun _ => nofun), State.wake, status]

end

/-- The flags of an MMA's results, by accumulator and lane. -/
theorem State.drainMmas_flags {s : State} {x : MmaOp} (one : s.g.mmas = [x])
    (free : s.mmasAhead s.g.team x.id x.q x.mg x.slotA x.slotB = false) (seen : s.g.unseenQ x.q.toNat = false) (hb : s.g.bad = [])
    (sound : x.bad = []) {M : Macro} (view : s.macroView s.g.team x.mg s.g.index x.id = M) (cells : M.badCells = []) (cols : M.badCols = [])
    {k : Nat} (hk : k < 7) : s.drainMmas.g.fl.getLsbD k = true ↔ s.g.fl.getLsbD k = true ∨
      ∃ i < 64, ∃ L < 64, (i / 16 = x.q.toNat ∧ x.active.getLsbD L = true) ∧
        (accumulate M x.job (x.row L) (i % 16) (s.g.acc i L)).2.getLsbD k = true := by
  subst view
  rw [State.drainMmas_fl one free seen hb sound cells cols hk]
  have quarter := x.q.isLt
  refine or_congr Iff.rfl ⟨?_, ?_⟩
  · rintro ⟨n, hn, L, active, set⟩
    refine ⟨16 * x.q.toNat + n, by omega, L, BitVec.lt_of_getLsbD active, ⟨by omega, active⟩, ?_⟩
    rwa [show (16 * x.q.toNat + n) % 16 = n by omega]
  · rintro ⟨i, hi, L, _, ⟨here, active⟩, set⟩
    refine ⟨i % 16, by omega, L, active, ?_⟩
    rwa [show 16 * x.q.toNat + i % 16 = i by omega]

/-- Settles O42: the wakes by what the group waits for, the completions by what they end, the results of matrices by the K-blocks of a row,
and the integers of a block by its format. -/
theorem wakesAndCompletions : Obligations.WakesAndCompletions := by
  unfold Obligations.WakesAndCompletions
  refine ⟨fun s u core slot focus running => ?_, fun s core slot op o found => ⟨fun here => ?_, ?_, ?_, ?_⟩,
    fun s team mg index id off L w t ht => ⟨fun seen done => ?_, fun olds poison bytes alive => ?_⟩,
    fun M job row n start cells cols failed blocks => ?_, fun xs W wide => ⟨?_, fun finite => ⟨?_, ?_⟩⟩,
    fun code W xs ks ps => ⟨?_, ?_, ?_⟩⟩
  · refine ⟨fun pt token status => ?_, fun pt token C status => ?_, fun gv b status => ?_, fun status => ?_, fun n h r status held reply => ?_,
      fun status => ?_, fun reply reach => ?_⟩
    · exact exec_waitWake_point focus running status
    · exact exec_waitWake_waity focus running status
    · exact exec_waitWake_gridPoint focus running status
    · exact exec_waitWake_immediate focus running status
    · exact exec_waitWake_reply focus running status held reply
    · exact exec_waitWake_stays focus (State.wakeHolds_ready status)
    · exact exec_loadDataReturn_reached slot reply reach
  · refine ⟨_, exec_mmaComplete_drains here, rfl, State.drainMmas_ops s, State.drainMmas_empty, ?_⟩
    intro x M one free seen hb sound view cells cols
    refine ⟨fun i _ L _ => ?_, fun k hk => State.drainMmas_flags one free seen hb sound view cells cols hk⟩
    rw [State.drainMmas_acc one free seen hb i L, view]
    exact ⟨fun inside => if_pos inside, fun outside => if_neg outside⟩
  · intro off q mg a b old kind ready
    obtain rfl : o.id = op := by simpa using List.find?_some found
    obtain ⟨u, done, ops, teams, groups⟩ := State.mmasDone_leaves (s := s) (o := o) off q mg a b old
    refine ⟨u, (exec_mmasComplete_ready found kind ready).trans (congrArg _ done), ops, teams, ?_⟩
    intro g M stands view _ _ hb ahead none' _ _ _ _ few
    obtain ⟨after, there, written⟩ := groups g stands hb ahead none' few
    rw [view] at written
    exact ⟨after, there, fun i _ L _ => written i L⟩
  · intro off mg w zeroed kind ready
    obtain rfl : o.id = op := by simpa using List.find?_some found
    obtain ⟨u, done, ops, macros⟩ := State.inkDone_leaves (s := s) (o := o) off mg w zeroed
    exact ⟨u, (exec_inkComplete_ready found kind ready).trans (congrArg _ done), ops, macros⟩
  · refine ⟨fun c kind turn => ⟨fun t n moved => ?_, fun t code va incs stopped => ?_, fun t waits => ?_⟩,
      fun c j seq corr who da dv kind turn => ⟨fun all => ?_, fun more t n moved unended => ?_⟩⟩
    · exact exec_copySectorWritten_moved kind turn moved
    · exact exec_copySectorWritten_stopped kind turn stopped
    · exact exec_copySectorWritten_waits kind turn waits
    · exact exec_journalCopySector_done kind turn all
    · exact exec_journalCopySector_moved kind turn more moved unended
  · exact State.macroView_settled ht seen done
  · exact State.tileRow_settled poison bytes alive olds team off w L
  · exact accumulate_blocks cells cols failed blocks job n start
  · exact fun nan => alignBlock_nan nan W
  · exact alignBlock_zero finite W
  · exact fun top met below => alignBlock_some finite W wide met below
  · exact fun h => blockInts_int h W ks
  · exact fun _ => blockInts_e2m1 W ps
  · exact fun h => blockInts_aligned h W xs

end Sys2Proof.Machine
end
